-- ==== Sys2Proof/Word.lean ====
section
/-! DEFINITION. Bytes, register words and sparse collections: the plain data types the commands and the state are made of. -/

namespace Sys2Proof

/-- A byte on any interface (R8: multi-byte fields are little-endian). -/
abbrev Byte := BitVec 8

/-- A 32-bit register word (R265). -/
abbrev Word := BitVec 32

/-- A collection with one value for each index, most of which are equal: the default, and the indices that differ, ascending. -/
structure Sparse (α : Type) where
  /-- value of every index that is not listed -/
  dflt : α
  /-- the other indices with their values, ascending -/
  cells : List (Nat × α)
deriving DecidableEq, Repr

end Sys2Proof
end

