-- ==== Sys2Proof/Syntax.lean ====
section
/-! DEFINITION. The 207 commands of opcode_table.json as one inductive, with the operands each of them brings, and the types of those operands. -/

namespace Sys2Proof

/-- Source of a request (R236). -/
inductive Src where
  | spi | inband | twin
deriving DecidableEq, Repr

/-- Path of the Rope link (R229). -/
inductive Path where
  | host | twin
deriving DecidableEq, Repr

/-- A monitored supply (R413). -/
inductive Rail where
  | core | ser | ana | io | hv
deriving DecidableEq, Repr

/-- What a bank's ECC check of a word finds (R292). -/
inductive Ecc where
  | clean | corrected | uncorrectable
deriving DecidableEq, Repr

/-- An access to the common store by a master (R294, R302). -/
inductive AccOp where
  /-- a burst of words read -/
  | read (words : Nat)
  /-- a burst of words written -/
  | write (data : List (BitVec 64))
  /-- an atomic: OP 3 to 6 of R302 with its DATA1 and DATA0 -/
  | atomic (op : Nat) (data : BitVec 64)
  /-- the operation of the access window -/
  | window
deriving DecidableEq, Repr

/-- A request that a master presents to a bank (R299). -/
structure Claim where
  /-- master -/
  m : Nat
  /-- byte address of its first word -/
  addr : Nat
  /-- what it asks for -/
  op : AccOp
  /-- compose clocks since it was presented -/
  age : Nat
deriving DecidableEq, Repr

/-- A word of a lane: its four 10-bit code groups in order of arrival, each with its first bit as the most significant one (R192). -/
structure LaneWord where
  /-- symbol 0 -/
  g0 : Nat
  /-- symbol 1 -/
  g1 : Nat
  /-- symbol 2 -/
  g2 : Nat
  /-- symbol 3 -/
  g3 : Nat
deriving DecidableEq, Repr

/-- A symbol of the Rope link (R218): data, a control symbol of the table or K28.5 by its 8-bit code, or a code error. -/
inductive Sym where
  | data (b : Byte)
  | ctl (k : Nat)
  | bad
deriving DecidableEq, Repr

/-- A received symbol with its error flag (R193). -/
structure RxSym where
  /-- symbol -/
  sym : Sym
  /-- it came with a code or disparity error -/
  err : Bool
deriving DecidableEq, Repr

/-- The BOND marker of one lane (R206). -/
structure BondMark where
  /-- lane -/
  lane : Nat
  /-- arrival after the earliest marker, in ns -/
  delay : Nat
  /-- time of this lane's training, from its restart, in ms -/
  ms : Nat
  /-- the four words of the ANCHOR set -/
  set : List LaneWord
deriving DecidableEq, Repr

/-- Header of a request whose payload a row's operands give. -/
structure Hdr where
  /-- source -/
  src : Src
  /-- TAG -/
  tag : Nat
deriving DecidableEq, Repr

/-- A request that is executed: its source, TAG and payload (R239). -/
structure Rq where
  /-- source -/
  src : Src
  /-- TAG -/
  tag : Nat
  /-- payload bytes -/
  payload : List Byte
deriving DecidableEq, Repr

/-- What the comparators of one pixel show in a slot, where they differ from a sound pixel (R55). -/
structure PixFlags where
  /-- pixel -/
  pix : Nat
  /-- NOI: no current -/
  noi : Bool
  /-- HVD: high voltage drop -/
  hvd : Bool
  /-- HDL: headroom low -/
  hdl : Bool
deriving DecidableEq, Repr

/-- The conversions of a scan of one pixel (R110): ramp codes, NOI flags and the leakage mark. -/
structure PixScan where
  /-- conversion 1 at 1.0 uA: code -/
  c1 : Nat
  /-- conversion 2: code -/
  c2 : Nat
  /-- conversion 3: code -/
  c3 : Nat
  /-- V_F conversion: code -/
  vf : Nat
  /-- NOI in conversion 1 -/
  n1 : Bool
  /-- NOI in conversion 2 -/
  n2 : Bool
  /-- NOI in conversion 3 -/
  n3 : Bool
  /-- NOI in the V_F conversion -/
  nvf : Bool
  /-- leakage judged in the hold -/
  leak : Bool
deriving DecidableEq, Repr

/-- What a calibration measures (R350 to R352, R110, R112). -/
structure CalMeas where
  /-- sink-offset code found by the search, by wick -/
  sinkOfs : Sparse Int
  /-- scan result, by pixel -/
  scan : Sparse PixScan
  /-- wicks that fail the comparator check, ascending -/
  wickFail : List Nat
  /-- readings of the 36 sensors, in 1/8 degC, stored offsets applied -/
  sens : List Int
  /-- measured VLED in mV during the scan -/
  vledMv : Nat
deriving DecidableEq, Repr

/-- Where the built-in self-test failed (R47). -/
structure BistFail where
  /-- failing block: 0 link, 1 engine, 2 check, 3 wick, 4 store, 5 NVM, 6 control -/
  block : Nat
  /-- unit inside the block -/
  unit : Nat
  /-- failing address -/
  addr : Nat
  /-- pattern step -/
  step : Nat
  /-- number of failing units -/
  units : Nat
deriving DecidableEq, Repr

/-- An attempt of a lane has run for 50 ms, or LOS has persisted on it for 1 ms (R201). -/
structure AttemptEnd where
  /-- lane -/
  lane : Nat
  /-- LOS has persisted for 1 ms -/
  lostMs : Bool
deriving DecidableEq, Repr

/-- What the equaliser adaptation of a lane measures and reaches (R198, R217). -/
structure EqResult where
  /-- eye heights of the CTLE codes tried, in 4 mV units, in the order in which they are tried -/
  heights : List Nat
  /-- DFE taps 1 to 5, in 2 mV units -/
  taps : List Int
  /-- eye height at the end, in 4 mV units -/
  eyeH : Nat
  /-- eye width at the end, in 1/64 UI -/
  eyeW : Nat
deriving DecidableEq, Repr

/-- An event as a detector raises it (R327). -/
structure RawEvent where
  /-- event code -/
  code : Nat
  /-- level, for the events whose level the unit concerned sets -/
  level : Nat
  /-- parameter 0 -/
  p0 : Nat
  /-- parameter 1 -/
  p1 : Nat
  /-- parameter 2 -/
  p2 : Nat
  /-- parameter 3 -/
  p3 : Nat
deriving DecidableEq, Repr

/-- Work that an engine has put into a tile which it leaves unfinished at the flush point (R172). -/
structure PartTile where
  /-- engine -/
  engine : Nat
  /-- passes begun -/
  passes : Nat
  /-- compose clocks spent on passes -/
  busy : Nat
  /-- compose clocks spent waiting for store grants -/
  stall : Nat
deriving DecidableEq, Repr

/-- How the log memory failed (R385). -/
inductive LogFail where
  | writeVerify | uncorrectableRead
deriving DecidableEq, Repr

/-- The six operating modes (R31). -/
inductive Mode where
  | dormant | kindle | beam | pilot | belay | snuffed
deriving DecidableEq, Repr

/-- The three kinds of KINDLE (R44). -/
inductive Flavor where
  | full | quick | rekindle
deriving DecidableEq, Repr

/-- State of a layer's back buffer (R131). -/
inductive BackState where
  | empty | filling | fenced | ready
deriving DecidableEq, Repr

/-- What a compose shows (R35). -/
inductive Content where
  | none | layers | pilot | belay
deriving DecidableEq, Repr

/-- States of a receive lane (R201). -/
inductive LaneState where
  | disabled | detect | lock | align | adapt | bond | trained | laneDown | test | relock
deriving DecidableEq, Repr

/-- The commands of the device: one constructor for each row of opcode_table.json, in the table's order. -/
inductive Instr where
  /-- POWER_ON: rise: VDD_AO rises (true) or falls below its brown-out threshold; as0 as1: the address pins sampled at a rise (R409); 8-byte words of MRAM and of the scar area that hold an uncorrectable error from now on (R357) -/
  | powerOn (rise as0 as1 : Bool) (bad scarBad : List Nat)
  /-- RESET_N_ASSERT: the address pins sampled at RESET_N (R409) -/
  | resetNAssert (as0 as1 : Bool)
  /-- SUPPLY_DIP: the supply below its falling threshold -/
  | supplyDip (rail : Rail)
  /-- SUPPLY_LOSS_IN_S1: the supply that leaves its range -/
  | supplyLossInS1 (rail : Rail)
  /-- TEST_EN_ASSERT -/
  | testEnAssert
  /-- RESET_RELEASE -/
  | resetRelease
  /-- LDO_REGULATION -/
  | ldoRegulation
  /-- PLL_LOCK -/
  | pllLock
  /-- LIMRAL_READY -/
  | limralReady
  /-- ARRAY_BIAS_SETTLED: what the quick calibration measures (read only in a quick KINDLE) -/
  | arrayBiasSettled (m : CalMeas)
  /-- BIST_COMPLETE: none: passed -/
  | bistComplete (fail : Option BistFail)
  /-- NVM_LOAD_COMPLETE: what the power-up calibration measures (a full KINDLE or a re-kindle) -/
  | nvmLoadComplete (m : CalMeas)
  /-- CALIBRATION_COMPLETE: duration of the calibration in microseconds -/
  | calibrationComplete (us : Nat)
  /-- KINDLE_WORK_COMPLETE: time since P in microseconds -/
  | kindleWorkComplete (workUs : Nat)
  /-- KINDLE_TIMEOUT -/
  | kindleTimeout
  /-- LOG_SCAN_COMPLETE -/
  | logScanComplete
  /-- COMPOSE_LATCH -/
  | composeLatch
  /-- ENGINE_NEXT_TILE: engine; engines to whose queues its steal requests within the cluster and across clusters were put, where other requests may have emptied them since -/
  | engineNextTile (e : Nat) (near far : Option Nat)
  /-- TILE_RETIRED: engine; compose clocks since the latch; clocks this tile waited for store grants -/
  | tileRetired (e clocks stall : Nat)
  /-- SIG_READBACK_TILE: tile; pixels of it whose shadow word reads back as another word -/
  | sigReadbackTile (tile : Nat) (diff : List (Nat × Nat))
  /-- MAPPER_FLUSH_POINT: compose clocks since the latch; highest outstanding reads of each cluster; work put into tiles that are left unfinished -/
  | mapperFlushPoint (clocks : Nat) (outMax : List Nat) (part : List PartTile)
  /-- GREF_FINAL -/
  | grefFinal
  /-- SIGNATURES_FINAL -/
  | signaturesFinal
  /-- FRAME_LATCH: comparator flags of the slot that ends here; measured VLED in mV; microseconds since P (read at the end of a KINDLE); the boundary falls at least 200 us after the acceptance of the outstanding PIXEL_TEST -/
  | frameLatch (flags : List PixFlags) (vledMv totalUs : Nat) (testDue : Bool)
  /-- DIAG_VERDICTS_FINAL: pixels whose F and U state shows a parity error -/
  | diagVerdictsFinal (parity : List Nat)
  /-- SLOT_START: comparator flags of the slot that ends here; the conversions of a PIXEL_TEST that ran in it -/
  | slotStart (flags : List PixFlags) (test : Option PixScan)
  /-- SCAN_CYCLE_START -/
  | scanCycleStart
  /-- FSYNC_IN_EDGE: PWM clocks from the timer's last boundary to the clock at which the edge is seen -/
  | fsyncInEdge (count : Nat)
  /-- HOLDOVER_ENTRY -/
  | holdoverEntry
  /-- HOST_TIMEOUT -/
  | hostTimeout
  /-- BEAM_WAIT_TIMEOUT -/
  | beamWaitTimeout
  /-- BLANKING_END -/
  | blankingEnd
  /-- PLEVEL_CHANGE_START -/
  | plevelChangeStart
  /-- PLEVEL_CHANGE_COMPLETE -/
  | plevelChangeComplete
  /-- SPI_REQUEST_TRANSACTION: the bytes on SDI from the first up to the rise of SCS_N -/
  | spiRequestTransaction (bytes : List Byte)
  /-- SPI_READ_TRANSACTION: bytes clocked after the status byte -/
  | spiReadTransaction (n : Nat)
  /-- SPI_VOID_TRANSACTION: bytes clocked after the first -/
  | spiVoidTransaction (n : Nat)
  /-- COMMAND_PACKET: the columns up to the one in which the packet ends -/
  | commandPacket (path : Path) (cols : List (List LaneWord))
  /-- TWIN_INFO_REPLY: the columns on TWRX up to the one in which the reply packet ends -/
  | twinInfoReply (cols : List (List LaneWord))
  /-- REPLY_SEND: HTX or TWTX -/
  | replySend (path : Path)
  /-- PING: the request -/
  | ping (rq : Rq)
  /-- GET_INFO: the request -/
  | getInfo (rq : Rq)
  /-- GET_STATUS: the request -/
  | getStatus (rq : Rq)
  /-- READ_REG: the request -/
  | readReg (rq : Rq)
  /-- WRITE_REG: the request -/
  | writeReg (rq : Rq)
  /-- GET_COMPLETIONS: the request -/
  | getCompletions (rq : Rq)
  /-- LOCK_CONFIG: the request -/
  | lockConfig (rq : Rq)
  /-- SET_MODE: the request -/
  | setMode (rq : Rq)
  /-- SET_PLEVEL: the request -/
  | setPlevel (rq : Rq)
  /-- SLEEP_UNTIL: the request; if it has to wait for another power-state request, the time in ms from its ACCEPTED reply to its start (R401) -/
  | sleepUntil (rq : Rq) (waitMs : Nat)
  /-- LAYER_CONFIG: the request -/
  | layerConfig (rq : Rq)
  /-- LAYER_ENABLE: the request -/
  | layerEnable (rq : Rq)
  /-- FLIP_GROUP_CONFIGURE: the request -/
  | flipGroupConfigure (rq : Rq)
  /-- FLIP_GROUP_ARM: the request -/
  | flipGroupArm (rq : Rq)
  /-- FENCE_SIGNAL: the request -/
  | fenceSignal (rq : Rq)
  /-- LOAD_LUT: the request -/
  | loadLut (rq : Rq)
  /-- LOAD_COEFFS: the request -/
  | loadCoeffs (rq : Rq)
  /-- SIGNATURE_REGION_CONFIGURE: the request -/
  | signatureRegionConfigure (rq : Rq)
  /-- SIGNATURE_REGION_DISABLE: the request -/
  | signatureRegionDisable (rq : Rq)
  /-- LINK_TRAIN_RESTART: the request -/
  | linkTrainRestart (rq : Rq)
  /-- LINK_TRAIN_DISABLE: the request -/
  | linkTrainDisable (rq : Rq)
  /-- LINK_TRAIN_COMPLETE: time taken in ms -/
  | linkTrainComplete (ms : Nat)
  /-- LANE_BITSLIP: the request -/
  | laneBitslip (rq : Rq)
  /-- EYE_SCAN: the request -/
  | eyeScan (rq : Rq)
  /-- EYE_SCAN_COMPLETE: error counts of the grid's next points, in the order of the sweep; the scan ends with the grid's last point -/
  | eyeScanComplete (errors : List Nat)
  /-- CALIBRATE_FULL: the request -/
  | calibrateFull (rq : Rq)
  /-- CALIBRATE_FULL_MEASURE: what was measured; duration in microseconds -/
  | calibrateFullMeasure (m : CalMeas) (us : Nat)
  /-- CALIBRATE_SENSORS: the request; the 36 readings -/
  | calibrateSensors (rq : Rq) (readings : List Int)
  /-- CAL_COMMIT: the request -/
  | calCommit (rq : Rq)
  /-- NVM_READ: the request -/
  | nvmRead (rq : Rq)
  /-- PATTERN_WRITE_BEGIN: the request -/
  | patternWriteBegin (rq : Rq)
  /-- PATTERN_WRITE_DATA: the request; the MRAM write-verify failed -/
  | patternWriteData (rq : Rq) (verifyFail : Bool)
  /-- PATTERN_WRITE_COMMIT: the request -/
  | patternWriteCommit (rq : Rq)
  /-- PATTERN_WRITE_COMMIT_DONE: the write of the header failed; offset of the unit of the trim slot whose write failed (TARGET 1) -/
  | patternWriteCommitDone (writeFail : Bool) (copyFail : Option Nat)
  /-- PATTERN_WRITE_ABORT: the request -/
  | patternWriteAbort (rq : Rq)
  /-- FAULT_READ: the request -/
  | faultRead (rq : Rq)
  /-- FAULT_CLEAR_CLEAR: the request; events that reach the collector on the clock of the clear -/
  | faultClearClear (rq : Rq) (during : List RawEvent)
  /-- FAULT_CLEAR_ACK: the request; events that reach the collector on the clock of the acknowledgement -/
  | faultClearAck (rq : Rq) (during : List RawEvent)
  /-- FAULT_INJECT_DRY: the request -/
  | faultInjectDry (rq : Rq)
  /-- FAULT_INJECT_LIVE: the request -/
  | faultInjectLive (rq : Rq)
  /-- INJECTION_END -/
  | injectionEnd
  /-- INJECT_COINCIDENT: on the clock of the injection; the detector's own parameters -/
  | injectCoincident (atInjection : Bool) (p0 p1 p2 p3 : Nat)
  /-- LOG_READ: the request -/
  | logRead (rq : Rq)
  /-- HISTO_READ: the request -/
  | histoRead (rq : Rq)
  /-- DIAG_MAP_READ: the request -/
  | diagMapRead (rq : Rq)
  /-- PIXEL_TEST_MEASURE: the request -/
  | pixelTestMeasure (rq : Rq)
  /-- PIXEL_TEST_RELEASE: the request -/
  | pixelTestRelease (rq : Rq)
  /-- PIXEL_TEST_DISABLE: the request -/
  | pixelTestDisable (rq : Rq)
  /-- TWIN_CONFIG: the request -/
  | twinConfig (rq : Rq)
  /-- THERM_CONFIG: the request -/
  | thermConfig (rq : Rq)
  /-- THERM_CLEAR: the request -/
  | thermClear (rq : Rq)
  /-- STORE_ASSIGN: the request -/
  | storeAssign (rq : Rq)
  /-- STORE_POOL: the request -/
  | storePool (rq : Rq)
  /-- HANDOVER_COMPLETE: bank -/
  | handoverComplete (bank : Nat)
  /-- FW_PATCH_BEGIN: the request -/
  | fwPatchBegin (rq : Rq)
  /-- FW_PATCH_DATA: the request; the MRAM write-verify failed -/
  | fwPatchData (rq : Rq) (verifyFail : Bool)
  /-- FW_PATCH_COMMIT: the request -/
  | fwPatchCommit (rq : Rq)
  /-- FW_PATCH_COMMIT_DONE: the final write failed -/
  | fwPatchCommitDone (writeFail : Bool)
  /-- FW_PATCH_ABORT: the request -/
  | fwPatchAbort (rq : Rq)
  /-- FTIMER_CTL_WRITE: request header; value written to DRV_FTIMER_CTL -/
  | ftimerCtlWrite (h : Hdr) (w : Word)
  /-- COMPOSE_LEAD_WRITE: request header; value written to DRV_COMPOSE_LEAD -/
  | composeLeadWrite (h : Hdr) (w : Word)
  /-- ARRAY_CTL_WRITE: request header; value written to DRV_ARRAY_CTL -/
  | arrayCtlWrite (h : Hdr) (w : Word)
  /-- BUDGET_WRITE: request header; value written to DRV_BUDGET -/
  | budgetWrite (h : Hdr) (w : Word)
  /-- HDRM_DUTY_WRITE: request header; value written to DRV_HDRM_DUTY -/
  | hdrmDutyWrite (h : Hdr) (w : Word)
  /-- WICK_DATA_WRITE: request header; value written to DRV_WICK_DATA -/
  | wickDataWrite (h : Hdr) (w : Word)
  /-- FLT_LATCHED_WRITE: request header; value written to FLT_LATCHED; events that reach the collector on its clock -/
  | fltLatchedWrite (h : Hdr) (w : Word) (during : List RawEvent)
  /-- FLT_ACKED_WRITE: request header; value written to FLT_ACKED; events that reach the collector on its clock -/
  | fltAckedWrite (h : Hdr) (w : Word) (during : List RawEvent)
  /-- SELFTEST: request header; value written to FLT_CTL -/
  | selftest (h : Hdr) (w : Word)
  /-- GU_FEED: request header; unit; value written to CHK_GUn_FEED -/
  | guFeed (h : Hdr) (n : Nat) (w : Word)
  /-- GU_RESTART: request header; unit; value written to CHK_GUn_CTL -/
  | guRestart (h : Hdr) (n : Nat) (w : Word)
  /-- GU_CAPTURE: request header; unit; value written to CHK_GUn_CTL -/
  | guCapture (h : Hdr) (n : Nat) (w : Word)
  /-- READ64: request header (a write of OP 1 to MEM_WIN_CMD) -/
  | read64 (h : Hdr)
  /-- WRITE64: request header (a write of OP 2 to MEM_WIN_CMD) -/
  | write64 (h : Hdr)
  /-- FADD32: request header (a write of OP 3 to MEM_WIN_CMD) -/
  | fadd32 (h : Hdr)
  /-- FADD64: request header (a write of OP 4 to MEM_WIN_CMD) -/
  | fadd64 (h : Hdr)
  /-- SWAP32: request header (a write of OP 5 to MEM_WIN_CMD) -/
  | swap32 (h : Hdr)
  /-- SWAP64: request header (a write of OP 6 to MEM_WIN_CMD) -/
  | swap64 (h : Hdr)
  /-- WINDOW_OP_COMPLETE: compose clocks that the request waited for its grant; what the bank's check of the word found -/
  | windowOpComplete (wait : Nat) (ecc : Ecc)
  /-- BANK_USE_WRITE: request header; bank; value written to MEM_BANKb -/
  | bankUseWrite (h : Hdr) (bank : Nat) (w : Word)
  /-- LANE_TEST_MODE: request header; lane; value written to LNK_LANEl_CTL -/
  | laneTestMode (h : Hdr) (l : Nat) (w : Word)
  /-- LANE_MISSION_MODE: request header; lane; value written to LNK_LANEl_CTL -/
  | laneMissionMode (h : Hdr) (l : Nat) (w : Word)
  /-- RAW_CAPTURE: request header; lane; the current 40-bit word of the lane; the line bits that have come since the lane's last capture or write of MODE, oldest first -/
  | rawCapture (h : Hdr) (l raw : Nat) (line : List Bool)
  /-- TX_PATTERN_WRITE: request header; TWTX instead of HTX; value written -/
  | txPatternWrite (h : Hdr) (twin : Bool) (w : Word)
  /-- HRX_EN_WRITE: request header; value written to LNK_CTL -/
  | hrxEnWrite (h : Hdr) (w : Word)
  /-- LAYER_SRC_WRITE: request header; value written to LNK_ROPE_CTL -/
  | layerSrcWrite (h : Hdr) (w : Word)
  /-- LOS_ASSERT: lane -/
  | losAssert (l : Nat)
  /-- LOS_DEASSERT: lane; LOS was asserted for at least 1 ms and has been off for at least 1 ms -/
  | losDeassert (l : Nat) (settled : Bool)
  /-- BACKOFF_EXPIRY: lane -/
  | backoffExpiry (l : Nat)
  /-- ANCHOR_RECEIVED: lane; the four words of the set -/
  | anchorReceived (l : Nat) (set : List LaneWord)
  /-- CLIMB_RECEIVED: the four words of the set; training time in ms, if the link becomes TRAINED by it -/
  | climbReceived (set : List LaneWord) (ms : Nat)
  /-- CDR_LOCK: lane -/
  | cdrLock (l : Nat)
  /-- LANE_ALIGNED: lane; bit position of the comma -/
  | laneAligned (l slip : Nat)
  /-- ALIGNMENT_LOST: lane -/
  | alignmentLost (l : Nat)
  /-- ADAPT_COMPLETE: lane; what was measured and reached; training time in ms, if the twin link becomes TRAINED by it -/
  | adaptComplete (l : Nat) (eq : EqResult) (ms : Nat)
  /-- ATTEMPT_TIMEOUT: lane, and whether LOS has persisted on it for 1 ms -/
  | attemptTimeout (l : AttemptEnd)
  /-- BOND_FORMATION -/
  | bondFormation
  /-- BOND_WAIT_EXPIRY -/
  | bondWaitExpiry
  /-- BOND_MARKER: the markers of the lanes -/
  | bondMarker (marks : List BondMark)
  /-- BOND_TIMEOUT -/
  | bondTimeout
  /-- RELOCK_ENTRY: lane; length of the gap; time of the entry in ms -/
  | relockEntry (l gapUs atMs : Nat)
  /-- RELOCK_COMPLETE: lane; the commas stand at the word position in force -/
  | relockComplete (l : Nat) (inPlace : Bool)
  /-- RELOCK_TIMEOUT: lane -/
  | relockTimeout (l : Nat)
  /-- FRAME_START: the columns up to the one in which the packet ends -/
  | frameStart (path : Path) (cols : List (List LaneWord))
  /-- LINE_DATA: the columns up to the one in which the packet ends; bytes in the receive buffer; compose clocks that the link DMA's requests wait for their grants, in order, 0 where the list ends -/
  | lineData (path : Path) (cols : List (List LaneWord)) (bufBytes : Nat) (waits : List Nat)
  /-- FRAME_END: the columns up to the one in which the packet ends -/
  | frameEnd (path : Path) (cols : List (List LaneWord))
  /-- BACK_BUFFER_READY: layer -/
  | backBufferReady (n : Nat)
  /-- FENCE_TIMEOUT: layer -/
  | fenceTimeout (n : Nat)
  /-- PACKET_DISCARD: the columns up to the one that decides it; bytes in the receive buffer -/
  | packetDiscard (path : Path) (cols : List (List LaneWord)) (bufBytes : Nat)
  /-- PACKET_FORWARD -/
  | packetForward
  /-- SYNC_WORD_RECEIVED: the word; where a packet's columns hold it too, the running disparity before it (positive); PWM clocks from the timer's last boundary to the clock at which the frame timer sees it -/
  | syncWordReceived (word : LaneWord) (inPacket : Option Bool) (count : Nat)
  /-- STATUS_SEND -/
  | statusSend
  /-- CLIMB_SEND: HTX or TWTX -/
  | climbSend (path : Path)
  /-- HEARTBEAT_SEND -/
  | heartbeatSend
  /-- TWIN_ALIVE_TOGGLE -/
  | twinAliveToggle
  /-- TWIN_ALIVE_EDGE: time since the last valid heartbeat in microseconds -/
  | twinAliveEdge (silenceUs : Nat)
  /-- TWIN_ALIVE_INACTIVE -/
  | twinAliveInactive
  /-- HEARTBEAT_RECEIVED: the columns on TWRX up to the one in which the packet ends; time since the last valid heartbeat in microseconds -/
  | heartbeatReceived (cols : List (List LaneWord)) (silenceUs : Nat)
  /-- SNUFF_MESSAGE_RECEIVED: the columns on TWRX up to the one in which the packet ends -/
  | snuffMessageReceived (cols : List (List LaneWord))
  /-- RECORD_RECEIVED: the columns on TWRX up to the one in which the packet ends -/
  | recordReceived (cols : List (List LaneWord))
  /-- RECORD_SEND -/
  | recordSend
  /-- RECORD_RETRANSMIT -/
  | recordRetransmit
  /-- HEARTBEAT_SILENCE: silence in microseconds -/
  | heartbeatSilence (us : Nat)
  /-- TWIN_PIN_FAULT -/
  | twinPinFault
  /-- JOIN_TIMEOUT -/
  | joinTimeout
  /-- STORE_ACCESS_GRANT: bank; compose clocks since the bank's last command; requests presented meanwhile; what the bank's check finds in the words read, clean where the list ends -/
  | storeAccessGrant (bank clocks : Nat) (claims : List Claim) (ecc : List Ecc)
  /-- REQUEST_ESCALATION: bank; master; requests presented meanwhile -/
  | requestEscalation (bank m : Nat) (claims : List Claim)
  /-- SCRUB_READ: bank; what the check found in its next word -/
  | scrubRead (bank : Nat) (ecc : Ecc)
  /-- PATTERN_RELOAD: which pattern -/
  | patternReload (belay : Bool)
  /-- THERMAL_SAMPLE: 36 readings in 1/8 degC -/
  | thermalSample (samples : List Int)
  /-- NVM_WINDOW_OPEN -/
  | nvmWindowOpen
  /-- DERATE_STEP -/
  | derateStep
  /-- SCAR_RECORD_WRITE -/
  | scarRecordWrite
  /-- SCAR_COPY -/
  | scarCopy
  /-- AUTO_REKINDLE -/
  | autoRekindle
  /-- NTC_CONVERSION: 12-bit code -/
  | ntcConversion (code : Nat)
  /-- EVENT_RAISE: the event -/
  | eventRaise (ev : RawEvent)
  /-- COLLATERAL_WINDOW_CLOSE: reaction -/
  | collateralWindowClose (r : Nat)
  /-- WITNESS_DISAGREE: the detector's event -/
  | witnessDisagree (ev : RawEvent)
  /-- COLLECTOR_SELF: parity error or copy mismatch; state word; the copies still disagree after reinitialisation -/
  | collectorSelf (parity : Bool) (word : Nat) (persists : Bool)
  /-- LINK_ISLAND_ERROR: unit and word index -/
  | linkIslandError (unit word : Nat)
  /-- ENGINE_PARITY: engine and pass -/
  | engineParity (e pass : Nat)
  /-- CORE_UV: LDO and voltage -/
  | coreUv (ldo mv : Nat)
  /-- HV_UV: voltage -/
  | hvUv (mv : Nat)
  /-- PLL_UNLOCK: PLL -/
  | pllUnlock (pll : Nat)
  /-- XTAL_FAIL: measured frequency -/
  | xtalFail (khz : Nat)
  /-- NVM_STORE_START -/
  | nvmStoreStart
  /-- NVM_STORE_COMPLETE: address of the unit whose write-verify failed -/
  | nvmStoreComplete (failAt : Option Nat)
  /-- DEFECT_LIST_STORE -/
  | defectListStore
  /-- WEAR_GAIN_RECOMPUTE -/
  | wearGainRecompute
  /-- WEAR_MAP_STORE -/
  | wearMapStore
  /-- LIFETIME_STORE -/
  | lifetimeStore
  /-- LIFETIME_SAMPLE -/
  | lifetimeSample
  /-- OPERATING_SECOND_TICK -/
  | operatingSecondTick
  /-- MAIN_RING_WRITE: a failure of the log memory -/
  | mainRingWrite (fail : Option LogFail)
  /-- CAIRN_WRITE: a failure of the log memory -/
  | cairnWrite (fail : Option LogFail)
  /-- RECORDS_DROPPED -/
  | recordsDropped
  /-- SLEEP_ENTRY_STEP -/
  | sleepEntryStep
  /-- SLEEP_RELIGHT -/
  | sleepRelight
  /-- SLEEP_WINDOW_END -/
  | sleepWindowEnd
  /-- WAKE_PIN: level sampled on two AO clocks -/
  | wakePin (level : Bool)
  /-- I2C_ADDRESS_MATCH: the address byte's 7 bits -/
  | i2cAddressMatch (addr : Nat)
  /-- I2C_READ -/
  | i2cRead
  /-- WAKE_TIMER_EXPIRY -/
  | wakeTimerExpiry
  /-- SLEEP_NVM_TIMEOUT -/
  | sleepNvmTimeout
  /-- SCAR_WRITE_COMPLETE -/
  | scarWriteComplete
  /-- LREF_CLOCK_CHANGE: a clock within 1 % of 125 MHz is seen -/
  | lrefClockChange (present : Bool)
  /-- TWIN_ACK_SETS_SENT -/
  | twinAckSetsSent
deriving DecidableEq, Repr

end Sys2Proof
end

