-- ==== Sys2Proof/Config.lean ====
section
/-! DEFINITION. What a part or its makers fix and the manual does not state, and the free values: constants without a body. -/

namespace Sys2Proof.Config

/-- A value that the manual leaves open, by the number of free values taken before it: nothing constrains it. -/
opaque freeValue : Nat → Word

/-- Unique die number, fused (ID_UID0, ID_UID1, R267). -/
opaque uid : BitVec 64

/-- ASCII stepping letter, fused (R267). -/
opaque steppingLetter : Byte

/-- Stepping number, fused (R267). -/
opaque steppingNumber : Byte

/-- Limral ROM version (R267). -/
opaque romVersion : Word

/-- Debug disabled by fuse (R267). -/
opaque debugFused : Bool

/-- Redundant columns in use in a bank, taken modulo 3 (MEM_BANKb.REPAIRED, R307), by bank. -/
opaque bankRepaired : Nat → Nat

/-- The public key against which patch images are checked, a point of the curve P-256: its first coordinate (R263). -/
opaque patchKeyX : Nat

/-- Its second coordinate (R263). -/
opaque patchKeyY : Nat

/-- Where the PRBS register of a test pattern stands when the pattern begins, by PATTERN; the machine takes it as a register that is not
all zeros (R213). -/
opaque prbsStart : Nat → Nat

/-- The trim step of the phase control loop, in ppm, from the phase error, the trim and a count of steps; the machine limits it to
100 ppm a step and 20,000 ppm in all (R18). -/
opaque trimStep : Int → Int → Nat → Int

end Sys2Proof.Config
end

