-- ==== Sys2Proof/Machine/State.lean ====
section
/-! DEFINITION. Everything the manual lets the device remember, as plain data: one structure for each block, the queue of waiting commands, and the state after reset. -/

namespace Sys2Proof.Machine

/-- Why the machine stops. -/
inductive Fault where
  /-- A command's operand names a unit (lane, engine, tile, bank, layer ...) that the device does not have, or gives a measurement of the
  wrong shape: raised by the command's meaning, before any effect. Safe: no device of the manual can meet such a command. -/
  | noSuchUnit
deriving DecidableEq, Repr

/-- Why a command is refused. -/
inductive Refusal where
  /-- The command has no meaning in this model: raised by the dispatch arm alone. Safe: nothing can be proved about it. -/
  | notModelled (mnemonic : String)
deriving DecidableEq, Repr

/-- The always-on island: what it keeps through sleep and RESET_N (R377, R411, R415). -/
structure Ao where
  /-- EVR_SECONDS: operating seconds (R377) -/
  seconds : Nat := 0
  /-- EVR_CYCLES: power-cycle count (R377) -/
  cycles : Nat := 0
  /-- PWR_WAKE_SRC.RESET_CAUSE (R412) -/
  resetCause : Nat := 0
  /-- PWR_WAKE_SRC.SOURCE (R412) -/
  wakeSource : Nat := 0
  /-- PWR_WAKE_SRC.SLEPT (R412) -/
  slept : Nat := 0
  /-- PWR_WAKE_SRC.FORCED (R405) -/
  forced : Bool := false
  /-- PWR_DORMANT_S (R411) -/
  dormantS : Nat := 0
  /-- PWR_SLEEP_LOSS.RECORDS (R405) -/
  lossRecords : Nat := 0
  /-- PWR_SLEEP_LOSS.COUNT_S (R405) -/
  lossCountS : Nat := 0
  /-- PWR_SLEEP_COUNT.S1 (R415) -/
  sleepsS1 : Nat := 0
  /-- PWR_SLEEP_COUNT.S2 (R415) -/
  sleepsS2 : Nat := 0
  /-- operating seconds at the start of entry (internal) (R411) -/
  sleepStart : Nat := 0
  /-- sleep state the device is in: 0 none, 1 S1, 2 S2 (internal) (R397) -/
  sleepState : Nat := 0
  /-- wake timer armed (internal) (R398) -/
  timerArmed : Bool := false
  /-- wake timer expired since acceptance, or held (internal) (R402) -/
  timerExpired : Bool := false
  /-- address match since acceptance, or held (internal) (R402) -/
  i2cMatched : Bool := false
  /-- level of the WAKE pin as sampled (internal) (R408) -/
  wakeLevel : Bool := false
  /-- the 4-clock window that ends entry is running (internal) (R407) -/
  inWindow : Bool := false
  /-- the next lifetime load follows a power-on (internal) (R377) -/
  needLoadAdd : Bool := true
  /-- ID_CONFIG.I2C_ADDR, from AS1 and AS0 (R409) -/
  i2cAddr : Nat := 0x58
  /-- the byte that the wake port returned last (R409) -/
  i2cOut : Nat := 0
deriving DecidableEq, Repr

/-- A pending SET_MODE (R41, R42). -/
structure PendMode where
  /-- TARGET (R41) -/
  target : Mode := .beam
  /-- its handle (R250) -/
  handle : Nat := 0
  /-- source of the request (R236) -/
  src : Src := .spi
  /-- a compose latch has met the conditions of a pending BEAM (R37) -/
  committed : Bool := false
deriving DecidableEq, Repr

/-- A power-state request (R401). -/
structure PowerReq where
  /-- SLEEP_UNTIL instead of SET_PLEVEL (R401) -/
  sleep : Bool := false
  /-- LEVEL of a SET_PLEVEL (R396) -/
  level : Nat := 0
  /-- TIME_MS of a SLEEP_UNTIL (R399) -/
  timeMs : Nat := 0
  /-- FORCE (R399) -/
  force : Bool := false
  /-- MAX_S1 (R399) -/
  maxS1 : Bool := false
  /-- its handle (R250) -/
  handle : Nat := 0
  /-- source of the request (R236) -/
  src : Src := .spi
  /-- of a SLEEP_UNTIL that waited: time in ms from its ACCEPTED reply to its start (internal) (R401) -/
  wait : Nat := 0
deriving DecidableEq, Repr

/-- Modes, bring-up, P-levels and sleep entry (chapters 02 and 18). -/
structure Pwr where
  /-- PWR_MODE_STAT.MODE (R31) -/
  mode : Mode := .kindle
  /-- a PILOT trigger stood when the work of this KINDLE completed (internal) (R330) -/
  ownPilot : Bool := false
  /-- PWR_MODE_STAT.DARK (R48) -/
  dark : Bool := false
  /-- PWR_MODE_STAT.PREV_MODE (R49) -/
  prevMode : Nat := 7
  /-- PWR_MODE_STAT.QUICK (R49) -/
  quick : Bool := false
  /-- PWR_MODE_STAT.PENDING and the pending SET_MODE (R42) -/
  pend : Option PendMode := none
  /-- PWR_MODE_STAT.KINDLE_STEP (R49) -/
  kindleStep : Nat := 0
  /-- PWR_MODE_STAT.ENTRY_CAUSE (R50) -/
  entryCause : Nat := 0
  /-- PWR_MODE_CTL.BEAM_WAIT_MS (R49) -/
  beamWaitMs : Nat := 500
  /-- PWR_MODE_CTL.HOST_TIMEOUT_MS (R49) -/
  hostTimeoutMs : Nat := 0
  /-- PWR_MODE_ENTRY.SECONDS (R49) -/
  entrySeconds : Nat := 0
  /-- PWR_KINDLE_TIME.WORK_US (R49) -/
  workUs : Nat := 0
  /-- PWR_KINDLE_TIME.TOTAL_US (R49) -/
  totalUs : Nat := 0
  /-- PWR_KINDLE_RESULT.BIST_FAIL (R49) -/
  bistFail : Bool := false
  /-- PWR_KINDLE_RESULT.CAL_REJECTED (R49) -/
  calRejected : Bool := false
  /-- PWR_KINDLE_RESULT.CAL_FACTORY (R49) -/
  calFactory : Bool := false
  /-- PWR_KINDLE_RESULT.PILOT_SUBST (R49) -/
  pilotSubst : Bool := false
  /-- PWR_KINDLE_RESULT.BELAY_SUBST (R49) -/
  belaySubst : Bool := false
  /-- PWR_KINDLE_RESULT.NO_PATTERN (R49) -/
  noPattern : Bool := false
  /-- PWR_KINDLE_RESULT.TIMEOUT (R49) -/
  kindleTimeout : Bool := false
  /-- PWR_KINDLE_RESULT.LANES_UNTRAINED (R49) -/
  lanesUntrained : Bool := false
  /-- PWR_MODE_COUNT0.PILOT_ENTRIES (R49) -/
  pilotEntries : Nat := 0
  /-- PWR_MODE_COUNT0.BELAY_ENTRIES (R49) -/
  belayEntries : Nat := 0
  /-- PWR_MODE_COUNT1.SNUFF_ENTRIES (R49) -/
  snuffEntries : Nat := 0
  /-- PWR_MODE_COUNT1.REKINDLES (R49) -/
  rekindles : Nat := 0
  /-- mode decided at the compose latch, with its cause, waiting for the frame latch (internal) (R35) -/
  next : Option (Mode × Nat) := none
  /-- the READY pin (R47) -/
  readyPin : Bool := false
  /-- a blanking that waits for its frame latch (internal) (R400) -/
  blankReq : Option PowerReq := none
  /-- the array is being blanked by SLEEP_UNTIL (internal) (R48) -/
  blanking : Bool := false
  /-- the internal reset is asserted (internal) (R420) -/
  inReset : Bool := true
  /-- TEST_EN is high (R418) -/
  testEn : Bool := false
  /-- the boot was stopped by a fault: ports stay closed (internal) (R438) -/
  dead : Bool := false
  /-- kind of the KINDLE in progress or last run (internal) (R44) -/
  flavor : Flavor := .full
  /-- LDOs in regulation (internal) (R410) -/
  ldoOk : Bool := false
  /-- PLLs locked (internal) (R410) -/
  pllOk : Bool := false
  /-- Limral is ready (internal) (R43) -/
  limral : Bool := false
  /-- array bias on (internal) (R410) -/
  biasOn : Bool := false
  /-- array bias settled (internal) (R410) -/
  biasSettled : Bool := false
  /-- BIST passed, or a quick KINDLE's NVM load has begun (internal) (R47) -/
  bistDone : Bool := false
  /-- KINDLE work complete, first compose latch done (internal) (R45) -/
  workDone : Bool := false
  /-- the KINDLE in progress follows an exit from thermal shutdown (internal) (R312) -/
  exitThermal : Bool := false
  /-- PWR_PLEVEL.LEVEL (R415) -/
  plevel : Nat := 0
  /-- PWR_PLEVEL.TARGET (R415) -/
  plevelTarget : Nat := 0
  /-- PWR_PLEVEL.CHANGING (R415) -/
  changing : Bool := false
  /-- level the change in progress goes to (internal) (R394) -/
  changeTo : Nat := 0
  /-- PWR_PLEVEL.BLANK_P3 (R415) -/
  blankP3 : Bool := false
  /-- PWR_PLEVEL.CHANGES (R415) -/
  changes : Nat := 0
  /-- PWR_REQ.ACTIVE and the request in progress (R401) -/
  active : Option PowerReq := none
  /-- PWR_REQ.PENDING and the pending request (R401) -/
  waiting : Option PowerReq := none
  /-- PWR_REQ.ENTRY_STEP (R415) -/
  entryStep : Nat := 15
  /-- PWR_REQ.SUPERSEDED (R415) -/
  superseded : Nat := 0
  /-- PWR_SLEEP_STAT.CHOSEN (R415) -/
  chosen : Nat := 3
  /-- PWR_SLEEP_STAT.FORCE (R415) -/
  lastForce : Bool := false
  /-- PWR_SLEEP_STAT.MAX_S1 (R415) -/
  lastMaxS1 : Bool := false
  /-- PWR_SLEEP_STAT.EST_MS (R415) -/
  estMs : Nat := 0
  /-- PWR_LAST_REFUSAL.BLOCK (R415) -/
  refBlock : Nat := 15
  /-- PWR_LAST_REFUSAL.REASON (R415) -/
  refReason : Nat := 0
  /-- PWR_LAST_REFUSAL.REFUSALS (R415) -/
  refusals : Nat := 0
  /-- the array was dark before the sleep request (internal) (R403) -/
  darkBefore : Bool := false
  /-- an abandoned entry waiting for its relighting: completion status, block, reason (internal) (R403) -/
  relight : Option (Nat × Nat × Nat) := none
  /-- the NVM block of a sleep entry has been asked to stop (internal) (R402) -/
  nvmAsked : Bool := false
  /-- the lifetime store of the sleep entry is committed (internal) (R402) -/
  lifeStored : Bool := false
  /-- the array lights again at the first flip with its bias settled, no request waiting (internal) (R403) -/
  litDue : Bool := false
  /-- no further compose latch during sleep entry (internal) (R402) -/
  composeStop : Bool := false
  /-- source of the last valid command since entry into BEAM, 255 none (internal) (R437) -/
  hostSrc : Nat := 255
deriving DecidableEq, Repr

/-- The frame timer (chapter 01). -/
structure Ftimer where
  /-- DRV_FTIMER_CTL.RATE as written (R30) -/
  rate : Nat := 3
  /-- rate in force since the last frame latch (internal) (R30) -/
  rateInForce : Nat := 3
  /-- DRV_FTIMER_CTL.LOCK_SRC as written (R16) -/
  lockSrc : Nat := 0
  /-- DRV_FTIMER_CTL.FSYNC_OUT_EN (R22) -/
  fsyncOutEn : Bool := true
  /-- DRV_FTIMER_OFS.OFFSET, two's complement (R16) -/
  offset : Nat := 0
  /-- DRV_COMPOSE_LEAD.LEAD_US (R23) -/
  leadUs : Nat := 3000
  /-- requested lead that a frame latch has passed since it was written (internal) (R23) -/
  leadArmed : Nat := 3000
  /-- DRV_FTIMER_STAT.LOCKED (R19) -/
  locked : Bool := false
  /-- DRV_FTIMER_STAT.HOLDOVER (R20) -/
  holdover : Bool := false
  /-- DRV_FTIMER_STAT.TRIM_LIMIT (R21) -/
  trimLimit : Bool := false
  /-- DRV_FTIMER_STAT.LEAD_CLAMPED (R23) -/
  leadClamped : Bool := false
  /-- DRV_FTIMER_STAT.ACTIVE_SRC (R16) -/
  activeSrc : Nat := 0
  /-- DRV_FTIMER_STAT.EFF_LEAD_US (R23) -/
  effLead : Nat := 3000
  /-- DRV_FTIMER_TRIM.TRIM_PPM (R18) -/
  trim : Int := 0
  /-- DRV_FRAME_COUNT.COUNT (R30) -/
  frameCount : Nat := 0
  /-- DRV_PHASE_ERR.ERR (R30) -/
  phaseErr : Int := 0
  /-- the phase error of the last reference instant is larger in size than that of the one before it (internal) (R21) -/
  growing : Bool := false
  /-- OFFSET in force since the last frame latch (internal) (R26) -/
  ofsInForce : Nat := 0
  /-- consecutive frames within 32 clocks (internal) (R19) -/
  goodRun : Nat := 0
  /-- consecutive frames beyond 160 clocks (internal) (R19) -/
  badRun : Nat := 0
  /-- the timer has started its first frame (internal) (R45) -/
  running : Bool := false
  /-- a reference instant has been seen since the source in force took effect (internal) (R45) -/
  hadRef : Bool := false
  /-- the last boundary gave a pulse on FSYNC_OUT (R22) -/
  fsyncOut : Bool := false
deriving DecidableEq, Repr

/-- A staged set of calibration values (R67). -/
structure CalSet where
  /-- staged trim of each pixel (R55) -/
  trim : Option (Sparse Nat) := none
  /-- staged sink offset of each wick (R55) -/
  offset : Option (Sparse Int) := none
  /-- staged pre-charge level of each wick (R55) -/
  pre : Option (Sparse Nat) := none
deriving DecidableEq, Repr

/-- A slot that is running: its place in the frame (R59). -/
structure SlotPos where
  /-- phase (R59) -/
  phase : Nat := 0
  /-- scan cycle (R59) -/
  cycle : Nat := 0
deriving DecidableEq, Repr

/-- What the comparators showed of one lit pixel in one frame (R103). -/
structure PixAcc where
  /-- the pixel (R103) -/
  pix : Nat := 0
  /-- its active drive word (R100) -/
  word : Nat := 0
  /-- J, the judged pulses (R103) -/
  judged : Nat := 0
  /-- O, the judged pulses that raised NOI (R103) -/
  opens : Nat := 0
  /-- H, the judged pulses that raised HVD (R103) -/
  shorts : Nat := 0
deriving DecidableEq, Repr

/-- What the comparators showed in one frame (R103). -/
structure FrameAcc where
  /-- pixels that set HDL at least once (R75) -/
  low : List Nat := []
  /-- pixels lit in the frame, tile by tile, with their counts (R100) -/
  lit : List PixAcc := []
  /-- sink-enable was cleared during the frame (R104) -/
  sinkCleared : Bool := false
  /-- the frame counts as lit time and charge (R87) -/
  counted : Bool := false
deriving DecidableEq, Repr

/-- The pixel array and its wick cells (chapter 03). -/
structure Arr where
  /-- DRV_ARRAY_CTL.PC_EN (R79) -/
  pcEn : Bool := true
  /-- DRV_ARRAY_CTL.STAGGER_EN (R79) -/
  staggerEn : Bool := true
  /-- DRV_ARRAY_STAT.SINK_EN (R69) -/
  sinkEn : Bool := false
  /-- DRV_ARRAY_STAT.CAL_STAGED and the staged set (R67) -/
  staged : Option CalSet := none
  /-- DRV_ARRAY_STAT.LAST_FLIPPED (R79) -/
  lastFlipped : Bool := false
  /-- DRV_ARRAY_STAT.ZERO_LOAD (R68) -/
  zeroLoad : Bool := true
  /-- DRV_GREF.GREF (R71) -/
  gref : Nat := 256
  /-- DRV_GREF.NEXT (R71) -/
  grefNext : Nat := 256
  /-- P that DRV_GREF.NEXT was fixed from, in nA (internal) (R73) -/
  grefP : Nat := 0
  /-- B_eff that DRV_GREF.NEXT was fixed from, in mA, rounded down (internal) (R73) -/
  grefB : Nat := 0
  /-- DRV_BUDGET.BUDGET_MA (R72) -/
  budgetMa : Nat := 12000
  /-- phase sums of the shadow frame in nA; DRV_PRED_CUR.SHADOW_MA (R70) -/
  sumShadow : Nat × Nat × Nat × Nat := (0, 0, 0, 0)
  /-- phase sums of the active frame in nA; DRV_PRED_CUR.ACTIVE_MA, DRV_PRED_AB, DRV_PRED_CD (R70) -/
  sumActive : Nat × Nat × Nat × Nat := (0, 0, 0, 0)
  /-- DRV_GOV_STAT.LIMIT_FRAMES (R79) -/
  limitFrames : Nat := 0
  /-- DRV_HDRM_CTL.TARGET_MV (R75) -/
  targetMv : Nat := 300
  /-- DRV_HDRM_CTL.LOW_LIMIT (R75) -/
  lowLimit : Nat := 16
  /-- DRV_HDRM_CTL.UP_STEP (R75) -/
  upStep : Nat := 5
  /-- DRV_HDRM_CTL.AUTO (R75) -/
  auto : Bool := true
  /-- DRV_HDRM_DUTY.DUTY and the HDRM_REQ pin; DRV_HDRM_STAT.AT_MAX, AT_MIN (R74) -/
  duty : Nat := 0
  /-- DRV_HDRM_STAT.LOW_COUNT (R75) -/
  lowCount : Nat := 0
  /-- consecutive frames without HDL (internal) (R75) -/
  lowFrames : Nat := 0
  /-- frames above LOW_LIMIT with D at 1,187 (internal) (R77) -/
  limitRun : Nat := 0
  /-- frames above 10,368 (internal) (R77) -/
  lostRun : Nat := 0
  /-- DRV_VLED.VLED_MV (R79) -/
  vledMv : Nat := 0
  /-- consecutive judged latches above the limit (internal) (R347) -/
  vledOver : Nat := 0
  /-- consecutive judged latches within the limit (internal) (R347) -/
  vledUnder : Nat := 0
  /-- DRV_WICK_ADDR.COL (R80) -/
  wickCol : Nat := 0
  /-- DRV_WICK_ADDR.BAND (R80) -/
  wickBand : Nat := 0
  /-- DRV_WICK_ADDR.SEL (R80) -/
  wickSel : Nat := 0
  /-- shadow drive words, by tile (absent: 0) (R55) -/
  shadow : List (Nat × List Nat) := []
  /-- active drive words, by tile (absent: 0) (R55) -/
  active : List (Nat × List Nat) := []
  /-- trim in use, by pixel (R55) -/
  trim : Sparse Nat := ⟨0, []⟩
  /-- sink offset in use, by wick (R55) -/
  sinkOfs : Sparse Int := ⟨0, []⟩
  /-- pre-charge level in use, by wick (R55) -/
  preLevel : Sparse Nat := ⟨0, []⟩
  /-- pixels whose DIS latch is 1, ascending (R58) -/
  dis : List Nat := []
  /-- slot flags of each pixel's last collected slot: bit 0 NOI, 1 HVD, 2 HDL (R55) -/
  flagsNow : Sparse Nat := ⟨0, []⟩
  /-- the slot that is running (internal) (R59) -/
  slot : Option SlotPos := none
  /-- the frame in progress (internal) (R103) -/
  acc : FrameAcc := {}
  /-- the frame that ended at the last boundary (internal) (R105) -/
  accPrev : FrameAcc := {}
deriving DecidableEq, Repr

/-- Mapper statistics of one compose (R97). -/
structure MapStats where
  /-- DRV_MAP_CLAMPED.COUNT (R97) -/
  clamped : Nat := 0
  /-- DRV_MAP_FLOORED.COUNT (R97) -/
  floored : Nat := 0
  /-- DRV_MAP_SPAN0.COUNT (R97) -/
  span0 : Nat := 0
  /-- DRV_MAP_SPAN1.COUNT (R97) -/
  span1 : Nat := 0
  /-- DRV_MAP_SPAN2.COUNT (R97) -/
  span2 : Nat := 0
  /-- DRV_MAP_SPAN3.COUNT (R97) -/
  span3 : Nat := 0
  /-- DRV_MAP_GATHERED.COUNT (R97) -/
  gathered : Nat := 0
  /-- DRV_MAP_LIFTED.COUNT (R97) -/
  lifted : Nat := 0
  /-- highest block gain met in the frame (internal) (R96) -/
  maxGw : Nat := 0
deriving DecidableEq, Repr

/-- A droop table (R88). -/
structure Droop where
  /-- DRV_DROOP_STEP.STEP (R88) -/
  step : Nat := 0
  /-- GAIN[0..64] (R88) -/
  gains : List Nat := []
deriving DecidableEq, Repr

/-- The drive mapper and wear compensation (chapter 04). -/
structure Map where
  /-- DRV_MAP_CTL.LIFT_EN (R97) -/
  liftEn : Bool := false
  /-- DRV_MAP_CTL.WEAR_EN (R97) -/
  wearEn : Bool := true
  /-- DRV_MAP_GAIN.GAIN (R86) -/
  gain : Nat := 0x8000
  /-- DRV_MAP_STAT.HALO_TILES (R85) -/
  haloTiles : Nat := 0
  /-- DRV_MAP_STAT.DROOP_BAD (R88) -/
  droopBad : Bool := false
  /-- the droop table in use; DRV_DROOP_STEP.STEP (R88) -/
  droop : Option Droop := none
  /-- statistics of the compose in progress (internal) (R97) -/
  cur : MapStats := {}
  /-- statistics of the last completed compose (R97) -/
  shown : MapStats := {}
  /-- accumulator C of each block; DRV_WEAR_DATA, DRV_WEAR_MAX (R87) -/
  wear : Sparse Nat := ⟨0, []⟩
  /-- its 24-bit fraction (R87) -/
  wearFrac : Sparse Nat := ⟨0, []⟩
  /-- front copy of the wear-gain memory; DRV_WEAR_GAIN (R89) -/
  gainFront : Sparse Nat := ⟨0x8000, []⟩
  /-- back copy, recomputed and waiting for its compose latch (R89) -/
  gainBack : Option (Sparse Nat) := none
  /-- DRV_WEAR_STAT.SINCE_COMMIT_S (R97) -/
  sinceCommitS : Nat := 0
  /-- DRV_WEAR_STAT.END_BLOCKS (R89) -/
  endBlocks : Nat := 0
  /-- DRV_WEAR_ADDR.BLOCK_X (R97) -/
  blockX : Nat := 0
  /-- DRV_WEAR_ADDR.BLOCK_Y (R97) -/
  blockY : Nat := 0
deriving DecidableEq, Repr

/-- A rectangle of pixels, inclusive (R109). -/
structure Rect where
  /-- first column (R122) -/
  c0 : Nat := 0
  /-- first row (R122) -/
  r0 : Nat := 0
  /-- last column (R122) -/
  c1 : Nat := 0
  /-- last row (R122) -/
  r1 : Nat := 0
deriving DecidableEq, Repr

/-- A defect-map entry (R114). -/
structure Defect where
  /-- INDEX (R114) -/
  pix : Nat := 0
  /-- TYPE (R114) -/
  type : Nat := 1
  /-- SOURCE (R114) -/
  source : Nat := 1
deriving DecidableEq, Repr

/-- An outstanding PIXEL_TEST measurement (R120). -/
structure PixTest where
  /-- pixel (R118) -/
  pix : Nat := 0
  /-- ACTION 1 (R118) -/
  release : Bool := false
  /-- its handle (R250) -/
  handle : Nat := 0
  /-- source of the request (R236) -/
  src : Src := .spi
  /-- the test frame is running (internal) (R120) -/
  testing : Bool := false
  /-- the conversions (internal) (R120) -/
  result : Option PixScan := none
  /-- DRV_FRAME_COUNT of the test frame (internal) (R120) -/
  frame : Nat := 0
deriving DecidableEq, Repr

/-- Pixel diagnosis (chapter 05). -/
structure Diag where
  /-- DIAG_CTL.DPR_EN (R109) -/
  dprEn : Nat := 0
  /-- DIAG_CTL.SAFE_EN (R116) -/
  safeEn : Nat := 0
  /-- DIAG_DPR_TLn, DIAG_DPR_BRn (R109) -/
  dpr : List Rect := List.replicate 8 {}
  /-- DIAG_SAFE_TLn, DIAG_SAFE_BRn (R116) -/
  safe : List Rect := List.replicate 8 {}
  /-- dark-protected regions of the compose that the frame on display comes from (internal) (R109) -/
  dprForce : List Rect := []
  /-- those of the frame that ended at the last boundary (internal) (R122) -/
  dprPrev : List Rect := []
  /-- a safety region changed since DEFECT_CLUSTER was last judged (internal) (R116) -/
  safeDirty : Bool := false
  /-- the RAM defect map, ascending; DIAG_STAT.DEFECTS (R113) -/
  defects : List Defect := []
  /-- DIAG_MAP_GEN.GEN (R113) -/
  mapGen : Nat := 0
  /-- DIAG_STAT.LIST_FULL (R114) -/
  listFull : Bool := false
  /-- DIAG_STAT.STORE_PENDING (R114) -/
  storePending : Bool := false
  /-- DIAG_STAT.SCAN_DONE (R122) -/
  scanDone : Bool := false
  /-- failure counter F; DIAG_FAIL_PEND (R106) -/
  fails : Sparse Nat := ⟨0, []⟩
  /-- unverified counter U (internal) (R107) -/
  unver : Sparse Nat := ⟨0, []⟩
  /-- pixels of the shadow frame that carry a probe word (internal) (R108) -/
  probed : List Nat := []
  /-- pixels of the active frame that carry a probe word (internal) (R106) -/
  probedActive : List Nat := []
  /-- pixels of the ended frame that carried a probe word (internal) (R106) -/
  probedPrev : List Nat := []
  /-- pixels UNVERIFIABLE in the last evaluated frame (R117) -/
  bitmap : List Nat := []
  /-- DIAG_COV_LIT.COUNT (R122) -/
  covLit : Nat := 0
  /-- DIAG_COV_VERIFIED.COUNT (R122) -/
  covVerified : Nat := 0
  /-- DIAG_COV_UNVER.COUNT (R122) -/
  covUnver : Nat := 0
  /-- DIAG_COV_DPR.COUNT (R122) -/
  covDpr : Nat := 0
  /-- DIAG_COV_STALE.COUNT (R122) -/
  covStale : Nat := 0
  /-- DIAG_VIGIL.LAST (R122) -/
  vigilLast : Nat := 0
  /-- DIAG_VIGIL_TOTAL.COUNT (R122) -/
  vigilTotal : Nat := 0
  /-- DIAG_VOID.FRAMES (R104) -/
  voidFrames : Nat := 0
  /-- DIAG_VOID.LAST_CAUSE (R104) -/
  voidCause : Nat := 0
  /-- DIAG_SCAN_CNT0.OPEN (R122) -/
  scanOpen : Nat := 0
  /-- DIAG_SCAN_CNT0.SHORT (R122) -/
  scanShort : Nat := 0
  /-- DIAG_SCAN_CNT1.LEAK (R122) -/
  scanLeak : Nat := 0
  /-- DIAG_SCAN_CNT1.VF_CLIPPED (R111) -/
  vfClipped : Nat := 0
  /-- DIAG_SCAN_V.VON_MIN (R122) -/
  vonMin : Nat := 0
  /-- DIAG_SCAN_V.VON_MAX (R122) -/
  vonMax : Nat := 0
  /-- DIAG_SCAN_V.VF_MIN (R122) -/
  vfMin : Nat := 0
  /-- DIAG_SCAN_V.VF_MAX (R122) -/
  vfMax : Nat := 0
  /-- DIAG_SCAN_WICK.FAILS (R122) -/
  wickFails : Nat := 0
  /-- WICK_CHECK_FAIL was recorded in this KINDLE (internal) (R112) -/
  wickRecorded : Bool := false
  /-- the outstanding PIXEL_TEST (R119) -/
  test : Option PixTest := none
  /-- released pixels whose DIS clears with the first frame composed after the release (internal) (R120) -/
  releaseDis : List Nat := []
  /-- those of them that a compose latch has passed (internal) (R120) -/
  releaseArmed : List Nat := []
deriving DecidableEq, Repr

/-- A layer configuration (R144). -/
structure LayerCfg where
  /-- CMP_Ln_FMT.FORMAT (R155) -/
  format : Nat := 0
  /-- CMP_Ln_FMT.BLEND (R155) -/
  blend : Nat := 1
  /-- CMP_Ln_FMT.Z (reset: the slot number) (R155) -/
  z : Nat := 0
  /-- CMP_Ln_FMT.GALPHA (R155) -/
  galpha : Nat := 255
  /-- CMP_Ln_FMT.COEFF_SET (R155) -/
  coeffSet : Nat := 0
  /-- CMP_Ln_FMT.PRE_LUT_BYPASS (R155) -/
  preBypass : Bool := false
  /-- CMP_Ln_FMT.APPLY_WITH_FLIP (R146) -/
  withFlip : Bool := false
  /-- CMP_Ln_STALE.POLICY (R139) -/
  policy : Nat := 0
  /-- CMP_Ln_STALE.N (R139) -/
  staleN : Nat := 1
  /-- CMP_Ln_STALE.FAULT_LEVEL (R139) -/
  faultLevel : Nat := 3
  /-- CMP_Ln_SRC.SRC_W (R125) -/
  srcW : Nat := 0
  /-- CMP_Ln_SRC.SRC_H (R125) -/
  srcH : Nat := 0
  /-- CMP_Ln_DST0.DST_X (R125) -/
  dstX : Nat := 0
  /-- CMP_Ln_DST0.DST_Y (R125) -/
  dstY : Nat := 0
  /-- CMP_Ln_DST1.DST_W (R125) -/
  dstW : Nat := 0
  /-- CMP_Ln_DST1.DST_H (R125) -/
  dstH : Nat := 0
  /-- CMP_Ln_BUF0.ADDR (R126) -/
  buf0 : Nat := 0
  /-- CMP_Ln_BUF1.ADDR (R126) -/
  buf1 : Nat := 0
  /-- CMP_Ln_STRIDE.STRIDE (R126) -/
  stride : Nat := 0
deriving DecidableEq, Repr

/-- One layer slot: configuration, buffers, stale policy, reception (chapters 06, 08, 10). -/
structure Layer where
  /-- the configuration in force (R155) -/
  cfg : LayerCfg := {}
  /-- presentation changes not yet in effect (R146) -/
  pend : Option LayerCfg := none
  /-- last LAYER_ENABLE (R147) -/
  en : Bool := false
  /-- CMP_Ln_STAT.ENABLED (R155) -/
  enLatched : Bool := false
  /-- CMP_Ln_STAT.HAS_FRONT (R155) -/
  hasFront : Bool := false
  /-- CMP_Ln_STAT.FRONT_BUF while there is a front buffer; the other buffer is the back buffer (R155) -/
  frontBuf : Nat := 1
  /-- CMP_Ln_STAT.BACK_STATE (R131) -/
  back : BackState := .empty
  /-- an accepted frame's ready event has not yet reached COMPOSE (internal) (R25) -/
  crossing : Bool := false
  /-- CMP_Ln_STAT.BACK_FENCE (R134) -/
  backFence : Nat := 0
  /-- the back buffer's fence has been released (internal) (R134) -/
  released : Bool := false
  /-- CMP_Ln_STAT.STALE_COUNT (R138) -/
  stale : Nat := 0
  /-- CMP_Ln_STAT.TRANSPARENT (R139) -/
  transparent : Bool := false
  /-- CMP_Ln_STAT.STALE_CAUSE (R139) -/
  staleCause : Bool := false
  /-- CMP_Ln_LATCH.LATCH_COUNT (R155) -/
  latchCount : Nat := 0
  /-- CMP_Ln_FLIPS.COUNT (R155) -/
  flips : Nat := 0
  /-- CMP_Ln_REPEATS.COUNT (R155) -/
  repeats : Nat := 0
  /-- CMP_Ln_DROPS.OVERWRITTEN (R132) -/
  overwritten : Nat := 0
  /-- CMP_Ln_DROPS.FENCE_TIMEOUTS (R136) -/
  fenceTimeouts : Nat := 0
  /-- CMP_Ln_DISCARD.COUNT (R133) -/
  discards : Nat := 0
  /-- LNK_ROPE_STAT.RECEIVING (R235) -/
  receiving : Bool := false
  /-- expected LINE (internal) (R225) -/
  line : Nat := 0
  /-- expected OFFSET (internal) (R225) -/
  off : Nat := 0
  /-- running frame CRC register (internal) (R178) -/
  crc : Nat := 0
  /-- code errors in the frame's LINE_DATA packets (internal) (R189) -/
  codeErrs : Nat := 0
  /-- CHK_Ln_ALIVE.LAST (R180) -/
  alive : Nat := 0
  /-- CHK_Ln_ALIVE.VALID (R180) -/
  aliveValid : Bool := false
  /-- CHK_Ln_ACCEPT.COUNT (R190) -/
  accepts : Nat := 0
  /-- CHK_Ln_REJ.MISMATCH (R190) -/
  rejMismatch : Nat := 0
  /-- CHK_Ln_REJ.TRAILER (R190) -/
  rejTrailer : Nat := 0
  /-- CHK_Ln_SEQ.REPEATS (R190) -/
  repeatsSeq : Nat := 0
  /-- CHK_Ln_SEQ.JUMPS (R190) -/
  jumps : Nat := 0
  /-- CHK_Ln_RXCRC.CRC (R190) -/
  rxCrc : Nat := 0
  /-- CHK_Ln_CALCCRC.CRC (R190) -/
  calcCrc : Nat := 0
  /-- CHK_Ln_GAP.LAST_GAP (R190) -/
  lastGap : Nat := 0
deriving DecidableEq, Repr

/-- A pending ARM of a flip group (R150). -/
structure Arm where
  /-- CMP_GROUPg.ARM_MASK (R155) -/
  mask : Nat := 0
  /-- its handle (R250) -/
  handle : Nat := 0
  /-- source of the request (R236) -/
  src : Src := .spi
deriving DecidableEq, Repr

/-- A flip group (R137). -/
structure Group where
  /-- CMP_GROUPg.MEMBERS (R155) -/
  members : Nat := 0
  /-- CMP_GROUPg.POLICY (R155) -/
  armed : Bool := false
  /-- membership and policy that wait for the compose latch (R150) -/
  pend : Option (Nat × Bool) := none
  /-- CMP_GROUPg.ARM_PEND, ARM_MASK and the pending ARM (R150) -/
  arm : Option Arm := none
deriving DecidableEq, Repr

/-- A LUT, palette or coefficient table: entries that differ from the reset content (R152, R163). -/
structure Table where
  /-- front copy (R152) -/
  front : List (Nat × Int) := []
  /-- back copy (R152) -/
  back : List (Nat × Int) := []
  /-- a committed back copy waits for its latch (R152) -/
  pending : Bool := false
deriving DecidableEq, Repr

/-- Layers, flip groups, fences and tables (chapter 06). -/
structure Cmp where
  /-- CMP_CTL.POST_LUT_BYPASS (R155) -/
  postBypass : Bool := false
  /-- that bit as the last compose latch took it (internal) (R155) -/
  postBypassLatched : Bool := false
  /-- CMP_FENCE_CTL.TIMEOUT_MS (R136) -/
  fenceMs : Nat := 100
  /-- CMP_FENCE_STAT.TIMEOUTS (R155) -/
  fenceTimeouts : Nat := 0
  /-- CMP_FENCE_STAT.ORPHANS (R135) -/
  orphans : Nat := 0
  /-- the six layer slots (R123) -/
  layers : List Layer := (List.range 6).map (fun n => { cfg := { z := n } })
  /-- the three flip groups (R137) -/
  groups : List Group := List.replicate 3 {}
  /-- the LUTs and palettes, numbered as TARGET; CMP_TABCRCt (R153) -/
  tables : List Table := List.replicate 13 {}
deriving DecidableEq, Repr

/-- Statistics of one engine in one compose (R172). -/
structure EngStat where
  /-- SCL_ENGn_TILES.TILES (R172) -/
  tiles : Nat := 0
  /-- SCL_ENGn_TILES.STOLEN (R172) -/
  stolen : Nat := 0
  /-- SCL_ENGn_BUSY.CLOCKS (R172) -/
  busy : Nat := 0
  /-- SCL_ENGn_STALL.CLOCKS (R172) -/
  stall : Nat := 0
deriving DecidableEq, Repr

/-- One lamplighter (R166). -/
structure Engine where
  /-- tiles dealt to it and not yet taken, head first (R165) -/
  queue : List Nat := []
  /-- the tile it composes (R166) -/
  tile : Option Nat := none
  /-- that tile was stolen (internal) (R172) -/
  stolen : Bool := false
  /-- the passes that were in progress when an ENGINE_RESET abandoned that tile (internal) (R332) -/
  redo : List Nat := []
  /-- it has returned for this frame (R166) -/
  idle : Bool := true
  /-- statistics of the compose in progress (internal) (R172) -/
  cur : EngStat := {}
  /-- statistics of the last compose (R172) -/
  shown : EngStat := {}
deriving DecidableEq, Repr

/-- What a compose takes from one layer at its latch (R140, R158). -/
structure LayerSnap where
  /-- slot number (R140) -/
  slot : Nat := 0
  /-- configuration in force (R140) -/
  cfg : LayerCfg := {}
  /-- address of its front buffer (R140) -/
  addr : Nat := 0
deriving DecidableEq, Repr

/-- A compose and the inputs its latch fixed (R81, R140). -/
structure Compose where
  /-- layers, a stored pattern, or nothing (R35) -/
  content : Content := .none
  /-- contributing layers in blend order (R158) -/
  layers : List LayerSnap := []
  /-- post-blend LUT bypassed (R127) -/
  postBypass : Bool := false
  /-- LIFT_EN (R81) -/
  liftEn : Bool := false
  /-- WEAR_EN (R81) -/
  wearEn : Bool := true
  /-- master gain in force (R86) -/
  gain : Nat := 0x8000
  /-- repeat count N (R81) -/
  rep : Nat := 16
  /-- pixels in the defect map (R81) -/
  defects : List Nat := []
  /-- dark-protected regions in force (R109) -/
  dpr : List Rect := []
  /-- tiles marked for a halo (R85) -/
  halo : List Nat := []
  /-- STEAL_EN (R172) -/
  stealEn : Bool := true
  /-- XSTEAL_EN (R172) -/
  xstealEn : Bool := true
  /-- DRV_FRAME_COUNT value the frame will carry (R184) -/
  frame : Nat := 0
  /-- tiles retired (R167) -/
  retired : List Nat := []
  /-- composed codes, by tile (R183) -/
  codes : List (Nat × List Nat) := []
  /-- words read back, by tile (R183) -/
  readback : List (Nat × List Nat) := []
  /-- tiles read back (R183) -/
  readDone : List Nat := []
  /-- steals within a cluster (R172) -/
  stealL : Nat := 0
  /-- steals across clusters (R172) -/
  stealR : Nat := 0
  /-- passes (R172) -/
  passes : Nat := 0
  /-- clocks at the 450th retirement (R172) -/
  clocks : Nat := 0
  /-- the engines may work (R169) -/
  running : Bool := false
  /-- its mapper-flush point has passed (R169) -/
  flushed : Bool := false
  /-- all 450 tiles had retired at the mapper-flush point (R169) -/
  ok : Bool := false
  /-- its signature regions are still to be evaluated (R186) -/
  gus : Bool := false
deriving DecidableEq, Repr

/-- The lamplighter engines (chapter 07). -/
structure Scl where
  /-- SCL_CTL.STEAL_EN (R172) -/
  stealEn : Bool := true
  /-- SCL_CTL.XSTEAL_EN (R172) -/
  xstealEn : Bool := true
  /-- SCL_STAT.TILES_RETIRED (R172) -/
  tilesRetired : Nat := 0
  /-- SCL_STAT.MISS_RUN (R170) -/
  missRun : Nat := 0
  /-- SCL_COMPOSE_TIME.CLOCKS (R172) -/
  composeTime : Nat := 0
  /-- SCL_COMPOSE_MAX.CLOCKS (R172) -/
  composeMax : Nat := 0
  /-- SCL_MISS.COUNT (R172) -/
  misses : Nat := 0
  /-- SCL_STEALS.LOCAL (R172) -/
  stealsLocal : Nat := 0
  /-- SCL_STEALS.REMOTE (R172) -/
  stealsRemote : Nat := 0
  /-- SCL_PASSES.COUNT (R172) -/
  passes : Nat := 0
  /-- SCL_POISON.COUNT (R167) -/
  poison : Nat := 0
  /-- SCL_CLUSTERc.OUTSTANDING_MAX (R172) -/
  outMax : List Nat := [0, 0, 0, 0]
  /-- the 24 engines (R156) -/
  engines : List Engine := List.replicate 24 {}
  /-- the coefficient tables, numbered as TARGET; SCL_COEFCRCt (R162) -/
  tables : List Table := List.replicate 8 {}
  /-- the compose in progress, or the last one (R158) -/
  comp : Compose := {}
deriving DecidableEq, Repr

/-- A general check-value unit (R174). -/
structure Gu where
  /-- CHK_GUn_CTL.EN (R190) -/
  en : Bool := false
  /-- CHK_GUn_CTL.REFIN (R190) -/
  refin : Bool := true
  /-- CHK_GUn_CTL.REFOUT (R190) -/
  refout : Bool := true
  /-- CHK_GUn_CTL.CMP_EN (R190) -/
  cmpEn : Bool := false
  /-- CHK_GUn_CTL.LEVEL (R190) -/
  level : Nat := 0
  /-- CHK_GUn_CTL.WIDTH (R190) -/
  width : Nat := 32
  /-- CHK_GUn_CTL.SRC (R190) -/
  src : Nat := 0
  /-- CHK_GUn_POLY (R190) -/
  poly : Nat := 0x04C11DB7
  /-- CHK_GUn_INIT (R190) -/
  init : Nat := 0xFFFFFFFF
  /-- CHK_GUn_XOROUT (R190) -/
  xorout : Nat := 0xFFFFFFFF
  /-- CHK_GUn_VALUE (R190) -/
  value : Nat := 0xFFFFFFFF
  /-- CHK_GUn_RESULT (R190) -/
  result : Nat := 0
  /-- CHK_GUn_EXPECT (R190) -/
  expect : Nat := 0
  /-- CHK_GUn_STAT.CAPTURES (R190) -/
  captures : Nat := 0
  /-- CHK_GUn_STAT.MISMATCHES (R190) -/
  mismatches : Nat := 0
  /-- CHK_GUn_BYTES (R190) -/
  bytes : Nat := 0
  /-- its bit of CHK_STAT.GU_MISM (R176) -/
  mism : Bool := false
  /-- a capture has been made since CMP_EN was set (internal) (R176) -/
  compared : Bool := false
deriving DecidableEq, Repr

/-- A signature-region configuration (R187). -/
structure SigCfg where
  /-- CHK_SIGr_CTL.MODE (R190) -/
  mode : Nat := 0
  /-- CHK_SIGr_CTL.LEVEL (R190) -/
  level : Nat := 0
  /-- CHK_SIGr_CTL.THRESH (R190) -/
  thresh : Nat := 1
  /-- CHK_SIGr_TL, CHK_SIGr_BR (R182) -/
  rect : Rect := {}
  /-- CHK_SIGr_EXPECT (R190) -/
  expect : Nat := 0
deriving DecidableEq, Repr

/-- A signature region (R182). -/
structure Sig where
  /-- the configuration in force (R190) -/
  cfg : SigCfg := {}
  /-- a configuration that waits, with its layer (15: none); CHK_SIGr_CTL.PEND, BIND (R188) -/
  pend : Option (SigCfg × Nat) := none
  /-- CHK_SIGr_COMPOSED (R190) -/
  composed : Nat := 0
  /-- CHK_SIGr_WRITTEN (R190) -/
  written : Nat := 0
  /-- CHK_SIGr_READBACK (R190) -/
  readback : Nat := 0
  /-- CHK_SIGr_STAT.RESULT (R184) -/
  result : Nat := 0
  /-- CHK_SIGr_STAT.RUN (R185) -/
  run : Nat := 0
  /-- CHK_SIGr_STAT.CAUSE and its bit of CHK_STAT.SIG_CAUSE (R185) -/
  cause : Bool := false
  /-- CHK_SIGr_STAT.FAILS (R190) -/
  fails : Nat := 0
deriving DecidableEq, Repr

/-- Check-value units and signature regions (chapter 08). -/
structure Chk where
  /-- the eight general units (R174) -/
  gus : List Gu := List.replicate 8 {}
  /-- the sixteen signature regions (R182) -/
  sigs : List Sig := List.replicate 16 {}
  /-- CHK_SIG_FRAME.COUNT (R184) -/
  sigFrame : Nat := 0
deriving DecidableEq, Repr

/-- One receive lane (chapter 09). -/
structure Lane where
  /-- LNK_LANEl_CTL.MODE (R217) -/
  mode : Nat := 0
  /-- LNK_LANEl_CTL.MANUAL_EQ (R217) -/
  manualEq : Bool := false
  /-- LNK_LANEl_CTL.DFE_FREEZE (R217) -/
  dfeFreeze : Bool := false
  /-- LNK_LANEl_CTL.CTLE (R217) -/
  ctle : Nat := 6
  /-- LNK_LANEl_CTL.TEST_RATE (R217) -/
  testRate : Nat := 0
  /-- LNK_LANEl_STAT.STATE (0 for a lane not enabled) (R201) -/
  state : LaneState := .detect
  /-- LNK_LANEl_STAT.RATE (R217) -/
  rate : Nat := 7
  /-- LNK_LANEl_STAT.SHARED (R217) -/
  shared : Bool := false
  /-- LNK_LANEl_STAT.FAIL_R (R203) -/
  failR : Nat := 0
  /-- LNK_LANEl_STAT.LAST_CAUSE (R209) -/
  cause : Nat := 0
  /-- LNK_LANEl_STAT.SLIP (R195) -/
  slip : Nat := 0
  /-- LNK_LANEl_STAT.PARKED (R206) -/
  parked : Bool := false
  /-- LNK_LANEl_STAT.IN_BOND (R206) -/
  inBond : Bool := false
  /-- LNK_LANEl_STAT.FAIL_N (R203) -/
  failN : Nat := 0
  /-- LNK_LANEl_EQ.CTLE_USED (R217) -/
  ctleUsed : Nat := 0
  /-- LNK_LANEl_EQ.EYE_H (R217) -/
  eyeH : Nat := 0
  /-- LNK_LANEl_EQ.EYE_W (R217) -/
  eyeW : Nat := 0
  /-- LNK_LANEl_DFE.TAP1 to TAP4, LNK_LANEl_EQ.TAP5 (R217) -/
  taps : List Int := [0, 0, 0, 0, 0]
  /-- running disparity of the receiver is positive (internal) (R193) -/
  rdPos : Bool := false
  /-- LNK_LANEl_ERR.CODE (R193) -/
  codeErr : Nat := 0
  /-- LNK_LANEl_ERR.DISP (R193) -/
  dispErr : Nat := 0
  /-- LNK_LANEl_CNT.FAILS (R217) -/
  fails : Nat := 0
  /-- LNK_LANEl_CNT.RETRAINS (R217) -/
  retrains : Nat := 0
  /-- LNK_LANEl_RELOCK.RELOCKS (R217) -/
  relocks : Nat := 0
  /-- LNK_LANEl_RELOCK.TRAIN_MS (R217) -/
  trainMs : Nat := 0
  /-- LNK_LANEl_SKEW.DESKEW (R217) -/
  deskew : Nat := 0
  /-- LNK_LANEl_SKEW.SKEW_NS (R217) -/
  skewNs : Nat := 0
  /-- LNK_LANEl_SKEW.EXCLUDED (R217) -/
  excluded : Nat := 0
  /-- LNK_LANEl_PRBS.ERRORS (R211) -/
  prbsErrors : Nat := 0
  /-- last bits of the pattern checker, newest lowest (internal) (R211) -/
  prbsReg : Nat := 0
  /-- line bits since MODE was written that the checker found free of error in a row, at most 64 (internal) (R211) -/
  prbsRun : Nat := 0
  /-- LNK_LANEl_RAW0 and RAW1: the captured word (R211) -/
  raw : Nat := 0
  /-- LNK_LANEl_RAW1.PRBS_LOCK (R211) -/
  prbsLock : Bool := false
  /-- ladder step: its rate (internal) (R203) -/
  ladderRate : Nat := 4
  /-- ladder step: shared reference (internal) (R203) -/
  ladderShared : Bool := false
  /-- REF_MODE taken at the last restart (internal) (R203) -/
  refMode : Nat := 0
  /-- backoff wait in progress, in ms; 0 none (internal) (R203) -/
  backoffMs : Nat := 0
  /-- an attempt is running (internal) (R201) -/
  attempting : Bool := false
  /-- loss of signal (internal) (R201) -/
  los : Bool := true
  /-- a valid ANCHOR set has come in this attempt: the handshake has started (internal) (R201) -/
  started : Bool := false
  /-- consecutive valid ANCHOR sets in DETECT (internal) (R201) -/
  anchors : Nat := 0
  /-- matching ACK sets received (internal) (R202) -/
  acks : Nat := 0
  /-- times of the last entries into RELOCK, in ms (internal) (R209) -/
  relockTimes : List Nat := []
  /-- entered BOND since the last formation (internal) (R206) -/
  waitBond : Bool := false
deriving DecidableEq, Repr

/-- A running eye scan (R210). -/
structure EyeRun where
  /-- LANE (R210) -/
  lane : Nat := 0
  /-- H_STEP (R210) -/
  hStep : Nat := 1
  /-- V_STEP (R210) -/
  vStep : Nat := 1
  /-- its handle (R250) -/
  handle : Nat := 0
  /-- source of the request (R236) -/
  src : Src := .spi
  /-- the lane has left TRAINED and TEST since the scan started (internal) (R210) -/
  left : Bool := false
deriving DecidableEq, Repr

/-- What a transmit lane has sent (R193, R200). -/
structure TxLine where
  /-- running disparity of the transmitter is positive (internal) (R193) -/
  rdPos : Bool := false
  /-- SEQ of the next ordered set on the lane (internal) (R200) -/
  seq : Nat := 0
  /-- code groups of what the lane last sent: ordered sets, a SYNC word or a packet with the set before it (R219) -/
  out : List Nat := []
deriving DecidableEq, Repr

/-- A pending LINK_TRAIN RESTART (R214). -/
structure Restart where
  /-- lanes (R214) -/
  mask : Nat := 0
  /-- its handle (R250) -/
  handle : Nat := 0
  /-- source of the request (R236) -/
  src : Src := .spi
deriving DecidableEq, Repr

/-- A transmit lane (R217). -/
structure TxCtl where
  /-- SWING (R217) -/
  swing : Nat := 8
  /-- DEEMPH (R217) -/
  deemph : Nat := 0
  /-- PATTERN (R213) -/
  pattern : Nat := 0
deriving DecidableEq, Repr

/-- The serial lanes and the bond (chapter 09). -/
structure Lnk where
  /-- LNK_CTL.HRX_EN (R217) -/
  hrxEn : Nat := 15
  /-- LNK_CTL.TW_EN (R217) -/
  twEn : Bool := false
  /-- LNK_CTL.MAX_RATE (R217) -/
  maxRate : Nat := 4
  /-- LNK_CTL.REF_MODE (R217) -/
  refMode : Nat := 0
  /-- LNK_CTL.AUTO_RETRY (R205) -/
  autoRetry : Bool := true
  /-- LNK_CTL.AUTO_REJOIN (R207) -/
  autoRejoin : Bool := true
  /-- the receive lanes 0-4; LNK_STAT.TRAINED, TW_TRAINED (R191) -/
  lanes : List Lane := List.replicate 4 ({} : Lane) ++ [({ state := .disabled } : Lane)]
  /-- LNK_STAT.BONDED: BOND_MASK in force (R206) -/
  bondMask : Nat := 0
  /-- LNK_STAT.BOND_RATE (R206) -/
  bondRate : Nat := 7
  /-- LNK_STAT.FORMING (R206) -/
  forming : Bool := false
  /-- BOND_MASK of the formation in progress (internal) (R206) -/
  formMask : Nat := 0
  /-- BOND_RATE of the formation in progress (internal) (R206) -/
  formRate : Nat := 7
  /-- LNK_STAT.LREF_PRESENT (R197) -/
  lref : Bool := false
  /-- LNK_HTX_CTL (R217) -/
  htx : TxCtl := {}
  /-- LNK_TWTX_CTL (R217) -/
  twtx : TxCtl := {}
  /-- LNK_EYE_ADDR.INDEX (R217) -/
  eyeIndex : Nat := 0
  /-- the result entries; LNK_EYE_DATA, LNK_EYE_STAT.POINTS (R210) -/
  eyeEntries : List (Int × Int × Nat) := []
  /-- LNK_EYE_STAT.LANE (R217) -/
  eyeLane : Nat := 0
  /-- LNK_EYE_STAT.BUSY and the running scan (R210) -/
  eye : Option EyeRun := none
  /-- pending RESTARTs (R214) -/
  restart : List Restart := []
  /-- rate agreed on the twin link (internal) (R202) -/
  twinAgreed : Nat := 7
  /-- ACK sets with the agreed rate sent on the twin link, at most 4 (internal) (R202) -/
  twinAcks : Nat := 0
  /-- a matching ACK set received on the twin link (internal) (R202) -/
  twinAckSeen : Bool := false
  /-- a CLIMB showed the partner's TWRX in BOND or TRAINED (internal) (R207) -/
  peerBond : Bool := false
  /-- what HTX has sent (R232) -/
  htxLine : TxLine := {}
  /-- what TWTX has sent (R271) -/
  twtxLine : TxLine := {}
deriving DecidableEq, Repr

/-- Counters of one path (R235). -/
structure RPath where
  /-- LNK_RPp_PKTS.COUNT (R235) -/
  pkts : Nat := 0
  /-- LNK_RPp_BYTES.COUNT (R235) -/
  bytes : Nat := 0
  /-- LNK_RPp_ERR.HDR_ERR (R235) -/
  hdrErr : Nat := 0
  /-- LNK_RPp_ERR.CUT (R235) -/
  cut : Nat := 0
  /-- LNK_RPp_DISC.STRAY (R235) -/
  stray : Nat := 0
  /-- LNK_RPp_DISC.INVALID (R235) -/
  invalid : Nat := 0
  /-- LNK_RPp_BREAK.BREAKS (R235) -/
  breaks : Nat := 0
  /-- LNK_RPp_BREAK.ABORTS (R235) -/
  aborts : Nat := 0
  /-- LNK_RPp_BUF.MAX (R235) -/
  bufMax : Nat := 0
  /-- LNK_RPp_BUF.OVERFLOWS (R235) -/
  overflows : Nat := 0
  /-- LNK_RPp_LAST.LAYER (R235) -/
  lastLayer : Nat := 0
  /-- LNK_RPp_LAST.CAUSE (R235) -/
  lastCause : Nat := 0
  /-- the path accepts traffic (internal) (R229) -/
  up : Bool := false
  /-- symbols of a packet that has begun with the start of packet that cut the last one (internal) (R224) -/
  held : List RxSym := []
deriving DecidableEq, Repr

/-- The Rope link (chapter 10). -/
structure Rope where
  /-- LNK_ROPE_CTL.LAYER_SRC (R235) -/
  layerSrc : Nat := 0
  /-- LNK_ROPE_CTL.STATUS_EN (R235) -/
  statusEn : Bool := true
  /-- LNK_ROPE_CTL.OUTCOME_EN (R235) -/
  outcomeEn : Bool := true
  /-- the host bond (R235) -/
  host : RPath := {}
  /-- the twin link (R235) -/
  twin : RPath := {}
  /-- LNK_HTX_STAT.STATUS_SENT (R235) -/
  statusSent : Nat := 0
  /-- LNK_HTX_STAT.REPLIES_SENT (R235) -/
  repliesSent : Nat := 0
  /-- replies waiting for HTX, oldest first (R232) -/
  htxReplies : List (List Byte) := []
  /-- COMMAND bodies waiting for TWTX, oldest first (R224) -/
  twtxReplies : List (List Byte) := []
  /-- STATUS packets waiting for HTX, oldest first: REASON, LAYER, OUTCOME (R232) -/
  statusDue : List (Nat × Nat × Nat) := []
  /-- SEQ of the next SYNC word sent (internal) (R278) -/
  syncSeq : Nat := 0
  /-- the forwarding buffer: packets after their SOP, oldest first, with whether ABORT ends them (R284) -/
  fwdQueue : List (List Byte × Bool) := []
deriving DecidableEq, Repr

/-- One command source (R236). -/
structure SrcState where
  /-- CMD_SRCs_ALIVE.REF (R267) -/
  ref : Nat := 0
  /-- CMD_SRCs_ALIVE.VALID (R267) -/
  valid : Bool := false
  /-- CMD_SRCs_CNT0.EXECUTED (R267) -/
  executed : Nat := 0
  /-- CMD_SRCs_CNT0.BAD_CRC (R267) -/
  badCrc : Nat := 0
  /-- CMD_SRCs_CNT1.REPEATS (R267) -/
  repeats : Nat := 0
  /-- CMD_SRCs_CNT1.SEQ_GAPS (R267) -/
  gaps : Nat := 0
  /-- CMD_SRCs_CNT2.DROPPED (R267) -/
  dropped : Nat := 0
  /-- the stored reply (R243) -/
  stored : List Byte := []
deriving DecidableEq, Repr

/-- A request in a receive queue (R236). -/
structure Waiting where
  /-- source (R236) -/
  src : Src := .spi
  /-- header, payload and CRC (R239) -/
  bytes : List Byte := []
deriving DecidableEq, Repr

/-- A completion-queue entry (R251). -/
structure CqEntry where
  /-- HANDLE (R251) -/
  handle : Nat := 0
  /-- OPCODE (R251) -/
  opcode : Nat := 0
  /-- STATUS (R251) -/
  status : Nat := 0
  /-- SOURCE (R251) -/
  source : Nat := 0
  /-- RESULT0 (R251) -/
  r0 : Nat := 0
  /-- RESULT1 (R251) -/
  r1 : Nat := 0
deriving DecidableEq, Repr

/-- A FW_PATCH load in progress (R264). -/
structure PatchLoad where
  /-- LENGTH (R264) -/
  length : Nat := 0
  /-- signature given with COMMIT (R264) -/
  sig : List Byte := []
  /-- handles and sources of the COMMITs that run (R264) -/
  commits : List (Nat × Src) := []
deriving DecidableEq, Repr

/-- The command front end (chapter 11). -/
structure Cmd where
  /-- source 0 (R236) -/
  spi : SrcState := {}
  /-- source 1 (R236) -/
  inband : SrcState := {}
  /-- source 2 (R236) -/
  twin : SrcState := {}
  /-- requests received and not yet executed, in order of arrival; EXECUTING (R236) -/
  queue : List Waiting := []
  /-- the SPI reply buffer; REPLY_READY (R246) -/
  spiReply : Option (List Byte) := none
  /-- bytes sent on SDO in the last transaction (R245) -/
  sdo : List Byte := []
  /-- the completion queue, oldest first; CMD_STAT.CQ_COUNT; IRQ_N (R251) -/
  cq : List CqEntry := []
  /-- outstanding handles; CMD_STAT.OUTSTANDING (R250) -/
  outstanding : List Nat := []
  /-- the handle counter (R250) -/
  nextHandle : Nat := 1
  /-- CMD_STAT.LOCKED (R261) -/
  locked : Bool := false
  /-- CMD_STAT.PATCH_ACTIVE (R267) -/
  patchActive : Bool := false
  /-- ID_PATCH_VER.VERSION (R267) -/
  patchVer : Nat := 0
  /-- CMD_LOCK.LOCK_REFUSALS (R262) -/
  lockRefusals : Nat := 0
  /-- CMD_STAT.PATCH_LOADING and the load (R264) -/
  patch : Option PatchLoad := none
  /-- CMD_PATCH.BYTES (R267) -/
  patchBytes : Nat := 0
  /-- CMD_PATCH.LAST_FAIL (R267) -/
  patchFail : Nat := 0
deriving DecidableEq, Repr

/-- The twin configuration (R285). -/
structure TwinCfg where
  /-- TWN_CTL.ROLE (R268) -/
  role : Nat := 0
  /-- TWN_CTL.SHARE_LEVEL (R281) -/
  shareLevel : Nat := 3
  /-- TWN_CTL.FWD_MASK (R284) -/
  fwdMask : Nat := 0
  /-- TWN_CTL.CABLE_NS (R279) -/
  cableNs : Nat := 0
  /-- TWN_JOIN.JOIN_MS (R274) -/
  joinMs : Nat := 100
deriving DecidableEq, Repr

/-- An event record (R375); pre: SECONDS and CYCLES still to be completed at the lifetime load (R377). -/
structure Rec where
  /-- CODE (R375) -/
  code : Nat := 0
  /-- LEVEL (R375) -/
  level : Nat := 0
  /-- FLAGS (R375) -/
  flags : Nat := 0
  /-- SECONDS (R375) -/
  seconds : Nat := 0
  /-- CYCLES (R375) -/
  cycles : Nat := 0
  /-- SEQ (R376) -/
  seq : Nat := 0
  /-- PARAM[0] (R375) -/
  p0 : Nat := 0
  /-- PARAM[1] (R375) -/
  p1 : Nat := 0
  /-- PARAM[2] (R375) -/
  p2 : Nat := 0
  /-- PARAM[3] (R375) -/
  p3 : Nat := 0
  /-- the reserved bytes at offset 28, as received in a witness copy (R375) -/
  rsv : Nat := 0
  /-- made before the lifetime load of a power-on (internal) (R377) -/
  pre : Bool := false
  /-- scar cell whose copy this is (internal) (R315) -/
  cell : Option Nat := none
deriving DecidableEq, Repr

/-- A record held for the twin (R282). -/
structure TwinRec where
  /-- RSEQ, given when first sent (R282) -/
  rseq : Nat := 0
  /-- KIND (R282) -/
  kind : Nat := 0
  /-- RECORD (R282) -/
  record : Rec := {}
  /-- transmissions made (R282) -/
  sends : Nat := 0
deriving DecidableEq, Repr

/-- Twin operation (chapter 12). -/
structure Twn where
  /-- TWN_CTL and TWN_JOIN (R289) -/
  cfg : TwinCfg := {}
  /-- TWN_CTL.STORED (R289) -/
  stored : Bool := false
  /-- TWN_STAT.ROLE_PEND and the waiting role (R286) -/
  rolePend : Option Nat := none
  /-- TWN_STAT.STATE (R273) -/
  state : Nat := 0
  /-- TWN_STAT.LOST_CAUSE (R274) -/
  lostCause : Nat := 0
  /-- TWN_STAT.PIN_ACTIVE (R270) -/
  pinActive : Bool := false
  /-- TWN_STAT.HB_OK (R289) -/
  hbOk : Bool := false
  /-- TWN_STAT.PEER_MODE (R289) -/
  peerMode : Nat := 7
  /-- TWN_STAT.PEER_ROLE (R289) -/
  peerRole : Nat := 0
  /-- TWN_STAT.LINK_DOWN (R275) -/
  linkDown : Bool := false
  /-- TWN_STAT.PIN_FAULT (R275) -/
  pinFault : Bool := false
  /-- TWN_STAT.CONFLICT (R280) -/
  conflict : Bool := false
  /-- consecutive valid heartbeats that report lit (internal) (R273) -/
  litRun : Nat := 0
  /-- SEQ of the last valid TWIN packet (internal) (R273) -/
  lastSeq : Option Nat := none
  /-- DEFECTS of the last valid heartbeat (internal) (R272) -/
  peerDefects : Nat := 0
  /-- SECONDS of the last valid heartbeat (internal) (R272) -/
  peerSeconds : Nat := 0
  /-- TWN_HB_RX.COUNT (R289) -/
  hbRx : Nat := 0
  /-- TWN_HB_ERR.INVALID (R289) -/
  hbInvalid : Nat := 0
  /-- TWN_HB_ERR.MAX_SILENCE_US (R289) -/
  maxSilenceUs : Nat := 0
  /-- TWN_SYNC_STAT.SKEW_NS (R289) -/
  skewNs : Int := 0
  /-- TWN_SYNC_STAT.SKEW_MAX_NS (R289) -/
  skewMax : Nat := 0
  /-- consecutive frames beyond 500 ns (internal) (R279) -/
  skewRun : Nat := 0
  /-- TWN_REC.SENT (R289) -/
  recSent : Nat := 0
  /-- TWN_REC.RECEIVED (R289) -/
  recReceived : Nat := 0
  /-- TWN_REC_ERR.RETRIES (R289) -/
  retries : Nat := 0
  /-- TWN_REC_ERR.UNACKED (R289) -/
  unacked : Nat := 0
  /-- TWN_FWD.PACKETS (R289) -/
  fwdPackets : Nat := 0
  /-- TWN_FWD_DROP.DROPS (R289) -/
  fwdDrops : Nat := 0
  /-- TWN_LOSS.LOSSES (R289) -/
  losses : Nat := 0
  /-- TWN_LOSS.RETURNS (R289) -/
  returns : Nat := 0
  /-- TWN_LAST_LOSS.SECONDS (R289) -/
  lastLoss : Nat := 0
  /-- TWN_PEER_UID0 (R283) -/
  peerUid0 : Nat := 0
  /-- TWN_PEER_UID1 (R283) -/
  peerUid1 : Nat := 0
  /-- TWN_PEER_ROM (R283) -/
  peerRom : Nat := 0
  /-- SEQ of the next TWIN packet sent (internal) (R271) -/
  txSeq : Nat := 0
  /-- RSEQ of the next new record sent (internal) (R282) -/
  rseqNext : Nat := 1
  /-- RSEQ of the last RECORD received in order; ACK_RSEQ (internal) (R272) -/
  ackRseq : Nat := 0
  /-- a RECORD has been stored since the link entered TRAINED (internal) (R282) -/
  recSeen : Bool := false
  /-- records sent and not acknowledged, oldest first (R282) -/
  inFlight : List TwinRec := []
  /-- records waiting to be sent, oldest first (R282) -/
  sendQueue : List TwinRec := []
  /-- level of TWIN_ALIVE_OUT (R269) -/
  aliveOut : Bool := false
  /-- a GET_INFO request has been sent since the last KINDLE (internal) (R283) -/
  infoSent : Bool := false
  /-- a GET_INFO request awaits its reply (internal) (R283) -/
  infoWait : Bool := false
  /-- ALIVE of the next GET_INFO request to the twin (internal) (R283) -/
  infoAlive : Nat := 0
deriving DecidableEq, Repr

/-- One store bank (R295). -/
structure Bank where
  /-- MEM_BANKb.USE (R295) -/
  use : Nat := 1
  /-- MEM_BANKb.HANDOVER and the new use (R296) -/
  handover : Option Nat := none
  /-- MEM_BANKb.POOLED (R297) -/
  pooled : Bool := false
  /-- MEM_BANKb.CORR (R292) -/
  corr : Nat := 0
  /-- requests that wait at the bank (R299) -/
  waits : List Claim := []
  /-- level 1: engine last granted in each cluster (internal) (R299) -/
  turns : List Nat := [5, 5, 5, 5]
  /-- level 2: port last granted (internal) (R299) -/
  lastPort : Nat := 7
  /-- row that the scrubber reads next; 32,768: the bank waits for the end of the pass (internal) (R293) -/
  scrubRow : Nat := 0
deriving DecidableEq, Repr

/-- One store master (R301). -/
structure Master where
  /-- MEM_MSTm_CONFLICTS.COUNT (R301) -/
  conflicts : Nat := 0
  /-- MEM_MSTm_ESC.COUNT (R301) -/
  esc : Nat := 0
  /-- MEM_MSTm_WAIT.WAIT_MAX (R301) -/
  waitMax : Nat := 0
deriving DecidableEq, Repr

/-- The common store (chapter 13). -/
structure Mem where
  /-- MEM_CTL.SCRUB_EN (R293) -/
  scrubEn : Bool := true
  /-- MEM_POOL.BASE (R297) -/
  poolBase : Nat := 0
  /-- MEM_POOL.SIZE (R297) -/
  poolSize : Nat := 0
  /-- MEM_ECC_CORR.COUNT (R292) -/
  eccCorr : Nat := 0
  /-- MEM_ECC_UNCORR.COUNT (R292) -/
  eccUncorr : Nat := 0
  /-- MEM_ECC_UNCORR.LAST_BANK (R307) -/
  eccBank : Nat := 0
  /-- MEM_SCRUB.PASSES (R293) -/
  scrubPasses : Nat := 0
  /-- MEM_NONOWNER.COUNT (R295) -/
  nonOwner : Nat := 0
  /-- MEM_NONOWNER.LAST_BANK (R307) -/
  nonOwnerBank : Nat := 0
  /-- MEM_NONOWNER.LAST_PORT (R307) -/
  nonOwnerPort : Nat := 0
  /-- MEM_WIN_ADDR.ADDR (R302) -/
  winAddr : Nat := 0
  /-- MEM_WIN_DATA0 (R302) -/
  winData0 : Nat := 0
  /-- MEM_WIN_DATA1 (R302) -/
  winData1 : Nat := 0
  /-- MEM_WIN_CMD.STATUS (R302) -/
  winStatus : Nat := 0
  /-- MEM_WIN_CMD.BUSY and the operation in progress: OP, ADDR, DATA0, DATA1 at its start (R302) -/
  winOp : Option (Nat × Nat × Nat × Nat) := none
  /-- requests of the link DMA engines behind one of theirs that waits at the same bank, in order (internal) (R299) -/
  behind : List Claim := []
  /-- the 64 banks (R295) -/
  banks : List Bank := (List.range 64).map (fun b => { use := if b < 60 then 1 else 2 })
  /-- the 28 masters (R294) -/
  masters : List Master := List.replicate 28 {}
  /-- content by physical byte (bank, row); unlisted reads 0 (R291) (R290) -/
  cells : List Host.Cell := []
  /-- physical words that hold an uncorrectable error (R292) -/
  errWords : List Nat := []
  /-- source and reply of a request whose handovers run (R305) -/
  assigning : Option (Src × List Byte) := none
  /-- base and size of the pool being made (R297) -/
  poolNext : Option (Nat × Nat) := none
deriving DecidableEq, Repr

/-- One junction sensor (R309). -/
structure Sensor where
  /-- THM_SENSn.TEMP (R324) -/
  temp : Int := 0
  /-- THM_SENSn.EXCLUDED (R309) -/
  excluded : Bool := false
  /-- THM_SENSn.OFFSET (R324) -/
  offset : Int := 0
  /-- consecutive discarded samples (internal) (R309) -/
  bad : Nat := 0
  /-- a sample has been accepted (internal) (R309) -/
  seen : Bool := false
  /-- last 8 accepted samples, newest first (internal) (R310) -/
  hist : List Int := []
deriving DecidableEq, Repr

/-- The thermal configuration (R321). -/
structure ThermCfg where
  /-- THM_CTL.KNEE (R324) -/
  knee : Nat := 115
  /-- THM_CTL.AUTO_REKINDLE (R324) -/
  autoRekindle : Bool := false
  /-- THM_CTL.NTC_EN (R324) -/
  ntcEn : Bool := false
  /-- THM_NTC_CFG.BETA (R324) -/
  beta : Nat := 3435
  /-- THM_NTC_RES.RES_25C (R324) -/
  res : Nat := 10000
deriving DecidableEq, Repr

/-- Thermal management (chapter 14). -/
structure Thm where
  /-- THM_CTL, THM_NTC_CFG and THM_NTC_RES (R324) -/
  cfg : ThermCfg := {}
  /-- a configuration that takes effect at the next 1 ms evaluation (internal) (R321) -/
  pendCfg : Option ThermCfg := none
  /-- THM_CTL.STORED (R324) -/
  stored : Bool := false
  /-- DRV_BUDGET.THERM_F and THM_STAT.F (R311) -/
  f : Nat := 16
  /-- THM_STAT.SCAR_DONE (R324) -/
  scarDone : Bool := false
  /-- THM_STAT.NVM_OPEN (R317) -/
  nvmOpen : Bool := false
  /-- THM_STAT.HOT_SENSOR (R324) -/
  hotSensor : Nat := 0
  /-- THM_TEMP.T_S (R310) -/
  tS : Int := 0
  /-- THM_TEMP.T_D (R310) -/
  tD : Int := 0
  /-- THM_NTC.CODE (R319) -/
  ntcCode : Nat := 0
  /-- THM_NTC.TEMP (none: 0x8000) (R319) -/
  ntcTemp : Option Int := none
  /-- the last NTC code was invalid (internal) (R319) -/
  ntcBad : Bool := false
  /-- THM_COUNT.STEPS_DOWN (R324) -/
  stepsDown : Nat := 0
  /-- THM_DEFER.STORES (R318) -/
  deferStores : Nat := 0
  /-- THM_DEFER.REPLIES (R318) -/
  deferReplies : Nat := 0
  /-- the 36 sensors; THM_COUNT.EXCLUDED, PERI_EXCLUDED (R308) -/
  sensors : List Sensor := List.replicate 36 {}
  /-- condition the 250 ms timer runs for: 0 none, 1 down, 2 up (internal) (R311) -/
  derateCond : Nat := 0
  /-- lowest F since THERM_DERATE (internal) (R323) -/
  lowestF : Nat := 16
  /-- operating second of THERM_DERATE (internal) (R323) -/
  derateAt : Nat := 0
  /-- the THERMAL_SHUTDOWN record whose scar write is due (internal) (R314) -/
  tripRec : Option Rec := none
  /-- scar cells being written with their content, oldest first (internal) (R314) -/
  scarWriting : List (Nat × List Byte) := []
  /-- T_ARRAY at the trip (internal) (R314) -/
  tripArr : Int := 0
  /-- T_PERI at the trip (internal) (R314) -/
  tripPeri : Int := 0
  /-- F at the trip (internal) (R314) -/
  tripF : Nat := 16
  /-- scar cells whose copy is counted as deferred (internal) (R318) -/
  scarDeferred : List Nat := []
deriving DecidableEq, Repr

/-- One fault class (R327, R328). -/
structure ClassState where
  /-- FLT_CLASSc.LEVEL (R349) -/
  level : Nat := 0
  /-- FLT_CLASSc.HOLD (R329) -/
  hold : Bool := false
  /-- FLT_CLASSc.ACKED (R334) -/
  acked : Bool := false
  /-- FLT_CLASSc.OCCURRENCES (R349) -/
  occurrences : Nat := 0
  /-- FLT_CLASSBc.COLLATERAL (R349) -/
  collateral : Nat := 0
  /-- FLT_CLASSBc.ESCALATIONS (R349) -/
  escalations : Nat := 0
deriving DecidableEq, Repr

/-- A condition that is present (R327). -/
structure Cond where
  /-- event code (R327) -/
  code : Nat := 0
  /-- layer, region, sensor ... it is about (R327) -/
  unit : Nat := 0
  /-- its level (R327) -/
  level : Nat := 0
  /-- parameters, for a raise at the close of a window (R333) -/
  p0 : Nat := 0
  /-- parameter 1 (R333) -/
  p1 : Nat := 0
  /-- parameter 2 (R333) -/
  p2 : Nat := 0
  /-- parameter 3 (R333) -/
  p3 : Nat := 0
  /-- raised as collateral only (internal) (R333) -/
  collateral : Bool := false
deriving DecidableEq, Repr

/-- An injection in progress (R342). -/
structure Inject where
  /-- FLT_INJ_STAT.CODE (R349) -/
  code : Nat := 0
  /-- FLT_INJ_STAT.LIVE (R349) -/
  live : Bool := false
  /-- the record the injection made (internal) (R342) -/
  mark : Rec := {}
deriving DecidableEq, Repr

/-- The fault collector (chapter 15). -/
structure Flt where
  /-- FLT_CTL.ESC_COMPAT (R334) -/
  escCompat : Bool := false
  /-- FLT_CTL.FAULTN_LEVEL (R331) -/
  faultnLevel : Nat := 2
  /-- FLT_STAT.SELF_FAULT (R343) -/
  selfFault : Bool := false
  /-- FLT_STAT.WINDOWS: reactions whose windows are open (R333) -/
  windows : List Nat := []
  /-- compose latches seen since ENGINE_RESET opened its window (internal) (R332) -/
  window4 : Nat := 0
  /-- class states, class c at place c; FLT_HOLD, FLT_LATCHED, FLT_ACKED (R349) -/
  classes : List ClassState := List.replicate 18 {}
  /-- conditions present; FLT_PRESENT, PRESENT_LEVEL (R327) -/
  conds : List Cond := []
  /-- FLT_FIRSTw and FIRST_VALID (R328) -/
  first : Option Rec := none
  /-- the history queue, newest first; HIST_COUNT (R328) -/
  hist : List Rec := []
  /-- FLT_HIST_ADDR.ENTRY (R349) -/
  histEntry : Nat := 0
  /-- FLT_HIST_ADDR.WORD (R349) -/
  histWord : Nat := 0
  /-- FLT_INJ.COUNT (R349) -/
  injCount : Nat := 0
  /-- FLT_INJ.COINCIDENT (R349) -/
  injCoincident : Nat := 0
  /-- FLT_INJ_STAT (R349) -/
  inj : Option Inject := none
  /-- FLT_COLLATERAL.COUNT (R349) -/
  collateral : Nat := 0
  /-- FLT_SELF.COUNT (R349) -/
  selfCount : Nat := 0
  /-- FLT_SELF.PARITY (R349) -/
  selfParity : Bool := false
  /-- FLT_SELF.COMPARE (R349) -/
  selfCompare : Bool := false
  /-- FLT_SELF.WORD (R349) -/
  selfWord : Nat := 0
  /-- code, level and operating second of the last record of each rate-limited code (internal) (R435) -/
  marks : List (Nat × Nat × Nat) := []
  /-- code of the event that caused the last entry into SNUFFED (internal) (R272) -/
  snuffCode : Nat := 0
deriving DecidableEq, Repr

/-- A store that is requested of the NVM port (R362). -/
structure StoreReq where
  /-- content code (R356) -/
  content : Nat := 0
  /-- automatic, not required by a command (R362) -/
  auto : Bool := true
  /-- header fields a TWIN_CONFIG or THERM_CONFIG substitutes: offset and bytes (R365) -/
  patch : List (Nat × List Byte) := []
  /-- handles of the commands that require the store (R370) -/
  who : List Nat := []
  /-- its deferral is counted (internal) (R318) -/
  deferred : Bool := false
  /-- required by the sleep entry in progress (internal) (R402) -/
  sleep : Bool := false
deriving DecidableEq, Repr

/-- The store that is running (R359). -/
structure StoreRun where
  /-- content code (R356) -/
  content : Nat := 0
  /-- target: 0 A, 1 B (R360) -/
  slot : Nat := 0
  /-- its new GEN (R360) -/
  gen : Nat := 0
  /-- the body that is written (R363) -/
  body : List Byte := []
  /-- automatic (R362) -/
  auto : Bool := true
  /-- as requested (R365) -/
  patch : List (Nat × List Byte) := []
  /-- handles of the commands that require the store (R370) -/
  who : List Nat := []
  /-- DIAG_MAP_GEN when the body was formed (internal) (R114) -/
  mapGen : Nat := 0
  /-- required by the sleep entry in progress (internal) (R402) -/
  sleep : Bool := false
deriving DecidableEq, Repr

/-- A PATTERN_WRITE load (R367). -/
structure PwLoad where
  /-- NVM_PW.TARGET (R374) -/
  target : Nat := 0
  /-- target slot: 0 A, 1 B, 2 single (R360) -/
  slot : Nat := 0
  /-- its new GEN (R360) -/
  gen : Nat := 0
  /-- NVM_PW.BYTES (R374) -/
  bytes : Nat := 0
  /-- handles and sources of the COMMITs that run (R367) -/
  commits : List (Nat × Src) := []
deriving DecidableEq, Repr

/-- A CALIBRATE FULL or CAL_COMMIT that is running. -/
structure CalRun where
  /-- CALIBRATE FULL instead of CAL_COMMIT (R370) -/
  full : Bool := true
  /-- STORE (R369) -/
  store : Bool := false
  /-- 0 waits for its frame latch, 1 dark and to be measured, 2 staged, 3 storing (R370) -/
  stage : Nat := 0
  /-- its handle (R250) -/
  handle : Nat := 0
  /-- source of the request (R236) -/
  src : Src := .spi
  /-- contents still to be committed (R371) -/
  todo : Nat := 0
  /-- contents committed (R371) -/
  done : Nat := 0
  /-- contents that could not be committed (R371) -/
  lost : Nat := 0
  /-- status of the first that could not; 0 none (R371) -/
  bad : Nat := 0
  /-- W of the measurement (R370) -/
  w : Nat := 0
  /-- RESULT1 bits (R370) -/
  flags : Nat := 0
  /-- wicks that failed the judgement, ascending (R354) -/
  flagged : List Nat := []
  /-- sensor offsets to be taken into use (R352) -/
  sens : List Int := []
deriving DecidableEq, Repr

/-- The calibration header in force (R365). -/
structure Header where
  /-- SENSOR_OFS (R365) -/
  sensorOfs : List Int := List.replicate 36 0
  /-- CTLE starting codes (R365) -/
  ctle : List Nat := List.replicate 25 255
  /-- TWIN payload when stored (R365) -/
  twin : Option (List Byte) := none
  /-- THERM payload when stored (R365) -/
  therm : Option (List Byte) := none
  /-- a valid header was loaded in this KINDLE (internal) (R353) -/
  loaded : Bool := false
deriving DecidableEq, Repr

/-- A wick set (R364). -/
structure WickSet where
  /-- sink offset, by wick (R364) -/
  offset : Sparse Int := ⟨0, []⟩
  /-- pre-charge level, by wick (R364) -/
  pre : Sparse Nat := ⟨0, []⟩
  /-- flagged wicks, ascending (R364) -/
  flagged : List Nat := []
deriving DecidableEq, Repr

/-- MRAM, slots, stores and calibration (chapter 16). -/
structure Nvm where
  /-- MRAM content by byte address (unlisted reads 0) (R356) -/
  mram : List Host.Cell := []
  /-- MRAM words that hold an uncorrectable error (R357) -/
  badWords : List Nat := []
  /-- scar-area content (unlisted reads 0) (R356) -/
  scar : List Host.Cell := []
  /-- words of the scar area that hold an uncorrectable error (R372) -/
  scarBad : List Nat := []
  /-- NVM_STAT.BUSY while a load runs (R374) -/
  loading : Bool := false
  /-- NVM_STAT.LOAD_DONE (R374) -/
  loadDone : Bool := false
  /-- the defect list and the wick set of a quick KINDLE's load are read (internal) (R44) -/
  firstLoaded : Bool := false
  /-- stores waiting; NVM_STAT.PENDING (R362) -/
  queue : List StoreReq := []
  /-- the store that is running; NVM_STAT.BUSY, PENDING (R362) -/
  run : Option StoreRun := none
  /-- NVM_INFORCE.SLOT (R374) -/
  inForce : List Nat := List.replicate 10 3
  /-- NVM_GENk.GEN (R374) -/
  gens : List Nat := List.replicate 10 0
  /-- NVM_ERR.VERIFY_FAILS (R362) -/
  verifyFails : Nat := 0
  /-- NVM_ERR.SLOT_BAD (R374) -/
  slotBad : Nat := 0
  /-- NVM_WRITES.UNITS (R374) -/
  units : Nat := 0
  /-- NVM_STAT.PW_ACTIVE and the load in progress (R367) -/
  pw : Option PwLoad := none
  /-- NVM_PW.TARGET (R374) -/
  pwTarget : Nat := 0
  /-- NVM_PW.BYTES (R374) -/
  pwBytes : Nat := 0
  /-- CAL_STAT.RESULT (R374) -/
  calResult : Nat := 0
  /-- CAL_STAT.QUICK (R374) -/
  calQuick : Bool := false
  /-- CAL_STAT.SENS_SKIPPED (R352) -/
  sensSkipped : Bool := false
  /-- CAL_STAT.NO_WICK_SET (R354) -/
  noWickSet : Bool := false
  /-- CAL_STAT.WICKS_FAILED (R374) -/
  wicksFailed : Nat := 0
  /-- CAL_SENS_FAIL0 and 1: sensors that failed (R374) -/
  sensFail : List Nat := []
  /-- CAL_FIRST_FLAG: column and band (R374) -/
  firstFlag : Nat × Nat := (0, 0)
  /-- CAL_TIME.US (R374) -/
  calUs : Nat := 0
  /-- CAL_STAT.CAL_BUSY and the CALIBRATE that runs (R369) -/
  calRun : Option CalRun := none
  /-- CAL_COMMITs that run (R371) -/
  commits : List CalRun := []
  /-- what this KINDLE has measured (internal) (R350) -/
  meas : Option CalMeas := none
  /-- the calibration header in force (R365) -/
  header : Header := {}
  /-- the stored wick set loaded in this KINDLE, or the set in force (R363) -/
  wickSet : Option WickSet := none
  /-- no valid trim was found (internal) (R363) -/
  trimMissing : Bool := false
  /-- which pattern PILOT shows: 7 pilot, 8 belay (R33) -/
  pilotArea : Option Nat := none
  /-- which pattern BELAY shows: 7 pilot, 8 belay (R33) -/
  belayArea : Option Nat := none
  /-- pattern areas due for a reload after an uncorrectable error (R292) -/
  reloads : List Nat := []
  /-- configuration stores that failed their verify and are due again (R362) -/
  retry : List StoreReq := []
deriving DecidableEq, Repr

/-- Drop counts of one class (R382). -/
structure DropState where
  /-- EVR_DROPc.COUNT (R392) -/
  count : Nat := 0
  /-- EVR_DROPc.PENDING (R392) -/
  pending : Nat := 0
deriving DecidableEq, Repr

/-- The lifetime counts (R388). -/
structure Life where
  /-- MODE_S (R388) -/
  modeS : List Nat := List.replicate 6 0
  /-- TJ_S (R388) -/
  tjS : List Nat := List.replicate 20 0
  /-- NTC_S (R388) -/
  ntcS : List Nat := List.replicate 20 0
  /-- CURRENT_S (R388) -/
  currentS : List Nat := List.replicate 25 0
  /-- THROTTLE_STEPS (R388) -/
  throttle : Nat := 0
  /-- RETRAINS (R388) -/
  retrains : List Nat := List.replicate 5 0
  /-- SHUTDOWNS (R388) -/
  shutdowns : Nat := 0
  /-- NVM_UNITS (R388) -/
  nvmUnits : Nat := 0
  /-- DEFECT_NEXT (R388) -/
  defectNext : Nat := 0
  /-- DEFECT_HIST: index, seconds, D (R388) -/
  defectHist : List (Nat × Nat × Nat) := []
deriving DecidableEq, Repr

/-- The event recorder (chapter 17). -/
structure Evr where
  /-- EVR_STAT.STATE (R392) -/
  state : Nat := 3
  /-- the staging queue, oldest first; EVR_STAT.QUEUED (R381) -/
  queue : List Rec := []
  /-- the head's main-ring write is done (internal) (R379) -/
  headMain : Bool := false
  /-- the head's cairn write is done (internal) (R379) -/
  headCairn : Bool := false
  /-- the deferral of the head's writes is counted (internal) (R318) -/
  headDeferred : Bool := false
  /-- EVR_STAT.SCAN_DONE (R380) -/
  scanDone : Bool := false
  /-- EVR_STAT.LIFE_LOADED (R392) -/
  lifeLoaded : Bool := false
  /-- EVR_STAT.SCAR_DONE (R392) -/
  scarDone : Bool := false
  /-- EVR_MAIN_HEAD.SLOT (R392) -/
  mainHead : Nat := 0
  /-- EVR_CAIRN_HEAD.SLOT (R392) -/
  cairnHead : Nat := 0
  /-- slot of the next main-ring write (internal) (R380) -/
  mainNext : Nat := 0
  /-- slot of the next cairn write (internal) (R380) -/
  cairnNext : Nat := 0
  /-- EVR_SEQ.NEXT (R392) -/
  seq : Nat := 0
  /-- EVR_WRITTEN.COUNT (R392) -/
  written : Nat := 0
  /-- cairn writes, as LOG_READ reports them (internal) (R389) -/
  cairnWrites : Nat := 0
  /-- EVR_DROPPED.COUNT (R392) -/
  dropped : Nat := 0
  /-- EVR_DROPc, class c at place c (R392) -/
  drops : List DropState := List.replicate 18 {}
  /-- records dropped since the last summary (internal) (R383) -/
  dropsSum : Nat := 0
  /-- the PILOT-level drop count since the last summary (internal) (R382) -/
  dropsPilot : Nat := 0
  /-- operating second of the first pending drop (internal) (R383) -/
  firstDrop : Option Nat := none
  /-- EVR_COMMIT.SINCE_S (R392) -/
  sinceS : Nat := 0
  /-- EVR_COMMIT.COMMITS (R392) -/
  commits : Nat := 0
  /-- EVR_WITNESS.RECEIVED (R392) -/
  witRx : Nat := 0
  /-- EVR_WITNESS.DROPPED (R392) -/
  witDrop : Nat := 0
  /-- EVR_FAIL_ADDR.ADDR (R392) -/
  failAddr : Nat := 0
  /-- the live lifetime counts (R388) -/
  life : Life := {}
deriving DecidableEq, Repr

/-- The whole device. -/
structure State where
  /-- The always-on island: what it keeps through sleep and RESET_N (R377, R411, R415). -/
  ao : Ao := {}
  /-- Modes, bring-up, P-levels and sleep entry (chapters 02 and 18). -/
  pwr : Pwr := {}
  /-- The frame timer (chapter 01). -/
  ft : Ftimer := {}
  /-- The pixel array and its wick cells (chapter 03). -/
  arr : Arr := {}
  /-- The drive mapper and wear compensation (chapter 04). -/
  map : Map := {}
  /-- Pixel diagnosis (chapter 05). -/
  diag : Diag := {}
  /-- Layers, flip groups, fences and tables (chapter 06). -/
  cmp : Cmp := {}
  /-- The lamplighter engines (chapter 07). -/
  scl : Scl := {}
  /-- Check-value units and signature regions (chapter 08). -/
  chk : Chk := {}
  /-- The serial lanes and the bond (chapter 09). -/
  lnk : Lnk := {}
  /-- The Rope link (chapter 10). -/
  rope : Rope := {}
  /-- The command front end (chapter 11). -/
  cmd : Cmd := {}
  /-- Twin operation (chapter 12). -/
  twn : Twn := {}
  /-- The common store (chapter 13). -/
  mem : Mem := {}
  /-- Thermal management (chapter 14). -/
  thm : Thm := {}
  /-- The fault collector (chapter 15). -/
  flt : Flt := {}
  /-- MRAM, slots, stores and calibration (chapter 16). -/
  nvm : Nvm := {}
  /-- The event recorder (chapter 17). -/
  evr : Evr := {}
  /-- commands that wait, first in, first out (the model's queue) -/
  pending : List Instr := []
  /-- the MODEL's own field: how many free values have been taken -/
  free : Nat := 0
deriving DecidableEq, Repr

/-- The device right after a power-on reset: every register at its reset value, the internal reset asserted, KINDLE entered. -/
def State.reset : State := {}

end Sys2Proof.Machine
end

