-- ==== Sys2Proof/Machine/Ops.lean ====
section
/-! DEFINITION. Operations without a state of their own: counters and bit fields, byte orders, the cyclic redundancy codes, sparse
collections, canonical memory, lists of units. -/

namespace Sys2Proof.Machine

/-- A saturating counter of `w` bits takes `d` more. -/
def satAdd (w n d : Nat) : Nat := min (n + d) (2 ^ w - 1)

/-- A saturating counter of `w` bits counts one. -/
def satInc (w n : Nat) : Nat := satAdd w n 1

/-- A wrapping counter of `w` bits counts one. -/
def wrapInc (w n : Nat) : Nat := (n + 1) % 2 ^ w

/-- Bits `lo` to `lo + w - 1` of a number (R8). -/
def bits (n lo w : Nat) : Nat := (n >>> lo) % 2 ^ w

/-- Two's complement code of `w` bits. -/
def twos (w : Nat) (i : Int) : Nat := (i % (2 ^ w : Int)).toNat

/-- Signed value of a two's complement code of `w` bits. -/
def sext (w n : Nat) : Int :=
  let m := n % 2 ^ w
  if m < 2 ^ (w - 1) then (m : Int) else (m : Int) - (2 ^ w : Int)

/-- A number limited to a range. -/
def clampI (lo hi x : Int) : Int := max lo (min hi x)

/-- A bit of a mask as a number. -/
def flag (b : Bool) (i : Nat) : Nat := if b then 2 ^ i else 0

/-- The mask with the listed bits. -/
def maskOf (l : List Nat) : Nat := l.foldl (fun m i => m ||| 2 ^ i) 0

/-- The bits below `n` that stand in a mask, ascending. -/
def bitsOf (m n : Nat) : List Nat := (List.range n).filter m.testBit

/-- A list with its entry `i` changed; unchanged where there is none. -/
def modNth {α : Type} (l : List α) (i : Nat) (f : α → α) : List α :=
  match l, i with
  | [], _ => []
  | x :: xs, 0 => f x :: xs
  | x :: xs, i + 1 => x :: modNth xs i f

/-- Ceiling of a quotient. -/
def cdiv (a b : Nat) : Nat := (a + b - 1) / b

/-- Quotient rounded to the nearest number, a half upward. -/
def rdiv (a b : Nat) : Nat := (2 * a + b) / (2 * b)

/-! ### Byte order (R8) -/

/-- `k` bytes of a number, little-endian. -/
def le : Nat → Nat → List Byte
  | 0, _ => []
  | k + 1, n => BitVec.ofNat 8 n :: le k (n / 256)

/-- The number that little-endian bytes hold. -/
def leVal : List Byte → Nat
  | [] => 0
  | b :: bs => b.toNat + 256 * leVal bs

/-- `k` bytes from an offset; bytes past the end read 0. -/
def slice (l : List Byte) (off k : Nat) : List Byte :=
  let t := (l.drop off).take k
  t ++ List.replicate (k - t.length) 0

/-- The number at an offset of a byte string. -/
def field (l : List Byte) (off k : Nat) : Nat := leVal (slice l off k)

/-- The signed number at an offset of a byte string. -/
def fieldI (l : List Byte) (off k : Nat) : Int := sext (8 * k) (field l off k)

/-- A byte string with the bytes from an offset replaced. -/
def splice (l : List Byte) (off : Nat) (new : List Byte) : List Byte :=
  l.take off ++ new ++ l.drop (off + new.length)

/-- ASCII bytes of a string. -/
def ascii (t : String) : List Byte := t.toList.map (fun c => BitVec.ofNat 8 c.toNat)

/-! ### Check values (R173 to R175) -/

/-- The `w` low bits in the opposite order. -/
def reflect (w n : Nat) : Nat := (List.range w).foldl (fun r i => r ||| flag (n.testBit i) (w - 1 - i)) 0

/-- One bit of the division of a `w`-bit register, most significant bit first. -/
def crcBit (w poly reg : Nat) (b : Bool) : Nat :=
  let out := (reg.testBit (w - 1)) != b
  let r := (reg * 2) % 2 ^ w
  if out then r ^^^ poly else r

/-- One byte; with `refin` its least significant bit goes first. -/
def crcByte (w poly : Nat) (refin : Bool) (reg : Nat) (b : Byte) : Nat :=
  let order := if refin then List.range 8 else (List.range 8).reverse
  order.foldl (fun r i => crcBit w poly r (b.toNat.testBit i)) reg

/-- The register after a byte string. -/
def crcRun (w poly : Nat) (refin : Bool) (reg : Nat) (l : List Byte) : Nat := l.foldl (crcByte w poly refin) reg

/-- The check value that a register stands for. -/
def crcOut (w : Nat) (refout : Bool) (xorout reg : Nat) : Nat :=
  ((if refout then reflect w reg else reg) ^^^ xorout) % 2 ^ w

/-- CRC-32 of NVM units, frames and twin messages (R173). -/
def crc32 (l : List Byte) : Nat := crcOut 32 true 0xFFFFFFFF (crcRun 32 0x04C11DB7 true 0xFFFFFFFF l)

/-- CRC-32C of the command front end (R173). -/
def crc32c (l : List Byte) : Nat := crcOut 32 true 0xFFFFFFFF (crcRun 32 0x1EDC6F41 true 0xFFFFFFFF l)

/-- CRC-16/CCITT-FALSE of the recorder and of ordered sets (R173). -/
def crc16 (l : List Byte) : Nat := crcOut 16 false 0 (crcRun 16 0x1021 false 0xFFFF l)

/-! ### Sparse collections and canonical memory -/

/-- Insert into an ascending association list; the value `d` is the one that is not listed. -/
def assocSet {α : Type} [DecidableEq α] (d : α) (k : Nat) (v : α) : List (Nat × α) → List (Nat × α)
  | [] => if v = d then [] else [(k, v)]
  | (j, x) :: t =>
    if k < j then (if v = d then (j, x) :: t else (k, v) :: (j, x) :: t)
    else if k = j then (if v = d then t else (k, v) :: t)
    else (j, x) :: assocSet d k v t

/-- The value at a key. -/
def assocGet {α : Type} (d : α) (k : Nat) : List (Nat × α) → α
  | [] => d
  | (j, x) :: t => if k = j then x else assocGet d k t

/-- The value of an index. -/
def sget {α : Type} (m : Sparse α) (i : Nat) : α := assocGet m.dflt i m.cells

/-- The collection with one index changed. -/
def sset {α : Type} [DecidableEq α] (m : Sparse α) (i : Nat) (v : α) : Sparse α :=
  { m with cells := assocSet m.dflt i v (m.cells.filter (fun c => c.1 ≠ i)) }

/-- The collection made by applying a function to every value; `f` keeps or changes the default too. -/
def smap {α β : Type} [DecidableEq β] (f : α → β) (m : Sparse α) : Sparse β :=
  { dflt := f m.dflt, cells := (m.cells.map (fun c => (c.1, f c.2))).filter (fun c => c.2 ≠ f m.dflt) }

/-- The indices below `n` whose value meets a test, ascending. -/
def sfind {α : Type} (n : Nat) (p : α → Bool) (m : Sparse α) : List Nat :=
  if p m.dflt then (List.range n).filter (fun i => p (sget m i))
  else ((m.cells.filter (fun c => c.1 < n && p c.2)).map (·.1))

/-- How many indices below `n` meet a test. -/
def scount {α : Type} (n : Nat) (p : α → Bool) (m : Sparse α) : Nat :=
  let listed := m.cells.filter (fun c => c.1 < n)
  let hit := (listed.filter (fun c => p c.2)).length
  if p m.dflt then hit + (n - listed.length) else hit

/-- Largest value below `n`. -/
def smax (n : Nat) (m : Sparse Nat) : Nat :=
  let listed := m.cells.filter (fun c => c.1 < n)
  listed.foldl (fun a c => max a c.2) (if listed.length < n then m.dflt else 0)

/-- Merge of an ascending index list with one more index. -/
def insertNat (i : Nat) : List Nat → List Nat
  | [] => [i]
  | j :: t => if i < j then i :: j :: t else if i = j then j :: t else j :: insertNat i t

/-- Memory in canonical form: addresses strictly rising, no listed byte equal to 0, what an unlisted byte reads as. -/
def memWfFrom : Nat → List Host.Cell → Bool
  | _, [] => true
  | lo, (a, b) :: t => decide (lo ≤ a) && decide (b ≠ 0) && memWfFrom (a + 1) t

/-- Canonical form of a memory. -/
def memWf (m : List Host.Cell) : Bool := memWfFrom 0 m

/-- The byte at an address; an unlisted byte reads 0. -/
def memGet (m : List Host.Cell) (a : Nat) : Byte := assocGet 0 a m

/-- A byte written; writing 0 removes the entry. -/
def memSet (m : List Host.Cell) (a : Nat) (b : Byte) : List Host.Cell := assocSet 0 a b m

/-- `k` bytes from an address. -/
def memRead (m : List Host.Cell) (a : Nat) : Nat → List Byte
  | 0 => []
  | k + 1 => memGet m a :: memRead m (a + 1) k

/-- Bytes written from an address. -/
def memWrite (m : List Host.Cell) (a : Nat) : List Byte → List Host.Cell
  | [] => m
  | b :: bs => memWrite (memSet m a b) (a + 1) bs

/-- The common store, MRAM and the scar area are in canonical form. -/
def canonical (s : State) : Bool := memWf s.mem.cells && memWf s.nvm.mram && memWf s.nvm.scar

/-- How many lanes, engines, layers, groups, tables, units, regions, banks, masters, sensors and classes the lists of the state hold. -/
abbrev shapes (k : Lnk) (e : Scl) (c : Cmp) (g : Chk) (m : Mem) (h : Thm) (f : Flt) (d : Diag) : List Nat :=
  [k.lanes.length, e.engines.length, e.tables.length, c.layers.length, c.groups.length, c.tables.length, g.gus.length, g.sigs.length,
    m.banks.length, m.masters.length, h.sensors.length, f.classes.length, d.dpr.length, d.safe.length]

/-- The state's lists hold as many units as the device has. -/
def shaped (s : State) : Bool :=
  shapes s.lnk s.scl s.cmp s.chk s.mem s.thm s.flt s.diag = [5, 24, 8, 6, 3, 13, 8, 16, 64, 28, 36, 18, 8, 8]

/-! ### The outcome of a meaning -/

/-- The outcome type of this machine. -/
abbrev Res := Host.Outcome State Fault Refusal

/-- A meaning whose operands name units that exist answers a state; otherwise it stops (Fault.noSuchUnit). -/
def guarded (ok : Bool) (t : State) : Res := if ok then .next t else .fault .noSuchUnit

end Sys2Proof.Machine
end

