-- ==== Sys2Proof/Machine/Flags.lean ====
section
/-! DEFINITION. What follows from the state without changing it: codes of modes and lanes, the event table, presence and levels of faults,
the pins READY, FAULT_N and IRQ_N, the frame constants. -/

namespace Sys2Proof.Machine

/-- Mode code (R31). -/
def modeCode : Mode → Nat
  | .dormant => 0 | .kindle => 1 | .beam => 2 | .pilot => 3 | .belay => 4 | .snuffed => 5

/-- Lane state code (R201). -/
def laneCode : LaneState → Nat
  | .disabled => 0 | .detect => 1 | .lock => 2 | .align => 3 | .adapt => 4 | .bond => 5 | .trained => 6
  | .laneDown => 7 | .test => 8 | .relock => 9

/-- Source number s of a request (R236). -/
def srcNo : Src → Nat
  | .spi => 0 | .inband => 1 | .twin => 2

/-- Number of a path: 0 host bond, 1 twin link (R235). -/
def pathNo : Path → Nat
  | .host => 0 | .twin => 1

/-- A lit mode: BEAM, PILOT or BELAY. -/
def litMode : Mode → Bool
  | .beam | .pilot | .belay => true
  | .dormant | .kindle | .snuffed => false

/-! ### Frame constants (R14) -/

/-- Repeat count N of a rate code. -/
def repeatOf : Nat → Nat
  | 0 => 32 | 1 => 24 | 2 => 20 | 3 => 16 | 4 => 12 | _ => 8

/-- Frame rate in Hz of a rate code. -/
def hzOf : Nat → Nat
  | 0 => 60 | 1 => 80 | 2 => 96 | 3 => 120 | 4 => 160 | _ => 240

/-- PWM clocks of a frame: N scan cycles of 4 slots of 4,160 clocks. -/
def frameClocks (rate : Nat) : Nat := 16640 * repeatOf rate

/-- Frame period in microseconds, rounded down. -/
def periodUs (rate : Nat) : Nat := 1000000 / hzOf rate

/-- Largest effective compose lead in microseconds: the period minus 300 us, rounded down (R23). -/
def maxLead (rate : Nat) : Nat := periodUs rate - 300

/-! ### The event table -/

/-- Events whose level is WARN. -/
def warnCodes : List Nat :=
  [0x0102, 0x0103, 0x0107, 0x0108, 0x0109, 0x0212, 0x0502, 0x0506, 0x0507, 0x0602, 0x0605, 0x0606, 0x0702, 0x0709] ++
  [0x0A02, 0x0B01, 0x0B02, 0x0B05, 0x0C04, 0x0C06, 0x0C07, 0x0D06, 0x0E07, 0x0F01, 0x0F02, 0x1001, 0x1003]

/-- Events whose level is DEGRADE. -/
def degradeCodes : List Nat :=
  [0x0105, 0x0110, 0x0111, 0x0303, 0x0503, 0x0603, 0x0703, 0x0705, 0x0706, 0x0803, 0x0902, 0x0904] ++
  [0x0A20, 0x0A21, 0x0B03, 0x0B20, 0x0C01, 0x0C05, 0x0C08, 0x1002, 0x1102]

/-- Events whose level is PILOT. -/
def pilotCodes : List Nat := [0x0302, 0x0504, 0x0D01]

/-- Events whose level is SNUFF, the BIST failures of R46 among them. -/
def snuffCodes : List Nat :=
  [0x0701, 0x0801, 0x0802, 0x0A22, 0x0E02, 0x0F04, 0x0F05, 0x1101] ++
  [0x01F0, 0x03F0, 0x04F0, 0x06F0, 0x09F0, 0x0AF0, 0x0DF0]

/-- Events whose level the layer, unit, region or port sets (R139, R176, R185, R295). -/
def unitLevelCodes : List Nat := [0x0210, 0x0401, 0x0402, 0x0903]

/-- Level of an event whose table states one; NOTE otherwise (R326). -/
def evLevel (c : Nat) : Nat :=
  if snuffCodes.contains c then 4 else if pilotCodes.contains c then 3
  else if degradeCodes.contains c then 2 else if warnCodes.contains c then 1 else 0

/-- Events whose level is NOTE. -/
def noteCodes : List Nat :=
  [0x0101, 0x0104, 0x0106, 0x010A, 0x0201, 0x0202, 0x0203, 0x0204, 0x0211, 0x0213, 0x0220, 0x0301, 0x0501, 0x0505] ++
  [0x0601, 0x0604, 0x0704, 0x0707, 0x0708, 0x0901, 0x0A01, 0x0A03, 0x0B04, 0x0C02, 0x0C03, 0x0D02, 0x0D03, 0x0D04] ++
  [0x0D05, 0x0D07, 0x0E01, 0x0E03, 0x0E04, 0x0E05, 0x0E06, 0x0E08, 0x0F03, 0x1103, 0x1104]

/-- An event that some chapter defines. -/
def knownEvent (c : Nat) : Bool :=
  noteCodes.contains c || warnCodes.contains c || degradeCodes.contains c || pilotCodes.contains c || snuffCodes.contains c ||
    unitLevelCodes.contains c

/-- Conditions: the events whose chapter says while what they are present (R327). -/
def evIsCondition (c : Nat) : Bool :=
  [0x0110, 0x0210, 0x0302, 0x0401, 0x0502, 0x0503, 0x0504, 0x0701, 0x0706, 0x0803, 0x0C01, 0x0C04, 0x0C05, 0x1101].contains c

/-- Events recorded at most once per second of operation (R435). -/
def evLimited (c : Nat) : Bool :=
  ([0x0104, 0x0106, 0x010A, 0x0201, 0x0202, 0x0203, 0x0204, 0x0213, 0x0220, 0x0301, 0x0505, 0x0601, 0x0604, 0x0707] ++
   [0x0901, 0x0903, 0x0A02, 0x0D02, 0x0D03, 0x0D04, 0x0E08]).contains c

/-- Events whose limit works per level (STORE_NON_OWNER, R306). -/
def evLimitedPerLevel (c : Nat) : Bool := c = 0x0903

/-- Class of an event: the high byte of its code (R325). -/
def evClass (c : Nat) : Nat := c / 256

/-- An event with the level of its table. -/
def ev (code : Nat) (p0 p1 p2 p3 : Nat := 0) : RawEvent := { code, level := evLevel code, p0, p1, p2, p3 }

/-! ### Presence, levels, pins -/

/-- Conditions of a class that are present (R327). -/
def condsOf (f : Flt) (c : Nat) : List Cond := f.conds.filter (fun x => evClass x.code = c)

/-- PRESENT of a class. -/
def classPresent (f : Flt) (c : Nat) : Bool := !(condsOf f c).isEmpty

/-- PRESENT_LEVEL of a class. -/
def presentLevel (f : Flt) (c : Nat) : Nat := (condsOf f c).foldl (fun m x => max m x.level) 0

/-- Whether a condition is present. -/
def condPresent (f : Flt) (code : Nat) : Bool := f.conds.any (·.code = code)

/-- Unit under which the collector holds an injected condition. -/
def injectUnit : Nat := 9999

/-- Whether a condition of a unit is present; an injected one is the condition of unit 0 (R342). -/
def condPresentAt (f : Flt) (code unit : Nat) : Bool :=
  f.conds.any (fun c => c.code = code && (c.unit = unit || (unit = 0 && c.unit = injectUnit)))

/-- The state of a class. -/
def classOf (f : Flt) (c : Nat) : ClassState := f.classes.getD c {}

/-- Highest class LEVEL (FLT_STAT.LEVEL_MAX). -/
def levelMax (f : Flt) : Nat := f.classes.foldl (fun m k => max m k.level) 0

/-- Highest severity of any cause present; 0xFF none (R257, R233). -/
def causeLevel (f : Flt) : Nat := if f.conds.isEmpty then 0xFF else f.conds.foldl (fun m x => max m x.level) 0

/-- Some class is held (R329). -/
def anyHold (f : Flt) : Bool := f.classes.any (·.hold)

/-- The PILOT trigger stands: a class flag at PILOT or SNUFF level (R330). -/
def pilotTrigger (s : State) : Bool := decide (3 ≤ levelMax s.flt)

/-- The BELAY trigger stands (R276): the twin is LOST, or TWIN_LOST is present as a real event that took its reaction (R332, R340,
R342). -/
def belayTrigger (s : State) : Bool :=
  decide (s.twn.cfg.role ≠ 0) && (decide (s.twn.state = 3) || s.flt.conds.any (fun c => c.code = 0x0C01 && !c.collateral))

/-- The clocks of the collector and the event recorder run: no internal reset, no sleep (R404). -/
def awake (s : State) : Bool := !s.pwr.inReset && s.pwr.mode ≠ .dormant

/-- A sleep entry is past its point of no return, and the clocks still run (R402, R404). -/
def pastReturn (s : State) : Bool := !s.pwr.inReset && s.pwr.mode = .dormant && s.ao.sleepState = 0

/-- The SPI port drives its output: from Limral ready until a sleep entry stops CTRL (R43, R402, R406). -/
def spiDrives (s : State) : Bool := s.pwr.limral && !s.pwr.dead && !s.pwr.inReset

/-- Command ports take requests: Limral is ready (R43) and the device neither sleeps nor is in reset; past the point of no return of a
sleep entry every request is discarded (R406). -/
def portsOpen (s : State) : Bool := s.pwr.limral && !s.pwr.dead && !s.pwr.inReset && s.pwr.mode ≠ .dormant

/-- FAULT_N is low (R47, R331, R343). -/
def faultNLow (s : State) : Bool :=
  match s.pwr.mode with
  | .dormant => false
  | .snuffed => true
  | .kindle => !s.pwr.bistDone || decide (s.flt.faultnLevel ≤ levelMax s.flt)
  | _ => decide (s.flt.faultnLevel ≤ levelMax s.flt)

/-- IRQ_N is low (R252, R406). -/
def irqNLow (s : State) : Bool := !s.cmd.cq.isEmpty && s.pwr.mode ≠ .dormant

/-- The array is dark in the sense of R67. -/
def arrayDark (s : State) : Bool := s.pwr.dark || s.pwr.mode = .kindle || s.pwr.mode = .snuffed

/-- Host receive lanes that are TRAINED, as a mask (LNK_STAT.TRAINED). -/
def hrxTrained (s : State) : Nat :=
  maskOf ((List.range 4).filter (fun l => (s.lnk.lanes.getD l {}).state = .trained))

/-- The twin link is TRAINED. -/
def twinTrained (s : State) : Bool := (s.lnk.lanes.getD 4 {}).state = .trained

/-- The host lanes count as all down (R204). -/
def allLanesDown (s : State) : Bool :=
  let h := s.lnk.lanes.take 4
  h.all (fun x => x.state = .laneDown || x.state = .disabled) && h.any (fun x => x.state = .laneDown)

/-- D, the number of pixels in the RAM defect map (R115). -/
def defectCount (s : State) : Nat := s.diag.defects.length

/-- Sensors that take part in the rules: neither excluded nor without an accepted sample (R309, R310). -/
def liveSensors (s : State) : List (Nat × Sensor) :=
  (s.thm.sensors.zipIdx.map (fun c => (c.2, c.1))).filter (fun c => !c.2.excluded && c.2.seen)

/-- Highest last accepted sample of a list, with its sensor. -/
def hottest (l : List (Nat × Sensor)) : Option (Nat × Int) :=
  l.foldl (fun b c => match b with
    | some (_, t) => if t < c.2.temp then some (c.1, c.2.temp) else b
    | none => some (c.1, c.2.temp)) none

/-- The hottest of a range of sensors, in 1/8 degC (R314). -/
def hottestOf (lo hi : Nat) (s : State) : Int :=
  match hottest ((liveSensors s).filter (fun c => decide (lo ≤ c.1) && decide (c.1 ≤ hi))) with
  | some (_, t) => t
  | none => 0

/-- F as this sample leaves it: with more than 8 sensors excluded it is held at 8 or below (R309). -/
def heldF (s : State) : Nat := if 8 < (s.thm.sensors.filter (·.excluded)).length then min s.thm.f 8 else s.thm.f

/-- THM_NTC.TEMP as it is stored and read: 0x8000 without a valid conversion, and while NTC_EN is 0 (R314, R319). -/
def ntcWord (t : Thm) : Nat :=
  match t.ntcTemp with
  | some v => if t.cfg.ntcEn then twos 16 v else 0x8000
  | none => 0x8000

/-- The role is LEADER or FOLLOWER. -/
def paired (s : State) : Bool := s.twn.cfg.role = 1 || s.twn.cfg.role = 2

end Sys2Proof.Machine
end

