-- ==== Sys2Proof/Machine/Wire.lean ====
section
/-! DEFINITION. The wire: 8b/10b code groups, ordered sets, columns and packets, as they are received and sent (R193, R200, R218 to R224). -/

namespace Sys2Proof.Machine

/-- The lanes are powered: from Limral ready on, outside reset and sleep (R410); a re-kindle keeps them (R44). -/
def lanesUp (s : State) : Bool := awake s && (s.pwr.limral || s.pwr.flavor = .rekindle)

/-! ### The 8b/10b code (R193)

The tables are those of IEEE 802.3 Clause 36, which R193 names and does not print (PRESUMED, log entry 94). A code group is a number of
10 bits, its bit a the most significant one and its bit j the least. -/

/-- The 6-bit blocks of the data values 0 to 31, for negative and for positive running disparity. -/
def sixBlocks (pos : Bool) : List Nat :=
  if pos then [24, 34, 18, 49, 10, 41, 25, 7, 6, 37, 21, 52, 13, 44, 28, 40, 36, 35, 19, 50, 11, 42, 26, 5, 12, 38, 22, 9, 14, 17, 33, 20]
  else [39, 29, 45, 49, 53, 41, 25, 56, 57, 37, 21, 52, 13, 44, 28, 23, 27, 35, 19, 50, 11, 42, 26, 58, 51, 38, 22, 54, 14, 46, 30, 43]

/-- The 4-bit blocks of the data values 0 to 7, for the running disparity after the 6-bit block. -/
def fourBlocks (pos : Bool) : List Nat := if pos then [4, 9, 5, 3, 2, 10, 6, 1] else [11, 9, 5, 12, 13, 10, 6, 14]

/-- The control symbols, by their 8-bit code, with their code groups for negative running disparity; for positive disparity every bit is
the opposite. -/
def controlGroups : List (Nat × Nat) :=
  [(0x1C, 244), (0x3C, 249), (0x5C, 245), (0x7C, 243), (0x9C, 242), (0xBC, 250), (0xDC, 246), (0xFC, 248), (0xF7, 936), (0xFB, 872),
   (0xFD, 744), (0xFE, 488)]

/-- The ones in the `w` low bits of a number. -/
def ones (w n : Nat) : Nat := (bitsOf n w).length

/-- Running disparity after a 6-bit block. -/
def afterSix (pos : Bool) (b : Nat) : Bool := if 3 < ones 6 b || b = 7 then true else if ones 6 b < 3 || b = 56 then false else pos

/-- Running disparity after a 4-bit block. -/
def afterFour (pos : Bool) (b : Nat) : Bool := if 2 < ones 4 b || b = 3 then true else if ones 4 b < 2 || b = 12 then false else pos

/-- Running disparity after a code group. -/
def afterGroup (pos : Bool) (g : Nat) : Bool := afterFour (afterSix pos (g / 16 % 64)) (g % 16)

/-- The 4-bit block of a data byte: value 7 has another block after some 6-bit blocks. -/
def fourOf (pos : Bool) (x y : Nat) : Nat :=
  if y = 7 && !pos && [17, 18, 20].contains x then 7
  else if y = 7 && pos && [11, 13, 14].contains x then 8
  else (fourBlocks pos).getD y 0

/-- The code group of a data byte. -/
def dataGroup (pos : Bool) (b : Nat) : Nat :=
  let six := (sixBlocks pos).getD (b % 32) 0
  16 * six + fourOf (afterSix pos six) (b % 32) (b / 32 % 8)

/-- The code group of a control symbol. -/
def controlGroup (pos : Bool) (k : Nat) : Nat :=
  let g := assocGet 0 k (controlGroups.map (fun c => (c.1, c.2)))
  if pos then 1023 - g else g

/-- The code group of a symbol; a code error has none. -/
def codeGroup (pos : Bool) : Sym → Nat
  | .data b => dataGroup pos b.toNat
  | .ctl k => controlGroup pos k
  | .bad => 0

/-- The symbol whose code group this is at a running disparity. -/
def symbolAt (pos : Bool) (g : Nat) : Option Sym :=
  match controlGroups.find? (fun c => controlGroup pos c.1 = g) with
  | some c => some (.ctl c.1)
  | none =>
    let six := g / 16
    let x := (sixBlocks pos).findIdx (· = six)
    let y := (List.range 8).findIdx (fun y => fourOf (afterSix pos six) x y = g % 16)
    if x < 32 && y < 8 then some (.data (BitVec.ofNat 8 (x + 32 * y))) else none

/-- The control symbols that the Rope link uses, and K28.5 (R194, R218). -/
def ropeControls : List Nat := [0xFB, 0xFD, 0xFE, 0xF7, 0x1C, 0x7C, 0xBC]

/-- A decoded symbol as the Rope link takes it: a control symbol outside its table is a code error (R218). -/
def ropeSymbol : Sym → Sym
  | .ctl k => if ropeControls.contains k then .ctl k else .bad
  | x => x

/-- What a receiver makes of a code group (R193): the symbol, whether its disparity is wrong. -/
def receiveGroup (pos : Bool) (g : Nat) : Sym × Bool :=
  match symbolAt pos g with
  | some x => (ropeSymbol x, false)
  | none => match symbolAt (!pos) g with
    | some x => (ropeSymbol x, true)
    | none => (.bad, false)

/-- A received symbol with its flag. -/
def rxSym (pos : Bool) (g : Nat) : RxSym :=
  let r := receiveGroup pos g
  { sym := r.1, err := r.2 || r.1 = .bad }

/-- The symbols that a receiver makes of code groups, and its running disparity after them. -/
def receiveGroups : Bool → List Nat → List RxSym × Bool
  | pos, [] => ([], pos)
  | pos, g :: t =>
    let r := receiveGroups (afterGroup pos g) t
    (rxSym pos g :: r.1, r.2)

/-- The code groups of symbols, and the running disparity after them. -/
def sendGroups : Bool → List Sym → List Nat × Bool
  | pos, [] => ([], pos)
  | pos, x :: t =>
    let g := codeGroup pos x
    let r := sendGroups (afterGroup pos g) t
    (g :: r.1, r.2)

/-- The code groups of words. -/
def groupsOf (ws : List LaneWord) : List Nat := ws.flatMap (fun w => [w.g0, w.g1, w.g2, w.g3])

/-- Code errors among received symbols. -/
def codeErrors (l : List RxSym) : Nat := (l.filter (fun x => x.sym = .bad)).length

/-- Symbols received with an error flag. -/
def flagged (l : List RxSym) : Nat := (l.filter (·.err)).length

/-! ### Reception on a lane (R193) -/

/-- What a lane makes of words. -/
def laneSymbols (s : State) (l : Nat) (ws : List LaneWord) : List RxSym := (receiveGroups (s.lnk.lanes.getD l {}).rdPos (groupsOf ws)).1

/-- A lane takes words: its running disparity and its error counts (R193, R217). -/
def takeWords (l : Nat) (ws : List LaneWord) (s : State) : State :=
  let r := receiveGroups (s.lnk.lanes.getD l {}).rdPos (groupsOf ws)
  let code := codeErrors r.1
  { s with lnk := { s.lnk with lanes := modNth s.lnk.lanes l (fun x => { x with
    rdPos := r.2, codeErr := satAdd 16 x.codeErr code, dispErr := satAdd 16 x.dispErr (flagged r.1 - code) }) } }

/-! ### Ordered sets (R200) -/

/-- Data bytes as symbols. -/
def dataSyms (b : List Byte) : List Sym := b.map .data

/-- The 16 symbols of an ordered set, from the 13 bytes after its K28.5. -/
def orderedSet (b : List Byte) : List Sym := .ctl 0xBC :: dataSyms (b ++ le 2 (crc16 b))

/-- The data byte of a received symbol. -/
def byteOf (x : RxSym) : Option Byte :=
  match x.sym with
  | .data b => some b
  | _ => none

/-- The bytes of received symbols; none where one of them is no data. -/
def bytesOf : List RxSym → Option (List Byte)
  | [] => some []
  | x :: t => match byteOf x, bytesOf t with
    | some b, some r => some (b :: r)
    | _, _ => none

/-- The 15 bytes of a valid ordered set after its comma (R200): K28.5 first, no error, its TYPE, its CRC. -/
def setBytes (type : Nat) : List RxSym → Option (List Byte)
  | [] => none
  | c :: t =>
    if c.sym ≠ .ctl 0xBC || c.err || t.any (·.err) || t.length ≠ 15 then none
    else match bytesOf t with
      | some b => if field b 0 1 = type && field b 13 2 = crc16 (b.take 13) then some b else none
      | none => none

/-! ### Columns (R219, R221) -/

/-- The receive lanes of a path, by lane position: the lanes of BOND_MASK in ascending order, or TWRX. -/
def pathLanes (s : State) : Path → List Nat
  | .host => bitsOf s.lnk.bondMask 4
  | .twin => [4]

/-- The words that columns hold at a lane position. -/
def wordsAt (cols : List (List LaneWord)) (q : Nat) : List LaneWord := cols.flatMap (fun c => (c.drop q).take 1)

/-- Every column holds one word of each lane. -/
def columnsFit (m : Nat) (cols : List (List LaneWord)) : Bool := m ≠ 0 && cols.all (fun c => c.length = m)

/-- The symbols of a path in the order of a packet's bytes: byte k stands in column k / 4m, at lane position (k mod 4m) / 4, as symbol
k mod 4 (R219). -/
def inOrder (m n : Nat) (lanes : List (List RxSym)) : List RxSym :=
  (List.range (4 * m * n)).map (fun k => ((lanes.getD (k % (4 * m) / 4) []).getD (4 * (k / (4 * m)) + k % 4) { sym := .bad, err := true }))

/-- SYNC words are removed before a packet is assembled (R221). -/
def withoutSync : List RxSym → List RxSym
  | a :: b :: c :: d :: t => if a.sym = .ctl 0x7C then withoutSync t else a :: b :: c :: d :: withoutSync t
  | l => l

/-- The symbols that a path delivers in columns, in order, after those that it holds. -/
def pathSymbols (p : Path) (cols : List (List LaneWord)) (s : State) : List RxSym :=
  let ls := pathLanes s p
  let lanes := (List.range ls.length).map (fun q => laneSymbols s (ls.getD q 0) (wordsAt cols q))
  let l := inOrder ls.length cols.length lanes
  match p with
  | .host => s.rope.host.held ++ l
  | .twin => s.rope.twin.held ++ withoutSync l

/-- The lanes of a path take columns. -/
def takeColumns (p : Path) (cols : List (List LaneWord)) (s : State) : State :=
  let ls := pathLanes s p
  (List.range ls.length).foldl (fun s q => takeWords (ls.getD q 0) (wordsAt cols q) s) s

/-- Columns of `m` words from symbols in the order of a packet's bytes, sent at the running disparities of the lanes. -/
def columnsOf (pos : List Bool) (l : List Sym) : List (List LaneWord) :=
  let m := pos.length
  let n := l.length / (4 * m)
  let lane (q : Nat) : List Nat :=
    (sendGroups (pos.getD q false) ((List.range (4 * n)).map (fun j => l.getD (4 * m * (j / 4) + 4 * q + j % 4) .bad))).1
  let lanes := (List.range m).map lane
  (List.range n).map (fun c => lanes.map (fun g =>
    { g0 := g.getD (4 * c) 0, g1 := g.getD (4 * c + 1) 0, g2 := g.getD (4 * c + 2) 0, g3 := g.getD (4 * c + 3) 0 }))

/-! ### Packets received (R222, R224) -/

/-- How a packet ends. -/
inductive RxEnd where
  /-- no packet ends in the columns -/
  | none
  /-- the columns break off after a good header: the packet is still in progress -/
  | unfinished
  /-- the header check fails -/
  | badHeader
  /-- EOP after the body -/
  | whole
  /-- cut, by ABORT or otherwise -/
  | cut (abort : Bool)
deriving DecidableEq, Repr

/-- What columns bring. -/
structure Rx where
  /-- starts of packet at another lane position than 0 -/
  misplaced : Nat := 0
  /-- the 15 header bytes after SOP, where their check passes -/
  hdr : List Byte := []
  /-- body bytes -/
  body : List Byte := []
  /-- code errors after the header, EOP included -/
  code : Nat := 0
  /-- symbols with an error flag after the header, EOP included -/
  errs : Nat := 0
  /-- how the packet ends -/
  out : RxEnd := .none
  /-- symbols from a start of packet that begins the next packet -/
  rest : List RxSym := []
deriving DecidableEq, Repr

/-- A start of packet at another lane position than 0, by its place in the order. -/
def misplacedAt (m k : Nat) (x : RxSym) : Bool := x.sym = .ctl 0xFB && k % (4 * m) / 4 ≠ 0

/-- A start of packet at lane position 0, symbol 0. -/
def startAt (m k : Nat) (x : RxSym) : Bool := x.sym = .ctl 0xFB && k % (4 * m) = 0

/-- Misplaced starts of packet among symbols. -/
def misplacedIn (m : Nat) : Nat → List RxSym → Nat
  | _, [] => 0
  | k, x :: t => (if misplacedAt m k x then 1 else 0) + misplacedIn m (k + 1) t

/-- The symbols from the first start of packet on, with its place. -/
def fromStart (m : Nat) : Nat → List RxSym → Nat × List RxSym
  | k, [] => (k, [])
  | k, x :: t => if startAt m k x then (k, x :: t) else fromStart m (k + 1) t

/-- The body and the end of a packet, from place `k` with `n` body bytes to come (R224). A start of packet at lane position 0 that cuts it
begins the next packet; misplaced ones are counted from the cut to the end of the column. -/
def takeBody (m : Nat) : Nat → Nat → List RxSym → Rx → Rx
  | _, _, [], r => { r with body := r.body.reverse, out := .unfinished }
  | k, n, x :: t, r =>
    let r := { r with errs := r.errs + (if x.err then 1 else 0), code := r.code + (if x.sym = Sym.bad then 1 else 0) }
    let whole : Rx := { r with body := r.body.reverse, out := if k % (4 * m) + t.length < 4 * m then .whole else .none }
    let cut (c : Nat) : Rx := { r with
      body := r.body.reverse, misplaced := r.misplaced + (if startAt m k x then 0 else misplacedIn m k (x :: t))
      rest := if startAt m k x then x :: t else []
      out := if k % (4 * m) + t.length < 4 * m then .cut (c = 0xFE) else .none }
    match n, x.sym with
    | 0, .bad => whole
    | 0, .ctl c => if c = 0xFD then whole else cut c
    | 0, .data _ => cut 0
    | n + 1, .data b => takeBody m (k + 1) n t { r with body := b :: r.body }
    | n + 1, .bad => takeBody m (k + 1) n t { r with body := 0 :: r.body }
    | _ + 1, .ctl c => cut c

/-- The header of a packet after its SOP (R222, R224): 15 data bytes whose HCRC is right. -/
def goodHeader (l : List RxSym) : Option (List Byte) :=
  match bytesOf (l.take 15) with
  | some h => if h.length = 15 && field h 13 2 = crc16 (h.take 13) then some h else none
  | none => none

/-- TYPE of a header. -/
def hdrType (h : List Byte) : Nat := field h 0 1
/-- CHAN of a header. -/
def hdrChan (h : List Byte) : Nat := field h 1 1
/-- LENGTH of a header. -/
def hdrLen (h : List Byte) : Nat := field h 3 2
/-- FIELDS of a header from an offset of the packet. -/
def hdrField (h : List Byte) (off k : Nat) : Nat := field h (off - 1) k

/-- What the symbols of columns bring: columns before the first start of packet are passed over, a packet is assembled from there
(R224). A packet whose end lies before the last column brings nothing. After a bad header the misplaced starts of packet are counted up to
the next start, from which the symbols are kept. -/
def assemble (m : Nat) (l : List RxSym) : Rx :=
  let before := (fromStart m 0 l).1
  let mis := misplacedIn m 0 (l.take before)
  match (fromStart m 0 l).2 with
  | [] => { misplaced := mis }
  | _ :: t => match goodHeader t with
    | some h => takeBody m (before + 16) (hdrLen h) (t.drop 15) { hdr := h, misplaced := mis }
    | none =>
      if t.length < 15 then { misplaced := mis }
      else
        let next := fromStart m (before + 1) t
        { misplaced := mis + misplacedIn m (before + 1) (t.take (next.1 - (before + 1))), out := .badHeader, rest := next.2 }

/-- What a path receives in columns. -/
def rxOf (p : Path) (cols : List (List LaneWord)) (s : State) : Rx :=
  let m := (pathLanes s p).length
  if columnsFit m cols then assemble m (pathSymbols p cols s) else {}

/-! ### What is sent (R200, R219, R222, R232) -/

/-- A packet's header after its SOP. -/
def headerBytes (type chan : Nat) (fields : List Byte) (len : Nat) : List Byte :=
  let h := le 1 type ++ le 1 chan ++ le 1 0 ++ le 2 len ++ slice fields 0 8
  h ++ le 2 (crc16 h)

/-- A packet: SOP, header, body, EOP, and PAD to the end of the last column of `m` words (R219, R222). -/
def packetSyms (m type chan : Nat) (fields body : List Byte) : List Sym :=
  let l := .ctl 0xFB :: dataSyms (headerBytes type chan fields body.length ++ body) ++ [.ctl 0xFD]
  l ++ List.replicate ((4 * m - l.length % (4 * m)) % (4 * m)) (.ctl 0xF7)

/-- The rate code at which a transmit lane sends (R191, R213): HTX always at 1.25 Gbit/s; TWTX at the rate of TWRX, its pattern at
LNK_LANE4_CTL.TEST_RATE. -/
def txRate (s : State) : Path → Nat
  | .host => 0
  | .twin =>
    let w := s.lnk.lanes.getD 4 {}
    if s.lnk.twtx.pattern ≠ 0 then w.testRate else if w.rate < 5 then w.rate else 0

/-- What a transmit lane has sent. -/
def lineOf (s : State) : Path → TxLine
  | .host => s.lnk.htxLine
  | .twin => s.lnk.twtxLine

/-- A transmit lane changes. -/
def modLine (p : Path) (f : TxLine → TxLine) (s : State) : State :=
  match p with
  | .host => { s with lnk := { s.lnk with htxLine := f s.lnk.htxLine } }
  | .twin => { s with lnk := { s.lnk with twtxLine := f s.lnk.twtxLine } }

/-- Symbols leave on HTX or TWTX. -/
def sendSyms (p : Path) (l : List Sym) (s : State) : State :=
  modLine p (fun x => let r := sendGroups x.rdPos l; { x with out := r.1, rdPos := r.2 }) s

/-- A value of every host lane in a field of `w` bits each. -/
def perLane (s : State) (w : Nat) (f : Lane → Nat) : Nat :=
  (List.range 4).foldl (fun m l => m + f (s.lnk.lanes.getD l {}) * 2 ^ (w * l)) 0

/-- The 13 bytes of a CLIMB set after its comma, with a SEQ (R200): the host lanes on HTX; on TWTX TWRX as lane 0. -/
def climbBytes (p : Path) (seq : Nat) (s : State) : List Byte :=
  let k := s.lnk
  let w := k.lanes.getD 4 {}
  let one (states targets bond shared rate : Nat) : List Byte :=
    le 1 0xC3 ++ le 2 states ++ le 2 targets ++ le 1 bond ++ le 1 shared ++ le 1 seq ++ le 1 rate ++ le 4 0
  match p with
  | .host => one (perLane s 4 (fun x => laneCode x.state)) (perLane s 3 (fun x => x.ladderRate))
      ((if k.forming then k.formMask else k.bondMask) + flag k.forming 4 + flag (!k.forming && k.bondMask ≠ 0) 5)
      (perLane s 1 (fun x => flag x.shared 0)) (if k.forming then k.formRate else k.bondRate)
  | .twin => one (laneCode w.state) w.ladderRate 0 (flag w.shared 0) 0

/-- On the twin link the rate is agreed and ACK sets are due: TWRX is in DETECT (R202). -/
def ackDue (s : State) : Bool :=
  let w := s.lnk.lanes.getD 4 {}
  w.state = .detect && w.attempting && s.lnk.twinAgreed ≠ 7

/-- The 13 bytes of an ANCHOR set after its comma, with a SEQ (R200, R202); on HTX LANE is 0 (DESIGN CHOICE, log entry 95). -/
def anchorBytes (p : Path) (seq : Nat) (s : State) : List Byte :=
  let ack := p = .twin && ackDue s
  le 1 0xA7 ++ le 1 (if p = .twin then 4 else 0) ++ le 1 (txRate s p) ++ le 1 (flag ack 0) ++ le 1 (if ack then s.lnk.twinAgreed else 0) ++
    le 1 seq ++ le 1 0 ++ [0xB5, 0x4A, 0xB5, 0x4A, 0xB5, 0x4A]

/-- The path is back once a CLIMB on HTX has shown every lane of BOND_MASK TRAINED (R229). -/
def climbShown (s : State) : State :=
  let back := s.lnk.bondMask ≠ 0 && !s.lnk.forming && (bitsOf s.lnk.bondMask 4).all (fun l => (s.lnk.lanes.getD l {}).state = .trained)
  { s with rope := { s.rope with host := { s.rope.host with up := s.rope.host.up || back } } }

/-- The lane's SEQ counts sets (R200). -/
def countSets (p : Path) (n : Nat) (s : State) : State := modLine p (fun x => { x with seq := (x.seq + n) % 256 }) s

/-- HTX carries traffic: the lanes are powered, the ports open, no test pattern is sent (R213). -/
def htxOpen (s : State) : Bool := portsOpen s && s.lnk.htx.pattern = 0

/-- A CLIMB set and the ANCHOR set that alternates with it leave (R200, R232). -/
def sendSets (p : Path) (s : State) : State :=
  let q := (lineOf s p).seq
  let t := countSets p 2 (sendSyms p (orderedSet (climbBytes p q s) ++ orderedSet (anchorBytes p ((q + 1) % 256) s)) s)
  match p with
  | .host => climbShown t
  | .twin => t

/-- A packet leaves: on HTX a CLIMB set precedes it (R232). -/
def sendPacket (p : Path) (type chan : Nat) (fields body : List Byte) (s : State) : State :=
  let k := packetSyms 1 type chan fields body
  match p with
  | .host => climbShown (countSets .host 1 (sendSyms .host (orderedSet (climbBytes .host s.lnk.htxLine.seq s) ++ k) s))
  | .twin => sendSyms .twin k s

/-! ### Test patterns and fill (R213, R219) -/

/-- Length and second tap of a pattern by its number, MODE or PATTERN: x^7 + x^6 + 1, x^15 + x^14 + 1, x^31 + x^28 + 1 (PRESUMED, log
entry 99). -/
def prbsTaps : Nat → Nat × Nat
  | 1 => (7, 6) | 2 => (15, 14) | _ => (31, 28)

/-- The next `k` bits of a PRBS from a register. -/
def prbsBits (n m : Nat) : Nat → Nat → List Bool
  | 0, _ => []
  | k + 1, r =>
    let b := (r.testBit (n - 1)).xor (r.testBit (m - 1))
    b :: prbsBits n m k ((2 * r + (if b then 1 else 0)) % 2 ^ n)

/-- Ten bits of a line as a code group: the bit sent first is bit a. -/
def bitGroup (l : List Bool) : Nat := (l.take 10).foldl (fun n b => 2 * n + (if b then 1 else 0)) 0

/-- `k` code groups of a PRBS. -/
def prbsGroups (pat k : Nat) : List Nat :=
  let t := prbsTaps pat
  let l := prbsBits t.1 t.2 (10 * k) (1 + Config.prbsStart pat % (2 ^ t.1 - 1))
  (List.range k).map (fun i => bitGroup (l.drop (10 * i)))

/-- `k` code groups of the pattern that PATTERN names, at a running disparity (R213): PRBS7, PRBS15, PRBS31 from a start that the manual
leaves open, D21.5, K28.5. -/
def patternGroups (pat : Nat) (pos : Bool) (k : Nat) : List Nat :=
  match pat with
  | 4 => (sendGroups pos (List.replicate k (.data 0xB5))).1
  | 5 => (sendGroups pos (List.replicate k (.ctl 0xBC))).1
  | p => prbsGroups p k

/-- The four symbols of an IDLE word (R218). -/
def idleWord : List Sym := List.replicate 4 (.ctl 0x1C)

/-- PATTERN of a transmit lane. -/
def txPattern (s : State) : Path → Nat
  | .host => s.lnk.htx.pattern
  | .twin => s.lnk.twtx.pattern

/-- The code groups of the next `k` words that a transmit lane sends on its own: its pattern, in place of all traffic, while PATTERN is not
0 (R213); else, on the TRAINED twin link, IDLE words until the next packet or set (R219). On HTX, and on TWTX in training, sets follow
each other back to back and leave by CLIMB_SEND (R200, R232; DESIGN CHOICE, log entry 111). -/
def lineFill (p : Path) (s : State) (k : Nat) : List Nat :=
  let pos := (lineOf s p).rdPos
  if txPattern s p ≠ 0 then patternGroups (txPattern s p) pos (4 * k)
  else if p = .twin && twinTrained s then (sendGroups pos ((List.replicate k idleWord).flatten)).1
  else []

/-- A STATUS packet is due (R232, R233). -/
def statusDue (reason layer outcome : Nat) (s : State) : State :=
  if s.rope.statusEn && (reason = 0 || s.rope.outcomeEn) then
    { s with rope := { s.rope with statusDue := s.rope.statusDue ++ [(reason, layer, outcome)] } }
  else s

end Sys2Proof.Machine
end

