-- ==== Sys2Proof/Machine/Records.lean ====
section
/-! DEFINITION. Event records: their bytes, the staging queue, the copies for the twin, the history and first-fault capture; completions of
long commands. -/

namespace Sys2Proof.Machine

/-- Flag bits of a record (R375). -/
def flagCollateral : Nat := 1
/-- INJECTED -/
def flagInjected : Nat := 2
/-- WITNESS -/
def flagWitness : Nat := 4
/-- DROPPED_SUMMARY -/
def flagSummary : Nat := 8

/-- The first 30 bytes of a record. -/
def recBody (r : Rec) : List Byte :=
  le 2 r.code ++ le 1 r.level ++ le 1 r.flags ++ le 4 r.seconds ++ le 3 r.cycles ++ le 1 r.seq ++
  le 4 r.p0 ++ le 4 r.p1 ++ le 4 r.p2 ++ le 4 r.p3 ++ le 2 r.rsv

/-- The 32 bytes of a record, with its CRC (R375). -/
def recBytes (r : Rec) : List Byte := recBody r ++ le 2 (crc16 (recBody r))

/-- The record that 32 bytes hold. -/
def recOf (l : List Byte) : Rec :=
  { code := field l 0 2, level := field l 2 1, flags := field l 3 1, seconds := field l 4 4, cycles := field l 8 3,
    seq := field l 11 1, p0 := field l 12 4, p1 := field l 16 4, p2 := field l 20 4, p3 := field l 24 4, rsv := field l 28 2 }

/-- Cairn-eligible: LEVEL is PILOT or SNUFF (R378). -/
def cairnEligible (r : Rec) : Bool := decide (3 ≤ r.level)

/-- The record is a summary record. -/
def isSummary (r : Rec) : Bool := r.flags.testBit 3

/-- The recorder is RAM_ONLY (R385). -/
def ramOnly (s : State) : Bool := s.evr.state = 2

/-- A record is counted as dropped (R382). -/
def countDrop (r : Rec) (s : State) : State :=
  let e := s.evr
  { s with evr := { e with
      dropped := satInc 32 e.dropped
      drops := modNth e.drops (evClass r.code) (fun d => { count := satInc 16 d.count, pending := satInc 16 d.pending })
      dropsSum := e.dropsSum + 1
      dropsPilot := if cairnEligible r then e.dropsPilot + 1 else e.dropsPilot
      firstDrop := e.firstDrop.or (some s.ao.seconds)
      witDrop := if r.flags.testBit 2 then satInc 16 e.witDrop else e.witDrop } }

/-- Place of the newest record that R382 may remove. -/
def removable (q : List Rec) : Option Nat :=
  ((List.range q.length).filter (fun i => match q[i]? with
    | some r => !cairnEligible r && !isSummary r
    | none => false)).getLast?

/-- A record enters the staging queue (R381, R382; in RAM_ONLY the queue is a ring, R385). -/
def enqueue (r : Rec) (s : State) : State :=
  let q := s.evr.queue
  let put (s : State) (q : List Rec) : State := { s with evr := { s.evr with queue := q ++ [r] } }
  if q.length < 64 then put s q
  else if ramOnly s then
    match q with
    | [] => put s q
    | o :: t => put (countDrop o s) t
  else if cairnEligible r then
    match removable q with
    | some i => put (countDrop (q.getD i {}) s) (q.eraseIdx i)
    | none => countDrop r s
  else countDrop r s

/-- The copy of a record for the twin (R281, R282, R386): KIND 1 for a witness record, KIND 0 for a shared one. -/
def share (r : Rec) (s : State) : State :=
  let witness := r.code = 0x1002 || r.code = 0x0701 || (decide (1 ≤ r.level) && ramOnly s)
  let shared := decide (s.twn.cfg.shareLevel ≤ r.level)
  if !paired s || !(witness || shared) then s
  else if 64 ≤ s.twn.sendQueue.length then { s with twn := { s.twn with unacked := satInc 16 s.twn.unacked } }
  else { s with twn := { s.twn with sendQueue := s.twn.sendQueue ++ [{ kind := if witness then 1 else 0, record := r }] } }

/-- The record an event would have now (R375 to R377). -/
def formRec (e : RawEvent) (flags : Nat) (s : State) : Rec :=
  { code := e.code, level := e.level, flags, seconds := s.ao.seconds, cycles := s.ao.cycles % 2 ^ 24, seq := s.evr.seq,
    p0 := e.p0 % 2 ^ 32, p1 := e.p1 % 2 ^ 32, p2 := e.p2 % 2 ^ 32, p3 := e.p3 % 2 ^ 32,
    pre := s.ao.needLoadAdd && s.evr.state = 3 }

/-- Whether the limit of one record per second of operation stops a record now (R435). -/
def limited (e : RawEvent) (s : State) : Bool :=
  evLimited e.code && s.flt.marks.contains (e.code, if evLimitedPerLevel e.code then e.level else 0, s.ao.seconds)

/-- The mark that a record of a limited event leaves. -/
def mark (e : RawEvent) (s : State) : List (Nat × Nat × Nat) :=
  let key := if evLimitedPerLevel e.code then e.level else 0
  if evLimited e.code then (e.code, key, s.ao.seconds) :: s.flt.marks.filter (fun m => !(m.1 = e.code && m.2.1 = key))
  else s.flt.marks

/-- `record` of R328: the event makes a record, unless its limit stops that. -/
def record (e : RawEvent) (flags : Nat) (s : State) : State :=
  if limited e s then s
  else
    let r := formRec e flags s
    let s := { s with flt := { s.flt with marks := mark e s }, evr := { s.evr with seq := wrapInc 8 s.evr.seq } }
    let s := if e.code = 0x0701 then { s with evr := { s.evr with life := { s.evr.life with shutdowns := satInc 32 s.evr.life.shutdowns } } } else s
    share r (enqueue r s)

/-- `hist_push` of R328: the 16 newest records of level WARN or above, newest first. -/
def histPush (r : Rec) (s : State) : State := { s with flt := { s.flt with hist := (r :: s.flt.hist).take 16 } }

/-- Some class's counters of the collector change. -/
def modClass (c : Nat) (f : ClassState → ClassState) (s : State) : State :=
  { s with flt := { s.flt with classes := modNth s.flt.classes c f } }

/-- A place in a list whose ranks, a level and a code, go by descending level and within a level by ascending code (R328). -/
def rankInsert {α : Type} (rank : α → Nat × Nat) (a : α) : List α → List α
  | [] => [a]
  | b :: t =>
    if (rank b).1 < (rank a).1 || ((rank b).1 = (rank a).1 && (rank a).2 ≤ (rank b).2) then a :: b :: t else b :: rankInsert rank a t

/-- The order in which the collector takes what reaches it on one clock (R328). -/
def ranked {α : Type} (rank : α → Nat × Nat) (l : List α) : List α := l.foldr (rankInsert rank) []

/-- The detectors whose events the open window of a reaction makes collateral (R332). -/
def dependents : Nat → List Nat
  | 3 => [0x0109, 0x010A, 0x0201, 0x0202, 0x0203, 0x0204, 0x0210, 0x0220, 0x0D03, 0x0D04]
  | 4 => [0x0301, 0x0302, 0x0401]
  | 5 => [0x0401]
  | _ => []

/-- `window_open_for` of R328. -/
def windowOpenFor (code : Nat) (s : State) : Bool := s.flt.windows.any (fun r => (dependents r).contains code)

/-- A collateral event (R333). -/
def raiseCollateral (e : RawEvent) (s : State) : State :=
  let r := formRec e flagCollateral s
  let s := record e flagCollateral s
  let s := modClass (evClass e.code) (fun k => { k with collateral := satInc 16 k.collateral }) s
  let s := { s with flt := { s.flt with collateral := satInc 32 s.flt.collateral } }
  if 1 ≤ e.level then histPush r s else s

/-- An event of level NOTE: recorded, nothing latched, no reaction (R326, R328); after the point of no return of a sleep entry not even
recorded (R404). -/
def note (e : RawEvent) (s : State) : State :=
  if !awake s then s
  else if windowOpenFor e.code s then raiseCollateral e s else record e 0 s

/-- A NOTE event with the frame count as parameter 3. -/
def noteF (code p0 p1 p2 : Nat) (s : State) : State := note (ev code p0 p1 p2 s.ft.frameCount) s

/-! ### Twin packets (R271) -/

/-- TWTX carries traffic: the device is paired, the twin link TRAINED, no test pattern is sent (R213, R271). -/
def twtxOpen (s : State) : Bool := paired s && twinTrained s && s.lnk.twtx.pattern = 0

/-- A TWIN packet is sent on TWTX: MSG, SEQ, the fields and the CRC-32. -/
def sendTwin (msg : Nat) (fields : List Byte) (s : State) : State :=
  if !twtxOpen s then s
  else
    let b := le 1 msg ++ le 1 s.twn.txSeq ++ fields
    sendPacket .twin 0x20 0 [] (b ++ le 4 (crc32 b)) { s with twn := { s.twn with txSeq := wrapInc 8 s.twn.txSeq } }

/-! ### Handles and completions (R250, R251) -/

/-- A handle can be given. -/
def handleFree (s : State) : Bool := decide (s.cmd.outstanding.length < 64)

/-- The next handle value that is neither 0 nor outstanding; at most 64 are outstanding, so 66 tries suffice. -/
def nextFree (out : List Nat) : Nat → Nat → Nat
  | 0, h => h
  | k + 1, h => if h = 0 || out.contains h then nextFree out k ((h + 1) % 65536) else h

/-- The handle that the next long command takes. -/
def newHandle (s : State) : Nat := nextFree s.cmd.outstanding 66 s.cmd.nextHandle

/-- A handle is taken. -/
def takeHandle (s : State) : State :=
  let h := newHandle s
  { s with cmd := { s.cmd with outstanding := h :: s.cmd.outstanding, nextHandle := (h + 1) % 65536 } }

/-- Status codes (R248). -/
def stOk : Nat := 0x00
/-- ACCEPTED -/
def stAccepted : Nat := 0x01
/-- SUPERSEDED -/
def stSuperseded : Nat := 0x02
/-- BAD_CRC -/
def stBadCrc : Nat := 0x10
/-- BAD_OPCODE -/
def stBadOpcode : Nat := 0x12
/-- BAD_PARAM -/
def stBadParam : Nat := 0x13
/-- BUSY -/
def stBusy : Nat := 0x14
/-- WRONG_MODE -/
def stWrongMode : Nat := 0x15
/-- NO_RESOURCE -/
def stNoResource : Nat := 0x16
/-- TEMP_WINDOW -/
def stTempWindow : Nat := 0x17
/-- REFUSED -/
def stRefused : Nat := 0x18
/-- LOCKED -/
def stLocked : Nat := 0x19
/-- TIMEOUT -/
def stTimeout : Nat := 0x20
/-- FAILED -/
def stFailed : Nat := 0x21

/-- A long operation ends: its entry is appended to the completion queue, if its handle is still outstanding (R251, R253). -/
def complete (handle opcode : Nat) (src : Src) (status r0 r1 : Nat) (s : State) : State :=
  if s.cmd.outstanding.contains handle then
    { s with cmd := { s.cmd with cq := s.cmd.cq ++ [{ handle, opcode, status, source := srcNo src, r0 := r0 % 2 ^ 32, r1 := r1 % 2 ^ 32 }] } }
  else s

/-- The next free value, and the state that has taken it. -/
def takeFree (s : State) : Nat × State := ((Config.freeValue s.free).toNat, { s with free := s.free + 1 })

/-- Every one of some long operations ends alike. -/
def completeEach (l : List (Nat × Src)) (opcode status r0 r1 : Nat) (s : State) : State :=
  l.foldl (fun s c => complete c.1 opcode c.2 status r0 r1 s) s

/-- A long operation ends with result words that the manual does not state: they are free values. -/
def completeOpen (handle opcode : Nat) (src : Src) (status : Nat) (s : State) : State :=
  let (a, s) := takeFree s
  let (b, s) := takeFree s
  complete handle opcode src status a b s

/-- Every one of some long operations ends with result words that the manual does not state. -/
def completeEachOpen (l : List (Nat × Src)) (opcode status : Nat) (s : State) : State :=
  l.foldl (fun s c => completeOpen c.1 opcode c.2 status s) s

/-- The pending SET_MODE ends without its mode being entered (R36, R37, R42). -/
def endPending (status : Nat) (s : State) : State :=
  match s.pwr.pend with
  | some p => completeOpen p.handle 0x10 p.src status { s with pwr := { s.pwr with pend := none } }
  | none => s

end Sys2Proof.Machine
end

