-- ==== Sys2Proof/Machine/Collector.lean ====
section
/-! DEFINITION. The fault collector (R325 to R344) with what its reactions do to the rest of the device: mode changes, the entry into
SNUFFED, broken frames, path interruptions; power-state requests and blanking as far as a mode change ends them. -/

namespace Sys2Proof.Machine

/-! ### Power-state requests (R398 to R401) -/

/-- The entry estimate C in thirds of a microsecond (R398). -/
def entryEstimate (s : State) : Nat :=
  let frame := if s.pwr.mode = .snuffed then 0 else 3000000 / hzOf s.ft.rateInForce
  let u := 65 + (if s.map.sinceCommitS ≠ 0 then 4051 else 0) + (if s.diag.storePending then 129 else 0)
  let q := s.evr.queue.length
  let qc := (s.evr.queue.filter cairnEligible).length
  frame + 3 * (1000 + 5 * u + 40 * q + 1000 * qc)

/-- C in ms, rounded up (PWR_SLEEP_STAT.EST_MS). -/
def estimateMs (s : State) : Nat := min (cdiv (entryEstimate s) 3000) 65535

/-- The state chosen for a time T: 2 S2, 1 S1, 0 no sleep (R398). -/
def chooseSleep (t : Nat) (maxS1 : Bool) (s : State) : Nat :=
  let c := entryEstimate s
  if !maxS1 && 2000 < t && c + 150000 ≤ 3000 * t then 2
  else if 60 < t && c + 90000 ≤ 3000 * t then 1
  else 0

/-- Completion of a power-state request. -/
def completePower (r : PowerReq) (status r0 r1 : Nat) (s : State) : State :=
  complete r.handle (if r.sleep then 0x12 else 0x11) r.src status r0 r1 s

/-- Completion of a power-state request whose result words the manual does not state. -/
def completePowerOpen (r : PowerReq) (status : Nat) (s : State) : State :=
  completeOpen r.handle (if r.sleep then 0x12 else 0x11) r.src status s

/-- T of a request that starts: what is left of the time counted from its ACCEPTED reply (R398, R401). -/
def timeLeft (r : PowerReq) : Nat := if r.timeMs = 0xFFFFFFFF then r.timeMs else r.timeMs - r.wait

/-- A power-state request ends with SUPERSEDED, and is counted (R401, R415). -/
def completeSuperseded (r : PowerReq) (s : State) : State :=
  completePowerOpen r stSuperseded { s with pwr := { s.pwr with superseded := satInc 16 s.pwr.superseded } }

/-- A SLEEP_UNTIL begins: the choice of R398 is made; entry, blanking (R400) or an immediate completion follows. -/
def beginSleep (r : PowerReq) (s : State) : State :=
  let ch := chooseSleep (timeLeft r) r.maxS1 s
  let c := estimateMs s
  let s := { s with pwr := { s.pwr with chosen := ch, lastForce := r.force, lastMaxS1 := r.maxS1, estMs := c } }
  if s.pwr.mode = .belay || s.pwr.mode = .kindle then completeSuperseded r s
  else if ch = 0 then
    if s.pwr.mode = .snuffed then
      let (v, s) := takeFree s
      completePower r stOk 0 v s
    else if s.pwr.blanking then
      let (v, s) := takeFree s
      completePower r stOk 0 v s
    else { s with pwr := { s.pwr with active := some r, blankReq := some r } }
  else
    let s := { s with
      pwr := { s.pwr with active := some r, entryStep := 1, darkBefore := s.pwr.dark || s.pwr.mode = .snuffed, relight := none }
      ao := { s.ao with
        sleepStart := s.ao.seconds, timerArmed := ch = 1 && r.timeMs ≠ 0xFFFFFFFF, timerExpired := false, i2cMatched := false } }
    noteF 0x0E05 ch r.timeMs c s

/-- A power-state request begins as if it had just been accepted (R401). -/
def beginPower (r : PowerReq) (s : State) : State :=
  if r.sleep then beginSleep r s
  else if r.level = s.pwr.plevel && !s.pwr.changing then completePower r stOk r.level s.ft.frameCount s
  else { s with pwr := { s.pwr with active := some r, plevelTarget := r.level } }

/-- No request is in progress any longer; the pending one begins (R401). -/
def nextPower (s : State) : State :=
  let s := { s with pwr := { s.pwr with active := none } }
  match s.pwr.waiting with
  | none => s
  | some w => beginPower w { s with pwr := { s.pwr with waiting := none } }

/-- The request in progress ends with its result words (R401). -/
def finishPower (status r0 r1 : Nat) (s : State) : State :=
  match s.pwr.active with
  | none => s
  | some r => nextPower (completePower r status r0 r1 s)

/-- The request in progress is superseded by a mode change. -/
def supersedePower (s : State) : State :=
  match s.pwr.active with
  | none => s
  | some r => nextPower (completeSuperseded r s)

/-- A sleep entry is in progress: a SLEEP_UNTIL that chose a sleep state and has not completed (R401, R404). -/
def entryInProgress (s : State) : Bool :=
  match s.pwr.active with
  | some r => r.sleep && s.pwr.chosen ≠ 0 && s.pwr.blankReq.isNone
  | none => false

/-- DARK where nothing but blanking and a bias that has yet to settle keeps the array dark (R48, R403). -/
def staysDark (p : Pwr) : Bool := p.blanking || p.litDue

/-- The blocks that sleep entry stopped run again; an array whose bias was off lights no earlier than 500 us later (R403). -/
def restartBlocks (s : State) : State :=
  { s with pwr := { s.pwr with
             entryStep := 15, nvmAsked := false, composeStop := false, biasOn := true
             litDue := s.pwr.litDue || (!s.pwr.biasSettled && litMode s.pwr.mode) }
           ao := { s.ao with timerArmed := false } }

/-- The device enters SNUFFED or BELAY by its own decision: a sleep entry is abandoned and its blocks run again; the request
completes with SUPERSEDED, at the relighting latch if the array was lit before and is dark now (R403, R404). A blanking that waits
for its latch is given up with SUPERSEDED. -/
def abandonPower (s : State) : State :=
  if entryInProgress s then
    let stopped := s.pwr.mode ≠ .snuffed && s.pwr.dark && !s.pwr.darkBefore
    let s := restartBlocks s
    if stopped then { s with pwr := { s.pwr with relight := some (stSuperseded, 0, 0) } }
    else supersedePower { s with pwr := { s.pwr with relight := none, dark := staysDark s.pwr } }
  else if s.pwr.blankReq.isSome then supersedePower { s with pwr := { s.pwr with blankReq := none } }
  else s

/-- A SLEEP_UNTIL in progress when a re-kindle starts is given up, and the pending request begins (R401; DEDUCED, log entry 35). -/
def giveUpSleep (s : State) : State := if s.pwr.active.any (·.sleep) then supersedePower s else s

/-- A SET_PLEVEL in progress whose level is in force, with no change running, completes (R396). -/
def settleLevel (s : State) : State :=
  match s.pwr.active with
  | some r => if !r.sleep && r.level = s.pwr.plevel && !s.pwr.changing && !s.pwr.blanking then finishPower stOk r.level s.ft.frameCount s else s
  | none => s

/-- A CALIBRATE FULL keeps the array dark for its measurements (R370). -/
def calDark (s : State) : Bool := s.nvm.calRun.any (fun r => r.full && (r.stage = 1 || r.stage = 2))

/-- Blanking under SLEEP_UNTIL ends (R48, R400). An array that a sleep entry has stopped, whose bias has yet to settle, or that a
CALIBRATE FULL measures stays dark (R370, R402, R403). -/
def endBlanking (s : State) : State :=
  if s.pwr.blanking then
    let off := !s.pwr.biasSettled
    settleLevel { s with pwr := { s.pwr with blanking := false, blankP3 := false, dark := off || calDark s, litDue := s.pwr.litDue || off } }
  else s

/-- A CALIBRATE FULL that has not taken its values into use is aborted (R370). -/
def abortCal (s : State) : State :=
  match s.nvm.calRun with
  | some r =>
    if r.full && r.stage < 3 then
      let s := complete r.handle 0x40 r.src stFailed 0xFFFFFFFF (Config.freeValue s.free).toNat { s with free := s.free + 1 }
      { s with
        nvm := { s.nvm with calRun := none, meas := none }
        arr := { s.arr with staged := if r.stage = 2 then s.arr.staged.bind (fun c => c.trim.map (fun t => { trim := some t })) else s.arr.staged }
        pwr := { s.pwr with dark := if r.stage = 0 then s.pwr.dark else staysDark s.pwr } }
    else s
  | none => s

/-! ### Requests for stores (R362) -/

/-- Header fields of two requests: those of the newer one win (R365). -/
def mergePatch (older newer : List (Nat × List Byte)) : List (Nat × List Byte) :=
  older.filter (fun x => !newer.any (·.1 = x.1)) ++ newer

/-- A store is requested: merged with one of its content that waits, otherwise queued (R362). Header fields that it brings take the
place of older ones that are due again after a verify failure. -/
def queueStore (n : StoreReq) (s : State) : State :=
  let q := s.nvm.queue
  let old := s.nvm.retry.map (fun r => { r with patch := r.patch.filter (fun x => !n.patch.any (·.1 = x.1)) })
  let s := { s with nvm := { s.nvm with retry := old.filter (fun r => !r.patch.isEmpty) } }
  if q.any (·.content = n.content) then
    { s with nvm := { s.nvm with queue := q.map (fun r => if r.content = n.content then
        { r with auto := r.auto || n.auto, sleep := r.sleep || n.sleep, who := r.who ++ n.who, patch := mergePatch r.patch n.patch } else r) } }
  else { s with nvm := { s.nvm with queue := q ++ [n] } }

/-- A store that did not finish is due again: merged with a newer one that waits, otherwise ahead of the queue (R318, R362). -/
def requeueStore (o : StoreReq) (s : State) : State :=
  let q := s.nvm.queue
  if q.any (·.content = o.content) then
    { s with nvm := { s.nvm with queue := q.map (fun r => if r.content = o.content then
        { r with auto := r.auto || o.auto, sleep := r.sleep || o.sleep, who := o.who ++ r.who, patch := mergePatch o.patch r.patch } else r) } }
  else { s with nvm := { s.nvm with queue := o :: q } }

/-- An automatic store is requested. -/
def requestStore (c : Nat) (patch : List (Nat × List Byte)) (s : State) : State := queueStore { content := c, patch } s

/-- T_S lies within the range in which an open write window stays open: -28.0 to 123.0 degC (R317). -/
def windowRange (s : State) : Bool := decide (-224 ≤ s.thm.tS) && decide (s.thm.tS ≤ 984)

/-- The write window opens; what waited for it is counted anew the next time it is deferred (R317, R318). -/
def openNvm (s : State) : State :=
  { s with
    thm := { s.thm with nvmOpen := true, scarDeferred := [] }
    nvm := { s.nvm with queue := s.nvm.queue.map (fun r => { r with deferred := false }) }
    evr := { s.evr with headDeferred := false } }

/-- The condition of this code and unit is present. -/
def condIs (code unit : Nat) (s : State) : Bool := s.flt.conds.any (fun c => c.code = code && c.unit = unit)

/-- Highest F that may be reached (R309). -/
def topF (s : State) : Nat := if condIs 0x0706 0 s then 8 else 16

/-- F at the end of a KINDLE: 4 after an exit from thermal shutdown (R309, R312). -/
def kindleF (s : State) : State :=
  let f := if s.pwr.exitThermal then 4 else min 16 (topF s)
  { s with thm := { s.thm with f, lowestF := f, derateAt := if f = 16 then s.thm.derateAt else s.ao.seconds } }

/-- At the end of a KINDLE, lit or in SNUFFED, F is set (R312) and the write window is judged (R317); after a measured set that was
accepted, the wick set is stored (R363). -/
def afterKindle (s : State) : State :=
  let s := kindleF s
  let s := if windowRange s then openNvm s else { s with thm := { s.thm with nvmOpen := false } }
  if (s.nvm.calResult = 1 || s.nvm.calResult = 3) && !s.nvm.calQuick then requestStore 2 [] s else s

/-! ### Mode changes -/

/-- A mode is entered: the mode registers and MODE_CHANGE (R49 to R51). -/
def enterMode (m : Mode) (cause : Nat) (s : State) : State :=
  let old := s.pwr.mode
  let p := { s.pwr with mode := m, prevMode := modeCode old, entryCause := cause, entrySeconds := s.ao.seconds, next := none }
  let p := { p with
    pilotEntries := if m = .pilot && old ≠ .kindle then satInc 16 p.pilotEntries else p.pilotEntries
    belayEntries := if m = .belay then satInc 16 p.belayEntries else p.belayEntries
    snuffEntries := if m = .snuffed then satInc 16 p.snuffEntries else p.snuffEntries
    exitThermal := p.exitThermal && !(old = .kindle && m ≠ .kindle) }
  let s := if old = .kindle && m ≠ .kindle then afterKindle s else s
  { noteF 0x0E01 (modeCode m) (modeCode old) cause s with pwr := p }

/-- Sink-enable is cleared, in the middle of a pulse if need be (R69, R329). -/
def sinksOff (s : State) : State :=
  { s with arr := { s.arr with sinkEn := false, acc := { s.arr.acc with sinkCleared := s.arr.acc.sinkCleared || s.arr.sinkEn } } }

/-- What an event of a level does after the point of no return of a sleep entry: SNUFF level clears sink-enable, nothing else (R404). -/
def lateSinks (level : Nat) (s : State) : State := if pastReturn s && decide (4 ≤ level) then sinksOff s else s

/-- The device enters SNUFFED at once (R329): sinks off, READY low, requests that a mode change ends are ended, and the twin gets a
SNUFF message with the code of the event (R271, R272). After the point of no return of a sleep entry only the sinks go off (R404). -/
def snuff (cause code : Nat) (s : State) : State :=
  let s := sinksOff s
  if s.pwr.mode = .snuffed || s.pwr.mode = .dormant then s
  else
    let s := endPending stSuperseded s
    let s := abortCal s
    let s := enterMode .snuffed cause s
    let s := abandonPower (endBlanking s)
    let s := { s with
      pwr := { s.pwr with dark := false, litDue := false, readyPin := false }
      flt := { s.flt with snuffCode := code }
      twn := { s.twn with aliveOut := false } }
    sendTwin 2 (le 2 code ++ le 4 s.ft.frameCount ++ le 4 s.ao.seconds) s

/-! ### Broken frames and interruptions (R228, R229) -/

/-- A layer's slot changes. -/
def modLayer (n : Nat) (f : Layer → Layer) (s : State) : State :=
  { s with cmp := { s.cmp with layers := modNth s.cmp.layers n f } }

/-- A layer's slot. -/
def layerOf (s : State) (n : Nat) : Layer := s.cmp.layers.getD n {}

/-- The path a layer takes its frames from (R225). -/
def layerPath (s : State) (n : Nat) : Path := if s.rope.layerSrc.testBit n then .twin else .host

/-- Counters of a path change. -/
def modPath (p : Path) (f : RPath → RPath) (s : State) : State :=
  match p with
  | .host => { s with rope := { s.rope with host := f s.rope.host } }
  | .twin => { s with rope := { s.rope with twin := f s.rope.twin } }

/-- A frame breaks (R228); a break with cause SHORT makes a STATUS due (R233). -/
def breakFrame (n cause : Nat) (p : Path) (s : State) : State :=
  let s := modLayer n (fun l => { l with back := .empty, receiving := false, released := false, crossing := false, backFence := 0 }) s
  let s := modPath p (fun r => { r with breaks := satInc 16 r.breaks, lastLayer := n, lastCause := cause }) s
  noteF 0x0220 n cause (pathNo p) (if cause = 3 then statusDue 1 n 5 s else s)

/-- Every layer RECEIVING from a path breaks with cause GAP. -/
def breakAll (p : Path) (s : State) : State :=
  (List.range 6).foldl (fun s n => if (layerOf s n).receiving && layerPath s n = p then breakFrame n 4 p s else s) s

/-- A path is interrupted (R229): the packet in progress is discarded, frames break, and nothing is accepted until the path is back. The
twin link is back at once while TWRX stays TRAINED, the host bond with a CLIMB set. -/
def interrupt (p : Path) (s : State) : State :=
  modPath p (fun r => { r with up := p = .twin && twinTrained s, held := [] }) (breakAll p s)

/-! ### Reactions (R326, R332) and `raise` (R328) -/

/-- A collateral window opens (R332). -/
def openWindow (r : Nat) (s : State) : State :=
  { s with flt := { s.flt with windows := insertNat r s.flt.windows, window4 := if r = 4 then 0 else s.flt.window4 } }

/-- Entry cause code of a SNUFF-level event (R50). -/
def snuffCause (code : Nat) : Nat := if code = 0x0701 then 12 else if code = 0x1101 then 13 else 11

/-- The pattern area that a bank of the pattern area holds: 7 pilot, 8 belay. -/
def patternOfBank (bank : Nat) : Nat := if bank < 62 then 7 else 8

/-- ENGINE_RESET (R332): the engine abandons the passes of its tile, if it has one, of which `pass` is in progress, and composes it again
from the first. -/
def abandonTile (e pass : Nat) (s : State) : State :=
  { s with scl := { s.scl with engines := modNth s.scl.engines e (fun k => if k.tile.isSome then { k with redo := k.redo ++ [pass] } else k) } }

/-- `start_reactions` of R328. The PILOT and BELAY triggers follow from the class flags and the twin state. -/
def startReactions (e : RawEvent) (s : State) : State :=
  let s := if 4 ≤ e.level then modClass (evClass e.code) (fun k => { k with hold := true }) (snuff (snuffCause e.code) e.code s) else s
  if e.code = 0x0111 then interrupt .twin (interrupt .host (openWindow 3 s))
  else if e.code = 0x0303 then openWindow 4 (abandonTile e.p0 e.p2 s)
  else if e.code = 0x0902 && e.p3 = 2 then
    let s := openWindow 5 s
    { s with nvm := { s.nvm with reloads := insertNat (patternOfBank e.p0) s.nvm.reloads } }
  else s

/-- A fault that stops the boot, if Limral is not ready yet (R438). -/
def stopBoot (s : State) : State := if s.pwr.limral then s else { s with pwr := { s.pwr with dead := true } }

/-- A shutdown's record is kept until it is written into the scar area (R314). -/
def keepTrip (r : Rec) (s : State) : State :=
  { s with thm := { s.thm with
      scarDone := false, tripRec := some r, tripArr := hottestOf 0 31 s, tripPeri := hottestOf 32 35 s, tripF := heldF s } }

/-- What a real event does beside its reactions, whichever path raises it (R340, R342): a THERMAL_SHUTDOWN keeps its record for the scar
area (R314); KINDLE_TIMEOUT and a failed supply or clock stop a boot that is not complete (R438). -/
def realEffects (e : RawEvent) (r : Rec) (s : State) : State :=
  if e.code = 0x0701 then keepTrip r s
  else if e.code = 0x0E02 then
    stopBoot { s with pwr := { s.pwr with kindleTimeout := s.pwr.kindleTimeout || (s.pwr.mode = .kindle && !s.pwr.workDone) } }
  else if [0x0801, 0x0802, 0x0F04, 0x0F05].contains e.code then stopBoot s
  else s

/-- The event latches: class flag, first-fault capture, reactions; its record `r` stands in the history. -/
def latchFlag (e : RawEvent) (r : Rec) (s : State) : State :=
  let s := modClass (evClass e.code) (fun k => { k with level := max k.level e.level, acked := false, occurrences := satInc 16 k.occurrences }) s
  let s := { s with flt := { s.flt with first := s.flt.first.or (some r) } }
  startReactions e s

/-- The event latches, and its record enters the history. -/
def latch (e : RawEvent) (r : Rec) (s : State) : State := latchFlag e r (histPush r s)

/-- The event is collateral (R333). -/
def isCollateral (e : RawEvent) (s : State) : Bool := e.level < 4 && windowOpenFor e.code s

/-- The event is escalated, judged against the flags `f` (R334). -/
def escalates (f : Flt) (e : RawEvent) : Bool :=
  let k := classOf f (evClass e.code)
  f.escCompat && decide (1 ≤ e.level) && k.level ≠ 0 && !k.acked

/-- The event as it acts: escalated by one level, or as it is (R334). -/
def actual (f : Flt) (e : RawEvent) : RawEvent := if escalates f e then { e with level := min (e.level + 1) 4 } else e

/-- An escalation is counted. -/
def countEscalation (f : Flt) (e : RawEvent) (s : State) : State :=
  if escalates f e then modClass (evClass e.code) (fun k => { k with escalations := satInc 16 k.escalations }) s else s

/-- `raise` of R328 for an event that is not dry, judged against the flags `f`; its record carries the flag bits `fl`. After the point
of no return of a sleep entry nothing is recorded or reacted to (R404). -/
def raiseOver (f : Flt) (fl : Nat) (e : RawEvent) (s : State) : State :=
  if !awake s then lateSinks e.level s
  else if isCollateral e s then raiseCollateral e s
  else
    let s := countEscalation f e s
    let e := actual f e
    let r := formRec e fl s
    let s := record e fl (if fl = 0 && decide (1 ≤ e.level) then realEffects e r s else s)
    if 1 ≤ e.level then latch e r s else s

/-- `raise` of R328 for an event that is not dry; its record carries the flag bits `fl`. -/
def raiseWith (fl : Nat) (e : RawEvent) (s : State) : State := raiseOver s.flt fl e s

/-- `raise` with `live` for an event that FAULT_INJECT made. -/
def raiseAs (live : Bool) (e : RawEvent) (s : State) : State := raiseWith (if live then flagInjected else 0) e s

/-- A real event. -/
def raise (e : RawEvent) (s : State) : State := raiseAs false e s

/-- Real events that reach the collector on one clock: in descending level, and within a level in ascending code (R328). -/
def raiseAll (l : List RawEvent) (s : State) : State :=
  (ranked (fun e => (e.level, e.code)) l).foldl (fun s e => if e.level = 0 then note e s else raise e s) s

/-- A dry injection (R342). -/
def raiseDry (e : RawEvent) (s : State) : State :=
  let r := formRec e flagInjected s
  let s := record e flagInjected s
  if 1 ≤ e.level then histPush r s else s

/-- The table's event with the frame count as parameter 3. -/
def raiseF (code p0 p1 p2 : Nat) (s : State) : State := raise (ev code p0 p1 p2 s.ft.frameCount) s

/-! ### Conditions (R327, R333) -/

/-- A condition joins those that are present; as collateral only, if a window that names its detector is open. -/
def addCond (unit : Nat) (e : RawEvent) (s : State) : State :=
  let c : Cond := { code := e.code, unit, level := e.level, p0 := e.p0, p1 := e.p1, p2 := e.p2, p3 := e.p3, collateral := isCollateral e s }
  { s with flt := { s.flt with conds := s.flt.conds ++ [c] } }

/-- A condition becomes present: raised once. -/
def condOn (unit : Nat) (e : RawEvent) (s : State) : State := if condIs e.code unit s then s else raise e (addCond unit e s)

/-- A condition is removed. -/
def condOff (code unit : Nat) (s : State) : State :=
  { s with flt := { s.flt with conds := s.flt.conds.filter (fun c => !(c.code = code && c.unit = unit)) } }

/-- A condition follows a test. -/
def condSet (on : Bool) (unit : Nat) (e : RawEvent) (s : State) : State := if on then condOn unit e s else condOff e.code unit s

/-- A window closes; conditions raised as collateral only, and named by no window still open, are raised as real (R333); an injected
one keeps INJECTED (R342). -/
def closeWindow (r : Nat) (s : State) : State :=
  if !s.flt.windows.contains r then s
  else
    let s := { s with flt := { s.flt with windows := s.flt.windows.filter (· ≠ r) } }
    let due := s.flt.conds.filter (fun c => c.collateral && (dependents r).contains c.code && !windowOpenFor c.code s)
    (ranked (fun c => (c.level, c.code)) due).foldl (fun s c =>
      let f := s.flt.conds.map (fun x => if x.code = c.code && x.unit = c.unit then { x with collateral := false } else x)
      raiseAs (c.unit = injectUnit) { code := c.code, level := c.level, p0 := c.p0, p1 := c.p1, p2 := c.p2, p3 := c.p3 }
        { s with flt := { s.flt with conds := f } }) s

/-! ### Clearing (R335 to R338) -/

/-- CLEAR of one class (R335). -/
def clearClass (c : Nat) (s : State) : State :=
  let lvl := presentLevel s.flt c
  modClass c (fun k => { k with level := lvl, acked := false, hold := k.hold && (condsOf s.flt c).any (fun x => 4 ≤ x.level) }) s

/-- CLEAR of the classes of a mask; an emptied collector re-arms the first-fault capture (R336). -/
def clearClasses (mask : Nat) (s : State) : State :=
  let s := (List.range 18).foldl (fun s c => if 1 ≤ c && mask.testBit c then clearClass c s else s) s
  if s.flt.classes.all (·.level = 0) then { s with flt := { s.flt with first := none } } else s

/-- The classes of a mask that a CLEAR refused (REMAINING). -/
def remaining (mask : Nat) (s : State) : Nat :=
  maskOf ((List.range 18).filter (fun c => 1 ≤ c && mask.testBit c && ((classOf s.flt c).level ≠ 0 || (classOf s.flt c).hold)))

/-- ACK of the classes of a mask (R334, R346). -/
def ackClasses (mask : Nat) (s : State) : State :=
  (List.range 18).foldl (fun s c =>
    if 1 ≤ c && mask.testBit c then modClass c (fun k => { k with acked := k.acked || k.level ≠ 0 }) s else s) s

end Sys2Proof.Machine
end

