-- ==== Sys2Proof/Machine/CheckUnits.lean ====
section
/-! DEFINITION. The general check-value units: feed, start, capture and compare (R174 to R177). -/

namespace Sys2Proof.Machine

/-- A number cut to the width of a unit: bits above it are ignored and read 0 (R174). -/
def guCut (g : Gu) (n : Nat) : Nat := n % 2 ^ g.width

/-- A unit is fed bytes (R174). -/
def guFeedBytes (b : List Byte) (g : Gu) : Gu :=
  { g with value := crcRun g.width (guCut g g.poly) g.refin (guCut g g.value) b, bytes := (g.bytes + b.length) % 2 ^ 32 }

/-- RESTART and the automatic starts: INIT is loaded, BYTES cleared (R177). -/
def guStart (g : Gu) : Gu := { g with value := guCut g g.init, bytes := 0 }

/-- The result of R174 for the register as it stands. -/
def guValue (g : Gu) : Nat := crcOut g.width g.refout (guCut g g.xorout) (guCut g g.value)

/-- A unit. -/
def guOf (s : State) (n : Nat) : Gu := s.chk.gus.getD n {}

/-- A unit changes. -/
def modGu (n : Nat) (f : Gu → Gu) (s : State) : State := { s with chk := { s.chk with gus := modNth s.chk.gus n f } }

/-- A capture of a unit, with its comparison (R176). -/
def guCaptureNow (n : Nat) (s : State) : State :=
  let g := guOf s n
  let r := guValue g
  let s := modGu n (fun g => { g with result := r, captures := satInc 16 g.captures }) s
  if !g.cmpEn then s
  else if r = guCut g g.expect then modGu n (fun g => { g with mism := false, compared := true }) s
  else
    let s := modGu n (fun g => { g with mism := true, compared := true, mismatches := satInc 16 g.mismatches }) s
    if !g.compared || !g.mism then
      raise { code := 0x0402, level := g.level, p0 := n, p1 := r, p2 := g.expect, p3 := s.ft.frameCount } s
    else s

/-- Every enabled unit that snoops a source changes (R175, R177). -/
def guSource (src : Nat) (f : Gu → Gu) (s : State) : State :=
  { s with chk := { s.chk with gus := s.chk.gus.map (fun g => if g.en && g.src = src then f g else g) } }

/-- Bytes pass on a source. -/
def guFeedSource (src : Nat) (b : List Byte) (s : State) : State := guSource src (guFeedBytes b) s

/-- A source starts: its units load INIT. -/
def guStartSource (src : Nat) (s : State) : State := guSource src guStart s

/-- A source captures; the units in descending level of their events (R328). -/
def guCaptureSource (src : Nat) (s : State) : State :=
  (ranked (fun n => ((guOf s n).level, n)) (List.range 8)).foldl (fun s n => if (guOf s n).en && (guOf s n).src = src then guCaptureNow n s else s) s

end Sys2Proof.Machine
end

