-- ==== Sys2Proof/Machine/Operands.lean ====
section
/-! DEFINITION. Operand forms: pixels, wicks and tiles; requests with their checks, replies and handles (R236 to R250). -/

namespace Sys2Proof.Machine

/-! ### Pixels, wicks, tiles (R52 to R54, R157) -/

/-- Pixels of the array. -/
def pixels : Nat := 1036800

/-- Wick cells of the array. -/
def wicks : Nat := 259200

/-- Column of a pixel (R53). -/
def pixCol (i : Nat) : Nat := i % 1440

/-- Row of a pixel. -/
def pixRow (i : Nat) : Nat := i / 1440

/-- Linear index of a pixel (R53). -/
def pixIndex (c r : Nat) : Nat := 1440 * r + c

/-- Pixel address word (R52). -/
def pixWord (i : Nat) : Nat := pixCol i + pixRow i * 65536

/-- The pixel that an address word names. -/
def pixOfWord (w : Nat) : Option Nat :=
  let c := bits w 0 11
  let r := bits w 16 10
  if c ≤ 1439 && r ≤ 719 then some (pixIndex c r) else none

/-- The wick that serves a pixel, as 1,440 b + c (R54, R364). -/
def wickOf (i : Nat) : Nat := 1440 * (pixRow i / 4) + pixCol i

/-- The phase of a pixel. -/
def phaseOf (i : Nat) : Nat := pixRow i % 4

/-- The four pixels of a wick, phases A to D. -/
def wickPixels (w : Nat) : List Nat := (List.range 4).map (fun f => pixIndex (w % 1440) (4 * (w / 1440) + f))

/-- Tile of a pixel (R157). -/
def tileOf (i : Nat) : Nat := 30 * (pixRow i / 48) + pixCol i / 48

/-- Place of a pixel in its tile, row by row. -/
def posInTile (i : Nat) : Nat := 48 * (pixRow i % 48) + pixCol i % 48

/-- The pixel at a place of a tile. -/
def tilePixel (t k : Nat) : Nat := pixIndex (48 * (t % 30) + k % 48) (48 * (t / 30) + k / 48)

/-- The word of a pixel in a plane held by tiles; a tile that is not listed holds 0. -/
def planeGet (p : List (Nat × List Nat)) (i : Nat) : Nat := (assocGet [] (tileOf i) p).getD (posInTile i) 0

/-- A plane with one tile's words. -/
def planePut (p : List (Nat × List Nat)) (t : Nat) (w : List Nat) : List (Nat × List Nat) := assocSet [] t w p

/-- A pixel lies in a rectangle; a rectangle whose first bound exceeds its last is empty (R109). -/
def inRect (r : Rect) (i : Nat) : Bool :=
  decide (r.c0 ≤ pixCol i) && decide (pixCol i ≤ r.c1) && decide (r.r0 ≤ pixRow i) && decide (pixRow i ≤ r.r1)

/-! ### Requests (R239 to R244) -/

/-- A reply before it is packed: status, payload, handle (R240). -/
structure Rep where
  /-- STATUS -/
  status : Nat
  /-- payload -/
  payload : List Byte := []
  /-- HANDLE, with ACCEPTED -/
  handle : Nat := 0
deriving DecidableEq, Repr

/-- A body of a command: what it answers and the state it leaves. -/
abbrev Body := State → Rep × State

/-- A reply with a status alone. -/
def rep (status : Nat) (s : State) : Rep × State := ({ status }, s)

/-- OK with a payload. -/
def repOk (payload : List Byte) (s : State) : Rep × State := ({ status := stOk, payload }, s)

/-- ACCEPTED with a new handle, or BUSY where none is free (step 9 of R241); `start` gets the handle. -/
def accept (start : Nat → State → State) (s : State) : Rep × State :=
  if handleFree s then
    let h := newHandle s
    ({ status := stAccepted, handle := h }, start h (takeHandle s))
  else rep stBusy s

/-- The 8 header bytes, payload and CRC-32C of a reply (R240). -/
def replyBytes (op tag : Nat) (r : Rep) : List Byte :=
  let b := [0x5A, BitVec.ofNat 8 op, BitVec.ofNat 8 tag, BitVec.ofNat 8 r.status] ++ le 2 r.payload.length ++ le 2 r.handle ++ r.payload
  b ++ le 4 (crc32c b)

/-- A source's front-end state. -/
def srcOf (s : State) : Src → SrcState
  | .spi => s.cmd.spi
  | .inband => s.cmd.inband
  | .twin => s.cmd.twin

/-- A source's front-end state changes. -/
def modSrc (x : Src) (f : SrcState → SrcState) (s : State) : State :=
  match x with
  | .spi => { s with cmd := { s.cmd with spi := f s.cmd.spi } }
  | .inband => { s with cmd := { s.cmd with inband := f s.cmd.inband } }
  | .twin => { s with cmd := { s.cmd with twin := f s.cmd.twin } }

/-- Reply bytes go to the source: into the SPI reply buffer, or into the queue of HTX or TWTX (R236, R247). -/
def sendReply (x : Src) (b : List Byte) (s : State) : State :=
  match x with
  | .spi => { s with cmd := { s.cmd with spiReply := some b } }
  | .inband => { s with rope := { s.rope with htxReplies := s.rope.htxReplies ++ [b] } }
  | .twin => { s with rope := { s.rope with twtxReplies := s.rope.twtxReplies ++ [b] } }

/-- A reply from step 4 of R241 on: it is sent and becomes the source's stored reply. -/
def respond (x : Src) (op tag : Nat) (r : Rep) (s : State) : State :=
  let b := replyBytes op tag r
  sendReply x b (modSrc x (fun q => { q with stored := b }) s)

/-- The opcodes of R254. -/
def knownOpcodes : List Nat :=
  [0x00, 0x01, 0x02, 0x03, 0x04, 0x05, 0x06, 0x10, 0x11, 0x12, 0x20, 0x21, 0x22, 0x23, 0x24, 0x25, 0x26, 0x30] ++
  [0x31, 0x32, 0x40, 0x41, 0x42, 0x43, 0x50, 0x51, 0x52, 0x60, 0x61, 0x70, 0x71, 0x80, 0x90, 0x91, 0xA0, 0xF0]

/-- Opcodes that the twin path accepts (R237). -/
def twinOpcodes : List Nat := [0x00, 0x01, 0x02, 0x03, 0x50, 0x60, 0x61, 0x70]

/-- Opcodes that return WRONG_MODE in KINDLE: groups 4, 7, 9, A and F, NVM_READ excepted (R43). -/
def barredInKindle (op : Nat) : Bool := [4, 7, 9, 10, 15].contains (op / 16) && op ≠ 0x42

/-- Opcodes that the configuration lock forbids whatever their payload (R262). -/
def lockedOpcodes : List Nat := [0x40, 0x41, 0x43, 0x52, 0x80, 0x90, 0xA0, 0x25, 0xF0]

/-- Requests that the lock forbids: LINK_TRAIN with ACTION DISABLE beside the opcodes above; WRITE_REG is judged by its addresses. -/
def lockForbids (op : Nat) (payload : List Byte) : Bool :=
  lockedOpcodes.contains op || (op = 0x30 && field payload 1 1 = 1 && 2 ≤ payload.length)

/-- A LOCKED reply is counted (R262). -/
def refuseLocked (s : State) : Rep × State :=
  rep stLocked { s with cmd := { s.cmd with lockRefusals := satInc 16 s.cmd.lockRefusals } }

/-- A request is dropped without a reply (R266). -/
def dropRequest (x : Src) (cause : Nat) (s : State) : State :=
  let s := modSrc x (fun q => { q with dropped := satInc 16 q.dropped }) s
  note (ev 0x0D04 (srcNo x) (srcOf s x).dropped cause 0) s

/-- Framing and CRC-32C of a request are good (steps 1 and 2 of R241). -/
def packetGood (b : List Byte) : Bool :=
  let n := field b 4 2
  decide (n ≤ 1024) && b.length = 12 + n && crc32c (b.take (8 + n)) = field b (8 + n) 4

/-- ALIVE of a request (R239). -/
def aliveOf (b : List Byte) : Nat := bits (field b 3 1) 4 4

/-- A request repeats the last one (R243). -/
def isRepeat (b : List Byte) (q : SrcState) : Bool := q.valid && !(field b 3 1).testBit 0 && aliveOf b = q.ref

/-- A request that is neither bad nor a repeat is taken: reference, counters, SEQ_GAP (R243). Each such request counts as a valid command
for the host timeout's source, one that is answered BAD_OPCODE too, a repeat not (R38; DESIGN CHOICE, log entry 86). -/
def takeAlive (x : Src) (b : List Byte) (s : State) : State :=
  let q := srcOf s x
  let gap := q.valid && !(field b 3 1).testBit 0 && (aliveOf b + 16 - q.ref) % 16 ≠ 1
  let s := modSrc x (fun q => { q with
    ref := aliveOf b, valid := true, executed := satInc 16 q.executed, gaps := if gap then satInc 16 q.gaps else q.gaps }) s
  let s := { s with pwr := { s.pwr with hostSrc := srcNo x } }
  if gap then note (ev 0x0D02 (srcNo x) q.ref (aliveOf b) (srcOf s x).gaps) s else s

/-- A request packet: header with the byte ALIVE_FLAGS, payload and CRC-32C (R239). -/
def requestBytes (op tag flags : Nat) (payload : List Byte) : List Byte :=
  let b := [0xA5, BitVec.ofNat 8 op, BitVec.ofNat 8 tag, BitVec.ofNat 8 flags] ++ le 2 payload.length ++ le 2 0 ++ payload
  b ++ le 4 (crc32c b)

/-- Steps 1 to 4 of R241 for the first request of the queue: `none` where it passes them, or none waits. -/
def screenOne (s : State) : Option State :=
  match s.cmd.queue with
  | [] => none
  | w :: rest =>
    let x := w.src
    let b := w.bytes
    let s := { s with cmd := { s.cmd with queue := rest } }
    let op := field b 1 1
    if !packetGood b then
      let s := modSrc x (fun q => { q with badCrc := satInc 16 q.badCrc }) s
      let s := sendReply x (replyBytes op (field b 2 1) { status := stBadCrc }) s
      some (note (ev 0x0D03 (srcNo x) (srcOf s x).badCrc op 0) s)
    else if isRepeat b (srcOf s x) then
      some (sendReply x (srcOf s x).stored (modSrc x (fun q => { q with repeats := satInc 16 q.repeats }) s))
    else if !knownOpcodes.contains op then
      some (respond x op (field b 2 1) { status := stBadOpcode } (takeAlive x b s))
    else none

/-- Waiting requests that fail steps 1 to 4 are answered in the order of their arrival, up to the first that passes. -/
def screenFrom : Nat → State → State
  | 0, s => s
  | k + 1, s => match screenOne s with
    | none => s
    | some t => screenFrom k t

/-- The queues are screened; they hold at most 13 requests (R236). Nothing is while a command runs. -/
def screen (s : State) : State := if s.mem.assigning.isSome then s else screenFrom 13 s

/-- A waiting request is this one. -/
def isThis (op : Nat) (rq : Rq) (w : Waiting) : Bool :=
  w.src = rq.src && field w.bytes 1 1 = op && field w.bytes 2 1 = rq.tag % 256 && field w.bytes 4 2 = rq.payload.length &&
    slice w.bytes 8 rq.payload.length = rq.payload

/-- It is this request's turn: requests are taken in the order of their arrival (R236). Where none waits, the request is one that has
just come through the front end. -/
def itsTurn (op : Nat) (rq : Rq) (s : State) : Bool :=
  match s.cmd.queue with
  | [] => true
  | w :: _ => isThis op rq w

/-- A request is taken for execution: the first of the queue leaves it. Where none waits, the request is one that has just come
through the front end, with RESYNC 0 and an ALIVE one above its source's reference (DESIGN CHOICE, log entry 87). -/
def takeRequest (op : Nat) (rq : Rq) (s : State) : State :=
  match s.cmd.queue with
  | [] => takeAlive rq.src (requestBytes op rq.tag (((srcOf s rq.src).ref + 1) % 16 * 16) rq.payload) s
  | w :: rest => takeAlive rq.src w.bytes { s with cmd := { s.cmd with queue := rest } }

/-- Steps 5 to 9 of R241 around a command's own rules. -/
def judge (x : Src) (op : Nat) (payload : List Byte) (modeOk lenOk : Bool) (lockExtra : Bool) (body : Body) (s : State) : Rep × State :=
  if x = .twin && !twinOpcodes.contains op then rep stRefused s
  else if (s.pwr.mode = .kindle && barredInKindle op) || !modeOk then rep stWrongMode s
  else if s.cmd.locked && (lockForbids op payload || lockExtra) then refuseLocked s
  else if !lenOk then rep stBadParam s
  else body s

/-- The reply of a request: held while handovers that the request started run (R296). -/
def answer (x : Src) (op tag : Nat) (r : Rep) (s : State) : State :=
  if s.mem.banks.any (·.handover.isSome) then { s with mem := { s.mem with assigning := some (x, replyBytes op tag r) } }
  else screen (respond x op tag r s)

/-- Whether the control core can execute a command: a command port is open and no command runs (R236, R296). -/
def coreFree (s : State) : Bool := portsOpen s && s.mem.assigning.isNone

/-- The control core executes this request now. -/
def canRun (op : Nat) (rq : Rq) (s : State) : Bool := coreFree s && itsTurn op rq s

/-- A request is executed and answered. Without an open command port, while a command runs, or before its turn nothing happens. -/
def request (rq : Rq) (op : Nat) (modeOk : State → Bool) (lenOk : Nat → Bool) (lockExtra : Bool) (body : Body) (s : State) : Res :=
  if !canRun op rq s then .next s
  else
    let s := takeRequest op rq s
    let (r, s) := judge rq.src op rq.payload (modeOk s) (lenOk rq.payload.length) lockExtra body s
    .next (answer rq.src op rq.tag r s)

/-- No mode rule of its own. -/
def anyMode : State → Bool := fun _ => true

/-- A payload of a fixed length. -/
def lenIs (n : Nat) : Nat → Bool := fun k => k = n

end Sys2Proof.Machine
end

