-- ==== Sys2Proof/Machine/NvmOps.lean ====
section
/-! DEFINITION. MRAM: the map, slots and their checks, bodies of the contents, requests for stores and what their end does (R356 to R366). -/

namespace Sys2Proof.Machine

/-! ### The map and the slots (R356 to R361) -/

/-- Contents held in a slot pair; the others have a single area. -/
def isPair (c : Nat) : Bool := [0, 2, 3, 4, 5, 6, 9].contains c

/-- Start of a slot: 0 A, 1 B, 2 single (R356). -/
def slotBase (c slot : Nat) : Nat :=
  let a := [0x000000, 0x200000, 0x620000, 0x300000, 0x720000, 0x590000, 0x598000, 0x490000, 0x510000, 0x480000].getD c 0
  let b := [0x100000, 0x200000, 0x6A0000, 0x340000, 0x724000, 0x594000, 0x59C000, 0x490000, 0x510000, 0x488000].getD c 0
  if slot = 1 then b else a

/-- Body bytes of a content (R363). -/
def bodyLen (c : Nat) : Nat := [1036800, 1036800, 518400, 259200, 8192, 128, 136, 518448, 518448, 4096].getD c 0

/-- The commit word (R358). -/
def commitWord : Nat := 0x4D4D4F43

/-- Bytes of MRAM. -/
def mramRead (s : State) (a k : Nat) : List Byte := memRead s.nvm.mram a k

/-- A slot is committed (R358). -/
def slotCommitted (s : State) (c k : Nat) : Bool := leVal (mramRead s (slotBase c k + 56) 8) = commitWord

/-- GEN of a slot. -/
def slotGen (s : State) (c k : Nat) : Nat := leVal (mramRead s (slotBase c k) 4)

/-- Body of a slot. -/
def slotBody (s : State) (c k : Nat) : List Byte := mramRead s (slotBase c k + 64) (bodyLen c)

/-- A word with an uncorrectable error lies in a range (R357). -/
def mramBad (s : State) (a k : Nat) : Bool := s.nvm.badWords.any (fun w => decide (a < 8 * w + 8) && decide (8 * w < a + k))

/-- A slot is valid (R358). -/
def slotValid (s : State) (c k : Nat) : Bool :=
  let b := slotBase c k
  slotCommitted s c k && leVal (mramRead s (b + 8) 1) = c && leVal (mramRead s (b + 4) 4) = bodyLen c &&
    !mramBad s b (64 + bodyLen c) && leVal (mramRead s (b + 12) 4) = crc32 (mramRead s b 12 ++ slotBody s c k)

/-- Of two GENs, the first is the higher in the cycle (R360). -/
def genHigher (a b : Nat) : Bool :=
  let m := 0xFFFFFFFE
  let d := (a + m - b % m) % m
  (decide (1 ≤ d) && decide (d ≤ 0x7FFFFFFE)) || (d = 0x7FFFFFFF && decide (b < a))

/-- Slots of a content. -/
def slotsOf (c : Nat) : List Nat := if isPair c then [0, 1] else [2]

/-- The slot of a list with the highest GEN; of equal GENs the first. -/
def highestSlot (s : State) (c : Nat) (l : List Nat) : Option Nat :=
  l.foldl (fun (b : Option Nat) k => match b with
    | none => some k
    | some j => if genHigher (slotGen s c k) (slotGen s c j) then some k else b) none

/-- The slot that the load rule selects (R361). -/
def loadSlot (s : State) (c : Nat) : Option Nat := highestSlot s c ((slotsOf c).filter (slotValid s c))

/-- GEN of the next store of a content (R360). -/
def newGen (s : State) (c : Nat) : Nat :=
  match highestSlot s c ((slotsOf c).filter (slotCommitted s c)) with
  | none => 1
  | some k => slotGen s c k % 0xFFFFFFFE + 1

/-- Target of the next store of a content (R360). -/
def storeTarget (s : State) (c : Nat) : Nat :=
  if !isPair c then 2
  else match s.nvm.inForce.getD c 3 with
    | 0 => 1
    | 1 => 0
    | _ =>
      match slotCommitted s c 0, slotCommitted s c 1 with
      | true, true => if genHigher (slotGen s c 0) (slotGen s c 1) then 1 else 0
      | true, false => 1
      | _, _ => 0

/-- 64-byte units written are counted (R374, R388). -/
def countUnits (n : Nat) (s : State) : State :=
  { s with
    nvm := { s.nvm with units := satAdd 32 s.nvm.units n }
    evr := { s.evr with life := { s.evr.life with nvmUnits := satAdd 64 s.evr.life.nvmUnits n } } }

/-- Free bytes: what stands where the manual does not say. -/
def freeBytes : Nat → State → List Byte × State
  | 0, s => ([], s)
  | k + 1, s =>
    let (v, s) := takeFree s
    let (t, s) := freeBytes k s
    (le 4 v ++ t, s)

/-- MRAM holds bytes from now on; the words they cover hold no error any longer. -/
def mramSet (a : Nat) (b : List Byte) (s : State) : State :=
  let covered (w : Nat) : Bool := decide (a ≤ 8 * w) && decide (8 * w + 8 ≤ a + b.length)
  { s with nvm := { s.nvm with mram := memWrite s.nvm.mram a b, badWords := s.nvm.badWords.filter (fun w => !covered w) } }

/-- Bytes are written to MRAM; general units on the port are fed (R175). -/
def mramWrite (a : Nat) (b : List Byte) (s : State) : State := guFeedSource 48 b (mramSet a b s)

/-- Bytes are written to MRAM and their verify fails: what stands there then is free. -/
def mramWriteBad (a : Nat) (b : List Byte) (s : State) : State :=
  let (f, s) := freeBytes (cdiv b.length 4) s
  guFeedSource 48 b (mramSet a (f.take b.length) s)

/-- COMMIT of a slot is set to 0 (R359). -/
def clearCommit (c k : Nat) (s : State) : State := mramWrite (slotBase c k + 56) (le 8 0) s

/-- The header of a slot up to its COMMIT (R358). -/
def slotHeader (c gen : Nat) (body : List Byte) : List Byte :=
  let h := le 4 gen ++ le 4 body.length ++ le 1 c ++ le 1 1 ++ le 2 0
  h ++ le 4 (crc32 (h ++ body)) ++ List.replicate 40 0

/-- Body, header and commit word of a slot are written in this order (R359). -/
def writeSlot (c k gen : Nat) (body : List Byte) (s : State) : State :=
  let b := slotBase c k
  let s := mramWrite (b + 64) body s
  let s := mramWrite b (slotHeader c gen body) s
  countUnits (cdiv (64 + body.length) 64) (mramWrite (b + 56) (le 8 commitWord) s)

/-- The first `n` units of a store are written, in the order of R359: those of the body, then the header. -/
def writePart (c k gen : Nat) (body : List Byte) (n : Nat) (s : State) : State :=
  let b := slotBase c k
  let s := mramWrite (b + 64) (body.take (64 * n)) s
  countUnits n (if cdiv body.length 64 < n then mramWrite b (slotHeader c gen body) s else s)

/-- A store is broken off before its commit word (R359): how many of its units were written is a free value. -/
def tearSlot (c k gen : Nat) (body : List Byte) (s : State) : State :=
  let (v, s) := takeFree s
  writePart c k gen body (v % (cdiv body.length 64 + 2)) s

/-- A store stops at the unit that holds an address: the units before it are written, what stands in it is free (R362). -/
def failSlot (c k gen : Nat) (body : List Byte) (addr : Nat) (s : State) : State :=
  let b := slotBase c k
  let off := (addr - b) / 64 * 64
  countUnits 1 (
    if off = 0 then mramWriteBad b (slotHeader c gen body) (writePart c k gen body (cdiv body.length 64) s)
    else mramWriteBad (b + off) ((body.drop (off - 64)).take 64) (writePart c k gen body (off / 64 - 1) s))

/-- A slot comes into force (R360). -/
def setInForce (c k gen : Nat) (s : State) : State :=
  { s with nvm := { s.nvm with
      inForce := modNth s.nvm.inForce c (fun _ => k), gens := modNth s.nvm.gens c (fun _ => gen) } }

/-! ### The scar area (R314, R385) -/

/-- A scar cell. -/
def scarCell (s : State) (i : Nat) : List Byte := memRead s.nvm.scar (64 * i) 64

/-- Check word of a scar cell's content. -/
def scarCrc (b : List Byte) : Nat := crc32 (slice b 0 3 ++ slice b 4 56)

/-- Words of the scar area with an uncorrectable error that lie in a range (R357, R372). -/
def scarBadIn (s : State) (a k : Nat) : List Nat := s.nvm.scarBad.filter (fun w => decide (a < 8 * w + 8) && decide (8 * w < a + k))

/-- A valid cell of a kind. -/
def scarValid (s : State) (kind i : Nat) : Bool :=
  let b := scarCell s i
  field b 2 1 = kind && field b 60 4 = scarCrc b && (scarBadIn s (64 * i) 64).isEmpty

/-- The valid cell of the highest SEQ among eight cells; SEQ runs in a cycle of 65,535. -/
def scarNewest (s : State) (kind lo : Nat) : Option Nat :=
  let seq (i : Nat) := field (scarCell s i) 0 2
  (((List.range 8).map (lo + ·)).filter (scarValid s kind)).foldl (fun (b : Option Nat) i => match b with
    | none => some i
    | some j => if (seq i + 65535 - seq j) % 65535 < 32768 then some i else some j) none

/-- A cell that is valid and not yet copied. -/
def scarUncopied (s : State) (kind i : Nat) : Bool := scarValid s kind i && field (scarCell s i) 3 1 = 0

/-- A high-margin write into the scar area begins (R314): the cell is torn until it ends. `tail` gives bytes 36 to 59 from LOST. A copy of
the cell's old record that waits in the staging queue no longer marks the cell. -/
def beginScar (kind lo : Nat) (r : Rec) (tail : Nat → List Byte) (s : State) : State :=
  let newest := scarNewest s kind lo
  let cell := match newest with | some i => lo + (i - lo + 1) % 8 | none => lo
  let seq := match newest with | some i => field (scarCell s i) 0 2 % 65535 + 1 | none => 1
  let lostAt := if kind = 1 then 43 else 44
  let before := match newest with | some i => if scarUncopied s kind i then field (scarCell s i) lostAt 1 else 0 | none => 0
  let lost := min 255 (before + (if scarUncopied s kind cell then 1 else 0))
  let b := le 2 seq ++ le 1 kind ++ le 1 0 ++ recBytes r ++ slice (tail lost) 0 24
  { s with
    nvm := { s.nvm with scar := memWrite s.nvm.scar (64 * cell) (List.replicate 64 0) }
    evr := { s.evr with queue := s.evr.queue.map (fun r => if r.cell = some cell then { r with cell := none } else r) }
    thm := { s.thm with scarWriting := s.thm.scarWriting ++ [(cell, b ++ le 4 (scarCrc b))] } }

/-- A cell's content is written (R314). -/
def scarWrite (i : Nat) (b : List Byte) (s : State) : State :=
  guFeedSource 48 b { s with nvm := { s.nvm with
    scar := memWrite s.nvm.scar (64 * i) b, scarBad := s.nvm.scarBad.filter (fun w => w / 8 ≠ i) } }

/-- A cell is marked as copied (R315). -/
def markCopied (i : Nat) (s : State) : State :=
  guFeedSource 48 [0xA5] { s with nvm := { s.nvm with scar := memSet s.nvm.scar (64 * i + 3) 0xA5 } }

/-! ### Bodies (R114, R363 to R366, R388) -/

/-- A defect-list entry (R114). -/
def defectWord (d : Defect) : Nat := d.pix % 2 ^ 20 + d.type * 2 ^ 20 + d.source * 2 ^ 24

/-- The defect list as it is stored: the lowest 2,048 entries. -/
def defectBody (s : State) : List Byte :=
  let l := (s.diag.defects.take 2048).flatMap (fun d => le 4 (defectWord d))
  l ++ List.replicate (8192 - l.length) 0

/-- TWIN_CONFIG payload of the configuration in force (R285). -/
def twinBytes (c : TwinCfg) : List Byte :=
  le 1 c.role ++ le 1 0 ++ le 1 c.shareLevel ++ le 1 c.fwdMask ++ le 1 c.cableNs ++ le 1 0 ++ le 2 c.joinMs

/-- THERM_CONFIG payload of a configuration (R321). -/
def thermBytes (c : ThermCfg) : List Byte :=
  le 1 c.knee ++ le 1 (flag c.autoRekindle 0 + flag c.ntcEn 1) ++ le 2 c.beta ++ le 4 c.res

/-- The calibration header (R365): offsets and starting codes in force, the configurations in force with their VALID bytes. -/
def headerBody (s : State) : List Byte :=
  let tw := le 1 0xA5 ++ twinBytes s.twn.cfg
  let th := le 1 0xA5 ++ thermBytes s.thm.cfg
  s.thm.sensors.flatMap (fun x => le 1 (twos 8 x.offset)) ++ s.nvm.header.ctle.flatMap (fun c => le 1 c) ++ List.replicate 3 0 ++
    tw ++ th ++ List.replicate 46 0

/-- The wick set in force (R364). -/
def wickBody (s : State) : List Byte :=
  let fl := match s.nvm.wickSet with | some w => w.flagged | none => []
  (List.range wicks).flatMap (fun w =>
    le 2 (twos 6 (sget s.arr.sinkOfs w) + sget s.arr.preLevel w * 256 + flag (fl.contains w) 15))

/-- The wear accumulators (R363). -/
def wearBody (s : State) : List Byte := (List.range 64800).flatMap (fun b => le 4 (sget s.map.wear b))

/-- The lifetime block (R388). -/
def lifeBody (s : State) : List Byte :=
  let l := s.evr.life
  le 4 s.ao.cycles ++ le 4 s.ao.seconds ++ l.modeS.flatMap (le 4) ++ l.tjS.flatMap (le 4) ++ l.ntcS.flatMap (le 4) ++
    l.currentS.flatMap (le 4) ++ le 4 l.throttle ++ l.retrains.flatMap (le 4) ++ le 4 l.shutdowns ++ le 8 l.nvmUnits ++
    le 2 l.defectNext ++ List.replicate 54 0 ++
    (List.range 256).flatMap (fun i =>
      let e := assocGet (0, 0) i (l.defectHist.map (fun h => (h.1, (h.2.1, h.2.2))))
      le 4 e.1 ++ le 4 e.2) ++
    List.replicate 1664 0

/-- Body of a store that the device makes itself, from the values in force. -/
def storeBody (s : State) : Nat → List Byte
  | 2 => wickBody s
  | 3 => wearBody s
  | 4 => defectBody s
  | 5 => headerBody s
  | 9 => lifeBody s
  | _ => []

/-- The checks of a pattern body (R366). -/
def patternBodyOk (c : Nat) (b : List Byte) : Bool :=
  field b 0 4 = 0x31505A55 && field b 4 2 = 1440 && field b 6 2 = 720 && field b 8 1 = 4 && field b 9 1 = c - 7

/-- The load check of a pattern area (R33, R366). -/
def patternValid (s : State) (c : Nat) : Bool :=
  slotValid s c 2 && patternBodyOk c (mramRead s (slotBase c 2 + 64) 48)

/-- First failing entry of a droop table with its value; 0xFFFF for a failing STEP (R88, R96). Where GAIN[i + 1] is below GAIN[i], the
failing entry is i + 1 (DESIGN CHOICE, log entry 83). -/
def droopFault (b : List Byte) : Option (Nat × Nat) :=
  let g (i : Nat) := field b (4 + 2 * i) 2
  if field b 0 4 = 0 then some (0xFFFF, 0)
  else match (List.range 65).find? (fun i => decide (g i < 0x4000) || (i ≠ 0 && decide (g i < g (i - 1)))) with
    | some i => some (i, g i)
    | none => none

/-- The droop table that a body holds. -/
def droopOf (b : List Byte) : Droop := { step := field b 0 4, gains := (List.range 65).map (fun i => field b (4 + 2 * i) 2) }

/-! ### Requests for stores and their end (R362, R369 to R371) -/

/-- A TEMP_WINDOW reply, counted (R318). -/
def tempWindow (s : State) : Rep × State :=
  rep stTempWindow { s with thm := { s.thm with deferReplies := satInc 16 s.thm.deferReplies } }

/-- Stores are deferred or abandoned (R318). -/
def countDefers (n : Nat) (s : State) : State := { s with thm := { s.thm with deferStores := satAdd 16 s.thm.deferStores n } }

/-- Bit of a content in the mask of CAL_COMMIT (R371). -/
def calBit : Nat → Nat
  | 2 => 1
  | 5 => 2
  | 3 => 4
  | 4 => 8
  | _ => 0

/-- Contents of a CAL_COMMIT mask, in the order of its bits. -/
def calContents (m : Nat) : List Nat := [2, 5, 3, 4].filter (fun c => m &&& calBit c ≠ 0)

/-- A command requires a store of each content of a mask (R370, R371). -/
def requireStores (mask handle : Nat) (s : State) : State :=
  (calContents mask).foldl (fun s c => queueStore { content := c, auto := false, who := [handle] } s) s

/-- A CALIBRATE or CAL_COMMIT whose stores have all ended completes (R370, R371). -/
def finishCal (r : CalRun) (s : State) : State :=
  let st := if r.bad = 0 then stOk else r.bad
  if r.full then complete r.handle 0x40 r.src st r.w (r.flags + (if r.bad = 0 && r.store then 4 else 0)) s
  else complete r.handle 0x41 r.src st r.done r.lost s

/-- What the end of one store with a status makes of a command that required it. -/
def storeEnded (c status : Nat) (r : CalRun) : CalRun :=
  let ok := status = stOk
  { r with
    todo := r.todo - (r.todo &&& calBit c), done := if ok then r.done + calBit c else r.done
    lost := if ok then r.lost else r.lost + calBit c, bad := if ok || r.bad ≠ 0 then r.bad else status }

/-- A store that a command required has ended with a status. -/
def resolveStore (c status : Nat) (s : State) (handle : Nat) : State :=
  let hit (r : CalRun) : Bool := r.handle = handle && r.stage = 3 && r.todo &&& calBit c ≠ 0
  let s := match s.nvm.calRun with
    | some r =>
      if !hit r then s
      else
        let r := storeEnded c status r
        if r.todo = 0 then finishCal r { s with nvm := { s.nvm with calRun := none } }
        else { s with nvm := { s.nvm with calRun := some r } }
    | none => s
  let runs := s.nvm.commits.map (fun r => if hit r then storeEnded c status r else r)
  let ended := runs.filter (·.todo = 0)
  ended.foldl (fun s r => finishCal r s) { s with nvm := { s.nvm with commits := runs.filter (·.todo ≠ 0) } }

/-- The stores of long commands are abandoned, which is counted, and end with TEMP_WINDOW when the window closes (R318). -/
def resolveClosed (s : State) : State :=
  let q := s.nvm.queue
  let waiting := q.flatMap (fun r => r.who.map (fun h => (r.content, h)))
  let s := countDefers (q.filter (!·.auto)).length s
  let s := { s with nvm := { s.nvm with queue := (q.filter (·.auto)).map (fun r => { r with who := [] }) } }
  waiting.foldl (fun s w => resolveStore w.1 stTempWindow s w.2) s

/-- The running store is broken off (R359). -/
def tearStore (s : State) : State :=
  match s.nvm.run with
  | none => s
  | some r => tearSlot r.content r.slot r.gen r.body { s with nvm := { s.nvm with run := none } }

/-- The content check of a COMMIT (R88, R366). -/
def pwContentOk (c : Nat) (body : List Byte) : Bool :=
  if c = 7 || c = 8 then patternBodyOk c body else if c = 6 then (droopFault body).isNone else true

/-- Header and commit word of a written body (R359, R367). -/
def pwCommitSlot (l : PwLoad) (body : List Byte) (s : State) : State :=
  let b := slotBase l.target l.slot
  let s := mramWrite b (slotHeader l.target l.gen body) s
  setInForce l.target l.slot l.gen (countUnits 1 (mramWrite (b + 56) (le 8 commitWord) s))

/-- A PATTERN_WRITE load ends; of a COMMIT that runs, how much was written before is a free value: nothing, the header, or, with TARGET
1, the committed factory area and a part of the trim slot (R359, R367). -/
def tearLoad (s : State) : State :=
  match s.nvm.pw with
  | none => s
  | some l =>
    let s := { s with nvm := { s.nvm with pw := none } }
    let body := slotBody s l.target l.slot
    if l.commits.isEmpty || !pwContentOk l.target body then s
    else
      let (v, s) := takeFree s
      if v % 3 = 0 then s
      else if v % 3 = 1 || l.target ≠ 1 then countUnits 1 (mramWrite (slotBase l.target l.slot) (slotHeader l.target l.gen body) s)
      else
        let k := storeTarget s 0
        tearSlot 0 k (newGen s 0) body (clearCommit 0 k (pwCommitSlot l body s))

/-- A write of the port failed its verify (R362, R373). -/
def writeFailed (c slot addr : Nat) (s : State) : State :=
  let s := { s with nvm := { s.nvm with verifyFails := satInc 16 s.nvm.verifyFails } }
  raise (ev 0x0A02 c slot addr s.nvm.verifyFails) s

/-- General units on the port's reads take values that the manual does not state: it does not give the order of every read of a load. -/
def openReads (s : State) : State :=
  (List.range 8).foldl (fun s n =>
    if (guOf s n).en && (guOf s n).src = 49 then
      let (a, s) := takeFree s
      let (b, s) := takeFree s
      modGu n (fun g => { g with value := a % 2 ^ g.width, bytes := b }) s
    else s) s

end Sys2Proof.Machine
end

