-- ==== Sys2Proof/Machine/Crypto.lean ====
section
/-! DEFINITION. The check of a firmware patch (R263): the SHA-256 digest and the ECDSA signature over the curve P-256, as FIPS 180-4 and
FIPS 186-4 define them (PRESUMED, log entry 90). The public key stands in the ROM; its value is not stated. -/

namespace Sys2Proof.Machine

/-! ### SHA-256 -/

/-- Rotation of a 32-bit word to the right. -/
def rotr (n x : Nat) : Nat := (x >>> n ||| x <<< (32 - n)) % 2 ^ 32

/-- The round constants. -/
def shaK : List Nat :=
  [0x428a2f98, 0x71374491, 0xb5c0fbcf, 0xe9b5dba5, 0x3956c25b, 0x59f111f1, 0x923f82a4, 0xab1c5ed5] ++
  [0xd807aa98, 0x12835b01, 0x243185be, 0x550c7dc3, 0x72be5d74, 0x80deb1fe, 0x9bdc06a7, 0xc19bf174] ++
  [0xe49b69c1, 0xefbe4786, 0x0fc19dc6, 0x240ca1cc, 0x2de92c6f, 0x4a7484aa, 0x5cb0a9dc, 0x76f988da] ++
  [0x983e5152, 0xa831c66d, 0xb00327c8, 0xbf597fc7, 0xc6e00bf3, 0xd5a79147, 0x06ca6351, 0x14292967] ++
  [0x27b70a85, 0x2e1b2138, 0x4d2c6dfc, 0x53380d13, 0x650a7354, 0x766a0abb, 0x81c2c92e, 0x92722c85] ++
  [0xa2bfe8a1, 0xa81a664b, 0xc24b8b70, 0xc76c51a3, 0xd192e819, 0xd6990624, 0xf40e3585, 0x106aa070] ++
  [0x19a4c116, 0x1e376c08, 0x2748774c, 0x34b0bcb5, 0x391c0cb3, 0x4ed8aa4a, 0x5b9cca4f, 0x682e6ff3] ++
  [0x748f82ee, 0x78a5636f, 0x84c87814, 0x8cc70208, 0x90befffa, 0xa4506ceb, 0xbef9a3f7, 0xc67178f2]

/-- The initial digest. -/
def shaInit : List Nat :=
  [0x6a09e667, 0xbb67ae85, 0x3c6ef372, 0xa54ff53a, 0x510e527f, 0x9b05688c, 0x1f83d9ab, 0x5be0cd19]

/-- The number that big-endian bytes hold. -/
def beVal (l : List Byte) : Nat := l.foldl (fun n b => n * 256 + b.toNat) 0

/-- `n` further words of the message schedule, from the 16 newest words, the newest first. -/
def shaSchedule : Nat → List Nat → List Nat
  | 0, _ => []
  | n + 1, w =>
    let a := w.getD 14 0
    let b := w.getD 1 0
    let s0 := rotr 7 a ^^^ rotr 18 a ^^^ a >>> 3
    let s1 := rotr 17 b ^^^ rotr 19 b ^^^ b >>> 10
    let x := (w.getD 15 0 + s0 + w.getD 6 0 + s1) % 2 ^ 32
    x :: shaSchedule n (x :: w.take 15)

/-- One round, with the sum of its constant and its schedule word. -/
def shaRound (v : List Nat) (kw : Nat) : List Nat :=
  match v with
  | [a, b, c, d, e, f, g, h] =>
    let t1 := h + (rotr 6 e ^^^ rotr 11 e ^^^ rotr 25 e) + ((e &&& f) ^^^ ((2 ^ 32 - 1 - e) &&& g)) + kw
    let t2 := (rotr 2 a ^^^ rotr 13 a ^^^ rotr 22 a) + ((a &&& b) ^^^ (a &&& c) ^^^ (b &&& c))
    [(t1 + t2) % 2 ^ 32, a, b, c, (d + t1) % 2 ^ 32, e, f, g]
  | _ => v

/-- The digest after one more block of 64 bytes. -/
def shaBlock (h : List Nat) (b : List Byte) : List Nat :=
  let w := (List.range 16).map (fun i => beVal (slice b (4 * i) 4))
  let w := w ++ shaSchedule 48 w.reverse
  let v := (List.zipWith (· + ·) shaK w).foldl shaRound h
  List.zipWith (fun x y => (x + y) % 2 ^ 32) h v

/-- The digest after `n` more blocks. -/
def shaBlocks : Nat → List Nat → List Byte → List Nat
  | 0, h, _ => h
  | n + 1, h, b => shaBlocks n (shaBlock h (b.take 64)) (b.drop 64)

/-- SHA-256 of a byte string, as a number. -/
def sha256 (b : List Byte) : Nat :=
  let zeros := (119 - b.length % 64) % 64
  let m := b ++ [0x80] ++ List.replicate zeros 0 ++ (le 8 (8 * b.length)).reverse
  (shaBlocks (m.length / 64) shaInit m).foldl (fun n x => n * 2 ^ 32 + x) 0

/-! ### ECDSA over P-256 -/

/-- The prime of the field. -/
def p256 : Nat := 0xffffffff00000001000000000000000000000000ffffffffffffffffffffffff

/-- The order of the base point. -/
def n256 : Nat := 0xffffffff00000000ffffffffffffffffbce6faada7179e84f3b9cac2fc632551

/-- The coefficient b of the curve; a is -3. -/
def b256 : Nat := 0x5ac635d8aa3a93e7b3ebbd55769886bc651d06b0cc53b0f63bce3c3e27d2604b

/-- A power modulo m, over the low `k` bits of the exponent. -/
def powMod (m x : Nat) : Nat → Nat → Nat
  | 0, _ => 1 % m
  | k + 1, e =>
    let h := powMod m x k (e / 2)
    if e % 2 = 1 then h * h % m * x % m else h * h % m

/-- The inverse modulo a prime of 256 bits. -/
def invMod (m x : Nat) : Nat := powMod m x 256 (m - 2)

/-- A point of the curve; none is the point at infinity. -/
abbrev Pt := Option (Nat × Nat)

/-- The base point. -/
def base256 : Pt :=
  some (0x6b17d1f2e12c4247f8bce6e563a440f277037d812deb33a0f4a13945d898c296,
    0x4fe342e2fe1a7f9b8ee7eb4a7c0f9e162bce33576b315ececbb6406837bf51f5)

/-- The third point on a line of slope `l` through two points, reflected. -/
def chord (l : Nat) (a b : Nat × Nat) : Pt :=
  let x := (l * l + 2 * p256 - a.1 - b.1) % p256
  some (x, (l * (a.1 + p256 - x) + p256 - a.2) % p256)

/-- The sum of two points. -/
def ptAdd (a b : Pt) : Pt :=
  match a, b with
  | none, q => q
  | q, none => q
  | some a, some b =>
    if a.1 = b.1 then
      if (a.2 + b.2) % p256 = 0 then none
      else chord ((3 * a.1 * a.1 + p256 - 3) % p256 * invMod p256 (2 * a.2 % p256) % p256) a b
    else chord ((b.2 + p256 - a.2) % p256 * invMod p256 ((b.1 + p256 - a.1) % p256) % p256) a b

/-- A multiple of a point, over the low `k` bits of the factor. -/
def ptMul (a : Pt) : Nat → Nat → Pt
  | 0, _ => none
  | k + 1, e =>
    let h := ptMul a k (e / 2)
    if e % 2 = 1 then ptAdd (ptAdd h h) a else ptAdd h h

/-- A point lies on the curve. -/
def onCurve (x y : Nat) : Bool :=
  decide (x < p256) && decide (y < p256) && (y * y) % p256 = (x * x * x + (p256 - 3) * x + b256) % p256

/-- The signature (r, s) of a digest under a public key. -/
def ecdsaOk (x y digest r s : Nat) : Bool :=
  if r = 0 || n256 ≤ r || s = 0 || n256 ≤ s || !onCurve x y then false
  else
    let w := invMod n256 s
    match ptAdd (ptMul base256 256 (digest % n256 * w % n256)) (ptMul (some (x, y)) 256 (r * w % n256)) with
    | some q => q.1 % n256 = r
    | none => false

/-- The signature of a patch image (R263): r, then s, little-endian. -/
def patchSignatureOk (image sig : List Byte) : Bool :=
  ecdsaOk Config.patchKeyX Config.patchKeyY (sha256 image) (field sig 0 32) (field sig 32 32)

end Sys2Proof.Machine
end

