-- ==== Sys2Proof/Machine/Patch.lean ====
section
/-! DEFINITION. Firmware patches: the patch area, FW_PATCH and the check at the Limral boot (R263 to R266). -/

namespace Sys2Proof.Machine

/-- Start of the patch area (R356). -/
def patchBase : Nat := 0x5A0000

/-- The commit word of the patch area stands (R263). -/
def patchCommitted (s : State) : Bool := leVal (mramRead s (patchBase + 524280) 8) = commitWord

/-- LENGTH in the range of R263. -/
def patchLenOk (n : Nat) : Bool := decide (64 ≤ n) && decide (n ≤ 524160) && n % 4 = 0

/-- A field of the image header. -/
def patchField (s : State) (off : Nat) : Nat := leVal (mramRead s (patchBase + off) 4)

/-- The first check that the image in the area fails: 1 MAGIC, 2 LENGTH, 3 ROM_VERSION, 4 SIGNATURE; 0 none (R264, R265). `len` is the
LENGTH of the load, where there is one. -/
def patchFault (s : State) (len : Option Nat) (sig : List Byte) : Nat :=
  let n := patchField s 4
  if patchField s 0 ≠ 0x5441504C then 1
  else if !patchLenOk n || len.any (· ≠ n) then 2
  else if patchField s 12 ≠ Config.romVersion.toNat then 3
  else if mramBad s patchBase n || !patchSignatureOk (mramRead s patchBase n) sig then 4
  else 0

/-- The check at every Limral boot (R265). -/
def bootPatch (s : State) : State :=
  let rom (s : State) : State := { s with cmd := { s.cmd with patchActive := false, patchVer := 0 } }
  if !patchCommitted s then rom s
  else
    let s := openReads s
    let f := patchFault s none (mramRead s (patchBase + 524160) 64)
    if f = 0 then { s with cmd := { s.cmd with patchActive := true, patchVer := patchField s 8 } }
    else raise (ev 0x0D06 f (patchField s 8) Config.romVersion.toNat 0) (rom { s with cmd := { s.cmd with patchFail := f } })

/-- A load ends; of a COMMIT that runs, whether its signature was written before is a free value (R264, R265). -/
def tearPatch (s : State) : State :=
  match s.cmd.patch with
  | none => s
  | some l =>
    let s := { s with cmd := { s.cmd with patch := none } }
    if l.commits.isEmpty || patchFault s (some l.length) l.sig ≠ 0 then s
    else
      let (v, s) := takeFree s
      if v % 2 = 0 then s else countUnits 1 (mramWrite (patchBase + 524160) l.sig s)

/-- The load in progress ends; COMMITs that run complete with result words that the manual does not state. -/
def endPatch (s : State) : State :=
  match s.cmd.patch with
  | none => s
  | some l => completeEachOpen l.commits 0xF0 stFailed (tearPatch s)

/-- BEGIN: no committed patch remains. -/
def patchBegin (p : List Byte) (s : State) : Rep × State :=
  let n := field p 4 4
  if !patchLenOk n then rep stBadParam s
  else
    let s := mramWrite (patchBase + 524280) (le 8 0) (endPatch s)
    rep stOk { s with cmd := { s.cmd with patch := some { length := n }, patchBytes := 0 } }

/-- DATA: image bytes are written; a failed verify ends the load. -/
def patchData (p : List Byte) (verifyFail : Bool) (s : State) : Rep × State :=
  match s.cmd.patch with
  | none => rep stRefused s
  | some l =>
    let off := field p 4 4
    let data := p.drop 8
    if off ≠ s.cmd.patchBytes || l.length < off + data.length then rep stBadParam s
    else
      let a := patchBase + off
      let units := (a + data.length - 1) / 64 - a / 64 + 1
      if verifyFail then
        rep stFailed (countUnits units (mramWriteBad a data { s with cmd := { s.cmd with patch := none } }))
      else
        let s := countUnits units (mramWrite a data s)
        rep stOk { s with cmd := { s.cmd with patchBytes := off + data.length } }

/-- COMMIT: once LENGTH bytes are written; a further COMMIT during the check joins the first (DESIGN CHOICE, log entry 89). -/
def patchCommit (p : List Byte) (x : Src) (s : State) : Rep × State :=
  match s.cmd.patch with
  | none => rep stRefused s
  | some l =>
    if s.cmd.patchBytes < l.length then rep stRefused s
    else accept (fun h s => { s with cmd := { s.cmd with patch := some { l with
      sig := if l.commits.isEmpty then slice p 8 64 else l.sig, commits := l.commits ++ [(h, x)] } } }) s

/-- FW_PATCH, by its ACTION (R264). -/
def fwPatch (rq : Rq) (verifyFail : Bool) (s : State) : Res :=
  let p := rq.payload
  let act := field p 0 1
  let lenOk (n : Nat) : Bool :=
    if act = 1 then decide (12 ≤ n) && decide (n ≤ 1024) && n % 4 = 0 else if act = 2 then n = 72 else n = 8
  request rq 0xF0 (fun s => s.pwr.mode = .pilot || s.pwr.mode = .snuffed) lenOk false (fun s =>
    if 3 < act then rep stBadParam s
    else if act = 3 then rep stOk (endPatch s)
    else if !s.thm.nvmOpen then tempWindow s
    else if act = 0 then patchBegin p s
    else if act = 1 then patchData p verifyFail s
    else patchCommit p rq.src s) s

/-- FW_PATCH_BEGIN (R264) -/
def execFwPatchBegin (rq : Rq) (s : State) : Res := fwPatch rq false s

/-- FW_PATCH_DATA (R264) -/
def execFwPatchData (rq : Rq) (verifyFail : Bool) (s : State) : Res := fwPatch rq verifyFail s

/-- FW_PATCH_COMMIT (R264) -/
def execFwPatchCommit (rq : Rq) (s : State) : Res := fwPatch rq false s

/-- FW_PATCH_ABORT (R264) -/
def execFwPatchAbort (rq : Rq) (s : State) : Res := fwPatch rq false s

/-- FW_PATCH_COMMIT_DONE (R264): signature, then commit word; or a failure code. -/
def execFwPatchCommitDone (writeFail : Bool) (s : State) : Res :=
  .next (
    match s.cmd.patch with
    | none => s
    | some l =>
      if l.commits.isEmpty || !awake s then s
      else
        let f := patchFault s (some l.length) l.sig
        let done := openReads { s with cmd := { s.cmd with patch := none } }
        let fail (code : Nat) (t : State) : State :=
          completeEach l.commits 0xF0 stFailed code 0 { t with cmd := { t.cmd with patchFail := code } }
        if f ≠ 0 then fail f done
        else if writeFail then fail 5 (countUnits 1 (mramWriteBad (patchBase + 524160) l.sig done))
        else
          let t := mramWrite (patchBase + 524280) (le 8 commitWord) (mramWrite (patchBase + 524160) l.sig done)
          let t := completeEach l.commits 0xF0 stOk (patchField s 8) l.length (countUnits 2 t)
          note (ev 0x0D07 (patchField s 8) l.length 0 0) t)

end Sys2Proof.Machine
end

