-- ==== Sys2Proof/Machine/KindleOps.lean ====
section
/-! DEFINITION. What a reset and the start of a KINDLE leave: the internal reset, the instant P, the re-kindle (R44, R49, R238, R253, R412). -/

namespace Sys2Proof.Machine

/-- MRAM and the scar area: all of the NVM block that a reset keeps (R356). -/
def keepNvm (s : State) : Nvm := { mram := s.nvm.mram, badWords := s.nvm.badWords, scar := s.nvm.scar, scarBad := s.nvm.scarBad }

/-- The internal reset is asserted: every register but the always-on island's returns to its reset value (R49, R412, R415); FLT_SELF
is reset at power-on only (R349). A running store is broken off, and so is a COMMIT. -/
def hardReset (ao : Ao) (flavor : Flavor) (s : State) : State :=
  let s := tearPatch (tearLoad (tearStore s))
  { ao
    pwr := { testEn := s.pwr.testEn, flavor }
    nvm := keepNvm s
    flt := if ao.resetCause = 0 then {} else
      { selfCount := s.flt.selfCount, selfParity := s.flt.selfParity, selfCompare := s.flt.selfCompare, selfWord := s.flt.selfWord }
    pending := s.pending
    free := s.free }

/-- Wake-port address of the sampled address pins (R409). -/
def wakeAddr (as0 as1 : Bool) : Nat := 0x58 + flag as1 1 + flag as0 0

/-- The always-on island after a reset that is no wake: what lasts, with its cause (R412). -/
def aoReset (cause : Nat) (a : Ao) : Ao :=
  { a with
    resetCause := cause, wakeSource := 0, slept := 0, sleepState := 0, timerArmed := false, timerExpired := false
    i2cMatched := false, inWindow := false, needLoadAdd := false }

/-- Instant P: the internal reset is released and KINDLE starts (R44, R51, R414, R420). -/
def startKindle (s : State) : State :=
  let woke := s.ao.resetCause = 2
  let cause := if woke then 1 else 0
  let s := { s with pwr := { s.pwr with
    inReset := false, mode := .kindle, quick := s.pwr.flavor = .quick, kindleStep := 0, entryCause := cause
    entrySeconds := s.ao.seconds } }
  let s := if woke && (s.ao.lossRecords ≠ 0 || s.ao.forced) then raise (ev 0x0E07 s.ao.lossRecords s.ao.lossCountS 0 0) s else s
  let s := noteF 0x0E01 1 (if woke then 0 else 7) cause s
  if woke then note (ev 0x0E06 s.ao.wakeSource s.ao.slept s.ao.dormantS 0) s else s

/-- The device wakes from DORMANT (R408, R411, R412): the time in DORMANT is added to its lifetime count (R388); from S1 quick KINDLE starts at once, from S2 full KINDLE once the supplies are
back. -/
def wake (source : Nat) (s : State) : State :=
  let a := { s.ao with
    resetCause := 2, wakeSource := source, slept := s.ao.sleepState, dormantS := s.ao.seconds - s.ao.sleepStart
    sleepState := 0, timerArmed := false, timerExpired := false, i2cMatched := false, inWindow := false, needLoadAdd := false }
  let fresh (f : Flavor) : State :=
    let t := hardReset a f s
    { t with evr := { t.evr with life := { t.evr.life with modeS := modNth t.evr.life.modeS 0 (fun n => satAdd 32 n a.dormantS) } } }
  if s.ao.sleepState = 1 then startKindle (fresh .quick) else fresh .full

/-! ### Re-kindle -/

/-- Conditions whose detectors a re-kindle puts back to their reset values. -/
def rekindleConds : List Nat := [0x0110, 0x0210, 0x0302, 0x0401, 0x0706, 0x0C04, 0x0C05]

/-- The collector across a re-kindle (R338, R343, R349): it keeps its state; SELF_FAULT clears, and the conditions of blocks that
start afresh are gone. -/
def rekindleFlt (s : State) : Flt :=
  { s.flt with selfFault := false, conds := s.flt.conds.filter (fun c => !rekindleConds.contains c.code && !(c.code = 0x0C01 && s.twn.state ≠ 3)) }

/-- The twin block across a re-kindle (R273, R289): LOST stays LOST; the configuration waits for its load; the records held for the
twin stay. -/
def rekindleTwn (s : State) : Twn :=
  { cfg := s.twn.cfg, stored := s.twn.stored, state := if s.twn.state = 3 then 3 else 0, lostCause := if s.twn.state = 3 then s.twn.lostCause else 0
    txSeq := s.twn.txSeq, rseqNext := s.twn.rseqNext, ackRseq := s.twn.ackRseq, recSeen := s.twn.recSeen
    inFlight := s.twn.inFlight, sendQueue := s.twn.sendQueue, infoAlive := s.twn.infoAlive }

/-- The power block across a re-kindle: mode counts, PWR_MODE_CTL, an exit from thermal shutdown, the supplies, and the registers from
0x0001_0100 stay (R44, R49, R312, R395, R415); a request in progress or pending has lost its handle (R253). -/
def rekindlePwr (p : Pwr) : Pwr :=
  let drop (r : PowerReq) : PowerReq := { r with handle := 0 }
  { mode := p.mode, beamWaitMs := p.beamWaitMs, hostTimeoutMs := p.hostTimeoutMs, pilotEntries := p.pilotEntries
    belayEntries := p.belayEntries, snuffEntries := p.snuffEntries, rekindles := satInc 16 p.rekindles, inReset := false
    testEn := p.testEn, flavor := .rekindle, kindleStep := 1, ldoOk := p.ldoOk, pllOk := p.pllOk, plevel := p.plevel
    plevelTarget := p.plevelTarget, changing := p.changing, changeTo := p.changeTo, changes := p.changes
    active := p.active.map drop, waiting := p.waiting.map drop, exitThermal := p.exitThermal, superseded := p.superseded, chosen := p.chosen, lastForce := p.lastForce
    lastMaxS1 := p.lastMaxS1, estMs := p.estMs, refBlock := p.refBlock, refReason := p.refReason, refusals := p.refusals }

/-- A request of a receive queue is dropped at the start of a re-kindle (R238). -/
def dropQueued (s : State) (w : Waiting) : State := dropRequest w.src 3 s

/-- A reply that waits for handovers is sent before the re-kindle ends them (R238). -/
def sendHeld (s : State) : State :=
  match s.mem.assigning with
  | some (x, b) => sendReply x b (modSrc x (fun q => { q with stored := b }) s)
  | none => s

/-- A COMMIT of FW_PATCH that runs is abandoned: the write window is closed from here to the end of KINDLE, and the load ends with it; a
load without one goes on (R264, R317, R318, R324). -/
def breakPatchCommit (s : State) : State := if s.cmd.patch.any (fun l => !l.commits.isEmpty) then tearPatch s else s

/-- A re-kindle starts (R44, R238, R253): KINDLE from the Limral boot step on. The RAM defect map keeps its entries, its generation and
LIST_FULL, and the wear map its END_BLOCKS (R90, R113, R114; DEDUCED, log entry 70). -/
def rekindle (cause : Nat) (s : State) : State :=
  let s := sendHeld (breakPatchCommit (tearLoad (tearStore s)))
  let old := s.cmd.queue
  let s := { s with
    pwr := rekindlePwr s.pwr
    arr := { vledOver := s.arr.vledOver, vledUnder := s.arr.vledUnder, vledMv := 0, duty := 313, acc := { s.arr.acc with sinkCleared := true }, dis := s.diag.defects.map (·.pix) }
    map := { wear := s.map.wear, wearFrac := s.map.wearFrac, sinceCommitS := s.map.sinceCommitS, endBlocks := s.map.endBlocks }
    diag := { defects := s.diag.defects, storePending := s.diag.storePending, mapGen := s.diag.mapGen, listFull := s.diag.listFull }
    cmp := {}, scl := {}, chk := {}
    lnk := { s.lnk with restart := [], eye := none }
    cmd := { s.cmd with queue := [], cq := [], outstanding := [], nextHandle := 1 }
    twn := rekindleTwn s
    mem := {}
    evr := { s.evr with headDeferred := false }
    thm := { cfg := { s.thm.pendCfg.getD s.thm.cfg with res := 10000 }, stored := s.thm.stored, tripRec := s.thm.tripRec, scarWriting := s.thm.scarWriting
             tripArr := s.thm.tripArr, tripPeri := s.thm.tripPeri, tripF := s.thm.tripF }
    flt := rekindleFlt s
    nvm := keepNvm s }
  old.foldl dropQueued (giveUpSleep (enterMode .kindle cause s))

end Sys2Proof.Machine
end

