-- ==== Sys2Proof/Machine/Faults.lean ====
section
/-! DEFINITION. The commands and events of the fault collector (R335 to R348, R414). -/

namespace Sys2Proof.Machine

/-! ### Clearing (R335 to R338, R346) -/

/-- Unit of a condition, from its parameters: layer, region or none. -/
def condUnit (e : RawEvent) : Nat := if e.code = 0x0210 || e.code = 0x0401 then e.p0 else 0

/-- The level at which a detector raises an event. -/
def trueLevel (e : RawEvent) : Nat :=
  if e.code = 0x0903 then (if e.p1 = 6 then 1 else 3) else if unitLevelCodes.contains e.code then min e.level 4 else evLevel e.code

/-- A detector raises an event, judged against the flags `f`. -/
def detectOver (f : Flt) (e : RawEvent) (s : State) : State :=
  let e := { e with level := trueLevel e }
  if !evIsCondition e.code then raiseOver f 0 e s
  else if condIs e.code (condUnit e) s then s
  else raiseOver f 0 e (addCond (condUnit e) e s)

/-- A detector raises an event. -/
def detect (e : RawEvent) (s : State) : State := detectOver s.flt e s

/-- The events that reach the collector on the clock of a clear or an acknowledgement: after it, judged against the flags `f` as they
stood before that clock (R334, R337). -/
def sameClock (f : Flt) (during : List RawEvent) (s : State) : State :=
  (ranked (fun e => (trueLevel e, e.code)) (during.filter (fun e => knownEvent e.code))).foldl (fun s e => detectOver f e s) s

/-- A clear of the classes of a mask, with the events of its clock: what stays refused, whether a re-kindle follows, and the state
before it. -/
def clearing (mask : Nat) (during : List RawEvent) (s : State) : Nat × Bool × State :=
  let s := sameClock s.flt during (clearClasses mask s)
  (remaining mask s, s.pwr.mode = .snuffed && !anyHold s.flt, s)

/-- FAULT_CLEAR, both actions. -/
def faultClear (rq : Rq) (during : List RawEvent) (s : State) : Res :=
  let mask := field rq.payload 0 4
  let act := field rq.payload 4 1
  request rq 0x51 anyMode (lenIs 8) false (fun s =>
    if bits mask 1 17 = 0 || 1 < act then rep stBadParam s
    else if act = 1 then
      let s := sameClock s.flt during (ackClasses mask s)
      repOk (le 4 0 ++ le 1 0 ++ le 1 (levelMax s.flt) ++ le 2 0) s
    else
      let (rem, rek, s) := clearing mask during s
      let s := noteF 0x1103 (mask - mask % 2 - mask / 2 ^ 18 * 2 ^ 18) rem (if rek then 1 else 0) s
      let body := le 4 rem ++ le 1 (if rek then 1 else 0) ++ le 1 (levelMax s.flt) ++ le 2 0
      ({ status := if rem = 0 then stOk else stRefused, payload := body }, if rek then rekindle 2 s else s)) s

/-- FAULT_CLEAR_CLEAR (R335 to R338, R346) -/
def execFaultClearClear (rq : Rq) (during : List RawEvent) (s : State) : Res := faultClear rq during s

/-- FAULT_CLEAR_ACK (R334, R346) -/
def execFaultClearAck (rq : Rq) (during : List RawEvent) (s : State) : Res := faultClear rq during s

/-! ### FAULT_READ (R345) -/

/-- The 8 bytes of a class. -/
def classBytes (f : Flt) (c : Nat) : List Byte :=
  let k := classOf f c
  le 1 (k.level + flag (classPresent f c) 3 + flag k.hold 4 + flag k.acked 5) ++ le 1 (presentLevel f c) ++
    le 2 k.occurrences ++ le 2 k.collateral ++ le 2 k.escalations

/-- Mask of the classes that meet a test. -/
def classMask (p : Nat → Bool) : Nat := maskOf ((List.range 18).filter (fun c => 1 ≤ c && p c))

/-- The 688 bytes of FAULT_READ. -/
def faultBytes (f : Flt) : List Byte :=
  le 4 (classMask (fun c => (classOf f c).hold)) ++ le 1 (levelMax f) ++ le 1 f.hist.length ++
    le 1 (flag f.selfFault 0 + flag f.first.isSome 1 + flag f.inj.isSome 2 + flag f.escCompat 3) ++ le 1 0 ++
    (List.range 17).flatMap (fun c => classBytes f (c + 1)) ++
    (match f.first with | some r => recBytes r | none => List.replicate 32 0) ++
    f.hist.flatMap recBytes ++ List.replicate (512 - 32 * f.hist.length) 0

/-- FAULT_READ (R345) -/
def execFaultRead (rq : Rq) (s : State) : Res :=
  request rq 0x50 anyMode (lenIs 0) false (fun s => repOk (faultBytes s.flt) s) s

/-! ### Injection (R341, R342) -/

/-- Level of an event for unit 0, the unit an injection acts on. -/
def injectLevel (code : Nat) (s : State) : Nat :=
  match code with
  | 0x0210 => min 4 (layerOf s 0).cfg.faultLevel
  | 0x0401 => (s.chk.sigs.getD 0 {}).cfg.level
  | 0x0402 => (s.chk.gus.getD 0 {}).level
  | 0x0903 => 3
  | _ => evLevel code

/-- Level of a detector's own event, of the unit that it names in parameter 0 (R342). -/
def ownLevel (code p0 : Nat) (s : State) : Nat :=
  match code with
  | 0x0210 => min 4 (layerOf s p0).cfg.faultLevel
  | 0x0401 => (s.chk.sigs.getD p0 {}).cfg.level
  | 0x0402 => (s.chk.gus.getD p0 {}).level
  | _ => injectLevel code s

/-- An event that FAULT_INJECT may raise (R341). -/
def injectable (code : Nat) (s : State) : Bool := knownEvent code && evClass code ≤ 15 && 1 ≤ injectLevel code s

/-- The real condition of a code, if one is present. -/
def realCond (code : Nat) (s : State) : Option Cond := s.flt.conds.find? (fun c => c.code = code && c.unit ≠ injectUnit)

/-- The injection ends. -/
def endInjection (s : State) : State :=
  match s.flt.inj with
  | some i => condOff i.code injectUnit { s with flt := { s.flt with inj := none } }
  | none => s

/-- An injection found real is counted and recorded (R342). -/
def countCoincident (code : Nat) (live : Bool) (s : State) : State :=
  let s := { s with flt := { s.flt with injCoincident := satInc 16 s.flt.injCoincident } }
  noteF 0x1104 code (if live then 1 else 0) 0 (endInjection s)

/-- An injection starts (R342). -/
def startInjection (code : Nat) (live : Bool) (s : State) : State :=
  let e : RawEvent := { code, level := injectLevel code s, p0 := 0, p1 := 0, p2 := 0, p3 := 0 }
  let coll := live && isCollateral e s
  let r := if coll then formRec e flagCollateral s
    else formRec (if live then actual s.flt e else e) flagInjected s
  let s := { s with flt := { s.flt with injCount := satInc 16 s.flt.injCount, inj := some { code, live, mark := r } } }
  match evIsCondition code, realCond code s with
  | true, some c => countCoincident code live (raise { code, level := c.level, p0 := c.p0, p1 := c.p1, p2 := c.p2, p3 := c.p3 } s)
  | cond, _ =>
    if !live then raiseDry e s
    else
      raiseAs true e (if cond then addCond injectUnit e s else s)

/-- FAULT_INJECT, both modes. -/
def faultInject (rq : Rq) (s : State) : Res :=
  let p := rq.payload
  let code := field p 0 2
  let mv := field p 2 1
  let dur := field p 4 2
  let modeOk (s : State) : Bool := s.pwr.mode ≠ .kindle && (mv ≠ 1 || s.pwr.mode = .pilot || s.pwr.mode = .snuffed)
  request rq 0x52 modeOk (lenIs 8) false (fun s =>
    if 1 < mv || !injectable code s || (evIsCondition code && (dur = 0 || 1000 < dur)) then rep stBadParam s
    else if s.flt.inj.isSome then rep stBusy s
    else rep stOk (startInjection code (mv = 1) s)) s

/-- FAULT_INJECT_DRY (R341, R342) -/
def execFaultInjectDry (rq : Rq) (s : State) : Res := faultInject rq s

/-- FAULT_INJECT_LIVE (R341, R342) -/
def execFaultInjectLive (rq : Rq) (s : State) : Res := faultInject rq s

/-- INJECTION_END (R342): the hold of the injection expires. -/
def execInjectionEnd (s : State) : Res := .next (if awake s then endInjection s else s)

/-- A record in the collector, the staging queue and the copies for the twin becomes another. -/
def replaceRec (old new : Rec) (s : State) : State :=
  let f (r : Rec) : Rec := if r = old then new else r
  { s with
    flt := { s.flt with hist := s.flt.hist.map f, first := s.flt.first.map f }
    evr := { s.evr with queue := s.evr.queue.map f }
    twn := { s.twn with sendQueue := s.twn.sendQueue.map (fun t => { t with record := f t.record }) } }

/-- An injected condition has become a real one. -/
def realCondition (e : RawEvent) (s : State) : State :=
  if evIsCondition e.code then addCond (condUnit e) e (condOff e.code injectUnit s) else s

/-- The event of an injection was real on its very clock (R342): its one record is the detector's own, and what a real event does that
the injection did not do is done. A LIVE injection was escalated as the event would have been; the class keeps the higher of the two
levels (DESIGN CHOICE, log entry 108). -/
def coincideAt (i : Inject) (e : RawEvent) (s : State) : State :=
  let own (level fl : Nat) : Rec :=
    { i.mark with level, flags := fl, p0 := e.p0 % 2 ^ 32, p1 := e.p1 % 2 ^ 32, p2 := e.p2 % 2 ^ 32, p3 := e.p3 % 2 ^ 32 }
  if isCollateral e s then
    let s := realCondition e (replaceRec i.mark (own e.level flagCollateral) s)
    if i.live then s
    else
      let s := modClass (evClass e.code) (fun k => { k with collateral := satInc 16 k.collateral }) s
      { s with flt := { s.flt with collateral := satInc 32 s.flt.collateral } }
  else if i.live then
    let level := min 4 (e.level + (i.mark.level - injectLevel i.code s))
    let r := own level 0
    let s := modClass (evClass e.code) (fun k => { k with level := max k.level level }) (replaceRec i.mark r s)
    realCondition e (startReactions { e with level } (realEffects e r s))
  else
    let a := actual s.flt e
    let r := own a.level 0
    realCondition e (latchFlag a r (realEffects e r (countEscalation s.flt e (replaceRec i.mark r s))))

/-- INJECT_COINCIDENT (R342): on the clock of the injection the one record is the detector's own; otherwise the event is raised again.
Either way the event is real, and the injection ends. -/
def execInjectCoincident (atInjection : Bool) (p0 p1 p2 p3 : Nat) (s : State) : Res :=
  .next (
    match s.flt.inj with
    | none => s
    | some i =>
      if !awake s then s
      else
        let e : RawEvent := { code := i.code, level := ownLevel i.code p0 s, p0, p1, p2, p3 }
        countCoincident i.code i.live (if atInjection then coincideAt i { e with level := trueLevel e } s else detect e s))

/-! ### Events (R328, R333, R340) -/

/-- EVENT_RAISE (R328): an event that some chapter defines reaches the collector. -/
def execEventRaise (e : RawEvent) (s : State) : Res :=
  .next (if !knownEvent e.code then s else if awake s then detect e s else lateSinks (trueLevel e) s)

/-- COLLATERAL_WINDOW_CLOSE (R332, R333): the window of ENGINE_RESET closes at signatures final instead. -/
def execCollateralWindowClose (r : Nat) (s : State) : Res := guarded (r < 6) (if awake s && r ≠ 4 then closeWindow r s else s)

/-- WITNESS_DISAGREE (R340): the detector's event, real and with its full reaction, and the event of the disagreement, the higher level
first (R328). -/
def execWitnessDisagree (e : RawEvent) (s : State) : Res :=
  .next (
    if !knownEvent e.code then s
    else if !awake s then lateSinks (trueLevel e) s
    else if 2 ≤ trueLevel e then raiseF 0x1102 e.code 0 0 (detect e s)
    else detect e (raiseF 0x1102 e.code 0 0 s))

/-! ### Collector self-faults (R343, R344) -/

/-- A self-fault: sinks off, SNUFFED, both copies reinitialised to hold only COLLECTOR_SELF. -/
def selfFault (parity : Bool) (word : Nat) (persists : Bool) (flags : Nat) (s : State) : State :=
  let s := { s with flt := { s.flt with
    selfFault := true, selfCount := satInc 8 s.flt.selfCount, selfParity := parity, selfCompare := !parity, selfWord := word % 256 } }
  let s := snuff 13 0x1101 s
  let e := ev 0x1101 (if parity then 2 else 1) word s.flt.selfCount s.ft.frameCount
  let r := formRec e flags s
  let s := record e flags s
  let fresh (k : ClassState) : ClassState := { k with level := 0, hold := false, acked := false }
  let s := { s with flt := { s.flt with
    classes := modNth (s.flt.classes.map fresh) 17 (fun k => { k with level := 4, hold := true, occurrences := satInc 16 k.occurrences })
    first := some r, hist := [r], windows := [] } }
  let c : Cond := { code := 0x1101, unit := 0, level := 4, p0 := e.p0, p1 := e.p1, p2 := e.p2, p3 := e.p3 }
  if persists then { s with flt := { s.flt with conds := s.flt.conds.filter (fun x => x.code ≠ 0x1101) ++ [c] } } else s

/-- COLLECTOR_SELF (R343) -/
def execCollectorSelf (parity : Bool) (word : Nat) (persists : Bool) (s : State) : Res :=
  .next (if awake s then selfFault parity word persists 0 s else lateSinks 4 s)

/-! ### Detectors of this chapter (R347, R348, R414) -/

/-- LINK_ISLAND_ERROR (R332, R348) -/
def execLinkIslandError (unit word : Nat) (s : State) : Res := .next (if awake s then raiseF 0x0111 unit word 0 s else s)

/-- ENGINE_PARITY (R332, R348): without a tile in progress, the tile index is a free value. -/
def execEngineParity (e pass : Nat) (s : State) : Res :=
  guarded (e < 24) (
    if !awake s then s
    else match (s.scl.engines.getD e {}).tile with
      | some t => raiseF 0x0303 e t pass s
      | none => let (t, s) := takeFree s; raiseF 0x0303 e t pass s)

/-- CORE_UV (R347) -/
def execCoreUv (ldo mv : Nat) (s : State) : Res :=
  guarded (ldo < 4) (if awake s then raiseF 0x0801 ldo mv s.pwr.plevel s else lateSinks 4 s)

/-- HV_UV (R347) -/
def execHvUv (mv : Nat) (s : State) : Res := .next (if awake s then raiseF 0x0802 mv 0 0 s else lateSinks 4 s)

/-- PLL_UNLOCK (R414) -/
def execPllUnlock (pll : Nat) (s : State) : Res :=
  guarded (pll < 3) (
    if !s.pwr.pllOk || s.pwr.changing then s
    else if awake s then raiseF 0x0F04 pll s.pwr.plevel 0 s
    else lateSinks 4 s)

/-- XTAL_FAIL (R414) -/
def execXtalFail (khz : Nat) (s : State) : Res := .next (if awake s then raiseF 0x0F05 khz 0 0 s else lateSinks 4 s)

end Sys2Proof.Machine
end

