-- ==== Sys2Proof/Machine/Defects.lean ====
section
/-! DEFINITION. The RAM defect map with its thresholds (R113 to R116), the power-up scan (R110 to R112), and the judgement of a
calibration (R350 to R355). -/

namespace Sys2Proof.Machine

/-! ### The defect map (R113 to R116) -/

/-- A pixel is in the defect map. -/
def isDefect (s : State) (i : Nat) : Bool := s.diag.defects.any (·.pix = i)

/-- An entry takes its place in the map, in ascending index order; a pixel that is there keeps its entry. -/
def insertDefect (d : Defect) : List Defect → List Defect
  | [] => [d]
  | e :: t => if d.pix < e.pix then d :: e :: t else if d.pix = e.pix then e :: t else e :: insertDefect d t

/-- The map has changed: generation, pending store, LIST_FULL (R113, R114). -/
def mapChanged (s : State) : State :=
  let full := decide (2048 < defectCount s)
  let t := { s with diag := { s.diag with mapGen := wrapInc 16 s.diag.mapGen, storePending := true, listFull := full } }
  if full && !s.diag.listFull then raise (ev 0x0506 (defectCount s) 2048 0 0) t else t

/-- A pixel enters the map, and its DIS latch is set (R106, R111, R112, R119). -/
def enterDefect (type source pix : Nat) (s : State) : State :=
  if isDefect s pix then s
  else
    let s := { s with
      diag := { s.diag with
        defects := insertDefect { pix, type, source } s.diag.defects
        releaseDis := s.diag.releaseDis.filter (· ≠ pix), releaseArmed := s.diag.releaseArmed.filter (· ≠ pix) }
      arr := { s.arr with dis := insertNat pix s.arr.dis } }
    mapChanged (noteF 0x0501 (pixWord pix) (type + 16 * source) (defectCount s) s)

/-- A pixel leaves the map; its DIS latch is the caller's. -/
def removeDefect (pix : Nat) (s : State) : State :=
  if isDefect s pix then mapChanged { s with diag := { s.diag with defects := s.diag.defects.filter (·.pix ≠ pix) } } else s

/-- Top-left pixels of the 8 x 8 windows that hold a pixel. -/
def windowsAt (i : Nat) : List Nat :=
  (List.range 8).flatMap (fun y => (List.range 8).filterMap (fun x =>
    let c := pixCol i - x
    let r := pixRow i - y
    if x ≤ pixCol i && y ≤ pixRow i && c ≤ 1432 && r ≤ 712 then some (pixIndex c r) else none))

/-- Defects of a list in the window at a pixel. -/
def inWindow (l : List Nat) (w : Nat) : Nat :=
  (l.filter (inRect { c0 := pixCol w, r0 := pixRow w, c1 := pixCol w + 7, r1 := pixRow w + 7 })).length

/-- Windows that meet the condition of DEFECT_CLUSTER: window, count, safety region (R116). -/
def clusters (s : State) : List (Nat × Nat × Nat) :=
  (bitsOf s.diag.safeEn 8).flatMap (fun n =>
    let l := (s.diag.defects.map (·.pix)).filter (inRect (s.diag.safe.getD n {}))
    if l.length < 4 then []
    else (l.flatMap windowsAt).filterMap (fun w => if 4 ≤ inWindow l w then some (w, inWindow l w, n) else none))

/-- DEFECT_CLUSTER follows its condition; which of several windows its record names is a free value. -/
def evalCluster (s : State) : State :=
  let l := clusters s
  if l.isEmpty then condOff 0x0503 0 s
  else if condIs 0x0503 0 s then s
  else
    let (v, s) := takeFree s
    let w := l.getD (v % l.length) (0, 0, 0)
    condOn 0 (ev 0x0503 (pixWord w.1) w.2.1 w.2.2 s.ft.frameCount) s

/-- The causes of R115 follow the map, the highest level first (R328). -/
def evalDefects (s : State) : State :=
  let d := defectCount s
  let s := evalCluster (condSet (1037 < d) 0 (ev 0x0504 d 1037 0 s.ft.frameCount) s)
  condSet (104 < d) 0 (ev 0x0502 d 104 0 s.ft.frameCount) s

/-! ### The power-up scan (R110 to R112) -/

/-- Classification of a pixel: 0 sound, otherwise the defect type (R111). A pixel that meets more than one row of the table takes the
first: OPEN, then SHORT, then LEAK (DESIGN CHOICE, log entry 82). -/
def scanClass (x : PixScan) : Nat :=
  if x.n1 && x.n2 && x.n3 then 1
  else if x.c1 = 0 && x.c2 = 0 && x.c3 = 0 then 2
  else if x.leak then 3
  else 0

/-- V_on of a pixel: the median of its three conversions (R111). -/
def vonCode (x : PixScan) : Nat := max (min x.c1 x.c2) (min (max x.c1 x.c2) x.c3)

/-- The V_F conversion clipped: NOI in it only (R111). -/
def vfClipped (x : PixScan) : Bool := scanClass x = 0 && x.nvf && !x.n1 && !x.n2 && !x.n3

/-- V_F in half millivolts: by the ramp, or VLED - 0.280 V where it clipped (R110, R111). -/
def vfHalfMv (vled : Nat) (x : PixScan) : Nat := if vfClipped x then 2 * (vled - 280) else 3600 + 25 * (x.vf % 256)

/-- Code of a V_F: the last code that does not lie above it. -/
def vfCode (vled : Nat) (x : PixScan) : Nat := min 255 ((vfHalfMv vled x - 3600) / 25)

/-- A value of every pixel that is not disabled; pixels with the scan's common result count once. -/
def liveValues (f : PixScan → Nat) (m : Sparse PixScan) (dis : List Nat) : List Nat :=
  let listed := m.cells.filter (fun c => c.1 < pixels)
  let rest := dis.filter (fun i => !listed.any (·.1 = i))
  ((listed.filter (fun c => !dis.contains c.1)).map (fun c => f c.2)) ++
    (if listed.length + rest.length < pixels then [f m.dflt] else [])

/-- Lowest of a list; 0 for none. -/
def lowest (l : List Nat) : Nat := match l with | [] => 0 | a :: t => t.foldl min a

/-- Highest of a list; 0 for none. -/
def highest (l : List Nat) : Nat := l.foldl max 0

/-- The scan's results enter the map and the registers; a KINDLE also releases the wicks that it finds sound (R110 to R113). -/
def runScan (kindle : Bool) (m : CalMeas) (s : State) : State :=
  let fails := m.wickFail.foldl (fun l w => insertNat w l) []
  let sound (d : Defect) : Bool := d.type = 5 && !fails.contains (wickOf d.pix)
  let gone := if kindle then (s.diag.defects.filter sound).map (·.pix) else []
  let s := gone.foldl (fun s i => removeDefect i s) s
  let s := { s with arr := { s.arr with dis := s.arr.dis.filter (fun i => !gone.contains i) } }
  let s := (fails.flatMap wickPixels).foldl (fun s i => enterDefect 5 5 i s) s
  let trusted (i : Nat) : Bool := !fails.contains (wickOf i)
  let hits := (sfind pixels (fun x => scanClass x ≠ 0) m.scan).filter trusted
  let s := hits.foldl (fun s i => enterDefect (scanClass (sget m.scan i)) 1 i s) s
  let count (k : Nat) : Nat := (hits.filter (fun i => scanClass (sget m.scan i) = k)).length
  let von := liveValues vonCode m.scan s.arr.dis
  let vf := liveValues (vfCode m.vledMv) m.scan s.arr.dis
  let s := { s with diag := { s.diag with
    scanDone := true, scanOpen := min 65535 (count 1), scanShort := min 65535 (count 2), scanLeak := min 65535 (count 3)
    vfClipped := min 65535 ((sfind pixels vfClipped m.scan).filter trusted).length
    vonMin := lowest von, vonMax := highest von, vfMin := lowest vf, vfMax := highest vf, wickFails := fails.length } }
  let s := if fails.isEmpty || s.diag.wickRecorded then s
    else
      let w := fails.headD 0
      raise (ev 0x0606 fails.length (w / 1440 * 65536 + w % 1440) 0 0) { s with diag := { s.diag with wickRecorded := true } }
  evalDefects s

/-- Duty code after the scan of a KINDLE (R76): no pixel left leaves 313. -/
def scanDuty (m : CalMeas) (s : State) : Nat :=
  match liveValues (vfHalfMv m.vledMv) m.scan s.arr.dis with
  | [] => 313
  | l => (clampI 63 1187 (cdiv ((highest l + 2 * s.arr.targetMv + 200 - 5600) * 1250) 4800)).toNat

/-! ### Judgement of a calibration (R350 to R355) -/

/-- Values are staged beside those that still wait for their frame latch (R67). -/
def stageCal (c : CalSet) (s : State) : State :=
  let old := s.arr.staged.getD {}
  { s with arr := { s.arr with
      staged := some { trim := c.trim.or old.trim, offset := c.offset.or old.offset, pre := c.pre.or old.pre } } }

/-- A collection built from the value of the unlisted indices and of an ascending list of others. -/
def sbuild {α : Type} [DecidableEq α] (d : α) (keys : List Nat) (f : Nat → α) : Sparse α :=
  { dflt := d, cells := (keys.map (fun k => (k, f k))).filter (fun c => c.2 ≠ d) }

/-- Ascending list of the indices of a list. -/
def sortNat (l : List Nat) : List Nat := l.foldl (fun t i => insertNat i t) []

/-- Pre-charge level of a lowest turn-on voltage, given as its code (R62): 12.5 mV and 25 mV steps. -/
def preOf (code : Nat) : Nat := (clampI 0 63 (((code : Int) - 20) / 2)).toNat

/-- Pre-charge level of a wick: its lowest V_on among the pixels that are not disabled; 0 for none (R62). -/
def wickPre (m : CalMeas) (dis : List Nat) (w : Nat) : Nat :=
  match (wickPixels w).filter (fun i => !dis.contains i) with
  | [] => 0
  | l => preOf (lowest (l.map (fun i => vonCode (sget m.scan i))))

/-- The four pixels of a wick are disabled. -/
def wickDead (dis : List Nat) (w : Nat) : Bool := (wickPixels w).all dis.contains

/-- Offset and pre-charge level of a wick are plausible (R353); `stored` are the values they are compared with. -/
def wickOk (stored : Option (Int × Nat)) (ofs : Int) (pre : Nat) (dead : Bool) : Bool :=
  decide (-24 ≤ ofs) && decide (ofs ≤ 24) && (if dead then pre = 0 else decide (4 ≤ pre) && decide (pre ≤ 52)) &&
    match stored with
    | none => true
    | some (o, p) => decide ((ofs - o).natAbs ≤ 6) && decide (((pre : Int) - p).natAbs ≤ 8)

/-- Outcome of the judgement of the wicks. -/
structure WickJudge where
  /-- failing wicks, ascending -/
  bad : List Nat
  /-- offsets of the set, failing wicks replaced (R354) -/
  offset : Sparse Int
  /-- pre-charge levels of the set, failing wicks replaced -/
  pre : Sparse Nat
deriving DecidableEq, Repr

/-- The wicks are judged against a stored set, or none (R353, R354): `measured` are the new sink offsets. -/
def judgeWicks (measured : Sparse Int) (m : CalMeas) (stored : Option (Sparse Int × Sparse Nat)) (dis : List Nat) : WickJudge :=
  let old (w : Nat) : Option (Int × Nat) := stored.map (fun t => (sget t.1 w, sget t.2 w))
  let old0 : Option (Int × Nat) := stored.map (fun t => (t.1.dflt, t.2.dflt))
  let pre0 := preOf (vonCode m.scan.dflt)
  let keys := sortNat ((measured.cells.map (·.1)) ++ (m.scan.cells.map (fun c => wickOf c.1)) ++ dis.map wickOf ++
    (match stored with | some t => t.1.cells.map (·.1) ++ t.2.cells.map (·.1) | none => []))
  let ok := sbuild (wickOk old0 measured.dflt pre0 false) keys
    (fun w => wickOk (old w) (sget measured w) (wickPre m dis w) (wickDead dis w))
  let keep (w : Nat) : Int × Nat := (old w).getD (0, 16)
  let keep0 : Int × Nat := old0.getD (0, 16)
  { bad := sfind wicks (!·) ok
    offset := sbuild (if ok.dflt then measured.dflt else keep0.1) keys (fun w => if sget ok w then sget measured w else (keep w).1)
    pre := sbuild (if ok.dflt then pre0 else keep0.2) keys (fun w => if sget ok w then wickPre m dis w else (keep w).2) }

/-- A number takes its place in an ascending list. -/
def insertInt (a : Int) : List Int → List Int
  | [] => [a]
  | b :: t => if a ≤ b then a :: b :: t else b :: insertInt a t

/-- Median of the 36 readings: the mean of the two in the middle; which way a half is rounded is a free value (R352). -/
def medianOf (l : List Int) (s : State) : Int × State :=
  let t := l.foldl (fun t a => insertInt a t) []
  let sum := t.getD 17 0 + t.getD 18 0
  if sum % 2 = 0 then (sum / 2, s)
  else
    let (v, s) := takeFree s
    (sum / 2 + (v % 2 : Nat), s)

/-- The readings spread over more than 3.0 degC: the measurement is skipped (R352). -/
def sensSkipped (l : List Int) : Bool :=
  let t := l.foldl (fun t a => insertInt a t) []
  decide (24 < t.getD 35 0 - t.getD 0 0)

/-- Sensor offsets after the judgement, and the sensors that failed (R352 to R354); `compare`: the limit against the stored value applies. -/
def judgeSensors (readings : List Int) (compare : Bool) (s : State) : List Int × List Nat × State :=
  let old := s.thm.sensors.map (·.offset)
  if sensSkipped readings then (old, [], s)
  else
    let (med, s) := medianOf readings s
    let new (n : Nat) : Int := old.getD n 0 + med - readings.getD n 0
    let ok (n : Nat) : Bool :=
      decide (-64 ≤ new n) && decide (new n ≤ 64) && (!compare || decide ((new n - old.getD n 0).natAbs ≤ 16))
    ((List.range 36).map (fun n => if ok n then new n else old.getD n 0), (List.range 36).filter (fun n => !ok n), s)

/-- Sensor offsets are taken into use. -/
def setOffsets (l : List Int) (s : State) : State :=
  { s with thm := { s.thm with sensors := (List.range 36).map (fun n => { s.thm.sensors.getD n {} with offset := l.getD n 0 }) } }

/-- The calibration registers after a judgement (R354, R374), with its events. Outcome: 1 accepted, 2 rejected, 3 no stored set. -/
def recordCal (outcome : Nat) (quick : Bool) (bad : List Nat) (skipped : Bool) (sensBad : List Nat) (us : Nat) (s : State) : State :=
  let w := bad.length
  let first := bad.headD 0
  let s := { s with nvm := { s.nvm with
    calResult := outcome, calQuick := quick, sensSkipped := skipped, wicksFailed := w, sensFail := sensBad
    firstFlag := (first % 1440, first / 1440), calUs := min 65535 us } }
  if outcome = 2 then
    let s := raiseF 0x0B01 w sensBad.length 1 s
    { s with pwr := { s.pwr with calRejected := s.pwr.calRejected || s.pwr.mode = .kindle } }
  else if 1296 < w then raiseF 0x0B01 w sensBad.length 0 s
  else if w = 0 && sensBad.isEmpty then s
  else note (ev 0x0B04 w (maskOf (sensBad.filter (· < 32))) (maskOf ((sensBad.filter (32 ≤ ·)).map (· - 32))) 0) s

/-- Outcome of R354 from W. -/
def calOutcome (w : Nat) (stored : Bool) : Nat := if !stored then 3 else if w ≤ 1296 then 1 else 2

/-- The plausibility check and staging of a KINDLE (R354, R355), after its scan. -/
def judgeKindle (m : CalMeas) (us : Nat) (s : State) : State :=
  let quick := s.pwr.flavor = .quick
  let stored := s.nvm.wickSet.map (fun w => (w.offset, w.pre))
  let measured := if quick then (match stored with | some t => t.1 | none => ⟨0, []⟩) else m.sinkOfs
  let j := judgeWicks measured m stored s.arr.dis
  let outcome := calOutcome j.bad.length stored.isSome
  let skipped := sensSkipped m.sens
  let (offs, sensBad, s) := judgeSensors m.sens s.nvm.header.loaded s
  let s := if outcome = 2 then s else setOffsets offs s
  let set : WickSet := if outcome = 2 then s.nvm.wickSet.getD {} else { offset := j.offset, pre := j.pre, flagged := j.bad }
  let s := stageCal { offset := some set.offset, pre := some set.pre } { s with
    nvm := { s.nvm with wickSet := some set, noWickSet := quick && stored.isNone, meas := none } }
  let s := recordCal outcome quick j.bad skipped sensBad us s
  if quick && stored.isNone then raise (ev 0x0B05 0 0 0 0) s else s

end Sys2Proof.Machine
end

