-- ==== Sys2Proof/WellFormed.lean ====
section
/-! DEFINITION. Which operands a command may have: the units it names exist and its measurements have the right shape. -/

namespace Sys2Proof

/-- Pixels of the array (R5). -/
def pixelBound : Nat := 1036800

/-- Comparator flags name pixels of the array. -/
def flagsOk (l : List PixFlags) : Bool := l.all (fun f => decide (f.pix < pixelBound))

/-- A measurement of a calibration: 36 sensors, wicks that exist. -/
def measOk (m : CalMeas) : Bool := decide (m.sens.length = 36) && m.wickFail.all (fun w => decide (w < 259200))

/-- Words of a lane are made of 10-bit code groups (R192). -/
def wordsOk (l : List LaneWord) : Bool :=
  l.all (fun w => decide (w.g0 < 1024) && decide (w.g1 < 1024) && decide (w.g2 < 1024) && decide (w.g3 < 1024))

/-- Columns of such words. -/
def columnsOk (l : List (List LaneWord)) : Bool := l.all wordsOk

/-- The operands of a command name units that the device has. -/
def Instr.wellFormed : Instr → Bool
  | .powerOn _ _ _ b c => b.all (fun w => decide (w < 0x100000)) && c.all (fun w => decide (w < 128))
  | .resetNAssert _ _ => true
  | .supplyDip _ => true
  | .supplyLossInS1 _ => true
  | .testEnAssert => true
  | .resetRelease => true
  | .ldoRegulation => true
  | .pllLock => true
  | .limralReady => true
  | .arrayBiasSettled m => measOk m
  | .bistComplete f => f.all (fun x => decide (x.block < 7))
  | .nvmLoadComplete m => measOk m
  | .calibrationComplete _ => true
  | .kindleWorkComplete _ => true
  | .kindleTimeout => true
  | .logScanComplete => true
  | .composeLatch => true
  | .engineNextTile e _ _ => decide (e < 24)
  | .tileRetired e _ _ => decide (e < 24)
  | .sigReadbackTile t d => decide (t < 450) && d.all (fun c => decide (c.1 < pixelBound) && decide (c.2 < 2 ^ 20))
  | .mapperFlushPoint _ o p => decide (o.length = 4) && p.all (fun x => decide (x.engine < 24))
  | .grefFinal => true
  | .signaturesFinal => true
  | .frameLatch f _ _ _ => flagsOk f
  | .diagVerdictsFinal p => p.all (fun i => decide (i < pixelBound))
  | .slotStart f _ => flagsOk f
  | .scanCycleStart => true
  | .fsyncInEdge _ => true
  | .holdoverEntry => true
  | .hostTimeout => true
  | .beamWaitTimeout => true
  | .blankingEnd => true
  | .plevelChangeStart => true
  | .plevelChangeComplete => true
  | .spiRequestTransaction _ => true
  | .spiReadTransaction _ => true
  | .spiVoidTransaction _ => true
  | .commandPacket _ c => columnsOk c
  | .twinInfoReply c => columnsOk c
  | .replySend _ => true
  | .ping _ => true
  | .getInfo _ => true
  | .getStatus _ => true
  | .readReg _ => true
  | .writeReg _ => true
  | .getCompletions _ => true
  | .lockConfig _ => true
  | .setMode _ => true
  | .setPlevel _ => true
  | .sleepUntil _ _ => true
  | .layerConfig _ => true
  | .layerEnable _ => true
  | .flipGroupConfigure _ => true
  | .flipGroupArm _ => true
  | .fenceSignal _ => true
  | .loadLut _ => true
  | .loadCoeffs _ => true
  | .signatureRegionConfigure _ => true
  | .signatureRegionDisable _ => true
  | .linkTrainRestart _ => true
  | .linkTrainDisable _ => true
  | .linkTrainComplete _ => true
  | .laneBitslip _ => true
  | .eyeScan _ => true
  | .eyeScanComplete _ => true
  | .calibrateFull _ => true
  | .calibrateFullMeasure m _ => measOk m
  | .calibrateSensors _ r => decide (r.length = 36)
  | .calCommit _ => true
  | .nvmRead _ => true
  | .patternWriteBegin _ => true
  | .patternWriteData _ _ => true
  | .patternWriteCommit _ => true
  | .patternWriteCommitDone _ _ => true
  | .patternWriteAbort _ => true
  | .faultRead _ => true
  | .faultClearClear _ _ => true
  | .faultClearAck _ _ => true
  | .faultInjectDry _ => true
  | .faultInjectLive _ => true
  | .injectionEnd => true
  | .injectCoincident _ _ _ _ _ => true
  | .logRead _ => true
  | .histoRead _ => true
  | .diagMapRead _ => true
  | .pixelTestMeasure _ => true
  | .pixelTestRelease _ => true
  | .pixelTestDisable _ => true
  | .twinConfig _ => true
  | .thermConfig _ => true
  | .thermClear _ => true
  | .storeAssign _ => true
  | .storePool _ => true
  | .handoverComplete b => decide (b < 64)
  | .fwPatchBegin _ => true
  | .fwPatchData _ _ => true
  | .fwPatchCommit _ => true
  | .fwPatchCommitDone _ => true
  | .fwPatchAbort _ => true
  | .ftimerCtlWrite _ _ => true
  | .composeLeadWrite _ _ => true
  | .arrayCtlWrite _ _ => true
  | .budgetWrite _ _ => true
  | .hdrmDutyWrite _ _ => true
  | .wickDataWrite _ _ => true
  | .fltLatchedWrite _ _ _ => true
  | .fltAckedWrite _ _ _ => true
  | .selftest _ _ => true
  | .guFeed _ n _ => decide (n < 8)
  | .guRestart _ n _ => decide (n < 8)
  | .guCapture _ n _ => decide (n < 8)
  | .read64 _ => true
  | .write64 _ => true
  | .fadd32 _ => true
  | .fadd64 _ => true
  | .swap32 _ => true
  | .swap64 _ => true
  | .windowOpComplete _ _ => true
  | .bankUseWrite _ b _ => decide (b < 64)
  | .laneTestMode _ l _ => decide (l < 5)
  | .laneMissionMode _ l _ => decide (l < 5)
  | .rawCapture _ l r _ => decide (l < 5) && decide (r < 2 ^ 40)
  | .txPatternWrite _ _ _ => true
  | .hrxEnWrite _ _ => true
  | .layerSrcWrite _ _ => true
  | .losAssert l => decide (l < 5)
  | .losDeassert l _ => decide (l < 5)
  | .backoffExpiry l => decide (l < 5)
  | .anchorReceived l w => decide (l < 5) && decide (w.length = 4) && wordsOk w
  | .climbReceived w _ => decide (w.length = 4) && wordsOk w
  | .cdrLock l => decide (l < 5)
  | .laneAligned l k => decide (l < 5) && decide (k < 40)
  | .alignmentLost l => decide (l < 5)
  | .adaptComplete l e _ => decide (l < 5) && decide (e.taps.length = 5)
  | .attemptTimeout l => decide (l.lane < 5)
  | .bondFormation => true
  | .bondWaitExpiry => true
  | .bondMarker d => d.all (fun m => decide (m.lane < 4) && decide (m.set.length = 4) && wordsOk m.set)
  | .bondTimeout => true
  | .relockEntry l _ _ => decide (l < 5)
  | .relockComplete l _ => decide (l < 5)
  | .relockTimeout l => decide (l < 5)
  | .frameStart _ c => columnsOk c
  | .lineData _ c _ _ => columnsOk c
  | .frameEnd _ c => columnsOk c
  | .backBufferReady n => decide (n < 6)
  | .fenceTimeout n => decide (n < 6)
  | .packetDiscard _ c _ => columnsOk c
  | .packetForward => true
  | .syncWordReceived w _ _ => wordsOk [w]
  | .statusSend => true
  | .climbSend _ => true
  | .heartbeatSend => true
  | .twinAliveToggle => true
  | .twinAliveEdge _ => true
  | .twinAliveInactive => true
  | .heartbeatReceived c _ => columnsOk c
  | .snuffMessageReceived c => columnsOk c
  | .recordReceived c => columnsOk c
  | .recordSend => true
  | .recordRetransmit => true
  | .heartbeatSilence _ => true
  | .twinPinFault => true
  | .joinTimeout => true
  | .storeAccessGrant b _ _ _ => decide (b < 64)
  | .requestEscalation b m _ => decide (b < 64) && decide (m < 28)
  | .scrubRead b _ => decide (b < 64)
  | .patternReload _ => true
  | .thermalSample l => decide (l.length = 36)
  | .nvmWindowOpen => true
  | .derateStep => true
  | .scarRecordWrite => true
  | .scarCopy => true
  | .autoRekindle => true
  | .ntcConversion x => decide (x < 4096)
  | .eventRaise _ => true
  | .collateralWindowClose r => decide (r < 6)
  | .witnessDisagree _ => true
  | .collectorSelf _ _ _ => true
  | .linkIslandError _ _ => true
  | .engineParity e _ => decide (e < 24)
  | .coreUv l _ => decide (l < 4)
  | .hvUv _ => true
  | .pllUnlock p => decide (p < 3)
  | .xtalFail _ => true
  | .nvmStoreStart => true
  | .nvmStoreComplete _ => true
  | .defectListStore => true
  | .wearGainRecompute => true
  | .wearMapStore => true
  | .lifetimeStore => true
  | .lifetimeSample => true
  | .operatingSecondTick => true
  | .mainRingWrite _ => true
  | .cairnWrite _ => true
  | .recordsDropped => true
  | .sleepEntryStep => true
  | .sleepRelight => true
  | .sleepWindowEnd => true
  | .wakePin _ => true
  | .i2cAddressMatch a => decide (a < 128)
  | .i2cRead => true
  | .wakeTimerExpiry => true
  | .sleepNvmTimeout => true
  | .scarWriteComplete => true
  | .lrefClockChange _ => true
  | .twinAckSetsSent => true

end Sys2Proof
end

