-- ==== Sys2Proof/Machine/Calib.lean ====
section
/-! DEFINITION. Stores of the NVM port, PATTERN_WRITE, CALIBRATE, CAL_COMMIT, NVM_READ (R359 to R372). -/

namespace Sys2Proof.Machine

/-! ### Stores (R359 to R363) -/

/-- The history of D gets an entry at a commit at which D differs from the last one (R388). -/
def lifeEntry (s : State) : State :=
  let l := s.evr.life
  let d := defectCount s
  let last := assocGet (0, 0) ((l.defectNext + 255) % 256) (l.defectHist.map (fun h => (h.1, (h.2.1, h.2.2))))
  if !l.defectHist.isEmpty && last.2 = d then s
  else { s with evr := { s.evr with life := { l with
      defectNext := (l.defectNext + 1) % 256
      defectHist := (l.defectNext, (s.ao.seconds, d)) :: l.defectHist.filter (fun h => h.1 ≠ l.defectNext) } } }

/-- The calibration header differs from the stored one (R363). -/
def headerDiffers (s : State) : Bool :=
  match loadSlot s 5 with
  | none => true
  | some k => slotBody s 5 k ≠ headerBody s

/-- A store begins: its target is chosen, its body formed from the values in force, COMMIT of the target set to 0 (R359, R360). -/
def beginStore (r : StoreReq) (s : State) : State :=
  let c := r.content
  let s := if c = 9 then lifeEntry s else s
  let s := if c = 2 && r.auto && headerDiffers s then requestStore 5 [] s else s
  let k := storeTarget s c
  let gen := newGen s c
  let body := r.patch.foldl (fun b x => splice b x.1 x.2) (storeBody s c)
  let run : StoreRun := { content := c, slot := k, gen, body, auto := r.auto, patch := r.patch, who := r.who, mapGen := s.diag.mapGen, sleep := r.sleep }
  clearCommit c k { s with nvm := { s.nvm with run := some run } }

/-- NVM_STORE_START (R318, R362): while the window is closed every store that waits is deferred, which is counted once for each. -/
def execNvmStoreStart (s : State) : Res :=
  .next (
    match s.nvm.queue with
    | [] => s
    | r :: rest =>
      if !awake s || s.nvm.run.isSome || s.nvm.loading then s
      else if !s.thm.nvmOpen then
        countDefers (s.nvm.queue.filter (!·.deferred)).length { s with nvm := { s.nvm with
          queue := s.nvm.queue.map (fun q => { q with deferred := true }) } }
      else beginStore r { s with nvm := { s.nvm with queue := rest } })

/-- What a committed store leaves beside its slot. -/
def storeCommitted (r : StoreRun) (s : State) : State :=
  match r.content with
  | 3 => { s with map := { s.map with sinceCommitS := 0 } }
  | 4 => { s with diag := { s.diag with storePending := s.diag.storePending && r.mapGen ≠ s.diag.mapGen } }
  | 9 => { s with evr := { s.evr with sinceS := 0, commits := satInc 16 s.evr.commits }, pwr := { s.pwr with lifeStored := s.pwr.lifeStored || r.sleep } }
  | _ => s

/-- The running store commits (R359, R360). -/
def commitStore (r : StoreRun) (s : State) : State :=
  let s := writeSlot r.content r.slot r.gen r.body { s with nvm := { s.nvm with run := none } }
  let s := storeCommitted r (setInForce r.content r.slot r.gen s)
  r.who.foldl (resolveStore r.content stOk) s

/-- Header fields that no store that waits brings anew (R365). -/
def notNewer (p : List (Nat × List Byte)) (s : State) : List (Nat × List Byte) :=
  p.filter (fun x => !s.nvm.queue.any (fun q => q.content = 5 && q.patch.any (·.1 = x.1)))

/-- The running store stops at a unit whose verify failed (R359, R362); a configuration that it brought is stored again 1 s later, unless
a newer one waits. -/
def failStore (r : StoreRun) (addr : Nat) (s : State) : State :=
  let again := notNewer r.patch s
  let s := failSlot r.content r.slot r.gen r.body addr { s with nvm := { s.nvm with run := none } }
  let s := writeFailed r.content r.slot addr s
  let s := if r.content = 5 && !again.isEmpty then
      { s with nvm := { s.nvm with retry := s.nvm.retry ++ [{ content := 5, patch := again }] } } else s
  r.who.foldl (resolveStore r.content stFailed) s

/-- NVM_STORE_COMPLETE (R359, R362) -/
def execNvmStoreComplete (failAt : Option Nat) (s : State) : Res :=
  .next (
    match s.nvm.run with
    | none => s
    | some r =>
      if !awake s then s
      else match failAt with
        | none => commitStore r s
        | some a =>
          let base := slotBase r.content r.slot
          if base ≤ a && a < base + 64 + r.body.length then failStore r a s else s)

/-- DEFECT_LIST_STORE (R114): the changed list is stored; a store that waits takes it along. -/
def execDefectListStore (s : State) : Res :=
  .next (if awake s && s.diag.storePending && !s.nvm.queue.any (·.content = 4) then requestStore 4 [] s else s)

/-! ### PATTERN_WRITE (R367) -/

/-- Contents that PATTERN_WRITE can name. -/
def pwTargets : List Nat := [0, 1, 6, 7, 8]

/-- The load in progress ends; COMMITs that run complete with result words that the manual does not state. -/
def endLoad (s : State) : State :=
  match s.nvm.pw with
  | none => s
  | some p => completeEachOpen p.commits 0x43 stFailed (tearLoad s)

/-- BEGIN: the target slot is chosen and its COMMIT set to 0. -/
def pwBegin (p : List Byte) (s : State) : Rep × State :=
  let t := field p 1 1
  if !pwTargets.contains t || field p 4 4 ≠ bodyLen t then rep stBadParam s
  else if t = 1 && slotCommitted s 1 2 then rep stRefused s
  else
    let s := endLoad s
    let k := storeTarget s t
    let load : PwLoad := { target := t, slot := k, gen := newGen s t }
    rep stOk (clearCommit t k { s with nvm := { s.nvm with pw := some load, pwTarget := t, pwBytes := 0 } })

/-- DATA: body bytes are written; a failed verify ends the load. -/
def pwData (p : List Byte) (verifyFail : Bool) (s : State) : Rep × State :=
  match s.nvm.pw with
  | none => rep stRefused s
  | some l =>
    let off := field p 4 4
    let data := p.drop 8
    if off ≠ l.bytes || bodyLen l.target < off + data.length then rep stBadParam s
    else
      let a := slotBase l.target l.slot + 64 + off
      let units := (a + data.length - 1) / 64 - a / 64 + 1
      if verifyFail then
        let s := countUnits units (mramWriteBad a data { s with nvm := { s.nvm with pw := none } })
        rep stFailed (writeFailed l.target l.slot a s)
      else
        let s := countUnits units (mramWrite a data s)
        let n := off + data.length
        rep stOk { s with nvm := { s.nvm with pw := some { l with bytes := n }, pwBytes := n } }

/-- COMMIT: once every byte is written; a further COMMIT during the check joins the first (DESIGN CHOICE, log entry 89). -/
def pwCommit (x : Src) (s : State) : Rep × State :=
  match s.nvm.pw with
  | none => rep stRefused s
  | some l =>
    if l.bytes ≠ bodyLen l.target then rep stRefused s
    else accept (fun h s => { s with nvm := { s.nvm with pw := some { l with commits := l.commits ++ [(h, x)] } } }) s

/-- PATTERN_WRITE, by its ACTION (R367). -/
def patternWrite (rq : Rq) (verifyFail : Bool) (s : State) : Res :=
  let p := rq.payload
  let act := field p 0 1
  let lenOk (n : Nat) : Bool := if act = 1 then decide (16 ≤ n) && decide (n ≤ 1024) && n % 8 = 0 else n = 8
  request rq 0x43 anyMode lenOk false (fun s =>
    if 3 < act then rep stBadParam s
    else if act = 3 then rep stOk (endLoad s)
    else if !s.thm.nvmOpen then tempWindow s
    else if act = 0 then pwBegin p s
    else if act = 1 then pwData p verifyFail s
    else pwCommit rq.src s) s

/-- PATTERN_WRITE_BEGIN (R367) -/
def execPatternWriteBegin (rq : Rq) (s : State) : Res := patternWrite rq false s

/-- PATTERN_WRITE_DATA (R367) -/
def execPatternWriteData (rq : Rq) (verifyFail : Bool) (s : State) : Res := patternWrite rq verifyFail s

/-- PATTERN_WRITE_COMMIT (R367) -/
def execPatternWriteCommit (rq : Rq) (s : State) : Res := patternWrite rq false s

/-- PATTERN_WRITE_ABORT (R367) -/
def execPatternWriteAbort (rq : Rq) (s : State) : Res := patternWrite rq false s

/-- Factory trim that is committed goes into a trim slot as well; a write of it that fails ends the COMMIT (R359, R367). -/
def pwCopyTrim (body : List Byte) (copyFail : Option Nat) (s : State) : Bool × State :=
  let k := storeTarget s 0
  let gen := newGen s 0
  let s := clearCommit 0 k s
  match copyFail with
  | none => (true, setInForce 0 k gen (writeSlot 0 k gen body s))
  | some off =>
    let addr := slotBase 0 k + off % (64 + body.length)
    (false, writeFailed 0 k addr (failSlot 0 k gen body addr s))

/-- What a COMMIT writes once its content check has passed, and whether every write held (R367). -/
def pwFinish (l : PwLoad) (body : List Byte) (writeFail : Bool) (copyFail : Option Nat) (s : State) : Bool × State :=
  let base := slotBase l.target l.slot
  if writeFail then
    (false, writeFailed l.target l.slot base (countUnits 1 (mramWriteBad base (slotHeader l.target l.gen body) s)))
  else
    let s := pwCommitSlot l body s
    if l.target = 1 then pwCopyTrim body copyFail s else (true, s)

/-- PATTERN_WRITE_COMMIT_DONE (R367): OK with GEN and CRC, or FAILED with 1 for the content and 2 for a write. -/
def execPatternWriteCommitDone (writeFail : Bool) (copyFail : Option Nat) (s : State) : Res :=
  .next (
    match s.nvm.pw with
    | none => s
    | some l =>
      if l.commits.isEmpty || !awake s then s
      else
        let body := slotBody s l.target l.slot
        let done := openReads { s with nvm := { s.nvm with pw := none } }
        if !pwContentOk l.target body then
          let (v, t) := takeFree done
          completeEach l.commits 0x43 stFailed 1 v t
        else
          let (ok, t) := pwFinish l body writeFail copyFail done
          if ok then
            let crc := field (slotHeader l.target l.gen body) 12 4
            let id := if l.target = 7 || l.target = 8 then field body 12 4 else 0
            note (ev 0x0A03 l.target l.gen crc id) (completeEach l.commits 0x43 stOk l.gen crc t)
          else
            let (v, t) := takeFree t
            completeEach l.commits 0x43 stFailed 2 v t)

/-! ### CALIBRATE and CAL_COMMIT (R369 to R371) -/

/-- SENSORS: measured and judged, where a stored header was loaded against the offsets in use too; with STORE the header is stored (R352, R353, R369). -/
def calibrateSensors (readings : List Int) (store : Bool) (h : Nat) (x : Src) (s : State) : State :=
  let skipped := sensSkipped readings
  let (offs, bad, s) := judgeSensors readings s.nvm.header.loaded s
  let s := setOffsets offs { s with nvm := { s.nvm with sensSkipped := skipped, sensFail := bad } }
  let s := if store && !skipped then requestStore 5 [] s else s
  completeOpen h 0x40 x (if skipped then stFailed else stOk) s

/-- CALIBRATE, by its ACTION (R369). -/
def calibrate (rq : Rq) (readings : State → List Int) (s : State) : Res :=
  let act := field rq.payload 0 1
  let store := (field rq.payload 1 1).testBit 0
  let modeOk (s : State) : Bool :=
    if act = 0 then s.pwr.mode = .pilot else if act = 1 then litMode s.pwr.mode || s.pwr.mode = .snuffed else true
  request rq 0x40 modeOk (lenIs 4) false (fun s =>
    if 1 < act then rep stBadParam s
    else if s.nvm.calRun.isSome then rep stBusy s
    else if store && !s.thm.nvmOpen then tempWindow s
    else if act = 0 then
      accept (fun h s => { s with nvm := { s.nvm with calRun := some { store, handle := h, src := rq.src } } }) s
    else accept (fun h s => calibrateSensors (readings s) store h rq.src s) s) s

/-- CALIBRATE_FULL (R369, R370): from the next frame latch the array is dark. -/
def execCalibrateFull (rq : Rq) (s : State) : Res := calibrate rq (fun s => s.thm.sensors.map (·.temp)) s

/-- CALIBRATE_SENSORS (R369) -/
def execCalibrateSensors (rq : Rq) (readings : List Int) (s : State) : Res :=
  if readings.length = 36 then calibrate rq (fun _ => readings) s else .fault .noSuchUnit

/-- What a judged CALIBRATE FULL stages: the wick values that are accepted, or those in use (R370). -/
def stagedSet (ok : Bool) (j : WickJudge) (s : State) : CalSet :=
  if ok then { offset := some j.offset, pre := some j.pre } else { offset := some s.arr.sinkOfs, pre := some s.arr.preLevel }

/-- The measurement of a CALIBRATE FULL is judged against the values in force and staged (R370), unless an event that the measurement
raises has ended the calibration. -/
def judgeFull (r : CalRun) (m : CalMeas) (us : Nat) (s : State) : State :=
  let s := runScan false m s
  let j := judgeWicks m.sinkOfs m (some (s.arr.sinkOfs, s.arr.preLevel)) s.arr.dis
  let outcome := calOutcome j.bad.length true
  let skipped := sensSkipped m.sens
  let (offs, sensBad, s) := judgeSensors m.sens true s
  if s.nvm.calRun.isNone then s
  else
    let ok := outcome = 1
    let set := stagedSet ok j s
    let r := { r with
      stage := 2, w := j.bad.length, flags := flag (!ok) 0 + flag skipped 1, bad := if ok then 0 else stFailed, flagged := j.bad
      sens := if ok then offs else s.thm.sensors.map (·.offset) }
    recordCal outcome false j.bad skipped sensBad us (stageCal set { s with nvm := { s.nvm with calRun := some r } })

/-- CALIBRATE_FULL_MEASURE (R370): 131 us after the latch that blanked the array, and for 11.8 ms; an entry into BEAM that an earlier
SET_MODE brings in between does not end it. -/
def execCalibrateFullMeasure (m : CalMeas) (us : Nat) (s : State) : Res :=
  guarded (measOk m) (
    match s.nvm.calRun with
    | some r => if awake s && r.full && r.stage = 1 && litMode s.pwr.mode then judgeFull r m us s else s
    | none => s)

/-- At the latch that takes the staged values a CALIBRATE FULL ends, or its stores begin (R370). -/
def endFull (s : State) : State :=
  match s.nvm.calRun with
  | some r =>
    if !(r.full && r.stage = 2) then s
    else
      let set : WickSet := { offset := s.arr.sinkOfs, pre := s.arr.preLevel, flagged := r.flagged }
      let s := setOffsets r.sens { s with
        pwr := { s.pwr with dark := staysDark s.pwr }
        nvm := { s.nvm with wickSet := if r.bad = 0 then some set else s.nvm.wickSet, calRun := none } }
      if r.store && r.bad = 0 then
        let s := requireStores 3 r.handle { s with nvm := { s.nvm with calRun := some { r with stage := 3, todo := 3 } } }
        if s.thm.nvmOpen then s else resolveClosed s
      else finishCal r s
  | none => s

/-- CAL_COMMIT (R371) -/
def execCalCommit (rq : Rq) (s : State) : Res :=
  let mask := field rq.payload 0 1 % 16
  request rq 0x41 anyMode (lenIs 4) false (fun s =>
    if mask = 0 then rep stBadParam s
    else if !s.thm.nvmOpen then tempWindow s
    else accept (fun h s =>
      let run : CalRun := { full := false, stage := 3, handle := h, src := rq.src, todo := mask }
      requireStores mask h { s with nvm := { s.nvm with commits := s.nvm.commits ++ [run] } }) s) s

/-! ### NVM_READ (R372) -/

/-- NVM_READ (R372): a word with an uncorrectable error ends it with FAILED and its address. -/
def execNvmRead (rq : Rq) (s : State) : Res :=
  let space := field rq.payload 0 1
  let count := field rq.payload 2 2
  let addr := field rq.payload 4 4
  let size := if space = 0 then 0x800000 else 1024
  request rq 0x42 anyMode (lenIs 8) false (fun s =>
    if 1 < space || count = 0 || 1016 < count || size < addr + count then rep stBadParam s
    else
      let bad := if space = 1 then scarBadIn s addr count
        else s.nvm.badWords.filter (fun w => decide (addr < 8 * w + 8) && decide (8 * w < addr + count))
      match bad with
      | w :: l => ({ status := stFailed, payload := le 4 (8 * l.foldl min w) }, openReads s)
      | [] =>
        let b := if space = 1 then memRead s.nvm.scar addr count else mramRead s addr count
        repOk b (guFeedSource 49 b s)) s

end Sys2Proof.Machine
end

