-- ==== Sys2Proof/Machine/Mapper.lean ====
section
/-! DEFINITION. The drive mapper from code to drive word, gathering, predicted current, wear gains and charge (R56 to R61, R70, R81 to R101). -/

namespace Sys2Proof.Machine

/-! ### Drive words (R56 to R61, R99 to R101) -/

/-- WIDTH of a drive word. -/
def wWidth (w : Nat) : Nat := bits w 0 12

/-- SPAN of a drive word. -/
def wSpan (w : Nat) : Nat := bits w 12 2

/-- GATHER + 1 of a drive word. -/
def wGather (w : Nat) : Nat := bits w 14 5 + 1

/-- SINGLE of a drive word. -/
def wSingle (w : Nat) : Bool := w.testBit 19

/-- A drive word of a width, span and gathering factor (R56). -/
def driveWord (width span k : Nat) : Nat := width + span * 2 ^ 12 + (k - 1) * 2 ^ 14

/-- The vigil-probe word: WIDTH 16, SPAN 0, SINGLE 1 (R108). -/
def probeWord : Nat := 16 + 2 ^ 19

/-- Full-scale current of a span in uA (R57). -/
def fullScale : Nat → Nat
  | 0 => 5 | 1 => 20 | 2 => 80 | _ => 160

/-- Minimum on-time T of a span in PWM clocks (R99). -/
def minOn (span : Nat) : Nat := if span = 0 then 16 else 8

/-- The gathering factor k (R101). -/
def gatherFactor (span w n : Nat) : Nat := if minOn span ≤ w then 1 else if w = 0 then 1 else min n (cdiv (minOn span) w)

/-- Pulse width of a drive word in a scan cycle of a frame of N cycles; 0 for no pulse (R60, R61). -/
def pulseIn (word n j : Nat) : Nat :=
  let w := wWidth word
  if wSingle word then (if j = 0 then w else 0)
  else
    let k := min (wGather word) n
    if k ≤ 1 then w
    else
      let m := n / k
      if j = n - 1 then w * (n - (m - 1) * k)
      else if (j + 1) % k = 0 && (j + 1) / k < m then w * k
      else 0

/-- The unbroken part of a pulse of a column that is judged: for a wrapped pulse its first piece (R64, R65, R100). -/
def judgedPart (col : Nat) (stagger : Bool) (w : Nat) : Nat :=
  let o := if stagger then 256 * (col % 16) else 0
  if o + w ≤ 4096 then w else 4096 - o

/-! ### The mapper (R83 to R94) -/

/-- Edge neighbours of a pixel inside the array (R84). -/
def edgeNeighbours (p : Nat) : List Nat :=
  (if 1 ≤ pixCol p then [p - 1] else []) ++ (if pixCol p < 1439 then [p + 1] else []) ++
    (if 1 ≤ pixRow p then [p - 1440] else []) ++ (if pixRow p < 719 then [p + 1440] else [])

/-- The lift a pixel receives from its disabled neighbours (R84). -/
def liftOf (y : Nat → Nat) (defect : Nat → Bool) (p : Nat) : Nat :=
  min ((edgeNeighbours p).foldl (fun a d => if defect d then a + y d / 4 else a) 0) (y p / 4)

/-- Charge target before its clamp, rounded half up (R91). -/
def quantaOf (yl gain gw : Nat) : Nat := rdiv (yl * gain * gw * 131040) (32768 * 32768 * 65535)

/-- Span and width of a charge target (R92). -/
def spanWidth (q : Nat) : Nat × Nat :=
  if q ≤ 4095 then (0, q)
  else if q ≤ 16380 then (1, rdiv q 4)
  else if q ≤ 65520 then (2, rdiv q 16)
  else (3, rdiv q 32)

/-- What the mapper makes of one pixel. -/
structure Mapped where
  /-- drive word -/
  word : Nat := 0
  /-- the charge target was clamped (R91) -/
  clamped : Bool := false
  /-- WIDTH was raised from 1 to 2 (R93) -/
  floored : Bool := false
  /-- it received a non-zero lift (R84) -/
  lifted : Bool := false
deriving DecidableEq, Repr

/-- One pixel through the mapper in the order of R82; `n` is the repeat count. -/
def mapPixel (y : Nat → Nat) (defect : Nat → Bool) (liftEn : Bool) (gain gw n p : Nat) : Mapped :=
  if defect p then {}
  else
    let lift := if liftEn then liftOf y defect p else 0
    let q := quantaOf (y p + lift) gain gw
    let (sp, w) := spanWidth (min q 131040)
    let raise := sp = 0 && w = 1 && n = 12
    let w := if raise then 2 else w
    { word := driveWord w sp (gatherFactor sp w n), clamped := decide (131040 < q), floored := raise, lifted := lift ≠ 0 }

/-- Block of a pixel, 360 y + x (R87). -/
def blockOf (p : Nat) : Nat := 360 * (pixRow p / 4) + pixCol p / 4

/-- A tile has a disabled pixel directly outside one of its edges (R85). -/
def haloTile (defects : List Nat) (t : Nat) : Bool :=
  defects.any (fun d => tileOf d ≠ t && (edgeNeighbours d).any (fun p => tileOf p = t))

/-! ### Predicted current (R57, R70) -/

/-- A pixel's term in nA, rounded up (R70). -/
def termNa (word trim : Nat) : Nat := cdiv (fullScale (wSpan word) * 1000 * (896 + trim) * wWidth word) (1152 * 4160)

/-- Words of a plane with their pixels, zeros left out. -/
def litWords (plane : List (Nat × List Nat)) : List (Nat × Nat) :=
  plane.flatMap (fun t => (t.2.zipIdx.filter (fun c => c.1 ≠ 0)).map (fun c => (tilePixel t.1 c.2, c.1)))

/-- A term joins the sum of its phase (R70). -/
def addTerm (a : Nat × Nat × Nat × Nat) (phase v : Nat) : Nat × Nat × Nat × Nat :=
  match phase with
  | 0 => (a.1 + v, a.2.1, a.2.2.1, a.2.2.2)
  | 1 => (a.1, a.2.1 + v, a.2.2.1, a.2.2.2)
  | 2 => (a.1, a.2.1, a.2.2.1 + v, a.2.2.2)
  | _ => (a.1, a.2.1, a.2.2.1, a.2.2.2 + v)

/-- The governor's sums in nA take the words of a tile as they are mapped; a pixel with DIS = 1 contributes 0 (R70). -/
def addTile (t : Nat) (words : List Nat) (trim : Sparse Nat) (dis : List Nat) (a : Nat × Nat × Nat × Nat) : Nat × Nat × Nat × Nat :=
  ((litWords [(t, words)]).filter (fun c => !dis.contains c.1)).foldl (fun a c => addTerm a (phaseOf c.1) (termNa c.2 (sget trim c.1))) a

/-- GREF for predicted sums and an effective budget of `budget` x `f` / 16 mA: sums are in nA (R71). -/
def grefOf (p : Nat) (budget f : Nat) : Nat :=
  let b := budget * f * 1000000
  if 16 * p ≤ b then 256 else max 1 (256 * b / (16 * p))

/-! ### Wear (R87 to R90) -/

/-- Clocks for which a word conducts in a frame of N cycles (R87). A pixel under PIXEL_TEST, whose pulse of scan cycle 0 is replaced by
conversions, counts as any other (DESIGN CHOICE, log entry 78). -/
def conductClocks (word n : Nat) : Nat := if wSingle word then wWidth word else n * wWidth word

/-- Charge of a pixel in a frame, in 1 / (1152 x 256 x 319,488,000) of 10 uC (R57, R87). -/
def chargeRaw (word trim gref n : Nat) : Nat := fullScale (wSpan word) * (896 + trim) * gref * conductClocks word n

/-- The unit of `chargeRaw` in one unit of the accumulator: I in uA times clocks over f_PWM, in 10 uC. -/
def chargeUnit : Nat := 1152 * 256 * 319488000

/-- Raw charge of each block in a frame, ascending by block. A pixel whose DIS latch stands at the boundary contributes 0 for the whole
period, also where it was set within it (DESIGN CHOICE, log entry 79). -/
def blockCharge (s : State) : List (Nat × Nat) :=
  ((litWords s.arr.active).filter (fun c => !s.arr.dis.contains c.1)).foldl (fun l c =>
    let b := blockOf c.1
    assocSet 0 b (assocGet 0 b l + chargeRaw c.2 (sget s.arr.trim c.1) s.arr.gref (repeatOf s.ft.rateInForce)) l) []

/-- A block takes charge: 24-bit fraction, rounded down; C saturates (R87). -/
def addCharge (s : State) (c : Nat × Nat) : State :=
  let t := sget s.map.wearFrac c.1 + c.2 * 2 ^ 24 / chargeUnit
  let v := sget s.map.wear c.1 + t / 2 ^ 24
  { s with map := { s.map with
      wear := sset s.map.wear c.1 (min v 0xFFFFFFFF), wearFrac := sset s.map.wearFrac c.1 (t % 2 ^ 24) } }

/-- The charge of the frame period just ended (R87). -/
def accumulateWear (s : State) : State := (blockCharge s).foldl addCharge s

/-- Block gain G_W of an accumulator (R89). -/
def blockGain (d : Option Droop) (c : Nat) : Nat :=
  match d with
  | none => 0x8000
  | some d =>
    let i := min (c / d.step) 64
    let g (i : Nat) := d.gains.getD i 0
    if i = 64 then g 64 else g i + (g (i + 1) - g i) * (c - i * d.step) / d.step

/-- Gains of all blocks into the back copy, and END_BLOCKS; WEAR_END when that goes from 0 to another number (R89, R96). -/
def recomputeGains (s : State) : State :=
  let ends := match s.map.droop with
    | none => 0
    | some d => scount 64800 (fun c => decide (64 * d.step ≤ c)) s.map.wear
  let was := s.map.endBlocks
  let s := { s with map := { s.map with gainBack := some (smap (blockGain s.map.droop) s.map.wear), endBlocks := ends } }
  if was = 0 && ends ≠ 0 then
    raise (ev 0x0605 ends (smax 64800 s.map.wear) (match s.map.droop with | some d => d.step | none => 0) 0) s
  else s

/-- Lit time: BEAM, PILOT or BELAY with the array not blanked (R90). -/
def litTime (s : State) : Bool := awake s && litMode s.pwr.mode && !s.pwr.dark

/-- WEAR_GAIN_RECOMPUTE (R89, R90): once per second of lit time. -/
def execWearGainRecompute (s : State) : Res :=
  .next (if !litTime s then s
    else recomputeGains { s with map := { s.map with sinceCommitS := satInc 16 s.map.sinceCommitS } })

/-- WEAR_MAP_STORE (R90): after 600 s of lit time since the last stored map. -/
def execWearMapStore (s : State) : Res :=
  .next (if awake s && decide (600 ≤ s.map.sinceCommitS) && !(s.nvm.queue.any (·.content = 3)) && !(s.nvm.run.any (·.content = 3)) then
    requestStore 3 [] s else s)

end Sys2Proof.Machine
end

