-- ==== Sys2Proof/Machine/Diagnosis.lean ====
section
/-! DEFINITION. Pixel diagnosis in operation: the flags of a slot, the verdicts of a frame, DIAG_MAP_READ and PIXEL_TEST
(R59, R98 to R109, R117 to R121). -/

namespace Sys2Proof.Machine

/-! ### Slots (R59 to R65, R99, R100) -/

/-- A pulse of some width of a lit pixel is judged (R65, R99, R100). -/
def pulseJudged (stagger : Bool) (p word width : Nat) : Bool := decide (minOn (wSpan word) ≤ judgedPart (pixCol p) stagger width)

/-- The comparator flags reported for a pixel; none for a sound one. -/
def flagsOf (flags : List PixFlags) (p : Nat) : PixFlags :=
  (flags.find? (fun f => f.pix = p)).getD { pix := p, noi := false, hvd := false, hdl := false }

/-- Width of a pixel's pulse in a slot: none in another phase, none where DIS or sink-enable stops it, none where a test takes its
place (R58, R60, R69, R120). -/
def slotPulse (s : State) (q : SlotPos) (k : PixAcc) : Nat :=
  if phaseOf k.pix ≠ q.phase || !s.arr.sinkEn || s.arr.dis.contains k.pix then 0
  else if q.cycle = 0 && s.diag.test.any (fun t => t.testing && t.pix = k.pix) then 0
  else pulseIn k.word (repeatOf s.ft.rateInForce) q.cycle

/-- One lit pixel after a slot: judged pulses and their flags (R103). -/
def judgePixel (s : State) (q : SlotPos) (flags : List PixFlags) (k : PixAcc) : PixAcc :=
  if !pulseJudged s.arr.staggerEn k.pix k.word (slotPulse s q k) then k
  else
    let f := flagsOf flags k.pix
    { k with judged := k.judged + 1, opens := if f.noi then k.opens + 1 else k.opens, shorts := if f.hvd then k.shorts + 1 else k.shorts }

/-- Code of a pixel's slot flags: bit 0 NOI, 1 HVD, 2 HDL, which trips only in a pulse of at least 32 clocks (R75). -/
def flagCode (f : PixFlags) (pulse : Nat) : Nat := flag f.noi 0 + flag f.hvd 1 + flag (f.hdl && decide (32 ≤ pulse)) 2

/-- Width of the pulse that a pixel carries in a slot, 0 for a pixel that is not lit. -/
def pulseOf (s : State) (q : SlotPos) (lit : List PixAcc) (p : Nat) : Nat :=
  match lit.find? (fun k => k.pix = p) with
  | some k => slotPulse s q k
  | none => 0

/-- The flags of the slot that ends are collected (R59, R75, R80). -/
def collectSlot (flags : List PixFlags) (s : State) : State :=
  match s.arr.slot with
  | none => s
  | some q =>
    let acc := s.arr.acc
    let pulsed := flags.filter (fun f => pulseOf s q acc.lit f.pix ≠ 0)
    let low := (pulsed.filter (fun f => f.hdl && decide (32 ≤ pulseOf s q acc.lit f.pix))).map (·.pix)
    let now := pulsed.foldl (fun m f => sset m f.pix (flagCode f (pulseOf s q acc.lit f.pix)))
      { s.arr.flagsNow with cells := s.arr.flagsNow.cells.filter (fun c => phaseOf c.1 ≠ q.phase) }
    { s with arr := { s.arr with
      flagsNow := now, slot := none
      acc := { acc with lit := acc.lit.map (judgePixel s q flags), low := low.foldl (fun l i => insertNat i l) acc.low } } }

/-- The place of the next slot of a frame of N scan cycles; `none` after the last (R59). -/
def nextSlot (n : Nat) (q : SlotPos) : Option SlotPos :=
  if q.phase < 3 then some { q with phase := q.phase + 1 }
  else if q.cycle + 1 < n then some { phase := 0, cycle := q.cycle + 1 }
  else none

/-- The conversions of a running PIXEL_TEST: they stand in its pixel's slot of scan cycle 0 (R120). -/
def takeTest (q : SlotPos) (test : Option PixScan) (s : State) : State :=
  match s.diag.test, test with
  | some t, some x =>
    if t.testing && q.cycle = 0 && phaseOf t.pix = q.phase && t.result.isNone && s.arr.sinkEn then
      { s with diag := { s.diag with test := some { t with result := some x } } }
    else s
  | _, _ => s

/-- SLOT_START (R59): the flags of the slot that ends are collected, and the next one begins; slot A of cycle 0 begins with the frame
latch. -/
def execSlotStart (flags : List PixFlags) (test : Option PixScan) (s : State) : Res :=
  guarded (flagsOk flags) (
    if !awake s || !s.ft.running then s
    else match s.arr.slot with
      | none => s
      | some q =>
        match nextSlot (repeatOf s.ft.rateInForce) q with
        | none => s
        | some next =>
          let s := takeTest q test (collectSlot flags s)
          { s with arr := { s.arr with slot := some next } })

/-! ### Verdicts (R103 to R107) -/

/-- Why a frame is void: 0 not, 1 headroom, 2 sink-enable, the first in the order of R104 where both hold. DESIGN CHOICE -/
def voidCause (a : FrameAcc) : Nat := if 10368 < a.low.length then 1 else if a.sinkCleared then 2 else 0

/-- A pixel's verdict in a frame that is not void (R103). -/
inductive Verdict where
  | unverifiable | short | open_ | pass
  /-- PASS, FAIL_OPEN or FAIL_SHORT by the conversions of a PIXEL_TEST alone, which change neither F nor U (R120) -/
  | tested
deriving DecidableEq, Repr

/-- The verdict from J, O and H; `tested`: the pixel was measured by a PIXEL_TEST in the frame (R103, R120). -/
def verdictOf (tested : Bool) (k : PixAcc) : Verdict :=
  if k.judged = 0 then (if tested then .tested else .unverifiable)
  else if k.judged ≤ 2 * k.shorts then .short
  else if k.judged ≤ 2 * k.opens then .open_
  else .pass

/-- A failing verdict: the third in a row declares the pixel (R106). -/
def failPixel (p type : Nat) (s : State) : State :=
  let f := sget s.diag.fails p
  let s := { s with diag := { s.diag with fails := sset s.diag.fails p (if f = 2 then 0 else f + 1), unver := sset s.diag.unver p 0 } }
  if f = 2 then enterDefect type (if s.diag.probedPrev.contains p then 3 else 2) p s else s

/-- A PIXEL_TEST that ran in the frame that ended has measured a pixel (R120). -/
def testedIn (s : State) (p : Nat) : Bool :=
  s.diag.test.any (fun t => t.testing && t.frame ≠ s.ft.frameCount && t.result.isSome && t.pix = p)

/-- F and U of one lit pixel (R106, R107). -/
def judgeCounters (s : State) (k : PixAcc) : State :=
  let p := k.pix
  match verdictOf (testedIn s p) k with
  | .tested => s
  | .unverifiable => { s with diag := { s.diag with unver := sset s.diag.unver p (min 64 (sget s.diag.unver p + 1)) } }
  | .pass => { s with diag := { s.diag with fails := sset s.diag.fails p 0, unver := sset s.diag.unver p 0 } }
  | .short => failPixel p 2 s
  | .open_ => failPixel p 1 s

/-- A parity error in a pixel's state: F and U are 0, the verdict is discarded (DIAG_STATE_PARITY). -/
def parityReset (s : State) (p : Nat) : State :=
  let s := { s with diag := { s.diag with fails := sset s.diag.fails p 0, unver := sset s.diag.unver p 0 } }
  raiseF 0x0507 (pixWord p) 0 0 s

/-- Coverage of the frame (R122); `lit` leaves discarded verdicts in the count of lit pixels. A pixel that is not lit counts nowhere, also
where a PIXEL_TEST measured it (DESIGN CHOICE, log entry 115). -/
def coverage (void : Bool) (lit : Nat) (l : List PixAcc) (s : State) : State :=
  let un := if void then [] else (l.filter (fun k => verdictOf (testedIn s k.pix) k = .unverifiable)).map (·.pix)
  { s with diag := { s.diag with
      bitmap := un, covLit := lit, covVerified := if void then 0 else l.length - un.length, covUnver := un.length
      covDpr := (un.filter (fun p => s.diag.dprPrev.any (fun r => inRect r p))).length } }

/-- DIAG_COV_STALE: pixels with U = 64, as the evaluation of a frame leaves them (R122). -/
def showStale (s : State) : State := { s with diag := { s.diag with covStale := scount pixels (fun u => u = 64) s.diag.unver } }

/-- A void frame (R104). -/
def voidFrame (cause : Nat) (s : State) : State :=
  let s := { s with diag := { s.diag with voidFrames := satInc 16 s.diag.voidFrames, voidCause := cause } }
  noteF 0x0505 cause s.arr.accPrev.low.length s.diag.voidFrames s

/-- Verdict of a PIXEL_TEST: 0 PASS, 1 OPEN, 2 SHORT (R111, R120). -/
def testVerdict (x : PixScan) : Nat :=
  if x.n1 && x.n2 && x.n3 then 1 else if x.c1 = 0 && x.c2 = 0 && x.c3 = 0 then 2 else 0

/-- A PIXEL_TEST completes at its frame's verdicts, which follow the next boundary (R120). Where the frame found the sinks disabled it is
FAILED, with a free value as result word 0 (DESIGN CHOICE, log entry 115). -/
def finishTest (void : Bool) (s : State) : State :=
  match s.diag.test with
  | none => s
  | some t =>
    if !t.testing || t.frame = s.ft.frameCount then s
    else
      let s := { s with diag := { s.diag with test := none } }
      match t.result, void with
      | some x, false =>
        let v := testVerdict x
        let rel := t.release && v = 0 && isDefect s t.pix
        let s := if rel then
            let s := removeDefect t.pix s
            evalDefects { s with diag := { s.diag with releaseDis := insertNat t.pix s.diag.releaseDis } }
          else s
        complete t.handle 0x71 t.src stOk (vonCode x + vfCode s.arr.vledMv x * 2 ^ 8 + v * 2 ^ 16 + flag rel 20) t.frame s
      | _, _ =>
        let (a, s) := takeFree s
        complete t.handle 0x71 t.src stFailed a t.frame s

/-- Whether the frame that ended has verdicts: a frame in a lit mode that is not blanked. A frame of a dark array (KINDLE, SNUFFED,
blanked) is not evaluated: it is not void, whatever sink-enable does, and the coverage registers keep the last evaluated frame (DESIGN
CHOICE, log entry 81). -/
def frameJudged (s : State) : Bool := !s.arr.accPrev.lit.isEmpty || s.arr.accPrev.counted

/-- DIAG_VERDICTS_FINAL (R105): the verdicts of the frame that ended at the last boundary, once. -/
def execDiagVerdictsFinal (parity : List Nat) (s : State) : Res :=
  guarded (parity.all (fun i => decide (i < pixelBound))) (
    if !awake s || !s.ft.running then s
    else
      let a := s.arr.accPrev
      let cause := if frameJudged s then voidCause a else 0
      let l := a.lit.filter (fun k => !parity.contains k.pix)
      let s := parity.foldl parityReset s
      let s :=
        if !frameJudged s then s
        else if cause ≠ 0 then showStale (coverage true a.lit.length [] (voidFrame cause s))
        else showStale (l.foldl judgeCounters (coverage false a.lit.length l s))
      let s := evalDefects { s with arr := { s.arr with accPrev := {} }, diag := { s.diag with safeDirty := false, probedPrev := [] } }
      finishTest (cause ≠ 0) s)

/-! ### DIAG_MAP_READ and PIXEL_TEST (R117 to R120) -/

/-- A byte of the unverified bitmap (R117). -/
def bitmapByte (l : List Nat) (k : Nat) : Byte := BitVec.ofNat 8 (maskOf ((l.filter (fun i => i / 8 = k)).map (· % 8)))

/-- DIAG_MAP_READ (R117) -/
def execDiagMapRead (rq : Rq) (s : State) : Res :=
  let p := rq.payload
  let map := field p 0 1
  let count := field p 2 2
  let start := field p 4 4
  request rq 0x70 anyMode (lenIs 8) false (fun s =>
    if 1 < map || count = 0 || (if map = 0 then 254 else 1016) < count then rep stBadParam s
    else
      let total := if map = 0 then defectCount s else 129600
      let n := min count (total - start)
      let data := if map = 0 then ((s.diag.defects.drop start).take n).flatMap (fun d => le 4 (defectWord d))
        else (List.range n).map (fun i => bitmapByte s.diag.bitmap (start + i))
      repOk (le 4 total ++ le 2 n ++ le 2 s.diag.mapGen ++ data) s) s

/-- A pixel lies inside an enabled dark-protected region, as the registers stand. -/
def inDpr (s : State) (i : Nat) : Bool := (bitsOf s.diag.dprEn 8).any (fun n => inRect (s.diag.dpr.getD n {}) i)

/-- PIXEL_TEST, all actions. A test is outstanding, for BUSY, until its measurement completes (DESIGN CHOICE, log entry 115). -/
def pixelTest (rq : Rq) (s : State) : Res :=
  let p := rq.payload
  let act := field p 4 1
  let force := (field p 5 1).testBit 0
  request rq 0x71 (fun s => s.pwr.mode ≠ .snuffed) (lenIs 8) false (fun s =>
    match pixOfWord (field p 0 4), act with
    | none, _ => rep stBadParam s
    | some i, act =>
      if 2 < act then rep stBadParam s
      else if s.diag.test.isSome then rep stBusy s
      else if act = 2 then
        if isDefect s i then rep stOk s else rep stOk (evalDefects (enterDefect 4 4 i s))
      else if inDpr s i && !force then rep stRefused s
      else if act = 1 && s.diag.defects.any (fun d => d.pix = i && (d.type = 3 || d.type = 5)) then rep stRefused s
      else accept (fun h s => { s with diag := { s.diag with test := some { pix := i, release := act = 1, handle := h, src := rq.src } } }) s) s

/-- PIXEL_TEST_MEASURE (R118 to R120) -/
def execPixelTestMeasure (rq : Rq) (s : State) : Res := pixelTest rq s

/-- PIXEL_TEST_RELEASE (R118 to R120) -/
def execPixelTestRelease (rq : Rq) (s : State) : Res := pixelTest rq s

/-- PIXEL_TEST_DISABLE (R118, R119) -/
def execPixelTestDisable (rq : Rq) (s : State) : Res := pixelTest rq s

end Sys2Proof.Machine
end

