-- ==== Sys2Proof/Machine/StoreOps.lean ====
section
/-! DEFINITION. The common store: physical places, ownership, error checks, reads and writes of words, requests and their arbitration
(R290 to R301). -/

namespace Sys2Proof.Machine

/-- The store serves its masters: awake, and not stopped by a sleep entry (R402). -/
def storeUp (s : State) : Bool := awake s && !(entryInProgress s && decide (4 ≤ s.pwr.entryStep) && decide (s.pwr.entryStep ≤ 7))

/-- Banks of a pool of a size code: 8, 16, 32 or none (R297). -/
def poolBanks (code : Nat) : Nat := if code = 0 then 0 else 4 * 2 ^ code

/-- Bank and row of a word index, through the pool (R290, R297). -/
def place (s : State) (w : Nat) : Nat × Nat :=
  let p := poolBanks s.mem.poolSize
  let first := 32768 * s.mem.poolBase
  if p ≠ 0 && first ≤ w && w < first + 32768 * p then (s.mem.poolBase + (w - first) % p, (w - first) / p)
  else (w / 32768, w % 32768)

/-- Physical word number of a bank's row. -/
def physWord (bank row : Nat) : Nat := 32768 * bank + row

/-- Physical address of the word that holds a byte address. -/
def physOf (s : State) (addr : Nat) : Nat := let (b, r) := place s (addr / 8); 8 * physWord b r

/-- Bank of a byte address. -/
def bankAt (s : State) (addr : Nat) : Nat := (place s (addr / 8)).1

/-- A bank. -/
def bankOf (s : State) (b : Nat) : Bank := s.mem.banks.getD b {}

/-- A bank changes. -/
def modBank (b : Nat) (f : Bank → Bank) (s : State) : State := { s with mem := { s.mem with banks := modNth s.mem.banks b f } }

/-- Port of a master (R294). -/
def portOf (m : Nat) : Nat := if m < 24 then m / 6 else m - 20

/-- Whether a use lets a port read (R295). -/
def mayRead (use port : Nat) : Bool :=
  match use with
  | 1 | 2 => decide (port < 4) || port = 6
  | 3 => port = 6
  | _ => false

/-- Whether a use lets a port write or do an atomic (R295). -/
def mayWrite (use port : Nat) : Bool :=
  match use with
  | 1 => port = 4 || port = 5
  | 2 => port = 7
  | 3 => port = 6
  | _ => false

/-- A non-owner access; kind 1 read, 2 write, 3 atomic (R295, R306). -/
def nonOwnerAccess (bank port kind : Nat) (s : State) : State :=
  let s := { s with mem := { s.mem with nonOwner := satInc 16 s.mem.nonOwner, nonOwnerBank := bank, nonOwnerPort := port } }
  raise { code := 0x0903, level := if port = 6 then 1 else 3, p0 := bank, p1 := port, p2 := (bankOf s bank).use, p3 := kind } s

/-- What a bank's check of a word leads to (R292); a word in error stays so until it is written. -/
def checkWord (bank row port : Nat) (ecc : Ecc) (s : State) : Ecc × State :=
  let w := physWord bank row
  if s.mem.errWords.contains w || ecc = .uncorrectable then
    let s := { s with mem := { s.mem with
      eccUncorr := satInc 16 s.mem.eccUncorr, eccBank := bank, errWords := insertNat w s.mem.errWords } }
    (.uncorrectable, raise (ev 0x0902 bank row port (bankOf s bank).use) s)
  else if ecc = .corrected then
    let s := { s with mem := { s.mem with eccCorr := satInc 32 s.mem.eccCorr } }
    let s := modBank bank (fun b => { b with corr := satInc 16 b.corr }) s
    (.corrected, note (ev 0x0901 bank row port s.mem.eccCorr) s)
  else (.clean, s)

/-- The 8 bytes of the word that holds an address. -/
def wordAt (s : State) (addr : Nat) : List Byte := memRead s.mem.cells (physOf s addr) 8

/-- A word takes new bytes; it is no longer in error. -/
def putWord (addr : Nat) (b : List Byte) (s : State) : State :=
  let p := physOf s addr
  { s with mem := { s.mem with cells := memWrite s.mem.cells p b, errWords := s.mem.errWords.filter (· ≠ p / 8) } }

/-- Words are written into a bank of the port's; a general unit on the port is fed (R175). -/
def putWords (port : Nat) : Nat → Nat → List Byte → State → State
  | 0, _, _, s => s
  | k + 1, addr, b, s => putWords port k (addr + 8) (b.drop 8) (guFeedSource (32 + port) (slice b 0 8) (putWord addr (slice b 0 8) s))

/-- A request of a port writes the words of its bank: discarded as one non-owner access in a bank that is not the port's (R295). -/
def writeBurst (port addr : Nat) (b : List Byte) (s : State) : State :=
  let k := bankAt s addr
  if mayWrite (bankOf s k).use port then putWords port (b.length / 8) addr b s else nonOwnerAccess k port 2 s

/-! ### Requests and their grants (R294, R297, R299 to R301) -/

/-- A master changes. -/
def modMaster (m : Nat) (f : Master → Master) (s : State) : State :=
  { s with mem := { s.mem with masters := modNth s.mem.masters m f } }

/-- A request that had waited `old` clocks has waited `new`: one not granted on its first clock is a conflict, one that waits 32 clocks is
escalated (R300, R301). -/
def waited (m old new : Nat) (s : State) : State :=
  modMaster m (fun k => { k with
    conflicts := if old = 0 && 0 < new then satInc 32 k.conflicts else k.conflicts
    esc := if old < 32 && 32 ≤ new then satInc 32 k.esc else k.esc }) s

/-- A request is granted: the turns of both levels, and the longest wait (R299 to R301). -/
def granted (m bank wait : Nat) (s : State) : State :=
  let s := modBank bank (fun k => { k with
    lastPort := portOf m, turns := if m < 24 then k.turns.set (m / 6) (m % 6) else k.turns }) s
  let s := modMaster m (fun k => { k with waitMax := max k.waitMax (min wait 1023) }) s
  if 512 < wait then raiseF 0x0904 m bank wait s else s

/-- How many of `n` words from a byte address one request carries: one in the pool, else a burst within the bank (R294, R297). -/
def requestWords (s : State) (addr n : Nat) : Nat :=
  let p := place s (addr / 8)
  if (bankOf s p.1).pooled then min n 1 else min (min n 16) (32768 - p.2)

/-- Words that a request asks for. -/
def claimWords : AccOp → Nat
  | .read n => n
  | .write l => l.length
  | .atomic _ _ | .window => 1

/-- A master has a request at a bank (R299). -/
def claims (s : State) (bank m : Nat) : Bool := (bankOf s bank).waits.any (·.m = m)

/-- A request waits at its bank; behind one of its master's at that bank it is not presented yet (R299). -/
def queueClaim (c : Claim) (s : State) : State :=
  let b := bankAt s c.addr
  if claims s b c.m then { s with mem := { s.mem with behind := s.mem.behind ++ [c] } }
  else modBank b (fun k => { k with waits := k.waits ++ [c] }) s

/-- A request has been escalated: it has waited 32 clocks (R300). -/
def escalated (c : Claim) : Bool := decide (32 ≤ c.age)

/-- The oldest request; of equally old ones that of the lowest master (R300). -/
def oldest (l : List Claim) : Option Claim :=
  l.foldl (fun b c => match b with
    | none => some c
    | some x => if x.age < c.age || (x.age = c.age && c.m < x.m) then some c else some x) none

/-- The request whose turn comes first after the one served last, among `k` places in a round (R299). -/
def nextTurn (k last : Nat) (at_ : Claim → Nat) (l : List Claim) : Option Claim :=
  let far (c : Claim) : Nat := (at_ c + 2 * k - last - 1) % k
  l.foldl (fun b c => match b with
    | none => some c
    | some x => if far c < far x then some c else some x) none

/-- One level of arbitration: the oldest escalated request, else the next in turn (R299, R300). -/
def chooseOf (k last : Nat) (at_ : Claim → Nat) (l : List Claim) : Option Claim :=
  match oldest (l.filter escalated) with
  | some c => some c
  | none => nextTurn k last at_ l

/-- The request that a bank grants: level 1 among the engines of each cluster, level 2 among the 8 ports (R299, R300). -/
def arbitrate (b : Bank) : Option Claim :=
  let one (p : Nat) : Option Claim :=
    let l := b.waits.filter (fun c => portOf c.m = p)
    if p < 4 then chooseOf 6 (b.turns.getD p 5) (fun c => c.m % 6) l else l.head?
  chooseOf 8 b.lastPort (fun c => portOf c.m) ((List.range 8).flatMap (fun p => (one p).toList))

/-- A bank grants a request: it is not in handover, and the arbitration chooses it (R296, R299). -/
def wins (s : State) (bank : Nat) (c : Claim) : Bool := (bankOf s bank).handover.isNone && decide (arbitrate (bankOf s bank) = some c)

/-- A request leaves the requests that wait at its bank. -/
def dropClaim (bank : Nat) (c : Claim) (s : State) : State := modBank bank (fun k => { k with waits := k.waits.filter (· ≠ c) }) s

/-- The next request of a master that had to stay behind another at this bank is presented (R299). -/
def nextBehind (bank m : Nat) (s : State) : State :=
  match s.mem.behind.find? (fun c => c.m = m && bankAt s c.addr = bank) with
  | some c => queueClaim c { s with mem := { s.mem with behind := s.mem.behind.erase c } }
  | none => s

/-- Words of 8 bytes from bytes. -/
def wordsOf (b : List Byte) : List (BitVec 64) := (List.range (b.length / 8)).map (fun k => BitVec.ofNat 64 (field b (8 * k) 8))

/-- A link DMA presents a request of one burst that has waited `w` clocks (R294, R299): granted where its bank can and chooses it, the words
are written; otherwise the request waits. -/
def dmaRequest (m w addr : Nat) (b : List Byte) (s : State) : State :=
  let bank := bankAt s addr
  let c : Claim := { m, addr, op := .write (wordsOf b), age := w }
  if claims s bank m then queueClaim { c with age := 0 } s
  else
    let s := queueClaim c (waited m 0 w s)
    if wins s bank c then writeBurst (portOf m) addr b (granted m bank w (dropClaim bank c s)) else s

/-- A link DMA writes words: request by request, each with its wait (R294, R301); `fuel` bounds the requests. -/
def dmaWrite (m : Nat) : Nat → List Nat → Nat → List Byte → State → State
  | 0, _, _, _, s => s
  | fuel + 1, waits, addr, b, s =>
    let k := requestWords s addr (b.length / 8)
    if k = 0 || !storeUp s then s
    else dmaWrite m fuel waits.tail (addr + 8 * k) (b.drop (8 * k)) (dmaRequest m (waits.headD 0) addr (b.take (8 * k)) s)

/-- A request as the pieces that the mapping in force allows (R297); `fuel` bounds them. -/
def pieces (s : State) : Nat → Claim → List Claim
  | 0, _ => []
  | fuel + 1, c =>
    let n := claimWords c.op
    let k := requestWords s c.addr n
    if n ≤ k then [c]
    else match c.op with
      | .read _ => { c with op := .read k } :: pieces s fuel { c with addr := c.addr + 8 * k, op := .read (n - k) }
      | .write l => { c with op := .write (l.take k) } :: pieces s fuel { c with addr := c.addr + 8 * k, op := .write (l.drop k) }
      | _ => [c]

/-- A new mapping of the pool is in force: the requests that were held go to the banks that now hold their words, a burst into the pool
word by word (R296, R297). -/
def rehome (s : State) : State :=
  let held := s.mem.banks.flatMap (·.waits) ++ s.mem.behind
  let s := { s with mem := { s.mem with behind := [], banks := s.mem.banks.map (fun k => { k with waits := [] }) } }
  (held.flatMap (fun c => pieces s (claimWords c.op + 1) c)).foldl (fun s c => queueClaim c s) s

/-- `k` bytes from a byte address, byte by byte through the pool. -/
def storeBytes (s : State) (addr k : Nat) : List Byte :=
  (List.range k).map (fun i => memGet s.mem.cells (physOf s (addr + i) + (addr + i) % 8))

/-- Bytes that a buffer occupies (R126). -/
def bufBytes (c : LayerCfg) : Nat := c.stride * c.srcH

/-- Bytes of a line of a layer, LB (R226). -/
def lineBytes (c : LayerCfg) : Nat :=
  8 * cdiv (cdiv (c.srcW * (match c.format with | 0 => 16 | 2 => 16 | 3 => 4 | _ => 8)) 8) 8

/-- The banks that a range of addresses touches, ascending. -/
def banksOfRange (s : State) (addr len : Nat) : List Nat :=
  let p := poolBanks s.mem.poolSize
  let base := s.mem.poolBase
  let direct := (List.range 64).filter (fun b => decide (addr < 0x40000 * (b + 1)) && decide (0x40000 * b < addr + len))
  let outside := direct.filter (fun b => !(decide (base ≤ b) && decide (b < base + p)))
  let lo := max addr (0x40000 * base)
  let hi := min (addr + len) (0x40000 * (base + p))
  let inside := if p = 0 || hi ≤ lo then [] else
    let n := cdiv hi 8 - lo / 8
    if p ≤ n then (List.range p).map (base + ·)
    else (List.range n).map (fun i => base + (lo / 8 - 32768 * base + i) % p)
  (inside ++ outside).foldl (fun l b => insertNat b l) []

/-- The banks that buffers of a configured layer touch. -/
def layerBanks (s : State) (c : LayerCfg) : List Nat :=
  if c.srcW = 0 then []
  else (banksOfRange s c.buf0 (bufBytes c) ++ banksOfRange s c.buf1 (bufBytes c)).foldl (fun l b => insertNat b l) []

/-- The banks that buffers of configured layers touch. -/
def usedBanks (s : State) : List Nat :=
  s.cmp.layers.foldl (fun l y => (layerBanks s y.cfg).foldl (fun l b => insertNat b l) l) []

/-- Where the store holds the copy of a pattern: banks 60 and 61, or 62 and 63. -/
def patternBase (c : Nat) : Nat := if c = 7 then 0xF00000 else 0xF80000

end Sys2Proof.Machine
end

