-- ==== Sys2Proof/Machine/Rope.lean ====
section
/-! DEFINITION. The Rope link: layer frames, discarded packets, forwarding, STATUS packets (R132 to R136, R178 to R181, R218 to R233, R284). -/

namespace Sys2Proof.Machine

/-- Counters of a path. -/
def pathOf (s : State) : Path → RPath
  | .host => s.rope.host
  | .twin => s.rope.twin

/-- PACKET_ERROR (R234). -/
def packetError (p : Path) (s : State) : State :=
  let r := pathOf s p
  note (ev 0x010A (pathNo p) r.hdrErr r.cut r.invalid) s

/-- A packet with a good header is complete. -/
def countPacket (p : Path) (s : State) : State := modPath p (fun r => { r with pkts := satInc 32 r.pkts }) s

/-- An invalid packet (R223). -/
def invalidPacket (p : Path) (s : State) : State :=
  packetError p (modPath p (fun r => { r with invalid := satInc 16 r.invalid }) s)

/-- A frame packet names a layer that takes its frames from this path (R223, R225). -/
def chanValid (s : State) (p : Path) (chan : Nat) : Bool := decide (chan < 6) && layerPath s chan = p

/-- A frame is open for the layer on this path. -/
def receivingOn (s : State) (p : Path) (chan : Nat) : Bool := chanValid s p chan && (layerOf s chan).receiving

/-- Code of a back-buffer state (R131). -/
def backCode : BackState → Nat
  | .empty => 0 | .filling => 1 | .fenced => 2 | .ready => 3

/-- The back buffer of a layer: 0 or 1 (R131). -/
def backBuf (l : Layer) : Nat := 1 - l.frontBuf

/-- Address of a layer's back buffer. -/
def backAddr (l : Layer) : Nat := if backBuf l = 0 then l.cfg.buf0 else l.cfg.buf1

/-- A frame packet is discarded because no frame is open (R226). -/
def strayPacket (p : Path) (s : State) : State := modPath p (fun r => { r with stray := satInc 16 r.stray }) s

/-- An accepted FRAME_START (R132, R134, R225). -/
def startFrame (chan fence : Nat) (s : State) : State :=
  let l := layerOf s chan
  let s := if l.back = .empty then s else
    noteF 0x0213 chan (backCode l.back) (satInc 16 l.overwritten) (modLayer chan (fun l => { l with overwritten := satInc 16 l.overwritten }) s)
  let s := modLayer chan (fun l => { l with
    back := .filling, crossing := false, backFence := fence, released := false, receiving := true, line := 0, off := 0
    crc := 0xFFFFFFFF, codeErrs := 0 }) s
  guStartSource (chan + 1) s

/-! ### Packets of a path (R222 to R224, R284) -/

/-- LENGTH is in the range of the TYPE (R223). -/
def lengthOk (type len : Nat) : Bool :=
  match type with
  | 1 => len = 0
  | 2 => decide (8 ≤ len) && decide (len ≤ 4096) && len % 8 = 0
  | 3 => len = 8
  | 0x10 => decide (12 ≤ len) && decide (len ≤ 1036)
  | 0x20 => decide (8 ≤ len) && decide (len ≤ 256)
  | _ => false

/-- TYPE, path and CHAN of a received packet (R223): STATUS is valid on HTX alone. -/
def headerOk (s : State) (p : Path) (h : List Byte) : Bool :=
  let type := hdrType h
  if type = 1 || type = 2 || type = 3 then chanValid s p (hdrChan h)
  else (type = 0x10 || (type = 0x20 && p = .twin)) && hdrChan h = 0

/-- A received packet is valid (R223). -/
def validPacket (s : State) (p : Path) (h : List Byte) : Bool := headerOk s p h && lengthOk (hdrType h) (hdrLen h)

/-- Bytes that the forwarding buffer holds (R284). -/
def forwardUsed (s : State) : Nat := s.rope.fwdQueue.foldl (fun n f => n + f.1.length + 1) 0

/-- A frame packet of the host bond with a good header is forwarded (R284): into the 16 KiB buffer; a packet that does not fit ends with
ABORT at the byte that finds the buffer full, and one whose header does not fit is left out. -/
def forwardPacket (p : Path) (r : Rx) (s : State) : State :=
  let h := r.hdr
  let frame := hdrType h = 1 || hdrType h = 2 || hdrType h = 3
  if p ≠ .host || h.isEmpty || !frame || 6 ≤ hdrChan h || !s.twn.cfg.fwdMask.testBit (hdrChan h) || !paired s || !twinTrained s then s
  else
    let b := h ++ r.body
    let room := 16384 - forwardUsed s
    let push (x : List Byte × Bool) (s : State) : State := { s with rope := { s.rope with fwdQueue := s.rope.fwdQueue ++ [x] } }
    if b.length < room then push (b, r.out ≠ .whole) s
    else
      let s := { s with twn := { s.twn with fwdDrops := satInc 16 s.twn.fwdDrops } }
      if room < 16 then s else push (b.take (room - 1), true) s

/-- The start of packet that has cut a packet begins the next one, and misplaced ones are counted (R224). -/
def keepRest (p : Path) (r : Rx) (s : State) : State :=
  let s := modPath p (fun q => { q with held := r.rest }) s
  if r.misplaced = 0 then s
  else packetError p (modPath p (fun q => { q with hdrErr := satAdd 16 q.hdrErr r.misplaced }) s)

/-- Columns of a path bring a packet of the command's kind: the lanes take them; while the path is up the packet is taken (R193, R224,
R229). Columns that bring something else are not this command's, and nothing happens. -/
def onPacket (p : Path) (cols : List (List LaneWord)) (kind : Rx → Bool) (act : Rx → State → State) (s : State) : State :=
  let r := rxOf p cols s
  if !lanesUp s || !kind r then s
  else
    let s := takeColumns p cols s
    if (pathOf s p).up then act r (forwardPacket p r (keepRest p r s)) else s

/-- A whole packet of a type. -/
def wholeOf (type : Nat) (r : Rx) : Bool := r.out = .whole && hdrType r.hdr = type

/-- An invalid packet is counted; a LINE_DATA that is invalid for its LENGTH breaks its frame, and no other invalid packet breaks one
(R223, R226). -/
def refusePacket (p : Path) (r : Rx) (s : State) : State :=
  let s := invalidPacket p s
  if hdrType r.hdr = 2 && receivingOn s p (hdrChan r.hdr) then breakFrame (hdrChan r.hdr) 2 p s else s

/-- A whole packet is counted; an invalid one is discarded, and a LINE_DATA that is invalid for its LENGTH breaks its frame (R223,
R226). -/
def takePacket (p : Path) (r : Rx) (act : State → State) (s : State) : State :=
  let s := countPacket p s
  if validPacket s p r.hdr then act s else refusePacket p r s

/-- A valid FRAME_START (R133, R225). -/
def takeStart (path : Path) (h : List Byte) (s : State) : State :=
  let chan := hdrChan h
  let l := layerOf s chan
  if !l.en then modLayer chan (fun l => { l with discards := satInc 16 l.discards }) s
  else if hdrField h 7 1 ≠ l.cfg.format || hdrField h 8 2 ≠ l.cfg.srcW || hdrField h 10 2 ≠ l.cfg.srcH then
    if l.receiving then breakFrame chan 6 path s else s
  else startFrame chan (hdrField h 6 1) s

/-- FRAME_START (R133, R223, R225) -/
def execFrameStart (path : Path) (cols : List (List LaneWord)) (s : State) : Res :=
  .next (onPacket path cols (wholeOf 1) (fun r => takePacket path r (takeStart path r.hdr)) s)

/-- Capacity of a path's receive buffer in bytes (R231). -/
def bufferBytes : Path → Nat
  | .host => 32768
  | .twin => 8192

/-- A LINE_DATA at the expected position: the body is written, checked and counted (R178, R226). -/
def takeLine (path : Path) (chan line offset : Nat) (body : List Byte) (codeErrs : Nat) (waits : List Nat) (s : State) : State :=
  let l := layerOf s chan
  let m := if path = .host then 24 else 25
  let s := dmaWrite m (body.length / 8) waits (backAddr l + line * l.cfg.stride + offset) body s
  let off := offset + body.length
  let full := decide (off = lineBytes l.cfg)
  let s := modLayer chan (fun l => { l with
    crc := crcRun 32 0x04C11DB7 true l.crc body, codeErrs := l.codeErrs + codeErrs
    line := if full then line + 1 else line, off := if full then 0 else off }) s
  let s := modPath path (fun r => { r with bytes := (r.bytes + body.length) % 2 ^ 32 }) s
  guFeedSource (chan + 1) body s

/-- A valid LINE_DATA (R226). -/
def takeData (path : Path) (r : Rx) (waits : List Nat) (s : State) : State :=
  let chan := hdrChan r.hdr
  let line := hdrField r.hdr 6 2
  let offset := hdrField r.hdr 8 2
  let l := layerOf s chan
  if !l.receiving then strayPacket path s
  else if line ≠ l.line || offset ≠ l.off || l.cfg.srcH ≤ line || lineBytes l.cfg < offset + r.body.length then breakFrame chan 2 path s
  else takeLine path chan line offset r.body r.code waits s

/-- The receive buffer's high-water mark (R231). -/
def markBuffer (path : Path) (bufBytes : Nat) (s : State) : State :=
  modPath path (fun r => { r with bufMax := max r.bufMax (cdiv (min bufBytes (bufferBytes path)) 64) }) s

/-- The receive buffer is full: the packet is discarded, and a frame it belongs to breaks (R231). -/
def overflow (path : Path) (r : Rx) (s : State) : State :=
  let chan := hdrChan r.hdr
  let frame := hdrType r.hdr = 2 || hdrType r.hdr = 3
  let s := modPath path (fun r => { r with overflows := satInc 16 r.overflows }) s
  let named := 1 ≤ hdrType r.hdr && hdrType r.hdr ≤ 3 && chan < 6
  let s := raiseF 0x0109 (pathNo path) (bufferBytes path) (if named then chan else 0xFF) s
  if frame && receivingOn s path chan then breakFrame chan 5 path s else s

/-- LINE_DATA (R223, R224, R226, R231) -/
def execLineData (path : Path) (cols : List (List LaneWord)) (bufBytes : Nat) (waits : List Nat) (s : State) : Res :=
  .next (onPacket path cols (wholeOf 2) (fun r s =>
    let s := markBuffer path bufBytes s
    if bufferBytes path < bufBytes then overflow path r s else takePacket path r (takeData path r waits) s) s)

/-- A frame is rejected: the back buffer is EMPTY (R181). -/
def rejectFrame (chan : Nat) (f : Layer → Layer) (s : State) : State :=
  modLayer chan (fun l => { f l with back := .empty, crossing := false, backFence := 0, released := false }) s

/-- The outcome of a complete FRAME_END (R179, R180), which makes a STATUS due (R233). -/
def judgeFrame (chan crc alive errSyms : Nat) (s : State) : State :=
  let l := layerOf s chan
  let own := crcOut 32 true 0xFFFFFFFF l.crc
  let s := modLayer chan (fun l => { l with receiving := false, rxCrc := crc, calcCrc := own }) s
  if errSyms ≠ 0 then
    let s := rejectFrame chan (fun l => { l with rejTrailer := satInc 16 l.rejTrailer }) s
    statusDue 1 chan 2 (noteF 0x0202 chan errSyms (layerOf s chan).rejTrailer s)
  else if crc ≠ own then
    let s := rejectFrame chan (fun l => { l with rejMismatch := satInc 16 l.rejMismatch }) s
    statusDue 1 chan 3 (note (ev 0x0201 chan crc own l.codeErrs) s)
  else if l.aliveValid && l.alive = alive then
    let s := rejectFrame chan (fun l => { l with repeatsSeq := satInc 16 l.repeatsSeq }) s
    statusDue 1 chan 4 (noteF 0x0203 chan alive (layerOf s chan).repeatsSeq s)
  else
    let gap := (alive + 65536 - l.alive) % 65536
    let jump := l.aliveValid && gap ≠ 1
    let s := modLayer chan (fun l => { l with
      alive, aliveValid := true, accepts := satInc 32 l.accepts, crossing := true
      jumps := if jump then satInc 16 l.jumps else l.jumps, lastGap := if jump then gap else l.lastGap }) s
    statusDue 1 chan (if jump then 1 else 0) (if jump then noteF 0x0204 chan l.alive alive s else s)

/-- A valid FRAME_END (R226, R227): a general unit on the layer captures before the checks (R175). -/
def takeEnd (path : Path) (r : Rx) (s : State) : State :=
  let chan := hdrChan r.hdr
  let l := layerOf s chan
  if !l.receiving then strayPacket path s
  else
    let s := guCaptureSource (chan + 1) s
    if l.line ≠ l.cfg.srcH || l.off ≠ 0 then breakFrame chan 3 path s
    else judgeFrame chan (field r.body 0 4) (field r.body 4 2) r.errs s

/-- FRAME_END (R179, R180, R223, R227) -/
def execFrameEnd (path : Path) (cols : List (List LaneWord)) (s : State) : Res :=
  .next (onPacket path cols (wholeOf 3) (fun r => takePacket path r (takeEnd path r)) s)

/-- BACK_BUFFER_READY (R25, R131, R134) -/
def execBackBufferReady (n : Nat) (s : State) : Res :=
  guarded (n < 6) (
    if (layerOf s n).crossing then
      modLayer n (fun l => { l with crossing := false, back := if l.backFence ≠ 0 && !l.released then .fenced else .ready }) s
    else s)

/-- FENCE_TIMEOUT (R136) -/
def execFenceTimeout (n : Nat) (s : State) : Res :=
  guarded (n < 6) (
    let l := layerOf s n
    if !awake s || l.back ≠ .fenced || s.cmp.fenceMs = 0 then s
    else
      let s := modLayer n (fun l => { l with back := .empty, backFence := 0, released := false, fenceTimeouts := satInc 16 l.fenceTimeouts }) s
      let s := { s with cmp := { s.cmp with fenceTimeouts := satInc 16 s.cmp.fenceTimeouts } }
      raiseF 0x0212 n l.backFence s.cmp.fenceMs s)

/-- A frame that a cut packet belonged to breaks (R227, R228): an incomplete position shows at the header of a FRAME_END. -/
def cutFrame (p : Path) (type chan : Nat) (s : State) : State :=
  if !receivingOn s p chan then s
  else
    let l := layerOf s chan
    if type = 2 then breakFrame chan 1 p s
    else if type = 3 then breakFrame chan (if l.line ≠ l.cfg.srcH || l.off ≠ 0 then 3 else 1) p s
    else s

/-- A packet is cut (R223, R224): an invalid one is counted as invalid too, and breaks its frame only as an invalid one does. -/
def cutPacket (p : Path) (r : Rx) (abort : Bool) (s : State) : State :=
  let valid := validPacket s p r.hdr
  let s := if valid then s else refusePacket p r s
  let s := modPath p (fun r => { r with cut := satInc 16 r.cut, aborts := if abort then satInc 16 r.aborts else r.aborts }) s
  let s := packetError p s
  if valid then cutFrame p (hdrType r.hdr) (hdrChan r.hdr) s else s

/-- The body of a TWIN packet is a message that R271 gives: its CRC, its MSG, its LENGTH. -/
def twinMessageOk (b : List Byte) : Bool :=
  let n := b.length
  let want := match field b 0 1 with | 1 => 24 | 2 => 16 | 3 => 40 | _ => 0
  n = want && crc32 (b.take (n - 4)) = field b (n - 4) 4

/-- A TWIN packet whose message is invalid (R271). -/
def badMessage (p : Path) (s : State) (r : Rx) : Bool := wholeOf 0x20 r && validPacket s p r.hdr && !twinMessageOk r.body

/-- A packet with a good header finds the receive buffer full (R231). -/
def overflows (p : Path) (bufBytes : Nat) (r : Rx) : Bool := decide (bufferBytes p < bufBytes) && !r.hdr.isEmpty && r.out ≠ .none

/-- What PACKET_DISCARD is about: no packet that is taken. -/
def discards (p : Path) (bufBytes : Nat) (s : State) (r : Rx) : Bool :=
  match r.out with
  | .none => r.misplaced ≠ 0
  | .unfinished => true
  | .badHeader | .cut _ => true
  | .whole => !validPacket s p r.hdr || badMessage p s r || overflows p bufBytes r

/-- A packet is discarded (R223, R224, R231, R271). -/
def discard (p : Path) (bufBytes : Nat) (r : Rx) (s : State) : State :=
  let s := markBuffer p bufBytes s
  if overflows p bufBytes r then overflow p r s
  else match r.out with
    | .none | .unfinished => s
    | .badHeader => packetError p (modPath p (fun q => { q with hdrErr := satInc 16 q.hdrErr }) s)
    | .cut a => cutPacket p r a s
    | .whole => takePacket p r (fun s => { s with twn := { s.twn with hbInvalid := satInc 16 s.twn.hbInvalid } }) s

/-- PACKET_DISCARD (R218, R222 to R224, R226, R229, R231, R271). Columns that break off inside a packet bring the packet that is in progress
when the path is interrupted: it is counted nowhere, and what has been forwarded of it ends with ABORT (R284; DESIGN CHOICE, log
entry 112). -/
def execPacketDiscard (path : Path) (cols : List (List LaneWord)) (bufBytes : Nat) (s : State) : Res :=
  .next (onPacket path cols (discards path bufBytes s) (discard path bufBytes) s)

/-- The symbols of a forwarded packet: unchanged, with EOP or, where it was cut, ABORT at its end (R284). -/
def forwardSyms (f : List Byte × Bool) : List Sym :=
  let l := .ctl 0xFB :: dataSyms f.1 ++ [.ctl (if f.2 then 0xFE else 0xFD)]
  l ++ List.replicate ((4 - l.length % 4) % 4) (.ctl 0xF7)

/-- PACKET_FORWARD (R213, R284): the oldest packet of the forwarding buffer leaves on TWTX. -/
def execPacketForward (s : State) : Res :=
  .next (
    if !twtxOpen s then s
    else match s.rope.fwdQueue with
      | [] => s
      | f :: q =>
        let s := { s with rope := { s.rope with fwdQueue := q } }
        sendSyms .twin (forwardSyms f) (if f.2 then s else { s with twn := { s.twn with fwdPackets := wrapInc 32 s.twn.fwdPackets } }))

/-- LSTATE byte of a layer (R233). -/
def lstate (l : Layer) : Nat :=
  backCode l.back + flag l.hasFront 2 + flag l.enLatched 3 + flag l.receiving 4

/-- LINKS of a STATUS packet (R233). -/
def linksWord (s : State) : Nat :=
  hrxTrained s + s.lnk.bondMask * 16 + s.lnk.bondRate * 256 + flag (twinTrained s) 11

/-- The 36 bytes of a STATUS packet (R233). -/
def statusBody (reason layer outcome : Nat) (s : State) : List Byte :=
  let r := if reason = 0 then 0 else 1
  let b := le 1 r ++ le 1 (modeCode s.pwr.mode) ++ le 1 (causeLevel s.flt) ++ le 1 s.cmd.cq.length ++ le 4 s.ft.frameCount ++
    le 2 s.arr.gref ++ le 1 (if r = 0 then 0xFF else layer) ++ le 1 (if r = 0 then 0xFF else outcome) ++
    s.cmp.layers.flatMap (fun l => le 1 (lstate l)) ++ s.cmp.layers.flatMap (fun l => le 2 l.latchCount) ++ le 2 (linksWord s)
  b ++ le 4 (crc32 b)

/-- A STATUS packet leaves (R233). -/
def sendStatus (reason layer outcome : Nat) (s : State) : State :=
  let s := { s with rope := { s.rope with statusSent := wrapInc 16 s.rope.statusSent } }
  sendPacket .host 0x11 0 [] (statusBody reason layer outcome s) s

/-- STATUS_SEND (R213, R232, R233): the oldest STATUS that is due. -/
def execStatusSend (s : State) : Res :=
  .next (
    if !htxOpen s then s
    else match s.rope.statusDue with
      | [] => s
      | (reason, layer, outcome) :: q => sendStatus reason layer outcome { s with rope := { s.rope with statusDue := q } })

end Sys2Proof.Machine
end

