-- ==== Sys2Proof/Machine/Layers.lean ====
section
/-! DEFINITION. Layers, flip groups, fences, tables and signature configurations: the commands, and what a compose latch decides about
them (R123 to R153, R161 to R164, R187, R188). -/

namespace Sys2Proof.Machine

/-! ### Signature regions: configurations (R182, R187, R188) -/

/-- A region. -/
def sigOf (s : State) (r : Nat) : Sig := s.chk.sigs.getD r {}

/-- A region changes. -/
def modSig (r : Nat) (f : Sig → Sig) (s : State) : State := { s with chk := { s.chk with sigs := modNth s.chk.sigs r f } }

/-- A region's waiting configuration takes effect: RUN and RESULT are 0, its cause is removed (R185, R188). -/
def applySig (r : Nat) (s : State) : State :=
  match (sigOf s r).pend with
  | some (c, _) => modSig r (fun g => { g with cfg := c, pend := none, run := 0, result := 0, cause := false }) (condOff 0x0401 r s)
  | none => s

/-- The waiting configurations of a binding take effect; 15 stands for none. -/
def applySigs (bind : Nat) (s : State) : State :=
  (List.range 16).foldl (fun s r => if (sigOf s r).pend.any (·.2 = bind) then applySig r s else s) s

/-- The configuration that a SIGNATURE_REGION payload holds (R187). -/
def sigCfgOf (p : List Byte) (old : SigCfg) : SigCfg :=
  if field p 1 1 = 1 then { old with mode := 0 }
  else
    let m := if (field p 2 1).testBit 0 then 48 else 1
    { mode := field p 3 1, level := field p 4 1, thresh := field p 5 1, expect := field p 16 4
      rect := { c0 := m * field p 8 2, r0 := m * field p 10 2, c1 := m * field p 12 2 + (m - 1), r1 := m * field p 14 2 + (m - 1) } }

/-- The field checks of R187. -/
def sigFieldsOk (p : List Byte) : Bool :=
  let grid := (field p 2 1).testBit 0
  decide (field p 0 1 ≤ 15) && decide (field p 1 1 ≤ 1) && (field p 1 1 = 1 ||
    ((field p 3 1 = 1 || field p 3 1 = 2) && decide (field p 4 1 ≤ 4) && decide (1 ≤ field p 5 1) && decide (field p 5 1 ≤ 16) &&
      (decide (field p 6 1 ≤ 5) || field p 6 1 = 0xFF) && decide (field p 8 2 ≤ field p 12 2) && decide (field p 10 2 ≤ field p 14 2) &&
      decide (field p 12 2 ≤ if grid then 29 else 1439) && decide (field p 14 2 ≤ if grid then 14 else 719)))

/-- SIGNATURE_REGION, both actions. -/
def signatureRegion (rq : Rq) (s : State) : Res :=
  let p := rq.payload
  request rq 0x26 anyMode (lenIs 24) false (fun s =>
    if !sigFieldsOk p then rep stBadParam s
    else
      let bind := if field p 1 1 = 1 || field p 6 1 = 0xFF then 15 else field p 6 1
      rep stOk (modSig (field p 0 1) (fun g => { g with pend := some (sigCfgOf p g.cfg, bind) }) s)) s

/-- SIGNATURE_REGION_CONFIGURE (R187, R188) -/
def execSignatureRegionConfigure (rq : Rq) (s : State) : Res := signatureRegion rq s

/-- SIGNATURE_REGION_DISABLE (R187, R188) -/
def execSignatureRegionDisable (rq : Rq) (s : State) : Res := signatureRegion rq s

/-! ### LAYER_CONFIG (R144 to R146) -/

/-- Bits per pixel of a format (R123). -/
def formatBits : Nat → Nat
  | 0 => 16 | 2 => 16 | 3 => 4 | _ => 8

/-- The configuration that a LAYER_CONFIG payload holds (R144). A STALE_N or FAULT_LEVEL that the policy ignores is kept as sent, and the
registers show it cut to their width (DESIGN CHOICE, log entry 116). -/
def layerCfgOf (p : List Byte) : LayerCfg :=
  { withFlip := (field p 1 1).testBit 0, preBypass := (field p 1 1).testBit 1, format := field p 2 1, blend := field p 3 1
    z := field p 4 1, galpha := field p 5 1, coeffSet := field p 6 1, policy := field p 7 1, staleN := field p 8 2
    faultLevel := field p 10 1, srcW := field p 12 2, srcH := field p 14 2, dstX := field p 16 2, dstY := field p 18 2
    dstW := field p 20 2, dstH := field p 22 2, buf0 := field p 24 4, buf1 := field p 28 4, stride := field p 32 2 }

/-- The fields of LAYER_CONFIG after LAYER, in offset order: whether a field is good (R124 to R126, R139, R144), and whether it is a
storage field that differs from the configuration in force (R146). A check of two fields stands at the later one (DESIGN CHOICE, log
entry 85). -/
def layerFields (c old : LayerCfg) : List (Bool × Bool) :=
  [(decide (c.format ≤ 4), c.format ≠ old.format),
   (decide (c.blend ≤ 5) && (c.format ≠ 4 || c.blend = 3), false),
   (decide (c.z ≤ 5), false),
   (decide (c.coeffSet ≤ 3), false),
   (decide (c.policy ≤ 2), false),
   (c.policy = 0 || (decide (1 ≤ c.staleN) && decide (c.staleN ≤ 1000)), false),
   (c.policy ≠ 2 || (decide (1 ≤ c.faultLevel) && decide (c.faultLevel ≤ 4)), false),
   (decide (1 ≤ c.srcW) && decide (c.srcW ≤ 5400), c.srcW ≠ old.srcW),
   (decide (1 ≤ c.srcH) && decide (c.srcH ≤ 2700), c.srcH ≠ old.srcH),
   (decide (1 ≤ c.dstW) && decide (c.dstX + c.dstW ≤ 1440), false),
   (decide (1 ≤ c.dstH) && decide (c.dstY + c.dstH ≤ 720), false),
   (c.buf0 % 8 = 0, c.buf0 ≠ old.buf0),
   (c.buf1 % 8 = 0, c.buf1 ≠ old.buf1),
   (c.stride % 8 = 0 && decide (cdiv (c.srcW * formatBits c.format) 8 ≤ c.stride), c.stride ≠ old.stride)]

/-- The first field that fails decides (R145): BAD_PARAM for a bad field, REFUSED for a changed storage field of an enabled layer. -/
def firstFailure (en : Bool) : List (Bool × Bool) → Option Nat
  | [] => none
  | (good, changed) :: t => if !good then some stBadParam else if en && changed then some stRefused else firstFailure en t

/-- What the fields of a LAYER_CONFIG for a layer come to: none where every field passes. -/
def layerVerdict (n : Nat) (c : LayerCfg) (l : Layer) : Option Nat :=
  if 5 < n then some stBadParam else firstFailure l.en (layerFields c l.cfg)

/-- The presentation fields of one configuration with the storage fields of another (R146). -/
def present (new old : LayerCfg) : LayerCfg :=
  { new with format := old.format, srcW := old.srcW, srcH := old.srcH, buf0 := old.buf0, buf1 := old.buf1, stride := old.stride }

/-- The limit that an axis reports: 960 where downscaling fails, 32 where upscaling fails, 0 where it passes (R161). -/
def axisLimit (src dst : Nat) : Nat := if 15 * dst < 4 * src then 960 else if 8 * src < dst then 32 else 0

/-- Two byte ranges of equal or different length overlap. -/
def rangesMeet (a la b lb : Nat) : Bool := decide (a < b + lb) && decide (b < a + la)

/-- Buffers of a configuration overlap each other or those of another configured layer (R126). -/
def bufferClash (n : Nat) (c : LayerCfg) (s : State) : Bool :=
  let len := bufBytes c
  rangesMeet c.buf0 len c.buf1 len ||
    (List.range 6).any (fun m =>
      let o := (layerOf s m).cfg
      let l := bufBytes o
      m ≠ n && o.srcW ≠ 0 && [c.buf0, c.buf1].any (fun a => rangesMeet a len o.buf0 l || rangesMeet a len o.buf1 l))

/-- REASON of a configuration that fails the resource checks, the lowest of those that fail (DESIGN CHOICE, log entry 85); 0 passes (R126,
R145, R161). -/
def layerReason (n : Nat) (c : LayerCfg) (s : State) : Nat :=
  let len := bufBytes c
  if axisLimit c.srcW c.dstW ≠ 0 || axisLimit c.srcH c.dstH ≠ 0 then 1
  else if 0xF00000 < c.buf0 + len || 0xF00000 < c.buf1 + len then 2
  else if bufferClash n c s then 3
  else if (banksOfRange s c.buf0 len ++ banksOfRange s c.buf1 len).any (fun b => (bankOf s b).use ≠ 1) then 4
  else 0

/-- LAYER_CONFIG (R144 to R146) -/
def execLayerConfig (rq : Rq) (s : State) : Res :=
  let n := field rq.payload 0 1
  let c := layerCfgOf rq.payload
  request rq 0x20 anyMode (lenIs 40) false (fun s =>
    let l := layerOf s n
    match layerVerdict n c l with
    | some st => rep st s
    | none =>
      let reason := layerReason n c s
      if reason ≠ 0 then
        let h := if reason = 1 then axisLimit c.srcW c.dstW else 0
        let v := if reason = 1 then axisLimit c.srcH c.dstH else 0
        ({ status := stNoResource, payload := le 1 reason ++ le 1 0 ++ le 2 h ++ le 2 v ++ le 2 0 }, s)
      else if l.en then rep stOk (modLayer n (fun l => { l with pend := some c }) s)
      else rep stOk (modLayer n (fun l => { l with cfg := c, pend := none }) s)) s

/-! ### LAYER_ENABLE (R147, R148) -/

/-- A layer starts: no front buffer, an EMPTY back buffer, counter 0, no alive reference (R148, R180). -/
def startLayer (n : Nat) (s : State) : State :=
  modLayer n (fun l => { l with
    en := true, hasFront := false, frontBuf := 1, back := .empty, crossing := false, backFence := 0, released := false, stale := 0
    transparent := false, staleCause := false, aliveValid := false, receiving := false }) (condOff 0x0210 n s)

/-- A layer stops accepting data; a frame that it is receiving is discarded (R148). -/
def stopLayer (n : Nat) (s : State) : State :=
  modLayer n (fun l =>
    let l := { l with en := false, receiving := false, crossing := false }
    if l.back = .filling then { l with back := .empty, backFence := 0, released := false } else l) s

/-- LAYER_ENABLE (R147, R148) -/
def execLayerEnable (rq : Rq) (s : State) : Res :=
  let mask := field rq.payload 0 1
  let on := field rq.payload 1 1
  request rq 0x21 anyMode (lenIs 4) false (fun s =>
    if (bitsOf mask 6).any (fun n => on.testBit n && (layerOf s n).cfg.srcW = 0) then rep stRefused s
    else
      rep stOk ((bitsOf mask 6).foldl (fun s n =>
        if on.testBit n = (layerOf s n).en then s else if on.testBit n then startLayer n s else stopLayer n s) s)) s

/-! ### FLIP_GROUP (R137, R149, R150) -/

/-- A group. -/
def groupOf (s : State) (g : Nat) : Group := s.cmp.groups.getD g {}

/-- A group changes. -/
def modGroup (g : Nat) (f : Group → Group) (s : State) : State := { s with cmp := { s.cmp with groups := modNth s.cmp.groups g f } }

/-- Members and policy as last configured: those that wait for a latch, or those in force. -/
def lastGroup (k : Group) : Nat × Bool := k.pend.getD (k.members, k.armed)

/-- A pending ARM ends with a status whose result words are not stated. -/
def dropArm (g status : Nat) (s : State) : State :=
  match (groupOf s g).arm with
  | some a => completeOpen a.handle 0x22 a.src status (modGroup g (fun k => { k with arm := none }) s)
  | none => s

/-- FLIP_GROUP, both actions. -/
def flipGroup (rq : Rq) (s : State) : Res :=
  let f (i : Nat) := field rq.payload i 1
  let g := f 0
  let mask := f 2 % 64
  request rq 0x22 anyMode (lenIs 8) false (fun s =>
    if 2 < g || 1 < f 1 then rep stBadParam s
    else if f 1 = 0 then
      if 1 < f 3 then rep stBadParam s
      else if (List.range 3).any (fun h => h ≠ g && (lastGroup (groupOf s h)).1 &&& mask ≠ 0) then rep stRefused s
      else rep stOk (modGroup g (fun k => { k with pend := some (mask, f 3 = 1) }) (dropArm g stSuperseded s))
    else
      let (members, armed) := lastGroup (groupOf s g)
      if !armed then rep stRefused s
      else if mask = 0 || mask &&& members ≠ mask then rep stBadParam s
      else accept (fun h s => modGroup g (fun k => { k with arm := some { mask, handle := h, src := rq.src } }) (dropArm g stSuperseded s)) s) s

/-- FLIP_GROUP_CONFIGURE (R149, R150) -/
def execFlipGroupConfigure (rq : Rq) (s : State) : Res := flipGroup rq s

/-- FLIP_GROUP_ARM (R149, R150) -/
def execFlipGroupArm (rq : Rq) (s : State) : Res := flipGroup rq s

/-! ### FENCE_SIGNAL (R134, R135, R151) -/

/-- A layer's back buffer carries the fence and is FILLING or FENCED. -/
def carriesFence (f : Nat) (l : Layer) : Bool := l.backFence = f && (l.back = .filling || l.back = .fenced)

/-- The layers whose back buffer carries a fence ID. -/
def fenceHits (s : State) (f : Nat) : List Nat := (List.range 6).filter (fun n => carriesFence f (layerOf s n))

/-- The back buffer of a layer is released (R134). -/
def releaseBack (s : State) (n : Nat) : State :=
  modLayer n (fun l => { l with released := true, back := if l.back = .fenced then .ready else l.back }) s

/-- Fence IDs are applied on one clock edge, each to the buffers as they stand at it (R134, R135, R151): the counts of released buffers
and of orphans. -/
def signalFences (ids : List Nat) (s : State) : Nat × Nat × State :=
  let hit := (List.range 6).filter (fun n => ids.any (fun f => carriesFence f (layerOf s n)))
  let orphans := (ids.filter (fun f => (fenceHits s f).isEmpty)).length
  ((hit.filter (fun n => !(layerOf s n).released)).length, orphans,
    hit.foldl releaseBack { s with cmp := { s.cmp with orphans := satAdd 16 s.cmp.orphans orphans } })

/-- FENCE_SIGNAL (R134, R135, R151) -/
def execFenceSignal (rq : Rq) (s : State) : Res :=
  let n := field rq.payload 0 1
  let ids := ((rq.payload.drop 4).take n).map (·.toNat)
  request rq 0x23 anyMode (fun k => decide (1 ≤ n) && decide (n ≤ 16) && k = 4 + n) false (fun s =>
    if ids.contains 0 then rep stBadParam s
    else
      let (rel, orph, s) := signalFences ids s
      repOk (le 2 rel ++ le 1 orph ++ le 1 0) s) s

/-! ### Tables (R152, R153, R162 to R164) -/

/-- Entries of a LUT or palette (R153). -/
def lutSize (t : Nat) : Nat := if t < 6 then 1024 else if t = 6 then 4096 else 16

/-- Bytes of an entry. -/
def lutEntry (t : Nat) : Nat := if t < 7 then 2 else 4

/-- Reset content of a LUT or palette (R128, R153). -/
def lutReset (t i : Nat) : Int :=
  if t < 6 then ((64 * i : Nat) : Int) else if t = 6 then ((16 * i : Nat) : Int) else ((4369 * i + 255 * 65536 : Nat) : Int)

/-- Taps of a phase of a coefficient table: 8 horizontal, 6 vertical. -/
def tapCount (t : Nat) : Nat := if t % 2 = 0 then 8 else 6

/-- Reset content of a coefficient table: linear interpolation (R162). -/
def coefReset (t i : Nat) : Int :=
  let p := i / tapCount t
  let mid := if t % 2 = 0 then 3 else 2
  if i % tapCount t = mid then 256 - 4 * (p : Int) else if i % tapCount t = mid + 1 then 4 * (p : Int) else 0

/-- An entry of a copy. -/
def entryOf (reset : Nat → Int) (l : List (Nat × Int)) (i : Nat) : Int := assocGet (reset i) i l

/-- An entry written; the reset value is not listed. -/
def setEntry (reset : Nat → Int) (l : List (Nat × Int)) (i : Nat) (v : Int) : List (Nat × Int) := assocSet (reset i) i v l

/-- CRC-32 of a copy of a table of `n` entries of `k` bytes. -/
def tableCrc (reset : Nat → Int) (n k : Nat) (l : List (Nat × Int)) : Nat :=
  crc32 ((List.range n).flatMap (fun i => le k (twos (8 * k) (entryOf reset l i))))

/-- CMP_TABCRCt (R153). -/
def lutCrc (t : Nat) (l : List (Nat × Int)) : Nat := tableCrc (lutReset t) (lutSize t) (lutEntry t) l

/-- SCL_COEFCRCt (R164). -/
def coefCrc (t : Nat) (l : List (Nat × Int)) : Nat := tableCrc (coefReset t) (64 * tapCount t) 2 l

/-- Entries are written from a place, and committed if the check value agrees (R152): whether that failed, and the table. -/
def writeTable (reset : Nat → Int) (check : List (Nat × Int) → Nat) (first : Nat) (vals : List Int) (commit : Option Nat) (t : Table) :
    Bool × Table :=
  let t := { t with back := vals.zipIdx.foldl (fun l c => setEntry reset l (first + c.2) c.1) t.back }
  match commit with
  | none => (false, t)
  | some crc => if check t.back = crc then (false, { t with pending := true }) else (true, t)

/-- A committed back copy becomes the front copy (R152, R163). -/
def swapTable (t : Table) : Table := if t.pending then { t with front := t.back, pending := false } else t

/-- The TABLE_CRC of a command with COMMIT. -/
def commitCrc (p : List Byte) (off : Nat) : Option Nat := if (field p 1 1).testBit 0 then some (field p off 4) else none

/-- LOAD_LUT (R152, R153) -/
def execLoadLut (rq : Rq) (s : State) : Res :=
  let p := rq.payload
  let t := field p 0 1
  let first := field p 2 2
  let n := field p 4 2
  let k := lutEntry t
  let commit := commitCrc p 8
  request rq 0x24 anyMode (fun len => decide (t ≤ 12) && decide (n ≤ 504) && len = 12 + k * n) false (fun s =>
    let tab := s.cmp.tables.getD t {}
    if lutSize t < first + n || (n = 0 && commit.isNone) then rep stBadParam s
    else if tab.pending then rep stBusy s
    else
      let vals := (List.range n).map (fun i => ((field p (12 + k * i) k % 2 ^ (if k = 2 then 16 else 24) : Nat) : Int))
      let (bad, tab) := writeTable (lutReset t) (lutCrc t) first vals commit tab
      rep (if bad then stFailed else stOk) { s with cmp := { s.cmp with tables := modNth s.cmp.tables t (fun _ => tab) } }) s

/-- The first failing phase of PHASES: its index, and its first failing tap or 0xFF for its sum (R164). -/
def phaseFault (taps : Nat) : Nat → Nat → List Int → Option (Nat × Nat)
  | 0, _, _ => none
  | k + 1, i, l =>
    let ph := l.take taps
    match ph.findIdx? (fun v => !(decide (-512 ≤ v) && decide (v ≤ 511))) with
    | some j => some (i, j)
    | none => if ph.foldl (· + ·) 0 ≠ 256 then some (i, 0xFF) else phaseFault taps k (i + 1) (l.drop taps)

/-- LOAD_COEFFS (R163, R164) -/
def execLoadCoeffs (rq : Rq) (s : State) : Res :=
  let p := rq.payload
  let t := field p 0 1
  let first := field p 2 1
  let n := field p 3 1
  let taps := tapCount t
  let commit := commitCrc p 4
  request rq 0x25 anyMode (fun len => decide (t ≤ 7) && decide (n ≤ 32) && len = 8 + 2 * taps * n) false (fun s =>
    let tab := s.scl.tables.getD t {}
    let vals := (List.range (n * taps)).map (fun i => fieldI p (8 + 2 * i) 2)
    if 64 < first + n || (n = 0 && commit.isNone) then rep stBadParam s
    else match phaseFault taps n 0 vals with
      | some (i, j) => ({ status := stBadParam, payload := le 1 (first + i) ++ le 1 j ++ le 2 0 }, s)
      | none =>
        if tab.pending then rep stBusy s
        else
          let (bad, tab) := writeTable (coefReset t) (coefCrc t) (first * taps) vals commit tab
          rep (if bad then stFailed else stOk) { s with scl := { s.scl with tables := modNth s.scl.tables t (fun _ => tab) } }) s

/-! ### The compose latch (R138 to R143, R146, R148) -/

/-- Enables and configurations of a layer take effect; those with APPLY_WITH_FLIP wait (R140, R146, R148). -/
def latchLayer (n : Nat) (s : State) : State :=
  let s := if (layerOf s n).en then s
    else modLayer n (fun l => { l with
      hasFront := false, frontBuf := 1, back := .empty, crossing := false, backFence := 0, released := false, stale := 0
      transparent := false, staleCause := false }) (condOff 0x0210 n s)
  modLayer n (fun l =>
    let l := { l with enLatched := l.en }
    match l.pend with
    | some c => if c.withFlip then l else { l with cfg := present c l.cfg, pend := none }
    | none => l) s

/-- Group membership and policy take effect (R140). -/
def latchGroup (k : Group) : Group :=
  match k.pend with
  | some (m, p) => { k with members := m, armed := p, pend := none }
  | none => k

/-- `apply_enables_and_configs` of R141. -/
def latchConfigs (s : State) : State :=
  let s := (List.range 6).foldl (fun s n => latchLayer n s) s
  let s := { s with cmp := { s.cmp with groups := s.cmp.groups.map latchGroup, postBypassLatched := s.cmp.postBypass } }
  applySigs 15 s

/-- Mask of the layers that meet a test. -/
def layerMask (s : State) (p : Layer → Bool) : Nat := maskOf ((List.range 6).filter (fun n => p (layerOf s n)))

/-- Layers in no group. -/
def ungrouped (s : State) (n : Nat) : Bool := (List.range 3).all (fun g => !(groupOf s g).members.testBit n)

/-- The decision about one group: the layers it flips join those that flip already (R137, R141). -/
def decideGroup (enabled ready : Nat) (c : Nat × State) (g : Nat) : Nat × State :=
  let (flip, s) := c
  let k := groupOf s g
  let want := if !k.armed then k.members &&& enabled else match k.arm with
    | some a => a.mask &&& enabled
    | none => 0
  if k.armed && k.arm.isSome && want = 0 then (flip, dropArm g stFailed s)
  else if want ≠ 0 && want &&& ready = want then
    match k.armed, k.arm with
    | true, some a => (flip ||| want, complete a.handle 0x22 a.src stOk want s.ft.frameCount (modGroup g (fun k => { k with arm := none }) s))
    | _, _ => (flip ||| want, s)
  else (flip, s)

/-- The layers that flip at this latch, with the ARMs that it completes (R141). -/
def decideFlips (s : State) : Nat × State :=
  let enabled := layerMask s (·.enLatched)
  let ready := layerMask s (fun l => l.back = .ready)
  let free := maskOf ((List.range 6).filter (fun n => (ready &&& enabled).testBit n && ungrouped s n))
  (List.range 3).foldl (decideGroup enabled ready) (free, s)

/-- A layer flips (R137, R141, R146): the bound signature configurations take effect with it (R188). -/
def flipLayer (n : Nat) (s : State) : State :=
  let s := modLayer n (fun l => { l with
    frontBuf := backBuf l, hasFront := true, back := .empty, backFence := 0, released := false, crossing := false
    cfg := (match l.pend with | some c => present c l.cfg | none => l.cfg), pend := none
    stale := 0, transparent := false, staleCause := false, latchCount := s.ft.frameCount, flips := satInc 32 l.flips })
    (condOff 0x0210 n s)
  applySigs n s

/-- A layer in BEAM that does not flip (R138). -/
def repeatLayer (n : Nat) (s : State) : State :=
  if s.pwr.mode = .beam then modLayer n (fun l => { l with stale := satInc 16 l.stale, repeats := satInc 32 l.repeats }) s else s

/-- The stale policy of a layer, judged on its counter and the settings in force (R139, R146). -/
def judgeStale (n : Nat) (s : State) : State :=
  let l := layerOf s n
  let c := l.cfg
  let due := decide (c.staleN ≤ l.stale)
  let dark := c.policy = 1 && due
  let cause := c.policy = 2 && due
  let s := modLayer n (fun l => { l with transparent := dark, staleCause := cause }) s
  let s := if dark && !l.transparent then noteF 0x0211 n l.stale c.staleN s else s
  if cause then
    let s := if s.flt.conds.any (fun k => k.code = 0x0210 && k.unit = n && k.level ≠ c.faultLevel) then condOff 0x0210 n s else s
    condOn n { code := 0x0210, level := c.faultLevel, p0 := n, p1 := l.stale, p2 := c.staleN, p3 := s.ft.frameCount } s
  else condOff 0x0210 n s

/-- Level and code of the event that the stale policy of a layer raises (R139). -/
def staleRank (s : State) (n : Nat) : Nat × Nat :=
  let c := (layerOf s n).cfg
  if c.policy = 2 then (c.faultLevel, 0x0210) else (0, 0x0211)

/-- The flips and the stale policies of a compose latch (R141); what the policies raise on its clock goes by level (R328). -/
def latchFlips (s : State) : State :=
  let (flip, s) := decideFlips s
  let on := (List.range 6).filter (fun n => (layerOf s n).enLatched)
  let s := on.foldl (fun s n => if flip.testBit n then flipLayer n s else repeatLayer n s) s
  (ranked (staleRank s) on).foldl (fun s n => judgeStale n s) s

/-- `swap_committed_tables` of R141, the coefficient tables among them (R163). -/
def latchTables (s : State) : State :=
  { s with cmp := { s.cmp with tables := s.cmp.tables.map swapTable }, scl := { s.scl with tables := s.scl.tables.map swapTable } }

end Sys2Proof.Machine
end

