-- ==== Sys2Proof/Machine/Pixels.lean ====
section
/-! DEFINITION. From layer pixel to composed code: expansion, scaling, look-up tables, blending, the pattern layer (R32, R123, R127 to R130,
R158 to R160, R167). -/

namespace Sys2Proof.Machine

/-! ### Source pixels (R123, R124, R167) -/

/-- The word at a byte address reaches a cluster's port poisoned: it is in error, or the bank is not the port's to read (R167, R295). -/
def poisoned (s : State) (port addr : Nat) : Bool :=
  s.mem.errWords.contains (physOf s addr / 8) || !mayRead (bankOf s (bankAt s addr)).use port

/-- Luminance and alpha of a stored pixel (R123); a poisoned word gives 0 and 0 (R167). -/
def srcPixel (s : State) (port : Nat) (y : LayerSnap) (x row : Nat) : Nat × Nat :=
  let c := y.cfg
  let a := y.addr + row * c.stride + x * formatBits c.format / 8
  if poisoned s port a then (0, 0)
  else
    let b (k : Nat) : Nat := leVal (storeBytes s a k)
    match c.format with
    | 0 => (b 2, 255)
    | 2 => (b 1 * 257, b 2 / 256)
    | 3 =>
      let i := if x % 2 = 0 then b 1 % 16 else b 1 / 16
      let t := 7 + y.slot
      let e := (entryOf (lutReset t) (s.cmp.tables.getD t {}).front i).toNat
      (e % 65536, e / 65536 % 256)
    | _ => (b 1 * 257, 255)

/-! ### Scaling (R159, R160) -/

/-- Source position of a destination coordinate: whole part and phase (R159). -/
def srcPos (x src dst : Nat) : Int × Nat :=
  let n : Int := (2 * x + 1) * src - dst
  let d : Int := 2 * dst
  let i := n / d
  let p := (128 * (n - i * d) + d) / (2 * d)
  if p = 64 then (i + 1, 0) else (i, p.toNat)

/-- The source coordinates that taps read, from `back` before the whole part on; beyond the edge the last one counts (R159). -/
def tapCoords (i : Int) (back taps size : Nat) : List Nat :=
  (List.range taps).map (fun j => (clampI 0 ((size : Int) - 1) (i - back + j)).toNat)

/-- Taps of a phase of a coefficient table's front copy. -/
def tapsOf (s : State) (t p : Nat) : List Int :=
  (List.range (tapCount t)).map (fun j => entryOf (coefReset t) (s.scl.tables.getD t {}).front (p * tapCount t + j))

/-- A filter sum, rounded by 128 and shifted by 8 toward minus infinity (R160). -/
def filterSum (taps vals : List Int) : Int := ((taps.zip vals).foldl (fun a c => a + c.1 * c.2) 0 + 128) / 256

/-- One channel filtered horizontally, then vertically, with its clamps (R160). -/
def filterChannel (h v : List Int) (rows : List (List Int)) (lo hi top : Int) : Nat :=
  (clampI 0 top (filterSum v (rows.map (fun r => clampI lo hi (filterSum h r))))).toNat

/-- Luminance and alpha of a layer at a pixel of its destination rectangle, scaled (R127 steps 1 and 2). -/
def scaledPixel (s : State) (port : Nat) (y : LayerSnap) (x row : Nat) : Nat × Nat :=
  let c := y.cfg
  let (ix, px) := srcPos x c.srcW c.dstW
  let (iy, py) := srcPos row c.srcH c.dstH
  let h := tapsOf s (2 * c.coeffSet) px
  let v := tapsOf s (2 * c.coeffSet + 1) py
  let cols := tapCoords ix 3 8 c.srcW
  let rows := (tapCoords iy 2 6 c.srcH).map (fun r => cols.map (fun q => srcPixel s port y q r))
  (filterChannel h v (rows.map (fun r => r.map (fun t => (t.1 : Int)))) (-65536) 131071 65535,
   filterChannel h v (rows.map (fun r => r.map (fun t => (t.2 : Int)))) (-256) 511 255)

/-! ### Look-up tables and blending (R128, R129) -/

/-- A code through a LUT whose entries lie `step` codes apart (R128): 64 before blending, 16 after. -/
def lutCode (e : Nat → Int) (size step x : Nat) : Nat :=
  let knot (i : Nat) : Int := if size ≤ i then 65536 else e i
  let i := x / step
  let f : Int := (x % step : Nat)
  (clampI 0 65535 (knot i + ((knot (i + 1) - knot i) * f + step / 2) / step)).toNat

/-- A code through a table's front copy. -/
def tableCode (s : State) (t step x : Nat) : Nat :=
  lutCode (entryOf (lutReset t) (s.cmp.tables.getD t {}).front) (lutSize t) step x

/-- The new code of a blend mode (R129). -/
def blendCode (mode b l a : Nat) : Nat :=
  let mix (r : Nat) : Nat := (r * a + b * (255 - a) + 127) / 255
  match mode with
  | 0 => l
  | 1 => mix l
  | 2 => mix (min 65535 (b + l))
  | 3 => mix ((b * l + 32767) / 65535)
  | 4 => mix (max b l)
  | _ => mix (min b l)

/-- A pixel lies in a layer's destination rectangle. -/
def inDst (c : LayerCfg) (p : Nat) : Bool :=
  decide (c.dstX ≤ pixCol p) && decide (pixCol p < c.dstX + c.dstW) && decide (c.dstY ≤ pixRow p) && decide (pixRow p < c.dstY + c.dstH)

/-- One layer blended onto the code built up so far (R127 steps 1 to 5). -/
def blendLayer (s : State) (port p b : Nat) (y : LayerSnap) : Nat :=
  let c := y.cfg
  if !inDst c p then b
  else
    let (l, a) := scaledPixel s port y (pixCol p - c.dstX) (pixRow p - c.dstY)
    let l := if c.preBypass then l else tableCode s y.slot 64 l
    blendCode c.blend b l ((a * c.galpha + 127) / 255)

/-- Which pattern area a compose shows (R33). -/
def patternOf (s : State) : Content → Option Nat
  | .pilot => s.nvm.pilotArea
  | .belay => s.nvm.belayArea
  | _ => none

/-- The code of a pixel of a stored pattern in the store: the pattern layer (R32, R366); a poisoned word gives 0. -/
def patternCode (s : State) (port area p : Nat) : Nat :=
  let base := patternBase area
  let a := base + 48 + p / 2
  if poisoned s port a then 0
  else
    let v := leVal (storeBytes s a 1)
    let i := if p % 2 = 0 then v % 16 else v / 16
    leVal (storeBytes s (base + 16 + 2 * i) 2)

/-- The composed code of a pixel (R127, R130, R32). -/
def composedCode (s : State) (port p : Nat) : Nat :=
  let k := s.scl.comp
  match k.content with
  | .layers =>
    let b := k.layers.foldl (fun b y => blendLayer s port p b y) 0
    if k.postBypass then b else tableCode s 6 16 b
  | c => match patternOf s c with
    | some area => patternCode s port area p
    | none => 0

/-! ### Passes and their cost (R158, R168) -/

/-- A layer's destination rectangle overlaps a tile's area, with `h` pixels of halo. -/
def touches (c : LayerCfg) (t h : Nat) : Bool :=
  let x := 48 * (t % 30)
  let y := 48 * (t / 30)
  decide (c.dstX < x + 48 + h) && decide (x < c.dstX + c.dstW + h) && decide (c.dstY < y + 48 + h) && decide (y < c.dstY + c.dstH + h)

/-- Lowest and highest source coordinate that a stretch of destination coordinates reads. -/
def srcSpan (first last src dst back ahead : Nat) : Nat × Nat :=
  let top : Int := (src : Int) - 1
  ((clampI 0 top ((srcPos first src dst).1 - back)).toNat, (clampI 0 top ((srcPos last src dst).1 + ahead)).toNat)

/-- 64-bit words that a pass over a tile fetches, F (R168). A line's loaded span is that of the 50-pixel row in every tile, as the
rule's own numbers have it (DEDUCED, log entry 113). -/
def fetchWords (c : LayerCfg) (t h : Nat) : Nat :=
  let x := 48 * (t % 30)
  let y := 48 * (t / 30)
  let x0 := max c.dstX (x - 1) - c.dstX
  let x1 := min (c.dstX + c.dstW) (x + 49) - 1 - c.dstX
  let y0 := max c.dstY (y - h) - c.dstY
  let y1 := min (c.dstY + c.dstH) (y + 48 + h) - 1 - c.dstY
  let (a, b) := srcSpan x0 x1 c.srcW c.dstW 3 4
  let (r, q) := srcSpan y0 y1 c.srcH c.dstH 2 3
  let bpp := formatBits c.format
  (q + 1 - r) * cdiv (cdiv ((b + 1) * bpp) 8 - a * bpp / 8) 8

/-- Compose clocks of each pass of a tile, store waits apart (R158, R168). -/
def passClocksOf (k : Compose) (t : Nat) : List Nat :=
  let halo := k.halo.contains t
  let c := if halo then 2500 else 2304
  let h := if halo then 1 else 0
  match k.content with
  | .layers =>
    let l := k.layers.filter (fun y => touches y.cfg t h)
    if l.isEmpty then [c] else l.map (fun y => max c (fetchWords y.cfg t h))
  | _ => [c]

/-- Number of passes of a tile and the compose clocks spent on them, store waits apart (R158, R168). -/
def tileWork (k : Compose) (t : Nat) : Nat × Nat :=
  let l := passClocksOf k t
  (l.length, l.foldl (· + ·) 0)

end Sys2Proof.Machine
end

