-- ==== Sys2Proof/Machine/Engines.lean ====
section
/-! DEFINITION. The lamplighter engines: dealing, stealing, the tiles they retire, readback, and the mapper-flush point
(R85, R108, R165 to R172, R183). -/

namespace Sys2Proof.Machine

/-- The compose changes. -/
def modComp (f : Compose → Compose) (s : State) : State := { s with scl := { s.scl with comp := f s.scl.comp } }

/-- An engine. -/
def engOf (s : State) (e : Nat) : Engine := s.scl.engines.getD e {}

/-- An engine changes. -/
def modEng (e : Nat) (f : Engine → Engine) (s : State) : State :=
  { s with scl := { s.scl with engines := modNth s.scl.engines e f } }

/-- A compose is in progress: in a lit mode, or the first one of a KINDLE (R45, R186). -/
def composing (s : State) : Bool := awake s && s.scl.comp.running && (litMode s.pwr.mode || s.pwr.mode = .kindle)

/-! ### Dealing and stealing (R165, R166) -/

/-- Port of the cluster that a tile is dealt to (R165). -/
def tilePort (t : Nat) : Nat := 4 * (t % 30) / 5 / 6

/-- The tiles dealt to an engine: its columns ascending, each from top to bottom (R165). -/
def dealt (e : Nat) : List Nat :=
  ((List.range 30).filter (fun x => 4 * x / 5 = e)).flatMap (fun x => (List.range 15).map (fun y => 30 * y + x))

/-- Every engine takes its queue and starts (R165). -/
def dealTiles (s : State) : State :=
  { s with scl := { s.scl with engines := (List.range 24).map (fun e => { engOf s e with queue := dealt e, tile := none, redo := [], idle := false, cur := {} }) } }

/-- The engine with the most tiles among some; ties go to the lowest number; `none` where no queue holds a tile (R166). -/
def fullest (s : State) (l : List Nat) : Option Nat :=
  let best := l.foldl (fun b e => if (engOf s b).queue.length < (engOf s e).queue.length then e else b) (l.headD 0)
  if (engOf s best).queue.isEmpty then none else some best

/-- An engine takes a tile from the tail of another's queue. -/
def steal (e victim : Nat) (s : State) : State :=
  let t := (engOf s victim).queue.getLast?
  let s := modEng victim (fun k => { k with queue := k.queue.dropLast }) s
  modEng e (fun k => { k with tile := t, stolen := true }) s

/-- What a steal request in a range of engines gets (R166). A request that was put to a queue before other requests were served keeps to
it: it fails where that queue is found empty when its turn comes. Any other is put to the fullest queue of the range. -/
def stealFrom (s : State) (range : List Nat) (asked : Option Nat) : Option Nat :=
  match asked.filter (fun v => range.contains v) with
  | some v => if (engOf s v).queue.isEmpty then none else some v
  | none => fullest s range

/-- The next tile of an engine (R166): its own head, a steal within its cluster, a steal across clusters, or none: it is idle. `near`
and `far` name the queues to which its requests were put where other requests were served before its turn. -/
def nextTile (e : Nat) (near far : Option Nat) (s : State) : State :=
  let k := s.scl.comp
  let mine := (List.range 24).filter (fun i => i / 6 = e / 6 && i ≠ e)
  let others := (List.range 24).filter (fun i => i / 6 ≠ e / 6)
  match (engOf s e).queue with
  | t :: q => modEng e (fun k => { k with queue := q, tile := some t, stolen := false }) s
  | [] =>
    match (if k.stealEn then stealFrom s mine near else none), (if k.stealEn && k.xstealEn then stealFrom s others far else none) with
    | some v, _ => steal e v (modComp (fun k => { k with stealL := k.stealL + 1 }) s)
    | none, some v => steal e v (modComp (fun k => { k with stealR := k.stealR + 1 }) s)
    | none, none => modEng e (fun k => { k with idle := true }) s

/-- ENGINE_NEXT_TILE (R166) -/
def execEngineNextTile (e : Nat) (near far : Option Nat) (s : State) : Res :=
  guarded (e < 24) (if composing s && !(engOf s e).idle && (engOf s e).tile.isNone then nextTile e near far s else s)

/-! ### A tile retires (R82 to R94, R108, R167) -/

/-- The composed codes of a tile, row by row. -/
def tileCodes (s : State) (port t : Nat) : List Nat := (List.range 2304).map (fun k => composedCode s port (tilePixel t k))

/-- The composed code of any pixel while a tile is mapped: the tile's own codes, or those of its halo (R85). -/
def codeAt (s : State) (port t : Nat) (codes : List Nat) (p : Nat) : Nat :=
  if tileOf p = t then codes.getD (posInTile p) 0 else composedCode s port p

/-- Block gain of a pixel as the compose uses it (R89). -/
def gainAt (s : State) (p : Nat) : Nat := if s.scl.comp.wearEn then sget s.map.gainFront (blockOf p) else 0x8000

/-- The mapped words of a tile, row by row. -/
def tileMapped (s : State) (port t : Nat) (codes : List Nat) : List Mapped :=
  let k := s.scl.comp
  (List.range 2304).map (fun i =>
    let p := tilePixel t i
    mapPixel (codeAt s port t codes) k.defects.contains k.liftEn k.gain (gainAt s p) k.rep p)

/-- The drive word that the mapper would write for one pixel of the compose that has begun. -/
def pixelWord (s : State) (p : Nat) : Nat :=
  let k := s.scl.comp
  let port := tilePort (tileOf p)
  (mapPixel (composedCode s port) k.defects.contains k.liftEn k.gain (gainAt s p) k.rep p).word

/-- A compose latch has the vigil-probe word written for a pixel (R108): U = 64, outside the dark-protected regions, and its drive word
would be span 0 at WIDTH 1 at 240 Hz. -/
def probesPixel (s : State) (p : Nat) : Bool :=
  let k := s.scl.comp
  k.rep = 8 && sget s.diag.unver p = 64 && !k.dpr.any (fun r => inRect r p) &&
    wSpan (pixelWord s p) = 0 && wWidth (pixelWord s p) = 1

/-- The probes of a compose are chosen at its latch, and the U of their pixels is 0 from then on, whether or not the frame is shown
(R108, R122). -/
def chooseProbes (s : State) : State :=
  let probes := (sfind pixels (· = 64) s.diag.unver).filter (probesPixel s)
  { s with diag := { s.diag with
      unver := probes.foldl (fun u p => sset u p 0) s.diag.unver, probed := probes, vigilLast := probes.length
      vigilTotal := satAdd 32 s.diag.vigilTotal probes.length } }

/-- The statistics of a compose take one pixel: what the mapper made of it and the word written (R97). -/
def countPixel (st : MapStats) (c : Mapped × Nat) : MapStats :=
  let (m, w) := c
  let one (b : Bool) : Nat := if b then 1 else 0
  let on (k : Nat) : Nat := one (wWidth w ≠ 0 && wSpan w = k)
  { st with
    clamped := st.clamped + one m.clamped, floored := st.floored + one m.floored, lifted := st.lifted + one m.lifted
    span0 := st.span0 + on 0, span1 := st.span1 + on 1, span2 := st.span2 + on 2, span3 := st.span3 + on 3
    gathered := st.gathered + one (wGather w ≠ 1) }

/-- Passes begun in a tile that an ENGINE_RESET abandoned in pass `p`, counted from 0, and the clocks spent on them (R172, R332); how far
the pass in progress had come is a free value. -/
def abandoned (l : List Nat) (p : Nat) (s : State) : (Nat × Nat) × State :=
  let p := min p (l.length - 1)
  let (x, s) := takeFree s
  ((p + 1, (l.take p).foldl (· + ·) 0 + x % (l.getD p 0 + 1)), s)

/-- The abandoned passes of an engine's tile count among its passes and their clocks (R172; DESIGN CHOICE, log entry 114). -/
def countAbandoned (e t : Nat) (s : State) : State :=
  let l := passClocksOf s.scl.comp t
  let add (s : State) (p : Nat) : State :=
    let ((n, busy), s) := abandoned l p s
    modComp (fun k => { k with passes := k.passes + n }) (modEng e (fun g => { g with cur := { g.cur with busy := satAdd 24 g.cur.busy busy } }) s)
  modEng e (fun g => { g with redo := [] }) ((engOf s e).redo.foldl add s)

/-- A tile is composed and mapped; its words enter the shadow registers, and it retires (R66, R82, R167, R172). -/
def retireTile (e t clocks stall : Nat) (s : State) : State :=
  let k := s.scl.comp
  let port := e / 6
  let codes := tileCodes s port t
  let mapped := tileMapped s port t codes
  let words := ((List.range 2304).zip mapped).map (fun c => if s.diag.probed.contains (tilePixel t c.1) then probeWord else c.2.word)
  let stats := (mapped.zip words).foldl countPixel s.map.cur
  let stats := { stats with
    maxGw := (List.range 2304).foldl (fun g i => max g (gainAt s (tilePixel t i))) stats.maxGw }
  let (passes, busy) := tileWork k t
  let retired := insertNat t k.retired
  let s := { s with
    arr := { s.arr with
      shadow := planePut s.arr.shadow t words, sumShadow := addTile t words s.arr.trim s.arr.dis s.arr.sumShadow }
    map := { s.map with cur := stats } }
  let s := modEng e (fun g => { g with
    tile := none, stolen := false, cur := { g.cur with
      tiles := g.cur.tiles + 1, stolen := g.cur.stolen + (if g.stolen then 1 else 0), busy := satAdd 24 g.cur.busy busy
      stall := satAdd 24 g.cur.stall stall } }) s
  modComp (fun k => { k with
    retired, codes := planePut k.codes t codes, passes := k.passes + passes
    clocks := if retired.length = 450 then clocks else k.clocks }) s

/-- TILE_RETIRED (R82 to R94, R167): the engine's tile; its port's words come as the store holds them. -/
def execTileRetired (e clocks stall : Nat) (s : State) : Res :=
  guarded (e < 24) (match (engOf s e).tile with
    | some t => if composing s then retireTile e t clocks stall (countAbandoned e t s) else s
    | none => s)

/-- SIG_READBACK_TILE (R183): the words of a retired tile as they read back. -/
def execSigReadbackTile (tile : Nat) (diff : List (Nat × Nat)) (s : State) : Res :=
  guarded (decide (tile < 450) && diff.all (fun c => decide (c.1 < pixelBound) && decide (c.2 < 2 ^ 20))) (
    let k := s.scl.comp
    if !awake s || !k.retired.contains tile || k.readDone.contains tile || !k.gus then s
    else
      let words := (List.range 2304).map (fun i =>
        match diff.find? (fun c => c.1 = tilePixel tile i) with
        | some c => c.2
        | none => planeGet s.arr.shadow (tilePixel tile i))
      modComp (fun k => { k with readDone := insertNat tile k.readDone, readback := planePut k.readback tile words }) s)

/-! ### The mapper-flush point (R70, R96, R169, R170, R172) -/

/-- The work that an engine has put into the tile it leaves unfinished at the flush point counts as well (R172): at most what the tile
takes. -/
def countPartial (s : State) (x : PartTile) : State :=
  match (engOf s x.engine).tile with
  | none => s
  | some t =>
    let (passes, busy) := tileWork s.scl.comp t
    let s := countAbandoned x.engine t s
    let s := modEng x.engine (fun g => { g with cur := { g.cur with
      busy := satAdd 24 g.cur.busy (min x.busy busy), stall := satAdd 24 g.cur.stall x.stall } }) s
    modComp (fun k => { k with passes := k.passes + min x.passes passes }) s

/-- The engines' statistics are shown; the engines stop. -/
def stopEngines (s : State) : State :=
  { s with scl := { s.scl with engines := s.scl.engines.map (fun k =>
      { k with shown := k.cur, queue := [], tile := none, stolen := false, idle := true }) } }

/-- Statistics of the compose at its mapper-flush point (R172). -/
def flushStats (ok : Bool) (clocks : Nat) (outMax : List Nat) (s : State) : State :=
  let k := s.scl.comp
  let time := (if ok then k.clocks else clocks) % 2 ^ 24
  { s with scl := { s.scl with
    tilesRetired := k.retired.length, composeTime := time, composeMax := if ok then max s.scl.composeMax time else s.scl.composeMax
    stealsLocal := min k.stealL 65535, stealsRemote := min k.stealR 65535, passes := min k.passes 4095
    outMax := outMax.map (min 256), comp := { k with running := false, flushed := true, ok } } }

/-- All tiles have retired: the mapper's statistics are shown, MAP_CLAMP where pixels are clamped for the first time (R96, R97). -/
def flushOk (s : State) : State :=
  let was := s.map.shown.clamped
  let st := s.map.cur
  let s := { s with map := { s.map with shown := st, haloTiles := s.scl.comp.halo.length } }
  if was = 0 && st.clamped ≠ 0 then noteF 0x0604 st.clamped s.scl.comp.gain st.maxGw s else s

/-- A compose miss (R169, R170). -/
def flushMiss (s : State) : State :=
  let run := min (s.scl.missRun + 1) 3
  let n := s.scl.comp.retired.length
  let s := { s with scl := { s.scl with misses := satInc 32 s.scl.misses, missRun := run } }
  let s := if run = 3 then condOn 0 (ev 0x0302 n s.pwr.plevel s.ft.effLead s.ft.frameCount) s else s
  noteF 0x0301 n run s.scl.misses s

/-- MAPPER_FLUSH_POINT (R169) -/
def execMapperFlushPoint (clocks : Nat) (outMax : List Nat) (part : List PartTile) (s : State) : Res :=
  guarded (outMax.length = 4 && part.all (fun x => decide (x.engine < 24))) (
    if !composing s then s
    else
      let ok := s.scl.comp.retired.length = 450
      let s := stopEngines (flushStats ok clocks outMax (part.foldl countPartial s))
      if ok then flushOk s else flushMiss s)

end Sys2Proof.Machine
end

