-- ==== Sys2Proof/Machine/Ftimer.lean ====
section
/-! DEFINITION. The frame timer: lock sources, reference instants, lock, holdover, trim and compose lead (R14 to R23, R30, R45). -/

namespace Sys2Proof.Machine

/-- The frame timer changes. -/
def modFt (f : Ftimer → Ftimer) (s : State) : State := { s with ft := f s.ft }

/-- A lock source takes effect: a fresh lock attempt, which records nothing (R19, R20, R30). -/
def switchSrc (src : Nat) (s : State) : State :=
  modFt (fun f => { f with
    activeSrc := src, locked := false, holdover := false, goodRun := 0, badRun := 0, hadRef := false, growing := false }) s

/-- The timer starts its first frame (R18, R45); no frame latch has come, so the OFFSET written is the one in force (DEDUCED, log
entry 50). -/
def hardStart (s : State) : State :=
  modFt (fun f => { f with running := true, trim := 0, phaseErr := 0, growing := false, ofsInForce := f.offset }) s

/-- The phase error of a reference instant, in PWM clocks: the nearest boundary minus the instant (log entry 50), for an instant given
in clocks of the frame timer after its last boundary (R14, R20). -/
def phaseError (rate : Nat) (instant : Int) : Int :=
  let n : Int := frameClocks rate
  let r := instant % n
  if 2 * r ≤ n then -r else n - r

/-- The next reference instant starts the timer directly: KINDLE, not a re-kindle, and none has been seen (R18, R45). -/
def startsHard (s : State) : Bool := s.pwr.mode = .kindle && s.pwr.flavor ≠ .rekindle && !s.pwr.workDone && !s.ft.hadRef

/-- Lock follows the phase error of a reference instant (R19): what the runs are, and whether FRAME_LOCK_LOST is due. A run of frames is
counted by its reference instants: a frame without one neither breaks nor advances it (DESIGN CHOICE, log entry 74). -/
def lockStep (err : Int) (f : Ftimer) : Ftimer × Bool :=
  if err.natAbs ≤ 32 then
    ({ f with goodRun := min (f.goodRun + 1) 8, badRun := 0, locked := f.locked || decide (8 ≤ f.goodRun + 1) }, false)
  else if 160 < err.natAbs then
    let lost := f.locked && decide (4 ≤ f.badRun + 1)
    ({ f with goodRun := 0, badRun := min (f.badRun + 1) 4, locked := f.locked && !lost }, lost)
  else ({ f with goodRun := 0, badRun := 0 }, false)

/-- A reference instant of the source in force, with its phase error (R16 to R20). -/
def reference (err : Int) (s : State) : State :=
  if startsHard s then modFt (fun f => { f with hadRef := true }) (hardStart s)
  else if !s.ft.running then s
  else
    let e := clampI (-32767) 32767 err
    let (f, lost) := lockStep err { s.ft with
      hadRef := true, holdover := false, growing := s.ft.hadRef && decide (s.ft.phaseErr.natAbs < e.natAbs), phaseErr := e }
    let s := { s with ft := f }
    if lost then raiseF 0x0F01 (twos 32 e) f.activeSrc (twos 32 f.trim) s else s

/-- The reference instant of an edge of FSYNC_IN that is seen `count` clocks after the timer's last boundary: the edge is taken as
arrived 2 clocks before, and OFFSET is added (R13, R16, R26). -/
def fsyncInstant (count : Nat) (f : Ftimer) : Int := count - 2 + sext 16 f.ofsInForce

/-- FSYNC_IN_EDGE (R13, R16, R18 to R20, R44): an edge counts while FSYNC_IN is the source in force, once Limral has been ready; a
re-kindle keeps the timer. -/
def execFsyncInEdge (count : Nat) (s : State) : Res :=
  .next (if lanesUp s && s.ft.activeSrc = 1 then reference (phaseError s.ft.rateInForce (fsyncInstant count s.ft)) s else s)

/-- HOLDOVER_ENTRY (R20): no reference instant has come within 1.5 frame periods of the expected one. -/
def enterHoldover (s : State) : State :=
  let s := modFt (fun f => { f with holdover := true, locked := false, goodRun := 0, badRun := 0 }) s
  raiseF 0x0F02 s.ft.activeSrc (twos 32 s.ft.trim) (if s.pwr.mode = .kindle then 1 else 0) s

/-- HOLDOVER_ENTRY (R20) -/
def execHoldoverEntry (s : State) : Res :=
  .next (if awake s && s.ft.running && s.ft.activeSrc ≠ 0 && !s.ft.holdover then enterHoldover s else s)

/-- The trim after a scan-cycle boundary (R16, R18, R20): OWN brings it to 0, holdover freezes it, a reference moves it by the loop's
step, which the manual does not give; every step is at most 100 ppm, the trim at most 20,000. Until the first reference instant after a
change of source or rate the trim is held (DESIGN CHOICE, log entry 105). -/
def nextTrim (f : Ftimer) (free : Nat) : Int :=
  let step :=
    if f.activeSrc = 0 then -f.trim
    else if f.holdover || !f.hadRef then 0
    else Config.trimStep f.phaseErr f.trim free
  clampI (-20000) 20000 (f.trim + clampI (-100) 100 step)

/-- SCAN_CYCLE_START (R18, R21). The phase error is still growing when the last reference instant's is larger in size than the one
before it (DESIGN CHOICE, log entry 75). -/
def execScanCycleStart (s : State) : Res :=
  .next (
    if !awake s || !s.ft.running then s
    else
      let trim := nextTrim s.ft s.free
      let atLimit := trim.natAbs = 20000
      let set := atLimit && s.ft.growing && !s.ft.trimLimit
      let s := { modFt (fun f => { f with trim, trimLimit := atLimit && (f.trimLimit || set) }) s with free := s.free + 1 }
      if set then noteF 0x0F03 (twos 32 trim) (twos 32 s.ft.phaseErr) s.ft.activeSrc s else s)

/-- The compose latch takes the lead that a frame latch has passed since it was written (R23). -/
def latchLead (s : State) : State :=
  modFt (fun f =>
    let l := min (max f.leadArmed 500) (maxLead f.rateInForce)
    { f with effLead := l, leadClamped := decide (l ≠ f.leadArmed) }) s

/-- The frame latch takes the timer settings (R23, R26, R30); a change of RATE or LOCK_SRC starts a fresh lock attempt. -/
def latchTimer (s : State) : State :=
  let s := if s.ft.lockSrc ≠ s.ft.activeSrc || s.ft.rate ≠ s.ft.rateInForce then switchSrc s.ft.lockSrc s else s
  modFt (fun f => { f with rateInForce := f.rate, leadArmed := f.leadUs, ofsInForce := f.offset }) s

/-- The timer at the end of KINDLE work, when a source other than OWN has given no reference instant (R45). -/
def startWithoutReference (s : State) : State :=
  if s.ft.activeSrc = 0 || s.ft.hadRef || s.pwr.flavor = .rekindle then s
  else enterHoldover (hardStart s)

end Sys2Proof.Machine
end

