-- ==== Sys2Proof/Machine/Modes.lean ====
section
/-! DEFINITION. The choice of a mode at a compose latch, SET_MODE, host timeout, the BEAM wait and the end of blanking
(R34 to R42, R48, R437). -/

namespace Sys2Proof.Machine

/-! ### The choice at a compose latch (R35 to R37) -/

/-- Some enabled layer has a front buffer or a ready back buffer (R37). -/
def anyPicture (s : State) : Bool :=
  s.cmp.layers.any (fun l => l.enLatched && (l.hasFront || l.back = .ready))

/-- The conditions of R37 beside the request: a trained host lane and a picture. -/
def beamReady (s : State) : Bool := hrxTrained s ≠ 0 && anyPicture s

/-- A SET_MODE with this target is pending. -/
def pendFor (m : Mode) (s : State) : Bool := s.pwr.pend.any (·.target = m)

/-- A pending BEAM may be entered: the conditions of R37, no PILOT trigger. -/
def mayBeam (s : State) : Bool := pendFor .beam s && !pilotTrigger s && beamReady s

/-- Entry cause of a PILOT trigger: host timeout, stale layer, or another event (R50), in this order where several stand, after all
lanes down and before a SET_MODE (DESIGN CHOICE, log entry 104). -/
def pilotCause (s : State) : Nat :=
  if 3 ≤ (classOf s.flt 0x0D).level then 7 else if 3 ≤ (classOf s.flt 2).level then 8 else 9

/-- The mode that a compose latch aims at, with its cause; a mode committed at an earlier latch counts as the one in force (R35, R36).
A device in BELAY whose committed BEAM has yet to flip stays in BELAY where BEAM would be left for PILOT (R36, R39). -/
def aim (s : State) : Mode × Nat :=
  let (m, c) := s.pwr.next.getD (s.pwr.mode, 4)
  match m with
  | .beam =>
    if belayTrigger s then (.belay, 10)
    else if s.pwr.mode = .belay && (allLanesDown s || pilotTrigger s) then (.belay, c)
    else if allLanesDown s then (.pilot, 6)
    else if pilotTrigger s then (.pilot, pilotCause s)
    else if pendFor .pilot s then (.pilot, 4) else (m, c)
  | .pilot => if belayTrigger s then (.belay, 10) else if mayBeam s then (.beam, 4) else (m, c)
  | .belay =>
    if belayTrigger s then (m, c)
    else if pendFor .pilot s then (.pilot, 4) else if mayBeam s then (.beam, 4) else (m, c)
  | .dormant | .kindle | .snuffed => (m, c)

/-- A pending SET_MODE BEAM is committed: a compose latch has met its conditions (R37). -/
def beamCommitted (s : State) : Bool := s.pwr.pend.any (fun p => p.target = .beam && p.committed)

/-- A compose latch that aims at BEAM commits the request that waits for it, for good (R37). -/
def commitBeam (m : Mode) (p : PendMode) : PendMode := { p with committed := p.committed || (m = .beam && p.target = .beam) }

/-- A compose latch decides the mode (R35 to R37). -/
def decideMode (s : State) : State :=
  let t := aim s
  { s with pwr := { s.pwr with next := if t.1 = s.pwr.mode then none else some t, pend := s.pwr.pend.map (commitBeam t.1) } }

/-- What a compose latch shows: the content of the mode that it decided (R32, R35). -/
def contentOf : Mode → Content
  | .beam => .layers
  | .pilot => .pilot
  | .belay => .belay
  | .dormant | .kindle | .snuffed => .none

/-- BEAM_WAIT_TIMEOUT (R37): a request that is committed stands. -/
def execBeamWaitTimeout (s : State) : Res :=
  .next (if awake s && pendFor .beam s && !beamCommitted s then endPending stTimeout s else s)

/-! ### Events of the mode logic -/

/-- HOST_TIMEOUT (R38, R437) -/
def execHostTimeout (s : State) : Res :=
  .next (
    if awake s && s.pwr.mode = .beam && s.pwr.hostTimeoutMs ≠ 0 then
      raiseF 0x0D01 s.pwr.hostTimeoutMs s.pwr.hostSrc (hrxTrained s) s
    else s)

/-- BLANKING_END (R48, R396) -/
def execBlankingEnd (s : State) : Res := .next (if awake s then endBlanking s else s)

/-! ### SET_MODE (R39, R41, R42) -/

/-- The mode that a TARGET byte names. -/
def targetOf : Nat → Option Mode
  | 2 => some .beam
  | 3 => some .pilot
  | 5 => some .snuffed
  | _ => none

/-- A commanded entry into SNUFFED (R42, R329): HOST_SNUFF holds the POWER class. -/
def hostSnuff (x : Src) (s : State) : State :=
  let s := noteF 0x0E04 (srcNo x) (modeCode s.pwr.mode) 0 s
  snuff 4 0x0E04 (modClass 0x0E (fun k => { k with hold := true }) s)

/-- R39: what SET_MODE refuses. -/
def modeRefused (m : Mode) (s : State) : Bool :=
  (s.pwr.mode = .belay && s.twn.state ≠ 2) ||
    (m = .beam && (s.pwr.mode = .pilot || s.pwr.mode = .belay) && pilotTrigger s)

/-- A SET_MODE that is executed ends blanking and aborts a CALIBRATE FULL (R48, R370). -/
def modeTaken (s : State) : State := endBlanking (abortCal s)

/-- SET_MODE to a target, its payload being well formed. -/
def setModeTo (m : Mode) (x : Src) (s : State) : Rep × State :=
  if entryInProgress s then rep stBusy s
  else if m = s.pwr.mode then rep stOk (endPending stSuperseded (modeTaken s))
  else if m = .snuffed then rep stOk (hostSnuff x (modeTaken s))
  else if modeRefused m s then rep stRefused s
  else accept (fun h s =>
    let s := endPending stSuperseded (modeTaken s)
    { s with pwr := { s.pwr with pend := some { target := m, handle := h, src := x } } }) s

/-- SET_MODE (R41) -/
def execSetMode (rq : Rq) (s : State) : Res :=
  let t := targetOf (field rq.payload 0 1)
  let modeOk (s : State) : Bool := !(s.pwr.mode = .snuffed && (t = some .beam || t = some .pilot))
  request rq 0x10 modeOk (lenIs 4) false (fun s =>
    match t with
    | none => rep stBadParam s
    | some m => setModeTo m rq.src s) s

end Sys2Proof.Machine
end

