-- ==== Sys2Proof/Machine/Recorder.lean ====
section
/-! DEFINITION. The event recorder: rings, scans, failures of the log memory, lifetime counts, LOG_READ and HISTO_READ (R375 to R392). -/

namespace Sys2Proof.Machine

/-- EVR_STAT.STATE (R384, R392). -/
def evrState (s : State) : Nat := if s.evr.state = 0 && !s.thm.nvmOpen then 1 else s.evr.state

/-! ### The rings (R378 to R380) -/

/-- MRAM address of a slot: main ring, or cairn region. -/
def logSlot (cairn : Bool) (i : Nat) : Nat := if cairn then 0x478000 + 32 * i else 0x380000 + 32 * i

/-- Slots of a ring. -/
def logSize (cairn : Bool) : Nat := if cairn then 1024 else 31744

/-- Bytes of a slot. -/
def slotBytes (s : State) (cairn : Bool) (i : Nat) : List Byte := mramRead s (logSlot cairn i) 32

/-- Key of a valid slot: cycles and seconds; none for a slot that is not valid. -/
def slotKey (s : State) (cairn : Bool) (i : Nat) : Option (Nat × Nat) :=
  let b := slotBytes s cairn i
  if field b 30 2 = crc16 (slice b 0 30) && !mramBad s (logSlot cairn i) 32 then some (field b 8 3, field b 4 4) else none

/-- The first key is above the second. -/
def keyAbove (a b : Nat × Nat) : Bool := decide (b.1 < a.1) || (a.1 = b.1 && decide (b.2 < a.2))

/-- The newest record of a ring (R380): the highest key, at the slot whose successor does not carry it. -/
def newestSlot (s : State) (cairn : Bool) : Option Nat :=
  let n := logSize cairn
  ((List.range n).foldl (fun (b : Option (Nat × (Nat × Nat))) i => match slotKey s cairn i with
    | none => b
    | some k =>
      if slotKey s cairn ((i + 1) % n) = some k then b
      else match b with
        | none => some (i, k)
        | some (_, m) => if keyAbove k m then some (i, k) else b) none).map (·.1)

/-- LOG_SCAN_COMPLETE (R380) -/
def execLogScanComplete (s : State) : Res :=
  .next (
    if !awake s || s.evr.state = 3 then s
    else
      let s := openReads s
      let m := newestSlot s false
      let c := newestSlot s true
      let next (o : Option Nat) (n : Nat) : Nat := match o with | some i => (i + 1) % n | none => 0
      { s with evr := { s.evr with
          scanDone := true, mainHead := m.getD 0, cairnHead := c.getD 0, mainNext := next m 31744, cairnNext := next c 1024 } })

/-! ### Failure of the log memory (R385) -/

/-- LOG_MEM_FAIL, its scar cell, its witness record, RAM_ONLY. -/
def logFailure (cairn : Bool) (addr : Nat) (f : LogFail) (s : State) : State :=
  let area := if cairn then 1 else 0
  let cause := match f with | .writeVerify => 1 | .uncorrectableRead => 2
  let e := ev 0x1002 area addr cause s.evr.written
  let r := formRec (actual s.flt e) 0 s
  let s := raise e s
  let s := beginScar 2 8 r (fun lost => le 1 area ++ le 1 cause ++ le 2 0 ++ le 4 addr ++ le 1 lost ++ List.replicate 15 0) s
  { s with evr := { s.evr with state := 2, failAddr := addr, headMain := false, headCairn := false } }

/-- The recorder may write the rings: loaded and scanned, no failure, window open (R380, R384, R385). -/
def ringsOpen (s : State) : Bool := awake s && s.evr.state = 0 && s.evr.scanDone && s.thm.nvmOpen

/-- One ring write: the other half of the 64-byte unit that holds the slot is read, and the unit is rewritten (R379). -/
def ringWrite (cairn : Bool) (slot : Nat) (r : Rec) (fail : Option LogFail) (s : State) : State :=
  let a := logSlot cairn slot
  let unit := a / 64 * 64
  let other := unit + (if a = unit then 32 else 0)
  if fail = some .uncorrectableRead || mramBad s other 32 then logFailure cairn unit .uncorrectableRead (openReads s)
  else
    let half := mramRead s other 32
    let b := if a = unit then recBytes r ++ half else half ++ recBytes r
    let s := guFeedSource 49 half s
    if fail = some .writeVerify then logFailure cairn unit .writeVerify (countUnits 1 (mramWriteBad unit b s))
    else countUnits 1 (mramWrite unit b s)

/-- The head leaves the queue once every write that it needs is done; the scar cell that it copies is then marked (R315). -/
def popHead (r : Rec) (s : State) : State :=
  if s.evr.headMain && (s.evr.headCairn || !cairnEligible r) then
    let s := { s with evr := { s.evr with queue := s.evr.queue.drop 1, headMain := false, headCairn := false, headDeferred := false } }
    match r.cell with
    | some i => markCopied i s
    | none => s
  else s

/-- A ring write that is due while the window is closed is deferred, which is counted once for each record (R318, R384). -/
def deferRing (s : State) : State :=
  if awake s && s.evr.state = 0 && s.evr.scanDone && !s.thm.nvmOpen && !s.evr.headDeferred then
    countDefers 1 { s with evr := { s.evr with headDeferred := true } }
  else s

/-- MAIN_RING_WRITE (R378, R379) -/
def execMainRingWrite (fail : Option LogFail) (s : State) : Res :=
  .next (
    match s.evr.queue with
    | [] => s
    | r :: _ =>
      if !ringsOpen s || s.evr.headMain then deferRing s
      else
        let i := s.evr.mainNext
        let t := ringWrite false i r fail s
        if t.evr.state = 2 then t
        else popHead r { t with evr := { t.evr with
          headMain := true, mainHead := i, mainNext := (i + 1) % 31744, written := satInc 32 t.evr.written } })

/-- CAIRN_WRITE (R378, R379) -/
def execCairnWrite (fail : Option LogFail) (s : State) : Res :=
  .next (
    match s.evr.queue with
    | [] => s
    | r :: _ =>
      if s.evr.headCairn || !cairnEligible r then s
      else if !ringsOpen s then deferRing s
      else
        let i := s.evr.cairnNext
        let t := ringWrite true i r fail s
        if t.evr.state = 2 then t
        else popHead r { t with evr := { t.evr with
          headCairn := true, cairnHead := i, cairnNext := (i + 1) % 1024, cairnWrites := satInc 32 t.evr.cairnWrites } })

/-- RECORDS_DROPPED (R383) -/
def execRecordsDropped (s : State) : Res :=
  let e := s.evr
  let n := e.queue.length
  let since := match e.firstDrop with | some t => decide (t + 1 ≤ s.ao.seconds) | none => false
  .next (
    if !awake s || e.dropsSum = 0 || ramOnly s || 64 ≤ n || !(n ≤ 56 || since) then s
    else
      let mask := maskOf ((List.range 18).filter (fun c => (e.drops.getD c {}).pending ≠ 0))
      let first := e.firstDrop.getD 0
      let s := { s with evr := { e with
        drops := e.drops.map (fun d => { d with pending := 0 }), dropsSum := 0, dropsPilot := 0, firstDrop := none } }
      raiseWith flagSummary (ev 0x1001 e.dropsSum mask e.dropsPilot first) s)

/-! ### Reading (R389, R390) -/

/-- Records that LOG_READ returns from a ring. -/
def ringSlots (s : State) (cairn : Bool) (head start count : Nat) : List Byte :=
  let n := logSize cairn
  (List.range count).flatMap (fun j => slotBytes s cairn ((head + 2 * n - start - j) % n))

/-- LOG_READ (R389) -/
def execLogRead (rq : Rq) (s : State) : Res :=
  let area := field rq.payload 0 1
  let count := field rq.payload 1 1
  let start := field rq.payload 4 4
  let cap := if area = 0 then 31744 else if area = 1 then 1024 else 64
  request rq 0x60 anyMode (lenIs 8) false (fun s =>
    if 2 < area || count = 0 || 31 < count || cap ≤ start then rep stBadParam s
    else if area < 2 && (!s.evr.scanDone || ramOnly s) then rep stBusy s
    else if area = 2 then
      let q := s.evr.queue.reverse
      let l := (q.drop start).take count
      repOk (le 2 q.length ++ le 1 l.length ++ le 1 0 ++ le 4 0 ++ l.flatMap recBytes) s
    else
      let cairn := area = 1
      let head := if cairn then s.evr.cairnHead else s.evr.mainHead
      let w := if cairn then s.evr.cairnWrites else s.evr.written
      let b := ringSlots s cairn head start count
      repOk (le 2 head ++ le 1 count ++ le 1 0 ++ le 4 w ++ b) (guFeedSource 49 b s)) s

/-- HISTO_READ (R390) -/
def execHistoRead (rq : Rq) (s : State) : Res :=
  let src := field rq.payload 0 1
  let count := field rq.payload 2 2
  let off := field rq.payload 4 4
  request rq 0x61 anyMode (lenIs 8) false (fun s =>
    let k := s.nvm.inForce.getD 9 3
    if 1 < src || count < 4 || 1016 < count || count % 4 ≠ 0 || off % 4 ≠ 0 || 4096 < off + count then rep stBadParam s
    else if src = 0 then repOk (slice (lifeBody s) off count) s
    else if k = 3 then rep stFailed s
    else
      let b := slice (slotBody s 9 k) off count
      repOk b (guFeedSource 49 b s)) s

/-! ### Lifetime counts (R377, R387, R388) -/

/-- Bin of a temperature in 1/8 degC: 20 bins of 10 degC from -40. -/
def tempBin (t : Int) : Nat := (clampI 0 19 ((t + 320) / 80)).toNat

/-- Predicted current of four phase sums in nA: the largest (R70). -/
def maxSum (p : Nat × Nat × Nat × Nat) : Nat := max (max p.1 p.2.1) (max p.2.2.1 p.2.2.2)

/-- That current in mA, rounded up. -/
def sumMa (p : Nat × Nat × Nat × Nat) : Nat := cdiv (maxSum p) 1000000

/-- LIFETIME_SAMPLE (R388): once each second outside DORMANT. -/
def execLifetimeSample (s : State) : Res :=
  .next (
    if !awake s then s
    else
      let l := s.evr.life
      let inc := satInc 32
      let ma := sumMa s.arr.sumActive * s.arr.gref / 256
      let lit := litMode s.pwr.mode && !s.pwr.dark
      let l := { l with
        modeS := modNth l.modeS (modeCode s.pwr.mode) inc
        tjS := modNth l.tjS (tempBin s.thm.tS) inc
        ntcS := match s.thm.ntcTemp with | some t => modNth l.ntcS (tempBin t) inc | none => l.ntcS
        currentS := if lit then modNth l.currentS (min 24 (ma / 1000)) inc else l.currentS }
      { s with evr := { s.evr with life := l, sinceS := satInc 16 s.evr.sinceS } })

/-- LIFETIME_STORE (R387): after 60 s of operation outside DORMANT since the last commit. -/
def execLifetimeStore (s : State) : Res :=
  .next (if !awake s || s.evr.state = 3 || s.evr.sinceS < 60 then s else requestStore 9 [] s)

/-- OPERATING_SECOND_TICK (R362, R377): the always-on counter runs in every mode; a store that failed its verify is due again. -/
def execOperatingSecondTick (s : State) : Res :=
  let s := { s with ao := { s.ao with seconds := satInc 32 s.ao.seconds } }
  .next (if !awake s then s
    else s.nvm.retry.foldl (fun s r => requeueStore r s) { s with nvm := { s.nvm with retry := [] } })

end Sys2Proof.Machine
end

