-- ==== Sys2Proof/Machine/Latch.lean ====
section
/-! DEFINITION. The instants of a frame before its boundary: the compose latch, GREF final, signatures final
(R35, R71, R73, R81, R140, R165, R175, R184 to R186). -/

namespace Sys2Proof.Machine

/-! ### The compose latch (R81, R85, R109, R140, R141, R165) -/

/-- Insertion by Z; layers of equal Z keep their order. -/
def insertZ (l : LayerSnap) : List LayerSnap → List LayerSnap
  | [] => [l]
  | k :: t => if l.cfg.z < k.cfg.z then l :: k :: t else k :: insertZ l t

/-- The layers that contribute to a compose, in blend order (R130, R158). -/
def layerSnaps (s : State) : List LayerSnap :=
  let on := (List.range 6).filter (fun n => let l := layerOf s n; l.enLatched && l.hasFront && !l.transparent)
  on.foldl (fun acc n =>
    let l := layerOf s n
    insertZ { slot := n, cfg := l.cfg, addr := if l.frontBuf = 0 then l.cfg.buf0 else l.cfg.buf1 } acc) []

/-- What the latch fixes for its compose; `frame` is the count that the frame will carry. -/
def snapshot (m : Mode) (frame : Nat) (s : State) : Compose :=
  let defects := s.diag.defects.map (·.pix)
  let dpr := (bitsOf s.diag.dprEn 8).map (fun n => s.diag.dpr.getD n {})
  let content := contentOf m
  { content, layers := layerSnaps s, postBypass := s.cmp.postBypassLatched, liftEn := s.map.liftEn, wearEn := s.map.wearEn
    gain := if content = .layers then s.map.gain else 0x8000, rep := repeatOf s.ft.rateInForce, defects, dpr
    halo := if s.map.liftEn then (List.range 450).filter (haloTile defects) else []
    stealEn := s.scl.stealEn, xstealEn := s.scl.xstealEn, frame, running := true, gus := true }

/-- The gains that were computed last come into use (R89). -/
def swapGains (s : State) : State :=
  match s.map.gainBack with
  | some g => { s with map := { s.map with gainFront := g, gainBack := none } }
  | none => s

/-- The compose begins: inputs held, statistics and sums cleared, engines started, signature units started (R81, R165, R175). -/
def startCompose (m : Mode) (frame : Nat) (s : State) : State :=
  let k := snapshot m frame s
  let s := { s with
    scl := { s.scl with comp := k }
    map := { s.map with cur := {} }
    diag := { s.diag with
      releaseArmed := s.diag.releaseDis.foldl (fun l p => insertNat p l) s.diag.releaseArmed, releaseDis := [] }
    arr := { s.arr with sumShadow := (0, 0, 0, 0) }
    flt := { s.flt with window4 := if s.flt.windows.contains 4 then s.flt.window4 + 1 else s.flt.window4 } }
  dealTiles (chooseProbes ((List.range 16).foldl (fun s r => guStartSource (16 + r) s) s))

/-- A compose latch: configurations, the choice of the mode, flips and stale policies, tables, and the compose that starts. -/
def composeLatch (decide : State → State) (frame : Nat) (s : State) : State :=
  let s := decide (latchConfigs (swapGains (latchLead s)))
  let s := latchTables (latchFlips s)
  startCompose (match s.pwr.next with | some n => n.1 | none => s.pwr.mode) frame s

/-- COMPOSE_LATCH (R141): in BEAM, PILOT and BELAY, until a sleep entry stops the compositor (R402). -/
def execComposeLatch (s : State) : Res :=
  .next (
    if awake s && s.ft.running && litMode s.pwr.mode && !s.pwr.composeStop && !s.scl.comp.running then
      composeLatch decideMode (wrapInc 32 s.ft.frameCount) s
    else s)

/-! ### GREF final (R71, R73) -/

/-- The next latch takes a staged set and so ends a CALIBRATE FULL (R67, R370). -/
def fullEnds (s : State) : Bool := s.nvm.calRun.any (fun r => r.full && r.stage = 2)

/-- The next latch lights the array again after a refused sleep entry (R403), unless a CALIBRATE FULL keeps it dark (R370). -/
def relightDue (s : State) : Bool := (s.pwr.relight.isSome || s.pwr.litDue) && s.pwr.biasSettled && s.scl.comp.ok && !calDark s

/-- The frame after the next boundary shows nothing: the dark conditions of R71. -/
def darkNext (s : State) : Bool :=
  match s.pwr.mode with
  | .kindle => !s.pwr.workDone
  | .snuffed | .dormant => true
  | _ => s.pwr.dark && !relightDue s && !(fullEnds s && !s.pwr.blanking)

/-- P of the frame that will be active after the boundary, in nA (R71). -/
def predicted (s : State) : Nat :=
  if darkNext s then 0
  else if s.pwr.mode = .kindle || s.scl.comp.ok then maxSum s.arr.sumShadow
  else maxSum s.arr.sumActive

/-- GREF_FINAL (R71): GREF of the next frame latch, with the P and B_eff that a BUDGET_LIMIT of that latch names (R73). -/
def execGrefFinal (s : State) : Res :=
  .next (
    if !awake s || !s.ft.running then s
    else
      let p := predicted s
      { s with arr := { s.arr with
          grefNext := grefOf p s.arr.budgetMa s.thm.f, grefP := p, grefB := s.arr.budgetMa * s.thm.f / 16 } })

/-! ### Signatures final (R182 to R186) -/

/-- A tile meets a region. -/
def tileInRegion (r : Rect) (t : Nat) : Bool :=
  decide (r.c0 ≤ 48 * (t % 30) + 47) && decide (48 * (t % 30) ≤ r.c1) && decide (r.r0 ≤ 48 * (t / 30) + 47) && decide (48 * (t / 30) ≤ r.r1)

/-- The pixels of a region in canonical order (R182), of the tiles that meet a test. -/
def regionPixels (r : Rect) (p : Nat → Bool) : List Nat :=
  ((List.range 450).filter (fun t => tileInRegion r t && p t)).flatMap (fun t =>
    ((List.range 2304).map (tilePixel t)).filter (inRect r))

/-- The bytes of a plane's values over a region, `k` bytes each (R183). -/
def regionBytes (k : Nat) (plane : List (Nat × List Nat)) (r : Rect) (p : Nat → Bool) : List Byte :=
  (regionPixels r p).flatMap (fun i => le k (planeGet plane i))

/-- Readback of every tile of a region is complete. -/
def readbackDone (k : Compose) (r : Rect) : Bool := (List.range 450).all (fun t => !tileInRegion r t || k.readDone.contains t)

/-- RESULT of an evaluation that is not MISSED (R184). -/
def sigResult (done echoFails expectFails expectMode pattern : Bool) : Nat :=
  if !done then 5
  else if echoFails && expectFails then 4
  else if echoFails then 2
  else if expectFails then 3
  else if expectMode && pattern then 7
  else 1

/-- A result counts as failing (R185). -/
def sigFails (result : Nat) : Bool := [2, 3, 4, 5].contains result

/-- A value where it is known, else a free value. -/
def knownOrFree (known : Bool) (v : Nat) (s : State) : Nat × State := if known then (v, s) else takeFree s

/-- A region's evaluation (R184, R185). -/
def evalSig (s : State) (r : Nat) : State :=
  let g := sigOf s r
  let k := s.scl.comp
  if g.cfg.mode = 0 then s
  else if !k.ok then modSig r (fun g => { g with result := 6 }) s
  else
    let c := g.cfg
    let all : Nat → Bool := fun _ => true
    let composed := crc32 (regionBytes 2 k.codes c.rect all)
    let written := crc32 (regionBytes 4 s.arr.shadow c.rect all)
    let done := readbackDone k c.rect
    let (readback, s) := knownOrFree done (crc32 (regionBytes 4 k.readback c.rect all)) s
    let res := sigResult done (readback ≠ written) (c.mode = 2 && k.content = .layers && composed ≠ c.expect) (c.mode = 2)
      (k.content = .pilot || k.content = .belay)
    let run := if sigFails res then min (g.run + 1) 31 else 0
    let cause := decide (c.thresh ≤ run)
    let s := modSig r (fun g => { g with
      composed, written, readback, result := res, run, cause, fails := if sigFails res then satInc 12 g.fails else g.fails }) s
    if cause then
      condOn r { code := 0x0401, level := c.level, p0 := r, p1 := res, p2 := if [2, 4, 5].contains res then readback else composed
                 p3 := s.chk.sigFrame } s
    else if run = 0 then condOff 0x0401 r s else s

/-- General units that snoop an evaluated region are fed its readback words (R175, R176). -/
def guRegion (s : State) (r : Nat) : State :=
  let g := sigOf s r
  if g.cfg.mode = 0 || !s.chk.gus.any (fun u => u.en && u.src = 16 + r) then s
  else guFeedSource (16 + r) (regionBytes 4 s.scl.comp.readback g.cfg.rect s.scl.comp.readDone.contains) s

/-- A unit that snoops an evaluated region captures (R176). -/
def guRegionCapture (s : State) (n : Nat) : State :=
  let g := guOf s n
  if g.en && decide (16 ≤ g.src) && decide (g.src < 32) && (sigOf s (g.src - 16)).cfg.mode ≠ 0 then guCaptureNow n s else s

/-- What is judged at signatures final: a region, or a general unit. -/
abbrev Judged := Nat ⊕ Nat

/-- Level and code of the event that a judgement may bring, and its place among those of the same code (R184, R176). -/
def judgedRank (s : State) : Judged → Nat × Nat
  | .inl r => ((sigOf s r).cfg.level, 0x40100 + r)
  | .inr n => ((guOf s n).level, 0x40200 + n)

/-- A region is evaluated, or a unit captures. -/
def judgeOne (s : State) : Judged → State
  | .inl r => evalSig s r
  | .inr n => guRegionCapture s n

/-- SIGNATURES_FINAL (R184 to R186): regions and units in descending level of their events (R328); the window of an engine reset closes at
the second one after it (R332). CHK_SIG_FRAME takes the frame also where no region is enabled (DESIGN CHOICE, log entry 34). -/
def execSignaturesFinal (s : State) : Res :=
  .next (
    let k := s.scl.comp
    if !awake s || !k.gus || !k.flushed || !(litMode s.pwr.mode || s.pwr.mode = .kindle) then s
    else
      let s := { s with chk := { s.chk with sigFrame := k.frame } }
      let s := (List.range 16).foldl guRegion s
      let all : List Judged := (List.range 16).map .inl ++ (List.range 8).map .inr
      let s := (ranked (judgedRank s) all).foldl judgeOne s
      let s := modComp (fun k => { k with gus := false }) s
      if s.flt.windows.contains 4 && decide (2 ≤ s.flt.window4) then closeWindow 4 s else s)

end Sys2Proof.Machine
end

