-- ==== Sys2Proof/Machine/Lanes.lean ====
section
/-! DEFINITION. The serial lanes: training, the ladder, the bond, relock, eye scans, test modes (R191 to R217). -/

namespace Sys2Proof.Machine

/-- What a lane does while the lanes are powered; without power it does nothing. -/
def whenLanes (s : State) (r : Res) : Res := if lanesUp s then r else .next s

/-- A lane. -/
def laneOf (s : State) (l : Nat) : Lane := s.lnk.lanes.getD l {}

/-- A lane changes. -/
def modLane (l : Nat) (f : Lane → Lane) (s : State) : State :=
  { s with lnk := { s.lnk with lanes := modNth s.lnk.lanes l f } }

/-- The lane is enabled (LNK_CTL.HRX_EN, TW_EN). -/
def laneEnabled (s : State) (l : Nat) : Bool := if l = 4 then s.lnk.twEn else s.lnk.hrxEn.testBit l

/-- Line rate in Mbit/s of a rate code (R192). -/
def lineRate : Nat → Nat
  | 0 => 1250 | 1 => 2500 | 2 => 3125 | 3 => 5000 | _ => 6250

/-- Word period in tenths of a nanosecond: 40 unit intervals (R192). -/
def wordPeriod : Nat → Nat
  | 0 => 320 | 1 => 160 | 2 => 128 | 3 => 80 | _ => 64

/-- A lane takes a new state; an eye scan of a lane that leaves TRAINED and TEST has lost it (R210). -/
def setLaneState (l : Nat) (st : LaneState) (s : State) : State :=
  let s := modLane l (fun x => { x with state := st }) s
  match s.lnk.eye with
  | some e => if e.lane = l && st ≠ .trained && st ≠ .test then { s with lnk := { s.lnk with eye := some { e with left := true } } } else s
  | none => s

/-! ### The bond (R206, R207) -/

/-- Host lanes that a formation takes: in BOND, or TRAINED at the bond rate. -/
def bondCandidates (s : State) : List Nat :=
  (List.range 4).filter (fun l => (laneOf s l).state = .bond || (laneOf s l).state = .trained)

/-- The rate whose lanes carry most; ties go to the higher rate. -/
def bestRate (s : State) (cands : List Nat) : Nat :=
  let weight (r : Nat) := (cands.filter (fun l => (laneOf s l).rate = r)).length * lineRate r
  ((List.range 5).foldl (fun (b : Nat × Nat) r => if b.2 ≤ weight r && weight r ≠ 0 then (r, weight r) else b) (7, 0)).1

/-- A CLIMB set leaves on HTX at once, with the ANCHOR set after it, unless a test pattern is sent (R206, R213). -/
def climbOut (s : State) : State := if htxOpen s then sendSets .host s else s

/-- A formation starts (R206): rate and lanes are chosen, BOND_REQ is sent; the host path is interrupted (R229). A lane that the choice
leaves out is PARKED in BOND; a lane in RELOCK is left out and loses its deskew (R207). Without a candidate no bond remains. -/
def formBond (s : State) : State :=
  let cands := bondCandidates s
  let r := bestRate s cands
  let mask := maskOf (cands.filter (fun l => (laneOf s l).rate = r))
  let s := interrupt .host s
  let upd (s : State) (l : Nat) : State :=
    let out := (laneOf s l).state = .trained && (laneOf s l).rate ≠ r
    let s := modLane l (fun x => { x with
      inBond := false, waitBond := false
      parked := (x.state = .bond || x.state = .trained) && x.rate ≠ r
      deskew := if x.state = .relock then 0 else x.deskew }) s
    if out then setLaneState l .bond s else s
  let s := (List.range 4).foldl upd s
  climbOut { s with lnk := { s.lnk with bondMask := 0, bondRate := 7, forming := mask ≠ 0, formMask := mask, formRate := r } }

/-- A lane leaves its traffic state for DETECT, LANE_DOWN, TEST or DISABLED: its path is interrupted; a bond or a formation that loses
a host lane is formed anew at once (R207, R229). -/
def leaveTraffic (l : Nat) (s : State) : State :=
  if l = 4 then
    let s := interrupt .twin s
    { s with lnk := { s.lnk with twinAgreed := 7, twinAcks := 0, twinAckSeen := false, peerBond := false } }
  else if s.lnk.bondMask.testBit l || (s.lnk.forming && s.lnk.formMask.testBit l) then formBond s
  else s

/-! ### Attempts and the ladder (R201 to R205) -/

/-- An attempt begins in DETECT; transmitters start it with negative running disparity (R193). -/
def beginAttempt (l : Nat) (s : State) : State :=
  let s := if l = 4 then modLine .twin (fun x => { x with rdPos := false }) s else s
  modLane l (fun x => { x with
    attempting := true, started := false, backoffMs := 0, anchors := 0, acks := 0, rate := 7, shared := x.ladderShared, parked := false, waitBond := false
    rdPos := false }) s

/-- The next ladder step below: rate and reference; none after the last (R203). -/
def nextStep (refMode rate : Nat) (shared : Bool) : Option (Nat × Bool) :=
  if 0 < rate then some (rate - 1, shared)
  else if refMode = 0 && !shared then some (0, true)
  else none

/-- An entry from TRAINED or RELOCK into DETECT is counted (LNK_LANEl_CNT.RETRAINS, R388). -/
def countRetrain (l : Nat) (s : State) : State :=
  if (laneOf s l).state = .trained || (laneOf s l).state = .relock then
    let s := modLane l (fun x => { x with retrains := satInc 16 x.retrains }) s
    { s with evr := { s.evr with life := { s.evr.life with retrains := modNth s.evr.life.retrains l (satInc 32) } } }
  else s

/-- What a failed attempt does to its lane (R203): counters, the ladder's step, the backoff or LANE_DOWN. -/
def lowerLane (l cause : Nat) (s : State) : State :=
  let x := laneOf s l
  let n := satInc 8 x.failN
  let fr := x.failR + 1
  let s := modLane l (fun x => { x with
    fails := satInc 16 x.fails, failN := n, failR := fr, cause, attempting := false, rate := 7, parked := false, waitBond := false
    anchors := 0, acks := 0 }) s
  let wait := min (10 * 2 ^ (min n 8 - 1)) 1000
  let detect (s : State) : State := setLaneState l .detect (modLane l (fun x => { x with backoffMs := wait }) (countRetrain l s))
  if fr < 8 then detect s
  else match nextStep x.refMode x.ladderRate x.ladderShared with
    | some (r, sh) => detect (modLane l (fun x => { x with failR := 0, ladderRate := r, ladderShared := sh, shared := sh }) s)
    | none => setLaneState l .laneDown s

/-- The events of a failed attempt (R216): ATTEMPT_FAIL, and the ladder's step or LANE_DOWN. -/
def failEvents (l cause : Nat) (s : State) : List RawEvent :=
  let x := laneOf s l
  let step := if x.failR + 1 < 8 then [] else match nextStep x.refMode x.ladderRate x.ladderShared with
    | some (r, sh) => ev 0x0102 l x.ladderRate r cause ::
        (if sh && !x.ladderShared then [ev 0x0103 l r (if s.lnk.lref then 1 else 0) 0] else [])
    | none => if l < 4 then [ev 0x0105 l (satInc 8 x.failN) cause 0] else []
  ev 0x0104 l (laneCode x.state) cause x.ladderRate :: step

/-- A lane's attempt fails (R203), on one clock with the events `also`. -/
def failLaneWith (also : List RawEvent) (l cause : Nat) (s : State) : State :=
  leaveTraffic l (raiseAll (also ++ failEvents l cause s) (lowerLane l cause s))

/-- A lane's attempt fails (R203). -/
def failLane (l cause : Nat) (s : State) : State := failLaneWith [] l cause s

/-- Lanes whose attempts fail on one clock (R328). -/
def failLanes (ls : List Nat) (cause : Nat) (s : State) : State :=
  let evs := ls.flatMap (fun l => failEvents l cause s)
  ls.foldl (fun s l => leaveTraffic l s) (raiseAll evs (ls.foldl (fun s l => lowerLane l cause s) s))

/-- An attempt starts; in shared-reference mode without a clock on LREF it fails with cause NO_REF (R197). -/
def startAttempt (l : Nat) (s : State) : State :=
  let s := beginAttempt l (setLaneState l .detect s)
  if (laneOf s l).ladderShared && !s.lnk.lref then failLane l 6 s else s

/-- A lane starts the ladder afresh at a rate, without backoff (R203, R205, R214). -/
def restartLane (l rate : Nat) (s : State) : State :=
  let rm := s.lnk.refMode
  let s := modLane l (fun x => { x with
    refMode := rm, ladderRate := rate, ladderShared := rm = 2, failN := 0, failR := 0, cause := 0, inBond := false }) (countRetrain l s)
  startAttempt l (leaveTraffic l (setLaneState l .detect s))

/-- A retrain: from TRAINED or RELOCK back to DETECT, not as a failure (R208). -/
def retrain (l : Nat) (s : State) : State :=
  startAttempt l (leaveTraffic l (setLaneState l .detect (countRetrain l s)))

/-- A lane is disabled at once (R214, R217). -/
def disableLane (l : Nat) (s : State) : State :=
  let s := modLane l (fun x => { x with attempting := false, backoffMs := 0, rate := 7, parked := false, inBond := false, waitBond := false }) s
  leaveTraffic l (setLaneState l .disabled s)

/-- A lane is enabled: it enters DETECT, or TEST if its MODE says so (R201, R211). -/
def enableLane (l : Nat) (s : State) : State :=
  if (laneOf s l).mode = 0 then restartLane l s.lnk.maxRate s
  else
    let sh := s.lnk.refMode = 2
    setLaneState l .test (modLane l (fun x => { x with rate := x.testRate, shared := sh }) s)

/-! ### The twin link becomes TRAINED (R207, R282, R283) -/

/-- The GET_INFO request that Limral sends to the twin; its TAG is a free value. -/
def infoRequest (s : State) : List Byte × State :=
  let (tag, s) := takeFree s
  let fl := s.twn.infoAlive * 16 + (if s.twn.infoSent then 0 else 1)
  (requestBytes 0x01 tag fl [], s)

/-- TWRX enters TRAINED. -/
def twinUp (s : State) : State :=
  let s := setLaneState 4 .trained s
  let (b, s) := infoRequest s
  { s with
    twn := { s.twn with recSeen := false, infoSent := true, infoWait := true, infoAlive := wrapInc 4 s.twn.infoAlive }
    rope := { s.rope with twtxReplies := s.rope.twtxReplies ++ [b], twin := { s.rope.twin with up := true } } }

/-- LANE_TRAINED of a lane that is about to enter TRAINED from BOND (R216). -/
def trainedEvent (l ms : Nat) (s : State) : RawEvent := ev 0x0101 l (laneOf s l).rate (laneOf s l).failN ms

/-- A lane enters TRAINED from BOND: its CTLE code becomes the next starting point (R198). -/
def trainLane (l ms : Nat) (s : State) : State :=
  let x := laneOf s l
  let s := modLane l (fun x => { x with failN := 0, trainMs := min ms 65535, parked := false }) s
  let s := { s with nvm := { s.nvm with header := { s.nvm.header with ctle := modNth s.nvm.header.ctle (5 * l + x.rate) (fun _ => x.ctleUsed) } } }
  if l = 4 then twinUp s else setLaneState l .trained s

/-- A lane enters TRAINED from BOND, with its event. -/
def laneTrained (l ms : Nat) (s : State) : State := note (trainedEvent l ms s) (trainLane l ms s)

/-- A lane has entered BOND (R206, R207). One that does so while a formation runs waits: it is neither PARKED nor the cause of a new
formation, also after that formation has ended (DESIGN CHOICE, log entry 110). -/
def enteredBond (l ms : Nat) (s : State) : State :=
  let s := modLane l (fun x => { x with waitBond := true }) s
  if l = 4 then (if s.lnk.peerBond then laneTrained 4 ms s else s)
  else if s.lnk.bondMask = 0 then s
  else if (laneOf s l).rate = s.lnk.bondRate && s.lnk.autoRejoin then formBond s
  else modLane l (fun x => { x with parked := true }) s

/-! ### Meanings -/

/-- LINK_TRAIN (R214), for both actions. -/
def linkTrain (rq : Rq) (s : State) : Res :=
  let m := bits (field rq.payload 0 1) 0 5
  let act := field rq.payload 1 1
  let rate := field rq.payload 2 1
  request rq 0x30 anyMode (lenIs 4) false (fun s =>
    if m = 0 || 1 < act || (act = 0 && 4 < rate && rate ≠ 255) then rep stBadParam s
    else if m.testBit 4 && !paired s then rep stRefused s
    else if act = 1 then
      let s := { s with lnk := { s.lnk with hrxEn := (s.lnk.hrxEn &&& (15 - m % 16)), twEn := s.lnk.twEn && !m.testBit 4 } }
      rep stOk ((bitsOf m 5).foldl (fun s l => disableLane l s) s)
    else
      accept (fun h s =>
        let same := s.lnk.restart.filter (fun r => r.mask &&& m ≠ 0)
        let s := same.foldl (fun s r => completeOpen r.handle 0x30 r.src stSuperseded s) s
        let s := { s with lnk := { s.lnk with
          restart := s.lnk.restart.filter (fun r => r.mask &&& m = 0) ++ [{ mask := m, handle := h, src := rq.src }]
          hrxEn := s.lnk.hrxEn ||| (m % 16), twEn := s.lnk.twEn || m.testBit 4 } }
        let top := if rate = 255 then s.lnk.maxRate else rate
        (bitsOf m 5).foldl (fun s l => restartLane l top (modLane l (fun x => { x with mode := 0 }) s)) s) s) s

/-- LINK_TRAIN_RESTART (R214) -/
def execLinkTrainRestart (rq : Rq) (s : State) : Res := linkTrain rq s

/-- LINK_TRAIN_DISABLE (R214) -/
def execLinkTrainDisable (rq : Rq) (s : State) : Res := linkTrain rq s

/-- A lane that a RESTART waits for no longer: TRAINED, PARKED, LANE_DOWN or TEST. -/
def laneSettled (x : Lane) : Bool := x.state = .trained || x.parked || x.state = .laneDown || x.state = .test

/-- LINK_TRAIN_COMPLETE (R214): the oldest RESTART whose lanes have all settled completes. -/
def execLinkTrainComplete (ms : Nat) (s : State) : Res := whenLanes s (
  match s.lnk.restart.find? (fun r => (bitsOf r.mask 5).all (fun l => laneSettled (laneOf s l))) with
  | none => .next s
  | some r =>
    let ls := bitsOf r.mask 5
    let tr := maskOf (ls.filter (fun l => (laneOf s l).state = .trained))
    let dn := maskOf (ls.filter (fun l => (laneOf s l).state = .laneDown))
    let s := { s with lnk := { s.lnk with restart := s.lnk.restart.filter (fun x => x.handle ≠ r.handle) } }
    .next (complete r.handle 0x30 r.src (if tr ≠ 0 then stOk else stFailed) (tr + dn * 256 + s.lnk.bondRate * 65536) ms s))

/-- LANE_BITSLIP (R212) -/
def execLaneBitslip (rq : Rq) (s : State) : Res :=
  let l := field rq.payload 0 1
  request rq 0x31 anyMode (lenIs 4) false (fun s =>
    if 4 < l then rep stBadParam s
    else if (laneOf s l).state ≠ .test then rep stRefused s
    else rep stOk (modLane l (fun x => { x with slip := (x.slip + 1) % 40 }) s)) s

/-- EYE_SCAN (R210) -/
def execEyeScan (rq : Rq) (s : State) : Res :=
  let p := rq.payload
  let l := field p 0 1
  let h := field p 1 1
  let v := field p 2 1
  let d := field p 3 1
  request rq 0x32 anyMode (lenIs 8) false (fun s =>
    if 4 < l || h < 1 || 16 < h || v < 1 || 16 < v || d < 10 || 30 < d then rep stBadParam s
    else if (laneOf s l).state ≠ .trained && (laneOf s l).state ≠ .test then rep stRefused s
    else if s.lnk.eye.isSome then rep stBusy s
    else accept (fun hd s => { s with lnk := { s.lnk with
      eye := some { lane := l, hStep := h, vStep := v, handle := hd, src := rq.src }, eyeEntries := [], eyeLane := l } }) s) s

/-- The grid of an eye scan in the order of its sweep (R210): threshold offset codes and phase offsets, row by row from the lowest
threshold. -/
def eyeGrid (hStep vStep : Nat) : List (Int × Int) :=
  let rows := (List.range (2 * (63 / vStep) + 1)).map (fun (i : Nat) => ((i : Int) - ((63 / vStep : Nat) : Int)) * vStep)
  let phases := (List.range ((63 / hStep) + 1)).map (fun (i : Nat) => (i : Int) * hStep - 32)
  rows.flatMap (fun t => phases.map (fun p => (t, p)))

/-- How many points of a list lie in the error-free run through its origin: points at multiples of a step, from -64 to 63 steps. -/
def eyeRun (errorFree : Int → Bool) (step : Nat) : Nat :=
  let up := ((List.range 64).takeWhile (fun i => errorFree ((i : Int) * step))).length
  let down := ((List.range 64).takeWhile (fun i => errorFree (-((i : Int) + 1) * step))).length
  if errorFree 0 then up + down else 0

/-- The result words of a whole scan (R210): width in 1/64 UI and height in mV of the error-free run counts its points times their
distance (DEDUCED, log entry 96), and the number of points. Where the grid holds no point at phase 0, word 0 is a free value. -/
def eyeResult (e : EyeRun) (s : State) : Nat × Nat × State :=
  let l := s.lnk.eyeEntries
  let free (t ph : Int) : Bool := l.any (fun p => p.1 = t && p.2.1 = ph && p.2.2 = 0)
  let w := eyeRun (fun i => free 0 i) e.hStep * e.hStep
  let h := eyeRun (fun j => free j 0) e.vStep * e.vStep * 4
  let (r0, s) := if 32 % e.hStep = 0 then (w + h * 65536, s) else takeFree s
  (r0, l.length, s)

/-- Points that the sweep has reached become result entries (R210). -/
def eyePoints (e : EyeRun) (errors : List Nat) (s : State) : State :=
  let new := (((eyeGrid e.hStep e.vStep).drop s.lnk.eyeEntries.length).zip errors).map (fun p => (p.1.1, p.1.2, min p.2 65535))
  { s with lnk := { s.lnk with eyeEntries := s.lnk.eyeEntries ++ new } }

/-- EYE_SCAN_COMPLETE (R210): the next points of the grid are scanned and can be read; with the last one, or when the lane has left
TRAINED and TEST, the scan ends. -/
def execEyeScanComplete (errors : List Nat) (s : State) : Res := whenLanes s (
  match s.lnk.eye with
  | none => .next s
  | some e =>
    let stop (s : State) : State := { s with lnk := { s.lnk with eye := none } }
    if e.left then .next (completeOpen e.handle 0x32 e.src stFailed (stop s))
    else
      let s := eyePoints e errors s
      if s.lnk.eyeEntries.length < (eyeGrid e.hStep e.vStep).length then .next s
      else
        let (r0, r1, s) := eyeResult e (stop s)
        .next (complete e.handle 0x32 e.src stOk r0 r1 s))

/-- LOS_ASSERT (R208) -/
def execLosAssert (l : Nat) (s : State) : Res := whenLanes s (
  guarded (decide (l < 5)) (modLane l (fun x => { x with los := true }) s))

/-- LOS_DEASSERT (R205, R208): with `settled`, LOS was asserted for at least 1 ms and has been off for at least 1 ms. -/
def execLosDeassert (l : Nat) (settled : Bool) (s : State) : Res := whenLanes s (
  let s1 := modLane l (fun x => { x with los := false }) s
  guarded (decide (l < 5))
    (if (laneOf s l).state = .laneDown && s.lnk.autoRetry && settled then restartLane l s.lnk.maxRate s1 else s1))

/-- BACKOFF_EXPIRY (R203) -/
def execBackoffExpiry (l : Nat) (s : State) : Res := whenLanes s (
  guarded (decide (l < 5))
    (if (laneOf s l).state = .detect && !(laneOf s l).attempting && laneEnabled s l then startAttempt l s else s))

/-- The lane moves to its target rate: LOCK (R202). -/
def toLock (l rate : Nat) (s : State) : State :=
  setLaneState l .lock (modLane l (fun x => { x with rate }) s)

/-- Both sides of the twin link have acknowledged the rate: TWRX and TWTX move to it (R202). -/
def twinSwitch (s : State) : State :=
  let x := laneOf s 4
  if x.state = .detect && x.attempting && s.lnk.twinAgreed ≠ 7 && s.lnk.twinAckSeen && s.lnk.twinAcks = 4 && x.anchors = 4 then
    toLock 4 s.lnk.twinAgreed s
  else s

/-- A valid ANCHOR set in DETECT (R201, R202): its ACK counts where it names the target rate. The handshake of the attempt has started
with the first one (DESIGN CHOICE, log entry 109). -/
def takeAnchor (l : Nat) (b : List Byte) (s : State) : State :=
  let target := if l = 4 then s.lnk.twinAgreed else (laneOf s l).ladderRate
  let m := (field b 3 1).testBit 0 && field b 4 1 = target && target ≠ 7
  let s := modLane l (fun x => { x with
    started := true, anchors := min 4 (x.anchors + 1), acks := if m then min 2 (x.acks + 1) else x.acks }) s
  let x := laneOf s l
  if l = 4 then twinSwitch { s with lnk := { s.lnk with twinAckSeen := s.lnk.twinAckSeen || m } }
  else if x.acks = 2 && x.anchors = 4 then toLock l target s
  else s

/-- ANCHOR_RECEIVED (R193, R200 to R202): a set is decoded; an invalid one is ignored, but ends a run of fewer than four consecutive valid
ones. -/
def execAnchorReceived (l : Nat) (set : List LaneWord) (s : State) : Res := whenLanes s (
  guarded (decide (l < 5) && set.length = 4) (
    let b := setBytes 0xA7 (laneSymbols s l set)
    let s := takeWords l set s
    if (laneOf s l).state ≠ .detect || !(laneOf s l).attempting then s
    else match b with
      | none => modLane l (fun x => { x with anchors := if x.anchors = 4 then 4 else 0 }) s
      | some b => takeAnchor l b s))

/-- A valid CLIMB set on the twin link (R202, R207): the agreed rate is the lower of the two proposals, and the ACK sets of another rate no
longer count; the link is TRAINED once the partner's TWRX shows BOND or TRAINED. -/
def takeClimb (b : List Byte) (ms : Nat) (s : State) : State :=
  let x := laneOf s 4
  let partner := bits (field b 1 2) 0 4
  let target := bits (field b 3 2) 0 3
  let peer := partner = 5 || partner = 6
  let agreed := if x.state = .detect && x.attempting && target < 5 then min x.ladderRate target else s.lnk.twinAgreed
  let same := agreed = s.lnk.twinAgreed
  let s1 := { s with lnk := { s.lnk with
    peerBond := s.lnk.peerBond || peer
    twinAgreed := agreed, twinAcks := if same then s.lnk.twinAcks else 0, twinAckSeen := same && s.lnk.twinAckSeen } }
  if x.state = .disabled || x.state = .laneDown || x.state = .test then s
  else if x.state = .bond && peer then laneTrained 4 ms s1
  else s1

/-- CLIMB_RECEIVED (R193, R200, R202, R207) -/
def execClimbReceived (set : List LaneWord) (ms : Nat) (s : State) : Res := whenLanes s (
  guarded (set.length = 4) (
    let b := setBytes 0xC3 (laneSymbols s 4 set)
    let s := takeWords 4 set s
    match b with
    | none => s
    | some b => takeClimb b ms s))

/-- TWTX carries ordered sets: the twin link is enabled, its lane in no state without an attempt, and no test pattern is sent. -/
def twtxSets (s : State) : Bool :=
  lanesUp s && paired s && s.lnk.twEn && s.lnk.twtx.pattern = 0 &&
  !([LaneState.disabled, .laneDown, .test].contains (laneOf s 4).state)

/-- A CLIMB and an ANCHOR set leave on TWTX; an ANCHOR with ACK counts (R202). -/
def twinSets (s : State) : State :=
  let s1 := sendSets .twin s
  if ackDue s then twinSwitch { s1 with lnk := { s1.lnk with twinAcks := min 4 (s1.lnk.twinAcks + 1) } } else s1

/-- Sets leave until the fourth ACK set has. -/
def ackSets : Nat → State → State
  | 0, s => s
  | n + 1, s => ackSets n (twinSets s)

/-- TWIN_ACK_SETS_SENT (R202) -/
def execTwinAckSetsSent (s : State) : Res :=
  .next (if twtxSets s && ackDue s then ackSets (4 - s.lnk.twinAcks) s else s)

/-- CDR_LOCK (R196, R197, R201) -/
def execCdrLock (l : Nat) (s : State) : Res := whenLanes s (
  guarded (decide (l < 5))
    (if (laneOf s l).state ≠ .lock then s
     else if (laneOf s l).shared && !s.lnk.lref then failLane l 6 s
     else setLaneState l .align s))

/-- LANE_ALIGNED (R195, R208) -/
def execLaneAligned (l slip : Nat) (s : State) : Res := whenLanes s (
  let x := laneOf s l
  let s1 := modLane l (fun x => { x with slip }) s
  guarded (decide (l < 5) && decide (slip < 40))
    (match x.state with
     | .detect => if x.attempting then s1 else s
     | .align => setLaneState l .adapt s1
     | .relock => if slip = x.slip then s else retrain l s1
     | _ => s))

/-- ALIGNMENT_LOST (R195, R208). In ADAPT the lane goes back to ALIGN, in BOND nothing happens (DESIGN CHOICE, log entry 109). -/
def execAlignmentLost (l : Nat) (s : State) : Res := whenLanes s (
  guarded (decide (l < 5))
    (match (laneOf s l).state with
     | .trained => retrain l s
     | .detect => modLane l (fun x => { x with anchors := 0, acks := 0 }) s
     | .adapt => setLaneState l .align s
     | _ => s))

/-- The CTLE codes that ADAPT tries, in this order (R198): the stored starting code, 6 where none is stored, then the codes up to 2 away
from it within 0 to 14. -/
def ctleCodes (l : Nat) (s : State) : List Nat :=
  let c := s.nvm.header.ctle.getD (5 * l + (laneOf s l).rate) 255
  let c := if c < 15 then c else 6
  c :: (List.range 15).filter (fun k => k ≠ c && c ≤ k + 2 && k ≤ c + 2)

/-- The code tried with the highest eye, the first tried of equal ones (R198). -/
def bestCtle (codes heights : List Nat) : Nat :=
  ((codes.zip heights).foldl (fun (b : Nat × Nat) c => if b.2 < c.2 then c else b) ((codes.zip heights).headD (6, 0))).1

/-- DFE taps within their ranges (R198). -/
def tapsIn (l : List Int) : List Int := (clampI (-127) 127 (l.headD 0)) :: l.tail.map (clampI (-63) 63)

/-- ADAPT ends (R198, R199, R201): its eye is at least 40 mV high and 20/64 UI wide. -/
def endAdapt (l : Nat) (eq : EqResult) (ms : Nat) (s : State) : State :=
  if eq.eyeH < 10 || eq.eyeW < 20 then s
  else
    let code := bestCtle (ctleCodes l s) eq.heights
    enteredBond l ms (setLaneState l .bond (modLane l (fun x => { x with
      ctleUsed := if x.manualEq then x.ctle else code
      taps := if x.dfeFreeze then x.taps else tapsIn eq.taps
      eyeH := min eq.eyeH 255, eyeW := min eq.eyeW 63, attempting := false }) s))

/-- ADAPT_COMPLETE (R198, R199, R201). In TRAINED the CTLE holds and the DFE goes on adapting: the row's taps are those it has reached
(DESIGN CHOICE, log entry 98). -/
def execAdaptComplete (l : Nat) (eq : EqResult) (ms : Nat) (s : State) : Res := whenLanes s (
  guarded (decide (l < 5) && decide (eq.taps.length = 5))
    (if (laneOf s l).state = .adapt then endAdapt l eq ms s
     else if (laneOf s l).state = .trained then modLane l (fun x => { x with taps := if x.dfeFreeze then x.taps else tapsIn eq.taps }) s
     else s))

/-- ATTEMPT_TIMEOUT (R201, R203): 50 ms have passed, or LOS has persisted for 1 ms after the handshake has started or in LOCK, ALIGN or
ADAPT; then the cause is LOS. -/
def execAttemptTimeout (l : AttemptEnd) (s : State) : Res := whenLanes s (
  let x := laneOf s l.lane
  guarded (decide (l.lane < 5))
    (if !x.attempting then s
     else failLane l.lane (if x.los && l.lostMs && (x.state ≠ .detect || x.started) then 2 else 1) s))

/-- A formation is due while no bond is formed: every enabled host lane is in BOND, TRAINED, LANE_DOWN or TEST (R206). -/
def formationDue (s : State) : Bool :=
  s.lnk.bondMask = 0 && !s.lnk.forming && !(bondCandidates s).isEmpty &&
  (List.range 4).all (fun l => !s.lnk.hrxEn.testBit l ||
    [LaneState.bond, .trained, .laneDown, .test].contains (laneOf s l).state)

/-- BOND_FORMATION (R206) -/
def execBondFormation (s : State) : Res := whenLanes s (.next (if formationDue s then formBond s else s))

/-- BOND_WAIT_EXPIRY (R206): 10 ms after the first lane entered BOND since the last formation. -/
def execBondWaitExpiry (s : State) : Res := whenLanes s (
  .next (if s.lnk.bondMask = 0 && !s.lnk.forming && (List.range 4).any (fun l => (laneOf s l).state = .bond && (laneOf s l).waitBond)
         then formBond s else s))

/-- A lane of the mask whose marker came more than 40 ns late fails with cause SKEW (R206). -/
def excludeLane (s : State) (m : BondMark) : State :=
  lowerLane m.lane 3 (modLane m.lane (fun x => { x with excluded := satInc 16 x.excluded, skewNs := min m.delay 255, inBond := false }) s)

/-- A lane of the mask is deskewed and TRAINED. Its delay is rounded to the nearest whole word (DESIGN CHOICE, log entry 110). -/
def bondLane (latest : Nat) (s : State) (m : BondMark) : State :=
  let l := m.lane
  let was := (laneOf s l).state
  let w := min 8 (rdiv (10 * (latest - m.delay)) (wordPeriod s.lnk.formRate))
  let s := modLane l (fun x => { x with deskew := w, skewNs := min m.delay 255, inBond := true, parked := false }) s
  if was = .bond then trainLane l m.ms s else s

/-- The markers that stand on the lanes of the mask, one of each lane, in ascending order (R206): valid ANCHOR sets with the BOND
marker. -/
def markers (marks : List BondMark) (s : State) : List BondMark :=
  (bitsOf s.lnk.formMask 4).filterMap (fun l => marks.find? (fun m => m.lane = l &&
    (match setBytes 0xA7 (laneSymbols s l m.set) with | some b => (field b 3 1).testBit 1 | none => false)))

/-- The markers of every lane of the mask have come (R206): skew is judged, the remaining lanes are deskewed, the events of all come on one clock
(R328), and a CLIMB set with BONDED = 1 brings the path back (R229). -/
def endFormation (marks : List BondMark) (s : State) : State :=
  let late := marks.filter (fun m => decide (40 < m.delay))
  let good := marks.filter (fun m => decide (m.delay ≤ 40))
  let latest := good.foldl (fun n m => max n m.delay) 0
  let rate := s.lnk.formRate
  let evs := (good.filter (fun m => (laneOf s m.lane).state = .bond)).map (fun m => trainedEvent m.lane m.ms s) ++
    late.flatMap (fun m => ev 0x0107 m.lane m.delay rate s.lnk.formMask :: failEvents m.lane 3 s)
  let s := late.foldl excludeLane (good.foldl (bondLane latest) { s with lnk := { s.lnk with forming := false } })
  let s := late.foldl (fun s m => leaveTraffic m.lane s) (raiseAll evs s)
  climbOut { s with lnk := { s.lnk with
    bondMask := maskOf (good.map (·.lane)), bondRate := if good.isEmpty then 7 else rate } }

/-- BOND_MARKER (R193, R200, R206) -/
def execBondMarker (marks : List BondMark) (s : State) : Res := whenLanes s (
  guarded (marks.all (fun m => decide (m.lane < 4) && m.set.length = 4)) (
    let found := markers marks s
    let t := marks.foldl (fun s m => takeWords m.lane m.set s) s
    if !s.lnk.forming then s
    else if found.length = (bitsOf s.lnk.formMask 4).length then endFormation found t
    else t))

/-- BOND_TIMEOUT (R206): every lane in BOND_MASK fails. -/
def execBondTimeout (s : State) : Res := whenLanes s (
  let mask := bitsOf s.lnk.formMask 4
  let s0 := { s with lnk := { s.lnk with forming := false, bondMask := 0, bondRate := 7 } }
  .next (if s.lnk.forming then failLanes mask 4 (mask.foldl (fun s l => modLane l (fun x => { x with inBond := false }) s) s0) else s))

/-- RELOCK_ENTRY (R208, R209): the eighth entry within 1 s is a failed attempt with cause FLAP. -/
def execRelockEntry (l gapUs atMs : Nat) (s : State) : Res := whenLanes s (
  let x := laneOf s l
  let times := (x.relockTimes.filter (fun t => atMs ≤ t + 1000)) ++ [atMs]
  let flap := decide (8 ≤ times.length)
  let s1 := modLane l (fun x => { x with relocks := satInc 16 x.relocks, relockTimes := times }) s
  let n := (laneOf s1 l).relocks
  let e := ev 0x0106 l n (min gapUs 65535) 0
  guarded (decide (l < 5))
    (if x.state ≠ .trained then s
     else if flap then failLaneWith [e, ev 0x0108 l n x.rate 0] l 5 s1
     else interrupt (if l = 4 then .twin else .host) (setLaneState l .relock (note e s1))))

/-- RELOCK_COMPLETE (R208): back to TRAINED with the deskew unchanged, as a lane of the bond or of the formation that runs; a lane that a
formation left out enters BOND. -/
def execRelockComplete (l : Nat) (inPlace : Bool) (s : State) : Res := whenLanes s (
  guarded (decide (l < 5))
    (if (laneOf s l).state ≠ .relock then s
     else if !inPlace then retrain l s
     else if l = 4 then twinUp s
     else if s.lnk.bondMask.testBit l || (s.lnk.forming && s.lnk.formMask.testBit l) then setLaneState l .trained s
     else enteredBond l 0 (setLaneState l .bond s)))

/-- RELOCK_TIMEOUT (R208) -/
def execRelockTimeout (l : Nat) (s : State) : Res := whenLanes s (
  guarded (decide (l < 5)) (if (laneOf s l).state = .relock then retrain l s else s))

/-- LREF_CLOCK_CHANGE (R197): without the clock, attempts in shared-reference mode fail with cause NO_REF. -/
def execLrefClockChange (present : Bool) (s : State) : Res := whenLanes s (
  let s := { s with lnk := { s.lnk with lref := present } }
  .next (if present then s else failLanes ((List.range 5).filter (fun l => (laneOf s l).attempting && (laneOf s l).shared)) 6 s))

/-- CLIMB_SEND (R200, R202, R213, R229, R232): a CLIMB set and the ANCHOR set that alternates with it; on HTX the first CLIMB that shows
every lane of the bond TRAINED brings the host path back. -/
def execClimbSend (path : Path) (s : State) : Res :=
  .next (match path with
    | .host => climbOut s
    | .twin => if twtxSets s then twinSets s else s)

end Sys2Proof.Machine
end

