-- ==== Sys2Proof/Machine/Twin.lean ====
section
/-! DEFINITION. Twin operation: messages, presence and loss, records, roles (R268 to R287). -/

namespace Sys2Proof.Machine

/-! ### Presence and loss (R273 to R276) -/

/-- The twin is declared lost (R274, R276). -/
def twinLost (cause : Nat) (s : State) : State :=
  let s := { s with twn := { s.twn with
    state := 3, lostCause := cause, litRun := 0, losses := satInc 16 s.twn.losses, lastLoss := s.ao.seconds } }
  condOn 0 (ev 0x0C01 cause s.twn.peerMode (if s.twn.pinActive then 1 else 0) s.ft.frameCount) s

/-- The twin's state becomes another than LOST; TWIN_LOST is removed. -/
def twinState (st : Nat) (s : State) : State := condOff 0x0C01 0 { s with twn := { s.twn with state := st } }

/-- Heartbeats are silent for 300 microseconds while the pin is active: TWIN_LINK_DOWN (R275). -/
def twinLinkDown (silenceUs : Nat) (s : State) : State :=
  if 300 ≤ silenceUs && !s.twn.hbOk && s.twn.pinActive then
    condOn 0 (ev 0x0110 (laneCode (laneOf s 4).state) silenceUs 1 s.ft.frameCount) { s with twn := { s.twn with linkDown := true } }
  else s

/-- Heartbeats are silent and the pin is inactive: a PRESENT twin is lost with cause SILENT (R274). -/
def twinSilent (s : State) : State :=
  if s.twn.state = 2 && !s.twn.hbOk && !s.twn.pinActive then twinLost 1 s else s

/-- A valid TWIN packet has arrived: whether its SEQ follows the last one's (R273). -/
def followsLast (seq : Nat) (s : State) : Bool := s.twn.lastSeq = some ((seq + 255) % 256)

/-- A valid TWIN packet is counted; a gap in SEQ restarts the count of lit heartbeats (R273). -/
def takeSeq (seq : Nat) (s : State) : State :=
  { s with twn := { s.twn with lastSeq := some seq, litRun := if followsLast seq s then s.twn.litRun else 0 } }

/-- A valid TWIN packet of a MSG (R271). -/
def messageOf (msg : Nat) (r : Rx) : Bool := wholeOf 0x20 r && hdrChan r.hdr = 0 && twinMessageOk r.body && field r.body 0 1 = msg

/-- Twin words reach a paired device over a path that is up. -/
def twinHears (s : State) : Bool := awake s && s.rope.twin.up && paired s

/-- A message from the twin reaches a paired device (R271): it is counted as a packet, then taken. -/
def onMessage (msg : Nat) (cols : List (List LaneWord)) (act : List Byte → State → State) (s : State) : State :=
  if paired s then onPacket .twin cols (messageOf msg) (fun r => takePacket .twin r (act r.body)) s else s

/-- A mode code of a lit mode. -/
def litCode (m : Nat) : Bool := m = 2 || m = 3 || m = 4

/-- The twin joins on the third of three consecutive lit heartbeats, while the pin is active (R273). -/
def twinJoin (s : State) : State :=
  if (s.twn.state = 1 || s.twn.state = 3) && decide (3 ≤ s.twn.litRun) && s.twn.pinActive then
    let prev := s.twn.state
    let s := twinState 2 { s with twn := { s.twn with returns := if prev = 3 then satInc 16 s.twn.returns else s.twn.returns } }
    noteF 0x0C02 prev s.twn.peerMode s.twn.peerDefects s
  else s

/-- A heartbeat that shows the same ROLE or another RATE is a configuration conflict (R280). -/
def judgeConflict (b : List Byte) (s : State) : State :=
  condSet s.twn.conflict 0 (ev 0x0C05 s.twn.cfg.role (field b 3 1 % 4) s.ft.rate (field b 4 1)) s

/-- What a valid heartbeat does to the twin's state (R273, R274), and the conflict it shows, in the collector's order (R328): a loss and a
conflict, then the notes. `follows`: its SEQ follows the last one's. -/
def heartbeatState (b : List Byte) (follows : Bool) (s : State) : State :=
  let mode := field b 2 1
  if (field b 3 1).testBit 2 && (s.twn.state = 2 || s.twn.state = 4) then
    let was := s.twn.state
    let s := judgeConflict b (twinState 4 { s with twn := { s.twn with litRun := 0 } })
    if was = 4 then s else noteF 0x0C03 (field b 12 4) 0 0 s
  else
    let s :=
      if s.twn.state = 4 then (if mode = 5 then twinLost 2 s else twinState 1 s)
      else if s.twn.state = 2 && (mode = 5 || mode = 1) then twinLost 2 s
      else s
    let s := judgeConflict b s
    twinJoin { s with twn := { s.twn with litRun := if litCode mode && follows then s.twn.litRun + 1 else 0 } }

/-- Records that an ACK_RSEQ acknowledges leave the flight (R282). -/
def acknowledge (ack : Nat) (s : State) : State :=
  match s.twn.inFlight.findIdx? (fun r => r.rseq = ack) with
  | some i => { s with twn := { s.twn with inFlight := s.twn.inFlight.drop (i + 1) } }
  | none => s

/-- The body of a valid HEARTBEAT is taken (R272 to R275, R280, R282). -/
def takeHeartbeat (silenceUs : Nat) (b : List Byte) (s : State) : State :=
  let f (off k : Nat) := field b off k
  let flags := f 3 1
  let follows := followsLast (f 1 1) s
  let t := s.twn
  let s := takeSeq (f 1 1) { s with twn := { t with
    hbRx := wrapInc 32 t.hbRx, hbOk := true, linkDown := false
    maxSilenceUs := if t.state = 2 then max t.maxSilenceUs (min silenceUs 65535) else t.maxSilenceUs
    peerMode := f 2 1 % 8, peerRole := flags % 4, peerDefects := f 16 4, peerSeconds := f 12 4
    conflict := flags % 4 = t.cfg.role || f 4 1 ≠ s.ft.rate } }
  heartbeatState b follows (acknowledge (f 6 1) (condOff 0x0110 0 s))

/-- HEARTBEAT_RECEIVED (R271 to R275, R280, R282) -/
def execHeartbeatReceived (cols : List (List LaneWord)) (silenceUs : Nat) (s : State) : Res :=
  .next (onMessage 1 cols (takeHeartbeat silenceUs) s)

/-- The body of a valid SNUFF message is taken (R274). -/
def takeSnuff (b : List Byte) (s : State) : State :=
  let s := takeSeq (field b 1 1) s
  if s.twn.state = 2 || s.twn.state = 4 then twinLost 2 s else s

/-- SNUFF_MESSAGE_RECEIVED (R271, R274) -/
def execSnuffMessageReceived (cols : List (List LaneWord)) (s : State) : Res := .next (onMessage 2 cols takeSnuff s)

/-- HEARTBEAT_SILENCE (R274, R275): 300 microseconds or more have passed since the last valid heartbeat. -/
def execHeartbeatSilence (us : Nat) (s : State) : Res :=
  .next (
    if !awake s || !paired s || us < 300 then s
    else
      let t := s.twn
      let s := { s with twn := { t with
        hbOk := false, maxSilenceUs := if t.state = 2 then max t.maxSilenceUs (min us 65535) else t.maxSilenceUs } }
      twinSilent (twinLinkDown us s))

/-- TWIN_ALIVE_TOGGLE (R269) -/
def execTwinAliveToggle (s : State) : Res :=
  .next (if !paired s || !portsOpen s || s.pwr.mode = .snuffed then s
    else { s with twn := { s.twn with aliveOut := !s.twn.aliveOut } })

/-- TWIN_ALIVE_EDGE (R270, R275) -/
def execTwinAliveEdge (silenceUs : Nat) (s : State) : Res :=
  .next (if !awake s || !paired s then s
    else twinLinkDown silenceUs (condOff 0x0C04 0 { s with twn := { s.twn with pinActive := true, pinFault := false } }))

/-- TWIN_ALIVE_INACTIVE (R270, R274): no edge for 150 microseconds. -/
def execTwinAliveInactive (s : State) : Res :=
  .next (if !awake s || !paired s then s
    else
      twinSilent { s with twn := { s.twn with pinActive := false } })

/-- TWIN_PIN_FAULT (R275): the pin has been inactive for 1 ms while valid heartbeats report lit. -/
def execTwinPinFault (s : State) : Res :=
  .next (if !awake s || !paired s || s.twn.pinActive || !s.twn.hbOk || !litCode s.twn.peerMode then s
    else condOn 0 (ev 0x0C04 s.twn.peerMode 0 0 s.ft.frameCount) { s with twn := { s.twn with pinFault := true } })

/-- JOIN_TIMEOUT (R274): JOIN_MS have passed without the twin becoming PRESENT. -/
def execJoinTimeout (s : State) : Res :=
  .next (if awake s && paired s && s.twn.state = 1 && s.pwr.mode ≠ .kindle then twinLost 3 s else s)

/-! ### Heartbeats and records sent and received (R271, R272, R281, R282) -/

/-- Fields of the HEARTBEAT after SEQ (R272). -/
def heartbeatFields (sleeping : Bool) (s : State) : List Byte :=
  le 1 (modeCode s.pwr.mode) ++
    le 1 (s.twn.cfg.role + flag sleeping 2 + flag s.ft.locked 3 + flag (s.twn.state = 2) 4) ++ le 1 s.ft.rate ++
    le 1 (causeLevel s.flt) ++ le 1 s.twn.ackRseq ++ le 1 0 ++ le 4 s.ft.frameCount ++ le 4 s.ao.seconds ++ le 4 (defectCount s)

/-- HEARTBEAT_SEND (R271, R272); the one with SLEEPING = 1 is sent by the sleep entry (R402). -/
def execHeartbeatSend (s : State) : Res :=
  .next (if portsOpen s then sendTwin 1 (heartbeatFields false s) s else s)

/-- The body of a valid RECORD message is taken (R282, R386): stored when it is the next in order, or the first since the link entered
TRAINED. -/
def takeRecord (b : List Byte) (s : State) : State :=
  let s := takeSeq (field b 1 1) s
  let rseq := field b 2 1
  if s.twn.recSeen && rseq ≠ (s.twn.ackRseq + 1) % 256 then s
  else
    let r := recOf (slice b 4 32)
    let s := { s with twn := { s.twn with recSeen := true, ackRseq := rseq, recReceived := satInc 16 s.twn.recReceived } }
    let t := enqueue { r with flags := r.flags ||| flagWitness } s
    if t.evr.queue = s.evr.queue then t else { t with evr := { t.evr with witRx := satInc 16 t.evr.witRx } }

/-- RECORD_RECEIVED (R271, R282, R386) -/
def execRecordReceived (cols : List (List LaneWord)) (s : State) : Res := .next (onMessage 3 cols takeRecord s)

/-- A RECORD message of a held record is sent. -/
def sendRecord (r : TwinRec) (s : State) : State := sendTwin 3 (le 1 r.rseq ++ le 1 r.kind ++ recBytes r.record) s

/-- RECORD_SEND (R282): the oldest waiting record, while fewer than 16 are unacknowledged. -/
def execRecordSend (s : State) : Res :=
  .next (
    if !awake s || !twtxOpen s || 16 ≤ s.twn.inFlight.length then s
    else match s.twn.sendQueue with
      | [] => s
      | r :: q =>
        let r := { r with rseq := s.twn.rseqNext, sends := 1 }
        sendRecord r { s with twn := { s.twn with
          sendQueue := q, inFlight := s.twn.inFlight ++ [r], rseqNext := wrapInc 8 s.twn.rseqNext, recSent := satInc 16 s.twn.recSent } })

/-- A record is given up after its eighth transmission (R282). -/
def giveUp (r : TwinRec) (s : State) : State :=
  let s := { s with twn := { s.twn with unacked := satInc 16 s.twn.unacked } }
  raise (ev 0x0C07 r.rseq r.record.code s.twn.unacked 0) s

/-- RECORD_RETRANSMIT (R282): 1 ms without an acknowledgement; records sent eight times are given up, the others are sent again from
the oldest. -/
def execRecordRetransmit (s : State) : Res :=
  .next (
    if !twtxOpen s then s
    else
      let old := s.twn.inFlight.filter (fun r => decide (8 ≤ r.sends))
      let keep := (s.twn.inFlight.filter (fun r => decide (r.sends < 8))).map (fun r => { r with sends := r.sends + 1 })
      let s := { s with twn := { s.twn with inFlight := keep, retries := satAdd 16 s.twn.retries keep.length } }
      old.foldl (fun s r => giveUp r s) (keep.foldl (fun s r => sendRecord r s) s))

/-! ### SYNC words (R278, R279) -/

/-- The skew from the twin's SYNC word (R279, R289): TWIN_SKEW at the fourth consecutive frame beyond 500 ns. -/
def takeSkew (skewNs : Int) (s : State) : State :=
  let k := clampI (-32768) 32767 skewNs
  let far := decide (500 < skewNs.natAbs)
  let t := s.twn
  let s := { s with twn := { t with
    skewNs := k, skewMax := if s.ft.locked then max t.skewMax (min skewNs.natAbs 65535) else t.skewMax
    skewRun := if far then min (t.skewRun + 1) 5 else 0 } }
  if s.twn.skewRun = 4 then
    raiseF 0x0C06 (twos 32 k) s.twn.cfg.cableNs (if s.ft.locked then 1 else 0) s
  else s

/-- The word on TWRX is a SYNC word without a code or disparity error (R221). One inside a packet's columns comes with the running
disparity that the lane has there. -/
def syncOk (word : LaneWord) (inPacket : Option Bool) (s : State) : Bool :=
  match (receiveGroups (inPacket.getD (laneOf s 4).rdPos) (groupsOf [word])).1 with
  | k :: t => k.sym = .ctl 0x7C && !k.err && !t.any (·.err) && (bytesOf t).isSome
  | [] => false

/-- Parts of a nanosecond in which a PWM clock (31.9488 MHz: 01_frame_timeline.md), a word period and a nanosecond are whole numbers. -/
def nsParts : Int := 12480

/-- The PWM clock in these parts: 78,125 / 2,496 ns. -/
def clockParts : Int := 390625

/-- The leader's boundary after the own last boundary, in parts of a nanosecond (R13, R279), for a SYNC word that the frame timer
sees `count` PWM clocks after it: less 240 ns, 2 link word clocks and 3 PWM clocks of the synchroniser, and CABLE_NS. -/
def twinInstant (count : Nat) (s : State) : Int :=
  clockParts * ((count : Int) - 3) - 2 * (nsParts / 10) * wordPeriod (laneOf s 4).rate - nsParts * (240 + s.twn.cfg.cableNs)

/-- The distance from an instant to the nearest multiple of a period. -/
def toNearest (period x : Int) : Int :=
  let r := x % period
  if 2 * r ≤ period then -r else period - r

/-- Own boundary minus the twin's in ns, rounded to the nearest (R279). -/
def skewOf (count : Nat) (s : State) : Int :=
  (toNearest (clockParts * frameClocks s.ft.rateInForce) (twinInstant count s) + nsParts / 2) / nsParts

/-- The leader's boundary in whole PWM clocks, to the nearest (R16). -/
def twinClocks (count : Nat) (s : State) : Int := (twinInstant count s + clockParts / 2) / clockParts

/-- The twin gives a reference: the device follows it and its last valid heartbeat shows a LEADER (R16, R279, R280). -/
def twinLeads (s : State) : Bool := s.twn.cfg.role = 2 && s.ft.activeSrc = 2 && s.twn.peerRole = 1

/-- SYNC_WORD_RECEIVED (R16, R18, R221, R279, R280) -/
def execSyncWordReceived (word : LaneWord) (inPacket : Option Bool) (count : Nat) (s : State) : Res :=
  .next (
    if !lanesUp s || !twinHears s then s
    else
      let ok := syncOk word inPacket s
      let s := if inPacket.isSome then s else takeWords 4 [word] s
      if !ok then s
      else takeSkew (skewOf count s)
        (if twinLeads s then reference (phaseError s.ft.rateInForce (twinClocks count s)) s else s))

/-! ### Roles (R285, R286) -/

/-- A role takes effect at a frame latch, or at the NVM load (R286, R287). -/
def takeRole (role : Nat) (s : State) : State :=
  let src := if role = 2 then 2 else if s.ft.lockSrc = 2 then 0 else s.ft.lockSrc
  let s := if src ≠ s.ft.activeSrc then switchSrc src s else s
  let s := { s with
    ft := { s.ft with lockSrc := src }
    twn := { s.twn with cfg := { s.twn.cfg with role }, rolePend := none, litRun := 0, hbOk := false, lastSeq := none } }
  if role = 0 then
    let s := [0x0110, 0x0C04, 0x0C05, 0x0C01].foldl (fun s c => condOff c 0 s) s
    let s := { s with
      lnk := { s.lnk with twEn := false }
      twn := { s.twn with state := 0, linkDown := false, pinFault := false, conflict := false, pinActive := false, aliveOut := false } }
    disableLane 4 s
  else
    let s := { s with lnk := { s.lnk with twEn := true } }
    enableLane 4 (twinState 1 s)

/-- The role change that waits for the frame latch takes effect. -/
def latchRole (s : State) : State :=
  match s.twn.rolePend with
  | some r => takeRole r s
  | none => s

/-- The field checks of TWIN_CONFIG (R285). -/
def twinFieldsOk (p : List Byte) : Bool :=
  decide (field p 0 1 ≤ 2) && decide (field p 2 1 ≤ 4) && decide (10 ≤ field p 6 2) && decide (field p 6 2 ≤ 1000)

/-- TWIN_CONFIG takes effect (R286). -/
def takeTwinConfig (p : List Byte) (s : State) : State :=
  let role := field p 0 1
  let cfg := { s.twn.cfg with
    shareLevel := field p 2 1, fwdMask := bits (field p 3 1) 0 6, cableNs := field p 4 1, joinMs := field p 6 2 }
  let s := { s with twn := { s.twn with cfg, rolePend := if role = s.twn.cfg.role then none else some role } }
  if (field p 1 1).testBit 0 then requestStore 5 [(64, le 1 0xA5 ++ twinBytes { cfg with role })] s else s

/-- TWIN_CONFIG (R285, R286) -/
def execTwinConfig (rq : Rq) (s : State) : Res :=
  let p := rq.payload
  request rq 0x80 (fun s => s.pwr.mode = .pilot || s.pwr.mode = .snuffed) (lenIs 8) false (fun s =>
    if !twinFieldsOk p then rep stBadParam s
    else if (field p 1 1).testBit 0 && !s.thm.nvmOpen then tempWindow s
    else rep stOk (takeTwinConfig p s)) s

end Sys2Proof.Machine
end

