-- ==== Sys2Proof/Machine/Load.lean ====
section
/-! DEFINITION. The NVM load of a KINDLE: header, configurations, trim, wick set, wear map, defect list, droop table, patterns, lifetime
block (R33, R88, R90, R113, R287, R321, R361 to R366, R387), and the reload of a pattern (R292). -/

namespace Sys2Proof.Machine

/-- Non-zero bytes of an MRAM range, by offset. -/
def areaCells (s : State) (a len : Nat) : List (Nat × Nat) :=
  (s.nvm.mram.filter (fun c => decide (a ≤ c.1) && decide (c.1 < a + len))).map (fun c => (c.1 - a, c.2.toNat))

/-- Non-zero bytes of the body of a slot. -/
def bodyCells (s : State) (c k : Nat) : List (Nat × Nat) := areaCells s (slotBase c k + 64) (bodyLen c)

/-- Little-endian numbers of `k` bytes each, from ascending bytes; zero numbers are left out. -/
def groupLe (k : Nat) (l : List (Nat × Nat)) : List (Nat × Nat) :=
  l.foldr (fun c t =>
    let v := c.2 * 256 ^ (c.1 % k)
    match t with
    | (i, n) :: r => if i = c.1 / k then (i, n + v) :: r else (c.1 / k, v) :: t
    | [] => [(c.1 / k, v)]) []

/-! ### Slots found by a load (R358, R361) -/

/-- A slot that is committed but not valid is recorded and counted (R358). -/
def checkSlot (c : Nat) (s : State) (k : Nat) : State :=
  if slotCommitted s c k && !slotValid s c k then
    note (ev 0x0A01 c k (slotGen s c k) 0) { s with nvm := { s.nvm with slotBad := satInc 16 s.nvm.slotBad } }
  else s

/-- A content's slots are checked, and the slot of the load rule comes into force. -/
def loadContent (s : State) (c : Nat) : State :=
  let s := (slotsOf c).foldl (checkSlot c) s
  match loadSlot s c with
  | some k => setInForce c k (slotGen s c k) s
  | none => setInForce c 3 0 s

/-- Contents in the order of a load (R43, R44); a re-kindle reads neither the wear map nor the lifetime block (R90, R387). -/
def loadOrder : Flavor → List Nat
  | .full => [5, 0, 1, 3, 4, 2, 6, 7, 8, 9]
  | .quick => [5, 4, 2, 0, 1, 3, 6, 7, 8, 9]
  | .rekindle => [5, 0, 1, 4, 2, 6, 7, 8]

/-- Contents that this KINDLE loads: a re-kindle after a KINDLE that ended before its load reads the lifetime block too, whose counts
are not in RAM yet (R377, R387; DEDUCED, log entry 106). -/
def loadContents (s : State) : List Nat :=
  loadOrder s.pwr.flavor ++ (if s.pwr.flavor = .rekindle && s.evr.state = 3 then [9] else [])

/-! ### The calibration header (R361, R365) -/

/-- A stored configuration of the header: its payload where the VALID byte is 0xA5. -/
def storedConfig (b : List Byte) (off : Nat) : Option (List Byte) :=
  if field b off 1 = 0xA5 then some (slice b (off + 1) 8) else none

/-- The header is read when Limral is ready: offsets and starting codes take effect (R308, R361). -/
def loadHeader (s : State) : State :=
  match loadSlot s 5 with
  | none => s
  | some k =>
    let b := slotBody s 5 k
    let h : Header :=
      { sensorOfs := (List.range 36).map (fun n => fieldI b n 1), ctle := (List.range 25).map (fun i => field b (36 + i) 1)
        twin := storedConfig b 64, therm := storedConfig b 73, loaded := true }
    setOffsets h.sensorOfs { s with nvm := { s.nvm with header := h } }

/-- A header slot is committed, but no slot was valid (R365). -/
def headerBad (s : State) : Bool := !s.nvm.header.loaded && (slotCommitted s 5 0 || slotCommitted s 5 1)

/-- A role comes into force at the load: a re-kindle keeps the link and a LOST twin (R44, R273). -/
def loadRole (role : Nat) (s : State) : State :=
  let lost := role ≠ 0 && s.pwr.flavor = .rekindle && s.twn.state = 3
  if role ≠ 0 && s.pwr.flavor = .rekindle && s.lnk.twEn then
    let src := if role = 2 then 2 else if s.ft.lockSrc = 2 then 0 else s.ft.lockSrc
    let s := { s with ft := { s.ft with lockSrc := src }, twn := { s.twn with cfg := { s.twn.cfg with role }, rolePend := none } }
    if lost then s else twinState 1 s
  else
    let t := takeRole role s
    if lost then
      { t with
        twn := { t.twn with state := 3, lostCause := s.twn.lostCause }
        flt := { t.flt with conds := t.flt.conds ++ s.flt.conds.filter (·.code = 0x0C01) } }
    else t

/-- The twin configuration is taken from the header (R287). -/
def loadTwin (s : State) : State :=
  match s.nvm.header.twin with
  | some p =>
    if twinFieldsOk p then
      let cfg : TwinCfg := { role := s.twn.cfg.role, shareLevel := field p 2 1, fwdMask := bits (field p 3 1) 0 6
                             cableNs := field p 4 1, joinMs := field p 6 2 }
      loadRole (field p 0 1) { s with twn := { s.twn with cfg, stored := true } }
    else
      let s := raise (ev 0x0C08 0 0 0 0) s
      loadRole 0 { s with twn := { s.twn with cfg := { role := s.twn.cfg.role }, stored := false } }
  | none =>
    let s := if headerBad s then raise (ev 0x0C08 0 0 0 0) s else s
    loadRole 0 { s with twn := { s.twn with cfg := { role := s.twn.cfg.role }, stored := false } }

/-- The field checks of THERM_CONFIG (R321). -/
def thermFieldsOk (p : List Byte) : Bool :=
  decide (85 ≤ field p 0 1) && decide (field p 0 1 ≤ 135) && decide (2000 ≤ field p 2 2) && decide (field p 2 2 ≤ 6000) &&
    decide (1000 ≤ field p 4 4) && decide (field p 4 4 ≤ 1000000)

/-- The configuration that a THERM_CONFIG payload holds (R321). -/
def thermOf (p : List Byte) : ThermCfg :=
  { knee := field p 0 1, autoRekindle := (field p 1 1).testBit 0, ntcEn := (field p 1 1).testBit 1, beta := field p 2 2, res := field p 4 4 }

/-- A thermal configuration comes into force; without NTC_EN there is no NTC temperature (R319, R321). -/
def useTherm (c : ThermCfg) (t : Thm) : Thm :=
  { t with cfg := c, pendCfg := none, ntcTemp := if c.ntcEn then t.ntcTemp else none, ntcBad := c.ntcEn && t.ntcBad }

/-- The thermal configuration is taken from the header (R321). -/
def loadTherm (s : State) : State :=
  let plain (s : State) : State := { s with thm := useTherm {} { s.thm with stored := false } }
  let bad (s : State) : State := raise (ev 0x0709 0 0 0 0) (plain s)
  match s.nvm.header.therm with
  | some p => if thermFieldsOk p then { s with thm := useTherm (thermOf p) { s.thm with stored := true } } else bad s
  | none => if headerBad s then bad s else plain s

/-! ### Trim, wick set, wear map, defect list, droop table -/

/-- The trim, the factory trim, or code 128 (R363): staged, and taken into use by a frame latch (R55, R67). -/
def loadTrim (s : State) : State :=
  let put (t : Sparse Nat) (s : State) : State := stageCal { trim := some t } s
  match loadSlot s 0 with
  | some k => put ⟨0, bodyCells s 0 k⟩ s
  | none =>
    if slotValid s 1 2 then
      raise (ev 0x0B02 (slotGen s 1 2) 0 0 0) (put ⟨0, bodyCells s 1 2⟩ { s with pwr := { s.pwr with calFactory := true } })
    else raise (ev 0x0B03 0 0 0 0) (put ⟨128, []⟩ { s with nvm := { s.nvm with trimMissing := true } })

/-- The wick set that a body holds (R364). -/
def wickSetOf (l : List (Nat × Nat)) : WickSet :=
  let low := l.filter (fun c => c.1 % 2 = 0)
  let high := l.filter (fun c => c.1 % 2 = 1)
  { offset := ⟨0, (low.map (fun c => (c.1 / 2, sext 6 c.2))).filter (fun c => c.2 ≠ 0)⟩
    pre := ⟨0, (high.map (fun c => (c.1 / 2, c.2 % 64))).filter (fun c => c.2 ≠ 0)⟩
    flagged := (high.filter (fun c => c.2.testBit 7)).map (fun c => c.1 / 2) }

/-- The wick set is placed in the sinks (R355). -/
def loadWicks (s : State) : State :=
  match loadSlot s 2 with
  | none => s
  | some k =>
    let w := wickSetOf (bodyCells s 2 k)
    { s with nvm := { s.nvm with wickSet := some w }, arr := { s.arr with sinkOfs := w.offset, preLevel := w.pre } }

/-- The wear map; a re-kindle keeps the accumulators (R90). -/
def loadWear (s : State) : State :=
  if s.pwr.flavor = .rekindle then s
  else
    let w := match loadSlot s 3 with
      | some k => groupLe 4 (bodyCells s 3 k)
      | none => []
    { s with map := { s.map with wear := ⟨0, w⟩, wearFrac := ⟨0, []⟩ } }

/-- The entries of a stored defect list; those that fail the checks of R114 are skipped. -/
def storedDefects (s : State) : List Defect :=
  let l := match loadSlot s 4 with
    | some k => groupLe 4 (bodyCells s 4 k)
    | none => []
  (l.map (fun c => ({ pix := bits c.2 0 20, type := bits c.2 20 4, source := bits c.2 24 4 } : Defect))).filter
    (fun d => decide (d.pix < pixels) && decide (1 ≤ d.type) && decide (d.type ≤ 5))

/-- LIST_FULL follows the size of a map that was loaded (R114). -/
def listLoaded (s : State) : State :=
  let n := defectCount s
  let full := decide (2048 < n)
  let t := { s with diag := { s.diag with listFull := full } }
  if full && !s.diag.listFull then raise (ev 0x0506 n 2048 0 0) t else t

/-- The stored defect list joins the RAM map: no change in the sense of R113. -/
def loadDefects (s : State) : State :=
  let all := (storedDefects s).foldl (fun t d => insertDefect d t) s.diag.defects
  evalDefects (listLoaded { s with diag := { s.diag with defects := all }, arr := { s.arr with dis := all.map (·.pix) } })

/-- The droop table, and the gains of the wear map that is in RAM (R88, R89). -/
def loadDroop (s : State) : State :=
  let reject (i v step : Nat) (s : State) : State :=
    raise (ev 0x0B20 step i v 0) { s with map := { s.map with droopBad := true, droop := none } }
  let s := match loadSlot s 6 with
    | none => reject 0xFFFF 0 0 s
    | some k =>
      let b := slotBody s 6 k
      match droopFault b with
      | some (i, v) => reject i v (field b 0 4) s
      | none => { s with map := { s.map with droop := some (droopOf b), droopBad := false } }
  recomputeGains s

/-! ### Patterns (R33, R292, R366, R437) -/

/-- Why a pattern area fails its load check: failure code, GEN, PATTERN_ID, body offset (R437). -/
def patternFault (s : State) (c : Nat) : Option (Nat × Nat × Nat × Nat) :=
  if !slotCommitted s c 2 then some (1, 0, 0, 0)
  else if !slotValid s c 2 then some (2, slotGen s c 2, 0, 0)
  else
    let b := mramRead s (slotBase c 2 + 64) 48
    let fail (off : Nat) : Option (Nat × Nat × Nat × Nat) := some (3, slotGen s c 2, field b 12 4, off)
    if field b 0 4 ≠ 0x31505A55 then fail 0
    else if field b 4 2 ≠ 1440 then fail 4
    else if field b 6 2 ≠ 720 then fail 6
    else if field b 8 1 ≠ 4 then fail 8
    else if field b 9 1 ≠ c - 7 then fail 9
    else none

/-- The requests of the NVM copy engine for `n` words at the two banks of a pattern (R294, R301): how many of them had to wait and how long
is no operand of any row, so the conflicts, the escalations among them and the longest wait, within the bound of R300, are free values. -/
def countCopy (c n : Nat) (s : State) : State :=
  let (x, s) := takeFree s
  let (y, s) := takeFree s
  let (z, s) := takeFree s
  let conflicts := x % (cdiv n 16 + 1)
  let b := patternBase c / 0x40000
  let s := modBank b (fun k => { k with lastPort := 7 }) (modBank (b + 1) (fun k => { k with lastPort := 7 }) s)
  modMaster 27 (fun k => { k with
    conflicts := satAdd 32 k.conflicts conflicts, esc := satAdd 32 k.esc (y % (conflicts + 1)), waitMax := max k.waitMax (z % 513) }) s

/-- A pattern is copied into the store through port 7 (R33, R294). -/
def copyPattern (c : Nat) (s : State) : State :=
  let base := patternBase c
  let len := bodyLen c
  let src := areaCells s (slotBase c 2 + 64) len
  let cells := s.mem.cells.filter (fun x => x.1 < base) ++ src.map (fun x => (base + x.1, BitVec.ofNat 8 x.2)) ++
    s.mem.cells.filter (fun x => base + len ≤ x.1)
  let s := countCopy c (len / 8) { s with mem := { s.mem with
    cells, errWords := s.mem.errWords.filter (fun w => !(decide (base ≤ 8 * w) && decide (8 * w < base + len))) } }
  if s.chk.gus.any (fun g => g.en && (g.src = 39 || g.src = 49)) then
    let b := mramRead s (slotBase c 2 + 64) len
    guFeedSource 39 b (guFeedSource 49 b s)
  else s

/-- PILOT_PATTERN_BAD or BELAY_PATTERN_BAD (R437). -/
def patternBad (c : Nat) (f : Nat × Nat × Nat × Nat) (s : State) : State :=
  let s := { s with pwr := { s.pwr with
    pilotSubst := s.pwr.pilotSubst || c = 7, belaySubst := s.pwr.belaySubst || c = 8 } }
  raise (ev (if c = 7 then 0x0A20 else 0x0A21) f.1 f.2.1 f.2.2.1 f.2.2.2) s

/-- NO_PATTERN (R33). -/
def noPatterns (p b : Nat) (s : State) : State :=
  raise (ev 0x0A22 p b 0 0) { s with
    pwr := { s.pwr with noPattern := true }, nvm := { s.nvm with pilotArea := none, belayArea := none } }

/-- Both patterns are loaded (R33). -/
def loadPatterns (s : State) : State :=
  match patternFault s 7, patternFault s 8 with
  | none, none => copyPattern 8 (copyPattern 7 { s with nvm := { s.nvm with pilotArea := some 7, belayArea := some 8 } })
  | some f, none => patternBad 7 f (copyPattern 8 { s with nvm := { s.nvm with pilotArea := some 8, belayArea := some 8 } })
  | none, some f => patternBad 8 f (copyPattern 7 { s with nvm := { s.nvm with pilotArea := some 7, belayArea := some 7 } })
  | some p, some b => noPatterns p.1 b.1 s

/-- A load of a pattern's area is in progress (R368). -/
def areaLoading (s : State) (c : Nat) : Bool := s.nvm.pw.any (·.target = c)

/-- PATTERN_RELOAD (R292, R368): its load check and its copy read MRAM (R175). -/
def execPatternReload (belay : Bool) (s : State) : Res :=
  let c := if belay then 8 else 7
  let other := if belay then 7 else 8
  .next (
    if !storeUp s || !s.nvm.reloads.contains c || areaLoading s c then s
    else
      let s := openReads { s with nvm := { s.nvm with reloads := s.nvm.reloads.filter (· ≠ c) } }
      match patternFault s c with
      | none => copyPattern c s
      | some f =>
        let mine := if belay then s.nvm.belayArea else s.nvm.pilotArea
        let theirs := if belay then s.nvm.pilotArea else s.nvm.belayArea
        if mine ≠ some c then s
        else if theirs ≠ some other then
          let g := (patternFault s other).getD (0, 0, 0, 0)
          noPatterns (if belay then g.1 else f.1) (if belay then f.1 else g.1) s
        else
          patternBad c f { s with nvm := { s.nvm with
            pilotArea := if belay then s.nvm.pilotArea else some other, belayArea := if belay then some other else s.nvm.belayArea } })

/-! ### The lifetime block (R377, R387, R388) -/

/-- Saturating sum of a list of counts and the counts of a body from an offset. -/
def addCounts (b : List Byte) (off : Nat) (l : List Nat) : List Nat :=
  l.zipIdx.map (fun c => satAdd 32 c.1 (field b (off + 4 * c.2) 4))

/-- The counts of a body are added to the counts made since the reset. An entry of 0 seconds and D = 0 stands in the history where the
index of the next entry is past it. -/
def addLife (b : List Byte) (l : Life) : Life :=
  { modeS := addCounts b 8 l.modeS, tjS := addCounts b 32 l.tjS, ntcS := addCounts b 112 l.ntcS, currentS := addCounts b 192 l.currentS
    throttle := satAdd 32 l.throttle (field b 292 4), retrains := addCounts b 296 l.retrains
    shutdowns := satAdd 32 l.shutdowns (field b 316 4), nvmUnits := satAdd 64 l.nvmUnits (field b 320 8)
    defectNext := field b 328 2 % 256
    defectHist := ((List.range 256).map (fun i => (i, (field b (384 + 8 * i) 4, field b (388 + 8 * i) 4)))).filter
      (fun e => e.2 ≠ (0, 0) || decide (e.1 < field b 328 2 % 256)) }

/-- A record made before the load of a power-on gets its time (R377). -/
def completeRec (secs cycles : Nat) (r : Rec) : Rec :=
  if r.pre then { r with seconds := satAdd 32 r.seconds secs, cycles := cycles % 2 ^ 24, pre := false } else r

/-- The operating seconds of before are added to what was noted before the load of a power-on (R377). -/
def completeTimes (secs cycles : Nat) (s : State) : State :=
  let f := completeRec secs cycles
  { s with
    ao := { s.ao with seconds := satAdd 32 s.ao.seconds secs, cycles, needLoadAdd := false }
    evr := { s.evr with queue := s.evr.queue.map f, firstDrop := s.evr.firstDrop.map (fun t => satAdd 32 t secs) }
    twn := { s.twn with sendQueue := s.twn.sendQueue.map (fun t => { t with record := f t.record })
                        inFlight := s.twn.inFlight.map (fun t => { t with record := f t.record }) }
    flt := { s.flt with
      first := s.flt.first.map f, hist := s.flt.hist.map f, inj := s.flt.inj.map (fun i => { i with mark := f i.mark })
      marks := s.flt.marks.map (fun m => (m.1, m.2.1, satAdd 32 m.2.2 secs)) }
    thm := { s.thm with derateAt := satAdd 32 s.thm.derateAt secs, tripRec := s.thm.tripRec.map f } }

/-- The lifetime block is loaded (R377, R387); only the load after a power-on takes its operating seconds and power cycles (R411). -/
def loadLife (s : State) : State :=
  let b := match loadSlot s 9 with
    | some k => slotBody s 9 k
    | none => List.replicate 4096 0
  let l := addLife b s.evr.life
  let s := if s.ao.needLoadAdd then completeTimes (field b 4 4) (satInc 32 (field b 0 4)) s else s
  let found := (loadSlot s 9).isSome
  let s := { s with evr := { s.evr with life := l, state := 0, lifeLoaded := found } }
  if found then s
  else raise (ev 0x1003 (if slotCommitted s 9 0 then 1 else 0) (if slotCommitted s 9 1 then 1 else 0) 0 0) s

/-! ### The whole load -/

/-- Every word of the store is written to 0 before the NVM load (R291). -/
def zeroStore (s : State) : State := { s with mem := { s.mem with cells := [], errWords := [] } }

/-- A content that has been read takes effect: the trim once its factory copy has been read as well, the patterns when both have. -/
def takeContent (c : Nat) (s : State) : State :=
  match c with
  | 1 => loadTrim s
  | 2 => loadWicks s
  | 3 => loadWear s
  | 4 => loadDefects s
  | 5 => loadTherm (loadTwin s)
  | 6 => loadDroop s
  | 8 => loadPatterns s
  | 9 => loadLife s
  | _ => s

/-- Contents are loaded one after the other: the registers of R374, then the content itself. -/
def loadList (l : List Nat) (s : State) : State := l.foldl (fun s c => takeContent c (loadContent s c)) s

/-- The defect list and the wick set: what a quick KINDLE has read before its scan gives results (R44). -/
def firstContents : List Nat := [4, 2]

/-- The load of a quick KINDLE has got as far as the scan needs it (R44). -/
def loadFirst (s : State) : State :=
  if s.nvm.loading && !s.nvm.firstLoaded then
    loadList firstContents (openReads { s with nvm := { s.nvm with firstLoaded := true } })
  else s

/-- The NVM load, or what is left of it (R44, R361). -/
def loadAll (s : State) : State :=
  let l := loadContents s
  loadList (if s.nvm.firstLoaded then l.filter (fun c => !firstContents.contains c) else l) (openReads s)

/-- The scan of the KINDLE gives its results, once (R110): into the map and the registers, and HDRM_REQ follows it (R76). -/
def scanNow (s : State) : State :=
  match s.nvm.meas with
  | none => s
  | some m =>
    if s.diag.scanDone || s.pwr.mode ≠ .kindle then s
    else
      let s := runScan true m s
      { s with arr := { s.arr with duty := scanDuty m s } }

/-- NVM_LOAD_COMPLETE (R44, R361): a full KINDLE or a re-kindle then scans; a quick one scans when its array bias has settled. -/
def execNvmLoadComplete (m : CalMeas) (s : State) : Res :=
  guarded (measOk m) (
    if !awake s || s.pwr.mode ≠ .kindle || s.pwr.kindleStep ≠ 3 then s
    else
      let quick := s.pwr.flavor = .quick
      let s := if quick then s else { s with nvm := { s.nvm with meas := some m } }
      let s := loadAll { s with
        pwr := { s.pwr with kindleStep := 4 }
        nvm := { s.nvm with loading := false, loadDone := true } }
      if quick then s else scanNow s)

/-- CALIBRATION_COMPLETE (R44, R350 to R355): once the load is complete, the set is judged and staged. -/
def execCalibrationComplete (us : Nat) (s : State) : Res :=
  .next (
    match s.nvm.meas with
    | none => s
    | some m =>
      if !awake s || s.pwr.mode ≠ .kindle || !s.diag.scanDone || !s.nvm.loadDone || s.nvm.calResult ≠ 0 then s
      else judgeKindle m us s)

end Sys2Proof.Machine
end

