-- ==== Sys2Proof/Machine/Thermal.lean ====
section
/-! DEFINITION. Thermal management: sensors, derating, shutdown, scar cells, the NVM write window, the NTC input (R308 to R324). -/

namespace Sys2Proof.Machine

/-! ### Sensors (R309, R310) -/

/-- A sample is discarded: out of range, or more than 10 degC from the last accepted one (R309). -/
def discarded (x : Sensor) (v : Int) : Bool := v < -440 || 1600 < v || (x.seen && 80 < (v - x.temp).natAbs)

/-- A sensor takes its sample. -/
def takeSample (x : Sensor) (v : Int) : Sensor :=
  if x.excluded then x
  else if discarded x v then { x with bad := x.bad + 1, excluded := decide (3 ≤ x.bad + 1) }
  else { x with temp := v, seen := true, bad := 0, hist := (v :: x.hist).take 8 }

/-- What rounding adds to a quotient rounded down: nothing where it is exact, else 0 or 1, which the manual leaves open. -/
def roundFree (exact : Bool) (s : State) : Nat × State :=
  if exact then (0, s)
  else
    let (v, s) := takeFree s
    (v % 2, s)

/-- T_S and T_D are taken anew (R310); which way a mean between two steps is rounded is a free value. -/
def newTemps (s : State) : State :=
  let l := liveSensors s
  match hottest l with
  | none => s
  | some (n, t) =>
    let mean (x : Sensor) : Int := x.hist.foldl (· + ·) 0 * 840 / (x.hist.length : Int)
    let m := l.foldl (fun b c => max b (mean c.2)) (mean (s.thm.sensors.getD n {}))
    let (up, s) := roundFree (m % 840 = 0) s
    { s with thm := { s.thm with hotSensor := n, tS := t, tD := m / 840 + up } }

/-- A temperature as an event parameter. -/
def tempParam (t : Int) : Nat := twos 32 t

/-! ### Derating (R309, R311, R312) -/

/-- The condition of R311 in force: 1 down, 2 up, 0 hold. -/
def derateNow (s : State) : Nat :=
  if (8 * s.thm.cfg.knee : Int) < s.thm.tD then 1 else if s.thm.tD < 8 * ((s.thm.cfg.knee : Int) - 5) then 2 else 0

/-- F falls, with its counters; the records of R323. -/
def lowerF (f : Nat) (s : State) : State :=
  let was := s.thm.f
  let s := { s with
    thm := { s.thm with f, stepsDown := satInc 16 s.thm.stepsDown, lowestF := if was = 16 then f else min s.thm.lowestF f
                        derateAt := if was = 16 then s.ao.seconds else s.thm.derateAt }
    evr := { s.evr with life := { s.evr.life with throttle := satInc 32 s.evr.life.throttle } } }
  let s := if was = 16 then raiseF 0x0702 (tempParam s.thm.tD) s.thm.cfg.knee 0 s else s
  if f = 4 then raiseF 0x0703 (tempParam s.thm.tD) s.thm.cfg.knee 0 s else s

/-- F rises by one. -/
def raiseThermF (s : State) : State :=
  let s := { s with thm := { s.thm with f := s.thm.f + 1 } }
  if s.thm.f = 16 then noteF 0x0704 s.thm.lowestF (s.ao.seconds - s.thm.derateAt) 0 s else s

/-- DERATE_STEP (R311): the condition in force has held for 250 ms. -/
def execDerateStep (s : State) : Res :=
  .next (
    if !awake s then s
    else match s.thm.derateCond with
      | 1 => if 4 < s.thm.f then lowerF (s.thm.f - 1) s else s
      | 2 => if s.thm.f < topF s then raiseThermF s else s
      | _ => s)

/-- THERM_SENSE_LOST while more than 8 sensors are excluded; F is held at 8 or below (R309). -/
def senseLost (s : State) : State :=
  let n := (s.thm.sensors.filter (·.excluded)).length
  if n ≤ 8 || condIs 0x0706 0 s then s
  else
    let s := condOn 0 (ev 0x0706 n 0 0 s.ft.frameCount) s
    if 8 < s.thm.f then lowerF 8 s else s

/-! ### The write window (R317, R318) -/

/-- A store that the closed window broke off waits again, if it is automatic (R318). -/
def breakStore (s : State) : State :=
  match s.nvm.run with
  | none => s
  | some r =>
    let s := countDefers 1 (tearStore s)
    let s := r.who.foldl (resolveStore r.content stTempWindow) s
    if r.auto then requeueStore { content := r.content, patch := r.patch, deferred := true } s else s

/-- A COMMIT of PATTERN_WRITE or FW_PATCH that runs is abandoned, which is counted, and ends with TEMP_WINDOW (R318, R367). -/
def breakCommits (s : State) : State :=
  let pw := match s.nvm.pw with | some l => l.commits | none => []
  let fw := match s.cmd.patch with | some l => l.commits | none => []
  let s := if pw.isEmpty then s else completeEachOpen pw 0x43 stTempWindow (countDefers 1 (tearLoad s))
  if fw.isEmpty then s else completeEachOpen fw 0xF0 stTempWindow (countDefers 1 (tearPatch s))

/-- The window closes as soon as T_S leaves its range (R317). -/
def closeNvm (s : State) : State :=
  if !s.thm.nvmOpen || windowRange s then s
  else
    let s := breakCommits (resolveClosed (breakStore { s with thm := { s.thm with nvmOpen := false } }))
    note (ev 0x0707 (tempParam s.thm.tS) s.thm.deferStores 0 0) s

/-- NVM_WINDOW_OPEN (R317): T_S has stayed within -27.0 to 122.0 degC for 1 s. -/
def execNvmWindowOpen (s : State) : Res :=
  .next (if awake s && s.pwr.mode ≠ .kindle && decide (-216 ≤ s.thm.tS) && decide (s.thm.tS ≤ 976) then openNvm s else s)

/-! ### Shutdown (R313 to R316) -/

/-- The trip (R313). -/
def trip (s : State) : State :=
  if s.thm.tS < 1240 then s
  else condOn 0 (ev 0x0701 s.thm.hotSensor (tempParam s.thm.tS) (modeCode s.pwr.mode) s.ft.frameCount) s

/-- A changed configuration takes effect at the 1 ms evaluation (R319, R321). -/
def takeTherm (s : State) : State :=
  match s.thm.pendCfg with
  | none => s
  | some c => { s with thm := useTherm c s.thm }

/-- THERM_SENSOR_FAULT for a sensor that this sample excluded (R309). -/
def sensorFault (before : List Sensor) (samples : List Int) (s : State) (n : Nat) : State :=
  if (s.thm.sensors.getD n {}).excluded && !(before.getD n {}).excluded then
    raise (ev 0x0705 n (tempParam (samples.getD n 0)) ((s.thm.sensors.filter (·.excluded)).length) 0) s
  else s

/-- THERMAL_SAMPLE (R309 to R317): every 1 ms, from LDO regulation on, in every mode except DORMANT; its events in
descending level (R328). -/
def execThermalSample (samples : List Int) (s : State) : Res :=
  guarded (samples.length = 36) (
    if !awake s || !s.pwr.ldoOk then s
    else
      let s := takeTherm s
      let before := s.thm.sensors
      let s := { s with thm := { s.thm with
        sensors := before.zipIdx.map (fun c => takeSample c.1 (samples.getD c.2 0)) } }
      let s := newTemps s
      let s := trip { s with thm := { s.thm with derateCond := derateNow s } }
      closeNvm (senseLost ((List.range 36).foldl (sensorFault before samples) s)))

/-- SCAR_RECORD_WRITE (R314): the high-margin write of the shutdown record begins. -/
def execScarRecordWrite (s : State) : Res :=
  .next (
    match s.thm.tripRec with
    | none => s
    | some r =>
      if !awake s then s
      else beginScar 1 0 r (fun lost => le 2 (twos 16 s.thm.tripArr) ++ le 2 (twos 16 s.thm.tripPeri) ++ le 2 (ntcWord s.thm) ++
        le 1 s.thm.tripF ++ le 1 lost ++ List.replicate 16 0) { s with thm := { s.thm with tripRec := none } })

/-- SCAR_WRITE_COMPLETE (R313, R314, R385): the cell stands; SCAR_DONE of its kind is set. -/
def execScarWriteComplete (s : State) : Res :=
  .next (
    match s.thm.scarWriting with
    | [] => s
    | (i, b) :: rest =>
      if !awake s then s
      else
        let s := scarWrite i b { s with thm := { s.thm with scarWriting := rest } }
        if i < 8 then { s with thm := { s.thm with scarDone := true } } else { s with evr := { s.evr with scarDone := true } })

/-- Valid cells of a kind that are not copied and whose copy does not wait in the staging queue, oldest first (R315). -/
def copyOrder (s : State) (kind lo : Nat) : List Nat :=
  match scarNewest s kind lo with
  | none => []
  | some n => ((List.range 8).map (fun k => lo + (n - lo + 1 + k) % 8)).filter
      (fun i => scarUncopied s kind i && !s.evr.queue.any (·.cell = some i))

/-- A cell's record enters the staging queue, if it has a free entry; the cell is marked once the log holds the copy (R315; DESIGN
CHOICE, log entry 91). -/
def copyScar (s : State) (i : Nat) : State :=
  if 64 ≤ s.evr.queue.length then s else enqueue { recOf (slice (scarCell s i) 4 32) with cell := some i } s

/-- SCAR_COPY (R315, R384, R385): while the window is open and the rings are written; with the window closed the copies are deferred,
which is counted once for each. -/
def execScarCopy (s : State) : Res :=
  .next (
    if !awake s || ramOnly s then s
    else
      let due := copyOrder s 1 0 ++ copyOrder s 2 8
      if s.thm.nvmOpen then due.foldl copyScar (if due.isEmpty then s else openReads s)
      else
        let fresh := due.filter (fun i => !s.thm.scarDeferred.contains i)
        countDefers fresh.length { s with thm := { s.thm with scarDeferred := s.thm.scarDeferred ++ fresh } })

/-- The thermal shutdown is left (R312, R316, R338): its cause goes, an injected one with it, its class is cleared, and the next KINDLE
ends with F = 4; whether a re-kindle follows. -/
def leaveShutdown (s : State) : Bool × State :=
  let s := clearClasses (2 ^ 7) { s with
    flt := { s.flt with conds := s.flt.conds.filter (fun c => c.code ≠ 0x0701) }, pwr := { s.pwr with exitThermal := true } }
  (s.pwr.mode = .snuffed && !anyHold s.flt, s)

/-- AUTO_REKINDLE (R316): T_S has stayed below 130 degC for 100 ms. -/
def execAutoRekindle (s : State) : Res :=
  .next (
    if awake s && s.thm.cfg.autoRekindle && condPresent s.flt 0x0701 && decide (s.thm.tS < 1040) then
      let (rek, s) := leaveShutdown s
      if rek then rekindle 3 s else s
    else s)

/-- THERM_CLEAR (R316, R322) -/
def execThermClear (rq : Rq) (s : State) : Res :=
  request rq 0x91 anyMode (lenIs 0) false (fun s =>
    if !condPresent s.flt 0x0701 || 1040 ≤ s.thm.tS then rep stRefused s
    else
      let (rek, s) := leaveShutdown s
      repOk (le 1 (if rek then 1 else 0)) (if rek then rekindle 3 s else s)) s

/-- THERM_CONFIG (R321) -/
def execThermConfig (rq : Rq) (s : State) : Res :=
  let p := rq.payload
  let store := (field p 1 1).testBit 2
  request rq 0x90 anyMode (lenIs 8) false (fun s =>
    if !thermFieldsOk p then rep stBadParam s
    else if store && !s.thm.nvmOpen then tempWindow s
    else
      let s := { s with
        thm := { s.thm with pendCfg := some (thermOf p) } }
      rep stOk (if store then requestStore 5 [(73, le 1 0xA5 ++ thermBytes (thermOf p))] s else s)) s

/-- ln (n / d) in units of 2^-64, from the exponent of 2 and the series of the inverse hyperbolic tangent. -/
def lnFix (n d : Nat) : Int :=
  let one := 2 ^ 64
  let q := n * 2 ^ 128 / d
  let m := q * one / 2 ^ q.log2
  let z := (m - one) * one / (m + one)
  let series := (List.range 40).foldl (fun (a : Nat × Nat) i => (a.1 + a.2 / (2 * i + 1), a.2 * z / one * z / one)) (0, z)
  2 * (series.1 : Int) + ((q.log2 : Int) - 128) * 12786308645202655660

/-- The temperature of a valid NTC code in 1/8 degC (R319): 1 / (1 / 298.15 K + ln (R_NTC / RES_25C) / BETA) - 273.15. At RES_25C it is 25.0 degC; how another one is
rounded to 1/8 degC is a free value, and so is a temperature that the formula does not give or the field cannot hold. -/
def ntcConvert (code beta res : Nat) (s : State) : Int × State :=
  let one : Int := 2 ^ 64
  let den := 100 * (beta : Int) * one + 29815 * lnFix (10000 * code) ((4096 - code) * res)
  let num := 8 * 29815 * beta * one * 100 - 8 * 27315 * den
  let t := Int.fdiv num (100 * den)
  let (v, s) := takeFree s
  if num = 100 * den * t && t = 200 then (t, s)
  else if den = 0 || t < -32767 || 32766 < t then (sext 16 v, s) else (t + v % 2, s)

/-- NTC_CONVERSION (R319) -/
def execNtcConversion (code : Nat) (s : State) : Res :=
  guarded (code < 4096) (
    if !awake s || !s.thm.cfg.ntcEn then s
    else if code ≤ 16 || 4080 ≤ code then
      let was := s.thm.ntcBad
      let s := { s with thm := { s.thm with ntcCode := code, ntcTemp := none, ntcBad := true } }
      if was then s else note (ev 0x0708 code 0 0 0) s
    else
      let (t, s) := ntcConvert code s.thm.cfg.beta s.thm.cfg.res s
      { s with thm := { s.thm with ntcCode := code, ntcTemp := some t, ntcBad := false } })

end Sys2Proof.Machine
end

