-- ==== Sys2Proof/Machine/Frame.lean ====
section
/-! DEFINITION. The frame latch: the slot, wear and headroom of the frame that ends, the mode change, blanking, staged values, the swap
of shadow and active, and the frame that begins (R22, R28, R35, R45, R48, R66 to R77, R278, R347, R400 to R403). -/

namespace Sys2Proof.Machine

/-! ### The frame that ends -/

/-- Charge of a frame that was lit throughout (R87). -/
def latchWear (s : State) : State := if s.arr.acc.counted && !s.arr.acc.sinkCleared then accumulateWear s else s

/-- Another boundary is counted; in KINDLE the count does not move (R30). -/
def latchCount (s : State) : State :=
  if s.pwr.mode = .kindle then s else modFt (fun f => { f with frameCount := wrapInc 32 f.frameCount }) s

/-- LOW_COUNT and the runs of latches over its limits (R77). -/
def latchLowCount (s : State) : State :=
  let a := s.arr
  let low := a.acc.low.length
  { s with arr := { a with
      lowCount := low, limitRun := if a.lowLimit < low && a.duty = 1187 then min (a.limitRun + 1) 17 else 0
      lostRun := if 10368 < low then min (a.lostRun + 1) 5 else 0 } }

/-- HDRM_LOST at the fourth latch of its run (R77). -/
def latchLost (vledMv : Nat) (s : State) : State :=
  if s.arr.lostRun = 4 then raiseF 0x0603 s.arr.lowCount s.arr.duty vledMv s else s

/-- HDRM_LIMIT at the sixteenth latch of its run (R77). -/
def latchLimit (vledMv : Nat) (s : State) : State :=
  if s.arr.limitRun = 16 then raiseF 0x0602 s.arr.lowCount s.arr.duty vledMv s else s

/-- V_REQ in mV (R74); a fraction is rounded to either side. -/
def vReq (s : State) : Nat × State :=
  let n := 2800 * 1250 + 2400 * s.arr.duty
  if n % 1250 = 0 then (n / 1250, s)
  else
    let (f, s) := takeFree s
    (n / 1250 + f % 2, s)

/-- A judged latch of VLED_OVER (R347): BEAM, PILOT or BELAY with D not 0. -/
def latchVled (vledMv : Nat) (s : State) : State :=
  if !litMode s.pwr.mode || s.arr.duty = 0 then s
  else
    let above := decide (3400 * 1250 + 2400 * s.arr.duty < 1250 * vledMv)
    let s := { s with arr := { s.arr with
      vledOver := if above then min (s.arr.vledOver + 1) 16 else 0, vledUnder := if above then 0 else min (s.arr.vledUnder + 1) 16 } }
    if s.arr.vledOver = 16 && !condIs 0x0803 0 s then
      let (v, s) := vReq s
      condOn 0 (ev 0x0803 vledMv v s.arr.duty s.ft.frameCount) s
    else if s.arr.vledUnder = 16 then condOff 0x0803 0 s
    else s

/-- The automatic headroom loop (R75, R76); from D = 0 the first step goes to 63, the lowest code that is put out beside 0 (R74; DEDUCED,
log entry 80). -/
def latchHeadroom (s : State) : State :=
  let a := s.arr
  if !litMode s.pwr.mode || s.pwr.dark || !a.auto || a.acc.lit.isEmpty then s
  else if a.lowLimit < a.lowCount then
    { s with arr := { a with duty := max 63 (min (a.duty + max a.upStep 1) 1187), lowFrames := 0 } }
  else if a.lowCount = 0 then
    if 4 ≤ a.lowFrames + 1 then { s with arr := { a with duty := max (a.duty - 1) 63, lowFrames := 0 } }
    else { s with arr := { a with lowFrames := a.lowFrames + 1 } }
  else s

/-- The frame that ends: flags, charge, count, headroom; its counts go to the verdicts, but for pixels that DIS held off during the
frame, which are not tested (R100). -/
def closeFrame (flags : List PixFlags) (vledMv : Nat) (s : State) : State :=
  let s := latchCount (latchWear (collectSlot flags s))
  let s := latchHeadroom (latchLimit vledMv (latchVled vledMv (latchLost vledMv (latchLowCount s))))
  { s with
    arr := { s.arr with
      vledMv, accPrev := { s.arr.acc with lit := s.arr.acc.lit.filter (fun k => !s.arr.dis.contains k.pix) } }
    diag := { s.diag with probedPrev := s.diag.probedActive, dprPrev := s.diag.dprForce } }

/-! ### Mode changes (R35, R36, R45) -/

/-- What the entry into a mode makes of a pending SET_MODE (R36, R41). `own`: the device decided to enter the mode. -/
def settlePending (m : Mode) (own : Bool) (s : State) : State :=
  match s.pwr.pend with
  | none => s
  | some p =>
    if own then endPending stSuperseded s
    else if p.target = m then
      complete p.handle 0x10 p.src stOk (modeCode m) s.ft.frameCount { s with pwr := { s.pwr with pend := none } }
    else s

/-- A lit mode is entered at its frame latch; BELAY ends blanking, a sleep entry and a calibration (R48, R370, R404). -/
def enterLit (m : Mode) (cause : Nat) (own : Bool) (s : State) : State :=
  let s := settlePending m own (enterMode m cause s)
  let s := if m = .belay then abandonPower (abortCal (endBlanking s)) else s
  if m = .beam then { s with pwr := { s.pwr with hostSrc := 255 } } else s

/-- The mode decided at the compose latch is entered with the frame that shows it (R35). -/
def latchMode (s : State) : State :=
  match s.pwr.next with
  | some (m, cause) => if s.scl.comp.ok && litMode s.pwr.mode then enterLit m cause (cause ≠ 4) s else s
  | none => s

/-- KINDLE ends at this boundary (R45): its first compose has passed its mapper-flush point. -/
def kindleEnds (s : State) : Bool := s.pwr.mode = .kindle && s.pwr.workDone && s.scl.comp.flushed

/-- KINDLE ends (R44, R45, R49, R273, R330): a twin is ABSENT, unless a re-kindle keeps it LOST; a pending PILOT is done; a pending BEAM waits on, or is superseded where a PILOT
trigger decided at the end of the work. -/
def endKindle (totalUs : Nat) (s : State) : State :=
  let m := match s.pwr.next with | some (m, _) => m | none => .pilot
  let s := modFt (fun f => { f with frameCount := 0 }) s
  let s := if paired s && !(s.twn.state = 3 && s.pwr.flavor = .rekindle) then twinState 1 s else s
  let s := { s with pwr := { s.pwr with
    kindleStep := 6, totalUs := min totalUs 65535, lanesUntrained := hrxTrained s = 0, readyPin := true } }
  enterLit m 5 (m = .pilot && s.pwr.ownPilot && !pendFor .pilot s) s

/-! ### Dark and lit (R48, R67, R68, R370, R400, R402, R403) -/

/-- Blanking begins, and the SLEEP_UNTIL that asked for it completes (R400). -/
def latchBlanking (s : State) : State :=
  if s.pwr.blankReq.isSome then
    finishPower stOk 0 s.pwr.estMs { s with pwr := { s.pwr with blankReq := none, blanking := true, dark := true, blankP3 := true } }
  else s

/-- A PIXEL_TEST is outstanding or a CALIBRATE runs: the ARRAY block is busy (R402). -/
def arrayBusy (s : State) : Bool := s.diag.test.isSome || s.nvm.calRun.isSome

/-- The ARRAY block of a sleep entry stops (R402). -/
def stopArray (s : State) : State :=
  { s with pwr := { s.pwr with dark := true, biasOn := false, biasSettled := false, entryStep := 2 } }

/-- A sleep entry that waits for its frame latch. -/
def latchSleep (s : State) : State := if entryInProgress s && s.pwr.entryStep = 1 && !arrayBusy s then stopArray s else s

/-- A CALIBRATE FULL makes the array dark (R370). -/
def latchCalibrate (s : State) : State :=
  match s.nvm.calRun with
  | some r => if r.full && r.stage = 0 then
      { s with nvm := { s.nvm with calRun := some { r with stage := 1 } }, pwr := { s.pwr with dark := true } } else s
  | none => s

/-- The staged set comes into use (R67), and a CALIBRATE FULL ends with it (R370). -/
def latchStaged (s : State) : State :=
  match s.arr.staged with
  | some c =>
    if arrayDark s || s.scl.comp.ok then
      endFull { s with arr := { s.arr with
        staged := none, trim := c.trim.getD s.arr.trim, sinkOfs := c.offset.getD s.arr.sinkOfs, preLevel := c.pre.getD s.arr.preLevel } }
    else s
  | none => s

/-- The array is lit again after a sleep entry that was given up (R403). -/
def relightNow (s : State) : State :=
  if relightDue s then
    let due := s.pwr.relight
    let s := { s with pwr := { s.pwr with relight := none, litDue := false, dark := s.pwr.blanking } }
    match due with
    | some (st, b, r) => if st = stSuperseded then supersedePower s else finishPower st b r s
    | none => s
  else s

/-- A frame latch loads zeros (R68). -/
def loadsZero (s : State) : Bool := arrayDark s

/-- The swap of shadow and active, GREF and the governor's sums (R28, R66, R68, R70, R71). -/
def swapWords (s : State) : State :=
  let ok := s.scl.comp.ok
  let s :=
    if loadsZero s then
      { s with
        arr := { s.arr with active := [], sumActive := (0, 0, 0, 0), gref := 256, zeroLoad := true }
        diag := { s.diag with probedActive := [] } }
    else if ok then
      { s with
        arr := { s.arr with
          active := s.arr.shadow, sumActive := s.arr.sumShadow, gref := s.arr.grefNext, zeroLoad := false
          dis := s.arr.dis.filter (fun p => !s.diag.releaseArmed.contains p) }
        diag := { s.diag with probedActive := s.diag.probed, releaseArmed := [], dprForce := s.scl.comp.dpr } }
    else { s with arr := { s.arr with gref := s.arr.grefNext, zeroLoad := false } }
  { s with arr := { s.arr with
      lastFlipped := ok, limitFrames := if s.arr.gref < 256 then satInc 24 s.arr.limitFrames else s.arr.limitFrames } }

/-- BUDGET_LIMIT: LIMITED goes from 0 to 1 at this latch (R73, R79), at which GREF becomes that of `t` in frame `t.ft.frameCount`. -/
def latchLimited (t s : State) : State :=
  if decide (t.arr.gref < 256) && decide (256 ≤ s.arr.gref) then
    note (ev 0x0601 (cdiv s.arr.grefP 1000000) s.arr.grefB t.arr.gref t.ft.frameCount) s
  else s

/-- A boundary that flips ends a run of misses and removes COMPOSE_OVERRUN (R170). -/
def clearMisses (s : State) : State :=
  if s.scl.comp.ok then
    condOff 0x0302 0 { s with scl := { s.scl with missRun := 0, comp := { s.scl.comp with ok := false } } }
  else s

/-- READY at a frame latch (R47, R48). -/
def latchReady (ok : Bool) (s : State) : State :=
  { s with pwr := { s.pwr with readyPin := if loadsZero s then false else s.pwr.readyPin || (ok && litMode s.pwr.mode) } }

/-! ### The frame that begins -/

/-- Pixels lit in the frame (R100): a width, and a sink that DIS does not hold off. -/
def litPixels (s : State) : List PixAcc :=
  ((litWords s.arr.active).filter (fun c => wWidth c.2 ≠ 0 && !s.arr.dis.contains c.1)).map (fun c => { pix := c.1, word := c.2 })

/-- An outstanding PIXEL_TEST takes the frame (R120). -/
def latchTest (testDue : Bool) (s : State) : State :=
  if testDue then
    { s with diag := { s.diag with test := s.diag.test.map (fun t => if t.testing then t else { t with testing := true, frame := s.ft.frameCount }) } }
  else s

/-- A SYNC word enters TWTX at every boundary (R221, R278). -/
def sendSync (s : State) : State :=
  if twtxOpen s then
    sendSyms .twin (.ctl 0x7C :: dataSyms (le 1 s.rope.syncSeq ++ le 2 (s.ft.frameCount % 65536)))
      { s with rope := { s.rope with syncSeq := wrapInc 8 s.rope.syncSeq } }
  else s

/-- The frame begins with slot A of scan cycle 0, with FSYNC_OUT, and with a STATUS due (R14, R22, R233). -/
def openFrame (testDue : Bool) (s : State) : State :=
  let counted := litMode s.pwr.mode && !s.pwr.dark && s.arr.sinkEn
  let s := { s with arr := { s.arr with acc := { lit := litPixels s, counted }, slot := some {} } }
  sendSync (statusDue 0 0xFF 0xFF (latchTest testDue (modFt (fun f => { f with fsyncOut := f.fsyncOutEn }) s)))

/-- What takes effect at a boundary: the mode, what makes the array dark or lit, staged values, the swap. -/
def takeEffect (totalUs : Nat) (s : State) : State :=
  let s := if kindleEnds s then endKindle totalUs s else latchMode s
  swapWords (relightNow (latchStaged (latchCalibrate (latchSleep (latchBlanking s)))))

/-- The boundary: the frame that ends, what takes effect, the frame that begins. A BUDGET_LIMIT of this boundary is recorded before the
MODE_CHANGE of the same clock (R328). -/
def frameLatch (flags : List PixFlags) (vledMv totalUs : Nat) (testDue : Bool) (s : State) : State :=
  let s := latchRole (latchTimer (closeFrame flags vledMv s))
  let s := takeEffect totalUs (latchLimited (takeEffect totalUs s) s)
  openFrame testDue (latchReady s.scl.comp.ok (clearMisses s))

/-- FRAME_LATCH (R66) -/
def execFrameLatch (flags : List PixFlags) (vledMv totalUs : Nat) (testDue : Bool) (s : State) : Res :=
  guarded (flagsOk flags) (if awake s && s.ft.running then frameLatch flags vledMv totalUs testDue s else s)

end Sys2Proof.Machine
end

