-- ==== Sys2Proof/Machine/Bringup.lean ====
section
/-! DEFINITION. Resets, and the KINDLE sequence from instant P to its first compose latch (R43 to R46, R309, R312, R377, R410 to R412,
R418 to R427, R438). -/

namespace Sys2Proof.Machine

/-! ### Resets (R412) -/

/-- POWER_ON (R357, R377, R409, R412): a rise of VDD_AO counts a power cycle; a fall below the brown-out threshold resets as well. Words
of the MRAM and of the scar area may hold an uncorrectable error from then on. -/
def execPowerOn (rise as0 as1 : Bool) (bad scarBad : List Nat) (s : State) : Res :=
  let cycles := if rise then satInc 32 s.ao.cycles else s.ao.cycles
  let ao : Ao := { cycles, wakeLevel := s.ao.wakeLevel, i2cAddr := if rise then wakeAddr as0 as1 else s.ao.i2cAddr }
  let t := hardReset ao .full { s with pwr := { s.pwr with testEn := false } }
  guarded (bad.all (fun w => decide (w < 0x100000)) && scarBad.all (fun w => decide (w < 128)))
    { t with nvm := { t.nvm with badWords := bad.foldl (fun l w => insertNat w l) t.nvm.badWords
                                 scarBad := scarBad.foldl (fun l w => insertNat w l) t.nvm.scarBad } }

/-- RESET_N_ASSERT (R409, R412, R427) -/
def execResetNAssert (as0 as1 : Bool) (s : State) : Res :=
  .next (hardReset { aoReset 1 s.ao with i2cAddr := wakeAddr as0 as1 } .full s)

/-- SUPPLY_DIP (R412, R422): outside DORMANT, and while the internal reset is released. -/
def execSupplyDip (_rail : Rail) (s : State) : Res :=
  .next (if s.pwr.inReset || s.pwr.mode = .dormant then s else hardReset (aoReset 3 s.ao) .full s)

/-- SUPPLY_LOSS_IN_S1 (R422): the device falls to S2 and loses its wake timer. -/
def execSupplyLossInS1 (_rail : Rail) (s : State) : Res :=
  .next (
    if !s.pwr.inReset && s.ao.sleepState = 1 then
      { s with ao := { s.ao with sleepState := 2, timerArmed := false, timerExpired := false } }
    else s)

/-- TEST_EN_ASSERT (R418): the device is held in reset with its sinks off; no sleep state, no window and no wake timer lasts. -/
def execTestEnAssert (s : State) : Res :=
  .next (hardReset { s.ao with sleepState := 0, timerArmed := false, timerExpired := false, i2cMatched := false, inWindow := false } .full
    { s with pwr := { s.pwr with testEn := true } })

/-- RESET_RELEASE (R420): instant P. -/
def execResetRelease (s : State) : Res := .next (if s.pwr.inReset && !s.pwr.testEn then startKindle s else s)

/-! ### Bring-up (R410) -/

/-- Bring-up goes on: KINDLE, or SNUFFED entered before Limral was ready, unless a fault stopped the boot (R438). -/
def bringing (s : State) : Bool := awake s && !s.pwr.dead && !s.pwr.limral

/-- A step of the KINDLE sequence begins. -/
def kindleStep (n : Nat) (s : State) : State :=
  if s.pwr.mode = .kindle then { s with pwr := { s.pwr with kindleStep := n } } else s

/-- LDO_REGULATION (R76, R410): the first request on HDRM_REQ. -/
def execLdoRegulation (s : State) : Res :=
  .next (
    if bringing s && !s.pwr.ldoOk then
      { s with pwr := { s.pwr with ldoOk := true }, arr := { s.arr with duty := if s.pwr.mode = .kindle then 313 else s.arr.duty } }
    else s)

/-- PLL_LOCK (R410): the clocks run and Limral boots. -/
def execPllLock (s : State) : Res :=
  .next (if bringing s && s.pwr.ldoOk && !s.pwr.pllOk then kindleStep 1 { s with pwr := { s.pwr with pllOk := true } } else s)

/-- The NVM load of a KINDLE begins, and FAULT_N follows the collector (R47, R291). -/
def beginLoad (s : State) : State :=
  zeroStore { s with pwr := { s.pwr with bistDone := true, kindleStep := 3 }, nvm := { s.nvm with loading := true } }

/-- Training begins on every enabled lane; a re-kindle keeps the lanes (R44, R205). -/
def startLanes (s : State) : State :=
  if s.pwr.flavor = .rekindle then s
  else (List.range 5).foldl (fun s l => if laneEnabled s l then restartLane l s.lnk.maxRate s else s) s

/-- The frame timer starts with LOCK_SRC = OWN; a re-kindle keeps it (R45). -/
def startTimer (s : State) : State := if s.pwr.flavor = .rekindle || s.ft.activeSrc ≠ 0 then s else hardStart s

/-- Limral is ready: patch check, ports, frame timer, store, lanes and array bias; then BIST, or the load of a quick KINDLE. -/
def limralReady (s : State) : State :=
  let s := loadHeader (bootPatch { s with pwr := { s.pwr with limral := true, biasOn := true } })
  let s := startLanes (startTimer s)
  if s.pwr.mode ≠ .kindle then s
  else if s.pwr.flavor = .quick then beginLoad s
  else kindleStep 2 s

/-- LIMRAL_READY (R43 to R45, R265, R410, R438) -/
def execLimralReady (s : State) : Res := .next (if bringing s && s.pwr.pllOk then limralReady s else s)

/-- ARRAY_BIAS_SETTLED (R44, R69, R403, R410): in KINDLE sink-enable is set; a quick KINDLE scans, alongside its NVM load. -/
def execArrayBiasSettled (m : CalMeas) (s : State) : Res :=
  guarded (measOk m) (
    if !awake s || !s.pwr.biasOn || s.pwr.biasSettled then s
    else
      let s := { s with pwr := { s.pwr with biasSettled := true } }
      if s.pwr.mode ≠ .kindle then s
      else
        let s := { s with arr := { s.arr with sinkEn := true } }
        if s.pwr.flavor = .quick then scanNow (loadFirst { s with nvm := { s.nvm with meas := some m } }) else s)

/-- Codes of the BIST failures, by block (R46). -/
def bistCode (block : Nat) : Nat := [0x01F0, 0x03F0, 0x04F0, 0x06F0, 0x09F0, 0x0AF0, 0x0DF0].getD block 0

/-- BIST_COMPLETE (R46, R47) -/
def execBistComplete (fail : Option BistFail) (s : State) : Res :=
  guarded (fail.all (fun f => decide (f.block < 7))) (
    if !awake s || s.pwr.mode ≠ .kindle || s.pwr.kindleStep ≠ 2 then s
    else match fail with
      | none => beginLoad s
      | some f => raise (ev (bistCode f.block) f.unit f.addr f.step f.units) { s with pwr := { s.pwr with bistFail := true } })

/-! ### The end of KINDLE work (R45, R46) -/

/-- The mode in which KINDLE will end, decided at its first compose latch; a PILOT trigger that stands then decides for PILOT (R34,
R37, R330). -/
def decideKindle (s : State) : State :=
  let m : Mode := if mayBeam s && !belayTrigger s then .beam else .pilot
  { s with pwr := { s.pwr with next := some (m, 5), ownPilot := pilotTrigger s, pend := s.pwr.pend.map (commitBeam m) } }

/-- KINDLE_WORK_COMPLETE (R45): the first compose latch, at once. -/
def execKindleWorkComplete (workUs : Nat) (s : State) : Res :=
  .next (
    if !awake s || s.pwr.mode ≠ .kindle || s.pwr.workDone || s.nvm.calResult = 0 then s
    else
      let s := { s with pwr := { s.pwr with workUs := min workUs 65535, kindleStep := 5, workDone := true } }
      composeLatch decideKindle 0 (startWithoutReference (kindleF s)))

/-- KINDLE_TIMEOUT (R46, R438): work is not complete 60 ms after P. -/
def execKindleTimeout (s : State) : Res :=
  .next (
    if !awake s || s.pwr.mode ≠ .kindle || s.pwr.workDone then s
    else
      raise (ev 0x0E02 s.pwr.kindleStep (hrxTrained s) 0 0) s)

end Sys2Proof.Machine
end

