-- ==== Sys2Proof/Machine/Registers.lean ====
section
/-! DEFINITION. The register file as READ_REG shows it: one word for every address, built from the state (R258, and the register tables of
every chapter). -/

namespace Sys2Proof.Machine

/-- A field of a register word: `w` bits from bit `lo`. -/
def fw (v lo w : Nat) : Nat := v % 2 ^ w * 2 ^ lo

/-- Two 16-bit fields. -/
def halves (low high : Nat) : Nat := fw low 0 16 + fw high 16 16

/-! ### ID (R267) -/

/-- ID_STEPPING.LETTER: a capital letter. -/
def stepLetter : Nat := 65 + Config.steppingLetter.toNat % 26

/-- ID_STEPPING.NUMBER: 0 to 9. -/
def stepNumber : Nat := Config.steppingNumber.toNat % 10

/-- Block ID. -/
def readId (o : Nat) (s : State) : Nat :=
  match o with
  | 0x00 => 0x1440 + fw 0xD1 16 8
  | 0x04 => stepLetter + fw stepNumber 8 8 + fw 0x0100 16 16
  | 0x08 => Config.uid.toNat % 2 ^ 32
  | 0x0C => Config.uid.toNat / 2 ^ 32
  | 0x10 => Config.romVersion.toNat
  | 0x14 => s.cmd.patchVer
  | 0x18 => fw s.ao.i2cAddr 0 7 + flag Config.debugFused 7
  | _ => 0

/-! ### PWR (R49, R415) -/

/-- Code of a power request: 0 none, 1 SET_PLEVEL, 2 SLEEP_UNTIL. -/
def powerCode : Option PowerReq → Nat
  | none => 0
  | some r => if r.sleep then 2 else 1

/-- Block PWR, modes. -/
def readPwrModes (o : Nat) (s : State) : Nat :=
  let p := s.pwr
  match o with
  | 0x00 => modeCode p.mode + flag p.dark 3 + fw p.prevMode 4 3 + flag p.quick 7 +
      fw (match p.pend with | some q => modeCode q.target | none => 7) 8 3 + fw p.kindleStep 12 4 + fw p.entryCause 16 8
  | 0x04 => halves p.beamWaitMs p.hostTimeoutMs
  | 0x08 => p.entrySeconds
  | 0x0C => halves p.workUs p.totalUs
  | 0x10 => flag p.bistFail 0 + flag p.calRejected 1 + flag p.calFactory 2 + flag p.pilotSubst 3 + flag p.belaySubst 4 +
      flag p.noPattern 5 + flag p.kindleTimeout 6 + flag p.lanesUntrained 7
  | 0x14 => halves p.pilotEntries p.belayEntries
  | 0x18 => halves p.snuffEntries p.rekindles
  | _ => 0

/-- Block PWR. -/
def readPwr (o : Nat) (s : State) : Nat :=
  let p := s.pwr
  match o with
  | 0x100 => fw p.plevel 0 2 + fw p.plevelTarget 4 2 + flag p.changing 8 + flag p.blankP3 9 + fw p.changes 16 16
  | 0x104 => fw (powerCode p.active) 0 2 + fw (powerCode p.waiting) 2 2 + fw p.entryStep 4 4 + fw p.superseded 16 16
  | 0x108 => fw p.chosen 0 2 + flag p.lastForce 2 + flag p.lastMaxS1 3 + fw p.estMs 16 16
  | 0x10C => fw p.refBlock 0 4 + fw p.refReason 4 4 + fw p.refusals 16 16
  | 0x110 => fw s.ao.resetCause 0 2 + fw s.ao.wakeSource 4 3 + fw s.ao.slept 8 2 + flag s.ao.forced 10
  | 0x114 => s.ao.dormantS
  | 0x118 => halves s.ao.lossRecords s.ao.lossCountS
  | 0x11C => halves s.ao.sleepsS1 s.ao.sleepsS2
  | _ => readPwrModes o s

/-! ### LNK (R217, R235) -/

/-- A transmit lane's control word. -/
def txWord (t : TxCtl) : Nat := fw t.swing 0 4 + fw t.deemph 4 2 + fw t.pattern 8 3

/-- A receive lane's registers. -/
def readLane (o : Nat) (x : Lane) : Nat :=
  let tap (i : Nat) := x.taps.getD i 0
  match o with
  | 0x00 => fw x.mode 0 3 + flag x.manualEq 3 + flag x.dfeFreeze 4 + fw x.ctle 8 4 + fw x.testRate 12 3
  | 0x04 => laneCode x.state + fw x.rate 4 3 + flag x.shared 7 + fw x.failR 8 4 + fw x.cause 12 4 + fw x.slip 16 6 + flag x.parked 22 +
      flag x.inBond 23 + fw x.failN 24 8
  | 0x08 => fw x.ctleUsed 0 4 + fw (twos 7 (tap 4)) 8 7 + fw x.eyeH 16 8 + fw x.eyeW 24 6
  | 0x0C => twos 8 (tap 0) + fw (twos 7 (tap 1)) 8 7 + fw (twos 7 (tap 2)) 16 7 + fw (twos 7 (tap 3)) 24 7
  | 0x10 => halves x.codeErr x.dispErr
  | 0x14 => halves x.fails x.retrains
  | 0x18 => halves x.relocks x.trainMs
  | 0x1C => fw x.deskew 0 4 + fw x.skewNs 8 8 + fw x.excluded 16 16
  | 0x20 => x.prbsErrors
  | 0x24 => x.raw
  | 0x28 => fw (x.raw / 2 ^ 32) 0 8 + flag x.prbsLock 8
  | _ => 0

/-- A result entry of the eye monitor (R210). -/
def eyeWord (e : Int × Int × Nat) : Nat := min e.2.2 65535 + fw (twos 7 e.1) 16 7 + fw (twos 6 e.2.1) 24 6

/-- A path's registers. -/
def readPath (o : Nat) (r : RPath) : Nat :=
  match o with
  | 0x00 => r.pkts
  | 0x04 => r.bytes
  | 0x08 => halves r.hdrErr r.cut
  | 0x0C => halves r.stray r.invalid
  | 0x10 => halves r.breaks r.aborts
  | 0x14 => halves r.bufMax r.overflows
  | 0x18 => fw r.lastLayer 0 3 + fw r.lastCause 4 3
  | _ => 0

/-- Block LNK, registers below 0x80. -/
def readLnkCtl (o : Nat) (s : State) : Nat :=
  let k := s.lnk
  match o with
  | 0x00 => fw k.hrxEn 0 4 + flag k.twEn 4 + fw k.maxRate 8 3 + fw k.refMode 12 2 + flag k.autoRetry 14 + flag k.autoRejoin 15
  | 0x04 => hrxTrained s + flag (twinTrained s) 4 + fw k.bondMask 8 4 + fw k.bondRate 12 3 + flag k.forming 15 + flag k.lref 16 +
      flag (allLanesDown s) 17
  | 0x08 => txWord k.htx
  | 0x0C => txWord k.twtx
  | 0x10 => fw k.eyeIndex 0 13
  | 0x14 => match k.eyeEntries[k.eyeIndex]? with | some e => eyeWord e | none => 0
  | 0x18 => fw k.eyeEntries.length 0 13 + flag k.eye.isSome 13 + fw k.eyeLane 16 3
  | 0x40 => fw s.rope.layerSrc 0 6 + flag s.rope.statusEn 8 + flag s.rope.outcomeEn 9
  | 0x44 => layerMask s (·.receiving)
  | 0x48 => halves s.rope.statusSent s.rope.repliesSent
  | _ => 0

/-- Block LNK. -/
def readLnk (o : Nat) (s : State) : Nat :=
  if o < 0x80 then readLnkCtl o s
  else if o < 0xA0 then readPath (o - 0x80) s.rope.host
  else if o < 0xC0 then readPath (o - 0xA0) s.rope.twin
  else if 0x100 ≤ o && o < 0x240 then readLane (o % 0x40) (s.lnk.lanes.getD ((o - 0x100) / 0x40) {})
  else 0

/-! ### CMP (R155) -/

/-- A layer's registers. -/
def readLayer (o : Nat) (l : Layer) : Nat :=
  let c := l.cfg
  match o with
  | 0x00 => fw c.format 0 3 + fw c.blend 4 3 + fw c.z 8 3 + fw c.coeffSet 12 2 + flag c.preBypass 16 + flag c.withFlip 17 +
      fw c.galpha 24 8
  | 0x04 => fw c.srcW 0 13 + fw c.srcH 16 12
  | 0x08 => fw c.dstX 0 11 + fw c.dstY 16 10
  | 0x0C => fw c.dstW 0 11 + fw c.dstH 16 10
  | 0x10 => c.buf0
  | 0x14 => c.buf1
  | 0x18 => fw c.stride 0 16
  | 0x1C => fw c.policy 0 2 + fw c.faultLevel 4 3 + fw c.staleN 16 10
  | 0x20 => flag l.enLatched 0 + flag l.hasFront 1 + (if l.hasFront then fw l.frontBuf 2 1 else 0) + fw (backCode l.back) 4 2 +
      flag l.transparent 6 + fw l.backFence 8 8 + fw l.stale 16 16
  | 0x24 => l.latchCount
  | 0x28 => l.flips
  | 0x2C => l.repeats
  | 0x30 => halves l.overwritten l.fenceTimeouts
  | 0x34 => fw l.discards 0 16
  | _ => 0

/-- Group of a layer in force; 7 none (CMP_Ln_FMT.GROUP). -/
def groupNo (s : State) (n : Nat) : Nat := ((List.range 3).find? (fun g => (groupOf s g).members.testBit n)).getD 7

/-- A flip group's register. -/
def groupWord (k : Group) : Nat :=
  fw k.members 0 6 + flag k.armed 8 + (match k.arm with | some a => 2 ^ 9 + fw a.mask 16 6 | none => 0)

/-- Block CMP. -/
def readCmp (o : Nat) (s : State) : Nat :=
  let k := s.cmp
  match o with
  | 0x00 => flag k.postBypass 0
  | 0x04 => layerMask s (·.enLatched) + layerMask s (·.hasFront) * 2 ^ 8 + layerMask s (·.back = .ready) * 2 ^ 16 +
      flag (k.tables.any (·.pending)) 24
  | 0x08 => fw k.fenceMs 0 16
  | 0x0C => halves k.fenceTimeouts k.orphans
  | 0x10 => groupWord (groupOf s 0)
  | 0x14 => groupWord (groupOf s 1)
  | 0x18 => groupWord (groupOf s 2)
  | _ =>
    if 0x40 ≤ o && o < 0x74 then lutCrc ((o - 0x40) / 4) (k.tables.getD ((o - 0x40) / 4) {}).front
    else if 0x100 ≤ o && o < 0x280 then
      let n := (o - 0x100) / 0x40
      readLayer (o % 0x40) (layerOf s n) + (if o % 0x40 = 0 then fw (groupNo s n) 20 3 else 0) +
        (if o % 0x40 = 0x20 then flag (condPresentAt s.flt 0x0210 n) 7 else 0)
    else 0

/-! ### SCL (R172) -/

/-- Block SCL. -/
def readScl (o : Nat) (s : State) : Nat :=
  let k := s.scl
  match o with
  | 0x00 => flag k.stealEn 0 + flag k.xstealEn 1
  | 0x04 => fw k.tilesRetired 0 9 + fw k.missRun 16 2 + flag (condPresent s.flt 0x0302) 18 + flag (k.tables.any (·.pending)) 19
  | 0x08 => fw k.composeTime 0 24
  | 0x0C => fw k.composeMax 0 24
  | 0x10 => k.misses
  | 0x14 => halves k.stealsLocal k.stealsRemote
  | 0x18 => fw k.passes 0 12
  | 0x1C => k.poison
  | _ =>
    if 0x40 ≤ o && o < 0x60 then coefCrc ((o - 0x40) / 4) (k.tables.getD ((o - 0x40) / 4) {}).front
    else if 0x80 ≤ o && o < 0x90 then fw (k.outMax.getD ((o - 0x80) / 4) 0) 0 9
    else if 0x100 ≤ o && o < 0x280 then
      let e := (k.engines.getD ((o - 0x100) / 0x10) {}).shown
      match o % 0x10 with
      | 0 => fw e.tiles 0 9 + fw e.stolen 16 9
      | 4 => fw e.busy 0 24
      | 8 => fw e.stall 0 24
      | _ => 0
    else 0

/-! ### DRV (R30, R79, R80, R97) -/

/-- Item of DRV_WICK_DATA (R80). -/
def wickItem (s : State) : Nat :=
  let a := s.arr
  let w := 1440 * a.wickBand + a.wickCol
  let pix (f : Nat) := pixIndex a.wickCol (4 * a.wickBand + f)
  let k := a.wickSel
  let flags (i : Nat) := (List.range 4).foldl (fun m f => m + flag ((sget a.flagsNow (pix f)).testBit i) f) 0
  if k < 4 then planeGet a.active (pix k)
  else if k < 8 then planeGet a.shadow (pix (k - 4))
  else if k < 12 then sget a.trim (pix (k - 8))
  else if k = 12 then sget a.preLevel w
  else if k = 13 then twos 6 (sget a.sinkOfs w)
  else if k = 14 then
    (List.range 4).foldl (fun m f => m + flag (a.dis.contains (pix f)) f) 0 + flags 0 * 16 + flags 1 * 256 + flags 2 * 4096
  else 0

/-- Phase sum in mA, rounded up. -/
def phaseMa (n : Nat) : Nat := min (cdiv n 1000000) 65535

/-- Block DRV, the array. -/
def readArr (o : Nat) (s : State) : Nat :=
  let a := s.arr
  let (pa, pb, pc, pd) := a.sumActive
  match o with
  | 0x00 => flag a.pcEn 0 + flag a.staggerEn 1
  | 0x04 => flag a.sinkEn 0 + flag a.staged.isSome 1 + flag a.lastFlipped 2 + flag a.zeroLoad 3
  | 0x08 => fw a.gref 0 9 + fw a.grefNext 16 9
  | 0x0C => fw a.budgetMa 0 16 + fw s.thm.f 16 5
  | 0x10 => halves (min (sumMa a.sumShadow) 65535) (min (sumMa a.sumActive) 65535)
  | 0x14 => halves (phaseMa pa) (phaseMa pb)
  | 0x18 => halves (phaseMa pc) (phaseMa pd)
  | 0x1C => flag (decide (a.gref < 256)) 0 + fw a.limitFrames 8 24
  | 0x20 => fw a.targetMv 0 10 + fw a.lowLimit 16 10 + fw a.upStep 26 4 + flag a.auto 31
  | 0x24 => fw a.duty 0 11
  | 0x28 => fw a.lowCount 0 20 + flag (a.duty = 1187) 24 + flag (a.duty = 63) 25
  | 0x2C => fw a.vledMv 0 13
  | 0x30 => fw a.wickCol 0 11 + fw a.wickBand 16 8 + fw a.wickSel 24 4
  | 0x34 => wickItem s
  | _ => 0

/-- Block DRV, the frame timer. -/
def readFt (o : Nat) (s : State) : Nat :=
  let f := s.ft
  match o with
  | 0x100 => fw f.rate 0 3 + fw f.lockSrc 4 2 + flag f.fsyncOutEn 8
  | 0x104 => fw f.offset 0 16
  | 0x108 => fw f.leadUs 0 16
  | 0x10C => flag f.locked 0 + flag f.holdover 1 + flag f.trimLimit 2 + flag f.leadClamped 3 + fw f.activeSrc 4 2 + fw f.effLead 8 16
  | 0x110 => twos 16 f.trim
  | 0x114 => f.frameCount
  | 0x118 => twos 16 f.phaseErr
  | _ => 0

/-- Block DRV, the mapper. -/
def readMap (o : Nat) (s : State) : Nat :=
  let m := s.map
  let b := 360 * m.blockY + m.blockX
  match o with
  | 0x200 => flag m.liftEn 0 + flag m.wearEn 1
  | 0x204 => fw m.gain 0 16
  | 0x208 => fw m.haloTiles 0 9 + flag m.droopBad 16
  | 0x20C => fw m.shown.clamped 0 20
  | 0x210 => fw m.shown.floored 0 20
  | 0x214 => fw m.shown.span0 0 20
  | 0x218 => fw m.shown.span1 0 20
  | 0x21C => fw m.shown.span2 0 20
  | 0x220 => fw m.shown.span3 0 20
  | 0x224 => fw m.shown.gathered 0 20
  | 0x228 => fw m.shown.lifted 0 20
  | 0x230 => halves m.sinceCommitS m.endBlocks
  | 0x234 => smax 64800 m.wear
  | 0x238 => fw m.blockX 0 9 + fw m.blockY 16 8
  | 0x23C => sget m.wear b
  | 0x240 => fw (sget m.gainFront b) 0 16
  | 0x244 => match m.droop with | some d => d.step | none => 0
  | _ => 0

/-- Block DRV. -/
def readDrv (o : Nat) (s : State) : Nat := if o < 0x100 then readArr o s else if o < 0x200 then readFt o s else readMap o s

/-! ### DIAG (R122) -/

/-- First or last corner of a region. -/
def cornerWord (last : Bool) (r : Rect) : Nat := if last then fw r.c1 0 11 + fw r.r1 16 10 else fw r.c0 0 11 + fw r.r0 16 10

/-- Block DIAG. -/
def readDiag (o : Nat) (s : State) : Nat :=
  let d := s.diag
  match o with
  | 0x00 => fw d.dprEn 0 8 + fw d.safeEn 8 8
  | 0x04 => fw (defectCount s) 0 20 + flag (condPresent s.flt 0x0502) 20 + flag (condPresent s.flt 0x0503) 21 +
      flag (condPresent s.flt 0x0504) 22 + flag d.listFull 23 + flag d.storePending 24 + flag d.scanDone 25
  | 0x08 => fw d.mapGen 0 16
  | 0x0C => fw d.covLit 0 20
  | 0x10 => fw d.covVerified 0 20
  | 0x14 => fw d.covUnver 0 20
  | 0x18 => fw d.covDpr 0 20
  | 0x1C => fw d.covStale 0 20
  | 0x20 => fw d.vigilLast 0 20
  | 0x24 => d.vigilTotal
  | 0x28 => fw d.voidFrames 0 16 + fw d.voidCause 16 2
  | 0x2C => fw (scount pixels (fun f => f = 1 || f = 2) d.fails) 0 20
  | 0x30 => halves d.scanOpen d.scanShort
  | 0x34 => halves d.scanLeak d.vfClipped
  | 0x38 => fw d.vonMin 0 8 + fw d.vonMax 8 8 + fw d.vfMin 16 8 + fw d.vfMax 24 8
  | 0x3C => fw d.wickFails 0 18
  | _ =>
    if 0x100 ≤ o && o < 0x140 then cornerWord (o % 8 = 4) (d.dpr.getD ((o - 0x100) / 8) {})
    else if 0x140 ≤ o && o < 0x180 then cornerWord (o % 8 = 4) (d.safe.getD ((o - 0x140) / 8) {})
    else 0

/-! ### CHK (R190) -/

/-- A general unit's registers. -/
def readGu (o : Nat) (g : Gu) : Nat :=
  match o with
  | 0x00 => flag g.en 0 + flag g.refin 1 + flag g.refout 2 + flag g.cmpEn 3 + fw g.level 4 3 + fw g.width 16 6 + fw g.src 24 6
  | 0x04 => g.poly
  | 0x08 => g.init
  | 0x0C => g.xorout
  | 0x10 => guCut g g.value
  | 0x14 => guCut g g.result
  | 0x18 => g.expect
  | 0x20 => halves g.captures g.mismatches
  | 0x24 => g.bytes
  | _ => 0

/-- A layer's check registers. -/
def readChkLayer (o : Nat) (l : Layer) : Nat :=
  match o with
  | 0x00 => fw l.alive 0 16 + flag l.aliveValid 16
  | 0x04 => l.accepts
  | 0x08 => halves l.rejMismatch l.rejTrailer
  | 0x0C => halves l.repeatsSeq l.jumps
  | 0x10 => l.rxCrc
  | 0x14 => l.calcCrc
  | 0x18 => fw l.lastGap 0 16
  | _ => 0

/-- A signature region's registers. PEND and BIND show a configuration that waits for a layer's flip. -/
def readSig (o : Nat) (r : Sig) : Nat :=
  let bind := match r.pend with | some (_, b) => b | none => 15
  match o with
  | 0x00 => cornerWord false r.cfg.rect
  | 0x04 => cornerWord true r.cfg.rect
  | 0x08 => fw r.cfg.mode 0 2 + fw r.cfg.level 4 3 + fw r.cfg.thresh 8 5 + flag (decide (bind ≠ 15)) 16 + fw bind 20 4
  | 0x0C => r.cfg.expect
  | 0x10 => r.composed
  | 0x14 => r.written
  | 0x18 => r.readback
  | 0x1C => fw r.result 0 4 + fw r.run 8 5 + fw r.fails 20 12
  | _ => 0

/-- Block CHK. -/
def readChk (o : Nat) (s : State) : Nat :=
  if o = 0 then
    maskOf ((List.range 16).filter (condPresentAt s.flt 0x0401)) + maskOf ((List.range 8).filter (fun n => (guOf s n).mism)) * 2 ^ 16
  else if o = 4 then s.chk.sigFrame
  else if 0x100 ≤ o && o < 0x300 then readGu (o % 0x40) (guOf s ((o - 0x100) / 0x40))
  else if 0x300 ≤ o && o < 0x3C0 then readChkLayer (o % 0x20) (layerOf s ((o - 0x300) / 0x20))
  else if 0x400 ≤ o && o < 0x600 then 
    readSig (o % 0x20) (sigOf s ((o - 0x400) / 0x20)) +
      (if o % 0x20 = 0x1C then flag (condPresentAt s.flt 0x0401 ((o - 0x400) / 0x20)) 16 else 0)
  else 0

/-! ### FLT (R349) -/

/-- Word `w` of a record. -/
def recWord (r : Rec) (w : Nat) : Nat := field (recBytes r) (4 * w) 4

/-- Block FLT. -/
def readFlt (o : Nat) (s : State) : Nat :=
  let f := s.flt
  match o with
  | 0x00 => flag f.escCompat 0 + fw f.faultnLevel 4 3
  | 0x04 => fw (levelMax f) 0 3 + flag f.selfFault 3 + flag f.first.isSome 4 + flag f.inj.isSome 5 + flag (faultNLow s) 6 +
      fw f.hist.length 8 5 + maskOf ((List.range 6).filter f.windows.contains) * 2 ^ 16
  | 0x08 => classMask (fun c => (classOf f c).hold)
  | 0x0C => classMask (fun c => classPresent f c)
  | 0x10 => classMask (fun c => (classOf f c).level ≠ 0)
  | 0x14 => classMask (fun c => (classOf f c).acked)
  | 0x60 => fw f.histEntry 0 4 + fw f.histWord 4 3
  | 0x64 => match f.hist[f.histEntry]? with | some r => recWord r f.histWord | none => 0
  | 0x68 => halves f.injCount f.injCoincident
  | 0x6C => match f.inj with | some i => fw i.code 0 16 + 2 ^ 16 + flag i.live 17 | none => 0
  | 0x70 => f.collateral
  | 0x74 => fw f.selfCount 0 8 + flag f.selfParity 8 + flag f.selfCompare 9 + fw f.selfWord 16 8
  | _ =>
    if 0x40 ≤ o && o < 0x60 then (match f.first with | some r => recWord r ((o - 0x40) / 4) | none => 0)
    else if 0x104 ≤ o && o < 0x148 then
      let c := (o - 0x100) / 4
      let k := classOf f c
      fw k.level 0 3 + flag (classPresent f c) 3 + fw (presentLevel f c) 4 3 + flag k.hold 7 + flag k.acked 8 + fw k.occurrences 16 16
    else if 0x184 ≤ o && o < 0x1C8 then
      let k := classOf f ((o - 0x180) / 4)
      halves k.collateral k.escalations
    else 0

/-! ### THM (R324) -/

/-- Block THM. -/
def readThm (o : Nat) (s : State) : Nat :=
  let t := s.thm
  match o with
  | 0x00 => fw t.cfg.knee 0 8 + flag t.cfg.autoRekindle 8 + flag t.cfg.ntcEn 9 + flag t.stored 10
  | 0x04 => fw t.f 0 5 + flag (decide (8 * (t.cfg.knee : Int) < t.tD)) 5 + flag (condPresent s.flt 0x0701) 6 + flag t.scarDone 7 +
      flag t.nvmOpen 8 + flag (condPresent s.flt 0x0706) 9 + fw t.hotSensor 16 6
  | 0x08 => halves (twos 16 t.tS) (twos 16 t.tD)
  | 0x0C => fw t.ntcCode 0 12 + fw (ntcWord t) 16 16
  | 0x10 => fw t.cfg.beta 0 16
  | 0x14 => fw t.cfg.res 0 20
  | 0x18 => fw t.stepsDown 0 16 + fw (t.sensors.filter (·.excluded)).length 16 6 + flag ((t.sensors.drop 32).any (·.excluded)) 22
  | 0x1C => halves t.deferStores t.deferReplies
  | _ =>
    if 0x100 ≤ o && o < 0x190 then
      let x := t.sensors.getD ((o - 0x100) / 4) {}
      twos 16 x.temp + flag x.excluded 16 + fw (twos 8 x.offset) 24 8
    else 0

/-! ### NVM and CAL (R374) -/

/-- A COMMIT of PATTERN_WRITE runs that stores a content; one of the factory trim stores the trim as well (R359, R363, R367). -/
def commitStores (s : State) (k : Nat) : Bool :=
  s.nvm.pw.any (fun l => !l.commits.isEmpty && (l.target = k || (l.target = 1 && k = 0)))

/-- A store of a content waits, is due again, or runs. -/
def storeDue (s : State) (k : Nat) : Bool :=
  s.nvm.queue.any (·.content = k) || s.nvm.retry.any (·.content = k) || (match s.nvm.run with | some r => r.content = k | none => false) ||
    commitStores s k

/-- Block NVM/CAL. -/
def readNvm (o : Nat) (s : State) : Nat :=
  let n := s.nvm
  match o with
  | 0x00 => flag (n.loading || n.run.isSome || n.pw.any (!·.commits.isEmpty)) 0 + flag n.loadDone 1 + flag n.pw.isSome 2 + maskOf ((List.range 10).filter (storeDue s)) * 2 ^ 8
  | 0x04 => (List.range 10).foldl (fun m k => m + fw (n.inForce.getD k 3) (2 * k) 2) 0
  | 0x40 => halves n.verifyFails n.slotBad
  | 0x44 => n.units
  | 0x48 => fw n.pwTarget 0 4 + fw n.pwBytes 4 20
  | 0x80 => fw n.calResult 0 2 + flag n.calQuick 2 + flag n.sensSkipped 3 + flag n.noWickSet 4 + flag n.calRun.isSome 5 +
      fw n.wicksFailed 8 18
  | 0x84 => maskOf ((List.range 32).filter n.sensFail.contains)
  | 0x88 => maskOf ((List.range 4).filter (fun i => n.sensFail.contains (32 + i)))
  | 0x8C => fw n.firstFlag.1 0 11 + fw n.firstFlag.2 16 8
  | 0x90 => fw n.calUs 0 16
  | _ => if 0x10 ≤ o && o < 0x38 then n.gens.getD ((o - 0x10) / 4) 0 else 0

/-! ### EVR (R392) -/

/-- Block EVR. -/
def readEvr (o : Nat) (s : State) : Nat :=
  let e := s.evr
  match o with
  | 0x00 => fw (evrState s) 0 2 + fw e.queue.length 8 7 + flag e.scanDone 16 + flag e.lifeLoaded 17 + flag e.scarDone 18
  | 0x04 => fw e.mainHead 0 15
  | 0x08 => fw e.cairnHead 0 10
  | 0x0C => fw e.seq 0 8
  | 0x10 => s.ao.seconds
  | 0x14 => fw s.ao.cycles 0 24
  | 0x18 => e.written
  | 0x1C => e.dropped
  | 0x20 => halves e.sinceS e.commits
  | 0x24 => halves e.witRx e.witDrop
  | 0x28 => fw e.failAddr 0 23
  | _ =>
    if 0x104 ≤ o && o < 0x148 then
      let d := e.drops.getD ((o - 0x100) / 4) {}
      halves d.count d.pending
    else 0

/-! ### MEM (R307) -/

/-- Block MEM. -/
def readMem (o : Nat) (s : State) : Nat :=
  let m := s.mem
  match o with
  | 0x00 => flag m.scrubEn 0
  | 0x04 => fw m.poolBase 0 6 + fw m.poolSize 8 2
  | 0x08 => m.eccCorr
  | 0x0C => fw m.eccUncorr 0 16 + fw m.eccBank 16 6
  | 0x10 => m.scrubPasses
  | 0x14 => fw m.nonOwner 0 16 + fw m.nonOwnerBank 16 6 + fw m.nonOwnerPort 24 3
  | 0x40 => fw m.winAddr 0 24
  | 0x44 => m.winData0
  | 0x48 => m.winData1
  | 0x4C => fw m.winStatus 8 2 + flag m.winOp.isSome 16
  | _ =>
    if 0x100 ≤ o && o < 0x200 then
      let b := (o - 0x100) / 4
      let k := bankOf s b
      fw k.use 0 2 + flag k.handover.isSome 4 + flag k.pooled 5 + fw (Config.bankRepaired b % 3) 8 2 + fw k.corr 16 16
    else if 0x200 ≤ o && o < 0x3C0 then
      let x := m.masters.getD ((o - 0x200) / 0x10) {}
      match o % 0x10 with
      | 0 => x.conflicts
      | 4 => x.esc
      | 8 => fw x.waitMax 0 10
      | _ => 0
    else 0

/-! ### TWN (R289) -/

/-- Block TWN. -/
def readTwn (o : Nat) (s : State) : Nat :=
  let t := s.twn
  match o with
  | 0x00 => fw t.cfg.role 0 2 + fw t.cfg.shareLevel 4 3 + flag t.stored 7 + fw t.cfg.fwdMask 8 6 + fw t.cfg.cableNs 16 8
  | 0x04 => fw t.cfg.joinMs 0 16
  | 0x08 => fw t.state 0 3 + fw t.lostCause 4 2 + flag t.pinActive 6 + flag t.hbOk 7 + fw t.peerMode 8 3 + fw t.peerRole 12 2 +
      flag (condPresent s.flt 0x0110) 14 + flag (condPresent s.flt 0x0C04) 15 + flag (condPresent s.flt 0x0C05) 16 + flag t.rolePend.isSome 17
  | 0x0C => t.hbRx
  | 0x10 => halves t.hbInvalid t.maxSilenceUs
  | 0x14 => halves (twos 16 t.skewNs) t.skewMax
  | 0x18 => halves t.recSent t.recReceived
  | 0x1C => halves t.retries t.unacked
  | 0x20 => t.fwdPackets
  | 0x24 => fw t.fwdDrops 0 16
  | 0x28 => halves t.losses t.returns
  | 0x2C => t.lastLoss
  | 0x30 => t.peerUid0
  | 0x34 => t.peerUid1
  | 0x38 => t.peerRom
  | _ => 0

/-! ### CMD (R267) -/

/-- A source's registers. -/
def readSrc (o : Nat) (q : SrcState) : Nat :=
  match o with
  | 0x0 => fw q.ref 0 4 + flag q.valid 4
  | 0x4 => halves q.executed q.badCrc
  | 0x8 => halves q.repeats q.gaps
  | 0xC => fw q.dropped 0 16
  | _ => 0

/-- Block CMD. -/
def readCmd (o : Nat) (s : State) : Nat :=
  let c := s.cmd
  match o with
  | 0x00 => fw c.cq.length 0 7 + fw c.outstanding.length 8 7 + flag c.locked 16 + flag c.patch.isSome 17 + flag c.patchActive 18
  | 0x04 => fw c.lockRefusals 0 16
  | 0x08 => fw c.patchBytes 0 20 + fw c.patchFail 20 4
  | _ =>
    if 0x100 ≤ o && o < 0x110 then readSrc (o % 0x10) c.spi
    else if 0x110 ≤ o && o < 0x120 then readSrc (o % 0x10) c.inband
    else if 0x120 ≤ o && o < 0x130 then readSrc (o % 0x10) c.twin
    else 0

/-! ### The register space (R258) -/

/-- The word at an address; one that holds no register reads 0. -/
def regRead (a : Nat) (s : State) : Nat :=
  let o := a % 65536
  (match a / 65536 with
  | 0x0 => readId o s
  | 0x1 => readPwr o s
  | 0x2 => readLnk o s
  | 0x3 => readCmp o s
  | 0x4 => readScl o s
  | 0x5 => readDrv o s
  | 0x6 => readDiag o s
  | 0x7 => readChk o s
  | 0x8 => readFlt o s
  | 0x9 => readThm o s
  | 0xA => readNvm o s
  | 0xB => readEvr o s
  | 0xC => readMem o s
  | 0xD => readTwn o s
  | 0xE => readCmd o s
  | _ => 0) % 2 ^ 32

/-- The lane whose RAW0 stands at an address and which is in RAW mode (R211). -/
def rawLane (a : Nat) (s : State) : Option Nat :=
  if 0x20100 ≤ a && a < 0x20240 && a % 0x40 = 0x24 then
    let l := (a - 0x20100) / 0x40
    if (s.lnk.lanes.getD l {}).mode = 4 then some l else none
  else none

/-- A capture of the lane's 40-bit word. -/
def capture (l raw : Nat) (s : State) : State :=
  { s with lnk := { s.lnk with lanes := modNth s.lnk.lanes l (fun x => { x with raw := raw % 2 ^ 40 }) } }

/-- The pattern checker takes a line bit (R211): it locks after 64 bits in a row that follow from those before them, then counts the bits
that differ from its own sequence. -/
def prbsBit (x : Lane) (b : Bool) : Lane :=
  let (n, k) := prbsTaps x.mode
  let want := x.prbsReg.testBit (n - 1) != x.prbsReg.testBit (k - 1)
  if x.prbsLock then
    { x with
      prbsReg := (2 * x.prbsReg + flag want 0) % 2 ^ n, prbsErrors := if b = want then x.prbsErrors else satInc 32 x.prbsErrors }
  else
    let run := if b = want && x.prbsReg ≠ 0 then x.prbsRun + 1 else 0
    { x with prbsReg := (2 * x.prbsReg + flag b 0) % 2 ^ n, prbsRun := run, prbsLock := decide (64 ≤ run) }

/-- The line bits of a lane reach its pattern checker, in the PRBS modes of TEST. -/
def checkLine (l : Nat) (line : List Bool) (s : State) : State :=
  let x := s.lnk.lanes.getD l {}
  if x.state = .test && 1 ≤ x.mode && x.mode ≤ 3 then
    { s with lnk := { s.lnk with lanes := modNth s.lnk.lanes l (fun x => line.foldl prbsBit x) } }
  else s

/-- What a read does beside answering: RAW0 of a lane in RAW mode captures the word on the line, a free value (R211). -/
def readEffect (a : Nat) (s : State) : State :=
  match rawLane a s with
  | some l =>
    let (lo, s) := takeFree s
    let (hi, s) := takeFree s
    capture l (lo + hi % 256 * 2 ^ 32) s
  | none => s

/-- `k` words from an address, in ascending order (R259). -/
def regReads : Nat → Nat → State → List Byte × State
  | 0, _, s => ([], s)
  | k + 1, a, s =>
    let s := readEffect a s
    let w := le 4 (regRead a s)
    let (b, s) := regReads k (a + 4) s
    (w ++ b, s)

end Sys2Proof.Machine
end

