-- ==== Sys2Proof/Machine/Store.lean ====
section
/-! DEFINITION. The common store's commands: uses and the pool, the access window, grants, scrubbing (R291 to R305). -/

namespace Sys2Proof.Machine

/-- A bank's handover to a use begins (R296); a bank that keeps its use needs none. -/
def handOver (b use : Nat) (s : State) : State :=
  if (bankOf s b).use = use then s else modBank b (fun k => { k with handover := some use }) s

/-- First offending bank of an ASSIGN (R305). -/
def assignOffender (s : State) (first count use : Nat) : Option Nat :=
  let used := usedBanks s
  ((List.range count).map (first + ·)).find? (fun b => use ≠ 1 && ((bankOf s b).pooled || used.contains b))

/-- ASSIGN of R303 to R305. -/
def assignBanks (first count use : Nat) (s : State) : Rep × State :=
  if 60 < first + count || count = 0 || use = 2 || 3 < use then rep stBadParam s
  else match assignOffender s first count use with
    | some b => ({ status := stRefused, payload := le 2 b }, s)
    | none => rep stOk (((List.range count).map (first + ·)).foldl (fun s b => handOver b use s) s)

/-- Banks of a pool. -/
def poolRange (base p : Nat) : List Nat := (List.range p).map (base + ·)

/-- POOL of R303 to R305: every bank that enters or leaves the pool is handed over; the new mapping holds when the last has been. -/
def makePool (base p : Nat) (s : State) : Rep × State :=
  let code := if p = 0 then 0 else if p = 8 then 1 else if p = 16 then 2 else 3
  if !([0, 8, 16, 32].contains p) || (p ≠ 0 && (base % p ≠ 0 || 60 < base + p)) then rep stBadParam s
  else
    let old := poolRange s.mem.poolBase (poolBanks s.mem.poolSize)
    let new := poolRange base p
    let used := usedBanks s
    match ((List.range 60).filter (fun b => old.contains b || new.contains b)).find? used.contains with
    | some b => ({ status := stRefused, payload := le 2 b }, s)
    | none =>
      let moved := if p ≠ 0 && code = s.mem.poolSize && base = s.mem.poolBase then [] else
        (List.range 60).filter (fun b => old.contains b || new.contains b)
      if moved.isEmpty then rep stOk s
      else
        let s := moved.foldl (fun s b => modBank b (fun k => { k with handover := some 1 }) s) s
        rep stOk { s with mem := { s.mem with poolNext := some (if p = 0 then 0 else base, code) } }

/-- STORE_ASSIGN, both actions. -/
def storeAssign (rq : Rq) (s : State) : Res :=
  let f (i : Nat) := field rq.payload i 1
  request rq 0xA0 anyMode (lenIs 8) false (fun s =>
    if s.pwr.mode = .kindle then rep stWrongMode s
    else if 1 < f 0 then rep stBadParam s
    else if f 0 = 0 then assignBanks (f 1) (f 2) (f 3) s
    else makePool (f 1) (f 2) s) s

/-- STORE_ASSIGN (R303 to R305) -/
def execStoreAssign (rq : Rq) (s : State) : Res := storeAssign rq s

/-- STORE_POOL (R303 to R305) -/
def execStorePool (rq : Rq) (s : State) : Res := storeAssign rq s

/-- The last handover has ended: a new pool mapping takes effect and the held reply is sent. -/
def handoversDone (s : State) : State :=
  let s := match s.mem.poolNext with
    | some (base, code) =>
      let new := poolRange base (poolBanks code)
      rehome { s with mem := { s.mem with
          poolBase := base, poolSize := code, poolNext := none
          banks := (List.range 64).map (fun b => { bankOf s b with pooled := new.contains b }) } }
    | none => s
  match s.mem.assigning with
  | some (x, b) => screen (sendReply x b (modSrc x (fun q => { q with stored := b }) { s with mem := { s.mem with assigning := none } }))
  | none => s

/-- HANDOVER_COMPLETE (R296) -/
def execHandoverComplete (bank : Nat) (s : State) : Res :=
  guarded (bank < 64) (match (if storeUp s then (bankOf s bank).handover else none) with
    | none => s
    | some u =>
      let s := modBank bank (fun k => { k with use := u, handover := none }) s
      if s.mem.banks.any (·.handover.isSome) then s else handoversDone s)

/-- A window operation ends with its STATUS. -/
def windowEnd (status : Nat) (s : State) : State := { s with mem := { s.mem with winStatus := status, winOp := none } }

/-- The data registers take a poisoned word: free values, which a general unit on the port is fed (R175). -/
def windowPoison (op : Nat) (s : State) : State :=
  let (a, s) := takeFree s
  let (b, s) := takeFree s
  let d1 := if op = 3 || op = 5 then s.mem.winData1 else b
  guFeedSource 46 (le 4 a ++ le 4 b) { s with mem := { s.mem with winData0 := a, winData1 := d1 } }

/-- A port is returned a poisoned word: a general unit on it is fed a free value (R175, R292, R295). -/
def poisonRead (port : Nat) (s : State) : State :=
  let (a, s) := takeFree s
  let (b, s) := takeFree s
  guFeedSource (40 + port) (le 4 a ++ le 4 b) s

/-- The window's effect on a word that is its own and sound (R302): what DATA0 and, for the 64-bit operations, DATA1 take, and the word
written, if any. -/
def windowEffect (op addr d0 d1 old : Nat) : Nat × Option Nat × Option Nat :=
  let half := if addr / 4 % 2 = 1 then old / 2 ^ 32 else old % 2 ^ 32
  let put (h : Nat) := if addr / 4 % 2 = 1 then old % 2 ^ 32 + h * 2 ^ 32 else h + old / 2 ^ 32 * 2 ^ 32
  let d := d0 + d1 * 2 ^ 32
  match op with
  | 1 => (old % 2 ^ 32, some (old / 2 ^ 32), none)
  | 3 => (half, none, some (put ((half + d0) % 2 ^ 32)))
  | 4 => (old % 2 ^ 32, some (old / 2 ^ 32), some ((old + d) % 2 ^ 64))
  | 5 => (half, none, some (put d0))
  | _ => (old % 2 ^ 32, some (old / 2 ^ 32), some d)

/-- A word that a check found sound is read and, for an atomic, written in the same access (R299): units on port 6 are fed. -/
def atomicWord (addr : Nat) (w : Option Nat) (s : State) : State :=
  let s := guFeedSource 46 (wordAt s addr) s
  match w with
  | some v => guFeedSource 38 (le 8 v) (putWord addr (le 8 v) s)
  | none => s

/-- The window's operation is done at the bank that has granted it (R292, R295, R302). -/
def windowAct (ecc : Ecc) (s : State) : State :=
  match s.mem.winOp with
  | none => s
  | some (op, addr, d0, d1) =>
    let bank := bankAt s addr
    let use := (bankOf s bank).use
    if (op = 1 && !mayRead use 6) || (op ≠ 1 && !mayWrite use 6) then
      let s := nonOwnerAccess bank 6 (if op = 1 then 1 else if op = 2 then 2 else 3) s
      windowEnd 1 (if op = 2 then s else windowPoison op s)
    else if op = 2 then windowEnd 0 (guFeedSource 38 (le 8 (d0 + d1 * 2 ^ 32)) (putWord addr (le 8 (d0 + d1 * 2 ^ 32)) s))
    else
      let (e, s) := checkWord bank (physOf s addr / 8 % 32768) 6 ecc s
      if e = .uncorrectable then windowEnd 2 (windowPoison op s)
      else
        let (a, b, w) := windowEffect op addr d0 d1 (leVal (wordAt s addr))
        windowEnd 0 (atomicWord addr w { s with mem := { s.mem with winData0 := a, winData1 := b.getD s.mem.winData1 } })

/-- WINDOW_OP_COMPLETE (R299 to R302): the window's request has waited `wait` clocks; it is presented once, and ends when its bank can grant
it and chooses it. One that waits on is granted by a STORE_ACCESS_GRANT. -/
def execWindowOpComplete (wait : Nat) (ecc : Ecc) (s : State) : Res :=
  .next (match (if storeUp s then s.mem.winOp else none) with
    | none => s
    | some (op, addr, _, _) =>
      let bank := bankAt s addr
      let c : Claim := { m := 26, addr, op := .window, age := wait }
      if addr % (if op = 3 || op = 5 then 4 else 8) ≠ 0 then windowEnd 3 s
      else if claims s bank 26 then s
      else
        let s := queueClaim c (waited 26 0 wait s)
        if wins s bank c then windowAct ecc (granted 26 bank wait (dropClaim bank c s)) else s)

/-! ### Granted requests (R292, R295, R299) -/

/-- A request that a master can present to a bank (R294, R297): a burst within the bank, of one word in the pool and for the control
core, which alone makes atomics. -/
def claimOk (s : State) (bank : Nat) (c : Claim) : Bool :=
  let n := claimWords c.op
  let kind := match c.op with
    | .window => false
    | .atomic op _ => c.m = 26 && decide (3 ≤ op) && decide (op ≤ 6) && c.addr % (if op = 3 || op = 5 then 4 else 8) = 0
    | _ => c.addr % 8 = 0
  decide (c.m < 28) && decide (c.addr < 2 ^ 24) && bankAt s c.addr = bank && kind && decide (1 ≤ n) &&
    decide (n ≤ requestWords s c.addr (if c.m = 26 then 1 else 16))

/-- Clocks pass for the requests that wait at a bank (R300, R301). -/
def passClocks (bank n : Nat) (s : State) : State :=
  let w := (bankOf s bank).waits
  let s := w.foldl (fun s c => waited c.m c.age (c.age + n) s) s
  modBank bank (fun k => { k with waits := w.map (fun c => { c with age := c.age + n }) }) s

/-- Requests are presented: a master has at most one at a bank (R299). -/
def presentTo (bank : Nat) (cs : List Claim) (s : State) : State :=
  cs.foldl (fun s c =>
    if claimOk s bank c && !claims s bank c.m then
      modBank bank (fun k => { k with waits := k.waits ++ [c] }) (waited c.m 0 c.age s)
    else s) s

/-- A granted read of `n` words, each with what its check finds (R292, R295). -/
def readWords (m port bank : Nat) : Nat → Nat → List Ecc → State → State
  | 0, _, _, s => s
  | n + 1, addr, eccs, s =>
    let (e, s) := checkWord bank (physOf s addr / 8 % 32768) port (eccs.headD .clean) s
    let s := if e = .uncorrectable then
        poisonRead port (if m < 24 then { s with scl := { s.scl with poison := satInc 32 s.scl.poison } } else s)
      else guFeedSource (40 + port) (wordAt s addr) s
    readWords m port bank n (addr + 8) eccs.tail s

/-- `n` poisoned words are returned. -/
def poisonWords (port : Nat) : Nat → State → State
  | 0, s => s
  | n + 1, s => poisonWords port n (poisonRead port s)

/-- What a granted request does (R292, R295, R299). -/
def access (c : Claim) (bank : Nat) (eccs : List Ecc) (s : State) : State :=
  let port := portOf c.m
  let use := (bankOf s bank).use
  match c.op with
  | .write l => writeBurst port c.addr (l.flatMap (fun d => le 8 d.toNat)) s
  | .read n =>
    if mayRead use port then readWords c.m port bank n c.addr eccs s
    else poisonWords port n (nonOwnerAccess bank port 1 s)
  | .atomic op d =>
    if !mayWrite use port then poisonRead port (nonOwnerAccess bank port 3 s)
    else
      let (e, s) := checkWord bank (physOf s c.addr / 8 % 32768) port (eccs.headD .clean) s
      if e = .uncorrectable then poisonRead port s
      else
        let (_, _, w) := windowEffect op c.addr (d.toNat % 2 ^ 32) (d.toNat / 2 ^ 32) (leVal (wordAt s c.addr))
        atomicWord c.addr w s
  | .window => windowAct (eccs.headD .clean) s

/-- STORE_ACCESS_GRANT (R292, R294 to R296, R299 to R301): the bank grants the request that the arbitration chooses; in handover it
grants none. -/
def execStoreAccessGrant (bank clocks : Nat) (cs : List Claim) (ecc : List Ecc) (s : State) : Res :=
  guarded (bank < 64) (
    if !storeUp s then s
    else
      let s := presentTo bank cs (passClocks bank clocks s)
      if (bankOf s bank).handover.isSome then s
      else match arbitrate (bankOf s bank) with
        | none => s
        | some c => nextBehind bank c.m (access c bank ecc (granted c.m bank c.age (dropClaim bank c s))))

/-- REQUEST_ESCALATION (R300, R301): a master's request at a bank has waited 32 clocks. -/
def execRequestEscalation (bank m : Nat) (cs : List Claim) (s : State) : Res :=
  guarded (bank < 64 && m < 28) (
    if !storeUp s then s
    else
      let s := presentTo bank cs s
      match (bankOf s bank).waits.find? (·.m = m) with
      | some c => if escalated c then s else passClocks bank (32 - c.age) s
      | none => s)

/-- The scrubber passes on from a row: a pass ends when every bank has been read to its end (R293). -/
def scrubOn (bank : Nat) (s : State) : State :=
  let s := modBank bank (fun k => { k with scrubRow := k.scrubRow + 1 }) s
  if s.mem.banks.all (fun k => decide (32768 ≤ k.scrubRow)) then
    { s with mem := { s.mem with
        scrubPasses := satInc 32 s.mem.scrubPasses, banks := s.mem.banks.map (fun k => { k with scrubRow := 0 }) } }
  else s

/-- SCRUB_READ (R293): the next word of a bank that grants nothing else. -/
def execScrubRead (bank : Nat) (ecc : Ecc) (s : State) : Res :=
  guarded (bank < 64) (
    let k := bankOf s bank
    if !storeUp s || !s.mem.scrubEn || k.handover.isSome || !k.waits.isEmpty || 32768 ≤ k.scrubRow then s
    else scrubOn bank (checkWord bank k.scrubRow 8 ecc s).2)

end Sys2Proof.Machine
end

