-- ==== Sys2Proof/Machine/RegWrites.lean ====
section
/-! DEFINITION. What a write to a register does, register by register: the rules under which a field stays, a write is refused, or an
action starts (R260 and the register rules of every chapter). -/

namespace Sys2Proof.Machine

/-- The answer of a register to a write: a status, whether the write starts a re-kindle (R338), and the state. -/
structure WriteRes where
  /-- OK, or the status with which the register refuses -/
  status : Nat := stOk
  /-- the clear of FLT_LATCHED starts a re-kindle -/
  rekindle : Bool := false
  /-- the state after the write; unchanged by a refused one -/
  state : State
deriving DecidableEq, Repr

/-- A write that is taken. -/
def taken (s : State) : WriteRes := { state := s }

/-- A write that is refused: every field stays (R260). -/
def refused (status : Nat) (s : State) : WriteRes := { status, state := s }

/-- The value a field takes, or its old value where the new one leaves the field unchanged. -/
def keepUnless (ok : Bool) (new old : Nat) : Nat := if ok then new else old

/-! ### PWR, CMP, SCL (R49, R155, R172) -/

/-- PWR_MODE_CTL. -/
def writePwr (o v : Nat) (s : State) : WriteRes :=
  if o = 0x04 then taken { s with pwr := { s.pwr with beamWaitMs := bits v 0 16, hostTimeoutMs := bits v 16 16 } } else taken s

/-- CMP_CTL and CMP_FENCE_CTL. -/
def writeCmp (o v : Nat) (s : State) : WriteRes :=
  match o with
  | 0x00 => taken { s with cmp := { s.cmp with postBypass := v.testBit 0 } }
  | 0x08 => taken { s with cmp := { s.cmp with fenceMs := bits v 0 16 } }
  | _ => taken s

/-- SCL_CTL. -/
def writeScl (o v : Nat) (s : State) : WriteRes :=
  if o = 0 then taken { s with scl := { s.scl with stealEn := v.testBit 0, xstealEn := v.testBit 1 } } else taken s

/-! ### LNK (R211, R213, R217, R228, R235) -/

/-- The receive lanes that a new HRX_EN enables or disables change at once (R217). -/
def writeHrxEn (en : Nat) (s : State) : State :=
  let old := s.lnk.hrxEn
  let s := { s with lnk := { s.lnk with hrxEn := en } }
  (List.range 4).foldl (fun s l =>
    if old.testBit l && !en.testBit l then disableLane l s
    else if !old.testBit l && en.testBit l then enableLane l s
    else s) s

/-- LNK_CTL: MAX_RATE and REF_MODE act at the next restart of a lane. -/
def writeLnkCtl (v : Nat) (s : State) : WriteRes :=
  let r := bits v 8 3
  let m := bits v 12 2
  let s := { s with lnk := { s.lnk with
    maxRate := keepUnless (r < 5) r s.lnk.maxRate, refMode := keepUnless (m < 3) m s.lnk.refMode
    autoRetry := v.testBit 14, autoRejoin := v.testBit 15 } }
  taken (writeHrxEn (bits v 0 4) s)

/-- LNK_HTX_CTL and LNK_TWTX_CTL. -/
def txOf (v : Nat) (t : TxCtl) : TxCtl :=
  let w := bits v 0 4
  let d := bits v 4 2
  let p := bits v 8 3
  { swing := keepUnless (4 ≤ w && w ≤ 12) w t.swing, deemph := keepUnless (d < 3) d t.deemph, pattern := keepUnless (p < 6) p t.pattern }

/-- LNK_LANEl_CTL (R211): a non-zero MODE puts an enabled lane in TEST at once; MODE 0 lets a lane that was in TEST start afresh. -/
def writeLaneCtl (l v : Nat) (s : State) : WriteRes :=
  let m := bits v 0 3
  let c := bits v 8 4
  let t := bits v 12 3
  let old := laneOf s l
  let s := modLane l (fun x => { x with
    mode := keepUnless (m < 5) m x.mode, manualEq := v.testBit 3, dfeFreeze := v.testBit 4
    ctle := keepUnless (c < 15) c x.ctle, testRate := keepUnless (t < 5) t x.testRate
    prbsErrors := if m < 5 then 0 else x.prbsErrors, prbsLock := if m < 5 then false else x.prbsLock
    prbsRun := if m < 5 then 0 else x.prbsRun, prbsReg := if m < 5 then 0 else x.prbsReg }) s
  if !laneEnabled s l then taken s
  else if (laneOf s l).mode ≠ 0 then
    let sh := s.lnk.refMode = 2
    let s := modLane l (fun x => { x with
      rate := x.testRate, shared := sh, attempting := false, backoffMs := 0, parked := false, inBond := false, waitBond := false }) s
    taken (if old.state = .test then s else leaveTraffic l (setLaneState l .test s))
  else if old.mode ≠ 0 then taken (restartLane l s.lnk.maxRate s)
  else taken s

/-- LNK_ROPE_CTL (R225, R228): a layer RECEIVING from the path that it leaves breaks with cause SOURCE. -/
def writeRopeCtl (v : Nat) (s : State) : WriteRes :=
  let new := bits v 0 6
  let s := (List.range 6).foldl (fun s n =>
    if (layerOf s n).receiving && new.testBit n ≠ s.rope.layerSrc.testBit n then breakFrame n 7 (layerPath s n) s else s) s
  taken { s with rope := { s.rope with layerSrc := new, statusEn := v.testBit 8, outcomeEn := v.testBit 9 } }

/-- Block LNK. -/
def writeLnk (o v : Nat) (s : State) : WriteRes :=
  if 0x100 ≤ o && o < 0x240 then
    if o % 0x40 = 0 then writeLaneCtl ((o - 0x100) / 0x40) v s else taken s
  else match o with
    | 0x00 => writeLnkCtl v s
    | 0x08 => taken { s with lnk := { s.lnk with htx := txOf v s.lnk.htx } }
    | 0x0C => taken { s with lnk := { s.lnk with twtx := txOf v s.lnk.twtx } }
    | 0x10 => taken { s with lnk := { s.lnk with eyeIndex := bits v 0 13 } }
    | 0x40 => writeRopeCtl v s
    | _ => taken s

/-! ### DRV (R30, R72, R75, R79, R80, R86, R97) -/

/-- DRV_ARRAY_CTL: its fields can be changed only in SNUFFED (R79). -/
def writeArrayCtl (v : Nat) (s : State) : WriteRes :=
  let pc := v.testBit 0
  let st := v.testBit 1
  if s.pwr.mode ≠ .snuffed && (pc ≠ s.arr.pcEn || st ≠ s.arr.staggerEn) then refused stWrongMode s
  else taken { s with arr := { s.arr with pcEn := pc, staggerEn := st } }

/-- DRV_BUDGET: 1,000 to 20,000 mA (R72). -/
def writeBudget (v : Nat) (s : State) : WriteRes :=
  let b := bits v 0 16
  if b < 1000 || 20000 < b then refused stBadParam s else taken { s with arr := { s.arr with budgetMa := b } }

/-- DRV_HDRM_CTL: a target outside 280 to 500 mV leaves that field unchanged (R79). -/
def writeHdrmCtl (v : Nat) (s : State) : WriteRes :=
  let t := bits v 0 10
  taken { s with arr := { s.arr with
    targetMv := keepUnless (280 ≤ t && t ≤ 500) t s.arr.targetMv, lowLimit := bits v 16 10, upStep := bits v 26 4, auto := v.testBit 31 } }

/-- DRV_HDRM_DUTY: ignored while AUTO = 1; 0 or 63 to 1,187 (R75, R79). With AUTO = 0 the write acts in every mode, KINDLE, SNUFFED and a
blanked array included (DESIGN CHOICE, log entry 84). -/
def writeDuty (v : Nat) (s : State) : WriteRes :=
  let d := bits v 0 11
  if s.arr.auto then taken s
  else if d ≠ 0 && (d < 63 || 1187 < d) then refused stBadParam s
  else taken { s with arr := { s.arr with duty := d } }

/-- DRV_WICK_ADDR (R80). -/
def writeWickAddr (v : Nat) (s : State) : WriteRes :=
  let c := bits v 0 11
  let b := bits v 16 8
  if 1439 < c || 179 < b then refused stBadParam s
  else taken { s with arr := { s.arr with wickCol := c, wickBand := b, wickSel := bits v 24 4 } }

/-- DRV_WICK_DATA (R80): the calibration items in use can be changed only in SNUFFED. -/
def writeWickData (v : Nat) (s : State) : WriteRes :=
  let a := s.arr
  let k := a.wickSel
  let w := 1440 * a.wickBand + a.wickCol
  let p := pixIndex a.wickCol (4 * a.wickBand + (k - 8))
  let new := if k ≤ 11 then bits v 0 8 else bits v 0 6
  if k < 8 || 13 < k then refused stBadParam s
  else if s.pwr.mode ≠ .snuffed && new ≠ wickItem s then refused stWrongMode s
  else taken { s with arr :=
    if k ≤ 11 then { a with trim := sset a.trim p new }
    else if k = 12 then { a with preLevel := sset a.preLevel w new }
    else { a with sinkOfs := sset a.sinkOfs w (sext 6 new) } }

/-- DRV_FTIMER_CTL: RATE and LOCK_SRC can be changed only in PILOT and SNUFFED, and LOCK_SRC must suit the role (R30). A field is
changed when its result differs from the value in force; RATE 6 or 7 and LOCK_SRC 3, which leave their field unchanged, count as no
change (DESIGN CHOICE, log entry 76). -/
def writeFtimerCtl (v : Nat) (s : State) : WriteRes :=
  let r := bits v 0 3
  let l := bits v 4 2
  let newRate := decide (r < 6) && r ≠ s.ft.rateInForce
  let newSrc := decide (l < 3) && l ≠ s.ft.activeSrc
  let r := keepUnless (r < 6) r s.ft.rate
  let l := keepUnless (l < 3) l s.ft.lockSrc
  if (newRate || newSrc) && s.pwr.mode ≠ .pilot && s.pwr.mode ≠ .snuffed then refused stWrongMode s
  else if newSrc && (l = 2) ≠ (s.twn.cfg.role = 2) then refused stBadParam s
  else taken { s with ft := { s.ft with rate := r, lockSrc := l, fsyncOutEn := v.testBit 8 } }

/-- DRV_MAP_GAIN: 0 to 0x8000 (R86). -/
def writeMapGain (v : Nat) (s : State) : WriteRes :=
  let g := bits v 0 16
  if 0x8000 < g then refused stBadParam s else taken { s with map := { s.map with gain := g } }

/-- DRV_WEAR_ADDR (R97). -/
def writeWearAddr (v : Nat) (s : State) : WriteRes :=
  let x := bits v 0 9
  let y := bits v 16 8
  if 359 < x || 179 < y then refused stBadParam s else taken { s with map := { s.map with blockX := x, blockY := y } }

/-- Block DRV. OFFSET 0x8000, outside its stated range of plus or minus 32,767, is stored and acts as -32,768 (DESIGN CHOICE, log
entry 77). -/
def writeDrv (o v : Nat) (s : State) : WriteRes :=
  match o with
  | 0x000 => writeArrayCtl v s
  | 0x00C => writeBudget v s
  | 0x020 => writeHdrmCtl v s
  | 0x024 => writeDuty v s
  | 0x030 => writeWickAddr v s
  | 0x034 => writeWickData v s
  | 0x100 => writeFtimerCtl v s
  | 0x104 => taken { s with ft := { s.ft with offset := bits v 0 16 } }
  | 0x108 => taken { s with ft := { s.ft with leadUs := bits v 0 16 } }
  | 0x200 => taken { s with map := { s.map with liftEn := v.testBit 0, wearEn := v.testBit 1 } }
  | 0x204 => writeMapGain v s
  | 0x238 => writeWearAddr v s
  | _ => taken s

/-! ### DIAG (R109, R116, R122) -/

/-- A corner of a region takes a column and a row. -/
def setCorner (last : Bool) (c r : Nat) (x : Rect) : Rect := if last then { x with c1 := c, r1 := r } else { x with c0 := c, r0 := r }

/-- Block DIAG: a changed safety region or enable bit is judged anew at the next evaluation (R116). -/
def writeDiag (o v : Nat) (s : State) : WriteRes :=
  let d := s.diag
  let c := bits v 0 11
  let r := bits v 16 10
  if o = 0 then
    taken { s with diag := { d with dprEn := bits v 0 8, safeEn := bits v 8 8, safeDirty := d.safeDirty || bits v 8 8 ≠ d.safeEn } }
  else if 0x100 ≤ o && o < 0x180 then
    if 1439 < c || 719 < r then refused stBadParam s
    else
      let n := (o - 0x100) / 8 % 8
      let f := setCorner (o % 8 = 4) c r
      if o < 0x140 then taken { s with diag := { d with dpr := modNth d.dpr n f } }
      else
        let l := modNth d.safe n f
        taken { s with diag := { d with safe := l, safeDirty := d.safeDirty || l ≠ d.safe } }
  else taken s

/-! ### CHK (R174 to R177, R190) -/

/-- Values that CHK_GUn_CTL.SRC takes (R175). -/
def guSrcOk (n : Nat) : Bool := n ≤ 6 || (16 ≤ n && n ≤ 49)

/-- RESTART and CAPTURE of a unit; which acts first when both are written is left open: a free value says. -/
def guActions (n : Nat) (restart cap : Bool) (s : State) : State :=
  if restart && cap then
    let (f, s) := takeFree s
    if f % 2 = 0 then modGu n guStart (guCaptureNow n s) else guCaptureNow n (modGu n guStart s)
  else if restart then modGu n guStart s
  else if cap then guCaptureNow n s
  else s

/-- CHK_GUn_CTL (R176, R177, R190). -/
def writeGuCtl (n v : Nat) (s : State) : WriteRes :=
  let g := guOf s n
  let w := bits v 16 6
  let src := bits v 24 6
  let lv := bits v 4 3
  let cmp := v.testBit 3
  if w < 8 || 32 < w || !guSrcOk src then refused stBadParam s
  else if g.en && (w ≠ g.width || v.testBit 1 ≠ g.refin || v.testBit 2 ≠ g.refout || src ≠ g.src) then refused stBusy s
  else
    let s := modGu n (fun g => { g with
      en := v.testBit 0, refin := v.testBit 1, refout := v.testBit 2, cmpEn := cmp, level := keepUnless (lv < 5) lv g.level
      width := w, src, compared := g.compared && (g.cmpEn || !cmp) }) s
    taken (guActions n (v.testBit 8) (v.testBit 9) s)

/-- A parameter of a unit: while EN = 1 it can not be changed (R177, R260). -/
def guParam (n v old : Nat) (f : Gu → Gu) (s : State) : WriteRes :=
  if (guOf s n).en && v ≠ old then refused stBusy s else taken (modGu n f s)

/-- CHK_GUn_FEED: a byte is fed when EN = 1 and SRC = 0. -/
def writeGuFeed (n v : Nat) (s : State) : WriteRes :=
  if (guOf s n).en && (guOf s n).src = 0 then taken (modGu n (guFeedBytes [BitVec.ofNat 8 v]) s) else taken s

/-- The registers of a general unit. -/
def writeGu (o n v : Nat) (s : State) : WriteRes :=
  let g := guOf s n
  match o with
  | 0x00 => writeGuCtl n v s
  | 0x04 => guParam n v g.poly (fun g => { g with poly := v }) s
  | 0x08 => guParam n v g.init (fun g => { g with init := v }) s
  | 0x0C => guParam n v g.xorout (fun g => { g with xorout := v }) s
  | 0x10 => guParam n v (guCut g g.value) (fun g => { g with value := v }) s
  | 0x18 => taken (modGu n (fun g => { g with expect := v }) s)
  | 0x1C => writeGuFeed n v s
  | _ => taken s

/-- Block CHK. -/
def writeChk (o v : Nat) (s : State) : WriteRes :=
  if 0x100 ≤ o && o < 0x300 then writeGu (o % 0x40) ((o - 0x100) / 0x40) v s else taken s

/-! ### FLT (R331, R334 to R338, R344, R349) -/

/-- FLT_CTL: SELFTEST is taken in SNUFFED only; the self-fault that follows carries INJECTED, and its state word is a free value. -/
def writeFltCtl (v : Nat) (s : State) : WriteRes :=
  let l := bits v 4 3
  let t := v.testBit 8
  if t && s.pwr.mode ≠ .snuffed then refused stWrongMode s
  else
    let s := { s with flt := { s.flt with escCompat := v.testBit 0, faultnLevel := keepUnless (1 ≤ l && l ≤ 4) l s.flt.faultnLevel } }
    if t then
      let (w, s) := takeFree s
      taken (selfFault false (w % 256) false flagInjected s)
    else taken s

/-- FLT_LATCHED: a clear of the named classes, with the events of its clock (R335 to R338). -/
def writeLatched (during : List RawEvent) (v : Nat) (s : State) : WriteRes :=
  let mask := bits v 1 17 * 2
  if mask = 0 then taken (sameClock s.flt during s)
  else
    let (_, rek, t) := clearing mask during s
    { rekindle := rek, state := t }

/-- FLT_ACKED: an acknowledgement of the named classes (R334). -/
def writeAcked (during : List RawEvent) (v : Nat) (s : State) : WriteRes :=
  taken (sameClock s.flt during (ackClasses (bits v 1 17 * 2) s))

/-- Block FLT. -/
def writeFlt (o v : Nat) (s : State) : WriteRes :=
  match o with
  | 0x00 => writeFltCtl v s
  | 0x10 => writeLatched [] v s
  | 0x14 => writeAcked [] v s
  | 0x60 => taken { s with flt := { s.flt with histEntry := bits v 0 4, histWord := bits v 4 3 } }
  | _ => taken s

/-! ### MEM (R293, R302, R305) -/

/-- MEM_WIN_CMD: an operation starts with the address and data of that moment; OP 0 and 7 are ignored (R302, R307). -/
def writeWinCmd (v : Nat) (s : State) : WriteRes :=
  let op := bits v 0 3
  if s.mem.winOp.isSome then refused stBusy s
  else if op = 0 || op = 7 then taken s
  else taken { s with mem := { s.mem with winOp := some (op, s.mem.winAddr, s.mem.winData0, s.mem.winData1) } }

/-- MEM_BANKb.USE: a single-bank ASSIGN (R305). What no mode and no state lets change is refused also where the value is the one in
force (R260, R295). -/
def writeBankUse (b v : Nat) (s : State) : WriteRes :=
  let u := bits v 0 2
  let fixed := u = 2 || 60 ≤ b
  if !fixed && u = (bankOf s b).use then taken s
  else if s.pwr.mode = .kindle then refused stWrongMode s
  else if fixed then refused stRefused s
  else
    let (r, t) := assignBanks b 1 u s
    if r.status = stOk then taken t else refused stRefused s

/-- Block MEM. -/
def writeMem (o v : Nat) (s : State) : WriteRes :=
  if 0x100 ≤ o && o < 0x200 then writeBankUse ((o - 0x100) / 4) v s
  else match o with
    | 0x00 => taken { s with mem := { s.mem with scrubEn := v.testBit 0 } }
    | 0x40 => taken { s with mem := { s.mem with winAddr := bits v 0 24 } }
    | 0x44 => taken { s with mem := { s.mem with winData0 := v } }
    | 0x48 => taken { s with mem := { s.mem with winData1 := v } }
    | 0x4C => writeWinCmd v s
    | _ => taken s

/-! ### The register space (R258, R260) -/

/-- A write of a 32-bit value to an address; one that holds no register, or a read-only one, ignores it. -/
def regWrite (a v : Nat) (s : State) : WriteRes :=
  let o := a % 65536
  match a / 65536 with
  | 0x1 => writePwr o v s
  | 0x2 => writeLnk o v s
  | 0x3 => writeCmp o v s
  | 0x4 => writeScl o v s
  | 0x5 => writeDrv o v s
  | 0x6 => writeDiag o v s
  | 0x7 => writeChk o v s
  | 0x8 => writeFlt o v s
  | 0xC => writeMem o v s
  | _ => taken s

/-- The value that a write brings: with MASKED, (old & ~mask) | (value & mask), read and written as one access. -/
def maskedValue (masked : Bool) (data : List Byte) (off a : Nat) (s : State) : Nat × State :=
  if masked then
    let s := readEffect a s
    let m := field data off 4
    let v := field data (off + 4) 4
    ((regRead a s &&& (m ^^^ 0xFFFFFFFF)) ||| (v &&& m), s)
  else (field data off 4, s)

/-- `k` words are written from an address in ascending order, each by `wr`, up to the first that refuses: its status and index (R260). -/
def regWritesBy (wr : Nat → Nat → State → WriteRes) (masked : Bool) (data : List Byte) (a : Nat) :
    Nat → Nat → State → Option (Nat × Nat) × Bool × State
  | 0, _, s => (none, false, s)
  | k + 1, i, s =>
    let (v, s) := maskedValue masked data (8 + (if masked then 8 else 4) * i) (a + 4 * i) s
    let r := wr (a + 4 * i) v s
    if r.status ≠ stOk then (some (r.status, i), false, r.state)
    else
      let (e, rek, s) := regWritesBy wr masked data a k (i + 1) r.state
      (e, r.rekindle || rek, s)

end Sys2Proof.Machine
end

