-- ==== Sys2Proof/Machine/CmdBasic.lean ====
section
/-! DEFINITION. The commands of the command interface itself (R253 to R262), and the register writes that the table lists as commands of
their own. -/

namespace Sys2Proof.Machine

/-! ### PING, GET_INFO, GET_STATUS (R255 to R257) -/

/-- PING (R255) -/
def execPing (rq : Rq) (s : State) : Res :=
  request rq 0x00 anyMode (fun n => n ≤ 1024) false (fun s => repOk rq.payload s) s

/-- The 64 bytes of GET_INFO (R256). -/
def infoBytes (s : State) : List Byte :=
  ascii "DLW1440-QW" ++ List.replicate 6 0 ++ le 8 Config.uid.toNat ++ le 1 stepLetter ++ le 1 stepNumber ++ le 2 0x0100 ++
    le 4 Config.romVersion.toNat ++ le 4 s.cmd.patchVer ++ le 1 s.ao.i2cAddr ++ le 1 (flag Config.debugFused 0) ++
    le 2 1024 ++ le 1 64 ++ le 1 64 ++ le 2 0 ++ le 4 s.ao.cycles ++ le 4 s.ao.seconds ++ List.replicate 12 0

/-- GET_INFO (R256) -/
def execGetInfo (rq : Rq) (s : State) : Res :=
  request rq 0x01 anyMode (lenIs 0) false (fun s => repOk (infoBytes s) s) s

/-- The 32 bytes of GET_STATUS (R257). -/
def statusBytes (s : State) : List Byte :=
  le 1 (modeCode s.pwr.mode) ++ le 1 s.pwr.prevMode ++ le 1 s.pwr.entryCause ++ le 1 (causeLevel s.flt) ++ le 4 s.ft.frameCount ++
    le 1 s.cmd.cq.length ++ le 1 s.cmd.outstanding.length ++ le 1 (flag s.cmd.locked 0) ++ le 1 s.pwr.kindleStep ++
    le 2 (linksWord s) ++ le 2 (twos 16 s.thm.tS) ++ le 2 s.arr.gref ++ le 1 s.thm.f ++
    le 1 (flag s.pwr.dark 0 + flag s.pwr.readyPin 1 + flag (faultNLow s) 2 + flag (irqNLow s) 3 + flag (s.twn.state = 2) 4) ++
    le 4 (defectCount s) ++ le 4 s.ao.seconds ++ le 2 (match s.flt.first with | some r => r.code | none => 0) ++ le 2 0

/-- GET_STATUS (R257) -/
def execGetStatus (rq : Rq) (s : State) : Res :=
  request rq 0x02 anyMode (lenIs 0) false (fun s => repOk (statusBytes s) s) s

/-! ### READ_REG (R259) -/

/-- The address and count checks of R259, with the largest count. -/
def rangeOk (addr count most : Nat) : Bool :=
  addr % 4 = 0 && decide (1 ≤ count) && decide (count ≤ most) && decide (addr + 4 * (count - 1) < 0xF0000)

/-- READ_REG over a given way to read its words. -/
def readRegWith (reads : Nat → Nat → State → List Byte × State) (rq : Rq) (s : State) : Res :=
  let addr := field rq.payload 0 4
  let count := field rq.payload 4 2
  request rq 0x03 anyMode (lenIs 8) false (fun s =>
    if !rangeOk addr count 256 then rep stBadParam s
    else
      let (b, s) := reads count addr s
      repOk b s) s

/-- READ_REG (R259) -/
def execReadReg (rq : Rq) (s : State) : Res := readRegWith regReads rq s

/-- RAW_CAPTURE (R211, R259): READ_REG of LNK_LANEl_RAW0, with the 40-bit word that stands on the lane and the line bits that have come
for its pattern checker. -/
def execRawCapture (h : Hdr) (l raw : Nat) (line : List Bool) (s : State) : Res :=
  let a := 0x20124 + 0x40 * l
  if l < 5 then
    readRegWith (fun _ _ s =>
      let s := checkLine l line (if (rawLane a s).isSome then capture l raw s else s)
      (le 4 (regRead a s), s)) { src := h.src, tag := h.tag, payload := le 4 a ++ le 2 1 ++ le 2 0 } s
  else .fault .noSuchUnit

/-! ### WRITE_REG (R260, R262) -/

/-- Blocks that the configuration lock closes. -/
def lockedBlocks : List Nat := [0x1, 0x2, 0x3, 0x4, 0x5, 0x8, 0x9, 0xA, 0xB, 0xC, 0xD]

/-- A word lies in a locked block; DRV_MAP_GAIN stays open. -/
def lockedWord (a : Nat) : Bool := decide (a < 0xF0000) && lockedBlocks.contains (a / 65536) && a ≠ 0x50204

/-- The words that the lock check of WRITE_REG covers (R260) include a locked one. -/
def writeLocked (payload : List Byte) : Bool :=
  let addr := field payload 0 4 / 4 * 4
  let most := if (field payload 6 1).testBit 0 then 127 else 254
  (List.range (max 1 (min (field payload 4 2) most))).any (fun i => lockedWord (addr + 4 * i))

/-- Address, count and length checks of WRITE_REG (R260). -/
def writeFieldsOk (payload : List Byte) : Bool :=
  let masked := (field payload 6 1).testBit 0
  let count := field payload 4 2
  decide (8 ≤ payload.length) && rangeOk (field payload 0 4) count (if masked then 127 else 254) &&
    payload.length = 8 + (if masked then 8 else 4) * count

/-- What WRITE_REG does once its lock and field checks have passed; a re-kindle starts when the words are written (R338). -/
def writeRegBody (wr : Nat → Nat → State → WriteRes) (payload : List Byte) : Body := fun s =>
  if !writeFieldsOk payload then rep stBadParam s
  else
    let (e, rek, s) := regWritesBy wr ((field payload 6 1).testBit 0) payload (field payload 0 4) (field payload 4 2) 0 s
    let s := if rek then rekindle 2 s else s
    match e with
    | none => rep stOk s
    | some (st, i) => ({ status := st, payload := le 2 i }, s)

/-- WRITE_REG whose words are written by `wr`. -/
def writeRegs (wr : Nat → Nat → State → WriteRes) (rq : Rq) (s : State) : Res :=
  request rq 0x04 anyMode (fun _ => true) (writeLocked rq.payload) (writeRegBody wr rq.payload) s

/-- WRITE_REG (R260) -/
def execWriteReg (rq : Rq) (s : State) : Res := writeRegs regWrite rq s

/-- WRITE_REG of one word, written by `wr`. -/
def writeOneBy (wr : Nat → Nat → State → WriteRes) (h : Hdr) (a v : Nat) (s : State) : Res :=
  writeRegs wr { src := h.src, tag := h.tag, payload := le 4 a ++ le 2 1 ++ le 2 0 ++ le 4 v } s

/-- WRITE_REG of one word. -/
def writeOne (h : Hdr) (a v : Nat) (s : State) : Res := writeOneBy regWrite h a v s

/-! ### GET_COMPLETIONS, LOCK_CONFIG (R251, R253, R261) -/

/-- The 16 bytes of a completion entry (R251). -/
def entryBytes (e : CqEntry) : List Byte :=
  le 2 e.handle ++ le 1 e.opcode ++ le 1 e.status ++ le 1 e.source ++ le 3 0 ++ le 4 e.r0 ++ le 4 e.r1

/-- GET_COMPLETIONS (R253): the entries returned leave the queue, and their handles are free again (R250). -/
def execGetCompletions (rq : Rq) (s : State) : Res :=
  let k := field rq.payload 0 1
  request rq 0x05 anyMode (lenIs 4) false (fun s =>
    if k < 1 || 63 < k then rep stBadParam s
    else
      let out := s.cmd.cq.take k
      let left := s.cmd.cq.drop k
      let gone := out.map (·.handle)
      repOk (le 1 out.length ++ le 1 left.length ++ le 2 0 ++ out.flatMap entryBytes)
        { s with cmd := { s.cmd with cq := left, outstanding := s.cmd.outstanding.filter (fun h => !gone.contains h) } }) s

/-- LOCK_CONFIG (R261) -/
def execLockConfig (rq : Rq) (s : State) : Res :=
  request rq 0x06 (fun s => s.pwr.mode = .beam) (lenIs 0) false (fun s =>
    if s.cmd.locked then rep stOk s
    else rep stOk (note (ev 0x0D05 s.ao.seconds s.ft.frameCount 0 0) { s with cmd := { s.cmd with locked := true } })) s

/-! ### Register writes that the table lists as commands -/

/-- FTIMER_CTL_WRITE (R30) -/
def execFtimerCtlWrite (h : Hdr) (w : Word) (s : State) : Res := writeOne h 0x50100 w.toNat s

/-- COMPOSE_LEAD_WRITE (R23) -/
def execComposeLeadWrite (h : Hdr) (w : Word) (s : State) : Res := writeOne h 0x50108 w.toNat s

/-- ARRAY_CTL_WRITE (R79) -/
def execArrayCtlWrite (h : Hdr) (w : Word) (s : State) : Res := writeOne h 0x50000 w.toNat s

/-- BUDGET_WRITE (R72) -/
def execBudgetWrite (h : Hdr) (w : Word) (s : State) : Res := writeOne h 0x5000C w.toNat s

/-- HDRM_DUTY_WRITE (R75) -/
def execHdrmDutyWrite (h : Hdr) (w : Word) (s : State) : Res := writeOne h 0x50024 w.toNat s

/-- WICK_DATA_WRITE (R80) -/
def execWickDataWrite (h : Hdr) (w : Word) (s : State) : Res := writeOne h 0x50034 w.toNat s

/-- FLT_LATCHED_WRITE (R335 to R338) -/
def execFltLatchedWrite (h : Hdr) (w : Word) (during : List RawEvent) (s : State) : Res :=
  writeOneBy (fun _ v s => writeLatched during v s) h 0x80010 w.toNat s

/-- FLT_ACKED_WRITE (R334) -/
def execFltAckedWrite (h : Hdr) (w : Word) (during : List RawEvent) (s : State) : Res :=
  writeOneBy (fun _ v s => writeAcked during v s) h 0x80014 w.toNat s

/-- SELFTEST (R344) -/
def execSelftest (h : Hdr) (w : Word) (s : State) : Res := writeOne h 0x80000 w.toNat s

/-- GU_FEED (R174) -/
def execGuFeed (h : Hdr) (n : Nat) (w : Word) (s : State) : Res :=
  if n < 8 then writeOne h (0x7011C + 0x40 * n) w.toNat s else .fault .noSuchUnit

/-- GU_RESTART (R177) -/
def execGuRestart (h : Hdr) (n : Nat) (w : Word) (s : State) : Res :=
  if n < 8 then writeOne h (0x70100 + 0x40 * n) w.toNat s else .fault .noSuchUnit

/-- GU_CAPTURE (R176) -/
def execGuCapture (h : Hdr) (n : Nat) (w : Word) (s : State) : Res :=
  if n < 8 then writeOne h (0x70100 + 0x40 * n) w.toNat s else .fault .noSuchUnit

/-- READ64 (R302) -/
def execRead64 (h : Hdr) (s : State) : Res := writeOne h 0xC004C 1 s

/-- WRITE64 (R302) -/
def execWrite64 (h : Hdr) (s : State) : Res := writeOne h 0xC004C 2 s

/-- FADD32 (R302) -/
def execFadd32 (h : Hdr) (s : State) : Res := writeOne h 0xC004C 3 s

/-- FADD64 (R302) -/
def execFadd64 (h : Hdr) (s : State) : Res := writeOne h 0xC004C 4 s

/-- SWAP32 (R302) -/
def execSwap32 (h : Hdr) (s : State) : Res := writeOne h 0xC004C 5 s

/-- SWAP64 (R302) -/
def execSwap64 (h : Hdr) (s : State) : Res := writeOne h 0xC004C 6 s

/-- BANK_USE_WRITE (R305) -/
def execBankUseWrite (h : Hdr) (bank : Nat) (w : Word) (s : State) : Res :=
  if bank < 64 then writeOne h (0xC0100 + 4 * bank) w.toNat s else .fault .noSuchUnit

/-- LANE_TEST_MODE (R211) -/
def execLaneTestMode (h : Hdr) (l : Nat) (w : Word) (s : State) : Res :=
  if l < 5 then writeOne h (0x20100 + 0x40 * l) w.toNat s else .fault .noSuchUnit

/-- LANE_MISSION_MODE (R211) -/
def execLaneMissionMode (h : Hdr) (l : Nat) (w : Word) (s : State) : Res :=
  if l < 5 then writeOne h (0x20100 + 0x40 * l) w.toNat s else .fault .noSuchUnit

/-- TX_PATTERN_WRITE (R213) -/
def execTxPatternWrite (h : Hdr) (twin : Bool) (w : Word) (s : State) : Res :=
  writeOne h (if twin then 0x2000C else 0x20008) w.toNat s

/-- HRX_EN_WRITE (R217) -/
def execHrxEnWrite (h : Hdr) (w : Word) (s : State) : Res := writeOne h 0x20000 w.toNat s

/-- LAYER_SRC_WRITE (R228, R235) -/
def execLayerSrcWrite (h : Hdr) (w : Word) (s : State) : Res := writeOne h 0x20040 w.toNat s

end Sys2Proof.Machine
end

