-- ==== Sys2Proof/Machine/FrontEnd.lean ====
section
/-! DEFINITION. The command front end: SPI transactions, COMMAND packets, replies (R236 to R247, R283). -/

namespace Sys2Proof.Machine

/-- Requests of a source that wait. -/
def waitingOf (s : State) (x : Src) : Nat := (s.cmd.queue.filter (fun w => w.src = x)).length

/-- Requests a source's receive queue holds (R236). -/
def queueDepth : Src → Nat
  | .spi => 1
  | .inband => 8
  | .twin => 4

/-- EXECUTING: an SPI request has been received and its reply is not yet formed (R245). -/
def executing (s : State) : Bool :=
  waitingOf s .spi ≠ 0 || (match s.mem.assigning with | some (x, _) => x = .spi | none => false)

/-- The status byte of every SPI transaction (R245). -/
def statusByte (s : State) : Byte :=
  BitVec.ofNat 8 (flag s.cmd.spiReply.isSome 0 + flag (executing s) 1 + flag (!s.cmd.cq.isEmpty) 2 + flag (faultNLow s) 3 +
    modeCode s.pwr.mode * 16)

/-- A request arrives at its source: queue full, framing without a reply, or the receive queue (R236, R241). -/
def arrive (x : Src) (b : List Byte) (s : State) : State :=
  if queueDepth x ≤ waitingOf s x || (x = .spi && executing s) then dropRequest x 2 s
  else if b.length < 8 || b.head? ≠ some 0xA5 then dropRequest x 1 s
  else screen { s with cmd := { s.cmd with queue := s.cmd.queue ++ [{ src := x, bytes := b }] } }

/-- A read transaction with `n` bytes after the status byte (R246): the reply is consumed once its last byte has been sent. -/
def spiRead (n : Nat) (s : State) : State :=
  let r := s.cmd.spiReply.getD []
  let out := statusByte s :: slice r 0 n
  { s with cmd := { s.cmd with sdo := out, spiReply := if r.length ≤ n then none else s.cmd.spiReply } }

/-- What SDO carries in a request or void transaction with `n` bytes after the first (R245). -/
def spiZeros (n : Nat) (s : State) : State := { s with cmd := { s.cmd with sdo := statusByte s :: List.replicate n 0 } }

/-- A void transaction (R245). -/
def spiVoid (n : Nat) (s : State) : State := dropRequest .spi 4 (spiZeros n s)

/-- A request on SPI: past the point of no return of a sleep entry it is discarded without a reply (R406; DESIGN CHOICE, log entry 107:
counted as the other sources' are). -/
def spiArrive (bytes : List Byte) (s : State) : State := if portsOpen s then arrive .spi bytes s else dropRequest .spi 3 s

/-- SPI_REQUEST_TRANSACTION (R245, R247): the first byte decides the kind; before Limral is ready it is not heard (R43). -/
def execSpiRequestTransaction (bytes : List Byte) (s : State) : Res :=
  .next (if !spiDrives s then { s with cmd := { s.cmd with sdo := [] } }
    else match bytes with
      | [] => { s with cmd := { s.cmd with sdo := [] } }
      | b :: t =>
        if b = 0xA5 then spiArrive bytes (spiZeros t.length s)
        else if b = 0x96 then spiRead t.length s
        else spiVoid t.length s)

/-- SPI_READ_TRANSACTION (R246) -/
def execSpiReadTransaction (n : Nat) (s : State) : Res :=
  .next (if !spiDrives s then { s with cmd := { s.cmd with sdo := [] } } else spiRead n s)

/-- SPI_VOID_TRANSACTION (R245) -/
def execSpiVoidTransaction (n : Nat) (s : State) : Res :=
  .next (if !spiDrives s then { s with cmd := { s.cmd with sdo := [] } } else spiVoid n s)

/-- A reply of the twin to this device's own GET_INFO (R283). -/
def infoReply (b : List Byte) (s : State) : State :=
  let n := field b 4 2
  if s.twn.infoWait && b.head? = some 0x5A && field b 1 1 = 1 && field b 3 1 = 0 && n = 64 && b.length = 76 &&
      crc32c (b.take 72) = field b 72 4 then
    { s with twn := { s.twn with infoWait := false, peerUid0 := field b 24 4, peerUid1 := field b 28 4, peerRom := field b 36 4 } }
  else s

/-- A valid COMMAND packet (R224, R236, R238, R283): on the twin link a reply to this device's own request goes to Limral. -/
def takeCommand (path : Path) (body : List Byte) (s : State) : State :=
  let x : Src := match path with | .host => .inband | .twin => .twin
  if path = .twin && body.head? = some 0x5A then infoReply body s
  else if !portsOpen s then dropRequest x 3 s
  else arrive x body s

/-- COMMAND_PACKET (R218, R222 to R224, R236, R238, R283) -/
def execCommandPacket (path : Path) (cols : List (List LaneWord)) (s : State) : Res :=
  .next (onPacket path cols (wholeOf 0x10) (fun r => takePacket path r (takeCommand path r.body)) s)

/-- A whole COMMAND packet that is a reply. -/
def replyPacket (r : Rx) : Bool := wholeOf 0x10 r && r.body.head? = some 0x5A

/-- TWIN_INFO_REPLY (R283) -/
def execTwinInfoReply (cols : List (List LaneWord)) (s : State) : Res :=
  .next (onPacket .twin cols replyPacket (fun r => takePacket .twin r (infoReply r.body)) s)

/-- The oldest formed reply leaves in a COMMAND packet. -/
def sendReplyPacket (path : Path) (s : State) : State :=
  match path with
  | .host => match s.rope.htxReplies with
    | [] => s
    | b :: t => sendPacket .host 0x10 0 [] b
        { s with rope := { s.rope with htxReplies := t, repliesSent := wrapInc 16 s.rope.repliesSent } }
  | .twin => match s.rope.twtxReplies with
    | [] => s
    | b :: t => sendPacket .twin 0x10 0 [] b { s with rope := { s.rope with twtxReplies := t } }

/-- The transmit lane of a path is free for a reply: it carries traffic (R213), and on HTX no STATUS waits (R232). -/
def sendOpen (s : State) : Path → Bool
  | .host => htxOpen s && s.rope.statusDue.isEmpty
  | .twin => twtxOpen s

/-- REPLY_SEND (R219, R222, R232, R236) -/
def execReplySend (path : Path) (s : State) : Res := .next (if sendOpen s path then sendReplyPacket path s else s)

end Sys2Proof.Machine
end

