-- ==== Sys2Proof/Machine/Sleep.lean ====
section
/-! DEFINITION. Power states: SET_PLEVEL, SLEEP_UNTIL, P-level changes, the steps of a sleep entry, the wake port (R393 to R412). -/

namespace Sys2Proof.Machine

/-! ### Requests (R396, R399, R401) -/

/-- An accepted power-state request starts, or takes the pending slot while another is in progress (R401). -/
def submitPower (r : PowerReq) (s : State) : State :=
  match s.pwr.active with
  | none => beginPower { r with wait := 0 } s
  | some _ =>
    let s := match s.pwr.waiting with
      | some w => completeSuperseded w s
      | none => s
    { s with pwr := { s.pwr with waiting := some r } }

/-- SET_PLEVEL (R396) -/
def execSetPlevel (rq : Rq) (s : State) : Res :=
  let level := field rq.payload 0 1
  request rq 0x11 anyMode (lenIs 4) false (fun s =>
    if 3 < level then rep stBadParam s
    else if level = s.pwr.plevel && s.pwr.active.isNone && s.pwr.waiting.isNone then rep stOk s
    else accept (fun h s => submitPower { level, handle := h, src := rq.src } s) s) s

/-- SLEEP_UNTIL (R398, R399, R401); `waitMs`: how long it has to wait for another request before it starts. -/
def execSleepUntil (rq : Rq) (waitMs : Nat) (s : State) : Res :=
  let p := rq.payload
  let modeOk (s : State) : Bool := s.pwr.mode ≠ .kindle && s.pwr.mode ≠ .belay
  request rq 0x12 modeOk (lenIs 8) false (fun s =>
    if field p 0 4 = 0 then rep stBadParam s
    else accept (fun h s => submitPower
      { sleep := true, timeMs := field p 0 4, force := (field p 4 1).testBit 0, maxS1 := (field p 4 1).testBit 1, handle := h, src := rq.src, wait := waitMs } s) s) s

/-! ### P-level changes (R394 to R396, R400) -/

/-- The level the device should run at: P3 while blanked, else the level requested. -/
def wantedLevel (s : State) : Nat := if s.pwr.blankP3 then 3 else s.pwr.plevelTarget

/-- A change window is open (R394); during KINDLE none is (R395). -/
def windowOpen (s : State) : Bool :=
  match s.pwr.mode with
  | .kindle | .dormant => false
  | .snuffed => true
  | .beam | .pilot | .belay => !s.scl.comp.running || s.scl.comp.retired.length = 450

/-- PLEVEL_CHANGE_START (R394) -/
def execPlevelChangeStart (s : State) : Res :=
  .next (
    if awake s && windowOpen s && !s.pwr.changing && wantedLevel s ≠ s.pwr.plevel then
      { s with pwr := { s.pwr with changing := true, changeTo := wantedLevel s } }
    else s)

/-- PLEVEL_CHANGE_COMPLETE (R396) -/
def execPlevelChangeComplete (s : State) : Res :=
  .next (
    if !awake s || !s.pwr.changing then s
    else
      let old := s.pwr.plevel
      let s := { s with pwr := { s.pwr with changing := false, plevel := s.pwr.changeTo, changes := satInc 16 s.pwr.changes } }
      settleLevel (noteF 0x0E08 s.pwr.plevel old s.pwr.changes s))

/-! ### Sleep entry (R402 to R407) -/

/-- A block refuses: the blocks already stopped run again; the request completes at once, or at the relighting latch where the entry
made a lit array dark (R403). -/
def refuseSleep (block reason : Nat) (s : State) : State :=
  let s := { s with pwr := { s.pwr with refBlock := block, refReason := reason, refusals := satInc 16 s.pwr.refusals } }
  let s := noteF 0x0E03 block reason s.pwr.chosen s
  let stopped := s.pwr.dark && !s.pwr.darkBefore
  let s := restartBlocks s
  if stopped then { s with pwr := { s.pwr with relight := some (stRefused, block, reason) } }
  else finishPower stRefused block reason { s with pwr := { s.pwr with dark := staysDark s.pwr || calDark s } }

/-- An array that is dark already stops at once: its words are zeros. -/
def stopDark (s : State) : State :=
  stopArray { s with arr := { s.arr with active := [], sumActive := (0, 0, 0, 0), zeroLoad := true } }

/-- A load of PATTERN_WRITE or FW_PATCH is in progress. -/
def hostLoad (s : State) : Bool := s.nvm.pw.isSome || s.cmd.patch.isSome

/-- FORCE of the request in progress. -/
def forced (s : State) : Bool := s.pwr.active.any (·.force)

/-- The stores that wait or run are marked as the sleep entry's, the lifetime block's alone among those that wait. -/
def markLife (s : State) : State :=
  { s with
    pwr := { s.pwr with nvmAsked := true, lifeStored := false }
    nvm := { s.nvm with
      queue := s.nvm.queue.map (fun r => { r with sleep := r.content = 9 })
      run := s.nvm.run.map (fun r => { r with sleep := false }) } }

/-- The NVM block makes its stores: the lifetime block always, the wear map and the defect list where they have changed (R398). A
lifetime store that runs already is not the entry's. -/
def askNvm (s : State) : State :=
  let s := if s.diag.storePending then requestStore 4 [] s else s
  let s := if s.map.sinceCommitS ≠ 0 then requestStore 3 [] s else s
  markLife (requestStore 9 [] s)

/-- Every store of the entry is committed and the staging queue is written; a recorder in RAM_ONLY writes none (R385, R402). -/
def storesDone (s : State) : Bool :=
  s.pwr.lifeStored && s.map.sinceCommitS = 0 && !s.diag.storePending && (s.evr.queue.isEmpty || ramOnly s)

/-- The losses of R405, kept by the always-on island. -/
def noteLosses (skipped : Bool) (s : State) : State :=
  let n := min s.evr.queue.length 65535
  { s with ao := { s.ao with
      forced := skipped || n ≠ 0, lossRecords := n, lossCountS := if s.pwr.lifeStored then 0 else min s.evr.sinceS 65535 } }

/-- The point of no return (R402, R406): a wake request abandons the entry; otherwise the mode becomes DORMANT. -/
def pointOfNoReturn (skipped : Bool) (s : State) : State :=
  if s.ao.wakeLevel || s.ao.i2cMatched then refuseSleep 0 1 s
  else if s.ao.timerExpired then refuseSleep 0 6 s
  else
    let s := noteLosses skipped s
    let s := enterMode .dormant 14 s
    { s with pwr := { s.pwr with entryStep := 5, dark := false, readyPin := false } }

/-- The NVM block: asked once, then done when its stores are; it refuses while a load is in progress, also one that began after it was
asked; with FORCE, what cannot be stored is skipped (R402, R405). -/
def stepNvm (s : State) : State :=
  if hostLoad s then refuseSleep 4 3 s
  else if !s.pwr.nvmAsked then
    if !s.thm.nvmOpen then
      if forced s then pointOfNoReturn true s else refuseSleep 4 4 s
    else askNvm s
  else if storesDone s then pointOfNoReturn false s
  else if !s.thm.nvmOpen then (if forced s then pointOfNoReturn true s else refuseSleep 4 4 s)
  else s

/-- The LINK block stops: a last STATUS and a last heartbeat, TWIN_ALIVE_OUT low, every lane off (R402). -/
def stopLink (s : State) : State :=
  let s := if s.rope.statusEn && s.lnk.htx.pattern = 0 then sendStatus 0 0xFF 0xFF s else s
  let s := sendTwin 1 (heartbeatFields true s) s
  { s with
    pwr := { s.pwr with entryStep := 6 }
    twn := { s.twn with aliveOut := false }
    lnk := { s.lnk with lanes := s.lnk.lanes.map (fun x => { x with state := .disabled }), bondMask := 0, bondRate := 7, forming := false }
    rope := { s.rope with host := { s.rope.host with up := false }, twin := { s.rope.twin with up := false } } }

/-- The CTRL block stops: ports closed, HDRM_REQ at D = 0 (R76, R402). -/
def stopCtrl (s : State) : State :=
  { s with
    pwr := { s.pwr with entryStep := 7, limral := false }
    arr := { s.arr with duty := 0 }
    cmd := { s.cmd with sdo := [] } }

/-- The clocks stop: the sleep state is reached, with the window that ends entry (R402, R407, R415). -/
def stopClocks (s : State) : State :=
  let st := s.pwr.chosen
  { s with
    pwr := { s.pwr with entryStep := 15, ldoOk := false, pllOk := false }
    ao := { s.ao with
      inWindow := true, sleepState := st
      sleepsS1 := if st = 1 then satInc 16 s.ao.sleepsS1 else s.ao.sleepsS1
      sleepsS2 := if st = 2 then satInc 16 s.ao.sleepsS2 else s.ao.sleepsS2 } }

/-- The next block of a sleep entry, before the point of no return. -/
def entryBlock (s : State) : State :=
  match s.pwr.entryStep with
  | 1 => if arrayBusy s then refuseSleep 1 2 s else if arrayDark s then stopDark s else s
  | 2 =>
    let s := { s with pwr := { s.pwr with composeStop := true } }
    if composing s then s else { s with pwr := { s.pwr with entryStep := 3 } }
  | 3 => { s with pwr := { s.pwr with entryStep := 4, nvmAsked := false, lifeStored := false } }
  | 4 => stepNvm s
  | _ => s

/-- The blocks after the point of no return; they never refuse. -/
def lateBlock (s : State) : State :=
  match s.pwr.entryStep with
  | 5 => stopLink s
  | 6 => stopCtrl s
  | 7 => stopClocks s
  | _ => s

/-- SLEEP_ENTRY_STEP (R402): the next block is asked to stop, and stops or refuses, or goes on with its work. -/
def execSleepEntryStep (s : State) : Res :=
  .next (
    if s.pwr.inReset || !entryInProgress s then s
    else if s.pwr.mode = .dormant then lateBlock s
    else entryBlock s)

/-- SLEEP_NVM_TIMEOUT (R402, R405): 150 ms after the NVM block was asked. -/
def execSleepNvmTimeout (s : State) : Res :=
  .next (
    if !awake s || !entryInProgress s || s.pwr.entryStep ≠ 4 || !s.pwr.nvmAsked || storesDone s then s
    else if !forced s then refuseSleep 4 5 s
    else if hostLoad s then refuseSleep 4 3 s
    else pointOfNoReturn true s)

/-- SLEEP_RELIGHT (R403): the array lights again with the frame that flips at this boundary. -/
def execSleepRelight (s : State) : Res := .next (if awake s then relightNow s else s)

/-! ### Waking (R407 to R409) -/

/-- The device sleeps, and the window that ends entry is over. -/
def asleep (s : State) : Bool := s.pwr.mode = .dormant && !s.pwr.inReset && s.ao.sleepState ≠ 0 && !s.ao.inWindow

/-- A sleep entry is under way or in its closing window, so that a wake request is kept (R402, R407). -/
def keepsWake (s : State) : Bool := !s.pwr.inReset && (entryInProgress s || s.pwr.mode = .dormant)

/-- SLEEP_WINDOW_END (R407) -/
def execSleepWindowEnd (s : State) : Res :=
  .next (
    if !s.ao.inWindow then s
    else
      let s := { s with ao := { s.ao with inWindow := false } }
      if s.ao.wakeLevel then wake 1 s
      else if s.ao.i2cMatched then wake 2 s
      else if s.ao.timerExpired then wake 3 s
      else s)

/-- WAKE_PIN (R402, R408) -/
def execWakePin (level : Bool) (s : State) : Res :=
  let s := { s with ao := { s.ao with wakeLevel := level } }
  .next (if level && asleep s then wake 1 s else s)

/-- I2C_ADDRESS_MATCH (R402, R407, R409): in the window that ends entry the port does not acknowledge. -/
def execI2cAddressMatch (addr : Nat) (s : State) : Res :=
  .next (
    if addr ≠ s.ao.i2cAddr || s.ao.inWindow then s
    else if asleep s then wake 2 s
    else if keepsWake s then { s with ao := { s.ao with i2cMatched := true } }
    else s)

/-- I2C_READ (R409): each byte read is the mode code. -/
def execI2cRead (s : State) : Res :=
  .next (if s.ao.inWindow then s else { s with ao := { s.ao with i2cOut := modeCode s.pwr.mode } })

/-- WAKE_TIMER_EXPIRY (R398, R402, R407, R408) -/
def execWakeTimerExpiry (s : State) : Res :=
  .next (
    if !s.ao.timerArmed then s
    else
      let s := { s with ao := { s.ao with timerArmed := false } }
      if asleep s then (if s.ao.sleepState = 1 then wake 3 s else s)
      else if keepsWake s then { s with ao := { s.ao with timerExpired := true } }
      else s)

end Sys2Proof.Machine
end

