-- ==== Sys2Proof/Machine/Dispatch.lean ====
section
/-! DEFINITION. One arm for each command: what it does to everything but the queue. -/

namespace Sys2Proof.Machine

/-- The meaning of a command. -/
def exec (i : Instr) (s : State) : Host.Outcome State Fault Refusal :=
  match i with
  | .powerOn rise as0 as1 bad scarBad => Sys2Proof.Machine.execPowerOn rise as0 as1 bad scarBad s
  | .resetNAssert as0 as1 => Sys2Proof.Machine.execResetNAssert as0 as1 s
  | .supplyDip rail => Sys2Proof.Machine.execSupplyDip rail s
  | .supplyLossInS1 rail => Sys2Proof.Machine.execSupplyLossInS1 rail s
  | .testEnAssert => Sys2Proof.Machine.execTestEnAssert s
  | .resetRelease => Sys2Proof.Machine.execResetRelease s
  | .ldoRegulation => Sys2Proof.Machine.execLdoRegulation s
  | .pllLock => Sys2Proof.Machine.execPllLock s
  | .limralReady => Sys2Proof.Machine.execLimralReady s
  | .arrayBiasSettled m => Sys2Proof.Machine.execArrayBiasSettled m s
  | .bistComplete fail => Sys2Proof.Machine.execBistComplete fail s
  | .nvmLoadComplete m => Sys2Proof.Machine.execNvmLoadComplete m s
  | .calibrationComplete us => Sys2Proof.Machine.execCalibrationComplete us s
  | .kindleWorkComplete workUs => Sys2Proof.Machine.execKindleWorkComplete workUs s
  | .kindleTimeout => Sys2Proof.Machine.execKindleTimeout s
  | .logScanComplete => Sys2Proof.Machine.execLogScanComplete s
  | .composeLatch => Sys2Proof.Machine.execComposeLatch s
  | .engineNextTile e near far => Sys2Proof.Machine.execEngineNextTile e near far s
  | .tileRetired e clocks stall => Sys2Proof.Machine.execTileRetired e clocks stall s
  | .sigReadbackTile tile diff => Sys2Proof.Machine.execSigReadbackTile tile diff s
  | .mapperFlushPoint clocks outMax part => Sys2Proof.Machine.execMapperFlushPoint clocks outMax part s
  | .grefFinal => Sys2Proof.Machine.execGrefFinal s
  | .signaturesFinal => Sys2Proof.Machine.execSignaturesFinal s
  | .frameLatch flags vledMv totalUs testDue => Sys2Proof.Machine.execFrameLatch flags vledMv totalUs testDue s
  | .diagVerdictsFinal parity => Sys2Proof.Machine.execDiagVerdictsFinal parity s
  | .slotStart flags test => Sys2Proof.Machine.execSlotStart flags test s
  | .scanCycleStart => Sys2Proof.Machine.execScanCycleStart s
  | .fsyncInEdge count => Sys2Proof.Machine.execFsyncInEdge count s
  | .holdoverEntry => Sys2Proof.Machine.execHoldoverEntry s
  | .hostTimeout => Sys2Proof.Machine.execHostTimeout s
  | .beamWaitTimeout => Sys2Proof.Machine.execBeamWaitTimeout s
  | .blankingEnd => Sys2Proof.Machine.execBlankingEnd s
  | .plevelChangeStart => Sys2Proof.Machine.execPlevelChangeStart s
  | .plevelChangeComplete => Sys2Proof.Machine.execPlevelChangeComplete s
  | .spiRequestTransaction bytes => Sys2Proof.Machine.execSpiRequestTransaction bytes s
  | .spiReadTransaction n => Sys2Proof.Machine.execSpiReadTransaction n s
  | .spiVoidTransaction n => Sys2Proof.Machine.execSpiVoidTransaction n s
  | .commandPacket path cols => Sys2Proof.Machine.execCommandPacket path cols s
  | .twinInfoReply cols => Sys2Proof.Machine.execTwinInfoReply cols s
  | .replySend path => Sys2Proof.Machine.execReplySend path s
  | .ping rq => Sys2Proof.Machine.execPing rq s
  | .getInfo rq => Sys2Proof.Machine.execGetInfo rq s
  | .getStatus rq => Sys2Proof.Machine.execGetStatus rq s
  | .readReg rq => Sys2Proof.Machine.execReadReg rq s
  | .writeReg rq => Sys2Proof.Machine.execWriteReg rq s
  | .getCompletions rq => Sys2Proof.Machine.execGetCompletions rq s
  | .lockConfig rq => Sys2Proof.Machine.execLockConfig rq s
  | .setMode rq => Sys2Proof.Machine.execSetMode rq s
  | .setPlevel rq => Sys2Proof.Machine.execSetPlevel rq s
  | .sleepUntil rq waitMs => Sys2Proof.Machine.execSleepUntil rq waitMs s
  | .layerConfig rq => Sys2Proof.Machine.execLayerConfig rq s
  | .layerEnable rq => Sys2Proof.Machine.execLayerEnable rq s
  | .flipGroupConfigure rq => Sys2Proof.Machine.execFlipGroupConfigure rq s
  | .flipGroupArm rq => Sys2Proof.Machine.execFlipGroupArm rq s
  | .fenceSignal rq => Sys2Proof.Machine.execFenceSignal rq s
  | .loadLut rq => Sys2Proof.Machine.execLoadLut rq s
  | .loadCoeffs rq => Sys2Proof.Machine.execLoadCoeffs rq s
  | .signatureRegionConfigure rq => Sys2Proof.Machine.execSignatureRegionConfigure rq s
  | .signatureRegionDisable rq => Sys2Proof.Machine.execSignatureRegionDisable rq s
  | .linkTrainRestart rq => Sys2Proof.Machine.execLinkTrainRestart rq s
  | .linkTrainDisable rq => Sys2Proof.Machine.execLinkTrainDisable rq s
  | .linkTrainComplete ms => Sys2Proof.Machine.execLinkTrainComplete ms s
  | .laneBitslip rq => Sys2Proof.Machine.execLaneBitslip rq s
  | .eyeScan rq => Sys2Proof.Machine.execEyeScan rq s
  | .eyeScanComplete errors => Sys2Proof.Machine.execEyeScanComplete errors s
  | .calibrateFull rq => Sys2Proof.Machine.execCalibrateFull rq s
  | .calibrateFullMeasure m us => Sys2Proof.Machine.execCalibrateFullMeasure m us s
  | .calibrateSensors rq readings => Sys2Proof.Machine.execCalibrateSensors rq readings s
  | .calCommit rq => Sys2Proof.Machine.execCalCommit rq s
  | .nvmRead rq => Sys2Proof.Machine.execNvmRead rq s
  | .patternWriteBegin rq => Sys2Proof.Machine.execPatternWriteBegin rq s
  | .patternWriteData rq verifyFail => Sys2Proof.Machine.execPatternWriteData rq verifyFail s
  | .patternWriteCommit rq => Sys2Proof.Machine.execPatternWriteCommit rq s
  | .patternWriteCommitDone writeFail copyFail => Sys2Proof.Machine.execPatternWriteCommitDone writeFail copyFail s
  | .patternWriteAbort rq => Sys2Proof.Machine.execPatternWriteAbort rq s
  | .faultRead rq => Sys2Proof.Machine.execFaultRead rq s
  | .faultClearClear rq during => Sys2Proof.Machine.execFaultClearClear rq during s
  | .faultClearAck rq during => Sys2Proof.Machine.execFaultClearAck rq during s
  | .faultInjectDry rq => Sys2Proof.Machine.execFaultInjectDry rq s
  | .faultInjectLive rq => Sys2Proof.Machine.execFaultInjectLive rq s
  | .injectionEnd => Sys2Proof.Machine.execInjectionEnd s
  | .injectCoincident atInjection p0 p1 p2 p3 => Sys2Proof.Machine.execInjectCoincident atInjection p0 p1 p2 p3 s
  | .logRead rq => Sys2Proof.Machine.execLogRead rq s
  | .histoRead rq => Sys2Proof.Machine.execHistoRead rq s
  | .diagMapRead rq => Sys2Proof.Machine.execDiagMapRead rq s
  | .pixelTestMeasure rq => Sys2Proof.Machine.execPixelTestMeasure rq s
  | .pixelTestRelease rq => Sys2Proof.Machine.execPixelTestRelease rq s
  | .pixelTestDisable rq => Sys2Proof.Machine.execPixelTestDisable rq s
  | .twinConfig rq => Sys2Proof.Machine.execTwinConfig rq s
  | .thermConfig rq => Sys2Proof.Machine.execThermConfig rq s
  | .thermClear rq => Sys2Proof.Machine.execThermClear rq s
  | .storeAssign rq => Sys2Proof.Machine.execStoreAssign rq s
  | .storePool rq => Sys2Proof.Machine.execStorePool rq s
  | .handoverComplete bank => Sys2Proof.Machine.execHandoverComplete bank s
  | .fwPatchBegin rq => Sys2Proof.Machine.execFwPatchBegin rq s
  | .fwPatchData rq verifyFail => Sys2Proof.Machine.execFwPatchData rq verifyFail s
  | .fwPatchCommit rq => Sys2Proof.Machine.execFwPatchCommit rq s
  | .fwPatchCommitDone writeFail => Sys2Proof.Machine.execFwPatchCommitDone writeFail s
  | .fwPatchAbort rq => Sys2Proof.Machine.execFwPatchAbort rq s
  | .ftimerCtlWrite h w => Sys2Proof.Machine.execFtimerCtlWrite h w s
  | .composeLeadWrite h w => Sys2Proof.Machine.execComposeLeadWrite h w s
  | .arrayCtlWrite h w => Sys2Proof.Machine.execArrayCtlWrite h w s
  | .budgetWrite h w => Sys2Proof.Machine.execBudgetWrite h w s
  | .hdrmDutyWrite h w => Sys2Proof.Machine.execHdrmDutyWrite h w s
  | .wickDataWrite h w => Sys2Proof.Machine.execWickDataWrite h w s
  | .fltLatchedWrite h w during => Sys2Proof.Machine.execFltLatchedWrite h w during s
  | .fltAckedWrite h w during => Sys2Proof.Machine.execFltAckedWrite h w during s
  | .selftest h w => Sys2Proof.Machine.execSelftest h w s
  | .guFeed h n w => Sys2Proof.Machine.execGuFeed h n w s
  | .guRestart h n w => Sys2Proof.Machine.execGuRestart h n w s
  | .guCapture h n w => Sys2Proof.Machine.execGuCapture h n w s
  | .read64 h => Sys2Proof.Machine.execRead64 h s
  | .write64 h => Sys2Proof.Machine.execWrite64 h s
  | .fadd32 h => Sys2Proof.Machine.execFadd32 h s
  | .fadd64 h => Sys2Proof.Machine.execFadd64 h s
  | .swap32 h => Sys2Proof.Machine.execSwap32 h s
  | .swap64 h => Sys2Proof.Machine.execSwap64 h s
  | .windowOpComplete wait ecc => Sys2Proof.Machine.execWindowOpComplete wait ecc s
  | .bankUseWrite h bank w => Sys2Proof.Machine.execBankUseWrite h bank w s
  | .laneTestMode h l w => Sys2Proof.Machine.execLaneTestMode h l w s
  | .laneMissionMode h l w => Sys2Proof.Machine.execLaneMissionMode h l w s
  | .rawCapture h l raw line => Sys2Proof.Machine.execRawCapture h l raw line s
  | .txPatternWrite h twin w => Sys2Proof.Machine.execTxPatternWrite h twin w s
  | .hrxEnWrite h w => Sys2Proof.Machine.execHrxEnWrite h w s
  | .layerSrcWrite h w => Sys2Proof.Machine.execLayerSrcWrite h w s
  | .losAssert l => Sys2Proof.Machine.execLosAssert l s
  | .losDeassert l settled => Sys2Proof.Machine.execLosDeassert l settled s
  | .backoffExpiry l => Sys2Proof.Machine.execBackoffExpiry l s
  | .anchorReceived l set => Sys2Proof.Machine.execAnchorReceived l set s
  | .climbReceived set ms => Sys2Proof.Machine.execClimbReceived set ms s
  | .cdrLock l => Sys2Proof.Machine.execCdrLock l s
  | .laneAligned l slip => Sys2Proof.Machine.execLaneAligned l slip s
  | .alignmentLost l => Sys2Proof.Machine.execAlignmentLost l s
  | .adaptComplete l eq ms => Sys2Proof.Machine.execAdaptComplete l eq ms s
  | .attemptTimeout l => Sys2Proof.Machine.execAttemptTimeout l s
  | .bondFormation => Sys2Proof.Machine.execBondFormation s
  | .bondWaitExpiry => Sys2Proof.Machine.execBondWaitExpiry s
  | .bondMarker marks => Sys2Proof.Machine.execBondMarker marks s
  | .bondTimeout => Sys2Proof.Machine.execBondTimeout s
  | .relockEntry l gapUs atMs => Sys2Proof.Machine.execRelockEntry l gapUs atMs s
  | .relockComplete l inPlace => Sys2Proof.Machine.execRelockComplete l inPlace s
  | .relockTimeout l => Sys2Proof.Machine.execRelockTimeout l s
  | .frameStart path cols => Sys2Proof.Machine.execFrameStart path cols s
  | .lineData path cols bufBytes waits => Sys2Proof.Machine.execLineData path cols bufBytes waits s
  | .frameEnd path cols => Sys2Proof.Machine.execFrameEnd path cols s
  | .backBufferReady n => Sys2Proof.Machine.execBackBufferReady n s
  | .fenceTimeout n => Sys2Proof.Machine.execFenceTimeout n s
  | .packetDiscard path cols bufBytes => Sys2Proof.Machine.execPacketDiscard path cols bufBytes s
  | .packetForward => Sys2Proof.Machine.execPacketForward s
  | .syncWordReceived word inPacket count => Sys2Proof.Machine.execSyncWordReceived word inPacket count s
  | .statusSend => Sys2Proof.Machine.execStatusSend s
  | .climbSend path => Sys2Proof.Machine.execClimbSend path s
  | .heartbeatSend => Sys2Proof.Machine.execHeartbeatSend s
  | .twinAliveToggle => Sys2Proof.Machine.execTwinAliveToggle s
  | .twinAliveEdge silenceUs => Sys2Proof.Machine.execTwinAliveEdge silenceUs s
  | .twinAliveInactive => Sys2Proof.Machine.execTwinAliveInactive s
  | .heartbeatReceived cols silenceUs => Sys2Proof.Machine.execHeartbeatReceived cols silenceUs s
  | .snuffMessageReceived cols => Sys2Proof.Machine.execSnuffMessageReceived cols s
  | .recordReceived cols => Sys2Proof.Machine.execRecordReceived cols s
  | .recordSend => Sys2Proof.Machine.execRecordSend s
  | .recordRetransmit => Sys2Proof.Machine.execRecordRetransmit s
  | .heartbeatSilence us => Sys2Proof.Machine.execHeartbeatSilence us s
  | .twinPinFault => Sys2Proof.Machine.execTwinPinFault s
  | .joinTimeout => Sys2Proof.Machine.execJoinTimeout s
  | .storeAccessGrant bank clocks claims ecc => Sys2Proof.Machine.execStoreAccessGrant bank clocks claims ecc s
  | .requestEscalation bank m claims => Sys2Proof.Machine.execRequestEscalation bank m claims s
  | .scrubRead bank ecc => Sys2Proof.Machine.execScrubRead bank ecc s
  | .patternReload belay => Sys2Proof.Machine.execPatternReload belay s
  | .thermalSample samples => Sys2Proof.Machine.execThermalSample samples s
  | .nvmWindowOpen => Sys2Proof.Machine.execNvmWindowOpen s
  | .derateStep => Sys2Proof.Machine.execDerateStep s
  | .scarRecordWrite => Sys2Proof.Machine.execScarRecordWrite s
  | .scarCopy => Sys2Proof.Machine.execScarCopy s
  | .autoRekindle => Sys2Proof.Machine.execAutoRekindle s
  | .ntcConversion code => Sys2Proof.Machine.execNtcConversion code s
  | .eventRaise ev => Sys2Proof.Machine.execEventRaise ev s
  | .collateralWindowClose r => Sys2Proof.Machine.execCollateralWindowClose r s
  | .witnessDisagree ev => Sys2Proof.Machine.execWitnessDisagree ev s
  | .collectorSelf parity word persists => Sys2Proof.Machine.execCollectorSelf parity word persists s
  | .linkIslandError unit word => Sys2Proof.Machine.execLinkIslandError unit word s
  | .engineParity e pass => Sys2Proof.Machine.execEngineParity e pass s
  | .coreUv ldo mv => Sys2Proof.Machine.execCoreUv ldo mv s
  | .hvUv mv => Sys2Proof.Machine.execHvUv mv s
  | .pllUnlock pll => Sys2Proof.Machine.execPllUnlock pll s
  | .xtalFail khz => Sys2Proof.Machine.execXtalFail khz s
  | .nvmStoreStart => Sys2Proof.Machine.execNvmStoreStart s
  | .nvmStoreComplete failAt => Sys2Proof.Machine.execNvmStoreComplete failAt s
  | .defectListStore => Sys2Proof.Machine.execDefectListStore s
  | .wearGainRecompute => Sys2Proof.Machine.execWearGainRecompute s
  | .wearMapStore => Sys2Proof.Machine.execWearMapStore s
  | .lifetimeStore => Sys2Proof.Machine.execLifetimeStore s
  | .lifetimeSample => Sys2Proof.Machine.execLifetimeSample s
  | .operatingSecondTick => Sys2Proof.Machine.execOperatingSecondTick s
  | .mainRingWrite fail => Sys2Proof.Machine.execMainRingWrite fail s
  | .cairnWrite fail => Sys2Proof.Machine.execCairnWrite fail s
  | .recordsDropped => Sys2Proof.Machine.execRecordsDropped s
  | .sleepEntryStep => Sys2Proof.Machine.execSleepEntryStep s
  | .sleepRelight => Sys2Proof.Machine.execSleepRelight s
  | .sleepWindowEnd => Sys2Proof.Machine.execSleepWindowEnd s
  | .wakePin level => Sys2Proof.Machine.execWakePin level s
  | .i2cAddressMatch addr => Sys2Proof.Machine.execI2cAddressMatch addr s
  | .i2cRead => Sys2Proof.Machine.execI2cRead s
  | .wakeTimerExpiry => Sys2Proof.Machine.execWakeTimerExpiry s
  | .sleepNvmTimeout => Sys2Proof.Machine.execSleepNvmTimeout s
  | .scarWriteComplete => Sys2Proof.Machine.execScarWriteComplete s
  | .lrefClockChange present => Sys2Proof.Machine.execLrefClockChange present s
  | .twinAckSetsSent => Sys2Proof.Machine.execTwinAckSetsSent s

end Sys2Proof.Machine
end

