-- ==== Sys2Proof/Safety.lean ====
section
/-! DEFINITION. What counts as a safe run: one that never stops, from a queue of well-formed commands; and the words in which the
statements say that a request is let through and answered. -/

namespace Sys2Proof.Machine

/-- Every waiting command is well formed. -/
def queueWellFormed (s : State) : Bool := s.pending.all Instr.wellFormed

/-- A step that answers a next state. -/
def stepsOn (s : State) : Prop := ∃ t, step s = .next t

/-- `k` steps from a state, none of which stops. -/
def safeFor : Nat → State → Prop
  | 0, _ => True
  | k + 1, s => ∃ t, step s = .next t ∧ safeFor k t

/-- Steps 5 to 7 of R241 let a request through: the control core is free and it is the request's turn, the source may send the opcode, KINDLE does not bar it, and the
lock does not forbid it. -/
def admits (op : Nat) (rq : Rq) (s : State) : Bool :=
  canRun op rq s && !(rq.src = .twin && !twinOpcodes.contains op) && !(s.pwr.mode = .kindle && barredInKindle op) &&
    !(s.cmd.locked && lockForbids op rq.payload)

/-- Steps 5 and 6 of R241 let a request through, whatever the lock says. -/
def reaches (op : Nat) (rq : Rq) (s : State) : Bool :=
  canRun op rq s && !(rq.src = .twin && !twinOpcodes.contains op) && !(s.pwr.mode = .kindle && barredInKindle op)

/-- The rows that bring a reset, or let the device out of DORMANT (R408, R412, R418). -/
def resetRow : Instr → Bool
  | .powerOn _ _ _ _ _ | .resetNAssert _ _ | .supplyDip _ | .testEnAssert | .sleepWindowEnd | .wakePin _ | .i2cAddressMatch _
  | .wakeTimerExpiry => true
  | _ => false

/-- Only the front end differs: queues, counters and replies of the command paths, and what recording an event may touch. -/
def frontEndOnly (s t : State) : Prop :=
  t = { s with
    cmd := t.cmd, flt := t.flt, evr := t.evr, twn := t.twn
    pwr := { s.pwr with hostSrc := t.pwr.hostSrc }
    rope := { s.rope with htxReplies := t.rope.htxReplies, twtxReplies := t.rope.twtxReplies }
    mem := { s.mem with assigning := t.mem.assigning } }

/-- The state in which a request's own rules are judged: the request is taken and counted (R241, R243). -/
def after (op : Nat) (rq : Rq) (s : State) : State := takeRequest op rq s

/-- A request is answered with a reply, its own effect having left the state `t`. -/
def answered (op : Nat) (rq : Rq) (r : Rep) (t : State) : Res := .next (answer rq.src op rq.tag r t)

/-- A request is refused by the configuration lock: LOCKED, one refusal counted, nothing else (R262). -/
def lockedOut (op : Nat) (rq : Rq) (s : State) : Res :=
  let t := after op rq s
  answered op rq { status := stLocked } { t with cmd := { t.cmd with lockRefusals := satInc 16 t.cmd.lockRefusals } }

/-- The WRITE_REG request that writes one word. -/
def wordRq (h : Hdr) (a v : Nat) : Rq := { src := h.src, tag := h.tag, payload := le 4 a ++ le 2 1 ++ le 2 0 ++ le 4 v }

/-- A write of one word is let through: WRITE_REG is, and the lock does not close the register (R262). -/
def admitsWrite (h : Hdr) (a v : Nat) (s : State) : Bool := admits 0x04 (wordRq h a v) s && !(s.cmd.locked && lockedWord a)

/-- The write of one word is answered OK and leaves the state `t`. -/
def wrote (h : Hdr) (a v : Nat) (t : State) : Res := answered 0x04 (wordRq h a v) { status := stOk } t

/-- The write of one word is refused with a status; the payload names word 0 (R260). -/
def writeRefused (h : Hdr) (a v status : Nat) (t : State) : Res :=
  answered 0x04 (wordRq h a v) { status, payload := le 2 0 } t

/-- The state before the register takes the word. -/
def beforeWrite (h : Hdr) (a v : Nat) (s : State) : State := after 0x04 (wordRq h a v) s

/-- Only the fault collector, the event recorder and the twin block differ: what recording an event may touch. -/
def recordsOnly (s t : State) : Prop := t = { s with flt := t.flt, evr := t.evr, twn := t.twn }

/-- The internal reset is asserted, and every block but the always-on island, the collector, MRAM and the scar area is at its reset
values (R412, R415). -/
def blocksReset (t : State) : Prop :=
  t.ft = {} ∧ t.arr = {} ∧ t.map = {} ∧ t.diag = {} ∧ t.cmp = {} ∧ t.scl = {} ∧ t.chk = {} ∧ t.lnk = {} ∧ t.rope = {} ∧ t.cmd = {} ∧
    t.twn = {} ∧ t.mem = {} ∧ t.thm = {} ∧ t.evr = {} ∧ t.pwr = { testEn := t.pwr.testEn } ∧
    t.nvm = { mram := t.nvm.mram, badWords := t.nvm.badWords, scar := t.nvm.scar, scarBad := t.nvm.scarBad }

/-- No store, no PATTERN_WRITE load and no patch load runs. -/
def nvmQuiet (s : State) : Prop := s.nvm.run = none ∧ s.nvm.pw = none ∧ s.cmd.patch = none

/-- No layer's stale policy can raise an event of level SNUFF (R139). -/
def mildLayers (s : State) : Prop :=
  ∀ l ∈ s.cmp.layers, l.cfg.faultLevel < 4 ∧ ∀ c, l.pend = some c → c.faultLevel < 4

/-- The array is lit, and nothing waits for a boundary to make it dark or light it again. -/
def staysLit (s : State) : Prop :=
  litMode s.pwr.mode = true ∧ s.pwr.dark = false ∧ s.pwr.blankReq = none ∧ s.pwr.active = none ∧ s.nvm.calRun = none ∧
    s.pwr.relight = none ∧ s.pwr.litDue = false

/-- What COMPOSE_LATCH has decided before it looks at the layers: lead, gains, configurations and the mode (R81, R141). -/
def decided (s : State) : State := decideMode (latchConfigs (swapGains (latchLead s)))

/-- A compose latch acts: a lit mode, the timer runs, no compose runs, the compositor is not stopped (R141, R402). -/
def latches (s : State) : Prop :=
  awake s = true ∧ s.ft.running = true ∧ litMode s.pwr.mode = true ∧ s.pwr.composeStop = false ∧ s.scl.comp.running = false

/-- A lane after words have come in: its running disparity and its error counts (R193, R217). -/
def heardLane (x : Lane) (ws : List LaneWord) : Lane :=
  let r := receiveGroups x.rdPos (groupsOf ws)
  { x with rdPos := r.2, codeErr := min (x.codeErr + codeErrors r.1) 65535
           dispErr := min (x.dispErr + (flagged r.1 - codeErrors r.1)) 65535 }

/-- A transmit lane after symbols and ordered sets have gone out. -/
def sentLine (x : TxLine) (l : List Sym) (sets : Nat) : TxLine :=
  { x with out := (sendGroups x.rdPos l).1, rdPos := (sendGroups x.rdPos l).2, seq := if sets = 0 then x.seq else (x.seq + sets) % 256 }

/-- Columns bring `r` on a path that is up, with powered lanes. -/
def brings (p : Path) (cols : List (List LaneWord)) (r : Rx) (s : State) : Prop :=
  lanesUp s = true ∧ (pathOf s p).up = true ∧ rxOf p cols s = r

/-- What columns leave behind before their packet is taken: the lanes' counts, the start of packet that has cut the packet, the
forwarding buffer (R193, R224, R284). -/
def heard (p : Path) (cols : List (List LaneWord)) (s : State) : State :=
  forwardPacket p (rxOf p cols s) (keepRest p (rxOf p cols s) (takeColumns p cols s))

/-- Lane `l` becomes `x`; nothing else differs but the note that a running eye scan has lost its lane. -/
def laneBecomes (l : Nat) (x : Lane) (s t : State) : Prop :=
  t = { s with lnk := { s.lnk with lanes := s.lnk.lanes.set l x, eye := t.lnk.eye } }

end Sys2Proof.Machine
end

