-- ==== Sys2Proof/Certificates/Slice0/Obligations.lean ====
section
/-! DEFINITION. The statements for the provers: what the step and every command of the device do. -/

open Sys2Proof Sys2Proof.Machine

/-! ### The queue, the step, and what every run keeps -/

/-- For every command c and state s, step of s with c at the front of its queue is exec c on s with the queue's rest; on an empty queue
the block idles (the model's choice, log entry 4). -/
def Obligations.StepRunsFront : Prop :=
  (∀ (c : Instr) (rest : List Instr) (s : State), step { s with pending := c :: rest } = exec c { s with pending := rest }) ∧
  (∀ s : State, s.pending = [] → step s = .next s)

/-- At State.reset the common store, MRAM and the scar area are in canonical form and every list holds as many units as the device has,
the internal reset is asserted, no command waits, and the registers PWR_MODE_STAT, PWR_MODE_CTL, PWR_REQ, PWR_SLEEP_STAT,
PWR_LAST_REFUSAL, PWR_WAKE_SRC, LNK_CTL, CMP_FENCE_CTL, SCL_CTL, DRV_GREF, DRV_BUDGET, DRV_HDRM_CTL, DRV_COMPOSE_LEAD, DRV_FTIMER_STAT,
DRV_MAP_GAIN and FLT_CTL read the reset values of the register tables. (What MRAM and the scar area hold before they are written is the
model's choice, log entry 6.) -/
def Obligations.ResetState : Prop :=
  canonical State.reset = true ∧ shaped State.reset = true ∧ State.reset.pending = [] ∧ State.reset.pwr.inReset = true ∧
  State.reset.pwr.mode = .kindle ∧ (∀ a, memGet State.reset.mem.cells a = 0) ∧
  regRead 0x10000 State.reset = 0x771 ∧ regRead 0x10004 State.reset = 500 ∧ regRead 0x10104 State.reset = 0xF0 ∧
  regRead 0x10108 State.reset = 3 ∧ regRead 0x1010C State.reset = 15 ∧ regRead 0x10110 State.reset = 0 ∧
  regRead 0x20000 State.reset = 0xC40F ∧ regRead 0x30008 State.reset = 100 ∧ regRead 0x40000 State.reset = 3 ∧
  regRead 0x50008 State.reset = 256 + 256 * 2 ^ 16 ∧ regRead 0x5000C State.reset = 12000 + 16 * 2 ^ 16 ∧
  regRead 0x50020 State.reset = 300 + 16 * 2 ^ 16 + 5 * 2 ^ 26 + 2 ^ 31 ∧ regRead 0x50108 State.reset = 3000 ∧
  regRead 0x5010C State.reset = 3000 * 2 ^ 8 ∧ regRead 0x50204 State.reset = 0x8000 ∧ regRead 0x80000 State.reset = 0x20

/-- For every state that holds 5 lanes, 24 engines, 8 coefficient tables, 6 layers, 3 flip groups, 13 tables, 8 check-value units, 16
regions, 64 banks, 28 masters, 36 sensors, 18 classes and 8 + 8 rectangles, every step that answers a next state holds as many; and for
every state whose common store, MRAM and scar area are in canonical form (addresses strictly rising, no listed byte equal to what an
unlisted byte reads as), every step that answers a next state leaves them so. -/
def Obligations.ShapesAndMemoriesStay : Prop :=
  (∀ s t : State, shaped s = true → step s = .next t → shaped t = true) ∧
  (∀ s t : State, canonical s = true → step s = .next t → canonical t = true)

/-- Every command whose operands name units that exist answers a next state in every state and leaves the queue of waiting commands
alone; no command is refused in any state; only a command whose operands name no unit of the device faults, with the one fault
noSuchUnit. The model's choices in it: an instant that the state does not allow leaves the state as it is (log entry 8), and a command
whose operands name no unit faults (log entry 7). -/
def Obligations.EveryCommandAnswers : Prop :=
  (∀ (c : Instr) (s : State), c.wellFormed = true → ∃ t, exec c s = .next t ∧ t.pending = s.pending) ∧
  (∀ (c : Instr) (s : State) (r : Refusal), exec c s ≠ .refused r) ∧
  (∀ (c : Instr) (s : State) (r : Fault), exec c s = .fault r → c.wellFormed = false ∧ r = .noSuchUnit)

/-- From every state whose waiting commands are all well formed, no number of steps ends in a fault or a refusal. -/
def Obligations.QueueRunsOn : Prop :=
  ∀ s : State, queueWellFormed s = true → ∀ k, safeFor k s

/-- A command that answers a next state and is not one of POWER_ON, RESET_N_ASSERT, SUPPLY_DIP, TEST_EN_ASSERT and the wake rows leaves
a device that is out of reset out of reset; a re-kindle in particular is no reset. -/
def Obligations.OnlyResetsReset : Prop :=
  ∀ (c : Instr) (s t : State), resetRow c = false → exec c s = .next t → s.pwr.inReset = false → t.pwr.inReset = false

  /-! ### The command front end -/

/-- For every PING that is let through, with a payload of at most 1,024 bytes, the reply is OK with the same bytes and nothing else
happens; and it is let through whenever it can run, in every mode, locked or not, from every source. A request can run exactly when a
command port is open, no command runs, and the request is the oldest that waits or none waits. The model's choices in it: what may run,
and that a row runs where no request waits (log entries 11 and 87). -/
def Obligations.PingEchoes : Prop :=
  (∀ (rq : Rq) (s : State), admits 0x00 rq s = true → rq.payload.length ≤ 1024 →
    exec (.ping rq) s = answered 0x00 rq { status := stOk, payload := rq.payload } (after 0x00 rq s)) ∧
  (∀ (rq : Rq) (s : State), canRun 0x00 rq s = true → admits 0x00 rq s = true) ∧
  (∀ (op : Nat) (rq : Rq) (s : State), canRun op rq s = true ↔ portsOpen s = true ∧ s.mem.assigning = none ∧
    (s.cmd.queue = [] ∨ ∃ w, s.cmd.queue.head? = some w ∧ isThis op rq w = true))

/-- For every opcode, TAG and reply, the reply bytes are SYNC 0x5A, the opcode, the TAG, the status, the payload length, the handle, the
payload and the CRC-32C of all of these, 12 bytes more than the payload. -/
def Obligations.ReplyLayout : Prop :=
  ∀ (op tag : Nat) (r : Rep), r.payload.length ≤ 1024 →
    let b := replyBytes op tag r
    let n := r.payload.length
    b.length = 12 + n ∧ field b 0 1 = 0x5A ∧ field b 1 1 = op % 256 ∧ field b 2 1 = tag % 256 ∧ field b 3 1 = r.status % 256 ∧
      field b 4 2 = n ∧ field b 6 2 = r.handle % 65536 ∧ slice b 8 n = r.payload ∧ field b (8 + n) 4 = crc32c (b.take (8 + n))

/-- A GET_INFO, GET_STATUS or FAULT_READ without payload that is let through replies OK with 64, 32 and 688 bytes that hold the fields
at the offsets checked here; a READ_REG of COUNT words from an address that is a multiple of 4 below 0x000F_0000 replies OK with COUNT
words, read one after the other, each in the state that the read before it left; where no word of it is a raw lane word, they are the
registers as they stand, and beside taking the request the state stays; reading one such word gives that register. -/
def Obligations.QueriesAnswer : Prop :=
  (∀ (rq : Rq) (s : State), admits 0x01 rq s = true → rq.payload = [] →
    ∃ p, exec (.getInfo rq) s = answered 0x01 rq { status := stOk, payload := p } (after 0x01 rq s) ∧ p.length = 64 ∧
      slice p 0 10 = ascii "DLW1440-QW" ∧ field p 16 8 = Config.uid.toNat ∧ field p 28 4 = Config.romVersion.toNat ∧
      field p 32 4 = (after 0x01 rq s).cmd.patchVer % 2 ^ 32 ∧ field p 36 1 = s.ao.i2cAddr % 256) ∧
  (∀ (rq : Rq) (s : State), admits 0x02 rq s = true → rq.payload = [] →
    ∃ p, exec (.getStatus rq) s = answered 0x02 rq { status := stOk, payload := p } (after 0x02 rq s) ∧ p.length = 32 ∧
      field p 0 1 = modeCode s.pwr.mode ∧ field p 1 1 = s.pwr.prevMode % 256 ∧ field p 2 1 = s.pwr.entryCause % 256 ∧
      field p 4 4 = s.ft.frameCount % 2 ^ 32 ∧ field p 11 1 = s.pwr.kindleStep % 256 ∧ field p 16 2 = s.arr.gref % 65536) ∧
  (∀ (rq : Rq) (s : State), admits 0x50 rq s = true → rq.payload = [] → (after 0x50 rq s).flt.hist.length ≤ 16 →
    ∃ p, exec (.faultRead rq) s = answered 0x50 rq { status := stOk, payload := p } (after 0x50 rq s) ∧ p.length = 688 ∧
      field p 4 1 = levelMax (after 0x50 rq s).flt % 256 ∧ field p 5 1 = (after 0x50 rq s).flt.hist.length) ∧
  (∀ (rq : Rq) (s : State) (a n : Nat), admits 0x03 rq s = true → rq.payload = le 4 a ++ le 2 n ++ le 2 0 → a % 4 = 0 → 1 ≤ n → n ≤ 256 →
    a + 4 * (n - 1) < 0xF0000 →
    let b := after 0x03 rq s
    exec (.readReg rq) s = answered 0x03 rq { status := stOk, payload := (regReads n a b).1 } (regReads n a b).2 ∧
    (regReads n a b).1.length = 4 * n ∧
    ((∀ k, k < n → rawLane (a + 4 * k) b = none) → regReads n a b = ((List.range n).flatMap (fun k => le 4 (regRead (a + 4 * k) b)), b))) ∧
  (∀ (rq : Rq) (s : State) (a : Nat), admits 0x03 rq s = true → rq.payload = le 4 a ++ le 2 1 ++ le 2 0 → a % 4 = 0 → a < 0xF0000 →
    rawLane a (after 0x03 rq s) = none →
    exec (.readReg rq) s = answered 0x03 rq { status := stOk, payload := le 4 (regRead a (after 0x03 rq s)) } (after 0x03 rq s))

/-! ### Handles, completions, the configuration lock -/

/-- While fewer than 64 handles are outstanding, the handle that the next long command takes is below 65,536, not 0 and not outstanding,
and taking it moves the counter past it; with 64 outstanding a command that would reply ACCEPTED replies BUSY. The end of a long
operation whose handle is outstanding appends its entry to the completion queue, and one whose handle is not outstanding changes
nothing; IRQ_N is low exactly while the queue holds an entry (outside DORMANT); GET_COMPLETIONS with MAX from 1 to 63 replies OK with
the oldest MAX entries and removes them, and their handles are free again; a MAX outside that range returns BAD_PARAM. -/
def Obligations.HandlesAndCompletions : Prop :=
  (∀ s : State, s.cmd.outstanding.length < 64 → s.cmd.nextHandle < 65536 →
    newHandle s < 65536 ∧ newHandle s ≠ 0 ∧ s.cmd.outstanding.contains (newHandle s) = false ∧
    (takeHandle s).cmd.outstanding = newHandle s :: s.cmd.outstanding ∧ (takeHandle s).cmd.nextHandle = (newHandle s + 1) % 65536) ∧
  (∀ (start : Nat → State → State) (s : State), 64 ≤ s.cmd.outstanding.length → accept start s = rep stBusy s) ∧
  (∀ (h op : Nat) (x : Src) (st r0 r1 : Nat) (s : State), s.cmd.outstanding.contains h = true → r0 < 2 ^ 32 → r1 < 2 ^ 32 →
    complete h op x st r0 r1 s =
      { s with cmd := { s.cmd with cq := s.cmd.cq ++ [{ handle := h, opcode := op, status := st, source := srcNo x, r0, r1 }] } }) ∧
  (∀ (h op : Nat) (x : Src) (st r0 r1 : Nat) (s : State), s.cmd.outstanding.contains h = false → complete h op x st r0 r1 s = s) ∧
  (∀ s : State, s.pwr.mode ≠ .dormant → (irqNLow s = true ↔ s.cmd.cq ≠ [])) ∧
  (∀ (rq : Rq) (s : State) (k : Nat), admits 0x05 rq s = true → rq.payload = le 1 k ++ le 3 0 → 1 ≤ k → k ≤ 63 →
    let b := after 0x05 rq s
    let out := b.cmd.cq.take k
    exec (.getCompletions rq) s = answered 0x05 rq
      { status := stOk, payload := le 1 out.length ++ le 1 (b.cmd.cq.length - k) ++ le 2 0 ++ out.flatMap entryBytes }
      { b with cmd := { b.cmd with
          cq := b.cmd.cq.drop k
          outstanding := b.cmd.outstanding.filter (fun h => !(out.map (·.handle)).contains h) } }) ∧
  (∀ (rq : Rq) (s : State) (k : Nat), admits 0x05 rq s = true → rq.payload = le 1 k ++ le 3 0 → (k = 0 ∨ (63 < k ∧ k < 256)) →
    exec (.getCompletions rq) s = answered 0x05 rq { status := stBadParam } (after 0x05 rq s))

/-- LOCK_CONFIG returns BAD_PARAM with a payload, WRONG_MODE outside BEAM; in BEAM it puts the lock in force, records CONFIG_LOCKED and
replies OK, and with the lock in force already it replies OK and records nothing. No command but those that bring a reset or a wake
removes a lock in force, and a power-on, RESET_N or wake leaves the lock off. -/
def Obligations.LockIsPermanent : Prop :=
  (∀ (rq : Rq) (s : State), admits 0x06 rq s = true → s.pwr.mode = .beam → rq.payload ≠ [] →
    exec (.lockConfig rq) s = answered 0x06 rq { status := stBadParam } (after 0x06 rq s)) ∧
  (∀ (rq : Rq) (s : State), admits 0x06 rq s = true → s.pwr.mode ≠ .beam →
    exec (.lockConfig rq) s = answered 0x06 rq { status := stWrongMode } (after 0x06 rq s)) ∧
  (∀ (rq : Rq) (s : State), admits 0x06 rq s = true → s.pwr.mode = .beam → rq.payload = [] → s.cmd.locked = false →
    let b := after 0x06 rq s
    exec (.lockConfig rq) s = answered 0x06 rq { status := stOk }
      (note (ev 0x0D05 b.ao.seconds b.ft.frameCount 0 0) { b with cmd := { b.cmd with locked := true } })) ∧
  (∀ (rq : Rq) (s : State), admits 0x06 rq s = true → s.pwr.mode = .beam → rq.payload = [] → s.cmd.locked = true →
    exec (.lockConfig rq) s = answered 0x06 rq { status := stOk } (after 0x06 rq s)) ∧
  (∀ (c : Instr) (s t : State), resetRow c = false → exec c s = .next t → s.cmd.locked = true → t.cmd.locked = true) ∧
  (∀ (rise a b : Bool) (w v : List Nat) (s : State), w.all (fun i => decide (i < 0x100000)) = true → v.all (fun i => decide (i < 128)) = true →
    ∃ t, exec (.powerOn rise a b w v) s = .next t ∧ t.cmd.locked = false) ∧
  (∀ (a b : Bool) (s : State), ∃ t, exec (.resetNAssert a b) s = .next t ∧ t.cmd.locked = false) ∧
  (∀ s : State, asleep s = true → ∃ t, exec (.wakePin true) s = .next t ∧ t.cmd.locked = false) ∧
  (∀ s : State, asleep s = true → s.ao.i2cAddr < 128 → ∃ t, exec (.i2cAddressMatch s.ao.i2cAddr) s = .next t ∧ t.cmd.locked = false) ∧
  (∀ s : State, asleep s = true → s.ao.timerArmed = true → s.ao.sleepState = 1 → ∃ t, exec .wakeTimerExpiry s = .next t ∧ t.cmd.locked = false)

/-- While the lock is in force, a request that passes its path and mode checks returns LOCKED, counts one refusal and changes nothing
else, if it is CALIBRATE, CAL_COMMIT, PATTERN_WRITE, FAULT_INJECT, TWIN_CONFIG, THERM_CONFIG, STORE_ASSIGN, LOAD_COEFFS, FW_PATCH,
LINK_TRAIN with ACTION DISABLE, or a WRITE_REG that names an address in a locked block other than DRV_MAP_GAIN. Every other opcode, and
a write of one word in DIAG, CHK or DRV_MAP_GAIN, is judged as without the lock. -/
def Obligations.LockedRequestsAreRefused : Prop :=
  (∀ (rq : Rq) (r : List Int) (s : State), reaches 0x40 rq s = true → s.cmd.locked = true → (field rq.payload 0 1 = 0 → s.pwr.mode = .pilot) →
    (field rq.payload 0 1 = 1 → litMode s.pwr.mode = true ∨ s.pwr.mode = .snuffed) →
    exec (.calibrateFull rq) s = lockedOut 0x40 rq s ∧ (r.length = 36 → exec (.calibrateSensors rq r) s = lockedOut 0x40 rq s)) ∧
  (∀ (rq : Rq) (s : State), reaches 0x41 rq s = true → s.cmd.locked = true → exec (.calCommit rq) s = lockedOut 0x41 rq s) ∧
  (∀ (rq : Rq) (v : Bool) (s : State), reaches 0x43 rq s = true → s.cmd.locked = true →
    exec (.patternWriteBegin rq) s = lockedOut 0x43 rq s ∧ exec (.patternWriteData rq v) s = lockedOut 0x43 rq s ∧
    exec (.patternWriteCommit rq) s = lockedOut 0x43 rq s ∧ exec (.patternWriteAbort rq) s = lockedOut 0x43 rq s) ∧
  (∀ (rq : Rq) (s : State), reaches 0x52 rq s = true → s.cmd.locked = true → s.pwr.mode ≠ .kindle →
    (field rq.payload 2 1 = 1 → s.pwr.mode = .pilot ∨ s.pwr.mode = .snuffed) →
    exec (.faultInjectDry rq) s = lockedOut 0x52 rq s ∧ exec (.faultInjectLive rq) s = lockedOut 0x52 rq s) ∧
  (∀ (rq : Rq) (s : State), reaches 0x80 rq s = true → s.cmd.locked = true → s.pwr.mode = .pilot ∨ s.pwr.mode = .snuffed →
    exec (.twinConfig rq) s = lockedOut 0x80 rq s) ∧
  (∀ (rq : Rq) (s : State), reaches 0x90 rq s = true → s.cmd.locked = true → exec (.thermConfig rq) s = lockedOut 0x90 rq s) ∧
  (∀ (rq : Rq) (s : State), reaches 0xA0 rq s = true → s.cmd.locked = true →
    exec (.storeAssign rq) s = lockedOut 0xA0 rq s ∧ exec (.storePool rq) s = lockedOut 0xA0 rq s) ∧
  (∀ (rq : Rq) (s : State), reaches 0x25 rq s = true → s.cmd.locked = true → exec (.loadCoeffs rq) s = lockedOut 0x25 rq s) ∧
  (∀ (rq : Rq) (v : Bool) (s : State), reaches 0xF0 rq s = true → s.cmd.locked = true → s.pwr.mode = .pilot ∨ s.pwr.mode = .snuffed →
    exec (.fwPatchBegin rq) s = lockedOut 0xF0 rq s ∧ exec (.fwPatchData rq v) s = lockedOut 0xF0 rq s ∧
    exec (.fwPatchCommit rq) s = lockedOut 0xF0 rq s ∧ exec (.fwPatchAbort rq) s = lockedOut 0xF0 rq s) ∧
  (∀ (rq : Rq) (s : State), reaches 0x30 rq s = true → s.cmd.locked = true → field rq.payload 1 1 = 1 → 2 ≤ rq.payload.length →
    exec (.linkTrainDisable rq) s = lockedOut 0x30 rq s) ∧
  (∀ (rq : Rq) (s : State) (a n m i : Nat) (rest : List Byte), reaches 0x04 rq s = true → s.cmd.locked = true →
    rq.payload = le 4 a ++ (le 2 n ++ (le 1 m ++ rest)) → a % 4 = 0 → 1 ≤ n → n ≤ 127 → i < n → a + 4 * i < 0xF0000 →
    (a + 4 * i) / 0x10000 ∈ [0x1, 0x2, 0x3, 0x4, 0x5, 0x8, 0x9, 0xA, 0xB, 0xC, 0xD] → a + 4 * i ≠ 0x50204 →
    exec (.writeReg rq) s = lockedOut 0x04 rq s) ∧
  (∀ (op : Nat) (rq : Rq) (s : State), op ∉ [0x40, 0x41, 0x43, 0x52, 0x80, 0x90, 0xA0, 0x25, 0xF0, 0x30] → admits op rq s = reaches op rq s) ∧
  (∀ (h : Hdr) (a v : Nat) (s : State), a / 0x10000 = 6 ∨ a / 0x10000 = 7 ∨ a = 0x50204 →
    admitsWrite h a v s = reaches 0x04 (wordRq h a v) s)

/-- In KINDLE, where the request can run and comes on a path that may send the opcode, CALIBRATE, CAL_COMMIT, PATTERN_WRITE,
DIAG_MAP_READ, PIXEL_TEST, THERM_CONFIG, THERM_CLEAR, STORE_ASSIGN and FW_PATCH reply WRONG_MODE and nothing else happens; NVM_READ and
the other groups are not barred. -/
def Obligations.KindleBarsGroups : Prop :=
  (∀ (c : Instr) (op : Nat) (rq : Rq) (r : List Int) (v : Bool) (s : State), canRun op rq s = true → rq.src ≠ .twin → s.pwr.mode = .kindle →
    r.length = 36 →
    (c, op) ∈ [(Instr.calibrateFull rq, 0x40), (.calibrateSensors rq r, 0x40), (.calCommit rq, 0x41), (.patternWriteBegin rq, 0x43),
      (.patternWriteData rq v, 0x43), (.patternWriteCommit rq, 0x43), (.patternWriteAbort rq, 0x43), (.diagMapRead rq, 0x70),
      (.pixelTestMeasure rq, 0x71), (.pixelTestRelease rq, 0x71), (.pixelTestDisable rq, 0x71), (.thermConfig rq, 0x90),
      (.thermClear rq, 0x91), (.storeAssign rq, 0xA0), (.storePool rq, 0xA0), (.fwPatchBegin rq, 0xF0), (.fwPatchData rq v, 0xF0),
      (.fwPatchCommit rq, 0xF0), (.fwPatchAbort rq, 0xF0)] →
    exec c s = answered op rq { status := stWrongMode } (after op rq s)) ∧
  (∀ (op : Nat) (rq : Rq) (s : State), op / 16 ∉ [4, 7, 9, 10, 15] ∨ op = 0x42 → canRun op rq s = true → rq.src ≠ .twin →
    reaches op rq s = true)

/-- From the twin path PING, GET_INFO, GET_STATUS, READ_REG, FAULT_READ, LOG_READ, HISTO_READ and DIAG_MAP_READ pass the path check, and
every other opcode is answered REFUSED whatever its payload and the mode, with no effect of its own. -/
def Obligations.TwinPathRefuses : Prop :=
  (∀ (c : Instr) (op : Nat) (rq : Rq) (v : Bool) (k : Nat) (r : List Int) (e : List RawEvent) (s : State), canRun op rq s = true → rq.src = .twin →
    r.length = 36 →
    (c, op) ∈ [(Instr.writeReg rq, 0x04), (.getCompletions rq, 0x05), (.lockConfig rq, 0x06), (.setMode rq, 0x10), (.setPlevel rq, 0x11),
      (.sleepUntil rq k, 0x12), (.layerConfig rq, 0x20), (.layerEnable rq, 0x21), (.flipGroupConfigure rq, 0x22), (.flipGroupArm rq, 0x22),
      (.fenceSignal rq, 0x23), (.loadLut rq, 0x24), (.loadCoeffs rq, 0x25), (.signatureRegionConfigure rq, 0x26),
      (.signatureRegionDisable rq, 0x26), (.linkTrainRestart rq, 0x30), (.linkTrainDisable rq, 0x30), (.laneBitslip rq, 0x31),
      (.eyeScan rq, 0x32), (.calibrateFull rq, 0x40), (.calibrateSensors rq r, 0x40), (.calCommit rq, 0x41), (.nvmRead rq, 0x42),
      (.patternWriteBegin rq, 0x43), (.patternWriteData rq v, 0x43), (.patternWriteCommit rq, 0x43), (.patternWriteAbort rq, 0x43),
      (.faultClearClear rq e, 0x51), (.faultClearAck rq e, 0x51), (.faultInjectDry rq, 0x52), (.faultInjectLive rq, 0x52),
      (.pixelTestMeasure rq, 0x71), (.pixelTestRelease rq, 0x71), (.pixelTestDisable rq, 0x71), (.twinConfig rq, 0x80),
      (.thermConfig rq, 0x90), (.thermClear rq, 0x91), (.storeAssign rq, 0xA0), (.storePool rq, 0xA0), (.fwPatchBegin rq, 0xF0),
      (.fwPatchData rq v, 0xF0), (.fwPatchCommit rq, 0xF0), (.fwPatchAbort rq, 0xF0)] →
    exec c s = answered op rq { status := stRefused } (after op rq s)) ∧
  (∀ (h : Hdr) (w : Word) (s : State), h.src = .twin → canRun 0x04 (wordRq h 0x5000C w.toNat) s = true →
    exec (.budgetWrite h w) s = answered 0x04 (wordRq h 0x5000C w.toNat) { status := stRefused } (after 0x04 (wordRq h 0x5000C w.toNat) s)) ∧
  (∀ (op : Nat) (rq : Rq) (s : State), op ∈ [0x00, 0x01, 0x02, 0x03, 0x50, 0x60, 0x61, 0x70] → s.pwr.mode ≠ .kindle → canRun op rq s = true →
    reaches op rq s = true)

/-! ### Modes and power states -/

/-- With no sleep entry in progress, a SET_MODE that is let through replies OK where TARGET is the mode in force (a pending one ends
with SUPERSEDED) and where TARGET is SNUFFED (by the entry that HOST_SNUFF names), WRONG_MODE for BEAM and PILOT in SNUFFED, REFUSED
under R39, and otherwise ACCEPTED with a new handle, the request being pending from then on. -/
def Obligations.SetModeReplies : Prop :=
  ∀ (rq : Rq) (s : State) (k : Nat) (m : Mode), admits 0x10 rq s = true → rq.payload = le 1 k ++ le 3 0 →
    (k, m) ∈ [(2, Mode.beam), (3, .pilot), (5, .snuffed)] →
    let b := after 0x10 rq s
    entryInProgress b = false →
    (m = s.pwr.mode → exec (.setMode rq) s = answered 0x10 rq { status := stOk } (endPending stSuperseded (modeTaken b))) ∧
    (m = .snuffed → s.pwr.mode ≠ .snuffed → exec (.setMode rq) s = answered 0x10 rq { status := stOk } (hostSnuff rq.src (modeTaken b))) ∧
    (m ≠ .snuffed → s.pwr.mode = .snuffed → exec (.setMode rq) s = answered 0x10 rq { status := stWrongMode } b) ∧
    (m ≠ s.pwr.mode → m ≠ .snuffed → s.pwr.mode ≠ .snuffed →
      (s.pwr.mode = .belay ∧ b.twn.state ≠ 2) ∨ (m = .beam ∧ (s.pwr.mode = .pilot ∨ s.pwr.mode = .belay) ∧ 3 ≤ levelMax b.flt) →
      exec (.setMode rq) s = answered 0x10 rq { status := stRefused } b) ∧
    (m ≠ s.pwr.mode → m ≠ .snuffed → s.pwr.mode ≠ .snuffed → (s.pwr.mode = .belay → b.twn.state = 2) →
      (m = .beam → s.pwr.mode = .pilot ∨ s.pwr.mode = .belay → levelMax b.flt < 3) → b.cmd.outstanding.length < 64 →
      let u := endPending stSuperseded (modeTaken (takeHandle b))
      exec (.setMode rq) s = answered 0x10 rq { status := stAccepted, handle := newHandle b }
        { u with pwr := { u.pwr with pend := some { target := m, handle := newHandle b, src := rq.src } } })

/-- A SET_PLEVEL replies BAD_PARAM above level 3, OK for the level in force while no power-state request is in progress or pending, and
otherwise ACCEPTED, becoming the request in progress (or completing at once) or the pending one; a SLEEP_UNTIL replies BAD_PARAM for T =
0, WRONG_MODE in KINDLE and BELAY, and otherwise ACCEPTED, and the choice of R398 is made at once where no request is in progress; with
one in progress it waits, and its T counts from its own ACCEPTED reply when it starts. S1 with a known T arms the wake timer. The
model's choices in it: the time that a waiting SLEEP_UNTIL has waited is an operand that is subtracted at its start (log entry 38), and
which requests wait, start or complete at once (log entry 35). -/
def Obligations.PowerRequestsAnswer : Prop :=
  (∀ (rq : Rq) (s : State) (l : Nat), admits 0x11 rq s = true → rq.payload = le 1 l ++ le 3 0 → l < 256 →
    let b := after 0x11 rq s
    (3 < l → exec (.setPlevel rq) s = answered 0x11 rq { status := stBadParam } b) ∧
    (l = s.pwr.plevel → l ≤ 3 → s.pwr.active = none → s.pwr.waiting = none →
      exec (.setPlevel rq) s = answered 0x11 rq { status := stOk } b) ∧
    (l ≤ 3 → (l ≠ s.pwr.plevel ∨ s.pwr.active ≠ none ∨ s.pwr.waiting ≠ none) → b.cmd.outstanding.length < 64 →
      exec (.setPlevel rq) s = answered 0x11 rq { status := stAccepted, handle := newHandle b }
        (submitPower { level := l, handle := newHandle b, src := rq.src } (takeHandle b)))) ∧
  (∀ (rq : Rq) (s : State) (t f k : Nat), admits 0x12 rq s = true → rq.payload = le 4 t ++ (le 1 f ++ le 3 0) → t < 2 ^ 32 → f < 4 →
    let b := after 0x12 rq s
    (s.pwr.mode = .kindle ∨ s.pwr.mode = .belay → exec (.sleepUntil rq k) s = answered 0x12 rq { status := stWrongMode } b) ∧
    (s.pwr.mode ≠ .kindle → s.pwr.mode ≠ .belay → t = 0 → exec (.sleepUntil rq k) s = answered 0x12 rq { status := stBadParam } b) ∧
    (s.pwr.mode ≠ .kindle → s.pwr.mode ≠ .belay → t ≠ 0 → b.cmd.outstanding.length < 64 →
      exec (.sleepUntil rq k) s = answered 0x12 rq { status := stAccepted, handle := newHandle b }
        (submitPower { sleep := true, timeMs := t, force := f.testBit 0, maxS1 := f.testBit 1, handle := newHandle b, src := rq.src, wait := k }
          (takeHandle b)))) ∧
  (∀ (r : PowerReq) (s : State), s.pwr.active = none → r.sleep = false → r.level ≠ s.pwr.plevel →
    submitPower r s = { s with pwr := { s.pwr with active := some { r with wait := 0 }, plevelTarget := r.level } }) ∧
  (∀ (r a : PowerReq) (s : State), s.pwr.active = some a → s.pwr.waiting = none →
    submitPower r s = { s with pwr := { s.pwr with waiting := some r } }) ∧
  (∀ (r : PowerReq) (s : State), r.sleep = true → litMode s.pwr.mode = true → s.pwr.mode ≠ .belay →
    let left := if r.timeMs = 0xFFFFFFFF then r.timeMs else r.timeMs - r.wait
    chooseSleep left r.maxS1 s ≠ 0 →
    let t := beginPower r s
    t.pwr.active = some r ∧ t.pwr.chosen = chooseSleep left r.maxS1 s ∧ t.pwr.entryStep = 1 ∧ t.ao.sleepStart = s.ao.seconds ∧
      (t.ao.timerArmed = true ↔ chooseSleep left r.maxS1 s = 1 ∧ r.timeMs ≠ 0xFFFFFFFF)) ∧
  (∀ (r : PowerReq) (s : State), s.pwr.active = none → r.sleep = true → litMode s.pwr.mode = true → s.pwr.mode ≠ .belay →
    submitPower r s = beginPower { r with wait := 0 } s) ∧
  (∀ (t : Nat) (m : Bool) (s : State),
    (chooseSleep t m s = 2 ↔ m = false ∧ 2000 < t ∧ entryEstimate s + 150000 ≤ 3000 * t) ∧
    (chooseSleep t m s = 1 → 60 < t ∧ entryEstimate s + 90000 ≤ 3000 * t))

/-- A compose latch samples the triggers: in BEAM and PILOT the BELAY trigger comes first; BEAM goes to PILOT when all host lanes are
down, on a PILOT trigger, or for a pending SET_MODE PILOT; PILOT goes to BEAM only with a pending SET_MODE BEAM, a trained host lane, a
picture and no PILOT trigger, which commits the request; BELAY is left only by SET_MODE, and a BEAM that a latch has decided in BELAY
and no boundary has shown gives way to BELAY where a trigger stands; the compose shows the chosen mode and MODE stays. A boundary that
flips enters the chosen mode, a request for it completing with OK and, where the device decided by itself, any request with SUPERSEDED;
a boundary that misses changes no mode. In BEAM with the check on, HOST_TIMEOUT raises its event; BEAM_WAIT_TIMEOUT ends an uncommitted
pending BEAM with TIMEOUT, and a committed one stands; BLANKING_END of a blanked array with its bias settled clears DARK; in SNUFFED a
P-level change starts at once where the wanted level differs, and when it completes the level is in force and one change is counted. The
model's choices in it: a decision stands over a boundary that misses, and a committed SET_MODE stays committed (log entry 28); the
causes 7, 8 and 9 by class (log entry 27). -/
def Obligations.ModeInstantsRun : Prop :=
  (∀ s : State, s.pwr.next = none →
    let u := decideMode s
    let ready := hrxTrained s ≠ 0 ∧ anyPicture s = true
    ((s.pwr.mode = .beam ∨ s.pwr.mode = .pilot) → belayTrigger s = true → u.pwr.next = some (.belay, 10)) ∧
    (s.pwr.mode = .beam → belayTrigger s = false → allLanesDown s = true → u.pwr.next = some (.pilot, 6)) ∧
    (s.pwr.mode = .beam → belayTrigger s = false → allLanesDown s = false → 3 ≤ levelMax s.flt → ∃ c ∈ [7, 8, 9], u.pwr.next = some (.pilot, c)) ∧
    (s.pwr.mode = .beam → belayTrigger s = false → allLanesDown s = false → levelMax s.flt < 3 →
      u.pwr.next = if pendFor .pilot s = true then some (.pilot, 4) else none) ∧
    (s.pwr.mode = .pilot → belayTrigger s = false →
      u.pwr.next = if (pendFor .beam s = true ∧ levelMax s.flt < 3 ∧ ready) then some (.beam, 4) else none) ∧
    (s.pwr.mode = .belay → belayTrigger s = true → u.pwr.next = none) ∧
    (s.pwr.mode = .belay → belayTrigger s = false → u.pwr.next = if pendFor .pilot s = true then some (.pilot, 4)
      else if (pendFor .beam s = true ∧ levelMax s.flt < 3 ∧ ready) then some (.beam, 4) else none) ∧
    (∀ p, s.pwr.pend = some p → p.target = .beam → p.committed = false → (beamCommitted u = true ↔ (u.pwr.next.getD (s.pwr.mode, 0)).1 = .beam)) ∧
    u = { s with pwr := { s.pwr with next := u.pwr.next, pend := u.pwr.pend } }) ∧
  (∀ (s : State) (c : Nat), s.pwr.mode = .belay → s.pwr.next = some (.beam, c) →
    belayTrigger s = true ∨ allLanesDown s = true ∨ 3 ≤ levelMax s.flt → (decideMode s).pwr.next = none) ∧
  (∀ s : State, awake s = true → s.ft.running = true → litMode s.pwr.mode = true → s.pwr.composeStop = false → s.scl.comp.running = false →
    s.flt.escCompat = false → mildLayers s →
    let d := decided s
    ∃ t, exec .composeLatch s = .next t ∧ t.pwr = d.pwr ∧ t.pwr.mode = s.pwr.mode ∧
      t.scl.comp.content = contentOf (d.pwr.next.getD (s.pwr.mode, 0)).1) ∧
  (∀ (f : List PixFlags) (v us : Nat) (b : Bool) (m : Mode) (c : Nat) (s : State), flagsOk f = true → awake s = true → s.ft.running = true →
    litMode s.pwr.mode = true → s.pwr.next = some (m, c) → litMode m = true →
    (s.scl.comp.ok = true → ∃ t, exec (.frameLatch f v us b) s = .next t ∧ t.pwr.mode = m ∧ t.pwr.prevMode = modeCode s.pwr.mode ∧
      t.pwr.entryCause = c ∧ t.pwr.next = none ∧
      (∀ p, s.pwr.pend = some p → p.target = m → c = 4 → t.pwr.pend = none ∧
        (s.cmd.outstanding.contains p.handle = true → ∃ e ∈ t.cmd.cq, e.handle = p.handle ∧ e.opcode = 0x10 ∧ e.status = stOk)) ∧
      (∀ p, s.pwr.pend = some p → c ≠ 4 → t.pwr.pend = none ∧
        (s.cmd.outstanding.contains p.handle = true → ∃ e ∈ t.cmd.cq, e.handle = p.handle ∧ e.opcode = 0x10 ∧ e.status = stSuperseded))) ∧
    (s.scl.comp.ok = false → ∃ t, exec (.frameLatch f v us b) s = .next t ∧ t.pwr.mode = s.pwr.mode ∧ t.pwr.next = some (m, c) ∧
      t.pwr.pend = s.pwr.pend)) ∧
  (∀ s : State, awake s = true → s.pwr.mode = .beam → s.pwr.hostTimeoutMs ≠ 0 →
    exec .hostTimeout s = .next (raise (ev 0x0D01 s.pwr.hostTimeoutMs s.pwr.hostSrc (hrxTrained s) s.ft.frameCount) s)) ∧
  (∀ (s : State) (p : PendMode), awake s = true → s.pwr.pend = some p → p.target = .beam → p.committed = false →
    ∃ t, exec .beamWaitTimeout s = .next t ∧ t.pwr.pend = none ∧ t.pwr.mode = s.pwr.mode ∧
      (s.cmd.outstanding.contains p.handle = true →
        ∃ e, t.cmd.cq = s.cmd.cq ++ [e] ∧ e.handle = p.handle ∧ e.opcode = 0x10 ∧ e.status = stTimeout)) ∧
  (∀ (s : State) (p : PendMode), s.pwr.pend = some p → p.committed = true → exec .beamWaitTimeout s = .next s) ∧
  (∀ s : State, awake s = true → s.pwr.blanking = true → s.pwr.active = none → s.pwr.biasSettled = true → s.nvm.calRun = none →
    exec .blankingEnd s = .next { s with pwr := { s.pwr with blanking := false, blankP3 := false, dark := false } }) ∧
  (∀ s : State, awake s = true → s.pwr.mode = .snuffed → s.pwr.changing = false → s.pwr.blankP3 = false → s.pwr.plevelTarget ≠ s.pwr.plevel →
    exec .plevelChangeStart s = .next { s with pwr := { s.pwr with changing := true, changeTo := s.pwr.plevelTarget } }) ∧
  (∀ s : State, awake s = true → s.pwr.changing = true → s.pwr.active = none →
    ∃ t, exec .plevelChangeComplete s = .next t ∧ t.pwr.changing = false ∧ t.pwr.plevel = s.pwr.changeTo ∧
      t.pwr.changes = min (s.pwr.changes + 1) 65535)

/-- In a device that is awake, in every mode, an event of level SNUFF that reaches the collector clears sink-enable, leaves the device
in SNUFFED with READY low, sets HOLD for its class, and at the entry records the mode it came from and counts one entry; the active
drive words stay as they are. In a device that is not awake an event clears the sinks at most, past the point of no return of a sleep
entry, and changes nothing else. -/
def Obligations.SnuffTurnsLampOff : Prop :=
  (∀ (e : RawEvent) (s : State), 4 ≤ e.level → evClass e.code < s.flt.classes.length → awake s = true →
    s.pwr.readyPin = false ∨ s.pwr.mode ≠ .snuffed →
    let t := raise e s
    t.arr.sinkEn = false ∧ t.pwr.mode = .snuffed ∧ t.pwr.readyPin = false ∧ (classOf t.flt (evClass e.code)).hold = true ∧
      t.arr.active = s.arr.active ∧
      (s.pwr.mode ≠ .snuffed → t.pwr.prevMode = modeCode s.pwr.mode ∧ t.pwr.snuffEntries = min (s.pwr.snuffEntries + 1) 65535 ∧
        t.flt.snuffCode = e.code ∧ t.twn.aliveOut = false)) ∧
  (∀ (e : RawEvent) (s : State), awake s = false → raise e s = (if pastReturn s = true ∧ 4 ≤ e.level then sinksOff s else s))

/-- With a sleep entry in progress, SLEEP_ENTRY_STEP stops the array block of a dark, idle array, then the compositor, then goes on to
the NVM block, whose timer makes it refuse without FORCE; past the point of no return it stops the link block (every lane off), the
control block (ports closed, D = 0) and the clocks, where the chosen sleep state is reached and counted and the closing window opens.
SLEEP_RELIGHT lights the array again and ends the refused request. -/
def Obligations.SleepEntryRuns : Prop :=
  (∀ s : State, awake s = true → entryInProgress s = true → s.pwr.entryStep = 1 → arrayBusy s = false → arrayDark s = true →
    ∃ t, exec .sleepEntryStep s = .next t ∧ t.pwr.entryStep = 2 ∧ t.pwr.biasOn = false ∧ t.pwr.dark = true ∧ t.arr.active = []) ∧
  (∀ s : State, awake s = true → entryInProgress s = true → s.pwr.entryStep = 2 → composing { s with pwr := { s.pwr with composeStop := true } } = false →
    exec .sleepEntryStep s = .next { s with pwr := { s.pwr with composeStop := true, entryStep := 3 } }) ∧
  (∀ s : State, awake s = true → entryInProgress s = true → s.pwr.entryStep = 3 →
    exec .sleepEntryStep s = .next { s with pwr := { s.pwr with entryStep := 4, nvmAsked := false, lifeStored := false } }) ∧
  (∀ s : State, s.pwr.inReset = false → s.pwr.mode = .dormant → entryInProgress s = true → s.pwr.entryStep = 5 →
    ∃ t, exec .sleepEntryStep s = .next t ∧ t.pwr.entryStep = 6 ∧ t.twn.aliveOut = false ∧ (∀ x ∈ t.lnk.lanes, x.state = .disabled)) ∧
  (∀ s : State, s.pwr.inReset = false → s.pwr.mode = .dormant → entryInProgress s = true → s.pwr.entryStep = 6 →
    exec .sleepEntryStep s = .next { s with
      pwr := { s.pwr with entryStep := 7, limral := false }, arr := { s.arr with duty := 0 }, cmd := { s.cmd with sdo := [] } }) ∧
  (∀ s : State, s.pwr.inReset = false → s.pwr.mode = .dormant → entryInProgress s = true → s.pwr.entryStep = 7 →
    ∃ t, exec .sleepEntryStep s = .next t ∧ t.pwr.entryStep = 15 ∧ t.ao.inWindow = true ∧ t.ao.sleepState = s.pwr.chosen ∧
      (s.pwr.chosen = 1 → t.ao.sleepsS1 = min (s.ao.sleepsS1 + 1) 65535) ∧ (s.pwr.chosen = 2 → t.ao.sleepsS2 = min (s.ao.sleepsS2 + 1) 65535)) ∧
  (∀ s : State, awake s = true → entryInProgress s = true → s.pwr.entryStep = 4 → s.pwr.nvmAsked = true → storesDone s = false → forced s = false →
    ∃ t, exec .sleepNvmTimeout s = .next t ∧ t.pwr.refBlock = 4 ∧ t.pwr.refReason = 5 ∧ t.pwr.refusals = min (s.pwr.refusals + 1) 65535 ∧
      t.pwr.biasOn = true) ∧
  (∀ (s : State) (b r : Nat) (p : PowerReq), awake s = true → s.pwr.relight = some (stRefused, b, r) → s.pwr.biasSettled = true →
    s.scl.comp.ok = true → s.nvm.calRun = none → s.pwr.active = some p → s.pwr.waiting = none →
    ∃ t, exec .sleepRelight s = .next t ∧ t.pwr.dark = s.pwr.blanking ∧ t.pwr.relight = none ∧ t.pwr.active = none)

/-- A rising WAKE, an address match of the wake port and, in S1, the timer wake a sleeping device: RESET_CAUSE 2 with the source and the
sleep state left, quick KINDLE at once from S1, full KINDLE after the supplies are back from S2. During a sleep entry a match and an
expiry are kept; in the closing window the port answers nothing; a window's end without a request sleeps on, and with one wakes. An I2C
read outside the window gives the mode code. -/
def Obligations.WakeEventsWake : Prop :=
  (∀ s : State, asleep s = true → s.ao.sleepState = 1 →
    (∃ t, exec (.wakePin true) s = .next t ∧ t.ao.resetCause = 2 ∧ t.ao.wakeSource = 1 ∧ t.ao.slept = 1 ∧ t.pwr.mode = .kindle ∧
      t.pwr.inReset = false ∧ t.pwr.quick = true) ∧
    (∃ t, exec (.i2cAddressMatch s.ao.i2cAddr) s = .next t ∧ t.ao.resetCause = 2 ∧ t.ao.wakeSource = 2 ∧ t.ao.slept = 1 ∧ t.pwr.inReset = false) ∧
    (s.ao.timerArmed = true →
      ∃ t, exec .wakeTimerExpiry s = .next t ∧ t.ao.resetCause = 2 ∧ t.ao.wakeSource = 3 ∧ t.ao.slept = 1 ∧ t.pwr.inReset = false)) ∧
  (∀ s : State, asleep s = true → s.ao.sleepState = 2 →
    ∃ t, exec (.wakePin true) s = .next t ∧ t.ao.resetCause = 2 ∧ t.ao.wakeSource = 1 ∧ t.ao.slept = 2 ∧ t.pwr.inReset = true ∧
      t.pwr.flavor = .full ∧ t.ao.dormantS = s.ao.seconds - s.ao.sleepStart) ∧
  (∀ s : State, exec (.wakePin false) s = .next { s with ao := { s.ao with wakeLevel := false } }) ∧
  (∀ s : State, awake s = true → entryInProgress s = true → s.ao.inWindow = false →
    exec (.i2cAddressMatch s.ao.i2cAddr) s = .next { s with ao := { s.ao with i2cMatched := true } } ∧
    (s.ao.timerArmed = true → exec .wakeTimerExpiry s = .next { s with ao := { s.ao with timerArmed := false, timerExpired := true } })) ∧
  (∀ s : State, s.ao.inWindow = true →
    exec (.i2cAddressMatch s.ao.i2cAddr) s = .next s ∧ exec .i2cRead s = .next s ∧
    (s.ao.wakeLevel = false → s.ao.i2cMatched = false → s.ao.timerExpired = false →
      exec .sleepWindowEnd s = .next { s with ao := { s.ao with inWindow := false } }) ∧
    (s.ao.wakeLevel = true → s.ao.sleepState = 1 →
      ∃ t, exec .sleepWindowEnd s = .next t ∧ t.ao.inWindow = false ∧ t.ao.resetCause = 2 ∧ t.ao.wakeSource = 1)) ∧
  (∀ s : State, s.ao.inWindow = false → exec .i2cRead s = .next { s with ao := { s.ao with i2cOut := modeCode s.pwr.mode } })

/-! ### Resets and bring-up -/

/-- POWER_ON, RESET_N_ASSERT, a SUPPLY_DIP of a device that is out of reset and awake, and TEST_EN_ASSERT assert the internal reset and
leave every block but the always-on island, MRAM, the scar area and the self-fault registers at reset values; the scar area stays, and
so does MRAM where no store, load or patch runs. A power-on rise counts a cycle, which saturates, clears the rest of the island and the
self-fault registers, ends TEST_EN and has cause 0, and the words named become uncorrectable; RESET_N has cause 1, a dip cause 3, and
both keep the always-on counters; TEST_EN holds the device in reset, with its sinks off, no sleep state and no wake timer, and a release
of the reset does nothing. A supply loss in S1 makes it S2 without a wake timer. The model's choices in it: what a dip keeps and that it
has no effect in reset or in DORMANT (log entry 14), S2 after a supply loss in S1 (log entry 15), what TEST_EN keeps and ends (log entry
16), and what a hard reset keeps (log entry 17). -/
def Obligations.ResetsLeaveTheIsland : Prop :=
  (∀ (rise a0 a1 : Bool) (w v : List Nat) (s : State), w.all (fun i => decide (i < 0x100000)) = true → v.all (fun i => decide (i < 128)) = true →
    ∃ t, exec (.powerOn rise a0 a1 w v) s = .next t ∧ blocksReset t ∧ t.flt = {} ∧ t.pwr = {} ∧ t.nvm.scar = s.nvm.scar ∧
      t.ao = { cycles := if rise then min (s.ao.cycles + 1) (2 ^ 32 - 1) else s.ao.cycles, wakeLevel := s.ao.wakeLevel
               i2cAddr := if rise then 0x58 + (if a1 then 2 else 0) + (if a0 then 1 else 0) else s.ao.i2cAddr } ∧
      (∀ i, i ∈ t.nvm.scarBad ↔ i ∈ s.nvm.scarBad ∨ i ∈ v) ∧
      (nvmQuiet s → t.nvm.mram = s.nvm.mram ∧ ∀ i, i ∈ t.nvm.badWords ↔ i ∈ s.nvm.badWords ∨ i ∈ w)) ∧
  (∀ (a0 a1 : Bool) (rail : Rail) (s : State),
    (∃ t, exec (.resetNAssert a0 a1) s = .next t ∧ blocksReset t ∧ t.nvm.scar = s.nvm.scar ∧ (nvmQuiet s → t.nvm.mram = s.nvm.mram) ∧
      t.ao.resetCause = 1 ∧ t.ao.wakeSource = 0 ∧ t.ao.slept = 0 ∧ t.ao.sleepState = 0 ∧ t.ao.timerArmed = false ∧
      t.ao.seconds = s.ao.seconds ∧ t.ao.cycles = s.ao.cycles ∧ t.ao.sleepsS1 = s.ao.sleepsS1 ∧ t.ao.sleepsS2 = s.ao.sleepsS2 ∧
      t.ao.i2cAddr = 0x58 + (if a1 then 2 else 0) + (if a0 then 1 else 0) ∧
      t.flt = { selfCount := s.flt.selfCount, selfParity := s.flt.selfParity, selfCompare := s.flt.selfCompare, selfWord := s.flt.selfWord }) ∧
    (s.pwr.inReset = false → s.pwr.mode ≠ .dormant →
      ∃ t, exec (.supplyDip rail) s = .next t ∧ blocksReset t ∧ t.nvm.scar = s.nvm.scar ∧ (nvmQuiet s → t.nvm.mram = s.nvm.mram) ∧
        t.ao = { s.ao with resetCause := 3, wakeSource := 0, slept := 0, sleepState := 0, timerArmed := false, timerExpired := false
                           i2cMatched := false, inWindow := false, needLoadAdd := false } ∧ t.flt.selfCount = s.flt.selfCount) ∧
    (s.pwr.inReset = true ∨ s.pwr.mode = .dormant → exec (.supplyDip rail) s = .next s) ∧
    (s.pwr.inReset = false → s.ao.sleepState = 1 →
      exec (.supplyLossInS1 rail) s = .next { s with ao := { s.ao with sleepState := 2, timerArmed := false, timerExpired := false } }) ∧
    (s.ao.sleepState ≠ 1 → exec (.supplyLossInS1 rail) s = .next s) ∧
    (∃ t, exec .testEnAssert s = .next t ∧ blocksReset t ∧ t.pwr.testEn = true ∧ t.arr.sinkEn = false ∧
      t.ao = { s.ao with sleepState := 0, timerArmed := false, timerExpired := false, i2cMatched := false, inWindow := false } ∧
      exec .resetRelease t = .next t ∧ exec .sleepWindowEnd t = .next t ∧ exec .wakeTimerExpiry t = .next t))

/-- At the release of the internal reset KINDLE is entered and MODE_CHANGE is recorded, with cause 0, or, after a wake, with cause 1,
before it the loss of records or a forced entry and after it the wake itself; LDO regulation requests D = 313; the PLLs' lock begins the
Limral boot step; when Limral is ready the ports open, the array bias is on, the stored patch is in force or not, the frame timer runs
if the device was reset, and the BIST begins, in a quick KINDLE the NVM load; the settled bias sets sink-enable in KINDLE, a quick
KINDLE then scans, and outside KINDLE nothing else happens; a BIST without failure writes the whole common store to 0 and begins the NVM
load, FAULT_N following the collector from then on, and one with a failure raises its block's event. The model's choices in it: what the
instants of start-up wait for (log entry 25), that the header is taken with the boot (log entry 20), and that an instant out of its turn
has no effect (log entry 8). -/
def Obligations.KindleStarts : Prop :=
  (∀ s : State, s.pwr.inReset = true → s.pwr.testEn = false →
    let c := if s.ao.resetCause = 2 then 1 else 0
    let k := { s with pwr := { s.pwr with
      inReset := false, mode := .kindle, quick := s.pwr.flavor = .quick, kindleStep := 0, entryCause := c, entrySeconds := s.ao.seconds } }
    (s.ao.resetCause ≠ 2 → exec .resetRelease s = .next (noteF 0x0E01 1 7 0 k)) ∧
    (s.ao.resetCause = 2 → exec .resetRelease s = .next (note (ev 0x0E06 s.ao.wakeSource s.ao.slept s.ao.dormantS 0) (noteF 0x0E01 1 0 1
      (if s.ao.lossRecords ≠ 0 ∨ s.ao.forced = true then raise (ev 0x0E07 s.ao.lossRecords s.ao.lossCountS 0 0) k else k))))) ∧
  (∀ s : State, bringing s = true → s.pwr.mode = .kindle → s.pwr.ldoOk = false →
    exec .ldoRegulation s = .next { s with pwr := { s.pwr with ldoOk := true }, arr := { s.arr with duty := 313 } }) ∧
  (∀ s : State, bringing s = true → s.pwr.mode = .kindle → s.pwr.ldoOk = true → s.pwr.pllOk = false →
    exec .pllLock s = .next { s with pwr := { s.pwr with pllOk := true, kindleStep := 1 } }) ∧
  (∀ s : State, bringing s = true → s.pwr.pllOk = true →
    ∃ t, exec .limralReady s = .next t ∧ t.pwr.limral = true ∧ t.pwr.biasOn = true ∧ portsOpen t = true ∧
      (s.pwr.mode = .kindle → s.pwr.flavor = .full → t.pwr.kindleStep = 2) ∧
      (s.pwr.mode = .kindle → s.pwr.flavor = .quick → t.pwr.kindleStep = 3 ∧ t.nvm.loading = true ∧ t.mem.cells = [] ∧ t.mem.errWords = []) ∧
      (s.pwr.flavor ≠ .rekindle → s.ft.activeSrc = 0 → t.ft.running = true) ∧
      (patchCommitted s = false → t.cmd.patchActive = false ∧ t.cmd.patchVer = 0) ∧
      (patchCommitted s = true → (t.cmd.patchActive = true ↔ patchFault s none (mramRead s (patchBase + 524160) 64) = 0) ∧
        (t.cmd.patchVer = if patchFault s none (mramRead s (patchBase + 524160) 64) = 0 then patchField s 8 else 0))) ∧
  (∀ (m : CalMeas) (s : State), measOk m = true → awake s = true → s.pwr.biasOn = true → s.pwr.biasSettled = false →
    (s.pwr.mode = .kindle → s.pwr.flavor ≠ .quick →
      exec (.arrayBiasSettled m) s = .next { s with pwr := { s.pwr with biasSettled := true }, arr := { s.arr with sinkEn := true } }) ∧
    (s.pwr.mode = .kindle → s.pwr.flavor = .quick → s.flt.escCompat = false →
      ∃ t, exec (.arrayBiasSettled m) s = .next t ∧ t.pwr.biasSettled = true ∧ t.arr.sinkEn = true ∧ t.nvm.meas = some m ∧ t.diag.scanDone = true) ∧
    (s.pwr.mode ≠ .kindle → exec (.arrayBiasSettled m) s = .next { s with pwr := { s.pwr with biasSettled := true } })) ∧
  (∀ s : State, awake s = true → s.pwr.mode = .kindle → s.pwr.kindleStep = 2 →
    let t := { s with
      pwr := { s.pwr with bistDone := true, kindleStep := 3 }, nvm := { s.nvm with loading := true }
      mem := { s.mem with cells := [], errWords := [] } }
    exec (.bistComplete none) s = .next t ∧ (s.pwr.bistDone = false → faultNLow s = true) ∧
      (faultNLow t = true ↔ s.flt.faultnLevel ≤ levelMax s.flt)) ∧
  (∀ (f : BistFail) (s : State), awake s = true → s.pwr.mode = .kindle → s.pwr.kindleStep = 2 → f.block < 7 →
    exec (.bistComplete (some f)) s = .next
      (raise (ev ([0x01F0, 0x03F0, 0x04F0, 0x06F0, 0x09F0, 0x0AF0, 0x0DF0].getD f.block 0) f.unit f.addr f.step f.units)
        { s with pwr := { s.pwr with bistFail := true } }))

/-- In KINDLE the end of the NVM load moves to the calibration step with the load done, and, outside a quick KINDLE, the scan has given
its results; the calibration gives a result and stages offsets and pre-charge; the log scan sets the ring heads behind the newest
records; the end of the work decides the mode, BEAM where a pending BEAM may be entered and PILOT otherwise, records the work time and
starts the first compose, for frame 0; a KINDLE that is not done 60 ms after P raises KINDLE_TIMEOUT with the step that it stands at,
which the boot does not outlive where Limral is not ready. The boundary after that compose's flush ends KINDLE: the mode decided is
entered with cause 5, the frame count is 0, READY is high, F is in force and the total time kept; a SET_MODE for the mode completes with
OK, and PILOT entered because a PILOT trigger stood ends a pending BEAM with SUPERSEDED. A boundary before that leaves KINDLE, its frame
count and READY low. The model's choices in it: the thermal factor at the end of the work (log entry 23), and the boundary at which
KINDLE ends, the mode then entered and READY (log entry 24). -/
def Obligations.KindleFinishes : Prop :=
  (∀ (m : CalMeas) (s : State), measOk m = true → awake s = true → s.pwr.mode = .kindle → s.pwr.kindleStep = 3 →
    ∃ t, exec (.nvmLoadComplete m) s = .next t ∧ t.nvm.loadDone = true ∧ t.nvm.loading = false ∧ t.pwr.kindleStep = 4 ∧
      (s.pwr.flavor ≠ .quick → t.pwr.mode = .snuffed ∨ (t.diag.scanDone = true ∧ t.nvm.meas = some m))) ∧
  (∀ (m : CalMeas) (us : Nat) (s : State), s.nvm.meas = some m → awake s = true → s.pwr.mode = .kindle → s.diag.scanDone = true →
    s.nvm.loadDone = true → s.nvm.calResult = 0 →
    ∃ t c, exec (.calibrationComplete us) s = .next t ∧ t.nvm.calResult ≠ 0 ∧ t.nvm.meas = none ∧ t.nvm.calUs = min 65535 us ∧
      t.arr.staged = some c ∧ c.offset.isSome = true ∧ c.pre.isSome = true ∧
      (s.pwr.flavor ≠ .quick → t.nvm.calResult =
        calOutcome (judgeWicks m.sinkOfs m (s.nvm.wickSet.map (fun w => (w.offset, w.pre))) s.arr.dis).bad.length s.nvm.wickSet.isSome)) ∧
  (∀ s : State, awake s = true → s.evr.state ≠ 3 →
    ∃ t, exec .logScanComplete s = .next t ∧ t.evr.scanDone = true ∧ t.nvm.mram = s.nvm.mram ∧
      t.evr.mainHead = (newestSlot s false).getD 0 ∧ t.evr.mainNext = ((newestSlot s false).map (fun i => (i + 1) % 31744)).getD 0 ∧
      t.evr.cairnHead = (newestSlot s true).getD 0 ∧ t.evr.cairnNext = ((newestSlot s true).map (fun i => (i + 1) % 1024)).getD 0) ∧
  (∀ (us : Nat) (s : State), awake s = true → s.pwr.mode = .kindle → s.pwr.workDone = false → s.nvm.calResult ≠ 0 → s.flt.escCompat = false → mildLayers s →
    ∃ t m, exec (.kindleWorkComplete us) s = .next t ∧ t.pwr.workDone = true ∧ t.pwr.kindleStep = 5 ∧ t.pwr.workUs = min us 65535 ∧
      t.pwr.mode = .kindle ∧ t.pwr.next = some (m, 5) ∧ (m = .beam ∨ m = .pilot) ∧
      (m = .beam ↔ pendFor .beam s = true ∧ levelMax s.flt < 3 ∧ belayTrigger s = false ∧ hrxTrained s ≠ 0 ∧ anyPicture (latchConfigs s) = true) ∧
      t.scl.comp.running = true ∧ t.scl.comp.frame = 0 ∧ t.scl.comp.content = contentOf m) ∧
  (∀ s : State, awake s = true → s.pwr.mode = .kindle → s.pwr.workDone = false →
    ∃ t, exec .kindleTimeout s = .next t ∧ t = raise (ev 0x0E02 s.pwr.kindleStep (hrxTrained s) 0 0) s ∧
      t.pwr.kindleTimeout = true ∧ t.pwr.dead = (s.pwr.dead || !s.pwr.limral)) ∧
  (∀ (f : List PixFlags) (v us : Nat) (b : Bool) (m : Mode) (s : State), flagsOk f = true → awake s = true → s.ft.running = true →
    s.pwr.mode = .kindle → s.pwr.workDone = true → s.scl.comp.flushed = true → s.pwr.next = some (m, 5) → (m = .beam ∨ m = .pilot) →
    ∃ t, exec (.frameLatch f v us b) s = .next t ∧ t.pwr.mode = m ∧ t.pwr.prevMode = 1 ∧ t.pwr.entryCause = 5 ∧ t.pwr.kindleStep = 6 ∧
      t.pwr.totalUs = min us 65535 ∧ t.ft.frameCount = 0 ∧ t.pwr.next = none ∧
      t.thm.f = (if s.pwr.exitThermal then 4 else min 16 (topF s)) ∧
      (s.pwr.dark = false → s.pwr.blankReq = none → s.pwr.active = none → s.nvm.calRun = none → t.pwr.readyPin = true) ∧
      (∀ p, s.pwr.pend = some p → p.target = m → t.pwr.pend = none ∧
        (s.cmd.outstanding.contains p.handle = true → ∃ e ∈ t.cmd.cq, e.handle = p.handle ∧ e.opcode = 0x10 ∧ e.status = stOk)) ∧
      (∀ p, s.pwr.pend = some p → m = .pilot → p.target = .beam → s.pwr.ownPilot = true → t.pwr.pend = none ∧
        (s.cmd.outstanding.contains p.handle = true → ∃ e ∈ t.cmd.cq, e.handle = p.handle ∧ e.opcode = 0x10 ∧ e.status = stSuperseded)) ∧
      (∀ p, s.pwr.pend = some p → m = .pilot → p.target = .beam → s.pwr.ownPilot = false → t.pwr.pend = some p)) ∧
  (∀ (f : List PixFlags) (v us : Nat) (b : Bool) (s : State), flagsOk f = true → awake s = true → s.ft.running = true →
    s.pwr.mode = .kindle → (s.pwr.workDone = false ∨ s.scl.comp.flushed = false) →
    ∃ t, exec (.frameLatch f v us b) s = .next t ∧ t.pwr.mode = .kindle ∧ t.pwr.readyPin = false ∧ t.ft.frameCount = s.ft.frameCount)

/-! ### The frame: compose, latch, slots, timer -/

/-- In BEAM, PILOT and BELAY, with the frame timer running, no compose running and no sleep entry past its compositor, COMPOSE_LATCH
starts a compose for the next frame count: nothing retired yet, the defects, the dark-protected regions, the bypass, the lift and the
repeat count of that moment held, every engine dealt its column of tiles, the sums 0; otherwise nothing happens. A layer in no group
whose back buffer is READY flips, and so does a member of an unarmed group when every enabled member is READY, and a layer of a pending
ARM when all its enabled layers are, which completes the ARM with OK, the layers and the frame count; an ARM with an enabled layer not
READY waits. A layer that flips shows the buffer that was its back buffer, with the waiting configuration, and its stale counter is 0;
an enabled layer that does not flip keeps its buffers, and in BEAM its stale counter rises. After that a layer is transparent exactly
with policy 1, and has its cause exactly with policy 2, where its counter has reached STALE_N. The model's choices in it: a compose
latch while a compose runs has no effect (log entries 8 and 52), what a flag of a layer does at the latch (log entry 51), and that the
decided mode is what the latch judges (log entry 28). -/
def Obligations.ComposeLatchStarts : Prop :=
  (∀ s : State, latches s →
    ∃ t, exec .composeLatch s = .next t ∧ t.scl.comp.running = true ∧ t.scl.comp.frame = (s.ft.frameCount + 1) % 2 ^ 32 ∧
      t.scl.comp.retired = [] ∧ t.scl.comp.readDone = [] ∧ t.scl.comp.gus = true ∧ t.scl.comp.flushed = false ∧
      t.scl.comp.defects = s.diag.defects.map (·.pix) ∧ t.scl.comp.postBypass = s.cmp.postBypass ∧
      t.scl.comp.dpr = (bitsOf s.diag.dprEn 8).map (fun n => s.diag.dpr.getD n {}) ∧
      t.scl.comp.liftEn = s.map.liftEn ∧ t.scl.comp.wearEn = s.map.wearEn ∧ t.scl.comp.rep = repeatOf s.ft.rateInForce ∧
      t.scl.comp.stealEn = s.scl.stealEn ∧ t.scl.comp.xstealEn = s.scl.xstealEn ∧ t.scl.comp.layers = layerSnaps t ∧
      t.map.gainFront = s.map.gainBack.getD s.map.gainFront ∧ t.ft.effLead = min (max s.ft.leadArmed 500) (maxLead s.ft.rateInForce) ∧
      t.scl.engines.length = 24 ∧
      (∀ e, e < 24 → (engOf t e).queue = dealt e ∧ (engOf t e).tile = none ∧ (engOf t e).idle = false) ∧ t.arr.sumShadow = (0, 0, 0, 0)) ∧
  (∀ s : State, ¬latches s → exec .composeLatch s = .next s) ∧
  (∀ (n : Nat) (s t : State), latches s → exec .composeLatch s = .next t → n < 6 → s.cmp.layers.length = 6 → (layerOf (decided s) n).enLatched = true →
    let u := decided s
    let x := layerOf u n
    let y := layerOf t n
    let flips := y.frontBuf = backBuf x ∧ y.hasFront = true ∧ y.back = .empty ∧ y.stale = 0 ∧ y.flips = min (x.flips + 1) (2 ^ 32 - 1) ∧ y.latchCount = s.ft.frameCount ∧ y.pend = none ∧ (∀ c, x.pend = some c → y.cfg = present c x.cfg)
    let stays := y.frontBuf = x.frontBuf ∧ y.hasFront = x.hasFront ∧ y.back = x.back ∧ y.cfg = x.cfg ∧ y.flips = x.flips ∧ y.stale = (if s.pwr.mode = .beam then min (x.stale + 1) 65535 else x.stale)
    let allReady (m : Nat) := ∀ i, i < 6 → m.testBit i = true → (layerOf u i).enLatched = true → (layerOf u i).back = .ready
    (x.back = .ready → ungrouped u n = true → flips) ∧
    (x.back ≠ .ready → stays) ∧
    (∀ g, g < 3 → (groupOf u g).armed = false → (groupOf u g).members.testBit n = true →
      (allReady (groupOf u g).members → flips) ∧
      (¬allReady (groupOf u g).members → (∀ h, h < 3 → h ≠ g → (groupOf u h).members.testBit n = false) → (∀ h a, h < 3 → (groupOf u h).arm = some a → a.mask.testBit n = false) → stays)) ∧
    (∀ g a, g < 3 → s.cmp.groups.length = 3 → (groupOf u g).armed = true → (groupOf u g).arm = some a → a.mask.testBit n = true →
      (allReady a.mask → flips ∧ (groupOf t g).arm = none ∧
        (s.cmd.outstanding.contains a.handle = true → ∃ e ∈ t.cmd.cq, e.handle = a.handle ∧ e.opcode = 0x22 ∧ e.status = stOk ∧
          e.r0 = (a.mask &&& layerMask u (·.enLatched)) % 2 ^ 32 ∧ e.r1 = s.ft.frameCount % 2 ^ 32)) ∧
      (¬allReady a.mask → (groupOf t g).arm = some a)) ∧
    (y.transparent = true ↔ y.cfg.policy = 1 ∧ y.cfg.staleN ≤ y.stale) ∧ (y.staleCause = true ↔ y.cfg.policy = 2 ∧ y.cfg.staleN ≤ y.stale) ∧
    condIs 0x0210 n t = y.staleCause)

/-- While a compose runs, an engine without a tile takes the first of its queue; else, with stealing on, the last of the fullest queue
of its cluster, else, with cross-cluster stealing on, of the others'; else it is idle. A request that was put to a queue before others
were served keeps to it: it takes its last tile, and fails where the queue is found empty. A tile that retires is added to those
retired, frees its engine, and writes for each pixel the word that the mapper makes of its composed code, or the probe word, and its
terms into the sums; no other tile's words change. A read-back stores each word of a retired tile as it reads back. At the flush point
the compose ends, complete exactly if all 450 tiles have retired; the third miss in a row brings COMPOSE_OVERRUN. A layer contributes
inside its rectangle alone; unscaled, with the coefficients of reset, a sample is the source pixel, and a look-up table of reset changes
no code; blending follows R129. A disabled pixel's word is 0; of any other, span and width follow the clamped charge target, the
gathering factor is the least that reaches the minimum on-time, and a lift is at most a quarter of the pixel's own code. The model's
choices in it: which queue is found fullest at a request (the row's near and far), a steal that finds nothing in its cluster and goes on
to the others, and the sums at a miss over the retired tiles (log entry 52). -/
def Obligations.EnginesWork : Prop :=
  (∀ (e : Nat) (near far : Option Nat) (s : State), e < 24 → s.scl.engines.length = 24 → composing s = true → (engOf s e).idle = false →
    (engOf s e).tile = none →
    let mine := (List.range 24).filter (fun i => i / 6 = e / 6 && i ≠ e)
    let others := (List.range 24).filter (fun i => i / 6 ≠ e / 6)
    let free (l : List Nat) (o : Option Nat) := ∀ w, o = some w → w ∉ l
    let gives (l : List Nat) (o : Option Nat) (v : Nat) := (o = some v ∧ v ∈ l ∧ (engOf s v).queue ≠ []) ∨ (free l o ∧ fullest s l = some v)
    let fails (l : List Nat) (o : Option Nat) := (∃ v ∈ l, o = some v ∧ (engOf s v).queue = []) ∨ (free l o ∧ fullest s l = none)
    ∃ u, exec (.engineNextTile e near far) s = .next u ∧
      (∀ t q, (engOf s e).queue = t :: q → (engOf u e).tile = some t ∧ (engOf u e).queue = q ∧ u.scl.comp = s.scl.comp ∧
        ∀ j, j ≠ e → engOf u j = engOf s j) ∧
      (∀ v, (engOf s e).queue = [] → s.scl.comp.stealEn = true → gives mine near v →
        (engOf u e).tile = (engOf s v).queue.getLast? ∧ (engOf u e).stolen = true ∧ (engOf u v).queue = (engOf s v).queue.dropLast ∧
        u.scl.comp = { s.scl.comp with stealL := s.scl.comp.stealL + 1 } ∧ ∀ j, j ≠ e → j ≠ v → engOf u j = engOf s j) ∧
      (∀ v, (engOf s e).queue = [] → s.scl.comp.stealEn = true → s.scl.comp.xstealEn = true → fails mine near → gives others far v →
        (engOf u e).tile = (engOf s v).queue.getLast? ∧ (engOf u v).queue = (engOf s v).queue.dropLast ∧
        u.scl.comp = { s.scl.comp with stealR := s.scl.comp.stealR + 1 } ∧ ∀ j, j ≠ e → j ≠ v → engOf u j = engOf s j) ∧
      ((engOf s e).queue = [] → (s.scl.comp.stealEn = false ∨ (fails mine near ∧ (s.scl.comp.xstealEn = false ∨ fails others far))) →
        (engOf u e).idle = true ∧ (engOf u e).tile = none ∧ u.scl.comp = s.scl.comp ∧ ∀ j, j ≠ e → engOf u j = engOf s j)) ∧
  (∀ (s : State) (a v : Nat) (l : List Nat), fullest s (a :: l) = some v →
    v ∈ a :: l ∧ (engOf s v).queue ≠ [] ∧ ∀ w, w ∈ a :: l → (engOf s w).queue.length ≤ (engOf s v).queue.length) ∧
  (∀ (e t clocks stall : Nat) (s : State), e < 24 → s.scl.engines.length = 24 → composing s = true → (engOf s e).tile = some t →
    ∃ u, exec (.tileRetired e clocks stall) s = .next u ∧ (∀ i, i ∈ u.scl.comp.retired ↔ i = t ∨ i ∈ s.scl.comp.retired) ∧
      (engOf u e).tile = none ∧ (engOf u e).cur.tiles = (engOf s e).cur.tiles + 1 ∧
      (∀ p, tileOf p = t → planeGet u.scl.comp.codes p = composedCode s (e / 6) p ∧
        planeGet u.arr.shadow p = if s.diag.probed.contains p then probeWord else
          (mapPixel (composedCode s (e / 6)) s.scl.comp.defects.contains s.scl.comp.liftEn s.scl.comp.gain (gainAt s p) s.scl.comp.rep p).word) ∧
      (∀ p, tileOf p ≠ t → planeGet u.arr.shadow p = planeGet s.arr.shadow p) ∧
      u.arr.sumShadow = addTile t ((List.range 2304).map (fun k => planeGet u.arr.shadow (tilePixel t k))) s.arr.trim s.arr.dis s.arr.sumShadow ∧
      u.arr.active = s.arr.active ∧ u.scl.comp.running = true) ∧
  (∀ (t : Nat) (d : List (Nat × Nat)) (s : State), t < 450 → d.all (fun c => decide (c.1 < 1036800) && decide (c.2 < 2 ^ 20)) = true →
    awake s = true → s.scl.comp.retired.contains t = true → s.scl.comp.readDone.contains t = false → s.scl.comp.gus = true →
    ∃ u, exec (.sigReadbackTile t d) s = .next u ∧ (∀ i, i ∈ u.scl.comp.readDone ↔ i = t ∨ i ∈ s.scl.comp.readDone) ∧
      u.arr.shadow = s.arr.shadow ∧
      (∀ p, tileOf p = t → planeGet u.scl.comp.readback p = match d.find? (fun c => c.1 = p) with | some c => c.2 | none => planeGet s.arr.shadow p) ∧
      (∀ p, tileOf p ≠ t → planeGet u.scl.comp.readback p = planeGet s.scl.comp.readback p)) ∧
  (∀ (clocks : Nat) (o : List Nat) (part : List PartTile) (s : State), o.length = 4 → part.all (fun x => decide (x.engine < 24)) = true →
    composing s = true →
    ∃ u, exec (.mapperFlushPoint clocks o part) s = .next u ∧ u.scl.comp.running = false ∧ u.scl.comp.flushed = true ∧
      (u.scl.comp.ok = true ↔ s.scl.comp.retired.length = 450) ∧ u.scl.tilesRetired = s.scl.comp.retired.length ∧
      u.arr.sumShadow = s.arr.sumShadow ∧ u.arr.shadow = s.arr.shadow ∧
      (∀ e, e < 24 → (engOf u e).queue = [] ∧ (engOf u e).tile = none) ∧
      (s.scl.comp.retired.length = 450 → u.scl.misses = s.scl.misses ∧ u.scl.missRun = s.scl.missRun ∧ u.map.shown = s.map.cur) ∧
      (s.scl.comp.retired.length ≠ 450 → u.scl.missRun = min (s.scl.missRun + 1) 3 ∧ u.scl.misses = min (s.scl.misses + 1) (2 ^ 32 - 1) ∧
        u.map.shown = s.map.shown ∧ (2 ≤ s.scl.missRun → condIs 0x0302 0 u = true))) ∧
  (∀ (s : State) (port p b : Nat) (y : LayerSnap), inDst y.cfg p = false → blendLayer s port p b y = b) ∧
  (∀ (s : State) (port x row : Nat) (y : LayerSnap), y.cfg.srcW = y.cfg.dstW → y.cfg.srcH = y.cfg.dstH → x < y.cfg.dstW → row < y.cfg.dstH →
    (s.scl.tables.getD (2 * y.cfg.coeffSet) {}).front = [] → (s.scl.tables.getD (2 * y.cfg.coeffSet + 1) {}).front = [] →
    scaledPixel s port y x row = srcPixel s port y x row) ∧
  (∀ (s : State) (t x : Nat), x < 65536 → (s.cmp.tables.getD t {}).front = [] →
    (t < 6 → tableCode s t 64 x = x) ∧ (t = 6 → tableCode s t 16 x = x)) ∧
  (∀ b l a : Nat, let mix (r : Nat) := (r * a + b * (255 - a) + 127) / 255
    blendCode 0 b l a = l ∧ blendCode 1 b l a = mix l ∧ blendCode 2 b l a = mix (min 65535 (b + l)) ∧
    blendCode 3 b l a = mix ((b * l + 32767) / 65535) ∧ blendCode 4 b l a = mix (max b l) ∧ blendCode 5 b l a = mix (min b l)) ∧
  (∀ (y : Nat → Nat) (d : Nat → Bool) (lift : Bool) (gain gw n p : Nat), 8 ≤ n → n ≤ 32 →
    let m := mapPixel y d lift gain gw n p
    let w := wWidth m.word
    let sp := wSpan m.word
    (d p = true → m.word = 0) ∧
    (d p = false →
      let q := min ((2 * ((y p + if lift then liftOf y d p else 0) * gain * gw * 131040) + 32768 * 32768 * 65535) / (2 * (32768 * 32768 * 65535))) 131040
      (q ≤ 4095 → sp = 0 ∧ w = (if q = 1 ∧ n = 12 then 2 else q)) ∧
      (4095 < q → q ≤ 16380 → sp = 1 ∧ w = (2 * q + 4) / 8) ∧
      (16380 < q → q ≤ 65520 → sp = 2 ∧ w = (2 * q + 16) / 32) ∧
      (65520 < q → sp = 3 ∧ w = (2 * q + 32) / 64) ∧
      wSingle m.word = false ∧
      (w = 0 ∨ minOn sp ≤ w → wGather m.word = 1) ∧ (w ≠ 0 → w < minOn sp → wGather m.word = min n ((minOn sp + w - 1) / w)))) ∧
  (∀ (y : Nat → Nat) (d : Nat → Bool) (p : Nat), liftOf y d p ≤ y p / 4 ∧ ((∀ i ∈ edgeNeighbours p, d i = false) → liftOf y d p = 0))

/-- At GREF_FINAL the governor fixes the GREF of R71 for the next boundary from the largest phase sum of the frame that will be active:
256 within the budget, else the floored quotient, at least 1; the GREF in force stays until the boundary, DRV_GOV_STAT.LIMITED shows
whether it is below 256, and the boundary that takes a value below 256 after one of 256 records BUDGET_LIMIT with P, the effective
budget and GREF; the current that the fixed GREF leaves is within BUDGET × F / 16 whenever it is not clamped at 1. With a dark frame to
come GREF is 256. The model's choices in it: P rounded up and the budget down, BUDGET_LIMIT at the frame latch (log entry 32), and that
GREF_FINAL in a state without it has no effect (log entry 8). -/
def Obligations.GovernorKeepsBudget : Prop :=
  (∀ s : State, awake s = true → s.ft.running = true →
    let p := predicted s
    let g := grefOf p s.arr.budgetMa s.thm.f
    exec .grefFinal s = .next { s with arr := { s.arr with grefNext := g, grefP := p, grefB := s.arr.budgetMa * s.thm.f / 16 } } ∧
    (darkNext s = true → g = 256) ∧
    (darkNext s = false → s.pwr.mode ≠ .kindle → p = maxSum (if s.scl.comp.ok then s.arr.sumShadow else s.arr.sumActive))) ∧
  (∀ s : State, ¬(awake s = true ∧ s.ft.running = true) → exec .grefFinal s = .next s) ∧
  (∀ s : State, (regRead 0x5001C s).testBit 0 = true ↔ s.arr.gref < 256) ∧
  (∀ t s : State,
    (t.arr.gref < 256 → 256 ≤ s.arr.gref →
      latchLimited t s = note (ev 0x0601 ((s.arr.grefP + 999999) / 1000000) s.arr.grefB t.arr.gref t.ft.frameCount) s) ∧
    (256 ≤ t.arr.gref ∨ s.arr.gref < 256 → latchLimited t s = s)) ∧
  (∀ p budget f : Nat, 16 * p ≤ budget * f * 1000000 → grefOf p budget f = 256) ∧
  (∀ p budget f : Nat, budget * f * 1000000 < 16 * p →
    1 ≤ grefOf p budget f ∧ grefOf p budget f < 256 ∧
    (grefOf p budget f = 256 * (budget * f * 1000000) / (16 * p) ∨ grefOf p budget f = 1) ∧
    (1 < grefOf p budget f → grefOf p budget f * (16 * p) ≤ 256 * (budget * f * 1000000)))

/-- A write of DRV_BUDGET with BUDGET_MA from 1,000 to 20,000 that is let through is answered OK and changes that field alone; any other
value leaves the register unchanged and returns BAD_PARAM; the next GREF computation uses the value in the register. -/
def Obligations.BudgetRange : Prop :=
  (∀ (h : Hdr) (w : Word) (s : State), admitsWrite h 0x5000C w.toNat s = true →
    let b := beforeWrite h 0x5000C w.toNat s
    let n := w.toNat % 65536
    (1000 ≤ n ∧ n ≤ 20000 → exec (.budgetWrite h w) s = wrote h 0x5000C w.toNat { b with arr := { b.arr with budgetMa := n } }) ∧
    (n < 1000 ∨ 20000 < n → exec (.budgetWrite h w) s = writeRefused h 0x5000C w.toNat stBadParam b)) ∧
  (∀ s : State, awake s = true → s.ft.running = true →
    ∃ t, exec .grefFinal s = .next t ∧ t.arr.grefNext = grefOf (predicted s) s.arr.budgetMa s.thm.f)

/-- Every frame latch begins slot A of cycle 0 and, where STATUS is enabled, makes one due, with no pixel lit, GREF 256 and READY low in
a dark array. In a lit mode the count of frames advances by one, and where nothing makes the array dark and no mode change waits, a
boundary that flips makes every pixel's active word its shadow word, takes the sums with them, ends the run of misses and uses up the
compose, and one that does not keeps every active word; GREF becomes the one fixed at GREF_FINAL. The swap loads zeros with GREF 256
while the array is dark; the shadow words are never changed by it. -/
def Obligations.FrameLatchSwaps : Prop :=
  (∀ (f : List PixFlags) (v u : Nat) (d : Bool) (s : State), flagsOk f = true → awake s = true → s.ft.running = true →
    ∃ t, exec (.frameLatch f v u d) s = .next t ∧ t.arr.slot = some {} ∧ t.arr.vledMv = v ∧ t.arr.shadow = s.arr.shadow ∧
      (s.rope.statusEn = true → ∃ l, t.rope.statusDue = l ++ [(0, 255, 255)]) ∧
      (arrayDark t = true → t.arr.active = [] ∧ t.arr.gref = 256 ∧ t.pwr.readyPin = false ∧ t.arr.acc.lit = [])) ∧
  (∀ (f : List PixFlags) (v u : Nat) (d : Bool) (s : State), flagsOk f = true → awake s = true → s.ft.running = true → staysLit s →
    s.pwr.next = none →
    ∃ t, exec (.frameLatch f v u d) s = .next t ∧ t.pwr.mode = s.pwr.mode ∧ t.ft.frameCount = (s.ft.frameCount + 1) % 2 ^ 32 ∧
      t.arr.gref = s.arr.grefNext ∧ t.arr.lastFlipped = s.scl.comp.ok ∧
      (s.scl.comp.ok = true → (∀ p, planeGet t.arr.active p = planeGet s.arr.shadow p) ∧ t.arr.sumActive = s.arr.sumShadow ∧
        t.scl.missRun = 0 ∧ t.scl.comp.ok = false ∧ t.pwr.readyPin = true) ∧
      (s.scl.comp.ok = false → t.arr.active = s.arr.active ∧ t.arr.sumActive = s.arr.sumActive ∧ t.scl.missRun = s.scl.missRun ∧
        t.pwr.readyPin = s.pwr.readyPin)) ∧
  (∀ s : State, arrayDark s = true →
    (swapWords s).arr.active = [] ∧ (swapWords s).arr.gref = 256 ∧ (swapWords s).arr.shadow = s.arr.shadow) ∧
  (∀ s : State, arrayDark s = false → s.scl.comp.ok = false →
    (swapWords s).arr.active = s.arr.active ∧ (swapWords s).arr.shadow = s.arr.shadow ∧ (swapWords s).arr.gref = s.arr.grefNext)

/-- At a frame latch in a lit mode with AUTO on, after a frame in which some pixel was lit: above LOW_LIMIT low pixels D rises by
UP_STEP (at least 1) up to 1,187, from 0 to no less than 63, and the run of clean frames is cleared; after the fourth clean frame in a
row it falls by 1, not below 63; otherwise D holds. With no pixel lit, in a dark array, with AUTO off or outside the lit modes D holds.
Nothing but D and the run changes. (That a rise from D = 0 reaches at least 63 is the model's reading, log entry 80.) -/
def Obligations.HeadroomLoop : Prop :=
  (∀ s : State, litMode s.pwr.mode = true → s.pwr.dark = false → s.arr.auto = true → s.arr.acc.lit ≠ [] →
    let t := latchHeadroom s
    t = { s with arr := { s.arr with duty := t.arr.duty, lowFrames := t.arr.lowFrames } } ∧
    (s.arr.lowLimit < s.arr.lowCount → t.arr.duty = max 63 (min (s.arr.duty + max s.arr.upStep 1) 1187) ∧ t.arr.lowFrames = 0) ∧
    (s.arr.lowCount = 0 → 3 ≤ s.arr.lowFrames → t.arr.duty = max (s.arr.duty - 1) 63 ∧ t.arr.lowFrames = 0) ∧
    (s.arr.lowCount = 0 → s.arr.lowFrames < 3 → t.arr.duty = s.arr.duty ∧ t.arr.lowFrames = s.arr.lowFrames + 1) ∧
    (0 < s.arr.lowCount → s.arr.lowCount ≤ s.arr.lowLimit → t = s)) ∧
  (∀ s : State, litMode s.pwr.mode = false ∨ s.pwr.dark = true ∨ s.arr.auto = false ∨ s.arr.acc.lit = [] → latchHeadroom s = s)

/-- A slot start judges the pulses of the slot that ends, counting NOI and HVD, and moves to the next slot of the frame; a PIXEL_TEST's
conversions are taken in its pixel's slot of cycle 0. The verdicts of a frame that is not void are taken once for every lit pixel: with
no judged pulse U rises up to 64; with HVD, else NOI, in at least half of them F rises and U is 0, and the third such frame in a row
clears F and puts the pixel in the defect map, SHORT or OPEN, with its DIS latch set; otherwise F and U are 0. A PIXEL_TEST alone
changes neither; a parity error clears both; a void frame changes none and is counted. At signatures final every configured region is
evaluated for the frame of its compose, MISSED if it missed, otherwise with RESULT and check values, RUN and FAILS following, and the
signature inputs are released. The model's choices in it: a pixel whose pulse a test replaces keeps F and U (log entry 54), the order of
the lit pixels (log entry 33), and MISSED keeping the earlier verdict (log entry 34). -/
def Obligations.SlotsVerdictsSignatures : Prop :=
  (∀ (f : List PixFlags) (x : Option PixScan) (s : State) (q n : SlotPos), flagsOk f = true → awake s = true → s.ft.running = true → s.arr.slot = some q →
    nextSlot (repeatOf s.ft.rateInForce) q = some n →
    ∃ t, exec (.slotStart f x) s = .next t ∧ t.arr.slot = some n ∧ t.arr.active = s.arr.active ∧
      t.arr.acc.lit = s.arr.acc.lit.map (judgePixel s q f) ∧
      (∀ i, i ∈ t.arr.acc.low ↔ i ∈ s.arr.acc.low ∨ ∃ k ∈ f, k.pix = i ∧ k.hdl = true ∧ 32 ≤ pulseOf s q s.arr.acc.lit i) ∧
      (∀ y r, s.diag.test = some y → x = some r → y.testing = true → q.cycle = 0 → phaseOf y.pix = q.phase → y.result = none → s.arr.sinkEn = true →
        t.diag.test = some { y with result := some r })) ∧
  (∀ (s : State) (q : SlotPos) (f : List PixFlags) (k : PixAcc),
    (pulseJudged s.arr.staggerEn k.pix k.word (slotPulse s q k) = false → judgePixel s q f k = k) ∧
    (∀ g, pulseJudged s.arr.staggerEn k.pix k.word (slotPulse s q k) = true → f.find? (fun f => f.pix = k.pix) = some g →
      judgePixel s q f k = { k with judged := k.judged + 1, opens := k.opens + (if g.noi then 1 else 0), shorts := k.shorts + (if g.hvd then 1 else 0) }) ∧
    (pulseJudged s.arr.staggerEn k.pix k.word (slotPulse s q k) = true → f.find? (fun f => f.pix = k.pix) = none →
      judgePixel s q f k = { k with judged := k.judged + 1 })) ∧
  (∀ (p : List Nat) (k : PixAcc) (s : State), p.all (fun i => decide (i < 1036800)) = true → awake s = true → s.ft.running = true →
    (s.arr.accPrev.lit.map (·.pix)).Nodup → k ∈ s.arr.accPrev.lit → k.pix ∉ p → (∀ x, s.diag.test = some x → x.pix ≠ k.pix) →
    let a := s.arr.accPrev
    let f := sget s.diag.fails k.pix
    let u := sget s.diag.unver k.pix
    let fail := k.judged ≠ 0 ∧ (k.judged ≤ 2 * k.shorts ∨ k.judged ≤ 2 * k.opens)
    let void := 10368 < a.low.length ∨ a.sinkCleared = true
    ∃ t, exec (.diagVerdictsFinal p) s = .next t ∧ t.arr.accPrev = {} ∧ t.diag.probedPrev = [] ∧ t.arr.active = s.arr.active ∧
      (void → sget t.diag.fails k.pix = f ∧ sget t.diag.unver k.pix = u ∧ t.diag.voidFrames = min (s.diag.voidFrames + 1) 65535) ∧
      (¬void → k.judged = 0 → sget t.diag.fails k.pix = f ∧ sget t.diag.unver k.pix = min 64 (u + 1)) ∧
      (¬void → fail → sget t.diag.fails k.pix = (if f = 2 then 0 else f + 1) ∧ sget t.diag.unver k.pix = 0 ∧
        (f = 2 → k.pix ∈ t.arr.dis ∨ isDefect s k.pix = true) ∧
        (f = 2 → isDefect s k.pix = false → ∃ d ∈ t.diag.defects, d.pix = k.pix ∧ d.type = (if k.judged ≤ 2 * k.shorts then 2 else 1) ∧
          d.source = (if s.diag.probedPrev.contains k.pix then 3 else 2))) ∧
      (¬void → k.judged ≠ 0 → ¬fail → sget t.diag.fails k.pix = 0 ∧ sget t.diag.unver k.pix = 0)) ∧
  (∀ (p : List Nat) (i : Nat) (s : State), p.all (fun i => decide (i < 1036800)) = true → awake s = true → s.ft.running = true →
    i ∈ p → ∃ t, exec (.diagVerdictsFinal p) s = .next t ∧ sget t.diag.fails i = 0 ∧ sget t.diag.unver i = 0) ∧
  (∀ (p : List Nat) (k : PixAcc) (x : PixTest) (r : PixScan) (s : State), p.all (fun i => decide (i < 1036800)) = true → awake s = true → s.ft.running = true →
    (s.arr.accPrev.lit.map (·.pix)).Nodup → k ∈ s.arr.accPrev.lit → k.pix ∉ p → s.diag.test = some x → x.pix = k.pix → x.testing = true →
    x.frame ≠ s.ft.frameCount → x.result = some r → k.judged = 0 →
    ∃ t, exec (.diagVerdictsFinal p) s = .next t ∧ t.diag.test = none ∧ sget t.diag.fails k.pix = sget s.diag.fails k.pix ∧
      sget t.diag.unver k.pix = sget s.diag.unver k.pix) ∧
  (∀ s : State, awake s = true → s.scl.comp.gus = true → s.scl.comp.flushed = true → litMode s.pwr.mode = true ∨ s.pwr.mode = .kindle →
    s.chk.sigs.length = 16 →
    let k := s.scl.comp
    ∃ t, exec .signaturesFinal s = .next t ∧ t.chk.sigFrame = k.frame ∧ t.scl.comp.gus = false ∧
      ∀ r, r < 16 → let g := sigOf s r; let h := sigOf t r
        (g.cfg.mode = 0 → h = g) ∧ (g.cfg.mode ≠ 0 → k.ok = false → h = { g with result := 6 }) ∧
        (g.cfg.mode ≠ 0 → k.ok = true → readbackDone k g.cfg.rect = true →
          h.composed = crc32 (regionBytes 2 k.codes g.cfg.rect (fun _ => true)) ∧ h.written = crc32 (regionBytes 4 s.arr.shadow g.cfg.rect (fun _ => true)) ∧
          h.readback = crc32 (regionBytes 4 k.readback g.cfg.rect (fun _ => true)) ∧
          h.result = sigResult true (h.readback ≠ h.written) (g.cfg.mode = 2 && k.content = .layers && h.composed ≠ g.cfg.expect) (g.cfg.mode = 2)
            (k.content = .pilot || k.content = .belay)) ∧
        (g.cfg.mode ≠ 0 → k.ok = true → readbackDone k g.cfg.rect = false → h.result = 5) ∧
        (g.cfg.mode ≠ 0 → k.ok = true → h.run = (if h.result ∈ [2, 3, 4, 5] then min (g.run + 1) 31 else 0) ∧
          h.fails = (if h.result ∈ [2, 3, 4, 5] then min (g.fails + 1) 4095 else g.fails) ∧ (h.cause = true ↔ g.cfg.thresh ≤ h.run) ∧
          condIs 0x0401 r t = (h.cause || (condIs 0x0401 r s && decide (h.run ≠ 0)))))

/-- With FSYNC_IN in force, an edge 2 clocks before its sample, with OFFSET added, gives the phase error to the nearest boundary; the
first one of a KINDLE starts the timer, any later one sets the phase error, ends holdover, makes the timer locked with the eighth good
edge in a row and unlocked with the fourth bad one, which raises FRAME_LOCK_LOST with the phase error, the source and the trim; nothing
else than the timer changes otherwise, and with another source in force nothing happens. A missing reference enters holdover, unlocks
and raises FSYNC_MISSING. At a scan-cycle boundary the trim moves by at most 100 ppm and stays within 20,000 ppm, with OWN in force it
moves toward 0, and in holdover it stays; TRIM_LIMIT is recorded where it reaches the limit while the phase error grows, once until the
trim leaves the limit. (The sign of the phase error and where OFFSET acts are the model's reading, log entry 50; what a run of frames
counts is its choice, entry 74, and so is when the phase error is growing, entry 75.) -/
def Obligations.FrameTimerFollows : Prop :=
  (∀ (n : Nat) (s : State), lanesUp s = true → s.ft.activeSrc = 1 →
    let err := phaseError s.ft.rateInForce ((n : Int) - 2 + sext 16 s.ft.ofsInForce)
    (startsHard s = true → exec (.fsyncInEdge n) s = .next { s with ft := { s.ft with
      running := true, trim := 0, phaseErr := 0, growing := false, ofsInForce := s.ft.offset, hadRef := true } }) ∧
    (startsHard s = false → s.ft.running = true →
      ∃ t, exec (.fsyncInEdge n) s = .next t ∧ t.ft.phaseErr = max (-32767) (min 32767 err) ∧ t.ft.holdover = false ∧ t.ft.trim = s.ft.trim ∧
        (err.natAbs ≤ 32 → t.ft.badRun = 0 ∧ t.ft.goodRun = min (s.ft.goodRun + 1) 8 ∧ t.ft.locked = (s.ft.locked || decide (7 ≤ s.ft.goodRun))) ∧
        (160 < err.natAbs → t.ft.goodRun = 0 ∧ t.ft.badRun = min (s.ft.badRun + 1) 4 ∧ t.ft.locked = (s.ft.locked && decide (s.ft.badRun < 3))) ∧
        (32 < err.natAbs → err.natAbs ≤ 160 → t.ft.goodRun = 0 ∧ t.ft.badRun = 0 ∧ t.ft.locked = s.ft.locked) ∧
        (160 < err.natAbs → s.ft.locked = true → 3 ≤ s.ft.badRun →
          t = raise (ev 0x0F01 (twos 32 t.ft.phaseErr) 1 (twos 32 s.ft.trim) s.ft.frameCount) { s with ft := t.ft }) ∧
        (err.natAbs ≤ 160 ∨ s.ft.locked = false ∨ s.ft.badRun < 3 → t = { s with ft := t.ft }))) ∧
  (∀ (n : Nat) (s : State), s.ft.activeSrc ≠ 1 → exec (.fsyncInEdge n) s = .next s) ∧
  (∀ (r : Nat) (x : Int), 2 * (phaseError r x).natAbs ≤ frameClocks r ∧ (phaseError r x + x) % (frameClocks r : Int) = 0) ∧
  (∀ s : State, awake s = true → s.ft.running = true → s.ft.activeSrc ≠ 0 → s.ft.holdover = false →
    exec .holdoverEntry s = .next (raise (ev 0x0F02 s.ft.activeSrc (twos 32 s.ft.trim) (if s.pwr.mode = .kindle then 1 else 0) s.ft.frameCount)
      { s with ft := { s.ft with holdover := true, locked := false, goodRun := 0, badRun := 0 } })) ∧
  (∀ s : State, awake s = true → s.ft.running = true → -20000 ≤ s.ft.trim → s.ft.trim ≤ 20000 →
    ∃ t, exec .scanCycleStart s = .next t ∧ (t.ft.trim - s.ft.trim).natAbs ≤ 100 ∧ t.ft.trim.natAbs ≤ 20000 ∧
      (s.ft.activeSrc = 0 → t.ft.trim.natAbs = s.ft.trim.natAbs - 100) ∧
      (s.ft.activeSrc ≠ 0 → s.ft.holdover = true → t.ft.trim = s.ft.trim) ∧ t.ft.frameCount = s.ft.frameCount ∧
      (t.ft.trimLimit = true ↔ t.ft.trim.natAbs = 20000 ∧ (s.ft.trimLimit = true ∨ s.ft.growing = true)) ∧
      let u := { s with ft := { s.ft with trim := t.ft.trim, trimLimit := t.ft.trimLimit }, free := s.free + 1 }
      let limit := t.ft.trim.natAbs = 20000 ∧ s.ft.growing = true ∧ s.ft.trimLimit = false
      (limit → t = note (ev 0x0F03 (twos 32 t.ft.trim) (twos 32 s.ft.phaseErr) s.ft.activeSrc s.ft.frameCount) u) ∧ (¬limit → t = u))

/-! ### The lanes -/

/-- An ordered set that is sent is received as it was sent, at either running disparity. With the lanes powered: an enabled lane in
DETECT with no attempt running starts one at BACKOFF_EXPIRY (given its reference); words taken change disparity and error counts alone;
a valid ANCHOR set in an attempt starts the handshake and counts, an invalid one ends a run of fewer than four, and the fourth set with
the second matching ACK of a host lane moves it to LOCK at the ladder's rate; the twin lane, once it has four sets and the partner's
ACK, moves when four sets with ACK have left on TWTX; CDR lock moves LOCK to ALIGN, alignment to ADAPT with the slip taken, an
adaptation with an eye of 40 mV and 20/64 UI moves a host lane without a bond to BOND with the best CTLE code tried and the taps; below
these limits nothing happens, and in TRAINED the taps alone follow, unless frozen. The codes tried are those at most 2 from the stored
code, or from 6. Each changes that lane alone, and does nothing in another state. The model's choices in it: the code tables (log entry
94), ADAPT_COMPLETE in TRAINED (log entry 98), an invalid ANCHOR set ending a run that is shorter than 4, and the lane states in which a
row acts (log entry 63), the CTLE code of equal eyes (log entry 96), and when the handshake has started (log entry 109). -/
def Obligations.LaneClimbsToBond : Prop :=
  (∀ (b : List Byte) (pos : Bool), b.length = 13 →
    setBytes (field b 0 1) (receiveGroups pos (sendGroups pos (orderedSet b)).1).1 = some (b ++ le 2 (crc16 b)) ∧
    (receiveGroups pos (sendGroups pos (orderedSet b)).1).2 = (sendGroups pos (orderedSet b)).2) ∧
  (∀ (l : Nat) (x : Lane) (s : State), lanesUp s = true → l < 5 → s.lnk.lanes[l]? = some x → x.state = .detect → x.attempting = false →
    laneEnabled s l = true → (x.ladderShared = false ∨ s.lnk.lref = true) →
    let y := { x with attempting := true, started := false, backoffMs := 0, anchors := 0, acks := 0, rate := 7, shared := x.ladderShared, parked := false
                      waitBond := false, rdPos := false }
    ∃ t, exec (.backoffExpiry l) s = .next t ∧ (l < 4 → laneBecomes l y s t) ∧
      (l = 4 → laneBecomes 4 y { s with lnk := { s.lnk with twtxLine := { s.lnk.twtxLine with rdPos := false } } } t)) ∧
  (∀ (l : Nat) (set : List LaneWord) (x : Lane) (s : State), lanesUp s = true → l < 5 → set.length = 4 → s.lnk.lanes[l]? = some x →
    let y := heardLane x set
    (x.state ≠ .detect ∨ x.attempting = false → ∃ t, exec (.anchorReceived l set) s = .next t ∧ laneBecomes l y s t) ∧
    (x.state = .detect → x.attempting = true → setBytes 0xA7 (laneSymbols s l set) = none →
      ∃ t, exec (.anchorReceived l set) s = .next t ∧ laneBecomes l { y with anchors := if x.anchors = 4 then 4 else 0 } s t) ∧
    (∀ b, x.state = .detect → x.attempting = true → setBytes 0xA7 (laneSymbols s l set) = some b →
      let ack (r : Nat) : Bool := (field b 3 1).testBit 0 && field b 4 1 = r && r ≠ 7
      let n := min 4 (x.anchors + 1)
      let a (r : Nat) := if ack r then min 2 (x.acks + 1) else x.acks
      ∃ t, exec (.anchorReceived l set) s = .next t ∧
        (l < 4 → n = 4 → a x.ladderRate = 2 → laneBecomes l { y with started := true, anchors := 4, acks := 2, state := .lock, rate := x.ladderRate } s t) ∧
        (l < 4 → ¬(n = 4 ∧ a x.ladderRate = 2) → laneBecomes l { y with started := true, anchors := n, acks := a x.ladderRate } s t) ∧
        (l = 4 → t.lnk.twinAckSeen = (s.lnk.twinAckSeen || ack s.lnk.twinAgreed) ∧ ∃ z, t.lnk.lanes[4]? = some z ∧ z.anchors = n ∧ z.started = true ∧
          (z.state = .lock ↔ n = 4 ∧ t.lnk.twinAckSeen = true ∧ s.lnk.twinAcks = 4 ∧ s.lnk.twinAgreed ≠ 7)))) ∧
  (∀ (x : Lane) (s : State), twtxSets s = true → ackDue s = true → s.lnk.lanes[4]? = some x → s.lnk.twinAcks < 4 →
    ∃ t, exec .twinAckSetsSent s = .next t ∧ t.lnk.twinAcks = 4 ∧ t.lnk.twtxLine.seq = (s.lnk.twtxLine.seq + 2 * (4 - s.lnk.twinAcks)) % 256 ∧
      (x.anchors = 4 → s.lnk.twinAckSeen = true → t.lnk.lanes = s.lnk.lanes.set 4 { x with state := .lock, rate := s.lnk.twinAgreed }) ∧
      (x.anchors ≠ 4 ∨ s.lnk.twinAckSeen = false → t.lnk.lanes = s.lnk.lanes)) ∧
  (∀ s : State, twtxSets s = false ∨ ackDue s = false → exec .twinAckSetsSent s = .next s) ∧
  (∀ (l : Nat) (x : Lane) (s : State), lanesUp s = true → l < 5 → s.lnk.lanes[l]? = some x →
    (x.state = .lock → (x.shared = false ∨ s.lnk.lref = true) →
      ∃ t, exec (.cdrLock l) s = .next t ∧ laneBecomes l { x with state := .align } s t) ∧
    (x.state ≠ .lock → exec (.cdrLock l) s = .next s)) ∧
  (∀ (l slip : Nat) (x : Lane) (s : State), lanesUp s = true → l < 5 → slip < 40 → s.lnk.lanes[l]? = some x →
    (x.state = .align → ∃ t, exec (.laneAligned l slip) s = .next t ∧ laneBecomes l { x with slip, state := .adapt } s t) ∧
    (x.state = .detect → x.attempting = true → ∃ t, exec (.laneAligned l slip) s = .next t ∧ laneBecomes l { x with slip } s t) ∧
    (x.state = .relock → slip = x.slip → exec (.laneAligned l slip) s = .next s) ∧
    (x.state = .trained → exec (.laneAligned l slip) s = .next s)) ∧
  (∀ (l : Nat) (e : EqResult) (ms : Nat) (x : Lane) (s : State), lanesUp s = true → l < 5 → e.taps.length = 5 → s.lnk.lanes[l]? = some x →
    let y := { x with
      ctleUsed := if x.manualEq then x.ctle else bestCtle (ctleCodes l s) e.heights, taps := if x.dfeFreeze then x.taps else tapsIn e.taps
      eyeH := min e.eyeH 255, eyeW := min e.eyeW 63, attempting := false, state := .bond, waitBond := true }
    (x.state = .adapt → 10 ≤ e.eyeH → 20 ≤ e.eyeW → (l < 4 ∧ s.lnk.bondMask = 0) ∨ (l = 4 ∧ s.lnk.peerBond = false) →
      ∃ t, exec (.adaptComplete l e ms) s = .next t ∧ laneBecomes l y s t) ∧
    (x.state = .adapt → 10 ≤ e.eyeH → 20 ≤ e.eyeW → l = 4 → s.lnk.peerBond = true →
      ∃ t, exec (.adaptComplete l e ms) s = .next t ∧ (laneOf t 4).state = .trained ∧ t.rope.twin.up = true) ∧
    (x.state = .adapt → (e.eyeH < 10 ∨ e.eyeW < 20) → exec (.adaptComplete l e ms) s = .next s) ∧
    (x.state = .trained → ∃ t, exec (.adaptComplete l e ms) s = .next t ∧ laneBecomes l { x with taps := if x.dfeFreeze then x.taps else tapsIn e.taps } s t)) ∧
  (∀ (l : Nat) (s : State), let c := s.nvm.header.ctle.getD (5 * l + (laneOf s l).rate) 255
    let c := if c < 15 then c else 6
    (ctleCodes l s).head? = some c ∧ ∀ k, k ∈ ctleCodes l s ↔ k < 15 ∧ k ≤ c + 2 ∧ c ≤ k + 2) ∧
  (∀ codes heights : List Nat, codes.zip heights ≠ [] →
    ∃ h, (bestCtle codes heights, h) ∈ codes.zip heights ∧ ∀ c ∈ codes.zip heights, c.2 ≤ h)

/-- An attempt that times out outside a bond counts a failure and ends: up to the seventh at a ladder step the lane waits in DETECT for
min(10 × 2^(n − 1), 1,000) ms; the eighth drops the ladder rate by one, or, at the last step, brings LANE_DOWN. Its cause is LOS where
the signal has been lost for 1 ms after the handshake had started or beyond DETECT, else TIMEOUT. Other lanes stay as they are. In
shared-reference mode CDR lock without the LREF clock, and the loss of that clock in an attempt, fail it with NO_REF. A TRAINED lane
that loses lock enters RELOCK, counts it and interrupts its path, but the eighth entry within 1 s fails the lane with cause FLAP. RELOCK
ends in TRAINED (the twin path being up again) when alignment is found in place in a lane of the bond or of the formation that runs, in
BOND in one that a formation left out, and in a retrain otherwise or at its timeout. Alignment lost in ADAPT goes back to ALIGN and in
TRAINED brings a retrain. The model's choices in it: RATE 7 in DETECT, RETRAINS and what leaves RELOCK (log entry 63), and when the
handshake has started (log entry 109). -/
def Obligations.LaneFailsAndRetrains : Prop :=
  (∀ (l : Nat) (lost : Bool) (x : Lane) (s : State), lanesUp s = true → l < 5 → s.lnk.lanes[l]? = some x → x.attempting = true →
    (x.state = .detect ∨ x.state = .lock ∨ x.state = .align ∨ x.state = .adapt) →
    (l = 4 ∨ (s.lnk.bondMask.testBit l = false ∧ s.lnk.forming = false)) →
    let n := min 255 (x.failN + 1)
    ∃ t y, exec (.attemptTimeout { lane := l, lostMs := lost }) s = .next t ∧ t.lnk.lanes[l]? = some y ∧ y.attempting = false ∧ y.rate = 7 ∧ y.failN = n ∧
      y.fails = min 65535 (x.fails + 1) ∧ y.cause = (if x.los = true ∧ lost = true ∧ (x.state ≠ .detect ∨ x.started = true) then 2 else 1) ∧ y.retrains = x.retrains ∧
      (x.failR < 7 → y.state = .detect ∧ y.failR = x.failR + 1 ∧ y.backoffMs = min (10 * 2 ^ (min n 8 - 1)) 1000 ∧ y.ladderRate = x.ladderRate) ∧
      (7 ≤ x.failR → 0 < x.ladderRate → y.state = .detect ∧ y.failR = 0 ∧ y.ladderRate = x.ladderRate - 1 ∧ y.ladderShared = x.ladderShared) ∧
      (7 ≤ x.failR → x.ladderRate = 0 → (x.refMode ≠ 0 ∨ x.ladderShared = true) → y.state = .laneDown) ∧
      ∀ k, k ≠ l → t.lnk.lanes[k]? = s.lnk.lanes[k]?) ∧
  (∀ (l gap at_ : Nat) (x : Lane) (s : State), lanesUp s = true → l < 5 → s.lnk.lanes[l]? = some x → x.state = .trained →
    let n := (x.relockTimes.filter (fun t => at_ ≤ t + 1000)).length
    ∃ t y, exec (.relockEntry l gap at_) s = .next t ∧ t.lnk.lanes[l]? = some y ∧ y.relocks = min 65535 (x.relocks + 1) ∧
      (n < 7 → y.state = .relock ∧ y.deskew = x.deskew ∧ (l = 4 → t.rope.twin.up = false) ∧ (l < 4 → t.rope.host.up = false) ∧
        ∀ k, k ≠ l → t.lnk.lanes[k]? = s.lnk.lanes[k]?) ∧
      (7 ≤ n → y.state ≠ .trained ∧ y.state ≠ .relock ∧ y.cause = 5 ∧
        y.relockTimes = x.relockTimes.filter (fun t => at_ ≤ t + 1000) ++ [at_])) ∧
  (∀ (l : Nat) (x : Lane) (s : State), lanesUp s = true → l < 5 → s.lnk.lanes[l]? = some x → x.state = .relock →
    (l < 4 → s.lnk.bondMask.testBit l = true ∨ (s.lnk.forming = true ∧ s.lnk.formMask.testBit l = true) →
      ∃ t, exec (.relockComplete l true) s = .next t ∧ laneBecomes l { x with state := .trained } s t) ∧
    (l = 4 → ∃ t y, exec (.relockComplete l true) s = .next t ∧ t.lnk.lanes[4]? = some y ∧ y.state = .trained ∧ t.rope.twin.up = true) ∧
    (l < 4 → s.lnk.bondMask.testBit l = false → (s.lnk.forming = false ∨ s.lnk.formMask.testBit l = false) →
      (s.lnk.bondMask = 0 ∨ s.lnk.autoRejoin = false) →
      ∃ t y, exec (.relockComplete l true) s = .next t ∧ t.lnk.lanes[l]? = some y ∧ y.state = .bond ∧ y.waitBond = true) ∧
    ((x.ladderShared = false ∨ s.lnk.lref = true) →
      (∃ t y, exec (.relockComplete l false) s = .next t ∧ t.lnk.lanes[l]? = some y ∧ y.state = .detect ∧ y.attempting = true ∧
        y.retrains = min 65535 (x.retrains + 1) ∧ y.fails = x.fails) ∧
      (∃ t y, exec (.relockTimeout l) s = .next t ∧ t.lnk.lanes[l]? = some y ∧ y.state = .detect ∧ y.attempting = true ∧
        y.retrains = min 65535 (x.retrains + 1) ∧ y.fails = x.fails))) ∧
  (∀ (l : Nat) (x : Lane) (s : State), lanesUp s = true → l < 5 → s.lnk.lanes[l]? = some x →
    (x.state = .adapt → ∃ t, exec (.alignmentLost l) s = .next t ∧ laneBecomes l { x with state := .align } s t) ∧
    (x.state = .detect → exec (.alignmentLost l) s =
      .next { s with lnk := { s.lnk with lanes := s.lnk.lanes.set l { x with anchors := 0, acks := 0 } } }) ∧
    (x.state = .trained → (x.ladderShared = false ∨ s.lnk.lref = true) →
      ∃ t y, exec (.alignmentLost l) s = .next t ∧ t.lnk.lanes[l]? = some y ∧ y.state = .detect ∧ y.retrains = min 65535 (x.retrains + 1))) ∧
  (∀ (l : Nat) (x : Lane) (s : State), lanesUp s = true → l < 5 → s.lnk.lanes[l]? = some x → x.state = .lock → x.shared = true → s.lnk.lref = false →
    ∃ t y, exec (.cdrLock l) s = .next t ∧ t.lnk.lanes[l]? = some y ∧ y.cause = 6 ∧ y.attempting = false ∧ y.state ≠ .lock ∧ y.state ≠ .align) ∧
  (∀ s : State, lanesUp s = true → s.lnk.lanes.length = 5 →
    ∃ t, exec (.lrefClockChange false) s = .next t ∧ t.lnk.lref = false ∧ ∀ l x, l < 5 → s.lnk.lanes[l]? = some x →
      ((x.attempting = true ∧ x.shared = true) → (laneOf t l).cause = 6 ∧ (laneOf t l).attempting = false) ∧
      (¬(x.attempting = true ∧ x.shared = true) → (laneOf t l).cause = x.cause ∧ (laneOf t l).attempting = x.attempting))

/-- LINK_TRAIN with ACTION DISABLE replies OK and disables every lane of its mask; with ACTION RESTART it replies ACCEPTED, enables the
lanes of the mask with MODE 0, puts each in DETECT at the ladder rate asked for, in an attempt with both fail counters and the back-off
0 (one that needs the LREF clock and has none fails that attempt with NO_REF), completes every RESTART that waits for one of these lanes
with SUPERSEDED, and waits for them; the oldest RESTART whose lanes have all settled completes, OK if one is TRAINED. LANE_BITSLIP of a
lane in TEST advances its slip by one modulo 40 and is REFUSED in another state. EYE_SCAN of a lane in TRAINED or TEST is ACCEPTED,
clears the old results and runs; its points come in the order of the grid, and the last one completes the scan with OK, the width and
height of the error-free run and the number of points, or with FAILED once the lane has left these states. The model's choices in it: a
RESTART sets MODE 0 and counts a TRAINED lane (log entry 63), and the sizes of an eye (log entry 96). -/
def Obligations.LinkCommandsAnswer : Prop :=
  (∀ (m r z : Byte) (rq : Rq) (s : State), admits 0x30 rq s = true → shaped s = true → rq.payload = [m, 1, r, z] → m.toNat % 32 ≠ 0 →
    (m.toNat.testBit 4 = true → paired s = true) →
    ∃ t, exec (.linkTrainDisable rq) s = answered 0x30 rq { status := stOk } t ∧
      ∀ l, l < 5 → m.toNat.testBit l = true → laneEnabled t l = false ∧ (laneOf t l).state = .disabled ∧ (laneOf t l).attempting = false) ∧
  (∀ (m r z : Byte) (rq : Rq) (s : State), admits 0x30 rq s = true → shaped s = true → rq.payload = [m, 0, r, z] → m.toNat % 32 ≠ 0 →
    (r.toNat < 5 ∨ r.toNat = 255) → (m.toNat.testBit 4 = true → paired s = true) → handleFree s = true →
    let b := after 0x30 rq s
    ∃ t, exec (.linkTrainRestart rq) s = answered 0x30 rq { status := stAccepted, handle := newHandle b } t ∧
      t.lnk.restart = s.lnk.restart.filter (fun x => decide (x.mask &&& (m.toNat % 32) = 0)) ++
        [{ mask := m.toNat % 32, handle := newHandle b, src := rq.src }] ∧
      (∀ x ∈ s.lnk.restart, x.mask &&& (m.toNat % 32) ≠ 0 → s.cmd.outstanding.contains x.handle = true →
        ∃ e ∈ t.cmd.cq, e.handle = x.handle ∧ e.opcode = 0x30 ∧ e.status = stSuperseded) ∧
      ∀ l, l < 5 → m.toNat.testBit l = true → laneEnabled t l = true ∧ (laneOf t l).mode = 0 ∧ (laneOf t l).state = .detect ∧
        (laneOf t l).ladderRate = (if r.toNat = 255 then s.lnk.maxRate else r.toNat) ∧
        (s.lnk.refMode ≠ 2 ∨ s.lnk.lref = true →
          (laneOf t l).attempting = true ∧ (laneOf t l).failN = 0 ∧ (laneOf t l).failR = 0 ∧ (laneOf t l).backoffMs = 0 ∧ (laneOf t l).cause = 0) ∧
        (s.lnk.refMode = 2 → s.lnk.lref = false →
          (laneOf t l).attempting = false ∧ (laneOf t l).failN = 1 ∧ (laneOf t l).failR = 1 ∧ (laneOf t l).cause = 6)) ∧
  (∀ (m ms : Nat) (r : Restart) (rs : List Restart) (s : State), lanesUp s = true → s.lnk.restart = r :: rs → m = r.mask →
    (∀ l, l < 5 → m.testBit l = true → laneSettled (laneOf s l) = true) →
    let tr := maskOf ((bitsOf m 5).filter (fun l => (laneOf s l).state = .trained))
    let dn := maskOf ((bitsOf m 5).filter (fun l => (laneOf s l).state = .laneDown))
    exec (.linkTrainComplete ms) s = .next (complete r.handle 0x30 r.src (if tr ≠ 0 then stOk else stFailed) (tr + 256 * dn + 65536 * s.lnk.bondRate) ms
      { s with lnk := { s.lnk with restart := rs.filter (fun x => x.handle ≠ r.handle) } })) ∧
  (∀ (l a b c : Byte) (x : Lane) (rq : Rq) (s : State), admits 0x31 rq s = true → rq.payload = [l, a, b, c] → l.toNat < 5 →
    s.lnk.lanes[l.toNat]? = some x →
    let u := after 0x31 rq s
    (x.state = .test → exec (.laneBitslip rq) s = answered 0x31 rq { status := stOk }
      { u with lnk := { u.lnk with lanes := u.lnk.lanes.set l.toNat { x with slip := (x.slip + 1) % 40 } } }) ∧
    (x.state ≠ .test → exec (.laneBitslip rq) s = answered 0x31 rq { status := stRefused } u)) ∧
  (∀ (l h v d : Byte) (rest : List Byte) (rq : Rq) (s : State), admits 0x32 rq s = true → rq.payload = [l, h, v, d] ++ rest → rest.length = 4 →
    l.toNat < 5 → 1 ≤ h.toNat → h.toNat ≤ 16 → 1 ≤ v.toNat → v.toNat ≤ 16 → 10 ≤ d.toNat → d.toNat ≤ 30 →
    ((laneOf s l.toNat).state = .trained ∨ (laneOf s l.toNat).state = .test) → s.lnk.eye = none → handleFree s = true →
    let u := takeHandle (after 0x32 rq s)
    let hd := newHandle (after 0x32 rq s)
    exec (.eyeScan rq) s = answered 0x32 rq { status := stAccepted, handle := hd }
      { u with lnk := { u.lnk with
          eye := some { lane := l.toNat, hStep := h.toNat, vStep := v.toNat, handle := hd, src := rq.src }, eyeEntries := [], eyeLane := l.toNat } }) ∧
  (∀ (errors : List Nat) (e : EyeRun) (s : State), lanesUp s = true → s.lnk.eye = some e →
    let grid := eyeGrid e.hStep e.vStep
    let all := s.lnk.eyeEntries ++ ((grid.drop s.lnk.eyeEntries.length).zip errors).map (fun p => (p.1.1, p.1.2, min p.2 65535))
    let clear (t p : Int) : Bool := all.any (fun q => q.1 = t && q.2.1 = p && q.2.2 = 0)
    (e.left = false → all.length < grid.length → exec (.eyeScanComplete errors) s = .next { s with lnk := { s.lnk with eyeEntries := all } }) ∧
    (e.left = false → grid.length ≤ all.length → 32 % e.hStep = 0 → exec (.eyeScanComplete errors) s = .next
      (complete e.handle 0x32 e.src stOk (eyeRun (clear 0) e.hStep * e.hStep + eyeRun (fun j => clear j 0) e.vStep * e.vStep * 4 * 65536) all.length
        { s with lnk := { s.lnk with eye := none, eyeEntries := all } })) ∧
    (e.left = true → exec (.eyeScanComplete errors) s = .next (completeOpen e.handle 0x32 e.src stFailed { s with lnk := { s.lnk with eye := none } }))) ∧
  (∀ h v : Nat, (eyeGrid h v).length = (2 * (63 / v) + 1) * (63 / h + 1))

/-- A due formation, or the end of the 10 ms wait, chooses a rate and a mask of host lanes that are in BOND or TRAINED at that rate,
forgets the old bond and interrupts the host path; a lane it leaves out at another rate is PARKED in BOND. With a BOND marker on every
lane of the mask the lanes within 40 ns become the bond at the formation's rate, IN_BOND, deskewed and TRAINED, each with its own
training time, a later one fails with SKEW, and the CLIMB set that then leaves brings the host path up if every lane of the bond is
TRAINED; a formation that times out fails all its lanes and leaves no bond. CLIMB_SEND puts a CLIMB and an ANCHOR set on its line, with
the next two SEQ values. A valid CLIMB set on the twin link agrees the lower proposal in DETECT, ACK sets for another rate counting no
longer, and makes a lane in BOND TRAINED when the partner is; an invalid one is ignored. Loss of signal and a present LREF clock are
noted; AUTO_RETRY starts a lane in LANE_DOWN afresh. Without powered lanes nothing happens. The model's choices in it: the fields of the
sent sets that the rules leave open (log entry 95), what waits while a pattern is sent (log entry 102), which lanes a formation waits
for and when the paths come up (log entry 63), the rounding of the delays and a lane that enters BOND during a formation (log entry
110), and rows that have no effect (log entry 8). -/
def Obligations.BondForms : Prop :=
  (∀ s : State, lanesUp s = true → formationDue s = true →
    ∃ t, exec .bondFormation s = .next t ∧ t.lnk.bondMask = 0 ∧ t.lnk.bondRate = 7 ∧
      t.lnk.formRate = bestRate s (bondCandidates s) ∧
      (∀ l, t.lnk.formMask.testBit l = true ↔
        l < 4 ∧ ((laneOf s l).state = .bond ∨ (laneOf s l).state = .trained) ∧ (laneOf s l).rate = t.lnk.formRate) ∧
      (∀ l, l < 4 → ((laneOf s l).state = .bond ∨ (laneOf s l).state = .trained) → (laneOf s l).rate ≠ t.lnk.formRate →
        (laneOf t l).state = .bond ∧ (laneOf t l).parked = true) ∧
      (t.lnk.forming = true ↔ t.lnk.formMask ≠ 0) ∧ t.rope.host.up = false) ∧
  (∀ (l : Nat) (s : State), lanesUp s = true → s.lnk.bondMask = 0 → s.lnk.forming = false → l < 4 → (laneOf s l).state = .bond →
    (laneOf s l).waitBond = true →
    ∃ t, exec .bondWaitExpiry s = .next t ∧ t.lnk.formRate = bestRate s (bondCandidates s) ∧ t.rope.host.up = false ∧ t.lnk.bondMask = 0) ∧
  (∀ (marks : List BondMark) (s : State), lanesUp s = true → shaped s = true → s.lnk.forming = true → s.lnk.formMask ≠ 0 → s.lnk.bondMask = 0 →
    marks.map (·.lane) = bitsOf s.lnk.formMask 4 →
    (∀ m ∈ marks, m.set.length = 4 ∧ ∃ b, setBytes 0xA7 (laneSymbols s m.lane m.set) = some b ∧ (field b 3 1).testBit 1 = true) →
    ∃ t, exec (.bondMarker marks) s = .next t ∧ t.lnk.forming = false ∧
      (∀ l, t.lnk.bondMask.testBit l = true ↔ ∃ m ∈ marks, m.lane = l ∧ m.delay ≤ 40) ∧
      ((∃ m ∈ marks, m.delay ≤ 40) → t.lnk.bondRate = s.lnk.formRate) ∧
      (∀ m ∈ marks, m.delay ≤ 40 → (laneOf t m.lane).inBond = true ∧ (laneOf t m.lane).skewNs = m.delay ∧ (laneOf t m.lane).deskew ≤ 8 ∧
        ((laneOf s m.lane).state = .bond → (laneOf t m.lane).state = .trained ∧ (laneOf t m.lane).trainMs = min m.ms 65535)) ∧
      (∀ m ∈ marks, 40 < m.delay → (laneOf t m.lane).cause = 3 ∧ (laneOf t m.lane).inBond = false) ∧
      (htxOpen s = true → (∃ m ∈ marks, m.delay ≤ 40) →
        (∀ m ∈ marks, (laneOf s m.lane).state = .bond ∨ (laneOf s m.lane).state = .trained) → t.rope.host.up = true)) ∧
  (∀ s : State, lanesUp s = true → s.lnk.forming = true → s.lnk.lanes.length = 5 →
    ∃ t, exec .bondTimeout s = .next t ∧ t.lnk.bondMask = 0 ∧ t.lnk.bondRate = 7 ∧ t.lnk.forming = false ∧
      ∀ l, l < 4 → s.lnk.formMask.testBit l = true → (laneOf t l).cause = 4 ∧ (laneOf t l).attempting = false) ∧
  (∀ (p : Path) (s : State), let q := (lineOf s p).seq
    let sets := orderedSet (climbBytes p q s) ++ orderedSet (anchorBytes p ((q + 1) % 256) s)
    (p = .host → htxOpen s = true → ∃ t, exec (.climbSend p) s = .next t ∧ t.lnk = { s.lnk with htxLine := sentLine s.lnk.htxLine sets 2 } ∧
      (s.lnk.forming = false → s.lnk.bondMask ≠ 0 → (∀ l, l < 4 → s.lnk.bondMask.testBit l = true → (laneOf s l).state = .trained) →
        t.rope.host.up = true)) ∧
    (p = .twin → twtxSets s = true → ackDue s = false →
      exec (.climbSend p) s = .next { s with lnk := { s.lnk with twtxLine := sentLine s.lnk.twtxLine sets 2 } }) ∧
    (p = .host → htxOpen s = false → exec (.climbSend p) s = .next s) ∧ (p = .twin → twtxSets s = false → exec (.climbSend p) s = .next s)) ∧
  (∀ (set : List LaneWord) (ms : Nat) (x : Lane) (s : State), lanesUp s = true → set.length = 4 → s.lnk.lanes[4]? = some x →
    let u : State := { s with lnk := { s.lnk with lanes := s.lnk.lanes.set 4 (heardLane x set) } }
    (setBytes 0xC3 (laneSymbols s 4 set) = none → exec (.climbReceived set ms) s = .next u) ∧
    (∀ b, setBytes 0xC3 (laneSymbols s 4 set) = some b →
      let partner := field b 1 2 % 16
      let rate := field b 3 2 % 8
      (x.state = .detect → x.attempting = true → rate < 5 → exec (.climbReceived set ms) s = .next { u with lnk := { u.lnk with
        peerBond := s.lnk.peerBond || partner == 5 || partner == 6, twinAgreed := min x.ladderRate rate,
          twinAcks := if min x.ladderRate rate = s.lnk.twinAgreed then s.lnk.twinAcks else 0,
          twinAckSeen := decide (min x.ladderRate rate = s.lnk.twinAgreed) && s.lnk.twinAckSeen } }) ∧
      (x.state = .bond → partner = 5 ∨ partner = 6 →
        ∃ t, exec (.climbReceived set ms) s = .next t ∧ (laneOf t 4).state = .trained ∧ t.rope.twin.up = true ∧ t.lnk.peerBond = true))) ∧
  (∀ (l : Nat) (x : Lane) (s : State), lanesUp s = true → l < 5 → s.lnk.lanes[l]? = some x →
    exec (.losAssert l) s = .next { s with lnk := { s.lnk with lanes := s.lnk.lanes.set l { x with los := true } } } ∧
    ((x.state ≠ .laneDown ∨ s.lnk.autoRetry = false) → ∀ b, exec (.losDeassert l b) s = .next { s with lnk := { s.lnk with lanes := s.lnk.lanes.set l { x with los := false } } }) ∧
    (exec (.losDeassert l false) s = .next { s with lnk := { s.lnk with lanes := s.lnk.lanes.set l { x with los := false } } }) ∧
    (x.state = .laneDown → s.lnk.autoRetry = true → (s.lnk.refMode ≠ 2 ∨ s.lnk.lref = true) →
      (l = 4 ∨ (s.lnk.bondMask.testBit l = false ∧ s.lnk.forming = false)) →
      ∃ t y, exec (.losDeassert l true) s = .next t ∧ t.lnk.lanes[l]? = some y ∧ y.state = .detect ∧ y.attempting = true ∧ y.failN = 0 ∧
        y.ladderRate = s.lnk.maxRate)) ∧
  (∀ s : State, lanesUp s = true → exec (.lrefClockChange true) s = .next { s with lnk := { s.lnk with lref := true } }) ∧
  (∀ (l : Nat) (b : Bool) (w : List LaneWord) (s : State), lanesUp s = false →
    exec (.losAssert l) s = .next s ∧ exec (.losDeassert l b) s = .next s ∧ exec (.lrefClockChange b) s = .next s ∧
    exec (.backoffExpiry l) s = .next s ∧ exec .bondFormation s = .next s ∧ exec .bondTimeout s = .next s ∧
    exec (.anchorReceived l w) s = .next s ∧ exec (.climbReceived w l) s = .next s)

/-! ### Register writes -/

/-- A write that is let through: COMPOSE_LEAD takes its field; FTIMER_CTL takes RATE (up to 5) and LOCK_SRC (up to 2), returns
WRONG_MODE where one of them differs from the value in force outside PILOT and SNUFFED and BAD_PARAM for a new LOCK_SRC that does not
suit the role; larger values leave their field and are no change (the model's choice, log entry 76); ARRAY_CTL takes its bits in SNUFFED
and returns WRONG_MODE for a change elsewhere; HDRM_DUTY is ignored while AUTO = 1, takes 0 and 63 to 1,187 in every mode (the model's
choice, log entry 84) and returns BAD_PARAM else; WICK_DATA changes the selected item in SNUFFED, and returns BAD_PARAM for a selector
outside 8 to 13 and WRONG_MODE for a change elsewhere. WRITE_REG of one word does what its register does; an address that holds no
register is ignored. -/
def Obligations.DriveRegisterWrites : Prop :=
  (∀ (h : Hdr) (w : Word) (s : State), admitsWrite h 0x50108 w.toNat s = true →
    let b := beforeWrite h 0x50108 w.toNat s
    exec (.composeLeadWrite h w) s = wrote h 0x50108 w.toNat { b with ft := { b.ft with leadUs := bits w.toNat 0 16 } }) ∧
  (∀ (h : Hdr) (w : Word) (s : State), admitsWrite h 0x50100 w.toNat s = true →
    let b := beforeWrite h 0x50100 w.toNat s
    let r := bits w.toNat 0 3
    let l := bits w.toNat 4 2
    let newRate := r < 6 ∧ r ≠ s.ft.rateInForce
    let newSrc := l < 3 ∧ l ≠ s.ft.activeSrc
    let free := s.pwr.mode = .pilot ∨ s.pwr.mode = .snuffed ∨ (¬newRate ∧ ¬newSrc)
    let suits := newSrc → (l = 2 ↔ s.twn.cfg.role = 2)
    (free → suits → exec (.ftimerCtlWrite h w) s = wrote h 0x50100 w.toNat
      { b with ft := { b.ft with rate := if r < 6 then r else s.ft.rate, lockSrc := if l < 3 then l else s.ft.lockSrc, fsyncOutEn := w.toNat.testBit 8 } }) ∧
    (¬free → exec (.ftimerCtlWrite h w) s = writeRefused h 0x50100 w.toNat stWrongMode b) ∧
    (free → ¬suits → exec (.ftimerCtlWrite h w) s = writeRefused h 0x50100 w.toNat stBadParam b)) ∧
  (∀ (h : Hdr) (w : Word) (s : State), admitsWrite h 0x50000 w.toNat s = true →
    let b := beforeWrite h 0x50000 w.toNat s
    let same := w.toNat.testBit 0 = s.arr.pcEn ∧ w.toNat.testBit 1 = s.arr.staggerEn
    (s.pwr.mode = .snuffed → exec (.arrayCtlWrite h w) s = wrote h 0x50000 w.toNat
      { b with arr := { b.arr with pcEn := w.toNat.testBit 0, staggerEn := w.toNat.testBit 1 } }) ∧
    (s.pwr.mode ≠ .snuffed → same → exec (.arrayCtlWrite h w) s = wrote h 0x50000 w.toNat b) ∧
    (s.pwr.mode ≠ .snuffed → ¬same → exec (.arrayCtlWrite h w) s = writeRefused h 0x50000 w.toNat stWrongMode b)) ∧
  (∀ (h : Hdr) (w : Word) (s : State), admitsWrite h 0x50024 w.toNat s = true →
    let b := beforeWrite h 0x50024 w.toNat s
    let d := bits w.toNat 0 11
    (s.arr.auto = true → exec (.hdrmDutyWrite h w) s = wrote h 0x50024 w.toNat b) ∧
    (s.arr.auto = false → (d = 0 ∨ (63 ≤ d ∧ d ≤ 1187)) →
      exec (.hdrmDutyWrite h w) s = wrote h 0x50024 w.toNat { b with arr := { b.arr with duty := d } }) ∧
    (s.arr.auto = false → ¬(d = 0 ∨ (63 ≤ d ∧ d ≤ 1187)) → exec (.hdrmDutyWrite h w) s = writeRefused h 0x50024 w.toNat stBadParam b)) ∧
  (∀ (h : Hdr) (w : Word) (s : State), admitsWrite h 0x50034 w.toNat s = true →
    let b := beforeWrite h 0x50034 w.toNat s
    let k := s.arr.wickSel
    let cell := 1440 * s.arr.wickBand + s.arr.wickCol
    (s.pwr.mode = .snuffed → 8 ≤ k → k ≤ 11 → exec (.wickDataWrite h w) s = wrote h 0x50034 w.toNat
      { b with arr := { b.arr with trim := sset b.arr.trim (1440 * (4 * s.arr.wickBand + (k - 8)) + s.arr.wickCol) (bits w.toNat 0 8) } }) ∧
    (s.pwr.mode = .snuffed → k = 12 → exec (.wickDataWrite h w) s = wrote h 0x50034 w.toNat
      { b with arr := { b.arr with preLevel := sset b.arr.preLevel cell (bits w.toNat 0 6) } }) ∧
    (s.pwr.mode = .snuffed → k = 13 → exec (.wickDataWrite h w) s = wrote h 0x50034 w.toNat
      { b with arr := { b.arr with sinkOfs := sset b.arr.sinkOfs cell (sext 6 (bits w.toNat 0 6)) } }) ∧
    ((k < 8 ∨ 13 < k) → exec (.wickDataWrite h w) s = writeRefused h 0x50034 w.toNat stBadParam b) ∧
    (s.pwr.mode ≠ .snuffed → 8 ≤ k → k ≤ 11 → bits w.toNat 0 8 = wickItem s → exec (.wickDataWrite h w) s = wrote h 0x50034 w.toNat
      { b with arr := { b.arr with trim := sset b.arr.trim (1440 * (4 * s.arr.wickBand + (k - 8)) + s.arr.wickCol) (bits w.toNat 0 8) } }) ∧
    (s.pwr.mode ≠ .snuffed → 8 ≤ k → k ≤ 13 → (if k ≤ 11 then bits w.toNat 0 8 else bits w.toNat 0 6) ≠ wickItem s →
      exec (.wickDataWrite h w) s = writeRefused h 0x50034 w.toNat stWrongMode b)) ∧
  (∀ (h : Hdr) (a v : Nat) (s t : State), admitsWrite h a v s = true → a % 4 = 0 → a < 0xF0000 → v < 2 ^ 32 →
    let b := beforeWrite h a v s
    (a / 65536 = 0 → exec (.writeReg (wordRq h a v)) s = wrote h a v b) ∧
    (a = 0x10004 → exec (.writeReg (wordRq h a v)) s = wrote h a v
      { b with pwr := { b.pwr with beamWaitMs := v % 65536, hostTimeoutMs := v / 65536 } }) ∧
    (regWrite a v b = taken t → exec (.writeReg (wordRq h a v)) s = wrote h a v t) ∧
    (∀ st, st ≠ stOk → regWrite a v b = refused st b → exec (.writeReg (wordRq h a v)) s = writeRefused h a v st b))

/-- A write that is let through: the transmitter controls take their fields, a reserved value leaving its field; a layer that was
receiving from the path that LAYER_SRC takes it from breaks; HRX_EN disables and enables lanes at once, and a TRAINED lane beside them
can only be outvoted in the formation that follows; a non-zero MODE puts an enabled lane in TEST at its TEST_RATE and clears the PRBS
counter, and MODE 0 makes a lane that was in a test mode start afresh in DETECT. READ_REG of RAW0 of a lane in RAW mode captures the
word on the line and answers its low 32 bits; in another mode it captures nothing. In a PRBS mode of TEST the line bits go through the
lane's checker: 64 bits in a row that follow the pattern set PRBS_LOCK, fewer do not, and in lock each bit that differs from the pattern
counts one error (the polynomials are PRESUMED, log entry 99). -/
def Obligations.LinkRegisterWrites : Prop :=
  (∀ (h : Hdr) (tw : Bool) (w : Word) (s : State),
    let a := if tw then 0x2000C else 0x20008
    let v := w.toNat
    admitsWrite h a v s = true →
    let b := beforeWrite h a v s
    let upd := fun (t : TxCtl) => ({
      swing := if (4 ≤ bits v 0 4 ∧ bits v 0 4 ≤ 12) then bits v 0 4 else t.swing,
      deemph := if bits v 4 2 < 3 then bits v 4 2 else t.deemph,
      pattern := if bits v 8 3 < 6 then bits v 8 3 else t.pattern } : TxCtl)
    exec (.txPatternWrite h tw w) s = wrote h a v (if tw then { b with lnk := { b.lnk with twtx := upd b.lnk.twtx } }
      else { b with lnk := { b.lnk with htx := upd b.lnk.htx } })) ∧
  (∀ (h : Hdr) (w : Word) (s : State), admitsWrite h 0x20040 w.toNat s = true →
    let b := beforeWrite h 0x20040 w.toNat s
    ∃ t, exec (.layerSrcWrite h w) s = wrote h 0x20040 w.toNat t ∧ t.rope.layerSrc = bits w.toNat 0 6 ∧
      t.rope.statusEn = w.toNat.testBit 8 ∧ t.rope.outcomeEn = w.toNat.testBit 9 ∧
      (∀ n, n < 6 → (w.toNat.testBit n = s.rope.layerSrc.testBit n ∨ (layerOf s n).receiving = false) → layerOf t n = layerOf s n) ∧
      (∀ n, n < 6 → w.toNat.testBit n ≠ s.rope.layerSrc.testBit n → (layerOf s n).receiving = true →
        (layerOf t n).receiving = false ∧ (layerOf t n).back = .empty) ∧
      t.lnk = b.lnk ∧ t.arr = b.arr) ∧
  (∀ (h : Hdr) (w : Word) (s : State), admitsWrite h 0x20000 w.toNat s = true → shaped s = true →
    ∃ t, exec (.hrxEnWrite h w) s = wrote h 0x20000 w.toNat t ∧ t.lnk.hrxEn = bits w.toNat 0 4 ∧
      t.lnk.autoRetry = w.toNat.testBit 14 ∧ t.lnk.autoRejoin = w.toNat.testBit 15 ∧
      t.lnk.maxRate = (if bits w.toNat 8 3 < 5 then bits w.toNat 8 3 else s.lnk.maxRate) ∧
      ∀ l, l < 4 →
        (s.lnk.hrxEn.testBit l = w.toNat.testBit l → ((laneOf s l).state ≠ .trained ∨ (s.lnk.bondMask = 0 ∧ s.lnk.forming = false)) →
          (laneOf t l).state = (laneOf s l).state) ∧
        (s.lnk.hrxEn.testBit l = w.toNat.testBit l → (laneOf s l).state = .trained → (laneOf t l).state = .trained ∨ (laneOf t l).state = .bond) ∧
        (s.lnk.hrxEn.testBit l = true → w.toNat.testBit l = false → (laneOf t l).state = .disabled) ∧
        (s.lnk.hrxEn.testBit l = false → w.toNat.testBit l = true →
          (laneOf t l).state = (if (laneOf s l).mode = 0 then .detect else .test))) ∧
  (∀ (h : Hdr) (l : Nat) (w : Word) (x : Lane) (s : State), l < 5 → admitsWrite h (0x20100 + 0x40 * l) w.toNat s = true →
    s.lnk.lanes[l]? = some x → 1 ≤ bits w.toNat 0 3 → bits w.toNat 0 3 ≤ 4 →
    ∃ t y, exec (.laneTestMode h l w) s = wrote h (0x20100 + 0x40 * l) w.toNat t ∧ t.lnk.lanes[l]? = some y ∧
      y.mode = bits w.toNat 0 3 ∧ y.prbsErrors = 0 ∧ y.prbsLock = false ∧
      (laneEnabled s l = true → y.state = .test ∧ y.rate = y.testRate ∧ y.attempting = false ∧ y.inBond = false) ∧
      (laneEnabled s l = false → y.state = x.state ∧ y.rate = x.rate)) ∧
  (∀ (h : Hdr) (l : Nat) (w : Word) (x : Lane) (s : State), l < 5 → admitsWrite h (0x20100 + 0x40 * l) w.toNat s = true →
    s.lnk.lanes[l]? = some x → bits w.toNat 0 3 = 0 →
    ∃ t y, exec (.laneMissionMode h l w) s = wrote h (0x20100 + 0x40 * l) w.toNat t ∧ t.lnk.lanes[l]? = some y ∧ y.mode = 0 ∧
      y.manualEq = w.toNat.testBit 3 ∧ y.dfeFreeze = w.toNat.testBit 4 ∧
      (laneEnabled s l = true → x.mode ≠ 0 → y.state = .detect ∧ y.ladderRate = s.lnk.maxRate ∧ y.failN ≤ 1) ∧
      (laneEnabled s l = true → x.mode = 0 → y.state = x.state) ∧
      (laneEnabled s l = false → y.state = x.state)) ∧
  (∀ (h : Hdr) (l raw : Nat) (line : List Bool) (x : Lane) (s : State), l < 5 → s.lnk.lanes[l]? = some x →
    let rq : Rq := { src := h.src, tag := h.tag, payload := le 4 (0x20124 + 0x40 * l) ++ le 2 1 ++ le 2 0 }
    admits 0x03 rq s = true →
    let b := after 0x03 rq s
    (x.mode = 4 → exec (.rawCapture h l raw line) s = answered 0x03 rq { status := stOk, payload := le 4 (raw % 2 ^ 32) }
      { b with lnk := { b.lnk with lanes := b.lnk.lanes.set l { x with raw := raw % 2 ^ 40 } } }) ∧
    (x.mode ≠ 4 → (x.state ≠ .test ∨ x.mode = 0) →
      exec (.rawCapture h l raw line) s = answered 0x03 rq { status := stOk, payload := le 4 (x.raw % 2 ^ 32) } b) ∧
    (x.state = .test → 1 ≤ x.mode → x.mode ≤ 3 → 
      exec (.rawCapture h l raw line) s = answered 0x03 rq { status := stOk, payload := le 4 (x.raw % 2 ^ 32) }
        { b with lnk := { b.lnk with lanes := b.lnk.lanes.set l (line.foldl prbsBit x) } })) ∧
  (∀ (x : Lane) (line more : List Bool), x.prbsLock = false → x.prbsRun = 0 →
    let want (z : Lane) : Bool := z.prbsReg.testBit ((prbsTaps z.mode).1 - 1) != z.prbsReg.testBit ((prbsTaps z.mode).2 - 1)
    let ok (p : List Bool) (c : Bool) : Prop := c = want (p.foldl prbsBit x) ∧ (p.foldl prbsBit x).prbsReg ≠ 0
    (∀ p c q, line = p ++ c :: q → ok p c) →
    let y := line.foldl prbsBit x
    (line.length < 64 → y.prbsLock = false ∧ y.prbsErrors = x.prbsErrors) ∧
    (line.length = 64 → y.prbsLock = true ∧ y.prbsErrors = x.prbsErrors ∧
      (more.foldl prbsBit y).prbsLock = true ∧
      ∀ p c q, more = p ++ c :: q →
        (prbsBit (p.foldl prbsBit y) c).prbsErrors = (if c = want (p.foldl prbsBit y) then (p.foldl prbsBit y).prbsErrors
          else min ((p.foldl prbsBit y).prbsErrors + 1) (2 ^ 32 - 1))))

/-- A byte fed to an enabled unit of source 0 runs through its polynomial and counts; RESTART loads INIT and clears BYTES; CAPTURE fixes
the result, counts, and compares where CMP_EN is set; a unit that is enabled refuses a change of its shape with BUSY, and a WIDTH
outside 8 to 32 is BAD_PARAM. A write to FLT_LATCHED that names classes clears them, then takes the events of that clock, judged against
the flags as they stood before it, and re-kindles with ENTRY_CAUSE 2 where a device in SNUFFED is left with no hold; a write to
FLT_ACKED acknowledges, with the events of its clock taken in the same way; SELFTEST outside SNUFFED returns WRONG_MODE, in SNUFFED it
raises a self-fault. The model's choices in it: BAD_PARAM before BUSY, an unchanged GU_CTL write, and FLT_LATCHED without a class bit
(log entry 65). -/
def Obligations.CheckAndFaultWrites : Prop :=
  (∀ (h : Hdr) (n : Nat) (w : Word) (g : Gu) (s : State), n < 8 → admitsWrite h (0x7011C + 0x40 * n) w.toNat s = true →
    s.chk.gus[n]? = some g →
    let b := beforeWrite h (0x7011C + 0x40 * n) w.toNat s
    (g.en = true → g.src = 0 → exec (.guFeed h n w) s = wrote h (0x7011C + 0x40 * n) w.toNat
      { b with chk := { b.chk with gus := b.chk.gus.set n { g with
          value := crcRun g.width (g.poly % 2 ^ g.width) g.refin (g.value % 2 ^ g.width) [BitVec.ofNat 8 w.toNat], bytes := (g.bytes + 1) % 2 ^ 32 } } }) ∧
    ((g.en = false ∨ g.src ≠ 0) → exec (.guFeed h n w) s = wrote h (0x7011C + 0x40 * n) w.toNat b)) ∧
  (∀ (h : Hdr) (n : Nat) (w : Word) (g : Gu) (s : State), n < 8 → admitsWrite h (0x70100 + 0x40 * n) w.toNat s = true →
    s.chk.gus[n]? = some g →
    let v := w.toNat
    let b := beforeWrite h (0x70100 + 0x40 * n) v s
    let legal := 8 ≤ bits v 16 6 ∧ bits v 16 6 ≤ 32 ∧ guSrcOk (bits v 24 6) = true
    let same := bits v 16 6 = g.width ∧ v.testBit 1 = g.refin ∧ v.testBit 2 = g.refout ∧ bits v 24 6 = g.src
    let f : Gu := { g with en := v.testBit 0, refin := v.testBit 1, refout := v.testBit 2, cmpEn := v.testBit 3,
                           level := if bits v 4 3 < 5 then bits v 4 3 else g.level, width := bits v 16 6, src := bits v 24 6,
                           compared := g.compared && (g.cmpEn || !v.testBit 3) }
    (legal → (g.en = false ∨ same) → v.testBit 8 = true → v.testBit 9 = false →
      exec (.guRestart h n w) s = wrote h (0x70100 + 0x40 * n) v
        { b with chk := { b.chk with gus := b.chk.gus.set n { f with value := f.init % 2 ^ f.width, bytes := 0 } } }) ∧
    (legal → (g.en = false ∨ same) → v.testBit 8 = false → v.testBit 9 = true →
      ∃ t y, exec (.guCapture h n w) s = wrote h (0x70100 + 0x40 * n) v t ∧ t.chk.gus[n]? = some y ∧ y.result = guValue f ∧
        y.captures = min 65535 (g.captures + 1) ∧ y.value = g.value ∧ y.bytes = g.bytes ∧
        (f.cmpEn = false → y.mism = g.mism ∧ recordsOnly { b with chk := t.chk } t) ∧
        (f.cmpEn = true → y.compared = true ∧ (y.mism = true ↔ guValue f ≠ g.expect % 2 ^ f.width))) ∧
    (¬legal → exec (.guRestart h n w) s = writeRefused h (0x70100 + 0x40 * n) v stBadParam b ∧
      exec (.guCapture h n w) s = writeRefused h (0x70100 + 0x40 * n) v stBadParam b) ∧
    (legal → g.en = true → ¬same → exec (.guRestart h n w) s = writeRefused h (0x70100 + 0x40 * n) v stBusy b ∧
      exec (.guCapture h n w) s = writeRefused h (0x70100 + 0x40 * n) v stBusy b)) ∧
  (∀ (h : Hdr) (w : Word) (during : List RawEvent) (s : State), admitsWrite h 0x80010 w.toNat s = true →
    let b := beforeWrite h 0x80010 w.toNat s
    let mask := bits w.toNat 1 17 * 2
    let t := sameClock b.flt during (clearClasses mask b)
    (w.toNat % 2 ^ 18 < 2 → exec (.fltLatchedWrite h w during) s = wrote h 0x80010 w.toNat (sameClock b.flt during b)) ∧
    (2 ≤ w.toNat % 2 ^ 18 → (t.pwr.mode ≠ .snuffed ∨ anyHold t.flt = true) →
      exec (.fltLatchedWrite h w during) s = wrote h 0x80010 w.toNat t) ∧
    (2 ≤ w.toNat % 2 ^ 18 → t.pwr.mode = .snuffed → anyHold t.flt = false →
      exec (.fltLatchedWrite h w during) s = wrote h 0x80010 w.toNat (rekindle 2 t) ∧ (rekindle 2 t).pwr.mode = .kindle ∧
        (rekindle 2 t).pwr.entryCause = 2)) ∧
  (∀ (h : Hdr) (w : Word) (during : List RawEvent) (s : State), admitsWrite h 0x80014 w.toNat s = true →
    let b := beforeWrite h 0x80014 w.toNat s
    exec (.fltAckedWrite h w during) s =
      wrote h 0x80014 w.toNat (sameClock b.flt during (ackClasses (bits w.toNat 1 17 * 2) b))) ∧
  (∀ (h : Hdr) (w : Word) (s : State), admitsWrite h 0x80014 w.toNat s = true → shaped s = true →
    ∃ t, exec (.fltAckedWrite h w []) s = wrote h 0x80014 w.toNat t ∧
      ∀ c, 1 ≤ c → c < 18 →
        ((classOf t.flt c).acked = true ↔ ((classOf (beforeWrite h 0x80014 w.toNat s).flt c).acked = true ∨
          (w.toNat.testBit c = true ∧ (classOf (beforeWrite h 0x80014 w.toNat s).flt c).level ≠ 0)))) ∧
  (∀ (h : Hdr) (w : Word) (s : State), admitsWrite h 0x80000 w.toNat s = true → w.toNat.testBit 8 = true →
    (s.pwr.mode ≠ .snuffed → exec (.selftest h w) s = writeRefused h 0x80000 w.toNat stWrongMode (beforeWrite h 0x80000 w.toNat s)) ∧
    (s.pwr.mode = .snuffed → ∃ t, exec (.selftest h w) s = wrote h 0x80000 w.toNat t ∧ t.flt.selfFault = true ∧
      t.flt.selfCompare = true ∧ t.flt.selfCount = min 255 (s.flt.selfCount + 1) ∧ t.pwr.mode = .snuffed ∧ t.flt.hist.length = 1))

/-! ### The front end -/

/-- While the SPI port drives its output, the first byte of an SPI transaction decides its kind; a port that does not drive it shifts
nothing out. A 0xA5 request that passes its checks waits, the status byte and zeros going out; one while a request executes is dropped
with cause 2, one shorter than a header with cause 1; a bad CRC is answered BAD_CRC, a repeated ALIVE with the stored reply, an unknown
opcode BAD_OPCODE; 0x96 shifts the status byte and the reply out and consumes a reply gone out whole; any other first byte is void,
cause 4. A 0xA5 request past the point of no return of a sleep entry is dropped without a reply (that it counts with cause 3 is the
model's choice, log entry 107). A valid COMMAND packet of a path that is up counts and waits likewise, with cause 3 for a closed port, 1
for another first byte, 2 for a full queue; the twin's answer to GET_INFO is kept. REPLY_SEND sends the oldest formed reply in a COMMAND
packet, on HTX after a CLIMB set and only when no STATUS waits. -/
def Obligations.FrontEndTakesFrames : Prop :=
  (∀ (rest : List Byte) (s : State), portsOpen s = true → s.mem.assigning = none → s.cmd.queue = [] →
    let bytes := (0xA5 : Byte) :: rest
    let out := statusByte s :: List.replicate rest.length 0
    let b := { s with cmd := { s.cmd with sdo := out } }
    (bytes.length < 8 → exec (.spiRequestTransaction bytes) s = .next (dropRequest .spi 1 b)) ∧
    (8 ≤ bytes.length → packetGood bytes = true → isRepeat bytes s.cmd.spi = false → knownOpcodes.contains (field bytes 1 1) = true →
      exec (.spiRequestTransaction bytes) s = .next { s with cmd := { s.cmd with sdo := out, queue := [{ src := .spi, bytes := bytes }] } }) ∧
    (8 ≤ bytes.length → packetGood bytes = true → isRepeat bytes s.cmd.spi = false → knownOpcodes.contains (field bytes 1 1) = false →
      exec (.spiRequestTransaction bytes) s =
        .next (respond .spi (field bytes 1 1) (field bytes 2 1) { status := stBadOpcode } (takeAlive .spi bytes b))) ∧
    (8 ≤ bytes.length → packetGood bytes = false →
      ∃ t, exec (.spiRequestTransaction bytes) s = .next t ∧ t.cmd.queue = [] ∧ t.cmd.spi.badCrc = min 65535 (s.cmd.spi.badCrc + 1) ∧
        t.cmd.spiReply = some (replyBytes (field bytes 1 1) (field bytes 2 1) { status := stBadCrc }) ∧
        t.cmd.spi.executed = s.cmd.spi.executed ∧ t.cmd.sdo = out ∧ frontEndOnly s t) ∧
    (8 ≤ bytes.length → packetGood bytes = true → isRepeat bytes s.cmd.spi = true →
      exec (.spiRequestTransaction bytes) s = .next { s with cmd := { s.cmd with
        sdo := out, spi := { s.cmd.spi with repeats := min 65535 (s.cmd.spi.repeats + 1) }, spiReply := some s.cmd.spi.stored } })) ∧
  (∀ (rest : List Byte) (s : State), portsOpen s = true → executing s = true →
    exec (.spiRequestTransaction (0xA5 :: rest)) s = .next (dropRequest .spi 2
      { s with cmd := { s.cmd with sdo := statusByte s :: List.replicate rest.length 0 } })) ∧
  (∀ (rest r : List Byte) (s : State), spiDrives s = true → s.cmd.spiReply = some r →
    let t := { s with cmd := { s.cmd with
      sdo := statusByte s :: slice r 0 rest.length, spiReply := if r.length ≤ rest.length then none else some r } }
    exec (.spiReadTransaction rest.length) s = .next t ∧ exec (.spiRequestTransaction (0x96 :: rest)) s = .next t) ∧
  (∀ (c : Byte) (rest : List Byte) (s : State), spiDrives s = true →
    let t := dropRequest .spi 4 { s with cmd := { s.cmd with sdo := statusByte s :: List.replicate rest.length 0 } }
    exec (.spiVoidTransaction rest.length) s = .next t ∧
    (c ≠ 0xA5 → c ≠ 0x96 → exec (.spiRequestTransaction (c :: rest)) s = .next t)) ∧
  (∀ (rest : List Byte) (s : State), spiDrives s = true → portsOpen s = false →
    exec (.spiRequestTransaction (0xA5 :: rest)) s = .next (dropRequest .spi 3
      { s with cmd := { s.cmd with sdo := statusByte s :: List.replicate rest.length 0 } })) ∧
  (∀ (bytes : List Byte) (n : Nat) (s : State), spiDrives s = false →
    exec (.spiRequestTransaction bytes) s = .next { s with cmd := { s.cmd with sdo := [] } } ∧
    exec (.spiReadTransaction n) s = .next { s with cmd := { s.cmd with sdo := [] } } ∧
    exec (.spiVoidTransaction n) s = .next { s with cmd := { s.cmd with sdo := [] } }) ∧
  (∀ (p : Path) (cols : List (List LaneWord)) (r : Rx) (s : State), brings p cols r s → r.out = .whole → hdrType r.hdr = 0x10 →
    let b := countPacket p (heard p cols s)
    let x : Src := if p = .host then .inband else .twin
    (validPacket s p r.hdr = false → exec (.commandPacket p cols) s = .next (invalidPacket p b)) ∧
    (validPacket s p r.hdr = true → r.body.head? = some 0xA5 → portsOpen s = false →
      exec (.commandPacket p cols) s = .next (dropRequest x 3 b)) ∧
    (validPacket s p r.hdr = true → r.body.head? ≠ some 0xA5 → (p = .host ∨ r.body.head? ≠ some 0x5A) → portsOpen s = true → s.cmd.queue = [] →
      exec (.commandPacket p cols) s = .next (dropRequest x 1 b)) ∧
    (validPacket s p r.hdr = true → 12 ≤ r.body.length → r.body.head? = some 0xA5 → portsOpen s = true → s.mem.assigning = none →
      s.cmd.queue = [] → packetGood r.body = true → isRepeat r.body (srcOf s x) = false → knownOpcodes.contains (field r.body 1 1) = true →
      exec (.commandPacket p cols) s = .next { b with cmd := { b.cmd with queue := [{ src := x, bytes := r.body }] } }) ∧
    (validPacket s p r.hdr = true → r.body.head? = some 0xA5 → portsOpen s = true →
      (if p = .host then 8 else 4) ≤ (s.cmd.queue.filter (fun w => w.src = x)).length →
      exec (.commandPacket p cols) s = .next (dropRequest x 2 b))) ∧
  (∀ (p : Path) (cols : List (List LaneWord)) (s : State),
    ((lanesUp s = false ∨ wholeOf 0x10 (rxOf p cols s) = false) → exec (.commandPacket p cols) s = .next s) ∧
    (lanesUp s = true → wholeOf 0x10 (rxOf p cols s) = true → (pathOf s p).up = false →
      exec (.commandPacket p cols) s = .next (takeColumns p cols s))) ∧
  (∀ (cols : List (List LaneWord)) (r : Rx) (s : State), brings .twin cols r s → r.out = .whole → hdrType r.hdr = 0x10 →
    validPacket s .twin r.hdr = true → r.body.head? = some 0x5A →
    let b := countPacket .twin (heard .twin cols s)
    let own := s.twn.infoWait = true ∧ field r.body 1 1 = 1 ∧ field r.body 3 1 = 0 ∧ field r.body 4 2 = 64 ∧ r.body.length = 76 ∧
      crc32c (r.body.take 72) = field r.body 72 4
    (own → exec (.twinInfoReply cols) s = .next { b with twn := { b.twn with
      infoWait := false, peerUid0 := field r.body 24 4, peerUid1 := field r.body 28 4, peerRom := field r.body 36 4 } }) ∧
    (¬own → exec (.twinInfoReply cols) s = .next b) ∧ exec (.commandPacket .twin cols) s = exec (.twinInfoReply cols) s) ∧
  (∀ (b : List Byte) (r : List (List Byte)) (s : State),
    (htxOpen s = true → s.rope.statusDue = [] → s.rope.htxReplies = b :: r → exec (.replySend .host) s = .next (climbShown { s with
      rope := { s.rope with htxReplies := r, repliesSent := (s.rope.repliesSent + 1) % 65536 }
      lnk := { s.lnk with htxLine := sentLine s.lnk.htxLine (orderedSet (climbBytes .host s.lnk.htxLine.seq s) ++ packetSyms 1 0x10 0 [] b) 1 } })) ∧
    (twtxOpen s = true → s.rope.twtxReplies = b :: r → exec (.replySend .twin) s = .next { s with
      rope := { s.rope with twtxReplies := r }, lnk := { s.lnk with twtxLine := sentLine s.lnk.twtxLine (packetSyms 1 0x10 0 [] b) 0 } }) ∧
    ((htxOpen s = false ∨ s.rope.statusDue ≠ [] ∨ s.rope.htxReplies = []) → exec (.replySend .host) s = .next s))

/-- The first request of a source, one with SYNC set, and one whose ALIVE differs from the reference are no repeats; one with the
reference's ALIVE is. A request taken moves the reference to its ALIVE and counts; with SYNC or without a reference, or with the value
that follows it, it counts no gap; any other counts one gap and records SEQ_GAP with the source, the reference, the ALIVE received and
the gaps counted. Nothing but the front end, the last source and what recording touches changes. -/
def Obligations.AliveRule : Prop :=
  (∀ (b : List Byte) (q : SrcState), isRepeat b q = true ↔ (q.valid = true ∧ (field b 3 1).testBit 0 = false ∧ aliveOf b = q.ref)) ∧
  (∀ (x : Src) (b : List Byte) (s : State),
    let q := srcOf s x
    let t := takeAlive x b s
    let moved (gaps : Nat) : State := { modSrc x (fun k => { k with ref := aliveOf b, valid := true, executed := min 65535 (q.executed + 1), gaps := gaps }) s with
      pwr := { s.pwr with hostSrc := srcNo x } }
    (srcOf t x).ref = aliveOf b ∧ (srcOf t x).valid = true ∧ (srcOf t x).executed = min 65535 (q.executed + 1) ∧
    ((q.valid = false ∨ (field b 3 1).testBit 0 = true ∨ aliveOf b = (q.ref + 1) % 16) → q.ref < 16 →
      (srcOf t x).gaps = q.gaps ∧ t.evr = s.evr ∧ t = moved q.gaps) ∧
    (q.valid = true → (field b 3 1).testBit 0 = false → q.ref < 16 → aliveOf b ≠ (q.ref + 1) % 16 →
      (srcOf t x).gaps = min 65535 (q.gaps + 1) ∧
      t = note (ev 0x0D02 (srcNo x) q.ref (aliveOf b) (min 65535 (q.gaps + 1))) (moved (min 65535 (q.gaps + 1)))) ∧
    (∀ y, y ≠ x → srcOf t y = srcOf s y) ∧ frontEndOnly s t)

/-! ### The access window and the common store -/

/-- A write of OP 1 to 6 to MEM_WIN_CMD starts that operation with the address and data of that moment, and each of them is BUSY while
one runs. At its end, granted by a bank of the window's own use and with a sound word: READ64 gives the word; WRITE64 stores the data;
FADD32 and FADD64 add modulo 2^32 and 2^64 and give the old value; SWAP32 and SWAP64 exchange; a 32-bit atomic leaves the other half.
Every other word of the store stays. A poisoned word ends every operation but WRITE64 with STATUS 2, a misaligned address with STATUS 3
and a bank that the window may not use with STATUS 1, the memory unchanged; a request that its bank cannot grant, being in handover, or
does not choose among those that wait there waits at the bank, counted, with the operation kept, and is presented once. A 32-bit atomic
leaves DATA1. The model's choice in it: the data registers after a poisoned or refused operation are free values (log entry 53), and the
window's wait is an operand of the row (log entry 100). -/
def Obligations.WindowOperates : Prop :=
  (∀ (h : Hdr) (s : State), admitsWrite h 0xC004C 1 s = true ∧ admitsWrite h 0xC004C 2 s = true ∧ admitsWrite h 0xC004C 3 s = true ∧
    admitsWrite h 0xC004C 4 s = true ∧ admitsWrite h 0xC004C 5 s = true ∧ admitsWrite h 0xC004C 6 s = true →
    let b := fun v => beforeWrite h 0xC004C v s
    let go := fun v => wrote h 0xC004C v { b v with mem := { (b v).mem with winOp := some (v, s.mem.winAddr, s.mem.winData0, s.mem.winData1) } }
    (s.mem.winOp = none → exec (.read64 h) s = go 1 ∧ exec (.write64 h) s = go 2 ∧ exec (.fadd32 h) s = go 3 ∧ exec (.fadd64 h) s = go 4 ∧
      exec (.swap32 h) s = go 5 ∧ exec (.swap64 h) s = go 6) ∧
    (s.mem.winOp ≠ none → exec (.read64 h) s = writeRefused h 0xC004C 1 stBusy (b 1) ∧ exec (.write64 h) s = writeRefused h 0xC004C 2 stBusy (b 2) ∧
      exec (.fadd32 h) s = writeRefused h 0xC004C 3 stBusy (b 3) ∧ exec (.fadd64 h) s = writeRefused h 0xC004C 4 stBusy (b 4) ∧
      exec (.swap32 h) s = writeRefused h 0xC004C 5 stBusy (b 5) ∧ exec (.swap64 h) s = writeRefused h 0xC004C 6 stBusy (b 6))) ∧
  (∀ (op addr d0 d1 wait : Nat) (ecc : Ecc) (s : State), storeUp s = true → canonical s = true → shaped s = true →
    s.mem.winOp = some (op, addr, d0, d1) → 1 ≤ op →
    op ≤ 6 → addr < 2 ^ 24 → bankAt s addr < 64 → d0 < 2 ^ 32 → d1 < 2 ^ 32 → addr % (if op = 3 ∨ op = 5 then 4 else 8) = 0 →
    let k := bankOf s (bankAt s addr)
    k.handover = none → k.use = 3 →
    (k.waits = [] ∨ ((∀ x ∈ k.waits, x.m ≠ 26) ∧
      arbitrate { k with waits := k.waits ++ [{ m := 26, addr := addr, op := .window, age := wait }] } =
        some { m := 26, addr := addr, op := .window, age := wait })) →
    let old := leVal (wordAt s addr)
    let hi := addr / 4 % 2
    let half := if hi = 1 then old / 2 ^ 32 else old % 2 ^ 32
    let bad := ecc = .uncorrectable ∨ s.mem.errWords.contains (physOf s addr / 8) = true
    ((op = 2 ∨ ¬bad) → ∃ t, exec (.windowOpComplete wait ecc) s = .next t ∧ t.mem.winStatus = 0 ∧ t.mem.winOp = none ∧
      (∀ a, physOf s a ≠ physOf s addr → wordAt t a = wordAt s a) ∧
      (op = 1 → t.mem.cells = s.mem.cells ∧ t.mem.winData0 + t.mem.winData1 * 2 ^ 32 = old) ∧
      (op = 2 → leVal (wordAt t addr) = d0 + d1 * 2 ^ 32 ∧ t.mem.winData0 = s.mem.winData0 ∧ t.mem.winData1 = s.mem.winData1 ∧
        t.mem.errWords.contains (physOf s addr / 8) = false) ∧
      (op = 3 → t.mem.winData0 = half ∧ t.mem.winData1 = s.mem.winData1 ∧ leVal (wordAt t addr) =
        (if hi = 1 then old % 2 ^ 32 + (half + d0) % 2 ^ 32 * 2 ^ 32 else (half + d0) % 2 ^ 32 + old / 2 ^ 32 * 2 ^ 32)) ∧
      (op = 4 → t.mem.winData0 + t.mem.winData1 * 2 ^ 32 = old ∧ leVal (wordAt t addr) = (old + (d0 + d1 * 2 ^ 32)) % 2 ^ 64) ∧
      (op = 5 → t.mem.winData0 = half ∧ t.mem.winData1 = s.mem.winData1 ∧ leVal (wordAt t addr) =
        (if hi = 1 then old % 2 ^ 32 + d0 * 2 ^ 32 else d0 + old / 2 ^ 32 * 2 ^ 32)) ∧
      (op = 6 → t.mem.winData0 + t.mem.winData1 * 2 ^ 32 = old ∧ leVal (wordAt t addr) = d0 + d1 * 2 ^ 32)) ∧
    (op ≠ 2 → bad → ∃ t, exec (.windowOpComplete wait ecc) s = .next t ∧ t.mem.winStatus = 2 ∧ t.mem.winOp = none ∧
      t.mem.cells = s.mem.cells ∧ t.mem.errWords.contains (physOf s addr / 8) = true ∧ t.mem.eccUncorr = min 65535 (s.mem.eccUncorr + 1) ∧
      ((op = 3 ∨ op = 5) → t.mem.winData1 = s.mem.winData1))) ∧
  (∀ (op addr d0 d1 wait : Nat) (ecc : Ecc) (s : State), storeUp s = true → s.mem.winOp = some (op, addr, d0, d1) →
    (addr % (if op = 3 ∨ op = 5 then 4 else 8) ≠ 0 →
      exec (.windowOpComplete wait ecc) s = .next { s with mem := { s.mem with winStatus := 3, winOp := none } }) ∧
    (addr % (if op = 3 ∨ op = 5 then 4 else 8) = 0 →
      let n := bankAt s addr
      let k := bankOf s n
      let c : Claim := { m := 26, addr := addr, op := .window, age := wait }
      ((∃ x ∈ k.waits, x.m = 26) → exec (.windowOpComplete wait ecc) s = .next s) ∧
      ((∀ x ∈ k.waits, x.m ≠ 26) → (k.handover ≠ none ∨ arbitrate { k with waits := k.waits ++ [c] } ≠ some c) →
        exec (.windowOpComplete wait ecc) s = .next { waited 26 0 wait s with mem := { (waited 26 0 wait s).mem with
          banks := s.mem.banks.set n { k with waits := k.waits ++ [c] } } }))) ∧
  (∀ (op addr d0 d1 wait : Nat) (ecc : Ecc) (s : State), storeUp s = true → shaped s = true → s.mem.winOp = some (op, addr, d0, d1) →
    1 ≤ op → op ≤ 6 → bankAt s addr < 64 → addr % (if op = 3 ∨ op = 5 then 4 else 8) = 0 → (bankOf s (bankAt s addr)).handover = none →
    (bankOf s (bankAt s addr)).waits = [] →
    (if op = 1 then mayRead (bankOf s (bankAt s addr)).use 6 = false else (bankOf s (bankAt s addr)).use ≠ 3) →
    ∃ t, exec (.windowOpComplete wait ecc) s = .next t ∧ t.mem.winStatus = 1 ∧ t.mem.winOp = none ∧ t.mem.cells = s.mem.cells ∧
      t.mem.nonOwner = min 65535 (s.mem.nonOwner + 1) ∧ t.mem.nonOwnerBank = bankAt s addr ∧ t.mem.nonOwnerPort = 6 ∧
      (op = 2 → t.mem.winData0 = s.mem.winData0 ∧ t.mem.winData1 = s.mem.winData1))

/-- A write of MEM_BANKb.USE, outside KINDLE, of another use than 2 to a bank below 60 that no pool and no configured layer holds begins
that bank's handover, and one that is held is REFUSED unless it becomes the use of the link; USE 2 and a bank from 60 are REFUSED,
whatever the value in force, and return WRONG_MODE in KINDLE; of the other banks the use in force changes nothing, and a change returns
WRONG_MODE in KINDLE. STORE_ASSIGN begins the handover of every bank of its range whose use differs, and returns REFUSED with the lowest
bank that a pool or a layer holds; a POOL, which may be of no bank, hands over every bank of the old and the new pool, is REFUSED with
the lowest of them that a layer holds, and does nothing where the pool stands already or none is to be moved. While any bank is being
handed over the reply is held; HANDOVER_COMPLETE puts the bank's use in force, and the last one puts the new mapping in force and sends
the reply. The model's choices in it: the reply waits for all handovers of the request, and an unchanged USE passes where the bank's use
can be changed at all (log entry 55). -/
def Obligations.BankHandovers : Prop :=
  (∀ (h : Hdr) (n : Nat) (w : Word) (k : Bank) (s : State), n < 64 → admitsWrite h (0xC0100 + 4 * n) w.toNat s = true → s.mem.banks[n]? = some k →
    let u := w.toNat % 4
    let b := beforeWrite h (0xC0100 + 4 * n) w.toNat s
    (u = k.use → u ≠ 2 → n < 60 → exec (.bankUseWrite h n w) s = wrote h (0xC0100 + 4 * n) w.toNat b) ∧
    ((u ≠ k.use ∨ u = 2 ∨ 60 ≤ n) → s.pwr.mode = .kindle → exec (.bankUseWrite h n w) s = writeRefused h (0xC0100 + 4 * n) w.toNat stWrongMode b) ∧
    (s.pwr.mode ≠ .kindle → (u = 2 ∨ 60 ≤ n) → exec (.bankUseWrite h n w) s = writeRefused h (0xC0100 + 4 * n) w.toNat stRefused b) ∧
    (u ≠ k.use → s.pwr.mode ≠ .kindle → u ≠ 2 → u ≠ 1 → n < 60 → (k.pooled = true ∨ (usedBanks s).contains n = true) →
      exec (.bankUseWrite h n w) s = writeRefused h (0xC0100 + 4 * n) w.toNat stRefused b) ∧
    (u ≠ k.use → s.pwr.mode ≠ .kindle → u ≠ 2 → n < 60 → (u = 1 ∨ (k.pooled = false ∧ (usedBanks s).contains n = false)) →
      exec (.bankUseWrite h n w) s = wrote h (0xC0100 + 4 * n) w.toNat
        { b with mem := { b.mem with banks := b.mem.banks.set n { k with handover := some u } } })) ∧
  (∀ (f c u x0 x1 x2 x3 : Byte) (rq : Rq) (s : State), admits 0xA0 rq s = true → s.pwr.mode ≠ .kindle → shaped s = true →
    rq.payload = [0, f, c, u, x0, x1, x2, x3] → 1 ≤ c.toNat → f.toNat + c.toNat ≤ 60 → u.toNat ≤ 3 → u.toNat ≠ 2 →
    let held := fun n => u.toNat ≠ 1 ∧ ((bankOf s n).pooled = true ∨ (usedBanks s).contains n = true)
    ((∀ n, f.toNat ≤ n → n < f.toNat + c.toNat → ¬held n) →
      ∃ t, exec (.storeAssign rq) s = answered 0xA0 rq { status := stOk } t ∧
        ∀ n, n < 64 → bankOf t n = if (f.toNat ≤ n ∧ n < f.toNat + c.toNat ∧ (bankOf s n).use ≠ u.toNat)
          then { bankOf s n with handover := some u.toNat } else bankOf s n) ∧
    (∀ n, f.toNat ≤ n → n < f.toNat + c.toNat → held n → (∀ m, f.toNat ≤ m → m < n → ¬held m) →
      exec (.storeAssign rq) s = answered 0xA0 rq { status := stRefused, payload := le 2 n } (after 0xA0 rq s))) ∧
  (∀ (b p x0 x1 x2 x3 x4 : Byte) (rq : Rq) (s : State), admits 0xA0 rq s = true → s.pwr.mode ≠ .kindle → shaped s = true →
    rq.payload = [1, b, p, x0, x1, x2, x3, x4] →
    (p.toNat = 0 ∨ ((p.toNat = 8 ∨ p.toNat = 16 ∨ p.toNat = 32) ∧ b.toNat % p.toNat = 0 ∧ b.toNat + p.toNat ≤ 60)) →
    let old := fun n => s.mem.poolBase ≤ n ∧ n < s.mem.poolBase + poolBanks s.mem.poolSize
    let new := fun n => b.toNat ≤ n ∧ n < b.toNat + p.toNat
    let moved := fun n => n < 60 ∧ (old n ∨ new n)
    let stays := (p.toNat ≠ 0 ∧ poolBanks s.mem.poolSize = p.toNat ∧ b.toNat = s.mem.poolBase) ∨ ∀ n, ¬moved n
    (∀ n, moved n → (usedBanks s).contains n = true → (∀ m, m < n → moved m → (usedBanks s).contains m = false) →
      exec (.storePool rq) s = answered 0xA0 rq { status := stRefused, payload := le 2 n } (after 0xA0 rq s)) ∧
    ((∀ n, moved n → (usedBanks s).contains n = false) → stays → exec (.storePool rq) s = answered 0xA0 rq { status := stOk } (after 0xA0 rq s)) ∧
    ((∀ n, moved n → (usedBanks s).contains n = false) → ¬stays →
      ∃ t, exec (.storePool rq) s = answered 0xA0 rq { status := stOk } t ∧ t.mem.poolSize = s.mem.poolSize ∧ t.mem.poolBase = s.mem.poolBase ∧
        (∃ code, t.mem.poolNext = some (if p.toNat = 0 then 0 else b.toNat, code) ∧ poolBanks code = p.toNat) ∧
        (∀ n, n < 64 → moved n → bankOf t n = { bankOf s n with handover := some 1 }) ∧
        ∀ n, n < 64 → ¬moved n → bankOf t n = bankOf s n)) ∧
  (∀ (n u : Nat) (k : Bank) (s : State), storeUp s = true → n < 64 → s.mem.banks[n]? = some k → k.handover = some u →
    ((∃ m k', m ≠ n ∧ s.mem.banks[m]? = some k' ∧ k'.handover ≠ none) →
      exec (.handoverComplete n) s = .next { s with mem := { s.mem with banks := s.mem.banks.set n { k with use := u, handover := none } } }) ∧
    ((∀ m k', m ≠ n → s.mem.banks[m]? = some k' → k'.handover = none) → s.mem.poolNext = none → s.cmd.queue = [] →
      ∃ t, exec (.handoverComplete n) s = .next t ∧ t.mem.assigning = none ∧
        t.mem.banks = s.mem.banks.set n { k with use := u, handover := none } ∧
        (∀ r, s.mem.assigning = some (.spi, r) → t.cmd.spiReply = some r) ∧
        (s.mem.assigning = none → t.cmd = s.cmd)) ∧
    (∀ base code, (∀ m k', m ≠ n → s.mem.banks[m]? = some k' → k'.handover = none) → s.mem.poolNext = some (base, code) → s.cmd.queue = [] →
      shaped s = true → ∃ t, exec (.handoverComplete n) s = .next t ∧ t.mem.assigning = none ∧ t.mem.poolNext = none ∧ t.mem.poolBase = base ∧
        t.mem.poolSize = code ∧ (∀ m, m < 64 → bankOf t m = { bankOf s m with
          use := if m = n then u else (bankOf s m).use, handover := none, pooled := decide (base ≤ m ∧ m < base + poolBanks code), waits := (bankOf t m).waits })))

/-- A request presented to an idle bank is granted where none of its master's stands behind it: a burst of a port that owns the bank
stores or reads its words and leaves every other, a 64-bit atomic adds or exchanges; one of another port is counted with bank and port
and stores nothing; a word that the check finds uncorrectable is counted and stays in error. Wait, conflict and escalation count for its
master, and a wait above 512 clocks is recorded. Of the requests that wait, the oldest escalated one goes first, ties to the lower
master; without an escalated one the turn passes round the ports and, within a cluster, round its engines. A bank in handover grants
none while their clocks pass; a store that a sleep entry has stopped does nothing. A scrub read goes through its bank row by row, counts
what it finds, and a pass ends with the last row of the last bank. The reload of an undamaged pattern copies its area into the store and
leaves what lies outside it. The model's choices in it: the arbiter, whose clocks and requests are operands (log entry 100), and what a
poisoned or uncorrectable word does (log entry 53). -/
def Obligations.StoreAccesses : Prop :=
  (∀ (bank : Nat) (c : Claim) (ecc : List Ecc) (s : State), storeUp s = true → canonical s = true → shaped s = true → bank < 64 →
    (bankOf s bank).handover = none → (bankOf s bank).waits = [] → s.mem.behind = [] → claimOk s bank c = true →
    let port := portOf c.m
    let own := match c.op with
      | .read _ => mayRead (bankOf s bank).use port
      | _ => mayWrite (bankOf s bank).use port
    let old := leVal (wordAt s c.addr)
    ∃ t, exec (.storeAccessGrant bank 0 [c] ecc) s = .next t ∧ (bankOf t bank).waits = [] ∧ (bankOf t bank).lastPort = port ∧
      (t.mem.masters.getD c.m {}).waitMax = max (s.mem.masters.getD c.m {}).waitMax (min c.age 1023) ∧
      (t.mem.masters.getD c.m {}).conflicts =
        (if c.age = 0 then (s.mem.masters.getD c.m {}).conflicts else min (2 ^ 32 - 1) ((s.mem.masters.getD c.m {}).conflicts + 1)) ∧
      (t.mem.masters.getD c.m {}).esc =
        (if c.age < 32 then (s.mem.masters.getD c.m {}).esc else min (2 ^ 32 - 1) ((s.mem.masters.getD c.m {}).esc + 1)) ∧
      (own = false → t.mem.cells = s.mem.cells ∧ t.mem.nonOwner = min 65535 (s.mem.nonOwner + 1) ∧ t.mem.nonOwnerBank = bank ∧
        t.mem.nonOwnerPort = port) ∧
      (own = true → t.mem.nonOwner = s.mem.nonOwner ∧
        (∀ n, c.op = .read n → t.mem.cells = s.mem.cells ∧
          (ecc = [] → (∀ k, k < n → s.mem.errWords.contains (physOf s (c.addr + 8 * k) / 8) = false) →
            t.mem.errWords = s.mem.errWords ∧ t.mem.eccUncorr = s.mem.eccUncorr ∧ t.mem.eccCorr = s.mem.eccCorr) ∧
          (n = 1 → ecc = [.uncorrectable] → t.mem.errWords.contains (physOf s c.addr / 8) = true ∧ t.mem.eccBank = bank ∧
            t.mem.eccUncorr = min 65535 (s.mem.eccUncorr + 1))) ∧
        (∀ l, c.op = .write l → (512 < c.age → s.flt.windows = [] →
            (classOf t.flt 9).occurrences = min 65535 ((classOf s.flt 9).occurrences + 1)) ∧ (c.age ≤ 512 → t.flt = s.flt) ∧
          (∀ k, k < l.length → leVal (wordAt t (c.addr + 8 * k)) = (l.getD k 0).toNat) ∧
          ∀ a, (∀ k, k < l.length → physOf s a ≠ physOf s (c.addr + 8 * k)) → wordAt t a = wordAt s a) ∧
        (∀ d, c.op = .atomic 4 d → ecc = [] → s.mem.errWords.contains (physOf s c.addr / 8) = false →
          leVal (wordAt t c.addr) = (old + d.toNat) % 2 ^ 64 ∧ ∀ a, physOf s a ≠ physOf s c.addr → wordAt t a = wordAt s a) ∧
        (∀ d, c.op = .atomic 6 d → ecc = [] → s.mem.errWords.contains (physOf s c.addr / 8) = false →
          leVal (wordAt t c.addr) = d.toNat ∧ ∀ a, physOf s a ≠ physOf s c.addr → wordAt t a = wordAt s a))) ∧
  (∀ (bank : Nat) (ecc : List Ecc) (s : State), storeUp s = true → shaped s = true → bank < 64 → (bankOf s bank).handover = none → s.mem.behind = [] →
    let b := bankOf s bank
    (b.waits = [] → exec (.storeAccessGrant bank 0 [] ecc) s = .next s) ∧
    (b.waits ≠ [] → (∀ x ∈ b.waits, x.m < 28) → b.waits.Pairwise (fun x y => x.m ≠ y.m) → b.lastPort < 8 → (∀ x ∈ b.turns, x < 6) →
      b.turns.length = 4 → ∃ c t, c ∈ b.waits ∧ exec (.storeAccessGrant bank 0 [] ecc) s = .next t ∧
        (bankOf t bank).waits = b.waits.filter (· ≠ c) ∧ (bankOf t bank).lastPort = portOf c.m ∧
        ((∃ x ∈ b.waits, 32 ≤ x.age) → 32 ≤ c.age ∧ ∀ x ∈ b.waits, x.age ≤ c.age ∧ (x.age = c.age → c.m ≤ x.m)) ∧
        ((∀ x ∈ b.waits, x.age < 32) → ∀ x ∈ b.waits,
          (portOf c.m + 7 - b.lastPort) % 8 ≤ (portOf x.m + 7 - b.lastPort) % 8 ∧
          (portOf x.m = portOf c.m → c.m < 24 → (c.m % 6 + 5 - b.turns.getD (portOf c.m) 0) % 6 ≤ (x.m % 6 + 5 - b.turns.getD (portOf c.m) 0) % 6)))) ∧
  (∀ (bank clocks : Nat) (cs : List Claim) (ecc : List Ecc) (s : State), bank < 64 → (storeUp s = false →
      exec (.storeAccessGrant bank clocks cs ecc) s = .next s ∧ exec (.scrubRead bank (ecc.headD .clean)) s = .next s) ∧
    (storeUp s = true → shaped s = true → (bankOf s bank).handover ≠ none → ∃ t, exec (.storeAccessGrant bank clocks [] ecc) s = .next t ∧
      t.mem.cells = s.mem.cells ∧ (bankOf t bank).waits = (bankOf s bank).waits.map (fun c => { c with age := c.age + clocks }))) ∧
  (∀ (bank : Nat) (c : Claim) (s : State), storeUp s = true → shaped s = true → bank < 64 → c.m < 28 → c.age < 32 →
    (bankOf s bank).waits = [c] →
    ∃ t, exec (.requestEscalation bank c.m [] ) s = .next t ∧ (bankOf t bank).waits = [{ c with age := 32 }] ∧ t.mem.cells = s.mem.cells ∧
      (t.mem.masters.getD c.m {}).esc = min (2 ^ 32 - 1) ((s.mem.masters.getD c.m {}).esc + 1)) ∧
  (∀ (bank : Nat) (ecc : Ecc) (k : Bank) (s : State), storeUp s = true → s.mem.scrubEn = true → bank < 64 → s.mem.banks[bank]? = some k →
    k.handover = none → k.waits = [] → k.scrubRow < 32768 → s.mem.errWords.contains (physWord bank k.scrubRow) = false →
    let last := k.scrubRow = 32767 ∧ ∀ (n : Nat) (x : Bank), n ≠ bank → s.mem.banks[n]? = some x → 32768 ≤ x.scrubRow
    (¬last → exec (.scrubRead bank .clean) s =
      .next { s with mem := { s.mem with banks := s.mem.banks.set bank { k with scrubRow := k.scrubRow + 1 } } }) ∧
    (last → exec (.scrubRead bank .clean) s = .next { s with mem := { s.mem with
      banks := s.mem.banks.map (fun x => { x with scrubRow := 0 }), scrubPasses := min (2 ^ 32 - 1) (s.mem.scrubPasses + 1) } }) ∧
    (ecc ≠ .clean → ∃ t, exec (.scrubRead bank ecc) s = .next t ∧ t.mem.cells = s.mem.cells ∧
      (ecc = .corrected → t.mem.eccCorr = min (2 ^ 32 - 1) (s.mem.eccCorr + 1) ∧ t.mem.errWords = s.mem.errWords ∧
        (bankOf t bank).corr = min 65535 (k.corr + 1)) ∧
      (ecc = .uncorrectable → t.mem.errWords.contains (physWord bank k.scrubRow) = true ∧
        t.mem.eccUncorr = min 65535 (s.mem.eccUncorr + 1) ∧ t.mem.eccBank = bank))) ∧
  (∀ (belay : Bool) (s : State),
    let c := if belay then 8 else 7
    storeUp s = true → s.nvm.reloads.contains c = true → areaLoading s c = false → canonical s = true →
    ∃ t, exec (.patternReload belay) s = .next t ∧ t.nvm.reloads.contains c = false ∧
      (∀ a, a < bodyLen c → memGet t.mem.cells (patternBase c + a) =
        if patternFault s c = none then memGet s.nvm.mram (slotBase c 2 + 64 + a) else memGet s.mem.cells (patternBase c + a)) ∧
      ∀ a, (a < patternBase c ∨ patternBase c + bodyLen c ≤ a) → memGet t.mem.cells a = memGet s.mem.cells a)

/-! ### The rope -/

/-- On a path that is up, a valid packet in columns: a FRAME_START that matches its enabled layer starts a frame in the back buffer,
counting one that it overwrites; of a layer not enabled it is discarded, one of another format or size breaks an open frame with cause
GEOMETRY. A LINE_DATA at the expected position writes the words of its body that lie in idle banks of the path's port, those of a bank
in handover waiting there, runs through the frame's CRC and advances the position; one at another position breaks the frame with cause
ORDER and stores nothing, one of a WAITING layer is stray, one that finds the buffer full breaks it with cause OVERFLOW. A FRAME_END
with the whole frame, the right CRC and a new ALIVE is accepted; a wrong CRC, errors in the trailer, or the ALIVE of the frame before
reject the frame, the back buffer EMPTY, and an incomplete one breaks it with cause SHORT; each outcome makes a STATUS due where it is
enabled. The other layers stay. The model's choices in it: LINE_DATA of a disabled layer as STRAY, what the errors count and where the
overflow is judged (log entry 56), and that a request of a link DMA waits at a bank where others wait (log entry 100). -/
def Obligations.FramesArrive : Prop :=
  (∀ (p : Path) (cols : List (List LaneWord)) (r : Rx) (n : Nat) (l : Layer) (s : State), brings p cols r s → r.out = .whole → hdrType r.hdr = 1 →
    validPacket s p r.hdr = true → n = hdrChan r.hdr → s.cmp.layers[n]? = some l →
    let same := hdrField r.hdr 7 1 = l.cfg.format ∧ hdrField r.hdr 8 2 = l.cfg.srcW ∧ hdrField r.hdr 10 2 = l.cfg.srcH
    ∃ t y, exec (.frameStart p cols) s = .next t ∧ t.cmp.layers = s.cmp.layers.set n y ∧ t.mem = s.mem ∧
      (pathOf t p).pkts = min (2 ^ 32 - 1) ((pathOf s p).pkts + 1) ∧ y.cfg = l.cfg ∧ y.alive = l.alive ∧
      (l.en = true → same → y.back = .filling ∧ y.receiving = true ∧ y.line = 0 ∧ y.off = 0 ∧ y.crc = 0xFFFFFFFF ∧ y.codeErrs = 0 ∧
        y.backFence = hdrField r.hdr 6 1 ∧ y.released = false ∧ y.crossing = false ∧
        y.overwritten = (if l.back = .empty then l.overwritten else min 65535 (l.overwritten + 1))) ∧
      (l.en = false → y = { l with discards := min 65535 (l.discards + 1) }) ∧
      (l.en = true → ¬same → l.receiving = false → y = l) ∧
      (l.en = true → ¬same → l.receiving = true → y.receiving = false ∧ y.back = .empty ∧ (pathOf t p).lastLayer = n ∧
        (pathOf t p).lastCause = 6 ∧ (pathOf t p).breaks = min 65535 ((pathOf s p).breaks + 1))) ∧
  (∀ (p : Path) (cols : List (List LaneWord)) (r : Rx) (fill : Nat) (waits : List Nat) (n : Nat) (l : Layer) (s : State), brings p cols r s →
    r.out = .whole → hdrType r.hdr = 2 → validPacket s p r.hdr = true → n = hdrChan r.hdr → s.cmp.layers[n]? = some l →
    let body := r.body
    let line := hdrField r.hdr 6 2
    let off := hdrField r.hdr 8 2
    let fits := line = l.line ∧ off = l.off ∧ line < l.cfg.srcH ∧ off + body.length ≤ lineBytes l.cfg
    let base := backAddr l + line * l.cfg.stride + off
    let mine := fun k => mayWrite (bankOf s (bankAt s (base + 8 * k))).use (if p = .host then 4 else 5) = true
    (l.receiving = true → fill ≤ bufferBytes p → fits → ∃ t y, exec (.lineData p cols fill waits) s = .next t ∧
      t.cmp.layers = s.cmp.layers.set n y ∧ y.receiving = true ∧ y.back = l.back ∧ y.crc = crcRun 32 0x04C11DB7 true l.crc body ∧
      y.codeErrs = l.codeErrs + r.code ∧ (off + body.length = lineBytes l.cfg → y.line = line + 1 ∧ y.off = 0) ∧
      (off + body.length ≠ lineBytes l.cfg → y.line = line ∧ y.off = off + body.length) ∧
      (pathOf t p).bytes = ((pathOf s p).bytes + body.length) % 2 ^ 32 ∧
      (∀ a, (∀ k, k < body.length / 8 → physOf s a ≠ physOf s (base + 8 * k)) → wordAt t a = wordAt s a) ∧
      (storeUp s = true → canonical s = true → shaped s = true → base + body.length ≤ 2 ^ 24 → base % 8 = 0 → ∀ k, k < body.length / 8 →
        let b := bankOf s (bankAt s (base + 8 * k))
        (b.handover = none → b.waits = [] → mine k → wordAt t (base + 8 * k) = slice body (8 * k) 8) ∧
        ((b.handover ≠ none ∨ ¬mine k) → wordAt t (base + 8 * k) = wordAt s (base + 8 * k)))) ∧
    (l.receiving = true → fill ≤ bufferBytes p → ¬fits → ∃ t y, exec (.lineData p cols fill waits) s = .next t ∧
      t.cmp.layers = s.cmp.layers.set n y ∧ y.receiving = false ∧ y.back = .empty ∧ t.mem = s.mem ∧ (pathOf t p).lastLayer = n ∧
      (pathOf t p).lastCause = 2 ∧ (pathOf t p).breaks = min 65535 ((pathOf s p).breaks + 1)) ∧
    (l.receiving = false → fill ≤ bufferBytes p → ∃ t, exec (.lineData p cols fill waits) s = .next t ∧ t.cmp.layers = s.cmp.layers ∧
      t.mem = s.mem ∧ (pathOf t p).stray = min 65535 ((pathOf s p).stray + 1)) ∧
    (bufferBytes p < fill → ∃ t, exec (.lineData p cols fill waits) s = .next t ∧ t.mem.cells = s.mem.cells ∧
      (pathOf t p).overflows = min 65535 ((pathOf s p).overflows + 1) ∧
      (l.receiving = true → (layerOf t n).receiving = false ∧ (layerOf t n).back = .empty ∧ (pathOf t p).lastCause = 5))) ∧
  (∀ (p : Path) (cols : List (List LaneWord)) (r : Rx) (n : Nat) (l : Layer) (s : State), brings p cols r s → r.out = .whole →
    hdrType r.hdr = 3 → validPacket s p r.hdr = true → n = hdrChan r.hdr → s.cmp.layers[n]? = some l → l.alive < 65536 →
    let crc := field r.body 0 4
    let alive := field r.body 4 2
    let whole := l.line = l.cfg.srcH ∧ l.off = 0
    let own := crcOut 32 true 0xFFFFFFFF l.crc
    ∃ t, exec (.frameEnd p cols) s = .next t ∧
      let due := fun k => t.rope.statusDue = s.rope.statusDue ++ (if s.rope.statusEn = true ∧ s.rope.outcomeEn = true then [(1, n, k)] else [])
      (l.receiving = false → t.cmp.layers = s.cmp.layers ∧ (pathOf t p).stray = min 65535 ((pathOf s p).stray + 1)) ∧
      (l.receiving = true → ∃ y, t.cmp.layers = s.cmp.layers.set n y ∧ y.receiving = false ∧
        (¬whole → y.back = .empty ∧ (pathOf t p).lastCause = 3 ∧ due 5) ∧
        (whole → y.rxCrc = crc ∧ y.calcCrc = own) ∧
        (whole → r.errs = 0 → crc = own → (l.aliveValid = false ∨ alive ≠ l.alive) →
          y.back = l.back ∧ y.crossing = true ∧ y.alive = alive ∧ y.aliveValid = true ∧ y.accepts = min (2 ^ 32 - 1) (l.accepts + 1) ∧
          (l.aliveValid = true → alive ≠ (l.alive + 1) % 65536 → y.jumps = min 65535 (l.jumps + 1) ∧ due 1) ∧
          ((l.aliveValid = false ∨ alive = (l.alive + 1) % 65536) → y.jumps = l.jumps ∧ due 0)) ∧
        (whole → r.errs = 0 → crc = own → l.aliveValid = true → alive = l.alive →
          y.back = .empty ∧ y.repeatsSeq = min 65535 (l.repeatsSeq + 1) ∧ y.accepts = l.accepts ∧ y.alive = l.alive ∧ due 4) ∧
        (whole → r.errs = 0 → crc ≠ own →
          y.back = .empty ∧ y.rejMismatch = min 65535 (l.rejMismatch + 1) ∧ y.accepts = l.accepts ∧ y.alive = l.alive ∧ due 3) ∧
        (whole → r.errs ≠ 0 → y.back = .empty ∧ y.rejTrailer = min 65535 (l.rejTrailer + 1) ∧ y.accepts = l.accepts ∧ y.alive = l.alive ∧
          due 2)))

/-- A packet laid out by the sender's rules on m lanes is received with its header and body. Received symbols: a body byte with a code
error is 0x00, with the errors counted and what follows EOP ignored; another control symbol before the end cuts the packet; a header
whose check fails is discarded. A back buffer that has crossed becomes READY, or FENCED with a fence ID not yet released; a fence that
times out empties its buffer, counts and raises FENCE_TIMEOUT. A bad header, a misplaced SOP, a cut, an invalid packet and a full buffer
count in their own counters; a cut LINE_DATA breaks its frame with cause CUT, an invalid one with cause ORDER; a packet in progress when
its path is interrupted counts in none of them. A frame packet of a forwarded channel waits in the forwarding buffer, or counts as
dropped where it does not fit, and PACKET_FORWARD sends the oldest on TWTX, with ABORT where it was cut; STATUS_SEND sends the oldest
STATUS that is due, after a CLIMB set. The model's choices in it: the assembly of packets (log entry 97), a STATUS that waits (log entry
102), the forward buffer (log entry 103), the order of discards (log entry 56), and a packet in progress at an interruption (log entry
112). -/
def Obligations.BackBuffersAndPackets : Prop :=
  (∀ (p : Path) (pos : List Bool) (type chan : Nat) (fields body : List Byte) (s : State), pos.length = (pathLanes s p).length → pos ≠ [] →
    (∀ (q : Nat), q < pos.length → (laneOf s ((pathLanes s p).getD q 0)).rdPos = pos.getD q false) → (pathOf s p).held = [] → type < 256 →
    chan < 256 → body.length < 65536 →
    let hdr := headerBytes type chan fields body.length
    rxOf p (columnsOf pos (packetSyms pos.length type chan fields body)) s = { hdr := hdr, body := body, out := .whole } ∧
      hdrType hdr = type ∧ hdrChan hdr = chan ∧ hdrLen hdr = body.length ∧ ∀ off, 6 ≤ off → off < 14 → hdrField hdr off 1 = field fields (off - 6) 1) ∧
  (∀ (m : Nat) (h : List Byte) (xs : List RxSym) (e : RxSym) (pad : List RxSym), 1 ≤ m → h.length = 13 →
    (∀ x ∈ xs, x.sym = .bad ∨ ∃ b, x.sym = .data b) → (17 + xs.length + pad.length) % (4 * m) = 0 → pad.length < 4 * m →
    let hdr := h ++ le 2 (crc16 h)
    let line := ({ sym := .ctl 0xFB, err := false } : RxSym) :: hdr.map (fun b => { sym := .data b, err := false }) ++ xs ++ e :: pad
    let rx : Rx := { hdr := hdr, body := xs.map (fun x => match x.sym with | .data b => b | _ => 0)
                     code := (xs.filter (fun x => x.sym = .bad)).length, errs := ((xs ++ [e]).filter (·.err)).length }
    (xs.length = hdrLen hdr → e.sym = .ctl 0xFD → assemble m line = { rx with out := .whole }) ∧
    (∀ c, xs.length ≤ hdrLen hdr → e.sym = .ctl c → c ≠ 0xFB → (c ≠ 0xFD ∨ xs.length < hdrLen hdr) → (∀ x ∈ pad, x.sym ≠ .ctl 0xFB) →
      assemble m line = { rx with out := .cut (c = 0xFE) }) ∧
    (∀ b, xs.length = hdrLen hdr → e.sym = .data b → (∀ x ∈ pad, x.sym ≠ .ctl 0xFB) → assemble m line = { rx with out := .cut false }) ∧
    (∀ k, crc16 h ≠ k → k < 65536 → (∀ x ∈ e :: pad, x.sym ≠ .ctl 0xFB) →
      assemble m (({ sym := .ctl 0xFB, err := false } : RxSym) :: (h ++ le 2 k).map (fun b => { sym := .data b, err := false }) ++ xs ++ e :: pad) = { out := .badHeader })) ∧
  (∀ (n : Nat) (l : Layer) (s : State), n < 6 → s.cmp.layers[n]? = some l →
    (l.crossing = true → exec (.backBufferReady n) s = .next { s with cmp := { s.cmp with layers := s.cmp.layers.set n { l with
      crossing := false, back := if (l.backFence ≠ 0 ∧ l.released = false) then .fenced else .ready } } }) ∧
    (l.crossing = false → exec (.backBufferReady n) s = .next s)) ∧
  (∀ (n : Nat) (l : Layer) (s : State), n < 6 → s.cmp.layers[n]? = some l → awake s = true → l.back = .fenced → s.cmp.fenceMs ≠ 0 →
    ∃ t, exec (.fenceTimeout n) s = .next t ∧ t.cmp.layers = s.cmp.layers.set n { l with
        back := .empty, backFence := 0, released := false, fenceTimeouts := min 65535 (l.fenceTimeouts + 1) } ∧
      t.cmp.fenceTimeouts = min 65535 (s.cmp.fenceTimeouts + 1) ∧ t.mem = s.mem) ∧
  (∀ (n : Nat) (s : State), n < 6 → s.cmp.fenceMs = 0 → exec (.fenceTimeout n) s = .next s) ∧
  (∀ (p : Path) (cols : List (List LaneWord)) (fill : Nat) (r : Rx) (s : State), brings p cols r s →
    let n := hdrChan r.hdr
    let bad := min 65535 ((pathOf s p).hdrErr + r.misplaced)
    ((fill ≤ bufferBytes p ∨ r.hdr = []) → r.out = .badHeader → ∃ t, exec (.packetDiscard p cols fill) s = .next t ∧
      (pathOf t p).hdrErr = min 65535 (bad + 1) ∧ (pathOf t p).pkts = (pathOf s p).pkts ∧ t.cmp = s.cmp ∧ t.mem = s.mem) ∧
    (r.out = .none → r.misplaced ≠ 0 → ∃ t, exec (.packetDiscard p cols fill) s = .next t ∧ (pathOf t p).hdrErr = bad ∧
      (pathOf t p).pkts = (pathOf s p).pkts ∧ t.cmp = s.cmp ∧ t.mem = s.mem) ∧
    (fill ≤ bufferBytes p → r.out = .unfinished → ∃ t, exec (.packetDiscard p cols fill) s = .next t ∧ (pathOf t p).hdrErr = bad ∧
      (pathOf t p).pkts = (pathOf s p).pkts ∧ (pathOf t p).cut = (pathOf s p).cut ∧ t.cmp = s.cmp ∧ t.mem = s.mem) ∧
    (∀ a, fill ≤ bufferBytes p → r.out = .cut a → validPacket s p r.hdr = true → ∃ t, exec (.packetDiscard p cols fill) s = .next t ∧
      (pathOf t p).cut = min 65535 ((pathOf s p).cut + 1) ∧ (pathOf t p).hdrErr = bad ∧ (pathOf t p).pkts = (pathOf s p).pkts ∧
      (pathOf t p).aborts = (if a = true then min 65535 ((pathOf s p).aborts + 1) else (pathOf s p).aborts) ∧ t.mem = s.mem ∧
      (hdrType r.hdr = 2 → receivingOn s p n = true → (pathOf t p).lastCause = 1 ∧ (pathOf t p).lastLayer = n ∧
        (layerOf t n).receiving = false ∧ (layerOf t n).back = .empty) ∧
      (hdrType r.hdr ≠ 2 → hdrType r.hdr ≠ 3 → t.cmp = s.cmp)) ∧
    (fill ≤ bufferBytes p → r.out = .whole → validPacket s p r.hdr = false → ∃ t, exec (.packetDiscard p cols fill) s = .next t ∧
      (pathOf t p).invalid = min 65535 ((pathOf s p).invalid + 1) ∧ (pathOf t p).pkts = min (2 ^ 32 - 1) ((pathOf s p).pkts + 1) ∧
      t.mem = s.mem ∧ (hdrType r.hdr = 2 → receivingOn s p n = true → (pathOf t p).lastCause = 2 ∧ (layerOf t n).back = .empty) ∧
      ((hdrType r.hdr ≠ 2 ∨ receivingOn s p n = false) → t.cmp = s.cmp)) ∧
    (fill ≤ bufferBytes p → r.out = .whole → hdrType r.hdr = 0x20 → validPacket s p r.hdr = true → twinMessageOk r.body = false →
      ∃ t, exec (.packetDiscard p cols fill) s = .next t ∧ t.twn.hbInvalid = min 65535 (s.twn.hbInvalid + 1) ∧ t.cmp = s.cmp) ∧
    (bufferBytes p < fill → r.hdr ≠ [] → r.out ≠ .none → r.out ≠ .badHeader → ∃ t, exec (.packetDiscard p cols fill) s = .next t ∧
      (pathOf t p).overflows = min 65535 ((pathOf s p).overflows + 1) ∧ (pathOf t p).bufMax = max (pathOf s p).bufMax (bufferBytes p / 64) ∧
      ((hdrType r.hdr = 2 ∨ hdrType r.hdr = 3) → receivingOn s p n = true → (pathOf t p).lastCause = 5 ∧ (layerOf t n).receiving = false))) ∧
  (∀ (cols : List (List LaneWord)) (r : Rx) (s : State), rxOf .host cols s = r → r.misplaced = 0 → r.hdr ≠ [] →
    let b := { takeColumns .host cols s with rope := { s.rope with host := { s.rope.host with held := r.rest } } }
    let fwd := (hdrType r.hdr = 1 ∨ hdrType r.hdr = 2 ∨ hdrType r.hdr = 3) ∧ hdrChan r.hdr < 6 ∧ s.twn.cfg.fwdMask.testBit (hdrChan r.hdr) = true ∧
      paired s = true ∧ twinTrained (takeColumns .host cols s) = true
    let f := (r.hdr ++ r.body, decide (r.out ≠ .whole))
    (¬fwd → heard .host cols s = b) ∧
    (fwd → forwardUsed s + f.1.length < 16384 →
      heard .host cols s = { b with rope := { b.rope with fwdQueue := s.rope.fwdQueue ++ [f] } }) ∧
    (fwd → forwardUsed s + 16 ≤ 16384 → 16384 ≤ forwardUsed s + f.1.length → heard .host cols s = { b with
      twn := { b.twn with fwdDrops := min 65535 (s.twn.fwdDrops + 1) }
      rope := { b.rope with fwdQueue := s.rope.fwdQueue ++ [(f.1.take (16383 - forwardUsed s), true)] } })) ∧
  (∀ (f : List Byte × Bool) (q : List (List Byte × Bool)) (s : State), twtxOpen s = true → s.rope.fwdQueue = f :: q →
    exec .packetForward s = .next { s with
      rope := { s.rope with fwdQueue := q }
      lnk := { s.lnk with twtxLine := sentLine s.lnk.twtxLine (forwardSyms f) 0 }
      twn := { s.twn with fwdPackets := if f.2 = true then s.twn.fwdPackets else (s.twn.fwdPackets + 1) % 2 ^ 32 } }) ∧
  (∀ (s : State), (twtxOpen s = false ∨ s.rope.fwdQueue = []) → exec .packetForward s = .next s) ∧
  (∀ (r l o : Nat) (q : List (Nat × Nat × Nat)) (s : State), htxOpen s = true → s.rope.statusDue = (r, l, o) :: q →
    exec .statusSend s = .next (climbShown { s with
      rope := { s.rope with statusDue := q, statusSent := (s.rope.statusSent + 1) % 65536 }
      lnk := { s.lnk with htxLine := sentLine s.lnk.htxLine (orderedSet (climbBytes .host s.lnk.htxLine.seq s) ++
        packetSyms 1 0x11 0 [] (statusBody r l o s)) 1 } }) ∧ (statusBody r l o s).length = 18 + 3 * s.cmp.layers.length) ∧
  (∀ (s : State), (htxOpen s = false ∨ s.rope.statusDue = []) → exec .statusSend s = .next s)

/-! ### Twin operation -/

/-- A valid heartbeat on an open twin path counts and is noted; with SLEEPING set a present twin rests; the third consecutive lit one
joins an absent or lost twin while the pin is active; one that reports SNUFFED or KINDLE loses a present twin with cause 2, as a SNUFF
message does, and a resting twin is absent at the first heartbeat that does not report SNUFFED. Silence of 300 microseconds or more with
the pin inactive loses a present twin with cause 1, and with the pin active is a link that is down; a pin that goes inactive while
heartbeats are silent loses it too; an absent twin is lost with cause 3 at the end of JOIN_MS. The pin's edges, its fault and the
outgoing toggle do what they say; HEARTBEAT_SEND sends MSG, SEQ, the fields and the CRC; a sound SYNC word gives the skew, the own
boundary minus the twin's, and is the reference of a follower whose twin is a leader; one with an error gives nothing. The model's
choices in it: which heartbeats count and what they change (log entry 57), and the instant of a SYNC word and which of them is sound
(log entry 101). -/
def Obligations.TwinPresence : Prop :=
  (∀ (cols : List (List LaneWord)) (us : Nat) (r : Rx) (s : State), brings .twin cols r s → paired s = true → messageOf 1 r = true →
    validPacket s .twin r.hdr = true →
    let b := r.body
    let mode := field b 2 1
    let sleeping := (field b 3 1).testBit 2
    let follows := s.twn.lastSeq = some ((field b 1 1 + 255) % 256)
    let joins := s.twn.pinActive = true ∧ 2 ≤ s.twn.litRun ∧ litCode mode = true ∧ follows
    let st := s.twn.state
    ∃ t, exec (.heartbeatReceived cols us) s = .next t ∧ t.twn.hbRx = (s.twn.hbRx + 1) % 2 ^ 32 ∧ t.twn.hbOk = true ∧
      t.twn.lastSeq = some (field b 1 1) ∧ t.twn.peerMode = mode % 8 ∧ t.twn.peerRole = field b 3 1 % 4 ∧ t.twn.peerDefects = field b 16 4 ∧
      t.twn.linkDown = false ∧ (t.twn.conflict = true ↔ (field b 3 1 % 4 = s.twn.cfg.role ∨ field b 4 1 ≠ s.ft.rate)) ∧
      t.rope.twin.pkts = min (2 ^ 32 - 1) (s.rope.twin.pkts + 1) ∧
      (sleeping = true → (st = 2 ∨ st = 4) → t.twn.state = 4 ∧ t.twn.litRun = 0) ∧
      ((st = 1 ∨ st = 3) → joins → t.twn.state = 2 ∧ t.twn.returns = (if st = 3 then min 65535 (s.twn.returns + 1) else s.twn.returns)) ∧
      ((st = 1 ∨ st = 3) → ¬joins → t.twn.state = st) ∧
      ((st = 1 ∨ st = 3) → t.twn.litRun = (if litCode mode = true ∧ follows then s.twn.litRun + 1 else 0)) ∧
      (sleeping = false → ((st = 2 ∧ (mode = 5 ∨ mode = 1)) ∨ (st = 4 ∧ mode = 5)) →
        t.twn.state = 3 ∧ t.twn.lostCause = 2 ∧ t.twn.losses = min 65535 (s.twn.losses + 1) ∧ condIs 0x0C01 0 t = true) ∧
      (sleeping = false → st = 2 → mode ≠ 5 → mode ≠ 1 → t.twn.state = 2 ∧ t.twn.losses = s.twn.losses) ∧
      (sleeping = false → st = 4 → mode ≠ 5 → t.twn.state = (if joins then 2 else 1))) ∧
  (∀ (cols : List (List LaneWord)) (r : Rx) (s : State), brings .twin cols r s → paired s = true → messageOf 2 r = true →
    validPacket s .twin r.hdr = true →
    ∃ t, exec (.snuffMessageReceived cols) s = .next t ∧ t.twn.lastSeq = some (field r.body 1 1) ∧
      ((s.twn.state = 2 ∨ s.twn.state = 4) → t.twn.state = 3 ∧ t.twn.lostCause = 2) ∧
      ((s.twn.state ≠ 2 ∧ s.twn.state ≠ 4) → t.twn.state = s.twn.state)) ∧
  (∀ (cols : List (List LaneWord)) (us : Nat) (s : State), paired s = false →
    exec (.heartbeatReceived cols us) s = .next s ∧ exec (.snuffMessageReceived cols) s = .next s ∧ exec (.recordReceived cols) s = .next s) ∧
  (∀ (us : Nat) (s : State), awake s = true → paired s = true →
    (us < 300 → exec (.heartbeatSilence us) s = .next s) ∧
    (300 ≤ us → ∃ t, exec (.heartbeatSilence us) s = .next t ∧ t.twn.hbOk = false ∧
      (s.twn.pinActive = false → s.twn.state = 2 → t.twn.state = 3 ∧ t.twn.lostCause = 1) ∧
      (s.twn.pinActive = false → t.twn.linkDown = s.twn.linkDown ∧ (s.twn.state ≠ 2 → t.twn.state = s.twn.state)) ∧
      (s.twn.pinActive = true → t.twn.linkDown = true ∧ condIs 0x0110 0 t = true ∧ t.twn.state = s.twn.state))) ∧
  (∀ (us : Nat) (s : State), awake s = true → paired s = true →
    (∃ t, exec (.twinAliveEdge us) s = .next t ∧ t.twn.pinActive = true ∧ t.twn.pinFault = false ∧ t.twn.state = s.twn.state ∧
      condIs 0x0C04 0 t = false ∧ t.twn.linkDown = (s.twn.linkDown || (decide (300 ≤ us) && !s.twn.hbOk))) ∧
    (∃ t, exec .twinAliveInactive s = .next t ∧ t.twn.pinActive = false ∧
      (s.twn.state = 2 → s.twn.hbOk = false → t.twn.state = 3 ∧ t.twn.lostCause = 1) ∧
      ((s.twn.hbOk = true ∨ s.twn.state ≠ 2) → t.twn.state = s.twn.state)) ∧
    (s.twn.pinActive = false → s.twn.hbOk = true → litCode s.twn.peerMode = true →
      ∃ t, exec .twinPinFault s = .next t ∧ t.twn.pinFault = true ∧ t.twn.state = s.twn.state ∧ condIs 0x0C04 0 t = true) ∧
    ((s.twn.pinActive = true ∨ s.twn.hbOk = false ∨ litCode s.twn.peerMode = false) → exec .twinPinFault s = .next s) ∧
    (s.twn.state = 1 → s.pwr.mode ≠ .kindle → ∃ t, exec .joinTimeout s = .next t ∧ t.twn.state = 3 ∧ t.twn.lostCause = 3 ∧ condIs 0x0C01 0 t = true) ∧
    (s.twn.state ≠ 1 → exec .joinTimeout s = .next s)) ∧
  (∀ s : State, paired s = true → portsOpen s = true → s.pwr.mode ≠ .snuffed →
    exec .twinAliveToggle s = .next { s with twn := { s.twn with aliveOut := !s.twn.aliveOut } }) ∧
  (∀ (s : State), portsOpen s = true →
    let b := [1] ++ le 1 s.twn.txSeq ++ heartbeatFields false s
    (twtxOpen s = true → exec .heartbeatSend s = .next { s with
      twn := { s.twn with txSeq := (s.twn.txSeq + 1) % 256 }
      lnk := { s.lnk with twtxLine := sentLine s.lnk.twtxLine (packetSyms 1 0x20 0 [] (b ++ le 4 (crc32 b))) 0 } } ∧ b.length = 20) ∧
    (twtxOpen s = false → exec .heartbeatSend s = .next s)) ∧
  (∀ (word : LaneWord) (inPacket : Option Bool) (n : Nat) (s : State), lanesUp s = true → twinHears s = true →
    let b := if inPacket.isSome = true then s else takeWords 4 [word] s
    let k := skewOf n s
    let x := twinInstant n s
    let period : Int := clockParts * frameClocks s.ft.rateInForce
    let lead := s.twn.cfg.role = 2 ∧ s.ft.activeSrc = 2 ∧ s.twn.peerRole = 1
    (-period < 2 * x → 2 * x ≤ period → k = (nsParts / 2 - x) / nsParts) ∧
    (syncOk word inPacket s = false → exec (.syncWordReceived word inPacket n) s = .next b) ∧
    (syncOk word inPacket s = true → ∃ t, exec (.syncWordReceived word inPacket n) s = .next t ∧
      t.twn.skewNs = max (-32768) (min 32767 k) ∧ (k.natAbs ≤ 500 → t.twn.skewRun = 0) ∧
      (500 < k.natAbs → t.twn.skewRun = min (s.twn.skewRun + 1) 5) ∧ (¬lead → t.ft = s.ft) ∧
      (lead → t.ft = (reference (phaseError s.ft.rateInForce (twinClocks n s)) b).ft)))

/-- A RECORD message of a paired device that is the next in order, or the first since the link came up, is acknowledged, counted and
staged with its WITNESS flag; any other changes neither the acknowledgement nor the recorder. RECORD_SEND moves the oldest waiting
record into flight with the next RSEQ while fewer than 16 are unacknowledged; a retransmission sends every record in flight that has
been sent fewer than eight times once more, counts it, and gives up the others. TWIN_CONFIG in PILOT or SNUFFED with legal fields takes
its values, the role waiting for a frame latch; illegal fields return BAD_PARAM. -/
def Obligations.TwinRecordsAndRoles : Prop :=
  (∀ (cols : List (List LaneWord)) (r : Rx) (s : State), brings .twin cols r s → paired s = true → messageOf 3 r = true →
    validPacket s .twin r.hdr = true → r.misplaced = 0 →
    let b := slice r.body 4 32
    let q := field r.body 2 1
    ((s.twn.recSeen = false ∨ q = (s.twn.ackRseq + 1) % 256) → s.evr.queue.length < 64 →
      ∃ t, exec (.recordReceived cols) s = .next t ∧ t.twn.ackRseq = q ∧ t.twn.recSeen = true ∧
        t.evr.witRx = min 65535 (s.evr.witRx + 1) ∧ t.twn.recReceived = min 65535 (s.twn.recReceived + 1) ∧
        t.evr.queue = s.evr.queue ++ [{ recOf b with flags := (recOf b).flags ||| 4 }] ∧ t.flt = s.flt ∧ t.pwr = s.pwr) ∧
    (s.twn.recSeen = true → q ≠ (s.twn.ackRseq + 1) % 256 →
      ∃ t, exec (.recordReceived cols) s = .next t ∧ t.twn.ackRseq = s.twn.ackRseq ∧ t.evr = s.evr ∧ t.flt = s.flt)) ∧
  (∀ (x : TwinRec) (q : List TwinRec) (s : State), awake s = true → twtxOpen s = true → s.twn.inFlight.length < 16 → s.twn.sendQueue = x :: q →
    let y := { x with rseq := s.twn.rseqNext, sends := 1 }
    let b := [3] ++ le 1 s.twn.txSeq ++ le 1 y.rseq ++ le 1 y.kind ++ recBytes y.record
    exec .recordSend s = .next { s with
      twn := { s.twn with
        sendQueue := q, inFlight := s.twn.inFlight ++ [y], rseqNext := (s.twn.rseqNext + 1) % 256, recSent := min 65535 (s.twn.recSent + 1)
        txSeq := (s.twn.txSeq + 1) % 256 }
      lnk := { s.lnk with twtxLine := sentLine s.lnk.twtxLine (packetSyms 1 0x20 0 [] (b ++ le 4 (crc32 b))) 0 } }) ∧
  (∀ s : State, (16 ≤ s.twn.inFlight.length ∨ s.twn.sendQueue = [] ∨ twtxOpen s = false) → exec .recordSend s = .next s) ∧
  (∀ s : State, twtxOpen s = true → (∀ r ∈ s.twn.inFlight, r.sends < 8) →
    ∃ t, exec .recordRetransmit s = .next t ∧ t.twn.inFlight = s.twn.inFlight.map (fun r => { r with sends := r.sends + 1 }) ∧
      t.twn.retries = min 65535 (s.twn.retries + s.twn.inFlight.length) ∧
      t.twn.unacked = s.twn.unacked ∧ t.evr = s.evr) ∧
  (∀ (r : TwinRec) (s : State), twtxOpen s = true → s.twn.inFlight = [r] → 8 ≤ r.sends →
    ∃ t, exec .recordRetransmit s = .next t ∧ t.twn.inFlight = [] ∧ t.twn.unacked = min 65535 (s.twn.unacked + 1)) ∧
  (∀ (rq : Rq) (s : State), admits 0x80 rq s = true → (s.pwr.mode = .pilot ∨ s.pwr.mode = .snuffed) → rq.payload.length = 8 →
    let p := rq.payload
    (twinFieldsOk p = false → exec (.twinConfig rq) s = answered 0x80 rq { status := stBadParam } (after 0x80 rq s)) ∧
    (twinFieldsOk p = true → (field p 1 1).testBit 0 = false →
      ∃ t, exec (.twinConfig rq) s = answered 0x80 rq { status := stOk } t ∧ t.twn.cfg.role = s.twn.cfg.role ∧
        t.twn.rolePend = (if field p 0 1 = s.twn.cfg.role then none else some (field p 0 1)) ∧ t.twn.cfg.shareLevel = field p 2 1 ∧
        t.twn.cfg.fwdMask = field p 3 1 % 64 ∧ t.twn.cfg.cableNs = field p 4 1 ∧ t.twn.cfg.joinMs = field p 6 2 ∧
        t.nvm.queue = s.nvm.queue ∧ t.arr = s.arr ∧ t.mem.cells = s.mem.cells)) ∧
  (∀ (rq : Rq) (s : State), admits 0x80 rq s = true → s.pwr.mode ≠ .pilot → s.pwr.mode ≠ .snuffed →
    exec (.twinConfig rq) s = answered 0x80 rq { status := stWrongMode } (after 0x80 rq s))

/-! ### Layers, groups, fences, tables, signature regions -/

/-- LAYER_CONFIG of a layer above 5 returns BAD_PARAM; otherwise the first field in offset order that fails decides: BAD_PARAM for an
illegal one, REFUSED for a changed storage field of an enabled layer; where every field passes, NO_RESOURCE and the reason with a
resource that is lacking, else OK, and the configuration is in force at once for a disabled layer and waits for the latch for an enabled
one. LAYER_ENABLE of a layer without a configuration is REFUSED whole; otherwise the layers of the mask follow their bits: a newly
enabled one has no front buffer, an EMPTY back buffer and no ALIVE reference, a newly disabled one stops receiving, and the others stay.
The model's choice in it: the order of the checks of LAYER_CONFIG, and with it when a configuration and an enable take effect (log
entries 85 and 51). -/
def Obligations.LayerCommandsAnswer : Prop :=
  (∀ (rq : Rq) (s : State), admits 0x20 rq s = true → rq.payload.length = 40 →
    let n := field rq.payload 0 1
    let c := layerCfgOf rq.payload
    let b := after 0x20 rq s
    let l := layerOf s n
    let fields := layerFields c l.cfg
    let passes := fun k => ∃ f, fields[k]? = some f ∧ f.1 = true ∧ (l.en = false ∨ f.2 = false)
    (5 < n → exec (.layerConfig rq) s = answered 0x20 rq { status := stBadParam } b) ∧
    (∀ k f, n ≤ 5 → fields[k]? = some f → (∀ j, j < k → passes j) → f.1 = false →
      exec (.layerConfig rq) s = answered 0x20 rq { status := stBadParam } b) ∧
    (∀ k f, n ≤ 5 → fields[k]? = some f → (∀ j, j < k → passes j) → f.1 = true → l.en = true → f.2 = true →
      exec (.layerConfig rq) s = answered 0x20 rq { status := stRefused } b) ∧
    (n ≤ 5 → (∀ k, k < 14 → passes k) → layerReason n c s ≠ 0 →
      ∃ h v, exec (.layerConfig rq) s =
        answered 0x20 rq { status := stNoResource, payload := le 1 (layerReason n c s) ++ le 1 0 ++ le 2 h ++ le 2 v ++ le 2 0 } b ∧
        (layerReason n c s ≠ 1 → h = 0 ∧ v = 0)) ∧
    (n ≤ 5 → (∀ k, k < 14 → passes k) → l.en = false → layerReason n c s = 0 → s.cmp.layers[n]? = some l →
      exec (.layerConfig rq) s = answered 0x20 rq { status := stOk }
        { b with cmp := { b.cmp with layers := b.cmp.layers.set n { l with cfg := c, pend := none } } }) ∧
    (n ≤ 5 → (∀ k, k < 14 → passes k) → l.en = true → layerReason n c s = 0 → s.cmp.layers[n]? = some l →
      exec (.layerConfig rq) s = answered 0x20 rq { status := stOk }
        { b with cmp := { b.cmp with layers := b.cmp.layers.set n { l with pend := some c } } })) ∧
  (∀ (m on x y : Byte) (rq : Rq) (s : State), admits 0x21 rq s = true → shaped s = true → rq.payload = [m, on, x, y] →
    let lacks := fun n => m.toNat.testBit n = true ∧ on.toNat.testBit n = true ∧ (layerOf s n).cfg.srcW = 0
    ((∃ n, n < 6 ∧ lacks n) → exec (.layerEnable rq) s = answered 0x21 rq { status := stRefused } (after 0x21 rq s)) ∧
    ((∀ n, n < 6 → ¬lacks n) → ∃ t, exec (.layerEnable rq) s = answered 0x21 rq { status := stOk } t ∧
      ∀ n, n < 6 →
        ((m.toNat.testBit n = false ∨ on.toNat.testBit n = (layerOf s n).en) → layerOf t n = layerOf s n) ∧
        (m.toNat.testBit n = true → on.toNat.testBit n = true → (layerOf s n).en = false →
          (layerOf t n).en = true ∧ (layerOf t n).hasFront = false ∧ (layerOf t n).back = .empty ∧ (layerOf t n).aliveValid = false ∧
          (layerOf t n).stale = 0 ∧ (layerOf t n).cfg = (layerOf s n).cfg) ∧
        (m.toNat.testBit n = true → on.toNat.testBit n = false → (layerOf s n).en = true →
          (layerOf t n).en = false ∧ (layerOf t n).receiving = false ∧ (layerOf t n).back ≠ .filling ∧ (layerOf t n).cfg = (layerOf s n).cfg)))

/-- FLIP_GROUP with ACTION CONFIGURE takes members that no other group holds, waiting for the latch, and ends a pending ARM; with
members of another group it is REFUSED, with a group above 2 BAD_PARAM. ARM of a group of policy armed, with a mask within its members,
is ACCEPTED and waits in place of one before it; of another policy it is REFUSED. FENCE_SIGNAL applies all its IDs to the buffers as
they stand at one edge: every buffer that carries one of them is released, a FENCED one becoming READY, the layers that carry none stay,
and each ID that no buffer carried counts an orphan, repeats too; the reply gives both counts. An ID of 0 or a COUNT outside 1 to 16
returns BAD_PARAM. The model's choices in it: against which configuration FLIP_GROUP is checked, and how the IDs of a fence count (log
entry 51). -/
def Obligations.GroupsAndFences : Prop :=
  (∀ (g m a z0 z1 z2 z3 : Byte) (k : Group) (rq : Rq) (s : State), admits 0x22 rq s = true → shaped s = true →
    rq.payload = [g, 0, m, a, z0, z1, z2, z3] →
    let b := after 0x22 rq s
    let clash := ∃ h, h < 3 ∧ h ≠ g.toNat ∧ (lastGroup (groupOf s h)).1 &&& (m.toNat % 64) ≠ 0
    (2 < g.toNat → exec (.flipGroupConfigure rq) s = answered 0x22 rq { status := stBadParam } b) ∧
    (g.toNat ≤ 2 → 1 < a.toNat → exec (.flipGroupConfigure rq) s = answered 0x22 rq { status := stBadParam } b) ∧
    (g.toNat ≤ 2 → a.toNat ≤ 1 → clash → exec (.flipGroupConfigure rq) s = answered 0x22 rq { status := stRefused } b) ∧
    (g.toNat ≤ 2 → a.toNat ≤ 1 → ¬clash → s.cmp.groups[g.toNat]? = some k → k.arm = none →
      exec (.flipGroupConfigure rq) s = answered 0x22 rq { status := stOk }
        { b with cmp := { b.cmp with groups := b.cmp.groups.set g.toNat { k with pend := some (m.toNat % 64, a.toNat == 1) } } }) ∧
    (g.toNat ≤ 2 → a.toNat ≤ 1 → ¬clash → ∃ t, exec (.flipGroupConfigure rq) s = answered 0x22 rq { status := stOk } t ∧
      (groupOf t g.toNat).arm = none ∧ (groupOf t g.toNat).pend = some (m.toNat % 64, a.toNat == 1) ∧
      (groupOf t g.toNat).members = (groupOf s g.toNat).members)) ∧
  (∀ (g m a z0 z1 z2 z3 : Byte) (k : Group) (rq : Rq) (s : State), admits 0x22 rq s = true → rq.payload = [g, 1, m, a, z0, z1, z2, z3] →
    g.toNat ≤ 2 → s.cmp.groups[g.toNat]? = some k →
    let b := after 0x22 rq s
    let u := takeHandle b
    let mask := m.toNat % 64
    ((lastGroup k).2 = false → exec (.flipGroupArm rq) s = answered 0x22 rq { status := stRefused } b) ∧
    ((lastGroup k).2 = true → (mask = 0 ∨ mask &&& (lastGroup k).1 ≠ mask) →
      exec (.flipGroupArm rq) s = answered 0x22 rq { status := stBadParam } b) ∧
    ((lastGroup k).2 = true → mask ≠ 0 → mask &&& (lastGroup k).1 = mask → handleFree s = true → k.arm = none →
      exec (.flipGroupArm rq) s = answered 0x22 rq { status := stAccepted, handle := newHandle b }
        { u with cmp := { u.cmp with groups := u.cmp.groups.set g.toNat { k with arm := some { mask := mask, handle := newHandle b, src := rq.src } } } }) ∧
    ((lastGroup k).2 = true → mask ≠ 0 → mask &&& (lastGroup k).1 = mask → handleFree s = true →
      ∃ t, exec (.flipGroupArm rq) s = answered 0x22 rq { status := stAccepted, handle := newHandle b } t ∧
        (groupOf t g.toNat).arm = some { mask := mask, handle := newHandle b, src := rq.src })) ∧
  (∀ (x y z : Byte) (ids : List Byte) (rq : Rq) (s : State), admits 0x23 rq s = true → shaped s = true → 1 ≤ ids.length → ids.length ≤ 16 →
    rq.payload = BitVec.ofNat 8 ids.length :: x :: y :: z :: ids →
    let b := after 0x23 rq s
    let hit := fun n => ∃ f ∈ ids, carriesFence f.toNat (layerOf s n) = true
    let orphans := (ids.filter (fun f => (List.range 6).all (fun n => !carriesFence f.toNat (layerOf s n)))).length
    ((0 : Byte) ∈ ids → exec (.fenceSignal rq) s = answered 0x23 rq { status := stBadParam } b) ∧
    ((0 : Byte) ∉ ids → ∃ t r, exec (.fenceSignal rq) s =
        answered 0x23 rq { status := stOk, payload := le 2 r ++ le 1 orphans ++ le 1 0 } t ∧ r ≤ 6 ∧
      t = { b with cmp := { b.cmp with layers := t.cmp.layers, orphans := min 65535 (b.cmp.orphans + orphans) } } ∧
      (r = 0 ↔ ∀ n, n < 6 → ¬(hit n ∧ (layerOf s n).released = false)) ∧
      ∀ n, n < 6 → (hit n → layerOf t n =
          { layerOf s n with released := true, back := if (layerOf s n).back = .fenced then .ready else (layerOf s n).back }) ∧
        (¬hit n → layerOf t n = layerOf s n))) ∧
  (∀ (c : Byte) (rest : List Byte) (rq : Rq) (s : State), admits 0x23 rq s = true → rq.payload = c :: rest →
    (c.toNat < 1 ∨ 16 < c.toNat ∨ rq.payload.length ≠ 4 + c.toNat) →
    exec (.fenceSignal rq) s = answered 0x23 rq { status := stBadParam } (after 0x23 rq s))

/-- LOAD_LUT and LOAD_COEFFS without COMMIT write their entries into the back copy and leave the front copy; while a committed copy
waits for its latch they are BUSY; entries beyond the table, or no entries without COMMIT, return BAD_PARAM, and so does a phase with a
tap outside -512 to 511 or a sum other than 256, named in the reply. With COMMIT the entries are written too, the copy is committed if
the check value agrees, and FAILED is returned otherwise, with the entries kept in the back copy. SIGNATURE_REGION with legal fields
waits for its binding, in the place of one before it; DISABLE of a region keeps its other fields; illegal fields return BAD_PARAM. The
model's choice in it: DISABLE of a region keeps its other fields (log entry 51). -/
def Obligations.TablesAndRegionsLoad : Prop :=
  (∀ (rq : Rq) (tab : Table) (s : State), admits 0x24 rq s = true →
    let p := rq.payload
    let t := field p 0 1
    let first := field p 2 2
    let n := field p 4 2
    let b := after 0x24 rq s
    let vals := (List.range n).map (fun i => ((field p (12 + lutEntry t * i) (lutEntry t) % 2 ^ (if lutEntry t = 2 then 16 else 24) : Nat) : Int))
    t ≤ 12 → n ≤ 504 → p.length = 12 + lutEntry t * n → s.cmp.tables[t]? = some tab →
    (lutSize t < first + n → exec (.loadLut rq) s = answered 0x24 rq { status := stBadParam } b) ∧
    (n = 0 → (field p 1 1).testBit 0 = false → exec (.loadLut rq) s = answered 0x24 rq { status := stBadParam } b) ∧
    (first + n ≤ lutSize t → (1 ≤ n ∨ (field p 1 1).testBit 0 = true) → tab.pending = true →
      exec (.loadLut rq) s = answered 0x24 rq { status := stBusy } b) ∧
    (first + n ≤ lutSize t → 1 ≤ n → tab.pending = false → (field p 1 1).testBit 0 = false →
      ∃ u y, exec (.loadLut rq) s = answered 0x24 rq { status := stOk } u ∧
        u = { b with cmp := { b.cmp with tables := b.cmp.tables.set t y } } ∧ y.front = tab.front ∧ y.pending = false ∧
        (∀ i, (i < first ∨ first + n ≤ i) → entryOf (lutReset t) y.back i = entryOf (lutReset t) tab.back i) ∧
        (∀ i v, vals[i]? = some v → tab.back.Pairwise (fun c d => c.1 < d.1) → entryOf (lutReset t) y.back (first + i) = v)) ∧
    (first + n ≤ lutSize t → tab.pending = false → (field p 1 1).testBit 0 = true →
      ∃ u y st, exec (.loadLut rq) s = answered 0x24 rq { status := st } u ∧
        u = { b with cmp := { b.cmp with tables := b.cmp.tables.set t y } } ∧ y.front = tab.front ∧
        (lutCrc t y.back = field p 8 4 → st = stOk ∧ y.pending = true) ∧ (lutCrc t y.back ≠ field p 8 4 → st = stFailed ∧ y.pending = false) ∧
        (∀ i, (i < first ∨ first + n ≤ i) → entryOf (lutReset t) y.back i = entryOf (lutReset t) tab.back i) ∧
        (∀ i v, vals[i]? = some v → tab.back.Pairwise (fun c d => c.1 < d.1) → entryOf (lutReset t) y.back (first + i) = v))) ∧
  (∀ (rq : Rq) (tab : Table) (s : State), admits 0x25 rq s = true →
    let p := rq.payload
    let t := field p 0 1
    let first := field p 2 1
    let n := field p 3 1
    let b := after 0x25 rq s
    let vals := (List.range (n * tapCount t)).map (fun i => fieldI p (8 + 2 * i) 2)
    t ≤ 7 → n ≤ 32 → p.length = 8 + 2 * tapCount t * n → s.scl.tables[t]? = some tab →
    (64 < first + n → exec (.loadCoeffs rq) s = answered 0x25 rq { status := stBadParam } b) ∧
    (n = 0 → (field p 1 1).testBit 0 = false → exec (.loadCoeffs rq) s = answered 0x25 rq { status := stBadParam } b) ∧
    (∀ i j, first + n ≤ 64 → phaseFault (tapCount t) n 0 vals = some (i, j) →
      exec (.loadCoeffs rq) s = answered 0x25 rq { status := stBadParam, payload := le 1 (first + i) ++ le 1 j ++ le 2 0 } b) ∧
    (first + n ≤ 64 → (1 ≤ n ∨ (field p 1 1).testBit 0 = true) → phaseFault (tapCount t) n 0 vals = none → tab.pending = true →
      exec (.loadCoeffs rq) s = answered 0x25 rq { status := stBusy } b) ∧
    (first + n ≤ 64 → 1 ≤ n → phaseFault (tapCount t) n 0 vals = none → tab.pending = false → (field p 1 1).testBit 0 = false →
      ∃ u y, exec (.loadCoeffs rq) s = answered 0x25 rq { status := stOk } u ∧
        u = { b with scl := { b.scl with tables := b.scl.tables.set t y } } ∧ y.front = tab.front ∧ y.pending = false ∧
        (∀ i, (i < first * tapCount t ∨ (first + n) * tapCount t ≤ i) → entryOf (coefReset t) y.back i = entryOf (coefReset t) tab.back i) ∧
        (∀ i v, vals[i]? = some v → tab.back.Pairwise (fun c d => c.1 < d.1) → entryOf (coefReset t) y.back (first * tapCount t + i) = v)) ∧
    (first + n ≤ 64 → phaseFault (tapCount t) n 0 vals = none → tab.pending = false → (field p 1 1).testBit 0 = true →
      ∃ u y st, exec (.loadCoeffs rq) s = answered 0x25 rq { status := st } u ∧
        u = { b with scl := { b.scl with tables := b.scl.tables.set t y } } ∧ y.front = tab.front ∧
        (coefCrc t y.back = field p 4 4 → st = stOk ∧ y.pending = true) ∧ (coefCrc t y.back ≠ field p 4 4 → st = stFailed ∧ y.pending = false) ∧
        (∀ i, (i < first * tapCount t ∨ (first + n) * tapCount t ≤ i) → entryOf (coefReset t) y.back i = entryOf (coefReset t) tab.back i) ∧
        (∀ i v, vals[i]? = some v → tab.back.Pairwise (fun c d => c.1 < d.1) → entryOf (coefReset t) y.back (first * tapCount t + i) = v))) ∧
  (∀ (rq : Rq) (g : Sig) (s : State), admits 0x26 rq s = true → rq.payload.length = 24 →
    let p := rq.payload
    let r := field p 0 1
    let b := after 0x26 rq s
    (sigFieldsOk p = false → exec (.signatureRegionConfigure rq) s = answered 0x26 rq { status := stBadParam } b) ∧
    (sigFieldsOk p = true → field p 1 1 = 0 → s.chk.sigs[r]? = some g →
      exec (.signatureRegionConfigure rq) s = answered 0x26 rq { status := stOk } { b with chk := { b.chk with sigs := b.chk.sigs.set r { g with
        pend := some (sigCfgOf p g.cfg, if field p 6 1 = 0xFF then 15 else field p 6 1) } } }) ∧
    (r ≤ 15 → field p 1 1 = 1 → s.chk.sigs[r]? = some g →
      exec (.signatureRegionDisable rq) s = answered 0x26 rq { status := stOk } { b with chk := { b.chk with sigs := b.chk.sigs.set r { g with
        pend := some ({ g.cfg with mode := 0 }, 15) } } }))

/-! ### The fault collector -/

/-- A NOTE touches only the records. In an awake device, of level WARN and above, outside every collateral window that names it, an
event takes its class to the higher of the class level and its own, counts an occurrence, clears ACKED, enters the history and fills an
empty first-fault capture; with ESC_COMPAT set, where its class is latched and not acknowledged, it acts at one level more, at most
SNUFF, and counts an escalation; otherwise it is never escalated. Below SNUFF it changes no mode, and at SNUFF it clears sink-enable,
enters SNUFFED and holds its class; in a lit mode FAULT_N is low afterwards if it was low, or the level reaches FAULTN_LEVEL. As
collateral of an open window, below SNUFF, it changes no class level, is not escalated and counts as collateral. A device that is not
awake records nothing, and past the point of no return of a sleep entry a SNUFF event still clears sink-enable. -/
def Obligations.RaiseLatches : Prop :=
  (∀ (e : RawEvent) (s : State), e.level = 0 → windowOpenFor e.code s = false → recordsOnly s (raise e s) ∧ (raise e s).flt.classes = s.flt.classes) ∧
  (∀ (e : RawEvent) (s : State), awake s = true → shaped s = true → evClass e.code < 18 → 1 ≤ e.level → e.level ≤ 4 →
    (e.level = 4 ∨ windowOpenFor e.code s = false) →
    let c := evClass e.code
    let k := classOf s.flt c
    let esc := s.flt.escCompat = true ∧ k.level ≠ 0 ∧ k.acked = false
    let lv := if esc then min (e.level + 1) 4 else e.level
    let t := raise e s
    (classOf t.flt c).level = max k.level lv ∧ (classOf t.flt c).acked = false ∧
    (classOf t.flt c).occurrences = min 65535 (k.occurrences + 1) ∧
    (classOf t.flt c).escalations = (if esc then min 65535 (k.escalations + 1) else k.escalations) ∧
    (∀ d, d ≠ c → (classOf t.flt d).level = (classOf s.flt d).level ∧ (classOf t.flt d).hold = (classOf s.flt d).hold) ∧
    (∃ r : Rec, t.flt.hist = (r :: s.flt.hist).take 16 ∧ r.code = e.code ∧ r.level = lv ∧ (s.flt.first = none → t.flt.first = some r)) ∧
    (s.flt.first.isSome = true → t.flt.first = s.flt.first) ∧
    (litMode s.pwr.mode = true → (faultNLow t = true ↔ (faultNLow s = true ∨ s.flt.faultnLevel ≤ lv ∨ lv = 4))) ∧
    (lv < 4 → t.pwr.mode = s.pwr.mode ∧ t.arr = s.arr ∧ (classOf t.flt c).hold = k.hold) ∧
    (lv = 4 → t.arr.sinkEn = false ∧ (classOf t.flt c).hold = true ∧ t.pwr.mode = .snuffed ∧
      (s.pwr.mode ≠ .snuffed → t.pwr.entryCause = snuffCause e.code ∧ t.pwr.readyPin = false))) ∧
  (∀ (e : RawEvent) (s : State), awake s = true → shaped s = true → evClass e.code < 18 → 1 ≤ e.level → e.level < 4 →
    windowOpenFor e.code s = true →
    let c := evClass e.code
    let t := raise e s
    (classOf t.flt c).level = (classOf s.flt c).level ∧ (classOf t.flt c).collateral = min 65535 ((classOf s.flt c).collateral + 1) ∧
    (classOf t.flt c).escalations = (classOf s.flt c).escalations ∧ t.flt.first = s.flt.first ∧
    t.flt.collateral = min (2 ^ 32 - 1) (s.flt.collateral + 1) ∧ recordsOnly s t) ∧
  (∀ (e : RawEvent) (s : State), awake s = false →
    ((pastReturn s = false ∨ e.level < 4) → raise e s = s) ∧
    (pastReturn s = true → 4 ≤ e.level → (raise e s).arr.sinkEn = false ∧ (raise e s).flt = s.flt ∧ (raise e s).evr = s.evr)) ∧
  (∀ (e : RawEvent) (s : State), recordsOnly s (note e s))

/-- In an awake device every detector row raises the event of its table row with its parameters; once Limral is ready that is all it
does, and before that CORE_UV, HV_UV, PLL_UNLOCK and XTAL_FAIL also stop the boot; PLL_UNLOCK is none while the PLLs are not locked or
P-level changes. An event that is no condition is raised at its level; a condition joins those present and is raised, once. A
disagreement of the witness raises the event and WITNESS_DISAGREE, the higher level first. Without a tile in progress the tile of
ENGINE_PARITY is a free value. A device that is not awake only clears sink-enable, past the point of no return. A collector self-fault
turns the sinks off, enters SNUFFED and leaves only COLLECTOR_SELF latched. A collateral window that closes with no collateral condition
left only closes, and one with a condition that no other window names raises it as real. -/
def Obligations.DetectorsRaise : Prop :=
  (∀ (e : RawEvent) (s : State), knownEvent e.code = true →
    let f := { e with level := trueLevel e }
    let did := fun (x : State) => if evIsCondition e.code = false then raise f x else
      if condIs e.code (condUnit e) x = true then x else raise f (addCond (condUnit e) f x)
    (awake s = true → exec (.eventRaise e) s = .next (did s) ∧
      (2 ≤ trueLevel e → exec (.witnessDisagree e) s = .next (raiseF 0x1102 e.code 0 0 (did s))) ∧
      (trueLevel e < 2 → exec (.witnessDisagree e) s = .next (did (raiseF 0x1102 e.code 0 0 s)))) ∧
    (awake s = false → exec (.eventRaise e) s = .next (lateSinks (trueLevel e) s) ∧
      exec (.witnessDisagree e) s = .next (lateSinks (trueLevel e) s))) ∧
  (∀ (e : RawEvent) (s : State), knownEvent e.code = false → exec (.eventRaise e) s = .next s ∧ exec (.witnessDisagree e) s = .next s) ∧
  (∀ (u w mv k : Nat) (s : State), awake s = true → s.pwr.limral = true →
    let f := s.ft.frameCount
    exec (.linkIslandError u w) s = .next (raise (ev 0x0111 u w 0 f) s) ∧
    (u < 4 → exec (.coreUv u mv) s = .next (raise (ev 0x0801 u mv s.pwr.plevel f) s)) ∧
    exec (.hvUv mv) s = .next (raise (ev 0x0802 mv 0 0 f) s) ∧
    (u < 3 → s.pwr.pllOk = true → s.pwr.changing = false → exec (.pllUnlock u) s = .next (raise (ev 0x0F04 u s.pwr.plevel 0 f) s)) ∧
    exec (.xtalFail k) s = .next (raise (ev 0x0F05 k 0 0 f) s)) ∧
  (∀ (u w mv k : Nat) (s : State),
    (u < 3 → (s.pwr.pllOk = false ∨ s.pwr.changing = true) → exec (.pllUnlock u) s = .next s) ∧
    (awake s = false → exec (.linkIslandError u w) s = .next s ∧ (u < 4 → exec (.coreUv u mv) s = .next (lateSinks 4 s)) ∧
      exec (.hvUv mv) s = .next (lateSinks 4 s) ∧ exec (.xtalFail k) s = .next (lateSinks 4 s) ∧
      (u < 24 → exec (.engineParity u w) s = .next s))) ∧
  (∀ (u mv k : Nat) (s : State), awake s = true → s.pwr.limral = false → u < 3 → s.pwr.pllOk = true → s.pwr.changing = false →
    (∃ t, exec (.coreUv u mv) s = .next t ∧ t.pwr.dead = true) ∧ (∃ t, exec (.hvUv mv) s = .next t ∧ t.pwr.dead = true) ∧
    (∃ t, exec (.pllUnlock u) s = .next t ∧ t.pwr.dead = true) ∧ ∃ t, exec (.xtalFail k) s = .next t ∧ t.pwr.dead = true) ∧
  (∀ (e pass : Nat) (s : State), awake s = true → e < 24 →
    (∀ t, (engOf s e).tile = some t → exec (.engineParity e pass) s = .next (raise (ev 0x0303 e t pass s.ft.frameCount) s)) ∧
    ((engOf s e).tile = none → exec (.engineParity e pass) s =
      .next (raise (ev 0x0303 e (takeFree s).1 pass s.ft.frameCount) (takeFree s).2))) ∧
  (∀ (p persists : Bool) (w : Nat) (s : State), awake s = true → shaped s = true →
    ∃ t, exec (.collectorSelf p w persists) s = .next t ∧ t.arr.sinkEn = false ∧ t.pwr.mode = .snuffed ∧ t.flt.selfFault = true ∧
      t.flt.selfCount = min 255 (s.flt.selfCount + 1) ∧ t.flt.selfWord = w % 256 ∧ t.flt.selfParity = p ∧ t.flt.hist.length = 1 ∧
      (classOf t.flt 17).level = 4 ∧ (classOf t.flt 17).hold = true ∧
      (∀ c, c < 17 → (classOf t.flt c).level = 0 ∧ (classOf t.flt c).hold = false) ∧ condIs 0x1101 0 t = (persists || condIs 0x1101 0 s)) ∧
  (∀ (r : Nat) (s : State), awake s = true → r < 6 → r ≠ 4 →
    (s.flt.windows.contains r = false → exec (.collateralWindowClose r) s = .next s) ∧
    (s.flt.windows.contains r = true → (∀ c ∈ s.flt.conds, c.collateral = false) →
      exec (.collateralWindowClose r) s = .next { s with flt := { s.flt with windows := s.flt.windows.filter (· ≠ r) } }) ∧
    (∀ (c : Cond) (l1 l2 : List Cond), s.flt.windows = [r] → s.flt.conds = l1 ++ c :: l2 → c.collateral = true →
      (∀ x ∈ l1 ++ l2, x.collateral = false ∧ (x.code ≠ c.code ∨ x.unit ≠ c.unit)) → (dependents r).contains c.code = true → c.unit ≠ injectUnit →
      exec (.collateralWindowClose r) s = .next (raise { code := c.code, level := c.level, p0 := c.p0, p1 := c.p1, p2 := c.p2, p3 := c.p3 }
        { s with flt := { s.flt with windows := [], conds := l1 ++ { c with collateral := false } :: l2 } })))

/-- A clear takes each class of its mask to the level of its conditions that are present and ends its ACKED, leaves the other classes,
and empties the first-fault capture when every class is at 0. FAULT_CLEAR with ACTION CLEAR clears, takes the events of that clock,
records FAULTS_CLEARED and replies OK, or REFUSED with the classes that remain, an event of the clock among them; in SNUFFED with no
class held it starts a re-kindle. ACK sets ACKED of the latched classes of its mask, and an event of its clock is judged against the
flags as they stood before. A dry injection records and enters the history, and changes no class, no condition and no mode; a live one
in PILOT or SNUFFED latches and is present, elsewhere it returns WRONG_MODE; one of a condition that is really present counts as
coincident. An injection ends by its hold, or is counted as coincident with a real event, which then takes its full reaction, at the
level of the unit that its parameters name, and, a condition, is present. -/
def Obligations.FaultCommandsAct : Prop :=
  (∀ (mask : Nat) (s : State), shaped s = true →
    let t := clearClasses mask s
    (∀ c, 1 ≤ c → c < 18 → mask.testBit c = true → (classOf t.flt c).level = presentLevel s.flt c ∧ (classOf t.flt c).acked = false) ∧
    (∀ c, (c = 0 ∨ mask.testBit c = false) → classOf t.flt c = classOf s.flt c) ∧
    ((∀ c, c < 18 → (classOf t.flt c).level = 0) → t.flt.first = none) ∧ t = { s with flt := t.flt }) ∧
  (∀ (m : Nat) (x0 x1 x2 : Byte) (during : List RawEvent) (rq : Rq) (s : State), admits 0x51 rq s = true →
    rq.payload = le 4 m ++ [0, x0, x1, x2] → m < 2 ^ 32 → bits m 1 17 ≠ 0 →
    let b := after 0x51 rq s
    let u := sameClock b.flt during (clearClasses m b)
    let rem := remaining m u
    let v := fun k => noteF 0x1103 (2 * bits m 1 17) rem k u
    let r := fun k => ({ status := if rem = 0 then stOk else stRefused, payload := le 4 rem ++ le 1 k ++ le 1 (levelMax (v k).flt) ++ le 2 0 } : Rep)
    ((u.pwr.mode ≠ .snuffed ∨ anyHold u.flt = true) → exec (.faultClearClear rq during) s = answered 0x51 rq (r 0) (v 0)) ∧
    (u.pwr.mode = .snuffed → anyHold u.flt = false → exec (.faultClearClear rq during) s = answered 0x51 rq (r 1) (rekindle 2 (v 1)) ∧
      (rekindle 2 (v 1)).pwr.mode = .kindle ∧ (rekindle 2 (v 1)).pwr.entryCause = 2)) ∧
  (∀ (f : Flt) (s : State), sameClock f [] s = s) ∧
  (∀ (m : Nat) (x0 x1 x2 : Byte) (e : RawEvent) (rq : Rq) (s : State), admits 0x51 rq s = true → shaped s = true →
    rq.payload = le 4 m ++ [0, x0, x1, x2] → m < 2 ^ 32 → knownEvent e.code = true → evIsCondition e.code = false → 1 ≤ trueLevel e →
    trueLevel e < 4 → windowOpenFor e.code s = false → s.flt.escCompat = false → s.pwr.mode ≠ .snuffed → m.testBit (evClass e.code) = true →
    let c := evClass e.code
    let b := after 0x51 rq s
    1 ≤ c → c < 18 → ∃ t p, exec (.faultClearClear rq [e]) s = answered 0x51 rq { status := stRefused, payload := p } t ∧
      (field p 0 4).testBit c = true ∧ (classOf t.flt c).level = max (presentLevel b.flt c) (trueLevel e) ∧
      (classOf t.flt c).occurrences = min 65535 ((classOf b.flt c).occurrences + 1)) ∧
  (∀ (m : Nat) (x0 x1 x2 : Byte) (rq : Rq) (s : State), admits 0x51 rq s = true → shaped s = true → rq.payload = le 4 m ++ [1, x0, x1, x2] →
    m < 2 ^ 32 → bits m 1 17 ≠ 0 →
    ∃ t, exec (.faultClearAck rq []) s =
        answered 0x51 rq { status := stOk, payload := le 4 0 ++ le 1 0 ++ le 1 (levelMax (after 0x51 rq s).flt) ++ le 2 0 } t ∧
      ∀ c, 1 ≤ c → c < 18 → ((classOf t.flt c).acked = true ↔ ((classOf (after 0x51 rq s).flt c).acked = true ∨
        (m.testBit c = true ∧ (classOf (after 0x51 rq s).flt c).level ≠ 0)))) ∧
  (∀ (m : Nat) (x0 x1 x2 : Byte) (e : RawEvent) (rq : Rq) (s : State), admits 0x51 rq s = true → shaped s = true →
    rq.payload = le 4 m ++ [1, x0, x1, x2] → m < 2 ^ 32 → knownEvent e.code = true → evIsCondition e.code = false → 1 ≤ trueLevel e →
    trueLevel e < 4 → windowOpenFor e.code s = false → s.flt.escCompat = true → m.testBit (evClass e.code) = true →
    let c := evClass e.code
    let k := classOf (after 0x51 rq s).flt c
    1 ≤ c → c < 18 → k.level ≠ 0 → k.acked = false → ∃ t p, exec (.faultClearAck rq [e]) s = answered 0x51 rq { status := stOk, payload := p } t ∧
      (classOf t.flt c).level = max k.level (trueLevel e + 1) ∧ (classOf t.flt c).acked = false ∧
      (classOf t.flt c).escalations = min 65535 (k.escalations + 1)) ∧
  (∀ (rq : Rq) (s : State), admits 0x52 rq s = true → rq.payload.length = 8 → shaped s = true → s.pwr.mode ≠ .kindle →
    let code := field rq.payload 0 2
    let live := field rq.payload 2 1
    let dur := field rq.payload 4 2
    injectable code s = true → s.flt.inj = none → (evIsCondition code = true → 1 ≤ dur ∧ dur ≤ 1000) →
    ((evIsCondition code = false ∨ realCond code s = none) → live = 0 →
      ∃ t, exec (.faultInjectDry rq) s = answered 0x52 rq { status := stOk } t ∧ (∀ c, (classOf t.flt c).level = (classOf s.flt c).level) ∧
      t.pwr.mode = s.pwr.mode ∧ t.arr = s.arr ∧ t.flt.conds = s.flt.conds ∧ t.flt.inj.isSome = true ∧
      t.flt.injCount = min 65535 (s.flt.injCount + 1)) ∧
    ((evIsCondition code = false ∨ realCond code s = none) → live = 1 → (s.pwr.mode = .pilot ∨ s.pwr.mode = .snuffed) →
      (windowOpenFor code s = false ∨ injectLevel code s = 4) → injectLevel code s ≤ 4 →
      ∃ t, exec (.faultInjectLive rq) s = answered 0x52 rq { status := stOk } t ∧ t.flt.inj.isSome = true ∧
        injectLevel code s ≤ (classOf t.flt (evClass code)).level ∧ (injectLevel code s = 4 → t.pwr.mode = .snuffed) ∧
        (evIsCondition code = true → condIs code injectUnit t = true) ∧ t.flt.injCount = min 65535 (s.flt.injCount + 1)) ∧
    (evIsCondition code = true → (realCond code s).isSome = true → (live = 0 ∨ (live = 1 ∧ (s.pwr.mode = .pilot ∨ s.pwr.mode = .snuffed))) →
      ∃ t, exec (.faultInjectDry rq) s = answered 0x52 rq { status := stOk } t ∧ exec (.faultInjectLive rq) s = exec (.faultInjectDry rq) s ∧
        t.flt.inj = none ∧ t.flt.injCoincident = min 65535 (s.flt.injCoincident + 1))) ∧
  (∀ (rq : Rq) (s : State), admits 0x52 rq s = true → rq.payload.length = 8 → s.pwr.mode ≠ .kindle → field rq.payload 2 1 = 1 →
    s.pwr.mode ≠ .pilot → s.pwr.mode ≠ .snuffed → exec (.faultInjectLive rq) s = answered 0x52 rq { status := stWrongMode } (after 0x52 rq s)) ∧
  (∀ (s : State), s.flt.inj = none → exec .injectionEnd s = .next s ∧ ∀ at_ p0 p1 p2 p3, exec (.injectCoincident at_ p0 p1 p2 p3) s = .next s) ∧
  (∀ (i : Inject) (at_ : Bool) (p0 p1 p2 p3 : Nat) (s : State), awake s = true → s.flt.inj = some i →
    let e : RawEvent := { code := i.code, level := ownLevel i.code p0 s, p0 := p0, p1 := p1, p2 := p2, p3 := p3 }
    let isNew := evIsCondition i.code = false ∨ condIs i.code (condUnit e) s = false
    exec .injectionEnd s = .next (condOff i.code injectUnit { s with flt := { s.flt with inj := none } }) ∧
    ∃ t, exec (.injectCoincident at_ p0 p1 p2 p3) s = .next t ∧ t.flt.inj = none ∧
      t.flt.injCoincident = min 65535 (s.flt.injCoincident + 1) ∧
      (evIsCondition i.code = true → condUnit e ≠ injectUnit → condIs i.code (condUnit e) t = true ∧ condIs i.code injectUnit t = false) ∧
      (at_ = true → trueLevel e = 4 → t.pwr.mode = .snuffed) ∧
      (at_ = false → trueLevel e = 4 → isNew → t.pwr.mode = .snuffed))

/-! ### NVM, calibration, patterns, patches, diagnosis -/

/-- CALIBRATE FULL in PILOT with no calibration running is ACCEPTED and waits for its latch, BUSY while one runs, and TEMP_WINDOW,
counted, if it would store outside the write window; its measurement, in a lit mode and at its stage, stages values and puts none in
use. CALIBRATE SENSORS in a lit mode or SNUFFED is ACCEPTED and completes. CAL_COMMIT with the window open is ACCEPTED and queues every
store of its mask. NVM_READ returns the bytes of MRAM or the scar area, FAILED with the lowest word in error, or BAD_PARAM outside the
space, and changes nothing but a check-value unit on the port. A changed defect list queues its store once. The model's choices in it:
what a CALIBRATE asks to store and until when it can be aborted (log entry 45), and what a unit on SRC 48 or 49 is fed by an NVM access
(log entry 88). -/
def Obligations.NvmCommandsAnswer : Prop :=
  (∀ (f x y : Byte) (rq : Rq) (s : State), admits 0x40 rq s = true → s.pwr.mode = .pilot → rq.payload = [0, f, x, y] →
    let b := after 0x40 rq s
    let u := takeHandle b
    let st := f.toNat.testBit 0
    (s.nvm.calRun ≠ none → exec (.calibrateFull rq) s = answered 0x40 rq { status := stBusy } b) ∧
    (s.nvm.calRun = none → st = true → s.thm.nvmOpen = false → exec (.calibrateFull rq) s = answered 0x40 rq { status := stTempWindow }
      { b with thm := { b.thm with deferReplies := min 65535 (b.thm.deferReplies + 1) } }) ∧
    (s.nvm.calRun = none → (st = false ∨ s.thm.nvmOpen = true) → handleFree s = true →
      exec (.calibrateFull rq) s = answered 0x40 rq { status := stAccepted, handle := newHandle b }
        { u with nvm := { u.nvm with calRun := some { store := st, handle := newHandle b, src := rq.src } } })) ∧
  (∀ (m : CalMeas) (us : Nat) (r : CalRun) (s : State), measOk m = true → awake s = true → s.nvm.calRun = some r →
    ((r.full = false ∨ r.stage ≠ 1 ∨ litMode s.pwr.mode = false) → exec (.calibrateFullMeasure m us) s = .next s) ∧
    (litMode s.pwr.mode = true → r.full = true → r.stage = 1 →
    ∃ t, exec (.calibrateFullMeasure m us) s = .next t ∧ t.arr.sinkOfs = s.arr.sinkOfs ∧ t.arr.preLevel = s.arr.preLevel ∧
      (litMode t.pwr.mode = true → t.pwr.mode = s.pwr.mode ∧ t.arr.staged.isSome = true ∧ ∃ r', t.nvm.calRun = some r' ∧ r'.stage = 2 ∧ r'.handle = r.handle))) ∧
  (∀ (f x y : Byte) (rd : List Int) (rq : Rq) (s : State), admits 0x40 rq s = true → (litMode s.pwr.mode = true ∨ s.pwr.mode = .snuffed) →
    rq.payload = [1, f, x, y] → rd.length = 36 → s.nvm.calRun = none → (f.toNat.testBit 0 = false ∨ s.thm.nvmOpen = true) → handleFree s = true →
    ∃ t e, exec (.calibrateSensors rq rd) s = answered 0x40 rq { status := stAccepted, handle := newHandle (after 0x40 rq s) } t ∧
      e ∈ t.cmd.cq ∧ e.handle = newHandle (after 0x40 rq s) ∧ e.opcode = 0x40) ∧
  (∀ (m x y z : Byte) (rq : Rq) (s : State), admits 0x41 rq s = true → rq.payload = [m, x, y, z] →
    let b := after 0x41 rq s
    (m.toNat % 16 = 0 → exec (.calCommit rq) s = answered 0x41 rq { status := stBadParam } b) ∧
    (m.toNat % 16 ≠ 0 → s.thm.nvmOpen = true → handleFree s = true →
      ∃ t, exec (.calCommit rq) s = answered 0x41 rq { status := stAccepted, handle := newHandle b } t ∧
        t.nvm.commits = s.nvm.commits ++ [{ full := false, stage := 3, handle := newHandle b, src := rq.src, todo := m.toNat % 16 }] ∧
        ∀ c, c ∈ calContents (m.toNat % 16) → ∃ q ∈ t.nvm.queue, q.content = c ∧ newHandle b ∈ q.who)) ∧
  (∀ (sp z : Byte) (count addr : Nat) (rq : Rq) (s : State), admits 0x42 rq s = true → count < 65536 → addr < 2 ^ 32 →
    rq.payload = [sp, z] ++ le 2 count ++ le 4 addr →
    let b := after 0x42 rq s
    let words := if sp = 1 then s.nvm.scarBad else s.nvm.badWords
    let bad := words.filter (fun w => decide (addr < 8 * w + 8 ∧ 8 * w < addr + count))
    let fits := sp.toNat ≤ 1 ∧ 1 ≤ count ∧ count ≤ 1016 ∧ addr + count ≤ (if sp = 1 then 1024 else 0x800000)
    let leaves := fun (u : State) => u = { b with chk := u.chk, free := u.free } ∧ ((∀ g ∈ s.chk.gus, g.en = false ∨ g.src ≠ 49) → u = b)
    (fits → bad = [] → ∃ t, exec (.nvmRead rq) s = answered 0x42 rq { status := stOk, payload := memRead (if sp = 1 then s.nvm.scar else s.nvm.mram) addr count } t ∧ leaves t) ∧
    (∀ w, fits → w ∈ bad → (∀ v ∈ bad, w ≤ v) → ∃ t,
      exec (.nvmRead rq) s = answered 0x42 rq { status := stFailed, payload := le 4 (8 * w) } t ∧ leaves t) ∧
    ((count = 0 ∨ 1016 < count ∨ (sp = 0 ∧ 0x800000 < addr + count) ∨ (sp = 1 ∧ 1024 < addr + count) ∨ 1 < sp.toNat) →
      exec (.nvmRead rq) s = answered 0x42 rq { status := stBadParam } b)) ∧
  (∀ s : State, awake s = true → s.diag.storePending = true → (∀ q ∈ s.nvm.queue, q.content ≠ 4) →
    exec .defectListStore s = .next { s with nvm := { s.nvm with queue := s.nvm.queue ++ [{ content := 4 }], retry := s.nvm.retry.filter (fun r => !r.patch.isEmpty) } }) ∧
  (∀ s : State, (s.diag.storePending = false ∨ (∃ q ∈ s.nvm.queue, q.content = 4)) → exec .defectListStore s = .next s)

/-- With the write window open: BEGIN starts a load, sets the target's COMMIT to 0 (for a patch, the area's) and leaves every other byte
of MRAM; DATA at the expected offset writes its bytes and no other and moves the offset on, is BAD_PARAM at another offset and FAILED,
ending the load, where the verify fails; COMMIT is ACCEPTED once every byte is written and REFUSED before; ABORT ends the load, and a
COMMIT that runs with FAILED. A COMMIT that passes its checks and writes ends the load with the slot, or the area, committed, factory
trim in a trim slot too, and completes OK; one whose image fails a check completes FAILED with that code and leaves MRAM, and one whose
write fails leaves all but its header. An image passes exactly with its MAGIC, LENGTH, ROM_VERSION, sound words and signature. The
model's choices in it: the generation of a pattern and an ABORT during a COMMIT (log entry 41), a COMMIT at the end of the write window
(log entry 46), a further COMMIT while one runs (log entry 89), and the digest and signature of a patch (log entry 90). -/
def Obligations.PatternAndPatchLoads : Prop :=
  (∀ (rq : Rq) (s : State), admits 0x43 rq s = true → canonical s = true → s.thm.nvmOpen = true → rq.payload.length = 8 →
    field rq.payload 0 1 = 0 → (∀ l, s.nvm.pw = some l → l.commits = []) →
    let c := field rq.payload 1 1
    let k := storeTarget s c
    (c = 1 → slotCommitted s 1 2 = true → field rq.payload 4 4 = bodyLen 1 →
      exec (.patternWriteBegin rq) s = answered 0x43 rq { status := stRefused } (after 0x43 rq s)) ∧
    (c ∈ [0, 1, 6, 7, 8] → (c = 1 → slotCommitted s 1 2 = false) → field rq.payload 4 4 = bodyLen c →
      ∃ t, exec (.patternWriteBegin rq) s = answered 0x43 rq { status := stOk } t ∧
        t.nvm.pw = some { target := c, slot := k, gen := newGen s c } ∧ slotCommitted t c k = false ∧
        ∀ a, (a < slotBase c k + 56 ∨ slotBase c k + 64 ≤ a) → memGet t.nvm.mram a = memGet s.nvm.mram a) ∧
    ((c ∉ [0, 1, 6, 7, 8] ∨ field rq.payload 4 4 ≠ bodyLen c) →
      exec (.patternWriteBegin rq) s = answered 0x43 rq { status := stBadParam } (after 0x43 rq s))) ∧
  (∀ (data : List Byte) (x : List Byte) (off : Nat) (l : PwLoad) (rq : Rq) (s : State), admits 0x43 rq s = true → canonical s = true →
    s.thm.nvmOpen = true → x.length = 3 → rq.payload = [1] ++ x ++ le 4 off ++ data → off < 2 ^ 32 → 8 ≤ data.length → data.length ≤ 1016 →
    data.length % 8 = 0 → s.nvm.pw = some l → off + data.length ≤ bodyLen l.target →
    let base := slotBase l.target l.slot + 64 + off
    (off = l.bytes → ∃ t, exec (.patternWriteData rq false) s = answered 0x43 rq { status := stOk } t ∧
      t.nvm.pw = some { l with bytes := off + data.length } ∧ memRead t.nvm.mram base data.length = data ∧
      ∀ a, (a < base ∨ base + data.length ≤ a) → memGet t.nvm.mram a = memGet s.nvm.mram a) ∧
    (off ≠ l.bytes → ∀ v, exec (.patternWriteData rq v) s = answered 0x43 rq { status := stBadParam } (after 0x43 rq s)) ∧
    (off = l.bytes → ∃ t, exec (.patternWriteData rq true) s = answered 0x43 rq { status := stFailed } t ∧ t.nvm.pw = none ∧
      t.nvm.verifyFails = min 65535 (s.nvm.verifyFails + 1))) ∧
  (∀ (l : PwLoad) (x : List Byte) (rq : Rq) (s : State), admits 0x43 rq s = true → s.thm.nvmOpen = true → x.length = 7 → s.nvm.pw = some l →
    let b := after 0x43 rq s
    let u := takeHandle b
    (rq.payload = 2 :: x → l.bytes = bodyLen l.target → handleFree s = true →
      exec (.patternWriteCommit rq) s = answered 0x43 rq { status := stAccepted, handle := newHandle b }
        { u with nvm := { u.nvm with pw := some { l with commits := l.commits ++ [(newHandle b, rq.src)] } } }) ∧
    (rq.payload = 2 :: x → l.bytes ≠ bodyLen l.target → exec (.patternWriteCommit rq) s = answered 0x43 rq { status := stRefused } b) ∧
    (rq.payload = 3 :: x → l.commits = [] →
      exec (.patternWriteAbort rq) s = answered 0x43 rq { status := stOk } { b with nvm := { b.nvm with pw := none } }) ∧
    (∀ h w, rq.payload = 3 :: x → l.commits = [(h, w)] → h ∈ s.cmd.outstanding →
      ∃ t e, exec (.patternWriteAbort rq) s = answered 0x43 rq { status := stOk } t ∧ t.nvm.pw = none ∧ t.cmd.cq = b.cmd.cq ++ [e] ∧
        e.handle = h ∧ e.status = stFailed)) ∧
  (∀ (l : PwLoad) (h : Nat) (x : Src) (cf : Option Nat) (s : State), awake s = true → canonical s = true → s.nvm.pw = some l →
    l.commits = [(h, x)] → h ∈ s.cmd.outstanding →
    let body := slotBody s l.target l.slot
    let ends := fun (t : State) (st r0 : Nat) => t.nvm.pw = none ∧ ∃ r1, t.cmd.cq = s.cmd.cq ++
      [{ handle := h, opcode := 0x43, status := st, source := srcNo x, r0 := r0 % 2 ^ 32, r1 }]
    (pwContentOk l.target body = false → ∀ f, ∃ t, exec (.patternWriteCommitDone f cf) s = .next t ∧ ends t stFailed 1 ∧ t.nvm.mram = s.nvm.mram) ∧
    (pwContentOk l.target body = true → ∃ t, exec (.patternWriteCommitDone true cf) s = .next t ∧ ends t stFailed 2 ∧
      t.nvm.verifyFails = min 65535 (s.nvm.verifyFails + 1) ∧
      ∀ a, (a < slotBase l.target l.slot ∨ slotBase l.target l.slot + 56 ≤ a) → memGet t.nvm.mram a = memGet s.nvm.mram a) ∧
    (pwContentOk l.target body = true → l.target ∈ [0, 6, 7, 8] → l.slot < 3 → ∃ t, exec (.patternWriteCommitDone false cf) s = .next t ∧
      ends t stOk l.gen ∧ slotCommitted t l.target l.slot = true) ∧
    (l.target = 1 → l.slot = 2 → ∃ t, exec (.patternWriteCommitDone false none) s = .next t ∧ ends t stOk l.gen ∧ slotCommitted t 1 2 = true ∧
      slotCommitted t 0 (storeTarget s 0) = true ∧ slotBody t 0 (storeTarget s 0) = body) ∧
    (l.target = 1 → l.slot = 2 → ∀ n, ∃ t, exec (.patternWriteCommitDone false (some n)) s = .next t ∧ ends t stFailed 2 ∧
      slotCommitted t 1 2 = true ∧ slotCommitted t 0 (storeTarget s 0) = false)) ∧
  (∀ (x : List Byte) (n : Nat) (rq : Rq) (s : State), admits 0xF0 rq s = true → canonical s = true → s.thm.nvmOpen = true →
    (s.pwr.mode = .pilot ∨ s.pwr.mode = .snuffed) → x.length = 3 → rq.payload = [0] ++ x ++ le 4 n → n < 2 ^ 32 →
    (patchLenOk n = true → ∃ t, exec (.fwPatchBegin rq) s = answered 0xF0 rq { status := stOk } t ∧ t.cmd.patch = some { length := n } ∧
      t.cmd.patchBytes = 0 ∧ patchCommitted t = false) ∧
    (patchLenOk n = false → exec (.fwPatchBegin rq) s = answered 0xF0 rq { status := stBadParam } (after 0xF0 rq s))) ∧
  (∀ (x data : List Byte) (off : Nat) (l : PatchLoad) (rq : Rq) (s : State), admits 0xF0 rq s = true → canonical s = true → s.thm.nvmOpen = true →
    (s.pwr.mode = .pilot ∨ s.pwr.mode = .snuffed) → x.length = 3 → rq.payload = [1] ++ x ++ le 4 off ++ data → off < 2 ^ 32 → 4 ≤ data.length →
    data.length ≤ 1016 → data.length % 4 = 0 → s.cmd.patch = some l → off = s.cmd.patchBytes → off + data.length ≤ l.length →
    (∃ t, exec (.fwPatchData rq false) s = answered 0xF0 rq { status := stOk } t ∧ t.cmd.patchBytes = off + data.length ∧
      memRead t.nvm.mram (patchBase + off) data.length = data ∧
      ∀ a, (a < patchBase + off ∨ patchBase + off + data.length ≤ a) → memGet t.nvm.mram a = memGet s.nvm.mram a) ∧
    ∃ t, exec (.fwPatchData rq true) s = answered 0xF0 rq { status := stFailed } t ∧ t.cmd.patch = none) ∧
  (∀ (sg x : List Byte) (l : PatchLoad) (rq : Rq) (s : State), admits 0xF0 rq s = true → s.thm.nvmOpen = true →
    (s.pwr.mode = .pilot ∨ s.pwr.mode = .snuffed) → s.cmd.patch = some l → l.commits = [] → x.length = 7 → sg.length = 64 →
    let b := after 0xF0 rq s
    let u := takeHandle b
    (rq.payload = 2 :: x ++ sg → l.length ≤ s.cmd.patchBytes → handleFree s = true →
      exec (.fwPatchCommit rq) s = answered 0xF0 rq { status := stAccepted, handle := newHandle b }
        { u with cmd := { u.cmd with patch := some { l with sig := sg, commits := [(newHandle b, rq.src)] } } }) ∧
    (rq.payload = 2 :: x ++ sg → s.cmd.patchBytes < l.length → exec (.fwPatchCommit rq) s = answered 0xF0 rq { status := stRefused } b) ∧
    (rq.payload = 3 :: x → exec (.fwPatchAbort rq) s = answered 0xF0 rq { status := stOk } { b with cmd := { b.cmd with patch := none } })) ∧
  (∀ (l : PatchLoad) (h : Nat) (x : Src) (s : State), awake s = true → canonical s = true → s.cmd.patch = some l → l.commits = [(h, x)] →
    h ∈ s.cmd.outstanding →
    let f := patchFault s (some l.length) l.sig
    let ends := fun (v : State) (st r0 r1 : Nat) => v.cmd.patch = none ∧ v.cmd.cq = s.cmd.cq ++
      [{ handle := h, opcode := 0xF0, status := st, source := srcNo x, r0 := r0 % 2 ^ 32, r1 := r1 % 2 ^ 32 }]
    ∃ t u, exec (.fwPatchCommitDone false) s = .next t ∧ exec (.fwPatchCommitDone true) s = .next u ∧
      (patchCommitted t = if f = 0 then true else patchCommitted s) ∧ (f ≠ 0 → t.cmd.patchFail = f ∧ t.nvm = s.nvm ∧ u = t) ∧
      (l.sig.length = 64 → memRead t.nvm.mram (patchBase + 524160) 64 =
        if f = 0 then l.sig else memRead s.nvm.mram (patchBase + 524160) 64) ∧
      ends t (if f = 0 then stOk else stFailed) (if f = 0 then patchField s 8 else f) (if f = 0 then l.length else 0) ∧
      (u.cmd.patchFail = if f = 0 then 5 else f) ∧ ends u stFailed (if f = 0 then 5 else f) 0) ∧
  (∀ (len : Nat) (sig : List Byte) (s : State), patchFault s (some len) sig = 0 ↔ (patchField s 0 = 0x5441504C ∧ patchField s 4 = len ∧
    patchLenOk len = true ∧ patchField s 12 = Config.romVersion.toNat ∧ mramBad s patchBase len = false ∧
    patchSignatureOk (memRead s.nvm.mram patchBase len) sig = true))

/-- The oldest waiting store begins when the port is free and the window open, with the body of the values in force, writing only its
target's COMMIT; while the window is closed every waiting store is deferred and counted once. A store that completes leaves its slot
committed, its body readable and the slot in force; one whose unit fails its verify leaves the slot's COMMIT as it was. DIAG_MAP_READ
returns the map or the bitmap from a start. PIXEL_TEST MEASURE and RELEASE of a pixel are ACCEPTED, are BUSY while a test runs and
REFUSED in a dark-protected region without FORCE; RELEASE of a shorted or wick pixel is REFUSED; DISABLE enters the pixel in the map.
The model's choices in it: what counts as deferred (log entry 91), and what a commit of a store counts and leaves (log entry 41). -/
def Obligations.StoresAndTests : Prop :=
  (∀ (r : StoreReq) (q : List StoreReq) (s : State), awake s = true → canonical s = true → s.nvm.queue = r :: q → s.nvm.run = none →
    s.nvm.loading = false →
    (s.thm.nvmOpen = true → r.content < 10 → ∃ t u, exec .nvmStoreStart s = .next t ∧ t.nvm.run = some u ∧ u.content = r.content ∧ u.who = r.who ∧
      u.slot = storeTarget s r.content ∧ u.gen = newGen s r.content ∧
      (r.content ≠ 9 → u.body = r.patch.foldl (fun x y => splice x y.1 y.2) (storeBody s r.content)) ∧
      ∀ a, (a < slotBase r.content u.slot + 56 ∨ slotBase r.content u.slot + 64 ≤ a) → memGet t.nvm.mram a = memGet s.nvm.mram a) ∧
    (s.thm.nvmOpen = false → exec .nvmStoreStart s = .next { s with
      nvm := { s.nvm with queue := (r :: q).map (fun x => { x with deferred := true }) }
      thm := { s.thm with deferStores := min 65535 (s.thm.deferStores + ((r :: q).filter (fun x => !x.deferred)).length) } })) ∧
  (∀ s : State, (s.nvm.queue = [] ∨ s.nvm.run ≠ none ∨ s.nvm.loading = true ∨ awake s = false) → exec .nvmStoreStart s = .next s) ∧
  (∀ (r : StoreRun) (s : State), awake s = true → canonical s = true → s.nvm.run = some r → r.content < 10 → r.slot < 3 →
    s.nvm.inForce.length = 10 →
    let base := slotBase r.content r.slot
    (∃ t, exec (.nvmStoreComplete none) s = .next t ∧ t.nvm.run = none ∧ slotCommitted t r.content r.slot = true ∧
      memRead t.nvm.mram (base + 64) r.body.length = r.body ∧ t.nvm.inForce.getD r.content 3 = r.slot ∧
      ∀ a, (a < base ∨ base + 64 + r.body.length ≤ a) → memGet t.nvm.mram a = memGet s.nvm.mram a) ∧
    (∀ a, base ≤ a → a < base + 64 + r.body.length → ∃ t, exec (.nvmStoreComplete (some a)) s = .next t ∧ t.nvm.run = none ∧
      t.nvm.verifyFails = min 65535 (s.nvm.verifyFails + 1) ∧ slotCommitted t r.content r.slot = slotCommitted s r.content r.slot)) ∧
  (∀ (mp z : Byte) (count start : Nat) (rq : Rq) (s : State), admits 0x70 rq s = true → count < 65536 → start < 2 ^ 32 →
    rq.payload = [mp, z] ++ le 2 count ++ le 4 start →
    let b := after 0x70 rq s
    let n := min count (defectCount s - start)
    let k := min count (129600 - start)
    let m := le 4 (defectCount s) ++ le 2 n ++ le 2 s.diag.mapGen ++ ((s.diag.defects.drop start).take n).flatMap (fun d => le 4 (defectWord d))
    let u := le 4 129600 ++ le 2 k ++ le 2 s.diag.mapGen ++ (List.range k).map (fun i => bitmapByte s.diag.bitmap (start + i))
    (mp = 0 → 1 ≤ count → count ≤ 254 → exec (.diagMapRead rq) s = answered 0x70 rq { status := stOk, payload := m } b) ∧
    (mp = 1 → 1 ≤ count → count ≤ 1016 → exec (.diagMapRead rq) s = answered 0x70 rq { status := stOk, payload := u } b) ∧
    ((count = 0 ∨ 1 < mp.toNat ∨ (mp = 0 ∧ 254 < count) ∨ (mp = 1 ∧ 1016 < count)) →
      exec (.diagMapRead rq) s = answered 0x70 rq { status := stBadParam } b)) ∧
  (∀ (w i : Nat) (act f y z : Byte) (rq : Rq) (s : State), admits 0x71 rq s = true → s.pwr.mode ≠ .snuffed → w < 2 ^ 32 → pixOfWord w = some i →
    rq.payload = le 4 w ++ [act, f, y, z] →
    let b := after 0x71 rq s
    let barred := inDpr s i = true ∧ f.toNat.testBit 0 = false
    let stuck := ∃ d ∈ s.diag.defects, d.pix = i ∧ (d.type = 3 ∨ d.type = 5)
    let go := fun r => answered 0x71 rq { status := stAccepted, handle := newHandle b } { takeHandle b with diag := { (takeHandle b).diag with test := some { pix := i, release := r, handle := newHandle b, src := rq.src } } }
    (act = 0 → s.diag.test = none → ¬barred → handleFree s = true → exec (.pixelTestMeasure rq) s = go false) ∧
    (act = 1 → s.diag.test = none → ¬barred → ¬stuck → handleFree s = true → exec (.pixelTestRelease rq) s = go true) ∧
    (act = 0 → s.diag.test = none → barred → exec (.pixelTestMeasure rq) s = answered 0x71 rq { status := stRefused } b) ∧
    (act = 1 → s.diag.test = none → stuck → exec (.pixelTestRelease rq) s = answered 0x71 rq { status := stRefused } b) ∧
    (act = 2 → s.diag.test = none → isDefect s i = true → exec (.pixelTestDisable rq) s = answered 0x71 rq { status := stOk } b) ∧
    (act = 2 → s.diag.test = none → isDefect s i = false →
      ∃ t, exec (.pixelTestDisable rq) s = answered 0x71 rq { status := stOk } t ∧ isDefect t i = true ∧ i ∈ t.arr.dis) ∧
    (s.diag.test ≠ none → act.toNat ≤ 2 → exec (.pixelTestMeasure rq) s = answered 0x71 rq { status := stBusy } b ∧
      exec (.pixelTestRelease rq) s = answered 0x71 rq { status := stBusy } b ∧ exec (.pixelTestDisable rq) s = answered 0x71 rq { status := stBusy } b))

/-! ### Thermal management, the recorder and the lifetime block -/

/-- THERM_CONFIG with legal fields waits for the next 1 ms evaluation; illegal fields return BAD_PARAM, and STORE outside the window
TEMP_WINDOW. A sample in range and within 10 degC of the last is accepted, another counts as bad and the third in a row excludes its
sensor, which then stays; at T_S of 155 degC and above THERMAL_SHUTDOWN is present, and the write window is closed outside its range. A
derating step moves F by one within 4 and its top. THERM_CLEAR is REFUSED without a shutdown or at 130 degC and above; otherwise it, and
AUTO_REKINDLE below 130 degC, end the shutdown and re-kindle where nothing else is held. A valid NTC code gives a temperature, 25.0 degC
at RES_25C, and a code at its ends a bad input. The model's choices in it: RES_25C gives exactly 25.0 degrees and the rounding of other
values is free (log entry 66), and an injected shutdown at THERM_CLEAR (log entry 60). -/
def Obligations.ThermalRules : Prop :=
  (∀ (rq : Rq) (s : State), admits 0x90 rq s = true → rq.payload.length = 8 →
    let p := rq.payload
    let b := after 0x90 rq s
    (thermFieldsOk p = false → exec (.thermConfig rq) s = answered 0x90 rq { status := stBadParam } b) ∧
    (thermFieldsOk p = true → (field p 1 1).testBit 2 = true → s.thm.nvmOpen = false → exec (.thermConfig rq) s =
      answered 0x90 rq { status := stTempWindow } { b with thm := { b.thm with deferReplies := min 65535 (b.thm.deferReplies + 1) } }) ∧
    (thermFieldsOk p = true → (field p 1 1).testBit 2 = false → ∃ t, exec (.thermConfig rq) s = answered 0x90 rq { status := stOk } t ∧
      t.thm = { b.thm with pendCfg := some (thermOf p) } ∧ t.nvm.queue = b.nvm.queue ∧ t.nvm.mram = b.nvm.mram) ∧
    (thermFieldsOk p = true → (field p 1 1).testBit 2 = true → s.thm.nvmOpen = true →
      ∃ t, exec (.thermConfig rq) s = answered 0x90 rq { status := stOk } t ∧ t.thm = { b.thm with pendCfg := some (thermOf p) } ∧
        ∃ q ∈ t.nvm.queue, q.content = 5 ∧ (73, le 1 0xA5 ++ thermBytes (thermOf p)) ∈ q.patch)) ∧
  (∀ (v : List Int) (s : State), v.length = 36 → awake s = true → s.pwr.ldoOk = true →
    ∃ t, exec (.thermalSample v) s = .next t ∧ t.thm.cfg = s.thm.pendCfg.getD s.thm.cfg ∧ t.thm.pendCfg = none ∧
      (∀ (n : Nat) (x : Sensor) (a : Int), s.thm.sensors[n]? = some x → v[n]? = some a → ∃ y : Sensor, t.thm.sensors[n]? = some y ∧
        (x.excluded = true → y = x) ∧
        (x.excluded = false → -440 ≤ a → a ≤ 1600 → (x.seen = false ∨ (a - x.temp).natAbs ≤ 80) → y.temp = a ∧ y.seen = true ∧ y.bad = 0 ∧ y.excluded = false) ∧
        (x.excluded = false → (a < -440 ∨ 1600 < a ∨ (x.seen = true ∧ 80 < (a - x.temp).natAbs)) →
          y.temp = x.temp ∧ y.bad = x.bad + 1 ∧ (y.excluded = true ↔ 3 ≤ x.bad + 1))) ∧
      (∀ y ∈ t.thm.sensors, y.excluded = false → y.seen = true → y.temp ≤ t.thm.tS) ∧
      (1240 ≤ t.thm.tS → condIs 0x0701 0 t = true) ∧ (1240 ≤ t.thm.tS → condIs 0x0701 0 s = false → t.pwr.mode = .snuffed ∧ t.arr.sinkEn = false) ∧
      (t.thm.nvmOpen = true → windowRange t = true)) ∧
  (∀ s : State, awake s = true → s.pwr.mode ≠ .kindle → -216 ≤ s.thm.tS → s.thm.tS ≤ 976 →
    exec .nvmWindowOpen s = .next { s with
      thm := { s.thm with nvmOpen := true, scarDeferred := [] }
      nvm := { s.nvm with queue := s.nvm.queue.map (fun r => { r with deferred := false }) }, evr := { s.evr with headDeferred := false } }) ∧
  (∀ s : State, (awake s = false ∨ s.pwr.mode = .kindle ∨ s.thm.tS < -216 ∨ 976 < s.thm.tS) → exec .nvmWindowOpen s = .next s) ∧
  (∀ s : State, awake s = true → ∃ t, exec .derateStep s = .next t ∧
    (s.thm.derateCond = 1 → 4 < s.thm.f → t.thm.f = s.thm.f - 1 ∧ t.thm.stepsDown = min 65535 (s.thm.stepsDown + 1)) ∧
    (s.thm.derateCond = 2 → s.thm.f < topF s → t.thm.f = s.thm.f + 1 ∧ t.thm.stepsDown = s.thm.stepsDown) ∧
    ((s.thm.derateCond = 0 ∨ (s.thm.derateCond = 1 ∧ s.thm.f ≤ 4) ∨ (s.thm.derateCond = 2 ∧ topF s ≤ s.thm.f)) → t = s)) ∧
  (∀ (rq : Rq) (s : State), admits 0x91 rq s = true → rq.payload = [] → shaped s = true →
    let b := after 0x91 rq s
    ((condPresent s.flt 0x0701 = false ∨ 1040 ≤ s.thm.tS) → exec (.thermClear rq) s = answered 0x91 rq { status := stRefused } b) ∧
    (condPresent s.flt 0x0701 = true → s.thm.tS < 1040 → ∃ t r, exec (.thermClear rq) s = answered 0x91 rq { status := stOk, payload := [r] } t ∧
      condPresent t.flt 0x0701 = false ∧ (r = 1 → t.pwr.mode = .kindle ∧ t.pwr.entryCause = 3 ∧ s.pwr.mode = .snuffed) ∧ (r ≠ 1 → r = 0 ∧ t.pwr.mode = s.pwr.mode))) ∧
  (∀ s : State, awake s = true → shaped s = true → s.thm.cfg.autoRekindle = true → condPresent s.flt 0x0701 = true → s.thm.tS < 1040 →
    ∃ t, exec .autoRekindle s = .next t ∧ condPresent t.flt 0x0701 = false ∧ (classOf t.flt 7).acked = false ∧
      ((t.pwr.mode = .kindle ∧ t.pwr.entryCause = 3 ∧ s.pwr.mode = .snuffed) ∨ (t.pwr = { s.pwr with exitThermal := true } ∧ (s.pwr.mode ≠ .snuffed ∨ anyHold t.flt = true)))) ∧
  (∀ s : State, (awake s = false ∨ s.thm.cfg.autoRekindle = false ∨ condPresent s.flt 0x0701 = false ∨ 1040 ≤ s.thm.tS) →
    exec .autoRekindle s = .next s) ∧
  (∀ (code : Nat) (s : State), code < 4096 → awake s = true → s.thm.cfg.ntcEn = true →
    (16 < code → code < 4080 → ∃ x : Int, exec (.ntcConversion code) s = .next { s with
      thm := { s.thm with ntcCode := code, ntcTemp := some x, ntcBad := false }, free := s.free + 1 } ∧
      (1 ≤ s.thm.cfg.beta → 10000 * code = (4096 - code) * s.thm.cfg.res → x = 200)) ∧
    ((code ≤ 16 ∨ 4080 ≤ code) → ∃ t, exec (.ntcConversion code) s = .next t ∧
      t.thm = { s.thm with ntcCode := code, ntcTemp := none, ntcBad := true } ∧ (s.thm.ntcBad = true → t.evr = s.evr)))

/-- The high-margin write of a trip record begins in a cell other than the newest valid one, whose bytes it leaves; at its end the cell
stands and SCAR_DONE is set. With the window open, a cell that is not yet copied puts its record into the queue, and is marked once that
record leaves it for the log; while the window is closed each copy that waits is counted once as deferred and none is made, and in
RAM_ONLY nothing happens. The model's choices in it: when a cell's record counts as copied and what is deferred (log entry 91), and the
reading of a torn cell, SEQ's cycle and LOST (log entry 68). -/
def Obligations.ScarAreaKeepsShutdowns : Prop :=
  (∀ (r : Rec) (s : State), awake s = true → canonical s = true → s.thm.tripRec = some r →
    ∃ t c b, exec .scarRecordWrite s = .next t ∧ t.thm.tripRec = none ∧ t.thm.scarWriting = s.thm.scarWriting ++ [(c, b)] ∧ c < 8 ∧
      slice b 4 32 = recBytes r ∧ b.length = 64 ∧ (∀ n, scarNewest s 1 0 = some n → n ≠ c) ∧ ∀ i, i ≠ c → scarCell t i = scarCell s i) ∧
  (∀ (i : Nat) (b : List Byte) (q : List (Nat × List Byte)) (s : State), awake s = true → canonical s = true → s.thm.scarWriting = (i, b) :: q →
    b.length = 64 →
    ∃ t, exec .scarWriteComplete s = .next t ∧ t.thm.scarWriting = q ∧ scarCell t i = b ∧ (∀ j, j ≠ i → scarCell t j = scarCell s j) ∧
      (i < 8 → t.thm.scarDone = true ∧ t.evr = s.evr) ∧ (8 ≤ i → t.evr.scarDone = true ∧ t.thm.scarDone = s.thm.scarDone)) ∧
  (∀ s : State, (awake s = false ∨ ramOnly s = true) → exec .scarCopy s = .next s) ∧
  (∀ s : State, awake s = true → ramOnly s = false → s.thm.nvmOpen = false →
    let due := (copyOrder s 1 0 ++ copyOrder s 2 8).filter (fun i => !s.thm.scarDeferred.contains i)
    exec .scarCopy s = .next { s with thm := { s.thm with
      deferStores := min 65535 (s.thm.deferStores + due.length), scarDeferred := s.thm.scarDeferred ++ due } }) ∧
  (∀ (i : Nat) (s : State), awake s = true → ramOnly s = false → s.thm.nvmOpen = true → copyOrder s 1 0 = [i] → copyOrder s 2 8 = [] →
    s.evr.queue.length < 64 →
    ∃ t, exec .scarCopy s = .next t ∧ t.evr.queue = s.evr.queue ++ [{ recOf (slice (scarCell s i) 4 32) with cell := some i }] ∧
      t.nvm.scar = s.nvm.scar ∧ t.nvm.mram = s.nvm.mram) ∧
  (∀ (r : Rec) (q : List Rec) (i : Nat) (s : State), canonical s = true → s.evr.queue = r :: q → ringsOpen s = true → s.nvm.badWords = [] →
    r.cell = some i → s.evr.headMain = false → (cairnEligible r = false ∨ s.evr.headCairn = true) → s.evr.mainNext < 31744 →
    ∃ t, exec (.mainRingWrite none) s = .next t ∧ t.evr.queue = q ∧ field (scarCell t i) 3 1 = 0xA5 ∧ ∀ j, j ≠ i → scarCell t j = scarCell s j)

/-- A record enters the queue at its end while it holds fewer than 64; the queue never exceeds 64 by an entry. While the rings may be
written, the head of the queue is written whole into the main ring's next slot, and into the cairn region if it is eligible, no other
byte of MRAM changing, and leaves the queue after the last write that it needs; a failed write makes the recorder RAM_ONLY, and a write
that waits for the window counts once as deferred. RECORDS_DROPPED queues the summary with the number of records dropped and clears the
pending counts. LOG_READ returns the newest records of the queue, or those of a ring from its head, BUSY before the scan; HISTO_READ
returns the lifetime block in force or the stored one. The model's choices in it: a write that the closed window holds up is counted as
deferred once (log entry 91), and the slot that the log scan takes as the newest (log entry 71). -/
def Obligations.RecorderWritesRings : Prop :=
  (∀ (r : Rec) (s : State), (s.evr.queue.length < 64 → (enqueue r s).evr.queue = s.evr.queue ++ [r]) ∧
    (s.evr.queue.length ≤ 64 → (enqueue r s).evr.queue.length ≤ 64) ∧
    (s.evr.queue.length = 64 → ramOnly s = false → cairnEligible r = false → (enqueue r s).evr.queue = s.evr.queue)) ∧
  (∀ (r : Rec) (q : List Rec) (s : State), canonical s = true → s.evr.queue = r :: q → ringsOpen s = true → s.nvm.badWords = [] →
    (s.evr.headMain = false → s.evr.mainNext < 31744 →
      let a := logSlot false s.evr.mainNext
      ∃ t, exec (.mainRingWrite none) s = .next t ∧ memRead t.nvm.mram a 32 = recBytes r ∧
        (∀ b, (b < a ∨ a + 32 ≤ b) → memGet t.nvm.mram b = memGet s.nvm.mram b) ∧ t.evr.mainHead = s.evr.mainNext ∧
        t.evr.mainNext = (s.evr.mainNext + 1) % 31744 ∧ t.evr.written = min (2 ^ 32 - 1) (s.evr.written + 1) ∧
        ((cairnEligible r = false ∨ s.evr.headCairn = true) → t.evr.queue = q ∧ t.evr.headMain = false) ∧
        (cairnEligible r = true → s.evr.headCairn = false → t.evr.queue = r :: q ∧ t.evr.headMain = true)) ∧
    (s.evr.headCairn = false → cairnEligible r = true → s.evr.cairnNext < 1024 →
      let a := logSlot true s.evr.cairnNext
      ∃ t, exec (.cairnWrite none) s = .next t ∧ memRead t.nvm.mram a 32 = recBytes r ∧
        (∀ b, (b < a ∨ a + 32 ≤ b) → memGet t.nvm.mram b = memGet s.nvm.mram b) ∧
        t.evr.cairnNext = (s.evr.cairnNext + 1) % 1024 ∧ (s.evr.headMain = true → t.evr.queue = q)) ∧
    ((s.evr.headMain = true) → exec (.mainRingWrite none) s = .next s) ∧
    ((s.evr.headCairn = true ∨ cairnEligible r = false) → exec (.cairnWrite none) s = .next s) ∧
    (∀ f, s.evr.headMain = false → ∃ t, exec (.mainRingWrite (some f)) s = .next t ∧ t.evr.state = 2 ∧
      t.evr.failAddr = logSlot false s.evr.mainNext / 64 * 64) ∧
    (∀ f, s.evr.headCairn = false → cairnEligible r = true → ∃ t, exec (.cairnWrite (some f)) s = .next t ∧ t.evr.state = 2)) ∧
  (∀ (r : Rec) (q : List Rec) (f : Option LogFail) (s : State), s.evr.queue = r :: q → awake s = true → s.evr.state = 0 → s.evr.scanDone = true →
    s.thm.nvmOpen = false → exec (.mainRingWrite f) s = .next (if s.evr.headDeferred = true then s else { s with
      evr := { s.evr with headDeferred := true }, thm := { s.thm with deferStores := min 65535 (s.thm.deferStores + 1) } })) ∧
  (∀ s : State, awake s = true → s.evr.dropsSum ≠ 0 → ramOnly s = false → s.evr.queue.length < 64 →
    (s.evr.queue.length ≤ 56 ∨ ∃ x, s.evr.firstDrop = some x ∧ x + 1 ≤ s.ao.seconds) →
    ∃ t r, exec .recordsDropped s = .next t ∧ (∀ d ∈ t.evr.drops, d.pending = 0) ∧ t.evr.dropsSum = 0 ∧ t.evr.dropsPilot = 0 ∧
      t.evr.firstDrop = none ∧ t.evr.queue = s.evr.queue ++ [r] ∧ r.code = 0x1001 ∧ r.p0 = s.evr.dropsSum % 2 ^ 32 ∧
      r.p2 = s.evr.dropsPilot % 2 ^ 32) ∧
  (∀ s : State, (awake s = false ∨ s.evr.dropsSum = 0 ∨ ramOnly s = true ∨ 64 ≤ s.evr.queue.length) → exec .recordsDropped s = .next s) ∧
  (∀ (a c x y : Byte) (start : Nat) (rq : Rq) (s : State), admits 0x60 rq s = true → rq.payload = [a, c, x, y] ++ le 4 start → start < 2 ^ 32 →
    let b := after 0x60 rq s
    let l := (b.evr.queue.reverse.drop start).take c.toNat
    let p := le 2 b.evr.queue.length ++ le 1 l.length ++ le 1 0 ++ le 4 0 ++ l.flatMap recBytes
    (a = 2 → 1 ≤ c.toNat → c.toNat ≤ 31 → start < 64 → exec (.logRead rq) s = answered 0x60 rq { status := stOk, payload := p } b) ∧
    (a.toNat < 2 → 1 ≤ c.toNat → c.toNat ≤ 31 → start < 1024 → (s.evr.scanDone = false ∨ ramOnly s = true) →
      exec (.logRead rq) s = answered 0x60 rq { status := stBusy } b) ∧
    (a.toNat < 2 → 1 ≤ c.toNat → c.toNat ≤ 31 → start < (if a = 0 then 31744 else 1024) → s.evr.scanDone = true → ramOnly s = false →
      let head := if a = 0 then s.evr.mainHead else s.evr.cairnHead
      let w := if a = 0 then b.evr.written else b.evr.cairnWrites
      let p := le 2 head ++ le 1 c.toNat ++ le 1 0 ++ le 4 w ++ ringSlots s (a == 1) head start c.toNat
      ∃ t, exec (.logRead rq) s = answered 0x60 rq { status := stOk, payload := p } t ∧ t = { b with chk := t.chk }) ∧
    ((a = 2 ∧ 64 ≤ start) ∨ (a = 1 ∧ 1024 ≤ start) ∨ (a = 0 ∧ 31744 ≤ start) →
      exec (.logRead rq) s = answered 0x60 rq { status := stBadParam } b) ∧
    ((2 < a.toNat ∨ c = 0 ∨ 31 < c.toNat) → exec (.logRead rq) s = answered 0x60 rq { status := stBadParam } b)) ∧
  (∀ (f x : Byte) (count off : Nat) (rq : Rq) (s : State), admits 0x61 rq s = true → rq.payload = [f, x] ++ le 2 count ++ le 4 off →
    count < 65536 → off < 2 ^ 32 → 4 ≤ count → count ≤ 1016 → count % 4 = 0 → off % 4 = 0 → off + count ≤ 4096 →
    let b := after 0x61 rq s
    (f = 0 → exec (.histoRead rq) s = answered 0x61 rq { status := stOk, payload := slice (lifeBody b) off count } b) ∧
    (f = 1 → s.nvm.inForce.getD 9 3 ≠ 3 → ∃ t, exec (.histoRead rq) s = answered 0x61 rq
      { status := stOk, payload := slice (slotBody s 9 (s.nvm.inForce.getD 9 3)) off count } t ∧ t = { b with chk := t.chk }) ∧
    (f = 1 → s.nvm.inForce.getD 9 3 = 3 → exec (.histoRead rq) s = answered 0x61 rq { status := stFailed } b))

/-- The always-on second counts in every mode, saturating, and puts a store that failed its verify ahead of the queue. A lifetime sample
of an awake device adds a second to its mode's count and to no other mode's, and to the seconds since the last commit; after 60 of them
the block's store is due. A second of lit time counts toward the wear map's commit and puts the gains of the accumulators into the back
copy only, with the number of blocks at the end of the table; after 600 the map's store is due, once. The model's choice in it: the
retry of a failed header store is made at this tick, ahead of what waits (log entry 69). -/
def Obligations.LifetimeCounts : Prop :=
  (∀ s : State, (s.nvm.retry = [] ∨ awake s = false) →
    exec .operatingSecondTick s = .next { s with ao := { s.ao with seconds := min (2 ^ 32 - 1) (s.ao.seconds + 1) } }) ∧
  (∀ (r : StoreReq) (s : State), awake s = true → s.nvm.retry = [r] → (∀ q ∈ s.nvm.queue, q.content ≠ r.content) →
    exec .operatingSecondTick s = .next { s with
      ao := { s.ao with seconds := min (2 ^ 32 - 1) (s.ao.seconds + 1) }, nvm := { s.nvm with queue := r :: s.nvm.queue, retry := [] } }) ∧
  (∀ (n : Nat) (s : State), awake s = true → s.evr.life.modeS[modeCode s.pwr.mode]? = some n →
    ∃ t, exec .lifetimeSample s = .next t ∧ t = { s with evr := t.evr } ∧ t.evr.sinceS = min 65535 (s.evr.sinceS + 1) ∧
      t.evr.life.modeS = s.evr.life.modeS.set (modeCode s.pwr.mode) (min (2 ^ 32 - 1) (n + 1)) ∧ t.evr.queue = s.evr.queue ∧
      (s.pwr.dark = true → t.evr.life.currentS = s.evr.life.currentS)) ∧
  (∀ s : State, awake s = true → s.evr.state ≠ 3 →
    (s.evr.sinceS < 60 → exec .lifetimeStore s = .next s) ∧
    (60 ≤ s.evr.sinceS → (∀ q ∈ s.nvm.queue, q.content ≠ 9) →
      exec .lifetimeStore s = .next { s with nvm := { s.nvm with
        queue := s.nvm.queue ++ [{ content := 9 }], retry := s.nvm.retry.filter (fun r => !r.patch.isEmpty) } })) ∧
  (∀ s : State, litTime s = true → ∃ t, exec .wearGainRecompute s = .next t ∧
    t.map.endBlocks = (match s.map.droop with | some d => scount 64800 (fun c => decide (64 * d.step ≤ c)) s.map.wear | none => 0) ∧
    ((s.map.endBlocks ≠ 0 ∨ t.map.endBlocks = 0) → t = { s with map := t.map }) ∧ t.map.sinceCommitS = min 65535 (s.map.sinceCommitS + 1) ∧
    t.map.gainBack = some (smap (blockGain s.map.droop) s.map.wear) ∧ t.map.wear = s.map.wear ∧ t.map.gainFront = s.map.gainFront) ∧
  (∀ s : State, litTime s = false → exec .wearGainRecompute s = .next s) ∧
  (∀ s : State, awake s = true → s.nvm.run = none → (∀ q ∈ s.nvm.queue, q.content ≠ 3) →
    (600 ≤ s.map.sinceCommitS → exec .wearMapStore s = .next { s with nvm := { s.nvm with
      queue := s.nvm.queue ++ [{ content := 3 }], retry := s.nvm.retry.filter (fun r => !r.patch.isEmpty) } }) ∧
    (s.map.sinceCommitS < 600 → exec .wearMapStore s = .next s))
end

