-- ==== Sys2Proof/Laws/Arbiter.lean ====
section
/-! SUPPORT. Laws of a bank's arbitration (R299, R300): what is granted is a request that waits. -/

namespace Sys2Proof.Machine

/-- A fold that keeps its choice or takes the next element ends at an element of the list. -/
theorem foldl_pick {α : Type} {f : Option α → α → Option α} (hf : ∀ b c, f b c = some c ∨ f b c = b) (l : List α) (b : Option α) {c : α}
    (h : l.foldl f b = some c) : c ∈ l ∨ b = some c := by
  induction l generalizing b with
  | nil => exact .inr h
  | cons y t ih =>
    rcases ih _ h with m | m
    · exact .inl (List.mem_cons_of_mem _ m)
    · rcases hf b y with e | e
      · rw [e] at m
        cases m
        exact .inl List.mem_cons_self
      · exact .inr (e ▸ m)

/-- Such a fold that takes the first element it meets has a choice unless there is no element. -/
theorem foldl_pick_none {α : Type} {f : Option α → α → Option α} (hf : ∀ b c, (f b c).isSome = true) (l : List α) (b : Option α)
    (h : l.foldl f b = none) : l = [] := by
  cases l with
  | nil => rfl
  | cons y t =>
    have : ∀ (t : List α) (b : Option α), b.isSome = true → (t.foldl f b).isSome = true := by
      intro t
      induction t with
      | nil => intro b hb; exact hb
      | cons z t ih => intro b _; exact ih _ (hf b z)
    have := this t _ (hf b y)
    rw [List.foldl_cons] at h
    rw [h] at this
    cases this

/-- The oldest of some requests is one of them. -/
theorem oldest_mem {l : List Claim} {c : Claim} (h : oldest l = some c) : c ∈ l := by
  unfold oldest at h
  simpa using foldl_pick (by
    intro b c
    cases b with
    | none => exact .inl rfl
    | some x => dsimp only; split <;> simp) l none h

/-- Among some requests there is an oldest. -/
theorem oldest_none {l : List Claim} (h : oldest l = none) : l = [] := by
  unfold oldest at h
  exact foldl_pick_none (by intro b c; cases b <;> simp; split <;> rfl) l none h

/-- The request whose turn comes next is one of them. -/
theorem nextTurn_mem {k last : Nat} {at_ : Claim → Nat} {l : List Claim} {c : Claim} (h : nextTurn k last at_ l = some c) : c ∈ l := by
  unfold nextTurn at h
  simpa using foldl_pick (by
    intro b c
    cases b with
    | none => exact .inl rfl
    | some x => dsimp only; split <;> simp) l none h

/-- A level of arbitration chooses one of its requests. -/
theorem chooseOf_mem {k last : Nat} {at_ : Claim → Nat} {l : List Claim} {c : Claim} (h : chooseOf k last at_ l = some c) : c ∈ l := by
  unfold chooseOf at h
  split at h
  · rename_i d e
    cases h
    exact List.mem_of_mem_filter (oldest_mem e)
  · exact nextTurn_mem h

/-- An escalated request goes before all others (R300). -/
theorem chooseOf_escalated {k last : Nat} {at_ : Claim → Nat} {l : List Claim} {c d : Claim} (h : chooseOf k last at_ l = some c)
    (m : d ∈ l) (e : escalated d = true) : escalated c = true := by
  unfold chooseOf at h
  split at h
  · rename_i f g
    cases h
    exact (List.mem_filter.mp (oldest_mem g)).2
  · rename_i g
    have := List.mem_filter.mpr ⟨m, e⟩
    rw [oldest_none g] at this
    cases this

/-- What a bank grants is a request that waits there (R299). -/
theorem arbitrate_mem {b : Bank} {c : Claim} (h : arbitrate b = some c) : c ∈ b.waits := by
  have m := chooseOf_mem h
  rw [List.mem_flatMap] at m
  obtain ⟨p, -, m⟩ := m
  rw [Option.mem_toList] at m
  have e : c ∈ b.waits.filter (fun c => portOf c.m = p) := by
    by_cases q : p < 4
    · simp only [q, if_true] at m
      exact chooseOf_mem m
    · simp only [q, if_false] at m
      exact List.mem_of_mem_head? m
  exact List.mem_of_mem_filter e

end Sys2Proof.Machine
end

