-- ==== Sys2Proof/Laws/Ops.lean ====
section
/-! SUPPORT. The laws of the byte memories: a written byte is read back, every other byte stays, and every memory operation keeps the
canonical form. -/

namespace Sys2Proof.Machine

/-- What the head of a canonical memory says. -/
theorem memWfFrom_cons {lo a : Nat} {b : Byte} {t : List Host.Cell} :
    memWfFrom lo ((a, b) :: t) = true ↔ lo ≤ a ∧ b ≠ 0 ∧ memWfFrom (a + 1) t = true := by
  simp [memWfFrom, and_assoc]

/-- A lower bound may be lowered. -/
theorem memWfFrom_mono {lo hi : Nat} (h : lo ≤ hi) {m : List Host.Cell} (w : memWfFrom hi m = true) : memWfFrom lo m = true := by
  cases m with
  | nil => rfl
  | cons c t =>
    obtain ⟨a, b⟩ := c
    rw [memWfFrom_cons] at w ⊢
    exact ⟨by omega, w.2⟩

/-- Below its lower bound a canonical memory reads 0. -/
theorem memGet_below {lo a : Nat} {m : List Host.Cell} (w : memWfFrom lo m = true) (h : a < lo) : memGet m a = 0 := by
  induction m generalizing lo with
  | nil => rfl
  | cons c t ih =>
    obtain ⟨j, x⟩ := c
    rw [memWfFrom_cons] at w
    simp only [memGet, assocGet]
    rw [if_neg (by omega)]
    exact ih w.2.2 (by omega)

/-- Setting a byte at or above the bound keeps the form. -/
theorem memWfFrom_memSet {lo a : Nat} {b : Byte} {m : List Host.Cell} (h : lo ≤ a) (w : memWfFrom lo m = true) :
    memWfFrom lo (memSet m a b) = true := by
  induction m generalizing lo with
  | nil =>
    simp only [memSet, assocSet]
    split
    · rfl
    · exact memWfFrom_cons.2 ⟨h, ‹_›, rfl⟩
  | cons c t ih =>
    obtain ⟨j, x⟩ := c
    have w' := memWfFrom_cons.1 w
    simp only [memSet, assocSet]
    split
    · split
      · exact w
      · exact memWfFrom_cons.2 ⟨h, ‹_›, memWfFrom_cons.2 ⟨by omega, w'.2⟩⟩
    · split
      · subst_vars
        split
        · exact memWfFrom_mono (by omega) w'.2.2
        · exact memWfFrom_cons.2 ⟨h, ‹_›, w'.2.2⟩
      · exact memWfFrom_cons.2 ⟨w'.1, w'.2.1, ih (by omega) w'.2.2⟩

/-- Setting a byte keeps the form. -/
theorem memWf_memSet {a : Nat} {b : Byte} {m : List Host.Cell} (w : memWf m = true) : memWf (memSet m a b) = true :=
  memWfFrom_memSet (Nat.zero_le a) w

/-- Writing bytes keeps the form. -/
theorem memWf_memWrite {a : Nat} {bs : List Byte} {m : List Host.Cell} (w : memWf m = true) : memWf (memWrite m a bs) = true := by
  induction bs generalizing m a with
  | nil => exact w
  | cons b bs ih => exact ih (memWf_memSet w)

/-- The byte that was set is read back. -/
theorem memGet_memSet_same {lo a : Nat} {b : Byte} {m : List Host.Cell} (w : memWfFrom lo m = true) : memGet (memSet m a b) a = b := by
  induction m generalizing lo with
  | nil =>
    simp only [memSet, assocSet]
    split
    · simp_all [memGet, assocGet]
    · simp [memGet, assocGet]
  | cons c t ih =>
    obtain ⟨j, x⟩ := c
    have w' := memWfFrom_cons.1 w
    simp only [memSet, assocSet]
    split
    · split
      · rw [memGet_below (lo := j) (memWfFrom_cons.2 ⟨le_refl _, w'.2⟩) ‹_›, ‹b = 0›]
      · simp [memGet, assocGet]
    · split
      · subst_vars
        split
        · rw [memGet_below w'.2.2 (by omega), ‹b = 0›]
        · simp [memGet, assocGet]
      · simp only [memGet, assocGet]
        rw [if_neg ‹_›]
        exact ih w'.2.2

/-- Every other byte stays. -/
theorem memGet_memSet_other {a c : Nat} {b : Byte} {m : List Host.Cell} (h : c ≠ a) : memGet (memSet m a b) c = memGet m c := by
  induction m with
  | nil =>
    simp only [memSet, assocSet]
    split <;> simp [memGet, assocGet, h]
  | cons e t ih =>
    obtain ⟨j, x⟩ := e
    simp only [memSet, memGet] at ih ⊢
    simp only [assocSet]
    split
    · split
      · rfl
      · simp [assocGet, h]
    · split
      · subst_vars
        split <;> simp [assocGet, h]
      · simp only [assocGet, ih]

/-- Writing bytes leaves every byte outside them alone. -/
theorem memGet_memWrite_other {a c : Nat} {bs : List Byte} {m : List Host.Cell} (h : c < a ∨ a + bs.length ≤ c) :
    memGet (memWrite m a bs) c = memGet m c := by
  induction bs generalizing m a with
  | nil => rfl
  | cons b bs ih =>
    simp only [List.length_cons] at h
    simp only [memWrite]
    rw [ih (by omega), memGet_memSet_other (by omega)]

/-- Written bytes are read back. -/
theorem memGet_memWrite_same {a i : Nat} {bs : List Byte} {m : List Host.Cell} (w : memWf m = true) (h : i < bs.length) :
    memGet (memWrite m a bs) (a + i) = bs[i] := by
  induction bs generalizing m a i with
  | nil => simp at h
  | cons b bs ih =>
    simp only [memWrite]
    cases i with
    | zero => rw [memGet_memWrite_other (by omega)]; exact memGet_memSet_same w
    | succ i =>
      have := ih (m := memSet m a b) (a := a + 1) (i := i) (memWf_memSet w) (by simpa using h)
      rw [show a + (i + 1) = a + 1 + i by omega, this]; rfl

/-- The same fact as a condition on the two parts of a memory: sorted keys, no zero. -/
theorem memWfFrom_iff {lo : Nat} {m : List Host.Cell} :
    memWfFrom lo m = true ↔ (∀ c ∈ m, lo ≤ c.1) ∧ m.Pairwise (fun x y => x.1 < y.1) ∧ (∀ c ∈ m, c.2 ≠ 0) := by
  induction m generalizing lo with
  | nil => simp [memWfFrom]
  | cons c t ih =>
    obtain ⟨a, b⟩ := c
    rw [memWfFrom_cons, ih]
    simp only [List.mem_cons, forall_eq_or_imp, List.pairwise_cons]
    constructor
    · rintro ⟨h1, h2, h3, h4, h5⟩
      exact ⟨⟨h1, fun c hc => by have := h3 c hc; omega⟩, ⟨fun c hc => by have := h3 c hc; omega, h4⟩, h2, h5⟩
    · rintro ⟨⟨h1, -⟩, ⟨h3, h4⟩, h2, h5⟩
      exact ⟨h1, h2, fun c hc => by have := h3 c hc; omega, h4, h5⟩

/-- Canonical form in those words. -/
theorem memWf_iff {m : List Host.Cell} : memWf m = true ↔ m.Pairwise (fun x y => x.1 < y.1) ∧ (∀ c ∈ m, c.2 ≠ 0) := by
  simp [memWf, memWfFrom_iff]

/-- Three parts in rising address ranges make a canonical memory. -/
theorem memWf_append3 {p q r : List Host.Cell} {lo hi : Nat} (hp : memWf p = true) (hq : memWf q = true) (hr : memWf r = true)
    (bp : ∀ c ∈ p, c.1 < lo) (bq : ∀ c ∈ q, lo ≤ c.1 ∧ c.1 < hi) (br : ∀ c ∈ r, hi ≤ c.1) (h : lo ≤ hi) :
    memWf (p ++ q ++ r) = true := by
  rw [memWf_iff] at *
  simp only [List.pairwise_append, List.mem_append]
  refine ⟨⟨⟨hp.1, hq.1, fun c hc d hd => ?_⟩, hr.1, fun c hc d hd => ?_⟩, fun c hc => ?_⟩
  · have := bp c hc; have := bq d hd; omega
  · have := br d hd
    rcases hc with hc | hc
    · have := bp c hc; omega
    · have := bq c hc; omega
  · rcases hc with (hc | hc) | hc
    · exact hp.2 c hc
    · exact hq.2 c hc
    · exact hr.2 c hc

/-- A part of a canonical memory is canonical. -/
theorem memWf_filter {m : List Host.Cell} {f : Host.Cell → Bool} (w : memWf m = true) : memWf (m.filter f) = true := by
  rw [memWf_iff] at *
  exact ⟨w.1.filter f, fun c hc => w.2 c (List.mem_of_mem_filter hc)⟩

/-- Changing one entry keeps a list's length. -/
@[simp] theorem modNth_length {α : Type} (l : List α) (i : Nat) (f : α → α) : (modNth l i f).length = l.length := by
  induction l generalizing i with
  | nil => rfl
  | cons x l ih => cases i <;> simp [modNth, ih]

/-! ### Reading ranges -/

/-- A read gives as many bytes as it asks for. -/
@[simp] theorem memRead_length (m : List Host.Cell) (a k : Nat) : (memRead m a k).length = k := by
  induction k generalizing a with
  | zero => rfl
  | succ k ih => simp [memRead, ih]

/-- A byte of a read. -/
theorem memRead_getElem {m : List Host.Cell} {k a i : Nat} (h : i < (memRead m a k).length) : (memRead m a k)[i] = memGet m (a + i) := by
  induction k generalizing a i with
  | zero => simp [memRead] at h
  | succ k ih =>
    cases i with
    | zero => simp [memRead]
    | succ i => simp only [memRead, List.getElem_cons_succ]; rw [ih]; congr 1; omega

/-- Two memories that agree on a range read the same there. -/
theorem memRead_congr {m n : List Host.Cell} {k a : Nat} (h : ∀ i, i < k → memGet m (a + i) = memGet n (a + i)) :
    memRead m a k = memRead n a k := by
  apply List.ext_getElem
  · simp
  · intro i h1 h2
    rw [memRead_getElem, memRead_getElem, h i (by simpa using h1)]

/-- Bytes just written read back. -/
theorem memRead_memWrite_same {m : List Host.Cell} {a : Nat} {bs : List Byte} (w : memWf m = true) :
    memRead (memWrite m a bs) a bs.length = bs := by
  apply List.ext_getElem
  · simp
  · intro i h1 h2
    rw [memRead_getElem, memGet_memWrite_same w h2]

/-- A write outside a range leaves what is read there. -/
theorem memRead_memWrite_other {m : List Host.Cell} {a b k : Nat} {bs : List Byte} (h : b + k ≤ a ∨ a + bs.length ≤ b) :
    memRead (memWrite m a bs) b k = memRead m b k :=
  memRead_congr (fun i hi => memGet_memWrite_other (by omega))

/-- A read within a read. -/
theorem memRead_append (m : List Host.Cell) (a j k : Nat) : memRead m a (j + k) = memRead m a j ++ memRead m (a + j) k := by
  apply List.ext_getElem
  · simp
  · intro i h1 h2
    rw [memRead_getElem, List.getElem_append]
    split
    · rw [memRead_getElem]
    · rw [memRead_getElem]
      congr 1
      simp only [memRead_length] at *
      omega

/-! ### Sparse collections -/

/-- A value written at a key that is not listed is read there. -/
theorem assocGet_assocSet_new {α : Type} [DecidableEq α] {d v : α} {k : Nat} {l : List (Nat × α)} (h : ∀ c ∈ l, c.1 ≠ k) :
    assocGet d k (assocSet d k v l) = v := by
  induction l with
  | nil => simp only [assocSet]; split <;> simp_all [assocGet]
  | cons c t ih =>
    obtain ⟨j, x⟩ := c
    have hj : j ≠ k := h (j, x) (by simp)
    have ht : ∀ c ∈ t, c.1 ≠ k := fun c hc => h c (by simp [hc])
    have none' : assocGet d k t = d := by
      clear ih h
      induction t with
      | nil => rfl
      | cons e t ih =>
        obtain ⟨i, y⟩ := e
        simp only [assocGet]
        rw [if_neg (fun q => ht (i, y) (by simp) q.symm)]
        exact ih (fun c hc => ht c (by simp [hc]))
    simp only [assocSet]
    split
    · split
      · simp [assocGet, hj.symm, *]
      · simp [assocGet]
    · rw [if_neg (fun q => hj q.symm)]
      simp only [assocGet]
      rw [if_neg (fun q => hj q.symm)]
      exact ih ht

/-- A value that is listed at all is read where it was written. -/
theorem assocGet_assocSet_same {α : Type} [DecidableEq α] {d v : α} {k : Nat} {l : List (Nat × α)} (h : v ≠ d) :
    assocGet d k (assocSet d k v l) = v := by
  induction l with
  | nil => simp [assocSet, assocGet, h]
  | cons c t ih =>
    obtain ⟨j, x⟩ := c
    simp only [assocSet, if_neg h]
    split
    · simp [assocGet]
    · split
      · simp [assocGet]
      · simp only [assocGet, if_neg ‹¬k = j›, ih]

/-- A value written at a key leaves every other key alone. -/
theorem assocGet_assocSet_other {α : Type} [DecidableEq α] {d v : α} {k i : Nat} {l : List (Nat × α)} (h : i ≠ k) :
    assocGet d i (assocSet d k v l) = assocGet d i l := by
  induction l with
  | nil => simp only [assocSet]; split <;> simp [assocGet, h]
  | cons c t ih =>
    obtain ⟨j, x⟩ := c
    simp only [assocSet]
    split
    · split
      · rfl
      · simp [assocGet, h]
    · split
      · subst_vars
        split <;> simp [assocGet, h]
      · simp only [assocGet, ih]

/-- Taking a key out leaves every other key alone. -/
theorem assocGet_filter_other {α : Type} {d : α} {k i : Nat} {l : List (Nat × α)} (h : i ≠ k) :
    assocGet d i (l.filter (fun c => c.1 ≠ k)) = assocGet d i l := by
  induction l with
  | nil => rfl
  | cons c t ih =>
    obtain ⟨j, x⟩ := c
    by_cases hj : j = k
    · subst hj
      simp only [ne_eq, decide_not, List.filter_cons, assocGet, decide_true, Bool.not_true, Bool.false_eq_true, ↓reduceIte, if_neg h]
      simpa using ih
    · simp only [ne_eq, decide_not, List.filter_cons, hj, decide_false, Bool.not_false, ↓reduceIte, assocGet]
      simpa using congrArg (fun z => if i = j then x else z) ih

/-- The value set at an index is read there. -/
@[simp] theorem sget_sset_same {α : Type} [DecidableEq α] (m : Sparse α) (i : Nat) (v : α) : sget (sset m i v) i = v :=
  assocGet_assocSet_new (by simp)

/-- Every other index stays. -/
theorem sget_sset_other {α : Type} [DecidableEq α] (m : Sparse α) {i j : Nat} (v : α) (h : j ≠ i) : sget (sset m i v) j = sget m j := by
  simp only [sget, sset]
  rw [assocGet_assocSet_other h, assocGet_filter_other h]

end Sys2Proof.Machine
end

