-- ==== Sys2Proof/Laws/Engines.lean ====
section
/-! SUPPORT. Laws of the engines (R165, R166, R172): what a change of one engine leaves of the others, and all that counting abandoned
passes can do. -/

namespace Sys2Proof.Machine

/-- An element of a list after a change at a place. -/
theorem modNth_getD {α : Type} (l : List α) (i j : Nat) (f : α → α) (d : α) :
    (modNth l i f).getD j d = if j = i ∧ i < l.length then f (l.getD i d) else l.getD j d := by
  induction l generalizing i j with
  | nil => cases i <;> simp [modNth]
  | cons x l ih =>
    cases i <;> cases j
    · simp [modNth]
    · simp [modNth]
    · simp [modNth]
    · simpa [modNth] using ih _ _

/-- Two changes at one place. -/
theorem modNth_modNth {α : Type} (l : List α) (i : Nat) (f g : α → α) : modNth (modNth l i f) i g = modNth l i (fun x => g (f x)) := by
  induction l generalizing i with
  | nil => rfl
  | cons x l ih => cases i <;> simp [modNth, ih]

/-- A change that changes nothing at its place. -/
theorem modNth_self {α : Type} (l : List α) (i : Nat) (f : α → α) (d : α) (h : f (l.getD i d) = l.getD i d) : modNth l i f = l := by
  induction l generalizing i with
  | nil => rfl
  | cons x l ih =>
    cases i with
    | zero => simpa [modNth] using h
    | succ i => simpa [modNth] using ih i h

/-- An engine after a change of one. -/
theorem engOf_modEng (e j : Nat) (f : Engine → Engine) (s : State) :
    engOf (modEng e f s) j = if j = e ∧ e < s.scl.engines.length then f (engOf s e) else engOf s j :=
  modNth_getD _ _ _ _ _

@[simp] theorem engOf_modComp (j : Nat) (f : Compose → Compose) (s : State) : engOf (modComp f s) j = engOf s j := rfl

/-- All that counting abandoned passes can do (R172): the number of passes, the busy time and the noted passes of the one engine, and the
counter of free values. -/
theorem countAbandoned_effect (e t : Nat) (s : State) :
    ∃ (n f b : Nat) (l : List Nat), countAbandoned e t s = { s with
      scl := { s.scl with
        engines := modNth s.scl.engines e (fun g => { g with redo := l, cur := { g.cur with busy := b } })
        comp := { s.scl.comp with passes := n } }
      free := f } := by
  have all : ∀ (pc q : List Nat) (u : State), (∃ (n f b : Nat) (l : List Nat), u = { s with
      scl := { s.scl with
        engines := modNth s.scl.engines e (fun g => { g with redo := l, cur := { g.cur with busy := b } })
        comp := { s.scl.comp with passes := n } }
      free := f }) →
      ∃ (n f b : Nat) (l : List Nat), modEng e (fun g => { g with redo := [] }) (q.foldl (fun (s : State) (p : Nat) =>
        modComp (fun k => { k with passes := k.passes + (abandoned pc p s).1.1 })
          (modEng e (fun g => { g with cur := { g.cur with busy := satAdd 24 g.cur.busy (abandoned pc p s).1.2 } }) (abandoned pc p s).2)) u) = { s with
        scl := { s.scl with
          engines := modNth s.scl.engines e (fun g => { g with redo := l, cur := { g.cur with busy := b } })
          comp := { s.scl.comp with passes := n } }
        free := f } := by
    intro pc q
    induction q with
    | nil =>
      rintro u ⟨n, f, b, l, rfl⟩
      exact ⟨n, f, b, [], by simp only [List.foldl_nil, modEng, modNth_modNth]⟩
    | cons p q ih =>
      rintro u ⟨n, f, b, l, hu⟩
      refine ih _ ⟨n + (abandoned pc p u).1.1, f + 1, satAdd 24 b (abandoned pc p u).1.2, l, ?_⟩
      beta_reduce
      generalize (abandoned pc p u).1 = a
      have h2 : (abandoned pc p u).2 = { u with free := u.free + 1 } := rfl
      rw [h2, hu]
      simp only [modComp, modEng, modNth_modNth]
  exact all _ _ s ⟨s.scl.comp.passes, s.free, (engOf s e).cur.busy, (engOf s e).redo, by
    rw [modNth_self _ _ _ ({} : Engine) rfl]⟩

/-- Counting abandoned passes leaves every engine its queue and its tile, and the other engines all (R172). -/
theorem engOf_countAbandoned (e t j : Nat) (s : State) :
    (engOf (countAbandoned e t s) j).queue = (engOf s j).queue ∧ (engOf (countAbandoned e t s) j).tile = (engOf s j).tile ∧
    (engOf (countAbandoned e t s) j).idle = (engOf s j).idle ∧ (engOf (countAbandoned e t s) j).stolen = (engOf s j).stolen ∧
    (engOf (countAbandoned e t s) j).cur.tiles = (engOf s j).cur.tiles ∧
    (j ≠ e → engOf (countAbandoned e t s) j = engOf s j) := by
  obtain ⟨n, f, b, l, h⟩ := countAbandoned_effect e t s
  have hj : engOf (countAbandoned e t s) j =
      if j = e ∧ e < s.scl.engines.length then
        { engOf s e with redo := l, cur := { (engOf s e).cur with busy := b } } else engOf s j := by
    rw [h]
    exact modNth_getD _ _ _ _ _
  rw [hj]
  by_cases c : j = e ∧ e < s.scl.engines.length
  · rw [if_pos c, c.1]
    exact ⟨rfl, rfl, rfl, rfl, rfl, fun h => absurd rfl h⟩
  · rw [if_neg c]
    exact ⟨rfl, rfl, rfl, rfl, rfl, fun _ => rfl⟩

end Sys2Proof.Machine
end

