-- ==== Sys2Proof/Laws/Keeps.lean ====
section
/-! SUPPORT. What no definition of the model breaks: the queue of waiting commands stays as it is, the three memories stay in canonical
form; and, but for the resets, the configuration lock stays and the internal reset does not come. Small lemmas that let this be proved
for a definition from what its text calls. -/

namespace Sys2Proof.Machine

/-- From one state to another the queue is the same and canonical memories stay canonical. -/
structure Holds (s t : State) : Prop where
  /-- the queue of waiting commands is unchanged -/
  pending : t.pending = s.pending
  /-- the memories stay canonical -/
  canonical : canonical s = true → canonical t = true
  /-- the lists keep as many entries as the device has units -/
  shaped : shaped s = true → shaped t = true

/-- Beside that, a lock in force stays in force and a device out of reset stays out of reset. -/
structure Keeps (s t : State) : Prop extends Holds s t where
  /-- the configuration lock stays -/
  locked : s.cmd.locked = true → t.cmd.locked = true
  /-- no internal reset comes -/
  released : s.pwr.inReset = false → t.pwr.inReset = false

/-- Nothing changed. -/
theorem Keeps.refl (s : State) : Keeps s s := ⟨⟨rfl, id, id⟩, id, id⟩

/-- Nothing changed. -/
theorem Holds.refl (s : State) : Holds s s := ⟨rfl, id, id⟩

/-- One change after another. -/
theorem Holds.trans {s t u : State} (a : Holds s t) (b : Holds t u) : Holds s u :=
  ⟨b.pending.trans a.pending, fun h => b.canonical (a.canonical h), fun h => b.shaped (a.shaped h)⟩

/-- An intermediate state. -/
theorem Keeps.have_ {s x t : State} (h : Keeps s x) (k : Keeps s x → Keeps s t) : Keeps s t := k h

/-- An intermediate state that comes in a pair. -/
theorem Keeps.pair_ {α : Type} {s t u : State} {p : α × State} {a : α} (e : p = (a, t)) (h : Keeps s p.2) (k : Keeps s t → Keeps s u) :
    Keeps s u := k (by subst e; exact h)

/-- An intermediate state that comes in a triple. -/
theorem Keeps.triple_ {α β : Type} {s t u : State} {p : α × β × State} {a : α} {b : β} (e : p = (a, b, t)) (h : Keeps s p.2.2)
    (k : Keeps s t → Keeps s u) : Keeps s u := k (by subst e; exact h)

/-- How many units each list of a device holds. -/
abbrev units : List ℕ := [5, 24, 8, 6, 3, 13, 8, 16, 64, 28, 36, 18, 8, 8]

/-- What a well-shaped state holds. -/
theorem shaped_iff {s : State} : shaped s = true ↔ shapes s.lnk s.scl s.cmp s.chk s.mem s.thm s.flt s.diag = units := by
  simp [shaped]

/-- An update that leaves the queue, the memories' contents, the lists' lengths, the lock and the reset alone. -/
theorem Keeps.upd {s t : State} {ao pwr ft arr map diag cmp scl chk lnk rope cmd twn mem thm flt nvm evr q free} (h : Keeps s t)
    (e : q = t.pending) (e1 : mem.cells = t.mem.cells) (e2 : nvm.mram = t.nvm.mram) (e3 : nvm.scar = t.nvm.scar)
    (e4 : cmd.locked = t.cmd.locked) (e5 : pwr.inReset = t.pwr.inReset)
    (e6 : shapes t.lnk t.scl t.cmp t.chk t.mem t.thm t.flt t.diag = units → shapes lnk scl cmp chk mem thm flt diag = units) :
    Keeps s (State.mk ao pwr ft arr map diag cmp scl chk lnk rope cmd twn mem thm flt nvm evr q free) :=
  ⟨⟨e.trans h.pending, fun c => by simpa only [Machine.canonical, e1, e2, e3] using h.canonical c,
    fun c => shaped_iff.2 (e6 (shaped_iff.1 (h.shaped c)))⟩, fun c => e4.trans (h.locked c), fun c => e5.trans (h.released c)⟩

/-- The parts of a canonical state. -/
theorem canonical_iff {s : State} : canonical s = true ↔ memWf s.mem.cells = true ∧ memWf s.nvm.mram = true ∧ memWf s.nvm.scar = true := by
  simp [canonical, and_assoc]

/-- A fold of steps each of which keeps. -/
theorem Keeps.foldl {α : Type} {s t : State} {g : State → α → State} (l : List α) (h : ∀ r x a, Keeps r x → Keeps r (g x a)) (w : Keeps s t) :
    Keeps s (l.foldl g t) := by
  induction l generalizing t with
  | nil => exact w
  | cons a l ih => exact ih (h s t a w)

/-- A fold whose steps carry a value beside the state. -/
theorem Keeps.foldl2 {α β : Type} {s : State} {g : β × State → α → β × State} (l : List α) (p : β × State)
    (h : ∀ r p a, Keeps r p.2 → Keeps r (g p a).2) (w : Keeps s p.2) : Keeps s (l.foldl g p).2 := by
  induction l generalizing p with
  | nil => exact w
  | cons a l ih => exact ih _ (h s p a w)

/-- A fold whose steps carry two values beside the state. -/
theorem Keeps.foldl3 {α β γ : Type} {s : State} {g : β × γ × State → α → β × γ × State} (l : List α) (p : β × γ × State)
    (h : ∀ r p a, Keeps r p.2.2 → Keeps r (g p a).2.2) (w : Keeps s p.2.2) : Keeps s (l.foldl g p).2.2 := by
  induction l generalizing p with
  | nil => exact w
  | cons a l ih => exact ih _ (h s p a w)

/-- What a meaning answers keeps. -/
def KeepsRes (s : State) (r : Res) : Prop := ∀ t, r = .next t → Keeps s t

/-- A meaning that answers a state. -/
theorem KeepsRes.next {s t : State} (h : Keeps s t) : KeepsRes s (.next t) := fun _ e => by cases e; exact h

/-- A meaning that stops. -/
theorem KeepsRes.fault {s : State} {f : Fault} : KeepsRes s (.fault f) := fun _ e => by cases e

/-- A guarded meaning. -/
theorem KeepsRes.guarded {s t : State} {ok : Bool} (h : Keeps s t) : KeepsRes s (guarded ok t) := by
  unfold Machine.guarded
  split
  · exact KeepsRes.next h
  · exact KeepsRes.fault

/-- An intermediate state. -/
theorem KeepsRes.have_ {s x : State} {r : Res} (h : Keeps s x) (k : Keeps s x → KeepsRes s r) : KeepsRes s r := k h

/-- An intermediate state that comes in a pair. -/
theorem KeepsRes.pair_ {α : Type} {s t : State} {r : Res} {p : α × State} {a : α} (e : p = (a, t)) (h : Keeps s p.2)
    (k : Keeps s t → KeepsRes s r) : KeepsRes s r := k (by subst e; exact h)

/-- An intermediate state that comes in a triple. -/
theorem KeepsRes.triple_ {α β : Type} {s t : State} {r : Res} {p : α × β × State} {a : α} {b : β} (e : p = (a, b, t)) (h : Keeps s p.2.2)
    (k : Keeps s t → KeepsRes s r) : KeepsRes s r := k (by subst e; exact h)

/-- What may be answered keeps. -/
def KeepsOpt (s : State) (o : Option State) : Prop := ∀ t, o = some t → Keeps s t

/-- An answer. -/
theorem KeepsOpt.some {s t : State} (h : Keeps s t) : KeepsOpt s (some t) := fun _ e => by cases e; exact h

/-- No answer. -/
theorem KeepsOpt.none {s : State} : KeepsOpt s none := fun _ e => by cases e

/-- An intermediate state. -/
theorem KeepsOpt.have_ {s x : State} {r : Option State} (h : Keeps s x) (k : Keeps s x → KeepsOpt s r) : KeepsOpt s r := k h

/-- An intermediate state that comes in a pair. -/
theorem KeepsOpt.pair_ {α : Type} {s t : State} {r : Option State} {p : α × State} {a : α} (e : p = (a, t)) (h : Keeps s p.2)
    (k : Keeps s t → KeepsOpt s r) : KeepsOpt s r := k (by subst e; exact h)

/-- What a meaning answers, resets included. -/
def HoldsRes (s : State) (r : Res) : Prop := ∀ t, r = .next t → Holds s t

/-- A meaning that answers a state, resets included. -/
theorem HoldsRes.next {s t : State} (h : Holds s t) : HoldsRes s (.next t) := fun _ e => by cases e; exact h

/-- A guarded meaning, resets included. -/
theorem HoldsRes.guarded {s t : State} {ok : Bool} (h : Holds s t) : HoldsRes s (Machine.guarded ok t) := by
  unfold Machine.guarded
  split
  · exact HoldsRes.next h
  · exact fun _ e => by cases e

/-- A meaning without a reset. -/
theorem KeepsRes.holds {s : State} {r : Res} (h : KeepsRes s r) : HoldsRes s r := fun t e => (h t e).toHolds

end Sys2Proof.Machine
end

