-- ==== Sys2Proof/Laws/KeepsWire.lean ====
section
/-! SUPPORT. For each definition of Machine/Wire.lean that answers a state: the queue stays as it is and the memories stay canonical. -/

namespace Sys2Proof.Machine

theorem modLine_keeps (p : Path) (f : TxLine → TxLine) (s : State) {w0 : State} (h0 : Keeps w0 s) : Keeps w0 (modLine p f s) := by
  unfold modLine
  repeat' (first
    | with_reducible assumption
    | (extract_lets +onlyGivenNames x; with_reducible refine Keeps.have_ (x := x) ?_ ?_; (on_goal 2 => (clear_value x; intro)); on_goal 1 => subst x)
    | (extract_lets +onlyGivenNames x; (first | (have h : @Eq Lnk x x := rfl; clear h; subst x) | clear_value x))
    | split
    | fail_if_no_progress with_reducible refine Keeps.upd ?_ rfl rfl rfl rfl rfl rfl (by first | exact id | simp +contextual [shapes])
    | dsimp only)

theorem countSets_keeps (p : Path) (n : ℕ) (s : State) {w0 : State} (h0 : Keeps w0 s) : Keeps w0 (countSets p n s) := by
  unfold countSets
  repeat' (first
    | with_reducible assumption
    | with_reducible refine (modLine_keeps _ _ _ ?_))

theorem sendSyms_keeps (p : Path) (l : List Sym) (s : State) {w0 : State} (h0 : Keeps w0 s) : Keeps w0 (sendSyms p l s) := by
  unfold sendSyms
  repeat' (first
    | with_reducible assumption
    | with_reducible refine (modLine_keeps _ _ _ ?_))

theorem takeWords_keeps (l : ℕ) (ws : List LaneWord) (s : State) {w0 : State} (h0 : Keeps w0 s) : Keeps w0 (takeWords l ws s) := by
  unfold takeWords
  repeat' (first
    | with_reducible assumption
    | (extract_lets +onlyGivenNames x; (first | (have h : @Eq Lnk x x := rfl; clear h; subst x) | clear_value x))
    | split
    | fail_if_no_progress with_reducible refine Keeps.upd ?_ rfl rfl rfl rfl rfl rfl (by first | exact id | simp +contextual [shapes]))

theorem takeColumns_keeps (p : Path) (cols : List (List LaneWord)) (s : State) {w0 : State} (h0 : Keeps w0 s) : Keeps w0 (takeColumns p cols s) := by
  unfold takeColumns
  repeat' (first
    | with_reducible assumption
    | (extract_lets +onlyGivenNames x; with_reducible refine Keeps.have_ (x := x) ?_ ?_; (on_goal 2 => (clear_value x; intro)); on_goal 1 => subst x)
    | (extract_lets +onlyGivenNames x; clear_value x)
    | with_reducible refine (takeWords_keeps _ _ _ ?_)
    | (with_reducible refine Keeps.foldl _ ?_ ?_; on_goal 1 => (intros; beta_reduce))
    | split
    | (intro _; intros; beta_reduce)
    | dsimp only)

theorem climbShown_keeps (s : State) {w0 : State} (h0 : Keeps w0 s) : Keeps w0 (climbShown s) := by
  unfold climbShown
  repeat' (first
    | with_reducible assumption
    | (extract_lets +onlyGivenNames x; with_reducible refine Keeps.have_ (x := x) ?_ ?_; (on_goal 2 => (clear_value x; intro)); on_goal 1 => subst x)
    | (extract_lets +onlyGivenNames x; clear_value x)
    | split
    | (intro _; intros; beta_reduce)
    | fail_if_no_progress with_reducible refine Keeps.upd ?_ rfl rfl rfl rfl rfl rfl (by first | exact id | simp +contextual [shapes])
    | dsimp only)

theorem sendSets_keeps (p : Path) (s : State) {w0 : State} (h0 : Keeps w0 s) : Keeps w0 (sendSets p s) := by
  unfold sendSets
  repeat' (first
    | with_reducible assumption
    | (extract_lets +onlyGivenNames x; with_reducible refine Keeps.have_ (x := x) ?_ ?_; (on_goal 2 => (clear_value x; intro)); on_goal 1 => subst x)
    | (extract_lets +onlyGivenNames x; clear_value x)
    | with_reducible refine (countSets_keeps _ _ _ ?_)
    | with_reducible refine (sendSyms_keeps _ _ _ ?_)
    | with_reducible refine (climbShown_keeps _ ?_)
    | split)

theorem statusDue_keeps (reason : ℕ) (layer : ℕ) (outcome : ℕ) (s : State) {w0 : State} (h0 : Keeps w0 s) : Keeps w0 (statusDue reason layer outcome s) := by
  unfold statusDue
  repeat' (first
    | with_reducible assumption
    | (extract_lets +onlyGivenNames x; with_reducible refine Keeps.have_ (x := x) ?_ ?_; (on_goal 2 => (clear_value x; intro)); on_goal 1 => subst x)
    | (extract_lets +onlyGivenNames x; clear_value x)
    | (split; with_reducible refine Keeps.triple_ ‹_ = (_, _, _)› ?_ ?_; on_goal 2 => intro)
    | split
    | fail_if_no_progress with_reducible refine Keeps.upd ?_ rfl rfl rfl rfl rfl rfl (by first | exact id | simp +contextual [shapes])
    | dsimp only)

theorem sendPacket_keeps (p : Path) (type : ℕ) (chan : ℕ) (fields : List Byte) (body : List Byte) (s : State) {w0 : State} (h0 : Keeps w0 s) : Keeps w0 (sendPacket p type chan fields body s) := by
  unfold sendPacket
  repeat' (first
    | with_reducible assumption
    | (extract_lets +onlyGivenNames x; clear_value x)
    | with_reducible refine (climbShown_keeps _ ?_)
    | with_reducible refine (countSets_keeps _ _ _ ?_)
    | with_reducible refine (sendSyms_keeps _ _ _ ?_)
    | split)

end Sys2Proof.Machine
end

