-- ==== Sys2Proof/Laws/KeepsRecords.lean ====
section
/-! SUPPORT. For each definition of Machine/Records.lean that answers a state: the queue stays as it is and the memories stay canonical. -/

namespace Sys2Proof.Machine

theorem countDrop_keeps (r : Rec) (s : State) {w0 : State} (h0 : Keeps w0 s) : Keeps w0 (countDrop r s) := by
  unfold countDrop
  repeat' (first
    | with_reducible assumption
    | (extract_lets +onlyGivenNames x; with_reducible refine Keeps.have_ (x := x) ?_ ?_; (on_goal 2 => (clear_value x; intro)); on_goal 1 => subst x)
    | (extract_lets +onlyGivenNames x; clear_value x)
    | split
    | (intro _; intros; beta_reduce)
    | fail_if_no_progress with_reducible refine Keeps.upd ?_ rfl rfl rfl rfl rfl rfl (by first | exact id | simp +contextual [shapes])
    | dsimp only)

theorem takeFree_keeps (s : State) {w0 : State} (h0 : Keeps w0 s) : Keeps w0 (takeFree s).2 := by
  unfold takeFree
  repeat' (first
    | with_reducible assumption
    | (extract_lets +onlyGivenNames x; with_reducible refine Keeps.have_ (x := x) ?_ ?_; (on_goal 2 => (clear_value x; intro)); on_goal 1 => subst x)
    | (extract_lets +onlyGivenNames x; clear_value x)
    | fail_if_no_progress with_reducible refine Keeps.upd ?_ rfl rfl rfl rfl rfl rfl (by first | exact id | simp +contextual [shapes])
    | dsimp only)

theorem complete_keeps (handle : ℕ) (opcode : ℕ) (src : Src) (status : ℕ) (r0 : ℕ) (r1 : ℕ) (s : State) {w0 : State} (h0 : Keeps w0 s) : Keeps w0 (complete handle opcode src status r0 r1 s) := by
  unfold complete
  repeat' (first
    | with_reducible assumption
    | (extract_lets +onlyGivenNames x; with_reducible refine Keeps.have_ (x := x) ?_ ?_; (on_goal 2 => (clear_value x; intro)); on_goal 1 => subst x)
    | (extract_lets +onlyGivenNames x; (first | (have h : @Eq Cmd x x := rfl; clear h; subst x) | clear_value x))
    | split
    | fail_if_no_progress with_reducible refine Keeps.upd ?_ rfl rfl rfl rfl rfl rfl (by first | exact id | simp +contextual [shapes])
    | dsimp only)

theorem completeOpen_keeps (handle : ℕ) (opcode : ℕ) (src : Src) (status : ℕ) (s : State) {w0 : State} (h0 : Keeps w0 s) : Keeps w0 (completeOpen handle opcode src status s) := by
  unfold completeOpen
  repeat' (first
    | with_reducible assumption
    | with_reducible refine (takeFree_keeps _ ?_)
    | with_reducible refine (complete_keeps _ _ _ _ _ _ _ ?_))

theorem share_keeps (r : Rec) (s : State) {w0 : State} (h0 : Keeps w0 s) : Keeps w0 (share r s) := by
  unfold share
  repeat' (first
    | with_reducible assumption
    | (extract_lets +onlyGivenNames x; with_reducible refine Keeps.have_ (x := x) ?_ ?_; (on_goal 2 => (clear_value x; intro)); on_goal 1 => subst x)
    | (extract_lets +onlyGivenNames x; clear_value x)
    | split
    | fail_if_no_progress with_reducible refine Keeps.upd ?_ rfl rfl rfl rfl rfl rfl (by first | exact id | simp +contextual [shapes])
    | dsimp only)

theorem enqueue_keeps (r : Rec) (s : State) {w0 : State} (h0 : Keeps w0 s) : Keeps w0 (enqueue r s) := by
  unfold enqueue
  repeat' (first
    | with_reducible assumption
    | (extract_lets +onlyGivenNames x; with_reducible refine Keeps.have_ (x := x) ?_ ?_; (on_goal 2 => (clear_value x; intro)); on_goal 1 => subst x)
    | (extract_lets +onlyGivenNames x; (first | (have h : x = (fun _ => _) := rfl; subst x; beta_reduce) | (have h : x = (fun _ _ => _) := rfl; subst x; beta_reduce) | clear_value x))
    | with_reducible refine (countDrop_keeps _ _ ?_)
    | split
    | fail_if_no_progress with_reducible refine Keeps.upd ?_ rfl rfl rfl rfl rfl rfl (by first | exact id | simp +contextual [shapes])
    | dsimp only)

theorem record_keeps (e : RawEvent) (flags : ℕ) (s : State) {w0 : State} (h0 : Keeps w0 s) : Keeps w0 (record e flags s) := by
  unfold record
  repeat' (first
    | with_reducible assumption
    | (extract_lets +onlyGivenNames x; with_reducible refine Keeps.have_ (x := x) ?_ ?_; (on_goal 2 => (clear_value x; intro)); on_goal 1 => subst x)
    | (extract_lets +onlyGivenNames x; (first | (have h : @Eq Flt x x := rfl; clear h; subst x) | clear_value x))
    | with_reducible refine (share_keeps _ _ ?_)
    | with_reducible refine (enqueue_keeps _ _ ?_)
    | split
    | fail_if_no_progress with_reducible refine Keeps.upd ?_ rfl rfl rfl rfl rfl rfl (by first | exact id | simp +contextual [shapes])
    | dsimp only)

theorem modClass_keeps (c : ℕ) (f : ClassState → ClassState) (s : State) {w0 : State} (h0 : Keeps w0 s) : Keeps w0 (modClass c f s) := by
  unfold modClass
  repeat' (first
    | with_reducible assumption
    | fail_if_no_progress with_reducible refine Keeps.upd ?_ rfl rfl rfl rfl rfl rfl (by first | exact id | simp +contextual [shapes]))

theorem histPush_keeps (r : Rec) (s : State) {w0 : State} (h0 : Keeps w0 s) : Keeps w0 (histPush r s) := by
  unfold histPush
  repeat' (first
    | with_reducible assumption
    | (extract_lets +onlyGivenNames x; with_reducible refine Keeps.have_ (x := x) ?_ ?_; (on_goal 2 => (clear_value x; intro)); on_goal 1 => subst x)
    | (extract_lets +onlyGivenNames x; (first | (have h : @Eq Flt x x := rfl; clear h; subst x) | clear_value x))
    | fail_if_no_progress with_reducible refine Keeps.upd ?_ rfl rfl rfl rfl rfl rfl (by first | exact id | simp +contextual [shapes])
    | dsimp only)

theorem raiseCollateral_keeps (e : RawEvent) (s : State) {w0 : State} (h0 : Keeps w0 s) : Keeps w0 (raiseCollateral e s) := by
  unfold raiseCollateral
  repeat' (first
    | with_reducible assumption
    | (extract_lets +onlyGivenNames x; with_reducible refine Keeps.have_ (x := x) ?_ ?_; (on_goal 2 => (clear_value x; intro)); on_goal 1 => subst x)
    | (extract_lets +onlyGivenNames x; (first | (have h : @Eq Flt x x := rfl; clear h; subst x) | clear_value x))
    | with_reducible refine (record_keeps _ _ _ ?_)
    | with_reducible refine (modClass_keeps _ _ _ ?_)
    | with_reducible refine (histPush_keeps _ _ ?_)
    | split
    | (intro _; intros; beta_reduce)
    | fail_if_no_progress with_reducible refine Keeps.upd ?_ rfl rfl rfl rfl rfl rfl (by first | exact id | simp +contextual [shapes])
    | dsimp only)

theorem note_keeps (e : RawEvent) (s : State) {w0 : State} (h0 : Keeps w0 s) : Keeps w0 (note e s) := by
  unfold note
  repeat' (first
    | with_reducible assumption
    | with_reducible refine (raiseCollateral_keeps _ _ ?_)
    | with_reducible refine (record_keeps _ _ _ ?_)
    | split)

theorem completeEachOpen_keeps (l : List (ℕ × Src)) (opcode : ℕ) (status : ℕ) (s : State) {w0 : State} (h0 : Keeps w0 s) : Keeps w0 (completeEachOpen l opcode status s) := by
  unfold completeEachOpen
  repeat' (first
    | with_reducible assumption
    | with_reducible refine (completeOpen_keeps _ _ _ _ _ ?_)
    | (with_reducible refine Keeps.foldl _ ?_ ?_; on_goal 1 => (intros; beta_reduce))
    | split
    | (intro _; intros; beta_reduce)
    | dsimp only)

theorem sendTwin_keeps (msg : ℕ) (fields : List Byte) (s : State) {w0 : State} (h0 : Keeps w0 s) : Keeps w0 (sendTwin msg fields s) := by
  unfold sendTwin
  repeat' (first
    | with_reducible assumption
    | (extract_lets +onlyGivenNames x; with_reducible refine Keeps.have_ (x := x) ?_ ?_; (on_goal 2 => (clear_value x; intro)); on_goal 1 => subst x)
    | (extract_lets +onlyGivenNames x; clear_value x)
    | with_reducible refine (sendPacket_keeps _ _ _ _ _ _ ?_)
    | split
    | fail_if_no_progress with_reducible refine Keeps.upd ?_ rfl rfl rfl rfl rfl rfl (by first | exact id | simp +contextual [shapes])
    | dsimp only)

theorem endPending_keeps (status : ℕ) (s : State) {w0 : State} (h0 : Keeps w0 s) : Keeps w0 (endPending status s) := by
  unfold endPending
  repeat' (first
    | with_reducible assumption
    | (extract_lets +onlyGivenNames x; with_reducible refine Keeps.have_ (x := x) ?_ ?_; (on_goal 2 => (clear_value x; intro)); on_goal 1 => subst x)
    | (extract_lets +onlyGivenNames x; (first | (have h : @Eq Pwr x x := rfl; clear h; subst x) | clear_value x))
    | with_reducible refine (completeOpen_keeps _ _ _ _ _ ?_)
    | split
    | fail_if_no_progress with_reducible refine Keeps.upd ?_ rfl rfl rfl rfl rfl rfl (by first | exact id | simp +contextual [shapes])
    | dsimp only)

theorem noteF_keeps (code : ℕ) (p0 : ℕ) (p1 : ℕ) (p2 : ℕ) (s : State) {w0 : State} (h0 : Keeps w0 s) : Keeps w0 (noteF code p0 p1 p2 s) := by
  unfold noteF
  repeat' (first
    | with_reducible assumption
    | with_reducible refine (note_keeps _ _ ?_))

theorem completeEach_keeps (l : List (ℕ × Src)) (opcode : ℕ) (status : ℕ) (r0 : ℕ) (r1 : ℕ) (s : State) {w0 : State} (h0 : Keeps w0 s) : Keeps w0 (completeEach l opcode status r0 r1 s) := by
  unfold completeEach
  repeat' (first
    | with_reducible assumption
    | with_reducible refine (complete_keeps _ _ _ _ _ _ _ ?_)
    | (with_reducible refine Keeps.foldl _ ?_ ?_; on_goal 1 => (intros; beta_reduce))
    | split
    | (intro _; intros; beta_reduce)
    | dsimp only)

theorem takeHandle_keeps (s : State) {w0 : State} (h0 : Keeps w0 s) : Keeps w0 (takeHandle s) := by
  unfold takeHandle
  repeat' (first
    | with_reducible assumption
    | (extract_lets +onlyGivenNames x; with_reducible refine Keeps.have_ (x := x) ?_ ?_; (on_goal 2 => (clear_value x; intro)); on_goal 1 => subst x)
    | (extract_lets +onlyGivenNames x; (first | (have h : @Eq Cmd x x := rfl; clear h; subst x) | clear_value x))
    | fail_if_no_progress with_reducible refine Keeps.upd ?_ rfl rfl rfl rfl rfl rfl (by first | exact id | simp +contextual [shapes])
    | dsimp only)

end Sys2Proof.Machine
end

