-- ==== Sys2Proof/Laws/KeepsCollector.lean ====
section
/-! SUPPORT. For each definition of Machine/Collector.lean that answers a state: the queue stays as it is and the memories stay canonical. -/

namespace Sys2Proof.Machine

theorem sinksOff_keeps (s : State) {w0 : State} (h0 : Keeps w0 s) : Keeps w0 (sinksOff s) := by
  unfold sinksOff
  repeat' (first
    | with_reducible assumption
    | (extract_lets +onlyGivenNames x; with_reducible refine Keeps.have_ (x := x) ?_ ?_; (on_goal 2 => (clear_value x; intro)); on_goal 1 => subst x)
    | (extract_lets +onlyGivenNames x; clear_value x)
    | fail_if_no_progress with_reducible refine Keeps.upd ?_ rfl rfl rfl rfl rfl rfl (by first | exact id | simp +contextual [shapes])
    | dsimp only)

theorem keepTrip_keeps (r : Rec) (s : State) {w0 : State} (h0 : Keeps w0 s) : Keeps w0 (keepTrip r s) := by
  unfold keepTrip
  repeat' (first
    | with_reducible assumption
    | (extract_lets +onlyGivenNames x; with_reducible refine Keeps.have_ (x := x) ?_ ?_; (on_goal 2 => (clear_value x; intro)); on_goal 1 => subst x)
    | (extract_lets +onlyGivenNames x; (first | (have h : @Eq Thm x x := rfl; clear h; subst x) | clear_value x))
    | fail_if_no_progress with_reducible refine Keeps.upd ?_ rfl rfl rfl rfl rfl rfl (by first | exact id | simp +contextual [shapes])
    | dsimp only)

theorem lateSinks_keeps (level : ℕ) (s : State) {w0 : State} (h0 : Keeps w0 s) : Keeps w0 (lateSinks level s) := by
  unfold lateSinks
  repeat' (first
    | with_reducible assumption
    | with_reducible refine (sinksOff_keeps _ ?_)
    | split)

theorem completePowerOpen_keeps (r : PowerReq) (status : ℕ) (s : State) {w0 : State} (h0 : Keeps w0 s) : Keeps w0 (completePowerOpen r status s) := by
  unfold completePowerOpen
  repeat' (first
    | with_reducible assumption
    | with_reducible refine (completeOpen_keeps _ _ _ _ _ ?_))

theorem kindleF_keeps (s : State) {w0 : State} (h0 : Keeps w0 s) : Keeps w0 (kindleF s) := by
  unfold kindleF
  repeat' (first
    | with_reducible assumption
    | (extract_lets +onlyGivenNames x; with_reducible refine Keeps.have_ (x := x) ?_ ?_; (on_goal 2 => (clear_value x; intro)); on_goal 1 => subst x)
    | (extract_lets +onlyGivenNames x; (first | (have h : @Eq Thm x x := rfl; clear h; subst x) | clear_value x))
    | split
    | fail_if_no_progress with_reducible refine Keeps.upd ?_ rfl rfl rfl rfl rfl rfl (by first | exact id | simp +contextual [shapes])
    | dsimp only)

theorem completeSuperseded_keeps (r : PowerReq) (s : State) {w0 : State} (h0 : Keeps w0 s) : Keeps w0 (completeSuperseded r s) := by
  unfold completeSuperseded
  repeat' (first
    | with_reducible assumption
    | (extract_lets +onlyGivenNames x; with_reducible refine Keeps.have_ (x := x) ?_ ?_; (on_goal 2 => (clear_value x; intro)); on_goal 1 => subst x)
    | (extract_lets +onlyGivenNames x; (first | (have h : @Eq Pwr x x := rfl; clear h; subst x) | clear_value x))
    | with_reducible refine (completePowerOpen_keeps _ _ _ ?_)
    | fail_if_no_progress with_reducible refine Keeps.upd ?_ rfl rfl rfl rfl rfl rfl (by first | exact id | simp +contextual [shapes])
    | dsimp only)

theorem completePower_keeps (r : PowerReq) (status : ℕ) (r0 : ℕ) (r1 : ℕ) (s : State) {w0 : State} (h0 : Keeps w0 s) : Keeps w0 (completePower r status r0 r1 s) := by
  unfold completePower
  repeat' (first
    | with_reducible assumption
    | with_reducible refine (complete_keeps _ _ _ _ _ _ _ ?_))

theorem beginSleep_keeps (r : PowerReq) (s : State) {w0 : State} (h0 : Keeps w0 s) : Keeps w0 (beginSleep r s) := by
  unfold beginSleep
  repeat' (first
    | with_reducible assumption
    | (extract_lets +onlyGivenNames x; with_reducible refine Keeps.have_ (x := x) ?_ ?_; (on_goal 2 => (clear_value x; intro)); on_goal 1 => subst x)
    | (extract_lets +onlyGivenNames x; (first | (have h : @Eq Pwr x x := rfl; clear h; subst x) | clear_value x))
    | with_reducible refine (completeSuperseded_keeps _ _ ?_)
    | with_reducible refine (takeFree_keeps _ ?_)
    | with_reducible refine (completePower_keeps _ _ _ _ _ ?_)
    | with_reducible refine (noteF_keeps _ _ _ _ _ ?_)
    | (split; with_reducible refine Keeps.pair_ ‹_ = (_, _)› ?_ ?_; on_goal 2 => intro)
    | split
    | fail_if_no_progress with_reducible refine Keeps.upd ?_ rfl rfl rfl rfl rfl rfl (by first | exact id | simp +contextual [shapes])
    | dsimp only)

theorem beginPower_keeps (r : PowerReq) (s : State) {w0 : State} (h0 : Keeps w0 s) : Keeps w0 (beginPower r s) := by
  unfold beginPower
  repeat' (first
    | with_reducible assumption
    | (extract_lets +onlyGivenNames x; with_reducible refine Keeps.have_ (x := x) ?_ ?_; (on_goal 2 => (clear_value x; intro)); on_goal 1 => subst x)
    | (extract_lets +onlyGivenNames x; (first | (have h : @Eq Pwr x x := rfl; clear h; subst x) | clear_value x))
    | with_reducible refine (beginSleep_keeps _ _ ?_)
    | with_reducible refine (completePower_keeps _ _ _ _ _ ?_)
    | split
    | fail_if_no_progress with_reducible refine Keeps.upd ?_ rfl rfl rfl rfl rfl rfl (by first | exact id | simp +contextual [shapes])
    | dsimp only)

theorem nextPower_keeps (s : State) {w0 : State} (h0 : Keeps w0 s) : Keeps w0 (nextPower s) := by
  unfold nextPower
  repeat' (first
    | with_reducible assumption
    | (extract_lets +onlyGivenNames x; with_reducible refine Keeps.have_ (x := x) ?_ ?_; (on_goal 2 => (clear_value x; intro)); on_goal 1 => subst x)
    | (extract_lets +onlyGivenNames x; (first | (have h : @Eq Pwr x x := rfl; clear h; subst x) | clear_value x))
    | with_reducible refine (beginPower_keeps _ _ ?_)
    | split
    | fail_if_no_progress with_reducible refine Keeps.upd ?_ rfl rfl rfl rfl rfl rfl (by first | exact id | simp +contextual [shapes])
    | dsimp only)

theorem supersedePower_keeps (s : State) {w0 : State} (h0 : Keeps w0 s) : Keeps w0 (supersedePower s) := by
  unfold supersedePower
  repeat' (first
    | with_reducible assumption
    | with_reducible refine (nextPower_keeps _ ?_)
    | with_reducible refine (completeSuperseded_keeps _ _ ?_)
    | split)

theorem finishPower_keeps (status : ℕ) (r0 : ℕ) (r1 : ℕ) (s : State) {w0 : State} (h0 : Keeps w0 s) : Keeps w0 (finishPower status r0 r1 s) := by
  unfold finishPower
  repeat' (first
    | with_reducible assumption
    | with_reducible refine (nextPower_keeps _ ?_)
    | with_reducible refine (completePower_keeps _ _ _ _ _ ?_)
    | split)

theorem settleLevel_keeps (s : State) {w0 : State} (h0 : Keeps w0 s) : Keeps w0 (settleLevel s) := by
  unfold settleLevel
  repeat' (first
    | with_reducible assumption
    | with_reducible refine (finishPower_keeps _ _ _ _ ?_)
    | split)

theorem openWindow_keeps (r : ℕ) (s : State) {w0 : State} (h0 : Keeps w0 s) : Keeps w0 (openWindow r s) := by
  unfold openWindow
  repeat' (first
    | with_reducible assumption
    | (extract_lets +onlyGivenNames x; with_reducible refine Keeps.have_ (x := x) ?_ ?_; (on_goal 2 => (clear_value x; intro)); on_goal 1 => subst x)
    | (extract_lets +onlyGivenNames x; (first | (have h : @Eq Flt x x := rfl; clear h; subst x) | clear_value x))
    | split
    | fail_if_no_progress with_reducible refine Keeps.upd ?_ rfl rfl rfl rfl rfl rfl (by first | exact id | simp +contextual [shapes])
    | dsimp only)

theorem countEscalation_keeps (f : Flt) (e : RawEvent) (s : State) {w0 : State} (h0 : Keeps w0 s) : Keeps w0 (countEscalation f e s) := by
  unfold countEscalation
  repeat' (first
    | with_reducible assumption
    | with_reducible refine (modClass_keeps _ _ _ ?_)
    | split)

theorem stopBoot_keeps (s : State) {w0 : State} (h0 : Keeps w0 s) : Keeps w0 (stopBoot s) := by
  unfold stopBoot
  repeat' (first
    | with_reducible assumption
    | (extract_lets +onlyGivenNames x; with_reducible refine Keeps.have_ (x := x) ?_ ?_; (on_goal 2 => (clear_value x; intro)); on_goal 1 => subst x)
    | (extract_lets +onlyGivenNames x; (first | (have h : @Eq Pwr x x := rfl; clear h; subst x) | clear_value x))
    | split
    | fail_if_no_progress with_reducible refine Keeps.upd ?_ rfl rfl rfl rfl rfl rfl (by first | exact id | simp +contextual [shapes])
    | dsimp only)

theorem realEffects_keeps (e : RawEvent) (r : Rec) (s : State) {w0 : State} (h0 : Keeps w0 s) : Keeps w0 (realEffects e r s) := by
  unfold realEffects
  repeat' (first
    | with_reducible assumption
    | (extract_lets +onlyGivenNames x; with_reducible refine Keeps.have_ (x := x) ?_ ?_; (on_goal 2 => (clear_value x; intro)); on_goal 1 => subst x)
    | (extract_lets +onlyGivenNames x; (first | (have h : @Eq Pwr x x := rfl; clear h; subst x) | clear_value x))
    | with_reducible refine (keepTrip_keeps _ _ ?_)
    | with_reducible refine (stopBoot_keeps _ ?_)
    | split
    | fail_if_no_progress with_reducible refine Keeps.upd ?_ rfl rfl rfl rfl rfl rfl (by first | exact id | simp +contextual [shapes])
    | dsimp only)

theorem abortCal_keeps (s : State) {w0 : State} (h0 : Keeps w0 s) : Keeps w0 (abortCal s) := by
  unfold abortCal
  repeat' (first
    | with_reducible assumption
    | (extract_lets +onlyGivenNames x; with_reducible refine Keeps.have_ (x := x) ?_ ?_; (on_goal 2 => (clear_value x; intro)); on_goal 1 => subst x)
    | (extract_lets +onlyGivenNames x; (first | (have h : @Eq Nvm x x := rfl; clear h; subst x) | (have h : @Eq Pwr x x := rfl; clear h; subst x) | clear_value x))
    | with_reducible refine (complete_keeps _ _ _ _ _ _ _ ?_)
    | split
    | (intro _; intros; beta_reduce)
    | fail_if_no_progress with_reducible refine Keeps.upd ?_ rfl rfl rfl rfl rfl rfl (by first | exact id | simp +contextual [shapes])
    | dsimp only)

theorem openNvm_keeps (s : State) {w0 : State} (h0 : Keeps w0 s) : Keeps w0 (openNvm s) := by
  unfold openNvm
  repeat' (first
    | with_reducible assumption
    | (extract_lets +onlyGivenNames x; with_reducible refine Keeps.have_ (x := x) ?_ ?_; (on_goal 2 => (clear_value x; intro)); on_goal 1 => subst x)
    | (extract_lets +onlyGivenNames x; (first | (have h : @Eq Nvm x x := rfl; clear h; subst x) | (have h : @Eq Thm x x := rfl; clear h; subst x) | clear_value x))
    | split
    | (intro _; intros; beta_reduce)
    | fail_if_no_progress with_reducible refine Keeps.upd ?_ rfl rfl rfl rfl rfl rfl (by first | exact id | simp +contextual [shapes])
    | dsimp only)

theorem queueStore_keeps (n : StoreReq) (s : State) {w0 : State} (h0 : Keeps w0 s) : Keeps w0 (queueStore n s) := by
  unfold queueStore
  repeat' (first
    | with_reducible assumption
    | (extract_lets +onlyGivenNames x; with_reducible refine Keeps.have_ (x := x) ?_ ?_; (on_goal 2 => (clear_value x; intro)); on_goal 1 => subst x)
    | (extract_lets +onlyGivenNames x; (first | (have h : @Eq Nvm x x := rfl; clear h; subst x) | clear_value x))
    | split
    | (intro _; intros; beta_reduce)
    | fail_if_no_progress with_reducible refine Keeps.upd ?_ rfl rfl rfl rfl rfl rfl (by first | exact id | simp +contextual [shapes])
    | dsimp only)

theorem requestStore_keeps (c : ℕ) (patch : List (ℕ × List Byte)) (s : State) {w0 : State} (h0 : Keeps w0 s) : Keeps w0 (requestStore c patch s) := by
  unfold requestStore
  repeat' (first
    | with_reducible assumption
    | with_reducible refine (queueStore_keeps _ _ ?_))

theorem afterKindle_keeps (s : State) {w0 : State} (h0 : Keeps w0 s) : Keeps w0 (afterKindle s) := by
  unfold afterKindle
  repeat' (first
    | with_reducible assumption
    | (extract_lets +onlyGivenNames x; with_reducible refine Keeps.have_ (x := x) ?_ ?_; (on_goal 2 => (clear_value x; intro)); on_goal 1 => subst x)
    | (extract_lets +onlyGivenNames x; (first | (have h : @Eq Thm x x := rfl; clear h; subst x) | clear_value x))
    | with_reducible refine (kindleF_keeps _ ?_)
    | with_reducible refine (openNvm_keeps _ ?_)
    | with_reducible refine (requestStore_keeps _ _ _ ?_)
    | split
    | fail_if_no_progress with_reducible refine Keeps.upd ?_ rfl rfl rfl rfl rfl rfl (by first | exact id | simp +contextual [shapes])
    | dsimp only)

theorem enterMode_keeps (m : Mode) (cause : ℕ) (s : State) {w0 : State} (h0 : Keeps w0 s) : Keeps w0 (enterMode m cause s) := by
  unfold enterMode
  extract_lets old p1 p q t
  have k : Keeps w0 t := by
    unfold t
    split
    · exact afterKindle_keeps _ h0
    · exact h0
  have n := noteF_keeps 0x0E01 (modeCode m) (modeCode old) cause t k
  exact ⟨⟨n.pending, n.canonical, n.shaped⟩, n.locked, h0.released⟩

theorem restartBlocks_keeps (s : State) {w0 : State} (h0 : Keeps w0 s) : Keeps w0 (restartBlocks s) := by
  unfold restartBlocks
  repeat' (first
    | with_reducible assumption
    | (extract_lets +onlyGivenNames x; with_reducible refine Keeps.have_ (x := x) ?_ ?_; (on_goal 2 => (clear_value x; intro)); on_goal 1 => subst x)
    | (extract_lets +onlyGivenNames x; (first | (have h : @Eq Pwr x x := rfl; clear h; subst x) | clear_value x))
    | fail_if_no_progress with_reducible refine Keeps.upd ?_ rfl rfl rfl rfl rfl rfl (by first | exact id | simp +contextual [shapes])
    | dsimp only)

theorem abandonPower_keeps (s : State) {w0 : State} (h0 : Keeps w0 s) : Keeps w0 (abandonPower s) := by
  unfold abandonPower
  repeat' (first
    | with_reducible assumption
    | (extract_lets +onlyGivenNames x; with_reducible refine Keeps.have_ (x := x) ?_ ?_; (on_goal 2 => (clear_value x; intro)); on_goal 1 => subst x)
    | (extract_lets +onlyGivenNames x; (first | (have h : @Eq Pwr x x := rfl; clear h; subst x) | clear_value x))
    | with_reducible refine (restartBlocks_keeps _ ?_)
    | with_reducible refine (supersedePower_keeps _ ?_)
    | (split; with_reducible refine Keeps.triple_ ‹_ = (_, _, _)› ?_ ?_; on_goal 2 => intro)
    | split
    | fail_if_no_progress with_reducible refine Keeps.upd ?_ rfl rfl rfl rfl rfl rfl (by first | exact id | simp +contextual [shapes])
    | dsimp only)

theorem endBlanking_keeps (s : State) {w0 : State} (h0 : Keeps w0 s) : Keeps w0 (endBlanking s) := by
  unfold endBlanking
  repeat' (first
    | with_reducible assumption
    | (extract_lets +onlyGivenNames x; with_reducible refine Keeps.have_ (x := x) ?_ ?_; (on_goal 2 => (clear_value x; intro)); on_goal 1 => subst x)
    | (extract_lets +onlyGivenNames x; (first | (have h : @Eq Pwr x x := rfl; clear h; subst x) | clear_value x))
    | with_reducible refine (settleLevel_keeps _ ?_)
    | split
    | fail_if_no_progress with_reducible refine Keeps.upd ?_ rfl rfl rfl rfl rfl rfl (by first | exact id | simp +contextual [shapes])
    | dsimp only)

theorem snuff_keeps (cause : ℕ) (code : ℕ) (s : State) {w0 : State} (h0 : Keeps w0 s) : Keeps w0 (snuff cause code s) := by
  unfold snuff
  repeat' (first
    | with_reducible assumption
    | (extract_lets +onlyGivenNames x; with_reducible refine Keeps.have_ (x := x) ?_ ?_; (on_goal 2 => (clear_value x; intro)); on_goal 1 => subst x)
    | (extract_lets +onlyGivenNames x; (first | (have h : @Eq Pwr x x := rfl; clear h; subst x) | (have h : @Eq Flt x x := rfl; clear h; subst x) | clear_value x))
    | with_reducible refine (sinksOff_keeps _ ?_)
    | with_reducible refine (endPending_keeps _ _ ?_)
    | with_reducible refine (abortCal_keeps _ ?_)
    | with_reducible refine (enterMode_keeps _ _ _ ?_)
    | with_reducible refine (abandonPower_keeps _ ?_)
    | with_reducible refine (endBlanking_keeps _ ?_)
    | with_reducible refine (sendTwin_keeps _ _ _ ?_)
    | split
    | fail_if_no_progress with_reducible refine Keeps.upd ?_ rfl rfl rfl rfl rfl rfl (by first | exact id | simp +contextual [shapes])
    | dsimp only)

theorem modPath_keeps (p : Path) (f : RPath → RPath) (s : State) {w0 : State} (h0 : Keeps w0 s) : Keeps w0 (modPath p f s) := by
  unfold modPath
  repeat' (first
    | with_reducible assumption
    | (extract_lets +onlyGivenNames x; with_reducible refine Keeps.have_ (x := x) ?_ ?_; (on_goal 2 => (clear_value x; intro)); on_goal 1 => subst x)
    | (extract_lets +onlyGivenNames x; clear_value x)
    | split
    | fail_if_no_progress with_reducible refine Keeps.upd ?_ rfl rfl rfl rfl rfl rfl (by first | exact id | simp +contextual [shapes])
    | dsimp only)

theorem modLayer_keeps (n : ℕ) (f : Layer → Layer) (s : State) {w0 : State} (h0 : Keeps w0 s) : Keeps w0 (modLayer n f s) := by
  unfold modLayer
  repeat' (first
    | with_reducible assumption
    | fail_if_no_progress with_reducible refine Keeps.upd ?_ rfl rfl rfl rfl rfl rfl (by first | exact id | simp +contextual [shapes]))

theorem breakFrame_keeps (n : ℕ) (cause : ℕ) (p : Path) (s : State) {w0 : State} (h0 : Keeps w0 s) : Keeps w0 (breakFrame n cause p s) := by
  unfold breakFrame
  repeat' (first
    | with_reducible assumption
    | (extract_lets +onlyGivenNames x; with_reducible refine Keeps.have_ (x := x) ?_ ?_; (on_goal 2 => (clear_value x; intro)); on_goal 1 => subst x)
    | with_reducible refine (modLayer_keeps _ _ _ ?_)
    | with_reducible refine (modPath_keeps _ _ _ ?_)
    | with_reducible refine (noteF_keeps _ _ _ _ _ ?_)
    | with_reducible refine (statusDue_keeps _ _ _ _ ?_)
    | split)

theorem breakAll_keeps (p : Path) (s : State) {w0 : State} (h0 : Keeps w0 s) : Keeps w0 (breakAll p s) := by
  unfold breakAll
  repeat' (first
    | with_reducible assumption
    | with_reducible refine (breakFrame_keeps _ _ _ _ ?_)
    | (with_reducible refine Keeps.foldl _ ?_ ?_; on_goal 1 => (intros; beta_reduce))
    | split
    | (intro _; intros; beta_reduce)
    | dsimp only)

theorem interrupt_keeps (p : Path) (s : State) {w0 : State} (h0 : Keeps w0 s) : Keeps w0 (interrupt p s) := by
  unfold interrupt
  repeat' (first
    | with_reducible assumption
    | with_reducible refine (modPath_keeps _ _ _ ?_)
    | with_reducible refine (breakAll_keeps _ _ ?_))

theorem abandonTile_keeps (e : ℕ) (pass : ℕ) (s : State) {w0 : State} (h0 : Keeps w0 s) : Keeps w0 (abandonTile e pass s) := by
  unfold abandonTile
  repeat' (first
    | with_reducible assumption
    | split
    | fail_if_no_progress with_reducible refine Keeps.upd ?_ rfl rfl rfl rfl rfl rfl (by first | exact id | simp +contextual [shapes]))

theorem startReactions_keeps (e : RawEvent) (s : State) {w0 : State} (h0 : Keeps w0 s) : Keeps w0 (startReactions e s) := by
  unfold startReactions
  repeat' (first
    | with_reducible assumption
    | (extract_lets +onlyGivenNames x; with_reducible refine Keeps.have_ (x := x) ?_ ?_; (on_goal 2 => (clear_value x; intro)); on_goal 1 => subst x)
    | (extract_lets +onlyGivenNames x; (first | (have h : @Eq Nvm x x := rfl; clear h; subst x) | (have h : x = (fun _ => _) := rfl; subst x; beta_reduce) | (have h : x = (fun _ _ => _) := rfl; subst x; beta_reduce) | clear_value x))
    | with_reducible refine (modClass_keeps _ _ _ ?_)
    | with_reducible refine (snuff_keeps _ _ _ ?_)
    | with_reducible refine (interrupt_keeps _ _ ?_)
    | with_reducible refine (openWindow_keeps _ _ ?_)
    | with_reducible refine (abandonTile_keeps _ _ _ ?_)
    | split
    | (intro _; intros; beta_reduce)
    | fail_if_no_progress with_reducible refine Keeps.upd ?_ rfl rfl rfl rfl rfl rfl (by first | exact id | simp +contextual [shapes])
    | dsimp only)

theorem latchFlag_keeps (e : RawEvent) (r : Rec) (s : State) {w0 : State} (h0 : Keeps w0 s) : Keeps w0 (latchFlag e r s) := by
  unfold latchFlag
  repeat' (first
    | with_reducible assumption
    | (extract_lets +onlyGivenNames x; with_reducible refine Keeps.have_ (x := x) ?_ ?_; (on_goal 2 => (clear_value x; intro)); on_goal 1 => subst x)
    | (extract_lets +onlyGivenNames x; (first | (have h : @Eq Flt x x := rfl; clear h; subst x) | clear_value x))
    | with_reducible refine (modClass_keeps _ _ _ ?_)
    | with_reducible refine (startReactions_keeps _ _ ?_)
    | split
    | (intro _; intros; beta_reduce)
    | fail_if_no_progress with_reducible refine Keeps.upd ?_ rfl rfl rfl rfl rfl rfl (by first | exact id | simp +contextual [shapes])
    | dsimp only)

theorem latch_keeps (e : RawEvent) (r : Rec) (s : State) {w0 : State} (h0 : Keeps w0 s) : Keeps w0 (latch e r s) := by
  unfold latch
  repeat' (first
    | with_reducible assumption
    | with_reducible refine (latchFlag_keeps _ _ _ ?_)
    | with_reducible refine (histPush_keeps _ _ ?_))

theorem raiseOver_keeps (f : Flt) (fl : ℕ) (e : RawEvent) (s : State) {w0 : State} (h0 : Keeps w0 s) : Keeps w0 (raiseOver f fl e s) := by
  unfold raiseOver
  repeat' (first
    | with_reducible assumption
    | (extract_lets +onlyGivenNames x; with_reducible refine Keeps.have_ (x := x) ?_ ?_; (on_goal 2 => (clear_value x; intro)); on_goal 1 => subst x)
    | (extract_lets +onlyGivenNames x; clear_value x)
    | with_reducible refine (lateSinks_keeps _ _ ?_)
    | with_reducible refine (raiseCollateral_keeps _ _ ?_)
    | with_reducible refine (countEscalation_keeps _ _ _ ?_)
    | with_reducible refine (record_keeps _ _ _ ?_)
    | with_reducible refine (realEffects_keeps _ _ _ ?_)
    | with_reducible refine (latch_keeps _ _ _ ?_)
    | split)

theorem raiseWith_keeps (fl : ℕ) (e : RawEvent) (s : State) {w0 : State} (h0 : Keeps w0 s) : Keeps w0 (raiseWith fl e s) := by
  unfold raiseWith
  repeat' (first
    | with_reducible assumption
    | with_reducible refine (raiseOver_keeps _ _ _ _ ?_))

theorem raiseAs_keeps (live : Bool) (e : RawEvent) (s : State) {w0 : State} (h0 : Keeps w0 s) : Keeps w0 (raiseAs live e s) := by
  unfold raiseAs
  repeat' (first
    | with_reducible assumption
    | with_reducible refine (raiseWith_keeps _ _ _ ?_))

theorem raise_keeps (e : RawEvent) (s : State) {w0 : State} (h0 : Keeps w0 s) : Keeps w0 (raise e s) := by
  unfold raise
  repeat' (first
    | with_reducible assumption
    | with_reducible refine (raiseAs_keeps _ _ _ ?_))

theorem addCond_keeps (unit : ℕ) (e : RawEvent) (s : State) {w0 : State} (h0 : Keeps w0 s) : Keeps w0 (addCond unit e s) := by
  unfold addCond
  repeat' (first
    | with_reducible assumption
    | (extract_lets +onlyGivenNames x; with_reducible refine Keeps.have_ (x := x) ?_ ?_; (on_goal 2 => (clear_value x; intro)); on_goal 1 => subst x)
    | (extract_lets +onlyGivenNames x; (first | (have h : @Eq Flt x x := rfl; clear h; subst x) | clear_value x))
    | fail_if_no_progress with_reducible refine Keeps.upd ?_ rfl rfl rfl rfl rfl rfl (by first | exact id | simp +contextual [shapes])
    | dsimp only)

theorem condOn_keeps (unit : ℕ) (e : RawEvent) (s : State) {w0 : State} (h0 : Keeps w0 s) : Keeps w0 (condOn unit e s) := by
  unfold condOn
  repeat' (first
    | with_reducible assumption
    | with_reducible refine (raise_keeps _ _ ?_)
    | with_reducible refine (addCond_keeps _ _ _ ?_)
    | split)

theorem condOff_keeps (code : ℕ) (unit : ℕ) (s : State) {w0 : State} (h0 : Keeps w0 s) : Keeps w0 (condOff code unit s) := by
  unfold condOff
  repeat' (first
    | with_reducible assumption
    | (extract_lets +onlyGivenNames x; with_reducible refine Keeps.have_ (x := x) ?_ ?_; (on_goal 2 => (clear_value x; intro)); on_goal 1 => subst x)
    | (extract_lets +onlyGivenNames x; (first | (have h : @Eq Flt x x := rfl; clear h; subst x) | clear_value x))
    | split
    | (intro _; intros; beta_reduce)
    | fail_if_no_progress with_reducible refine Keeps.upd ?_ rfl rfl rfl rfl rfl rfl (by first | exact id | simp +contextual [shapes])
    | dsimp only)

theorem condSet_keeps (on : Bool) (unit : ℕ) (e : RawEvent) (s : State) {w0 : State} (h0 : Keeps w0 s) : Keeps w0 (condSet on unit e s) := by
  unfold condSet
  repeat' (first
    | with_reducible assumption
    | with_reducible refine (condOn_keeps _ _ _ ?_)
    | with_reducible refine (condOff_keeps _ _ _ ?_)
    | split)

theorem requeueStore_keeps (o : StoreReq) (s : State) {w0 : State} (h0 : Keeps w0 s) : Keeps w0 (requeueStore o s) := by
  unfold requeueStore
  repeat' (first
    | with_reducible assumption
    | (extract_lets +onlyGivenNames x; with_reducible refine Keeps.have_ (x := x) ?_ ?_; (on_goal 2 => (clear_value x; intro)); on_goal 1 => subst x)
    | (extract_lets +onlyGivenNames x; (first | (have h : @Eq Nvm x x := rfl; clear h; subst x) | clear_value x))
    | split
    | (intro _; intros; beta_reduce)
    | fail_if_no_progress with_reducible refine Keeps.upd ?_ rfl rfl rfl rfl rfl rfl (by first | exact id | simp +contextual [shapes])
    | dsimp only)

theorem clearClass_keeps (c : ℕ) (s : State) {w0 : State} (h0 : Keeps w0 s) : Keeps w0 (clearClass c s) := by
  unfold clearClass
  repeat' (first
    | with_reducible assumption
    | (extract_lets +onlyGivenNames x; clear_value x)
    | with_reducible refine (modClass_keeps _ _ _ ?_))

theorem closeWindow_keeps (r : ℕ) (s : State) {w0 : State} (h0 : Keeps w0 s) : Keeps w0 (closeWindow r s) := by
  unfold closeWindow
  repeat' (first
    | with_reducible assumption
    | (extract_lets +onlyGivenNames x; with_reducible refine Keeps.have_ (x := x) ?_ ?_; (on_goal 2 => (clear_value x; intro)); on_goal 1 => subst x)
    | (extract_lets +onlyGivenNames x; (first | (have h : @Eq Flt x x := rfl; clear h; subst x) | clear_value x))
    | with_reducible refine (raiseAs_keeps _ _ _ ?_)
    | (with_reducible refine Keeps.foldl _ ?_ ?_; on_goal 1 => (intros; beta_reduce))
    | split
    | (intro _; intros; beta_reduce)
    | fail_if_no_progress with_reducible refine Keeps.upd ?_ rfl rfl rfl rfl rfl rfl (by first | exact id | simp +contextual [shapes])
    | dsimp only)

theorem giveUpSleep_keeps (s : State) {w0 : State} (h0 : Keeps w0 s) : Keeps w0 (giveUpSleep s) := by
  unfold giveUpSleep
  repeat' (first
    | with_reducible assumption
    | with_reducible refine (supersedePower_keeps _ ?_)
    | split)

theorem raiseF_keeps (code : ℕ) (p0 : ℕ) (p1 : ℕ) (p2 : ℕ) (s : State) {w0 : State} (h0 : Keeps w0 s) : Keeps w0 (raiseF code p0 p1 p2 s) := by
  unfold raiseF
  repeat' (first
    | with_reducible assumption
    | with_reducible refine (raise_keeps _ _ ?_))

theorem raiseDry_keeps (e : RawEvent) (s : State) {w0 : State} (h0 : Keeps w0 s) : Keeps w0 (raiseDry e s) := by
  unfold raiseDry
  repeat' (first
    | with_reducible assumption
    | (extract_lets +onlyGivenNames x; with_reducible refine Keeps.have_ (x := x) ?_ ?_; (on_goal 2 => (clear_value x; intro)); on_goal 1 => subst x)
    | (extract_lets +onlyGivenNames x; clear_value x)
    | with_reducible refine (record_keeps _ _ _ ?_)
    | with_reducible refine (histPush_keeps _ _ ?_)
    | split)

theorem clearClasses_keeps (mask : ℕ) (s : State) {w0 : State} (h0 : Keeps w0 s) : Keeps w0 (clearClasses mask s) := by
  unfold clearClasses
  repeat' (first
    | with_reducible assumption
    | (extract_lets +onlyGivenNames x; with_reducible refine Keeps.have_ (x := x) ?_ ?_; (on_goal 2 => (clear_value x; intro)); on_goal 1 => subst x)
    | (extract_lets +onlyGivenNames x; (first | (have h : @Eq Flt x x := rfl; clear h; subst x) | clear_value x))
    | with_reducible refine (clearClass_keeps _ _ ?_)
    | (with_reducible refine Keeps.foldl _ ?_ ?_; on_goal 1 => (intros; beta_reduce))
    | split
    | (intro _; intros; beta_reduce)
    | fail_if_no_progress with_reducible refine Keeps.upd ?_ rfl rfl rfl rfl rfl rfl (by first | exact id | simp +contextual [shapes])
    | dsimp only)

theorem raiseAll_keeps (l : List RawEvent) (s : State) {w0 : State} (h0 : Keeps w0 s) : Keeps w0 (raiseAll l s) := by
  unfold raiseAll
  repeat' (first
    | with_reducible assumption
    | with_reducible refine (note_keeps _ _ ?_)
    | with_reducible refine (raise_keeps _ _ ?_)
    | (with_reducible refine Keeps.foldl _ ?_ ?_; on_goal 1 => (intros; beta_reduce))
    | split
    | (intro _; intros; beta_reduce)
    | dsimp only)

theorem ackClasses_keeps (mask : ℕ) (s : State) {w0 : State} (h0 : Keeps w0 s) : Keeps w0 (ackClasses mask s) := by
  unfold ackClasses
  repeat' (first
    | with_reducible assumption
    | (extract_lets +onlyGivenNames x; with_reducible refine Keeps.have_ (x := x) ?_ ?_; (on_goal 2 => (clear_value x; intro)); on_goal 1 => subst x)
    | (extract_lets +onlyGivenNames x; clear_value x)
    | with_reducible refine (modClass_keeps _ _ _ ?_)
    | (with_reducible refine Keeps.foldl _ ?_ ?_; on_goal 1 => (intros; beta_reduce))
    | split
    | (intro _; intros; beta_reduce)
    | fail_if_no_progress with_reducible refine Keeps.upd ?_ rfl rfl rfl rfl rfl rfl (by first | exact id | simp +contextual [shapes])
    | dsimp only)

end Sys2Proof.Machine
end

