-- ==== Sys2Proof/Laws/KeepsCheckUnits.lean ====
section
/-! SUPPORT. For each definition of Machine/CheckUnits.lean that answers a state: the queue stays as it is and the memories stay canonical. -/

namespace Sys2Proof.Machine

theorem modGu_keeps (n : ℕ) (f : Gu → Gu) (s : State) {w0 : State} (h0 : Keeps w0 s) : Keeps w0 (modGu n f s) := by
  unfold modGu
  repeat' (first
    | with_reducible assumption
    | fail_if_no_progress with_reducible refine Keeps.upd ?_ rfl rfl rfl rfl rfl rfl (by first | exact id | simp +contextual [shapes]))

theorem guCaptureNow_keeps (n : ℕ) (s : State) {w0 : State} (h0 : Keeps w0 s) : Keeps w0 (guCaptureNow n s) := by
  unfold guCaptureNow
  repeat' (first
    | with_reducible assumption
    | (extract_lets +onlyGivenNames x; with_reducible refine Keeps.have_ (x := x) ?_ ?_; (on_goal 2 => (clear_value x; intro)); on_goal 1 => subst x)
    | (extract_lets +onlyGivenNames x; clear_value x)
    | with_reducible refine (modGu_keeps _ _ _ ?_)
    | with_reducible refine (raise_keeps _ _ ?_)
    | split)

theorem guSource_keeps (src : ℕ) (f : Gu → Gu) (s : State) {w0 : State} (h0 : Keeps w0 s) : Keeps w0 (guSource src f s) := by
  unfold guSource
  repeat' (first
    | with_reducible assumption
    | split
    | fail_if_no_progress with_reducible refine Keeps.upd ?_ rfl rfl rfl rfl rfl rfl (by first | exact id | simp +contextual [shapes]))

theorem guFeedSource_keeps (src : ℕ) (b : List Byte) (s : State) {w0 : State} (h0 : Keeps w0 s) : Keeps w0 (guFeedSource src b s) := by
  unfold guFeedSource
  repeat' (first
    | with_reducible assumption
    | with_reducible refine (guSource_keeps _ _ _ ?_))

theorem guStartSource_keeps (src : ℕ) (s : State) {w0 : State} (h0 : Keeps w0 s) : Keeps w0 (guStartSource src s) := by
  unfold guStartSource
  repeat' (first
    | with_reducible assumption
    | with_reducible refine (guSource_keeps _ _ _ ?_))

theorem guCaptureSource_keeps (src : ℕ) (s : State) {w0 : State} (h0 : Keeps w0 s) : Keeps w0 (guCaptureSource src s) := by
  unfold guCaptureSource
  repeat' (first
    | with_reducible assumption
    | with_reducible refine (guCaptureNow_keeps _ _ ?_)
    | (with_reducible refine Keeps.foldl _ ?_ ?_; on_goal 1 => (intros; beta_reduce))
    | split
    | (intro _; intros; beta_reduce)
    | dsimp only)

end Sys2Proof.Machine
end

