-- ==== Sys2Proof/Laws/KeepsOperands.lean ====
section
/-! SUPPORT. For each definition of Machine/Operands.lean that answers a state: the queue stays as it is and the memories stay canonical. -/

namespace Sys2Proof.Machine

theorem modSrc_keeps (y0 : Src) (f : SrcState → SrcState) (s : State) {w0 : State} (h0 : Keeps w0 s) : Keeps w0 (modSrc y0 f s) := by
  unfold modSrc
  repeat' (first
    | with_reducible assumption
    | (extract_lets +onlyGivenNames x; with_reducible refine Keeps.have_ (x := x) ?_ ?_; (on_goal 2 => (clear_value x; intro)); on_goal 1 => subst x)
    | (extract_lets +onlyGivenNames x; (first | (have h : @Eq Cmd x x := rfl; clear h; subst x) | (have h : x = (fun _ => _) := rfl; subst x; beta_reduce) | (have h : x = (fun _ _ => _) := rfl; subst x; beta_reduce) | clear_value x))
    | split
    | fail_if_no_progress with_reducible refine Keeps.upd ?_ rfl rfl rfl rfl rfl rfl (by first | exact id | simp +contextual [shapes])
    | dsimp only)

theorem takeAlive_keeps (y0 : Src) (b : List Byte) (s : State) {w0 : State} (h0 : Keeps w0 s) : Keeps w0 (takeAlive y0 b s) := by
  unfold takeAlive
  repeat' (first
    | with_reducible assumption
    | (extract_lets +onlyGivenNames x; with_reducible refine Keeps.have_ (x := x) ?_ ?_; (on_goal 2 => (clear_value x; intro)); on_goal 1 => subst x)
    | (extract_lets +onlyGivenNames x; (first | (have h : @Eq Pwr x x := rfl; clear h; subst x) | clear_value x))
    | with_reducible refine (modSrc_keeps _ _ _ ?_)
    | with_reducible refine (note_keeps _ _ ?_)
    | split
    | (intro _; intros; beta_reduce)
    | fail_if_no_progress with_reducible refine Keeps.upd ?_ rfl rfl rfl rfl rfl rfl (by first | exact id | simp +contextual [shapes])
    | dsimp only)

theorem rep_keeps (status : ℕ) (s : State) {w0 : State} (h0 : Keeps w0 s) : Keeps w0 (rep status s).2 := by
  unfold rep
  repeat' (first
    | with_reducible assumption)

theorem accept_keeps (start : ℕ → State → State) (s : State) {w0 : State} (h0 : Keeps w0 s) (h_start : ∀ r a x, Keeps r x → Keeps r (start a x)) : Keeps w0 (accept start s).2 := by
  unfold accept
  repeat' (first
    | with_reducible assumption
    | with_reducible refine (takeHandle_keeps _ ?_)
    | with_reducible refine (rep_keeps _ _ ?_)
    | with_reducible refine (h_start _ _ ?_)
    | with_reducible refine (h_start _ _ _ ?_)
    | with_reducible refine (h_start _ _ _ _ ?_)
    | split)

theorem takeRequest_keeps (op : ℕ) (rq : Rq) (s : State) {w0 : State} (h0 : Keeps w0 s) : Keeps w0 (takeRequest op rq s) := by
  unfold takeRequest
  repeat' (first
    | with_reducible assumption
    | (extract_lets +onlyGivenNames x; with_reducible refine Keeps.have_ (x := x) ?_ ?_; (on_goal 2 => (clear_value x; intro)); on_goal 1 => subst x)
    | (extract_lets +onlyGivenNames x; (first | (have h : @Eq Cmd x x := rfl; clear h; subst x) | clear_value x))
    | with_reducible refine (takeAlive_keeps _ _ _ ?_)
    | split
    | fail_if_no_progress with_reducible refine Keeps.upd ?_ rfl rfl rfl rfl rfl rfl (by first | exact id | simp +contextual [shapes])
    | dsimp only)

theorem sendReply_keeps (y0 : Src) (b : List Byte) (s : State) {w0 : State} (h0 : Keeps w0 s) : Keeps w0 (sendReply y0 b s) := by
  unfold sendReply
  repeat' (first
    | with_reducible assumption
    | (extract_lets +onlyGivenNames x; with_reducible refine Keeps.have_ (x := x) ?_ ?_; (on_goal 2 => (clear_value x; intro)); on_goal 1 => subst x)
    | (extract_lets +onlyGivenNames x; (first | (have h : @Eq Cmd x x := rfl; clear h; subst x) | clear_value x))
    | split
    | fail_if_no_progress with_reducible refine Keeps.upd ?_ rfl rfl rfl rfl rfl rfl (by first | exact id | simp +contextual [shapes])
    | dsimp only)

theorem respond_keeps (y0 : Src) (op : ℕ) (tag : ℕ) (r : Rep) (s : State) {w0 : State} (h0 : Keeps w0 s) : Keeps w0 (respond y0 op tag r s) := by
  unfold respond
  repeat' (first
    | with_reducible assumption
    | (extract_lets +onlyGivenNames x; clear_value x)
    | with_reducible refine (sendReply_keeps _ _ _ ?_)
    | with_reducible refine (modSrc_keeps _ _ _ ?_))

theorem refuseLocked_keeps (s : State) {w0 : State} (h0 : Keeps w0 s) : Keeps w0 (refuseLocked s).2 := by
  unfold refuseLocked
  repeat' (first
    | with_reducible assumption
    | (extract_lets +onlyGivenNames x; with_reducible refine Keeps.have_ (x := x) ?_ ?_; (on_goal 2 => (clear_value x; intro)); on_goal 1 => subst x)
    | (extract_lets +onlyGivenNames x; (first | (have h : @Eq Cmd x x := rfl; clear h; subst x) | clear_value x))
    | with_reducible refine (rep_keeps _ _ ?_)
    | fail_if_no_progress with_reducible refine Keeps.upd ?_ rfl rfl rfl rfl rfl rfl (by first | exact id | simp +contextual [shapes])
    | dsimp only)

theorem judge_keeps (y0 : Src) (op : ℕ) (payload : List Byte) (modeOk : Bool) (lenOk : Bool) (lockExtra : Bool) (body : Body) (s : State) {w0 : State} (h0 : Keeps w0 s) (h_body : ∀ r x, Keeps r x → Keeps r (body x).2) : Keeps w0 (judge y0 op payload modeOk lenOk lockExtra body s).2 := by
  unfold judge
  repeat' (first
    | with_reducible assumption
    | with_reducible refine (rep_keeps _ _ ?_)
    | with_reducible refine (refuseLocked_keeps _ ?_)
    | with_reducible refine (h_body _ _ ?_)
    | with_reducible refine (h_body _ _ _ ?_)
    | with_reducible refine (h_body _ _ _ _ ?_)
    | split)

theorem screenOne_keeps (s : State) {w0 : State} (h0 : Keeps w0 s) : KeepsOpt w0 (screenOne s) := by
  unfold screenOne
  repeat' (first
    | with_reducible assumption
    | (extract_lets +onlyGivenNames x; with_reducible refine KeepsOpt.have_ (x := x) ?_ ?_; (on_goal 2 => (clear_value x; intro)); on_goal 1 => subst x)
    | (extract_lets +onlyGivenNames x; with_reducible refine Keeps.have_ (x := x) ?_ ?_; (on_goal 2 => (clear_value x; intro)); on_goal 1 => subst x)
    | (extract_lets +onlyGivenNames x; (first | (have h : @Eq Cmd x x := rfl; clear h; subst x) | clear_value x))
    | with_reducible refine KeepsOpt.some ?_
    | with_reducible exact KeepsOpt.none
    | with_reducible refine (modSrc_keeps _ _ _ ?_)
    | with_reducible refine (sendReply_keeps _ _ _ ?_)
    | with_reducible refine (note_keeps _ _ ?_)
    | with_reducible refine (respond_keeps _ _ _ _ _ ?_)
    | with_reducible refine (takeAlive_keeps _ _ _ ?_)
    | split
    | (intro _; intros; beta_reduce)
    | fail_if_no_progress with_reducible refine Keeps.upd ?_ rfl rfl rfl rfl rfl rfl (by first | exact id | simp +contextual [shapes])
    | dsimp only)

theorem screenFrom_keeps (y0 : ℕ) (y1 : State) {w0 : State} (h0 : Keeps w0 y1) : Keeps w0 (screenFrom y0 y1) := by
  induction y0 generalizing y1 with
  | zero => exact h0
  | succ k ih =>
    unfold screenFrom
    split
    · exact h0
    · exact ih _ (screenOne_keeps _ h0 _ ‹_›)

theorem dropRequest_keeps (y0 : Src) (cause : ℕ) (s : State) {w0 : State} (h0 : Keeps w0 s) : Keeps w0 (dropRequest y0 cause s) := by
  unfold dropRequest
  repeat' (first
    | with_reducible assumption
    | (extract_lets +onlyGivenNames x; with_reducible refine Keeps.have_ (x := x) ?_ ?_; (on_goal 2 => (clear_value x; intro)); on_goal 1 => subst x)
    | with_reducible refine (modSrc_keeps _ _ _ ?_)
    | with_reducible refine (note_keeps _ _ ?_))

theorem screen_keeps (s : State) {w0 : State} (h0 : Keeps w0 s) : Keeps w0 (screen s) := by
  unfold screen
  repeat' (first
    | with_reducible assumption
    | with_reducible refine (screenFrom_keeps _ _ ?_)
    | split)

theorem repOk_keeps (payload : List Byte) (s : State) {w0 : State} (h0 : Keeps w0 s) : Keeps w0 (repOk payload s).2 := by
  unfold repOk
  repeat' (first
    | with_reducible assumption)

theorem answer_keeps (y0 : Src) (op : ℕ) (tag : ℕ) (r : Rep) (s : State) {w0 : State} (h0 : Keeps w0 s) : Keeps w0 (answer y0 op tag r s) := by
  unfold answer
  repeat' (first
    | with_reducible assumption
    | (extract_lets +onlyGivenNames x; with_reducible refine Keeps.have_ (x := x) ?_ ?_; (on_goal 2 => (clear_value x; intro)); on_goal 1 => subst x)
    | (extract_lets +onlyGivenNames x; (first | (have h : @Eq Mem x x := rfl; clear h; subst x) | clear_value x))
    | with_reducible refine (screen_keeps _ ?_)
    | with_reducible refine (respond_keeps _ _ _ _ _ ?_)
    | split
    | fail_if_no_progress with_reducible refine Keeps.upd ?_ rfl rfl rfl rfl rfl rfl (by first | exact id | simp +contextual [shapes])
    | dsimp only)

theorem request_keeps (rq : Rq) (op : ℕ) (modeOk : State → Bool) (lenOk : ℕ → Bool) (lockExtra : Bool) (body : Body) (s : State) {w0 : State} (h0 : Keeps w0 s) (h_body : ∀ r x, Keeps r x → Keeps r (body x).2) : KeepsRes w0 (request rq op modeOk lenOk lockExtra body s) := by
  unfold request
  repeat' (first
    | with_reducible assumption
    | (extract_lets +onlyGivenNames x; with_reducible refine KeepsRes.have_ (x := x) ?_ ?_; (on_goal 2 => (clear_value x; intro)); on_goal 1 => subst x)
    | with_reducible refine KeepsRes.next ?_
    | with_reducible refine (takeRequest_keeps _ _ _ ?_)
    | with_reducible refine (judge_keeps _ _ _ _ _ _ _ _ ?_ ?_)
    | with_reducible refine (answer_keeps _ _ _ _ _ ?_)
    | with_reducible refine (h_body _ _ ?_)
    | with_reducible refine (h_body _ _ _ ?_)
    | with_reducible refine (h_body _ _ _ _ ?_)
    | split)

end Sys2Proof.Machine
end

