-- ==== Sys2Proof/Laws/KeepsNvmOps.lean ====
section
/-! SUPPORT. For each definition of Machine/NvmOps.lean that answers a state: the queue stays as it is and the memories stay canonical. -/

namespace Sys2Proof.Machine

theorem scarWrite_keeps (i : ℕ) (b : List Byte) (s : State) {w0 : State} (h0 : Keeps w0 s) : Keeps w0 (scarWrite i b s) := by
  unfold scarWrite
  refine guFeedSource_keeps _ _ _ ⟨⟨h0.pending, fun c => ?_, h0.shaped⟩, h0.locked, h0.released⟩
  have c := canonical_iff.1 (h0.canonical c)
  exact canonical_iff.2 ⟨c.1, c.2.1, memWf_memWrite c.2.2⟩

theorem mramSet_keeps (a : ℕ) (b : List Byte) (s : State) {w0 : State} (h0 : Keeps w0 s) : Keeps w0 (mramSet a b s) := ⟨⟨h0.pending, fun c => by
    have c := canonical_iff.1 (h0.canonical c)
    exact canonical_iff.2 ⟨c.1, memWf_memWrite c.2.1, c.2.2⟩, fun c => by simpa [shaped, shapes, mramSet] using h0.shaped c⟩, h0.locked, h0.released⟩

theorem mramWrite_keeps (a : ℕ) (b : List Byte) (s : State) {w0 : State} (h0 : Keeps w0 s) : Keeps w0 (mramWrite a b s) := by
  unfold mramWrite
  repeat' (first
    | with_reducible assumption
    | with_reducible refine (guFeedSource_keeps _ _ _ ?_)
    | with_reducible refine (mramSet_keeps _ _ _ ?_))

theorem countUnits_keeps (n : ℕ) (s : State) {w0 : State} (h0 : Keeps w0 s) : Keeps w0 (countUnits n s) := by
  unfold countUnits
  repeat' (first
    | with_reducible assumption
    | (extract_lets +onlyGivenNames x; with_reducible refine Keeps.have_ (x := x) ?_ ?_; (on_goal 2 => (clear_value x; intro)); on_goal 1 => subst x)
    | (extract_lets +onlyGivenNames x; (first | (have h : @Eq Nvm x x := rfl; clear h; subst x) | clear_value x))
    | fail_if_no_progress with_reducible refine Keeps.upd ?_ rfl rfl rfl rfl rfl rfl (by first | exact id | simp +contextual [shapes])
    | dsimp only)

theorem writePart_keeps (c : ℕ) (k : ℕ) (gen : ℕ) (body : List Byte) (n : ℕ) (s : State) {w0 : State} (h0 : Keeps w0 s) : Keeps w0 (writePart c k gen body n s) := by
  unfold writePart
  repeat' (first
    | with_reducible assumption
    | (extract_lets +onlyGivenNames x; with_reducible refine Keeps.have_ (x := x) ?_ ?_; (on_goal 2 => (clear_value x; intro)); on_goal 1 => subst x)
    | (extract_lets +onlyGivenNames x; clear_value x)
    | with_reducible refine (mramWrite_keeps _ _ _ ?_)
    | with_reducible refine (countUnits_keeps _ _ ?_)
    | split)

theorem tearSlot_keeps (c : ℕ) (k : ℕ) (gen : ℕ) (body : List Byte) (s : State) {w0 : State} (h0 : Keeps w0 s) : Keeps w0 (tearSlot c k gen body s) := by
  unfold tearSlot
  repeat' (first
    | with_reducible assumption
    | with_reducible refine (takeFree_keeps _ ?_)
    | with_reducible refine (writePart_keeps _ _ _ _ _ _ ?_))

theorem tearStore_keeps (s : State) {w0 : State} (h0 : Keeps w0 s) : Keeps w0 (tearStore s) := by
  unfold tearStore
  repeat' (first
    | with_reducible assumption
    | (extract_lets +onlyGivenNames x; with_reducible refine Keeps.have_ (x := x) ?_ ?_; (on_goal 2 => (clear_value x; intro)); on_goal 1 => subst x)
    | (extract_lets +onlyGivenNames x; (first | (have h : @Eq Nvm x x := rfl; clear h; subst x) | clear_value x))
    | with_reducible refine (tearSlot_keeps _ _ _ _ _ ?_)
    | split
    | fail_if_no_progress with_reducible refine Keeps.upd ?_ rfl rfl rfl rfl rfl rfl (by first | exact id | simp +contextual [shapes])
    | dsimp only)

theorem setInForce_keeps (c : ℕ) (k : ℕ) (gen : ℕ) (s : State) {w0 : State} (h0 : Keeps w0 s) : Keeps w0 (setInForce c k gen s) := by
  unfold setInForce
  repeat' (first
    | with_reducible assumption
    | (extract_lets +onlyGivenNames x; with_reducible refine Keeps.have_ (x := x) ?_ ?_; (on_goal 2 => (clear_value x; intro)); on_goal 1 => subst x)
    | (extract_lets +onlyGivenNames x; (first | (have h : @Eq Nvm x x := rfl; clear h; subst x) | clear_value x))
    | split
    | (intro _; intros; beta_reduce)
    | fail_if_no_progress with_reducible refine Keeps.upd ?_ rfl rfl rfl rfl rfl rfl (by first | exact id | simp +contextual [shapes])
    | dsimp only)

theorem pwCommitSlot_keeps (l : PwLoad) (body : List Byte) (s : State) {w0 : State} (h0 : Keeps w0 s) : Keeps w0 (pwCommitSlot l body s) := by
  unfold pwCommitSlot
  repeat' (first
    | with_reducible assumption
    | (extract_lets +onlyGivenNames x; with_reducible refine Keeps.have_ (x := x) ?_ ?_; (on_goal 2 => (clear_value x; intro)); on_goal 1 => subst x)
    | (extract_lets +onlyGivenNames x; clear_value x)
    | with_reducible refine (mramWrite_keeps _ _ _ ?_)
    | with_reducible refine (setInForce_keeps _ _ _ _ ?_)
    | with_reducible refine (countUnits_keeps _ _ ?_))

theorem openReads_keeps (s : State) {w0 : State} (h0 : Keeps w0 s) : Keeps w0 (openReads s) := by
  unfold openReads
  repeat' (first
    | with_reducible assumption
    | (extract_lets +onlyGivenNames x; with_reducible refine Keeps.have_ (x := x) ?_ ?_; (on_goal 2 => (clear_value x; intro)); on_goal 1 => subst x)
    | (extract_lets +onlyGivenNames x; clear_value x)
    | with_reducible refine (takeFree_keeps _ ?_)
    | with_reducible refine (modGu_keeps _ _ _ ?_)
    | (with_reducible refine Keeps.foldl _ ?_ ?_; on_goal 1 => (intros; beta_reduce))
    | (split; with_reducible refine Keeps.pair_ ‹_ = (_, _)› ?_ ?_; on_goal 2 => intro)
    | split
    | (intro _; intros; beta_reduce)
    | fail_if_no_progress with_reducible refine Keeps.upd ?_ rfl rfl rfl rfl rfl rfl (by first | exact id | simp +contextual [shapes])
    | dsimp only)

theorem writeSlot_keeps (c : ℕ) (k : ℕ) (gen : ℕ) (body : List Byte) (s : State) {w0 : State} (h0 : Keeps w0 s) : Keeps w0 (writeSlot c k gen body s) := by
  unfold writeSlot
  repeat' (first
    | with_reducible assumption
    | (extract_lets +onlyGivenNames x; with_reducible refine Keeps.have_ (x := x) ?_ ?_; (on_goal 2 => (clear_value x; intro)); on_goal 1 => subst x)
    | (extract_lets +onlyGivenNames x; clear_value x)
    | with_reducible refine (mramWrite_keeps _ _ _ ?_)
    | with_reducible refine (countUnits_keeps _ _ ?_))

theorem tempWindow_keeps (s : State) {w0 : State} (h0 : Keeps w0 s) : Keeps w0 (tempWindow s).2 := by
  unfold tempWindow
  repeat' (first
    | with_reducible assumption
    | (extract_lets +onlyGivenNames x; with_reducible refine Keeps.have_ (x := x) ?_ ?_; (on_goal 2 => (clear_value x; intro)); on_goal 1 => subst x)
    | (extract_lets +onlyGivenNames x; (first | (have h : @Eq Thm x x := rfl; clear h; subst x) | clear_value x))
    | with_reducible refine (rep_keeps _ _ ?_)
    | fail_if_no_progress with_reducible refine Keeps.upd ?_ rfl rfl rfl rfl rfl rfl (by first | exact id | simp +contextual [shapes])
    | dsimp only)

theorem requireStores_keeps (mask : ℕ) (handle : ℕ) (s : State) {w0 : State} (h0 : Keeps w0 s) : Keeps w0 (requireStores mask handle s) := by
  unfold requireStores
  repeat' (first
    | with_reducible assumption
    | with_reducible refine (queueStore_keeps _ _ ?_)
    | (with_reducible refine Keeps.foldl _ ?_ ?_; on_goal 1 => (intros; beta_reduce))
    | (with_reducible refine Keeps.foldl2 _ _ ?_ ?_; on_goal 1 => (intros; beta_reduce))
    | (with_reducible refine Keeps.foldl3 _ _ ?_ ?_; on_goal 1 => (intros; beta_reduce))
    | split
    | (intro _; intros; beta_reduce)
    | dsimp only)

theorem clearCommit_keeps (c : ℕ) (k : ℕ) (s : State) {w0 : State} (h0 : Keeps w0 s) : Keeps w0 (clearCommit c k s) := by
  unfold clearCommit
  repeat' (first
    | with_reducible assumption
    | with_reducible refine (mramWrite_keeps _ _ _ ?_))

theorem finishCal_keeps (r : CalRun) (s : State) {w0 : State} (h0 : Keeps w0 s) : Keeps w0 (finishCal r s) := by
  unfold finishCal
  repeat' (first
    | with_reducible assumption
    | (extract_lets +onlyGivenNames x; clear_value x)
    | with_reducible refine (complete_keeps _ _ _ _ _ _ _ ?_)
    | split)

theorem resolveStore_keeps (c : ℕ) (status : ℕ) (s : State) (handle : ℕ) {w0 : State} (h0 : Keeps w0 s) : Keeps w0 (resolveStore c status s handle) := by
  unfold resolveStore
  repeat' (first
    | with_reducible assumption
    | (extract_lets +onlyGivenNames x; with_reducible refine Keeps.have_ (x := x) ?_ ?_; (on_goal 2 => (clear_value x; intro)); on_goal 1 => subst x)
    | (extract_lets +onlyGivenNames x; (first | (have h : @Eq Nvm x x := rfl; clear h; subst x) | (have h : x = (fun _ => _) := rfl; subst x; beta_reduce) | (have h : x = (fun _ _ => _) := rfl; subst x; beta_reduce) | clear_value x))
    | with_reducible refine (finishCal_keeps _ _ ?_)
    | (with_reducible refine Keeps.foldl _ ?_ ?_; on_goal 1 => (intros; beta_reduce))
    | split
    | (intro _; intros; beta_reduce)
    | fail_if_no_progress with_reducible refine Keeps.upd ?_ rfl rfl rfl rfl rfl rfl (by first | exact id | simp +contextual [shapes])
    | dsimp only)

theorem writeFailed_keeps (c : ℕ) (slot : ℕ) (addr : ℕ) (s : State) {w0 : State} (h0 : Keeps w0 s) : Keeps w0 (writeFailed c slot addr s) := by
  unfold writeFailed
  repeat' (first
    | with_reducible assumption
    | (extract_lets +onlyGivenNames x; with_reducible refine Keeps.have_ (x := x) ?_ ?_; (on_goal 2 => (clear_value x; intro)); on_goal 1 => subst x)
    | (extract_lets +onlyGivenNames x; (first | (have h : @Eq Nvm x x := rfl; clear h; subst x) | clear_value x))
    | with_reducible refine (raise_keeps _ _ ?_)
    | fail_if_no_progress with_reducible refine Keeps.upd ?_ rfl rfl rfl rfl rfl rfl (by first | exact id | simp +contextual [shapes])
    | dsimp only)

theorem freeBytes_keeps (y0 : ℕ) (y1 : State) {w0 : State} (h0 : Keeps w0 y1) : Keeps w0 (freeBytes y0 y1).2 := by
  induction y0 generalizing y1 with
  | zero => exact h0
  | succ k ih => exact ih _ (takeFree_keeps _ h0)

theorem mramWriteBad_keeps (a : ℕ) (b : List Byte) (s : State) {w0 : State} (h0 : Keeps w0 s) : Keeps w0 (mramWriteBad a b s) := by
  unfold mramWriteBad
  repeat' (first
    | with_reducible assumption
    | with_reducible refine (freeBytes_keeps _ _ ?_)
    | with_reducible refine (guFeedSource_keeps _ _ _ ?_)
    | with_reducible refine (mramSet_keeps _ _ _ ?_))

theorem beginScar_keeps (kind : ℕ) (lo : ℕ) (r : Rec) (tail : ℕ → List Byte) (s : State) {w0 : State} (h0 : Keeps w0 s) : Keeps w0 (beginScar kind lo r tail s) := by
  unfold beginScar
  extract_lets
  generalize List.replicate 64 (0 : Byte) = z
  exact ⟨⟨h0.pending, fun c => by
    have c := canonical_iff.1 (h0.canonical c)
    exact canonical_iff.2 ⟨c.1, c.2.1, memWf_memWrite c.2.2⟩, h0.shaped⟩, h0.locked, h0.released⟩

theorem markCopied_keeps (i : ℕ) (s : State) {w0 : State} (h0 : Keeps w0 s) : Keeps w0 (markCopied i s) := by
  unfold markCopied
  refine guFeedSource_keeps _ _ _ ⟨⟨h0.pending, fun c => ?_, h0.shaped⟩, h0.locked, h0.released⟩
  have c := canonical_iff.1 (h0.canonical c)
  exact canonical_iff.2 ⟨c.1, c.2.1, memWf_memSet c.2.2⟩

theorem countDefers_keeps (n : ℕ) (s : State) {w0 : State} (h0 : Keeps w0 s) : Keeps w0 (countDefers n s) := by
  unfold countDefers
  repeat' (first
    | with_reducible assumption
    | (extract_lets +onlyGivenNames x; with_reducible refine Keeps.have_ (x := x) ?_ ?_; (on_goal 2 => (clear_value x; intro)); on_goal 1 => subst x)
    | (extract_lets +onlyGivenNames x; (first | (have h : @Eq Thm x x := rfl; clear h; subst x) | clear_value x))
    | fail_if_no_progress with_reducible refine Keeps.upd ?_ rfl rfl rfl rfl rfl rfl (by first | exact id | simp +contextual [shapes])
    | dsimp only)

theorem resolveClosed_keeps (s : State) {w0 : State} (h0 : Keeps w0 s) : Keeps w0 (resolveClosed s) := by
  unfold resolveClosed
  repeat' (first
    | with_reducible assumption
    | (extract_lets +onlyGivenNames x; with_reducible refine Keeps.have_ (x := x) ?_ ?_; (on_goal 2 => (clear_value x; intro)); on_goal 1 => subst x)
    | (extract_lets +onlyGivenNames x; (first | (have h : @Eq Nvm x x := rfl; clear h; subst x) | clear_value x))
    | with_reducible refine (countDefers_keeps _ _ ?_)
    | with_reducible refine (resolveStore_keeps _ _ _ _ ?_)
    | (with_reducible refine Keeps.foldl _ ?_ ?_; on_goal 1 => (intros; beta_reduce))
    | split
    | (intro _; intros; beta_reduce)
    | fail_if_no_progress with_reducible refine Keeps.upd ?_ rfl rfl rfl rfl rfl rfl (by first | exact id | simp +contextual [shapes])
    | dsimp only)

theorem tearLoad_keeps (s : State) {w0 : State} (h0 : Keeps w0 s) : Keeps w0 (tearLoad s) := by
  unfold tearLoad
  repeat' (first
    | with_reducible assumption
    | (extract_lets +onlyGivenNames x; with_reducible refine Keeps.have_ (x := x) ?_ ?_; (on_goal 2 => (clear_value x; intro)); on_goal 1 => subst x)
    | (extract_lets +onlyGivenNames x; (first | (have h : @Eq Nvm x x := rfl; clear h; subst x) | clear_value x))
    | with_reducible refine (takeFree_keeps _ ?_)
    | with_reducible refine (countUnits_keeps _ _ ?_)
    | with_reducible refine (mramWrite_keeps _ _ _ ?_)
    | with_reducible refine (tearSlot_keeps _ _ _ _ _ ?_)
    | with_reducible refine (clearCommit_keeps _ _ _ ?_)
    | with_reducible refine (pwCommitSlot_keeps _ _ _ ?_)
    | (split; with_reducible refine Keeps.pair_ ‹_ = (_, _)› ?_ ?_; on_goal 2 => intro)
    | split
    | fail_if_no_progress with_reducible refine Keeps.upd ?_ rfl rfl rfl rfl rfl rfl (by first | exact id | simp +contextual [shapes])
    | dsimp only)

theorem failSlot_keeps (c : ℕ) (k : ℕ) (gen : ℕ) (body : List Byte) (addr : ℕ) (s : State) {w0 : State} (h0 : Keeps w0 s) : Keeps w0 (failSlot c k gen body addr s) := by
  unfold failSlot
  repeat' (first
    | with_reducible assumption
    | (extract_lets +onlyGivenNames x; clear_value x)
    | with_reducible refine (countUnits_keeps _ _ ?_)
    | with_reducible refine (mramWriteBad_keeps _ _ _ ?_)
    | with_reducible refine (writePart_keeps _ _ _ _ _ _ ?_)
    | split)

end Sys2Proof.Machine
end

