-- ==== Sys2Proof/Laws/KeepsPatch.lean ====
section
/-! SUPPORT. For each definition of Machine/Patch.lean that answers a state: the queue stays as it is and the memories stay canonical. -/

namespace Sys2Proof.Machine

theorem patchData_keeps (p : List Byte) (verifyFail : Bool) (s : State) {w0 : State} (h0 : Keeps w0 s) : Keeps w0 (patchData p verifyFail s).2 := by
  unfold patchData
  repeat' (first
    | with_reducible assumption
    | (extract_lets +onlyGivenNames x; with_reducible refine Keeps.have_ (x := x) ?_ ?_; (on_goal 2 => (clear_value x; intro)); on_goal 1 => subst x)
    | (extract_lets +onlyGivenNames x; (first | (have h : @Eq Cmd x x := rfl; clear h; subst x) | clear_value x))
    | with_reducible refine (rep_keeps _ _ ?_)
    | with_reducible refine (countUnits_keeps _ _ ?_)
    | with_reducible refine (mramWriteBad_keeps _ _ _ ?_)
    | with_reducible refine (mramWrite_keeps _ _ _ ?_)
    | split
    | fail_if_no_progress with_reducible refine Keeps.upd ?_ rfl rfl rfl rfl rfl rfl (by first | exact id | simp +contextual [shapes])
    | dsimp only)

theorem tearPatch_keeps (s : State) {w0 : State} (h0 : Keeps w0 s) : Keeps w0 (tearPatch s) := by
  unfold tearPatch
  repeat' (first
    | with_reducible assumption
    | (extract_lets +onlyGivenNames x; with_reducible refine Keeps.have_ (x := x) ?_ ?_; (on_goal 2 => (clear_value x; intro)); on_goal 1 => subst x)
    | (extract_lets +onlyGivenNames x; (first | (have h : @Eq Cmd x x := rfl; clear h; subst x) | clear_value x))
    | with_reducible refine (takeFree_keeps _ ?_)
    | with_reducible refine (countUnits_keeps _ _ ?_)
    | with_reducible refine (mramWrite_keeps _ _ _ ?_)
    | (split; with_reducible refine Keeps.pair_ ‹_ = (_, _)› ?_ ?_; on_goal 2 => intro)
    | split
    | fail_if_no_progress with_reducible refine Keeps.upd ?_ rfl rfl rfl rfl rfl rfl (by first | exact id | simp +contextual [shapes])
    | dsimp only)

theorem endPatch_keeps (s : State) {w0 : State} (h0 : Keeps w0 s) : Keeps w0 (endPatch s) := by
  unfold endPatch
  repeat' (first
    | with_reducible assumption
    | with_reducible refine (completeEachOpen_keeps _ _ _ _ ?_)
    | with_reducible refine (tearPatch_keeps _ ?_)
    | split)

theorem patchBegin_keeps (p : List Byte) (s : State) {w0 : State} (h0 : Keeps w0 s) : Keeps w0 (patchBegin p s).2 := by
  unfold patchBegin
  repeat' (first
    | with_reducible assumption
    | (extract_lets +onlyGivenNames x; with_reducible refine Keeps.have_ (x := x) ?_ ?_; (on_goal 2 => (clear_value x; intro)); on_goal 1 => subst x)
    | (extract_lets +onlyGivenNames x; (first | (have h : @Eq Cmd x x := rfl; clear h; subst x) | clear_value x))
    | with_reducible refine (rep_keeps _ _ ?_)
    | with_reducible refine (mramWrite_keeps _ _ _ ?_)
    | with_reducible refine (endPatch_keeps _ ?_)
    | split
    | fail_if_no_progress with_reducible refine Keeps.upd ?_ rfl rfl rfl rfl rfl rfl (by first | exact id | simp +contextual [shapes])
    | dsimp only)

theorem patchCommit_keeps (p : List Byte) (y1 : Src) (s : State) {w0 : State} (h0 : Keeps w0 s) : Keeps w0 (patchCommit p y1 s).2 := by
  unfold patchCommit
  repeat' (first
    | with_reducible assumption
    | (extract_lets +onlyGivenNames x; with_reducible refine Keeps.have_ (x := x) ?_ ?_; (on_goal 2 => (clear_value x; intro)); on_goal 1 => subst x)
    | (extract_lets +onlyGivenNames x; (first | (have h : @Eq Cmd x x := rfl; clear h; subst x) | clear_value x))
    | with_reducible refine (rep_keeps _ _ ?_)
    | with_reducible refine (accept_keeps _ _ ?_ ?_)
    | (split; with_reducible refine Keeps.pair_ ‹_ = (_, _)› ?_ ?_; on_goal 2 => intro)
    | split
    | (intro _; intros; beta_reduce)
    | fail_if_no_progress with_reducible refine Keeps.upd ?_ rfl rfl rfl rfl rfl rfl (by first | exact id | simp +contextual [shapes])
    | dsimp only)

theorem fwPatch_keeps (rq : Rq) (verifyFail : Bool) (s : State) {w0 : State} (h0 : Keeps w0 s) : KeepsRes w0 (fwPatch rq verifyFail s) := by
  unfold fwPatch
  repeat' (first
    | with_reducible assumption
    | (extract_lets +onlyGivenNames x; with_reducible refine KeepsRes.have_ (x := x) ?_ ?_; (on_goal 2 => (clear_value x; intro)); on_goal 1 => subst x)
    | (extract_lets +onlyGivenNames x; with_reducible refine Keeps.have_ (x := x) ?_ ?_; (on_goal 2 => (clear_value x; intro)); on_goal 1 => subst x)
    | (extract_lets +onlyGivenNames x; (first | (have h : x = (fun _ => _) := rfl; subst x; beta_reduce) | (have h : x = (fun _ _ => _) := rfl; subst x; beta_reduce) | clear_value x))
    | with_reducible refine (request_keeps _ _ _ _ _ _ _ ?_ ?_)
    | with_reducible refine (rep_keeps _ _ ?_)
    | with_reducible refine (endPatch_keeps _ ?_)
    | with_reducible refine (tempWindow_keeps _ ?_)
    | with_reducible refine (patchBegin_keeps _ _ ?_)
    | with_reducible refine (patchData_keeps _ _ _ ?_)
    | with_reducible refine (patchCommit_keeps _ _ _ ?_)
    | split
    | (intro _; intros; beta_reduce)
    | dsimp only)

theorem execFwPatchData_keeps (rq : Rq) (verifyFail : Bool) (s : State) {w0 : State} (h0 : Keeps w0 s) : KeepsRes w0 (execFwPatchData rq verifyFail s) := by
  unfold execFwPatchData
  repeat' (first
    | with_reducible assumption
    | with_reducible refine (fwPatch_keeps _ _ _ ?_))

theorem execFwPatchBegin_keeps (rq : Rq) (s : State) {w0 : State} (h0 : Keeps w0 s) : KeepsRes w0 (execFwPatchBegin rq s) := by
  unfold execFwPatchBegin
  repeat' (first
    | with_reducible assumption
    | with_reducible refine (fwPatch_keeps _ _ _ ?_))

theorem bootPatch_keeps (s : State) {w0 : State} (h0 : Keeps w0 s) : Keeps w0 (bootPatch s) := by
  unfold bootPatch
  repeat' (first
    | with_reducible assumption
    | (extract_lets +onlyGivenNames x; with_reducible refine Keeps.have_ (x := x) ?_ ?_; (on_goal 2 => (clear_value x; intro)); on_goal 1 => subst x)
    | (extract_lets +onlyGivenNames x; (first | (have h : @Eq Cmd x x := rfl; clear h; subst x) | (have h : x = (fun _ => _) := rfl; subst x; beta_reduce) | (have h : x = (fun _ _ => _) := rfl; subst x; beta_reduce) | clear_value x))
    | with_reducible refine (openReads_keeps _ ?_)
    | with_reducible refine (raise_keeps _ _ ?_)
    | split
    | fail_if_no_progress with_reducible refine Keeps.upd ?_ rfl rfl rfl rfl rfl rfl (by first | exact id | simp +contextual [shapes])
    | dsimp only)

theorem execFwPatchCommit_keeps (rq : Rq) (s : State) {w0 : State} (h0 : Keeps w0 s) : KeepsRes w0 (execFwPatchCommit rq s) := by
  unfold execFwPatchCommit
  repeat' (first
    | with_reducible assumption
    | with_reducible refine (fwPatch_keeps _ _ _ ?_))

theorem execFwPatchAbort_keeps (rq : Rq) (s : State) {w0 : State} (h0 : Keeps w0 s) : KeepsRes w0 (execFwPatchAbort rq s) := by
  unfold execFwPatchAbort
  repeat' (first
    | with_reducible assumption
    | with_reducible refine (fwPatch_keeps _ _ _ ?_))

theorem execFwPatchCommitDone_keeps (writeFail : Bool) (s : State) {w0 : State} (h0 : Keeps w0 s) : KeepsRes w0 (execFwPatchCommitDone writeFail s) := by
  unfold execFwPatchCommitDone
  repeat' (first
    | with_reducible assumption
    | (extract_lets +onlyGivenNames x; with_reducible refine KeepsRes.have_ (x := x) ?_ ?_; (on_goal 2 => (clear_value x; intro)); on_goal 1 => subst x)
    | (extract_lets +onlyGivenNames x; with_reducible refine Keeps.have_ (x := x) ?_ ?_; (on_goal 2 => (clear_value x; intro)); on_goal 1 => subst x)
    | (extract_lets +onlyGivenNames x; (first | (have h : @Eq Cmd x x := rfl; clear h; subst x) | (have h : x = (fun _ => _) := rfl; subst x; beta_reduce) | (have h : x = (fun _ _ => _) := rfl; subst x; beta_reduce) | clear_value x))
    | with_reducible refine KeepsRes.next ?_
    | with_reducible refine (openReads_keeps _ ?_)
    | with_reducible refine (completeEach_keeps _ _ _ _ _ _ ?_)
    | with_reducible refine (countUnits_keeps _ _ ?_)
    | with_reducible refine (mramWriteBad_keeps _ _ _ ?_)
    | with_reducible refine (mramWrite_keeps _ _ _ ?_)
    | with_reducible refine (note_keeps _ _ ?_)
    | split
    | fail_if_no_progress with_reducible refine Keeps.upd ?_ rfl rfl rfl rfl rfl rfl (by first | exact id | simp +contextual [shapes])
    | dsimp only)

end Sys2Proof.Machine
end

