-- ==== Sys2Proof/Laws/KeepsKindleOps.lean ====
section
/-! SUPPORT. For each definition of Machine/KindleOps.lean that answers a state: the queue stays as it is and the memories stay canonical. -/

namespace Sys2Proof.Machine

theorem startKindle_keeps (s : State) {w0 : State} (h0 : Keeps w0 s) : Keeps w0 (startKindle s) := by
  unfold startKindle
  extract_lets a b p q u v
  have k : Keeps w0 q := ⟨⟨h0.pending, h0.canonical, h0.shaped⟩, h0.locked, fun _ => rfl⟩
  have l : Keeps w0 u := by
    unfold u
    split
    · exact raise_keeps _ _ k
    · exact k
  have m : Keeps w0 v := noteF_keeps _ _ _ _ _ l
  split
  · exact note_keeps _ _ m
  · exact m

theorem breakPatchCommit_keeps (s : State) {w0 : State} (h0 : Keeps w0 s) : Keeps w0 (breakPatchCommit s) := by
  unfold breakPatchCommit
  repeat' (first
    | with_reducible assumption
    | with_reducible refine (tearPatch_keeps _ ?_)
    | split)

theorem hardReset_keeps (ao : Ao) (flavor : Flavor) (s : State) {w0 : State} (h0 : Holds w0 s) : Holds w0 (hardReset ao flavor s) := by
  have h := h0.trans (tearPatch_keeps _ (tearLoad_keeps _ (tearStore_keeps s (Keeps.refl s)))).toHolds
  unfold hardReset
  generalize tearPatch (tearLoad (tearStore s)) = y at h
  exact ⟨h.pending, fun c => by
    have c := canonical_iff.1 (h.canonical c)
    exact canonical_iff.2 ⟨rfl, c.2⟩, fun c => by
    refine shaped_iff.2 ?_
    dsimp only
    split <;> rfl⟩

theorem dropQueued_keeps (s : State) (w : Waiting) {w0 : State} (h0 : Keeps w0 s) : Keeps w0 (dropQueued s w) := by
  unfold dropQueued
  repeat' (first
    | with_reducible assumption
    | with_reducible refine (dropRequest_keeps _ _ _ ?_))

theorem sendHeld_keeps (s : State) {w0 : State} (h0 : Keeps w0 s) : Keeps w0 (sendHeld s) := by
  unfold sendHeld
  repeat' (first
    | with_reducible assumption
    | with_reducible refine (sendReply_keeps _ _ _ ?_)
    | with_reducible refine (modSrc_keeps _ _ _ ?_)
    | split)

theorem rekindle_keeps (cause : ℕ) (s : State) {w0 : State} (h0 : Keeps w0 s) : Keeps w0 (rekindle cause s) := by
  unfold rekindle
  have h := sendHeld_keeps _ (breakPatchCommit_keeps _ (tearLoad_keeps _ (tearStore_keeps s h0)))
  generalize sendHeld (breakPatchCommit (tearLoad (tearStore s))) = y at h
  extract_lets
  refine Keeps.foldl _ (fun _ x a h => dropQueued_keeps x a h) (giveUpSleep_keeps _ (enterMode_keeps _ _ _ ?_))
  exact ⟨⟨h.pending, fun c => by
    have c := canonical_iff.1 (h.canonical c)
    exact canonical_iff.2 ⟨rfl, c.2⟩, fun c => by
    have c := shaped_iff.1 (h.shaped c)
    simp only [shapes, List.cons.injEq] at c
    exact shaped_iff.2 (congrArg₂ (fun a b => [a, 24, 8, 6, 3, 13, 8, 16, 64, 28, 36, b, 8, 8]) c.1
      c.2.2.2.2.2.2.2.2.2.2.2.1)⟩, h.locked, fun _ => rfl⟩

theorem wake_keeps (source : ℕ) (s : State) {w0 : State} (h0 : Holds w0 s) : Holds w0 (wake source s) := by
  unfold wake
  extract_lets p a fresh
  have k : ∀ f, Holds w0 (fresh f) := fun f =>
    have h := hardReset_keeps a f _ h0
    ⟨h.pending, h.canonical, h.shaped⟩
  split
  · exact (k _).trans (startKindle_keeps _ (Keeps.refl _)).toHolds
  · exact k _

end Sys2Proof.Machine
end

