-- ==== Sys2Proof/Laws/KeepsFaults.lean ====
section
/-! SUPPORT. For each definition of Machine/Faults.lean that answers a state: the queue stays as it is and the memories stay canonical. -/

namespace Sys2Proof.Machine

theorem detectOver_keeps (f : Flt) (e : RawEvent) (s : State) {w0 : State} (h0 : Keeps w0 s) : Keeps w0 (detectOver f e s) := by
  unfold detectOver
  repeat' (first
    | with_reducible assumption
    | (extract_lets +onlyGivenNames x; clear_value x)
    | with_reducible refine (raiseOver_keeps _ _ _ _ ?_)
    | with_reducible refine (addCond_keeps _ _ _ ?_)
    | split)

theorem sameClock_keeps (f : Flt) (during : List RawEvent) (s : State) {w0 : State} (h0 : Keeps w0 s) : Keeps w0 (sameClock f during s) := by
  unfold sameClock
  repeat' (first
    | with_reducible assumption
    | with_reducible refine (detectOver_keeps _ _ _ ?_)
    | (with_reducible refine Keeps.foldl _ ?_ ?_; on_goal 1 => (intros; beta_reduce))
    | split
    | (intro _; intros; beta_reduce)
    | dsimp only)

theorem clearing_keeps (mask : ℕ) (during : List RawEvent) (s : State) {w0 : State} (h0 : Keeps w0 s) : Keeps w0 (clearing mask during s).2.2 := by
  unfold clearing
  repeat' (first
    | with_reducible assumption
    | (extract_lets +onlyGivenNames x; with_reducible refine Keeps.have_ (x := x) ?_ ?_; (on_goal 2 => (clear_value x; intro)); on_goal 1 => subst x)
    | with_reducible refine (sameClock_keeps _ _ _ ?_)
    | with_reducible refine (clearClasses_keeps _ _ ?_))

theorem faultClear_keeps (rq : Rq) (during : List RawEvent) (s : State) {w0 : State} (h0 : Keeps w0 s) : KeepsRes w0 (faultClear rq during s) := by
  unfold faultClear
  repeat' (first
    | with_reducible assumption
    | (extract_lets +onlyGivenNames x; with_reducible refine KeepsRes.have_ (x := x) ?_ ?_; (on_goal 2 => (clear_value x; intro)); on_goal 1 => subst x)
    | (extract_lets +onlyGivenNames x; with_reducible refine Keeps.have_ (x := x) ?_ ?_; (on_goal 2 => (clear_value x; intro)); on_goal 1 => subst x)
    | (extract_lets +onlyGivenNames x; clear_value x)
    | with_reducible refine (request_keeps _ _ _ _ _ _ _ ?_ ?_)
    | with_reducible refine (rep_keeps _ _ ?_)
    | with_reducible refine (sameClock_keeps _ _ _ ?_)
    | with_reducible refine (ackClasses_keeps _ _ ?_)
    | with_reducible refine (repOk_keeps _ _ ?_)
    | with_reducible refine (clearing_keeps _ _ _ ?_)
    | with_reducible refine (noteF_keeps _ _ _ _ _ ?_)
    | with_reducible refine (rekindle_keeps _ _ ?_)
    | (split; with_reducible refine KeepsRes.pair_ ‹_ = (_, _)› ?_ ?_; on_goal 2 => intro)
    | (split; with_reducible refine Keeps.pair_ ‹_ = (_, _)› ?_ ?_; on_goal 2 => intro)
    | (split; with_reducible refine KeepsRes.triple_ ‹_ = (_, _, _)› ?_ ?_; on_goal 2 => intro)
    | (split; with_reducible refine Keeps.triple_ ‹_ = (_, _, _)› ?_ ?_; on_goal 2 => intro)
    | split
    | (intro _; intros; beta_reduce)
    | dsimp only)

theorem execPllUnlock_keeps (pll : ℕ) (s : State) {w0 : State} (h0 : Keeps w0 s) : KeepsRes w0 (execPllUnlock pll s) := by
  unfold execPllUnlock
  repeat' (first
    | with_reducible assumption
    | with_reducible refine KeepsRes.guarded ?_
    | with_reducible refine (guarded_keeps _ _ ?_)
    | with_reducible refine (raiseF_keeps _ _ _ _ _ ?_)
    | with_reducible refine (lateSinks_keeps _ _ ?_)
    | split)

theorem endInjection_keeps (s : State) {w0 : State} (h0 : Keeps w0 s) : Keeps w0 (endInjection s) := by
  unfold endInjection
  repeat' (first
    | with_reducible assumption
    | (extract_lets +onlyGivenNames x; with_reducible refine Keeps.have_ (x := x) ?_ ?_; (on_goal 2 => (clear_value x; intro)); on_goal 1 => subst x)
    | (extract_lets +onlyGivenNames x; (first | (have h : @Eq Flt x x := rfl; clear h; subst x) | clear_value x))
    | with_reducible refine (condOff_keeps _ _ _ ?_)
    | split
    | fail_if_no_progress with_reducible refine Keeps.upd ?_ rfl rfl rfl rfl rfl rfl (by first | exact id | simp +contextual [shapes])
    | dsimp only)

theorem countCoincident_keeps (code : ℕ) (live : Bool) (s : State) {w0 : State} (h0 : Keeps w0 s) : Keeps w0 (countCoincident code live s) := by
  unfold countCoincident
  repeat' (first
    | with_reducible assumption
    | (extract_lets +onlyGivenNames x; with_reducible refine Keeps.have_ (x := x) ?_ ?_; (on_goal 2 => (clear_value x; intro)); on_goal 1 => subst x)
    | (extract_lets +onlyGivenNames x; (first | (have h : @Eq Flt x x := rfl; clear h; subst x) | clear_value x))
    | with_reducible refine (noteF_keeps _ _ _ _ _ ?_)
    | with_reducible refine (endInjection_keeps _ ?_)
    | split
    | fail_if_no_progress with_reducible refine Keeps.upd ?_ rfl rfl rfl rfl rfl rfl (by first | exact id | simp +contextual [shapes])
    | dsimp only)

theorem realCondition_keeps (e : RawEvent) (s : State) {w0 : State} (h0 : Keeps w0 s) : Keeps w0 (realCondition e s) := by
  unfold realCondition
  repeat' (first
    | with_reducible assumption
    | with_reducible refine (addCond_keeps _ _ _ ?_)
    | with_reducible refine (condOff_keeps _ _ _ ?_)
    | split)

theorem replaceRec_keeps (old : Rec) (new : Rec) (s : State) {w0 : State} (h0 : Keeps w0 s) : Keeps w0 (replaceRec old new s) := by
  unfold replaceRec
  repeat' (first
    | with_reducible assumption
    | (extract_lets +onlyGivenNames x; with_reducible refine Keeps.have_ (x := x) ?_ ?_; (on_goal 2 => (clear_value x; intro)); on_goal 1 => subst x)
    | (extract_lets +onlyGivenNames x; (first | (have h : @Eq Flt x x := rfl; clear h; subst x) | (have h : x = (fun _ => _) := rfl; subst x; beta_reduce) | (have h : x = (fun _ _ => _) := rfl; subst x; beta_reduce) | clear_value x))
    | split
    | (intro _; intros; beta_reduce)
    | fail_if_no_progress with_reducible refine Keeps.upd ?_ rfl rfl rfl rfl rfl rfl (by first | exact id | simp +contextual [shapes])
    | dsimp only)

theorem coincideAt_keeps (i : Inject) (e : RawEvent) (s : State) {w0 : State} (h0 : Keeps w0 s) : Keeps w0 (coincideAt i e s) := by
  unfold coincideAt
  repeat' (first
    | with_reducible assumption
    | (extract_lets +onlyGivenNames x; with_reducible refine Keeps.have_ (x := x) ?_ ?_; (on_goal 2 => (clear_value x; intro)); on_goal 1 => subst x)
    | (extract_lets +onlyGivenNames x; (first | (have h : @Eq Flt x x := rfl; clear h; subst x) | (have h : x = (fun _ => _) := rfl; subst x; beta_reduce) | (have h : x = (fun _ _ => _) := rfl; subst x; beta_reduce) | clear_value x))
    | with_reducible refine (realCondition_keeps _ _ ?_)
    | with_reducible refine (replaceRec_keeps _ _ _ ?_)
    | with_reducible refine (modClass_keeps _ _ _ ?_)
    | with_reducible refine (startReactions_keeps _ _ ?_)
    | with_reducible refine (realEffects_keeps _ _ _ ?_)
    | with_reducible refine (latchFlag_keeps _ _ _ ?_)
    | with_reducible refine (countEscalation_keeps _ _ _ ?_)
    | split
    | (intro _; intros; beta_reduce)
    | fail_if_no_progress with_reducible refine Keeps.upd ?_ rfl rfl rfl rfl rfl rfl (by first | exact id | simp +contextual [shapes])
    | dsimp only)

theorem detect_keeps (e : RawEvent) (s : State) {w0 : State} (h0 : Keeps w0 s) : Keeps w0 (detect e s) := by
  unfold detect
  repeat' (first
    | with_reducible assumption
    | with_reducible refine (detectOver_keeps _ _ _ ?_))

theorem execInjectCoincident_keeps (atInjection : Bool) (p0 : ℕ) (p1 : ℕ) (p2 : ℕ) (p3 : ℕ) (s : State) {w0 : State} (h0 : Keeps w0 s) : KeepsRes w0 (execInjectCoincident atInjection p0 p1 p2 p3 s) := by
  unfold execInjectCoincident
  repeat' (first
    | with_reducible assumption
    | (extract_lets +onlyGivenNames x; clear_value x)
    | with_reducible refine KeepsRes.next ?_
    | with_reducible refine (countCoincident_keeps _ _ _ ?_)
    | with_reducible refine (coincideAt_keeps _ _ _ ?_)
    | with_reducible refine (detect_keeps _ _ ?_)
    | split)

theorem execEventRaise_keeps (e : RawEvent) (s : State) {w0 : State} (h0 : Keeps w0 s) : KeepsRes w0 (execEventRaise e s) := by
  unfold execEventRaise
  repeat' (first
    | with_reducible assumption
    | with_reducible refine KeepsRes.next ?_
    | with_reducible refine (detect_keeps _ _ ?_)
    | with_reducible refine (lateSinks_keeps _ _ ?_)
    | split)

theorem startInjection_keeps (code : ℕ) (live : Bool) (s : State) {w0 : State} (h0 : Keeps w0 s) : Keeps w0 (startInjection code live s) := by
  unfold startInjection
  repeat' (first
    | with_reducible assumption
    | (extract_lets +onlyGivenNames x; with_reducible refine Keeps.have_ (x := x) ?_ ?_; (on_goal 2 => (clear_value x; intro)); on_goal 1 => subst x)
    | (extract_lets +onlyGivenNames x; (first | (have h : @Eq Flt x x := rfl; clear h; subst x) | clear_value x))
    | with_reducible refine (countCoincident_keeps _ _ _ ?_)
    | with_reducible refine (raise_keeps _ _ ?_)
    | with_reducible refine (raiseDry_keeps _ _ ?_)
    | with_reducible refine (raiseAs_keeps _ _ _ ?_)
    | with_reducible refine (addCond_keeps _ _ _ ?_)
    | split
    | fail_if_no_progress with_reducible refine Keeps.upd ?_ rfl rfl rfl rfl rfl rfl (by first | exact id | simp +contextual [shapes])
    | dsimp only)

theorem faultInject_keeps (rq : Rq) (s : State) {w0 : State} (h0 : Keeps w0 s) : KeepsRes w0 (faultInject rq s) := by
  unfold faultInject
  repeat' (first
    | with_reducible assumption
    | (extract_lets +onlyGivenNames x; with_reducible refine KeepsRes.have_ (x := x) ?_ ?_; (on_goal 2 => (clear_value x; intro)); on_goal 1 => subst x)
    | (extract_lets +onlyGivenNames x; with_reducible refine Keeps.have_ (x := x) ?_ ?_; (on_goal 2 => (clear_value x; intro)); on_goal 1 => subst x)
    | (extract_lets +onlyGivenNames x; (first | (have h : x = (fun _ => _) := rfl; subst x; beta_reduce) | (have h : x = (fun _ _ => _) := rfl; subst x; beta_reduce) | clear_value x))
    | with_reducible refine (request_keeps _ _ _ _ _ _ _ ?_ ?_)
    | with_reducible refine (rep_keeps _ _ ?_)
    | with_reducible refine (startInjection_keeps _ _ _ ?_)
    | split
    | (intro _; intros; beta_reduce)
    | dsimp only)

theorem execFaultInjectDry_keeps (rq : Rq) (s : State) {w0 : State} (h0 : Keeps w0 s) : KeepsRes w0 (execFaultInjectDry rq s) := by
  unfold execFaultInjectDry
  repeat' (first
    | with_reducible assumption
    | with_reducible refine (faultInject_keeps _ _ ?_))

theorem execFaultRead_keeps (rq : Rq) (s : State) {w0 : State} (h0 : Keeps w0 s) : KeepsRes w0 (execFaultRead rq s) := by
  unfold execFaultRead
  repeat' (first
    | with_reducible assumption
    | with_reducible refine (request_keeps _ _ _ _ _ _ _ ?_ ?_)
    | with_reducible refine (repOk_keeps _ _ ?_)
    | split
    | (intro _; intros; beta_reduce)
    | dsimp only)

theorem execXtalFail_keeps (khz : ℕ) (s : State) {w0 : State} (h0 : Keeps w0 s) : KeepsRes w0 (execXtalFail khz s) := by
  unfold execXtalFail
  repeat' (first
    | with_reducible assumption
    | with_reducible refine KeepsRes.next ?_
    | with_reducible refine (raiseF_keeps _ _ _ _ _ ?_)
    | with_reducible refine (lateSinks_keeps _ _ ?_)
    | split)

theorem execWitnessDisagree_keeps (e : RawEvent) (s : State) {w0 : State} (h0 : Keeps w0 s) : KeepsRes w0 (execWitnessDisagree e s) := by
  unfold execWitnessDisagree
  repeat' (first
    | with_reducible assumption
    | with_reducible refine KeepsRes.next ?_
    | with_reducible refine (lateSinks_keeps _ _ ?_)
    | with_reducible refine (raiseF_keeps _ _ _ _ _ ?_)
    | with_reducible refine (detect_keeps _ _ ?_)
    | split)

theorem execFaultInjectLive_keeps (rq : Rq) (s : State) {w0 : State} (h0 : Keeps w0 s) : KeepsRes w0 (execFaultInjectLive rq s) := by
  unfold execFaultInjectLive
  repeat' (first
    | with_reducible assumption
    | with_reducible refine (faultInject_keeps _ _ ?_))

theorem selfFault_keeps (parity : Bool) (word : ℕ) (persists : Bool) (flags : ℕ) (s : State) {w0 : State} (h0 : Keeps w0 s) : Keeps w0 (selfFault parity word persists flags s) := by
  unfold selfFault
  repeat' (first
    | with_reducible assumption
    | (extract_lets +onlyGivenNames x; with_reducible refine Keeps.have_ (x := x) ?_ ?_; (on_goal 2 => (clear_value x; intro)); on_goal 1 => subst x)
    | with_reducible refine (snuff_keeps _ _ _ ?_)
    | with_reducible refine (record_keeps _ _ _ ?_)
    | split
    | fail_if_no_progress with_reducible refine Keeps.upd ?_ rfl rfl rfl rfl rfl rfl (by first | exact id | simp +contextual [shapes]))

theorem execCollectorSelf_keeps (parity : Bool) (word : ℕ) (persists : Bool) (s : State) {w0 : State} (h0 : Keeps w0 s) : KeepsRes w0 (execCollectorSelf parity word persists s) := by
  unfold execCollectorSelf
  repeat' (first
    | with_reducible assumption
    | with_reducible refine KeepsRes.next ?_
    | with_reducible refine (selfFault_keeps _ _ _ _ _ ?_)
    | with_reducible refine (lateSinks_keeps _ _ ?_)
    | split)

theorem execLinkIslandError_keeps (unit : ℕ) (word : ℕ) (s : State) {w0 : State} (h0 : Keeps w0 s) : KeepsRes w0 (execLinkIslandError unit word s) := by
  unfold execLinkIslandError
  repeat' (first
    | with_reducible assumption
    | with_reducible refine KeepsRes.next ?_
    | with_reducible refine (raiseF_keeps _ _ _ _ _ ?_)
    | split)

theorem execCoreUv_keeps (ldo : ℕ) (mv : ℕ) (s : State) {w0 : State} (h0 : Keeps w0 s) : KeepsRes w0 (execCoreUv ldo mv s) := by
  unfold execCoreUv
  repeat' (first
    | with_reducible assumption
    | with_reducible refine KeepsRes.guarded ?_
    | with_reducible refine (guarded_keeps _ _ ?_)
    | with_reducible refine (raiseF_keeps _ _ _ _ _ ?_)
    | with_reducible refine (lateSinks_keeps _ _ ?_)
    | split)

theorem execFaultClearAck_keeps (rq : Rq) (during : List RawEvent) (s : State) {w0 : State} (h0 : Keeps w0 s) : KeepsRes w0 (execFaultClearAck rq during s) := by
  unfold execFaultClearAck
  repeat' (first
    | with_reducible assumption
    | with_reducible refine (faultClear_keeps _ _ _ ?_))

theorem execInjectionEnd_keeps (s : State) {w0 : State} (h0 : Keeps w0 s) : KeepsRes w0 (execInjectionEnd s) := by
  unfold execInjectionEnd
  repeat' (first
    | with_reducible assumption
    | with_reducible refine KeepsRes.next ?_
    | with_reducible refine (endInjection_keeps _ ?_)
    | split)

theorem execFaultClearClear_keeps (rq : Rq) (during : List RawEvent) (s : State) {w0 : State} (h0 : Keeps w0 s) : KeepsRes w0 (execFaultClearClear rq during s) := by
  unfold execFaultClearClear
  repeat' (first
    | with_reducible assumption
    | with_reducible refine (faultClear_keeps _ _ _ ?_))

theorem execCollateralWindowClose_keeps (r : ℕ) (s : State) {w0 : State} (h0 : Keeps w0 s) : KeepsRes w0 (execCollateralWindowClose r s) := by
  unfold execCollateralWindowClose
  repeat' (first
    | with_reducible assumption
    | with_reducible refine KeepsRes.guarded ?_
    | with_reducible refine (guarded_keeps _ _ ?_)
    | with_reducible refine (closeWindow_keeps _ _ ?_)
    | split)

theorem execHvUv_keeps (mv : ℕ) (s : State) {w0 : State} (h0 : Keeps w0 s) : KeepsRes w0 (execHvUv mv s) := by
  unfold execHvUv
  repeat' (first
    | with_reducible assumption
    | with_reducible refine KeepsRes.next ?_
    | with_reducible refine (raiseF_keeps _ _ _ _ _ ?_)
    | with_reducible refine (lateSinks_keeps _ _ ?_)
    | split)

theorem execEngineParity_keeps (e : ℕ) (pass : ℕ) (s : State) {w0 : State} (h0 : Keeps w0 s) : KeepsRes w0 (execEngineParity e pass s) := by
  unfold execEngineParity
  repeat' (first
    | with_reducible assumption
    | with_reducible refine KeepsRes.guarded ?_
    | with_reducible refine (guarded_keeps _ _ ?_)
    | with_reducible refine (raiseF_keeps _ _ _ _ _ ?_)
    | with_reducible refine (takeFree_keeps _ ?_)
    | split)

end Sys2Proof.Machine
end

