-- ==== Sys2Proof/Laws/KeepsDefects.lean ====
section
/-! SUPPORT. For each definition of Machine/Defects.lean that answers a state: the queue stays as it is and the memories stay canonical. -/

namespace Sys2Proof.Machine

theorem medianOf_keeps (l : List ℤ) (s : State) {w0 : State} (h0 : Keeps w0 s) : Keeps w0 (medianOf l s).2 := by
  unfold medianOf
  repeat' (first
    | with_reducible assumption
    | (extract_lets +onlyGivenNames x; clear_value x)
    | with_reducible refine (takeFree_keeps _ ?_)
    | split)

theorem judgeSensors_keeps (readings : List ℤ) (compare : Bool) (s : State) {w0 : State} (h0 : Keeps w0 s) : Keeps w0 (judgeSensors readings compare s).2.2 := by
  unfold judgeSensors
  repeat' (first
    | with_reducible assumption
    | with_reducible refine (medianOf_keeps _ _ ?_)
    | split)

theorem setOffsets_keeps (l : List ℤ) (s : State) {w0 : State} (h0 : Keeps w0 s) : Keeps w0 (setOffsets l s) := by
  unfold setOffsets
  repeat' (first
    | with_reducible assumption
    | split
    | fail_if_no_progress with_reducible refine Keeps.upd ?_ rfl rfl rfl rfl rfl rfl (by first | exact id | simp +contextual [shapes]))

theorem stageCal_keeps (c : CalSet) (s : State) {w0 : State} (h0 : Keeps w0 s) : Keeps w0 (stageCal c s) := by
  unfold stageCal
  repeat' (first
    | with_reducible assumption
    | (extract_lets +onlyGivenNames x; with_reducible refine Keeps.have_ (x := x) ?_ ?_; (on_goal 2 => (clear_value x; intro)); on_goal 1 => subst x)
    | (extract_lets +onlyGivenNames x; clear_value x)
    | fail_if_no_progress with_reducible refine Keeps.upd ?_ rfl rfl rfl rfl rfl rfl (by first | exact id | simp +contextual [shapes])
    | dsimp only)

theorem recordCal_keeps (outcome : ℕ) (quick : Bool) (bad : List ℕ) (skipped : Bool) (sensBad : List ℕ) (us : ℕ) (s : State) {w0 : State} (h0 : Keeps w0 s) : Keeps w0 (recordCal outcome quick bad skipped sensBad us s) := by
  unfold recordCal
  repeat' (first
    | with_reducible assumption
    | (extract_lets +onlyGivenNames x; with_reducible refine Keeps.have_ (x := x) ?_ ?_; (on_goal 2 => (clear_value x; intro)); on_goal 1 => subst x)
    | (extract_lets +onlyGivenNames x; (first | (have h : @Eq Nvm x x := rfl; clear h; subst x) | (have h : @Eq Pwr x x := rfl; clear h; subst x) | clear_value x))
    | with_reducible refine (raiseF_keeps _ _ _ _ _ ?_)
    | with_reducible refine (note_keeps _ _ ?_)
    | split
    | fail_if_no_progress with_reducible refine Keeps.upd ?_ rfl rfl rfl rfl rfl rfl (by first | exact id | simp +contextual [shapes])
    | dsimp only)

theorem judgeKindle_keeps (m : CalMeas) (us : ℕ) (s : State) {w0 : State} (h0 : Keeps w0 s) : Keeps w0 (judgeKindle m us s) := by
  unfold judgeKindle
  extract_lets quick stored measured j outcome skipped
  have a := judgeSensors_keeps m.sens s.nvm.header.loaded s h0
  generalize judgeSensors m.sens s.nvm.header.loaded s = p at a
  obtain ⟨offs, bad, t⟩ := p
  change Keeps w0 t at a
  dsimp only
  have b : Keeps w0 (if outcome = 2 then t else setOffsets offs t) := by
    split
    · exact a
    · exact setOffsets_keeps _ _ a
  generalize (if outcome = 2 then t else setOffsets offs t) = t at b
  split
  · exact raise_keeps _ _ (recordCal_keeps _ _ _ _ _ _ _ (Keeps.upd b rfl rfl rfl rfl rfl rfl id))
  · exact recordCal_keeps _ _ _ _ _ _ _ (Keeps.upd b rfl rfl rfl rfl rfl rfl id)

theorem mapChanged_keeps (s : State) {w0 : State} (h0 : Keeps w0 s) : Keeps w0 (mapChanged s) := by
  unfold mapChanged
  repeat' (first
    | with_reducible assumption
    | (extract_lets +onlyGivenNames x; with_reducible refine Keeps.have_ (x := x) ?_ ?_; (on_goal 2 => (clear_value x; intro)); on_goal 1 => subst x)
    | (extract_lets +onlyGivenNames x; (first | (have h : @Eq Diag x x := rfl; clear h; subst x) | clear_value x))
    | with_reducible refine (raise_keeps _ _ ?_)
    | split
    | fail_if_no_progress with_reducible refine Keeps.upd ?_ rfl rfl rfl rfl rfl rfl (by first | exact id | simp +contextual [shapes])
    | dsimp only)

theorem evalCluster_keeps (s : State) {w0 : State} (h0 : Keeps w0 s) : Keeps w0 (evalCluster s) := by
  unfold evalCluster
  repeat' (first
    | with_reducible assumption
    | (extract_lets +onlyGivenNames x; clear_value x)
    | with_reducible refine (condOff_keeps _ _ _ ?_)
    | with_reducible refine (takeFree_keeps _ ?_)
    | with_reducible refine (condOn_keeps _ _ _ ?_)
    | split)

theorem enterDefect_keeps (type : ℕ) (source : ℕ) (pix : ℕ) (s : State) {w0 : State} (h0 : Keeps w0 s) : Keeps w0 (enterDefect type source pix s) := by
  unfold enterDefect
  repeat' (first
    | with_reducible assumption
    | (extract_lets +onlyGivenNames x; with_reducible refine Keeps.have_ (x := x) ?_ ?_; (on_goal 2 => (clear_value x; intro)); on_goal 1 => subst x)
    | (extract_lets +onlyGivenNames x; (first | (have h : @Eq Diag x x := rfl; clear h; subst x) | clear_value x))
    | with_reducible refine (mapChanged_keeps _ ?_)
    | with_reducible refine (noteF_keeps _ _ _ _ _ ?_)
    | split
    | fail_if_no_progress with_reducible refine Keeps.upd ?_ rfl rfl rfl rfl rfl rfl (by first | exact id | simp +contextual [shapes])
    | dsimp only)

theorem removeDefect_keeps (pix : ℕ) (s : State) {w0 : State} (h0 : Keeps w0 s) : Keeps w0 (removeDefect pix s) := by
  unfold removeDefect
  repeat' (first
    | with_reducible assumption
    | (extract_lets +onlyGivenNames x; with_reducible refine Keeps.have_ (x := x) ?_ ?_; (on_goal 2 => (clear_value x; intro)); on_goal 1 => subst x)
    | (extract_lets +onlyGivenNames x; (first | (have h : @Eq Diag x x := rfl; clear h; subst x) | clear_value x))
    | with_reducible refine (mapChanged_keeps _ ?_)
    | split
    | fail_if_no_progress with_reducible refine Keeps.upd ?_ rfl rfl rfl rfl rfl rfl (by first | exact id | simp +contextual [shapes])
    | dsimp only)

theorem evalDefects_keeps (s : State) {w0 : State} (h0 : Keeps w0 s) : Keeps w0 (evalDefects s) := by
  unfold evalDefects
  repeat' (first
    | with_reducible assumption
    | (extract_lets +onlyGivenNames x; with_reducible refine Keeps.have_ (x := x) ?_ ?_; (on_goal 2 => (clear_value x; intro)); on_goal 1 => subst x)
    | (extract_lets +onlyGivenNames x; clear_value x)
    | with_reducible refine (evalCluster_keeps _ ?_)
    | with_reducible refine (condSet_keeps _ _ _ _ ?_))

theorem runScan_keeps (kindle : Bool) (m : CalMeas) (s : State) {w0 : State} (h0 : Keeps w0 s) : Keeps w0 (runScan kindle m s) := by
  unfold runScan
  repeat' (first
    | with_reducible assumption
    | (extract_lets +onlyGivenNames x; with_reducible refine Keeps.have_ (x := x) ?_ ?_; (on_goal 2 => (clear_value x; intro)); on_goal 1 => subst x)
    | (extract_lets +onlyGivenNames x; (first | (have h : @Eq Diag x x := rfl; clear h; subst x) | (have h : x = (fun _ => _) := rfl; subst x; beta_reduce) | (have h : x = (fun _ _ => _) := rfl; subst x; beta_reduce) | clear_value x))
    | with_reducible refine (removeDefect_keeps _ _ ?_)
    | with_reducible refine (enterDefect_keeps _ _ _ _ ?_)
    | with_reducible refine (raise_keeps _ _ ?_)
    | with_reducible refine (evalDefects_keeps _ ?_)
    | (with_reducible refine Keeps.foldl _ ?_ ?_; on_goal 1 => (intros; beta_reduce))
    | split
    | (intro _; intros; beta_reduce)
    | fail_if_no_progress with_reducible refine Keeps.upd ?_ rfl rfl rfl rfl rfl rfl (by first | exact id | simp +contextual [shapes])
    | dsimp only)

end Sys2Proof.Machine
end

