-- ==== Sys2Proof/Laws/KeepsCalib.lean ====
section
/-! SUPPORT. For each definition of Machine/Calib.lean that answers a state: the queue stays as it is and the memories stay canonical. -/

namespace Sys2Proof.Machine

theorem pwCopyTrim_keeps (body : List Byte) (copyFail : Option ℕ) (s : State) {w0 : State} (h0 : Keeps w0 s) : Keeps w0 (pwCopyTrim body copyFail s).2 := by
  unfold pwCopyTrim
  repeat' (first
    | with_reducible assumption
    | (extract_lets +onlyGivenNames x; with_reducible refine Keeps.have_ (x := x) ?_ ?_; (on_goal 2 => (clear_value x; intro)); on_goal 1 => subst x)
    | (extract_lets +onlyGivenNames x; clear_value x)
    | with_reducible refine (clearCommit_keeps _ _ _ ?_)
    | with_reducible refine (setInForce_keeps _ _ _ _ ?_)
    | with_reducible refine (writeSlot_keeps _ _ _ _ _ ?_)
    | with_reducible refine (writeFailed_keeps _ _ _ _ ?_)
    | with_reducible refine (failSlot_keeps _ _ _ _ _ _ ?_)
    | split)

theorem lifeEntry_keeps (s : State) {w0 : State} (h0 : Keeps w0 s) : Keeps w0 (lifeEntry s) := by
  unfold lifeEntry
  repeat' (first
    | with_reducible assumption
    | (extract_lets +onlyGivenNames x; with_reducible refine Keeps.have_ (x := x) ?_ ?_; (on_goal 2 => (clear_value x; intro)); on_goal 1 => subst x)
    | (extract_lets +onlyGivenNames x; clear_value x)
    | (split; with_reducible refine Keeps.pair_ ‹_ = (_, _)› ?_ ?_; on_goal 2 => intro)
    | split
    | (intro _; intros; beta_reduce)
    | fail_if_no_progress with_reducible refine Keeps.upd ?_ rfl rfl rfl rfl rfl rfl (by first | exact id | simp +contextual [shapes])
    | dsimp only)

theorem pwFinish_keeps (l : PwLoad) (body : List Byte) (writeFail : Bool) (copyFail : Option ℕ) (s : State) {w0 : State} (h0 : Keeps w0 s) : Keeps w0 (pwFinish l body writeFail copyFail s).2 := by
  unfold pwFinish
  repeat' (first
    | with_reducible assumption
    | (extract_lets +onlyGivenNames x; with_reducible refine Keeps.have_ (x := x) ?_ ?_; (on_goal 2 => (clear_value x; intro)); on_goal 1 => subst x)
    | (extract_lets +onlyGivenNames x; clear_value x)
    | with_reducible refine (writeFailed_keeps _ _ _ _ ?_)
    | with_reducible refine (countUnits_keeps _ _ ?_)
    | with_reducible refine (mramWriteBad_keeps _ _ _ ?_)
    | with_reducible refine (pwCommitSlot_keeps _ _ _ ?_)
    | with_reducible refine (pwCopyTrim_keeps _ _ _ ?_)
    | split)

theorem endLoad_keeps (s : State) {w0 : State} (h0 : Keeps w0 s) : Keeps w0 (endLoad s) := by
  unfold endLoad
  repeat' (first
    | with_reducible assumption
    | with_reducible refine (completeEachOpen_keeps _ _ _ _ ?_)
    | with_reducible refine (tearLoad_keeps _ ?_)
    | split)

theorem pwBegin_keeps (p : List Byte) (s : State) {w0 : State} (h0 : Keeps w0 s) : Keeps w0 (pwBegin p s).2 := by
  unfold pwBegin
  repeat' (first
    | with_reducible assumption
    | (extract_lets +onlyGivenNames x; with_reducible refine Keeps.have_ (x := x) ?_ ?_; (on_goal 2 => (clear_value x; intro)); on_goal 1 => subst x)
    | (extract_lets +onlyGivenNames x; (first | (have h : @Eq Nvm x x := rfl; clear h; subst x) | clear_value x))
    | with_reducible refine (rep_keeps _ _ ?_)
    | with_reducible refine (endLoad_keeps _ ?_)
    | with_reducible refine (clearCommit_keeps _ _ _ ?_)
    | split
    | fail_if_no_progress with_reducible refine Keeps.upd ?_ rfl rfl rfl rfl rfl rfl (by first | exact id | simp +contextual [shapes])
    | dsimp only)

theorem pwData_keeps (p : List Byte) (verifyFail : Bool) (s : State) {w0 : State} (h0 : Keeps w0 s) : Keeps w0 (pwData p verifyFail s).2 := by
  unfold pwData
  repeat' (first
    | with_reducible assumption
    | (extract_lets +onlyGivenNames x; with_reducible refine Keeps.have_ (x := x) ?_ ?_; (on_goal 2 => (clear_value x; intro)); on_goal 1 => subst x)
    | (extract_lets +onlyGivenNames x; (first | (have h : @Eq Nvm x x := rfl; clear h; subst x) | clear_value x))
    | with_reducible refine (rep_keeps _ _ ?_)
    | with_reducible refine (countUnits_keeps _ _ ?_)
    | with_reducible refine (mramWriteBad_keeps _ _ _ ?_)
    | with_reducible refine (writeFailed_keeps _ _ _ _ ?_)
    | with_reducible refine (mramWrite_keeps _ _ _ ?_)
    | split
    | fail_if_no_progress with_reducible refine Keeps.upd ?_ rfl rfl rfl rfl rfl rfl (by first | exact id | simp +contextual [shapes])
    | dsimp only)

theorem pwCommit_keeps (y0 : Src) (s : State) {w0 : State} (h0 : Keeps w0 s) : Keeps w0 (pwCommit y0 s).2 := by
  unfold pwCommit
  repeat' (first
    | with_reducible assumption
    | (extract_lets +onlyGivenNames x; with_reducible refine Keeps.have_ (x := x) ?_ ?_; (on_goal 2 => (clear_value x; intro)); on_goal 1 => subst x)
    | (extract_lets +onlyGivenNames x; (first | (have h : @Eq Nvm x x := rfl; clear h; subst x) | clear_value x))
    | with_reducible refine (rep_keeps _ _ ?_)
    | with_reducible refine (accept_keeps _ _ ?_ ?_)
    | (split; with_reducible refine Keeps.pair_ ‹_ = (_, _)› ?_ ?_; on_goal 2 => intro)
    | split
    | (intro _; intros; beta_reduce)
    | fail_if_no_progress with_reducible refine Keeps.upd ?_ rfl rfl rfl rfl rfl rfl (by first | exact id | simp +contextual [shapes])
    | dsimp only)

theorem patternWrite_keeps (rq : Rq) (verifyFail : Bool) (s : State) {w0 : State} (h0 : Keeps w0 s) : KeepsRes w0 (patternWrite rq verifyFail s) := by
  unfold patternWrite
  repeat' (first
    | with_reducible assumption
    | (extract_lets +onlyGivenNames x; with_reducible refine KeepsRes.have_ (x := x) ?_ ?_; (on_goal 2 => (clear_value x; intro)); on_goal 1 => subst x)
    | (extract_lets +onlyGivenNames x; with_reducible refine Keeps.have_ (x := x) ?_ ?_; (on_goal 2 => (clear_value x; intro)); on_goal 1 => subst x)
    | (extract_lets +onlyGivenNames x; (first | (have h : x = (fun _ => _) := rfl; subst x; beta_reduce) | (have h : x = (fun _ _ => _) := rfl; subst x; beta_reduce) | clear_value x))
    | with_reducible refine (request_keeps _ _ _ _ _ _ _ ?_ ?_)
    | with_reducible refine (rep_keeps _ _ ?_)
    | with_reducible refine (endLoad_keeps _ ?_)
    | with_reducible refine (tempWindow_keeps _ ?_)
    | with_reducible refine (pwBegin_keeps _ _ ?_)
    | with_reducible refine (pwData_keeps _ _ _ ?_)
    | with_reducible refine (pwCommit_keeps _ _ ?_)
    | split
    | (intro _; intros; beta_reduce)
    | dsimp only)

theorem execPatternWriteCommit_keeps (rq : Rq) (s : State) {w0 : State} (h0 : Keeps w0 s) : KeepsRes w0 (execPatternWriteCommit rq s) := by
  unfold execPatternWriteCommit
  repeat' (first
    | with_reducible assumption
    | with_reducible refine (patternWrite_keeps _ _ _ ?_))

theorem execDefectListStore_keeps (s : State) {w0 : State} (h0 : Keeps w0 s) : KeepsRes w0 (execDefectListStore s) := by
  unfold execDefectListStore
  repeat' (first
    | with_reducible assumption
    | with_reducible refine KeepsRes.next ?_
    | with_reducible refine (requestStore_keeps _ _ _ ?_)
    | split)

theorem calibrateSensors_keeps (readings : List ℤ) (store : Bool) (h : ℕ) (y3 : Src) (s : State) {w0 : State} (h0 : Keeps w0 s) : Keeps w0 (calibrateSensors readings store h y3 s) := by
  unfold calibrateSensors
  repeat' (first
    | with_reducible assumption
    | (extract_lets +onlyGivenNames x; with_reducible refine Keeps.have_ (x := x) ?_ ?_; (on_goal 2 => (clear_value x; intro)); on_goal 1 => subst x)
    | (extract_lets +onlyGivenNames x; (first | (have h : @Eq Nvm x x := rfl; clear h; subst x) | clear_value x))
    | with_reducible refine (judgeSensors_keeps _ _ _ ?_)
    | with_reducible refine (setOffsets_keeps _ _ ?_)
    | with_reducible refine (requestStore_keeps _ _ _ ?_)
    | with_reducible refine (completeOpen_keeps _ _ _ _ _ ?_)
    | (split; with_reducible refine Keeps.pair_ ‹_ = (_, _)› ?_ ?_; on_goal 2 => intro)
    | (split; with_reducible refine Keeps.triple_ ‹_ = (_, _, _)› ?_ ?_; on_goal 2 => intro)
    | split
    | fail_if_no_progress with_reducible refine Keeps.upd ?_ rfl rfl rfl rfl rfl rfl (by first | exact id | simp +contextual [shapes])
    | dsimp only)

theorem endFull_keeps (s : State) {w0 : State} (h0 : Keeps w0 s) : Keeps w0 (endFull s) := by
  unfold endFull
  repeat' (first
    | with_reducible assumption
    | (extract_lets +onlyGivenNames x; with_reducible refine Keeps.have_ (x := x) ?_ ?_; (on_goal 2 => (clear_value x; intro)); on_goal 1 => subst x)
    | (extract_lets +onlyGivenNames x; (first | (have h : @Eq Nvm x x := rfl; clear h; subst x) | (have h : @Eq Pwr x x := rfl; clear h; subst x) | clear_value x))
    | with_reducible refine (setOffsets_keeps _ _ ?_)
    | with_reducible refine (requireStores_keeps _ _ _ ?_)
    | with_reducible refine (resolveClosed_keeps _ ?_)
    | with_reducible refine (finishCal_keeps _ _ ?_)
    | split
    | fail_if_no_progress with_reducible refine Keeps.upd ?_ rfl rfl rfl rfl rfl rfl (by first | exact id | simp +contextual [shapes])
    | dsimp only)

theorem failStore_keeps (r : StoreRun) (addr : ℕ) (s : State) {w0 : State} (h0 : Keeps w0 s) : Keeps w0 (failStore r addr s) := by
  unfold failStore
  repeat' (first
    | with_reducible assumption
    | (extract_lets +onlyGivenNames x; with_reducible refine Keeps.have_ (x := x) ?_ ?_; (on_goal 2 => (clear_value x; intro)); on_goal 1 => subst x)
    | (extract_lets +onlyGivenNames x; (first | (have h : @Eq Nvm x x := rfl; clear h; subst x) | clear_value x))
    | with_reducible refine (failSlot_keeps _ _ _ _ _ _ ?_)
    | with_reducible refine (writeFailed_keeps _ _ _ _ ?_)
    | with_reducible refine (resolveStore_keeps _ _ _ _ ?_)
    | (with_reducible refine Keeps.foldl _ ?_ ?_; on_goal 1 => (intros; beta_reduce))
    | split
    | fail_if_no_progress with_reducible refine Keeps.upd ?_ rfl rfl rfl rfl rfl rfl (by first | exact id | simp +contextual [shapes])
    | dsimp only)

theorem storeCommitted_keeps (r : StoreRun) (s : State) {w0 : State} (h0 : Keeps w0 s) : Keeps w0 (storeCommitted r s) := by
  unfold storeCommitted
  repeat' (first
    | with_reducible assumption
    | (extract_lets +onlyGivenNames x; with_reducible refine Keeps.have_ (x := x) ?_ ?_; (on_goal 2 => (clear_value x; intro)); on_goal 1 => subst x)
    | (extract_lets +onlyGivenNames x; (first | (have h : @Eq Pwr x x := rfl; clear h; subst x) | (have h : @Eq Diag x x := rfl; clear h; subst x) | clear_value x))
    | split
    | fail_if_no_progress with_reducible refine Keeps.upd ?_ rfl rfl rfl rfl rfl rfl (by first | exact id | simp +contextual [shapes])
    | dsimp only)

theorem commitStore_keeps (r : StoreRun) (s : State) {w0 : State} (h0 : Keeps w0 s) : Keeps w0 (commitStore r s) := by
  unfold commitStore
  repeat' (first
    | with_reducible assumption
    | (extract_lets +onlyGivenNames x; with_reducible refine Keeps.have_ (x := x) ?_ ?_; (on_goal 2 => (clear_value x; intro)); on_goal 1 => subst x)
    | (extract_lets +onlyGivenNames x; (first | (have h : @Eq Nvm x x := rfl; clear h; subst x) | clear_value x))
    | with_reducible refine (writeSlot_keeps _ _ _ _ _ ?_)
    | with_reducible refine (storeCommitted_keeps _ _ ?_)
    | with_reducible refine (setInForce_keeps _ _ _ _ ?_)
    | with_reducible refine (resolveStore_keeps _ _ _ _ ?_)
    | (with_reducible refine Keeps.foldl _ ?_ ?_; on_goal 1 => (intros; beta_reduce))
    | fail_if_no_progress with_reducible refine Keeps.upd ?_ rfl rfl rfl rfl rfl rfl (by first | exact id | simp +contextual [shapes])
    | dsimp only)

theorem execNvmStoreComplete_keeps (failAt : Option ℕ) (s : State) {w0 : State} (h0 : Keeps w0 s) : KeepsRes w0 (execNvmStoreComplete failAt s) := by
  unfold execNvmStoreComplete
  repeat' (first
    | with_reducible assumption
    | (extract_lets +onlyGivenNames x; clear_value x)
    | with_reducible refine KeepsRes.next ?_
    | with_reducible refine (commitStore_keeps _ _ ?_)
    | with_reducible refine (failStore_keeps _ _ _ ?_)
    | split)

theorem beginStore_keeps (r : StoreReq) (s : State) {w0 : State} (h0 : Keeps w0 s) : Keeps w0 (beginStore r s) := by
  unfold beginStore
  repeat' (first
    | with_reducible assumption
    | (extract_lets +onlyGivenNames x; with_reducible refine Keeps.have_ (x := x) ?_ ?_; (on_goal 2 => (clear_value x; intro)); on_goal 1 => subst x)
    | (extract_lets +onlyGivenNames x; (first | (have h : @Eq Nvm x x := rfl; clear h; subst x) | clear_value x))
    | with_reducible refine (lifeEntry_keeps _ ?_)
    | with_reducible refine (requestStore_keeps _ _ _ ?_)
    | with_reducible refine (clearCommit_keeps _ _ _ ?_)
    | (with_reducible refine Keeps.foldl _ ?_ ?_; on_goal 1 => (intros; beta_reduce))
    | split
    | (intro _; intros; beta_reduce)
    | fail_if_no_progress with_reducible refine Keeps.upd ?_ rfl rfl rfl rfl rfl rfl (by first | exact id | simp +contextual [shapes])
    | dsimp only)

theorem execNvmStoreStart_keeps (s : State) {w0 : State} (h0 : Keeps w0 s) : KeepsRes w0 (execNvmStoreStart s) := by
  unfold execNvmStoreStart
  repeat' (first
    | with_reducible assumption
    | (extract_lets +onlyGivenNames x; with_reducible refine KeepsRes.have_ (x := x) ?_ ?_; (on_goal 2 => (clear_value x; intro)); on_goal 1 => subst x)
    | (extract_lets +onlyGivenNames x; with_reducible refine Keeps.have_ (x := x) ?_ ?_; (on_goal 2 => (clear_value x; intro)); on_goal 1 => subst x)
    | (extract_lets +onlyGivenNames x; (first | (have h : @Eq Nvm x x := rfl; clear h; subst x) | clear_value x))
    | with_reducible refine KeepsRes.next ?_
    | with_reducible refine (countDefers_keeps _ _ ?_)
    | with_reducible refine (beginStore_keeps _ _ ?_)
    | split
    | (intro _; intros; beta_reduce)
    | fail_if_no_progress with_reducible refine Keeps.upd ?_ rfl rfl rfl rfl rfl rfl (by first | exact id | simp +contextual [shapes])
    | dsimp only)

theorem execNvmRead_keeps (rq : Rq) (s : State) {w0 : State} (h0 : Keeps w0 s) : KeepsRes w0 (execNvmRead rq s) := by
  unfold execNvmRead
  repeat' (first
    | with_reducible assumption
    | (extract_lets +onlyGivenNames x; with_reducible refine KeepsRes.have_ (x := x) ?_ ?_; (on_goal 2 => (clear_value x; intro)); on_goal 1 => subst x)
    | (extract_lets +onlyGivenNames x; with_reducible refine Keeps.have_ (x := x) ?_ ?_; (on_goal 2 => (clear_value x; intro)); on_goal 1 => subst x)
    | (extract_lets +onlyGivenNames x; clear_value x)
    | with_reducible refine (request_keeps _ _ _ _ _ _ _ ?_ ?_)
    | with_reducible refine (rep_keeps _ _ ?_)
    | with_reducible refine (openReads_keeps _ ?_)
    | with_reducible refine (repOk_keeps _ _ ?_)
    | with_reducible refine (guFeedSource_keeps _ _ _ ?_)
    | (with_reducible refine Keeps.foldl _ ?_ ?_; on_goal 1 => (intros; beta_reduce))
    | split
    | (intro _; intros; beta_reduce)
    | fail_if_no_progress with_reducible refine Keeps.upd ?_ rfl rfl rfl rfl rfl rfl (by first | exact id | simp +contextual [shapes])
    | dsimp only)

theorem calibrate_keeps (rq : Rq) (readings : State → List ℤ) (s : State) {w0 : State} (h0 : Keeps w0 s) : KeepsRes w0 (calibrate rq readings s) := by
  unfold calibrate
  repeat' (first
    | with_reducible assumption
    | (extract_lets +onlyGivenNames x; with_reducible refine KeepsRes.have_ (x := x) ?_ ?_; (on_goal 2 => (clear_value x; intro)); on_goal 1 => subst x)
    | (extract_lets +onlyGivenNames x; with_reducible refine Keeps.have_ (x := x) ?_ ?_; (on_goal 2 => (clear_value x; intro)); on_goal 1 => subst x)
    | (extract_lets +onlyGivenNames x; (first | (have h : @Eq Nvm x x := rfl; clear h; subst x) | (have h : x = (fun _ => _) := rfl; subst x; beta_reduce) | (have h : x = (fun _ _ => _) := rfl; subst x; beta_reduce) | clear_value x))
    | with_reducible refine (request_keeps _ _ _ _ _ _ _ ?_ ?_)
    | with_reducible refine (rep_keeps _ _ ?_)
    | with_reducible refine (tempWindow_keeps _ ?_)
    | with_reducible refine (accept_keeps _ _ ?_ ?_)
    | with_reducible refine (calibrateSensors_keeps _ _ _ _ _ ?_)
    | split
    | (intro _; intros; beta_reduce)
    | fail_if_no_progress with_reducible refine Keeps.upd ?_ rfl rfl rfl rfl rfl rfl (by first | exact id | simp +contextual [shapes])
    | dsimp only)

theorem execCalibrateSensors_keeps (rq : Rq) (readings : List ℤ) (s : State) {w0 : State} (h0 : Keeps w0 s) : KeepsRes w0 (execCalibrateSensors rq readings s) := by
  unfold execCalibrateSensors
  repeat' (first
    | with_reducible assumption
    | with_reducible exact KeepsRes.fault
    | with_reducible refine (calibrate_keeps _ _ _ ?_)
    | split)

theorem judgeFull_keeps (r : CalRun) (m : CalMeas) (us : ℕ) (s : State) {w0 : State} (h0 : Keeps w0 s) : Keeps w0 (judgeFull r m us s) := by
  unfold judgeFull
  repeat' (first
    | with_reducible assumption
    | (extract_lets +onlyGivenNames x; with_reducible refine Keeps.have_ (x := x) ?_ ?_; (on_goal 2 => (clear_value x; intro)); on_goal 1 => subst x)
    | (extract_lets +onlyGivenNames x; (first | (have h : @Eq Nvm x x := rfl; clear h; subst x) | clear_value x))
    | with_reducible refine (runScan_keeps _ _ _ ?_)
    | with_reducible refine (judgeSensors_keeps _ _ _ ?_)
    | with_reducible refine (recordCal_keeps _ _ _ _ _ _ _ ?_)
    | with_reducible refine (stageCal_keeps _ _ ?_)
    | (split; with_reducible refine Keeps.pair_ ‹_ = (_, _)› ?_ ?_; on_goal 2 => intro)
    | (split; with_reducible refine Keeps.triple_ ‹_ = (_, _, _)› ?_ ?_; on_goal 2 => intro)
    | split
    | fail_if_no_progress with_reducible refine Keeps.upd ?_ rfl rfl rfl rfl rfl rfl (by first | exact id | simp +contextual [shapes])
    | dsimp only)

theorem execCalCommit_keeps (rq : Rq) (s : State) {w0 : State} (h0 : Keeps w0 s) : KeepsRes w0 (execCalCommit rq s) := by
  unfold execCalCommit
  repeat' (first
    | with_reducible assumption
    | (extract_lets +onlyGivenNames x; with_reducible refine KeepsRes.have_ (x := x) ?_ ?_; (on_goal 2 => (clear_value x; intro)); on_goal 1 => subst x)
    | (extract_lets +onlyGivenNames x; with_reducible refine Keeps.have_ (x := x) ?_ ?_; (on_goal 2 => (clear_value x; intro)); on_goal 1 => subst x)
    | (extract_lets +onlyGivenNames x; (first | (have h : @Eq Nvm x x := rfl; clear h; subst x) | clear_value x))
    | with_reducible refine (request_keeps _ _ _ _ _ _ _ ?_ ?_)
    | with_reducible refine (rep_keeps _ _ ?_)
    | with_reducible refine (tempWindow_keeps _ ?_)
    | with_reducible refine (accept_keeps _ _ ?_ ?_)
    | with_reducible refine (requireStores_keeps _ _ _ ?_)
    | split
    | (intro _; intros; beta_reduce)
    | fail_if_no_progress with_reducible refine Keeps.upd ?_ rfl rfl rfl rfl rfl rfl (by first | exact id | simp +contextual [shapes])
    | dsimp only)

theorem execPatternWriteBegin_keeps (rq : Rq) (s : State) {w0 : State} (h0 : Keeps w0 s) : KeepsRes w0 (execPatternWriteBegin rq s) := by
  unfold execPatternWriteBegin
  repeat' (first
    | with_reducible assumption
    | with_reducible refine (patternWrite_keeps _ _ _ ?_))

theorem execPatternWriteAbort_keeps (rq : Rq) (s : State) {w0 : State} (h0 : Keeps w0 s) : KeepsRes w0 (execPatternWriteAbort rq s) := by
  unfold execPatternWriteAbort
  repeat' (first
    | with_reducible assumption
    | with_reducible refine (patternWrite_keeps _ _ _ ?_))

theorem execCalibrateFullMeasure_keeps (m : CalMeas) (us : ℕ) (s : State) {w0 : State} (h0 : Keeps w0 s) : KeepsRes w0 (execCalibrateFullMeasure m us s) := by
  unfold execCalibrateFullMeasure
  repeat' (first
    | with_reducible assumption
    | with_reducible refine KeepsRes.guarded ?_
    | with_reducible refine (guarded_keeps _ _ ?_)
    | with_reducible refine (judgeFull_keeps _ _ _ _ ?_)
    | split)

theorem execPatternWriteData_keeps (rq : Rq) (verifyFail : Bool) (s : State) {w0 : State} (h0 : Keeps w0 s) : KeepsRes w0 (execPatternWriteData rq verifyFail s) := by
  unfold execPatternWriteData
  repeat' (first
    | with_reducible assumption
    | with_reducible refine (patternWrite_keeps _ _ _ ?_))

theorem execCalibrateFull_keeps (rq : Rq) (s : State) {w0 : State} (h0 : Keeps w0 s) : KeepsRes w0 (execCalibrateFull rq s) := by
  unfold execCalibrateFull
  repeat' (first
    | with_reducible assumption
    | with_reducible refine (calibrate_keeps _ _ _ ?_))

theorem execPatternWriteCommitDone_keeps (writeFail : Bool) (copyFail : Option ℕ) (s : State) {w0 : State} (h0 : Keeps w0 s) : KeepsRes w0 (execPatternWriteCommitDone writeFail copyFail s) := by
  unfold execPatternWriteCommitDone
  repeat' (first
    | with_reducible assumption
    | (extract_lets +onlyGivenNames x; with_reducible refine KeepsRes.have_ (x := x) ?_ ?_; (on_goal 2 => (clear_value x; intro)); on_goal 1 => subst x)
    | (extract_lets +onlyGivenNames x; with_reducible refine Keeps.have_ (x := x) ?_ ?_; (on_goal 2 => (clear_value x; intro)); on_goal 1 => subst x)
    | (extract_lets +onlyGivenNames x; (first | (have h : @Eq Nvm x x := rfl; clear h; subst x) | clear_value x))
    | with_reducible refine KeepsRes.next ?_
    | with_reducible refine (openReads_keeps _ ?_)
    | with_reducible refine (takeFree_keeps _ ?_)
    | with_reducible refine (completeEach_keeps _ _ _ _ _ _ ?_)
    | with_reducible refine (pwFinish_keeps _ _ _ _ _ ?_)
    | with_reducible refine (note_keeps _ _ ?_)
    | (split; with_reducible refine KeepsRes.pair_ ‹_ = (_, _)› ?_ ?_; on_goal 2 => intro)
    | (split; with_reducible refine Keeps.pair_ ‹_ = (_, _)› ?_ ?_; on_goal 2 => intro)
    | split
    | fail_if_no_progress with_reducible refine Keeps.upd ?_ rfl rfl rfl rfl rfl rfl (by first | exact id | simp +contextual [shapes])
    | dsimp only)

end Sys2Proof.Machine
end

