-- ==== Sys2Proof/Laws/KeepsMapper.lean ====
section
/-! SUPPORT. For each definition of Machine/Mapper.lean that answers a state: the queue stays as it is and the memories stay canonical. -/

namespace Sys2Proof.Machine

theorem addCharge_keeps (s : State) (c : ℕ × ℕ) {w0 : State} (h0 : Keeps w0 s) : Keeps w0 (addCharge s c) := by
  unfold addCharge
  repeat' (first
    | with_reducible assumption
    | (extract_lets +onlyGivenNames x; with_reducible refine Keeps.have_ (x := x) ?_ ?_; (on_goal 2 => (clear_value x; intro)); on_goal 1 => subst x)
    | (extract_lets +onlyGivenNames x; clear_value x)
    | fail_if_no_progress with_reducible refine Keeps.upd ?_ rfl rfl rfl rfl rfl rfl (by first | exact id | simp +contextual [shapes])
    | dsimp only)

theorem accumulateWear_keeps (s : State) {w0 : State} (h0 : Keeps w0 s) : Keeps w0 (accumulateWear s) := by
  unfold accumulateWear
  repeat' (first
    | with_reducible assumption
    | with_reducible refine (addCharge_keeps _ _ ?_)
    | (with_reducible refine Keeps.foldl _ ?_ ?_; on_goal 1 => (intros; beta_reduce))
    | dsimp only)

theorem recomputeGains_keeps (s : State) {w0 : State} (h0 : Keeps w0 s) : Keeps w0 (recomputeGains s) := by
  unfold recomputeGains
  repeat' (first
    | with_reducible assumption
    | (extract_lets +onlyGivenNames x; with_reducible refine Keeps.have_ (x := x) ?_ ?_; (on_goal 2 => (clear_value x; intro)); on_goal 1 => subst x)
    | (extract_lets +onlyGivenNames x; clear_value x)
    | with_reducible refine (raise_keeps _ _ ?_)
    | split
    | (intro _; intros; beta_reduce)
    | fail_if_no_progress with_reducible refine Keeps.upd ?_ rfl rfl rfl rfl rfl rfl (by first | exact id | simp +contextual [shapes])
    | dsimp only)

theorem execWearGainRecompute_keeps (s : State) {w0 : State} (h0 : Keeps w0 s) : KeepsRes w0 (execWearGainRecompute s) := by
  unfold execWearGainRecompute
  repeat' (first
    | with_reducible assumption
    | (extract_lets +onlyGivenNames x; with_reducible refine KeepsRes.have_ (x := x) ?_ ?_; (on_goal 2 => (clear_value x; intro)); on_goal 1 => subst x)
    | (extract_lets +onlyGivenNames x; with_reducible refine Keeps.have_ (x := x) ?_ ?_; (on_goal 2 => (clear_value x; intro)); on_goal 1 => subst x)
    | (extract_lets +onlyGivenNames x; clear_value x)
    | with_reducible refine KeepsRes.next ?_
    | with_reducible refine (recomputeGains_keeps _ ?_)
    | split
    | fail_if_no_progress with_reducible refine Keeps.upd ?_ rfl rfl rfl rfl rfl rfl (by first | exact id | simp +contextual [shapes])
    | dsimp only)

theorem execWearMapStore_keeps (s : State) {w0 : State} (h0 : Keeps w0 s) : KeepsRes w0 (execWearMapStore s) := by
  unfold execWearMapStore
  repeat' (first
    | with_reducible assumption
    | with_reducible refine KeepsRes.next ?_
    | with_reducible refine (requestStore_keeps _ _ _ ?_)
    | split)

end Sys2Proof.Machine
end

