-- ==== Sys2Proof/Laws/KeepsDiagnosis.lean ====
section
/-! SUPPORT. For each definition of Machine/Diagnosis.lean that answers a state: the queue stays as it is and the memories stay canonical. -/

namespace Sys2Proof.Machine

theorem voidFrame_keeps (cause : ℕ) (s : State) {w0 : State} (h0 : Keeps w0 s) : Keeps w0 (voidFrame cause s) := by
  unfold voidFrame
  repeat' (first
    | with_reducible assumption
    | (extract_lets +onlyGivenNames x; with_reducible refine Keeps.have_ (x := x) ?_ ?_; (on_goal 2 => (clear_value x; intro)); on_goal 1 => subst x)
    | (extract_lets +onlyGivenNames x; (first | (have h : @Eq Diag x x := rfl; clear h; subst x) | clear_value x))
    | with_reducible refine (noteF_keeps _ _ _ _ _ ?_)
    | fail_if_no_progress with_reducible refine Keeps.upd ?_ rfl rfl rfl rfl rfl rfl (by first | exact id | simp +contextual [shapes])
    | dsimp only)

theorem coverage_keeps (void : Bool) (lit : ℕ) (l : List PixAcc) (s : State) {w0 : State} (h0 : Keeps w0 s) : Keeps w0 (coverage void lit l s) := by
  unfold coverage
  repeat' (first
    | with_reducible assumption
    | (extract_lets +onlyGivenNames x; with_reducible refine Keeps.have_ (x := x) ?_ ?_; (on_goal 2 => (clear_value x; intro)); on_goal 1 => subst x)
    | (extract_lets +onlyGivenNames x; (first | (have h : @Eq Diag x x := rfl; clear h; subst x) | (have h : x = (fun _ => _) := rfl; subst x; beta_reduce) | (have h : x = (fun _ _ => _) := rfl; subst x; beta_reduce) | clear_value x))
    | split
    | (intro _; intros; beta_reduce)
    | fail_if_no_progress with_reducible refine Keeps.upd ?_ rfl rfl rfl rfl rfl rfl (by first | exact id | simp +contextual [shapes])
    | dsimp only)

theorem pixelTest_keeps (rq : Rq) (s : State) {w0 : State} (h0 : Keeps w0 s) : KeepsRes w0 (pixelTest rq s) := by
  unfold pixelTest
  repeat' (first
    | with_reducible assumption
    | (extract_lets +onlyGivenNames x; with_reducible refine KeepsRes.have_ (x := x) ?_ ?_; (on_goal 2 => (clear_value x; intro)); on_goal 1 => subst x)
    | (extract_lets +onlyGivenNames x; with_reducible refine Keeps.have_ (x := x) ?_ ?_; (on_goal 2 => (clear_value x; intro)); on_goal 1 => subst x)
    | (extract_lets +onlyGivenNames x; (first | (have h : @Eq Diag x x := rfl; clear h; subst x) | clear_value x))
    | with_reducible refine (request_keeps _ _ _ _ _ _ _ ?_ ?_)
    | with_reducible refine (rep_keeps _ _ ?_)
    | with_reducible refine (evalDefects_keeps _ ?_)
    | with_reducible refine (enterDefect_keeps _ _ _ _ ?_)
    | with_reducible refine (accept_keeps _ _ ?_ ?_)
    | split
    | (intro _; intros; beta_reduce)
    | fail_if_no_progress with_reducible refine Keeps.upd ?_ rfl rfl rfl rfl rfl rfl (by first | exact id | simp +contextual [shapes])
    | dsimp only)

theorem execPixelTestRelease_keeps (rq : Rq) (s : State) {w0 : State} (h0 : Keeps w0 s) : KeepsRes w0 (execPixelTestRelease rq s) := by
  unfold execPixelTestRelease
  repeat' (first
    | with_reducible assumption
    | with_reducible refine (pixelTest_keeps _ _ ?_))

theorem parityReset_keeps (s : State) (p : ℕ) {w0 : State} (h0 : Keeps w0 s) : Keeps w0 (parityReset s p) := by
  unfold parityReset
  repeat' (first
    | with_reducible assumption
    | (extract_lets +onlyGivenNames x; with_reducible refine Keeps.have_ (x := x) ?_ ?_; (on_goal 2 => (clear_value x; intro)); on_goal 1 => subst x)
    | (extract_lets +onlyGivenNames x; (first | (have h : @Eq Diag x x := rfl; clear h; subst x) | clear_value x))
    | with_reducible refine (raiseF_keeps _ _ _ _ _ ?_)
    | fail_if_no_progress with_reducible refine Keeps.upd ?_ rfl rfl rfl rfl rfl rfl (by first | exact id | simp +contextual [shapes])
    | dsimp only)

theorem takeTest_keeps (q : SlotPos) (test : Option PixScan) (s : State) {w0 : State} (h0 : Keeps w0 s) : Keeps w0 (takeTest q test s) := by
  unfold takeTest
  repeat' (first
    | with_reducible assumption
    | (extract_lets +onlyGivenNames x; with_reducible refine Keeps.have_ (x := x) ?_ ?_; (on_goal 2 => (clear_value x; intro)); on_goal 1 => subst x)
    | (extract_lets +onlyGivenNames x; (first | (have h : @Eq Diag x x := rfl; clear h; subst x) | clear_value x))
    | split
    | fail_if_no_progress with_reducible refine Keeps.upd ?_ rfl rfl rfl rfl rfl rfl (by first | exact id | simp +contextual [shapes])
    | dsimp only)

theorem failPixel_keeps (p : ℕ) (type : ℕ) (s : State) {w0 : State} (h0 : Keeps w0 s) : Keeps w0 (failPixel p type s) := by
  unfold failPixel
  repeat' (first
    | with_reducible assumption
    | (extract_lets +onlyGivenNames x; with_reducible refine Keeps.have_ (x := x) ?_ ?_; (on_goal 2 => (clear_value x; intro)); on_goal 1 => subst x)
    | (extract_lets +onlyGivenNames x; (first | (have h : @Eq Diag x x := rfl; clear h; subst x) | clear_value x))
    | with_reducible refine (enterDefect_keeps _ _ _ _ ?_)
    | split
    | fail_if_no_progress with_reducible refine Keeps.upd ?_ rfl rfl rfl rfl rfl rfl (by first | exact id | simp +contextual [shapes])
    | dsimp only)

theorem judgeCounters_keeps (s : State) (k : PixAcc) {w0 : State} (h0 : Keeps w0 s) : Keeps w0 (judgeCounters s k) := by
  unfold judgeCounters
  repeat' (first
    | with_reducible assumption
    | (extract_lets +onlyGivenNames x; with_reducible refine Keeps.have_ (x := x) ?_ ?_; (on_goal 2 => (clear_value x; intro)); on_goal 1 => subst x)
    | (extract_lets +onlyGivenNames x; (first | (have h : @Eq Diag x x := rfl; clear h; subst x) | clear_value x))
    | with_reducible refine (failPixel_keeps _ _ _ ?_)
    | split
    | fail_if_no_progress with_reducible refine Keeps.upd ?_ rfl rfl rfl rfl rfl rfl (by first | exact id | simp +contextual [shapes])
    | dsimp only)

theorem collectSlot_keeps (flags : List PixFlags) (s : State) {w0 : State} (h0 : Keeps w0 s) : Keeps w0 (collectSlot flags s) := by
  unfold collectSlot
  repeat' (first
    | with_reducible assumption
    | (extract_lets +onlyGivenNames x; with_reducible refine Keeps.have_ (x := x) ?_ ?_; (on_goal 2 => (clear_value x; intro)); on_goal 1 => subst x)
    | (extract_lets +onlyGivenNames x; clear_value x)
    | (with_reducible refine Keeps.foldl _ ?_ ?_; on_goal 1 => (intros; beta_reduce))
    | split
    | (intro _; intros; beta_reduce)
    | fail_if_no_progress with_reducible refine Keeps.upd ?_ rfl rfl rfl rfl rfl rfl (by first | exact id | simp +contextual [shapes])
    | dsimp only)

theorem showStale_keeps (s : State) {w0 : State} (h0 : Keeps w0 s) : Keeps w0 (showStale s) := by
  unfold showStale
  repeat' (first
    | with_reducible assumption
    | (extract_lets +onlyGivenNames x; with_reducible refine Keeps.have_ (x := x) ?_ ?_; (on_goal 2 => (clear_value x; intro)); on_goal 1 => subst x)
    | (extract_lets +onlyGivenNames x; (first | (have h : @Eq Diag x x := rfl; clear h; subst x) | clear_value x))
    | split
    | (intro _; intros; beta_reduce)
    | fail_if_no_progress with_reducible refine Keeps.upd ?_ rfl rfl rfl rfl rfl rfl (by first | exact id | simp +contextual [shapes])
    | dsimp only)

theorem finishTest_keeps (void : Bool) (s : State) {w0 : State} (h0 : Keeps w0 s) : Keeps w0 (finishTest void s) := by
  unfold finishTest
  repeat' (first
    | with_reducible assumption
    | (extract_lets +onlyGivenNames x; with_reducible refine Keeps.have_ (x := x) ?_ ?_; (on_goal 2 => (clear_value x; intro)); on_goal 1 => subst x)
    | (extract_lets +onlyGivenNames x; (first | (have h : @Eq Diag x x := rfl; clear h; subst x) | clear_value x))
    | with_reducible refine (removeDefect_keeps _ _ ?_)
    | with_reducible refine (evalDefects_keeps _ ?_)
    | with_reducible refine (complete_keeps _ _ _ _ _ _ _ ?_)
    | with_reducible refine (takeFree_keeps _ ?_)
    | (split; with_reducible refine Keeps.pair_ ‹_ = (_, _)› ?_ ?_; on_goal 2 => intro)
    | split
    | fail_if_no_progress with_reducible refine Keeps.upd ?_ rfl rfl rfl rfl rfl rfl (by first | exact id | simp +contextual [shapes])
    | dsimp only)

theorem execDiagVerdictsFinal_keeps (parity : List ℕ) (s : State) {w0 : State} (h0 : Keeps w0 s) : KeepsRes w0 (execDiagVerdictsFinal parity s) := by
  unfold execDiagVerdictsFinal
  repeat' (first
    | with_reducible assumption
    | (extract_lets +onlyGivenNames x; with_reducible refine KeepsRes.have_ (x := x) ?_ ?_; (on_goal 2 => (clear_value x; intro)); on_goal 1 => subst x)
    | (extract_lets +onlyGivenNames x; with_reducible refine Keeps.have_ (x := x) ?_ ?_; (on_goal 2 => (clear_value x; intro)); on_goal 1 => subst x)
    | (extract_lets +onlyGivenNames x; (first | (have h : @Eq Diag x x := rfl; clear h; subst x) | clear_value x))
    | with_reducible refine KeepsRes.guarded ?_
    | with_reducible refine (guarded_keeps _ _ ?_)
    | with_reducible refine (parityReset_keeps _ _ ?_)
    | with_reducible refine (showStale_keeps _ ?_)
    | with_reducible refine (coverage_keeps _ _ _ _ ?_)
    | with_reducible refine (voidFrame_keeps _ _ ?_)
    | with_reducible refine (judgeCounters_keeps _ _ ?_)
    | with_reducible refine (evalDefects_keeps _ ?_)
    | with_reducible refine (finishTest_keeps _ _ ?_)
    | (with_reducible refine Keeps.foldl _ ?_ ?_; on_goal 1 => (intros; beta_reduce))
    | split
    | (intro _; intros; beta_reduce)
    | fail_if_no_progress with_reducible refine Keeps.upd ?_ rfl rfl rfl rfl rfl rfl (by first | exact id | simp +contextual [shapes])
    | dsimp only)

theorem execSlotStart_keeps (flags : List PixFlags) (test : Option PixScan) (s : State) {w0 : State} (h0 : Keeps w0 s) : KeepsRes w0 (execSlotStart flags test s) := by
  unfold execSlotStart
  repeat' (first
    | with_reducible assumption
    | (extract_lets +onlyGivenNames x; with_reducible refine KeepsRes.have_ (x := x) ?_ ?_; (on_goal 2 => (clear_value x; intro)); on_goal 1 => subst x)
    | (extract_lets +onlyGivenNames x; with_reducible refine Keeps.have_ (x := x) ?_ ?_; (on_goal 2 => (clear_value x; intro)); on_goal 1 => subst x)
    | (extract_lets +onlyGivenNames x; clear_value x)
    | with_reducible refine KeepsRes.guarded ?_
    | with_reducible refine (guarded_keeps _ _ ?_)
    | with_reducible refine (takeTest_keeps _ _ _ ?_)
    | with_reducible refine (collectSlot_keeps _ _ ?_)
    | split
    | fail_if_no_progress with_reducible refine Keeps.upd ?_ rfl rfl rfl rfl rfl rfl (by first | exact id | simp +contextual [shapes])
    | dsimp only)

theorem execPixelTestDisable_keeps (rq : Rq) (s : State) {w0 : State} (h0 : Keeps w0 s) : KeepsRes w0 (execPixelTestDisable rq s) := by
  unfold execPixelTestDisable
  repeat' (first
    | with_reducible assumption
    | with_reducible refine (pixelTest_keeps _ _ ?_))

theorem execDiagMapRead_keeps (rq : Rq) (s : State) {w0 : State} (h0 : Keeps w0 s) : KeepsRes w0 (execDiagMapRead rq s) := by
  unfold execDiagMapRead
  repeat' (first
    | with_reducible assumption
    | (extract_lets +onlyGivenNames x; with_reducible refine KeepsRes.have_ (x := x) ?_ ?_; (on_goal 2 => (clear_value x; intro)); on_goal 1 => subst x)
    | (extract_lets +onlyGivenNames x; with_reducible refine Keeps.have_ (x := x) ?_ ?_; (on_goal 2 => (clear_value x; intro)); on_goal 1 => subst x)
    | (extract_lets +onlyGivenNames x; (first | (have h : x = (fun _ => _) := rfl; subst x; beta_reduce) | (have h : x = (fun _ _ => _) := rfl; subst x; beta_reduce) | clear_value x))
    | with_reducible refine (request_keeps _ _ _ _ _ _ _ ?_ ?_)
    | with_reducible refine (rep_keeps _ _ ?_)
    | with_reducible refine (repOk_keeps _ _ ?_)
    | split
    | (intro _; intros; beta_reduce)
    | dsimp only)

theorem execPixelTestMeasure_keeps (rq : Rq) (s : State) {w0 : State} (h0 : Keeps w0 s) : KeepsRes w0 (execPixelTestMeasure rq s) := by
  unfold execPixelTestMeasure
  repeat' (first
    | with_reducible assumption
    | with_reducible refine (pixelTest_keeps _ _ ?_))

end Sys2Proof.Machine
end

