-- ==== Sys2Proof/Laws/KeepsStoreOps.lean ====
section
/-! SUPPORT. For each definition of Machine/StoreOps.lean that answers a state: the queue stays as it is and the memories stay canonical. -/

namespace Sys2Proof.Machine

theorem modBank_keeps (b : ℕ) (f : Bank → Bank) (s : State) {w0 : State} (h0 : Keeps w0 s) : Keeps w0 (modBank b f s) := by
  unfold modBank
  repeat' (first
    | with_reducible assumption
    | fail_if_no_progress with_reducible refine Keeps.upd ?_ rfl rfl rfl rfl rfl rfl (by first | exact id | simp +contextual [shapes]))

theorem queueClaim_keeps (c : Claim) (s : State) {w0 : State} (h0 : Keeps w0 s) : Keeps w0 (queueClaim c s) := by
  unfold queueClaim
  repeat' (first
    | with_reducible assumption
    | (extract_lets +onlyGivenNames x; with_reducible refine Keeps.have_ (x := x) ?_ ?_; (on_goal 2 => (clear_value x; intro)); on_goal 1 => subst x)
    | (extract_lets +onlyGivenNames x; (first | (have h : @Eq Mem x x := rfl; clear h; subst x) | clear_value x))
    | with_reducible refine (modBank_keeps _ _ _ ?_)
    | split
    | (intro _; intros; beta_reduce)
    | fail_if_no_progress with_reducible refine Keeps.upd ?_ rfl rfl rfl rfl rfl rfl (by first | exact id | simp +contextual [shapes])
    | dsimp only)

theorem nextBehind_keeps (bank : ℕ) (m : ℕ) (s : State) {w0 : State} (h0 : Keeps w0 s) : Keeps w0 (nextBehind bank m s) := by
  unfold nextBehind
  repeat' (first
    | with_reducible assumption
    | (extract_lets +onlyGivenNames x; with_reducible refine Keeps.have_ (x := x) ?_ ?_; (on_goal 2 => (clear_value x; intro)); on_goal 1 => subst x)
    | (extract_lets +onlyGivenNames x; (first | (have h : @Eq Mem x x := rfl; clear h; subst x) | clear_value x))
    | with_reducible refine (queueClaim_keeps _ _ ?_)
    | split
    | (intro _; intros; beta_reduce)
    | fail_if_no_progress with_reducible refine Keeps.upd ?_ rfl rfl rfl rfl rfl rfl (by first | exact id | simp +contextual [shapes])
    | dsimp only)

theorem putWord_keeps (addr : ℕ) (b : List Byte) (s : State) {w0 : State} (h0 : Keeps w0 s) : Keeps w0 (putWord addr b s) := ⟨⟨h0.pending, fun c => by
    have c := canonical_iff.1 (h0.canonical c)
    exact canonical_iff.2 ⟨memWf_memWrite c.1, c.2⟩, h0.shaped⟩, h0.locked, h0.released⟩

theorem putWords_keeps (port : ℕ) (y1 : ℕ) (y2 : ℕ) (y3 : List Byte) (y4 : State) {w0 : State} (h0 : Keeps w0 y4) : Keeps w0 (putWords port y1 y2 y3 y4) := by
  induction y1 generalizing y2 y3 y4 with
  | zero => exact h0
  | succ k ih => exact ih _ _ _ (guFeedSource_keeps _ _ _ (putWord_keeps _ _ _ h0))

theorem nonOwnerAccess_keeps (bank : ℕ) (port : ℕ) (kind : ℕ) (s : State) {w0 : State} (h0 : Keeps w0 s) : Keeps w0 (nonOwnerAccess bank port kind s) := by
  unfold nonOwnerAccess
  repeat' (first
    | with_reducible assumption
    | (extract_lets +onlyGivenNames x; with_reducible refine Keeps.have_ (x := x) ?_ ?_; (on_goal 2 => (clear_value x; intro)); on_goal 1 => subst x)
    | (extract_lets +onlyGivenNames x; (first | (have h : @Eq Mem x x := rfl; clear h; subst x) | clear_value x))
    | with_reducible refine (raise_keeps _ _ ?_)
    | split
    | fail_if_no_progress with_reducible refine Keeps.upd ?_ rfl rfl rfl rfl rfl rfl (by first | exact id | simp +contextual [shapes])
    | dsimp only)

theorem writeBurst_keeps (port : ℕ) (addr : ℕ) (b : List Byte) (s : State) {w0 : State} (h0 : Keeps w0 s) : Keeps w0 (writeBurst port addr b s) := by
  unfold writeBurst
  repeat' (first
    | with_reducible assumption
    | (extract_lets +onlyGivenNames x; clear_value x)
    | with_reducible refine (putWords_keeps _ _ _ _ _ ?_)
    | with_reducible refine (nonOwnerAccess_keeps _ _ _ _ ?_)
    | split)

theorem modMaster_keeps (m : ℕ) (f : Master → Master) (s : State) {w0 : State} (h0 : Keeps w0 s) : Keeps w0 (modMaster m f s) := by
  unfold modMaster
  repeat' (first
    | with_reducible assumption
    | fail_if_no_progress with_reducible refine Keeps.upd ?_ rfl rfl rfl rfl rfl rfl (by first | exact id | simp +contextual [shapes]))

theorem waited_keeps (m : ℕ) (old : ℕ) (new : ℕ) (s : State) {w0 : State} (h0 : Keeps w0 s) : Keeps w0 (waited m old new s) := by
  unfold waited
  repeat' (first
    | with_reducible assumption
    | with_reducible refine (modMaster_keeps _ _ _ ?_))

theorem granted_keeps (m : ℕ) (bank : ℕ) (wait : ℕ) (s : State) {w0 : State} (h0 : Keeps w0 s) : Keeps w0 (granted m bank wait s) := by
  unfold granted
  repeat' (first
    | with_reducible assumption
    | (extract_lets +onlyGivenNames x; with_reducible refine Keeps.have_ (x := x) ?_ ?_; (on_goal 2 => (clear_value x; intro)); on_goal 1 => subst x)
    | with_reducible refine (modBank_keeps _ _ _ ?_)
    | with_reducible refine (modMaster_keeps _ _ _ ?_)
    | with_reducible refine (raiseF_keeps _ _ _ _ _ ?_)
    | split)

theorem dropClaim_keeps (bank : ℕ) (c : Claim) (s : State) {w0 : State} (h0 : Keeps w0 s) : Keeps w0 (dropClaim bank c s) := by
  unfold dropClaim
  repeat' (first
    | with_reducible assumption
    | with_reducible refine (modBank_keeps _ _ _ ?_))

theorem dmaRequest_keeps (m : ℕ) (w : ℕ) (addr : ℕ) (b : List Byte) (s : State) {w0 : State} (h0 : Keeps w0 s) : Keeps w0 (dmaRequest m w addr b s) := by
  unfold dmaRequest
  repeat' (first
    | with_reducible assumption
    | (extract_lets +onlyGivenNames x; with_reducible refine Keeps.have_ (x := x) ?_ ?_; (on_goal 2 => (clear_value x; intro)); on_goal 1 => subst x)
    | (extract_lets +onlyGivenNames x; clear_value x)
    | with_reducible refine (queueClaim_keeps _ _ ?_)
    | with_reducible refine (waited_keeps _ _ _ _ ?_)
    | with_reducible refine (writeBurst_keeps _ _ _ _ ?_)
    | with_reducible refine (granted_keeps _ _ _ _ ?_)
    | with_reducible refine (dropClaim_keeps _ _ _ ?_)
    | split)

theorem dmaWrite_keeps (m : ℕ) (y1 : ℕ) (y2 : List ℕ) (y3 : ℕ) (y4 : List Byte) (y5 : State) {w0 : State} (h0 : Keeps w0 y5) : Keeps w0 (dmaWrite m y1 y2 y3 y4 y5) := by
  induction y1 generalizing y2 y3 y4 y5 with
  | zero => exact h0
  | succ k ih =>
    unfold dmaWrite
    dsimp only
    split
    · exact h0
    · exact ih _ _ _ _ (dmaRequest_keeps _ _ _ _ _ h0)

theorem rehome_keeps (s : State) {w0 : State} (h0 : Keeps w0 s) : Keeps w0 (rehome s) := by
  unfold rehome
  repeat' (first
    | with_reducible assumption
    | (extract_lets +onlyGivenNames x; with_reducible refine Keeps.have_ (x := x) ?_ ?_; (on_goal 2 => (clear_value x; intro)); on_goal 1 => subst x)
    | (extract_lets +onlyGivenNames x; (first | (have h : @Eq Mem x x := rfl; clear h; subst x) | clear_value x))
    | with_reducible refine (queueClaim_keeps _ _ ?_)
    | (with_reducible refine Keeps.foldl _ ?_ ?_; on_goal 1 => (intros; beta_reduce))
    | split
    | (intro _; intros; beta_reduce)
    | fail_if_no_progress with_reducible refine Keeps.upd ?_ rfl rfl rfl rfl rfl rfl (by first | exact id | simp +contextual [shapes])
    | dsimp only)

theorem checkWord_keeps (bank : ℕ) (row : ℕ) (port : ℕ) (ecc : Ecc) (s : State) {w0 : State} (h0 : Keeps w0 s) : Keeps w0 (checkWord bank row port ecc s).2 := by
  unfold checkWord
  repeat' (first
    | with_reducible assumption
    | (extract_lets +onlyGivenNames x; with_reducible refine Keeps.have_ (x := x) ?_ ?_; (on_goal 2 => (clear_value x; intro)); on_goal 1 => subst x)
    | (extract_lets +onlyGivenNames x; (first | (have h : @Eq Mem x x := rfl; clear h; subst x) | clear_value x))
    | with_reducible refine (raise_keeps _ _ ?_)
    | with_reducible refine (modBank_keeps _ _ _ ?_)
    | with_reducible refine (note_keeps _ _ ?_)
    | split
    | (intro _; intros; beta_reduce)
    | fail_if_no_progress with_reducible refine Keeps.upd ?_ rfl rfl rfl rfl rfl rfl (by first | exact id | simp +contextual [shapes])
    | dsimp only)

end Sys2Proof.Machine
end

