-- ==== Sys2Proof/Laws/KeepsRope.lean ====
section
/-! SUPPORT. For each definition of Machine/Rope.lean that answers a state: the queue stays as it is and the memories stay canonical. -/

namespace Sys2Proof.Machine

theorem forwardPacket_keeps (p : Path) (r : Rx) (s : State) {w0 : State} (h0 : Keeps w0 s) : Keeps w0 (forwardPacket p r s) := by
  unfold forwardPacket
  repeat' (first
    | with_reducible assumption
    | (extract_lets +onlyGivenNames x; with_reducible refine Keeps.have_ (x := x) ?_ ?_; (on_goal 2 => (clear_value x; intro)); on_goal 1 => subst x)
    | (extract_lets +onlyGivenNames x; (first | (have h : x = (fun _ => _) := rfl; subst x; beta_reduce) | (have h : x = (fun _ _ => _) := rfl; subst x; beta_reduce) | clear_value x))
    | split
    | fail_if_no_progress with_reducible refine Keeps.upd ?_ rfl rfl rfl rfl rfl rfl (by first | exact id | simp +contextual [shapes])
    | dsimp only)

theorem packetError_keeps (p : Path) (s : State) {w0 : State} (h0 : Keeps w0 s) : Keeps w0 (packetError p s) := by
  unfold packetError
  repeat' (first
    | with_reducible assumption
    | (extract_lets +onlyGivenNames x; clear_value x)
    | with_reducible refine (note_keeps _ _ ?_))

theorem invalidPacket_keeps (p : Path) (s : State) {w0 : State} (h0 : Keeps w0 s) : Keeps w0 (invalidPacket p s) := by
  unfold invalidPacket
  repeat' (first
    | with_reducible assumption
    | with_reducible refine (packetError_keeps _ _ ?_)
    | with_reducible refine (modPath_keeps _ _ _ ?_))

theorem refusePacket_keeps (p : Path) (r : Rx) (s : State) {w0 : State} (h0 : Keeps w0 s) : Keeps w0 (refusePacket p r s) := by
  unfold refusePacket
  repeat' (first
    | with_reducible assumption
    | (extract_lets +onlyGivenNames x; with_reducible refine Keeps.have_ (x := x) ?_ ?_; (on_goal 2 => (clear_value x; intro)); on_goal 1 => subst x)
    | with_reducible refine (invalidPacket_keeps _ _ ?_)
    | with_reducible refine (breakFrame_keeps _ _ _ _ ?_)
    | split)

theorem cutFrame_keeps (p : Path) (type : ℕ) (chan : ℕ) (s : State) {w0 : State} (h0 : Keeps w0 s) : Keeps w0 (cutFrame p type chan s) := by
  unfold cutFrame
  repeat' (first
    | with_reducible assumption
    | (extract_lets +onlyGivenNames x; clear_value x)
    | with_reducible refine (breakFrame_keeps _ _ _ _ ?_)
    | split)

theorem cutPacket_keeps (p : Path) (r : Rx) (abort : Bool) (s : State) {w0 : State} (h0 : Keeps w0 s) : Keeps w0 (cutPacket p r abort s) := by
  unfold cutPacket
  repeat' (first
    | with_reducible assumption
    | (extract_lets +onlyGivenNames x; with_reducible refine Keeps.have_ (x := x) ?_ ?_; (on_goal 2 => (clear_value x; intro)); on_goal 1 => subst x)
    | (extract_lets +onlyGivenNames x; clear_value x)
    | with_reducible refine (refusePacket_keeps _ _ _ ?_)
    | with_reducible refine (modPath_keeps _ _ _ ?_)
    | with_reducible refine (packetError_keeps _ _ ?_)
    | with_reducible refine (cutFrame_keeps _ _ _ _ ?_)
    | split)

theorem keepRest_keeps (p : Path) (r : Rx) (s : State) {w0 : State} (h0 : Keeps w0 s) : Keeps w0 (keepRest p r s) := by
  unfold keepRest
  repeat' (first
    | with_reducible assumption
    | (extract_lets +onlyGivenNames x; with_reducible refine Keeps.have_ (x := x) ?_ ?_; (on_goal 2 => (clear_value x; intro)); on_goal 1 => subst x)
    | with_reducible refine (modPath_keeps _ _ _ ?_)
    | with_reducible refine (packetError_keeps _ _ ?_)
    | split)

theorem onPacket_keeps (p : Path) (cols : List (List LaneWord)) (kind : Rx → Bool) (act : Rx → State → State) (s : State) {w0 : State} (h0 : Keeps w0 s) (h_act : ∀ r a x, Keeps r x → Keeps r (act a x)) : Keeps w0 (onPacket p cols kind act s) := by
  unfold onPacket
  repeat' (first
    | with_reducible assumption
    | (extract_lets +onlyGivenNames x; with_reducible refine Keeps.have_ (x := x) ?_ ?_; (on_goal 2 => (clear_value x; intro)); on_goal 1 => subst x)
    | (extract_lets +onlyGivenNames x; (first | (have h : x = (fun _ => _) := rfl; subst x; beta_reduce) | (have h : x = (fun _ _ => _) := rfl; subst x; beta_reduce) | clear_value x))
    | with_reducible refine (takeColumns_keeps _ _ _ ?_)
    | with_reducible refine (forwardPacket_keeps _ _ _ ?_)
    | with_reducible refine (keepRest_keeps _ _ _ ?_)
    | with_reducible refine (h_act _ _ ?_)
    | with_reducible refine (h_act _ _ _ ?_)
    | with_reducible refine (h_act _ _ _ _ ?_)
    | split
    | dsimp only)

theorem countPacket_keeps (p : Path) (s : State) {w0 : State} (h0 : Keeps w0 s) : Keeps w0 (countPacket p s) := by
  unfold countPacket
  repeat' (first
    | with_reducible assumption
    | with_reducible refine (modPath_keeps _ _ _ ?_))

theorem takePacket_keeps (p : Path) (r : Rx) (act : State → State) (s : State) {w0 : State} (h0 : Keeps w0 s) (h_act : ∀ r x, Keeps r x → Keeps r (act x)) : Keeps w0 (takePacket p r act s) := by
  unfold takePacket
  repeat' (first
    | with_reducible assumption
    | (extract_lets +onlyGivenNames x; with_reducible refine Keeps.have_ (x := x) ?_ ?_; (on_goal 2 => (clear_value x; intro)); on_goal 1 => subst x)
    | with_reducible refine (countPacket_keeps _ _ ?_)
    | with_reducible refine (refusePacket_keeps _ _ _ ?_)
    | with_reducible refine (h_act _ _ ?_)
    | with_reducible refine (h_act _ _ _ ?_)
    | with_reducible refine (h_act _ _ _ _ ?_)
    | split)

theorem strayPacket_keeps (p : Path) (s : State) {w0 : State} (h0 : Keeps w0 s) : Keeps w0 (strayPacket p s) := by
  unfold strayPacket
  repeat' (first
    | with_reducible assumption
    | with_reducible refine (modPath_keeps _ _ _ ?_))

theorem rejectFrame_keeps (chan : ℕ) (f : Layer → Layer) (s : State) {w0 : State} (h0 : Keeps w0 s) : Keeps w0 (rejectFrame chan f s) := by
  unfold rejectFrame
  repeat' (first
    | with_reducible assumption
    | with_reducible refine (modLayer_keeps _ _ _ ?_))

theorem judgeFrame_keeps (chan : ℕ) (crc : ℕ) (alive : ℕ) (errSyms : ℕ) (s : State) {w0 : State} (h0 : Keeps w0 s) : Keeps w0 (judgeFrame chan crc alive errSyms s) := by
  unfold judgeFrame
  repeat' (first
    | with_reducible assumption
    | (extract_lets +onlyGivenNames x; with_reducible refine Keeps.have_ (x := x) ?_ ?_; (on_goal 2 => (clear_value x; intro)); on_goal 1 => subst x)
    | (extract_lets +onlyGivenNames x; clear_value x)
    | with_reducible refine (modLayer_keeps _ _ _ ?_)
    | with_reducible refine (rejectFrame_keeps _ _ _ ?_)
    | with_reducible refine (statusDue_keeps _ _ _ _ ?_)
    | with_reducible refine (noteF_keeps _ _ _ _ _ ?_)
    | with_reducible refine (note_keeps _ _ ?_)
    | split)

theorem takeEnd_keeps (path : Path) (r : Rx) (s : State) {w0 : State} (h0 : Keeps w0 s) : Keeps w0 (takeEnd path r s) := by
  unfold takeEnd
  repeat' (first
    | with_reducible assumption
    | (extract_lets +onlyGivenNames x; with_reducible refine Keeps.have_ (x := x) ?_ ?_; (on_goal 2 => (clear_value x; intro)); on_goal 1 => subst x)
    | (extract_lets +onlyGivenNames x; clear_value x)
    | with_reducible refine (strayPacket_keeps _ _ ?_)
    | with_reducible refine (guCaptureSource_keeps _ _ ?_)
    | with_reducible refine (breakFrame_keeps _ _ _ _ ?_)
    | with_reducible refine (judgeFrame_keeps _ _ _ _ _ ?_)
    | split)

theorem execFrameEnd_keeps (path : Path) (cols : List (List LaneWord)) (s : State) {w0 : State} (h0 : Keeps w0 s) : KeepsRes w0 (execFrameEnd path cols s) := by
  unfold execFrameEnd
  repeat' (first
    | with_reducible assumption
    | with_reducible refine KeepsRes.next ?_
    | with_reducible refine (onPacket_keeps _ _ _ _ _ ?_ ?_)
    | with_reducible refine (takePacket_keeps _ _ _ _ ?_ ?_)
    | with_reducible refine (takeEnd_keeps _ _ _ ?_)
    | split
    | (intro _; intros; beta_reduce)
    | dsimp only)

theorem markBuffer_keeps (path : Path) (bufBytes : ℕ) (s : State) {w0 : State} (h0 : Keeps w0 s) : Keeps w0 (markBuffer path bufBytes s) := by
  unfold markBuffer
  repeat' (first
    | with_reducible assumption
    | with_reducible refine (modPath_keeps _ _ _ ?_))

theorem overflow_keeps (path : Path) (r : Rx) (s : State) {w0 : State} (h0 : Keeps w0 s) : Keeps w0 (overflow path r s) := by
  unfold overflow
  repeat' (first
    | with_reducible assumption
    | (extract_lets +onlyGivenNames x; with_reducible refine Keeps.have_ (x := x) ?_ ?_; (on_goal 2 => (clear_value x; intro)); on_goal 1 => subst x)
    | (extract_lets +onlyGivenNames x; clear_value x)
    | with_reducible refine (modPath_keeps _ _ _ ?_)
    | with_reducible refine (raiseF_keeps _ _ _ _ _ ?_)
    | with_reducible refine (breakFrame_keeps _ _ _ _ ?_)
    | split)

theorem takeLine_keeps (path : Path) (chan : ℕ) (line : ℕ) (offset : ℕ) (body : List Byte) (codeErrs : ℕ) (waits : List ℕ) (s : State) {w0 : State} (h0 : Keeps w0 s) : Keeps w0 (takeLine path chan line offset body codeErrs waits s) := by
  unfold takeLine
  repeat' (first
    | with_reducible assumption
    | (extract_lets +onlyGivenNames x; with_reducible refine Keeps.have_ (x := x) ?_ ?_; (on_goal 2 => (clear_value x; intro)); on_goal 1 => subst x)
    | (extract_lets +onlyGivenNames x; clear_value x)
    | with_reducible refine (dmaWrite_keeps _ _ _ _ _ _ ?_)
    | with_reducible refine (modLayer_keeps _ _ _ ?_)
    | with_reducible refine (modPath_keeps _ _ _ ?_)
    | with_reducible refine (guFeedSource_keeps _ _ _ ?_))

theorem takeData_keeps (path : Path) (r : Rx) (waits : List ℕ) (s : State) {w0 : State} (h0 : Keeps w0 s) : Keeps w0 (takeData path r waits s) := by
  unfold takeData
  repeat' (first
    | with_reducible assumption
    | (extract_lets +onlyGivenNames x; clear_value x)
    | with_reducible refine (strayPacket_keeps _ _ ?_)
    | with_reducible refine (breakFrame_keeps _ _ _ _ ?_)
    | with_reducible refine (takeLine_keeps _ _ _ _ _ _ _ _ ?_)
    | split)

theorem execLineData_keeps (path : Path) (cols : List (List LaneWord)) (bufBytes : ℕ) (waits : List ℕ) (s : State) {w0 : State} (h0 : Keeps w0 s) : KeepsRes w0 (execLineData path cols bufBytes waits s) := by
  unfold execLineData
  repeat' (first
    | with_reducible assumption
    | (extract_lets +onlyGivenNames x; with_reducible refine KeepsRes.have_ (x := x) ?_ ?_; (on_goal 2 => (clear_value x; intro)); on_goal 1 => subst x)
    | (extract_lets +onlyGivenNames x; with_reducible refine Keeps.have_ (x := x) ?_ ?_; (on_goal 2 => (clear_value x; intro)); on_goal 1 => subst x)
    | (extract_lets +onlyGivenNames x; clear_value x)
    | with_reducible refine KeepsRes.next ?_
    | with_reducible refine (onPacket_keeps _ _ _ _ _ ?_ ?_)
    | with_reducible refine (markBuffer_keeps _ _ _ ?_)
    | with_reducible refine (overflow_keeps _ _ _ ?_)
    | with_reducible refine (takePacket_keeps _ _ _ _ ?_ ?_)
    | with_reducible refine (takeData_keeps _ _ _ _ ?_)
    | split
    | (intro _; intros; beta_reduce)
    | dsimp only)

theorem startFrame_keeps (chan : ℕ) (fence : ℕ) (s : State) {w0 : State} (h0 : Keeps w0 s) : Keeps w0 (startFrame chan fence s) := by
  unfold startFrame
  repeat' (first
    | with_reducible assumption
    | (extract_lets +onlyGivenNames x; with_reducible refine Keeps.have_ (x := x) ?_ ?_; (on_goal 2 => (clear_value x; intro)); on_goal 1 => subst x)
    | (extract_lets +onlyGivenNames x; clear_value x)
    | with_reducible refine (noteF_keeps _ _ _ _ _ ?_)
    | with_reducible refine (modLayer_keeps _ _ _ ?_)
    | with_reducible refine (guStartSource_keeps _ _ ?_)
    | split)

theorem takeStart_keeps (path : Path) (h : List Byte) (s : State) {w0 : State} (h0 : Keeps w0 s) : Keeps w0 (takeStart path h s) := by
  unfold takeStart
  repeat' (first
    | with_reducible assumption
    | (extract_lets +onlyGivenNames x; clear_value x)
    | with_reducible refine (modLayer_keeps _ _ _ ?_)
    | with_reducible refine (breakFrame_keeps _ _ _ _ ?_)
    | with_reducible refine (startFrame_keeps _ _ _ ?_)
    | split)

theorem execFrameStart_keeps (path : Path) (cols : List (List LaneWord)) (s : State) {w0 : State} (h0 : Keeps w0 s) : KeepsRes w0 (execFrameStart path cols s) := by
  unfold execFrameStart
  repeat' (first
    | with_reducible assumption
    | with_reducible refine KeepsRes.next ?_
    | with_reducible refine (onPacket_keeps _ _ _ _ _ ?_ ?_)
    | with_reducible refine (takePacket_keeps _ _ _ _ ?_ ?_)
    | with_reducible refine (takeStart_keeps _ _ _ ?_)
    | split
    | (intro _; intros; beta_reduce)
    | dsimp only)

theorem execFenceTimeout_keeps (n : ℕ) (s : State) {w0 : State} (h0 : Keeps w0 s) : KeepsRes w0 (execFenceTimeout n s) := by
  unfold execFenceTimeout
  repeat' (first
    | with_reducible assumption
    | (extract_lets +onlyGivenNames x; with_reducible refine KeepsRes.have_ (x := x) ?_ ?_; (on_goal 2 => (clear_value x; intro)); on_goal 1 => subst x)
    | (extract_lets +onlyGivenNames x; with_reducible refine Keeps.have_ (x := x) ?_ ?_; (on_goal 2 => (clear_value x; intro)); on_goal 1 => subst x)
    | (extract_lets +onlyGivenNames x; (first | (have h : @Eq Cmp x x := rfl; clear h; subst x) | clear_value x))
    | with_reducible refine KeepsRes.guarded ?_
    | with_reducible refine (guarded_keeps _ _ ?_)
    | with_reducible refine (modLayer_keeps _ _ _ ?_)
    | with_reducible refine (raiseF_keeps _ _ _ _ _ ?_)
    | split
    | (intro _; intros; beta_reduce)
    | fail_if_no_progress with_reducible refine Keeps.upd ?_ rfl rfl rfl rfl rfl rfl (by first | exact id | simp +contextual [shapes])
    | dsimp only)

theorem execBackBufferReady_keeps (n : ℕ) (s : State) {w0 : State} (h0 : Keeps w0 s) : KeepsRes w0 (execBackBufferReady n s) := by
  unfold execBackBufferReady
  repeat' (first
    | with_reducible assumption
    | with_reducible refine KeepsRes.guarded ?_
    | with_reducible refine (guarded_keeps _ _ ?_)
    | with_reducible refine (modLayer_keeps _ _ _ ?_)
    | split)

theorem execPacketForward_keeps (s : State) {w0 : State} (h0 : Keeps w0 s) : KeepsRes w0 (execPacketForward s) := by
  unfold execPacketForward
  repeat' (first
    | with_reducible assumption
    | (extract_lets +onlyGivenNames x; with_reducible refine KeepsRes.have_ (x := x) ?_ ?_; (on_goal 2 => (clear_value x; intro)); on_goal 1 => subst x)
    | (extract_lets +onlyGivenNames x; with_reducible refine Keeps.have_ (x := x) ?_ ?_; (on_goal 2 => (clear_value x; intro)); on_goal 1 => subst x)
    | (extract_lets +onlyGivenNames x; clear_value x)
    | with_reducible refine KeepsRes.next ?_
    | with_reducible refine (sendSyms_keeps _ _ _ ?_)
    | split
    | fail_if_no_progress with_reducible refine Keeps.upd ?_ rfl rfl rfl rfl rfl rfl (by first | exact id | simp +contextual [shapes])
    | dsimp only)

theorem discard_keeps (p : Path) (bufBytes : ℕ) (r : Rx) (s : State) {w0 : State} (h0 : Keeps w0 s) : Keeps w0 (discard p bufBytes r s) := by
  unfold discard
  repeat' (first
    | with_reducible assumption
    | (extract_lets +onlyGivenNames x; with_reducible refine Keeps.have_ (x := x) ?_ ?_; (on_goal 2 => (clear_value x; intro)); on_goal 1 => subst x)
    | (extract_lets +onlyGivenNames x; clear_value x)
    | with_reducible refine (markBuffer_keeps _ _ _ ?_)
    | with_reducible refine (overflow_keeps _ _ _ ?_)
    | with_reducible refine (packetError_keeps _ _ ?_)
    | with_reducible refine (modPath_keeps _ _ _ ?_)
    | with_reducible refine (cutPacket_keeps _ _ _ _ ?_)
    | with_reducible refine (takePacket_keeps _ _ _ _ ?_ ?_)
    | split
    | (intro _; intros; beta_reduce)
    | fail_if_no_progress with_reducible refine Keeps.upd ?_ rfl rfl rfl rfl rfl rfl (by first | exact id | simp +contextual [shapes])
    | dsimp only)

theorem execPacketDiscard_keeps (path : Path) (cols : List (List LaneWord)) (bufBytes : ℕ) (s : State) {w0 : State} (h0 : Keeps w0 s) : KeepsRes w0 (execPacketDiscard path cols bufBytes s) := by
  unfold execPacketDiscard
  repeat' (first
    | with_reducible assumption
    | with_reducible refine KeepsRes.next ?_
    | with_reducible refine (onPacket_keeps _ _ _ _ _ ?_ ?_)
    | with_reducible refine (discard_keeps _ _ _ _ ?_)
    | (intro _; intros; beta_reduce)
    | dsimp only)

theorem sendStatus_keeps (reason : ℕ) (layer : ℕ) (outcome : ℕ) (s : State) {w0 : State} (h0 : Keeps w0 s) : Keeps w0 (sendStatus reason layer outcome s) := by
  unfold sendStatus
  repeat' (first
    | with_reducible assumption
    | (extract_lets +onlyGivenNames x; with_reducible refine Keeps.have_ (x := x) ?_ ?_; (on_goal 2 => (clear_value x; intro)); on_goal 1 => subst x)
    | (extract_lets +onlyGivenNames x; clear_value x)
    | with_reducible refine (sendPacket_keeps _ _ _ _ _ _ ?_)
    | fail_if_no_progress with_reducible refine Keeps.upd ?_ rfl rfl rfl rfl rfl rfl (by first | exact id | simp +contextual [shapes])
    | dsimp only)

theorem execStatusSend_keeps (s : State) {w0 : State} (h0 : Keeps w0 s) : KeepsRes w0 (execStatusSend s) := by
  unfold execStatusSend
  repeat' (first
    | with_reducible assumption
    | (extract_lets +onlyGivenNames x; with_reducible refine KeepsRes.have_ (x := x) ?_ ?_; (on_goal 2 => (clear_value x; intro)); on_goal 1 => subst x)
    | (extract_lets +onlyGivenNames x; with_reducible refine Keeps.have_ (x := x) ?_ ?_; (on_goal 2 => (clear_value x; intro)); on_goal 1 => subst x)
    | (extract_lets +onlyGivenNames x; clear_value x)
    | with_reducible refine KeepsRes.next ?_
    | with_reducible refine (sendStatus_keeps _ _ _ _ ?_)
    | (split; with_reducible refine KeepsRes.triple_ ‹_ = (_, _, _)› ?_ ?_; on_goal 2 => intro)
    | (split; with_reducible refine Keeps.triple_ ‹_ = (_, _, _)› ?_ ?_; on_goal 2 => intro)
    | split
    | fail_if_no_progress with_reducible refine Keeps.upd ?_ rfl rfl rfl rfl rfl rfl (by first | exact id | simp +contextual [shapes])
    | dsimp only)

end Sys2Proof.Machine
end

