-- ==== Sys2Proof/Laws/KeepsLayers.lean ====
section
/-! SUPPORT. For each definition of Machine/Layers.lean that answers a state: the queue stays as it is and the memories stay canonical. -/

namespace Sys2Proof.Machine

theorem modSig_keeps (r : ℕ) (f : Sig → Sig) (s : State) {w0 : State} (h0 : Keeps w0 s) : Keeps w0 (modSig r f s) := by
  unfold modSig
  repeat' (first
    | with_reducible assumption
    | fail_if_no_progress with_reducible refine Keeps.upd ?_ rfl rfl rfl rfl rfl rfl (by first | exact id | simp +contextual [shapes]))

theorem judgeStale_keeps (n : ℕ) (s : State) {w0 : State} (h0 : Keeps w0 s) : Keeps w0 (judgeStale n s) := by
  unfold judgeStale
  repeat' (first
    | with_reducible assumption
    | (extract_lets +onlyGivenNames x; with_reducible refine Keeps.have_ (x := x) ?_ ?_; (on_goal 2 => (clear_value x; intro)); on_goal 1 => subst x)
    | (extract_lets +onlyGivenNames x; (first | (have h : x = (fun _ => _) := rfl; subst x; beta_reduce) | (have h : x = (fun _ _ => _) := rfl; subst x; beta_reduce) | clear_value x))
    | with_reducible refine (modLayer_keeps _ _ _ ?_)
    | with_reducible refine (noteF_keeps _ _ _ _ _ ?_)
    | with_reducible refine (condOff_keeps _ _ _ ?_)
    | with_reducible refine (condOn_keeps _ _ _ ?_)
    | split
    | (intro _; intros; beta_reduce)
    | fail_if_no_progress with_reducible refine Keeps.upd ?_ rfl rfl rfl rfl rfl rfl (by first | exact id | simp +contextual [shapes])
    | dsimp only)

theorem execLoadCoeffs_keeps (rq : Rq) (s : State) {w0 : State} (h0 : Keeps w0 s) : KeepsRes w0 (execLoadCoeffs rq s) := by
  unfold execLoadCoeffs
  repeat' (first
    | with_reducible assumption
    | (extract_lets +onlyGivenNames x; with_reducible refine KeepsRes.have_ (x := x) ?_ ?_; (on_goal 2 => (clear_value x; intro)); on_goal 1 => subst x)
    | (extract_lets +onlyGivenNames x; with_reducible refine Keeps.have_ (x := x) ?_ ?_; (on_goal 2 => (clear_value x; intro)); on_goal 1 => subst x)
    | (extract_lets +onlyGivenNames x; (first | (have h : @Eq Scl x x := rfl; clear h; subst x) | clear_value x))
    | with_reducible refine (request_keeps _ _ _ _ _ _ _ ?_ ?_)
    | with_reducible refine (rep_keeps _ _ ?_)
    | (split; with_reducible refine KeepsRes.pair_ ‹_ = (_, _)› ?_ ?_; on_goal 2 => intro)
    | (split; with_reducible refine Keeps.pair_ ‹_ = (_, _)› ?_ ?_; on_goal 2 => intro)
    | split
    | (intro _; intros; beta_reduce)
    | fail_if_no_progress with_reducible refine Keeps.upd ?_ rfl rfl rfl rfl rfl rfl (by first | exact id | simp +contextual [shapes])
    | dsimp only)

theorem releaseBack_keeps (s : State) (n : ℕ) {w0 : State} (h0 : Keeps w0 s) : Keeps w0 (releaseBack s n) := by
  unfold releaseBack
  repeat' (first
    | with_reducible assumption
    | with_reducible refine (modLayer_keeps _ _ _ ?_))

theorem signalFences_keeps (ids : List ℕ) (s : State) {w0 : State} (h0 : Keeps w0 s) : Keeps w0 (signalFences ids s).2.2 := by
  unfold signalFences
  repeat' (first
    | with_reducible assumption
    | (extract_lets +onlyGivenNames x; with_reducible refine Keeps.have_ (x := x) ?_ ?_; (on_goal 2 => (clear_value x; intro)); on_goal 1 => subst x)
    | (extract_lets +onlyGivenNames x; (first | (have h : @Eq Cmp x x := rfl; clear h; subst x) | clear_value x))
    | with_reducible refine (releaseBack_keeps _ _ ?_)
    | (with_reducible refine Keeps.foldl _ ?_ ?_; on_goal 1 => (intros; beta_reduce))
    | split
    | (intro _; intros; beta_reduce)
    | fail_if_no_progress with_reducible refine Keeps.upd ?_ rfl rfl rfl rfl rfl rfl (by first | exact id | simp +contextual [shapes])
    | dsimp only)

theorem execFenceSignal_keeps (rq : Rq) (s : State) {w0 : State} (h0 : Keeps w0 s) : KeepsRes w0 (execFenceSignal rq s) := by
  unfold execFenceSignal
  repeat' (first
    | with_reducible assumption
    | (extract_lets +onlyGivenNames x; with_reducible refine KeepsRes.have_ (x := x) ?_ ?_; (on_goal 2 => (clear_value x; intro)); on_goal 1 => subst x)
    | (extract_lets +onlyGivenNames x; with_reducible refine Keeps.have_ (x := x) ?_ ?_; (on_goal 2 => (clear_value x; intro)); on_goal 1 => subst x)
    | (extract_lets +onlyGivenNames x; clear_value x)
    | with_reducible refine (request_keeps _ _ _ _ _ _ _ ?_ ?_)
    | with_reducible refine (rep_keeps _ _ ?_)
    | with_reducible refine (signalFences_keeps _ _ ?_)
    | with_reducible refine (repOk_keeps _ _ ?_)
    | (split; with_reducible refine KeepsRes.pair_ ‹_ = (_, _)› ?_ ?_; on_goal 2 => intro)
    | (split; with_reducible refine Keeps.pair_ ‹_ = (_, _)› ?_ ?_; on_goal 2 => intro)
    | (split; with_reducible refine KeepsRes.triple_ ‹_ = (_, _, _)› ?_ ?_; on_goal 2 => intro)
    | (split; with_reducible refine Keeps.triple_ ‹_ = (_, _, _)› ?_ ?_; on_goal 2 => intro)
    | split
    | (intro _; intros; beta_reduce)
    | dsimp only)

theorem execLoadLut_keeps (rq : Rq) (s : State) {w0 : State} (h0 : Keeps w0 s) : KeepsRes w0 (execLoadLut rq s) := by
  unfold execLoadLut
  repeat' (first
    | with_reducible assumption
    | (extract_lets +onlyGivenNames x; with_reducible refine KeepsRes.have_ (x := x) ?_ ?_; (on_goal 2 => (clear_value x; intro)); on_goal 1 => subst x)
    | (extract_lets +onlyGivenNames x; with_reducible refine Keeps.have_ (x := x) ?_ ?_; (on_goal 2 => (clear_value x; intro)); on_goal 1 => subst x)
    | (extract_lets +onlyGivenNames x; (first | (have h : @Eq Cmp x x := rfl; clear h; subst x) | clear_value x))
    | with_reducible refine (request_keeps _ _ _ _ _ _ _ ?_ ?_)
    | with_reducible refine (rep_keeps _ _ ?_)
    | (split; with_reducible refine KeepsRes.pair_ ‹_ = (_, _)› ?_ ?_; on_goal 2 => intro)
    | (split; with_reducible refine Keeps.pair_ ‹_ = (_, _)› ?_ ?_; on_goal 2 => intro)
    | split
    | (intro _; intros; beta_reduce)
    | fail_if_no_progress with_reducible refine Keeps.upd ?_ rfl rfl rfl rfl rfl rfl (by first | exact id | simp +contextual [shapes])
    | dsimp only)

theorem startLayer_keeps (n : ℕ) (s : State) {w0 : State} (h0 : Keeps w0 s) : Keeps w0 (startLayer n s) := by
  unfold startLayer
  repeat' (first
    | with_reducible assumption
    | with_reducible refine (modLayer_keeps _ _ _ ?_)
    | with_reducible refine (condOff_keeps _ _ _ ?_))

theorem signatureRegion_keeps (rq : Rq) (s : State) {w0 : State} (h0 : Keeps w0 s) : KeepsRes w0 (signatureRegion rq s) := by
  unfold signatureRegion
  repeat' (first
    | with_reducible assumption
    | (extract_lets +onlyGivenNames x; with_reducible refine KeepsRes.have_ (x := x) ?_ ?_; (on_goal 2 => (clear_value x; intro)); on_goal 1 => subst x)
    | (extract_lets +onlyGivenNames x; with_reducible refine Keeps.have_ (x := x) ?_ ?_; (on_goal 2 => (clear_value x; intro)); on_goal 1 => subst x)
    | (extract_lets +onlyGivenNames x; clear_value x)
    | with_reducible refine (request_keeps _ _ _ _ _ _ _ ?_ ?_)
    | with_reducible refine (rep_keeps _ _ ?_)
    | with_reducible refine (modSig_keeps _ _ _ ?_)
    | split
    | (intro _; intros; beta_reduce)
    | fail_if_no_progress with_reducible refine Keeps.upd ?_ rfl rfl rfl rfl rfl rfl (by first | exact id | simp +contextual [shapes])
    | dsimp only)

theorem execSignatureRegionConfigure_keeps (rq : Rq) (s : State) {w0 : State} (h0 : Keeps w0 s) : KeepsRes w0 (execSignatureRegionConfigure rq s) := by
  unfold execSignatureRegionConfigure
  repeat' (first
    | with_reducible assumption
    | with_reducible refine (signatureRegion_keeps _ _ ?_))

theorem applySig_keeps (r : ℕ) (s : State) {w0 : State} (h0 : Keeps w0 s) : Keeps w0 (applySig r s) := by
  unfold applySig
  repeat' (first
    | with_reducible assumption
    | with_reducible refine (modSig_keeps _ _ _ ?_)
    | with_reducible refine (condOff_keeps _ _ _ ?_)
    | split)

theorem latchLayer_keeps (n : ℕ) (s : State) {w0 : State} (h0 : Keeps w0 s) : Keeps w0 (latchLayer n s) := by
  unfold latchLayer
  repeat' (first
    | with_reducible assumption
    | (extract_lets +onlyGivenNames x; with_reducible refine Keeps.have_ (x := x) ?_ ?_; (on_goal 2 => (clear_value x; intro)); on_goal 1 => subst x)
    | with_reducible refine (modLayer_keeps _ _ _ ?_)
    | with_reducible refine (condOff_keeps _ _ _ ?_)
    | split)

theorem applySigs_keeps (bind : ℕ) (s : State) {w0 : State} (h0 : Keeps w0 s) : Keeps w0 (applySigs bind s) := by
  unfold applySigs
  repeat' (first
    | with_reducible assumption
    | with_reducible refine (applySig_keeps _ _ ?_)
    | (with_reducible refine Keeps.foldl _ ?_ ?_; on_goal 1 => (intros; beta_reduce))
    | split
    | (intro _; intros; beta_reduce)
    | dsimp only)

theorem flipLayer_keeps (n : ℕ) (s : State) {w0 : State} (h0 : Keeps w0 s) : Keeps w0 (flipLayer n s) := by
  unfold flipLayer
  repeat' (first
    | with_reducible assumption
    | (extract_lets +onlyGivenNames x; with_reducible refine Keeps.have_ (x := x) ?_ ?_; (on_goal 2 => (clear_value x; intro)); on_goal 1 => subst x)
    | with_reducible refine (modLayer_keeps _ _ _ ?_)
    | with_reducible refine (condOff_keeps _ _ _ ?_)
    | with_reducible refine (applySigs_keeps _ _ ?_))

theorem latchTables_keeps (s : State) {w0 : State} (h0 : Keeps w0 s) : Keeps w0 (latchTables s) := by
  unfold latchTables
  repeat' (first
    | with_reducible assumption
    | fail_if_no_progress with_reducible refine Keeps.upd ?_ rfl rfl rfl rfl rfl rfl (by first | exact id | simp +contextual [shapes]))

theorem modGroup_keeps (g : ℕ) (f : Group → Group) (s : State) {w0 : State} (h0 : Keeps w0 s) : Keeps w0 (modGroup g f s) := by
  unfold modGroup
  repeat' (first
    | with_reducible assumption
    | fail_if_no_progress with_reducible refine Keeps.upd ?_ rfl rfl rfl rfl rfl rfl (by first | exact id | simp +contextual [shapes]))

theorem dropArm_keeps (g : ℕ) (status : ℕ) (s : State) {w0 : State} (h0 : Keeps w0 s) : Keeps w0 (dropArm g status s) := by
  unfold dropArm
  repeat' (first
    | with_reducible assumption
    | with_reducible refine (completeOpen_keeps _ _ _ _ _ ?_)
    | with_reducible refine (modGroup_keeps _ _ _ ?_)
    | split)

theorem flipGroup_keeps (rq : Rq) (s : State) {w0 : State} (h0 : Keeps w0 s) : KeepsRes w0 (flipGroup rq s) := by
  unfold flipGroup
  repeat' (first
    | with_reducible assumption
    | (extract_lets +onlyGivenNames x; with_reducible refine KeepsRes.have_ (x := x) ?_ ?_; (on_goal 2 => (clear_value x; intro)); on_goal 1 => subst x)
    | (extract_lets +onlyGivenNames x; with_reducible refine Keeps.have_ (x := x) ?_ ?_; (on_goal 2 => (clear_value x; intro)); on_goal 1 => subst x)
    | (extract_lets +onlyGivenNames x; (first | (have h : x = (fun _ => _) := rfl; subst x; beta_reduce) | (have h : x = (fun _ _ => _) := rfl; subst x; beta_reduce) | clear_value x))
    | with_reducible refine (request_keeps _ _ _ _ _ _ _ ?_ ?_)
    | with_reducible refine (rep_keeps _ _ ?_)
    | with_reducible refine (modGroup_keeps _ _ _ ?_)
    | with_reducible refine (dropArm_keeps _ _ _ ?_)
    | with_reducible refine (accept_keeps _ _ ?_ ?_)
    | (split; with_reducible refine KeepsRes.pair_ ‹_ = (_, _)› ?_ ?_; on_goal 2 => intro)
    | (split; with_reducible refine Keeps.pair_ ‹_ = (_, _)› ?_ ?_; on_goal 2 => intro)
    | split
    | (intro _; intros; beta_reduce)
    | fail_if_no_progress with_reducible refine Keeps.upd ?_ rfl rfl rfl rfl rfl rfl (by first | exact id | simp +contextual [shapes])
    | dsimp only)

theorem latchConfigs_keeps (s : State) {w0 : State} (h0 : Keeps w0 s) : Keeps w0 (latchConfigs s) := by
  unfold latchConfigs
  repeat' (first
    | with_reducible assumption
    | (extract_lets +onlyGivenNames x; with_reducible refine Keeps.have_ (x := x) ?_ ?_; (on_goal 2 => (clear_value x; intro)); on_goal 1 => subst x)
    | (extract_lets +onlyGivenNames x; (first | (have h : @Eq Cmp x x := rfl; clear h; subst x) | clear_value x))
    | with_reducible refine (latchLayer_keeps _ _ ?_)
    | with_reducible refine (applySigs_keeps _ _ ?_)
    | (with_reducible refine Keeps.foldl _ ?_ ?_; on_goal 1 => (intros; beta_reduce))
    | split
    | (intro _; intros; beta_reduce)
    | fail_if_no_progress with_reducible refine Keeps.upd ?_ rfl rfl rfl rfl rfl rfl (by first | exact id | simp +contextual [shapes])
    | dsimp only)

theorem stopLayer_keeps (n : ℕ) (s : State) {w0 : State} (h0 : Keeps w0 s) : Keeps w0 (stopLayer n s) := by
  unfold stopLayer
  repeat' (first
    | with_reducible assumption
    | with_reducible refine (modLayer_keeps _ _ _ ?_))

theorem execLayerEnable_keeps (rq : Rq) (s : State) {w0 : State} (h0 : Keeps w0 s) : KeepsRes w0 (execLayerEnable rq s) := by
  unfold execLayerEnable
  repeat' (first
    | with_reducible assumption
    | (extract_lets +onlyGivenNames x; with_reducible refine KeepsRes.have_ (x := x) ?_ ?_; (on_goal 2 => (clear_value x; intro)); on_goal 1 => subst x)
    | (extract_lets +onlyGivenNames x; with_reducible refine Keeps.have_ (x := x) ?_ ?_; (on_goal 2 => (clear_value x; intro)); on_goal 1 => subst x)
    | (extract_lets +onlyGivenNames x; clear_value x)
    | with_reducible refine (request_keeps _ _ _ _ _ _ _ ?_ ?_)
    | with_reducible refine (rep_keeps _ _ ?_)
    | with_reducible refine (startLayer_keeps _ _ ?_)
    | with_reducible refine (stopLayer_keeps _ _ ?_)
    | (with_reducible refine Keeps.foldl _ ?_ ?_; on_goal 1 => (intros; beta_reduce))
    | split
    | (intro _; intros; beta_reduce)
    | dsimp only)

theorem execFlipGroupConfigure_keeps (rq : Rq) (s : State) {w0 : State} (h0 : Keeps w0 s) : KeepsRes w0 (execFlipGroupConfigure rq s) := by
  unfold execFlipGroupConfigure
  repeat' (first
    | with_reducible assumption
    | with_reducible refine (flipGroup_keeps _ _ ?_))

theorem execSignatureRegionDisable_keeps (rq : Rq) (s : State) {w0 : State} (h0 : Keeps w0 s) : KeepsRes w0 (execSignatureRegionDisable rq s) := by
  unfold execSignatureRegionDisable
  repeat' (first
    | with_reducible assumption
    | with_reducible refine (signatureRegion_keeps _ _ ?_))

theorem decideGroup_keeps (enabled : ℕ) (ready : ℕ) (c : ℕ × State) (g : ℕ) {w0 : State} (h0 : Keeps w0 c.2) : Keeps w0 (decideGroup enabled ready c g).2 := by
  unfold decideGroup
  repeat' (first
    | with_reducible assumption
    | (extract_lets +onlyGivenNames x; clear_value x)
    | with_reducible refine (dropArm_keeps _ _ _ ?_)
    | with_reducible refine (complete_keeps _ _ _ _ _ _ _ ?_)
    | with_reducible refine (modGroup_keeps _ _ _ ?_)
    | split)

theorem decideFlips_keeps (s : State) {w0 : State} (h0 : Keeps w0 s) : Keeps w0 (decideFlips s).2 := by
  unfold decideFlips
  repeat' (first
    | with_reducible assumption
    | (extract_lets +onlyGivenNames x; with_reducible refine Keeps.have_ (x := x) ?_ ?_; (on_goal 2 => (clear_value x; intro)); on_goal 1 => subst x)
    | (extract_lets +onlyGivenNames x; clear_value x)
    | with_reducible refine (decideGroup_keeps _ _ _ _ ?_)
    | (with_reducible refine Keeps.foldl _ ?_ ?_; on_goal 1 => (intros; beta_reduce))
    | (with_reducible refine Keeps.foldl2 _ _ ?_ ?_; on_goal 1 => (intros; beta_reduce))
    | (with_reducible refine Keeps.foldl3 _ _ ?_ ?_; on_goal 1 => (intros; beta_reduce))
    | (split; with_reducible refine Keeps.pair_ ‹_ = (_, _)› ?_ ?_; on_goal 2 => intro)
    | split
    | (intro _; intros; beta_reduce)
    | dsimp only)

theorem repeatLayer_keeps (n : ℕ) (s : State) {w0 : State} (h0 : Keeps w0 s) : Keeps w0 (repeatLayer n s) := by
  unfold repeatLayer
  repeat' (first
    | with_reducible assumption
    | with_reducible refine (modLayer_keeps _ _ _ ?_)
    | split)

theorem latchFlips_keeps (s : State) {w0 : State} (h0 : Keeps w0 s) : Keeps w0 (latchFlips s) := by
  unfold latchFlips
  repeat' (first
    | with_reducible assumption
    | (extract_lets +onlyGivenNames x; with_reducible refine Keeps.have_ (x := x) ?_ ?_; (on_goal 2 => (clear_value x; intro)); on_goal 1 => subst x)
    | (extract_lets +onlyGivenNames x; clear_value x)
    | with_reducible refine (decideFlips_keeps _ ?_)
    | with_reducible refine (flipLayer_keeps _ _ ?_)
    | with_reducible refine (repeatLayer_keeps _ _ ?_)
    | with_reducible refine (judgeStale_keeps _ _ ?_)
    | (with_reducible refine Keeps.foldl _ ?_ ?_; on_goal 1 => (intros; beta_reduce))
    | (split; with_reducible refine Keeps.pair_ ‹_ = (_, _)› ?_ ?_; on_goal 2 => intro)
    | split
    | (intro _; intros; beta_reduce)
    | dsimp only)

theorem execLayerConfig_keeps (rq : Rq) (s : State) {w0 : State} (h0 : Keeps w0 s) : KeepsRes w0 (execLayerConfig rq s) := by
  unfold execLayerConfig
  repeat' (first
    | with_reducible assumption
    | (extract_lets +onlyGivenNames x; with_reducible refine KeepsRes.have_ (x := x) ?_ ?_; (on_goal 2 => (clear_value x; intro)); on_goal 1 => subst x)
    | (extract_lets +onlyGivenNames x; with_reducible refine Keeps.have_ (x := x) ?_ ?_; (on_goal 2 => (clear_value x; intro)); on_goal 1 => subst x)
    | (extract_lets +onlyGivenNames x; clear_value x)
    | with_reducible refine (request_keeps _ _ _ _ _ _ _ ?_ ?_)
    | with_reducible refine (rep_keeps _ _ ?_)
    | with_reducible refine (modLayer_keeps _ _ _ ?_)
    | split
    | (intro _; intros; beta_reduce)
    | fail_if_no_progress with_reducible refine Keeps.upd ?_ rfl rfl rfl rfl rfl rfl (by first | exact id | simp +contextual [shapes])
    | dsimp only)

theorem execFlipGroupArm_keeps (rq : Rq) (s : State) {w0 : State} (h0 : Keeps w0 s) : KeepsRes w0 (execFlipGroupArm rq s) := by
  unfold execFlipGroupArm
  repeat' (first
    | with_reducible assumption
    | with_reducible refine (flipGroup_keeps _ _ ?_))

end Sys2Proof.Machine
end

