-- ==== Sys2Proof/Laws/KeepsEngines.lean ====
section
/-! SUPPORT. For each definition of Machine/Engines.lean that answers a state: the queue stays as it is and the memories stay canonical. -/

namespace Sys2Proof.Machine

theorem dealTiles_keeps (s : State) {w0 : State} (h0 : Keeps w0 s) : Keeps w0 (dealTiles s) := by
  unfold dealTiles
  repeat' (first
    | with_reducible assumption
    | split
    | fail_if_no_progress with_reducible refine Keeps.upd ?_ rfl rfl rfl rfl rfl rfl (by first | exact id | simp +contextual [shapes]))

theorem modEng_keeps (e : ℕ) (f : Engine → Engine) (s : State) {w0 : State} (h0 : Keeps w0 s) : Keeps w0 (modEng e f s) := by
  unfold modEng
  repeat' (first
    | with_reducible assumption
    | fail_if_no_progress with_reducible refine Keeps.upd ?_ rfl rfl rfl rfl rfl rfl (by first | exact id | simp +contextual [shapes]))

theorem steal_keeps (e : ℕ) (victim : ℕ) (s : State) {w0 : State} (h0 : Keeps w0 s) : Keeps w0 (steal e victim s) := by
  unfold steal
  repeat' (first
    | with_reducible assumption
    | (extract_lets +onlyGivenNames x; with_reducible refine Keeps.have_ (x := x) ?_ ?_; (on_goal 2 => (clear_value x; intro)); on_goal 1 => subst x)
    | (extract_lets +onlyGivenNames x; clear_value x)
    | with_reducible refine (modEng_keeps _ _ _ ?_))

theorem modComp_keeps (f : Compose → Compose) (s : State) {w0 : State} (h0 : Keeps w0 s) : Keeps w0 (modComp f s) := by
  unfold modComp
  repeat' (first
    | with_reducible assumption
    | (extract_lets +onlyGivenNames x; with_reducible refine Keeps.have_ (x := x) ?_ ?_; (on_goal 2 => (clear_value x; intro)); on_goal 1 => subst x)
    | (extract_lets +onlyGivenNames x; (first | (have h : @Eq Scl x x := rfl; clear h; subst x) | clear_value x))
    | fail_if_no_progress with_reducible refine Keeps.upd ?_ rfl rfl rfl rfl rfl rfl (by first | exact id | simp +contextual [shapes])
    | dsimp only)

theorem execSigReadbackTile_keeps (tile : ℕ) (diff : List (ℕ × ℕ)) (s : State) {w0 : State} (h0 : Keeps w0 s) : KeepsRes w0 (execSigReadbackTile tile diff s) := by
  unfold execSigReadbackTile
  repeat' (first
    | with_reducible assumption
    | (extract_lets +onlyGivenNames x; clear_value x)
    | with_reducible refine KeepsRes.guarded ?_
    | with_reducible refine (guarded_keeps _ _ ?_)
    | with_reducible refine (modComp_keeps _ _ ?_)
    | split)

theorem retireTile_keeps (e : ℕ) (t : ℕ) (clocks : ℕ) (stall : ℕ) (s : State) {w0 : State} (h0 : Keeps w0 s) : Keeps w0 (retireTile e t clocks stall s) := by
  unfold retireTile
  repeat' (first
    | with_reducible assumption
    | (extract_lets +onlyGivenNames x; with_reducible refine Keeps.have_ (x := x) ?_ ?_; (on_goal 2 => (clear_value x; intro)); on_goal 1 => subst x)
    | (extract_lets +onlyGivenNames x; clear_value x)
    | with_reducible refine (modEng_keeps _ _ _ ?_)
    | with_reducible refine (modComp_keeps _ _ ?_)
    | (with_reducible refine Keeps.foldl _ ?_ ?_; on_goal 1 => (intros; beta_reduce))
    | (split; with_reducible refine Keeps.pair_ ‹_ = (_, _)› ?_ ?_; on_goal 2 => intro)
    | split
    | (intro _; intros; beta_reduce)
    | fail_if_no_progress with_reducible refine Keeps.upd ?_ rfl rfl rfl rfl rfl rfl (by first | exact id | simp +contextual [shapes])
    | dsimp only)

theorem flushStats_keeps (ok : Bool) (clocks : ℕ) (outMax : List ℕ) (s : State) {w0 : State} (h0 : Keeps w0 s) : Keeps w0 (flushStats ok clocks outMax s) := by
  unfold flushStats
  repeat' (first
    | with_reducible assumption
    | (extract_lets +onlyGivenNames x; with_reducible refine Keeps.have_ (x := x) ?_ ?_; (on_goal 2 => (clear_value x; intro)); on_goal 1 => subst x)
    | (extract_lets +onlyGivenNames x; (first | (have h : @Eq Scl x x := rfl; clear h; subst x) | clear_value x))
    | split
    | fail_if_no_progress with_reducible refine Keeps.upd ?_ rfl rfl rfl rfl rfl rfl (by first | exact id | simp +contextual [shapes])
    | dsimp only)

theorem stopEngines_keeps (s : State) {w0 : State} (h0 : Keeps w0 s) : Keeps w0 (stopEngines s) := by
  unfold stopEngines
  repeat' (first
    | with_reducible assumption
    | split
    | fail_if_no_progress with_reducible refine Keeps.upd ?_ rfl rfl rfl rfl rfl rfl (by first | exact id | simp +contextual [shapes]))

theorem abandoned_keeps (l : List ℕ) (p : ℕ) (s : State) {w0 : State} (h0 : Keeps w0 s) : Keeps w0 (abandoned l p s).2 := by
  unfold abandoned
  repeat' (first
    | with_reducible assumption
    | (extract_lets +onlyGivenNames x; clear_value x)
    | with_reducible refine (takeFree_keeps _ ?_))

theorem countAbandoned_keeps (e : ℕ) (t : ℕ) (s : State) {w0 : State} (h0 : Keeps w0 s) : Keeps w0 (countAbandoned e t s) := by
  unfold countAbandoned
  repeat' (first
    | with_reducible assumption
    | (extract_lets +onlyGivenNames x; with_reducible refine Keeps.have_ (x := x) ?_ ?_; (on_goal 2 => (clear_value x; intro)); on_goal 1 => subst x)
    | (extract_lets +onlyGivenNames x; (first | (have h : x = (fun _ => _) := rfl; subst x; beta_reduce) | (have h : x = (fun _ _ => _) := rfl; subst x; beta_reduce) | clear_value x))
    | with_reducible refine (abandoned_keeps _ _ _ ?_)
    | with_reducible refine (modComp_keeps _ _ ?_)
    | with_reducible refine (modEng_keeps _ _ _ ?_)
    | (with_reducible refine Keeps.foldl _ ?_ ?_; on_goal 1 => (intros; beta_reduce))
    | (split; with_reducible refine Keeps.pair_ ‹_ = (_, _)› ?_ ?_; on_goal 2 => intro)
    | split
    | (intro _; intros; beta_reduce)
    | fail_if_no_progress with_reducible refine Keeps.upd ?_ rfl rfl rfl rfl rfl rfl (by first | exact id | simp +contextual [shapes])
    | dsimp only)

theorem countPartial_keeps (s : State) (y1 : PartTile) {w0 : State} (h0 : Keeps w0 s) : Keeps w0 (countPartial s y1) := by
  unfold countPartial
  repeat' (first
    | with_reducible assumption
    | (extract_lets +onlyGivenNames x; with_reducible refine Keeps.have_ (x := x) ?_ ?_; (on_goal 2 => (clear_value x; intro)); on_goal 1 => subst x)
    | with_reducible refine (countAbandoned_keeps _ _ _ ?_)
    | with_reducible refine (modEng_keeps _ _ _ ?_)
    | with_reducible refine (modComp_keeps _ _ ?_)
    | split)

theorem flushOk_keeps (s : State) {w0 : State} (h0 : Keeps w0 s) : Keeps w0 (flushOk s) := by
  unfold flushOk
  repeat' (first
    | with_reducible assumption
    | (extract_lets +onlyGivenNames x; with_reducible refine Keeps.have_ (x := x) ?_ ?_; (on_goal 2 => (clear_value x; intro)); on_goal 1 => subst x)
    | (extract_lets +onlyGivenNames x; clear_value x)
    | with_reducible refine (noteF_keeps _ _ _ _ _ ?_)
    | split
    | fail_if_no_progress with_reducible refine Keeps.upd ?_ rfl rfl rfl rfl rfl rfl (by first | exact id | simp +contextual [shapes])
    | dsimp only)

theorem flushMiss_keeps (s : State) {w0 : State} (h0 : Keeps w0 s) : Keeps w0 (flushMiss s) := by
  unfold flushMiss
  repeat' (first
    | with_reducible assumption
    | (extract_lets +onlyGivenNames x; with_reducible refine Keeps.have_ (x := x) ?_ ?_; (on_goal 2 => (clear_value x; intro)); on_goal 1 => subst x)
    | (extract_lets +onlyGivenNames x; (first | (have h : @Eq Scl x x := rfl; clear h; subst x) | clear_value x))
    | with_reducible refine (condOn_keeps _ _ _ ?_)
    | with_reducible refine (noteF_keeps _ _ _ _ _ ?_)
    | split
    | fail_if_no_progress with_reducible refine Keeps.upd ?_ rfl rfl rfl rfl rfl rfl (by first | exact id | simp +contextual [shapes])
    | dsimp only)

theorem execMapperFlushPoint_keeps (clocks : ℕ) (outMax : List ℕ) (part : List PartTile) (s : State) {w0 : State} (h0 : Keeps w0 s) : KeepsRes w0 (execMapperFlushPoint clocks outMax part s) := by
  unfold execMapperFlushPoint
  repeat' (first
    | with_reducible assumption
    | (extract_lets +onlyGivenNames x; with_reducible refine KeepsRes.have_ (x := x) ?_ ?_; (on_goal 2 => (clear_value x; intro)); on_goal 1 => subst x)
    | (extract_lets +onlyGivenNames x; with_reducible refine Keeps.have_ (x := x) ?_ ?_; (on_goal 2 => (clear_value x; intro)); on_goal 1 => subst x)
    | (extract_lets +onlyGivenNames x; clear_value x)
    | with_reducible refine KeepsRes.guarded ?_
    | with_reducible refine (guarded_keeps _ _ ?_)
    | with_reducible refine (stopEngines_keeps _ ?_)
    | with_reducible refine (flushStats_keeps _ _ _ _ ?_)
    | with_reducible refine (countPartial_keeps _ _ ?_)
    | with_reducible refine (flushOk_keeps _ ?_)
    | with_reducible refine (flushMiss_keeps _ ?_)
    | (with_reducible refine Keeps.foldl _ ?_ ?_; on_goal 1 => (intros; beta_reduce))
    | split
    | (intro _; intros; beta_reduce)
    | dsimp only)

theorem nextTile_keeps (e : ℕ) (near : Option ℕ) (far : Option ℕ) (s : State) {w0 : State} (h0 : Keeps w0 s) : Keeps w0 (nextTile e near far s) := by
  unfold nextTile
  repeat' (first
    | with_reducible assumption
    | (extract_lets +onlyGivenNames x; clear_value x)
    | with_reducible refine (modEng_keeps _ _ _ ?_)
    | with_reducible refine (steal_keeps _ _ _ ?_)
    | with_reducible refine (modComp_keeps _ _ ?_)
    | split)

theorem execTileRetired_keeps (e : ℕ) (clocks : ℕ) (stall : ℕ) (s : State) {w0 : State} (h0 : Keeps w0 s) : KeepsRes w0 (execTileRetired e clocks stall s) := by
  unfold execTileRetired
  repeat' (first
    | with_reducible assumption
    | with_reducible refine KeepsRes.guarded ?_
    | with_reducible refine (guarded_keeps _ _ ?_)
    | with_reducible refine (retireTile_keeps _ _ _ _ _ ?_)
    | with_reducible refine (countAbandoned_keeps _ _ _ ?_)
    | split)

theorem execEngineNextTile_keeps (e : ℕ) (near : Option ℕ) (far : Option ℕ) (s : State) {w0 : State} (h0 : Keeps w0 s) : KeepsRes w0 (execEngineNextTile e near far s) := by
  unfold execEngineNextTile
  repeat' (first
    | with_reducible assumption
    | with_reducible refine KeepsRes.guarded ?_
    | with_reducible refine (guarded_keeps _ _ ?_)
    | with_reducible refine (nextTile_keeps _ _ _ _ ?_)
    | split)

theorem chooseProbes_keeps (s : State) {w0 : State} (h0 : Keeps w0 s) : Keeps w0 (chooseProbes s) := by
  unfold chooseProbes
  repeat' (first
    | with_reducible assumption
    | (extract_lets +onlyGivenNames x; with_reducible refine Keeps.have_ (x := x) ?_ ?_; (on_goal 2 => (clear_value x; intro)); on_goal 1 => subst x)
    | (extract_lets +onlyGivenNames x; (first | (have h : @Eq Diag x x := rfl; clear h; subst x) | clear_value x))
    | (with_reducible refine Keeps.foldl _ ?_ ?_; on_goal 1 => (intros; beta_reduce))
    | (with_reducible refine Keeps.foldl2 _ _ ?_ ?_; on_goal 1 => (intros; beta_reduce))
    | (with_reducible refine Keeps.foldl3 _ _ ?_ ?_; on_goal 1 => (intros; beta_reduce))
    | split
    | (intro _; intros; beta_reduce)
    | fail_if_no_progress with_reducible refine Keeps.upd ?_ rfl rfl rfl rfl rfl rfl (by first | exact id | simp +contextual [shapes])
    | dsimp only)

end Sys2Proof.Machine
end

