-- ==== Sys2Proof/Laws/KeepsFtimer.lean ====
section
/-! SUPPORT. For each definition of Machine/Ftimer.lean that answers a state: the queue stays as it is and the memories stay canonical. -/

namespace Sys2Proof.Machine

theorem modFt_keeps (f : Ftimer → Ftimer) (s : State) {w0 : State} (h0 : Keeps w0 s) : Keeps w0 (modFt f s) := by
  unfold modFt
  repeat' (first
    | with_reducible assumption
    | (extract_lets +onlyGivenNames x; with_reducible refine Keeps.have_ (x := x) ?_ ?_; (on_goal 2 => (clear_value x; intro)); on_goal 1 => subst x)
    | (extract_lets +onlyGivenNames x; clear_value x)
    | fail_if_no_progress with_reducible refine Keeps.upd ?_ rfl rfl rfl rfl rfl rfl (by first | exact id | simp +contextual [shapes])
    | dsimp only)

theorem switchSrc_keeps (src : ℕ) (s : State) {w0 : State} (h0 : Keeps w0 s) : Keeps w0 (switchSrc src s) := by
  unfold switchSrc
  repeat' (first
    | with_reducible assumption
    | with_reducible refine (modFt_keeps _ _ ?_))

theorem latchLead_keeps (s : State) {w0 : State} (h0 : Keeps w0 s) : Keeps w0 (latchLead s) := by
  unfold latchLead
  repeat' (first
    | with_reducible assumption
    | with_reducible refine (modFt_keeps _ _ ?_))

theorem latchTimer_keeps (s : State) {w0 : State} (h0 : Keeps w0 s) : Keeps w0 (latchTimer s) := by
  unfold latchTimer
  repeat' (first
    | with_reducible assumption
    | (extract_lets +onlyGivenNames x; with_reducible refine Keeps.have_ (x := x) ?_ ?_; (on_goal 2 => (clear_value x; intro)); on_goal 1 => subst x)
    | with_reducible refine (switchSrc_keeps _ _ ?_)
    | with_reducible refine (modFt_keeps _ _ ?_)
    | split)

theorem enterHoldover_keeps (s : State) {w0 : State} (h0 : Keeps w0 s) : Keeps w0 (enterHoldover s) := by
  unfold enterHoldover
  repeat' (first
    | with_reducible assumption
    | (extract_lets +onlyGivenNames x; with_reducible refine Keeps.have_ (x := x) ?_ ?_; (on_goal 2 => (clear_value x; intro)); on_goal 1 => subst x)
    | with_reducible refine (modFt_keeps _ _ ?_)
    | with_reducible refine (raiseF_keeps _ _ _ _ _ ?_))

theorem execScanCycleStart_keeps (s : State) {w0 : State} (h0 : Keeps w0 s) : KeepsRes w0 (execScanCycleStart s) := by
  unfold execScanCycleStart
  repeat' (first
    | with_reducible assumption
    | (extract_lets +onlyGivenNames x; with_reducible refine KeepsRes.have_ (x := x) ?_ ?_; (on_goal 2 => (clear_value x; intro)); on_goal 1 => subst x)
    | (extract_lets +onlyGivenNames x; with_reducible refine Keeps.have_ (x := x) ?_ ?_; (on_goal 2 => (clear_value x; intro)); on_goal 1 => subst x)
    | (extract_lets +onlyGivenNames x; clear_value x)
    | with_reducible refine KeepsRes.next ?_
    | with_reducible refine (modFt_keeps _ _ ?_)
    | with_reducible refine (noteF_keeps _ _ _ _ _ ?_)
    | split
    | (intro _; intros; beta_reduce)
    | fail_if_no_progress with_reducible refine Keeps.upd ?_ rfl rfl rfl rfl rfl rfl (by first | exact id | simp +contextual [shapes])
    | dsimp only)

theorem execHoldoverEntry_keeps (s : State) {w0 : State} (h0 : Keeps w0 s) : KeepsRes w0 (execHoldoverEntry s) := by
  unfold execHoldoverEntry
  repeat' (first
    | with_reducible assumption
    | with_reducible refine KeepsRes.next ?_
    | with_reducible refine (enterHoldover_keeps _ ?_)
    | split)

theorem hardStart_keeps (s : State) {w0 : State} (h0 : Keeps w0 s) : Keeps w0 (hardStart s) := by
  unfold hardStart
  repeat' (first
    | with_reducible assumption
    | with_reducible refine (modFt_keeps _ _ ?_))

theorem reference_keeps (err : ℤ) (s : State) {w0 : State} (h0 : Keeps w0 s) : Keeps w0 (reference err s) := by
  unfold reference
  repeat' (first
    | with_reducible assumption
    | (extract_lets +onlyGivenNames x; with_reducible refine Keeps.have_ (x := x) ?_ ?_; (on_goal 2 => (clear_value x; intro)); on_goal 1 => subst x)
    | (extract_lets +onlyGivenNames x; clear_value x)
    | with_reducible refine (modFt_keeps _ _ ?_)
    | with_reducible refine (hardStart_keeps _ ?_)
    | with_reducible refine (raiseF_keeps _ _ _ _ _ ?_)
    | (split; with_reducible refine Keeps.pair_ ‹_ = (_, _)› ?_ ?_; on_goal 2 => intro)
    | split
    | (intro _; intros; beta_reduce)
    | fail_if_no_progress with_reducible refine Keeps.upd ?_ rfl rfl rfl rfl rfl rfl (by first | exact id | simp +contextual [shapes])
    | dsimp only)

theorem startWithoutReference_keeps (s : State) {w0 : State} (h0 : Keeps w0 s) : Keeps w0 (startWithoutReference s) := by
  unfold startWithoutReference
  repeat' (first
    | with_reducible assumption
    | with_reducible refine (enterHoldover_keeps _ ?_)
    | with_reducible refine (hardStart_keeps _ ?_)
    | split)

theorem execFsyncInEdge_keeps (count : ℕ) (s : State) {w0 : State} (h0 : Keeps w0 s) : KeepsRes w0 (execFsyncInEdge count s) := by
  unfold execFsyncInEdge
  repeat' (first
    | with_reducible assumption
    | with_reducible refine KeepsRes.next ?_
    | with_reducible refine (reference_keeps _ _ ?_)
    | split)

end Sys2Proof.Machine
end

