-- ==== Sys2Proof/Laws/KeepsModes.lean ====
section
/-! SUPPORT. For each definition of Machine/Modes.lean that answers a state: the queue stays as it is and the memories stay canonical. -/

namespace Sys2Proof.Machine

theorem hostSnuff_keeps (y0 : Src) (s : State) {w0 : State} (h0 : Keeps w0 s) : Keeps w0 (hostSnuff y0 s) := by
  unfold hostSnuff
  repeat' (first
    | with_reducible assumption
    | (extract_lets +onlyGivenNames x; with_reducible refine Keeps.have_ (x := x) ?_ ?_; (on_goal 2 => (clear_value x; intro)); on_goal 1 => subst x)
    | with_reducible refine (noteF_keeps _ _ _ _ _ ?_)
    | with_reducible refine (snuff_keeps _ _ _ ?_)
    | with_reducible refine (modClass_keeps _ _ _ ?_))

theorem modeTaken_keeps (s : State) {w0 : State} (h0 : Keeps w0 s) : Keeps w0 (modeTaken s) := by
  unfold modeTaken
  repeat' (first
    | with_reducible assumption
    | with_reducible refine (endBlanking_keeps _ ?_)
    | with_reducible refine (abortCal_keeps _ ?_))

theorem execBlankingEnd_keeps (s : State) {w0 : State} (h0 : Keeps w0 s) : KeepsRes w0 (execBlankingEnd s) := by
  unfold execBlankingEnd
  repeat' (first
    | with_reducible assumption
    | with_reducible refine KeepsRes.next ?_
    | with_reducible refine (endBlanking_keeps _ ?_)
    | split)

theorem execBeamWaitTimeout_keeps (s : State) {w0 : State} (h0 : Keeps w0 s) : KeepsRes w0 (execBeamWaitTimeout s) := by
  unfold execBeamWaitTimeout
  repeat' (first
    | with_reducible assumption
    | with_reducible refine KeepsRes.next ?_
    | with_reducible refine (endPending_keeps _ _ ?_)
    | split)

theorem execHostTimeout_keeps (s : State) {w0 : State} (h0 : Keeps w0 s) : KeepsRes w0 (execHostTimeout s) := by
  unfold execHostTimeout
  repeat' (first
    | with_reducible assumption
    | with_reducible refine KeepsRes.next ?_
    | with_reducible refine (raiseF_keeps _ _ _ _ _ ?_)
    | split)

theorem setModeTo_keeps (m : Mode) (y1 : Src) (s : State) {w0 : State} (h0 : Keeps w0 s) : Keeps w0 (setModeTo m y1 s).2 := by
  unfold setModeTo
  repeat' (first
    | with_reducible assumption
    | (extract_lets +onlyGivenNames x; with_reducible refine Keeps.have_ (x := x) ?_ ?_; (on_goal 2 => (clear_value x; intro)); on_goal 1 => subst x)
    | (extract_lets +onlyGivenNames x; (first | (have h : @Eq Pwr x x := rfl; clear h; subst x) | clear_value x))
    | with_reducible refine (rep_keeps _ _ ?_)
    | with_reducible refine (endPending_keeps _ _ ?_)
    | with_reducible refine (modeTaken_keeps _ ?_)
    | with_reducible refine (hostSnuff_keeps _ _ ?_)
    | with_reducible refine (accept_keeps _ _ ?_ ?_)
    | split
    | (intro _; intros; beta_reduce)
    | fail_if_no_progress with_reducible refine Keeps.upd ?_ rfl rfl rfl rfl rfl rfl (by first | exact id | simp +contextual [shapes])
    | dsimp only)

theorem execSetMode_keeps (rq : Rq) (s : State) {w0 : State} (h0 : Keeps w0 s) : KeepsRes w0 (execSetMode rq s) := by
  unfold execSetMode
  repeat' (first
    | with_reducible assumption
    | (extract_lets +onlyGivenNames x; with_reducible refine KeepsRes.have_ (x := x) ?_ ?_; (on_goal 2 => (clear_value x; intro)); on_goal 1 => subst x)
    | (extract_lets +onlyGivenNames x; with_reducible refine Keeps.have_ (x := x) ?_ ?_; (on_goal 2 => (clear_value x; intro)); on_goal 1 => subst x)
    | (extract_lets +onlyGivenNames x; (first | (have h : x = (fun _ => _) := rfl; subst x; beta_reduce) | (have h : x = (fun _ _ => _) := rfl; subst x; beta_reduce) | clear_value x))
    | with_reducible refine (request_keeps _ _ _ _ _ _ _ ?_ ?_)
    | with_reducible refine (rep_keeps _ _ ?_)
    | with_reducible refine (setModeTo_keeps _ _ _ ?_)
    | split
    | (intro _; intros; beta_reduce)
    | fail_if_no_progress with_reducible refine Keeps.upd ?_ rfl rfl rfl rfl rfl rfl (by first | exact id | simp +contextual [shapes])
    | dsimp only)

theorem decideMode_keeps (s : State) {w0 : State} (h0 : Keeps w0 s) : Keeps w0 (decideMode s) := by
  unfold decideMode
  repeat' (first
    | with_reducible assumption
    | (extract_lets +onlyGivenNames x; with_reducible refine Keeps.have_ (x := x) ?_ ?_; (on_goal 2 => (clear_value x; intro)); on_goal 1 => subst x)
    | (extract_lets +onlyGivenNames x; (first | (have h : @Eq Pwr x x := rfl; clear h; subst x) | clear_value x))
    | split
    | fail_if_no_progress with_reducible refine Keeps.upd ?_ rfl rfl rfl rfl rfl rfl (by first | exact id | simp +contextual [shapes])
    | dsimp only)

end Sys2Proof.Machine
end

