-- ==== Sys2Proof/Laws/KeepsRecorder.lean ====
section
/-! SUPPORT. For each definition of Machine/Recorder.lean that answers a state: the queue stays as it is and the memories stay canonical. -/

namespace Sys2Proof.Machine

theorem logFailure_keeps (cairn : Bool) (addr : ℕ) (f : LogFail) (s : State) {w0 : State} (h0 : Keeps w0 s) : Keeps w0 (logFailure cairn addr f s) := by
  unfold logFailure
  repeat' (first
    | with_reducible assumption
    | (extract_lets +onlyGivenNames x; with_reducible refine Keeps.have_ (x := x) ?_ ?_; (on_goal 2 => (clear_value x; intro)); on_goal 1 => subst x)
    | (extract_lets +onlyGivenNames x; clear_value x)
    | with_reducible refine (raise_keeps _ _ ?_)
    | with_reducible refine (beginScar_keeps _ _ _ _ _ ?_)
    | split
    | (intro _; intros; beta_reduce)
    | fail_if_no_progress with_reducible refine Keeps.upd ?_ rfl rfl rfl rfl rfl rfl (by first | exact id | simp +contextual [shapes])
    | dsimp only)

theorem execRecordsDropped_keeps (s : State) {w0 : State} (h0 : Keeps w0 s) : KeepsRes w0 (execRecordsDropped s) := by
  unfold execRecordsDropped
  repeat' (first
    | with_reducible assumption
    | (extract_lets +onlyGivenNames x; with_reducible refine KeepsRes.have_ (x := x) ?_ ?_; (on_goal 2 => (clear_value x; intro)); on_goal 1 => subst x)
    | (extract_lets +onlyGivenNames x; with_reducible refine Keeps.have_ (x := x) ?_ ?_; (on_goal 2 => (clear_value x; intro)); on_goal 1 => subst x)
    | (extract_lets +onlyGivenNames x; clear_value x)
    | with_reducible refine KeepsRes.next ?_
    | with_reducible refine (raiseWith_keeps _ _ _ ?_)
    | split
    | (intro _; intros; beta_reduce)
    | fail_if_no_progress with_reducible refine Keeps.upd ?_ rfl rfl rfl rfl rfl rfl (by first | exact id | simp +contextual [shapes])
    | dsimp only)

theorem execLogRead_keeps (rq : Rq) (s : State) {w0 : State} (h0 : Keeps w0 s) : KeepsRes w0 (execLogRead rq s) := by
  unfold execLogRead
  repeat' (first
    | with_reducible assumption
    | (extract_lets +onlyGivenNames x; with_reducible refine KeepsRes.have_ (x := x) ?_ ?_; (on_goal 2 => (clear_value x; intro)); on_goal 1 => subst x)
    | (extract_lets +onlyGivenNames x; with_reducible refine Keeps.have_ (x := x) ?_ ?_; (on_goal 2 => (clear_value x; intro)); on_goal 1 => subst x)
    | (extract_lets +onlyGivenNames x; clear_value x)
    | with_reducible refine (request_keeps _ _ _ _ _ _ _ ?_ ?_)
    | with_reducible refine (rep_keeps _ _ ?_)
    | with_reducible refine (repOk_keeps _ _ ?_)
    | with_reducible refine (guFeedSource_keeps _ _ _ ?_)
    | split
    | (intro _; intros; beta_reduce)
    | dsimp only)

theorem execLifetimeStore_keeps (s : State) {w0 : State} (h0 : Keeps w0 s) : KeepsRes w0 (execLifetimeStore s) := by
  unfold execLifetimeStore
  repeat' (first
    | with_reducible assumption
    | with_reducible refine KeepsRes.next ?_
    | with_reducible refine (requestStore_keeps _ _ _ ?_)
    | split)

theorem popHead_keeps (r : Rec) (s : State) {w0 : State} (h0 : Keeps w0 s) : Keeps w0 (popHead r s) := by
  unfold popHead
  repeat' (first
    | with_reducible assumption
    | (extract_lets +onlyGivenNames x; with_reducible refine Keeps.have_ (x := x) ?_ ?_; (on_goal 2 => (clear_value x; intro)); on_goal 1 => subst x)
    | (extract_lets +onlyGivenNames x; clear_value x)
    | with_reducible refine (markCopied_keeps _ _ ?_)
    | split
    | fail_if_no_progress with_reducible refine Keeps.upd ?_ rfl rfl rfl rfl rfl rfl (by first | exact id | simp +contextual [shapes])
    | dsimp only)

theorem deferRing_keeps (s : State) {w0 : State} (h0 : Keeps w0 s) : Keeps w0 (deferRing s) := by
  unfold deferRing
  repeat' (first
    | with_reducible assumption
    | (extract_lets +onlyGivenNames x; with_reducible refine Keeps.have_ (x := x) ?_ ?_; (on_goal 2 => (clear_value x; intro)); on_goal 1 => subst x)
    | (extract_lets +onlyGivenNames x; clear_value x)
    | with_reducible refine (countDefers_keeps _ _ ?_)
    | split
    | fail_if_no_progress with_reducible refine Keeps.upd ?_ rfl rfl rfl rfl rfl rfl (by first | exact id | simp +contextual [shapes])
    | dsimp only)

theorem ringWrite_keeps (cairn : Bool) (slot : ℕ) (r : Rec) (fail : Option LogFail) (s : State) {w0 : State} (h0 : Keeps w0 s) : Keeps w0 (ringWrite cairn slot r fail s) := by
  unfold ringWrite
  repeat' (first
    | with_reducible assumption
    | (extract_lets +onlyGivenNames x; with_reducible refine Keeps.have_ (x := x) ?_ ?_; (on_goal 2 => (clear_value x; intro)); on_goal 1 => subst x)
    | (extract_lets +onlyGivenNames x; clear_value x)
    | with_reducible refine (logFailure_keeps _ _ _ _ ?_)
    | with_reducible refine (openReads_keeps _ ?_)
    | with_reducible refine (guFeedSource_keeps _ _ _ ?_)
    | with_reducible refine (countUnits_keeps _ _ ?_)
    | with_reducible refine (mramWriteBad_keeps _ _ _ ?_)
    | with_reducible refine (mramWrite_keeps _ _ _ ?_)
    | split)

theorem execMainRingWrite_keeps (fail : Option LogFail) (s : State) {w0 : State} (h0 : Keeps w0 s) : KeepsRes w0 (execMainRingWrite fail s) := by
  unfold execMainRingWrite
  repeat' (first
    | with_reducible assumption
    | (extract_lets +onlyGivenNames x; with_reducible refine KeepsRes.have_ (x := x) ?_ ?_; (on_goal 2 => (clear_value x; intro)); on_goal 1 => subst x)
    | (extract_lets +onlyGivenNames x; with_reducible refine Keeps.have_ (x := x) ?_ ?_; (on_goal 2 => (clear_value x; intro)); on_goal 1 => subst x)
    | (extract_lets +onlyGivenNames x; clear_value x)
    | with_reducible refine KeepsRes.next ?_
    | with_reducible refine (deferRing_keeps _ ?_)
    | with_reducible refine (ringWrite_keeps _ _ _ _ _ ?_)
    | with_reducible refine (popHead_keeps _ _ ?_)
    | split
    | fail_if_no_progress with_reducible refine Keeps.upd ?_ rfl rfl rfl rfl rfl rfl (by first | exact id | simp +contextual [shapes])
    | dsimp only)

theorem execOperatingSecondTick_keeps (s : State) {w0 : State} (h0 : Keeps w0 s) : KeepsRes w0 (execOperatingSecondTick s) := by
  unfold execOperatingSecondTick
  repeat' (first
    | with_reducible assumption
    | (extract_lets +onlyGivenNames x; with_reducible refine KeepsRes.have_ (x := x) ?_ ?_; (on_goal 2 => (clear_value x; intro)); on_goal 1 => subst x)
    | (extract_lets +onlyGivenNames x; with_reducible refine Keeps.have_ (x := x) ?_ ?_; (on_goal 2 => (clear_value x; intro)); on_goal 1 => subst x)
    | (extract_lets +onlyGivenNames x; (first | (have h : @Eq Nvm x x := rfl; clear h; subst x) | clear_value x))
    | with_reducible refine KeepsRes.next ?_
    | with_reducible refine (requeueStore_keeps _ _ ?_)
    | (with_reducible refine Keeps.foldl _ ?_ ?_; on_goal 1 => (intros; beta_reduce))
    | split
    | (intro _; intros; beta_reduce)
    | fail_if_no_progress with_reducible refine Keeps.upd ?_ rfl rfl rfl rfl rfl rfl (by first | exact id | simp +contextual [shapes])
    | dsimp only)

theorem execLifetimeSample_keeps (s : State) {w0 : State} (h0 : Keeps w0 s) : KeepsRes w0 (execLifetimeSample s) := by
  unfold execLifetimeSample
  repeat' (first
    | with_reducible assumption
    | (extract_lets +onlyGivenNames x; with_reducible refine KeepsRes.have_ (x := x) ?_ ?_; (on_goal 2 => (clear_value x; intro)); on_goal 1 => subst x)
    | (extract_lets +onlyGivenNames x; with_reducible refine Keeps.have_ (x := x) ?_ ?_; (on_goal 2 => (clear_value x; intro)); on_goal 1 => subst x)
    | (extract_lets +onlyGivenNames x; clear_value x)
    | with_reducible refine KeepsRes.next ?_
    | split
    | fail_if_no_progress with_reducible refine Keeps.upd ?_ rfl rfl rfl rfl rfl rfl (by first | exact id | simp +contextual [shapes])
    | dsimp only)

theorem execHistoRead_keeps (rq : Rq) (s : State) {w0 : State} (h0 : Keeps w0 s) : KeepsRes w0 (execHistoRead rq s) := by
  unfold execHistoRead
  repeat' (first
    | with_reducible assumption
    | (extract_lets +onlyGivenNames x; with_reducible refine KeepsRes.have_ (x := x) ?_ ?_; (on_goal 2 => (clear_value x; intro)); on_goal 1 => subst x)
    | (extract_lets +onlyGivenNames x; with_reducible refine Keeps.have_ (x := x) ?_ ?_; (on_goal 2 => (clear_value x; intro)); on_goal 1 => subst x)
    | (extract_lets +onlyGivenNames x; clear_value x)
    | with_reducible refine (request_keeps _ _ _ _ _ _ _ ?_ ?_)
    | with_reducible refine (rep_keeps _ _ ?_)
    | with_reducible refine (repOk_keeps _ _ ?_)
    | with_reducible refine (guFeedSource_keeps _ _ _ ?_)
    | split
    | (intro _; intros; beta_reduce)
    | dsimp only)

theorem execLogScanComplete_keeps (s : State) {w0 : State} (h0 : Keeps w0 s) : KeepsRes w0 (execLogScanComplete s) := by
  unfold execLogScanComplete
  repeat' (first
    | with_reducible assumption
    | (extract_lets +onlyGivenNames x; with_reducible refine KeepsRes.have_ (x := x) ?_ ?_; (on_goal 2 => (clear_value x; intro)); on_goal 1 => subst x)
    | (extract_lets +onlyGivenNames x; with_reducible refine Keeps.have_ (x := x) ?_ ?_; (on_goal 2 => (clear_value x; intro)); on_goal 1 => subst x)
    | (extract_lets +onlyGivenNames x; (first | (have h : x = (fun _ => _) := rfl; subst x; beta_reduce) | (have h : x = (fun _ _ => _) := rfl; subst x; beta_reduce) | clear_value x))
    | with_reducible refine KeepsRes.next ?_
    | with_reducible refine (openReads_keeps _ ?_)
    | split
    | fail_if_no_progress with_reducible refine Keeps.upd ?_ rfl rfl rfl rfl rfl rfl (by first | exact id | simp +contextual [shapes])
    | dsimp only)

theorem execCairnWrite_keeps (fail : Option LogFail) (s : State) {w0 : State} (h0 : Keeps w0 s) : KeepsRes w0 (execCairnWrite fail s) := by
  unfold execCairnWrite
  repeat' (first
    | with_reducible assumption
    | (extract_lets +onlyGivenNames x; with_reducible refine KeepsRes.have_ (x := x) ?_ ?_; (on_goal 2 => (clear_value x; intro)); on_goal 1 => subst x)
    | (extract_lets +onlyGivenNames x; with_reducible refine Keeps.have_ (x := x) ?_ ?_; (on_goal 2 => (clear_value x; intro)); on_goal 1 => subst x)
    | (extract_lets +onlyGivenNames x; clear_value x)
    | with_reducible refine KeepsRes.next ?_
    | with_reducible refine (deferRing_keeps _ ?_)
    | with_reducible refine (ringWrite_keeps _ _ _ _ _ ?_)
    | with_reducible refine (popHead_keeps _ _ ?_)
    | split
    | fail_if_no_progress with_reducible refine Keeps.upd ?_ rfl rfl rfl rfl rfl rfl (by first | exact id | simp +contextual [shapes])
    | dsimp only)

end Sys2Proof.Machine
end

