-- ==== Sys2Proof/Laws/KeepsLatch.lean ====
section
/-! SUPPORT. For each definition of Machine/Latch.lean that answers a state: the queue stays as it is and the memories stay canonical. -/

namespace Sys2Proof.Machine

theorem knownOrFree_keeps (known : Bool) (v : ℕ) (s : State) {w0 : State} (h0 : Keeps w0 s) : Keeps w0 (knownOrFree known v s).2 := by
  unfold knownOrFree
  repeat' (first
    | with_reducible assumption
    | with_reducible refine (takeFree_keeps _ ?_)
    | split)

theorem execGrefFinal_keeps (s : State) {w0 : State} (h0 : Keeps w0 s) : KeepsRes w0 (execGrefFinal s) := by
  unfold execGrefFinal
  repeat' (first
    | with_reducible assumption
    | (extract_lets +onlyGivenNames x; with_reducible refine KeepsRes.have_ (x := x) ?_ ?_; (on_goal 2 => (clear_value x; intro)); on_goal 1 => subst x)
    | (extract_lets +onlyGivenNames x; with_reducible refine Keeps.have_ (x := x) ?_ ?_; (on_goal 2 => (clear_value x; intro)); on_goal 1 => subst x)
    | (extract_lets +onlyGivenNames x; clear_value x)
    | with_reducible refine KeepsRes.next ?_
    | split
    | fail_if_no_progress with_reducible refine Keeps.upd ?_ rfl rfl rfl rfl rfl rfl (by first | exact id | simp +contextual [shapes])
    | dsimp only)

theorem swapGains_keeps (s : State) {w0 : State} (h0 : Keeps w0 s) : Keeps w0 (swapGains s) := by
  unfold swapGains
  repeat' (first
    | with_reducible assumption
    | (extract_lets +onlyGivenNames x; with_reducible refine Keeps.have_ (x := x) ?_ ?_; (on_goal 2 => (clear_value x; intro)); on_goal 1 => subst x)
    | (extract_lets +onlyGivenNames x; clear_value x)
    | split
    | fail_if_no_progress with_reducible refine Keeps.upd ?_ rfl rfl rfl rfl rfl rfl (by first | exact id | simp +contextual [shapes])
    | dsimp only)

theorem startCompose_keeps (m : Mode) (frame : ℕ) (s : State) {w0 : State} (h0 : Keeps w0 s) : Keeps w0 (startCompose m frame s) := by
  unfold startCompose
  repeat' (first
    | with_reducible assumption
    | (extract_lets +onlyGivenNames x; with_reducible refine Keeps.have_ (x := x) ?_ ?_; (on_goal 2 => (clear_value x; intro)); on_goal 1 => subst x)
    | (extract_lets +onlyGivenNames x; (first | (have h : @Eq Scl x x := rfl; clear h; subst x) | (have h : @Eq Flt x x := rfl; clear h; subst x) | (have h : @Eq Diag x x := rfl; clear h; subst x) | clear_value x))
    | with_reducible refine (dealTiles_keeps _ ?_)
    | with_reducible refine (chooseProbes_keeps _ ?_)
    | with_reducible refine (guStartSource_keeps _ _ ?_)
    | (with_reducible refine Keeps.foldl _ ?_ ?_; on_goal 1 => (intros; beta_reduce))
    | (with_reducible refine Keeps.foldl2 _ _ ?_ ?_; on_goal 1 => (intros; beta_reduce))
    | (with_reducible refine Keeps.foldl3 _ _ ?_ ?_; on_goal 1 => (intros; beta_reduce))
    | (split; with_reducible refine Keeps.triple_ ‹_ = (_, _, _)› ?_ ?_; on_goal 2 => intro)
    | split
    | (intro _; intros; beta_reduce)
    | fail_if_no_progress with_reducible refine Keeps.upd ?_ rfl rfl rfl rfl rfl rfl (by first | exact id | simp +contextual [shapes])
    | dsimp only)

theorem composeLatch_keeps (decide : State → State) (frame : ℕ) (s : State) {w0 : State} (h0 : Keeps w0 s) (h_decide : ∀ r x, Keeps r x → Keeps r (decide x)) : Keeps w0 (composeLatch decide frame s) := by
  unfold composeLatch
  repeat' (first
    | with_reducible assumption
    | (extract_lets +onlyGivenNames x; with_reducible refine Keeps.have_ (x := x) ?_ ?_; (on_goal 2 => (clear_value x; intro)); on_goal 1 => subst x)
    | with_reducible refine (latchConfigs_keeps _ ?_)
    | with_reducible refine (swapGains_keeps _ ?_)
    | with_reducible refine (latchLead_keeps _ ?_)
    | with_reducible refine (latchTables_keeps _ ?_)
    | with_reducible refine (latchFlips_keeps _ ?_)
    | with_reducible refine (startCompose_keeps _ _ _ ?_)
    | with_reducible refine (h_decide _ _ ?_))

theorem execComposeLatch_keeps (s : State) {w0 : State} (h0 : Keeps w0 s) : KeepsRes w0 (execComposeLatch s) := by
  unfold execComposeLatch
  refine KeepsRes.next ?_
  split
  · exact composeLatch_keeps _ _ _ h0 (fun _ x h => decideMode_keeps x h)
  · exact h0

theorem evalSig_keeps (s : State) (r : ℕ) {w0 : State} (h0 : Keeps w0 s) : Keeps w0 (evalSig s r) := by
  unfold evalSig
  repeat' (first
    | with_reducible assumption
    | (extract_lets +onlyGivenNames x; with_reducible refine Keeps.have_ (x := x) ?_ ?_; (on_goal 2 => (clear_value x; intro)); on_goal 1 => subst x)
    | (extract_lets +onlyGivenNames x; clear_value x)
    | with_reducible refine (modSig_keeps _ _ _ ?_)
    | with_reducible refine (knownOrFree_keeps _ _ _ ?_)
    | with_reducible refine (condOn_keeps _ _ _ ?_)
    | with_reducible refine (condOff_keeps _ _ _ ?_)
    | (split; with_reducible refine Keeps.pair_ ‹_ = (_, _)› ?_ ?_; on_goal 2 => intro)
    | split)

theorem guRegionCapture_keeps (s : State) (n : ℕ) {w0 : State} (h0 : Keeps w0 s) : Keeps w0 (guRegionCapture s n) := by
  unfold guRegionCapture
  repeat' (first
    | with_reducible assumption
    | (extract_lets +onlyGivenNames x; clear_value x)
    | with_reducible refine (guCaptureNow_keeps _ _ ?_)
    | split)

theorem judgeOne_keeps (s : State) (y1 : Judged) {w0 : State} (h0 : Keeps w0 s) : Keeps w0 (judgeOne s y1) := by
  rcases y1 with r | n
  · exact evalSig_keeps _ _ h0
  · exact guRegionCapture_keeps _ _ h0

theorem guRegion_keeps (s : State) (r : ℕ) {w0 : State} (h0 : Keeps w0 s) : Keeps w0 (guRegion s r) := by
  unfold guRegion
  repeat' (first
    | with_reducible assumption
    | (extract_lets +onlyGivenNames x; clear_value x)
    | with_reducible refine (guFeedSource_keeps _ _ _ ?_)
    | split)

theorem execSignaturesFinal_keeps (s : State) {w0 : State} (h0 : Keeps w0 s) : KeepsRes w0 (execSignaturesFinal s) := by
  unfold execSignaturesFinal
  repeat' (first
    | with_reducible assumption
    | (extract_lets +onlyGivenNames x; with_reducible refine KeepsRes.have_ (x := x) ?_ ?_; (on_goal 2 => (clear_value x; intro)); on_goal 1 => subst x)
    | (extract_lets +onlyGivenNames x; with_reducible refine Keeps.have_ (x := x) ?_ ?_; (on_goal 2 => (clear_value x; intro)); on_goal 1 => subst x)
    | (extract_lets +onlyGivenNames x; (first | (have h : @Eq Chk x x := rfl; clear h; subst x) | clear_value x))
    | with_reducible refine KeepsRes.next ?_
    | with_reducible refine (guRegion_keeps _ _ ?_)
    | with_reducible refine (judgeOne_keeps _ _ ?_)
    | with_reducible refine (modComp_keeps _ _ ?_)
    | with_reducible refine (closeWindow_keeps _ _ ?_)
    | (with_reducible refine Keeps.foldl _ ?_ ?_; on_goal 1 => (intros; beta_reduce))
    | split
    | (intro _; intros; beta_reduce)
    | fail_if_no_progress with_reducible refine Keeps.upd ?_ rfl rfl rfl rfl rfl rfl (by first | exact id | simp +contextual [shapes])
    | dsimp only)

end Sys2Proof.Machine
end

