-- ==== Sys2Proof/Laws/KeepsLanes.lean ====
section
/-! SUPPORT. For each definition of Machine/Lanes.lean that answers a state: the queue stays as it is and the memories stay canonical. -/

namespace Sys2Proof.Machine

theorem whenLanes_keeps (s : State) (r : Res) {w0 : State} (h0 : Keeps w0 s) (h_r : KeepsRes w0 r) : KeepsRes w0 (whenLanes s r) := by
  unfold whenLanes
  repeat' (first
    | with_reducible assumption
    | with_reducible refine KeepsRes.next ?_
    | with_reducible refine (h_r _ _ ?_)
    | with_reducible refine (h_r _ _ _ ?_)
    | with_reducible refine (h_r _ _ _ _ ?_)
    | split)

theorem modLane_keeps (l : ℕ) (f : Lane → Lane) (s : State) {w0 : State} (h0 : Keeps w0 s) : Keeps w0 (modLane l f s) := by
  unfold modLane
  repeat' (first
    | with_reducible assumption
    | fail_if_no_progress with_reducible refine Keeps.upd ?_ rfl rfl rfl rfl rfl rfl (by first | exact id | simp +contextual [shapes]))

theorem beginAttempt_keeps (l : ℕ) (s : State) {w0 : State} (h0 : Keeps w0 s) : Keeps w0 (beginAttempt l s) := by
  unfold beginAttempt
  repeat' (first
    | with_reducible assumption
    | (extract_lets +onlyGivenNames x; with_reducible refine Keeps.have_ (x := x) ?_ ?_; (on_goal 2 => (clear_value x; intro)); on_goal 1 => subst x)
    | with_reducible refine (modLine_keeps _ _ _ ?_)
    | with_reducible refine (modLane_keeps _ _ _ ?_)
    | split)

theorem setLaneState_keeps (l : ℕ) (st : LaneState) (s : State) {w0 : State} (h0 : Keeps w0 s) : Keeps w0 (setLaneState l st s) := by
  unfold setLaneState
  repeat' (first
    | with_reducible assumption
    | (extract_lets +onlyGivenNames x; with_reducible refine Keeps.have_ (x := x) ?_ ?_; (on_goal 2 => (clear_value x; intro)); on_goal 1 => subst x)
    | (extract_lets +onlyGivenNames x; (first | (have h : @Eq Lnk x x := rfl; clear h; subst x) | clear_value x))
    | with_reducible refine (modLane_keeps _ _ _ ?_)
    | split
    | (intro _; intros; beta_reduce)
    | fail_if_no_progress with_reducible refine Keeps.upd ?_ rfl rfl rfl rfl rfl rfl (by first | exact id | simp +contextual [shapes])
    | dsimp only)

theorem climbOut_keeps (s : State) {w0 : State} (h0 : Keeps w0 s) : Keeps w0 (climbOut s) := by
  unfold climbOut
  repeat' (first
    | with_reducible assumption
    | with_reducible refine (sendSets_keeps _ _ ?_)
    | split)

theorem formBond_keeps (s : State) {w0 : State} (h0 : Keeps w0 s) : Keeps w0 (formBond s) := by
  unfold formBond
  repeat' (first
    | with_reducible assumption
    | (extract_lets +onlyGivenNames x; with_reducible refine Keeps.have_ (x := x) ?_ ?_; (on_goal 2 => (clear_value x; intro)); on_goal 1 => subst x)
    | (extract_lets +onlyGivenNames x; (first | (have h : @Eq Lnk x x := rfl; clear h; subst x) | (have h : x = (fun _ => _) := rfl; subst x; beta_reduce) | (have h : x = (fun _ _ => _) := rfl; subst x; beta_reduce) | clear_value x))
    | with_reducible refine (interrupt_keeps _ _ ?_)
    | with_reducible refine (modLane_keeps _ _ _ ?_)
    | with_reducible refine (setLaneState_keeps _ _ _ ?_)
    | with_reducible refine (climbOut_keeps _ ?_)
    | (with_reducible refine Keeps.foldl _ ?_ ?_; on_goal 1 => (intros; beta_reduce))
    | split
    | (intro _; intros; beta_reduce)
    | fail_if_no_progress with_reducible refine Keeps.upd ?_ rfl rfl rfl rfl rfl rfl (by first | exact id | simp +contextual [shapes])
    | dsimp only)

theorem leaveTraffic_keeps (l : ℕ) (s : State) {w0 : State} (h0 : Keeps w0 s) : Keeps w0 (leaveTraffic l s) := by
  unfold leaveTraffic
  repeat' (first
    | with_reducible assumption
    | (extract_lets +onlyGivenNames x; with_reducible refine Keeps.have_ (x := x) ?_ ?_; (on_goal 2 => (clear_value x; intro)); on_goal 1 => subst x)
    | (extract_lets +onlyGivenNames x; (first | (have h : @Eq Lnk x x := rfl; clear h; subst x) | clear_value x))
    | with_reducible refine (interrupt_keeps _ _ ?_)
    | with_reducible refine (formBond_keeps _ ?_)
    | split
    | fail_if_no_progress with_reducible refine Keeps.upd ?_ rfl rfl rfl rfl rfl rfl (by first | exact id | simp +contextual [shapes])
    | dsimp only)

theorem countRetrain_keeps (l : ℕ) (s : State) {w0 : State} (h0 : Keeps w0 s) : Keeps w0 (countRetrain l s) := by
  unfold countRetrain
  repeat' (first
    | with_reducible assumption
    | (extract_lets +onlyGivenNames x; with_reducible refine Keeps.have_ (x := x) ?_ ?_; (on_goal 2 => (clear_value x; intro)); on_goal 1 => subst x)
    | (extract_lets +onlyGivenNames x; clear_value x)
    | with_reducible refine (modLane_keeps _ _ _ ?_)
    | split
    | (intro _; intros; beta_reduce)
    | fail_if_no_progress with_reducible refine Keeps.upd ?_ rfl rfl rfl rfl rfl rfl (by first | exact id | simp +contextual [shapes])
    | dsimp only)

theorem lowerLane_keeps (l : ℕ) (cause : ℕ) (s : State) {w0 : State} (h0 : Keeps w0 s) : Keeps w0 (lowerLane l cause s) := by
  unfold lowerLane
  repeat' (first
    | with_reducible assumption
    | (extract_lets +onlyGivenNames x; with_reducible refine Keeps.have_ (x := x) ?_ ?_; (on_goal 2 => (clear_value x; intro)); on_goal 1 => subst x)
    | (extract_lets +onlyGivenNames x; (first | (have h : x = (fun _ => _) := rfl; subst x; beta_reduce) | (have h : x = (fun _ _ => _) := rfl; subst x; beta_reduce) | clear_value x))
    | with_reducible refine (modLane_keeps _ _ _ ?_)
    | with_reducible refine (setLaneState_keeps _ _ _ ?_)
    | with_reducible refine (countRetrain_keeps _ _ ?_)
    | (split; with_reducible refine Keeps.pair_ ‹_ = (_, _)› ?_ ?_; on_goal 2 => intro)
    | split
    | (intro _; intros; beta_reduce)
    | fail_if_no_progress with_reducible refine Keeps.upd ?_ rfl rfl rfl rfl rfl rfl (by first | exact id | simp +contextual [shapes])
    | dsimp only)

theorem failLaneWith_keeps (also : List RawEvent) (l : ℕ) (cause : ℕ) (s : State) {w0 : State} (h0 : Keeps w0 s) : Keeps w0 (failLaneWith also l cause s) := by
  unfold failLaneWith
  repeat' (first
    | with_reducible assumption
    | with_reducible refine (leaveTraffic_keeps _ _ ?_)
    | with_reducible refine (raiseAll_keeps _ _ ?_)
    | with_reducible refine (lowerLane_keeps _ _ _ ?_))

theorem failLane_keeps (l : ℕ) (cause : ℕ) (s : State) {w0 : State} (h0 : Keeps w0 s) : Keeps w0 (failLane l cause s) := by
  unfold failLane
  repeat' (first
    | with_reducible assumption
    | with_reducible refine (failLaneWith_keeps _ _ _ _ ?_))

theorem startAttempt_keeps (l : ℕ) (s : State) {w0 : State} (h0 : Keeps w0 s) : Keeps w0 (startAttempt l s) := by
  unfold startAttempt
  repeat' (first
    | with_reducible assumption
    | (extract_lets +onlyGivenNames x; with_reducible refine Keeps.have_ (x := x) ?_ ?_; (on_goal 2 => (clear_value x; intro)); on_goal 1 => subst x)
    | with_reducible refine (beginAttempt_keeps _ _ ?_)
    | with_reducible refine (setLaneState_keeps _ _ _ ?_)
    | with_reducible refine (failLane_keeps _ _ _ ?_)
    | split)

theorem retrain_keeps (l : ℕ) (s : State) {w0 : State} (h0 : Keeps w0 s) : Keeps w0 (retrain l s) := by
  unfold retrain
  repeat' (first
    | with_reducible assumption
    | with_reducible refine (startAttempt_keeps _ _ ?_)
    | with_reducible refine (leaveTraffic_keeps _ _ ?_)
    | with_reducible refine (setLaneState_keeps _ _ _ ?_)
    | with_reducible refine (countRetrain_keeps _ _ ?_))

theorem execAlignmentLost_keeps (l : ℕ) (s : State) {w0 : State} (h0 : Keeps w0 s) : KeepsRes w0 (execAlignmentLost l s) := by
  unfold execAlignmentLost
  repeat' (first
    | with_reducible assumption
    | with_reducible refine KeepsRes.guarded ?_
    | with_reducible refine (whenLanes_keeps _ _ ?_ ?_)
    | with_reducible refine (guarded_keeps _ _ ?_)
    | with_reducible refine (retrain_keeps _ _ ?_)
    | with_reducible refine (modLane_keeps _ _ _ ?_)
    | with_reducible refine (setLaneState_keeps _ _ _ ?_)
    | split)

theorem infoRequest_keeps (s : State) {w0 : State} (h0 : Keeps w0 s) : Keeps w0 (infoRequest s).2 := by
  unfold infoRequest
  repeat' (first
    | with_reducible assumption
    | with_reducible refine (takeFree_keeps _ ?_))

theorem twinUp_keeps (s : State) {w0 : State} (h0 : Keeps w0 s) : Keeps w0 (twinUp s) := by
  unfold twinUp
  repeat' (first
    | with_reducible assumption
    | (extract_lets +onlyGivenNames x; with_reducible refine Keeps.have_ (x := x) ?_ ?_; (on_goal 2 => (clear_value x; intro)); on_goal 1 => subst x)
    | (extract_lets +onlyGivenNames x; clear_value x)
    | with_reducible refine (setLaneState_keeps _ _ _ ?_)
    | with_reducible refine (infoRequest_keeps _ ?_)
    | (split; with_reducible refine Keeps.pair_ ‹_ = (_, _)› ?_ ?_; on_goal 2 => intro)
    | split
    | fail_if_no_progress with_reducible refine Keeps.upd ?_ rfl rfl rfl rfl rfl rfl (by first | exact id | simp +contextual [shapes])
    | dsimp only)

theorem trainLane_keeps (l : ℕ) (ms : ℕ) (s : State) {w0 : State} (h0 : Keeps w0 s) : Keeps w0 (trainLane l ms s) := by
  unfold trainLane
  repeat' (first
    | with_reducible assumption
    | (extract_lets +onlyGivenNames x; with_reducible refine Keeps.have_ (x := x) ?_ ?_; (on_goal 2 => (clear_value x; intro)); on_goal 1 => subst x)
    | (extract_lets +onlyGivenNames x; (first | (have h : @Eq Nvm x x := rfl; clear h; subst x) | clear_value x))
    | with_reducible refine (modLane_keeps _ _ _ ?_)
    | with_reducible refine (twinUp_keeps _ ?_)
    | with_reducible refine (setLaneState_keeps _ _ _ ?_)
    | split
    | (intro _; intros; beta_reduce)
    | fail_if_no_progress with_reducible refine Keeps.upd ?_ rfl rfl rfl rfl rfl rfl (by first | exact id | simp +contextual [shapes])
    | dsimp only)

theorem laneTrained_keeps (l : ℕ) (ms : ℕ) (s : State) {w0 : State} (h0 : Keeps w0 s) : Keeps w0 (laneTrained l ms s) := by
  unfold laneTrained
  repeat' (first
    | with_reducible assumption
    | with_reducible refine (note_keeps _ _ ?_)
    | with_reducible refine (trainLane_keeps _ _ _ ?_))

theorem enteredBond_keeps (l : ℕ) (ms : ℕ) (s : State) {w0 : State} (h0 : Keeps w0 s) : Keeps w0 (enteredBond l ms s) := by
  unfold enteredBond
  repeat' (first
    | with_reducible assumption
    | (extract_lets +onlyGivenNames x; with_reducible refine Keeps.have_ (x := x) ?_ ?_; (on_goal 2 => (clear_value x; intro)); on_goal 1 => subst x)
    | with_reducible refine (modLane_keeps _ _ _ ?_)
    | with_reducible refine (laneTrained_keeps _ _ _ ?_)
    | with_reducible refine (formBond_keeps _ ?_)
    | split)

theorem eyePoints_keeps (e : EyeRun) (errors : List ℕ) (s : State) {w0 : State} (h0 : Keeps w0 s) : Keeps w0 (eyePoints e errors s) := by
  unfold eyePoints
  repeat' (first
    | with_reducible assumption
    | (extract_lets +onlyGivenNames x; with_reducible refine Keeps.have_ (x := x) ?_ ?_; (on_goal 2 => (clear_value x; intro)); on_goal 1 => subst x)
    | (extract_lets +onlyGivenNames x; (first | (have h : @Eq Lnk x x := rfl; clear h; subst x) | clear_value x))
    | split
    | (intro _; intros; beta_reduce)
    | fail_if_no_progress with_reducible refine Keeps.upd ?_ rfl rfl rfl rfl rfl rfl (by first | exact id | simp +contextual [shapes])
    | dsimp only)

theorem eyeResult_keeps (e : EyeRun) (s : State) {w0 : State} (h0 : Keeps w0 s) : Keeps w0 (eyeResult e s).2.2 := by
  unfold eyeResult
  extract_lets l free w h
  dsimp only
  split
  · exact h0
  · exact takeFree_keeps s h0

theorem execEyeScanComplete_keeps (errors : List ℕ) (s : State) {w0 : State} (h0 : Keeps w0 s) : KeepsRes w0 (execEyeScanComplete errors s) := by
  unfold execEyeScanComplete
  repeat' (first
    | with_reducible assumption
    | (extract_lets +onlyGivenNames x; with_reducible refine KeepsRes.have_ (x := x) ?_ ?_; (on_goal 2 => (clear_value x; intro)); on_goal 1 => subst x)
    | (extract_lets +onlyGivenNames x; with_reducible refine Keeps.have_ (x := x) ?_ ?_; (on_goal 2 => (clear_value x; intro)); on_goal 1 => subst x)
    | (extract_lets +onlyGivenNames x; (first | (have h : @Eq Lnk x x := rfl; clear h; subst x) | (have h : x = (fun _ => _) := rfl; subst x; beta_reduce) | (have h : x = (fun _ _ => _) := rfl; subst x; beta_reduce) | clear_value x))
    | with_reducible refine KeepsRes.next ?_
    | with_reducible refine (whenLanes_keeps _ _ ?_ ?_)
    | with_reducible refine (completeOpen_keeps _ _ _ _ _ ?_)
    | with_reducible refine (eyePoints_keeps _ _ _ ?_)
    | with_reducible refine (eyeResult_keeps _ _ ?_)
    | with_reducible refine (complete_keeps _ _ _ _ _ _ _ ?_)
    | (split; with_reducible refine KeepsRes.pair_ ‹_ = (_, _)› ?_ ?_; on_goal 2 => intro)
    | (split; with_reducible refine Keeps.pair_ ‹_ = (_, _)› ?_ ?_; on_goal 2 => intro)
    | (split; with_reducible refine KeepsRes.triple_ ‹_ = (_, _, _)› ?_ ?_; on_goal 2 => intro)
    | (split; with_reducible refine Keeps.triple_ ‹_ = (_, _, _)› ?_ ?_; on_goal 2 => intro)
    | split
    | (intro _; intros; beta_reduce)
    | fail_if_no_progress with_reducible refine Keeps.upd ?_ rfl rfl rfl rfl rfl rfl (by first | exact id | simp +contextual [shapes])
    | dsimp only)

theorem disableLane_keeps (l : ℕ) (s : State) {w0 : State} (h0 : Keeps w0 s) : Keeps w0 (disableLane l s) := by
  unfold disableLane
  repeat' (first
    | with_reducible assumption
    | (extract_lets +onlyGivenNames x; with_reducible refine Keeps.have_ (x := x) ?_ ?_; (on_goal 2 => (clear_value x; intro)); on_goal 1 => subst x)
    | with_reducible refine (modLane_keeps _ _ _ ?_)
    | with_reducible refine (leaveTraffic_keeps _ _ ?_)
    | with_reducible refine (setLaneState_keeps _ _ _ ?_))

theorem execLaneBitslip_keeps (rq : Rq) (s : State) {w0 : State} (h0 : Keeps w0 s) : KeepsRes w0 (execLaneBitslip rq s) := by
  unfold execLaneBitslip
  repeat' (first
    | with_reducible assumption
    | (extract_lets +onlyGivenNames x; with_reducible refine KeepsRes.have_ (x := x) ?_ ?_; (on_goal 2 => (clear_value x; intro)); on_goal 1 => subst x)
    | (extract_lets +onlyGivenNames x; with_reducible refine Keeps.have_ (x := x) ?_ ?_; (on_goal 2 => (clear_value x; intro)); on_goal 1 => subst x)
    | (extract_lets +onlyGivenNames x; clear_value x)
    | with_reducible refine (request_keeps _ _ _ _ _ _ _ ?_ ?_)
    | with_reducible refine (rep_keeps _ _ ?_)
    | with_reducible refine (modLane_keeps _ _ _ ?_)
    | split
    | (intro _; intros; beta_reduce)
    | fail_if_no_progress with_reducible refine Keeps.upd ?_ rfl rfl rfl rfl rfl rfl (by first | exact id | simp +contextual [shapes])
    | dsimp only)

theorem failLanes_keeps (ls : List ℕ) (cause : ℕ) (s : State) {w0 : State} (h0 : Keeps w0 s) : Keeps w0 (failLanes ls cause s) := by
  unfold failLanes
  repeat' (first
    | with_reducible assumption
    | (extract_lets +onlyGivenNames x; with_reducible refine Keeps.have_ (x := x) ?_ ?_; (on_goal 2 => (clear_value x; intro)); on_goal 1 => subst x)
    | (extract_lets +onlyGivenNames x; clear_value x)
    | with_reducible refine (leaveTraffic_keeps _ _ ?_)
    | with_reducible refine (raiseAll_keeps _ _ ?_)
    | with_reducible refine (lowerLane_keeps _ _ _ ?_)
    | (with_reducible refine Keeps.foldl _ ?_ ?_; on_goal 1 => (intros; beta_reduce))
    | split
    | (intro _; intros; beta_reduce)
    | dsimp only)

theorem execLrefClockChange_keeps (present : Bool) (s : State) {w0 : State} (h0 : Keeps w0 s) : KeepsRes w0 (execLrefClockChange present s) := by
  unfold execLrefClockChange
  repeat' (first
    | with_reducible assumption
    | (extract_lets +onlyGivenNames x; with_reducible refine KeepsRes.have_ (x := x) ?_ ?_; (on_goal 2 => (clear_value x; intro)); on_goal 1 => subst x)
    | (extract_lets +onlyGivenNames x; with_reducible refine Keeps.have_ (x := x) ?_ ?_; (on_goal 2 => (clear_value x; intro)); on_goal 1 => subst x)
    | (extract_lets +onlyGivenNames x; (first | (have h : @Eq Lnk x x := rfl; clear h; subst x) | clear_value x))
    | with_reducible refine KeepsRes.next ?_
    | with_reducible refine (whenLanes_keeps _ _ ?_ ?_)
    | with_reducible refine (failLanes_keeps _ _ _ ?_)
    | split
    | (intro _; intros; beta_reduce)
    | fail_if_no_progress with_reducible refine Keeps.upd ?_ rfl rfl rfl rfl rfl rfl (by first | exact id | simp +contextual [shapes])
    | dsimp only)

theorem restartLane_keeps (l : ℕ) (rate : ℕ) (s : State) {w0 : State} (h0 : Keeps w0 s) : Keeps w0 (restartLane l rate s) := by
  unfold restartLane
  repeat' (first
    | with_reducible assumption
    | (extract_lets +onlyGivenNames x; with_reducible refine Keeps.have_ (x := x) ?_ ?_; (on_goal 2 => (clear_value x; intro)); on_goal 1 => subst x)
    | (extract_lets +onlyGivenNames x; clear_value x)
    | with_reducible refine (modLane_keeps _ _ _ ?_)
    | with_reducible refine (countRetrain_keeps _ _ ?_)
    | with_reducible refine (startAttempt_keeps _ _ ?_)
    | with_reducible refine (leaveTraffic_keeps _ _ ?_)
    | with_reducible refine (setLaneState_keeps _ _ _ ?_))

theorem linkTrain_keeps (rq : Rq) (s : State) {w0 : State} (h0 : Keeps w0 s) : KeepsRes w0 (linkTrain rq s) := by
  unfold linkTrain
  repeat' (first
    | with_reducible assumption
    | (extract_lets +onlyGivenNames x; with_reducible refine KeepsRes.have_ (x := x) ?_ ?_; (on_goal 2 => (clear_value x; intro)); on_goal 1 => subst x)
    | (extract_lets +onlyGivenNames x; with_reducible refine Keeps.have_ (x := x) ?_ ?_; (on_goal 2 => (clear_value x; intro)); on_goal 1 => subst x)
    | (extract_lets +onlyGivenNames x; (first | (have h : @Eq Lnk x x := rfl; clear h; subst x) | clear_value x))
    | with_reducible refine (request_keeps _ _ _ _ _ _ _ ?_ ?_)
    | with_reducible refine (rep_keeps _ _ ?_)
    | with_reducible refine (disableLane_keeps _ _ ?_)
    | with_reducible refine (accept_keeps _ _ ?_ ?_)
    | with_reducible refine (completeOpen_keeps _ _ _ _ _ ?_)
    | with_reducible refine (restartLane_keeps _ _ _ ?_)
    | with_reducible refine (modLane_keeps _ _ _ ?_)
    | (with_reducible refine Keeps.foldl _ ?_ ?_; on_goal 1 => (intros; beta_reduce))
    | split
    | (intro _; intros; beta_reduce)
    | fail_if_no_progress with_reducible refine Keeps.upd ?_ rfl rfl rfl rfl rfl rfl (by first | exact id | simp +contextual [shapes])
    | dsimp only)

theorem execLinkTrainRestart_keeps (rq : Rq) (s : State) {w0 : State} (h0 : Keeps w0 s) : KeepsRes w0 (execLinkTrainRestart rq s) := by
  unfold execLinkTrainRestart
  repeat' (first
    | with_reducible assumption
    | with_reducible refine (linkTrain_keeps _ _ ?_))

theorem execRelockTimeout_keeps (l : ℕ) (s : State) {w0 : State} (h0 : Keeps w0 s) : KeepsRes w0 (execRelockTimeout l s) := by
  unfold execRelockTimeout
  repeat' (first
    | with_reducible assumption
    | with_reducible refine KeepsRes.guarded ?_
    | with_reducible refine (whenLanes_keeps _ _ ?_ ?_)
    | with_reducible refine (guarded_keeps _ _ ?_)
    | with_reducible refine (retrain_keeps _ _ ?_)
    | split)

theorem execBondFormation_keeps (s : State) {w0 : State} (h0 : Keeps w0 s) : KeepsRes w0 (execBondFormation s) := by
  unfold execBondFormation
  repeat' (first
    | with_reducible assumption
    | with_reducible refine KeepsRes.next ?_
    | with_reducible refine (whenLanes_keeps _ _ ?_ ?_)
    | with_reducible refine (formBond_keeps _ ?_)
    | split)

theorem endAdapt_keeps (l : ℕ) (eq : EqResult) (ms : ℕ) (s : State) {w0 : State} (h0 : Keeps w0 s) : Keeps w0 (endAdapt l eq ms s) := by
  unfold endAdapt
  repeat' (first
    | with_reducible assumption
    | (extract_lets +onlyGivenNames x; clear_value x)
    | with_reducible refine (enteredBond_keeps _ _ _ ?_)
    | with_reducible refine (setLaneState_keeps _ _ _ ?_)
    | with_reducible refine (modLane_keeps _ _ _ ?_)
    | split)

theorem execEyeScan_keeps (rq : Rq) (s : State) {w0 : State} (h0 : Keeps w0 s) : KeepsRes w0 (execEyeScan rq s) := by
  unfold execEyeScan
  repeat' (first
    | with_reducible assumption
    | (extract_lets +onlyGivenNames x; with_reducible refine KeepsRes.have_ (x := x) ?_ ?_; (on_goal 2 => (clear_value x; intro)); on_goal 1 => subst x)
    | (extract_lets +onlyGivenNames x; with_reducible refine Keeps.have_ (x := x) ?_ ?_; (on_goal 2 => (clear_value x; intro)); on_goal 1 => subst x)
    | (extract_lets +onlyGivenNames x; (first | (have h : @Eq Lnk x x := rfl; clear h; subst x) | clear_value x))
    | with_reducible refine (request_keeps _ _ _ _ _ _ _ ?_ ?_)
    | with_reducible refine (rep_keeps _ _ ?_)
    | with_reducible refine (accept_keeps _ _ ?_ ?_)
    | split
    | (intro _; intros; beta_reduce)
    | fail_if_no_progress with_reducible refine Keeps.upd ?_ rfl rfl rfl rfl rfl rfl (by first | exact id | simp +contextual [shapes])
    | dsimp only)

theorem toLock_keeps (l : ℕ) (rate : ℕ) (s : State) {w0 : State} (h0 : Keeps w0 s) : Keeps w0 (toLock l rate s) := by
  unfold toLock
  repeat' (first
    | with_reducible assumption
    | with_reducible refine (setLaneState_keeps _ _ _ ?_)
    | with_reducible refine (modLane_keeps _ _ _ ?_))

theorem twinSwitch_keeps (s : State) {w0 : State} (h0 : Keeps w0 s) : Keeps w0 (twinSwitch s) := by
  unfold twinSwitch
  repeat' (first
    | with_reducible assumption
    | (extract_lets +onlyGivenNames x; clear_value x)
    | with_reducible refine (toLock_keeps _ _ _ ?_)
    | split)

theorem takeAnchor_keeps (l : ℕ) (b : List Byte) (s : State) {w0 : State} (h0 : Keeps w0 s) : Keeps w0 (takeAnchor l b s) := by
  unfold takeAnchor
  repeat' (first
    | with_reducible assumption
    | (extract_lets +onlyGivenNames x; with_reducible refine Keeps.have_ (x := x) ?_ ?_; (on_goal 2 => (clear_value x; intro)); on_goal 1 => subst x)
    | (extract_lets +onlyGivenNames x; (first | (have h : @Eq Lnk x x := rfl; clear h; subst x) | clear_value x))
    | with_reducible refine (modLane_keeps _ _ _ ?_)
    | with_reducible refine (twinSwitch_keeps _ ?_)
    | with_reducible refine (toLock_keeps _ _ _ ?_)
    | split
    | (intro _; intros; beta_reduce)
    | fail_if_no_progress with_reducible refine Keeps.upd ?_ rfl rfl rfl rfl rfl rfl (by first | exact id | simp +contextual [shapes])
    | dsimp only)

theorem execAnchorReceived_keeps (l : ℕ) (set : List LaneWord) (s : State) {w0 : State} (h0 : Keeps w0 s) : KeepsRes w0 (execAnchorReceived l set s) := by
  unfold execAnchorReceived
  repeat' (first
    | with_reducible assumption
    | (extract_lets +onlyGivenNames x; with_reducible refine KeepsRes.have_ (x := x) ?_ ?_; (on_goal 2 => (clear_value x; intro)); on_goal 1 => subst x)
    | (extract_lets +onlyGivenNames x; clear_value x)
    | with_reducible refine KeepsRes.guarded ?_
    | with_reducible refine (whenLanes_keeps _ _ ?_ ?_)
    | with_reducible refine (guarded_keeps _ _ ?_)
    | with_reducible refine (takeWords_keeps _ _ _ ?_)
    | with_reducible refine (modLane_keeps _ _ _ ?_)
    | with_reducible refine (takeAnchor_keeps _ _ _ ?_)
    | split)

theorem execRelockEntry_keeps (l : ℕ) (gapUs : ℕ) (atMs : ℕ) (s : State) {w0 : State} (h0 : Keeps w0 s) : KeepsRes w0 (execRelockEntry l gapUs atMs s) := by
  unfold execRelockEntry
  repeat' (first
    | with_reducible assumption
    | (extract_lets +onlyGivenNames x; with_reducible refine KeepsRes.have_ (x := x) ?_ ?_; (on_goal 2 => (clear_value x; intro)); on_goal 1 => subst x)
    | (extract_lets +onlyGivenNames x; clear_value x)
    | with_reducible refine KeepsRes.guarded ?_
    | with_reducible refine (whenLanes_keeps _ _ ?_ ?_)
    | with_reducible refine (modLane_keeps _ _ _ ?_)
    | with_reducible refine (guarded_keeps _ _ ?_)
    | with_reducible refine (failLaneWith_keeps _ _ _ _ ?_)
    | with_reducible refine (interrupt_keeps _ _ ?_)
    | with_reducible refine (setLaneState_keeps _ _ _ ?_)
    | with_reducible refine (note_keeps _ _ ?_)
    | split)

theorem execBondWaitExpiry_keeps (s : State) {w0 : State} (h0 : Keeps w0 s) : KeepsRes w0 (execBondWaitExpiry s) := by
  unfold execBondWaitExpiry
  repeat' (first
    | with_reducible assumption
    | with_reducible refine KeepsRes.next ?_
    | with_reducible refine (whenLanes_keeps _ _ ?_ ?_)
    | with_reducible refine (formBond_keeps _ ?_)
    | split)

theorem excludeLane_keeps (s : State) (m : BondMark) {w0 : State} (h0 : Keeps w0 s) : Keeps w0 (excludeLane s m) := by
  unfold excludeLane
  repeat' (first
    | with_reducible assumption
    | with_reducible refine (lowerLane_keeps _ _ _ ?_)
    | with_reducible refine (modLane_keeps _ _ _ ?_))

theorem bondLane_keeps (latest : ℕ) (s : State) (m : BondMark) {w0 : State} (h0 : Keeps w0 s) : Keeps w0 (bondLane latest s m) := by
  unfold bondLane
  repeat' (first
    | with_reducible assumption
    | (extract_lets +onlyGivenNames x; with_reducible refine Keeps.have_ (x := x) ?_ ?_; (on_goal 2 => (clear_value x; intro)); on_goal 1 => subst x)
    | (extract_lets +onlyGivenNames x; clear_value x)
    | with_reducible refine (modLane_keeps _ _ _ ?_)
    | with_reducible refine (trainLane_keeps _ _ _ ?_)
    | split)

theorem endFormation_keeps (marks : List BondMark) (s : State) {w0 : State} (h0 : Keeps w0 s) : Keeps w0 (endFormation marks s) := by
  unfold endFormation
  repeat' (first
    | with_reducible assumption
    | (extract_lets +onlyGivenNames x; with_reducible refine Keeps.have_ (x := x) ?_ ?_; (on_goal 2 => (clear_value x; intro)); on_goal 1 => subst x)
    | (extract_lets +onlyGivenNames x; (first | (have h : @Eq Lnk x x := rfl; clear h; subst x) | clear_value x))
    | with_reducible refine (excludeLane_keeps _ _ ?_)
    | with_reducible refine (bondLane_keeps _ _ _ ?_)
    | with_reducible refine (leaveTraffic_keeps _ _ ?_)
    | with_reducible refine (raiseAll_keeps _ _ ?_)
    | with_reducible refine (climbOut_keeps _ ?_)
    | (with_reducible refine Keeps.foldl _ ?_ ?_; on_goal 1 => (intros; beta_reduce))
    | split
    | (intro _; intros; beta_reduce)
    | fail_if_no_progress with_reducible refine Keeps.upd ?_ rfl rfl rfl rfl rfl rfl (by first | exact id | simp +contextual [shapes])
    | dsimp only)

theorem execBondMarker_keeps (marks : List BondMark) (s : State) {w0 : State} (h0 : Keeps w0 s) : KeepsRes w0 (execBondMarker marks s) := by
  unfold execBondMarker
  repeat' (first
    | with_reducible assumption
    | (extract_lets +onlyGivenNames x; with_reducible refine KeepsRes.have_ (x := x) ?_ ?_; (on_goal 2 => (clear_value x; intro)); on_goal 1 => subst x)
    | (extract_lets +onlyGivenNames x; with_reducible refine Keeps.have_ (x := x) ?_ ?_; (on_goal 2 => (clear_value x; intro)); on_goal 1 => subst x)
    | (extract_lets +onlyGivenNames x; clear_value x)
    | with_reducible refine KeepsRes.guarded ?_
    | with_reducible refine (whenLanes_keeps _ _ ?_ ?_)
    | with_reducible refine (guarded_keeps _ _ ?_)
    | with_reducible refine (takeWords_keeps _ _ _ ?_)
    | with_reducible refine (endFormation_keeps _ _ ?_)
    | (with_reducible refine Keeps.foldl _ ?_ ?_; on_goal 1 => (intros; beta_reduce))
    | split
    | (intro _; intros; beta_reduce)
    | dsimp only)

theorem execLinkTrainComplete_keeps (ms : ℕ) (s : State) {w0 : State} (h0 : Keeps w0 s) : KeepsRes w0 (execLinkTrainComplete ms s) := by
  unfold execLinkTrainComplete
  repeat' (first
    | with_reducible assumption
    | (extract_lets +onlyGivenNames x; with_reducible refine KeepsRes.have_ (x := x) ?_ ?_; (on_goal 2 => (clear_value x; intro)); on_goal 1 => subst x)
    | (extract_lets +onlyGivenNames x; with_reducible refine Keeps.have_ (x := x) ?_ ?_; (on_goal 2 => (clear_value x; intro)); on_goal 1 => subst x)
    | (extract_lets +onlyGivenNames x; (first | (have h : @Eq Lnk x x := rfl; clear h; subst x) | clear_value x))
    | with_reducible refine KeepsRes.next ?_
    | with_reducible refine (whenLanes_keeps _ _ ?_ ?_)
    | with_reducible refine (complete_keeps _ _ _ _ _ _ _ ?_)
    | split
    | (intro _; intros; beta_reduce)
    | fail_if_no_progress with_reducible refine Keeps.upd ?_ rfl rfl rfl rfl rfl rfl (by first | exact id | simp +contextual [shapes])
    | dsimp only)

theorem execLaneAligned_keeps (l : ℕ) (slip : ℕ) (s : State) {w0 : State} (h0 : Keeps w0 s) : KeepsRes w0 (execLaneAligned l slip s) := by
  unfold execLaneAligned
  repeat' (first
    | with_reducible assumption
    | (extract_lets +onlyGivenNames x; with_reducible refine KeepsRes.have_ (x := x) ?_ ?_; (on_goal 2 => (clear_value x; intro)); on_goal 1 => subst x)
    | (extract_lets +onlyGivenNames x; clear_value x)
    | with_reducible refine KeepsRes.guarded ?_
    | with_reducible refine (whenLanes_keeps _ _ ?_ ?_)
    | with_reducible refine (modLane_keeps _ _ _ ?_)
    | with_reducible refine (guarded_keeps _ _ ?_)
    | with_reducible refine (setLaneState_keeps _ _ _ ?_)
    | with_reducible refine (retrain_keeps _ _ ?_)
    | split)

theorem execCdrLock_keeps (l : ℕ) (s : State) {w0 : State} (h0 : Keeps w0 s) : KeepsRes w0 (execCdrLock l s) := by
  unfold execCdrLock
  repeat' (first
    | with_reducible assumption
    | with_reducible refine KeepsRes.guarded ?_
    | with_reducible refine (whenLanes_keeps _ _ ?_ ?_)
    | with_reducible refine (guarded_keeps _ _ ?_)
    | with_reducible refine (failLane_keeps _ _ _ ?_)
    | with_reducible refine (setLaneState_keeps _ _ _ ?_)
    | split)

theorem execBondTimeout_keeps (s : State) {w0 : State} (h0 : Keeps w0 s) : KeepsRes w0 (execBondTimeout s) := by
  unfold execBondTimeout
  repeat' (first
    | with_reducible assumption
    | (extract_lets +onlyGivenNames x; with_reducible refine KeepsRes.have_ (x := x) ?_ ?_; (on_goal 2 => (clear_value x; intro)); on_goal 1 => subst x)
    | (extract_lets +onlyGivenNames x; with_reducible refine Keeps.have_ (x := x) ?_ ?_; (on_goal 2 => (clear_value x; intro)); on_goal 1 => subst x)
    | (extract_lets +onlyGivenNames x; (first | (have h : @Eq Lnk x x := rfl; clear h; subst x) | clear_value x))
    | with_reducible refine KeepsRes.next ?_
    | with_reducible refine (whenLanes_keeps _ _ ?_ ?_)
    | with_reducible refine (failLanes_keeps _ _ _ ?_)
    | with_reducible refine (modLane_keeps _ _ _ ?_)
    | (with_reducible refine Keeps.foldl _ ?_ ?_; on_goal 1 => (intros; beta_reduce))
    | split
    | (intro _; intros; beta_reduce)
    | fail_if_no_progress with_reducible refine Keeps.upd ?_ rfl rfl rfl rfl rfl rfl (by first | exact id | simp +contextual [shapes])
    | dsimp only)

theorem execAdaptComplete_keeps (l : ℕ) (eq : EqResult) (ms : ℕ) (s : State) {w0 : State} (h0 : Keeps w0 s) : KeepsRes w0 (execAdaptComplete l eq ms s) := by
  unfold execAdaptComplete
  repeat' (first
    | with_reducible assumption
    | with_reducible refine KeepsRes.guarded ?_
    | with_reducible refine (whenLanes_keeps _ _ ?_ ?_)
    | with_reducible refine (guarded_keeps _ _ ?_)
    | with_reducible refine (endAdapt_keeps _ _ _ _ ?_)
    | with_reducible refine (modLane_keeps _ _ _ ?_)
    | split)

theorem takeClimb_keeps (b : List Byte) (ms : ℕ) (s : State) {w0 : State} (h0 : Keeps w0 s) : Keeps w0 (takeClimb b ms s) := by
  unfold takeClimb
  repeat' (first
    | with_reducible assumption
    | (extract_lets +onlyGivenNames x; with_reducible refine Keeps.have_ (x := x) ?_ ?_; (on_goal 2 => (clear_value x; intro)); on_goal 1 => subst x)
    | (extract_lets +onlyGivenNames x; (first | (have h : @Eq Lnk x x := rfl; clear h; subst x) | clear_value x))
    | with_reducible refine (laneTrained_keeps _ _ _ ?_)
    | split
    | fail_if_no_progress with_reducible refine Keeps.upd ?_ rfl rfl rfl rfl rfl rfl (by first | exact id | simp +contextual [shapes])
    | dsimp only)

theorem execLosDeassert_keeps (l : ℕ) (settled : Bool) (s : State) {w0 : State} (h0 : Keeps w0 s) : KeepsRes w0 (execLosDeassert l settled s) := by
  unfold execLosDeassert
  repeat' (first
    | with_reducible assumption
    | (extract_lets +onlyGivenNames x; with_reducible refine KeepsRes.have_ (x := x) ?_ ?_; (on_goal 2 => (clear_value x; intro)); on_goal 1 => subst x)
    | with_reducible refine KeepsRes.guarded ?_
    | with_reducible refine (whenLanes_keeps _ _ ?_ ?_)
    | with_reducible refine (modLane_keeps _ _ _ ?_)
    | with_reducible refine (guarded_keeps _ _ ?_)
    | with_reducible refine (restartLane_keeps _ _ _ ?_)
    | split)

theorem execLinkTrainDisable_keeps (rq : Rq) (s : State) {w0 : State} (h0 : Keeps w0 s) : KeepsRes w0 (execLinkTrainDisable rq s) := by
  unfold execLinkTrainDisable
  repeat' (first
    | with_reducible assumption
    | with_reducible refine (linkTrain_keeps _ _ ?_))

theorem twinSets_keeps (s : State) {w0 : State} (h0 : Keeps w0 s) : Keeps w0 (twinSets s) := by
  unfold twinSets
  repeat' (first
    | with_reducible assumption
    | (extract_lets +onlyGivenNames x; with_reducible refine Keeps.have_ (x := x) ?_ ?_; (on_goal 2 => (clear_value x; intro)); on_goal 1 => subst x)
    | (extract_lets +onlyGivenNames x; (first | (have h : @Eq Lnk x x := rfl; clear h; subst x) | clear_value x))
    | with_reducible refine (sendSets_keeps _ _ ?_)
    | with_reducible refine (twinSwitch_keeps _ ?_)
    | split
    | fail_if_no_progress with_reducible refine Keeps.upd ?_ rfl rfl rfl rfl rfl rfl (by first | exact id | simp +contextual [shapes])
    | dsimp only)

theorem ackSets_keeps (y0 : ℕ) (y1 : State) {w0 : State} (h0 : Keeps w0 y1) : Keeps w0 (ackSets y0 y1) := by
  induction y0 generalizing y1 with
  | zero => exact h0
  | succ k ih => exact ih _ (twinSets_keeps _ h0)

theorem execTwinAckSetsSent_keeps (s : State) {w0 : State} (h0 : Keeps w0 s) : KeepsRes w0 (execTwinAckSetsSent s) := by
  unfold execTwinAckSetsSent
  repeat' (first
    | with_reducible assumption
    | with_reducible refine KeepsRes.next ?_
    | with_reducible refine (ackSets_keeps _ _ ?_)
    | split)

theorem execLosAssert_keeps (l : ℕ) (s : State) {w0 : State} (h0 : Keeps w0 s) : KeepsRes w0 (execLosAssert l s) := by
  unfold execLosAssert
  repeat' (first
    | with_reducible assumption
    | with_reducible refine KeepsRes.guarded ?_
    | with_reducible refine (whenLanes_keeps _ _ ?_ ?_)
    | with_reducible refine (guarded_keeps _ _ ?_)
    | with_reducible refine (modLane_keeps _ _ _ ?_))

theorem execClimbSend_keeps (path : Path) (s : State) {w0 : State} (h0 : Keeps w0 s) : KeepsRes w0 (execClimbSend path s) := by
  unfold execClimbSend
  repeat' (first
    | with_reducible assumption
    | with_reducible refine KeepsRes.next ?_
    | with_reducible refine (climbOut_keeps _ ?_)
    | with_reducible refine (twinSets_keeps _ ?_)
    | split)

theorem enableLane_keeps (l : ℕ) (s : State) {w0 : State} (h0 : Keeps w0 s) : Keeps w0 (enableLane l s) := by
  unfold enableLane
  repeat' (first
    | with_reducible assumption
    | (extract_lets +onlyGivenNames x; clear_value x)
    | with_reducible refine (restartLane_keeps _ _ _ ?_)
    | with_reducible refine (setLaneState_keeps _ _ _ ?_)
    | with_reducible refine (modLane_keeps _ _ _ ?_)
    | split)

theorem execRelockComplete_keeps (l : ℕ) (inPlace : Bool) (s : State) {w0 : State} (h0 : Keeps w0 s) : KeepsRes w0 (execRelockComplete l inPlace s) := by
  unfold execRelockComplete
  repeat' (first
    | with_reducible assumption
    | with_reducible refine KeepsRes.guarded ?_
    | with_reducible refine (whenLanes_keeps _ _ ?_ ?_)
    | with_reducible refine (guarded_keeps _ _ ?_)
    | with_reducible refine (retrain_keeps _ _ ?_)
    | with_reducible refine (twinUp_keeps _ ?_)
    | with_reducible refine (setLaneState_keeps _ _ _ ?_)
    | with_reducible refine (enteredBond_keeps _ _ _ ?_)
    | split)

theorem execAttemptTimeout_keeps (l : AttemptEnd) (s : State) {w0 : State} (h0 : Keeps w0 s) : KeepsRes w0 (execAttemptTimeout l s) := by
  unfold execAttemptTimeout
  repeat' (first
    | with_reducible assumption
    | (extract_lets +onlyGivenNames x; clear_value x)
    | with_reducible refine KeepsRes.guarded ?_
    | with_reducible refine (whenLanes_keeps _ _ ?_ ?_)
    | with_reducible refine (guarded_keeps _ _ ?_)
    | with_reducible refine (failLane_keeps _ _ _ ?_)
    | split)

theorem execBackoffExpiry_keeps (l : ℕ) (s : State) {w0 : State} (h0 : Keeps w0 s) : KeepsRes w0 (execBackoffExpiry l s) := by
  unfold execBackoffExpiry
  repeat' (first
    | with_reducible assumption
    | with_reducible refine KeepsRes.guarded ?_
    | with_reducible refine (whenLanes_keeps _ _ ?_ ?_)
    | with_reducible refine (guarded_keeps _ _ ?_)
    | with_reducible refine (startAttempt_keeps _ _ ?_)
    | split)

theorem execClimbReceived_keeps (set : List LaneWord) (ms : ℕ) (s : State) {w0 : State} (h0 : Keeps w0 s) : KeepsRes w0 (execClimbReceived set ms s) := by
  unfold execClimbReceived
  repeat' (first
    | with_reducible assumption
    | (extract_lets +onlyGivenNames x; with_reducible refine KeepsRes.have_ (x := x) ?_ ?_; (on_goal 2 => (clear_value x; intro)); on_goal 1 => subst x)
    | (extract_lets +onlyGivenNames x; clear_value x)
    | with_reducible refine KeepsRes.guarded ?_
    | with_reducible refine (whenLanes_keeps _ _ ?_ ?_)
    | with_reducible refine (guarded_keeps _ _ ?_)
    | with_reducible refine (takeWords_keeps _ _ _ ?_)
    | with_reducible refine (takeClimb_keeps _ _ _ ?_)
    | split)

end Sys2Proof.Machine
end

