-- ==== Sys2Proof/Laws/KeepsTwin.lean ====
section
/-! SUPPORT. For each definition of Machine/Twin.lean that answers a state: the queue stays as it is and the memories stay canonical. -/

namespace Sys2Proof.Machine

theorem twinState_keeps (st : ℕ) (s : State) {w0 : State} (h0 : Keeps w0 s) : Keeps w0 (twinState st s) := by
  unfold twinState
  repeat' (first
    | with_reducible assumption
    | (extract_lets +onlyGivenNames x; with_reducible refine Keeps.have_ (x := x) ?_ ?_; (on_goal 2 => (clear_value x; intro)); on_goal 1 => subst x)
    | (extract_lets +onlyGivenNames x; clear_value x)
    | with_reducible refine (condOff_keeps _ _ _ ?_)
    | fail_if_no_progress with_reducible refine Keeps.upd ?_ rfl rfl rfl rfl rfl rfl (by first | exact id | simp +contextual [shapes])
    | dsimp only)

theorem twinJoin_keeps (s : State) {w0 : State} (h0 : Keeps w0 s) : Keeps w0 (twinJoin s) := by
  unfold twinJoin
  repeat' (first
    | with_reducible assumption
    | (extract_lets +onlyGivenNames x; with_reducible refine Keeps.have_ (x := x) ?_ ?_; (on_goal 2 => (clear_value x; intro)); on_goal 1 => subst x)
    | (extract_lets +onlyGivenNames x; clear_value x)
    | with_reducible refine (twinState_keeps _ _ ?_)
    | with_reducible refine (noteF_keeps _ _ _ _ _ ?_)
    | split
    | fail_if_no_progress with_reducible refine Keeps.upd ?_ rfl rfl rfl rfl rfl rfl (by first | exact id | simp +contextual [shapes])
    | dsimp only)

theorem onMessage_keeps (msg : ℕ) (cols : List (List LaneWord)) (act : List Byte → State → State) (s : State) {w0 : State} (h0 : Keeps w0 s) (h_act : ∀ r a x, Keeps r x → Keeps r (act a x)) : Keeps w0 (onMessage msg cols act s) := by
  unfold onMessage
  repeat' (first
    | with_reducible assumption
    | with_reducible refine (onPacket_keeps _ _ _ _ _ ?_ ?_)
    | with_reducible refine (takePacket_keeps _ _ _ _ ?_ ?_)
    | with_reducible refine (h_act _ _ ?_)
    | with_reducible refine (h_act _ _ _ ?_)
    | with_reducible refine (h_act _ _ _ _ ?_)
    | split
    | (intro _; intros; beta_reduce)
    | dsimp only)

theorem takeSeq_keeps (seq : ℕ) (s : State) {w0 : State} (h0 : Keeps w0 s) : Keeps w0 (takeSeq seq s) := by
  unfold takeSeq
  repeat' (first
    | with_reducible assumption
    | (extract_lets +onlyGivenNames x; with_reducible refine Keeps.have_ (x := x) ?_ ?_; (on_goal 2 => (clear_value x; intro)); on_goal 1 => subst x)
    | (extract_lets +onlyGivenNames x; clear_value x)
    | split
    | fail_if_no_progress with_reducible refine Keeps.upd ?_ rfl rfl rfl rfl rfl rfl (by first | exact id | simp +contextual [shapes])
    | dsimp only)

theorem judgeConflict_keeps (b : List Byte) (s : State) {w0 : State} (h0 : Keeps w0 s) : Keeps w0 (judgeConflict b s) := by
  unfold judgeConflict
  repeat' (first
    | with_reducible assumption
    | with_reducible refine (condSet_keeps _ _ _ _ ?_))

theorem twinLost_keeps (cause : ℕ) (s : State) {w0 : State} (h0 : Keeps w0 s) : Keeps w0 (twinLost cause s) := by
  unfold twinLost
  repeat' (first
    | with_reducible assumption
    | (extract_lets +onlyGivenNames x; with_reducible refine Keeps.have_ (x := x) ?_ ?_; (on_goal 2 => (clear_value x; intro)); on_goal 1 => subst x)
    | (extract_lets +onlyGivenNames x; clear_value x)
    | with_reducible refine (condOn_keeps _ _ _ ?_)
    | split
    | fail_if_no_progress with_reducible refine Keeps.upd ?_ rfl rfl rfl rfl rfl rfl (by first | exact id | simp +contextual [shapes])
    | dsimp only)

theorem heartbeatState_keeps (b : List Byte) (follows : Bool) (s : State) {w0 : State} (h0 : Keeps w0 s) : Keeps w0 (heartbeatState b follows s) := by
  unfold heartbeatState
  repeat' (first
    | with_reducible assumption
    | (extract_lets +onlyGivenNames x; with_reducible refine Keeps.have_ (x := x) ?_ ?_; (on_goal 2 => (clear_value x; intro)); on_goal 1 => subst x)
    | (extract_lets +onlyGivenNames x; clear_value x)
    | with_reducible refine (judgeConflict_keeps _ _ ?_)
    | with_reducible refine (twinState_keeps _ _ ?_)
    | with_reducible refine (noteF_keeps _ _ _ _ _ ?_)
    | with_reducible refine (twinLost_keeps _ _ ?_)
    | with_reducible refine (twinJoin_keeps _ ?_)
    | split
    | fail_if_no_progress with_reducible refine Keeps.upd ?_ rfl rfl rfl rfl rfl rfl (by first | exact id | simp +contextual [shapes])
    | dsimp only)

theorem acknowledge_keeps (ack : ℕ) (s : State) {w0 : State} (h0 : Keeps w0 s) : Keeps w0 (acknowledge ack s) := by
  unfold acknowledge
  repeat' (first
    | with_reducible assumption
    | (extract_lets +onlyGivenNames x; with_reducible refine Keeps.have_ (x := x) ?_ ?_; (on_goal 2 => (clear_value x; intro)); on_goal 1 => subst x)
    | (extract_lets +onlyGivenNames x; clear_value x)
    | split
    | (intro _; intros; beta_reduce)
    | fail_if_no_progress with_reducible refine Keeps.upd ?_ rfl rfl rfl rfl rfl rfl (by first | exact id | simp +contextual [shapes])
    | dsimp only)

theorem takeHeartbeat_keeps (silenceUs : ℕ) (b : List Byte) (s : State) {w0 : State} (h0 : Keeps w0 s) : Keeps w0 (takeHeartbeat silenceUs b s) := by
  unfold takeHeartbeat
  repeat' (first
    | with_reducible assumption
    | (extract_lets +onlyGivenNames x; with_reducible refine Keeps.have_ (x := x) ?_ ?_; (on_goal 2 => (clear_value x; intro)); on_goal 1 => subst x)
    | (extract_lets +onlyGivenNames x; (first | (have h : x = (fun _ => _) := rfl; subst x; beta_reduce) | (have h : x = (fun _ _ => _) := rfl; subst x; beta_reduce) | clear_value x))
    | with_reducible refine (takeSeq_keeps _ _ ?_)
    | with_reducible refine (heartbeatState_keeps _ _ _ ?_)
    | with_reducible refine (acknowledge_keeps _ _ ?_)
    | with_reducible refine (condOff_keeps _ _ _ ?_)
    | split
    | fail_if_no_progress with_reducible refine Keeps.upd ?_ rfl rfl rfl rfl rfl rfl (by first | exact id | simp +contextual [shapes])
    | dsimp only)

theorem execHeartbeatReceived_keeps (cols : List (List LaneWord)) (silenceUs : ℕ) (s : State) {w0 : State} (h0 : Keeps w0 s) : KeepsRes w0 (execHeartbeatReceived cols silenceUs s) := by
  unfold execHeartbeatReceived
  repeat' (first
    | with_reducible assumption
    | with_reducible refine KeepsRes.next ?_
    | with_reducible refine (onMessage_keeps _ _ _ _ ?_ ?_)
    | with_reducible refine (takeHeartbeat_keeps _ _ _ ?_)
    | (intro _; intros; beta_reduce)
    | dsimp only)

theorem takeRecord_keeps (b : List Byte) (s : State) {w0 : State} (h0 : Keeps w0 s) : Keeps w0 (takeRecord b s) := by
  unfold takeRecord
  repeat' (first
    | with_reducible assumption
    | (extract_lets +onlyGivenNames x; with_reducible refine Keeps.have_ (x := x) ?_ ?_; (on_goal 2 => (clear_value x; intro)); on_goal 1 => subst x)
    | (extract_lets +onlyGivenNames x; clear_value x)
    | with_reducible refine (takeSeq_keeps _ _ ?_)
    | with_reducible refine (enqueue_keeps _ _ ?_)
    | split
    | fail_if_no_progress with_reducible refine Keeps.upd ?_ rfl rfl rfl rfl rfl rfl (by first | exact id | simp +contextual [shapes])
    | dsimp only)

theorem execRecordReceived_keeps (cols : List (List LaneWord)) (s : State) {w0 : State} (h0 : Keeps w0 s) : KeepsRes w0 (execRecordReceived cols s) := by
  unfold execRecordReceived
  repeat' (first
    | with_reducible assumption
    | with_reducible refine KeepsRes.next ?_
    | with_reducible refine (onMessage_keeps _ _ _ _ ?_ ?_)
    | with_reducible refine (takeRecord_keeps _ _ ?_)
    | (intro _; intros; beta_reduce)
    | dsimp only)

theorem twinSilent_keeps (s : State) {w0 : State} (h0 : Keeps w0 s) : Keeps w0 (twinSilent s) := by
  unfold twinSilent
  repeat' (first
    | with_reducible assumption
    | with_reducible refine (twinLost_keeps _ _ ?_)
    | split)

theorem twinLinkDown_keeps (silenceUs : ℕ) (s : State) {w0 : State} (h0 : Keeps w0 s) : Keeps w0 (twinLinkDown silenceUs s) := by
  unfold twinLinkDown
  repeat' (first
    | with_reducible assumption
    | (extract_lets +onlyGivenNames x; with_reducible refine Keeps.have_ (x := x) ?_ ?_; (on_goal 2 => (clear_value x; intro)); on_goal 1 => subst x)
    | (extract_lets +onlyGivenNames x; clear_value x)
    | with_reducible refine (condOn_keeps _ _ _ ?_)
    | split
    | fail_if_no_progress with_reducible refine Keeps.upd ?_ rfl rfl rfl rfl rfl rfl (by first | exact id | simp +contextual [shapes])
    | dsimp only)

theorem execHeartbeatSilence_keeps (us : ℕ) (s : State) {w0 : State} (h0 : Keeps w0 s) : KeepsRes w0 (execHeartbeatSilence us s) := by
  unfold execHeartbeatSilence
  repeat' (first
    | with_reducible assumption
    | (extract_lets +onlyGivenNames x; with_reducible refine KeepsRes.have_ (x := x) ?_ ?_; (on_goal 2 => (clear_value x; intro)); on_goal 1 => subst x)
    | (extract_lets +onlyGivenNames x; with_reducible refine Keeps.have_ (x := x) ?_ ?_; (on_goal 2 => (clear_value x; intro)); on_goal 1 => subst x)
    | (extract_lets +onlyGivenNames x; clear_value x)
    | with_reducible refine KeepsRes.next ?_
    | with_reducible refine (twinSilent_keeps _ ?_)
    | with_reducible refine (twinLinkDown_keeps _ _ ?_)
    | split
    | fail_if_no_progress with_reducible refine Keeps.upd ?_ rfl rfl rfl rfl rfl rfl (by first | exact id | simp +contextual [shapes])
    | dsimp only)

theorem takeSnuff_keeps (b : List Byte) (s : State) {w0 : State} (h0 : Keeps w0 s) : Keeps w0 (takeSnuff b s) := by
  unfold takeSnuff
  repeat' (first
    | with_reducible assumption
    | (extract_lets +onlyGivenNames x; with_reducible refine Keeps.have_ (x := x) ?_ ?_; (on_goal 2 => (clear_value x; intro)); on_goal 1 => subst x)
    | with_reducible refine (takeSeq_keeps _ _ ?_)
    | with_reducible refine (twinLost_keeps _ _ ?_)
    | split)

theorem takeRole_keeps (role : ℕ) (s : State) {w0 : State} (h0 : Keeps w0 s) : Keeps w0 (takeRole role s) := by
  unfold takeRole
  repeat' (first
    | with_reducible assumption
    | (extract_lets +onlyGivenNames x; with_reducible refine Keeps.have_ (x := x) ?_ ?_; (on_goal 2 => (clear_value x; intro)); on_goal 1 => subst x)
    | (extract_lets +onlyGivenNames x; (first | (have h : @Eq Lnk x x := rfl; clear h; subst x) | clear_value x))
    | with_reducible refine (switchSrc_keeps _ _ ?_)
    | with_reducible refine (condOff_keeps _ _ _ ?_)
    | with_reducible refine (disableLane_keeps _ _ ?_)
    | with_reducible refine (enableLane_keeps _ _ ?_)
    | with_reducible refine (twinState_keeps _ _ ?_)
    | (with_reducible refine Keeps.foldl _ ?_ ?_; on_goal 1 => (intros; beta_reduce))
    | split
    | (intro _; intros; beta_reduce)
    | fail_if_no_progress with_reducible refine Keeps.upd ?_ rfl rfl rfl rfl rfl rfl (by first | exact id | simp +contextual [shapes])
    | dsimp only)

theorem execTwinAliveInactive_keeps (s : State) {w0 : State} (h0 : Keeps w0 s) : KeepsRes w0 (execTwinAliveInactive s) := by
  unfold execTwinAliveInactive
  repeat' (first
    | with_reducible assumption
    | (extract_lets +onlyGivenNames x; with_reducible refine KeepsRes.have_ (x := x) ?_ ?_; (on_goal 2 => (clear_value x; intro)); on_goal 1 => subst x)
    | (extract_lets +onlyGivenNames x; with_reducible refine Keeps.have_ (x := x) ?_ ?_; (on_goal 2 => (clear_value x; intro)); on_goal 1 => subst x)
    | (extract_lets +onlyGivenNames x; clear_value x)
    | with_reducible refine KeepsRes.next ?_
    | with_reducible refine (twinSilent_keeps _ ?_)
    | split
    | fail_if_no_progress with_reducible refine Keeps.upd ?_ rfl rfl rfl rfl rfl rfl (by first | exact id | simp +contextual [shapes])
    | dsimp only)

theorem giveUp_keeps (r : TwinRec) (s : State) {w0 : State} (h0 : Keeps w0 s) : Keeps w0 (giveUp r s) := by
  unfold giveUp
  repeat' (first
    | with_reducible assumption
    | (extract_lets +onlyGivenNames x; with_reducible refine Keeps.have_ (x := x) ?_ ?_; (on_goal 2 => (clear_value x; intro)); on_goal 1 => subst x)
    | (extract_lets +onlyGivenNames x; clear_value x)
    | with_reducible refine (raise_keeps _ _ ?_)
    | fail_if_no_progress with_reducible refine Keeps.upd ?_ rfl rfl rfl rfl rfl rfl (by first | exact id | simp +contextual [shapes])
    | dsimp only)

theorem takeSkew_keeps (skewNs : ℤ) (s : State) {w0 : State} (h0 : Keeps w0 s) : Keeps w0 (takeSkew skewNs s) := by
  unfold takeSkew
  repeat' (first
    | with_reducible assumption
    | (extract_lets +onlyGivenNames x; with_reducible refine Keeps.have_ (x := x) ?_ ?_; (on_goal 2 => (clear_value x; intro)); on_goal 1 => subst x)
    | (extract_lets +onlyGivenNames x; clear_value x)
    | with_reducible refine (raiseF_keeps _ _ _ _ _ ?_)
    | split
    | fail_if_no_progress with_reducible refine Keeps.upd ?_ rfl rfl rfl rfl rfl rfl (by first | exact id | simp +contextual [shapes])
    | dsimp only)

theorem execSyncWordReceived_keeps (word : LaneWord) (inPacket : Option Bool) (count : ℕ) (s : State) {w0 : State} (h0 : Keeps w0 s) : KeepsRes w0 (execSyncWordReceived word inPacket count s) := by
  unfold execSyncWordReceived
  repeat' (first
    | with_reducible assumption
    | (extract_lets +onlyGivenNames x; with_reducible refine KeepsRes.have_ (x := x) ?_ ?_; (on_goal 2 => (clear_value x; intro)); on_goal 1 => subst x)
    | (extract_lets +onlyGivenNames x; clear_value x)
    | with_reducible refine KeepsRes.next ?_
    | with_reducible refine (takeWords_keeps _ _ _ ?_)
    | with_reducible refine (takeSkew_keeps _ _ ?_)
    | with_reducible refine (reference_keeps _ _ ?_)
    | split)

theorem execSnuffMessageReceived_keeps (cols : List (List LaneWord)) (s : State) {w0 : State} (h0 : Keeps w0 s) : KeepsRes w0 (execSnuffMessageReceived cols s) := by
  unfold execSnuffMessageReceived
  repeat' (first
    | with_reducible assumption
    | with_reducible refine KeepsRes.next ?_
    | with_reducible refine (onMessage_keeps _ _ _ _ ?_ ?_)
    | with_reducible refine (takeSnuff_keeps _ _ ?_)
    | (intro _; intros; beta_reduce)
    | dsimp only)

theorem sendRecord_keeps (r : TwinRec) (s : State) {w0 : State} (h0 : Keeps w0 s) : Keeps w0 (sendRecord r s) := by
  unfold sendRecord
  repeat' (first
    | with_reducible assumption
    | with_reducible refine (sendTwin_keeps _ _ _ ?_))

theorem execRecordSend_keeps (s : State) {w0 : State} (h0 : Keeps w0 s) : KeepsRes w0 (execRecordSend s) := by
  unfold execRecordSend
  repeat' (first
    | with_reducible assumption
    | (extract_lets +onlyGivenNames x; with_reducible refine KeepsRes.have_ (x := x) ?_ ?_; (on_goal 2 => (clear_value x; intro)); on_goal 1 => subst x)
    | (extract_lets +onlyGivenNames x; with_reducible refine Keeps.have_ (x := x) ?_ ?_; (on_goal 2 => (clear_value x; intro)); on_goal 1 => subst x)
    | (extract_lets +onlyGivenNames x; clear_value x)
    | with_reducible refine KeepsRes.next ?_
    | with_reducible refine (sendRecord_keeps _ _ ?_)
    | split
    | fail_if_no_progress with_reducible refine Keeps.upd ?_ rfl rfl rfl rfl rfl rfl (by first | exact id | simp +contextual [shapes])
    | dsimp only)

theorem takeTwinConfig_keeps (p : List Byte) (s : State) {w0 : State} (h0 : Keeps w0 s) : Keeps w0 (takeTwinConfig p s) := by
  unfold takeTwinConfig
  repeat' (first
    | with_reducible assumption
    | (extract_lets +onlyGivenNames x; with_reducible refine Keeps.have_ (x := x) ?_ ?_; (on_goal 2 => (clear_value x; intro)); on_goal 1 => subst x)
    | (extract_lets +onlyGivenNames x; clear_value x)
    | with_reducible refine (requestStore_keeps _ _ _ ?_)
    | split
    | fail_if_no_progress with_reducible refine Keeps.upd ?_ rfl rfl rfl rfl rfl rfl (by first | exact id | simp +contextual [shapes])
    | dsimp only)

theorem execTwinPinFault_keeps (s : State) {w0 : State} (h0 : Keeps w0 s) : KeepsRes w0 (execTwinPinFault s) := by
  unfold execTwinPinFault
  repeat' (first
    | with_reducible assumption
    | (extract_lets +onlyGivenNames x; with_reducible refine KeepsRes.have_ (x := x) ?_ ?_; (on_goal 2 => (clear_value x; intro)); on_goal 1 => subst x)
    | (extract_lets +onlyGivenNames x; with_reducible refine Keeps.have_ (x := x) ?_ ?_; (on_goal 2 => (clear_value x; intro)); on_goal 1 => subst x)
    | (extract_lets +onlyGivenNames x; clear_value x)
    | with_reducible refine KeepsRes.next ?_
    | with_reducible refine (condOn_keeps _ _ _ ?_)
    | split
    | fail_if_no_progress with_reducible refine Keeps.upd ?_ rfl rfl rfl rfl rfl rfl (by first | exact id | simp +contextual [shapes])
    | dsimp only)

theorem latchRole_keeps (s : State) {w0 : State} (h0 : Keeps w0 s) : Keeps w0 (latchRole s) := by
  unfold latchRole
  repeat' (first
    | with_reducible assumption
    | with_reducible refine (takeRole_keeps _ _ ?_)
    | split)

theorem execRecordRetransmit_keeps (s : State) {w0 : State} (h0 : Keeps w0 s) : KeepsRes w0 (execRecordRetransmit s) := by
  unfold execRecordRetransmit
  repeat' (first
    | with_reducible assumption
    | (extract_lets +onlyGivenNames x; with_reducible refine KeepsRes.have_ (x := x) ?_ ?_; (on_goal 2 => (clear_value x; intro)); on_goal 1 => subst x)
    | (extract_lets +onlyGivenNames x; with_reducible refine Keeps.have_ (x := x) ?_ ?_; (on_goal 2 => (clear_value x; intro)); on_goal 1 => subst x)
    | (extract_lets +onlyGivenNames x; clear_value x)
    | with_reducible refine KeepsRes.next ?_
    | with_reducible refine (giveUp_keeps _ _ ?_)
    | with_reducible refine (sendRecord_keeps _ _ ?_)
    | (with_reducible refine Keeps.foldl _ ?_ ?_; on_goal 1 => (intros; beta_reduce))
    | split
    | (intro _; intros; beta_reduce)
    | fail_if_no_progress with_reducible refine Keeps.upd ?_ rfl rfl rfl rfl rfl rfl (by first | exact id | simp +contextual [shapes])
    | dsimp only)

theorem execTwinAliveToggle_keeps (s : State) {w0 : State} (h0 : Keeps w0 s) : KeepsRes w0 (execTwinAliveToggle s) := by
  unfold execTwinAliveToggle
  repeat' (first
    | with_reducible assumption
    | (extract_lets +onlyGivenNames x; with_reducible refine KeepsRes.have_ (x := x) ?_ ?_; (on_goal 2 => (clear_value x; intro)); on_goal 1 => subst x)
    | (extract_lets +onlyGivenNames x; with_reducible refine Keeps.have_ (x := x) ?_ ?_; (on_goal 2 => (clear_value x; intro)); on_goal 1 => subst x)
    | (extract_lets +onlyGivenNames x; clear_value x)
    | with_reducible refine KeepsRes.next ?_
    | split
    | fail_if_no_progress with_reducible refine Keeps.upd ?_ rfl rfl rfl rfl rfl rfl (by first | exact id | simp +contextual [shapes])
    | dsimp only)

theorem execTwinConfig_keeps (rq : Rq) (s : State) {w0 : State} (h0 : Keeps w0 s) : KeepsRes w0 (execTwinConfig rq s) := by
  unfold execTwinConfig
  repeat' (first
    | with_reducible assumption
    | (extract_lets +onlyGivenNames x; with_reducible refine KeepsRes.have_ (x := x) ?_ ?_; (on_goal 2 => (clear_value x; intro)); on_goal 1 => subst x)
    | (extract_lets +onlyGivenNames x; with_reducible refine Keeps.have_ (x := x) ?_ ?_; (on_goal 2 => (clear_value x; intro)); on_goal 1 => subst x)
    | (extract_lets +onlyGivenNames x; clear_value x)
    | with_reducible refine (request_keeps _ _ _ _ _ _ _ ?_ ?_)
    | with_reducible refine (rep_keeps _ _ ?_)
    | with_reducible refine (tempWindow_keeps _ ?_)
    | with_reducible refine (takeTwinConfig_keeps _ _ ?_)
    | split
    | (intro _; intros; beta_reduce)
    | dsimp only)

theorem execHeartbeatSend_keeps (s : State) {w0 : State} (h0 : Keeps w0 s) : KeepsRes w0 (execHeartbeatSend s) := by
  unfold execHeartbeatSend
  repeat' (first
    | with_reducible assumption
    | with_reducible refine KeepsRes.next ?_
    | with_reducible refine (sendTwin_keeps _ _ _ ?_)
    | split)

theorem execTwinAliveEdge_keeps (silenceUs : ℕ) (s : State) {w0 : State} (h0 : Keeps w0 s) : KeepsRes w0 (execTwinAliveEdge silenceUs s) := by
  unfold execTwinAliveEdge
  repeat' (first
    | with_reducible assumption
    | (extract_lets +onlyGivenNames x; with_reducible refine KeepsRes.have_ (x := x) ?_ ?_; (on_goal 2 => (clear_value x; intro)); on_goal 1 => subst x)
    | (extract_lets +onlyGivenNames x; with_reducible refine Keeps.have_ (x := x) ?_ ?_; (on_goal 2 => (clear_value x; intro)); on_goal 1 => subst x)
    | (extract_lets +onlyGivenNames x; clear_value x)
    | with_reducible refine KeepsRes.next ?_
    | with_reducible refine (twinLinkDown_keeps _ _ ?_)
    | with_reducible refine (condOff_keeps _ _ _ ?_)
    | split
    | fail_if_no_progress with_reducible refine Keeps.upd ?_ rfl rfl rfl rfl rfl rfl (by first | exact id | simp +contextual [shapes])
    | dsimp only)

theorem execJoinTimeout_keeps (s : State) {w0 : State} (h0 : Keeps w0 s) : KeepsRes w0 (execJoinTimeout s) := by
  unfold execJoinTimeout
  repeat' (first
    | with_reducible assumption
    | with_reducible refine KeepsRes.next ?_
    | with_reducible refine (twinLost_keeps _ _ ?_)
    | split)

end Sys2Proof.Machine
end

