-- ==== Sys2Proof/Laws/KeepsLoad.lean ====
section
/-! SUPPORT. For each definition of Machine/Load.lean that answers a state: the queue stays as it is and the memories stay canonical. -/

namespace Sys2Proof.Machine

/-- The bytes of an MRAM range, moved to another base, are in canonical form. -/
theorem memWf_areaCells {s : State} {a len base : ℕ} (w : memWf s.nvm.mram = true) :
    memWf ((areaCells s a len).map (fun x => (base + x.1, BitVec.ofNat 8 x.2))) = true := by
  rw [memWf_iff] at *
  simp only [areaCells, List.map_map, List.pairwise_map]
  refine ⟨(w.1.filter _).imp_of_mem ?_, ?_⟩
  · intro x y hx hy h
    simp only [List.mem_filter, Bool.and_eq_true, decide_eq_true_eq] at hx hy
    simp only [Function.comp]
    omega
  · intro c hc
    simp only [List.mem_map, List.mem_filter, Function.comp] at hc
    obtain ⟨x, ⟨hx, -⟩, rfl⟩ := hc
    simpa using w.2 x hx

/-- They stand within the moved range. -/
theorem areaCells_bound {s : State} {a len base : ℕ} :
    ∀ c ∈ (areaCells s a len).map (fun x => (base + x.1, BitVec.ofNat 8 x.2)), base ≤ c.1 ∧ c.1 < base + len := by
  intro c hc
  simp only [areaCells, List.mem_map, List.mem_filter, Bool.and_eq_true, decide_eq_true_eq] at hc
  obtain ⟨x, ⟨y, ⟨-, hy⟩, rfl⟩, rfl⟩ := hc
  dsimp only
  omega

theorem loadTrim_keeps (s : State) {w0 : State} (h0 : Keeps w0 s) : Keeps w0 (loadTrim s) := by
  unfold loadTrim
  repeat' (first
    | with_reducible assumption
    | (extract_lets +onlyGivenNames x; with_reducible refine Keeps.have_ (x := x) ?_ ?_; (on_goal 2 => (clear_value x; intro)); on_goal 1 => subst x)
    | (extract_lets +onlyGivenNames x; (first | (have h : @Eq Nvm x x := rfl; clear h; subst x) | (have h : @Eq Pwr x x := rfl; clear h; subst x) | (have h : x = (fun _ => _) := rfl; subst x; beta_reduce) | (have h : x = (fun _ _ => _) := rfl; subst x; beta_reduce) | clear_value x))
    | with_reducible refine (stageCal_keeps _ _ ?_)
    | with_reducible refine (raise_keeps _ _ ?_)
    | split
    | fail_if_no_progress with_reducible refine Keeps.upd ?_ rfl rfl rfl rfl rfl rfl (by first | exact id | simp +contextual [shapes])
    | dsimp only)

theorem loadWicks_keeps (s : State) {w0 : State} (h0 : Keeps w0 s) : Keeps w0 (loadWicks s) := by
  unfold loadWicks
  repeat' (first
    | with_reducible assumption
    | (extract_lets +onlyGivenNames x; with_reducible refine Keeps.have_ (x := x) ?_ ?_; (on_goal 2 => (clear_value x; intro)); on_goal 1 => subst x)
    | (extract_lets +onlyGivenNames x; (first | (have h : @Eq Nvm x x := rfl; clear h; subst x) | clear_value x))
    | split
    | fail_if_no_progress with_reducible refine Keeps.upd ?_ rfl rfl rfl rfl rfl rfl (by first | exact id | simp +contextual [shapes])
    | dsimp only)

theorem loadWear_keeps (s : State) {w0 : State} (h0 : Keeps w0 s) : Keeps w0 (loadWear s) := by
  unfold loadWear
  repeat' (first
    | with_reducible assumption
    | (extract_lets +onlyGivenNames x; with_reducible refine Keeps.have_ (x := x) ?_ ?_; (on_goal 2 => (clear_value x; intro)); on_goal 1 => subst x)
    | (extract_lets +onlyGivenNames x; clear_value x)
    | split
    | fail_if_no_progress with_reducible refine Keeps.upd ?_ rfl rfl rfl rfl rfl rfl (by first | exact id | simp +contextual [shapes])
    | dsimp only)

theorem listLoaded_keeps (s : State) {w0 : State} (h0 : Keeps w0 s) : Keeps w0 (listLoaded s) := by
  unfold listLoaded
  repeat' (first
    | with_reducible assumption
    | (extract_lets +onlyGivenNames x; with_reducible refine Keeps.have_ (x := x) ?_ ?_; (on_goal 2 => (clear_value x; intro)); on_goal 1 => subst x)
    | (extract_lets +onlyGivenNames x; (first | (have h : @Eq Diag x x := rfl; clear h; subst x) | clear_value x))
    | with_reducible refine (raise_keeps _ _ ?_)
    | split
    | fail_if_no_progress with_reducible refine Keeps.upd ?_ rfl rfl rfl rfl rfl rfl (by first | exact id | simp +contextual [shapes])
    | dsimp only)

theorem loadDefects_keeps (s : State) {w0 : State} (h0 : Keeps w0 s) : Keeps w0 (loadDefects s) := by
  unfold loadDefects
  repeat' (first
    | with_reducible assumption
    | (extract_lets +onlyGivenNames x; with_reducible refine Keeps.have_ (x := x) ?_ ?_; (on_goal 2 => (clear_value x; intro)); on_goal 1 => subst x)
    | (extract_lets +onlyGivenNames x; (first | (have h : @Eq Diag x x := rfl; clear h; subst x) | clear_value x))
    | with_reducible refine (evalDefects_keeps _ ?_)
    | with_reducible refine (listLoaded_keeps _ ?_)
    | (with_reducible refine Keeps.foldl _ ?_ ?_; on_goal 1 => (intros; beta_reduce))
    | split
    | (intro _; intros; beta_reduce)
    | fail_if_no_progress with_reducible refine Keeps.upd ?_ rfl rfl rfl rfl rfl rfl (by first | exact id | simp +contextual [shapes])
    | dsimp only)

theorem loadTherm_keeps (s : State) {w0 : State} (h0 : Keeps w0 s) : Keeps w0 (loadTherm s) := by
  unfold loadTherm
  extract_lets plain bad
  have p : Keeps w0 (plain s) := Keeps.upd h0 rfl rfl rfl rfl rfl rfl id
  have q : Keeps w0 (bad s) := raise_keeps _ _ p
  repeat' split
  all_goals first
    | exact p
    | exact q
    | exact Keeps.upd h0 rfl rfl rfl rfl rfl rfl id

theorem loadRole_keeps (role : ℕ) (s : State) {w0 : State} (h0 : Keeps w0 s) : Keeps w0 (loadRole role s) := by
  unfold loadRole
  repeat' (first
    | with_reducible assumption
    | (extract_lets +onlyGivenNames x; with_reducible refine Keeps.have_ (x := x) ?_ ?_; (on_goal 2 => (clear_value x; intro)); on_goal 1 => subst x)
    | (extract_lets +onlyGivenNames x; (first | (have h : @Eq Flt x x := rfl; clear h; subst x) | clear_value x))
    | with_reducible refine (twinState_keeps _ _ ?_)
    | with_reducible refine (takeRole_keeps _ _ ?_)
    | split
    | fail_if_no_progress with_reducible refine Keeps.upd ?_ rfl rfl rfl rfl rfl rfl (by first | exact id | simp +contextual [shapes])
    | dsimp only)

theorem loadTwin_keeps (s : State) {w0 : State} (h0 : Keeps w0 s) : Keeps w0 (loadTwin s) := by
  unfold loadTwin
  repeat' (first
    | with_reducible assumption
    | (extract_lets +onlyGivenNames x; with_reducible refine Keeps.have_ (x := x) ?_ ?_; (on_goal 2 => (clear_value x; intro)); on_goal 1 => subst x)
    | (extract_lets +onlyGivenNames x; clear_value x)
    | with_reducible refine (loadRole_keeps _ _ ?_)
    | with_reducible refine (raise_keeps _ _ ?_)
    | split
    | fail_if_no_progress with_reducible refine Keeps.upd ?_ rfl rfl rfl rfl rfl rfl (by first | exact id | simp +contextual [shapes])
    | dsimp only)

theorem loadDroop_keeps (s : State) {w0 : State} (h0 : Keeps w0 s) : Keeps w0 (loadDroop s) := by
  unfold loadDroop
  repeat' (first
    | with_reducible assumption
    | (extract_lets +onlyGivenNames x; with_reducible refine Keeps.have_ (x := x) ?_ ?_; (on_goal 2 => (clear_value x; intro)); on_goal 1 => subst x)
    | (extract_lets +onlyGivenNames x; (first | (have h : x = (fun _ => _) := rfl; subst x; beta_reduce) | (have h : x = (fun _ _ => _) := rfl; subst x; beta_reduce) | clear_value x))
    | with_reducible refine (raise_keeps _ _ ?_)
    | with_reducible refine (recomputeGains_keeps _ ?_)
    | (split; with_reducible refine Keeps.pair_ ‹_ = (_, _)› ?_ ?_; on_goal 2 => intro)
    | split
    | fail_if_no_progress with_reducible refine Keeps.upd ?_ rfl rfl rfl rfl rfl rfl (by first | exact id | simp +contextual [shapes])
    | dsimp only)

theorem countCopy_keeps (c : ℕ) (n : ℕ) (s : State) {w0 : State} (h0 : Keeps w0 s) : Keeps w0 (countCopy c n s) := by
  unfold countCopy
  repeat' (first
    | with_reducible assumption
    | (extract_lets +onlyGivenNames x; clear_value x)
    | with_reducible refine (takeFree_keeps _ ?_)
    | with_reducible refine (modBank_keeps _ _ _ ?_)
    | with_reducible refine (modMaster_keeps _ _ _ ?_))

theorem copyPattern_keeps (c : ℕ) (s : State) {w0 : State} (h0 : Keeps w0 s) : Keeps w0 (copyPattern c s) := by
  unfold copyPattern
  extract_lets base len src cells m t b
  have k : Keeps w0 t := by
    refine countCopy_keeps _ _ _ ?_
    refine ⟨⟨h0.pending, fun c => ?_, h0.shaped⟩, h0.locked, h0.released⟩
    have c := canonical_iff.1 (h0.canonical c)
    refine canonical_iff.2 ⟨?_, c.2⟩
    refine memWf_append3 (lo := base) (hi := base + len) (memWf_filter c.1) (memWf_areaCells c.2.1) (memWf_filter c.1) ?_
      areaCells_bound ?_ (by omega)
    · simp
    · simp
  split
  · exact guFeedSource_keeps _ _ _ (guFeedSource_keeps _ _ _ k)
  · exact k

theorem patternBad_keeps (c : ℕ) (f : ℕ × ℕ × ℕ × ℕ) (s : State) {w0 : State} (h0 : Keeps w0 s) : Keeps w0 (patternBad c f s) := by
  unfold patternBad
  repeat' (first
    | with_reducible assumption
    | (extract_lets +onlyGivenNames x; with_reducible refine Keeps.have_ (x := x) ?_ ?_; (on_goal 2 => (clear_value x; intro)); on_goal 1 => subst x)
    | (extract_lets +onlyGivenNames x; (first | (have h : @Eq Pwr x x := rfl; clear h; subst x) | clear_value x))
    | with_reducible refine (raise_keeps _ _ ?_)
    | split
    | fail_if_no_progress with_reducible refine Keeps.upd ?_ rfl rfl rfl rfl rfl rfl (by first | exact id | simp +contextual [shapes])
    | dsimp only)

theorem noPatterns_keeps (p : ℕ) (b : ℕ) (s : State) {w0 : State} (h0 : Keeps w0 s) : Keeps w0 (noPatterns p b s) := by
  unfold noPatterns
  repeat' (first
    | with_reducible assumption
    | (extract_lets +onlyGivenNames x; with_reducible refine Keeps.have_ (x := x) ?_ ?_; (on_goal 2 => (clear_value x; intro)); on_goal 1 => subst x)
    | (extract_lets +onlyGivenNames x; (first | (have h : @Eq Nvm x x := rfl; clear h; subst x) | (have h : @Eq Pwr x x := rfl; clear h; subst x) | clear_value x))
    | with_reducible refine (raise_keeps _ _ ?_)
    | fail_if_no_progress with_reducible refine Keeps.upd ?_ rfl rfl rfl rfl rfl rfl (by first | exact id | simp +contextual [shapes])
    | dsimp only)

theorem loadPatterns_keeps (s : State) {w0 : State} (h0 : Keeps w0 s) : Keeps w0 (loadPatterns s) := by
  unfold loadPatterns
  repeat' (first
    | with_reducible assumption
    | (extract_lets +onlyGivenNames x; with_reducible refine Keeps.have_ (x := x) ?_ ?_; (on_goal 2 => (clear_value x; intro)); on_goal 1 => subst x)
    | (extract_lets +onlyGivenNames x; (first | (have h : @Eq Nvm x x := rfl; clear h; subst x) | clear_value x))
    | with_reducible refine (copyPattern_keeps _ _ ?_)
    | with_reducible refine (patternBad_keeps _ _ _ ?_)
    | with_reducible refine (noPatterns_keeps _ _ _ ?_)
    | split
    | fail_if_no_progress with_reducible refine Keeps.upd ?_ rfl rfl rfl rfl rfl rfl (by first | exact id | simp +contextual [shapes])
    | dsimp only)

theorem completeTimes_keeps (secs : ℕ) (cycles : ℕ) (s : State) {w0 : State} (h0 : Keeps w0 s) : Keeps w0 (completeTimes secs cycles s) := by
  unfold completeTimes
  repeat' (first
    | with_reducible assumption
    | (extract_lets +onlyGivenNames x; with_reducible refine Keeps.have_ (x := x) ?_ ?_; (on_goal 2 => (clear_value x; intro)); on_goal 1 => subst x)
    | (extract_lets +onlyGivenNames x; (first | (have h : @Eq Thm x x := rfl; clear h; subst x) | (have h : @Eq Flt x x := rfl; clear h; subst x) | clear_value x))
    | split
    | (intro _; intros; beta_reduce)
    | fail_if_no_progress with_reducible refine Keeps.upd ?_ rfl rfl rfl rfl rfl rfl (by first | exact id | simp +contextual [shapes])
    | dsimp only)

theorem loadLife_keeps (s : State) {w0 : State} (h0 : Keeps w0 s) : Keeps w0 (loadLife s) := by
  unfold loadLife
  repeat' (first
    | with_reducible assumption
    | (extract_lets +onlyGivenNames x; with_reducible refine Keeps.have_ (x := x) ?_ ?_; (on_goal 2 => (clear_value x; intro)); on_goal 1 => subst x)
    | (extract_lets +onlyGivenNames x; clear_value x)
    | with_reducible refine (completeTimes_keeps _ _ _ ?_)
    | with_reducible refine (raise_keeps _ _ ?_)
    | split
    | fail_if_no_progress with_reducible refine Keeps.upd ?_ rfl rfl rfl rfl rfl rfl (by first | exact id | simp +contextual [shapes])
    | dsimp only)

theorem takeContent_keeps (c : ℕ) (s : State) {w0 : State} (h0 : Keeps w0 s) : Keeps w0 (takeContent c s) := by
  unfold takeContent
  repeat' (first
    | with_reducible assumption
    | with_reducible refine (loadTrim_keeps _ ?_)
    | with_reducible refine (loadWicks_keeps _ ?_)
    | with_reducible refine (loadWear_keeps _ ?_)
    | with_reducible refine (loadDefects_keeps _ ?_)
    | with_reducible refine (loadTherm_keeps _ ?_)
    | with_reducible refine (loadTwin_keeps _ ?_)
    | with_reducible refine (loadDroop_keeps _ ?_)
    | with_reducible refine (loadPatterns_keeps _ ?_)
    | with_reducible refine (loadLife_keeps _ ?_)
    | split)

theorem checkSlot_keeps (c : ℕ) (s : State) (k : ℕ) {w0 : State} (h0 : Keeps w0 s) : Keeps w0 (checkSlot c s k) := by
  unfold checkSlot
  repeat' (first
    | with_reducible assumption
    | (extract_lets +onlyGivenNames x; with_reducible refine Keeps.have_ (x := x) ?_ ?_; (on_goal 2 => (clear_value x; intro)); on_goal 1 => subst x)
    | (extract_lets +onlyGivenNames x; (first | (have h : @Eq Nvm x x := rfl; clear h; subst x) | clear_value x))
    | with_reducible refine (note_keeps _ _ ?_)
    | split
    | fail_if_no_progress with_reducible refine Keeps.upd ?_ rfl rfl rfl rfl rfl rfl (by first | exact id | simp +contextual [shapes])
    | dsimp only)

theorem loadContent_keeps (s : State) (c : ℕ) {w0 : State} (h0 : Keeps w0 s) : Keeps w0 (loadContent s c) := by
  unfold loadContent
  repeat' (first
    | with_reducible assumption
    | (extract_lets +onlyGivenNames x; with_reducible refine Keeps.have_ (x := x) ?_ ?_; (on_goal 2 => (clear_value x; intro)); on_goal 1 => subst x)
    | (extract_lets +onlyGivenNames x; clear_value x)
    | with_reducible refine (checkSlot_keeps _ _ _ ?_)
    | with_reducible refine (setInForce_keeps _ _ _ _ ?_)
    | (with_reducible refine Keeps.foldl _ ?_ ?_; on_goal 1 => (intros; beta_reduce))
    | split
    | fail_if_no_progress with_reducible refine Keeps.upd ?_ rfl rfl rfl rfl rfl rfl (by first | exact id | simp +contextual [shapes])
    | dsimp only)

theorem loadList_keeps (l : List ℕ) (s : State) {w0 : State} (h0 : Keeps w0 s) : Keeps w0 (loadList l s) := by
  unfold loadList
  repeat' (first
    | with_reducible assumption
    | with_reducible refine (takeContent_keeps _ _ ?_)
    | with_reducible refine (loadContent_keeps _ _ ?_)
    | (with_reducible refine Keeps.foldl _ ?_ ?_; on_goal 1 => (intros; beta_reduce))
    | split
    | (intro _; intros; beta_reduce)
    | dsimp only)

theorem loadAll_keeps (s : State) {w0 : State} (h0 : Keeps w0 s) : Keeps w0 (loadAll s) := by
  unfold loadAll
  repeat' (first
    | with_reducible assumption
    | (extract_lets +onlyGivenNames x; clear_value x)
    | with_reducible refine (loadList_keeps _ _ ?_)
    | with_reducible refine (openReads_keeps _ ?_))

theorem scanNow_keeps (s : State) {w0 : State} (h0 : Keeps w0 s) : Keeps w0 (scanNow s) := by
  unfold scanNow
  repeat' (first
    | with_reducible assumption
    | (extract_lets +onlyGivenNames x; with_reducible refine Keeps.have_ (x := x) ?_ ?_; (on_goal 2 => (clear_value x; intro)); on_goal 1 => subst x)
    | (extract_lets +onlyGivenNames x; clear_value x)
    | with_reducible refine (runScan_keeps _ _ _ ?_)
    | split
    | fail_if_no_progress with_reducible refine Keeps.upd ?_ rfl rfl rfl rfl rfl rfl (by first | exact id | simp +contextual [shapes])
    | dsimp only)

theorem execNvmLoadComplete_keeps (m : CalMeas) (s : State) {w0 : State} (h0 : Keeps w0 s) : KeepsRes w0 (execNvmLoadComplete m s) := by
  unfold execNvmLoadComplete
  repeat' (first
    | with_reducible assumption
    | (extract_lets +onlyGivenNames x; with_reducible refine KeepsRes.have_ (x := x) ?_ ?_; (on_goal 2 => (clear_value x; intro)); on_goal 1 => subst x)
    | (extract_lets +onlyGivenNames x; with_reducible refine Keeps.have_ (x := x) ?_ ?_; (on_goal 2 => (clear_value x; intro)); on_goal 1 => subst x)
    | (extract_lets +onlyGivenNames x; (first | (have h : @Eq Nvm x x := rfl; clear h; subst x) | (have h : @Eq Pwr x x := rfl; clear h; subst x) | clear_value x))
    | with_reducible refine KeepsRes.guarded ?_
    | with_reducible refine (guarded_keeps _ _ ?_)
    | with_reducible refine (loadAll_keeps _ ?_)
    | with_reducible refine (scanNow_keeps _ ?_)
    | split
    | fail_if_no_progress with_reducible refine Keeps.upd ?_ rfl rfl rfl rfl rfl rfl (by first | exact id | simp +contextual [shapes])
    | dsimp only)

theorem loadHeader_keeps (s : State) {w0 : State} (h0 : Keeps w0 s) : Keeps w0 (loadHeader s) := by
  unfold loadHeader
  repeat' (first
    | with_reducible assumption
    | (extract_lets +onlyGivenNames x; with_reducible refine Keeps.have_ (x := x) ?_ ?_; (on_goal 2 => (clear_value x; intro)); on_goal 1 => subst x)
    | (extract_lets +onlyGivenNames x; (first | (have h : @Eq Nvm x x := rfl; clear h; subst x) | clear_value x))
    | with_reducible refine (setOffsets_keeps _ _ ?_)
    | split
    | (intro _; intros; beta_reduce)
    | fail_if_no_progress with_reducible refine Keeps.upd ?_ rfl rfl rfl rfl rfl rfl (by first | exact id | simp +contextual [shapes])
    | dsimp only)

theorem loadFirst_keeps (s : State) {w0 : State} (h0 : Keeps w0 s) : Keeps w0 (loadFirst s) := by
  unfold loadFirst
  repeat' (first
    | with_reducible assumption
    | (extract_lets +onlyGivenNames x; with_reducible refine Keeps.have_ (x := x) ?_ ?_; (on_goal 2 => (clear_value x; intro)); on_goal 1 => subst x)
    | (extract_lets +onlyGivenNames x; (first | (have h : @Eq Nvm x x := rfl; clear h; subst x) | clear_value x))
    | with_reducible refine (loadList_keeps _ _ ?_)
    | with_reducible refine (openReads_keeps _ ?_)
    | split
    | fail_if_no_progress with_reducible refine Keeps.upd ?_ rfl rfl rfl rfl rfl rfl (by first | exact id | simp +contextual [shapes])
    | dsimp only)

theorem zeroStore_keeps (s : State) {w0 : State} (h0 : Keeps w0 s) : Keeps w0 (zeroStore s) := ⟨⟨h0.pending, fun c => by
    have c := canonical_iff.1 (h0.canonical c)
    exact canonical_iff.2 ⟨rfl, c.2⟩, h0.shaped⟩, h0.locked, h0.released⟩

theorem execPatternReload_keeps (belay : Bool) (s : State) {w0 : State} (h0 : Keeps w0 s) : KeepsRes w0 (execPatternReload belay s) := by
  unfold execPatternReload
  repeat' (first
    | with_reducible assumption
    | (extract_lets +onlyGivenNames x; with_reducible refine KeepsRes.have_ (x := x) ?_ ?_; (on_goal 2 => (clear_value x; intro)); on_goal 1 => subst x)
    | (extract_lets +onlyGivenNames x; with_reducible refine Keeps.have_ (x := x) ?_ ?_; (on_goal 2 => (clear_value x; intro)); on_goal 1 => subst x)
    | (extract_lets +onlyGivenNames x; (first | (have h : @Eq Nvm x x := rfl; clear h; subst x) | clear_value x))
    | with_reducible refine KeepsRes.next ?_
    | with_reducible refine (openReads_keeps _ ?_)
    | with_reducible refine (copyPattern_keeps _ _ ?_)
    | with_reducible refine (noPatterns_keeps _ _ _ ?_)
    | with_reducible refine (patternBad_keeps _ _ _ ?_)
    | (split; with_reducible refine KeepsRes.triple_ ‹_ = (_, _, _)› ?_ ?_; on_goal 2 => intro)
    | (split; with_reducible refine Keeps.triple_ ‹_ = (_, _, _)› ?_ ?_; on_goal 2 => intro)
    | split
    | fail_if_no_progress with_reducible refine Keeps.upd ?_ rfl rfl rfl rfl rfl rfl (by first | exact id | simp +contextual [shapes])
    | dsimp only)

theorem execCalibrationComplete_keeps (us : ℕ) (s : State) {w0 : State} (h0 : Keeps w0 s) : KeepsRes w0 (execCalibrationComplete us s) := by
  unfold execCalibrationComplete
  repeat' (first
    | with_reducible assumption
    | with_reducible refine KeepsRes.next ?_
    | with_reducible refine (judgeKindle_keeps _ _ _ ?_)
    | split)

end Sys2Proof.Machine
end

