-- ==== Sys2Proof/Laws/KeepsThermal.lean ====
section
/-! SUPPORT. For each definition of Machine/Thermal.lean that answers a state: the queue stays as it is and the memories stay canonical. -/

namespace Sys2Proof.Machine

theorem execNvmWindowOpen_keeps (s : State) {w0 : State} (h0 : Keeps w0 s) : KeepsRes w0 (execNvmWindowOpen s) := by
  unfold execNvmWindowOpen
  repeat' (first
    | with_reducible assumption
    | with_reducible refine KeepsRes.next ?_
    | with_reducible refine (openNvm_keeps _ ?_)
    | split)

theorem leaveShutdown_keeps (s : State) {w0 : State} (h0 : Keeps w0 s) : Keeps w0 (leaveShutdown s).2 := by
  unfold leaveShutdown
  repeat' (first
    | with_reducible assumption
    | (extract_lets +onlyGivenNames x; with_reducible refine Keeps.have_ (x := x) ?_ ?_; (on_goal 2 => (clear_value x; intro)); on_goal 1 => subst x)
    | (extract_lets +onlyGivenNames x; (first | (have h : @Eq Pwr x x := rfl; clear h; subst x) | (have h : @Eq Flt x x := rfl; clear h; subst x) | clear_value x))
    | with_reducible refine (clearClasses_keeps _ _ ?_)
    | split
    | (intro _; intros; beta_reduce)
    | fail_if_no_progress with_reducible refine Keeps.upd ?_ rfl rfl rfl rfl rfl rfl (by first | exact id | simp +contextual [shapes])
    | dsimp only)

theorem execAutoRekindle_keeps (s : State) {w0 : State} (h0 : Keeps w0 s) : KeepsRes w0 (execAutoRekindle s) := by
  unfold execAutoRekindle
  repeat' (first
    | with_reducible assumption
    | with_reducible refine KeepsRes.next ?_
    | with_reducible refine (leaveShutdown_keeps _ ?_)
    | with_reducible refine (rekindle_keeps _ _ ?_)
    | (split; with_reducible refine Keeps.pair_ ‹_ = (_, _)› ?_ ?_; on_goal 2 => intro)
    | split)

theorem roundFree_keeps (exact : Bool) (s : State) {w0 : State} (h0 : Keeps w0 s) : Keeps w0 (roundFree exact s).2 := by
  unfold roundFree
  repeat' (first
    | with_reducible assumption
    | with_reducible refine (takeFree_keeps _ ?_)
    | split)

theorem trip_keeps (s : State) {w0 : State} (h0 : Keeps w0 s) : Keeps w0 (trip s) := by
  unfold trip
  repeat' (first
    | with_reducible assumption
    | with_reducible refine (condOn_keeps _ _ _ ?_)
    | split)

theorem ntcConvert_keeps (code : ℕ) (beta : ℕ) (res : ℕ) (s : State) {w0 : State} (h0 : Keeps w0 s) : Keeps w0 (ntcConvert code beta res s).2 := by
  unfold ntcConvert
  repeat' (first
    | with_reducible assumption
    | (extract_lets +onlyGivenNames x; clear_value x)
    | with_reducible refine (takeFree_keeps _ ?_)
    | (split; with_reducible refine Keeps.pair_ ‹_ = (_, _)› ?_ ?_; on_goal 2 => intro))

theorem execNtcConversion_keeps (code : ℕ) (s : State) {w0 : State} (h0 : Keeps w0 s) : KeepsRes w0 (execNtcConversion code s) := by
  unfold execNtcConversion
  repeat' (first
    | with_reducible assumption
    | (extract_lets +onlyGivenNames x; with_reducible refine KeepsRes.have_ (x := x) ?_ ?_; (on_goal 2 => (clear_value x; intro)); on_goal 1 => subst x)
    | (extract_lets +onlyGivenNames x; with_reducible refine Keeps.have_ (x := x) ?_ ?_; (on_goal 2 => (clear_value x; intro)); on_goal 1 => subst x)
    | (extract_lets +onlyGivenNames x; (first | (have h : @Eq Thm x x := rfl; clear h; subst x) | clear_value x))
    | with_reducible refine KeepsRes.guarded ?_
    | with_reducible refine (guarded_keeps _ _ ?_)
    | with_reducible refine (note_keeps _ _ ?_)
    | with_reducible refine (ntcConvert_keeps _ _ _ _ ?_)
    | (split; with_reducible refine KeepsRes.pair_ ‹_ = (_, _)› ?_ ?_; on_goal 2 => intro)
    | (split; with_reducible refine Keeps.pair_ ‹_ = (_, _)› ?_ ?_; on_goal 2 => intro)
    | split
    | fail_if_no_progress with_reducible refine Keeps.upd ?_ rfl rfl rfl rfl rfl rfl (by first | exact id | simp +contextual [shapes])
    | dsimp only)

theorem breakCommits_keeps (s : State) {w0 : State} (h0 : Keeps w0 s) : Keeps w0 (breakCommits s) := by
  unfold breakCommits
  repeat' (first
    | with_reducible assumption
    | (extract_lets +onlyGivenNames x; with_reducible refine Keeps.have_ (x := x) ?_ ?_; (on_goal 2 => (clear_value x; intro)); on_goal 1 => subst x)
    | (extract_lets +onlyGivenNames x; clear_value x)
    | with_reducible refine (completeEachOpen_keeps _ _ _ _ ?_)
    | with_reducible refine (countDefers_keeps _ _ ?_)
    | with_reducible refine (tearLoad_keeps _ ?_)
    | with_reducible refine (tearPatch_keeps _ ?_)
    | split)

theorem takeTherm_keeps (s : State) {w0 : State} (h0 : Keeps w0 s) : Keeps w0 (takeTherm s) := by
  unfold takeTherm
  split
  · exact h0
  · exact Keeps.upd h0 rfl rfl rfl rfl rfl rfl id

theorem lowerF_keeps (f : ℕ) (s : State) {w0 : State} (h0 : Keeps w0 s) : Keeps w0 (lowerF f s) := by
  unfold lowerF
  repeat' (first
    | with_reducible assumption
    | (extract_lets +onlyGivenNames x; with_reducible refine Keeps.have_ (x := x) ?_ ?_; (on_goal 2 => (clear_value x; intro)); on_goal 1 => subst x)
    | (extract_lets +onlyGivenNames x; (first | (have h : @Eq Thm x x := rfl; clear h; subst x) | clear_value x))
    | with_reducible refine (raiseF_keeps _ _ _ _ _ ?_)
    | split
    | fail_if_no_progress with_reducible refine Keeps.upd ?_ rfl rfl rfl rfl rfl rfl (by first | exact id | simp +contextual [shapes])
    | dsimp only)

theorem raiseThermF_keeps (s : State) {w0 : State} (h0 : Keeps w0 s) : Keeps w0 (raiseThermF s) := by
  unfold raiseThermF
  repeat' (first
    | with_reducible assumption
    | (extract_lets +onlyGivenNames x; with_reducible refine Keeps.have_ (x := x) ?_ ?_; (on_goal 2 => (clear_value x; intro)); on_goal 1 => subst x)
    | (extract_lets +onlyGivenNames x; (first | (have h : @Eq Thm x x := rfl; clear h; subst x) | clear_value x))
    | with_reducible refine (noteF_keeps _ _ _ _ _ ?_)
    | split
    | fail_if_no_progress with_reducible refine Keeps.upd ?_ rfl rfl rfl rfl rfl rfl (by first | exact id | simp +contextual [shapes])
    | dsimp only)

theorem execDerateStep_keeps (s : State) {w0 : State} (h0 : Keeps w0 s) : KeepsRes w0 (execDerateStep s) := by
  unfold execDerateStep
  repeat' (first
    | with_reducible assumption
    | with_reducible refine KeepsRes.next ?_
    | with_reducible refine (lowerF_keeps _ _ ?_)
    | with_reducible refine (raiseThermF_keeps _ ?_)
    | split)

theorem senseLost_keeps (s : State) {w0 : State} (h0 : Keeps w0 s) : Keeps w0 (senseLost s) := by
  unfold senseLost
  repeat' (first
    | with_reducible assumption
    | (extract_lets +onlyGivenNames x; with_reducible refine Keeps.have_ (x := x) ?_ ?_; (on_goal 2 => (clear_value x; intro)); on_goal 1 => subst x)
    | (extract_lets +onlyGivenNames x; clear_value x)
    | with_reducible refine (condOn_keeps _ _ _ ?_)
    | with_reducible refine (lowerF_keeps _ _ ?_)
    | split)

theorem newTemps_keeps (s : State) {w0 : State} (h0 : Keeps w0 s) : Keeps w0 (newTemps s) := by
  unfold newTemps
  repeat' (first
    | with_reducible assumption
    | (extract_lets +onlyGivenNames x; with_reducible refine Keeps.have_ (x := x) ?_ ?_; (on_goal 2 => (clear_value x; intro)); on_goal 1 => subst x)
    | (extract_lets +onlyGivenNames x; (first | (have h : @Eq Thm x x := rfl; clear h; subst x) | (have h : x = (fun _ => _) := rfl; subst x; beta_reduce) | (have h : x = (fun _ _ => _) := rfl; subst x; beta_reduce) | clear_value x))
    | with_reducible refine (roundFree_keeps _ _ ?_)
    | (with_reducible refine Keeps.foldl _ ?_ ?_; on_goal 1 => (intros; beta_reduce))
    | (split; with_reducible refine Keeps.pair_ ‹_ = (_, _)› ?_ ?_; on_goal 2 => intro)
    | split
    | (intro _; intros; beta_reduce)
    | fail_if_no_progress with_reducible refine Keeps.upd ?_ rfl rfl rfl rfl rfl rfl (by first | exact id | simp +contextual [shapes])
    | dsimp only)

theorem breakStore_keeps (s : State) {w0 : State} (h0 : Keeps w0 s) : Keeps w0 (breakStore s) := by
  unfold breakStore
  repeat' (first
    | with_reducible assumption
    | (extract_lets +onlyGivenNames x; with_reducible refine Keeps.have_ (x := x) ?_ ?_; (on_goal 2 => (clear_value x; intro)); on_goal 1 => subst x)
    | (extract_lets +onlyGivenNames x; clear_value x)
    | with_reducible refine (countDefers_keeps _ _ ?_)
    | with_reducible refine (tearStore_keeps _ ?_)
    | with_reducible refine (resolveStore_keeps _ _ _ _ ?_)
    | with_reducible refine (requeueStore_keeps _ _ ?_)
    | (with_reducible refine Keeps.foldl _ ?_ ?_; on_goal 1 => (intros; beta_reduce))
    | split
    | fail_if_no_progress with_reducible refine Keeps.upd ?_ rfl rfl rfl rfl rfl rfl (by first | exact id | simp +contextual [shapes])
    | dsimp only)

theorem closeNvm_keeps (s : State) {w0 : State} (h0 : Keeps w0 s) : Keeps w0 (closeNvm s) := by
  unfold closeNvm
  repeat' (first
    | with_reducible assumption
    | (extract_lets +onlyGivenNames x; with_reducible refine Keeps.have_ (x := x) ?_ ?_; (on_goal 2 => (clear_value x; intro)); on_goal 1 => subst x)
    | (extract_lets +onlyGivenNames x; (first | (have h : @Eq Thm x x := rfl; clear h; subst x) | clear_value x))
    | with_reducible refine (breakCommits_keeps _ ?_)
    | with_reducible refine (resolveClosed_keeps _ ?_)
    | with_reducible refine (breakStore_keeps _ ?_)
    | with_reducible refine (note_keeps _ _ ?_)
    | split
    | fail_if_no_progress with_reducible refine Keeps.upd ?_ rfl rfl rfl rfl rfl rfl (by first | exact id | simp +contextual [shapes])
    | dsimp only)

theorem sensorFault_keeps (before : List Sensor) (samples : List ℤ) (s : State) (n : ℕ) {w0 : State} (h0 : Keeps w0 s) : Keeps w0 (sensorFault before samples s n) := by
  unfold sensorFault
  repeat' (first
    | with_reducible assumption
    | with_reducible refine (raise_keeps _ _ ?_)
    | split)

theorem execThermalSample_keeps (samples : List ℤ) (s : State) {w0 : State} (h0 : Keeps w0 s) : KeepsRes w0 (execThermalSample samples s) := by
  unfold execThermalSample
  repeat' (first
    | with_reducible assumption
    | (extract_lets +onlyGivenNames x; with_reducible refine KeepsRes.have_ (x := x) ?_ ?_; (on_goal 2 => (clear_value x; intro)); on_goal 1 => subst x)
    | (extract_lets +onlyGivenNames x; with_reducible refine Keeps.have_ (x := x) ?_ ?_; (on_goal 2 => (clear_value x; intro)); on_goal 1 => subst x)
    | (extract_lets +onlyGivenNames x; (first | (have h : @Eq Thm x x := rfl; clear h; subst x) | (have h : @Eq (List Sensor) x x := rfl; clear h; subst x) | clear_value x))
    | with_reducible refine KeepsRes.guarded ?_
    | with_reducible refine (guarded_keeps _ _ ?_)
    | with_reducible refine (takeTherm_keeps _ ?_)
    | with_reducible refine (newTemps_keeps _ ?_)
    | with_reducible refine (trip_keeps _ ?_)
    | with_reducible refine (closeNvm_keeps _ ?_)
    | with_reducible refine (senseLost_keeps _ ?_)
    | with_reducible refine (sensorFault_keeps _ _ _ _ ?_)
    | (with_reducible refine Keeps.foldl _ ?_ ?_; on_goal 1 => (intros; beta_reduce))
    | split
    | (intro _; intros; beta_reduce)
    | fail_if_no_progress with_reducible refine Keeps.upd ?_ rfl rfl rfl rfl rfl rfl (by first | exact id | simp +contextual [shapes])
    | dsimp only)

theorem execThermClear_keeps (rq : Rq) (s : State) {w0 : State} (h0 : Keeps w0 s) : KeepsRes w0 (execThermClear rq s) := by
  unfold execThermClear
  repeat' (first
    | with_reducible assumption
    | (extract_lets +onlyGivenNames x; with_reducible refine KeepsRes.have_ (x := x) ?_ ?_; (on_goal 2 => (clear_value x; intro)); on_goal 1 => subst x)
    | (extract_lets +onlyGivenNames x; with_reducible refine Keeps.have_ (x := x) ?_ ?_; (on_goal 2 => (clear_value x; intro)); on_goal 1 => subst x)
    | (extract_lets +onlyGivenNames x; clear_value x)
    | with_reducible refine (request_keeps _ _ _ _ _ _ _ ?_ ?_)
    | with_reducible refine (rep_keeps _ _ ?_)
    | with_reducible refine (leaveShutdown_keeps _ ?_)
    | with_reducible refine (repOk_keeps _ _ ?_)
    | with_reducible refine (rekindle_keeps _ _ ?_)
    | (split; with_reducible refine KeepsRes.pair_ ‹_ = (_, _)› ?_ ?_; on_goal 2 => intro)
    | (split; with_reducible refine Keeps.pair_ ‹_ = (_, _)› ?_ ?_; on_goal 2 => intro)
    | split
    | (intro _; intros; beta_reduce)
    | dsimp only)

theorem execScarWriteComplete_keeps (s : State) {w0 : State} (h0 : Keeps w0 s) : KeepsRes w0 (execScarWriteComplete s) := by
  unfold execScarWriteComplete
  repeat' (first
    | with_reducible assumption
    | (extract_lets +onlyGivenNames x; with_reducible refine KeepsRes.have_ (x := x) ?_ ?_; (on_goal 2 => (clear_value x; intro)); on_goal 1 => subst x)
    | (extract_lets +onlyGivenNames x; with_reducible refine Keeps.have_ (x := x) ?_ ?_; (on_goal 2 => (clear_value x; intro)); on_goal 1 => subst x)
    | (extract_lets +onlyGivenNames x; (first | (have h : @Eq Thm x x := rfl; clear h; subst x) | clear_value x))
    | with_reducible refine KeepsRes.next ?_
    | with_reducible refine (scarWrite_keeps _ _ _ ?_)
    | (split; with_reducible refine KeepsRes.pair_ ‹_ = (_, _)› ?_ ?_; on_goal 2 => intro)
    | (split; with_reducible refine Keeps.pair_ ‹_ = (_, _)› ?_ ?_; on_goal 2 => intro)
    | split
    | fail_if_no_progress with_reducible refine Keeps.upd ?_ rfl rfl rfl rfl rfl rfl (by first | exact id | simp +contextual [shapes])
    | dsimp only)

theorem copyScar_keeps (s : State) (i : ℕ) {w0 : State} (h0 : Keeps w0 s) : Keeps w0 (copyScar s i) := by
  unfold copyScar
  repeat' (first
    | with_reducible assumption
    | (extract_lets +onlyGivenNames x; clear_value x)
    | with_reducible refine (enqueue_keeps _ _ ?_)
    | split)

theorem execScarCopy_keeps (s : State) {w0 : State} (h0 : Keeps w0 s) : KeepsRes w0 (execScarCopy s) := by
  unfold execScarCopy
  repeat' (first
    | with_reducible assumption
    | (extract_lets +onlyGivenNames x; with_reducible refine KeepsRes.have_ (x := x) ?_ ?_; (on_goal 2 => (clear_value x; intro)); on_goal 1 => subst x)
    | (extract_lets +onlyGivenNames x; with_reducible refine Keeps.have_ (x := x) ?_ ?_; (on_goal 2 => (clear_value x; intro)); on_goal 1 => subst x)
    | (extract_lets +onlyGivenNames x; (first | (have h : @Eq Thm x x := rfl; clear h; subst x) | clear_value x))
    | with_reducible refine KeepsRes.next ?_
    | with_reducible refine (copyScar_keeps _ _ ?_)
    | with_reducible refine (openReads_keeps _ ?_)
    | with_reducible refine (countDefers_keeps _ _ ?_)
    | (with_reducible refine Keeps.foldl _ ?_ ?_; on_goal 1 => (intros; beta_reduce))
    | split
    | (intro _; intros; beta_reduce)
    | fail_if_no_progress with_reducible refine Keeps.upd ?_ rfl rfl rfl rfl rfl rfl (by first | exact id | simp +contextual [shapes])
    | dsimp only)

theorem execThermConfig_keeps (rq : Rq) (s : State) {w0 : State} (h0 : Keeps w0 s) : KeepsRes w0 (execThermConfig rq s) := by
  unfold execThermConfig
  repeat' (first
    | with_reducible assumption
    | (extract_lets +onlyGivenNames x; with_reducible refine KeepsRes.have_ (x := x) ?_ ?_; (on_goal 2 => (clear_value x; intro)); on_goal 1 => subst x)
    | (extract_lets +onlyGivenNames x; with_reducible refine Keeps.have_ (x := x) ?_ ?_; (on_goal 2 => (clear_value x; intro)); on_goal 1 => subst x)
    | (extract_lets +onlyGivenNames x; (first | (have h : @Eq Thm x x := rfl; clear h; subst x) | clear_value x))
    | with_reducible refine (request_keeps _ _ _ _ _ _ _ ?_ ?_)
    | with_reducible refine (rep_keeps _ _ ?_)
    | with_reducible refine (tempWindow_keeps _ ?_)
    | with_reducible refine (requestStore_keeps _ _ _ ?_)
    | split
    | (intro _; intros; beta_reduce)
    | fail_if_no_progress with_reducible refine Keeps.upd ?_ rfl rfl rfl rfl rfl rfl (by first | exact id | simp +contextual [shapes])
    | dsimp only)

theorem execScarRecordWrite_keeps (s : State) {w0 : State} (h0 : Keeps w0 s) : KeepsRes w0 (execScarRecordWrite s) := by
  unfold execScarRecordWrite
  repeat' (first
    | with_reducible assumption
    | (extract_lets +onlyGivenNames x; with_reducible refine KeepsRes.have_ (x := x) ?_ ?_; (on_goal 2 => (clear_value x; intro)); on_goal 1 => subst x)
    | (extract_lets +onlyGivenNames x; with_reducible refine Keeps.have_ (x := x) ?_ ?_; (on_goal 2 => (clear_value x; intro)); on_goal 1 => subst x)
    | (extract_lets +onlyGivenNames x; (first | (have h : @Eq Thm x x := rfl; clear h; subst x) | clear_value x))
    | with_reducible refine KeepsRes.next ?_
    | with_reducible refine (beginScar_keeps _ _ _ _ _ ?_)
    | split
    | (intro _; intros; beta_reduce)
    | fail_if_no_progress with_reducible refine Keeps.upd ?_ rfl rfl rfl rfl rfl rfl (by first | exact id | simp +contextual [shapes])
    | dsimp only)

end Sys2Proof.Machine
end

