-- ==== Sys2Proof/Laws/KeepsFrame.lean ====
section
/-! SUPPORT. For each definition of Machine/Frame.lean that answers a state: the queue stays as it is and the memories stay canonical. -/

namespace Sys2Proof.Machine

theorem latchCount_keeps (s : State) {w0 : State} (h0 : Keeps w0 s) : Keeps w0 (latchCount s) := by
  unfold latchCount
  repeat' (first
    | with_reducible assumption
    | with_reducible refine (modFt_keeps _ _ ?_)
    | split)

theorem swapWords_keeps (s : State) {w0 : State} (h0 : Keeps w0 s) : Keeps w0 (swapWords s) := by
  unfold swapWords
  repeat' (first
    | with_reducible assumption
    | (extract_lets +onlyGivenNames x; with_reducible refine Keeps.have_ (x := x) ?_ ?_; (on_goal 2 => (clear_value x; intro)); on_goal 1 => subst x)
    | (extract_lets +onlyGivenNames x; (first | (have h : @Eq Diag x x := rfl; clear h; subst x) | clear_value x))
    | (split; with_reducible refine Keeps.triple_ ‹_ = (_, _, _)› ?_ ?_; on_goal 2 => intro)
    | split
    | (intro _; intros; beta_reduce)
    | fail_if_no_progress with_reducible refine Keeps.upd ?_ rfl rfl rfl rfl rfl rfl (by first | exact id | simp +contextual [shapes])
    | dsimp only)

theorem vReq_keeps (s : State) {w0 : State} (h0 : Keeps w0 s) : Keeps w0 (vReq s).2 := by
  unfold vReq
  repeat' (first
    | with_reducible assumption
    | (extract_lets +onlyGivenNames x; clear_value x)
    | with_reducible refine (takeFree_keeps _ ?_)
    | split)

theorem settlePending_keeps (m : Mode) (own : Bool) (s : State) {w0 : State} (h0 : Keeps w0 s) : Keeps w0 (settlePending m own s) := by
  unfold settlePending
  repeat' (first
    | with_reducible assumption
    | (extract_lets +onlyGivenNames x; with_reducible refine Keeps.have_ (x := x) ?_ ?_; (on_goal 2 => (clear_value x; intro)); on_goal 1 => subst x)
    | (extract_lets +onlyGivenNames x; (first | (have h : @Eq Pwr x x := rfl; clear h; subst x) | clear_value x))
    | with_reducible refine (endPending_keeps _ _ ?_)
    | with_reducible refine (complete_keeps _ _ _ _ _ _ _ ?_)
    | split
    | fail_if_no_progress with_reducible refine Keeps.upd ?_ rfl rfl rfl rfl rfl rfl (by first | exact id | simp +contextual [shapes])
    | dsimp only)

theorem enterLit_keeps (m : Mode) (cause : ℕ) (own : Bool) (s : State) {w0 : State} (h0 : Keeps w0 s) : Keeps w0 (enterLit m cause own s) := by
  unfold enterLit
  repeat' (first
    | with_reducible assumption
    | (extract_lets +onlyGivenNames x; with_reducible refine Keeps.have_ (x := x) ?_ ?_; (on_goal 2 => (clear_value x; intro)); on_goal 1 => subst x)
    | (extract_lets +onlyGivenNames x; (first | (have h : @Eq Pwr x x := rfl; clear h; subst x) | clear_value x))
    | with_reducible refine (settlePending_keeps _ _ _ ?_)
    | with_reducible refine (enterMode_keeps _ _ _ ?_)
    | with_reducible refine (abandonPower_keeps _ ?_)
    | with_reducible refine (abortCal_keeps _ ?_)
    | with_reducible refine (endBlanking_keeps _ ?_)
    | split
    | fail_if_no_progress with_reducible refine Keeps.upd ?_ rfl rfl rfl rfl rfl rfl (by first | exact id | simp +contextual [shapes])
    | dsimp only)

theorem latchMode_keeps (s : State) {w0 : State} (h0 : Keeps w0 s) : Keeps w0 (latchMode s) := by
  unfold latchMode
  repeat' (first
    | with_reducible assumption
    | with_reducible refine (enterLit_keeps _ _ _ _ ?_)
    | split)

theorem latchBlanking_keeps (s : State) {w0 : State} (h0 : Keeps w0 s) : Keeps w0 (latchBlanking s) := by
  unfold latchBlanking
  repeat' (first
    | with_reducible assumption
    | (extract_lets +onlyGivenNames x; with_reducible refine Keeps.have_ (x := x) ?_ ?_; (on_goal 2 => (clear_value x; intro)); on_goal 1 => subst x)
    | (extract_lets +onlyGivenNames x; (first | (have h : @Eq Pwr x x := rfl; clear h; subst x) | clear_value x))
    | with_reducible refine (finishPower_keeps _ _ _ _ ?_)
    | split
    | fail_if_no_progress with_reducible refine Keeps.upd ?_ rfl rfl rfl rfl rfl rfl (by first | exact id | simp +contextual [shapes])
    | dsimp only)

theorem latchLimited_keeps (t : State) (s : State) {w0 : State} (h0 : Keeps w0 s) : Keeps w0 (latchLimited t s) := by
  unfold latchLimited
  repeat' (first
    | with_reducible assumption
    | with_reducible refine (note_keeps _ _ ?_)
    | split)

theorem latchWear_keeps (s : State) {w0 : State} (h0 : Keeps w0 s) : Keeps w0 (latchWear s) := by
  unfold latchWear
  repeat' (first
    | with_reducible assumption
    | with_reducible refine (accumulateWear_keeps _ ?_)
    | split)

theorem latchHeadroom_keeps (s : State) {w0 : State} (h0 : Keeps w0 s) : Keeps w0 (latchHeadroom s) := by
  unfold latchHeadroom
  repeat' (first
    | with_reducible assumption
    | (extract_lets +onlyGivenNames x; with_reducible refine Keeps.have_ (x := x) ?_ ?_; (on_goal 2 => (clear_value x; intro)); on_goal 1 => subst x)
    | (extract_lets +onlyGivenNames x; clear_value x)
    | split
    | fail_if_no_progress with_reducible refine Keeps.upd ?_ rfl rfl rfl rfl rfl rfl (by first | exact id | simp +contextual [shapes])
    | dsimp only)

theorem latchLimit_keeps (vledMv : ℕ) (s : State) {w0 : State} (h0 : Keeps w0 s) : Keeps w0 (latchLimit vledMv s) := by
  unfold latchLimit
  repeat' (first
    | with_reducible assumption
    | with_reducible refine (raiseF_keeps _ _ _ _ _ ?_)
    | split)

theorem latchVled_keeps (vledMv : ℕ) (s : State) {w0 : State} (h0 : Keeps w0 s) : Keeps w0 (latchVled vledMv s) := by
  unfold latchVled
  repeat' (first
    | with_reducible assumption
    | (extract_lets +onlyGivenNames x; with_reducible refine Keeps.have_ (x := x) ?_ ?_; (on_goal 2 => (clear_value x; intro)); on_goal 1 => subst x)
    | (extract_lets +onlyGivenNames x; clear_value x)
    | with_reducible refine (vReq_keeps _ ?_)
    | with_reducible refine (condOn_keeps _ _ _ ?_)
    | with_reducible refine (condOff_keeps _ _ _ ?_)
    | (split; with_reducible refine Keeps.pair_ ‹_ = (_, _)› ?_ ?_; on_goal 2 => intro)
    | split
    | fail_if_no_progress with_reducible refine Keeps.upd ?_ rfl rfl rfl rfl rfl rfl (by first | exact id | simp +contextual [shapes])
    | dsimp only)

theorem latchLost_keeps (vledMv : ℕ) (s : State) {w0 : State} (h0 : Keeps w0 s) : Keeps w0 (latchLost vledMv s) := by
  unfold latchLost
  repeat' (first
    | with_reducible assumption
    | with_reducible refine (raiseF_keeps _ _ _ _ _ ?_)
    | split)

theorem latchLowCount_keeps (s : State) {w0 : State} (h0 : Keeps w0 s) : Keeps w0 (latchLowCount s) := by
  unfold latchLowCount
  repeat' (first
    | with_reducible assumption
    | (extract_lets +onlyGivenNames x; with_reducible refine Keeps.have_ (x := x) ?_ ?_; (on_goal 2 => (clear_value x; intro)); on_goal 1 => subst x)
    | (extract_lets +onlyGivenNames x; clear_value x)
    | split
    | fail_if_no_progress with_reducible refine Keeps.upd ?_ rfl rfl rfl rfl rfl rfl (by first | exact id | simp +contextual [shapes])
    | dsimp only)

theorem closeFrame_keeps (flags : List PixFlags) (vledMv : ℕ) (s : State) {w0 : State} (h0 : Keeps w0 s) : Keeps w0 (closeFrame flags vledMv s) := by
  unfold closeFrame
  repeat' (first
    | with_reducible assumption
    | (extract_lets +onlyGivenNames x; with_reducible refine Keeps.have_ (x := x) ?_ ?_; (on_goal 2 => (clear_value x; intro)); on_goal 1 => subst x)
    | (extract_lets +onlyGivenNames x; (first | (have h : @Eq Diag x x := rfl; clear h; subst x) | clear_value x))
    | with_reducible refine (latchCount_keeps _ ?_)
    | with_reducible refine (latchWear_keeps _ ?_)
    | with_reducible refine (collectSlot_keeps _ _ ?_)
    | with_reducible refine (latchHeadroom_keeps _ ?_)
    | with_reducible refine (latchLimit_keeps _ _ ?_)
    | with_reducible refine (latchVled_keeps _ _ ?_)
    | with_reducible refine (latchLost_keeps _ _ ?_)
    | with_reducible refine (latchLowCount_keeps _ ?_)
    | split
    | (intro _; intros; beta_reduce)
    | fail_if_no_progress with_reducible refine Keeps.upd ?_ rfl rfl rfl rfl rfl rfl (by first | exact id | simp +contextual [shapes])
    | dsimp only)

theorem endKindle_keeps (totalUs : ℕ) (s : State) {w0 : State} (h0 : Keeps w0 s) : Keeps w0 (endKindle totalUs s) := by
  unfold endKindle
  repeat' (first
    | with_reducible assumption
    | (extract_lets +onlyGivenNames x; with_reducible refine Keeps.have_ (x := x) ?_ ?_; (on_goal 2 => (clear_value x; intro)); on_goal 1 => subst x)
    | (extract_lets +onlyGivenNames x; (first | (have h : @Eq Pwr x x := rfl; clear h; subst x) | clear_value x))
    | with_reducible refine (modFt_keeps _ _ ?_)
    | with_reducible refine (twinState_keeps _ _ ?_)
    | with_reducible refine (enterLit_keeps _ _ _ _ ?_)
    | (split; with_reducible refine Keeps.pair_ ‹_ = (_, _)› ?_ ?_; on_goal 2 => intro)
    | split
    | (intro _; intros; beta_reduce)
    | fail_if_no_progress with_reducible refine Keeps.upd ?_ rfl rfl rfl rfl rfl rfl (by first | exact id | simp +contextual [shapes])
    | dsimp only)

theorem relightNow_keeps (s : State) {w0 : State} (h0 : Keeps w0 s) : Keeps w0 (relightNow s) := by
  unfold relightNow
  repeat' (first
    | with_reducible assumption
    | (extract_lets +onlyGivenNames x; with_reducible refine Keeps.have_ (x := x) ?_ ?_; (on_goal 2 => (clear_value x; intro)); on_goal 1 => subst x)
    | (extract_lets +onlyGivenNames x; (first | (have h : @Eq Pwr x x := rfl; clear h; subst x) | clear_value x))
    | with_reducible refine (supersedePower_keeps _ ?_)
    | with_reducible refine (finishPower_keeps _ _ _ _ ?_)
    | (split; with_reducible refine Keeps.triple_ ‹_ = (_, _, _)› ?_ ?_; on_goal 2 => intro)
    | split
    | fail_if_no_progress with_reducible refine Keeps.upd ?_ rfl rfl rfl rfl rfl rfl (by first | exact id | simp +contextual [shapes])
    | dsimp only)

theorem latchStaged_keeps (s : State) {w0 : State} (h0 : Keeps w0 s) : Keeps w0 (latchStaged s) := by
  unfold latchStaged
  repeat' (first
    | with_reducible assumption
    | (extract_lets +onlyGivenNames x; with_reducible refine Keeps.have_ (x := x) ?_ ?_; (on_goal 2 => (clear_value x; intro)); on_goal 1 => subst x)
    | (extract_lets +onlyGivenNames x; clear_value x)
    | with_reducible refine (endFull_keeps _ ?_)
    | split
    | fail_if_no_progress with_reducible refine Keeps.upd ?_ rfl rfl rfl rfl rfl rfl (by first | exact id | simp +contextual [shapes])
    | dsimp only)

theorem latchCalibrate_keeps (s : State) {w0 : State} (h0 : Keeps w0 s) : Keeps w0 (latchCalibrate s) := by
  unfold latchCalibrate
  repeat' (first
    | with_reducible assumption
    | (extract_lets +onlyGivenNames x; with_reducible refine Keeps.have_ (x := x) ?_ ?_; (on_goal 2 => (clear_value x; intro)); on_goal 1 => subst x)
    | (extract_lets +onlyGivenNames x; (first | (have h : @Eq Nvm x x := rfl; clear h; subst x) | (have h : @Eq Pwr x x := rfl; clear h; subst x) | clear_value x))
    | split
    | fail_if_no_progress with_reducible refine Keeps.upd ?_ rfl rfl rfl rfl rfl rfl (by first | exact id | simp +contextual [shapes])
    | dsimp only)

theorem stopArray_keeps (s : State) {w0 : State} (h0 : Keeps w0 s) : Keeps w0 (stopArray s) := by
  unfold stopArray
  repeat' (first
    | with_reducible assumption
    | (extract_lets +onlyGivenNames x; with_reducible refine Keeps.have_ (x := x) ?_ ?_; (on_goal 2 => (clear_value x; intro)); on_goal 1 => subst x)
    | (extract_lets +onlyGivenNames x; (first | (have h : @Eq Pwr x x := rfl; clear h; subst x) | clear_value x))
    | fail_if_no_progress with_reducible refine Keeps.upd ?_ rfl rfl rfl rfl rfl rfl (by first | exact id | simp +contextual [shapes])
    | dsimp only)

theorem latchSleep_keeps (s : State) {w0 : State} (h0 : Keeps w0 s) : Keeps w0 (latchSleep s) := by
  unfold latchSleep
  repeat' (first
    | with_reducible assumption
    | with_reducible refine (stopArray_keeps _ ?_)
    | split)

theorem takeEffect_keeps (totalUs : ℕ) (s : State) {w0 : State} (h0 : Keeps w0 s) : Keeps w0 (takeEffect totalUs s) := by
  unfold takeEffect
  repeat' (first
    | with_reducible assumption
    | (extract_lets +onlyGivenNames x; with_reducible refine Keeps.have_ (x := x) ?_ ?_; (on_goal 2 => (clear_value x; intro)); on_goal 1 => subst x)
    | with_reducible refine (endKindle_keeps _ _ ?_)
    | with_reducible refine (latchMode_keeps _ ?_)
    | with_reducible refine (swapWords_keeps _ ?_)
    | with_reducible refine (relightNow_keeps _ ?_)
    | with_reducible refine (latchStaged_keeps _ ?_)
    | with_reducible refine (latchCalibrate_keeps _ ?_)
    | with_reducible refine (latchSleep_keeps _ ?_)
    | with_reducible refine (latchBlanking_keeps _ ?_)
    | split)

theorem sendSync_keeps (s : State) {w0 : State} (h0 : Keeps w0 s) : Keeps w0 (sendSync s) := by
  unfold sendSync
  repeat' (first
    | with_reducible assumption
    | (extract_lets +onlyGivenNames x; with_reducible refine Keeps.have_ (x := x) ?_ ?_; (on_goal 2 => (clear_value x; intro)); on_goal 1 => subst x)
    | (extract_lets +onlyGivenNames x; clear_value x)
    | with_reducible refine (sendSyms_keeps _ _ _ ?_)
    | split
    | fail_if_no_progress with_reducible refine Keeps.upd ?_ rfl rfl rfl rfl rfl rfl (by first | exact id | simp +contextual [shapes])
    | dsimp only)

theorem latchTest_keeps (testDue : Bool) (s : State) {w0 : State} (h0 : Keeps w0 s) : Keeps w0 (latchTest testDue s) := by
  unfold latchTest
  repeat' (first
    | with_reducible assumption
    | (extract_lets +onlyGivenNames x; with_reducible refine Keeps.have_ (x := x) ?_ ?_; (on_goal 2 => (clear_value x; intro)); on_goal 1 => subst x)
    | (extract_lets +onlyGivenNames x; (first | (have h : @Eq Diag x x := rfl; clear h; subst x) | clear_value x))
    | split
    | (intro _; intros; beta_reduce)
    | fail_if_no_progress with_reducible refine Keeps.upd ?_ rfl rfl rfl rfl rfl rfl (by first | exact id | simp +contextual [shapes])
    | dsimp only)

theorem openFrame_keeps (testDue : Bool) (s : State) {w0 : State} (h0 : Keeps w0 s) : Keeps w0 (openFrame testDue s) := by
  unfold openFrame
  repeat' (first
    | with_reducible assumption
    | (extract_lets +onlyGivenNames x; with_reducible refine Keeps.have_ (x := x) ?_ ?_; (on_goal 2 => (clear_value x; intro)); on_goal 1 => subst x)
    | (extract_lets +onlyGivenNames x; clear_value x)
    | with_reducible refine (sendSync_keeps _ ?_)
    | with_reducible refine (statusDue_keeps _ _ _ _ ?_)
    | with_reducible refine (latchTest_keeps _ _ ?_)
    | with_reducible refine (modFt_keeps _ _ ?_)
    | split
    | (intro _; intros; beta_reduce)
    | fail_if_no_progress with_reducible refine Keeps.upd ?_ rfl rfl rfl rfl rfl rfl (by first | exact id | simp +contextual [shapes])
    | dsimp only)

theorem latchReady_keeps (ok : Bool) (s : State) {w0 : State} (h0 : Keeps w0 s) : Keeps w0 (latchReady ok s) := by
  unfold latchReady
  repeat' (first
    | with_reducible assumption
    | (extract_lets +onlyGivenNames x; with_reducible refine Keeps.have_ (x := x) ?_ ?_; (on_goal 2 => (clear_value x; intro)); on_goal 1 => subst x)
    | (extract_lets +onlyGivenNames x; (first | (have h : @Eq Pwr x x := rfl; clear h; subst x) | clear_value x))
    | split
    | fail_if_no_progress with_reducible refine Keeps.upd ?_ rfl rfl rfl rfl rfl rfl (by first | exact id | simp +contextual [shapes])
    | dsimp only)

theorem clearMisses_keeps (s : State) {w0 : State} (h0 : Keeps w0 s) : Keeps w0 (clearMisses s) := by
  unfold clearMisses
  repeat' (first
    | with_reducible assumption
    | (extract_lets +onlyGivenNames x; with_reducible refine Keeps.have_ (x := x) ?_ ?_; (on_goal 2 => (clear_value x; intro)); on_goal 1 => subst x)
    | (extract_lets +onlyGivenNames x; (first | (have h : @Eq Scl x x := rfl; clear h; subst x) | clear_value x))
    | with_reducible refine (condOff_keeps _ _ _ ?_)
    | split
    | fail_if_no_progress with_reducible refine Keeps.upd ?_ rfl rfl rfl rfl rfl rfl (by first | exact id | simp +contextual [shapes])
    | dsimp only)

theorem frameLatch_keeps (flags : List PixFlags) (vledMv : ℕ) (totalUs : ℕ) (testDue : Bool) (s : State) {w0 : State} (h0 : Keeps w0 s) : Keeps w0 (frameLatch flags vledMv totalUs testDue s) := by
  unfold frameLatch
  repeat' (first
    | with_reducible assumption
    | (extract_lets +onlyGivenNames x; with_reducible refine Keeps.have_ (x := x) ?_ ?_; (on_goal 2 => (clear_value x; intro)); on_goal 1 => subst x)
    | with_reducible refine (latchRole_keeps _ ?_)
    | with_reducible refine (latchTimer_keeps _ ?_)
    | with_reducible refine (closeFrame_keeps _ _ _ ?_)
    | with_reducible refine (takeEffect_keeps _ _ ?_)
    | with_reducible refine (latchLimited_keeps _ _ ?_)
    | with_reducible refine (openFrame_keeps _ _ ?_)
    | with_reducible refine (latchReady_keeps _ _ ?_)
    | with_reducible refine (clearMisses_keeps _ ?_))

theorem execFrameLatch_keeps (flags : List PixFlags) (vledMv : ℕ) (totalUs : ℕ) (testDue : Bool) (s : State) {w0 : State} (h0 : Keeps w0 s) : KeepsRes w0 (execFrameLatch flags vledMv totalUs testDue s) := by
  unfold execFrameLatch
  repeat' (first
    | with_reducible assumption
    | with_reducible refine KeepsRes.guarded ?_
    | with_reducible refine (guarded_keeps _ _ ?_)
    | with_reducible refine (frameLatch_keeps _ _ _ _ _ ?_)
    | split)

end Sys2Proof.Machine
end

