-- ==== Sys2Proof/Laws/KeepsBringup.lean ====
section
/-! SUPPORT. For each definition of Machine/Bringup.lean that answers a state: the queue stays as it is and the memories stay canonical. -/

namespace Sys2Proof.Machine

theorem execResetRelease_keeps (s : State) {w0 : State} (h0 : Keeps w0 s) : KeepsRes w0 (execResetRelease s) := by
  unfold execResetRelease
  repeat' (first
    | with_reducible assumption
    | with_reducible refine KeepsRes.next ?_
    | with_reducible refine (startKindle_keeps _ ?_)
    | split)

theorem startLanes_keeps (s : State) {w0 : State} (h0 : Keeps w0 s) : Keeps w0 (startLanes s) := by
  unfold startLanes
  repeat' (first
    | with_reducible assumption
    | with_reducible refine (restartLane_keeps _ _ _ ?_)
    | (with_reducible refine Keeps.foldl _ ?_ ?_; on_goal 1 => (intros; beta_reduce))
    | split
    | (intro _; intros; beta_reduce)
    | dsimp only)

theorem execKindleTimeout_keeps (s : State) {w0 : State} (h0 : Keeps w0 s) : KeepsRes w0 (execKindleTimeout s) := by
  unfold execKindleTimeout
  repeat' (first
    | with_reducible assumption
    | with_reducible refine KeepsRes.next ?_
    | with_reducible refine (raise_keeps _ _ ?_)
    | split)

theorem execPowerOn_keeps (rise : Bool) (as0 : Bool) (as1 : Bool) (bad : List ℕ) (scarBad : List ℕ) (s : State) {w0 : State} (h0 : Holds w0 s) : HoldsRes w0 (execPowerOn rise as0 as1 bad scarBad s) := by
  unfold execPowerOn
  extract_lets cycles ao t
  have h := hardReset_keeps ao .full { s with pwr := { s.pwr with testEn := false } } (w0 := w0) ⟨h0.pending, h0.canonical, h0.shaped⟩
  exact HoldsRes.guarded ⟨h.pending, h.canonical, h.shaped⟩

theorem execTestEnAssert_keeps (s : State) {w0 : State} (h0 : Holds w0 s) : HoldsRes w0 (execTestEnAssert s) := HoldsRes.next (hardReset_keeps _ _ _ ⟨h0.pending, h0.canonical, h0.shaped⟩)

theorem kindleStep_keeps (n : ℕ) (s : State) {w0 : State} (h0 : Keeps w0 s) : Keeps w0 (kindleStep n s) := by
  unfold kindleStep
  repeat' (first
    | with_reducible assumption
    | (extract_lets +onlyGivenNames x; with_reducible refine Keeps.have_ (x := x) ?_ ?_; (on_goal 2 => (clear_value x; intro)); on_goal 1 => subst x)
    | (extract_lets +onlyGivenNames x; (first | (have h : @Eq Pwr x x := rfl; clear h; subst x) | clear_value x))
    | split
    | fail_if_no_progress with_reducible refine Keeps.upd ?_ rfl rfl rfl rfl rfl rfl (by first | exact id | simp +contextual [shapes])
    | dsimp only)

theorem execPllLock_keeps (s : State) {w0 : State} (h0 : Keeps w0 s) : KeepsRes w0 (execPllLock s) := by
  unfold execPllLock
  repeat' (first
    | with_reducible assumption
    | (extract_lets +onlyGivenNames x; with_reducible refine KeepsRes.have_ (x := x) ?_ ?_; (on_goal 2 => (clear_value x; intro)); on_goal 1 => subst x)
    | (extract_lets +onlyGivenNames x; with_reducible refine Keeps.have_ (x := x) ?_ ?_; (on_goal 2 => (clear_value x; intro)); on_goal 1 => subst x)
    | (extract_lets +onlyGivenNames x; (first | (have h : @Eq Pwr x x := rfl; clear h; subst x) | clear_value x))
    | with_reducible refine KeepsRes.next ?_
    | with_reducible refine (kindleStep_keeps _ _ ?_)
    | split
    | fail_if_no_progress with_reducible refine Keeps.upd ?_ rfl rfl rfl rfl rfl rfl (by first | exact id | simp +contextual [shapes])
    | dsimp only)

theorem beginLoad_keeps (s : State) {w0 : State} (h0 : Keeps w0 s) : Keeps w0 (beginLoad s) := by
  unfold beginLoad
  repeat' (first
    | with_reducible assumption
    | (extract_lets +onlyGivenNames x; with_reducible refine Keeps.have_ (x := x) ?_ ?_; (on_goal 2 => (clear_value x; intro)); on_goal 1 => subst x)
    | (extract_lets +onlyGivenNames x; (first | (have h : @Eq Nvm x x := rfl; clear h; subst x) | (have h : @Eq Pwr x x := rfl; clear h; subst x) | clear_value x))
    | with_reducible refine (zeroStore_keeps _ ?_)
    | fail_if_no_progress with_reducible refine Keeps.upd ?_ rfl rfl rfl rfl rfl rfl (by first | exact id | simp +contextual [shapes])
    | dsimp only)

theorem execSupplyDip_keeps (_rail : Rail) (s : State) {w0 : State} (h0 : Holds w0 s) : HoldsRes w0 (execSupplyDip _rail s) := by
  unfold execSupplyDip
  refine HoldsRes.next ?_
  split
  · exact h0
  · exact hardReset_keeps _ _ _ h0

theorem startTimer_keeps (s : State) {w0 : State} (h0 : Keeps w0 s) : Keeps w0 (startTimer s) := by
  unfold startTimer
  repeat' (first
    | with_reducible assumption
    | with_reducible refine (hardStart_keeps _ ?_)
    | split)

theorem execSupplyLossInS1_keeps (_rail : Rail) (s : State) {w0 : State} (h0 : Keeps w0 s) : KeepsRes w0 (execSupplyLossInS1 _rail s) := by
  unfold execSupplyLossInS1
  repeat' (first
    | with_reducible assumption
    | (extract_lets +onlyGivenNames x; with_reducible refine KeepsRes.have_ (x := x) ?_ ?_; (on_goal 2 => (clear_value x; intro)); on_goal 1 => subst x)
    | (extract_lets +onlyGivenNames x; with_reducible refine Keeps.have_ (x := x) ?_ ?_; (on_goal 2 => (clear_value x; intro)); on_goal 1 => subst x)
    | (extract_lets +onlyGivenNames x; clear_value x)
    | with_reducible refine KeepsRes.next ?_
    | split
    | fail_if_no_progress with_reducible refine Keeps.upd ?_ rfl rfl rfl rfl rfl rfl (by first | exact id | simp +contextual [shapes])
    | dsimp only)

theorem execBistComplete_keeps (fail : Option BistFail) (s : State) {w0 : State} (h0 : Keeps w0 s) : KeepsRes w0 (execBistComplete fail s) := by
  unfold execBistComplete
  repeat' (first
    | with_reducible assumption
    | (extract_lets +onlyGivenNames x; with_reducible refine KeepsRes.have_ (x := x) ?_ ?_; (on_goal 2 => (clear_value x; intro)); on_goal 1 => subst x)
    | (extract_lets +onlyGivenNames x; with_reducible refine Keeps.have_ (x := x) ?_ ?_; (on_goal 2 => (clear_value x; intro)); on_goal 1 => subst x)
    | (extract_lets +onlyGivenNames x; (first | (have h : @Eq Pwr x x := rfl; clear h; subst x) | clear_value x))
    | with_reducible refine KeepsRes.guarded ?_
    | with_reducible refine (guarded_keeps _ _ ?_)
    | with_reducible refine (beginLoad_keeps _ ?_)
    | with_reducible refine (raise_keeps _ _ ?_)
    | split
    | (intro _; intros; beta_reduce)
    | fail_if_no_progress with_reducible refine Keeps.upd ?_ rfl rfl rfl rfl rfl rfl (by first | exact id | simp +contextual [shapes])
    | dsimp only)

theorem decideKindle_keeps (s : State) {w0 : State} (h0 : Keeps w0 s) : Keeps w0 (decideKindle s) := by
  unfold decideKindle
  repeat' (first
    | with_reducible assumption
    | (extract_lets +onlyGivenNames x; with_reducible refine Keeps.have_ (x := x) ?_ ?_; (on_goal 2 => (clear_value x; intro)); on_goal 1 => subst x)
    | (extract_lets +onlyGivenNames x; (first | (have h : @Eq Pwr x x := rfl; clear h; subst x) | clear_value x))
    | (split; with_reducible refine Keeps.pair_ ‹_ = (_, _)› ?_ ?_; on_goal 2 => intro)
    | split
    | fail_if_no_progress with_reducible refine Keeps.upd ?_ rfl rfl rfl rfl rfl rfl (by first | exact id | simp +contextual [shapes])
    | dsimp only)

theorem execKindleWorkComplete_keeps (workUs : ℕ) (s : State) {w0 : State} (h0 : Keeps w0 s) : KeepsRes w0 (execKindleWorkComplete workUs s) := by
  unfold execKindleWorkComplete
  repeat' (first
    | with_reducible assumption
    | (extract_lets +onlyGivenNames x; with_reducible refine KeepsRes.have_ (x := x) ?_ ?_; (on_goal 2 => (clear_value x; intro)); on_goal 1 => subst x)
    | (extract_lets +onlyGivenNames x; with_reducible refine Keeps.have_ (x := x) ?_ ?_; (on_goal 2 => (clear_value x; intro)); on_goal 1 => subst x)
    | (extract_lets +onlyGivenNames x; (first | (have h : @Eq Pwr x x := rfl; clear h; subst x) | clear_value x))
    | with_reducible refine KeepsRes.next ?_
    | with_reducible refine (composeLatch_keeps _ _ _ ?_ ?_)
    | with_reducible refine (decideKindle_keeps _ ?_)
    | with_reducible refine (startWithoutReference_keeps _ ?_)
    | with_reducible refine (kindleF_keeps _ ?_)
    | split
    | (intro _; intros; beta_reduce)
    | fail_if_no_progress with_reducible refine Keeps.upd ?_ rfl rfl rfl rfl rfl rfl (by first | exact id | simp +contextual [shapes])
    | dsimp only)

theorem execLdoRegulation_keeps (s : State) {w0 : State} (h0 : Keeps w0 s) : KeepsRes w0 (execLdoRegulation s) := by
  unfold execLdoRegulation
  repeat' (first
    | with_reducible assumption
    | (extract_lets +onlyGivenNames x; with_reducible refine KeepsRes.have_ (x := x) ?_ ?_; (on_goal 2 => (clear_value x; intro)); on_goal 1 => subst x)
    | (extract_lets +onlyGivenNames x; with_reducible refine Keeps.have_ (x := x) ?_ ?_; (on_goal 2 => (clear_value x; intro)); on_goal 1 => subst x)
    | (extract_lets +onlyGivenNames x; (first | (have h : @Eq Pwr x x := rfl; clear h; subst x) | clear_value x))
    | with_reducible refine KeepsRes.next ?_
    | split
    | fail_if_no_progress with_reducible refine Keeps.upd ?_ rfl rfl rfl rfl rfl rfl (by first | exact id | simp +contextual [shapes])
    | dsimp only)

theorem limralReady_keeps (s : State) {w0 : State} (h0 : Keeps w0 s) : Keeps w0 (limralReady s) := by
  unfold limralReady
  repeat' (first
    | with_reducible assumption
    | (extract_lets +onlyGivenNames x; with_reducible refine Keeps.have_ (x := x) ?_ ?_; (on_goal 2 => (clear_value x; intro)); on_goal 1 => subst x)
    | (extract_lets +onlyGivenNames x; (first | (have h : @Eq Pwr x x := rfl; clear h; subst x) | clear_value x))
    | with_reducible refine (loadHeader_keeps _ ?_)
    | with_reducible refine (bootPatch_keeps _ ?_)
    | with_reducible refine (startLanes_keeps _ ?_)
    | with_reducible refine (startTimer_keeps _ ?_)
    | with_reducible refine (beginLoad_keeps _ ?_)
    | with_reducible refine (kindleStep_keeps _ _ ?_)
    | split
    | fail_if_no_progress with_reducible refine Keeps.upd ?_ rfl rfl rfl rfl rfl rfl (by first | exact id | simp +contextual [shapes])
    | dsimp only)

theorem execLimralReady_keeps (s : State) {w0 : State} (h0 : Keeps w0 s) : KeepsRes w0 (execLimralReady s) := by
  unfold execLimralReady
  repeat' (first
    | with_reducible assumption
    | with_reducible refine KeepsRes.next ?_
    | with_reducible refine (limralReady_keeps _ ?_)
    | split)

theorem execResetNAssert_keeps (as0 : Bool) (as1 : Bool) (s : State) {w0 : State} (h0 : Holds w0 s) : HoldsRes w0 (execResetNAssert as0 as1 s) := HoldsRes.next (hardReset_keeps _ _ _ h0)

theorem execArrayBiasSettled_keeps (m : CalMeas) (s : State) {w0 : State} (h0 : Keeps w0 s) : KeepsRes w0 (execArrayBiasSettled m s) := by
  unfold execArrayBiasSettled
  repeat' (first
    | with_reducible assumption
    | (extract_lets +onlyGivenNames x; with_reducible refine KeepsRes.have_ (x := x) ?_ ?_; (on_goal 2 => (clear_value x; intro)); on_goal 1 => subst x)
    | (extract_lets +onlyGivenNames x; with_reducible refine Keeps.have_ (x := x) ?_ ?_; (on_goal 2 => (clear_value x; intro)); on_goal 1 => subst x)
    | (extract_lets +onlyGivenNames x; (first | (have h : @Eq Nvm x x := rfl; clear h; subst x) | (have h : @Eq Pwr x x := rfl; clear h; subst x) | clear_value x))
    | with_reducible refine KeepsRes.guarded ?_
    | with_reducible refine (guarded_keeps _ _ ?_)
    | with_reducible refine (scanNow_keeps _ ?_)
    | with_reducible refine (loadFirst_keeps _ ?_)
    | split
    | fail_if_no_progress with_reducible refine Keeps.upd ?_ rfl rfl rfl rfl rfl rfl (by first | exact id | simp +contextual [shapes])
    | dsimp only)

end Sys2Proof.Machine
end

