-- ==== Sys2Proof/Laws/KeepsRegisters.lean ====
section
/-! SUPPORT. For each definition of Machine/Registers.lean that answers a state: the queue stays as it is and the memories stay canonical. -/

namespace Sys2Proof.Machine

theorem checkLine_keeps (l : ℕ) (line : List Bool) (s : State) {w0 : State} (h0 : Keeps w0 s) : Keeps w0 (checkLine l line s) := by
  unfold checkLine
  repeat' (first
    | with_reducible assumption
    | (extract_lets +onlyGivenNames x; (first | (have h : @Eq Lnk x x := rfl; clear h; subst x) | clear_value x))
    | split
    | fail_if_no_progress with_reducible refine Keeps.upd ?_ rfl rfl rfl rfl rfl rfl (by first | exact id | simp +contextual [shapes]))

theorem capture_keeps (l : ℕ) (raw : ℕ) (s : State) {w0 : State} (h0 : Keeps w0 s) : Keeps w0 (capture l raw s) := by
  unfold capture
  repeat' (first
    | with_reducible assumption
    | split
    | fail_if_no_progress with_reducible refine Keeps.upd ?_ rfl rfl rfl rfl rfl rfl (by first | exact id | simp +contextual [shapes]))

theorem readEffect_keeps (a : ℕ) (s : State) {w0 : State} (h0 : Keeps w0 s) : Keeps w0 (readEffect a s) := by
  unfold readEffect
  repeat' (first
    | with_reducible assumption
    | with_reducible refine (takeFree_keeps _ ?_)
    | with_reducible refine (capture_keeps _ _ _ ?_)
    | split)

theorem regReads_keeps (y0 : ℕ) (y1 : ℕ) (y2 : State) {w0 : State} (h0 : Keeps w0 y2) : Keeps w0 (regReads y0 y1 y2).2 := by
  induction y0 generalizing y1 y2 with
  | zero => exact h0
  | succ k ih => exact ih _ _ (readEffect_keeps _ _ h0)

end Sys2Proof.Machine
end

