-- ==== Sys2Proof/Laws/KeepsStore.lean ====
section
/-! SUPPORT. For each definition of Machine/Store.lean that answers a state: the queue stays as it is and the memories stay canonical. -/

namespace Sys2Proof.Machine

theorem presentTo_keeps (bank : ℕ) (cs : List Claim) (s : State) {w0 : State} (h0 : Keeps w0 s) : Keeps w0 (presentTo bank cs s) := by
  unfold presentTo
  repeat' (first
    | with_reducible assumption
    | (extract_lets +onlyGivenNames x; with_reducible refine Keeps.have_ (x := x) ?_ ?_; (on_goal 2 => (clear_value x; intro)); on_goal 1 => subst x)
    | (extract_lets +onlyGivenNames x; clear_value x)
    | with_reducible refine (modBank_keeps _ _ _ ?_)
    | with_reducible refine (waited_keeps _ _ _ _ ?_)
    | (with_reducible refine Keeps.foldl _ ?_ ?_; on_goal 1 => (intros; beta_reduce))
    | split
    | (intro _; intros; beta_reduce)
    | fail_if_no_progress with_reducible refine Keeps.upd ?_ rfl rfl rfl rfl rfl rfl (by first | exact id | simp +contextual [shapes])
    | dsimp only)

theorem passClocks_keeps (bank : ℕ) (n : ℕ) (s : State) {w0 : State} (h0 : Keeps w0 s) : Keeps w0 (passClocks bank n s) := by
  unfold passClocks
  repeat' (first
    | with_reducible assumption
    | (extract_lets +onlyGivenNames x; with_reducible refine Keeps.have_ (x := x) ?_ ?_; (on_goal 2 => (clear_value x; intro)); on_goal 1 => subst x)
    | (extract_lets +onlyGivenNames x; clear_value x)
    | with_reducible refine (waited_keeps _ _ _ _ ?_)
    | with_reducible refine (modBank_keeps _ _ _ ?_)
    | (with_reducible refine Keeps.foldl _ ?_ ?_; on_goal 1 => (intros; beta_reduce))
    | split
    | (intro _; intros; beta_reduce)
    | fail_if_no_progress with_reducible refine Keeps.upd ?_ rfl rfl rfl rfl rfl rfl (by first | exact id | simp +contextual [shapes])
    | dsimp only)

theorem poisonRead_keeps (port : ℕ) (s : State) {w0 : State} (h0 : Keeps w0 s) : Keeps w0 (poisonRead port s) := by
  unfold poisonRead
  repeat' (first
    | with_reducible assumption
    | with_reducible refine (takeFree_keeps _ ?_)
    | with_reducible refine (guFeedSource_keeps _ _ _ ?_))

theorem readWords_keeps (m : ℕ) (port : ℕ) (bank : ℕ) (y3 : ℕ) (y4 : ℕ) (y5 : List Ecc) (y6 : State) {w0 : State} (h0 : Keeps w0 y6) : Keeps w0 (readWords m port bank y3 y4 y5 y6) := by
  induction y3 generalizing y4 y5 y6 with
  | zero => exact h0
  | succ k ih =>
    unfold readWords
    have c := checkWord_keeps bank (physOf y6 y4 / 8 % 32768) port (y5.headD .clean) y6 h0
    generalize checkWord bank (physOf y6 y4 / 8 % 32768) port (y5.headD .clean) y6 = p at c
    obtain ⟨e, t⟩ := p
    change Keeps w0 t at c
    dsimp only
    refine ih _ _ _ ?_
    split
    · refine poisonRead_keeps _ _ ?_
      split
      · exact Keeps.upd c rfl rfl rfl rfl rfl rfl id
      · exact c
    · exact guFeedSource_keeps _ _ _ c

theorem poisonWords_keeps (port : ℕ) (y1 : ℕ) (y2 : State) {w0 : State} (h0 : Keeps w0 y2) : Keeps w0 (poisonWords port y1 y2) := by
  induction y1 generalizing y2 with
  | zero => exact h0
  | succ k ih => exact ih _ (poisonRead_keeps _ _ h0)

theorem atomicWord_keeps (addr : ℕ) (w : Option ℕ) (s : State) {w0 : State} (h0 : Keeps w0 s) : Keeps w0 (atomicWord addr w s) := by
  unfold atomicWord
  repeat' (first
    | with_reducible assumption
    | (extract_lets +onlyGivenNames x; with_reducible refine Keeps.have_ (x := x) ?_ ?_; (on_goal 2 => (clear_value x; intro)); on_goal 1 => subst x)
    | with_reducible refine (guFeedSource_keeps _ _ _ ?_)
    | with_reducible refine (putWord_keeps _ _ _ ?_)
    | split)

theorem windowEnd_keeps (status : ℕ) (s : State) {w0 : State} (h0 : Keeps w0 s) : Keeps w0 (windowEnd status s) := by
  unfold windowEnd
  repeat' (first
    | with_reducible assumption
    | (extract_lets +onlyGivenNames x; with_reducible refine Keeps.have_ (x := x) ?_ ?_; (on_goal 2 => (clear_value x; intro)); on_goal 1 => subst x)
    | (extract_lets +onlyGivenNames x; (first | (have h : @Eq Mem x x := rfl; clear h; subst x) | clear_value x))
    | fail_if_no_progress with_reducible refine Keeps.upd ?_ rfl rfl rfl rfl rfl rfl (by first | exact id | simp +contextual [shapes])
    | dsimp only)

theorem windowPoison_keeps (op : ℕ) (s : State) {w0 : State} (h0 : Keeps w0 s) : Keeps w0 (windowPoison op s) := by
  unfold windowPoison
  repeat' (first
    | with_reducible assumption
    | (extract_lets +onlyGivenNames x; with_reducible refine Keeps.have_ (x := x) ?_ ?_; (on_goal 2 => (clear_value x; intro)); on_goal 1 => subst x)
    | (extract_lets +onlyGivenNames x; (first | (have h : @Eq Mem x x := rfl; clear h; subst x) | clear_value x))
    | with_reducible refine (takeFree_keeps _ ?_)
    | with_reducible refine (guFeedSource_keeps _ _ _ ?_)
    | (split; with_reducible refine Keeps.pair_ ‹_ = (_, _)› ?_ ?_; on_goal 2 => intro)
    | split
    | fail_if_no_progress with_reducible refine Keeps.upd ?_ rfl rfl rfl rfl rfl rfl (by first | exact id | simp +contextual [shapes])
    | dsimp only)

theorem windowAct_keeps (ecc : Ecc) (s : State) {w0 : State} (h0 : Keeps w0 s) : Keeps w0 (windowAct ecc s) := by
  unfold windowAct
  repeat' (first
    | with_reducible assumption
    | (extract_lets +onlyGivenNames x; with_reducible refine Keeps.have_ (x := x) ?_ ?_; (on_goal 2 => (clear_value x; intro)); on_goal 1 => subst x)
    | (extract_lets +onlyGivenNames x; (first | (have h : @Eq Mem x x := rfl; clear h; subst x) | clear_value x))
    | with_reducible refine (nonOwnerAccess_keeps _ _ _ _ ?_)
    | with_reducible refine (windowEnd_keeps _ _ ?_)
    | with_reducible refine (windowPoison_keeps _ _ ?_)
    | with_reducible refine (guFeedSource_keeps _ _ _ ?_)
    | with_reducible refine (putWord_keeps _ _ _ ?_)
    | with_reducible refine (checkWord_keeps _ _ _ _ _ ?_)
    | with_reducible refine (atomicWord_keeps _ _ _ ?_)
    | (split; with_reducible refine Keeps.pair_ ‹_ = (_, _)› ?_ ?_; on_goal 2 => intro)
    | (split; with_reducible refine Keeps.triple_ ‹_ = (_, _, _)› ?_ ?_; on_goal 2 => intro)
    | split
    | fail_if_no_progress with_reducible refine Keeps.upd ?_ rfl rfl rfl rfl rfl rfl (by first | exact id | simp +contextual [shapes])
    | dsimp only)

theorem access_keeps (c : Claim) (bank : ℕ) (eccs : List Ecc) (s : State) {w0 : State} (h0 : Keeps w0 s) : Keeps w0 (access c bank eccs s) := by
  unfold access
  repeat' (first
    | with_reducible assumption
    | (extract_lets +onlyGivenNames x; clear_value x)
    | with_reducible refine (writeBurst_keeps _ _ _ _ ?_)
    | with_reducible refine (readWords_keeps _ _ _ _ _ _ _ ?_)
    | with_reducible refine (poisonWords_keeps _ _ _ ?_)
    | with_reducible refine (nonOwnerAccess_keeps _ _ _ _ ?_)
    | with_reducible refine (poisonRead_keeps _ _ ?_)
    | with_reducible refine (checkWord_keeps _ _ _ _ _ ?_)
    | with_reducible refine (atomicWord_keeps _ _ _ ?_)
    | with_reducible refine (windowAct_keeps _ _ ?_)
    | (split; with_reducible refine Keeps.pair_ ‹_ = (_, _)› ?_ ?_; on_goal 2 => intro)
    | split)

theorem execStoreAccessGrant_keeps (bank : ℕ) (clocks : ℕ) (cs : List Claim) (ecc : List Ecc) (s : State) {w0 : State} (h0 : Keeps w0 s) : KeepsRes w0 (execStoreAccessGrant bank clocks cs ecc s) := by
  unfold execStoreAccessGrant
  repeat' (first
    | with_reducible assumption
    | (extract_lets +onlyGivenNames x; with_reducible refine KeepsRes.have_ (x := x) ?_ ?_; (on_goal 2 => (clear_value x; intro)); on_goal 1 => subst x)
    | with_reducible refine KeepsRes.guarded ?_
    | with_reducible refine (guarded_keeps _ _ ?_)
    | with_reducible refine (presentTo_keeps _ _ _ ?_)
    | with_reducible refine (passClocks_keeps _ _ _ ?_)
    | with_reducible refine (nextBehind_keeps _ _ _ ?_)
    | with_reducible refine (access_keeps _ _ _ _ ?_)
    | with_reducible refine (granted_keeps _ _ _ _ ?_)
    | with_reducible refine (dropClaim_keeps _ _ _ ?_)
    | split)

theorem handOver_keeps (b : ℕ) (use : ℕ) (s : State) {w0 : State} (h0 : Keeps w0 s) : Keeps w0 (handOver b use s) := by
  unfold handOver
  repeat' (first
    | with_reducible assumption
    | with_reducible refine (modBank_keeps _ _ _ ?_)
    | split)

theorem assignBanks_keeps (first : ℕ) (count : ℕ) (use : ℕ) (s : State) {w0 : State} (h0 : Keeps w0 s) : Keeps w0 (assignBanks first count use s).2 := by
  unfold assignBanks
  repeat' (first
    | with_reducible assumption
    | (extract_lets +onlyGivenNames x; with_reducible refine Keeps.have_ (x := x) ?_ ?_; (on_goal 2 => (clear_value x; intro)); on_goal 1 => subst x)
    | (extract_lets +onlyGivenNames x; clear_value x)
    | with_reducible refine (rep_keeps _ _ ?_)
    | with_reducible refine (handOver_keeps _ _ _ ?_)
    | (with_reducible refine Keeps.foldl _ ?_ ?_; on_goal 1 => (intros; beta_reduce))
    | split
    | (intro _; intros; beta_reduce)
    | fail_if_no_progress with_reducible refine Keeps.upd ?_ rfl rfl rfl rfl rfl rfl (by first | exact id | simp +contextual [shapes])
    | dsimp only)

theorem handoversDone_keeps (s : State) {w0 : State} (h0 : Keeps w0 s) : Keeps w0 (handoversDone s) := by
  unfold handoversDone
  repeat' (first
    | with_reducible assumption
    | (extract_lets +onlyGivenNames x; with_reducible refine Keeps.have_ (x := x) ?_ ?_; (on_goal 2 => (clear_value x; intro)); on_goal 1 => subst x)
    | (extract_lets +onlyGivenNames x; (first | (have h : @Eq Mem x x := rfl; clear h; subst x) | clear_value x))
    | with_reducible refine (rehome_keeps _ ?_)
    | with_reducible refine (screen_keeps _ ?_)
    | with_reducible refine (sendReply_keeps _ _ _ ?_)
    | with_reducible refine (modSrc_keeps _ _ _ ?_)
    | split
    | fail_if_no_progress with_reducible refine Keeps.upd ?_ rfl rfl rfl rfl rfl rfl (by first | exact id | simp +contextual [shapes]))

theorem execHandoverComplete_keeps (bank : ℕ) (s : State) {w0 : State} (h0 : Keeps w0 s) : KeepsRes w0 (execHandoverComplete bank s) := by
  unfold execHandoverComplete
  repeat' (first
    | with_reducible assumption
    | (extract_lets +onlyGivenNames x; with_reducible refine Keeps.have_ (x := x) ?_ ?_; (on_goal 2 => (clear_value x; intro)); on_goal 1 => subst x)
    | with_reducible refine KeepsRes.guarded ?_
    | with_reducible refine (guarded_keeps _ _ ?_)
    | with_reducible refine (modBank_keeps _ _ _ ?_)
    | with_reducible refine (handoversDone_keeps _ ?_)
    | split)

theorem makePool_keeps (base : ℕ) (p : ℕ) (s : State) {w0 : State} (h0 : Keeps w0 s) : Keeps w0 (makePool base p s).2 := by
  unfold makePool
  repeat' (first
    | with_reducible assumption
    | (extract_lets +onlyGivenNames x; with_reducible refine Keeps.have_ (x := x) ?_ ?_; (on_goal 2 => (clear_value x; intro)); on_goal 1 => subst x)
    | (extract_lets +onlyGivenNames x; (first | (have h : @Eq Mem x x := rfl; clear h; subst x) | clear_value x))
    | with_reducible refine (rep_keeps _ _ ?_)
    | with_reducible refine (modBank_keeps _ _ _ ?_)
    | (with_reducible refine Keeps.foldl _ ?_ ?_; on_goal 1 => (intros; beta_reduce))
    | split
    | (intro _; intros; beta_reduce)
    | fail_if_no_progress with_reducible refine Keeps.upd ?_ rfl rfl rfl rfl rfl rfl (by first | exact id | simp +contextual [shapes])
    | dsimp only)

theorem storeAssign_keeps (rq : Rq) (s : State) {w0 : State} (h0 : Keeps w0 s) : KeepsRes w0 (storeAssign rq s) := by
  unfold storeAssign
  repeat' (first
    | with_reducible assumption
    | (extract_lets +onlyGivenNames x; with_reducible refine KeepsRes.have_ (x := x) ?_ ?_; (on_goal 2 => (clear_value x; intro)); on_goal 1 => subst x)
    | (extract_lets +onlyGivenNames x; with_reducible refine Keeps.have_ (x := x) ?_ ?_; (on_goal 2 => (clear_value x; intro)); on_goal 1 => subst x)
    | (extract_lets +onlyGivenNames x; (first | (have h : x = (fun _ => _) := rfl; subst x; beta_reduce) | (have h : x = (fun _ _ => _) := rfl; subst x; beta_reduce) | clear_value x))
    | with_reducible refine (request_keeps _ _ _ _ _ _ _ ?_ ?_)
    | with_reducible refine (rep_keeps _ _ ?_)
    | with_reducible refine (assignBanks_keeps _ _ _ _ ?_)
    | with_reducible refine (makePool_keeps _ _ _ ?_)
    | split
    | (intro _; intros; beta_reduce)
    | dsimp only)

theorem execStoreAssign_keeps (rq : Rq) (s : State) {w0 : State} (h0 : Keeps w0 s) : KeepsRes w0 (execStoreAssign rq s) := by
  unfold execStoreAssign
  repeat' (first
    | with_reducible assumption
    | with_reducible refine (storeAssign_keeps _ _ ?_))

theorem execWindowOpComplete_keeps (wait : ℕ) (ecc : Ecc) (s : State) {w0 : State} (h0 : Keeps w0 s) : KeepsRes w0 (execWindowOpComplete wait ecc s) := by
  unfold execWindowOpComplete
  repeat' (first
    | with_reducible assumption
    | (extract_lets +onlyGivenNames x; with_reducible refine Keeps.have_ (x := x) ?_ ?_; (on_goal 2 => (clear_value x; intro)); on_goal 1 => subst x)
    | (extract_lets +onlyGivenNames x; clear_value x)
    | with_reducible refine KeepsRes.next ?_
    | with_reducible refine (windowEnd_keeps _ _ ?_)
    | with_reducible refine (queueClaim_keeps _ _ ?_)
    | with_reducible refine (waited_keeps _ _ _ _ ?_)
    | with_reducible refine (windowAct_keeps _ _ ?_)
    | with_reducible refine (granted_keeps _ _ _ _ ?_)
    | with_reducible refine (dropClaim_keeps _ _ _ ?_)
    | split)

theorem scrubOn_keeps (bank : ℕ) (s : State) {w0 : State} (h0 : Keeps w0 s) : Keeps w0 (scrubOn bank s) := by
  unfold scrubOn
  repeat' (first
    | with_reducible assumption
    | (extract_lets +onlyGivenNames x; with_reducible refine Keeps.have_ (x := x) ?_ ?_; (on_goal 2 => (clear_value x; intro)); on_goal 1 => subst x)
    | with_reducible refine (modBank_keeps _ _ _ ?_)
    | split
    | fail_if_no_progress with_reducible refine Keeps.upd ?_ rfl rfl rfl rfl rfl rfl (by first | exact id | simp +contextual [shapes]))

theorem execScrubRead_keeps (bank : ℕ) (ecc : Ecc) (s : State) {w0 : State} (h0 : Keeps w0 s) : KeepsRes w0 (execScrubRead bank ecc s) := by
  unfold execScrubRead
  repeat' (first
    | with_reducible assumption
    | (extract_lets +onlyGivenNames x; clear_value x)
    | with_reducible refine KeepsRes.guarded ?_
    | with_reducible refine (guarded_keeps _ _ ?_)
    | with_reducible refine (scrubOn_keeps _ _ ?_)
    | with_reducible refine (checkWord_keeps _ _ _ _ _ ?_)
    | split)

theorem execStorePool_keeps (rq : Rq) (s : State) {w0 : State} (h0 : Keeps w0 s) : KeepsRes w0 (execStorePool rq s) := by
  unfold execStorePool
  repeat' (first
    | with_reducible assumption
    | with_reducible refine (storeAssign_keeps _ _ ?_))

theorem execRequestEscalation_keeps (bank : ℕ) (m : ℕ) (cs : List Claim) (s : State) {w0 : State} (h0 : Keeps w0 s) : KeepsRes w0 (execRequestEscalation bank m cs s) := by
  unfold execRequestEscalation
  repeat' (first
    | with_reducible assumption
    | (extract_lets +onlyGivenNames x; with_reducible refine KeepsRes.have_ (x := x) ?_ ?_; (on_goal 2 => (clear_value x; intro)); on_goal 1 => subst x)
    | with_reducible refine KeepsRes.guarded ?_
    | with_reducible refine (guarded_keeps _ _ ?_)
    | with_reducible refine (presentTo_keeps _ _ _ ?_)
    | with_reducible refine (passClocks_keeps _ _ _ ?_)
    | split)

end Sys2Proof.Machine
end

