-- ==== Sys2Proof/Laws/KeepsRegWrites.lean ====
section
/-! SUPPORT. For each definition of Machine/RegWrites.lean that answers a state: the queue stays as it is and the memories stay canonical. -/

namespace Sys2Proof.Machine

theorem refused_keeps (status : ℕ) (s : State) {w0 : State} (h0 : Keeps w0 s) : Keeps w0 (refused status s).state := by
  unfold refused
  repeat' (first
    | with_reducible assumption)

theorem taken_keeps (s : State) {w0 : State} (h0 : Keeps w0 s) : Keeps w0 (taken s).state := by
  unfold taken
  repeat' (first
    | with_reducible assumption)

theorem guActions_keeps (n : ℕ) (restart : Bool) (cap : Bool) (s : State) {w0 : State} (h0 : Keeps w0 s) : Keeps w0 (guActions n restart cap s) := by
  unfold guActions
  repeat' (first
    | with_reducible assumption
    | with_reducible refine (takeFree_keeps _ ?_)
    | with_reducible refine (modGu_keeps _ _ _ ?_)
    | with_reducible refine (guCaptureNow_keeps _ _ ?_)
    | (split; with_reducible refine Keeps.pair_ ‹_ = (_, _)› ?_ ?_; on_goal 2 => intro)
    | split)

theorem writeGuCtl_keeps (n : ℕ) (v : ℕ) (s : State) {w0 : State} (h0 : Keeps w0 s) : Keeps w0 (writeGuCtl n v s).state := by
  unfold writeGuCtl
  repeat' (first
    | with_reducible assumption
    | (extract_lets +onlyGivenNames x; with_reducible refine Keeps.have_ (x := x) ?_ ?_; (on_goal 2 => (clear_value x; intro)); on_goal 1 => subst x)
    | (extract_lets +onlyGivenNames x; clear_value x)
    | with_reducible refine (refused_keeps _ _ ?_)
    | with_reducible refine (modGu_keeps _ _ _ ?_)
    | with_reducible refine (taken_keeps _ ?_)
    | with_reducible refine (guActions_keeps _ _ _ _ ?_)
    | split)

theorem guParam_keeps (n : ℕ) (v : ℕ) (old : ℕ) (f : Gu → Gu) (s : State) {w0 : State} (h0 : Keeps w0 s) : Keeps w0 (guParam n v old f s).state := by
  unfold guParam
  repeat' (first
    | with_reducible assumption
    | with_reducible refine (refused_keeps _ _ ?_)
    | with_reducible refine (taken_keeps _ ?_)
    | with_reducible refine (modGu_keeps _ _ _ ?_)
    | split)

theorem writeGuFeed_keeps (n : ℕ) (v : ℕ) (s : State) {w0 : State} (h0 : Keeps w0 s) : Keeps w0 (writeGuFeed n v s).state := by
  unfold writeGuFeed
  repeat' (first
    | with_reducible assumption
    | with_reducible refine (taken_keeps _ ?_)
    | with_reducible refine (modGu_keeps _ _ _ ?_)
    | split)

theorem writeGu_keeps (o : ℕ) (n : ℕ) (v : ℕ) (s : State) {w0 : State} (h0 : Keeps w0 s) : Keeps w0 (writeGu o n v s).state := by
  unfold writeGu
  repeat' (first
    | with_reducible assumption
    | (extract_lets +onlyGivenNames x; clear_value x)
    | with_reducible refine (writeGuCtl_keeps _ _ _ ?_)
    | with_reducible refine (guParam_keeps _ _ _ _ _ ?_)
    | with_reducible refine (taken_keeps _ ?_)
    | with_reducible refine (modGu_keeps _ _ _ ?_)
    | with_reducible refine (writeGuFeed_keeps _ _ _ ?_)
    | split)

theorem maskedValue_keeps (masked : Bool) (data : List Byte) (off : ℕ) (a : ℕ) (s : State) {w0 : State} (h0 : Keeps w0 s) : Keeps w0 (maskedValue masked data off a s).2 := by
  unfold maskedValue
  repeat' (first
    | with_reducible assumption
    | (extract_lets +onlyGivenNames x; with_reducible refine Keeps.have_ (x := x) ?_ ?_; (on_goal 2 => (clear_value x; intro)); on_goal 1 => subst x)
    | (extract_lets +onlyGivenNames x; clear_value x)
    | with_reducible refine (readEffect_keeps _ _ ?_)
    | split)

theorem writeHrxEn_keeps (en : ℕ) (s : State) {w0 : State} (h0 : Keeps w0 s) : Keeps w0 (writeHrxEn en s) := by
  unfold writeHrxEn
  repeat' (first
    | with_reducible assumption
    | (extract_lets +onlyGivenNames x; with_reducible refine Keeps.have_ (x := x) ?_ ?_; (on_goal 2 => (clear_value x; intro)); on_goal 1 => subst x)
    | (extract_lets +onlyGivenNames x; (first | (have h : @Eq Lnk x x := rfl; clear h; subst x) | clear_value x))
    | with_reducible refine (disableLane_keeps _ _ ?_)
    | with_reducible refine (enableLane_keeps _ _ ?_)
    | (with_reducible refine Keeps.foldl _ ?_ ?_; on_goal 1 => (intros; beta_reduce))
    | split
    | (intro _; intros; beta_reduce)
    | fail_if_no_progress with_reducible refine Keeps.upd ?_ rfl rfl rfl rfl rfl rfl (by first | exact id | simp +contextual [shapes])
    | dsimp only)

theorem writeLnkCtl_keeps (v : ℕ) (s : State) {w0 : State} (h0 : Keeps w0 s) : Keeps w0 (writeLnkCtl v s).state := by
  unfold writeLnkCtl
  repeat' (first
    | with_reducible assumption
    | (extract_lets +onlyGivenNames x; with_reducible refine Keeps.have_ (x := x) ?_ ?_; (on_goal 2 => (clear_value x; intro)); on_goal 1 => subst x)
    | (extract_lets +onlyGivenNames x; (first | (have h : @Eq Lnk x x := rfl; clear h; subst x) | clear_value x))
    | with_reducible refine (taken_keeps _ ?_)
    | with_reducible refine (writeHrxEn_keeps _ _ ?_)
    | fail_if_no_progress with_reducible refine Keeps.upd ?_ rfl rfl rfl rfl rfl rfl (by first | exact id | simp +contextual [shapes])
    | dsimp only)

theorem writeBudget_keeps (v : ℕ) (s : State) {w0 : State} (h0 : Keeps w0 s) : Keeps w0 (writeBudget v s).state := by
  unfold writeBudget
  repeat' (first
    | with_reducible assumption
    | (extract_lets +onlyGivenNames x; with_reducible refine Keeps.have_ (x := x) ?_ ?_; (on_goal 2 => (clear_value x; intro)); on_goal 1 => subst x)
    | (extract_lets +onlyGivenNames x; clear_value x)
    | with_reducible refine (refused_keeps _ _ ?_)
    | with_reducible refine (taken_keeps _ ?_)
    | split
    | fail_if_no_progress with_reducible refine Keeps.upd ?_ rfl rfl rfl rfl rfl rfl (by first | exact id | simp +contextual [shapes])
    | dsimp only)

theorem writePwr_keeps (o : ℕ) (v : ℕ) (s : State) {w0 : State} (h0 : Keeps w0 s) : Keeps w0 (writePwr o v s).state := by
  unfold writePwr
  repeat' (first
    | with_reducible assumption
    | (extract_lets +onlyGivenNames x; with_reducible refine Keeps.have_ (x := x) ?_ ?_; (on_goal 2 => (clear_value x; intro)); on_goal 1 => subst x)
    | (extract_lets +onlyGivenNames x; (first | (have h : @Eq Pwr x x := rfl; clear h; subst x) | clear_value x))
    | with_reducible refine (taken_keeps _ ?_)
    | split
    | fail_if_no_progress with_reducible refine Keeps.upd ?_ rfl rfl rfl rfl rfl rfl (by first | exact id | simp +contextual [shapes])
    | dsimp only)

theorem writeWickData_keeps (v : ℕ) (s : State) {w0 : State} (h0 : Keeps w0 s) : Keeps w0 (writeWickData v s).state := by
  unfold writeWickData
  repeat' (first
    | with_reducible assumption
    | (extract_lets +onlyGivenNames x; with_reducible refine Keeps.have_ (x := x) ?_ ?_; (on_goal 2 => (clear_value x; intro)); on_goal 1 => subst x)
    | (extract_lets +onlyGivenNames x; clear_value x)
    | with_reducible refine (refused_keeps _ _ ?_)
    | with_reducible refine (taken_keeps _ ?_)
    | split
    | fail_if_no_progress with_reducible refine Keeps.upd ?_ rfl rfl rfl rfl rfl rfl (by first | exact id | simp +contextual [shapes])
    | dsimp only)

theorem writeLaneCtl_keeps (l : ℕ) (v : ℕ) (s : State) {w0 : State} (h0 : Keeps w0 s) : Keeps w0 (writeLaneCtl l v s).state := by
  unfold writeLaneCtl
  repeat' (first
    | with_reducible assumption
    | (extract_lets +onlyGivenNames x; with_reducible refine Keeps.have_ (x := x) ?_ ?_; (on_goal 2 => (clear_value x; intro)); on_goal 1 => subst x)
    | (extract_lets +onlyGivenNames x; clear_value x)
    | with_reducible refine (modLane_keeps _ _ _ ?_)
    | with_reducible refine (taken_keeps _ ?_)
    | with_reducible refine (leaveTraffic_keeps _ _ ?_)
    | with_reducible refine (setLaneState_keeps _ _ _ ?_)
    | with_reducible refine (restartLane_keeps _ _ _ ?_)
    | split)

theorem writeRopeCtl_keeps (v : ℕ) (s : State) {w0 : State} (h0 : Keeps w0 s) : Keeps w0 (writeRopeCtl v s).state := by
  unfold writeRopeCtl
  repeat' (first
    | with_reducible assumption
    | (extract_lets +onlyGivenNames x; with_reducible refine Keeps.have_ (x := x) ?_ ?_; (on_goal 2 => (clear_value x; intro)); on_goal 1 => subst x)
    | (extract_lets +onlyGivenNames x; clear_value x)
    | with_reducible refine (breakFrame_keeps _ _ _ _ ?_)
    | with_reducible refine (taken_keeps _ ?_)
    | (with_reducible refine Keeps.foldl _ ?_ ?_; on_goal 1 => (intros; beta_reduce))
    | split
    | (intro _; intros; beta_reduce)
    | fail_if_no_progress with_reducible refine Keeps.upd ?_ rfl rfl rfl rfl rfl rfl (by first | exact id | simp +contextual [shapes])
    | dsimp only)

theorem writeLnk_keeps (o : ℕ) (v : ℕ) (s : State) {w0 : State} (h0 : Keeps w0 s) : Keeps w0 (writeLnk o v s).state := by
  unfold writeLnk
  repeat' (first
    | with_reducible assumption
    | (extract_lets +onlyGivenNames x; with_reducible refine Keeps.have_ (x := x) ?_ ?_; (on_goal 2 => (clear_value x; intro)); on_goal 1 => subst x)
    | (extract_lets +onlyGivenNames x; (first | (have h : @Eq Lnk x x := rfl; clear h; subst x) | clear_value x))
    | with_reducible refine (writeLaneCtl_keeps _ _ _ ?_)
    | with_reducible refine (taken_keeps _ ?_)
    | with_reducible refine (writeLnkCtl_keeps _ _ ?_)
    | with_reducible refine (writeRopeCtl_keeps _ _ ?_)
    | split
    | fail_if_no_progress with_reducible refine Keeps.upd ?_ rfl rfl rfl rfl rfl rfl (by first | exact id | simp +contextual [shapes])
    | dsimp only)

theorem writeHdrmCtl_keeps (v : ℕ) (s : State) {w0 : State} (h0 : Keeps w0 s) : Keeps w0 (writeHdrmCtl v s).state := by
  unfold writeHdrmCtl
  repeat' (first
    | with_reducible assumption
    | (extract_lets +onlyGivenNames x; with_reducible refine Keeps.have_ (x := x) ?_ ?_; (on_goal 2 => (clear_value x; intro)); on_goal 1 => subst x)
    | (extract_lets +onlyGivenNames x; clear_value x)
    | with_reducible refine (taken_keeps _ ?_)
    | fail_if_no_progress with_reducible refine Keeps.upd ?_ rfl rfl rfl rfl rfl rfl (by first | exact id | simp +contextual [shapes])
    | dsimp only)

theorem writeCmp_keeps (o : ℕ) (v : ℕ) (s : State) {w0 : State} (h0 : Keeps w0 s) : Keeps w0 (writeCmp o v s).state := by
  unfold writeCmp
  repeat' (first
    | with_reducible assumption
    | (extract_lets +onlyGivenNames x; with_reducible refine Keeps.have_ (x := x) ?_ ?_; (on_goal 2 => (clear_value x; intro)); on_goal 1 => subst x)
    | (extract_lets +onlyGivenNames x; (first | (have h : @Eq Cmp x x := rfl; clear h; subst x) | clear_value x))
    | with_reducible refine (taken_keeps _ ?_)
    | split
    | fail_if_no_progress with_reducible refine Keeps.upd ?_ rfl rfl rfl rfl rfl rfl (by first | exact id | simp +contextual [shapes])
    | dsimp only)

theorem writeChk_keeps (o : ℕ) (v : ℕ) (s : State) {w0 : State} (h0 : Keeps w0 s) : Keeps w0 (writeChk o v s).state := by
  unfold writeChk
  repeat' (first
    | with_reducible assumption
    | with_reducible refine (writeGu_keeps _ _ _ _ ?_)
    | with_reducible refine (taken_keeps _ ?_)
    | split)

theorem writeArrayCtl_keeps (v : ℕ) (s : State) {w0 : State} (h0 : Keeps w0 s) : Keeps w0 (writeArrayCtl v s).state := by
  unfold writeArrayCtl
  repeat' (first
    | with_reducible assumption
    | (extract_lets +onlyGivenNames x; with_reducible refine Keeps.have_ (x := x) ?_ ?_; (on_goal 2 => (clear_value x; intro)); on_goal 1 => subst x)
    | (extract_lets +onlyGivenNames x; clear_value x)
    | with_reducible refine (refused_keeps _ _ ?_)
    | with_reducible refine (taken_keeps _ ?_)
    | split
    | fail_if_no_progress with_reducible refine Keeps.upd ?_ rfl rfl rfl rfl rfl rfl (by first | exact id | simp +contextual [shapes])
    | dsimp only)

theorem writeDuty_keeps (v : ℕ) (s : State) {w0 : State} (h0 : Keeps w0 s) : Keeps w0 (writeDuty v s).state := by
  unfold writeDuty
  repeat' (first
    | with_reducible assumption
    | (extract_lets +onlyGivenNames x; with_reducible refine Keeps.have_ (x := x) ?_ ?_; (on_goal 2 => (clear_value x; intro)); on_goal 1 => subst x)
    | (extract_lets +onlyGivenNames x; clear_value x)
    | with_reducible refine (taken_keeps _ ?_)
    | with_reducible refine (refused_keeps _ _ ?_)
    | split
    | fail_if_no_progress with_reducible refine Keeps.upd ?_ rfl rfl rfl rfl rfl rfl (by first | exact id | simp +contextual [shapes])
    | dsimp only)

theorem writeWickAddr_keeps (v : ℕ) (s : State) {w0 : State} (h0 : Keeps w0 s) : Keeps w0 (writeWickAddr v s).state := by
  unfold writeWickAddr
  repeat' (first
    | with_reducible assumption
    | (extract_lets +onlyGivenNames x; with_reducible refine Keeps.have_ (x := x) ?_ ?_; (on_goal 2 => (clear_value x; intro)); on_goal 1 => subst x)
    | (extract_lets +onlyGivenNames x; clear_value x)
    | with_reducible refine (refused_keeps _ _ ?_)
    | with_reducible refine (taken_keeps _ ?_)
    | split
    | fail_if_no_progress with_reducible refine Keeps.upd ?_ rfl rfl rfl rfl rfl rfl (by first | exact id | simp +contextual [shapes])
    | dsimp only)

theorem writeFtimerCtl_keeps (v : ℕ) (s : State) {w0 : State} (h0 : Keeps w0 s) : Keeps w0 (writeFtimerCtl v s).state := by
  unfold writeFtimerCtl
  repeat' (first
    | with_reducible assumption
    | (extract_lets +onlyGivenNames x; with_reducible refine Keeps.have_ (x := x) ?_ ?_; (on_goal 2 => (clear_value x; intro)); on_goal 1 => subst x)
    | (extract_lets +onlyGivenNames x; clear_value x)
    | with_reducible refine (refused_keeps _ _ ?_)
    | with_reducible refine (taken_keeps _ ?_)
    | split
    | fail_if_no_progress with_reducible refine Keeps.upd ?_ rfl rfl rfl rfl rfl rfl (by first | exact id | simp +contextual [shapes])
    | dsimp only)

theorem writeMapGain_keeps (v : ℕ) (s : State) {w0 : State} (h0 : Keeps w0 s) : Keeps w0 (writeMapGain v s).state := by
  unfold writeMapGain
  repeat' (first
    | with_reducible assumption
    | (extract_lets +onlyGivenNames x; with_reducible refine Keeps.have_ (x := x) ?_ ?_; (on_goal 2 => (clear_value x; intro)); on_goal 1 => subst x)
    | (extract_lets +onlyGivenNames x; clear_value x)
    | with_reducible refine (refused_keeps _ _ ?_)
    | with_reducible refine (taken_keeps _ ?_)
    | split
    | fail_if_no_progress with_reducible refine Keeps.upd ?_ rfl rfl rfl rfl rfl rfl (by first | exact id | simp +contextual [shapes])
    | dsimp only)

theorem writeWearAddr_keeps (v : ℕ) (s : State) {w0 : State} (h0 : Keeps w0 s) : Keeps w0 (writeWearAddr v s).state := by
  unfold writeWearAddr
  repeat' (first
    | with_reducible assumption
    | (extract_lets +onlyGivenNames x; with_reducible refine Keeps.have_ (x := x) ?_ ?_; (on_goal 2 => (clear_value x; intro)); on_goal 1 => subst x)
    | (extract_lets +onlyGivenNames x; clear_value x)
    | with_reducible refine (refused_keeps _ _ ?_)
    | with_reducible refine (taken_keeps _ ?_)
    | split
    | fail_if_no_progress with_reducible refine Keeps.upd ?_ rfl rfl rfl rfl rfl rfl (by first | exact id | simp +contextual [shapes])
    | dsimp only)

theorem writeDrv_keeps (o : ℕ) (v : ℕ) (s : State) {w0 : State} (h0 : Keeps w0 s) : Keeps w0 (writeDrv o v s).state := by
  unfold writeDrv
  repeat' (first
    | with_reducible assumption
    | (extract_lets +onlyGivenNames x; with_reducible refine Keeps.have_ (x := x) ?_ ?_; (on_goal 2 => (clear_value x; intro)); on_goal 1 => subst x)
    | (extract_lets +onlyGivenNames x; clear_value x)
    | with_reducible refine (writeArrayCtl_keeps _ _ ?_)
    | with_reducible refine (writeBudget_keeps _ _ ?_)
    | with_reducible refine (writeHdrmCtl_keeps _ _ ?_)
    | with_reducible refine (writeDuty_keeps _ _ ?_)
    | with_reducible refine (writeWickAddr_keeps _ _ ?_)
    | with_reducible refine (writeWickData_keeps _ _ ?_)
    | with_reducible refine (writeFtimerCtl_keeps _ _ ?_)
    | with_reducible refine (taken_keeps _ ?_)
    | with_reducible refine (writeMapGain_keeps _ _ ?_)
    | with_reducible refine (writeWearAddr_keeps _ _ ?_)
    | split
    | fail_if_no_progress with_reducible refine Keeps.upd ?_ rfl rfl rfl rfl rfl rfl (by first | exact id | simp +contextual [shapes])
    | dsimp only)

theorem writeFltCtl_keeps (v : ℕ) (s : State) {w0 : State} (h0 : Keeps w0 s) : Keeps w0 (writeFltCtl v s).state := by
  unfold writeFltCtl
  repeat' (first
    | with_reducible assumption
    | (extract_lets +onlyGivenNames x; with_reducible refine Keeps.have_ (x := x) ?_ ?_; (on_goal 2 => (clear_value x; intro)); on_goal 1 => subst x)
    | (extract_lets +onlyGivenNames x; (first | (have h : @Eq Flt x x := rfl; clear h; subst x) | clear_value x))
    | with_reducible refine (refused_keeps _ _ ?_)
    | with_reducible refine (takeFree_keeps _ ?_)
    | with_reducible refine (taken_keeps _ ?_)
    | with_reducible refine (selfFault_keeps _ _ _ _ _ ?_)
    | (split; with_reducible refine Keeps.pair_ ‹_ = (_, _)› ?_ ?_; on_goal 2 => intro)
    | split
    | fail_if_no_progress with_reducible refine Keeps.upd ?_ rfl rfl rfl rfl rfl rfl (by first | exact id | simp +contextual [shapes])
    | dsimp only)

theorem writeLatched_keeps (during : List RawEvent) (v : ℕ) (s : State) {w0 : State} (h0 : Keeps w0 s) : Keeps w0 (writeLatched during v s).state := by
  unfold writeLatched
  repeat' (first
    | with_reducible assumption
    | (extract_lets +onlyGivenNames x; clear_value x)
    | with_reducible refine (taken_keeps _ ?_)
    | with_reducible refine (sameClock_keeps _ _ _ ?_)
    | with_reducible refine (clearing_keeps _ _ _ ?_)
    | split)

theorem writeAcked_keeps (during : List RawEvent) (v : ℕ) (s : State) {w0 : State} (h0 : Keeps w0 s) : Keeps w0 (writeAcked during v s).state := by
  unfold writeAcked
  repeat' (first
    | with_reducible assumption
    | with_reducible refine (taken_keeps _ ?_)
    | with_reducible refine (sameClock_keeps _ _ _ ?_)
    | with_reducible refine (ackClasses_keeps _ _ ?_))

theorem writeFlt_keeps (o : ℕ) (v : ℕ) (s : State) {w0 : State} (h0 : Keeps w0 s) : Keeps w0 (writeFlt o v s).state := by
  unfold writeFlt
  repeat' (first
    | with_reducible assumption
    | (extract_lets +onlyGivenNames x; with_reducible refine Keeps.have_ (x := x) ?_ ?_; (on_goal 2 => (clear_value x; intro)); on_goal 1 => subst x)
    | (extract_lets +onlyGivenNames x; (first | (have h : @Eq Flt x x := rfl; clear h; subst x) | clear_value x))
    | with_reducible refine (writeFltCtl_keeps _ _ ?_)
    | with_reducible refine (writeLatched_keeps _ _ _ ?_)
    | with_reducible refine (writeAcked_keeps _ _ _ ?_)
    | with_reducible refine (taken_keeps _ ?_)
    | split
    | fail_if_no_progress with_reducible refine Keeps.upd ?_ rfl rfl rfl rfl rfl rfl (by first | exact id | simp +contextual [shapes])
    | dsimp only)

theorem writeScl_keeps (o : ℕ) (v : ℕ) (s : State) {w0 : State} (h0 : Keeps w0 s) : Keeps w0 (writeScl o v s).state := by
  unfold writeScl
  repeat' (first
    | with_reducible assumption
    | (extract_lets +onlyGivenNames x; with_reducible refine Keeps.have_ (x := x) ?_ ?_; (on_goal 2 => (clear_value x; intro)); on_goal 1 => subst x)
    | (extract_lets +onlyGivenNames x; (first | (have h : @Eq Scl x x := rfl; clear h; subst x) | clear_value x))
    | with_reducible refine (taken_keeps _ ?_)
    | split
    | fail_if_no_progress with_reducible refine Keeps.upd ?_ rfl rfl rfl rfl rfl rfl (by first | exact id | simp +contextual [shapes])
    | dsimp only)

theorem writeDiag_keeps (o : ℕ) (v : ℕ) (s : State) {w0 : State} (h0 : Keeps w0 s) : Keeps w0 (writeDiag o v s).state := by
  unfold writeDiag
  repeat' (first
    | with_reducible assumption
    | (extract_lets +onlyGivenNames x; (first | (have h : @Eq Diag x x := rfl; clear h; subst x) | (have h : @Eq (List Rect) x x := rfl; clear h; subst x) | clear_value x))
    | with_reducible refine (taken_keeps _ ?_)
    | with_reducible refine (refused_keeps _ _ ?_)
    | split
    | fail_if_no_progress with_reducible refine Keeps.upd ?_ rfl rfl rfl rfl rfl rfl (by first | exact id | simp +contextual [shapes]))

theorem writeBankUse_keeps (b : ℕ) (v : ℕ) (s : State) {w0 : State} (h0 : Keeps w0 s) : Keeps w0 (writeBankUse b v s).state := by
  unfold writeBankUse
  repeat' (first
    | with_reducible assumption
    | (extract_lets +onlyGivenNames x; clear_value x)
    | with_reducible refine (taken_keeps _ ?_)
    | with_reducible refine (refused_keeps _ _ ?_)
    | with_reducible refine (assignBanks_keeps _ _ _ _ ?_)
    | (split; with_reducible refine Keeps.pair_ ‹_ = (_, _)› ?_ ?_; on_goal 2 => intro)
    | split)

theorem writeWinCmd_keeps (v : ℕ) (s : State) {w0 : State} (h0 : Keeps w0 s) : Keeps w0 (writeWinCmd v s).state := by
  unfold writeWinCmd
  repeat' (first
    | with_reducible assumption
    | (extract_lets +onlyGivenNames x; with_reducible refine Keeps.have_ (x := x) ?_ ?_; (on_goal 2 => (clear_value x; intro)); on_goal 1 => subst x)
    | (extract_lets +onlyGivenNames x; (first | (have h : @Eq Mem x x := rfl; clear h; subst x) | clear_value x))
    | with_reducible refine (refused_keeps _ _ ?_)
    | with_reducible refine (taken_keeps _ ?_)
    | split
    | fail_if_no_progress with_reducible refine Keeps.upd ?_ rfl rfl rfl rfl rfl rfl (by first | exact id | simp +contextual [shapes])
    | dsimp only)

theorem writeMem_keeps (o : ℕ) (v : ℕ) (s : State) {w0 : State} (h0 : Keeps w0 s) : Keeps w0 (writeMem o v s).state := by
  unfold writeMem
  repeat' (first
    | with_reducible assumption
    | (extract_lets +onlyGivenNames x; with_reducible refine Keeps.have_ (x := x) ?_ ?_; (on_goal 2 => (clear_value x; intro)); on_goal 1 => subst x)
    | (extract_lets +onlyGivenNames x; (first | (have h : @Eq Mem x x := rfl; clear h; subst x) | clear_value x))
    | with_reducible refine (writeBankUse_keeps _ _ _ ?_)
    | with_reducible refine (taken_keeps _ ?_)
    | with_reducible refine (writeWinCmd_keeps _ _ ?_)
    | split
    | fail_if_no_progress with_reducible refine Keeps.upd ?_ rfl rfl rfl rfl rfl rfl (by first | exact id | simp +contextual [shapes])
    | dsimp only)

theorem regWrite_keeps (a : ℕ) (v : ℕ) (s : State) {w0 : State} (h0 : Keeps w0 s) : Keeps w0 (regWrite a v s).state := by
  unfold regWrite
  repeat' (first
    | with_reducible assumption
    | (extract_lets +onlyGivenNames x; clear_value x)
    | with_reducible refine (writePwr_keeps _ _ _ ?_)
    | with_reducible refine (writeLnk_keeps _ _ _ ?_)
    | with_reducible refine (writeCmp_keeps _ _ _ ?_)
    | with_reducible refine (writeScl_keeps _ _ _ ?_)
    | with_reducible refine (writeDrv_keeps _ _ _ ?_)
    | with_reducible refine (writeDiag_keeps _ _ _ ?_)
    | with_reducible refine (writeChk_keeps _ _ _ ?_)
    | with_reducible refine (writeFlt_keeps _ _ _ ?_)
    | with_reducible refine (writeMem_keeps _ _ _ ?_)
    | with_reducible refine (taken_keeps _ ?_)
    | split)

theorem regWritesBy_keeps (wr : ℕ → ℕ → State → WriteRes) (masked : Bool) (data : List Byte) (a : ℕ) (y4 : ℕ) (y5 : ℕ) (y6 : State) {w0 : State} (h0 : Keeps w0 y6) (h_wr : ∀ r a v x, Keeps r x → Keeps r (wr a v x).state) : Keeps w0 (regWritesBy wr masked data a y4 y5 y6).2.2 := by
  induction y4 generalizing y5 y6 with
  | zero => exact h0
  | succ k ih =>
    have b := fun i => h_wr _ (a + 4 * y5) (maskedValue masked data i (a + 4 * y5) y6).1 _ (maskedValue_keeps masked data i (a + 4 * y5) y6 h0)
    simp only [regWritesBy]
    generalize 8 + (if masked = true then 8 else 4) * y5 = i
    split
    · exact b i
    · exact ih _ _ (b i)

end Sys2Proof.Machine
end

