-- ==== Sys2Proof/Laws/KeepsCmdBasic.lean ====
section
/-! SUPPORT. For each definition of Machine/CmdBasic.lean that answers a state: the queue stays as it is and the memories stay canonical. -/

namespace Sys2Proof.Machine

theorem writeRegBody_keeps (wr : ℕ → ℕ → State → WriteRes) (payload : List Byte) (h_wr : ∀ r a v x, Keeps r x → Keeps r (wr a v x).state) : ∀ r x, Keeps r x → Keeps r (writeRegBody wr payload x).2 := by
  intro r x h0; unfold writeRegBody; beta_reduce
  repeat' (first
    | with_reducible assumption
    | (extract_lets +onlyGivenNames x; with_reducible refine Keeps.have_ (x := x) ?_ ?_; (on_goal 2 => (clear_value x; intro)); on_goal 1 => subst x)
    | with_reducible refine (rep_keeps _ _ ?_)
    | with_reducible refine (regWritesBy_keeps _ _ _ _ _ _ _ ?_ ?_)
    | with_reducible refine (rekindle_keeps _ _ ?_)
    | with_reducible refine (h_wr _ _ ?_)
    | with_reducible refine (h_wr _ _ _ ?_)
    | with_reducible refine (h_wr _ _ _ _ ?_)
    | with_reducible refine (h_wr _ _ _ _ _ ?_)
    | (split; with_reducible refine Keeps.triple_ ‹_ = (_, _, _)› ?_ ?_; on_goal 2 => intro)
    | split)

theorem writeRegs_keeps (wr : ℕ → ℕ → State → WriteRes) (rq : Rq) (s : State) {w0 : State} (h0 : Keeps w0 s) (h_wr : ∀ r a v x, Keeps r x → Keeps r (wr a v x).state) : KeepsRes w0 (writeRegs wr rq s) := by
  unfold writeRegs
  repeat' (first
    | with_reducible assumption
    | with_reducible refine (request_keeps _ _ _ _ _ _ _ ?_ ?_)
    | with_reducible refine (writeRegBody_keeps _ _ ?_ _ _ ?_)
    | with_reducible refine (writeRegBody_keeps _ _ ?_))

theorem writeOneBy_keeps (wr : ℕ → ℕ → State → WriteRes) (h : Hdr) (a : ℕ) (v : ℕ) (s : State) {w0 : State} (h0 : Keeps w0 s) (h_wr : ∀ r a v x, Keeps r x → Keeps r (wr a v x).state) : KeepsRes w0 (writeOneBy wr h a v s) := by
  unfold writeOneBy
  repeat' (first
    | with_reducible assumption
    | with_reducible refine (writeRegs_keeps _ _ _ ?_ ?_))

theorem writeOne_keeps (h : Hdr) (a : ℕ) (v : ℕ) (s : State) {w0 : State} (h0 : Keeps w0 s) : KeepsRes w0 (writeOne h a v s) := by
  unfold writeOne
  repeat' (first
    | with_reducible assumption
    | with_reducible refine (writeOneBy_keeps _ _ _ _ _ ?_ ?_)
    | with_reducible refine (regWrite_keeps _ _ _ ?_)
    | (intro _; intros; beta_reduce)
    | dsimp only)

theorem execHdrmDutyWrite_keeps (h : Hdr) (w : Word) (s : State) {w0 : State} (h0 : Keeps w0 s) : KeepsRes w0 (execHdrmDutyWrite h w s) := by
  unfold execHdrmDutyWrite
  repeat' (first
    | with_reducible assumption
    | with_reducible refine (writeOne_keeps _ _ _ _ ?_))

theorem execSwap64_keeps (h : Hdr) (s : State) {w0 : State} (h0 : Keeps w0 s) : KeepsRes w0 (execSwap64 h s) := by
  unfold execSwap64
  repeat' (first
    | with_reducible assumption
    | with_reducible refine (writeOne_keeps _ _ _ _ ?_))

theorem execBankUseWrite_keeps (h : Hdr) (bank : ℕ) (w : Word) (s : State) {w0 : State} (h0 : Keeps w0 s) : KeepsRes w0 (execBankUseWrite h bank w s) := by
  unfold execBankUseWrite
  repeat' (first
    | with_reducible assumption
    | with_reducible exact KeepsRes.fault
    | with_reducible refine (writeOne_keeps _ _ _ _ ?_)
    | split)

theorem execFtimerCtlWrite_keeps (h : Hdr) (w : Word) (s : State) {w0 : State} (h0 : Keeps w0 s) : KeepsRes w0 (execFtimerCtlWrite h w s) := by
  unfold execFtimerCtlWrite
  repeat' (first
    | with_reducible assumption
    | with_reducible refine (writeOne_keeps _ _ _ _ ?_))

theorem execSwap32_keeps (h : Hdr) (s : State) {w0 : State} (h0 : Keeps w0 s) : KeepsRes w0 (execSwap32 h s) := by
  unfold execSwap32
  repeat' (first
    | with_reducible assumption
    | with_reducible refine (writeOne_keeps _ _ _ _ ?_))

theorem readRegWith_keeps (reads : ℕ → ℕ → State → List Byte × State) (rq : Rq) (s : State) {w0 : State} (h0 : Keeps w0 s) (h_reads : ∀ r a b x, Keeps r x → Keeps r (reads a b x).2) : KeepsRes w0 (readRegWith reads rq s) := by
  unfold readRegWith
  repeat' (first
    | with_reducible assumption
    | (extract_lets +onlyGivenNames x; with_reducible refine KeepsRes.have_ (x := x) ?_ ?_; (on_goal 2 => (clear_value x; intro)); on_goal 1 => subst x)
    | (extract_lets +onlyGivenNames x; with_reducible refine Keeps.have_ (x := x) ?_ ?_; (on_goal 2 => (clear_value x; intro)); on_goal 1 => subst x)
    | (extract_lets +onlyGivenNames x; (first | (have h : x = (fun _ => _) := rfl; subst x; beta_reduce) | (have h : x = (fun _ _ => _) := rfl; subst x; beta_reduce) | clear_value x))
    | with_reducible refine (request_keeps _ _ _ _ _ _ _ ?_ ?_)
    | with_reducible refine (rep_keeps _ _ ?_)
    | with_reducible refine (repOk_keeps _ _ ?_)
    | with_reducible refine (h_reads _ _ ?_)
    | with_reducible refine (h_reads _ _ _ ?_)
    | with_reducible refine (h_reads _ _ _ _ ?_)
    | (split; with_reducible refine KeepsRes.pair_ ‹_ = (_, _)› ?_ ?_; on_goal 2 => intro)
    | (split; with_reducible refine Keeps.pair_ ‹_ = (_, _)› ?_ ?_; on_goal 2 => intro)
    | split
    | (intro _; intros; beta_reduce)
    | dsimp only)

theorem execReadReg_keeps (rq : Rq) (s : State) {w0 : State} (h0 : Keeps w0 s) : KeepsRes w0 (execReadReg rq s) := by
  unfold execReadReg
  repeat' (first
    | with_reducible assumption
    | with_reducible refine (readRegWith_keeps _ _ _ ?_ ?_)
    | with_reducible refine (regReads_keeps _ _ _ ?_)
    | (intro _; intros; beta_reduce)
    | dsimp only)

theorem execHrxEnWrite_keeps (h : Hdr) (w : Word) (s : State) {w0 : State} (h0 : Keeps w0 s) : KeepsRes w0 (execHrxEnWrite h w s) := by
  unfold execHrxEnWrite
  repeat' (first
    | with_reducible assumption
    | with_reducible refine (writeOne_keeps _ _ _ _ ?_))

theorem execWrite64_keeps (h : Hdr) (s : State) {w0 : State} (h0 : Keeps w0 s) : KeepsRes w0 (execWrite64 h s) := by
  unfold execWrite64
  repeat' (first
    | with_reducible assumption
    | with_reducible refine (writeOne_keeps _ _ _ _ ?_))

theorem execTxPatternWrite_keeps (h : Hdr) (twin : Bool) (w : Word) (s : State) {w0 : State} (h0 : Keeps w0 s) : KeepsRes w0 (execTxPatternWrite h twin w s) := by
  unfold execTxPatternWrite
  repeat' (first
    | with_reducible assumption
    | with_reducible refine (writeOne_keeps _ _ _ _ ?_))

theorem execGetInfo_keeps (rq : Rq) (s : State) {w0 : State} (h0 : Keeps w0 s) : KeepsRes w0 (execGetInfo rq s) := by
  unfold execGetInfo
  repeat' (first
    | with_reducible assumption
    | with_reducible refine (request_keeps _ _ _ _ _ _ _ ?_ ?_)
    | with_reducible refine (repOk_keeps _ _ ?_)
    | split
    | (intro _; intros; beta_reduce)
    | dsimp only)

theorem execRawCapture_keeps (h : Hdr) (l : ℕ) (raw : ℕ) (line : List Bool) (s : State) {w0 : State} (h0 : Keeps w0 s) : KeepsRes w0 (execRawCapture h l raw line s) := by
  unfold execRawCapture
  repeat' (first
    | with_reducible assumption
    | (extract_lets +onlyGivenNames x; with_reducible refine KeepsRes.have_ (x := x) ?_ ?_; (on_goal 2 => (clear_value x; intro)); on_goal 1 => subst x)
    | (extract_lets +onlyGivenNames x; with_reducible refine Keeps.have_ (x := x) ?_ ?_; (on_goal 2 => (clear_value x; intro)); on_goal 1 => subst x)
    | (extract_lets +onlyGivenNames x; clear_value x)
    | with_reducible exact KeepsRes.fault
    | with_reducible refine (readRegWith_keeps _ _ _ ?_ ?_)
    | with_reducible refine (checkLine_keeps _ _ _ ?_)
    | with_reducible refine (capture_keeps _ _ _ ?_)
    | split
    | (intro _; intros; beta_reduce)
    | dsimp only)

theorem execLaneTestMode_keeps (h : Hdr) (l : ℕ) (w : Word) (s : State) {w0 : State} (h0 : Keeps w0 s) : KeepsRes w0 (execLaneTestMode h l w s) := by
  unfold execLaneTestMode
  repeat' (first
    | with_reducible assumption
    | with_reducible exact KeepsRes.fault
    | with_reducible refine (writeOne_keeps _ _ _ _ ?_)
    | split)

theorem execFltAckedWrite_keeps (h : Hdr) (w : Word) (during : List RawEvent) (s : State) {w0 : State} (h0 : Keeps w0 s) : KeepsRes w0 (execFltAckedWrite h w during s) := by
  unfold execFltAckedWrite
  repeat' (first
    | with_reducible assumption
    | with_reducible refine (writeOneBy_keeps _ _ _ _ _ ?_ ?_)
    | with_reducible refine (writeAcked_keeps _ _ _ ?_)
    | split
    | (intro _; intros; beta_reduce)
    | dsimp only)

theorem execFadd64_keeps (h : Hdr) (s : State) {w0 : State} (h0 : Keeps w0 s) : KeepsRes w0 (execFadd64 h s) := by
  unfold execFadd64
  repeat' (first
    | with_reducible assumption
    | with_reducible refine (writeOne_keeps _ _ _ _ ?_))

theorem execComposeLeadWrite_keeps (h : Hdr) (w : Word) (s : State) {w0 : State} (h0 : Keeps w0 s) : KeepsRes w0 (execComposeLeadWrite h w s) := by
  unfold execComposeLeadWrite
  repeat' (first
    | with_reducible assumption
    | with_reducible refine (writeOne_keeps _ _ _ _ ?_))

theorem execGuCapture_keeps (h : Hdr) (n : ℕ) (w : Word) (s : State) {w0 : State} (h0 : Keeps w0 s) : KeepsRes w0 (execGuCapture h n w s) := by
  unfold execGuCapture
  repeat' (first
    | with_reducible assumption
    | with_reducible exact KeepsRes.fault
    | with_reducible refine (writeOne_keeps _ _ _ _ ?_)
    | split)

theorem execLaneMissionMode_keeps (h : Hdr) (l : ℕ) (w : Word) (s : State) {w0 : State} (h0 : Keeps w0 s) : KeepsRes w0 (execLaneMissionMode h l w s) := by
  unfold execLaneMissionMode
  repeat' (first
    | with_reducible assumption
    | with_reducible exact KeepsRes.fault
    | with_reducible refine (writeOne_keeps _ _ _ _ ?_)
    | split)

theorem execGetCompletions_keeps (rq : Rq) (s : State) {w0 : State} (h0 : Keeps w0 s) : KeepsRes w0 (execGetCompletions rq s) := by
  unfold execGetCompletions
  repeat' (first
    | with_reducible assumption
    | (extract_lets +onlyGivenNames x; with_reducible refine KeepsRes.have_ (x := x) ?_ ?_; (on_goal 2 => (clear_value x; intro)); on_goal 1 => subst x)
    | (extract_lets +onlyGivenNames x; with_reducible refine Keeps.have_ (x := x) ?_ ?_; (on_goal 2 => (clear_value x; intro)); on_goal 1 => subst x)
    | (extract_lets +onlyGivenNames x; (first | (have h : @Eq Cmd x x := rfl; clear h; subst x) | clear_value x))
    | with_reducible refine (request_keeps _ _ _ _ _ _ _ ?_ ?_)
    | with_reducible refine (rep_keeps _ _ ?_)
    | with_reducible refine (repOk_keeps _ _ ?_)
    | split
    | (intro _; intros; beta_reduce)
    | fail_if_no_progress with_reducible refine Keeps.upd ?_ rfl rfl rfl rfl rfl rfl (by first | exact id | simp +contextual [shapes])
    | dsimp only)

theorem execGuFeed_keeps (h : Hdr) (n : ℕ) (w : Word) (s : State) {w0 : State} (h0 : Keeps w0 s) : KeepsRes w0 (execGuFeed h n w s) := by
  unfold execGuFeed
  repeat' (first
    | with_reducible assumption
    | with_reducible exact KeepsRes.fault
    | with_reducible refine (writeOne_keeps _ _ _ _ ?_)
    | split)

theorem execGetStatus_keeps (rq : Rq) (s : State) {w0 : State} (h0 : Keeps w0 s) : KeepsRes w0 (execGetStatus rq s) := by
  unfold execGetStatus
  repeat' (first
    | with_reducible assumption
    | with_reducible refine (request_keeps _ _ _ _ _ _ _ ?_ ?_)
    | with_reducible refine (repOk_keeps _ _ ?_)
    | split
    | (intro _; intros; beta_reduce)
    | dsimp only)

theorem execWriteReg_keeps (rq : Rq) (s : State) {w0 : State} (h0 : Keeps w0 s) : KeepsRes w0 (execWriteReg rq s) := by
  unfold execWriteReg
  repeat' (first
    | with_reducible assumption
    | with_reducible refine (writeRegs_keeps _ _ _ ?_ ?_)
    | with_reducible refine (regWrite_keeps _ _ _ ?_)
    | (intro _; intros; beta_reduce)
    | dsimp only)

theorem execSelftest_keeps (h : Hdr) (w : Word) (s : State) {w0 : State} (h0 : Keeps w0 s) : KeepsRes w0 (execSelftest h w s) := by
  unfold execSelftest
  repeat' (first
    | with_reducible assumption
    | with_reducible refine (writeOne_keeps _ _ _ _ ?_))

theorem execRead64_keeps (h : Hdr) (s : State) {w0 : State} (h0 : Keeps w0 s) : KeepsRes w0 (execRead64 h s) := by
  unfold execRead64
  repeat' (first
    | with_reducible assumption
    | with_reducible refine (writeOne_keeps _ _ _ _ ?_))

theorem execPing_keeps (rq : Rq) (s : State) {w0 : State} (h0 : Keeps w0 s) : KeepsRes w0 (execPing rq s) := by
  unfold execPing
  repeat' (first
    | with_reducible assumption
    | with_reducible refine (request_keeps _ _ _ _ _ _ _ ?_ ?_)
    | with_reducible refine (repOk_keeps _ _ ?_)
    | split
    | (intro _; intros; beta_reduce)
    | dsimp only)

theorem execArrayCtlWrite_keeps (h : Hdr) (w : Word) (s : State) {w0 : State} (h0 : Keeps w0 s) : KeepsRes w0 (execArrayCtlWrite h w s) := by
  unfold execArrayCtlWrite
  repeat' (first
    | with_reducible assumption
    | with_reducible refine (writeOne_keeps _ _ _ _ ?_))

theorem execBudgetWrite_keeps (h : Hdr) (w : Word) (s : State) {w0 : State} (h0 : Keeps w0 s) : KeepsRes w0 (execBudgetWrite h w s) := by
  unfold execBudgetWrite
  repeat' (first
    | with_reducible assumption
    | with_reducible refine (writeOne_keeps _ _ _ _ ?_))

theorem execLayerSrcWrite_keeps (h : Hdr) (w : Word) (s : State) {w0 : State} (h0 : Keeps w0 s) : KeepsRes w0 (execLayerSrcWrite h w s) := by
  unfold execLayerSrcWrite
  repeat' (first
    | with_reducible assumption
    | with_reducible refine (writeOne_keeps _ _ _ _ ?_))

theorem execLockConfig_keeps (rq : Rq) (s : State) {w0 : State} (h0 : Keeps w0 s) : KeepsRes w0 (execLockConfig rq s) := by
  unfold execLockConfig
  refine request_keeps _ _ _ _ _ _ _ h0 (fun r x h => ?_)
  beta_reduce
  split
  · exact rep_keeps _ _ h
  · exact rep_keeps _ _ (note_keeps _ _ ⟨⟨h.pending, h.canonical, h.shaped⟩, fun _ => rfl, h.released⟩)

theorem execFltLatchedWrite_keeps (h : Hdr) (w : Word) (during : List RawEvent) (s : State) {w0 : State} (h0 : Keeps w0 s) : KeepsRes w0 (execFltLatchedWrite h w during s) := by
  unfold execFltLatchedWrite
  repeat' (first
    | with_reducible assumption
    | with_reducible refine (writeOneBy_keeps _ _ _ _ _ ?_ ?_)
    | with_reducible refine (writeLatched_keeps _ _ _ ?_)
    | split
    | (intro _; intros; beta_reduce)
    | dsimp only)

theorem execFadd32_keeps (h : Hdr) (s : State) {w0 : State} (h0 : Keeps w0 s) : KeepsRes w0 (execFadd32 h s) := by
  unfold execFadd32
  repeat' (first
    | with_reducible assumption
    | with_reducible refine (writeOne_keeps _ _ _ _ ?_))

theorem execWickDataWrite_keeps (h : Hdr) (w : Word) (s : State) {w0 : State} (h0 : Keeps w0 s) : KeepsRes w0 (execWickDataWrite h w s) := by
  unfold execWickDataWrite
  repeat' (first
    | with_reducible assumption
    | with_reducible refine (writeOne_keeps _ _ _ _ ?_))

theorem execGuRestart_keeps (h : Hdr) (n : ℕ) (w : Word) (s : State) {w0 : State} (h0 : Keeps w0 s) : KeepsRes w0 (execGuRestart h n w s) := by
  unfold execGuRestart
  repeat' (first
    | with_reducible assumption
    | with_reducible exact KeepsRes.fault
    | with_reducible refine (writeOne_keeps _ _ _ _ ?_)
    | split)

end Sys2Proof.Machine
end

