-- ==== Sys2Proof/Laws/KeepsFrontEnd.lean ====
section
/-! SUPPORT. For each definition of Machine/FrontEnd.lean that answers a state: the queue stays as it is and the memories stay canonical. -/

namespace Sys2Proof.Machine

theorem infoReply_keeps (b : List Byte) (s : State) {w0 : State} (h0 : Keeps w0 s) : Keeps w0 (infoReply b s) := by
  unfold infoReply
  repeat' (first
    | with_reducible assumption
    | (extract_lets +onlyGivenNames x; with_reducible refine Keeps.have_ (x := x) ?_ ?_; (on_goal 2 => (clear_value x; intro)); on_goal 1 => subst x)
    | (extract_lets +onlyGivenNames x; clear_value x)
    | split
    | fail_if_no_progress with_reducible refine Keeps.upd ?_ rfl rfl rfl rfl rfl rfl (by first | exact id | simp +contextual [shapes])
    | dsimp only)

theorem arrive_keeps (y0 : Src) (b : List Byte) (s : State) {w0 : State} (h0 : Keeps w0 s) : Keeps w0 (arrive y0 b s) := by
  unfold arrive
  repeat' (first
    | with_reducible assumption
    | (extract_lets +onlyGivenNames x; with_reducible refine Keeps.have_ (x := x) ?_ ?_; (on_goal 2 => (clear_value x; intro)); on_goal 1 => subst x)
    | (extract_lets +onlyGivenNames x; (first | (have h : @Eq Cmd x x := rfl; clear h; subst x) | clear_value x))
    | with_reducible refine (dropRequest_keeps _ _ _ ?_)
    | with_reducible refine (screen_keeps _ ?_)
    | split
    | fail_if_no_progress with_reducible refine Keeps.upd ?_ rfl rfl rfl rfl rfl rfl (by first | exact id | simp +contextual [shapes])
    | dsimp only)

theorem takeCommand_keeps (path : Path) (body : List Byte) (s : State) {w0 : State} (h0 : Keeps w0 s) : Keeps w0 (takeCommand path body s) := by
  unfold takeCommand
  repeat' (first
    | with_reducible assumption
    | (extract_lets +onlyGivenNames x; clear_value x)
    | with_reducible refine (infoReply_keeps _ _ ?_)
    | with_reducible refine (dropRequest_keeps _ _ _ ?_)
    | with_reducible refine (arrive_keeps _ _ _ ?_)
    | split)

theorem execCommandPacket_keeps (path : Path) (cols : List (List LaneWord)) (s : State) {w0 : State} (h0 : Keeps w0 s) : KeepsRes w0 (execCommandPacket path cols s) := by
  unfold execCommandPacket
  repeat' (first
    | with_reducible assumption
    | with_reducible refine KeepsRes.next ?_
    | with_reducible refine (onPacket_keeps _ _ _ _ _ ?_ ?_)
    | with_reducible refine (takePacket_keeps _ _ _ _ ?_ ?_)
    | with_reducible refine (takeCommand_keeps _ _ _ ?_)
    | split
    | (intro _; intros; beta_reduce)
    | dsimp only)

theorem spiZeros_keeps (n : ℕ) (s : State) {w0 : State} (h0 : Keeps w0 s) : Keeps w0 (spiZeros n s) := by
  unfold spiZeros
  repeat' (first
    | with_reducible assumption
    | (extract_lets +onlyGivenNames x; with_reducible refine Keeps.have_ (x := x) ?_ ?_; (on_goal 2 => (clear_value x; intro)); on_goal 1 => subst x)
    | (extract_lets +onlyGivenNames x; (first | (have h : @Eq Cmd x x := rfl; clear h; subst x) | clear_value x))
    | fail_if_no_progress with_reducible refine Keeps.upd ?_ rfl rfl rfl rfl rfl rfl (by first | exact id | simp +contextual [shapes])
    | dsimp only)

theorem spiArrive_keeps (bytes : List Byte) (s : State) {w0 : State} (h0 : Keeps w0 s) : Keeps w0 (spiArrive bytes s) := by
  unfold spiArrive
  repeat' (first
    | with_reducible assumption
    | with_reducible refine (arrive_keeps _ _ _ ?_)
    | with_reducible refine (dropRequest_keeps _ _ _ ?_)
    | split)

theorem sendReplyPacket_keeps (path : Path) (s : State) {w0 : State} (h0 : Keeps w0 s) : Keeps w0 (sendReplyPacket path s) := by
  unfold sendReplyPacket
  repeat' (first
    | with_reducible assumption
    | (extract_lets +onlyGivenNames x; with_reducible refine Keeps.have_ (x := x) ?_ ?_; (on_goal 2 => (clear_value x; intro)); on_goal 1 => subst x)
    | (extract_lets +onlyGivenNames x; clear_value x)
    | with_reducible refine (sendPacket_keeps _ _ _ _ _ _ ?_)
    | split
    | fail_if_no_progress with_reducible refine Keeps.upd ?_ rfl rfl rfl rfl rfl rfl (by first | exact id | simp +contextual [shapes])
    | dsimp only)

theorem execReplySend_keeps (path : Path) (s : State) {w0 : State} (h0 : Keeps w0 s) : KeepsRes w0 (execReplySend path s) := by
  unfold execReplySend
  repeat' (first
    | with_reducible assumption
    | with_reducible refine KeepsRes.next ?_
    | with_reducible refine (sendReplyPacket_keeps _ _ ?_)
    | split)

theorem spiRead_keeps (n : ℕ) (s : State) {w0 : State} (h0 : Keeps w0 s) : Keeps w0 (spiRead n s) := by
  unfold spiRead
  repeat' (first
    | with_reducible assumption
    | (extract_lets +onlyGivenNames x; with_reducible refine Keeps.have_ (x := x) ?_ ?_; (on_goal 2 => (clear_value x; intro)); on_goal 1 => subst x)
    | (extract_lets +onlyGivenNames x; (first | (have h : @Eq Cmd x x := rfl; clear h; subst x) | clear_value x))
    | split
    | fail_if_no_progress with_reducible refine Keeps.upd ?_ rfl rfl rfl rfl rfl rfl (by first | exact id | simp +contextual [shapes])
    | dsimp only)

theorem spiVoid_keeps (n : ℕ) (s : State) {w0 : State} (h0 : Keeps w0 s) : Keeps w0 (spiVoid n s) := by
  unfold spiVoid
  repeat' (first
    | with_reducible assumption
    | with_reducible refine (dropRequest_keeps _ _ _ ?_)
    | with_reducible refine (spiZeros_keeps _ _ ?_))

theorem execSpiRequestTransaction_keeps (bytes : List Byte) (s : State) {w0 : State} (h0 : Keeps w0 s) : KeepsRes w0 (execSpiRequestTransaction bytes s) := by
  unfold execSpiRequestTransaction
  repeat' (first
    | with_reducible assumption
    | (extract_lets +onlyGivenNames x; with_reducible refine KeepsRes.have_ (x := x) ?_ ?_; (on_goal 2 => (clear_value x; intro)); on_goal 1 => subst x)
    | (extract_lets +onlyGivenNames x; with_reducible refine Keeps.have_ (x := x) ?_ ?_; (on_goal 2 => (clear_value x; intro)); on_goal 1 => subst x)
    | (extract_lets +onlyGivenNames x; (first | (have h : @Eq Cmd x x := rfl; clear h; subst x) | clear_value x))
    | with_reducible refine KeepsRes.next ?_
    | with_reducible refine (spiArrive_keeps _ _ ?_)
    | with_reducible refine (spiZeros_keeps _ _ ?_)
    | with_reducible refine (spiRead_keeps _ _ ?_)
    | with_reducible refine (spiVoid_keeps _ _ ?_)
    | split
    | fail_if_no_progress with_reducible refine Keeps.upd ?_ rfl rfl rfl rfl rfl rfl (by first | exact id | simp +contextual [shapes])
    | dsimp only)

theorem execTwinInfoReply_keeps (cols : List (List LaneWord)) (s : State) {w0 : State} (h0 : Keeps w0 s) : KeepsRes w0 (execTwinInfoReply cols s) := by
  unfold execTwinInfoReply
  repeat' (first
    | with_reducible assumption
    | with_reducible refine KeepsRes.next ?_
    | with_reducible refine (onPacket_keeps _ _ _ _ _ ?_ ?_)
    | with_reducible refine (takePacket_keeps _ _ _ _ ?_ ?_)
    | with_reducible refine (infoReply_keeps _ _ ?_)
    | split
    | (intro _; intros; beta_reduce)
    | dsimp only)

theorem execSpiReadTransaction_keeps (n : ℕ) (s : State) {w0 : State} (h0 : Keeps w0 s) : KeepsRes w0 (execSpiReadTransaction n s) := by
  unfold execSpiReadTransaction
  repeat' (first
    | with_reducible assumption
    | (extract_lets +onlyGivenNames x; with_reducible refine KeepsRes.have_ (x := x) ?_ ?_; (on_goal 2 => (clear_value x; intro)); on_goal 1 => subst x)
    | (extract_lets +onlyGivenNames x; with_reducible refine Keeps.have_ (x := x) ?_ ?_; (on_goal 2 => (clear_value x; intro)); on_goal 1 => subst x)
    | (extract_lets +onlyGivenNames x; (first | (have h : @Eq Cmd x x := rfl; clear h; subst x) | clear_value x))
    | with_reducible refine KeepsRes.next ?_
    | with_reducible refine (spiRead_keeps _ _ ?_)
    | split
    | fail_if_no_progress with_reducible refine Keeps.upd ?_ rfl rfl rfl rfl rfl rfl (by first | exact id | simp +contextual [shapes])
    | dsimp only)

theorem execSpiVoidTransaction_keeps (n : ℕ) (s : State) {w0 : State} (h0 : Keeps w0 s) : KeepsRes w0 (execSpiVoidTransaction n s) := by
  unfold execSpiVoidTransaction
  repeat' (first
    | with_reducible assumption
    | (extract_lets +onlyGivenNames x; with_reducible refine KeepsRes.have_ (x := x) ?_ ?_; (on_goal 2 => (clear_value x; intro)); on_goal 1 => subst x)
    | (extract_lets +onlyGivenNames x; with_reducible refine Keeps.have_ (x := x) ?_ ?_; (on_goal 2 => (clear_value x; intro)); on_goal 1 => subst x)
    | (extract_lets +onlyGivenNames x; (first | (have h : @Eq Cmd x x := rfl; clear h; subst x) | clear_value x))
    | with_reducible refine KeepsRes.next ?_
    | with_reducible refine (spiVoid_keeps _ _ ?_)
    | split
    | fail_if_no_progress with_reducible refine Keeps.upd ?_ rfl rfl rfl rfl rfl rfl (by first | exact id | simp +contextual [shapes])
    | dsimp only)

end Sys2Proof.Machine
end

