-- ==== Sys2Proof/Laws/KeepsOps.lean ====
section
/-! SUPPORT. For each definition of Machine/Ops.lean that answers a state: the queue stays as it is and the memories stay canonical. -/

namespace Sys2Proof.Machine

theorem guarded_keeps (ok : Bool) (t : State) {w0 : State} (h0 : Keeps w0 t) : KeepsRes w0 (guarded ok t) := by
  unfold guarded
  repeat' (first
    | with_reducible assumption
    | with_reducible refine KeepsRes.next ?_
    | with_reducible exact KeepsRes.fault
    | with_reducible refine KeepsRes.guarded ?_
    | split)

end Sys2Proof.Machine
end

