-- ==== Sys2Proof/Laws/KeepsSleep.lean ====
section
/-! SUPPORT. For each definition of Machine/Sleep.lean that answers a state: the queue stays as it is and the memories stay canonical. -/

namespace Sys2Proof.Machine

theorem refuseSleep_keeps (block : ℕ) (reason : ℕ) (s : State) {w0 : State} (h0 : Keeps w0 s) : Keeps w0 (refuseSleep block reason s) := by
  unfold refuseSleep
  repeat' (first
    | with_reducible assumption
    | (extract_lets +onlyGivenNames x; with_reducible refine Keeps.have_ (x := x) ?_ ?_; (on_goal 2 => (clear_value x; intro)); on_goal 1 => subst x)
    | (extract_lets +onlyGivenNames x; (first | (have h : @Eq Pwr x x := rfl; clear h; subst x) | clear_value x))
    | with_reducible refine (noteF_keeps _ _ _ _ _ ?_)
    | with_reducible refine (restartBlocks_keeps _ ?_)
    | with_reducible refine (finishPower_keeps _ _ _ _ ?_)
    | (split; with_reducible refine Keeps.triple_ ‹_ = (_, _, _)› ?_ ?_; on_goal 2 => intro)
    | split
    | fail_if_no_progress with_reducible refine Keeps.upd ?_ rfl rfl rfl rfl rfl rfl (by first | exact id | simp +contextual [shapes])
    | dsimp only)

theorem noteLosses_keeps (skipped : Bool) (s : State) {w0 : State} (h0 : Keeps w0 s) : Keeps w0 (noteLosses skipped s) := by
  unfold noteLosses
  repeat' (first
    | with_reducible assumption
    | (extract_lets +onlyGivenNames x; with_reducible refine Keeps.have_ (x := x) ?_ ?_; (on_goal 2 => (clear_value x; intro)); on_goal 1 => subst x)
    | (extract_lets +onlyGivenNames x; clear_value x)
    | split
    | fail_if_no_progress with_reducible refine Keeps.upd ?_ rfl rfl rfl rfl rfl rfl (by first | exact id | simp +contextual [shapes])
    | dsimp only)

theorem pointOfNoReturn_keeps (skipped : Bool) (s : State) {w0 : State} (h0 : Keeps w0 s) : Keeps w0 (pointOfNoReturn skipped s) := by
  unfold pointOfNoReturn
  repeat' (first
    | with_reducible assumption
    | (extract_lets +onlyGivenNames x; with_reducible refine Keeps.have_ (x := x) ?_ ?_; (on_goal 2 => (clear_value x; intro)); on_goal 1 => subst x)
    | (extract_lets +onlyGivenNames x; (first | (have h : @Eq Pwr x x := rfl; clear h; subst x) | clear_value x))
    | with_reducible refine (refuseSleep_keeps _ _ _ ?_)
    | with_reducible refine (noteLosses_keeps _ _ ?_)
    | with_reducible refine (enterMode_keeps _ _ _ ?_)
    | split
    | fail_if_no_progress with_reducible refine Keeps.upd ?_ rfl rfl rfl rfl rfl rfl (by first | exact id | simp +contextual [shapes])
    | dsimp only)

theorem stopCtrl_keeps (s : State) {w0 : State} (h0 : Keeps w0 s) : Keeps w0 (stopCtrl s) := by
  unfold stopCtrl
  repeat' (first
    | with_reducible assumption
    | (extract_lets +onlyGivenNames x; with_reducible refine Keeps.have_ (x := x) ?_ ?_; (on_goal 2 => (clear_value x; intro)); on_goal 1 => subst x)
    | (extract_lets +onlyGivenNames x; (first | (have h : @Eq Cmd x x := rfl; clear h; subst x) | (have h : @Eq Pwr x x := rfl; clear h; subst x) | clear_value x))
    | fail_if_no_progress with_reducible refine Keeps.upd ?_ rfl rfl rfl rfl rfl rfl (by first | exact id | simp +contextual [shapes])
    | dsimp only)

theorem execWakePin_keeps (level : Bool) (s : State) {w0 : State} (h0 : Holds w0 s) : HoldsRes w0 (execWakePin level s) := by
  unfold execWakePin
  extract_lets
  refine HoldsRes.next ?_
  repeat' split
  all_goals first
    | exact h0
    | exact ⟨h0.pending, h0.canonical, h0.shaped⟩
    | exact wake_keeps _ _ ⟨h0.pending, h0.canonical, h0.shaped⟩

theorem stopClocks_keeps (s : State) {w0 : State} (h0 : Keeps w0 s) : Keeps w0 (stopClocks s) := by
  unfold stopClocks
  repeat' (first
    | with_reducible assumption
    | (extract_lets +onlyGivenNames x; with_reducible refine Keeps.have_ (x := x) ?_ ?_; (on_goal 2 => (clear_value x; intro)); on_goal 1 => subst x)
    | (extract_lets +onlyGivenNames x; (first | (have h : @Eq Pwr x x := rfl; clear h; subst x) | clear_value x))
    | split
    | fail_if_no_progress with_reducible refine Keeps.upd ?_ rfl rfl rfl rfl rfl rfl (by first | exact id | simp +contextual [shapes])
    | dsimp only)

theorem markLife_keeps (s : State) {w0 : State} (h0 : Keeps w0 s) : Keeps w0 (markLife s) := by
  unfold markLife
  repeat' (first
    | with_reducible assumption
    | (extract_lets +onlyGivenNames x; with_reducible refine Keeps.have_ (x := x) ?_ ?_; (on_goal 2 => (clear_value x; intro)); on_goal 1 => subst x)
    | (extract_lets +onlyGivenNames x; (first | (have h : @Eq Nvm x x := rfl; clear h; subst x) | (have h : @Eq Pwr x x := rfl; clear h; subst x) | clear_value x))
    | split
    | (intro _; intros; beta_reduce)
    | fail_if_no_progress with_reducible refine Keeps.upd ?_ rfl rfl rfl rfl rfl rfl (by first | exact id | simp +contextual [shapes])
    | dsimp only)

theorem execWakeTimerExpiry_keeps (s : State) {w0 : State} (h0 : Holds w0 s) : HoldsRes w0 (execWakeTimerExpiry s) := by
  unfold execWakeTimerExpiry
  extract_lets
  refine HoldsRes.next ?_
  repeat' split
  all_goals first
    | exact h0
    | exact ⟨h0.pending, h0.canonical, h0.shaped⟩
    | exact wake_keeps _ _ ⟨h0.pending, h0.canonical, h0.shaped⟩

theorem execSleepRelight_keeps (s : State) {w0 : State} (h0 : Keeps w0 s) : KeepsRes w0 (execSleepRelight s) := by
  unfold execSleepRelight
  repeat' (first
    | with_reducible assumption
    | with_reducible refine KeepsRes.next ?_
    | with_reducible refine (relightNow_keeps _ ?_)
    | split)

theorem submitPower_keeps (r : PowerReq) (s : State) {w0 : State} (h0 : Keeps w0 s) : Keeps w0 (submitPower r s) := by
  unfold submitPower
  repeat' (first
    | with_reducible assumption
    | (extract_lets +onlyGivenNames x; with_reducible refine Keeps.have_ (x := x) ?_ ?_; (on_goal 2 => (clear_value x; intro)); on_goal 1 => subst x)
    | (extract_lets +onlyGivenNames x; (first | (have h : @Eq Pwr x x := rfl; clear h; subst x) | clear_value x))
    | with_reducible refine (beginPower_keeps _ _ ?_)
    | with_reducible refine (completeSuperseded_keeps _ _ ?_)
    | split
    | fail_if_no_progress with_reducible refine Keeps.upd ?_ rfl rfl rfl rfl rfl rfl (by first | exact id | simp +contextual [shapes])
    | dsimp only)

theorem execSleepUntil_keeps (rq : Rq) (waitMs : ℕ) (s : State) {w0 : State} (h0 : Keeps w0 s) : KeepsRes w0 (execSleepUntil rq waitMs s) := by
  unfold execSleepUntil
  repeat' (first
    | with_reducible assumption
    | (extract_lets +onlyGivenNames x; with_reducible refine KeepsRes.have_ (x := x) ?_ ?_; (on_goal 2 => (clear_value x; intro)); on_goal 1 => subst x)
    | (extract_lets +onlyGivenNames x; with_reducible refine Keeps.have_ (x := x) ?_ ?_; (on_goal 2 => (clear_value x; intro)); on_goal 1 => subst x)
    | (extract_lets +onlyGivenNames x; (first | (have h : x = (fun _ => _) := rfl; subst x; beta_reduce) | (have h : x = (fun _ _ => _) := rfl; subst x; beta_reduce) | clear_value x))
    | with_reducible refine (request_keeps _ _ _ _ _ _ _ ?_ ?_)
    | with_reducible refine (rep_keeps _ _ ?_)
    | with_reducible refine (accept_keeps _ _ ?_ ?_)
    | with_reducible refine (submitPower_keeps _ _ ?_)
    | split
    | (intro _; intros; beta_reduce)
    | dsimp only)

theorem execPlevelChangeStart_keeps (s : State) {w0 : State} (h0 : Keeps w0 s) : KeepsRes w0 (execPlevelChangeStart s) := by
  unfold execPlevelChangeStart
  repeat' (first
    | with_reducible assumption
    | (extract_lets +onlyGivenNames x; with_reducible refine KeepsRes.have_ (x := x) ?_ ?_; (on_goal 2 => (clear_value x; intro)); on_goal 1 => subst x)
    | (extract_lets +onlyGivenNames x; with_reducible refine Keeps.have_ (x := x) ?_ ?_; (on_goal 2 => (clear_value x; intro)); on_goal 1 => subst x)
    | (extract_lets +onlyGivenNames x; (first | (have h : @Eq Pwr x x := rfl; clear h; subst x) | clear_value x))
    | with_reducible refine KeepsRes.next ?_
    | split
    | fail_if_no_progress with_reducible refine Keeps.upd ?_ rfl rfl rfl rfl rfl rfl (by first | exact id | simp +contextual [shapes])
    | dsimp only)

theorem stopLink_keeps (s : State) {w0 : State} (h0 : Keeps w0 s) : Keeps w0 (stopLink s) := by
  unfold stopLink
  repeat' (first
    | with_reducible assumption
    | (extract_lets +onlyGivenNames x; with_reducible refine Keeps.have_ (x := x) ?_ ?_; (on_goal 2 => (clear_value x; intro)); on_goal 1 => subst x)
    | (extract_lets +onlyGivenNames x; (first | (have h : @Eq Pwr x x := rfl; clear h; subst x) | (have h : @Eq Lnk x x := rfl; clear h; subst x) | clear_value x))
    | with_reducible refine (sendStatus_keeps _ _ _ _ ?_)
    | with_reducible refine (sendTwin_keeps _ _ _ ?_)
    | split
    | fail_if_no_progress with_reducible refine Keeps.upd ?_ rfl rfl rfl rfl rfl rfl (by first | exact id | simp +contextual [shapes]))

theorem lateBlock_keeps (s : State) {w0 : State} (h0 : Keeps w0 s) : Keeps w0 (lateBlock s) := by
  unfold lateBlock
  repeat' (first
    | with_reducible assumption
    | with_reducible refine (stopLink_keeps _ ?_)
    | with_reducible refine (stopCtrl_keeps _ ?_)
    | with_reducible refine (stopClocks_keeps _ ?_)
    | split)

theorem stopDark_keeps (s : State) {w0 : State} (h0 : Keeps w0 s) : Keeps w0 (stopDark s) := by
  unfold stopDark
  repeat' (first
    | with_reducible assumption
    | (extract_lets +onlyGivenNames x; with_reducible refine Keeps.have_ (x := x) ?_ ?_; (on_goal 2 => (clear_value x; intro)); on_goal 1 => subst x)
    | (extract_lets +onlyGivenNames x; clear_value x)
    | with_reducible refine (stopArray_keeps _ ?_)
    | (split; with_reducible refine Keeps.triple_ ‹_ = (_, _, _)› ?_ ?_; on_goal 2 => intro)
    | fail_if_no_progress with_reducible refine Keeps.upd ?_ rfl rfl rfl rfl rfl rfl (by first | exact id | simp +contextual [shapes])
    | dsimp only)

theorem askNvm_keeps (s : State) {w0 : State} (h0 : Keeps w0 s) : Keeps w0 (askNvm s) := by
  unfold askNvm
  repeat' (first
    | with_reducible assumption
    | (extract_lets +onlyGivenNames x; with_reducible refine Keeps.have_ (x := x) ?_ ?_; (on_goal 2 => (clear_value x; intro)); on_goal 1 => subst x)
    | with_reducible refine (requestStore_keeps _ _ _ ?_)
    | with_reducible refine (markLife_keeps _ ?_)
    | split)

theorem stepNvm_keeps (s : State) {w0 : State} (h0 : Keeps w0 s) : Keeps w0 (stepNvm s) := by
  unfold stepNvm
  repeat' (first
    | with_reducible assumption
    | with_reducible refine (refuseSleep_keeps _ _ _ ?_)
    | with_reducible refine (pointOfNoReturn_keeps _ _ ?_)
    | with_reducible refine (askNvm_keeps _ ?_)
    | split)

theorem entryBlock_keeps (s : State) {w0 : State} (h0 : Keeps w0 s) : Keeps w0 (entryBlock s) := by
  unfold entryBlock
  repeat' (first
    | with_reducible assumption
    | (extract_lets +onlyGivenNames x; with_reducible refine Keeps.have_ (x := x) ?_ ?_; (on_goal 2 => (clear_value x; intro)); on_goal 1 => subst x)
    | (extract_lets +onlyGivenNames x; (first | (have h : @Eq Pwr x x := rfl; clear h; subst x) | clear_value x))
    | with_reducible refine (refuseSleep_keeps _ _ _ ?_)
    | with_reducible refine (stopDark_keeps _ ?_)
    | with_reducible refine (stepNvm_keeps _ ?_)
    | split
    | fail_if_no_progress with_reducible refine Keeps.upd ?_ rfl rfl rfl rfl rfl rfl (by first | exact id | simp +contextual [shapes])
    | dsimp only)

theorem execSleepEntryStep_keeps (s : State) {w0 : State} (h0 : Keeps w0 s) : KeepsRes w0 (execSleepEntryStep s) := by
  unfold execSleepEntryStep
  repeat' (first
    | with_reducible assumption
    | with_reducible refine KeepsRes.next ?_
    | with_reducible refine (lateBlock_keeps _ ?_)
    | with_reducible refine (entryBlock_keeps _ ?_)
    | split)

theorem execSleepWindowEnd_keeps (s : State) {w0 : State} (h0 : Holds w0 s) : HoldsRes w0 (execSleepWindowEnd s) := by
  unfold execSleepWindowEnd
  extract_lets
  refine HoldsRes.next ?_
  repeat' split
  all_goals first
    | exact h0
    | exact ⟨h0.pending, h0.canonical, h0.shaped⟩
    | exact wake_keeps _ _ ⟨h0.pending, h0.canonical, h0.shaped⟩

theorem execPlevelChangeComplete_keeps (s : State) {w0 : State} (h0 : Keeps w0 s) : KeepsRes w0 (execPlevelChangeComplete s) := by
  unfold execPlevelChangeComplete
  repeat' (first
    | with_reducible assumption
    | (extract_lets +onlyGivenNames x; with_reducible refine KeepsRes.have_ (x := x) ?_ ?_; (on_goal 2 => (clear_value x; intro)); on_goal 1 => subst x)
    | (extract_lets +onlyGivenNames x; with_reducible refine Keeps.have_ (x := x) ?_ ?_; (on_goal 2 => (clear_value x; intro)); on_goal 1 => subst x)
    | (extract_lets +onlyGivenNames x; (first | (have h : @Eq Pwr x x := rfl; clear h; subst x) | clear_value x))
    | with_reducible refine KeepsRes.next ?_
    | with_reducible refine (settleLevel_keeps _ ?_)
    | with_reducible refine (noteF_keeps _ _ _ _ _ ?_)
    | split
    | fail_if_no_progress with_reducible refine Keeps.upd ?_ rfl rfl rfl rfl rfl rfl (by first | exact id | simp +contextual [shapes])
    | dsimp only)

theorem execI2cAddressMatch_keeps (addr : ℕ) (s : State) {w0 : State} (h0 : Holds w0 s) : HoldsRes w0 (execI2cAddressMatch addr s) := by
  unfold execI2cAddressMatch
  extract_lets
  refine HoldsRes.next ?_
  repeat' split
  all_goals first
    | exact h0
    | exact ⟨h0.pending, h0.canonical, h0.shaped⟩
    | exact wake_keeps _ _ ⟨h0.pending, h0.canonical, h0.shaped⟩

theorem execI2cRead_keeps (s : State) {w0 : State} (h0 : Keeps w0 s) : KeepsRes w0 (execI2cRead s) := by
  unfold execI2cRead
  repeat' (first
    | with_reducible assumption
    | (extract_lets +onlyGivenNames x; with_reducible refine KeepsRes.have_ (x := x) ?_ ?_; (on_goal 2 => (clear_value x; intro)); on_goal 1 => subst x)
    | (extract_lets +onlyGivenNames x; with_reducible refine Keeps.have_ (x := x) ?_ ?_; (on_goal 2 => (clear_value x; intro)); on_goal 1 => subst x)
    | (extract_lets +onlyGivenNames x; clear_value x)
    | with_reducible refine KeepsRes.next ?_
    | split
    | fail_if_no_progress with_reducible refine Keeps.upd ?_ rfl rfl rfl rfl rfl rfl (by first | exact id | simp +contextual [shapes])
    | dsimp only)

theorem execSetPlevel_keeps (rq : Rq) (s : State) {w0 : State} (h0 : Keeps w0 s) : KeepsRes w0 (execSetPlevel rq s) := by
  unfold execSetPlevel
  repeat' (first
    | with_reducible assumption
    | (extract_lets +onlyGivenNames x; with_reducible refine KeepsRes.have_ (x := x) ?_ ?_; (on_goal 2 => (clear_value x; intro)); on_goal 1 => subst x)
    | (extract_lets +onlyGivenNames x; with_reducible refine Keeps.have_ (x := x) ?_ ?_; (on_goal 2 => (clear_value x; intro)); on_goal 1 => subst x)
    | (extract_lets +onlyGivenNames x; clear_value x)
    | with_reducible refine (request_keeps _ _ _ _ _ _ _ ?_ ?_)
    | with_reducible refine (rep_keeps _ _ ?_)
    | with_reducible refine (accept_keeps _ _ ?_ ?_)
    | with_reducible refine (submitPower_keeps _ _ ?_)
    | split
    | (intro _; intros; beta_reduce)
    | dsimp only)

theorem execSleepNvmTimeout_keeps (s : State) {w0 : State} (h0 : Keeps w0 s) : KeepsRes w0 (execSleepNvmTimeout s) := by
  unfold execSleepNvmTimeout
  repeat' (first
    | with_reducible assumption
    | with_reducible refine KeepsRes.next ?_
    | with_reducible refine (refuseSleep_keeps _ _ _ ?_)
    | with_reducible refine (pointOfNoReturn_keeps _ _ ?_)
    | split)

end Sys2Proof.Machine
end

