-- ==== Sys2Proof/Laws/PerInstr.lean ====
section
/-! SUPPORT. A well-formed command names units that exist: one lemma for each row of the table. -/

namespace Sys2Proof.Laws.WellFormed

/- One proof after another: 207 proofs at once would each wait in a thread of its own. -/
set_option Elab.async false

/-- The numbered units that a command names, each with how many of them the device has. -/
def unitsOf : Instr → List (Nat × Nat)
  | .engineNextTile e _ _ => [(e, 24)]
  | .tileRetired e _ _ => [(e, 24)]
  | .sigReadbackTile t _ => [(t, 450)]
  | .handoverComplete b => [(b, 64)]
  | .guFeed _ n _ => [(n, 8)]
  | .guRestart _ n _ => [(n, 8)]
  | .guCapture _ n _ => [(n, 8)]
  | .bankUseWrite _ b _ => [(b, 64)]
  | .laneTestMode _ l _ => [(l, 5)]
  | .laneMissionMode _ l _ => [(l, 5)]
  | .rawCapture _ l r _ => [(l, 5), (r, 2 ^ 40)]
  | .losAssert l => [(l, 5)]
  | .losDeassert l _ => [(l, 5)]
  | .backoffExpiry l => [(l, 5)]
  | .anchorReceived l _ => [(l, 5)]
  | .cdrLock l => [(l, 5)]
  | .laneAligned l k => [(l, 5), (k, 40)]
  | .alignmentLost l => [(l, 5)]
  | .adaptComplete l _ _ => [(l, 5)]
  | .attemptTimeout l => [(l.lane, 5)]
  | .relockEntry l _ _ => [(l, 5)]
  | .relockComplete l _ => [(l, 5)]
  | .relockTimeout l => [(l, 5)]
  | .backBufferReady n => [(n, 6)]
  | .fenceTimeout n => [(n, 6)]
  | .storeAccessGrant b _ _ _ => [(b, 64)]
  | .requestEscalation b m _ => [(b, 64), (m, 28)]
  | .scrubRead b _ => [(b, 64)]
  | .ntcConversion x => [(x, 4096)]
  | .collateralWindowClose r => [(r, 6)]
  | .engineParity e _ => [(e, 24)]
  | .coreUv l _ => [(l, 4)]
  | .pllUnlock p => [(p, 3)]
  | .i2cAddressMatch a => [(a, 128)]
  | _ => []

/-- Every unit that a well-formed command names exists. -/
def Statement (i : Instr) : Prop := i.wellFormed = true → ∀ u ∈ unitsOf i, u.1 < u.2

/-- A row that names no unit. -/
theorem of_none {i : Instr} (h : unitsOf i = []) : Statement i := by
  intro _ u m
  rw [h] at m
  cases m

/-- `powerOn` -/
theorem powerOn (rise as0 as1 : Bool) (bad scarBad : List Nat) : Statement (.powerOn rise as0 as1 bad scarBad) := of_none rfl

/-- `resetNAssert` -/
theorem resetNAssert (as0 as1 : Bool) : Statement (.resetNAssert as0 as1) := of_none rfl

/-- `supplyDip` -/
theorem supplyDip (rail : Rail) : Statement (.supplyDip rail) := of_none rfl

/-- `supplyLossInS1` -/
theorem supplyLossInS1 (rail : Rail) : Statement (.supplyLossInS1 rail) := of_none rfl

/-- `testEnAssert` -/
theorem testEnAssert : Statement .testEnAssert := of_none rfl

/-- `resetRelease` -/
theorem resetRelease : Statement .resetRelease := of_none rfl

/-- `ldoRegulation` -/
theorem ldoRegulation : Statement .ldoRegulation := of_none rfl

/-- `pllLock` -/
theorem pllLock : Statement .pllLock := of_none rfl

/-- `limralReady` -/
theorem limralReady : Statement .limralReady := of_none rfl

/-- `arrayBiasSettled` -/
theorem arrayBiasSettled (m : CalMeas) : Statement (.arrayBiasSettled m) := of_none rfl

/-- `bistComplete` -/
theorem bistComplete (fail : Option BistFail) : Statement (.bistComplete fail) := of_none rfl

/-- `nvmLoadComplete` -/
theorem nvmLoadComplete (m : CalMeas) : Statement (.nvmLoadComplete m) := of_none rfl

/-- `calibrationComplete` -/
theorem calibrationComplete (us : Nat) : Statement (.calibrationComplete us) := of_none rfl

/-- `kindleWorkComplete` -/
theorem kindleWorkComplete (workUs : Nat) : Statement (.kindleWorkComplete workUs) := of_none rfl

/-- `kindleTimeout` -/
theorem kindleTimeout : Statement .kindleTimeout := of_none rfl

/-- `logScanComplete` -/
theorem logScanComplete : Statement .logScanComplete := of_none rfl

/-- `composeLatch` -/
theorem composeLatch : Statement .composeLatch := of_none rfl

/-- `engineNextTile` -/
theorem engineNextTile (e : Nat) (near far : Option Nat) : Statement (.engineNextTile e near far) := by
  simp_all [Statement, Instr.wellFormed, unitsOf]

/-- `tileRetired` -/
theorem tileRetired (e clocks stall : Nat) : Statement (.tileRetired e clocks stall) := by
  simp_all [Statement, Instr.wellFormed, unitsOf]

/-- `sigReadbackTile` -/
theorem sigReadbackTile (tile : Nat) (diff : List (Nat × Nat)) : Statement (.sigReadbackTile tile diff) := by
  simp_all [Statement, Instr.wellFormed, unitsOf]

/-- `mapperFlushPoint` -/
theorem mapperFlushPoint (clocks : Nat) (outMax : List Nat) (part : List PartTile) : Statement (.mapperFlushPoint clocks outMax part) := of_none rfl

/-- `grefFinal` -/
theorem grefFinal : Statement .grefFinal := of_none rfl

/-- `signaturesFinal` -/
theorem signaturesFinal : Statement .signaturesFinal := of_none rfl

/-- `frameLatch` -/
theorem frameLatch (flags : List PixFlags) (vledMv totalUs : Nat) (testDue : Bool) : Statement (.frameLatch flags vledMv totalUs testDue) := of_none rfl

/-- `diagVerdictsFinal` -/
theorem diagVerdictsFinal (parity : List Nat) : Statement (.diagVerdictsFinal parity) := of_none rfl

/-- `slotStart` -/
theorem slotStart (flags : List PixFlags) (test : Option PixScan) : Statement (.slotStart flags test) := of_none rfl

/-- `scanCycleStart` -/
theorem scanCycleStart : Statement .scanCycleStart := of_none rfl

/-- `fsyncInEdge` -/
theorem fsyncInEdge (count : Nat) : Statement (.fsyncInEdge count) := of_none rfl

/-- `holdoverEntry` -/
theorem holdoverEntry : Statement .holdoverEntry := of_none rfl

/-- `hostTimeout` -/
theorem hostTimeout : Statement .hostTimeout := of_none rfl

/-- `beamWaitTimeout` -/
theorem beamWaitTimeout : Statement .beamWaitTimeout := of_none rfl

/-- `blankingEnd` -/
theorem blankingEnd : Statement .blankingEnd := of_none rfl

/-- `plevelChangeStart` -/
theorem plevelChangeStart : Statement .plevelChangeStart := of_none rfl

/-- `plevelChangeComplete` -/
theorem plevelChangeComplete : Statement .plevelChangeComplete := of_none rfl

/-- `spiRequestTransaction` -/
theorem spiRequestTransaction (bytes : List Byte) : Statement (.spiRequestTransaction bytes) := of_none rfl

/-- `spiReadTransaction` -/
theorem spiReadTransaction (n : Nat) : Statement (.spiReadTransaction n) := of_none rfl

/-- `spiVoidTransaction` -/
theorem spiVoidTransaction (n : Nat) : Statement (.spiVoidTransaction n) := of_none rfl

/-- `commandPacket` -/
theorem commandPacket (path : Path) (cols : List (List LaneWord)) : Statement (.commandPacket path cols) := of_none rfl

/-- `twinInfoReply` -/
theorem twinInfoReply (cols : List (List LaneWord)) : Statement (.twinInfoReply cols) := of_none rfl

/-- `replySend` -/
theorem replySend (path : Path) : Statement (.replySend path) := of_none rfl

/-- `ping` -/
theorem ping (rq : Rq) : Statement (.ping rq) := of_none rfl

/-- `getInfo` -/
theorem getInfo (rq : Rq) : Statement (.getInfo rq) := of_none rfl

/-- `getStatus` -/
theorem getStatus (rq : Rq) : Statement (.getStatus rq) := of_none rfl

/-- `readReg` -/
theorem readReg (rq : Rq) : Statement (.readReg rq) := of_none rfl

/-- `writeReg` -/
theorem writeReg (rq : Rq) : Statement (.writeReg rq) := of_none rfl

/-- `getCompletions` -/
theorem getCompletions (rq : Rq) : Statement (.getCompletions rq) := of_none rfl

/-- `lockConfig` -/
theorem lockConfig (rq : Rq) : Statement (.lockConfig rq) := of_none rfl

/-- `setMode` -/
theorem setMode (rq : Rq) : Statement (.setMode rq) := of_none rfl

/-- `setPlevel` -/
theorem setPlevel (rq : Rq) : Statement (.setPlevel rq) := of_none rfl

/-- `sleepUntil` -/
theorem sleepUntil (rq : Rq) (waitMs : Nat) : Statement (.sleepUntil rq waitMs) := of_none rfl

/-- `layerConfig` -/
theorem layerConfig (rq : Rq) : Statement (.layerConfig rq) := of_none rfl

/-- `layerEnable` -/
theorem layerEnable (rq : Rq) : Statement (.layerEnable rq) := of_none rfl

/-- `flipGroupConfigure` -/
theorem flipGroupConfigure (rq : Rq) : Statement (.flipGroupConfigure rq) := of_none rfl

/-- `flipGroupArm` -/
theorem flipGroupArm (rq : Rq) : Statement (.flipGroupArm rq) := of_none rfl

/-- `fenceSignal` -/
theorem fenceSignal (rq : Rq) : Statement (.fenceSignal rq) := of_none rfl

/-- `loadLut` -/
theorem loadLut (rq : Rq) : Statement (.loadLut rq) := of_none rfl

/-- `loadCoeffs` -/
theorem loadCoeffs (rq : Rq) : Statement (.loadCoeffs rq) := of_none rfl

/-- `signatureRegionConfigure` -/
theorem signatureRegionConfigure (rq : Rq) : Statement (.signatureRegionConfigure rq) := of_none rfl

/-- `signatureRegionDisable` -/
theorem signatureRegionDisable (rq : Rq) : Statement (.signatureRegionDisable rq) := of_none rfl

/-- `linkTrainRestart` -/
theorem linkTrainRestart (rq : Rq) : Statement (.linkTrainRestart rq) := of_none rfl

/-- `linkTrainDisable` -/
theorem linkTrainDisable (rq : Rq) : Statement (.linkTrainDisable rq) := of_none rfl

/-- `linkTrainComplete` -/
theorem linkTrainComplete (ms : Nat) : Statement (.linkTrainComplete ms) := of_none rfl

/-- `laneBitslip` -/
theorem laneBitslip (rq : Rq) : Statement (.laneBitslip rq) := of_none rfl

/-- `eyeScan` -/
theorem eyeScan (rq : Rq) : Statement (.eyeScan rq) := of_none rfl

/-- `eyeScanComplete` -/
theorem eyeScanComplete (errors : List Nat) : Statement (.eyeScanComplete errors) := of_none rfl

/-- `calibrateFull` -/
theorem calibrateFull (rq : Rq) : Statement (.calibrateFull rq) := of_none rfl

/-- `calibrateFullMeasure` -/
theorem calibrateFullMeasure (m : CalMeas) (us : Nat) : Statement (.calibrateFullMeasure m us) := of_none rfl

/-- `calibrateSensors` -/
theorem calibrateSensors (rq : Rq) (readings : List Int) : Statement (.calibrateSensors rq readings) := of_none rfl

/-- `calCommit` -/
theorem calCommit (rq : Rq) : Statement (.calCommit rq) := of_none rfl

/-- `nvmRead` -/
theorem nvmRead (rq : Rq) : Statement (.nvmRead rq) := of_none rfl

/-- `patternWriteBegin` -/
theorem patternWriteBegin (rq : Rq) : Statement (.patternWriteBegin rq) := of_none rfl

/-- `patternWriteData` -/
theorem patternWriteData (rq : Rq) (verifyFail : Bool) : Statement (.patternWriteData rq verifyFail) := of_none rfl

/-- `patternWriteCommit` -/
theorem patternWriteCommit (rq : Rq) : Statement (.patternWriteCommit rq) := of_none rfl

/-- `patternWriteCommitDone` -/
theorem patternWriteCommitDone (writeFail : Bool) (copyFail : Option Nat) : Statement (.patternWriteCommitDone writeFail copyFail) := of_none rfl

/-- `patternWriteAbort` -/
theorem patternWriteAbort (rq : Rq) : Statement (.patternWriteAbort rq) := of_none rfl

/-- `faultRead` -/
theorem faultRead (rq : Rq) : Statement (.faultRead rq) := of_none rfl

/-- `faultClearClear` -/
theorem faultClearClear (rq : Rq) (during : List RawEvent) : Statement (.faultClearClear rq during) := of_none rfl

/-- `faultClearAck` -/
theorem faultClearAck (rq : Rq) (during : List RawEvent) : Statement (.faultClearAck rq during) := of_none rfl

/-- `faultInjectDry` -/
theorem faultInjectDry (rq : Rq) : Statement (.faultInjectDry rq) := of_none rfl

/-- `faultInjectLive` -/
theorem faultInjectLive (rq : Rq) : Statement (.faultInjectLive rq) := of_none rfl

/-- `injectionEnd` -/
theorem injectionEnd : Statement .injectionEnd := of_none rfl

/-- `injectCoincident` -/
theorem injectCoincident (atInjection : Bool) (p0 p1 p2 p3 : Nat) : Statement (.injectCoincident atInjection p0 p1 p2 p3) := of_none rfl

/-- `logRead` -/
theorem logRead (rq : Rq) : Statement (.logRead rq) := of_none rfl

/-- `histoRead` -/
theorem histoRead (rq : Rq) : Statement (.histoRead rq) := of_none rfl

/-- `diagMapRead` -/
theorem diagMapRead (rq : Rq) : Statement (.diagMapRead rq) := of_none rfl

/-- `pixelTestMeasure` -/
theorem pixelTestMeasure (rq : Rq) : Statement (.pixelTestMeasure rq) := of_none rfl

/-- `pixelTestRelease` -/
theorem pixelTestRelease (rq : Rq) : Statement (.pixelTestRelease rq) := of_none rfl

/-- `pixelTestDisable` -/
theorem pixelTestDisable (rq : Rq) : Statement (.pixelTestDisable rq) := of_none rfl

/-- `twinConfig` -/
theorem twinConfig (rq : Rq) : Statement (.twinConfig rq) := of_none rfl

/-- `thermConfig` -/
theorem thermConfig (rq : Rq) : Statement (.thermConfig rq) := of_none rfl

/-- `thermClear` -/
theorem thermClear (rq : Rq) : Statement (.thermClear rq) := of_none rfl

/-- `storeAssign` -/
theorem storeAssign (rq : Rq) : Statement (.storeAssign rq) := of_none rfl

/-- `storePool` -/
theorem storePool (rq : Rq) : Statement (.storePool rq) := of_none rfl

/-- `handoverComplete` -/
theorem handoverComplete (bank : Nat) : Statement (.handoverComplete bank) := by
  simp_all [Statement, Instr.wellFormed, unitsOf]

/-- `fwPatchBegin` -/
theorem fwPatchBegin (rq : Rq) : Statement (.fwPatchBegin rq) := of_none rfl

/-- `fwPatchData` -/
theorem fwPatchData (rq : Rq) (verifyFail : Bool) : Statement (.fwPatchData rq verifyFail) := of_none rfl

/-- `fwPatchCommit` -/
theorem fwPatchCommit (rq : Rq) : Statement (.fwPatchCommit rq) := of_none rfl

/-- `fwPatchCommitDone` -/
theorem fwPatchCommitDone (writeFail : Bool) : Statement (.fwPatchCommitDone writeFail) := of_none rfl

/-- `fwPatchAbort` -/
theorem fwPatchAbort (rq : Rq) : Statement (.fwPatchAbort rq) := of_none rfl

/-- `ftimerCtlWrite` -/
theorem ftimerCtlWrite (h : Hdr) (w : Word) : Statement (.ftimerCtlWrite h w) := of_none rfl

/-- `composeLeadWrite` -/
theorem composeLeadWrite (h : Hdr) (w : Word) : Statement (.composeLeadWrite h w) := of_none rfl

/-- `arrayCtlWrite` -/
theorem arrayCtlWrite (h : Hdr) (w : Word) : Statement (.arrayCtlWrite h w) := of_none rfl

/-- `budgetWrite` -/
theorem budgetWrite (h : Hdr) (w : Word) : Statement (.budgetWrite h w) := of_none rfl

/-- `hdrmDutyWrite` -/
theorem hdrmDutyWrite (h : Hdr) (w : Word) : Statement (.hdrmDutyWrite h w) := of_none rfl

/-- `wickDataWrite` -/
theorem wickDataWrite (h : Hdr) (w : Word) : Statement (.wickDataWrite h w) := of_none rfl

/-- `fltLatchedWrite` -/
theorem fltLatchedWrite (h : Hdr) (w : Word) (during : List RawEvent) : Statement (.fltLatchedWrite h w during) := of_none rfl

/-- `fltAckedWrite` -/
theorem fltAckedWrite (h : Hdr) (w : Word) (during : List RawEvent) : Statement (.fltAckedWrite h w during) := of_none rfl

/-- `selftest` -/
theorem selftest (h : Hdr) (w : Word) : Statement (.selftest h w) := of_none rfl

/-- `guFeed` -/
theorem guFeed (h : Hdr) (n : Nat) (w : Word) : Statement (.guFeed h n w) := by
  simp_all [Statement, Instr.wellFormed, unitsOf]

/-- `guRestart` -/
theorem guRestart (h : Hdr) (n : Nat) (w : Word) : Statement (.guRestart h n w) := by
  simp_all [Statement, Instr.wellFormed, unitsOf]

/-- `guCapture` -/
theorem guCapture (h : Hdr) (n : Nat) (w : Word) : Statement (.guCapture h n w) := by
  simp_all [Statement, Instr.wellFormed, unitsOf]

/-- `read64` -/
theorem read64 (h : Hdr) : Statement (.read64 h) := of_none rfl

/-- `write64` -/
theorem write64 (h : Hdr) : Statement (.write64 h) := of_none rfl

/-- `fadd32` -/
theorem fadd32 (h : Hdr) : Statement (.fadd32 h) := of_none rfl

/-- `fadd64` -/
theorem fadd64 (h : Hdr) : Statement (.fadd64 h) := of_none rfl

/-- `swap32` -/
theorem swap32 (h : Hdr) : Statement (.swap32 h) := of_none rfl

/-- `swap64` -/
theorem swap64 (h : Hdr) : Statement (.swap64 h) := of_none rfl

/-- `windowOpComplete` -/
theorem windowOpComplete (wait : Nat) (ecc : Ecc) : Statement (.windowOpComplete wait ecc) := of_none rfl

/-- `bankUseWrite` -/
theorem bankUseWrite (h : Hdr) (bank : Nat) (w : Word) : Statement (.bankUseWrite h bank w) := by
  simp_all [Statement, Instr.wellFormed, unitsOf]

/-- `laneTestMode` -/
theorem laneTestMode (h : Hdr) (l : Nat) (w : Word) : Statement (.laneTestMode h l w) := by
  simp_all [Statement, Instr.wellFormed, unitsOf]

/-- `laneMissionMode` -/
theorem laneMissionMode (h : Hdr) (l : Nat) (w : Word) : Statement (.laneMissionMode h l w) := by
  simp_all [Statement, Instr.wellFormed, unitsOf]

/-- `rawCapture` -/
theorem rawCapture (h : Hdr) (l raw : Nat) (line : List Bool) : Statement (.rawCapture h l raw line) := by
  simp_all [Statement, Instr.wellFormed, unitsOf]

/-- `txPatternWrite` -/
theorem txPatternWrite (h : Hdr) (twin : Bool) (w : Word) : Statement (.txPatternWrite h twin w) := of_none rfl

/-- `hrxEnWrite` -/
theorem hrxEnWrite (h : Hdr) (w : Word) : Statement (.hrxEnWrite h w) := of_none rfl

/-- `layerSrcWrite` -/
theorem layerSrcWrite (h : Hdr) (w : Word) : Statement (.layerSrcWrite h w) := of_none rfl

/-- `losAssert` -/
theorem losAssert (l : Nat) : Statement (.losAssert l) := by
  simp_all [Statement, Instr.wellFormed, unitsOf]

/-- `losDeassert` -/
theorem losDeassert (l : Nat) (settled : Bool) : Statement (.losDeassert l settled) := by
  simp_all [Statement, Instr.wellFormed, unitsOf]

/-- `backoffExpiry` -/
theorem backoffExpiry (l : Nat) : Statement (.backoffExpiry l) := by
  simp_all [Statement, Instr.wellFormed, unitsOf]

/-- `anchorReceived` -/
theorem anchorReceived (l : Nat) (set : List LaneWord) : Statement (.anchorReceived l set) := by
  simp_all [Statement, Instr.wellFormed, unitsOf]

/-- `climbReceived` -/
theorem climbReceived (set : List LaneWord) (ms : Nat) : Statement (.climbReceived set ms) := of_none rfl

/-- `cdrLock` -/
theorem cdrLock (l : Nat) : Statement (.cdrLock l) := by
  simp_all [Statement, Instr.wellFormed, unitsOf]

/-- `laneAligned` -/
theorem laneAligned (l slip : Nat) : Statement (.laneAligned l slip) := by
  simp_all [Statement, Instr.wellFormed, unitsOf]

/-- `alignmentLost` -/
theorem alignmentLost (l : Nat) : Statement (.alignmentLost l) := by
  simp_all [Statement, Instr.wellFormed, unitsOf]

/-- `adaptComplete` -/
theorem adaptComplete (l : Nat) (eq : EqResult) (ms : Nat) : Statement (.adaptComplete l eq ms) := by
  simp_all [Statement, Instr.wellFormed, unitsOf]

/-- `attemptTimeout` -/
theorem attemptTimeout (l : AttemptEnd) : Statement (.attemptTimeout l) := by
  simp_all [Statement, Instr.wellFormed, unitsOf]

/-- `bondFormation` -/
theorem bondFormation : Statement .bondFormation := of_none rfl

/-- `bondWaitExpiry` -/
theorem bondWaitExpiry : Statement .bondWaitExpiry := of_none rfl

/-- `bondMarker` -/
theorem bondMarker (marks : List BondMark) : Statement (.bondMarker marks) := of_none rfl

/-- `bondTimeout` -/
theorem bondTimeout : Statement .bondTimeout := of_none rfl

/-- `relockEntry` -/
theorem relockEntry (l gapUs atMs : Nat) : Statement (.relockEntry l gapUs atMs) := by
  simp_all [Statement, Instr.wellFormed, unitsOf]

/-- `relockComplete` -/
theorem relockComplete (l : Nat) (inPlace : Bool) : Statement (.relockComplete l inPlace) := by
  simp_all [Statement, Instr.wellFormed, unitsOf]

/-- `relockTimeout` -/
theorem relockTimeout (l : Nat) : Statement (.relockTimeout l) := by
  simp_all [Statement, Instr.wellFormed, unitsOf]

/-- `frameStart` -/
theorem frameStart (path : Path) (cols : List (List LaneWord)) : Statement (.frameStart path cols) := of_none rfl

/-- `lineData` -/
theorem lineData (path : Path) (cols : List (List LaneWord)) (bufBytes : Nat) (waits : List Nat) : Statement (.lineData path cols bufBytes waits) := of_none rfl

/-- `frameEnd` -/
theorem frameEnd (path : Path) (cols : List (List LaneWord)) : Statement (.frameEnd path cols) := of_none rfl

/-- `backBufferReady` -/
theorem backBufferReady (n : Nat) : Statement (.backBufferReady n) := by
  simp_all [Statement, Instr.wellFormed, unitsOf]

/-- `fenceTimeout` -/
theorem fenceTimeout (n : Nat) : Statement (.fenceTimeout n) := by
  simp_all [Statement, Instr.wellFormed, unitsOf]

/-- `packetDiscard` -/
theorem packetDiscard (path : Path) (cols : List (List LaneWord)) (bufBytes : Nat) : Statement (.packetDiscard path cols bufBytes) := of_none rfl

/-- `packetForward` -/
theorem packetForward : Statement .packetForward := of_none rfl

/-- `syncWordReceived` -/
theorem syncWordReceived (word : LaneWord) (inPacket : Option Bool) (count : Nat) : Statement (.syncWordReceived word inPacket count) := of_none rfl

/-- `statusSend` -/
theorem statusSend : Statement .statusSend := of_none rfl

/-- `climbSend` -/
theorem climbSend (path : Path) : Statement (.climbSend path) := of_none rfl

/-- `heartbeatSend` -/
theorem heartbeatSend : Statement .heartbeatSend := of_none rfl

/-- `twinAliveToggle` -/
theorem twinAliveToggle : Statement .twinAliveToggle := of_none rfl

/-- `twinAliveEdge` -/
theorem twinAliveEdge (silenceUs : Nat) : Statement (.twinAliveEdge silenceUs) := of_none rfl

/-- `twinAliveInactive` -/
theorem twinAliveInactive : Statement .twinAliveInactive := of_none rfl

/-- `heartbeatReceived` -/
theorem heartbeatReceived (cols : List (List LaneWord)) (silenceUs : Nat) : Statement (.heartbeatReceived cols silenceUs) := of_none rfl

/-- `snuffMessageReceived` -/
theorem snuffMessageReceived (cols : List (List LaneWord)) : Statement (.snuffMessageReceived cols) := of_none rfl

/-- `recordReceived` -/
theorem recordReceived (cols : List (List LaneWord)) : Statement (.recordReceived cols) := of_none rfl

/-- `recordSend` -/
theorem recordSend : Statement .recordSend := of_none rfl

/-- `recordRetransmit` -/
theorem recordRetransmit : Statement .recordRetransmit := of_none rfl

/-- `heartbeatSilence` -/
theorem heartbeatSilence (us : Nat) : Statement (.heartbeatSilence us) := of_none rfl

/-- `twinPinFault` -/
theorem twinPinFault : Statement .twinPinFault := of_none rfl

/-- `joinTimeout` -/
theorem joinTimeout : Statement .joinTimeout := of_none rfl

/-- `storeAccessGrant` -/
theorem storeAccessGrant (bank clocks : Nat) (claims : List Claim) (ecc : List Ecc) : Statement (.storeAccessGrant bank clocks claims ecc) := by
  simp_all [Statement, Instr.wellFormed, unitsOf]

/-- `requestEscalation` -/
theorem requestEscalation (bank m : Nat) (claims : List Claim) : Statement (.requestEscalation bank m claims) := by
  simp_all [Statement, Instr.wellFormed, unitsOf]

/-- `scrubRead` -/
theorem scrubRead (bank : Nat) (ecc : Ecc) : Statement (.scrubRead bank ecc) := by
  simp_all [Statement, Instr.wellFormed, unitsOf]

/-- `patternReload` -/
theorem patternReload (belay : Bool) : Statement (.patternReload belay) := of_none rfl

/-- `thermalSample` -/
theorem thermalSample (samples : List Int) : Statement (.thermalSample samples) := of_none rfl

/-- `nvmWindowOpen` -/
theorem nvmWindowOpen : Statement .nvmWindowOpen := of_none rfl

/-- `derateStep` -/
theorem derateStep : Statement .derateStep := of_none rfl

/-- `scarRecordWrite` -/
theorem scarRecordWrite : Statement .scarRecordWrite := of_none rfl

/-- `scarCopy` -/
theorem scarCopy : Statement .scarCopy := of_none rfl

/-- `autoRekindle` -/
theorem autoRekindle : Statement .autoRekindle := of_none rfl

/-- `ntcConversion` -/
theorem ntcConversion (code : Nat) : Statement (.ntcConversion code) := by
  simp_all [Statement, Instr.wellFormed, unitsOf]

/-- `eventRaise` -/
theorem eventRaise (ev : RawEvent) : Statement (.eventRaise ev) := of_none rfl

/-- `collateralWindowClose` -/
theorem collateralWindowClose (r : Nat) : Statement (.collateralWindowClose r) := by
  simp_all [Statement, Instr.wellFormed, unitsOf]

/-- `witnessDisagree` -/
theorem witnessDisagree (ev : RawEvent) : Statement (.witnessDisagree ev) := of_none rfl

/-- `collectorSelf` -/
theorem collectorSelf (parity : Bool) (word : Nat) (persists : Bool) : Statement (.collectorSelf parity word persists) := of_none rfl

/-- `linkIslandError` -/
theorem linkIslandError (unit word : Nat) : Statement (.linkIslandError unit word) := of_none rfl

/-- `engineParity` -/
theorem engineParity (e pass : Nat) : Statement (.engineParity e pass) := by
  simp_all [Statement, Instr.wellFormed, unitsOf]

/-- `coreUv` -/
theorem coreUv (ldo mv : Nat) : Statement (.coreUv ldo mv) := by
  simp_all [Statement, Instr.wellFormed, unitsOf]

/-- `hvUv` -/
theorem hvUv (mv : Nat) : Statement (.hvUv mv) := of_none rfl

/-- `pllUnlock` -/
theorem pllUnlock (pll : Nat) : Statement (.pllUnlock pll) := by
  simp_all [Statement, Instr.wellFormed, unitsOf]

/-- `xtalFail` -/
theorem xtalFail (khz : Nat) : Statement (.xtalFail khz) := of_none rfl

/-- `nvmStoreStart` -/
theorem nvmStoreStart : Statement .nvmStoreStart := of_none rfl

/-- `nvmStoreComplete` -/
theorem nvmStoreComplete (failAt : Option Nat) : Statement (.nvmStoreComplete failAt) := of_none rfl

/-- `defectListStore` -/
theorem defectListStore : Statement .defectListStore := of_none rfl

/-- `wearGainRecompute` -/
theorem wearGainRecompute : Statement .wearGainRecompute := of_none rfl

/-- `wearMapStore` -/
theorem wearMapStore : Statement .wearMapStore := of_none rfl

/-- `lifetimeStore` -/
theorem lifetimeStore : Statement .lifetimeStore := of_none rfl

/-- `lifetimeSample` -/
theorem lifetimeSample : Statement .lifetimeSample := of_none rfl

/-- `operatingSecondTick` -/
theorem operatingSecondTick : Statement .operatingSecondTick := of_none rfl

/-- `mainRingWrite` -/
theorem mainRingWrite (fail : Option LogFail) : Statement (.mainRingWrite fail) := of_none rfl

/-- `cairnWrite` -/
theorem cairnWrite (fail : Option LogFail) : Statement (.cairnWrite fail) := of_none rfl

/-- `recordsDropped` -/
theorem recordsDropped : Statement .recordsDropped := of_none rfl

/-- `sleepEntryStep` -/
theorem sleepEntryStep : Statement .sleepEntryStep := of_none rfl

/-- `sleepRelight` -/
theorem sleepRelight : Statement .sleepRelight := of_none rfl

/-- `sleepWindowEnd` -/
theorem sleepWindowEnd : Statement .sleepWindowEnd := of_none rfl

/-- `wakePin` -/
theorem wakePin (level : Bool) : Statement (.wakePin level) := of_none rfl

/-- `i2cAddressMatch` -/
theorem i2cAddressMatch (addr : Nat) : Statement (.i2cAddressMatch addr) := by
  simp_all [Statement, Instr.wellFormed, unitsOf]

/-- `i2cRead` -/
theorem i2cRead : Statement .i2cRead := of_none rfl

/-- `wakeTimerExpiry` -/
theorem wakeTimerExpiry : Statement .wakeTimerExpiry := of_none rfl

/-- `sleepNvmTimeout` -/
theorem sleepNvmTimeout : Statement .sleepNvmTimeout := of_none rfl

/-- `scarWriteComplete` -/
theorem scarWriteComplete : Statement .scarWriteComplete := of_none rfl

/-- `lrefClockChange` -/
theorem lrefClockChange (present : Bool) : Statement (.lrefClockChange present) := of_none rfl

/-- `twinAckSetsSent` -/
theorem twinAckSetsSent : Statement .twinAckSetsSent := of_none rfl

end Sys2Proof.Laws.WellFormed
end

