-- ==== Sys2Proof/Laws/Requests.lean ====
section
/-! SUPPORT. What recording an event, taking a request and answering it may touch, and what a request that is let through does: the lemmas
by which a command's statement gets past the front end. -/

namespace Sys2Proof.Machine

/-! ### Recording -/

/-- Nothing changed. -/
theorem recordsOnly_refl (s : State) : recordsOnly s s := rfl

/-- One change after another. -/
theorem recordsOnly_trans {s t u : State} (a : recordsOnly s t) (b : recordsOnly t u) : recordsOnly s u := by
  unfold recordsOnly at *
  rw [b, a]

/-- The fields of a record-only change. -/
theorem recordsOnly.fields {s t : State} (h : recordsOnly s t) :
    t.ao = s.ao ∧ t.pwr = s.pwr ∧ t.ft = s.ft ∧ t.arr = s.arr ∧ t.map = s.map ∧ t.diag = s.diag ∧ t.cmp = s.cmp ∧ t.scl = s.scl ∧
      t.chk = s.chk ∧ t.lnk = s.lnk ∧ t.rope = s.rope ∧ t.cmd = s.cmd ∧ t.mem = s.mem ∧ t.thm = s.thm ∧ t.nvm = s.nvm ∧
      t.pending = s.pending ∧ t.free = s.free := by
  unfold recordsOnly at h
  rw [h]
  simp

theorem countDrop_only (r : Rec) (s : State) : recordsOnly s (countDrop r s) := rfl

theorem enqueue_only (r : Rec) (s : State) : recordsOnly s (enqueue r s) := by
  unfold enqueue
  generalize s.evr.queue = q
  dsimp only
  cases q
  all_goals dsimp only
  all_goals repeat' split
  all_goals rfl

theorem share_only (r : Rec) (s : State) : recordsOnly s (share r s) := by
  unfold share
  extract_lets
  repeat' split
  all_goals rfl

theorem record_only (e : RawEvent) (fl : Nat) (s : State) : recordsOnly s (record e fl s) := by
  unfold record
  split
  · rfl
  · refine recordsOnly_trans ?_ (recordsOnly_trans (enqueue_only _ _) (share_only _ _))
    split <;> rfl

theorem histPush_only (r : Rec) (s : State) : recordsOnly s (histPush r s) := rfl

theorem raiseCollateral_only (e : RawEvent) (s : State) : recordsOnly s (raiseCollateral e s) := by
  unfold raiseCollateral
  extract_lets r t u f v
  have h : recordsOnly s v := recordsOnly_trans (record_only e flagCollateral s) rfl
  split
  · exact recordsOnly_trans h rfl
  · exact h

/-- An event of level NOTE touches the collector, the recorder and the records held for the twin, nothing else. -/
theorem note_only (e : RawEvent) (s : State) : recordsOnly s (note e s) := by
  unfold note
  split
  · exact recordsOnly_refl s
  · split
    · exact raiseCollateral_only e s
    · exact record_only e 0 s

/-- The same with the frame count as parameter 3. -/
theorem noteF_only (c a b d : Nat) (s : State) : recordsOnly s (noteF c a b d s) := note_only _ _

/-! ### Taking a request -/

/-- What taking a request may touch. -/
theorem takeAlive_only (x : Src) (b : List Byte) (s : State) :
    takeAlive x b s = { s with cmd := (takeAlive x b s).cmd, pwr := { s.pwr with hostSrc := srcNo x }, flt := (takeAlive x b s).flt,
                               evr := (takeAlive x b s).evr, twn := (takeAlive x b s).twn } ∧
    (takeAlive x b s).cmd.locked = s.cmd.locked ∧ (takeAlive x b s).cmd.queue = s.cmd.queue := by
  unfold takeAlive
  extract_lets q gap t p u
  have hu : u = { s with cmd := u.cmd, pwr := { s.pwr with hostSrc := srcNo x } } ∧ u.cmd.locked = s.cmd.locked ∧
      u.cmd.queue = s.cmd.queue := by
    cases x <;> exact ⟨rfl, rfl, rfl⟩
  obtain ⟨h1, h2, h3⟩ := hu
  split
  · have k := note_only (ev 0x0D02 (srcNo x) q.ref (aliveOf b) (srcOf u x).gaps) u
    have f := k.fields
    unfold recordsOnly at k
    refine ⟨?_, by rw [f.2.2.2.2.2.2.2.2.2.2.2.1, h2], by rw [f.2.2.2.2.2.2.2.2.2.2.2.1, h3]⟩
    generalize note (ev 0x0D02 (srcNo x) q.ref (aliveOf b) (srcOf u x).gaps) u = w at *
    rw [k]
    rw [h1]
  · refine ⟨?_, h2, h3⟩
    rw [h1]

/-- What taking a request may touch: the front end, the source of the last request, and what recording SEQ_GAP touches. -/
theorem after_only (op : Nat) (rq : Rq) (s : State) :
    after op rq s = { s with cmd := (after op rq s).cmd, pwr := { s.pwr with hostSrc := srcNo rq.src }, flt := (after op rq s).flt,
                             evr := (after op rq s).evr, twn := (after op rq s).twn } ∧
    (after op rq s).cmd.locked = s.cmd.locked := by
  unfold after takeRequest
  split
  · have k := takeAlive_only rq.src (requestBytes op rq.tag (((srcOf s rq.src).ref + 1) % 16 * 16) rq.payload) s
    exact ⟨k.1, k.2.1⟩
  · rename_i w rest _
    have k := takeAlive_only rq.src w.bytes { s with cmd := { s.cmd with queue := rest } }
    exact ⟨k.1, k.2.1⟩

/-- Taking a request keeps the mode. -/
theorem after_mode (op : Nat) (rq : Rq) (s : State) : (after op rq s).pwr.mode = s.pwr.mode := by rw [(after_only op rq s).1]

/-- A request that is let through is judged by its own rules and answered. -/
theorem request_run {op : Nat} {rq : Rq} {s : State} {modeOk : State → Bool} {lenOk : Nat → Bool} {extra : Bool} {body : Body}
    (h : admits op rq s = true) (m : modeOk (after op rq s) = true) (l : lenOk rq.payload.length = true)
    (e : (s.cmd.locked && extra) = false) :
    request rq op modeOk lenOk extra body s = answered op rq (body (after op rq s)).1 (body (after op rq s)).2 := by
  simp only [admits, Bool.and_eq_true, Bool.not_eq_true'] at h
  obtain ⟨⟨⟨c, tw⟩, k⟩, lk⟩ := h
  have hm := after_mode op rq s
  have hl := (after_only op rq s).2
  unfold request
  rw [c]
  simp only [Bool.not_true, Bool.false_eq_true, if_false, answered]
  change Host.Outcome.next (answer rq.src op rq.tag
    (judge rq.src op rq.payload (modeOk (after op rq s)) (lenOk rq.payload.length) extra body (after op rq s)).1
    (judge rq.src op rq.payload (modeOk (after op rq s)) (lenOk rq.payload.length) extra body (after op rq s)).2) = _
  have j : judge rq.src op rq.payload (modeOk (after op rq s)) (lenOk rq.payload.length) extra body (after op rq s) = body (after op rq s) := by
    unfold judge
    rw [hm, hl, m, l]
    have lk' : (s.cmd.locked && (lockForbids op rq.payload || extra)) = false := by
      cases hs : s.cmd.locked <;> simp_all
    rw [tw, k, lk']
    simp
  rw [j]

/-- The same for a request whose own rules name no further ground for LOCKED. -/
theorem request_plain {op : Nat} {rq : Rq} {s : State} {modeOk : State → Bool} {lenOk : Nat → Bool} {body : Body}
    (h : admits op rq s = true) (m : modeOk (after op rq s) = true) (l : lenOk rq.payload.length = true) :
    request rq op modeOk lenOk false body s = answered op rq (body (after op rq s)).1 (body (after op rq s)).2 :=
  request_run h m l (by simp)

/-- A request that the lock refuses. -/
theorem request_locked {op : Nat} {rq : Rq} {s : State} {modeOk : State → Bool} {lenOk : Nat → Bool} {extra : Bool} {body : Body}
    (h : reaches op rq s = true) (m : modeOk (after op rq s) = true) (k : s.cmd.locked = true)
    (f : (lockForbids op rq.payload || extra) = true) : request rq op modeOk lenOk extra body s = lockedOut op rq s := by
  simp only [reaches, Bool.and_eq_true, Bool.not_eq_true'] at h
  obtain ⟨⟨c, tw⟩, kd⟩ := h
  have j : judge rq.src op rq.payload (modeOk (after op rq s)) (lenOk rq.payload.length) extra body (after op rq s) =
      refuseLocked (after op rq s) := by
    unfold judge
    rw [after_mode, (after_only op rq s).2, k, m, tw, kd, f]
    simp
  unfold request
  rw [c]
  simp only [Bool.not_true, Bool.false_eq_true, if_false, lockedOut, answered]
  change Host.Outcome.next (answer rq.src op rq.tag
    (judge rq.src op rq.payload (modeOk (after op rq s)) (lenOk rq.payload.length) extra body (after op rq s)).1
    (judge rq.src op rq.payload (modeOk (after op rq s)) (lenOk rq.payload.length) extra body (after op rq s)).2) = _
  rw [j]
  rfl

/-! ### Byte strings -/

/-- `le` gives as many bytes as asked. -/
@[simp] theorem le_length (k n : Nat) : (le k n).length = k := by
  induction k generalizing n with
  | zero => rfl
  | succ k ih => simp [le, ih]

/-- Little-endian bytes hold the number, modulo their width. -/
theorem leVal_le (k n : Nat) : leVal (le k n) = n % 256 ^ k := by
  induction k generalizing n with
  | zero => simp [le, leVal, Nat.mod_one]
  | succ k ih =>
    have h : n % 256 ^ (k + 1) = n % 256 + 256 * (n / 256 % 256 ^ k) := by rw [pow_succ, mul_comm, Nat.mod_mul]
    simp only [le, leVal, ih, h, BitVec.toNat_ofNat]

/-- The bytes between others. -/
theorem slice_mid (a b c : List Byte) : slice (a ++ (b ++ c)) a.length b.length = b := by
  simp [slice]

/-- A field between others. -/
theorem field_mid (a c : List Byte) (k n i : Nat) (h : a.length = i) : field (a ++ (le k n ++ c)) i k = n % 256 ^ k := by
  have := slice_mid a (le k n) c
  rw [le_length, h] at this
  rw [field, this, leVal_le]

/-! ### The write of one word -/

/-- A word written by `wr` with status OK and no re-kindle. -/
theorem writeOneBy_run {wr : Nat → Nat → State → WriteRes} {h : Hdr} {a v : Nat} {s t : State} (adm : admitsWrite h a v s = true)
    (al : a % 4 = 0) (top : a < 0xF0000) (vv : v < 2 ^ 32) (r : wr a v (beforeWrite h a v s) = Machine.taken t) :
    writeOneBy wr h a v s = wrote h a v t := by
  simp only [admitsWrite, Bool.and_eq_true, Bool.not_eq_true'] at adm
  obtain ⟨adm, lk⟩ := adm
  have p : (wordRq h a v).payload = le 4 a ++ le 2 1 ++ le 2 0 ++ le 4 v := rfl
  have f0 : field (wordRq h a v).payload 0 4 = a := by
    rw [p, List.append_assoc, List.append_assoc]
    have := field_mid [] (le 2 1 ++ (le 2 0 ++ le 4 v)) 4 a 0 rfl
    rw [List.nil_append] at this
    rw [this]
    omega
  have f4 : field (wordRq h a v).payload 4 2 = 1 := by
    rw [p, List.append_assoc, List.append_assoc, field_mid _ _ _ _ _ (le_length 4 a)]
    rfl
  have f8 : field (wordRq h a v).payload 8 4 = v := by
    rw [p, show le 4 a ++ le 2 1 ++ le 2 0 ++ le 4 v = (le 4 a ++ le 2 1 ++ le 2 0) ++ (le 4 v ++ []) by simp, field_mid _ _ _ _ _ (by simp)]
    omega
  have f6 : field (wordRq h a v).payload 6 1 = 0 := by
    rw [p, show le 4 a ++ le 2 1 ++ le 2 0 ++ le 4 v = (le 4 a ++ le 2 1) ++ (le 1 0 ++ (le 1 0 ++ le 4 v)) by simp [le],
      field_mid _ _ _ _ _ (by simp)]
    rfl
  have ln : (wordRq h a v).payload.length = 12 := by rw [p]; simp
  have wl : writeLocked (wordRq h a v).payload = lockedWord a := by
    simp only [writeLocked, f0, f4, f6]
    have : a / 4 * 4 = a := by omega
    simp [this, List.range_succ]
  unfold writeOneBy writeRegs
  rw [show ({ src := h.src, tag := h.tag, payload := le 4 a ++ le 2 1 ++ le 2 0 ++ le 4 v } : Rq) = wordRq h a v from rfl]
  rw [request_run adm rfl rfl (by rw [wl]; exact lk)]
  have ok : writeFieldsOk (wordRq h a v).payload = true := by
    simp only [writeFieldsOk, f0, f4, f6, ln, rangeOk]
    simp [al, top]
  have body : writeRegBody wr (wordRq h a v).payload (after 4 (wordRq h a v) s) = ({ status := stOk }, t) := by
    simp only [writeRegBody, ok, f0, f4, f6]
    simp only [beforeWrite] at r
    simp [regWritesBy, maskedValue, f8, r, Machine.taken, rep]
  rw [body]
  rfl

/-- A word written with status OK and no re-kindle. -/
theorem writeOne_run {h : Hdr} {a v : Nat} {s t : State} (adm : admitsWrite h a v s = true) (al : a % 4 = 0) (top : a < 0xF0000)
    (vv : v < 2 ^ 32) (r : regWrite a v (beforeWrite h a v s) = Machine.taken t) : writeOne h a v s = wrote h a v t :=
  writeOneBy_run adm al top vv r

end Sys2Proof.Machine
end

