-- ==== Sys2Proof/Laws/State.lean ====
section
/-! SUPPORT. Which parts of the state each small named operation leaves alone, one lemma for each part, so that a proof about a command
rewrites past them and unfolds none of them. A bare record update needs no lemma: it stands as the updated record itself, and its
projections reduce. -/

namespace Sys2Proof.Machine

/-! ### Recording -/

@[simp] theorem note_ao (e : RawEvent) (s : State) : (note e s).ao = s.ao := (note_only e s).fields.1

@[simp] theorem note_pwr (e : RawEvent) (s : State) : (note e s).pwr = s.pwr := (note_only e s).fields.2.1

@[simp] theorem note_ft (e : RawEvent) (s : State) : (note e s).ft = s.ft := (note_only e s).fields.2.2.1

@[simp] theorem note_arr (e : RawEvent) (s : State) : (note e s).arr = s.arr := (note_only e s).fields.2.2.2.1

@[simp] theorem note_map (e : RawEvent) (s : State) : (note e s).map = s.map := (note_only e s).fields.2.2.2.2.1

@[simp] theorem note_diag (e : RawEvent) (s : State) : (note e s).diag = s.diag := (note_only e s).fields.2.2.2.2.2.1

@[simp] theorem note_cmp (e : RawEvent) (s : State) : (note e s).cmp = s.cmp := (note_only e s).fields.2.2.2.2.2.2.1

@[simp] theorem note_scl (e : RawEvent) (s : State) : (note e s).scl = s.scl := (note_only e s).fields.2.2.2.2.2.2.2.1

@[simp] theorem note_chk (e : RawEvent) (s : State) : (note e s).chk = s.chk := (note_only e s).fields.2.2.2.2.2.2.2.2.1

@[simp] theorem note_lnk (e : RawEvent) (s : State) : (note e s).lnk = s.lnk := (note_only e s).fields.2.2.2.2.2.2.2.2.2.1

@[simp] theorem note_rope (e : RawEvent) (s : State) : (note e s).rope = s.rope := (note_only e s).fields.2.2.2.2.2.2.2.2.2.2.1

@[simp] theorem note_cmd (e : RawEvent) (s : State) : (note e s).cmd = s.cmd := (note_only e s).fields.2.2.2.2.2.2.2.2.2.2.2.1

@[simp] theorem note_mem (e : RawEvent) (s : State) : (note e s).mem = s.mem := (note_only e s).fields.2.2.2.2.2.2.2.2.2.2.2.2.1

@[simp] theorem note_thm (e : RawEvent) (s : State) : (note e s).thm = s.thm := (note_only e s).fields.2.2.2.2.2.2.2.2.2.2.2.2.2.1

@[simp] theorem note_nvm (e : RawEvent) (s : State) : (note e s).nvm = s.nvm := (note_only e s).fields.2.2.2.2.2.2.2.2.2.2.2.2.2.2.1

@[simp] theorem note_pending (e : RawEvent) (s : State) : (note e s).pending = s.pending := (note_only e s).fields.2.2.2.2.2.2.2.2.2.2.2.2.2.2.2.1

@[simp] theorem note_free (e : RawEvent) (s : State) : (note e s).free = s.free := (note_only e s).fields.2.2.2.2.2.2.2.2.2.2.2.2.2.2.2.2

/-! ### Recording with the frame count -/

@[simp] theorem noteF_ao (c p0 p1 p2 : Nat) (s : State) : (noteF c p0 p1 p2 s).ao = s.ao := (noteF_only c p0 p1 p2 s).fields.1

@[simp] theorem noteF_pwr (c p0 p1 p2 : Nat) (s : State) : (noteF c p0 p1 p2 s).pwr = s.pwr := (noteF_only c p0 p1 p2 s).fields.2.1

@[simp] theorem noteF_ft (c p0 p1 p2 : Nat) (s : State) : (noteF c p0 p1 p2 s).ft = s.ft := (noteF_only c p0 p1 p2 s).fields.2.2.1

@[simp] theorem noteF_arr (c p0 p1 p2 : Nat) (s : State) : (noteF c p0 p1 p2 s).arr = s.arr := (noteF_only c p0 p1 p2 s).fields.2.2.2.1

@[simp] theorem noteF_map (c p0 p1 p2 : Nat) (s : State) : (noteF c p0 p1 p2 s).map = s.map := (noteF_only c p0 p1 p2 s).fields.2.2.2.2.1

@[simp] theorem noteF_diag (c p0 p1 p2 : Nat) (s : State) : (noteF c p0 p1 p2 s).diag = s.diag := (noteF_only c p0 p1 p2 s).fields.2.2.2.2.2.1

@[simp] theorem noteF_cmp (c p0 p1 p2 : Nat) (s : State) : (noteF c p0 p1 p2 s).cmp = s.cmp := (noteF_only c p0 p1 p2 s).fields.2.2.2.2.2.2.1

@[simp] theorem noteF_scl (c p0 p1 p2 : Nat) (s : State) : (noteF c p0 p1 p2 s).scl = s.scl := (noteF_only c p0 p1 p2 s).fields.2.2.2.2.2.2.2.1

@[simp] theorem noteF_chk (c p0 p1 p2 : Nat) (s : State) : (noteF c p0 p1 p2 s).chk = s.chk := (noteF_only c p0 p1 p2 s).fields.2.2.2.2.2.2.2.2.1

@[simp] theorem noteF_lnk (c p0 p1 p2 : Nat) (s : State) : (noteF c p0 p1 p2 s).lnk = s.lnk := (noteF_only c p0 p1 p2 s).fields.2.2.2.2.2.2.2.2.2.1

@[simp] theorem noteF_rope (c p0 p1 p2 : Nat) (s : State) : (noteF c p0 p1 p2 s).rope = s.rope := (noteF_only c p0 p1 p2 s).fields.2.2.2.2.2.2.2.2.2.2.1

@[simp] theorem noteF_cmd (c p0 p1 p2 : Nat) (s : State) : (noteF c p0 p1 p2 s).cmd = s.cmd := (noteF_only c p0 p1 p2 s).fields.2.2.2.2.2.2.2.2.2.2.2.1

@[simp] theorem noteF_mem (c p0 p1 p2 : Nat) (s : State) : (noteF c p0 p1 p2 s).mem = s.mem := (noteF_only c p0 p1 p2 s).fields.2.2.2.2.2.2.2.2.2.2.2.2.1

@[simp] theorem noteF_thm (c p0 p1 p2 : Nat) (s : State) : (noteF c p0 p1 p2 s).thm = s.thm := (noteF_only c p0 p1 p2 s).fields.2.2.2.2.2.2.2.2.2.2.2.2.2.1

@[simp] theorem noteF_nvm (c p0 p1 p2 : Nat) (s : State) : (noteF c p0 p1 p2 s).nvm = s.nvm := (noteF_only c p0 p1 p2 s).fields.2.2.2.2.2.2.2.2.2.2.2.2.2.2.1

@[simp] theorem noteF_pending (c p0 p1 p2 : Nat) (s : State) : (noteF c p0 p1 p2 s).pending = s.pending := (noteF_only c p0 p1 p2 s).fields.2.2.2.2.2.2.2.2.2.2.2.2.2.2.2.1

@[simp] theorem noteF_free (c p0 p1 p2 : Nat) (s : State) : (noteF c p0 p1 p2 s).free = s.free := (noteF_only c p0 p1 p2 s).fields.2.2.2.2.2.2.2.2.2.2.2.2.2.2.2.2

/-! ### A record formed and kept -/

@[simp] theorem record_ao (e : RawEvent) (flags : Nat) (s : State) : (record e flags s).ao = s.ao := (record_only e flags s).fields.1

@[simp] theorem record_pwr (e : RawEvent) (flags : Nat) (s : State) : (record e flags s).pwr = s.pwr := (record_only e flags s).fields.2.1

@[simp] theorem record_ft (e : RawEvent) (flags : Nat) (s : State) : (record e flags s).ft = s.ft := (record_only e flags s).fields.2.2.1

@[simp] theorem record_arr (e : RawEvent) (flags : Nat) (s : State) : (record e flags s).arr = s.arr := (record_only e flags s).fields.2.2.2.1

@[simp] theorem record_map (e : RawEvent) (flags : Nat) (s : State) : (record e flags s).map = s.map := (record_only e flags s).fields.2.2.2.2.1

@[simp] theorem record_diag (e : RawEvent) (flags : Nat) (s : State) : (record e flags s).diag = s.diag := (record_only e flags s).fields.2.2.2.2.2.1

@[simp] theorem record_cmp (e : RawEvent) (flags : Nat) (s : State) : (record e flags s).cmp = s.cmp := (record_only e flags s).fields.2.2.2.2.2.2.1

@[simp] theorem record_scl (e : RawEvent) (flags : Nat) (s : State) : (record e flags s).scl = s.scl := (record_only e flags s).fields.2.2.2.2.2.2.2.1

@[simp] theorem record_chk (e : RawEvent) (flags : Nat) (s : State) : (record e flags s).chk = s.chk := (record_only e flags s).fields.2.2.2.2.2.2.2.2.1

@[simp] theorem record_lnk (e : RawEvent) (flags : Nat) (s : State) : (record e flags s).lnk = s.lnk := (record_only e flags s).fields.2.2.2.2.2.2.2.2.2.1

@[simp] theorem record_rope (e : RawEvent) (flags : Nat) (s : State) : (record e flags s).rope = s.rope := (record_only e flags s).fields.2.2.2.2.2.2.2.2.2.2.1

@[simp] theorem record_cmd (e : RawEvent) (flags : Nat) (s : State) : (record e flags s).cmd = s.cmd := (record_only e flags s).fields.2.2.2.2.2.2.2.2.2.2.2.1

@[simp] theorem record_mem (e : RawEvent) (flags : Nat) (s : State) : (record e flags s).mem = s.mem := (record_only e flags s).fields.2.2.2.2.2.2.2.2.2.2.2.2.1

@[simp] theorem record_thm (e : RawEvent) (flags : Nat) (s : State) : (record e flags s).thm = s.thm := (record_only e flags s).fields.2.2.2.2.2.2.2.2.2.2.2.2.2.1

@[simp] theorem record_nvm (e : RawEvent) (flags : Nat) (s : State) : (record e flags s).nvm = s.nvm := (record_only e flags s).fields.2.2.2.2.2.2.2.2.2.2.2.2.2.2.1

@[simp] theorem record_pending (e : RawEvent) (flags : Nat) (s : State) : (record e flags s).pending = s.pending := (record_only e flags s).fields.2.2.2.2.2.2.2.2.2.2.2.2.2.2.2.1

@[simp] theorem record_free (e : RawEvent) (flags : Nat) (s : State) : (record e flags s).free = s.free := (record_only e flags s).fields.2.2.2.2.2.2.2.2.2.2.2.2.2.2.2.2

/-! ### A record for the twin -/

@[simp] theorem share_ao (r : Rec) (s : State) : (share r s).ao = s.ao := (share_only r s).fields.1

@[simp] theorem share_pwr (r : Rec) (s : State) : (share r s).pwr = s.pwr := (share_only r s).fields.2.1

@[simp] theorem share_ft (r : Rec) (s : State) : (share r s).ft = s.ft := (share_only r s).fields.2.2.1

@[simp] theorem share_arr (r : Rec) (s : State) : (share r s).arr = s.arr := (share_only r s).fields.2.2.2.1

@[simp] theorem share_map (r : Rec) (s : State) : (share r s).map = s.map := (share_only r s).fields.2.2.2.2.1

@[simp] theorem share_diag (r : Rec) (s : State) : (share r s).diag = s.diag := (share_only r s).fields.2.2.2.2.2.1

@[simp] theorem share_cmp (r : Rec) (s : State) : (share r s).cmp = s.cmp := (share_only r s).fields.2.2.2.2.2.2.1

@[simp] theorem share_scl (r : Rec) (s : State) : (share r s).scl = s.scl := (share_only r s).fields.2.2.2.2.2.2.2.1

@[simp] theorem share_chk (r : Rec) (s : State) : (share r s).chk = s.chk := (share_only r s).fields.2.2.2.2.2.2.2.2.1

@[simp] theorem share_lnk (r : Rec) (s : State) : (share r s).lnk = s.lnk := (share_only r s).fields.2.2.2.2.2.2.2.2.2.1

@[simp] theorem share_rope (r : Rec) (s : State) : (share r s).rope = s.rope := (share_only r s).fields.2.2.2.2.2.2.2.2.2.2.1

@[simp] theorem share_cmd (r : Rec) (s : State) : (share r s).cmd = s.cmd := (share_only r s).fields.2.2.2.2.2.2.2.2.2.2.2.1

@[simp] theorem share_mem (r : Rec) (s : State) : (share r s).mem = s.mem := (share_only r s).fields.2.2.2.2.2.2.2.2.2.2.2.2.1

@[simp] theorem share_thm (r : Rec) (s : State) : (share r s).thm = s.thm := (share_only r s).fields.2.2.2.2.2.2.2.2.2.2.2.2.2.1

@[simp] theorem share_nvm (r : Rec) (s : State) : (share r s).nvm = s.nvm := (share_only r s).fields.2.2.2.2.2.2.2.2.2.2.2.2.2.2.1

@[simp] theorem share_pending (r : Rec) (s : State) : (share r s).pending = s.pending := (share_only r s).fields.2.2.2.2.2.2.2.2.2.2.2.2.2.2.2.1

@[simp] theorem share_free (r : Rec) (s : State) : (share r s).free = s.free := (share_only r s).fields.2.2.2.2.2.2.2.2.2.2.2.2.2.2.2.2

/-- Forming a copy for the twin touches neither the collector nor the recorder. -/
@[simp] theorem share_flt (r : Rec) (s : State) : (share r s).flt = s.flt := by
  unfold share
  extract_lets
  repeat' split
  all_goals rfl

/-- The same for the recorder. -/
@[simp] theorem share_evr (r : Rec) (s : State) : (share r s).evr = s.evr := by
  unfold share
  extract_lets
  repeat' split
  all_goals rfl

/-! ### A record into the queue -/

@[simp] theorem enqueue_ao (r : Rec) (s : State) : (enqueue r s).ao = s.ao := (enqueue_only r s).fields.1

@[simp] theorem enqueue_pwr (r : Rec) (s : State) : (enqueue r s).pwr = s.pwr := (enqueue_only r s).fields.2.1

@[simp] theorem enqueue_ft (r : Rec) (s : State) : (enqueue r s).ft = s.ft := (enqueue_only r s).fields.2.2.1

@[simp] theorem enqueue_arr (r : Rec) (s : State) : (enqueue r s).arr = s.arr := (enqueue_only r s).fields.2.2.2.1

@[simp] theorem enqueue_map (r : Rec) (s : State) : (enqueue r s).map = s.map := (enqueue_only r s).fields.2.2.2.2.1

@[simp] theorem enqueue_diag (r : Rec) (s : State) : (enqueue r s).diag = s.diag := (enqueue_only r s).fields.2.2.2.2.2.1

@[simp] theorem enqueue_cmp (r : Rec) (s : State) : (enqueue r s).cmp = s.cmp := (enqueue_only r s).fields.2.2.2.2.2.2.1

@[simp] theorem enqueue_scl (r : Rec) (s : State) : (enqueue r s).scl = s.scl := (enqueue_only r s).fields.2.2.2.2.2.2.2.1

@[simp] theorem enqueue_chk (r : Rec) (s : State) : (enqueue r s).chk = s.chk := (enqueue_only r s).fields.2.2.2.2.2.2.2.2.1

@[simp] theorem enqueue_lnk (r : Rec) (s : State) : (enqueue r s).lnk = s.lnk := (enqueue_only r s).fields.2.2.2.2.2.2.2.2.2.1

@[simp] theorem enqueue_rope (r : Rec) (s : State) : (enqueue r s).rope = s.rope := (enqueue_only r s).fields.2.2.2.2.2.2.2.2.2.2.1

@[simp] theorem enqueue_cmd (r : Rec) (s : State) : (enqueue r s).cmd = s.cmd := (enqueue_only r s).fields.2.2.2.2.2.2.2.2.2.2.2.1

@[simp] theorem enqueue_mem (r : Rec) (s : State) : (enqueue r s).mem = s.mem := (enqueue_only r s).fields.2.2.2.2.2.2.2.2.2.2.2.2.1

@[simp] theorem enqueue_thm (r : Rec) (s : State) : (enqueue r s).thm = s.thm := (enqueue_only r s).fields.2.2.2.2.2.2.2.2.2.2.2.2.2.1

@[simp] theorem enqueue_nvm (r : Rec) (s : State) : (enqueue r s).nvm = s.nvm := (enqueue_only r s).fields.2.2.2.2.2.2.2.2.2.2.2.2.2.2.1

@[simp] theorem enqueue_pending (r : Rec) (s : State) : (enqueue r s).pending = s.pending := (enqueue_only r s).fields.2.2.2.2.2.2.2.2.2.2.2.2.2.2.2.1

@[simp] theorem enqueue_free (r : Rec) (s : State) : (enqueue r s).free = s.free := (enqueue_only r s).fields.2.2.2.2.2.2.2.2.2.2.2.2.2.2.2.2

/-! ### The history of the collector -/

@[simp] theorem histPush_ao (r : Rec) (s : State) : (histPush r s).ao = s.ao := rfl

@[simp] theorem histPush_pwr (r : Rec) (s : State) : (histPush r s).pwr = s.pwr := rfl

@[simp] theorem histPush_ft (r : Rec) (s : State) : (histPush r s).ft = s.ft := rfl

@[simp] theorem histPush_arr (r : Rec) (s : State) : (histPush r s).arr = s.arr := rfl

@[simp] theorem histPush_map (r : Rec) (s : State) : (histPush r s).map = s.map := rfl

@[simp] theorem histPush_diag (r : Rec) (s : State) : (histPush r s).diag = s.diag := rfl

@[simp] theorem histPush_cmp (r : Rec) (s : State) : (histPush r s).cmp = s.cmp := rfl

@[simp] theorem histPush_scl (r : Rec) (s : State) : (histPush r s).scl = s.scl := rfl

@[simp] theorem histPush_chk (r : Rec) (s : State) : (histPush r s).chk = s.chk := rfl

@[simp] theorem histPush_lnk (r : Rec) (s : State) : (histPush r s).lnk = s.lnk := rfl

@[simp] theorem histPush_rope (r : Rec) (s : State) : (histPush r s).rope = s.rope := rfl

@[simp] theorem histPush_cmd (r : Rec) (s : State) : (histPush r s).cmd = s.cmd := rfl

@[simp] theorem histPush_twn (r : Rec) (s : State) : (histPush r s).twn = s.twn := rfl

@[simp] theorem histPush_mem (r : Rec) (s : State) : (histPush r s).mem = s.mem := rfl

@[simp] theorem histPush_thm (r : Rec) (s : State) : (histPush r s).thm = s.thm := rfl

@[simp] theorem histPush_nvm (r : Rec) (s : State) : (histPush r s).nvm = s.nvm := rfl

@[simp] theorem histPush_evr (r : Rec) (s : State) : (histPush r s).evr = s.evr := rfl

@[simp] theorem histPush_pending (r : Rec) (s : State) : (histPush r s).pending = s.pending := rfl

@[simp] theorem histPush_free (r : Rec) (s : State) : (histPush r s).free = s.free := rfl

/-! ### One event class -/

@[simp] theorem modClass_ao (c : Nat) (f : ClassState → ClassState) (s : State) : (modClass c f s).ao = s.ao := rfl

@[simp] theorem modClass_pwr (c : Nat) (f : ClassState → ClassState) (s : State) : (modClass c f s).pwr = s.pwr := rfl

@[simp] theorem modClass_ft (c : Nat) (f : ClassState → ClassState) (s : State) : (modClass c f s).ft = s.ft := rfl

@[simp] theorem modClass_arr (c : Nat) (f : ClassState → ClassState) (s : State) : (modClass c f s).arr = s.arr := rfl

@[simp] theorem modClass_map (c : Nat) (f : ClassState → ClassState) (s : State) : (modClass c f s).map = s.map := rfl

@[simp] theorem modClass_diag (c : Nat) (f : ClassState → ClassState) (s : State) : (modClass c f s).diag = s.diag := rfl

@[simp] theorem modClass_cmp (c : Nat) (f : ClassState → ClassState) (s : State) : (modClass c f s).cmp = s.cmp := rfl

@[simp] theorem modClass_scl (c : Nat) (f : ClassState → ClassState) (s : State) : (modClass c f s).scl = s.scl := rfl

@[simp] theorem modClass_chk (c : Nat) (f : ClassState → ClassState) (s : State) : (modClass c f s).chk = s.chk := rfl

@[simp] theorem modClass_lnk (c : Nat) (f : ClassState → ClassState) (s : State) : (modClass c f s).lnk = s.lnk := rfl

@[simp] theorem modClass_rope (c : Nat) (f : ClassState → ClassState) (s : State) : (modClass c f s).rope = s.rope := rfl

@[simp] theorem modClass_cmd (c : Nat) (f : ClassState → ClassState) (s : State) : (modClass c f s).cmd = s.cmd := rfl

@[simp] theorem modClass_twn (c : Nat) (f : ClassState → ClassState) (s : State) : (modClass c f s).twn = s.twn := rfl

@[simp] theorem modClass_mem (c : Nat) (f : ClassState → ClassState) (s : State) : (modClass c f s).mem = s.mem := rfl

@[simp] theorem modClass_thm (c : Nat) (f : ClassState → ClassState) (s : State) : (modClass c f s).thm = s.thm := rfl

@[simp] theorem modClass_nvm (c : Nat) (f : ClassState → ClassState) (s : State) : (modClass c f s).nvm = s.nvm := rfl

@[simp] theorem modClass_evr (c : Nat) (f : ClassState → ClassState) (s : State) : (modClass c f s).evr = s.evr := rfl

@[simp] theorem modClass_pending (c : Nat) (f : ClassState → ClassState) (s : State) : (modClass c f s).pending = s.pending := rfl

@[simp] theorem modClass_free (c : Nat) (f : ClassState → ClassState) (s : State) : (modClass c f s).free = s.free := rfl

@[simp] theorem modClass_classes_length (c : Nat) (f : ClassState → ClassState) (s : State) :
    (modClass c f s).flt.classes.length = s.flt.classes.length := modNth_length _ _ _

/-! ### Standing conditions -/

@[simp] theorem condOff_ao (code unit : Nat) (s : State) : (condOff code unit s).ao = s.ao := rfl

@[simp] theorem condOff_pwr (code unit : Nat) (s : State) : (condOff code unit s).pwr = s.pwr := rfl

@[simp] theorem condOff_ft (code unit : Nat) (s : State) : (condOff code unit s).ft = s.ft := rfl

@[simp] theorem condOff_arr (code unit : Nat) (s : State) : (condOff code unit s).arr = s.arr := rfl

@[simp] theorem condOff_map (code unit : Nat) (s : State) : (condOff code unit s).map = s.map := rfl

@[simp] theorem condOff_diag (code unit : Nat) (s : State) : (condOff code unit s).diag = s.diag := rfl

@[simp] theorem condOff_cmp (code unit : Nat) (s : State) : (condOff code unit s).cmp = s.cmp := rfl

@[simp] theorem condOff_scl (code unit : Nat) (s : State) : (condOff code unit s).scl = s.scl := rfl

@[simp] theorem condOff_chk (code unit : Nat) (s : State) : (condOff code unit s).chk = s.chk := rfl

@[simp] theorem condOff_lnk (code unit : Nat) (s : State) : (condOff code unit s).lnk = s.lnk := rfl

@[simp] theorem condOff_rope (code unit : Nat) (s : State) : (condOff code unit s).rope = s.rope := rfl

@[simp] theorem condOff_cmd (code unit : Nat) (s : State) : (condOff code unit s).cmd = s.cmd := rfl

@[simp] theorem condOff_twn (code unit : Nat) (s : State) : (condOff code unit s).twn = s.twn := rfl

@[simp] theorem condOff_mem (code unit : Nat) (s : State) : (condOff code unit s).mem = s.mem := rfl

@[simp] theorem condOff_thm (code unit : Nat) (s : State) : (condOff code unit s).thm = s.thm := rfl

@[simp] theorem condOff_nvm (code unit : Nat) (s : State) : (condOff code unit s).nvm = s.nvm := rfl

@[simp] theorem condOff_evr (code unit : Nat) (s : State) : (condOff code unit s).evr = s.evr := rfl

@[simp] theorem condOff_pending (code unit : Nat) (s : State) : (condOff code unit s).pending = s.pending := rfl

@[simp] theorem condOff_free (code unit : Nat) (s : State) : (condOff code unit s).free = s.free := rfl

/-! ### Free values -/

@[simp] theorem takeFree_ao (s : State) : (takeFree s).2.ao = s.ao := rfl

@[simp] theorem takeFree_pwr (s : State) : (takeFree s).2.pwr = s.pwr := rfl

@[simp] theorem takeFree_ft (s : State) : (takeFree s).2.ft = s.ft := rfl

@[simp] theorem takeFree_arr (s : State) : (takeFree s).2.arr = s.arr := rfl

@[simp] theorem takeFree_map (s : State) : (takeFree s).2.map = s.map := rfl

@[simp] theorem takeFree_diag (s : State) : (takeFree s).2.diag = s.diag := rfl

@[simp] theorem takeFree_cmp (s : State) : (takeFree s).2.cmp = s.cmp := rfl

@[simp] theorem takeFree_scl (s : State) : (takeFree s).2.scl = s.scl := rfl

@[simp] theorem takeFree_chk (s : State) : (takeFree s).2.chk = s.chk := rfl

@[simp] theorem takeFree_lnk (s : State) : (takeFree s).2.lnk = s.lnk := rfl

@[simp] theorem takeFree_rope (s : State) : (takeFree s).2.rope = s.rope := rfl

@[simp] theorem takeFree_cmd (s : State) : (takeFree s).2.cmd = s.cmd := rfl

@[simp] theorem takeFree_twn (s : State) : (takeFree s).2.twn = s.twn := rfl

@[simp] theorem takeFree_mem (s : State) : (takeFree s).2.mem = s.mem := rfl

@[simp] theorem takeFree_thm (s : State) : (takeFree s).2.thm = s.thm := rfl

@[simp] theorem takeFree_flt (s : State) : (takeFree s).2.flt = s.flt := rfl

@[simp] theorem takeFree_nvm (s : State) : (takeFree s).2.nvm = s.nvm := rfl

@[simp] theorem takeFree_evr (s : State) : (takeFree s).2.evr = s.evr := rfl

@[simp] theorem takeFree_pending (s : State) : (takeFree s).2.pending = s.pending := rfl

@[simp] theorem takeFree_free (s : State) : (takeFree s).2.free = s.free + 1 := rfl

/-! ### Handles -/

@[simp] theorem takeHandle_ao (s : State) : (takeHandle s).ao = s.ao := rfl

@[simp] theorem takeHandle_pwr (s : State) : (takeHandle s).pwr = s.pwr := rfl

@[simp] theorem takeHandle_ft (s : State) : (takeHandle s).ft = s.ft := rfl

@[simp] theorem takeHandle_arr (s : State) : (takeHandle s).arr = s.arr := rfl

@[simp] theorem takeHandle_map (s : State) : (takeHandle s).map = s.map := rfl

@[simp] theorem takeHandle_diag (s : State) : (takeHandle s).diag = s.diag := rfl

@[simp] theorem takeHandle_cmp (s : State) : (takeHandle s).cmp = s.cmp := rfl

@[simp] theorem takeHandle_scl (s : State) : (takeHandle s).scl = s.scl := rfl

@[simp] theorem takeHandle_chk (s : State) : (takeHandle s).chk = s.chk := rfl

@[simp] theorem takeHandle_lnk (s : State) : (takeHandle s).lnk = s.lnk := rfl

@[simp] theorem takeHandle_rope (s : State) : (takeHandle s).rope = s.rope := rfl

@[simp] theorem takeHandle_twn (s : State) : (takeHandle s).twn = s.twn := rfl

@[simp] theorem takeHandle_mem (s : State) : (takeHandle s).mem = s.mem := rfl

@[simp] theorem takeHandle_thm (s : State) : (takeHandle s).thm = s.thm := rfl

@[simp] theorem takeHandle_flt (s : State) : (takeHandle s).flt = s.flt := rfl

@[simp] theorem takeHandle_nvm (s : State) : (takeHandle s).nvm = s.nvm := rfl

@[simp] theorem takeHandle_evr (s : State) : (takeHandle s).evr = s.evr := rfl

@[simp] theorem takeHandle_pending (s : State) : (takeHandle s).pending = s.pending := rfl

@[simp] theorem takeHandle_free (s : State) : (takeHandle s).free = s.free := rfl

/-! ### Completions -/

@[simp] theorem complete_ao (h op : Nat) (x : Src) (st a b : Nat) (s : State) : (complete h op x st a b s).ao = s.ao := by unfold complete; split <;> rfl

@[simp] theorem complete_pwr (h op : Nat) (x : Src) (st a b : Nat) (s : State) : (complete h op x st a b s).pwr = s.pwr := by unfold complete; split <;> rfl

@[simp] theorem complete_ft (h op : Nat) (x : Src) (st a b : Nat) (s : State) : (complete h op x st a b s).ft = s.ft := by unfold complete; split <;> rfl

@[simp] theorem complete_arr (h op : Nat) (x : Src) (st a b : Nat) (s : State) : (complete h op x st a b s).arr = s.arr := by unfold complete; split <;> rfl

@[simp] theorem complete_map (h op : Nat) (x : Src) (st a b : Nat) (s : State) : (complete h op x st a b s).map = s.map := by unfold complete; split <;> rfl

@[simp] theorem complete_diag (h op : Nat) (x : Src) (st a b : Nat) (s : State) : (complete h op x st a b s).diag = s.diag := by unfold complete; split <;> rfl

@[simp] theorem complete_cmp (h op : Nat) (x : Src) (st a b : Nat) (s : State) : (complete h op x st a b s).cmp = s.cmp := by unfold complete; split <;> rfl

@[simp] theorem complete_scl (h op : Nat) (x : Src) (st a b : Nat) (s : State) : (complete h op x st a b s).scl = s.scl := by unfold complete; split <;> rfl

@[simp] theorem complete_chk (h op : Nat) (x : Src) (st a b : Nat) (s : State) : (complete h op x st a b s).chk = s.chk := by unfold complete; split <;> rfl

@[simp] theorem complete_lnk (h op : Nat) (x : Src) (st a b : Nat) (s : State) : (complete h op x st a b s).lnk = s.lnk := by unfold complete; split <;> rfl

@[simp] theorem complete_rope (h op : Nat) (x : Src) (st a b : Nat) (s : State) : (complete h op x st a b s).rope = s.rope := by unfold complete; split <;> rfl

@[simp] theorem complete_twn (h op : Nat) (x : Src) (st a b : Nat) (s : State) : (complete h op x st a b s).twn = s.twn := by unfold complete; split <;> rfl

@[simp] theorem complete_mem (h op : Nat) (x : Src) (st a b : Nat) (s : State) : (complete h op x st a b s).mem = s.mem := by unfold complete; split <;> rfl

@[simp] theorem complete_thm (h op : Nat) (x : Src) (st a b : Nat) (s : State) : (complete h op x st a b s).thm = s.thm := by unfold complete; split <;> rfl

@[simp] theorem complete_flt (h op : Nat) (x : Src) (st a b : Nat) (s : State) : (complete h op x st a b s).flt = s.flt := by unfold complete; split <;> rfl

@[simp] theorem complete_nvm (h op : Nat) (x : Src) (st a b : Nat) (s : State) : (complete h op x st a b s).nvm = s.nvm := by unfold complete; split <;> rfl

@[simp] theorem complete_evr (h op : Nat) (x : Src) (st a b : Nat) (s : State) : (complete h op x st a b s).evr = s.evr := by unfold complete; split <;> rfl

@[simp] theorem complete_pending (h op : Nat) (x : Src) (st a b : Nat) (s : State) : (complete h op x st a b s).pending = s.pending := by unfold complete; split <;> rfl

@[simp] theorem complete_free (h op : Nat) (x : Src) (st a b : Nat) (s : State) : (complete h op x st a b s).free = s.free := by unfold complete; split <;> rfl

/-! ### Completions with open results -/

@[simp] theorem completeOpen_ao (h op : Nat) (x : Src) (st : Nat) (s : State) : (completeOpen h op x st s).ao = s.ao := by unfold completeOpen takeFree; simp

@[simp] theorem completeOpen_pwr (h op : Nat) (x : Src) (st : Nat) (s : State) : (completeOpen h op x st s).pwr = s.pwr := by unfold completeOpen takeFree; simp

@[simp] theorem completeOpen_ft (h op : Nat) (x : Src) (st : Nat) (s : State) : (completeOpen h op x st s).ft = s.ft := by unfold completeOpen takeFree; simp

@[simp] theorem completeOpen_arr (h op : Nat) (x : Src) (st : Nat) (s : State) : (completeOpen h op x st s).arr = s.arr := by unfold completeOpen takeFree; simp

@[simp] theorem completeOpen_map (h op : Nat) (x : Src) (st : Nat) (s : State) : (completeOpen h op x st s).map = s.map := by unfold completeOpen takeFree; simp

@[simp] theorem completeOpen_diag (h op : Nat) (x : Src) (st : Nat) (s : State) : (completeOpen h op x st s).diag = s.diag := by unfold completeOpen takeFree; simp

@[simp] theorem completeOpen_cmp (h op : Nat) (x : Src) (st : Nat) (s : State) : (completeOpen h op x st s).cmp = s.cmp := by unfold completeOpen takeFree; simp

@[simp] theorem completeOpen_scl (h op : Nat) (x : Src) (st : Nat) (s : State) : (completeOpen h op x st s).scl = s.scl := by unfold completeOpen takeFree; simp

@[simp] theorem completeOpen_chk (h op : Nat) (x : Src) (st : Nat) (s : State) : (completeOpen h op x st s).chk = s.chk := by unfold completeOpen takeFree; simp

@[simp] theorem completeOpen_lnk (h op : Nat) (x : Src) (st : Nat) (s : State) : (completeOpen h op x st s).lnk = s.lnk := by unfold completeOpen takeFree; simp

@[simp] theorem completeOpen_rope (h op : Nat) (x : Src) (st : Nat) (s : State) : (completeOpen h op x st s).rope = s.rope := by unfold completeOpen takeFree; simp

@[simp] theorem completeOpen_twn (h op : Nat) (x : Src) (st : Nat) (s : State) : (completeOpen h op x st s).twn = s.twn := by unfold completeOpen takeFree; simp

@[simp] theorem completeOpen_mem (h op : Nat) (x : Src) (st : Nat) (s : State) : (completeOpen h op x st s).mem = s.mem := by unfold completeOpen takeFree; simp

@[simp] theorem completeOpen_thm (h op : Nat) (x : Src) (st : Nat) (s : State) : (completeOpen h op x st s).thm = s.thm := by unfold completeOpen takeFree; simp

@[simp] theorem completeOpen_flt (h op : Nat) (x : Src) (st : Nat) (s : State) : (completeOpen h op x st s).flt = s.flt := by unfold completeOpen takeFree; simp

@[simp] theorem completeOpen_nvm (h op : Nat) (x : Src) (st : Nat) (s : State) : (completeOpen h op x st s).nvm = s.nvm := by unfold completeOpen takeFree; simp

@[simp] theorem completeOpen_evr (h op : Nat) (x : Src) (st : Nat) (s : State) : (completeOpen h op x st s).evr = s.evr := by unfold completeOpen takeFree; simp

@[simp] theorem completeOpen_pending (h op : Nat) (x : Src) (st : Nat) (s : State) : (completeOpen h op x st s).pending = s.pending := by unfold completeOpen takeFree; simp

@[simp] theorem completeOpen_free (h op : Nat) (x : Src) (st : Nat) (s : State) : (completeOpen h op x st s).free = s.free + 2 := by
  unfold completeOpen takeFree; simp

/-! ### A SET_MODE that waits -/

@[simp] theorem endPending_ao (st : Nat) (s : State) : (endPending st s).ao = s.ao := by unfold endPending; split <;> simp

@[simp] theorem endPending_ft (st : Nat) (s : State) : (endPending st s).ft = s.ft := by unfold endPending; split <;> simp

@[simp] theorem endPending_arr (st : Nat) (s : State) : (endPending st s).arr = s.arr := by unfold endPending; split <;> simp

@[simp] theorem endPending_map (st : Nat) (s : State) : (endPending st s).map = s.map := by unfold endPending; split <;> simp

@[simp] theorem endPending_diag (st : Nat) (s : State) : (endPending st s).diag = s.diag := by unfold endPending; split <;> simp

@[simp] theorem endPending_cmp (st : Nat) (s : State) : (endPending st s).cmp = s.cmp := by unfold endPending; split <;> simp

@[simp] theorem endPending_scl (st : Nat) (s : State) : (endPending st s).scl = s.scl := by unfold endPending; split <;> simp

@[simp] theorem endPending_chk (st : Nat) (s : State) : (endPending st s).chk = s.chk := by unfold endPending; split <;> simp

@[simp] theorem endPending_lnk (st : Nat) (s : State) : (endPending st s).lnk = s.lnk := by unfold endPending; split <;> simp

@[simp] theorem endPending_rope (st : Nat) (s : State) : (endPending st s).rope = s.rope := by unfold endPending; split <;> simp

@[simp] theorem endPending_twn (st : Nat) (s : State) : (endPending st s).twn = s.twn := by unfold endPending; split <;> simp

@[simp] theorem endPending_mem (st : Nat) (s : State) : (endPending st s).mem = s.mem := by unfold endPending; split <;> simp

@[simp] theorem endPending_thm (st : Nat) (s : State) : (endPending st s).thm = s.thm := by unfold endPending; split <;> simp

@[simp] theorem endPending_flt (st : Nat) (s : State) : (endPending st s).flt = s.flt := by unfold endPending; split <;> simp

@[simp] theorem endPending_nvm (st : Nat) (s : State) : (endPending st s).nvm = s.nvm := by unfold endPending; split <;> simp

@[simp] theorem endPending_evr (st : Nat) (s : State) : (endPending st s).evr = s.evr := by unfold endPending; split <;> simp

@[simp] theorem endPending_pending (st : Nat) (s : State) : (endPending st s).pending = s.pending := by unfold endPending; split <;> simp

/-! ### Sources of requests -/

@[simp] theorem modSrc_ao (x : Src) (f : SrcState → SrcState) (s : State) : (modSrc x f s).ao = s.ao := by cases x <;> rfl

@[simp] theorem modSrc_pwr (x : Src) (f : SrcState → SrcState) (s : State) : (modSrc x f s).pwr = s.pwr := by cases x <;> rfl

@[simp] theorem modSrc_ft (x : Src) (f : SrcState → SrcState) (s : State) : (modSrc x f s).ft = s.ft := by cases x <;> rfl

@[simp] theorem modSrc_arr (x : Src) (f : SrcState → SrcState) (s : State) : (modSrc x f s).arr = s.arr := by cases x <;> rfl

@[simp] theorem modSrc_map (x : Src) (f : SrcState → SrcState) (s : State) : (modSrc x f s).map = s.map := by cases x <;> rfl

@[simp] theorem modSrc_diag (x : Src) (f : SrcState → SrcState) (s : State) : (modSrc x f s).diag = s.diag := by cases x <;> rfl

@[simp] theorem modSrc_cmp (x : Src) (f : SrcState → SrcState) (s : State) : (modSrc x f s).cmp = s.cmp := by cases x <;> rfl

@[simp] theorem modSrc_scl (x : Src) (f : SrcState → SrcState) (s : State) : (modSrc x f s).scl = s.scl := by cases x <;> rfl

@[simp] theorem modSrc_chk (x : Src) (f : SrcState → SrcState) (s : State) : (modSrc x f s).chk = s.chk := by cases x <;> rfl

@[simp] theorem modSrc_lnk (x : Src) (f : SrcState → SrcState) (s : State) : (modSrc x f s).lnk = s.lnk := by cases x <;> rfl

@[simp] theorem modSrc_rope (x : Src) (f : SrcState → SrcState) (s : State) : (modSrc x f s).rope = s.rope := by cases x <;> rfl

@[simp] theorem modSrc_twn (x : Src) (f : SrcState → SrcState) (s : State) : (modSrc x f s).twn = s.twn := by cases x <;> rfl

@[simp] theorem modSrc_mem (x : Src) (f : SrcState → SrcState) (s : State) : (modSrc x f s).mem = s.mem := by cases x <;> rfl

@[simp] theorem modSrc_thm (x : Src) (f : SrcState → SrcState) (s : State) : (modSrc x f s).thm = s.thm := by cases x <;> rfl

@[simp] theorem modSrc_flt (x : Src) (f : SrcState → SrcState) (s : State) : (modSrc x f s).flt = s.flt := by cases x <;> rfl

@[simp] theorem modSrc_nvm (x : Src) (f : SrcState → SrcState) (s : State) : (modSrc x f s).nvm = s.nvm := by cases x <;> rfl

@[simp] theorem modSrc_evr (x : Src) (f : SrcState → SrcState) (s : State) : (modSrc x f s).evr = s.evr := by cases x <;> rfl

@[simp] theorem modSrc_pending (x : Src) (f : SrcState → SrcState) (s : State) : (modSrc x f s).pending = s.pending := by cases x <;> rfl

@[simp] theorem modSrc_free (x : Src) (f : SrcState → SrcState) (s : State) : (modSrc x f s).free = s.free := by cases x <;> rfl

/-! ### Replies -/

@[simp] theorem sendReply_ao (x : Src) (b : List Byte) (s : State) : (sendReply x b s).ao = s.ao := by cases x <;> rfl

@[simp] theorem sendReply_pwr (x : Src) (b : List Byte) (s : State) : (sendReply x b s).pwr = s.pwr := by cases x <;> rfl

@[simp] theorem sendReply_ft (x : Src) (b : List Byte) (s : State) : (sendReply x b s).ft = s.ft := by cases x <;> rfl

@[simp] theorem sendReply_arr (x : Src) (b : List Byte) (s : State) : (sendReply x b s).arr = s.arr := by cases x <;> rfl

@[simp] theorem sendReply_map (x : Src) (b : List Byte) (s : State) : (sendReply x b s).map = s.map := by cases x <;> rfl

@[simp] theorem sendReply_diag (x : Src) (b : List Byte) (s : State) : (sendReply x b s).diag = s.diag := by cases x <;> rfl

@[simp] theorem sendReply_cmp (x : Src) (b : List Byte) (s : State) : (sendReply x b s).cmp = s.cmp := by cases x <;> rfl

@[simp] theorem sendReply_scl (x : Src) (b : List Byte) (s : State) : (sendReply x b s).scl = s.scl := by cases x <;> rfl

@[simp] theorem sendReply_chk (x : Src) (b : List Byte) (s : State) : (sendReply x b s).chk = s.chk := by cases x <;> rfl

@[simp] theorem sendReply_lnk (x : Src) (b : List Byte) (s : State) : (sendReply x b s).lnk = s.lnk := by cases x <;> rfl

@[simp] theorem sendReply_twn (x : Src) (b : List Byte) (s : State) : (sendReply x b s).twn = s.twn := by cases x <;> rfl

@[simp] theorem sendReply_mem (x : Src) (b : List Byte) (s : State) : (sendReply x b s).mem = s.mem := by cases x <;> rfl

@[simp] theorem sendReply_thm (x : Src) (b : List Byte) (s : State) : (sendReply x b s).thm = s.thm := by cases x <;> rfl

@[simp] theorem sendReply_flt (x : Src) (b : List Byte) (s : State) : (sendReply x b s).flt = s.flt := by cases x <;> rfl

@[simp] theorem sendReply_nvm (x : Src) (b : List Byte) (s : State) : (sendReply x b s).nvm = s.nvm := by cases x <;> rfl

@[simp] theorem sendReply_evr (x : Src) (b : List Byte) (s : State) : (sendReply x b s).evr = s.evr := by cases x <;> rfl

@[simp] theorem sendReply_pending (x : Src) (b : List Byte) (s : State) : (sendReply x b s).pending = s.pending := by cases x <;> rfl

@[simp] theorem sendReply_free (x : Src) (b : List Byte) (s : State) : (sendReply x b s).free = s.free := by cases x <;> rfl

/-! ### Answers -/

@[simp] theorem respond_ao (x : Src) (op tag : Nat) (r : Rep) (s : State) : (respond x op tag r s).ao = s.ao := by simp [respond]

@[simp] theorem respond_pwr (x : Src) (op tag : Nat) (r : Rep) (s : State) : (respond x op tag r s).pwr = s.pwr := by simp [respond]

@[simp] theorem respond_ft (x : Src) (op tag : Nat) (r : Rep) (s : State) : (respond x op tag r s).ft = s.ft := by simp [respond]

@[simp] theorem respond_arr (x : Src) (op tag : Nat) (r : Rep) (s : State) : (respond x op tag r s).arr = s.arr := by simp [respond]

@[simp] theorem respond_map (x : Src) (op tag : Nat) (r : Rep) (s : State) : (respond x op tag r s).map = s.map := by simp [respond]

@[simp] theorem respond_diag (x : Src) (op tag : Nat) (r : Rep) (s : State) : (respond x op tag r s).diag = s.diag := by simp [respond]

@[simp] theorem respond_cmp (x : Src) (op tag : Nat) (r : Rep) (s : State) : (respond x op tag r s).cmp = s.cmp := by simp [respond]

@[simp] theorem respond_scl (x : Src) (op tag : Nat) (r : Rep) (s : State) : (respond x op tag r s).scl = s.scl := by simp [respond]

@[simp] theorem respond_chk (x : Src) (op tag : Nat) (r : Rep) (s : State) : (respond x op tag r s).chk = s.chk := by simp [respond]

@[simp] theorem respond_lnk (x : Src) (op tag : Nat) (r : Rep) (s : State) : (respond x op tag r s).lnk = s.lnk := by simp [respond]

@[simp] theorem respond_twn (x : Src) (op tag : Nat) (r : Rep) (s : State) : (respond x op tag r s).twn = s.twn := by simp [respond]

@[simp] theorem respond_mem (x : Src) (op tag : Nat) (r : Rep) (s : State) : (respond x op tag r s).mem = s.mem := by simp [respond]

@[simp] theorem respond_thm (x : Src) (op tag : Nat) (r : Rep) (s : State) : (respond x op tag r s).thm = s.thm := by simp [respond]

@[simp] theorem respond_flt (x : Src) (op tag : Nat) (r : Rep) (s : State) : (respond x op tag r s).flt = s.flt := by simp [respond]

@[simp] theorem respond_nvm (x : Src) (op tag : Nat) (r : Rep) (s : State) : (respond x op tag r s).nvm = s.nvm := by simp [respond]

@[simp] theorem respond_evr (x : Src) (op tag : Nat) (r : Rep) (s : State) : (respond x op tag r s).evr = s.evr := by simp [respond]

@[simp] theorem respond_pending (x : Src) (op tag : Nat) (r : Rep) (s : State) : (respond x op tag r s).pending = s.pending := by simp [respond]

@[simp] theorem respond_free (x : Src) (op tag : Nat) (r : Rep) (s : State) : (respond x op tag r s).free = s.free := by simp [respond]

/-! ### The Rope paths -/

@[simp] theorem modPath_ao (p : Path) (f : RPath → RPath) (s : State) : (modPath p f s).ao = s.ao := by cases p <;> rfl

@[simp] theorem modPath_pwr (p : Path) (f : RPath → RPath) (s : State) : (modPath p f s).pwr = s.pwr := by cases p <;> rfl

@[simp] theorem modPath_ft (p : Path) (f : RPath → RPath) (s : State) : (modPath p f s).ft = s.ft := by cases p <;> rfl

@[simp] theorem modPath_arr (p : Path) (f : RPath → RPath) (s : State) : (modPath p f s).arr = s.arr := by cases p <;> rfl

@[simp] theorem modPath_map (p : Path) (f : RPath → RPath) (s : State) : (modPath p f s).map = s.map := by cases p <;> rfl

@[simp] theorem modPath_diag (p : Path) (f : RPath → RPath) (s : State) : (modPath p f s).diag = s.diag := by cases p <;> rfl

@[simp] theorem modPath_cmp (p : Path) (f : RPath → RPath) (s : State) : (modPath p f s).cmp = s.cmp := by cases p <;> rfl

@[simp] theorem modPath_scl (p : Path) (f : RPath → RPath) (s : State) : (modPath p f s).scl = s.scl := by cases p <;> rfl

@[simp] theorem modPath_chk (p : Path) (f : RPath → RPath) (s : State) : (modPath p f s).chk = s.chk := by cases p <;> rfl

@[simp] theorem modPath_lnk (p : Path) (f : RPath → RPath) (s : State) : (modPath p f s).lnk = s.lnk := by cases p <;> rfl

@[simp] theorem modPath_cmd (p : Path) (f : RPath → RPath) (s : State) : (modPath p f s).cmd = s.cmd := by cases p <;> rfl

@[simp] theorem modPath_twn (p : Path) (f : RPath → RPath) (s : State) : (modPath p f s).twn = s.twn := by cases p <;> rfl

@[simp] theorem modPath_mem (p : Path) (f : RPath → RPath) (s : State) : (modPath p f s).mem = s.mem := by cases p <;> rfl

@[simp] theorem modPath_thm (p : Path) (f : RPath → RPath) (s : State) : (modPath p f s).thm = s.thm := by cases p <;> rfl

@[simp] theorem modPath_flt (p : Path) (f : RPath → RPath) (s : State) : (modPath p f s).flt = s.flt := by cases p <;> rfl

@[simp] theorem modPath_nvm (p : Path) (f : RPath → RPath) (s : State) : (modPath p f s).nvm = s.nvm := by cases p <;> rfl

@[simp] theorem modPath_evr (p : Path) (f : RPath → RPath) (s : State) : (modPath p f s).evr = s.evr := by cases p <;> rfl

@[simp] theorem modPath_pending (p : Path) (f : RPath → RPath) (s : State) : (modPath p f s).pending = s.pending := by cases p <;> rfl

@[simp] theorem modPath_free (p : Path) (f : RPath → RPath) (s : State) : (modPath p f s).free = s.free := by cases p <;> rfl

/-! ### Symbols that leave -/

@[simp] theorem sendSyms_ao (p : Path) (l : List Sym) (s : State) : (sendSyms p l s).ao = s.ao := by cases p <;> rfl

@[simp] theorem sendSyms_pwr (p : Path) (l : List Sym) (s : State) : (sendSyms p l s).pwr = s.pwr := by cases p <;> rfl

@[simp] theorem sendSyms_ft (p : Path) (l : List Sym) (s : State) : (sendSyms p l s).ft = s.ft := by cases p <;> rfl

@[simp] theorem sendSyms_arr (p : Path) (l : List Sym) (s : State) : (sendSyms p l s).arr = s.arr := by cases p <;> rfl

@[simp] theorem sendSyms_map (p : Path) (l : List Sym) (s : State) : (sendSyms p l s).map = s.map := by cases p <;> rfl

@[simp] theorem sendSyms_diag (p : Path) (l : List Sym) (s : State) : (sendSyms p l s).diag = s.diag := by cases p <;> rfl

@[simp] theorem sendSyms_cmp (p : Path) (l : List Sym) (s : State) : (sendSyms p l s).cmp = s.cmp := by cases p <;> rfl

@[simp] theorem sendSyms_scl (p : Path) (l : List Sym) (s : State) : (sendSyms p l s).scl = s.scl := by cases p <;> rfl

@[simp] theorem sendSyms_chk (p : Path) (l : List Sym) (s : State) : (sendSyms p l s).chk = s.chk := by cases p <;> rfl

@[simp] theorem sendSyms_rope (p : Path) (l : List Sym) (s : State) : (sendSyms p l s).rope = s.rope := by cases p <;> rfl

@[simp] theorem sendSyms_cmd (p : Path) (l : List Sym) (s : State) : (sendSyms p l s).cmd = s.cmd := by cases p <;> rfl

@[simp] theorem sendSyms_twn (p : Path) (l : List Sym) (s : State) : (sendSyms p l s).twn = s.twn := by cases p <;> rfl

@[simp] theorem sendSyms_mem (p : Path) (l : List Sym) (s : State) : (sendSyms p l s).mem = s.mem := by cases p <;> rfl

@[simp] theorem sendSyms_thm (p : Path) (l : List Sym) (s : State) : (sendSyms p l s).thm = s.thm := by cases p <;> rfl

@[simp] theorem sendSyms_flt (p : Path) (l : List Sym) (s : State) : (sendSyms p l s).flt = s.flt := by cases p <;> rfl

@[simp] theorem sendSyms_nvm (p : Path) (l : List Sym) (s : State) : (sendSyms p l s).nvm = s.nvm := by cases p <;> rfl

@[simp] theorem sendSyms_evr (p : Path) (l : List Sym) (s : State) : (sendSyms p l s).evr = s.evr := by cases p <;> rfl

@[simp] theorem sendSyms_pending (p : Path) (l : List Sym) (s : State) : (sendSyms p l s).pending = s.pending := by cases p <;> rfl

@[simp] theorem sendSyms_free (p : Path) (l : List Sym) (s : State) : (sendSyms p l s).free = s.free := by cases p <;> rfl

/-! ### Counts of the sets that left -/

@[simp] theorem countSets_ao (p : Path) (n : Nat) (s : State) : (countSets p n s).ao = s.ao := by cases p <;> rfl

@[simp] theorem countSets_pwr (p : Path) (n : Nat) (s : State) : (countSets p n s).pwr = s.pwr := by cases p <;> rfl

@[simp] theorem countSets_ft (p : Path) (n : Nat) (s : State) : (countSets p n s).ft = s.ft := by cases p <;> rfl

@[simp] theorem countSets_arr (p : Path) (n : Nat) (s : State) : (countSets p n s).arr = s.arr := by cases p <;> rfl

@[simp] theorem countSets_map (p : Path) (n : Nat) (s : State) : (countSets p n s).map = s.map := by cases p <;> rfl

@[simp] theorem countSets_diag (p : Path) (n : Nat) (s : State) : (countSets p n s).diag = s.diag := by cases p <;> rfl

@[simp] theorem countSets_cmp (p : Path) (n : Nat) (s : State) : (countSets p n s).cmp = s.cmp := by cases p <;> rfl

@[simp] theorem countSets_scl (p : Path) (n : Nat) (s : State) : (countSets p n s).scl = s.scl := by cases p <;> rfl

@[simp] theorem countSets_chk (p : Path) (n : Nat) (s : State) : (countSets p n s).chk = s.chk := by cases p <;> rfl

@[simp] theorem countSets_rope (p : Path) (n : Nat) (s : State) : (countSets p n s).rope = s.rope := by cases p <;> rfl

@[simp] theorem countSets_cmd (p : Path) (n : Nat) (s : State) : (countSets p n s).cmd = s.cmd := by cases p <;> rfl

@[simp] theorem countSets_twn (p : Path) (n : Nat) (s : State) : (countSets p n s).twn = s.twn := by cases p <;> rfl

@[simp] theorem countSets_mem (p : Path) (n : Nat) (s : State) : (countSets p n s).mem = s.mem := by cases p <;> rfl

@[simp] theorem countSets_thm (p : Path) (n : Nat) (s : State) : (countSets p n s).thm = s.thm := by cases p <;> rfl

@[simp] theorem countSets_flt (p : Path) (n : Nat) (s : State) : (countSets p n s).flt = s.flt := by cases p <;> rfl

@[simp] theorem countSets_nvm (p : Path) (n : Nat) (s : State) : (countSets p n s).nvm = s.nvm := by cases p <;> rfl

@[simp] theorem countSets_evr (p : Path) (n : Nat) (s : State) : (countSets p n s).evr = s.evr := by cases p <;> rfl

@[simp] theorem countSets_pending (p : Path) (n : Nat) (s : State) : (countSets p n s).pending = s.pending := by cases p <;> rfl

@[simp] theorem countSets_free (p : Path) (n : Nat) (s : State) : (countSets p n s).free = s.free := by cases p <;> rfl

/-! ### The rate shown in a CLIMB set -/

@[simp] theorem climbShown_ao (s : State) : (climbShown s).ao = s.ao := rfl

@[simp] theorem climbShown_pwr (s : State) : (climbShown s).pwr = s.pwr := rfl

@[simp] theorem climbShown_ft (s : State) : (climbShown s).ft = s.ft := rfl

@[simp] theorem climbShown_arr (s : State) : (climbShown s).arr = s.arr := rfl

@[simp] theorem climbShown_map (s : State) : (climbShown s).map = s.map := rfl

@[simp] theorem climbShown_diag (s : State) : (climbShown s).diag = s.diag := rfl

@[simp] theorem climbShown_cmp (s : State) : (climbShown s).cmp = s.cmp := rfl

@[simp] theorem climbShown_scl (s : State) : (climbShown s).scl = s.scl := rfl

@[simp] theorem climbShown_chk (s : State) : (climbShown s).chk = s.chk := rfl

@[simp] theorem climbShown_lnk (s : State) : (climbShown s).lnk = s.lnk := rfl

@[simp] theorem climbShown_cmd (s : State) : (climbShown s).cmd = s.cmd := rfl

@[simp] theorem climbShown_twn (s : State) : (climbShown s).twn = s.twn := rfl

@[simp] theorem climbShown_mem (s : State) : (climbShown s).mem = s.mem := rfl

@[simp] theorem climbShown_thm (s : State) : (climbShown s).thm = s.thm := rfl

@[simp] theorem climbShown_flt (s : State) : (climbShown s).flt = s.flt := rfl

@[simp] theorem climbShown_nvm (s : State) : (climbShown s).nvm = s.nvm := rfl

@[simp] theorem climbShown_evr (s : State) : (climbShown s).evr = s.evr := rfl

@[simp] theorem climbShown_pending (s : State) : (climbShown s).pending = s.pending := rfl

@[simp] theorem climbShown_free (s : State) : (climbShown s).free = s.free := rfl

/-! ### Packets that leave -/

@[simp] theorem sendPacket_ao (p : Path) (type chan : Nat) (fields body : List Byte) (s : State) : (sendPacket p type chan fields body s).ao = s.ao := by cases p <;> simp [sendPacket]

@[simp] theorem sendPacket_pwr (p : Path) (type chan : Nat) (fields body : List Byte) (s : State) : (sendPacket p type chan fields body s).pwr = s.pwr := by cases p <;> simp [sendPacket]

@[simp] theorem sendPacket_ft (p : Path) (type chan : Nat) (fields body : List Byte) (s : State) : (sendPacket p type chan fields body s).ft = s.ft := by cases p <;> simp [sendPacket]

@[simp] theorem sendPacket_arr (p : Path) (type chan : Nat) (fields body : List Byte) (s : State) : (sendPacket p type chan fields body s).arr = s.arr := by cases p <;> simp [sendPacket]

@[simp] theorem sendPacket_map (p : Path) (type chan : Nat) (fields body : List Byte) (s : State) : (sendPacket p type chan fields body s).map = s.map := by cases p <;> simp [sendPacket]

@[simp] theorem sendPacket_diag (p : Path) (type chan : Nat) (fields body : List Byte) (s : State) : (sendPacket p type chan fields body s).diag = s.diag := by cases p <;> simp [sendPacket]

@[simp] theorem sendPacket_cmp (p : Path) (type chan : Nat) (fields body : List Byte) (s : State) : (sendPacket p type chan fields body s).cmp = s.cmp := by cases p <;> simp [sendPacket]

@[simp] theorem sendPacket_scl (p : Path) (type chan : Nat) (fields body : List Byte) (s : State) : (sendPacket p type chan fields body s).scl = s.scl := by cases p <;> simp [sendPacket]

@[simp] theorem sendPacket_chk (p : Path) (type chan : Nat) (fields body : List Byte) (s : State) : (sendPacket p type chan fields body s).chk = s.chk := by cases p <;> simp [sendPacket]

@[simp] theorem sendPacket_cmd (p : Path) (type chan : Nat) (fields body : List Byte) (s : State) : (sendPacket p type chan fields body s).cmd = s.cmd := by cases p <;> simp [sendPacket]

@[simp] theorem sendPacket_twn (p : Path) (type chan : Nat) (fields body : List Byte) (s : State) : (sendPacket p type chan fields body s).twn = s.twn := by cases p <;> simp [sendPacket]

@[simp] theorem sendPacket_mem (p : Path) (type chan : Nat) (fields body : List Byte) (s : State) : (sendPacket p type chan fields body s).mem = s.mem := by cases p <;> simp [sendPacket]

@[simp] theorem sendPacket_thm (p : Path) (type chan : Nat) (fields body : List Byte) (s : State) : (sendPacket p type chan fields body s).thm = s.thm := by cases p <;> simp [sendPacket]

@[simp] theorem sendPacket_flt (p : Path) (type chan : Nat) (fields body : List Byte) (s : State) : (sendPacket p type chan fields body s).flt = s.flt := by cases p <;> simp [sendPacket]

@[simp] theorem sendPacket_nvm (p : Path) (type chan : Nat) (fields body : List Byte) (s : State) : (sendPacket p type chan fields body s).nvm = s.nvm := by cases p <;> simp [sendPacket]

@[simp] theorem sendPacket_evr (p : Path) (type chan : Nat) (fields body : List Byte) (s : State) : (sendPacket p type chan fields body s).evr = s.evr := by cases p <;> simp [sendPacket]

@[simp] theorem sendPacket_pending (p : Path) (type chan : Nat) (fields body : List Byte) (s : State) : (sendPacket p type chan fields body s).pending = s.pending := by cases p <;> simp [sendPacket]

@[simp] theorem sendPacket_free (p : Path) (type chan : Nat) (fields body : List Byte) (s : State) : (sendPacket p type chan fields body s).free = s.free := by cases p <;> simp [sendPacket]

/-! ### A STATUS that is due -/

@[simp] theorem statusDue_ao (reason layer outcome : Nat) (s : State) : (statusDue reason layer outcome s).ao = s.ao := by unfold statusDue; split <;> rfl

@[simp] theorem statusDue_pwr (reason layer outcome : Nat) (s : State) : (statusDue reason layer outcome s).pwr = s.pwr := by unfold statusDue; split <;> rfl

@[simp] theorem statusDue_ft (reason layer outcome : Nat) (s : State) : (statusDue reason layer outcome s).ft = s.ft := by unfold statusDue; split <;> rfl

@[simp] theorem statusDue_arr (reason layer outcome : Nat) (s : State) : (statusDue reason layer outcome s).arr = s.arr := by unfold statusDue; split <;> rfl

@[simp] theorem statusDue_map (reason layer outcome : Nat) (s : State) : (statusDue reason layer outcome s).map = s.map := by unfold statusDue; split <;> rfl

@[simp] theorem statusDue_diag (reason layer outcome : Nat) (s : State) : (statusDue reason layer outcome s).diag = s.diag := by unfold statusDue; split <;> rfl

@[simp] theorem statusDue_cmp (reason layer outcome : Nat) (s : State) : (statusDue reason layer outcome s).cmp = s.cmp := by unfold statusDue; split <;> rfl

@[simp] theorem statusDue_scl (reason layer outcome : Nat) (s : State) : (statusDue reason layer outcome s).scl = s.scl := by unfold statusDue; split <;> rfl

@[simp] theorem statusDue_chk (reason layer outcome : Nat) (s : State) : (statusDue reason layer outcome s).chk = s.chk := by unfold statusDue; split <;> rfl

@[simp] theorem statusDue_lnk (reason layer outcome : Nat) (s : State) : (statusDue reason layer outcome s).lnk = s.lnk := by unfold statusDue; split <;> rfl

@[simp] theorem statusDue_cmd (reason layer outcome : Nat) (s : State) : (statusDue reason layer outcome s).cmd = s.cmd := by unfold statusDue; split <;> rfl

@[simp] theorem statusDue_twn (reason layer outcome : Nat) (s : State) : (statusDue reason layer outcome s).twn = s.twn := by unfold statusDue; split <;> rfl

@[simp] theorem statusDue_mem (reason layer outcome : Nat) (s : State) : (statusDue reason layer outcome s).mem = s.mem := by unfold statusDue; split <;> rfl

@[simp] theorem statusDue_thm (reason layer outcome : Nat) (s : State) : (statusDue reason layer outcome s).thm = s.thm := by unfold statusDue; split <;> rfl

@[simp] theorem statusDue_flt (reason layer outcome : Nat) (s : State) : (statusDue reason layer outcome s).flt = s.flt := by unfold statusDue; split <;> rfl

@[simp] theorem statusDue_nvm (reason layer outcome : Nat) (s : State) : (statusDue reason layer outcome s).nvm = s.nvm := by unfold statusDue; split <;> rfl

@[simp] theorem statusDue_evr (reason layer outcome : Nat) (s : State) : (statusDue reason layer outcome s).evr = s.evr := by unfold statusDue; split <;> rfl

@[simp] theorem statusDue_pending (reason layer outcome : Nat) (s : State) : (statusDue reason layer outcome s).pending = s.pending := by unfold statusDue; split <;> rfl

@[simp] theorem statusDue_free (reason layer outcome : Nat) (s : State) : (statusDue reason layer outcome s).free = s.free := by unfold statusDue; split <;> rfl

/-! ### Twin packets -/

@[simp] theorem sendTwin_ao (m : Nat) (b : List Byte) (s : State) : (sendTwin m b s).ao = s.ao := by unfold sendTwin; split <;> simp

@[simp] theorem sendTwin_pwr (m : Nat) (b : List Byte) (s : State) : (sendTwin m b s).pwr = s.pwr := by unfold sendTwin; split <;> simp

@[simp] theorem sendTwin_ft (m : Nat) (b : List Byte) (s : State) : (sendTwin m b s).ft = s.ft := by unfold sendTwin; split <;> simp

@[simp] theorem sendTwin_arr (m : Nat) (b : List Byte) (s : State) : (sendTwin m b s).arr = s.arr := by unfold sendTwin; split <;> simp

@[simp] theorem sendTwin_map (m : Nat) (b : List Byte) (s : State) : (sendTwin m b s).map = s.map := by unfold sendTwin; split <;> simp

@[simp] theorem sendTwin_diag (m : Nat) (b : List Byte) (s : State) : (sendTwin m b s).diag = s.diag := by unfold sendTwin; split <;> simp

@[simp] theorem sendTwin_cmp (m : Nat) (b : List Byte) (s : State) : (sendTwin m b s).cmp = s.cmp := by unfold sendTwin; split <;> simp

@[simp] theorem sendTwin_scl (m : Nat) (b : List Byte) (s : State) : (sendTwin m b s).scl = s.scl := by unfold sendTwin; split <;> simp

@[simp] theorem sendTwin_chk (m : Nat) (b : List Byte) (s : State) : (sendTwin m b s).chk = s.chk := by unfold sendTwin; split <;> simp

@[simp] theorem sendTwin_cmd (m : Nat) (b : List Byte) (s : State) : (sendTwin m b s).cmd = s.cmd := by unfold sendTwin; split <;> simp

@[simp] theorem sendTwin_mem (m : Nat) (b : List Byte) (s : State) : (sendTwin m b s).mem = s.mem := by unfold sendTwin; split <;> simp

@[simp] theorem sendTwin_thm (m : Nat) (b : List Byte) (s : State) : (sendTwin m b s).thm = s.thm := by unfold sendTwin; split <;> simp

@[simp] theorem sendTwin_flt (m : Nat) (b : List Byte) (s : State) : (sendTwin m b s).flt = s.flt := by unfold sendTwin; split <;> simp

@[simp] theorem sendTwin_nvm (m : Nat) (b : List Byte) (s : State) : (sendTwin m b s).nvm = s.nvm := by unfold sendTwin; split <;> simp

@[simp] theorem sendTwin_evr (m : Nat) (b : List Byte) (s : State) : (sendTwin m b s).evr = s.evr := by unfold sendTwin; split <;> simp

@[simp] theorem sendTwin_pending (m : Nat) (b : List Byte) (s : State) : (sendTwin m b s).pending = s.pending := by unfold sendTwin; split <;> simp

@[simp] theorem sendTwin_free (m : Nat) (b : List Byte) (s : State) : (sendTwin m b s).free = s.free := by unfold sendTwin; split <;> simp

/-! ### Requests for stores -/

@[simp] theorem queueStore_ao (n : StoreReq) (s : State) : (queueStore n s).ao = s.ao := by unfold queueStore; extract_lets; split <;> rfl

@[simp] theorem queueStore_pwr (n : StoreReq) (s : State) : (queueStore n s).pwr = s.pwr := by unfold queueStore; extract_lets; split <;> rfl

@[simp] theorem queueStore_ft (n : StoreReq) (s : State) : (queueStore n s).ft = s.ft := by unfold queueStore; extract_lets; split <;> rfl

@[simp] theorem queueStore_arr (n : StoreReq) (s : State) : (queueStore n s).arr = s.arr := by unfold queueStore; extract_lets; split <;> rfl

@[simp] theorem queueStore_map (n : StoreReq) (s : State) : (queueStore n s).map = s.map := by unfold queueStore; extract_lets; split <;> rfl

@[simp] theorem queueStore_diag (n : StoreReq) (s : State) : (queueStore n s).diag = s.diag := by unfold queueStore; extract_lets; split <;> rfl

@[simp] theorem queueStore_cmp (n : StoreReq) (s : State) : (queueStore n s).cmp = s.cmp := by unfold queueStore; extract_lets; split <;> rfl

@[simp] theorem queueStore_scl (n : StoreReq) (s : State) : (queueStore n s).scl = s.scl := by unfold queueStore; extract_lets; split <;> rfl

@[simp] theorem queueStore_chk (n : StoreReq) (s : State) : (queueStore n s).chk = s.chk := by unfold queueStore; extract_lets; split <;> rfl

@[simp] theorem queueStore_lnk (n : StoreReq) (s : State) : (queueStore n s).lnk = s.lnk := by unfold queueStore; extract_lets; split <;> rfl

@[simp] theorem queueStore_rope (n : StoreReq) (s : State) : (queueStore n s).rope = s.rope := by unfold queueStore; extract_lets; split <;> rfl

@[simp] theorem queueStore_cmd (n : StoreReq) (s : State) : (queueStore n s).cmd = s.cmd := by unfold queueStore; extract_lets; split <;> rfl

@[simp] theorem queueStore_twn (n : StoreReq) (s : State) : (queueStore n s).twn = s.twn := by unfold queueStore; extract_lets; split <;> rfl

@[simp] theorem queueStore_mem (n : StoreReq) (s : State) : (queueStore n s).mem = s.mem := by unfold queueStore; extract_lets; split <;> rfl

@[simp] theorem queueStore_thm (n : StoreReq) (s : State) : (queueStore n s).thm = s.thm := by unfold queueStore; extract_lets; split <;> rfl

@[simp] theorem queueStore_flt (n : StoreReq) (s : State) : (queueStore n s).flt = s.flt := by unfold queueStore; extract_lets; split <;> rfl

@[simp] theorem queueStore_evr (n : StoreReq) (s : State) : (queueStore n s).evr = s.evr := by unfold queueStore; extract_lets; split <;> rfl

@[simp] theorem queueStore_pending (n : StoreReq) (s : State) : (queueStore n s).pending = s.pending := by unfold queueStore; extract_lets; split <;> rfl

@[simp] theorem queueStore_free (n : StoreReq) (s : State) : (queueStore n s).free = s.free := by unfold queueStore; extract_lets; split <;> rfl

/-! ### Layers -/

@[simp] theorem modLayer_ao (n : Nat) (f : Layer → Layer) (s : State) : (modLayer n f s).ao = s.ao := rfl

@[simp] theorem modLayer_pwr (n : Nat) (f : Layer → Layer) (s : State) : (modLayer n f s).pwr = s.pwr := rfl

@[simp] theorem modLayer_ft (n : Nat) (f : Layer → Layer) (s : State) : (modLayer n f s).ft = s.ft := rfl

@[simp] theorem modLayer_arr (n : Nat) (f : Layer → Layer) (s : State) : (modLayer n f s).arr = s.arr := rfl

@[simp] theorem modLayer_map (n : Nat) (f : Layer → Layer) (s : State) : (modLayer n f s).map = s.map := rfl

@[simp] theorem modLayer_diag (n : Nat) (f : Layer → Layer) (s : State) : (modLayer n f s).diag = s.diag := rfl

@[simp] theorem modLayer_scl (n : Nat) (f : Layer → Layer) (s : State) : (modLayer n f s).scl = s.scl := rfl

@[simp] theorem modLayer_chk (n : Nat) (f : Layer → Layer) (s : State) : (modLayer n f s).chk = s.chk := rfl

@[simp] theorem modLayer_lnk (n : Nat) (f : Layer → Layer) (s : State) : (modLayer n f s).lnk = s.lnk := rfl

@[simp] theorem modLayer_rope (n : Nat) (f : Layer → Layer) (s : State) : (modLayer n f s).rope = s.rope := rfl

@[simp] theorem modLayer_cmd (n : Nat) (f : Layer → Layer) (s : State) : (modLayer n f s).cmd = s.cmd := rfl

@[simp] theorem modLayer_twn (n : Nat) (f : Layer → Layer) (s : State) : (modLayer n f s).twn = s.twn := rfl

@[simp] theorem modLayer_mem (n : Nat) (f : Layer → Layer) (s : State) : (modLayer n f s).mem = s.mem := rfl

@[simp] theorem modLayer_thm (n : Nat) (f : Layer → Layer) (s : State) : (modLayer n f s).thm = s.thm := rfl

@[simp] theorem modLayer_flt (n : Nat) (f : Layer → Layer) (s : State) : (modLayer n f s).flt = s.flt := rfl

@[simp] theorem modLayer_nvm (n : Nat) (f : Layer → Layer) (s : State) : (modLayer n f s).nvm = s.nvm := rfl

@[simp] theorem modLayer_evr (n : Nat) (f : Layer → Layer) (s : State) : (modLayer n f s).evr = s.evr := rfl

@[simp] theorem modLayer_pending (n : Nat) (f : Layer → Layer) (s : State) : (modLayer n f s).pending = s.pending := rfl

@[simp] theorem modLayer_free (n : Nat) (f : Layer → Layer) (s : State) : (modLayer n f s).free = s.free := rfl

@[simp] theorem modLayer_layers (n : Nat) (f : Layer → Layer) (s : State) : (modLayer n f s).cmp.layers = modNth s.cmp.layers n f := rfl

/-! ### Lanes -/

@[simp] theorem modLane_ao (l : Nat) (f : Lane → Lane) (s : State) : (modLane l f s).ao = s.ao := rfl

@[simp] theorem modLane_pwr (l : Nat) (f : Lane → Lane) (s : State) : (modLane l f s).pwr = s.pwr := rfl

@[simp] theorem modLane_ft (l : Nat) (f : Lane → Lane) (s : State) : (modLane l f s).ft = s.ft := rfl

@[simp] theorem modLane_arr (l : Nat) (f : Lane → Lane) (s : State) : (modLane l f s).arr = s.arr := rfl

@[simp] theorem modLane_map (l : Nat) (f : Lane → Lane) (s : State) : (modLane l f s).map = s.map := rfl

@[simp] theorem modLane_diag (l : Nat) (f : Lane → Lane) (s : State) : (modLane l f s).diag = s.diag := rfl

@[simp] theorem modLane_cmp (l : Nat) (f : Lane → Lane) (s : State) : (modLane l f s).cmp = s.cmp := rfl

@[simp] theorem modLane_scl (l : Nat) (f : Lane → Lane) (s : State) : (modLane l f s).scl = s.scl := rfl

@[simp] theorem modLane_chk (l : Nat) (f : Lane → Lane) (s : State) : (modLane l f s).chk = s.chk := rfl

@[simp] theorem modLane_rope (l : Nat) (f : Lane → Lane) (s : State) : (modLane l f s).rope = s.rope := rfl

@[simp] theorem modLane_cmd (l : Nat) (f : Lane → Lane) (s : State) : (modLane l f s).cmd = s.cmd := rfl

@[simp] theorem modLane_twn (l : Nat) (f : Lane → Lane) (s : State) : (modLane l f s).twn = s.twn := rfl

@[simp] theorem modLane_mem (l : Nat) (f : Lane → Lane) (s : State) : (modLane l f s).mem = s.mem := rfl

@[simp] theorem modLane_thm (l : Nat) (f : Lane → Lane) (s : State) : (modLane l f s).thm = s.thm := rfl

@[simp] theorem modLane_flt (l : Nat) (f : Lane → Lane) (s : State) : (modLane l f s).flt = s.flt := rfl

@[simp] theorem modLane_nvm (l : Nat) (f : Lane → Lane) (s : State) : (modLane l f s).nvm = s.nvm := rfl

@[simp] theorem modLane_evr (l : Nat) (f : Lane → Lane) (s : State) : (modLane l f s).evr = s.evr := rfl

@[simp] theorem modLane_pending (l : Nat) (f : Lane → Lane) (s : State) : (modLane l f s).pending = s.pending := rfl

@[simp] theorem modLane_free (l : Nat) (f : Lane → Lane) (s : State) : (modLane l f s).free = s.free := rfl

@[simp] theorem modLane_lanes (l : Nat) (f : Lane → Lane) (s : State) : (modLane l f s).lnk.lanes = modNth s.lnk.lanes l f := rfl

/-! ### Check-value units -/

@[simp] theorem modGu_ao (n : Nat) (f : Gu → Gu) (s : State) : (modGu n f s).ao = s.ao := rfl

@[simp] theorem modGu_pwr (n : Nat) (f : Gu → Gu) (s : State) : (modGu n f s).pwr = s.pwr := rfl

@[simp] theorem modGu_ft (n : Nat) (f : Gu → Gu) (s : State) : (modGu n f s).ft = s.ft := rfl

@[simp] theorem modGu_arr (n : Nat) (f : Gu → Gu) (s : State) : (modGu n f s).arr = s.arr := rfl

@[simp] theorem modGu_map (n : Nat) (f : Gu → Gu) (s : State) : (modGu n f s).map = s.map := rfl

@[simp] theorem modGu_diag (n : Nat) (f : Gu → Gu) (s : State) : (modGu n f s).diag = s.diag := rfl

@[simp] theorem modGu_cmp (n : Nat) (f : Gu → Gu) (s : State) : (modGu n f s).cmp = s.cmp := rfl

@[simp] theorem modGu_scl (n : Nat) (f : Gu → Gu) (s : State) : (modGu n f s).scl = s.scl := rfl

@[simp] theorem modGu_lnk (n : Nat) (f : Gu → Gu) (s : State) : (modGu n f s).lnk = s.lnk := rfl

@[simp] theorem modGu_rope (n : Nat) (f : Gu → Gu) (s : State) : (modGu n f s).rope = s.rope := rfl

@[simp] theorem modGu_cmd (n : Nat) (f : Gu → Gu) (s : State) : (modGu n f s).cmd = s.cmd := rfl

@[simp] theorem modGu_twn (n : Nat) (f : Gu → Gu) (s : State) : (modGu n f s).twn = s.twn := rfl

@[simp] theorem modGu_mem (n : Nat) (f : Gu → Gu) (s : State) : (modGu n f s).mem = s.mem := rfl

@[simp] theorem modGu_thm (n : Nat) (f : Gu → Gu) (s : State) : (modGu n f s).thm = s.thm := rfl

@[simp] theorem modGu_flt (n : Nat) (f : Gu → Gu) (s : State) : (modGu n f s).flt = s.flt := rfl

@[simp] theorem modGu_nvm (n : Nat) (f : Gu → Gu) (s : State) : (modGu n f s).nvm = s.nvm := rfl

@[simp] theorem modGu_evr (n : Nat) (f : Gu → Gu) (s : State) : (modGu n f s).evr = s.evr := rfl

@[simp] theorem modGu_pending (n : Nat) (f : Gu → Gu) (s : State) : (modGu n f s).pending = s.pending := rfl

@[simp] theorem modGu_free (n : Nat) (f : Gu → Gu) (s : State) : (modGu n f s).free = s.free := rfl

@[simp] theorem modGu_gus (n : Nat) (f : Gu → Gu) (s : State) : (modGu n f s).chk.gus = modNth s.chk.gus n f := rfl

/-! ### Signature regions -/

@[simp] theorem modSig_ao (r : Nat) (f : Sig → Sig) (s : State) : (modSig r f s).ao = s.ao := rfl

@[simp] theorem modSig_pwr (r : Nat) (f : Sig → Sig) (s : State) : (modSig r f s).pwr = s.pwr := rfl

@[simp] theorem modSig_ft (r : Nat) (f : Sig → Sig) (s : State) : (modSig r f s).ft = s.ft := rfl

@[simp] theorem modSig_arr (r : Nat) (f : Sig → Sig) (s : State) : (modSig r f s).arr = s.arr := rfl

@[simp] theorem modSig_map (r : Nat) (f : Sig → Sig) (s : State) : (modSig r f s).map = s.map := rfl

@[simp] theorem modSig_diag (r : Nat) (f : Sig → Sig) (s : State) : (modSig r f s).diag = s.diag := rfl

@[simp] theorem modSig_cmp (r : Nat) (f : Sig → Sig) (s : State) : (modSig r f s).cmp = s.cmp := rfl

@[simp] theorem modSig_scl (r : Nat) (f : Sig → Sig) (s : State) : (modSig r f s).scl = s.scl := rfl

@[simp] theorem modSig_lnk (r : Nat) (f : Sig → Sig) (s : State) : (modSig r f s).lnk = s.lnk := rfl

@[simp] theorem modSig_rope (r : Nat) (f : Sig → Sig) (s : State) : (modSig r f s).rope = s.rope := rfl

@[simp] theorem modSig_cmd (r : Nat) (f : Sig → Sig) (s : State) : (modSig r f s).cmd = s.cmd := rfl

@[simp] theorem modSig_twn (r : Nat) (f : Sig → Sig) (s : State) : (modSig r f s).twn = s.twn := rfl

@[simp] theorem modSig_mem (r : Nat) (f : Sig → Sig) (s : State) : (modSig r f s).mem = s.mem := rfl

@[simp] theorem modSig_thm (r : Nat) (f : Sig → Sig) (s : State) : (modSig r f s).thm = s.thm := rfl

@[simp] theorem modSig_flt (r : Nat) (f : Sig → Sig) (s : State) : (modSig r f s).flt = s.flt := rfl

@[simp] theorem modSig_nvm (r : Nat) (f : Sig → Sig) (s : State) : (modSig r f s).nvm = s.nvm := rfl

@[simp] theorem modSig_evr (r : Nat) (f : Sig → Sig) (s : State) : (modSig r f s).evr = s.evr := rfl

@[simp] theorem modSig_pending (r : Nat) (f : Sig → Sig) (s : State) : (modSig r f s).pending = s.pending := rfl

@[simp] theorem modSig_free (r : Nat) (f : Sig → Sig) (s : State) : (modSig r f s).free = s.free := rfl

@[simp] theorem modSig_sigs (r : Nat) (f : Sig → Sig) (s : State) : (modSig r f s).chk.sigs = modNth s.chk.sigs r f := rfl

/-! ### Banks -/

@[simp] theorem modBank_ao (b : Nat) (f : Bank → Bank) (s : State) : (modBank b f s).ao = s.ao := rfl

@[simp] theorem modBank_pwr (b : Nat) (f : Bank → Bank) (s : State) : (modBank b f s).pwr = s.pwr := rfl

@[simp] theorem modBank_ft (b : Nat) (f : Bank → Bank) (s : State) : (modBank b f s).ft = s.ft := rfl

@[simp] theorem modBank_arr (b : Nat) (f : Bank → Bank) (s : State) : (modBank b f s).arr = s.arr := rfl

@[simp] theorem modBank_map (b : Nat) (f : Bank → Bank) (s : State) : (modBank b f s).map = s.map := rfl

@[simp] theorem modBank_diag (b : Nat) (f : Bank → Bank) (s : State) : (modBank b f s).diag = s.diag := rfl

@[simp] theorem modBank_cmp (b : Nat) (f : Bank → Bank) (s : State) : (modBank b f s).cmp = s.cmp := rfl

@[simp] theorem modBank_scl (b : Nat) (f : Bank → Bank) (s : State) : (modBank b f s).scl = s.scl := rfl

@[simp] theorem modBank_chk (b : Nat) (f : Bank → Bank) (s : State) : (modBank b f s).chk = s.chk := rfl

@[simp] theorem modBank_lnk (b : Nat) (f : Bank → Bank) (s : State) : (modBank b f s).lnk = s.lnk := rfl

@[simp] theorem modBank_rope (b : Nat) (f : Bank → Bank) (s : State) : (modBank b f s).rope = s.rope := rfl

@[simp] theorem modBank_cmd (b : Nat) (f : Bank → Bank) (s : State) : (modBank b f s).cmd = s.cmd := rfl

@[simp] theorem modBank_twn (b : Nat) (f : Bank → Bank) (s : State) : (modBank b f s).twn = s.twn := rfl

@[simp] theorem modBank_thm (b : Nat) (f : Bank → Bank) (s : State) : (modBank b f s).thm = s.thm := rfl

@[simp] theorem modBank_flt (b : Nat) (f : Bank → Bank) (s : State) : (modBank b f s).flt = s.flt := rfl

@[simp] theorem modBank_nvm (b : Nat) (f : Bank → Bank) (s : State) : (modBank b f s).nvm = s.nvm := rfl

@[simp] theorem modBank_evr (b : Nat) (f : Bank → Bank) (s : State) : (modBank b f s).evr = s.evr := rfl

@[simp] theorem modBank_pending (b : Nat) (f : Bank → Bank) (s : State) : (modBank b f s).pending = s.pending := rfl

@[simp] theorem modBank_free (b : Nat) (f : Bank → Bank) (s : State) : (modBank b f s).free = s.free := rfl

@[simp] theorem modBank_banks (b : Nat) (f : Bank → Bank) (s : State) : (modBank b f s).mem.banks = modNth s.mem.banks b f := rfl

/-! ### Deferred stores -/

@[simp] theorem countDefers_ao (n : Nat) (s : State) : (countDefers n s).ao = s.ao := rfl

@[simp] theorem countDefers_pwr (n : Nat) (s : State) : (countDefers n s).pwr = s.pwr := rfl

@[simp] theorem countDefers_ft (n : Nat) (s : State) : (countDefers n s).ft = s.ft := rfl

@[simp] theorem countDefers_arr (n : Nat) (s : State) : (countDefers n s).arr = s.arr := rfl

@[simp] theorem countDefers_map (n : Nat) (s : State) : (countDefers n s).map = s.map := rfl

@[simp] theorem countDefers_diag (n : Nat) (s : State) : (countDefers n s).diag = s.diag := rfl

@[simp] theorem countDefers_cmp (n : Nat) (s : State) : (countDefers n s).cmp = s.cmp := rfl

@[simp] theorem countDefers_scl (n : Nat) (s : State) : (countDefers n s).scl = s.scl := rfl

@[simp] theorem countDefers_chk (n : Nat) (s : State) : (countDefers n s).chk = s.chk := rfl

@[simp] theorem countDefers_lnk (n : Nat) (s : State) : (countDefers n s).lnk = s.lnk := rfl

@[simp] theorem countDefers_rope (n : Nat) (s : State) : (countDefers n s).rope = s.rope := rfl

@[simp] theorem countDefers_cmd (n : Nat) (s : State) : (countDefers n s).cmd = s.cmd := rfl

@[simp] theorem countDefers_twn (n : Nat) (s : State) : (countDefers n s).twn = s.twn := rfl

@[simp] theorem countDefers_mem (n : Nat) (s : State) : (countDefers n s).mem = s.mem := rfl

@[simp] theorem countDefers_flt (n : Nat) (s : State) : (countDefers n s).flt = s.flt := rfl

@[simp] theorem countDefers_nvm (n : Nat) (s : State) : (countDefers n s).nvm = s.nvm := rfl

@[simp] theorem countDefers_evr (n : Nat) (s : State) : (countDefers n s).evr = s.evr := rfl

@[simp] theorem countDefers_pending (n : Nat) (s : State) : (countDefers n s).pending = s.pending := rfl

@[simp] theorem countDefers_free (n : Nat) (s : State) : (countDefers n s).free = s.free := rfl

/-! ### Units written to MRAM -/

@[simp] theorem countUnits_ao (n : Nat) (s : State) : (countUnits n s).ao = s.ao := rfl

@[simp] theorem countUnits_pwr (n : Nat) (s : State) : (countUnits n s).pwr = s.pwr := rfl

@[simp] theorem countUnits_ft (n : Nat) (s : State) : (countUnits n s).ft = s.ft := rfl

@[simp] theorem countUnits_arr (n : Nat) (s : State) : (countUnits n s).arr = s.arr := rfl

@[simp] theorem countUnits_map (n : Nat) (s : State) : (countUnits n s).map = s.map := rfl

@[simp] theorem countUnits_diag (n : Nat) (s : State) : (countUnits n s).diag = s.diag := rfl

@[simp] theorem countUnits_cmp (n : Nat) (s : State) : (countUnits n s).cmp = s.cmp := rfl

@[simp] theorem countUnits_scl (n : Nat) (s : State) : (countUnits n s).scl = s.scl := rfl

@[simp] theorem countUnits_chk (n : Nat) (s : State) : (countUnits n s).chk = s.chk := rfl

@[simp] theorem countUnits_lnk (n : Nat) (s : State) : (countUnits n s).lnk = s.lnk := rfl

@[simp] theorem countUnits_rope (n : Nat) (s : State) : (countUnits n s).rope = s.rope := rfl

@[simp] theorem countUnits_cmd (n : Nat) (s : State) : (countUnits n s).cmd = s.cmd := rfl

@[simp] theorem countUnits_twn (n : Nat) (s : State) : (countUnits n s).twn = s.twn := rfl

@[simp] theorem countUnits_mem (n : Nat) (s : State) : (countUnits n s).mem = s.mem := rfl

@[simp] theorem countUnits_thm (n : Nat) (s : State) : (countUnits n s).thm = s.thm := rfl

@[simp] theorem countUnits_flt (n : Nat) (s : State) : (countUnits n s).flt = s.flt := rfl

@[simp] theorem countUnits_pending (n : Nat) (s : State) : (countUnits n s).pending = s.pending := rfl

@[simp] theorem countUnits_free (n : Nat) (s : State) : (countUnits n s).free = s.free := rfl

/-! ### MRAM -/

@[simp] theorem mramWrite_ao (a : Nat) (b : List Byte) (s : State) : (mramWrite a b s).ao = s.ao := rfl

@[simp] theorem mramWrite_pwr (a : Nat) (b : List Byte) (s : State) : (mramWrite a b s).pwr = s.pwr := rfl

@[simp] theorem mramWrite_ft (a : Nat) (b : List Byte) (s : State) : (mramWrite a b s).ft = s.ft := rfl

@[simp] theorem mramWrite_arr (a : Nat) (b : List Byte) (s : State) : (mramWrite a b s).arr = s.arr := rfl

@[simp] theorem mramWrite_map (a : Nat) (b : List Byte) (s : State) : (mramWrite a b s).map = s.map := rfl

@[simp] theorem mramWrite_diag (a : Nat) (b : List Byte) (s : State) : (mramWrite a b s).diag = s.diag := rfl

@[simp] theorem mramWrite_cmp (a : Nat) (b : List Byte) (s : State) : (mramWrite a b s).cmp = s.cmp := rfl

@[simp] theorem mramWrite_scl (a : Nat) (b : List Byte) (s : State) : (mramWrite a b s).scl = s.scl := rfl

@[simp] theorem mramWrite_lnk (a : Nat) (b : List Byte) (s : State) : (mramWrite a b s).lnk = s.lnk := rfl

@[simp] theorem mramWrite_rope (a : Nat) (b : List Byte) (s : State) : (mramWrite a b s).rope = s.rope := rfl

@[simp] theorem mramWrite_cmd (a : Nat) (b : List Byte) (s : State) : (mramWrite a b s).cmd = s.cmd := rfl

@[simp] theorem mramWrite_twn (a : Nat) (b : List Byte) (s : State) : (mramWrite a b s).twn = s.twn := rfl

@[simp] theorem mramWrite_mem (a : Nat) (b : List Byte) (s : State) : (mramWrite a b s).mem = s.mem := rfl

@[simp] theorem mramWrite_thm (a : Nat) (b : List Byte) (s : State) : (mramWrite a b s).thm = s.thm := rfl

@[simp] theorem mramWrite_flt (a : Nat) (b : List Byte) (s : State) : (mramWrite a b s).flt = s.flt := rfl

@[simp] theorem mramWrite_evr (a : Nat) (b : List Byte) (s : State) : (mramWrite a b s).evr = s.evr := rfl

@[simp] theorem mramWrite_pending (a : Nat) (b : List Byte) (s : State) : (mramWrite a b s).pending = s.pending := rfl

@[simp] theorem mramWrite_free (a : Nat) (b : List Byte) (s : State) : (mramWrite a b s).free = s.free := rfl

@[simp] theorem mramWrite_mram (a : Nat) (b : List Byte) (s : State) : (mramWrite a b s).nvm.mram = memWrite s.nvm.mram a b := rfl

end Sys2Proof.Machine
end

