-- ==== Sys2Proof/Laws/Wire.lean ====
section
/-! SUPPORT. Laws of the wire: what is sent as symbols, sets and packets is what a receiver makes of it. -/

namespace Sys2Proof.Machine

/-- A symbol received without an error. -/
def sound (x : Sym) : RxSym := { sym := x, err := false }

/-- The symbols that the device sends: data, and the control symbols of the Rope link. -/
def sendable : Sym → Bool
  | .data _ => true
  | .ctl k => ropeControls.contains k
  | .bad => false

theorem receive_data_table :
    ([false, true].all fun p => (List.range 256).all fun b =>
      decide (rxSym p (dataGroup p b) = sound (.data (BitVec.ofNat 8 b)))) = true := by decide +kernel

theorem receive_control_table :
    ([false, true].all fun p => ropeControls.all fun k => decide (rxSym p (controlGroup p k) = sound (.ctl k))) = true := by
  decide +kernel

/-- A receiver at the sender's running disparity makes of a code group the symbol that was sent. -/
theorem rxSym_codeGroup {x : Sym} (p : Bool) (h : sendable x = true) : rxSym p (codeGroup p x) = sound x := by
  cases x with
  | data b =>
    have t := List.all_eq_true.mp receive_data_table p (by cases p <;> simp)
    have u := of_decide_eq_true (List.all_eq_true.mp t b.toNat (List.mem_range.mpr b.isLt))
    simpa [codeGroup] using u
  | ctl k =>
    have t := List.all_eq_true.mp receive_control_table p (by cases p <;> simp)
    exact of_decide_eq_true (List.all_eq_true.mp t k (by simpa [sendable] using h))
  | bad => simp [sendable] at h

/-- Reception undoes sending, and both keep the same running disparity (R193). -/
theorem receiveGroups_sendGroups {l : List Sym} (p : Bool) (h : l.all sendable = true) :
    receiveGroups p (sendGroups p l).1 = (l.map sound, (sendGroups p l).2) := by
  induction l generalizing p with
  | nil => rfl
  | cons x t ih =>
    rw [List.all_cons, Bool.and_eq_true] at h
    simp only [sendGroups, receiveGroups, ih _ h.2, rxSym_codeGroup p h.1, List.map_cons]

@[simp] theorem byteOf_sound_data (b : Byte) : byteOf (sound (.data b)) = some b := rfl

/-- Data symbols give their bytes. -/
@[simp] theorem bytesOf_dataSyms (b : List Byte) : bytesOf ((dataSyms b).map sound) = some b := by
  induction b with
  | nil => rfl
  | cons x t ih =>
    simp only [dataSyms, List.map_cons, bytesOf, byteOf_sound_data] at ih ⊢
    rw [ih]

@[simp] theorem dataSyms_length (b : List Byte) : (dataSyms b).length = b.length := by simp [dataSyms]

theorem dataSyms_append (a b : List Byte) : dataSyms (a ++ b) = dataSyms a ++ dataSyms b := by simp [dataSyms]

theorem dataSyms_sendable (b : List Byte) : (dataSyms b).all sendable = true := by simp [dataSyms, sendable]

theorem crc16_lt (b : List Byte) : crc16 b < 2 ^ 16 := by
  unfold crc16 crcOut
  exact Nat.mod_lt _ (by decide)

/-- An ordered set is valid as it is sent (R200). -/
theorem setBytes_orderedSet {b : List Byte} (n : b.length = 13) :
    setBytes (field b 0 1) ((orderedSet b).map sound) = some (b ++ le 2 (crc16 b)) := by
  have c : field (b ++ le 2 (crc16 b)) 13 2 = crc16 b := by
    have := field_mid b [] 2 (crc16 b) 13 n
    rw [List.append_nil] at this
    rw [this]
    exact Nat.mod_eq_of_lt (crc16_lt b)
  have e : (b ++ le 2 (crc16 b)).take 13 = b := by rw [List.take_append_of_le_length (by omega), ← n, List.take_length]
  have f : field (b ++ le 2 (crc16 b)) 0 1 = field b 0 1 := by
    unfold field slice
    simp only [List.drop_zero]
    rw [List.take_append_of_le_length (by omega)]
  have g : ((dataSyms (b ++ le 2 (crc16 b))).map sound).any (·.err) = false := by simp [sound]
  simp only [orderedSet, List.map_cons, setBytes, g, bytesOf_dataSyms, c, e, f]
  simp [sound, le_length, n]

/-- A header has 15 bytes after its SOP. -/
@[simp] theorem headerBytes_length (type chan : Nat) (fields : List Byte) (len : Nat) : (headerBytes type chan fields len).length = 15 := by
  simp only [headerBytes, slice, List.length_append, le_length, List.length_take, List.length_drop, List.length_replicate]
  omega

/-- The header of a packet passes its check as it is sent (R222). -/
theorem goodHeader_headerBytes (type chan len : Nat) (fields : List Byte) (t : List RxSym) :
    goodHeader ((dataSyms (headerBytes type chan fields len)).map sound ++ t) = some (headerBytes type chan fields len) := by
  have n := headerBytes_length type chan fields len
  have e : ((dataSyms (headerBytes type chan fields len)).map sound ++ t).take 15 = (dataSyms (headerBytes type chan fields len)).map sound := by
    rw [List.take_append_of_le_length (by simp [n]), List.take_of_length_le (by simp [n])]
  generalize hb : headerBytes type chan fields len = b at *
  obtain ⟨h, hl, rfl⟩ : ∃ h : List Byte, h.length = 13 ∧ b = h ++ le 2 (crc16 h) :=
    ⟨le 1 type ++ le 1 chan ++ le 1 0 ++ le 2 len ++ slice fields 0 8, by
      simp only [← hb, headerBytes, List.length_append, le_length] at n ⊢; omega, hb.symm⟩
  have c : field (h ++ le 2 (crc16 h)) 13 2 = crc16 h := by
    have := field_mid h [] 2 (crc16 h) 13 hl
    rw [List.append_nil] at this
    rw [this]
    exact Nat.mod_eq_of_lt (crc16_lt h)
  have d : (h ++ le 2 (crc16 h)).take 13 = h := by rw [List.take_append_of_le_length (by omega), ← hl, List.take_length]
  simp [goodHeader, e, c, d, n]

/-- LENGTH of a header is the length that it was made for, modulo 2^16. -/
theorem hdrLen_headerBytes (type chan len : Nat) (fields : List Byte) : hdrLen (headerBytes type chan fields len) = len % 2 ^ 16 := by
  have := field_mid (le 1 type ++ le 1 chan ++ le 1 0) (slice fields 0 8 ++ le 2 (crc16 (le 1 type ++ le 1 chan ++ le 1 0 ++ le 2 len ++ slice fields 0 8)))
    2 len 3 (by simp)
  rw [show 2 ^ 16 = 256 ^ 2 from rfl]
  simpa only [hdrLen, headerBytes, List.append_assoc] using this

/-- The body of a packet is taken byte by byte (R224). -/
theorem takeBody_body (m k : Nat) (b : List Byte) (t : List RxSym) (r : Rx) :
    takeBody m k b.length ((dataSyms b).map sound ++ t) r = takeBody m (k + b.length) 0 t { r with body := b.reverse ++ r.body } := by
  induction b generalizing k r with
  | nil => rfl
  | cons x b ih =>
    have := ih (k + 1) { r with body := x :: r.body }
    simpa [dataSyms, sound, takeBody, Nat.add_assoc, Nat.add_comm 1] using this

/-- PAD fills a packet up to the end of its last column. -/
theorem pad_fills {M n : Nat} (h : 0 < M) : n % M + (M - (n + 1) % M) % M < M := by
  obtain ⟨q, r, e, a⟩ : ∃ q r, n = r + q * M ∧ r < M := ⟨n / M, n % M, by rw [Nat.add_comm, Nat.div_add_mod'], Nat.mod_lt n h⟩
  subst e
  rw [Nat.add_mul_mod_self_right, Nat.mod_eq_of_lt a]
  by_cases c : r + 1 = M
  · rw [show r + q * M + 1 = (q + 1) * M by rw [Nat.succ_mul]; omega, Nat.mul_mod_left, Nat.sub_zero, Nat.mod_self]
    omega
  · rw [show r + q * M + 1 = r + 1 + q * M by omega, Nat.add_mul_mod_self_right, Nat.mod_eq_of_lt (a := r + 1) (by omega),
      Nat.mod_eq_of_lt (by omega)]
    omega

/-- A packet is received whole, as it was sent, from the columns that hold it (R219, R222, R224). -/
theorem assemble_packetSyms {m type chan : Nat} {fields body : List Byte} (h : 0 < m) (l : body.length < 2 ^ 16) :
    assemble m ((packetSyms m type chan fields body).map sound) =
      { hdr := headerBytes type chan fields body.length, body, out := .whole } := by
  have p := pad_fills (M := 4 * m) (n := 16 + body.length) (by omega)
  have g := goodHeader_headerBytes type chan body.length fields
  have n := hdrLen_headerBytes type chan body.length fields
  rw [Nat.mod_eq_of_lt l] at n
  generalize hp : List.replicate ((4 * m - (16 + body.length + 1) % (4 * m)) % (4 * m)) (Sym.ctl 0xF7) = pads at *
  have q : pads.length = (4 * m - (16 + body.length + 1) % (4 * m)) % (4 * m) := by rw [← hp, List.length_replicate]
  have shape : (packetSyms m type chan fields body).map sound = sound (.ctl 0xFB) ::
      ((dataSyms (headerBytes type chan fields body.length)).map sound ++ ((dataSyms body).map sound ++
        (sound (.ctl 0xFD) :: pads.map sound))) := by
    rw [← hp]
    simp only [packetSyms, dataSyms_append, List.cons_append, List.append_assoc, List.map_cons, List.map_append, List.nil_append,
      List.length_cons, List.length_append, List.length_nil, dataSyms_length, headerBytes_length]
    rw [show 15 + (body.length + (0 + 1)) + 1 = 16 + body.length + 1 by omega]
  have start : ∀ t, fromStart m 0 (sound (.ctl 0xFB) :: t) = (0, sound (.ctl 0xFB) :: t) := by
    intro t
    simp [fromStart, startAt, sound]
  have drop : ((dataSyms (headerBytes type chan fields body.length)).map sound ++ ((dataSyms body).map sound ++
      (sound (.ctl 0xFD) :: pads.map sound))).drop 15 = (dataSyms body).map sound ++ (sound (.ctl 0xFD) :: pads.map sound) := by
    rw [List.drop_append_of_le_length (by simp), List.drop_of_length_le (by simp), List.nil_append]
  simp only [shape, assemble, start, g, n, drop, takeBody_body, misplacedIn, List.take_zero, List.append_nil]
  unfold takeBody
  simp [sound, q, p]

/-! ### Rows that bring columns -/

/-- Unpowered lanes, or columns of another kind: nothing happens. -/
theorem onPacket_idle {p : Path} {cols : List (List LaneWord)} {kind : Rx → Bool} {act : Rx → State → State} {s : State}
    (h : lanesUp s = false ∨ kind (rxOf p cols s) = false) : onPacket p cols kind act s = s := by
  rcases h with h | h <;> simp [onPacket, h]

/-- The packet is taken when the path is up; otherwise the lanes alone take the columns (R229). -/
theorem onPacket_run {p : Path} {cols : List (List LaneWord)} {kind : Rx → Bool} {act : Rx → State → State} {s : State}
    (up : lanesUp s = true) (h : kind (rxOf p cols s) = true) :
    onPacket p cols kind act s =
      if (pathOf (takeColumns p cols s) p).up then
        act (rxOf p cols s) (forwardPacket p (rxOf p cols s) (keepRest p (rxOf p cols s) (takeColumns p cols s)))
      else takeColumns p cols s := by
  simp [onPacket, up, h]

end Sys2Proof.Machine
end

