-- ==== Sys2Proof/Tests/Slice0.lean ====
section
/-! SUPPORT. Tests: the check of well-formedness refuses, published check values, single commands on small states, and for every
statement of the certificate a witness of its hypotheses. -/

namespace Sys2Proof.Tests

/- One proof after another: many proofs at once would each wait in a thread of its own. -/
set_option Elab.async false

open Sys2Proof Sys2Proof.Machine

/-! ### Small states -/

/-- The state a meaning answers. -/
def tOf (r : Res) : State := match r with | .next t => t | _ => State.reset

/-- A booted device in BEAM: out of reset, Limral ready, KINDLE over. -/
def up : State := { State.reset with
  pwr := { State.reset.pwr with
    inReset := false, limral := true, mode := .beam, ldoOk := true, pllOk := true, biasOn := true, biasSettled := true, bistDone := true
    kindleStep := 15, workDone := true }
  ft := { State.reset.ft with running := true }
  evr := { State.reset.evr with state := 0, scanDone := true, lifeLoaded := true }
  thm := { State.reset.thm with nvmOpen := true }
  arr := { State.reset.arr with sinkEn := true } }

/-- A state in another mode. -/
def inMode (m : Mode) (s : State) : State := { s with pwr := { s.pwr with mode := m } }

/-- A request of the SPI source. -/
def mk (p : List Byte) : Rq := { src := .spi, tag := 7, payload := p }

/-- A request header of the SPI source. -/
def hd : Hdr := { src := .spi, tag := 7 }

/-- A lane replaced. -/
def onLane (l : Nat) (x : Lane) (s : State) : State := { s with lnk := { s.lnk with lanes := s.lnk.lanes.set l x } }

/-- An event of level SNUFF. -/
def ev0 : RawEvent := { code := 0x0501, level := 4, p0 := 1, p1 := 2, p2 := 3, p3 := 4 }

/-- A failed self-test. -/
def bf0 : BistFail := { block := 3, unit := 1, addr := 2, step := 3, units := 1 }

/-- A scan of a sound pixel. -/
def sc0 : PixScan := { c1 := 500, c2 := 500, c3 := 500, vf := 500, n1 := false, n2 := false, n3 := false, nvf := false, leak := false }

/-- A calibration measurement. -/
def meas0 : CalMeas := { sinkOfs := { dflt := 0, cells := [] }, scan := { dflt := sc0, cells := [] }, wickFail := [], sens := List.replicate 36 200, vledMv := 5000 }

/-- A device asleep in S1 with its timer armed. -/
def asl : State := { up with pwr := { up.pwr with mode := .dormant, entryStep := 15, limral := false }, ao := { up.ao with sleepState := 1, timerArmed := true, i2cAddr := 0x58 } }

/-- The booted device, locked. -/
def lkd : State := { up with cmd := { up.cmd with locked := true } }

/-- A sleep entry at step k. -/
def sl (k : Nat) (s : State) : State := { s with pwr := { s.pwr with active := some { sleep := true, timeMs := 5000, handle := 4, src := .spi }, chosen := 2, entryStep := k }, cmd := { s.cmd with outstanding := [4] } }

/-- KINDLE at step k. -/
def kin (k : Nat) : State := { up with pwr := { up.pwr with mode := .kindle, kindleStep := k, workDone := false } }

/-- Out of reset, before the supplies regulate. -/
def boot : State := { State.reset with pwr := { State.reset.pwr with inReset := false } }

/-- A device asleep in S2. -/
def s2 : State := { asl with ao := { asl.ao with sleepState := 2, seconds := 50, sleepStart := 10 } }

/-- Some pixels shine. -/
def lit (s : State) : State := { s with arr := { s.arr with shadow := [(0, List.replicate 9 0x4FF)], active := [(0, List.replicate 7 0x4FF)] } }

/-- A compose runs. -/
def cmpg (s : State) : State := { s with scl := { s.scl with comp := { s.scl.comp with running := true, frame := 5 } } }

/-- A paired device whose twin is PRESENT. -/
def prd (s : State) : State := { s with twn := { s.twn with state := 2, cfg := { s.twn.cfg with role := 1 } } }

/-- Both paths are up. -/
def upPath (s : State) : State := { s with rope := { s.rope with host := { s.rope.host with up := true }, twin := { s.rope.twin with up := true } } }

/-- A layer replaced. -/
def lay (n : Nat) (l : Layer) (s : State) : State := { s with cmp := { s.cmp with layers := s.cmp.layers.set n l } }

/-- The bytes of a request. -/
def rqB (op alive : Nat) (p : List Byte) : List Byte := let b := [0xA5, BitVec.ofNat 8 op, 7, BitVec.ofNat 8 (alive * 16)] ++ le 2 p.length ++ le 2 0 ++ p; b ++ le 4 (crc32c b)

/-- Bytes with their CRC-32C. -/
def rawB (b : List Byte) : List Byte := b ++ le 4 (crc32c b)

/-- A bank replaced. -/
def bnk (n : Nat) (k : Bank) (s : State) : State := { s with mem := { s.mem with banks := s.mem.banks.set n k } }

/-- A layer of two short lines. -/
def frm : Layer := { en := true, cfg := { format := 1, srcW := 16, srcH := 2, stride := 16, buf0 := 0x100, buf1 := 0x400 } }

/-- A twin in a state, its path up. -/
def tw (st : Nat) (s : State) : State := let s := upPath (prd s); { s with twn := { s.twn with state := st } }

/-- The write window is open. -/
def opn (s : State) : State := { s with thm := { s.thm with nvmOpen := true } }

/-- A class replaced. -/
def cls (c : Nat) (k : ClassState) (s : State) : State := { s with flt := { s.flt with classes := s.flt.classes.set c k } }

/-- The thermal shutdown is present at a temperature. -/
def hot (t : Int) (s : State) : State := { s with thm := { s.thm with tS := t }, flt := { s.flt with conds := [{ code := 0x0701, level := 4 }] } }

/-- A trip record waits. -/
def trip : State := { up with thm := { up.thm with tripRec := some { code := 0x701, level := 4, p0 := 9 } } }

/-- Its write runs. -/
def trip1 : State := tOf (exec .scarRecordWrite trip)

/-- Its cell stands. -/
def trip2 : State := tOf (exec .scarWriteComplete trip1)

/-- A LAYER_CONFIG payload. -/
def lcfg : List Byte := [5,0,1,1,0,255,0,0] ++ le 2 1 ++ [3,0] ++ le 2 16 ++ le 2 4 ++ le 2 0 ++ le 2 0 ++ le 2 16 ++ le 2 4 ++ le 4 0x1000 ++ le 4 0x2000 ++ le 2 16 ++ List.replicate 6 0

/-- A SIGNATURE_REGION payload. -/
def sigp : List Byte := [3,0,0,1,2,1,0xFF,0] ++ le 2 0 ++ le 2 0 ++ le 2 1439 ++ le 2 719 ++ le 4 7 ++ le 4 0

/-- The state a meaning answers, before its own reply is put. -/
def tAns (r : Res) (s : State) : State :=
  match r with
  | .next t => { t with cmd := { t.cmd with spi := { t.cmd.spi with stored := s.cmd.spi.stored }, spiReply := s.cmd.spiReply }, mem := { t.mem with assigning := none } }
  | _ => State.reset

/-- Addresses at the edges of the common store. -/
def addrs : List Nat := List.range 300 ++ (List.range 160).map (· * 52428) ++ [0x5A0000, 0x5FFFF8, 0x5FFFF7, 0x600000]

/-- The payload of the reply an answer stores. -/
def repP (r : Res) : List Byte := let b := (tOf r).cmd.spiReply.getD []; slice b 8 (field b 4 2)

/-- No droop table. -/
def droopT : List Byte := []

/-- An ordered set on one lane. -/
def wset (pos : Bool) (b : List Byte) : List LaneWord := (columnsOf [pos] (orderedSet b)).flatten

/-- The bytes of an ANCHOR set. -/
def anch (rate flags ackRate seq : Nat) : List Byte := [0xA7, 0] ++ le 1 rate ++ le 1 flags ++ le 1 ackRate ++ le 1 seq ++ [0, 0xB5, 0x4A, 0xB5, 0x4A, 0xB5, 0x4A]

/-- The bytes of a CLIMB set. -/
def climb (states targets bond rate : Nat) : List Byte := [0xC3] ++ le 2 states ++ le 2 targets ++ le 1 bond ++ [0, 7] ++ le 1 rate ++ le 4 0

/-- The next bit a lane's checker expects. -/
def prbsNext (x : Lane) : Bool := x.prbsReg.testBit ((prbsTaps x.mode).1 - 1) != x.prbsReg.testBit ((prbsTaps x.mode).2 - 1)

/-- The next bits a lane's checker expects. -/
def prbsLine : Lane → Nat → List Bool
  | _, 0 => []
  | x, n + 1 => prbsNext x :: prbsLine (prbsBit x (prbsNext x)) n

/-- Both paths are up, the bond holds a mask. -/
def hp (m : Nat) (s : State) : State := let s := upPath s; { s with lnk := { s.lnk with bondMask := m } }

/-- The columns of a packet. -/
def pk (k type chan : Nat) (fields body : List Byte) : List (List LaneWord) := columnsOf (List.replicate k false) (packetSyms k type chan fields body)

/-- The columns of a sequence of symbols. -/
def rawCols (k : Nat) (l : List Sym) : List (List LaneWord) := columnsOf (List.replicate k false) (l ++ List.replicate ((4 * k - l.length % (4 * k)) % (4 * k)) (.ctl 0xF7))

/-- The queue of requests replaced. -/
def cmdQ (q : List Waiting) (s : State) : State := { s with cmd := { s.cmd with queue := q } }

/-- A device held in a KINDLE that failed. -/
def boot2 : State := { up with pwr := { up.pwr with mode := .kindle, dead := true } }

/-- A column damaged. -/
def hurt (c : Nat) (cols : List (List LaneWord)) : List (List LaneWord) :=
  (List.range cols.length).map fun i => if i = c then (cols.getD i []).map (fun w => { w with g3 := 0 }) else cols.getD i []

/-- The first 13 bytes of a packet's header. -/
def hdr13 (type chan : Nat) (fields : List Byte) (len : Nat) : List Byte := (headerBytes type chan fields len).take 13

/-- A data symbol. -/
def okSym (b : Byte) : RxSym := { sym := .data b, err := false }

/-- A packet ended by another symbol. -/
def cutCols (k type chan : Nat) (fields body : List Byte) (len : Nat) (e : Sym) : List (List LaneWord) :=
  rawCols k (.ctl 0xFB :: dataSyms (headerBytes type chan fields len ++ body) ++ [e])

/-- A packet whose header is too short. -/
def badCols (k type chan : Nat) : List (List LaneWord) := rawCols k (.ctl 0xFB :: dataSyms (hdr13 type chan [] 0 ++ [1, 2]) ++ [.ctl 0xFD])

/-- A device that forwards over a trained twin link. -/
def fwd1 (m : Nat) (s : State) : State := let s := onLane 4 { state := .trained } (prd (hp 1 s)); { s with lnk := { s.lnk with twEn := true }, twn := { s.twn with cfg := { s.twn.cfg with fwdMask := m } } }

/-- The columns of a twin packet. -/
def tmsg (b : List Byte) : List (List LaneWord) := pk 1 0x20 0 [] (b ++ le 4 (crc32 b))

/-- A running device in reset. -/
def boot3 : State := { up with pwr := { up.pwr with inReset := true } }

/-- A sleep entry past the point of no return. -/
def pastR : State := let s := inMode .dormant up; { s with ao := { s.ao with sleepState := 0 }, pwr := { s.pwr with entryStep := 5, active := some { sleep := true, timeMs := 500, handle := 4, src := .spi } } }

/-- A word of zeros. -/
def word0 : LaneWord := { g0 := 0, g1 := 0, g2 := 0, g3 := 0 }

/-- An armed flip group. -/
def arm0 : Arm := { mask := 0, handle := 0, src := .spi }

/-- The first slot of a frame. -/
def slot0 : SlotPos := { cycle := 0, phase := 0 }

/-- A test of pixel 0. -/
def test0 : PixTest := { pix := 0, testing := true }

/-- No comparator flag. -/
def flags0 : PixFlags := { pix := 0, noi := false, hvd := false, hdl := false }

/-- A request to the store. -/
def claim0 : Claim := { m := 0, addr := 0, op := .read 1, age := 0 }

/-- Layers of a moderate fault level, checked one by one. -/
theorem mild_of {s : State}
    (h : (s.cmp.layers.all fun l => decide (l.cfg.faultLevel < 4) && (l.pend.all fun c => decide (c.faultLevel < 4))) = true) : mildLayers s := by
  intro l hl
  have h1 := List.all_eq_true.mp h l hl
  rw [Bool.and_eq_true] at h1
  refine ⟨of_decide_eq_true h1.1, fun c hc => ?_⟩
  have h2 := h1.2
  rw [hc] at h2
  exact of_decide_eq_true h2

/-! ### Ill-formed commands -/

/-- A word whose first symbol has more than 10 bits. -/
def wide : LaneWord := { g0 := 1024, g1 := 0, g2 := 0, g3 := 0 }

/-- What an equaliser reaches. -/
def eq0 : EqResult := { heights := [3, 4, 9, 4, 3], taps := [0, 0, 0, 0, 0], eyeH := 9, eyeW := 9 }

/-- One ill-formed term for each check of `Instr.wellFormed` on units and shapes. -/
def illFormed : List Instr :=
  [.powerOn true false false [0x100000] [], .powerOn true false false [] [128], .arrayBiasSettled { meas0 with sens := [] },
   .bistComplete (some { bf0 with block := 7 }), .nvmLoadComplete { meas0 with wickFail := [259200] }, .engineNextTile 24 none none,
   .tileRetired 24 0 0, .sigReadbackTile 450 [], .sigReadbackTile 0 [(1036800, 0)], .sigReadbackTile 0 [(0, 2 ^ 20)],
   .mapperFlushPoint 0 [0, 0, 0] [], .mapperFlushPoint 0 [0, 0, 0, 0] [{ engine := 24, busy := 0, stall := 0, passes := 0 }],
   .frameLatch [{ pix := 1036800, noi := false, hvd := false, hdl := false }] 0 0 false, .diagVerdictsFinal [1036800],
   .slotStart [{ pix := 1036800, noi := false, hvd := false, hdl := false }] none, .calibrateFullMeasure { meas0 with sens := [] } 0,
   .calibrateSensors (mk []) [], .handoverComplete 64, .guFeed hd 8 0, .guRestart hd 8 0, .guCapture hd 8 0, .bankUseWrite hd 64 0,
   .laneTestMode hd 5 0, .laneMissionMode hd 5 0, .rawCapture hd 5 0 [], .losAssert 5, .losDeassert 5 true, .backoffExpiry 5, .anchorReceived 5 [],
   .anchorReceived 0 [], .cdrLock 5, .laneAligned 5 0, .laneAligned 0 40, .alignmentLost 5, .adaptComplete 5 eq0 0,
   .adaptComplete 0 { eq0 with taps := [] } 0, .attemptTimeout { lane := 5, lostMs := false }, .bondMarker [{ lane := 4, set := [], delay := 0, ms := 0 }], .relockEntry 5 0 0,
   .relockComplete 5 true, .relockTimeout 5, .backBufferReady 6, .fenceTimeout 6, .storeAccessGrant 64 0 [] [], .requestEscalation 64 0 [],
   .requestEscalation 0 28 [], .scrubRead 64 .clean, .thermalSample [], .ntcConversion 4096, .collateralWindowClose 6, .engineParity 24 0,
   .coreUv 4 0, .pllUnlock 3]

/-- Operands that no rule gives a value, of commands whose units exist. -/
def oddOperands : List Instr :=
  [.commandPacket .host [[wide]], .twinInfoReply [[wide]], .rawCapture hd 0 (2 ^ 40) [], .climbReceived [wide, wide, wide, wide] 0,
   .frameStart .host [[wide]], .lineData .host [[wide]] 0 [], .frameEnd .host [[wide]], .packetDiscard .host [[wide]] 0,
   .syncWordReceived wide false 0, .heartbeatReceived [[wide]] 0, .snuffMessageReceived [[wide]], .recordReceived [[wide]], .i2cAddressMatch 128]

/-- The check refuses every one of them. -/
theorem test_illFormed_refused : (illFormed ++ oddOperands).all (fun c => !c.wellFormed) = true := by decide +kernel

/-- Each that names a unit that does not exist stops, with the one fault. -/
theorem test_illFormed_faults :
    illFormed.all (fun c => match exec c up with | .fault .noSuchUnit => true | _ => false) = true := by decide +kernel

/-! ### Check values (R173) and the worked example of chapter 08 -/

/-- CRC-32C, CRC-32 and CRC-16/CCITT-FALSE over the nine bytes "123456789" (R173). -/
theorem test_check_values :
    crc32c (ascii "123456789") = 0xE3069283 ∧ crc32 (ascii "123456789") = 0xCBF43926 ∧ crc16 (ascii "123456789") = 0x29B1 := by
  decide +kernel

/-- CRC-32/MPEG-2, the general unit of the worked example of chapter 08. -/
theorem test_general_unit :
    crcOut 32 false 0 (crcRun 32 0x04C11DB7 false 0xFFFFFFFF (ascii "123456789")) = 0x0376E6E7 := by decide +kernel

/-! ### The worked examples of the chapters -/

/-- SET_MODE of chapter 11: opcode, tag, ALIVE 3, TARGET BEAM, 16 bytes. -/
def setModeBytes : List Byte := rawB [0xA5, 0x10, 0x2C, 0x30, 4, 0, 0, 0, 2, 0, 0, 0]

/-- The request is well framed and carries ALIVE 3; it is a repeat where the reference is 3 and none where it is 2 (chapter 11). -/
theorem test_setMode_frame :
    packetGood setModeBytes = true ∧ aliveOf setModeBytes = 3 ∧ isRepeat setModeBytes { ref := 3, valid := true } = true ∧
    isRepeat setModeBytes { ref := 2, valid := true } = false := by decide +kernel

/-- The first eight bytes of the ACCEPTED reply with handle 7 (chapter 11). -/
theorem test_setMode_reply :
    (replyBytes 0x10 0x2C { status := stAccepted, handle := 7 }).take 8 = [0x5A, 0x10, 0x2C, 1, 0, 0, 7, 0] := by decide +kernel

/-- The completion entry of SET_MODE BEAM (chapter 11). -/
theorem test_setMode_entry :
    entryBytes { handle := 7, opcode := 0x10, status := 0, source := 0, r0 := 2, r1 := 1523 } =
      [7, 0, 0x10, 0, 0, 0, 0, 0, 2, 0, 0, 0, 0xF3, 5, 0, 0] := by decide +kernel

/-- The status byte with a reply ready in PILOT (chapter 11). -/
theorem test_status_byte :
    statusByte { inMode .pilot up with cmd := { up.cmd with spiReply := some [0] } } = 0x31 := by decide +kernel

/-- The governor of chapters 03, 14 and 19. -/
theorem test_governor :
    grefOf 11900000000 12000 14 = 225 ∧ grefOf 11000000000 12000 15 = 256 ∧ grefOf 11000000000 12000 14 = 244 ∧
    grefOf 11000000000 12000 13 = 226 ∧ grefOf 11000000000 12000 12 = 209 ∧ grefOf 36290000000 12000 16 = 84 := by decide +kernel

/-- The droop table entries of chapter 04. -/
def droop04 : Droop := { step := 54000000, gains := ((List.replicate 65 0x8000).set 30 35389).set 31 35553 }

/-- The mapper of chapter 04: lift, wear gain, target, span, width and drive word. -/
theorem test_mapper :
    liftOf (fun p => if p = 1440 * 300 + 700 then 24000 else 20000) (fun p => p = 1440 * 300 + 700) (1440 * 301 + 700) = 5000 ∧
    blockGain (some droop04) 1647000000 = 35471 ∧ quantaOf 25000 0x8000 35471 = 54112 ∧ spanWidth 54112 = (2, 3382) ∧
    (mapPixel (fun p => if p = 1440 * 300 + 700 then 24000 else 20000) (fun p => p = 1440 * 300 + 700) true 0x8000 35471 16
      (1440 * 301 + 700)).word = 0x2D36 := by decide +kernel

/-- Gathering at 240 Hz with GAIN 0.5 for the codes 1, 2, 5, 9 and 20, and code 1 at 120 and 160 Hz (chapter 04). -/
theorem test_gathering :
    [1, 2, 5, 9, 20].map (fun c => let q := quantaOf c 0x4000 0x8000; (q, gatherFactor 0 q 8)) =
      [(1, 8), (2, 8), (5, 4), (9, 2), (20, 1)] ∧
    gatherFactor 0 1 16 = 16 ∧
    (mapPixel (fun _ => 1) (fun _ => false) false 0x4000 0x8000 12 0).word = driveWord 2 0 8 := by decide +kernel

/-- The scaler of chapter 07: position, phase and the filtered value. -/
theorem test_scaler :
    srcPos 101 240 480 = (50, 16) ∧ filterSum [192, 64] [10280, 51400] = 20560 ∧ axisLimit 1920 480 = 960 ∧ axisLimit 720 240 = 0 := by
  decide +kernel

/-- The pool of chapter 13: layer 1's second buffer, and the word after it. -/
theorem test_pool :
    let s := { up with mem := { up.mem with poolBase := 0, poolSize := 3 } }
    place s (0x5EEC00 / 8) = (0, 24300) ∧ place s (0x5EEC00 / 8 + 1) = (1, 24300) := by decide +kernel

/-- The entry estimate of chapter 18: 32.7 ms, shown as 33, and S1 chosen for 1,500 ms. -/
theorem test_estimate :
    let s := inMode .pilot { up with
      map := { up.map with sinceCommitS := 1 }
      evr := { up.evr with queue := List.replicate 18 { level := 1 } ++ List.replicate 2 { level := 3 } } }
    estimateMs s = 33 ∧ chooseSleep 1500 false s = 1 := by decide +kernel

/-- The reply that POOL with P 32 waits for and the row of the reset record are in the store's form: an unlisted byte reads 0 (R291). -/
theorem test_reset_store : memGet State.reset.mem.cells 0x5EEC00 = 0 ∧ canonical State.reset = true := by decide +kernel

/-- The bytes of the table's words: it gives no row bits, so no word spells a command. -/
theorem test_no_words : decodeTableWord 0 0 = none ∧ decodeTableWord 16 0x1234 = none := by decide

/-! ### The lane code and the signature of a patch -/

/-- K28.5, D21.5 and D0.0 at both running disparities (8b/10b as published in IEEE 802.3 clause 36, R193). -/
theorem test_code_groups :
    [controlGroup false 0xBC, controlGroup true 0xBC, dataGroup false 0xB5, dataGroup true 0xB5, dataGroup false 0, dataGroup true 0] =
      [0b0011111010, 0b1100000101, 0b1010101010, 0b1010101010, 0b1001110100, 0b0110001011] := by decide +kernel

/-- Every byte and every control symbol of the Rope link comes back from its code group, at both running disparities. -/
theorem test_code_round :
    ([false, true].all fun p => ((List.range 256).map (fun b => Sym.data (BitVec.ofNat 8 b)) ++ ropeControls.map Sym.ctl).all fun x =>
      decide (receiveGroup p (codeGroup p x) = (x, false))) = true := by decide +kernel

/-- The published SHA-256 value of "abc" (FIPS 180). -/
theorem test_sha256 :
    sha256 (ascii "abc") = 0xba7816bf8f01cfea414140de5dae2223b00361a396177a9cb410ff61f20015ad := by decide +kernel

/-- Twice the base point of P-256, as published with the curve. -/
theorem test_curve :
    ptAdd base256 base256 = some (0x7CF27B188D034F7E8A52380304B51AC3C08969E277F21B35A60B48FC47669978,
      0x07775510DB8ED040293D9AC69F7430DBBA7DADE63CE982299E04B79D227873D1) := by decide +kernel

/-! ### Witnesses of the hypotheses -/

/-- The hypotheses of clause 2 of StepRunsFront can be met. -/
theorem wit_StepRunsFront_1 :
    (∃ (s : State), s.pending = []) :=
  ⟨up, by decide +kernel⟩

/-- The hypotheses of clause 1 of ShapesAndMemoriesStay can be met. -/
theorem wit_ShapesAndMemoriesStay_0 :
    (∃ (s : State) (t : State), step s = .next t ∧ shaped s = true) :=
  ⟨({ up with pending := [.composeLatch] } : State), (tOf (step (({ up with pending := [.composeLatch] } : State)))), rfl, by decide +kernel⟩

/-- The hypotheses of clause 2 of ShapesAndMemoriesStay can be met. -/
theorem wit_ShapesAndMemoriesStay_1 :
    (∃ (s : State) (t : State), step s = .next t ∧ canonical s = true) :=
  ⟨({ up with pending := [.composeLatch] } : State), (tOf (step (({ up with pending := [.composeLatch] } : State)))), rfl, by decide +kernel⟩

/-- The hypotheses of clause 1 of EveryCommandAnswers can be met. -/
theorem wit_EveryCommandAnswers_0 :
    (∃ (c : Instr), c.wellFormed = true) :=
  ⟨.composeLatch, by decide +kernel⟩

/-- The hypotheses of clause 3 of EveryCommandAnswers can be met. -/
theorem wit_EveryCommandAnswers_2 :
    (∃ (c : Instr) (s : State) (r : Fault), exec c s = .fault r) :=
  ⟨(.backoffExpiry 9), up, .noSuchUnit, rfl⟩

/-- The hypotheses of clause 1 of OnlyResetsReset can be met. -/
theorem wit_OnlyResetsReset_0 :
    (∃ (c : Instr) (s : State) (t : State), exec c s = .next t ∧ resetRow c = false ∧ s.pwr.inReset = false) :=
  ⟨.composeLatch, up, (tOf (exec (.composeLatch) (up))), rfl, by decide +kernel⟩

/-- The hypotheses of clause 1 of PingEchoes can be met. -/
theorem wit_PingEchoes_0 :
    (∃ (rq : Rq) (s : State), admits 0x00 rq s = true ∧ rq.payload.length ≤ 1024) :=
  ⟨(mk [1,2,3]), up, by decide +kernel⟩

/-- The hypotheses of clause 2 of PingEchoes can be met. -/
theorem wit_PingEchoes_1 :
    (∃ (rq : Rq) (s : State), canRun 0x00 rq s = true) :=
  ⟨(mk []), up, by decide +kernel⟩

/-- The hypotheses of clause 1 of ReplyLayout can be met. -/
theorem wit_ReplyLayout_0 :
    (∃ (r : Rep), r.payload.length ≤ 1024) :=
  ⟨({ status := 4, handle := 70000, payload := [1,2,3] } : Rep), by decide +kernel⟩

/-- The hypotheses of clause 1 of QueriesAnswer can be met. -/
theorem wit_QueriesAnswer_0 :
    (∃ (rq : Rq) (s : State), admits 0x01 rq s = true ∧ rq.payload = []) :=
  ⟨(mk ([])), up, by decide +kernel⟩

/-- The hypotheses of clause 2 of QueriesAnswer can be met. -/
theorem wit_QueriesAnswer_1 :
    (∃ (rq : Rq) (s : State), admits 0x02 rq s = true ∧ rq.payload = []) :=
  ⟨(mk ([])), up, by decide +kernel⟩

/-- The hypotheses of clause 3 of QueriesAnswer can be met. -/
theorem wit_QueriesAnswer_2 :
    (∃ (rq : Rq) (s : State), admits 0x50 rq s = true ∧ rq.payload = [] ∧ (after 0x50 rq s).flt.hist.length ≤ 16) :=
  ⟨(mk ([])), up, by decide +kernel⟩

/-- The hypotheses of clause 4 of QueriesAnswer can be met. -/
theorem wit_QueriesAnswer_3 :
    (∃ (rq : Rq) (s : State) (a : Nat) (n : Nat), admits 0x03 rq s = true ∧ rq.payload = le 4 a ++ le 2 n ++ le 2 0 ∧ a % 4 = 0 ∧ 1 ≤ n ∧ n ≤ 256 ∧ a + 4 * (n - 1) < 0xF0000 ∧ ((∀ k ∈ List.range 70, k < n → rawLane (a + 4 * k) (after 0x03 rq s) = none))) :=
  ⟨(mk (le 4 (0x10000) ++ le 2 (1) ++ le 2 0)), up, 0x10000, 1, by decide +kernel⟩

/-- The hypotheses of clause 5 of QueriesAnswer can be met. -/
theorem wit_QueriesAnswer_4 :
    (∃ (rq : Rq) (s : State) (a : Nat), admits 0x03 rq s = true ∧ rq.payload = le 4 a ++ le 2 1 ++ le 2 0 ∧ a % 4 = 0 ∧ a < 0xF0000 ∧ rawLane a (after 0x03 rq s) = none) :=
  ⟨(mk (le 4 (0x10000) ++ le 2 1 ++ le 2 0)), up, 0x10000, by decide +kernel⟩

/-- The hypotheses of clause 1 of HandlesAndCompletions can be met. -/
theorem wit_HandlesAndCompletions_0 :
    (∃ (s : State), s.cmd.outstanding.length < 64 ∧ s.cmd.nextHandle < 65536) :=
  ⟨up, by decide +kernel⟩

/-- The hypotheses of clause 2 of HandlesAndCompletions can be met. -/
theorem wit_HandlesAndCompletions_1 :
    (∃ (s : State), 64 ≤ s.cmd.outstanding.length) :=
  ⟨({ up with cmd := { up.cmd with outstanding := List.range 64 } } : State), by decide +kernel⟩

/-- The hypotheses of clause 3 of HandlesAndCompletions can be met. -/
theorem wit_HandlesAndCompletions_2 :
    (∃ (h : Nat) (r0 : Nat) (r1 : Nat) (s : State), s.cmd.outstanding.contains h = true ∧ r0 < 2 ^ 32 ∧ r1 < 2 ^ 32) :=
  ⟨5, 1, 2, ({ up with cmd := { up.cmd with outstanding := [5] } } : State), by decide +kernel⟩

/-- The hypotheses of clause 4 of HandlesAndCompletions can be met. -/
theorem wit_HandlesAndCompletions_3 :
    (∃ (h : Nat) (s : State), s.cmd.outstanding.contains h = false) :=
  ⟨6, ({ up with cmd := { up.cmd with outstanding := [5] } } : State), by decide +kernel⟩

/-- The hypotheses of clause 5 of HandlesAndCompletions can be met. -/
theorem wit_HandlesAndCompletions_4 :
    (∃ (s : State), s.pwr.mode ≠ .dormant) :=
  ⟨up, by decide +kernel⟩

/-- The hypotheses of clause 6 of HandlesAndCompletions can be met. -/
theorem wit_HandlesAndCompletions_5 :
    (∃ (rq : Rq) (s : State) (k : Nat), admits 0x05 rq s = true ∧ rq.payload = le 1 k ++ le 3 0 ∧ 1 ≤ k ∧ k ≤ 63) :=
  ⟨(mk (le 1 (1) ++ le 3 0)), ({ up with cmd := { up.cmd with outstanding := [1,2,3], cq := [{handle:=1,opcode:=64,status:=0,source:=1,r0:=3,r1:=4},{handle:=2,opcode:=64,status:=0,source:=1,r0:=3,r1:=4}] } } : State), 1, by decide +kernel⟩

/-- The hypotheses of clause 7 of HandlesAndCompletions can be met. -/
theorem wit_HandlesAndCompletions_6 :
    (∃ (rq : Rq) (s : State) (k : Nat), admits 0x05 rq s = true ∧ rq.payload = le 1 k ++ le 3 0 ∧ ((k = 0 ∨ (63 < k ∧ k < 256)))) :=
  ⟨(mk (le 1 (0) ++ le 3 0)), up, 0, by decide +kernel⟩

/-- The hypotheses of clause 1 of LockIsPermanent can be met. -/
theorem wit_LockIsPermanent_0 :
    (∃ (rq : Rq) (s : State), admits 0x06 rq s = true ∧ s.pwr.mode = .beam ∧ rq.payload ≠ []) :=
  ⟨(mk [1]), up, by decide +kernel⟩

/-- The hypotheses of clause 2 of LockIsPermanent can be met. -/
theorem wit_LockIsPermanent_1 :
    (∃ (rq : Rq) (s : State), admits 0x06 rq s = true ∧ s.pwr.mode ≠ .beam) :=
  ⟨(mk []), (inMode .pilot up), by decide +kernel⟩

/-- The hypotheses of clause 3 of LockIsPermanent can be met. -/
theorem wit_LockIsPermanent_2 :
    (∃ (rq : Rq) (s : State), admits 0x06 rq s = true ∧ s.pwr.mode = .beam ∧ rq.payload = [] ∧ s.cmd.locked = false) :=
  ⟨(mk ([])), up, by decide +kernel⟩

/-- The hypotheses of clause 4 of LockIsPermanent can be met. -/
theorem wit_LockIsPermanent_3 :
    (∃ (rq : Rq) (s : State), admits 0x06 rq s = true ∧ s.pwr.mode = .beam ∧ rq.payload = [] ∧ s.cmd.locked = true) :=
  ⟨(mk ([])), ({ up with cmd := { up.cmd with locked := true } } : State), by decide +kernel⟩

/-- The hypotheses of clause 5 of LockIsPermanent can be met. -/
theorem wit_LockIsPermanent_4 :
    (∃ (c : Instr) (s : State) (t : State), exec c s = .next t ∧ resetRow c = false ∧ s.cmd.locked = true) :=
  ⟨.composeLatch, ({ up with cmd := { up.cmd with locked := true } } : State), (tOf (exec (.composeLatch) (({ up with cmd := { up.cmd with locked := true } } : State)))), rfl, by decide +kernel⟩

/-- The hypotheses of clause 6 of LockIsPermanent can be met. -/
theorem wit_LockIsPermanent_5 :
    (∃ (w : List Nat) (v : List Nat), (w.all (fun i => decide (i < 0x100000)) = true) ∧ (v.all (fun i => decide (i < 128)) = true)) :=
  ⟨[], [], by decide +kernel⟩

/-- The hypotheses of clause 8 of LockIsPermanent can be met. -/
theorem wit_LockIsPermanent_7 :
    (∃ (s : State), asleep s = true) :=
  ⟨({ asl with cmd := { asl.cmd with locked := true } } : State), by decide +kernel⟩

/-- The hypotheses of clause 9 of LockIsPermanent can be met. -/
theorem wit_LockIsPermanent_8 :
    (∃ (s : State), asleep s = true ∧ s.ao.i2cAddr < 128) :=
  ⟨({ asl with cmd := { asl.cmd with locked := true } } : State), by decide +kernel⟩

/-- The hypotheses of clause 10 of LockIsPermanent can be met. -/
theorem wit_LockIsPermanent_9 :
    (∃ (s : State), asleep s = true ∧ s.ao.timerArmed = true ∧ s.ao.sleepState = 1) :=
  ⟨({ asl with cmd := { asl.cmd with locked := true } } : State), by decide +kernel⟩

/-- The hypotheses of clause 1 of LockedRequestsAreRefused can be met. -/
theorem wit_LockedRequestsAreRefused_0 :
    (∃ (rq : Rq) (r : List Int) (s : State), reaches 0x40 rq s = true ∧ s.cmd.locked = true ∧ ((field rq.payload 0 1 = 0 → s.pwr.mode = .pilot)) ∧ ((field rq.payload 0 1 = 1 → litMode s.pwr.mode = true ∨ s.pwr.mode = .snuffed)) ∧ r.length = 36) :=
  ⟨(mk [1,0,0,0]), (List.replicate 36 0), lkd, by decide +kernel⟩

/-- The hypotheses of clause 2 of LockedRequestsAreRefused can be met. -/
theorem wit_LockedRequestsAreRefused_1 :
    (∃ (rq : Rq) (s : State), reaches 0x41 rq s = true ∧ s.cmd.locked = true) :=
  ⟨(mk [1,0,0,0]), lkd, by decide +kernel⟩

/-- The hypotheses of clause 3 of LockedRequestsAreRefused can be met. -/
theorem wit_LockedRequestsAreRefused_2 :
    (∃ (rq : Rq) (s : State), reaches 0x43 rq s = true ∧ s.cmd.locked = true) :=
  ⟨(mk []), lkd, by decide +kernel⟩

/-- The hypotheses of clause 4 of LockedRequestsAreRefused can be met. -/
theorem wit_LockedRequestsAreRefused_3 :
    (∃ (rq : Rq) (s : State), reaches 0x52 rq s = true ∧ s.cmd.locked = true ∧ s.pwr.mode ≠ .kindle ∧ ((field rq.payload 2 1 = 1 → s.pwr.mode = .pilot ∨ s.pwr.mode = .snuffed))) :=
  ⟨(mk [0,0,0,0]), lkd, by decide +kernel⟩

/-- The hypotheses of clause 5 of LockedRequestsAreRefused can be met. -/
theorem wit_LockedRequestsAreRefused_4 :
    (∃ (rq : Rq) (s : State), reaches 0x80 rq s = true ∧ s.cmd.locked = true ∧ (s.pwr.mode = .pilot ∨ s.pwr.mode = .snuffed)) :=
  ⟨(mk []), (inMode .pilot lkd), by decide +kernel⟩

/-- The hypotheses of clause 6 of LockedRequestsAreRefused can be met. -/
theorem wit_LockedRequestsAreRefused_5 :
    (∃ (rq : Rq) (s : State), reaches 0x90 rq s = true ∧ s.cmd.locked = true) :=
  ⟨(mk []), lkd, by decide +kernel⟩

/-- The hypotheses of clause 7 of LockedRequestsAreRefused can be met. -/
theorem wit_LockedRequestsAreRefused_6 :
    (∃ (rq : Rq) (s : State), reaches 0xA0 rq s = true ∧ s.cmd.locked = true) :=
  ⟨(mk []), lkd, by decide +kernel⟩

/-- The hypotheses of clause 8 of LockedRequestsAreRefused can be met. -/
theorem wit_LockedRequestsAreRefused_7 :
    (∃ (rq : Rq) (s : State), reaches 0x25 rq s = true ∧ s.cmd.locked = true) :=
  ⟨(mk []), lkd, by decide +kernel⟩

/-- The hypotheses of clause 9 of LockedRequestsAreRefused can be met. -/
theorem wit_LockedRequestsAreRefused_8 :
    (∃ (rq : Rq) (s : State), reaches 0xF0 rq s = true ∧ s.cmd.locked = true ∧ (s.pwr.mode = .pilot ∨ s.pwr.mode = .snuffed)) :=
  ⟨(mk []), (inMode .pilot lkd), by decide +kernel⟩

/-- The hypotheses of clause 10 of LockedRequestsAreRefused can be met. -/
theorem wit_LockedRequestsAreRefused_9 :
    (∃ (rq : Rq) (s : State), reaches 0x30 rq s = true ∧ s.cmd.locked = true ∧ field rq.payload 1 1 = 1 ∧ 2 ≤ rq.payload.length) :=
  ⟨(mk [0,1]), lkd, by decide +kernel⟩

/-- The hypotheses of clause 11 of LockedRequestsAreRefused can be met. -/
theorem wit_LockedRequestsAreRefused_10 :
    (∃ (rq : Rq) (s : State) (a : Nat) (n : Nat) (m : Nat) (i : Nat) (rest : List Byte), reaches 0x04 rq s = true ∧ s.cmd.locked = true ∧ rq.payload = le 4 a ++ (le 2 n ++ (le 1 m ++ rest)) ∧ a % 4 = 0 ∧ 1 ≤ n ∧ n ≤ 127 ∧ i < n ∧ a + 4 * i < 0xF0000 ∧ (a + 4 * i) / 0x10000 ∈ [0x1, 0x2, 0x3, 0x4, 0x5, 0x8, 0x9, 0xA, 0xB, 0xC, 0xD] ∧ a + 4 * i ≠ 0x50204) :=
  ⟨(mk (le 4 (0x50200) ++ (le 2 (3) ++ (le 1 (0) ++ ([0,0,0,0,0,0,0,0,0,0,0,0]))))), lkd, 0x50200, 3, 0, 0, [0,0,0,0,0,0,0,0,0,0,0,0], by decide +kernel⟩

/-- The hypotheses of clause 12 of LockedRequestsAreRefused can be met. -/
theorem wit_LockedRequestsAreRefused_11 :
    (∃ (op : Nat), op ∉ [0x40, 0x41, 0x43, 0x52, 0x80, 0x90, 0xA0, 0x25, 0xF0, 0x30]) :=
  ⟨0x10, by decide +kernel⟩

/-- The hypotheses of clause 13 of LockedRequestsAreRefused can be met. -/
theorem wit_LockedRequestsAreRefused_12 :
    (∃ (a : Nat), (a / 0x10000 = 6 ∨ a / 0x10000 = 7 ∨ a = 0x50204)) :=
  ⟨0x50204, by decide +kernel⟩

/-- The hypotheses of clause 1 of KindleBarsGroups can be met. -/
theorem wit_KindleBarsGroups_0 :
    (∃ (c : Instr) (op : Nat) (rq : Rq) (r : List Int) (v : Bool) (s : State), canRun op rq s = true ∧ rq.src ≠ .twin ∧ s.pwr.mode = .kindle ∧ r.length = 36 ∧ (c, op) ∈ [(Instr.calibrateFull rq, 0x40), (.calibrateSensors rq r, 0x40), (.calCommit rq, 0x41), (.patternWriteBegin rq, 0x43), (.patternWriteData rq v, 0x43), (.patternWriteCommit rq, 0x43), (.patternWriteAbort rq, 0x43), (.diagMapRead rq, 0x70), (.pixelTestMeasure rq, 0x71), (.pixelTestRelease rq, 0x71), (.pixelTestDisable rq, 0x71), (.thermConfig rq, 0x90), (.thermClear rq, 0x91), (.storeAssign rq, 0xA0), (.storePool rq, 0xA0), (.fwPatchBegin rq, 0xF0), (.fwPatchData rq v, 0xF0), (.fwPatchCommit rq, 0xF0), (.fwPatchAbort rq, 0xF0)]) :=
  ⟨(.calibrateFull (mk [])), 0x40, (mk []), (List.replicate 36 0), false, (inMode .kindle up), by decide +kernel⟩

/-- The hypotheses of clause 2 of KindleBarsGroups can be met. -/
theorem wit_KindleBarsGroups_1 :
    (∃ (op : Nat) (rq : Rq) (s : State), (op / 16 ∉ [4, 7, 9, 10, 15] ∨ op = 0x42) ∧ canRun op rq s = true ∧ rq.src ≠ .twin) :=
  ⟨0x42, (mk []), (inMode .kindle up), by decide +kernel⟩

/-- The hypotheses of clause 1 of TwinPathRefuses can be met. -/
theorem wit_TwinPathRefuses_0 :
    (∃ (c : Instr) (op : Nat) (rq : Rq) (v : Bool) (k : Nat) (r : List Int) (e : List RawEvent) (s : State), canRun op rq s = true ∧ rq.src = .twin ∧ r.length = 36 ∧ (c, op) ∈ [(Instr.writeReg rq, 0x04), (.getCompletions rq, 0x05), (.lockConfig rq, 0x06), (.setMode rq, 0x10), (.setPlevel rq, 0x11), (.sleepUntil rq k, 0x12), (.layerConfig rq, 0x20), (.layerEnable rq, 0x21), (.flipGroupConfigure rq, 0x22), (.flipGroupArm rq, 0x22), (.fenceSignal rq, 0x23), (.loadLut rq, 0x24), (.loadCoeffs rq, 0x25), (.signatureRegionConfigure rq, 0x26), (.signatureRegionDisable rq, 0x26), (.linkTrainRestart rq, 0x30), (.linkTrainDisable rq, 0x30), (.laneBitslip rq, 0x31), (.eyeScan rq, 0x32), (.calibrateFull rq, 0x40), (.calibrateSensors rq r, 0x40), (.calCommit rq, 0x41), (.nvmRead rq, 0x42), (.patternWriteBegin rq, 0x43), (.patternWriteData rq v, 0x43), (.patternWriteCommit rq, 0x43), (.patternWriteAbort rq, 0x43), (.faultClearClear rq e, 0x51), (.faultClearAck rq e, 0x51), (.faultInjectDry rq, 0x52), (.faultInjectLive rq, 0x52), (.pixelTestMeasure rq, 0x71), (.pixelTestRelease rq, 0x71), (.pixelTestDisable rq, 0x71), (.twinConfig rq, 0x80), (.thermConfig rq, 0x90), (.thermClear rq, 0x91), (.storeAssign rq, 0xA0), (.storePool rq, 0xA0), (.fwPatchBegin rq, 0xF0), (.fwPatchData rq v, 0xF0), (.fwPatchCommit rq, 0xF0), (.fwPatchAbort rq, 0xF0)]) :=
  ⟨(.setMode (({ mk [1,0,0,0] with src := .twin } : Rq))), 0x10, ({ mk [1,0,0,0] with src := .twin } : Rq), true, 0, (List.replicate 36 0), [], up, by decide +kernel⟩

/-- The hypotheses of clause 2 of TwinPathRefuses can be met. -/
theorem wit_TwinPathRefuses_1 :
    (∃ (h : Hdr) (w : Word) (s : State), h.src = .twin ∧ canRun 0x04 (wordRq h 0x5000C w.toNat) s = true) :=
  ⟨({ hd with src := .twin } : Hdr), 7, up, by decide +kernel⟩

/-- The hypotheses of clause 3 of TwinPathRefuses can be met. -/
theorem wit_TwinPathRefuses_2 :
    (∃ (op : Nat) (rq : Rq) (s : State), op ∈ [0x00, 0x01, 0x02, 0x03, 0x50, 0x60, 0x61, 0x70] ∧ s.pwr.mode ≠ .kindle ∧ canRun op rq s = true) :=
  ⟨0, (mk []), up, by decide +kernel⟩

/-- The hypotheses of clause 1 of SetModeReplies can be met. -/
theorem wit_SetModeReplies_0 :
    (∃ (rq : Rq) (s : State) (k : Nat) (m : Mode), admits 0x10 rq s = true ∧ rq.payload = le 1 k ++ le 3 0 ∧ (k, m) ∈ [(2, Mode.beam), (3, .pilot), (5, .snuffed)] ∧ entryInProgress (after 0x10 rq s) = false ∧ m = s.pwr.mode) ∧
    (∃ (rq : Rq) (s : State) (k : Nat) (m : Mode), admits 0x10 rq s = true ∧ rq.payload = le 1 k ++ le 3 0 ∧ (k, m) ∈ [(2, Mode.beam), (3, .pilot), (5, .snuffed)] ∧ entryInProgress (after 0x10 rq s) = false ∧ m = .snuffed ∧ s.pwr.mode ≠ .snuffed) ∧
    (∃ (rq : Rq) (s : State) (k : Nat) (m : Mode), admits 0x10 rq s = true ∧ rq.payload = le 1 k ++ le 3 0 ∧ (k, m) ∈ [(2, Mode.beam), (3, .pilot), (5, .snuffed)] ∧ entryInProgress (after 0x10 rq s) = false ∧ m ≠ .snuffed ∧ s.pwr.mode = .snuffed) ∧
    (∃ (rq : Rq) (s : State) (k : Nat) (m : Mode), admits 0x10 rq s = true ∧ rq.payload = le 1 k ++ le 3 0 ∧ (k, m) ∈ [(2, Mode.beam), (3, .pilot), (5, .snuffed)] ∧ entryInProgress (after 0x10 rq s) = false ∧ m ≠ s.pwr.mode ∧ m ≠ .snuffed ∧ s.pwr.mode ≠ .snuffed ∧ ((s.pwr.mode = .belay ∧ (after 0x10 rq s).twn.state ≠ 2) ∨ (m = .beam ∧ (s.pwr.mode = .pilot ∨ s.pwr.mode = .belay) ∧ 3 ≤ levelMax (after 0x10 rq s).flt))) ∧
    (∃ (rq : Rq) (s : State) (k : Nat) (m : Mode), admits 0x10 rq s = true ∧ rq.payload = le 1 k ++ le 3 0 ∧ (k, m) ∈ [(2, Mode.beam), (3, .pilot), (5, .snuffed)] ∧ entryInProgress (after 0x10 rq s) = false ∧ m ≠ s.pwr.mode ∧ m ≠ .snuffed ∧ s.pwr.mode ≠ .snuffed ∧ ((s.pwr.mode = .belay → (after 0x10 rq s).twn.state = 2)) ∧ ((m = .beam → s.pwr.mode = .pilot ∨ s.pwr.mode = .belay → levelMax (after 0x10 rq s).flt < 3)) ∧ (after 0x10 rq s).cmd.outstanding.length < 64) :=
  ⟨⟨(mk (le 1 (2) ++ le 3 0)), up, 2, .beam, by decide +kernel⟩,
    ⟨(mk (le 1 (5) ++ le 3 0)), up, 5, .snuffed, by decide +kernel⟩,
    ⟨(mk (le 1 (3) ++ le 3 0)), (inMode .snuffed up), 3, .pilot, by decide +kernel⟩,
    ⟨(mk (le 1 (3) ++ le 3 0)), (inMode .belay up), 3, .pilot, by decide +kernel⟩,
    ⟨(mk (le 1 (3) ++ le 3 0)), up, 3, .pilot, by decide +kernel⟩⟩

/-- The hypotheses of clause 1 of PowerRequestsAnswer can be met. -/
theorem wit_PowerRequestsAnswer_0 :
    (∃ (rq : Rq) (s : State) (l : Nat), admits 0x11 rq s = true ∧ rq.payload = le 1 l ++ le 3 0 ∧ l < 256 ∧ 3 < l) ∧
    (∃ (rq : Rq) (s : State) (l : Nat), admits 0x11 rq s = true ∧ rq.payload = le 1 l ++ le 3 0 ∧ l < 256 ∧ l = s.pwr.plevel ∧ l ≤ 3 ∧ s.pwr.active = none ∧ s.pwr.waiting = none) ∧
    (∃ (rq : Rq) (s : State) (l : Nat), admits 0x11 rq s = true ∧ rq.payload = le 1 l ++ le 3 0 ∧ l < 256 ∧ l ≤ 3 ∧ ((l ≠ s.pwr.plevel ∨ s.pwr.active ≠ none ∨ s.pwr.waiting ≠ none)) ∧ (after 0x11 rq s).cmd.outstanding.length < 64) :=
  ⟨⟨(mk (le 1 (4) ++ le 3 0)), up, 4, by decide +kernel⟩,
    ⟨(mk (le 1 (0) ++ le 3 0)), up, 0, by decide +kernel⟩,
    ⟨(mk (le 1 (3) ++ le 3 0)), up, 3, by decide +kernel⟩⟩

/-- The hypotheses of clause 2 of PowerRequestsAnswer can be met. -/
theorem wit_PowerRequestsAnswer_1 :
    (∃ (rq : Rq) (s : State) (t : Nat) (f : Nat), admits 0x12 rq s = true ∧ rq.payload = le 4 t ++ (le 1 f ++ le 3 0) ∧ t < 2 ^ 32 ∧ f < 4 ∧ (s.pwr.mode = .kindle ∨ s.pwr.mode = .belay)) ∧
    (∃ (rq : Rq) (s : State) (t : Nat) (f : Nat), admits 0x12 rq s = true ∧ rq.payload = le 4 t ++ (le 1 f ++ le 3 0) ∧ t < 2 ^ 32 ∧ f < 4 ∧ s.pwr.mode ≠ .kindle ∧ s.pwr.mode ≠ .belay ∧ t = 0) ∧
    (∃ (rq : Rq) (s : State) (t : Nat) (f : Nat), admits 0x12 rq s = true ∧ rq.payload = le 4 t ++ (le 1 f ++ le 3 0) ∧ t < 2 ^ 32 ∧ f < 4 ∧ s.pwr.mode ≠ .kindle ∧ s.pwr.mode ≠ .belay ∧ t ≠ 0 ∧ (after 0x12 rq s).cmd.outstanding.length < 64) :=
  ⟨⟨(mk (le 4 (0) ++ (le 1 (0) ++ le 3 0))), (inMode .kindle up), 0, 0, by decide +kernel⟩,
    ⟨(mk (le 4 (0) ++ (le 1 (0) ++ le 3 0))), up, 0, 0, by decide +kernel⟩,
    ⟨(mk (le 4 (5000) ++ (le 1 (3) ++ le 3 0))), up, 5000, 3, by decide +kernel⟩⟩

/-- The hypotheses of clause 3 of PowerRequestsAnswer can be met. -/
theorem wit_PowerRequestsAnswer_2 :
    (∃ (r : PowerReq) (s : State), s.pwr.active = none ∧ r.sleep = false ∧ r.level ≠ s.pwr.plevel) :=
  ⟨({ level := 2, handle := 4, src := .spi } : PowerReq), up, by decide +kernel⟩

/-- The hypotheses of clause 4 of PowerRequestsAnswer can be met. -/
theorem wit_PowerRequestsAnswer_3 :
    (∃ (a : PowerReq) (s : State), s.pwr.active = some a ∧ s.pwr.waiting = none) :=
  ⟨({ level := 1, handle := 5, src := .spi } : PowerReq), ({ up with pwr := { up.pwr with active := some { level := 1, handle := 5, src := .spi } } } : State), by decide +kernel⟩

/-- The hypotheses of clause 5 of PowerRequestsAnswer can be met. -/
theorem wit_PowerRequestsAnswer_4 :
    (∃ (r : PowerReq) (s : State), r.sleep = true ∧ litMode s.pwr.mode = true ∧ s.pwr.mode ≠ .belay ∧ chooseSleep (if r.timeMs = 0xFFFFFFFF then r.timeMs else r.timeMs - r.wait) r.maxS1 s ≠ 0) :=
  ⟨({ sleep := true, timeMs := 5000, handle := 4, src := .spi, maxS1 := true, wait := 0 } : PowerReq), up, by decide +kernel⟩

/-- The hypotheses of clause 6 of PowerRequestsAnswer can be met. -/
theorem wit_PowerRequestsAnswer_5 :
    (∃ (r : PowerReq) (s : State), s.pwr.active = none ∧ r.sleep = true ∧ litMode s.pwr.mode = true ∧ s.pwr.mode ≠ .belay) :=
  ⟨({ sleep := true, timeMs := 5000, handle := 4, src := .spi, maxS1 := true, wait := 0 } : PowerReq), up, by decide +kernel⟩

/-- The hypotheses of clause 7 of PowerRequestsAnswer can be met. -/
theorem wit_PowerRequestsAnswer_6 :
    (∃ (t : Nat) (m : Bool) (s : State), chooseSleep t m s = 1) :=
  ⟨2000, false, up, by decide +kernel⟩

/-- The hypotheses of clause 1 of ModeInstantsRun can be met. -/
theorem wit_ModeInstantsRun_0 :
    (∃ (s : State), s.pwr.next = none ∧ ((s.pwr.mode = .beam ∨ s.pwr.mode = .pilot)) ∧ belayTrigger s = true) ∧
    (∃ (s : State), s.pwr.next = none ∧ s.pwr.mode = .beam ∧ belayTrigger s = false ∧ allLanesDown s = true) ∧
    (∃ (s : State), s.pwr.next = none ∧ s.pwr.mode = .beam ∧ belayTrigger s = false ∧ allLanesDown s = false ∧ 3 ≤ levelMax s.flt) ∧
    (∃ (s : State), s.pwr.next = none ∧ s.pwr.mode = .beam ∧ belayTrigger s = false ∧ allLanesDown s = false ∧ levelMax s.flt < 3) ∧
    (∃ (s : State), s.pwr.next = none ∧ s.pwr.mode = .pilot ∧ belayTrigger s = false) ∧
    (∃ (s : State), s.pwr.next = none ∧ s.pwr.mode = .belay ∧ belayTrigger s = true) ∧
    (∃ (s : State), s.pwr.next = none ∧ s.pwr.mode = .belay ∧ belayTrigger s = false) ∧
    (∃ (s : State) (p : _), s.pwr.next = none ∧ s.pwr.pend = some p ∧ p.target = .beam ∧ p.committed = false) :=
  ⟨⟨(let s := { up with pwr := { up.pwr with mode := .beam } }; { s with twn := { s.twn with state := 3, lostCause := 1, cfg := { s.twn.cfg with role := 1 } } }), by decide +kernel⟩,
    ⟨(let s := { up with pwr := { up.pwr with mode := .beam } }; { s with lnk := { s.lnk with lanes := s.lnk.lanes.map fun _ => { state := .laneDown } } }), by decide +kernel⟩,
    ⟨({ up with pwr := { up.pwr with mode := .beam }, flt := { up.flt with classes := up.flt.classes.set 3 { level := 3 } } } : State), by decide +kernel⟩,
    ⟨({ up with pwr := { up.pwr with mode := .beam } } : State), by decide +kernel⟩,
    ⟨({ up with pwr := { up.pwr with mode := .pilot } } : State), by decide +kernel⟩,
    ⟨(let s := { up with pwr := { up.pwr with mode := .belay } }; { s with twn := { s.twn with state := 3, lostCause := 1, cfg := { s.twn.cfg with role := 1 } } }), by decide +kernel⟩,
    ⟨({ up with pwr := { up.pwr with mode := .belay } } : State), by decide +kernel⟩,
    ⟨({ up with pwr := { up.pwr with mode := .beam, pend := some { target := .beam, handle := 9, src := .spi, committed := false } } } : State), (((({ up with pwr := { up.pwr with mode := .beam, pend := some { target := .beam, handle := 9, src := .spi, committed := false } } } : State)).pwr.pend).getD {}), by decide +kernel⟩⟩

/-- The hypotheses of clause 2 of ModeInstantsRun can be met. -/
theorem wit_ModeInstantsRun_1 :
    (∃ (s : State) (c : Nat), s.pwr.mode = .belay ∧ s.pwr.next = some (.beam, c) ∧ (belayTrigger s = true ∨ allLanesDown s = true ∨ 3 ≤ levelMax s.flt)) :=
  ⟨(let s := (let s := { up with pwr := { up.pwr with mode := .belay } }; { s with lnk := { s.lnk with lanes := s.lnk.lanes.map fun _ => { state := .laneDown } } }); { s with pwr := { s.pwr with next := some (.beam, 4) } }), 4, by decide +kernel⟩

/-- The hypotheses of clause 3 of ModeInstantsRun can be met. -/
theorem wit_ModeInstantsRun_2 :
    (∃ (s : State), mildLayers s ∧ awake s = true ∧ s.ft.running = true ∧ litMode s.pwr.mode = true ∧ s.pwr.composeStop = false ∧ s.scl.comp.running = false ∧ s.flt.escCompat = false) :=
  ⟨(lit up), mild_of (by decide +kernel), by decide +kernel⟩

/-- The hypotheses of clause 4 of ModeInstantsRun can be met. -/
theorem wit_ModeInstantsRun_3 :
    (∃ (f : List PixFlags) (m : Mode) (c : Nat) (s : State) (p : _), flagsOk f = true ∧ awake s = true ∧ s.ft.running = true ∧ litMode s.pwr.mode = true ∧ s.pwr.next = some (m, c) ∧ litMode m = true ∧ s.scl.comp.ok = true ∧ s.pwr.pend = some p ∧ p.target = m ∧ c = 4 ∧ s.cmd.outstanding.contains p.handle = true) ∧
    (∃ (f : List PixFlags) (m : Mode) (c : Nat) (s : State) (p : _), flagsOk f = true ∧ awake s = true ∧ s.ft.running = true ∧ litMode s.pwr.mode = true ∧ s.pwr.next = some (m, c) ∧ litMode m = true ∧ s.scl.comp.ok = true ∧ s.pwr.pend = some p ∧ c ≠ 4 ∧ s.cmd.outstanding.contains p.handle = true) ∧
    (∃ (f : List PixFlags) (m : Mode) (c : Nat) (s : State), flagsOk f = true ∧ awake s = true ∧ s.ft.running = true ∧ litMode s.pwr.mode = true ∧ s.pwr.next = some (m, c) ∧ litMode m = true ∧ s.scl.comp.ok = false) :=
  ⟨⟨[], .pilot, 4, (let s := { up with pwr := { up.pwr with mode := .beam, pend := some { target := .pilot, handle := 9, src := .spi, committed := false }, next := some (.pilot, 4) } }; { s with scl := { s.scl with comp := { s.scl.comp with ok := true } }, cmd := { s.cmd with outstanding := [9] } }), (((let s := { up with pwr := { up.pwr with mode := .beam, pend := some { target := .pilot, handle := 9, src := .spi, committed := false }, next := some (.pilot, 4) } }; { s with scl := { s.scl with comp := { s.scl.comp with ok := true } }, cmd := { s.cmd with outstanding := [9] } }).pwr.pend).getD {}), by decide +kernel⟩,
    ⟨[], .pilot, 6, (let s := { up with pwr := { up.pwr with mode := .beam, pend := some { target := .beam, handle := 9, src := .spi, committed := false }, next := some (.pilot, 6) } }; { s with scl := { s.scl with comp := { s.scl.comp with ok := true } }, cmd := { s.cmd with outstanding := [9] } }), (((let s := { up with pwr := { up.pwr with mode := .beam, pend := some { target := .beam, handle := 9, src := .spi, committed := false }, next := some (.pilot, 6) } }; { s with scl := { s.scl with comp := { s.scl.comp with ok := true } }, cmd := { s.cmd with outstanding := [9] } }).pwr.pend).getD {}), by decide +kernel⟩,
    ⟨[], .pilot, 4, (let s := { up with pwr := { up.pwr with mode := .beam, pend := some { target := .beam, handle := 9, src := .spi, committed := false }, next := some (.pilot, 4) } }; { s with scl := { s.scl with comp := { s.scl.comp with ok := false } }, cmd := { s.cmd with outstanding := [9] } }), by decide +kernel⟩⟩

/-- The hypotheses of clause 5 of ModeInstantsRun can be met. -/
theorem wit_ModeInstantsRun_4 :
    (∃ (s : State), awake s = true ∧ s.pwr.mode = .beam ∧ s.pwr.hostTimeoutMs ≠ 0) :=
  ⟨({ up with pwr := { up.pwr with hostTimeoutMs := 20 } } : State), by decide +kernel⟩

/-- The hypotheses of clause 6 of ModeInstantsRun can be met. -/
theorem wit_ModeInstantsRun_5 :
    (∃ (s : State) (p : PendMode), awake s = true ∧ s.pwr.pend = some p ∧ p.target = .beam ∧ p.committed = false ∧ s.cmd.outstanding.contains p.handle = true) :=
  ⟨(let s := { up with pwr := { up.pwr with mode := .pilot, pend := some { target := .beam, handle := 9, src := .spi, committed := false } } }; { s with cmd := { s.cmd with outstanding := [9] } }), ({ target := .beam, handle := 9, src := .spi } : PendMode), by decide +kernel⟩

/-- The hypotheses of clause 7 of ModeInstantsRun can be met. -/
theorem wit_ModeInstantsRun_6 :
    (∃ (s : State) (p : PendMode), s.pwr.pend = some p ∧ p.committed = true) :=
  ⟨({ up with pwr := { up.pwr with mode := .pilot, pend := some { target := .beam, handle := 9, src := .spi, committed := true } } } : State), ({ target := .beam, handle := 9, src := .spi, committed := true } : PendMode), by decide +kernel⟩

/-- The hypotheses of clause 8 of ModeInstantsRun can be met. -/
theorem wit_ModeInstantsRun_7 :
    (∃ (s : State), awake s = true ∧ s.pwr.blanking = true ∧ s.pwr.active = none ∧ s.pwr.biasSettled = true ∧ s.nvm.calRun = none) :=
  ⟨({ up with pwr := { up.pwr with blanking := true, dark := true } } : State), by decide +kernel⟩

/-- The hypotheses of clause 9 of ModeInstantsRun can be met. -/
theorem wit_ModeInstantsRun_8 :
    (∃ (s : State), awake s = true ∧ s.pwr.mode = .snuffed ∧ s.pwr.changing = false ∧ s.pwr.blankP3 = false ∧ s.pwr.plevelTarget ≠ s.pwr.plevel) :=
  ⟨(inMode .snuffed { up with pwr := { up.pwr with plevelTarget := 2 } }), by decide +kernel⟩

/-- The hypotheses of clause 10 of ModeInstantsRun can be met. -/
theorem wit_ModeInstantsRun_9 :
    (∃ (s : State), awake s = true ∧ s.pwr.changing = true ∧ s.pwr.active = none) :=
  ⟨(inMode .snuffed { up with pwr := { up.pwr with plevelTarget := 2, changing := true, changeTo := 2, changes := 65535 } }), by decide +kernel⟩

/-- The hypotheses of clause 1 of SnuffTurnsLampOff can be met. -/
theorem wit_SnuffTurnsLampOff_0 :
    (∃ (e : RawEvent) (s : State), 4 ≤ e.level ∧ evClass e.code < s.flt.classes.length ∧ awake s = true ∧ (s.pwr.readyPin = false ∨ s.pwr.mode ≠ .snuffed) ∧ s.pwr.mode ≠ .snuffed) :=
  ⟨ev0, up, by decide +kernel⟩

/-- The hypotheses of clause 2 of SnuffTurnsLampOff can be met. -/
theorem wit_SnuffTurnsLampOff_1 :
    (∃ (s : State), awake s = false) :=
  ⟨State.reset, by decide +kernel⟩

/-- The hypotheses of clause 1 of SleepEntryRuns can be met. -/
theorem wit_SleepEntryRuns_0 :
    (∃ (s : State), awake s = true ∧ entryInProgress s = true ∧ s.pwr.entryStep = 1 ∧ arrayBusy s = false ∧ arrayDark s = true) :=
  ⟨(sl 1 { up with pwr := { up.pwr with dark := true } }), by decide +kernel⟩

/-- The hypotheses of clause 2 of SleepEntryRuns can be met. -/
theorem wit_SleepEntryRuns_1 :
    (∃ (s : State), awake s = true ∧ entryInProgress s = true ∧ s.pwr.entryStep = 2 ∧ (composing { s with pwr := { s.pwr with composeStop := true } } = false)) :=
  ⟨(sl 2 up), by decide +kernel⟩

/-- The hypotheses of clause 3 of SleepEntryRuns can be met. -/
theorem wit_SleepEntryRuns_2 :
    (∃ (s : State), awake s = true ∧ entryInProgress s = true ∧ s.pwr.entryStep = 3) :=
  ⟨(sl 3 up), by decide +kernel⟩

/-- The hypotheses of clause 4 of SleepEntryRuns can be met. -/
theorem wit_SleepEntryRuns_3 :
    (∃ (s : State), s.pwr.inReset = false ∧ s.pwr.mode = .dormant ∧ entryInProgress s = true ∧ s.pwr.entryStep = 5) :=
  ⟨(sl 5 (inMode .dormant up)), by decide +kernel⟩

/-- The hypotheses of clause 5 of SleepEntryRuns can be met. -/
theorem wit_SleepEntryRuns_4 :
    (∃ (s : State), s.pwr.inReset = false ∧ s.pwr.mode = .dormant ∧ entryInProgress s = true ∧ s.pwr.entryStep = 6) :=
  ⟨(sl 6 (inMode .dormant up)), by decide +kernel⟩

/-- The hypotheses of clause 6 of SleepEntryRuns can be met. -/
theorem wit_SleepEntryRuns_5 :
    (∃ (s : State), s.pwr.inReset = false ∧ s.pwr.mode = .dormant ∧ entryInProgress s = true ∧ s.pwr.entryStep = 7 ∧ s.pwr.chosen = 1) ∧
    (∃ (s : State), s.pwr.inReset = false ∧ s.pwr.mode = .dormant ∧ entryInProgress s = true ∧ s.pwr.entryStep = 7 ∧ s.pwr.chosen = 2) :=
  ⟨⟨(let s := sl 7 (inMode .dormant up); { s with pwr := { s.pwr with chosen := 1 } }), by decide +kernel⟩,
    ⟨(sl 7 (inMode .dormant up)), by decide +kernel⟩⟩

/-- The hypotheses of clause 7 of SleepEntryRuns can be met. -/
theorem wit_SleepEntryRuns_6 :
    (∃ (s : State), awake s = true ∧ entryInProgress s = true ∧ s.pwr.entryStep = 4 ∧ s.pwr.nvmAsked = true ∧ storesDone s = false ∧ forced s = false) :=
  ⟨(let s := sl 4 up; { s with pwr := { s.pwr with nvmAsked := true }, nvm := { s.nvm with queue := [{ content := 4 }] } }), by decide +kernel⟩

/-- The hypotheses of clause 8 of SleepEntryRuns can be met. -/
theorem wit_SleepEntryRuns_7 :
    (∃ (s : State) (b : Nat) (r : Nat) (p : PowerReq), awake s = true ∧ s.pwr.relight = some (stRefused, b, r) ∧ s.pwr.biasSettled = true ∧ s.scl.comp.ok = true ∧ s.nvm.calRun = none ∧ s.pwr.active = some p ∧ s.pwr.waiting = none) :=
  ⟨(let s := sl 1 up; { s with pwr := { s.pwr with relight := some (stRefused, 4, 5), dark := true }, scl := { s.scl with comp := { s.scl.comp with ok := true } } }), 4, 5, ({ sleep := true, timeMs := 5000, handle := 4, src := .spi } : PowerReq), by decide +kernel⟩

/-- The hypotheses of clause 1 of WakeEventsWake can be met. -/
theorem wit_WakeEventsWake_0 :
    (∃ (s : State), asleep s = true ∧ s.ao.sleepState = 1 ∧ s.ao.timerArmed = true) :=
  ⟨asl, by decide +kernel⟩

/-- The hypotheses of clause 2 of WakeEventsWake can be met. -/
theorem wit_WakeEventsWake_1 :
    (∃ (s : State), asleep s = true ∧ s.ao.sleepState = 2) :=
  ⟨s2, by decide +kernel⟩

/-- The hypotheses of clause 4 of WakeEventsWake can be met. -/
theorem wit_WakeEventsWake_3 :
    (∃ (s : State), awake s = true ∧ entryInProgress s = true ∧ s.ao.inWindow = false ∧ s.ao.timerArmed = true) :=
  ⟨(let s := sl 2 up; { s with ao := { s.ao with timerArmed := true, i2cAddr := 0x58 } }), by decide +kernel⟩

/-- The hypotheses of clause 5 of WakeEventsWake can be met. -/
theorem wit_WakeEventsWake_4 :
    (∃ (s : State), s.ao.inWindow = true ∧ s.ao.wakeLevel = false ∧ s.ao.i2cMatched = false ∧ s.ao.timerExpired = false) ∧
    (∃ (s : State), s.ao.inWindow = true ∧ s.ao.wakeLevel = true ∧ s.ao.sleepState = 1) :=
  ⟨⟨({ asl with ao := { asl.ao with inWindow := true } } : State), by decide +kernel⟩,
    ⟨({ asl with ao := { asl.ao with inWindow := true, wakeLevel := true } } : State), by decide +kernel⟩⟩

/-- The hypotheses of clause 6 of WakeEventsWake can be met. -/
theorem wit_WakeEventsWake_5 :
    (∃ (s : State), s.ao.inWindow = false) :=
  ⟨up, by decide +kernel⟩

/-- The hypotheses of clause 1 of ResetsLeaveTheIsland can be met. -/
theorem wit_ResetsLeaveTheIsland_0 :
    (∃ (w : List Nat) (v : List Nat) (s : State), (w.all (fun i => decide (i < 0x100000)) = true) ∧ (v.all (fun i => decide (i < 128)) = true) ∧ nvmQuiet s) :=
  ⟨[5,7], [3], up, by unfold nvmQuiet; decide +kernel⟩

/-- The hypotheses of clause 2 of ResetsLeaveTheIsland can be met. -/
theorem wit_ResetsLeaveTheIsland_1 :
    (∃ (s : State), s.pwr.inReset = false ∧ s.pwr.mode ≠ .dormant ∧ nvmQuiet s) ∧
    (∃ (s : State), (s.pwr.inReset = true ∨ s.pwr.mode = .dormant)) ∧
    (∃ (s : State), s.pwr.inReset = false ∧ s.ao.sleepState = 1) ∧
    (∃ (s : State), s.ao.sleepState ≠ 1) :=
  ⟨⟨up, by unfold nvmQuiet; decide +kernel⟩,
    ⟨asl, by decide +kernel⟩,
    ⟨asl, by decide +kernel⟩,
    ⟨up, by decide +kernel⟩⟩

/-- The hypotheses of clause 1 of KindleStarts can be met. -/
theorem wit_KindleStarts_0 :
    (∃ (s : State), s.pwr.inReset = true ∧ s.pwr.testEn = false ∧ s.ao.resetCause ≠ 2) ∧
    (∃ (s : State), s.pwr.inReset = true ∧ s.pwr.testEn = false ∧ s.ao.resetCause = 2) :=
  ⟨⟨({ boot with pwr := { boot.pwr with inReset := true }, ao := { boot.ao with resetCause := 1 } } : State), by decide +kernel⟩,
    ⟨({ boot with pwr := { boot.pwr with inReset := true }, ao := { boot.ao with resetCause := 2, wakeSource := 1, slept := 2, dormantS := 99 } } : State), by decide +kernel⟩⟩

/-- The hypotheses of clause 2 of KindleStarts can be met. -/
theorem wit_KindleStarts_1 :
    (∃ (s : State), bringing s = true ∧ s.pwr.mode = .kindle ∧ s.pwr.ldoOk = false) :=
  ⟨boot, by decide +kernel⟩

/-- The hypotheses of clause 3 of KindleStarts can be met. -/
theorem wit_KindleStarts_2 :
    (∃ (s : State), bringing s = true ∧ s.pwr.mode = .kindle ∧ s.pwr.ldoOk = true ∧ s.pwr.pllOk = false) :=
  ⟨({ boot with pwr := { boot.pwr with ldoOk := true } } : State), by decide +kernel⟩

/-- The hypotheses of clause 4 of KindleStarts can be met. -/
theorem wit_KindleStarts_3 :
    (∃ (s : State), bringing s = true ∧ s.pwr.pllOk = true ∧ s.pwr.mode = .kindle ∧ s.pwr.flavor = .full) ∧
    (∃ (s : State), bringing s = true ∧ s.pwr.pllOk = true ∧ s.pwr.mode = .kindle ∧ s.pwr.flavor = .quick) ∧
    (∃ (s : State), bringing s = true ∧ s.pwr.pllOk = true ∧ s.pwr.flavor ≠ .rekindle ∧ s.ft.activeSrc = 0) ∧
    (∃ (s : State), bringing s = true ∧ s.pwr.pllOk = true ∧ patchCommitted s = false) ∧
    (∃ (s : State), bringing s = true ∧ s.pwr.pllOk = true ∧ patchCommitted s = true) :=
  ⟨⟨({ boot with pwr := { boot.pwr with pllOk := true, flavor := .full } } : State), by decide +kernel⟩,
    ⟨({ boot with pwr := { boot.pwr with pllOk := true, flavor := .quick } } : State), by decide +kernel⟩,
    ⟨({ boot with pwr := { boot.pwr with pllOk := true, flavor := .full } } : State), by decide +kernel⟩,
    ⟨({ boot with pwr := { boot.pwr with pllOk := true, flavor := .full } } : State), by decide +kernel⟩,
    ⟨({ boot with pwr := { boot.pwr with pllOk := true }, nvm := { boot.nvm with mram := memWrite boot.nvm.mram (patchBase + 524280) (le 8 commitWord) } } : State), by decide +kernel⟩⟩

/-- The hypotheses of clause 5 of KindleStarts can be met. -/
theorem wit_KindleStarts_4 :
    (∃ (m : CalMeas) (s : State), measOk m = true ∧ awake s = true ∧ s.pwr.biasOn = true ∧ s.pwr.biasSettled = false ∧ s.pwr.mode = .kindle ∧ s.pwr.flavor ≠ .quick) ∧
    (∃ (m : CalMeas) (s : State), measOk m = true ∧ awake s = true ∧ s.pwr.biasOn = true ∧ s.pwr.biasSettled = false ∧ s.pwr.mode = .kindle ∧ s.pwr.flavor = .quick ∧ s.flt.escCompat = false) ∧
    (∃ (m : CalMeas) (s : State), measOk m = true ∧ awake s = true ∧ s.pwr.biasOn = true ∧ s.pwr.biasSettled = false ∧ s.pwr.mode ≠ .kindle) :=
  ⟨⟨meas0, (let s := kin 2; { s with pwr := { s.pwr with biasSettled := false, flavor := .full } }), by decide +kernel⟩,
    ⟨meas0, (let s := kin 2; { s with pwr := { s.pwr with biasSettled := false, flavor := .quick } }), by decide +kernel⟩,
    ⟨meas0, (let s := up; { s with pwr := { s.pwr with biasSettled := false } }), by decide +kernel⟩⟩

/-- The hypotheses of clause 6 of KindleStarts can be met. -/
theorem wit_KindleStarts_5 :
    (∃ (s : State), awake s = true ∧ s.pwr.mode = .kindle ∧ s.pwr.kindleStep = 2 ∧ s.pwr.bistDone = false) :=
  ⟨(let s := kin 2; { s with pwr := { s.pwr with bistDone := false } }), by decide +kernel⟩

/-- The hypotheses of clause 7 of KindleStarts can be met. -/
theorem wit_KindleStarts_6 :
    (∃ (f : BistFail) (s : State), awake s = true ∧ s.pwr.mode = .kindle ∧ s.pwr.kindleStep = 2 ∧ f.block < 7) :=
  ⟨({ bf0 with block := 0 } : BistFail), (kin 2), by decide +kernel⟩

/-- The hypotheses of clause 1 of KindleFinishes can be met. -/
theorem wit_KindleFinishes_0 :
    (∃ (m : CalMeas) (s : State), measOk m = true ∧ awake s = true ∧ s.pwr.mode = .kindle ∧ s.pwr.kindleStep = 3 ∧ s.pwr.flavor ≠ .quick) :=
  ⟨meas0, (kin 3), by decide +kernel⟩

/-- The hypotheses of clause 2 of KindleFinishes can be met. -/
theorem wit_KindleFinishes_1 :
    (∃ (m : CalMeas) (s : State), s.nvm.meas = some m ∧ awake s = true ∧ s.pwr.mode = .kindle ∧ s.diag.scanDone = true ∧ s.nvm.loadDone = true ∧ s.nvm.calResult = 0 ∧ s.pwr.flavor ≠ .quick) :=
  ⟨meas0, (let s := kin 4; { s with pwr := { s.pwr with flavor := .full }, nvm := { s.nvm with meas := some meas0, loadDone := true }, diag := { s.diag with scanDone := true } }), by decide +kernel⟩

/-- The hypotheses of clause 3 of KindleFinishes can be met. -/
theorem wit_KindleFinishes_2 :
    (∃ (s : State), awake s = true ∧ s.evr.state ≠ 3) :=
  ⟨up, by decide +kernel⟩

/-- The hypotheses of clause 4 of KindleFinishes can be met. -/
theorem wit_KindleFinishes_3 :
    (∃ (s : State), mildLayers s ∧ awake s = true ∧ s.pwr.mode = .kindle ∧ s.pwr.workDone = false ∧ s.nvm.calResult ≠ 0 ∧ s.flt.escCompat = false) :=
  ⟨(let s := kin 4; { s with nvm := { s.nvm with calResult := 1 }, pwr := { s.pwr with composeStop := false } }), mild_of (by decide +kernel), by decide +kernel⟩

/-- The hypotheses of clause 5 of KindleFinishes can be met. -/
theorem wit_KindleFinishes_4 :
    (∃ (s : State), awake s = true ∧ s.pwr.mode = .kindle ∧ s.pwr.workDone = false) :=
  ⟨(kin 4), by decide +kernel⟩

/-- The hypotheses of clause 6 of KindleFinishes can be met. -/
theorem wit_KindleFinishes_5 :
    (∃ (f : List PixFlags) (m : Mode) (s : State), flagsOk f = true ∧ awake s = true ∧ s.ft.running = true ∧ s.pwr.mode = .kindle ∧ s.pwr.workDone = true ∧ s.scl.comp.flushed = true ∧ s.pwr.next = some (m, 5) ∧ ((m = .beam ∨ m = .pilot)) ∧ s.pwr.dark = false ∧ s.pwr.blankReq = none ∧ s.pwr.active = none ∧ s.nvm.calRun = none) ∧
    (∃ (f : List PixFlags) (m : Mode) (s : State) (p : _), flagsOk f = true ∧ awake s = true ∧ s.ft.running = true ∧ s.pwr.mode = .kindle ∧ s.pwr.workDone = true ∧ s.scl.comp.flushed = true ∧ s.pwr.next = some (m, 5) ∧ ((m = .beam ∨ m = .pilot)) ∧ s.pwr.pend = some p ∧ p.target = m ∧ s.cmd.outstanding.contains p.handle = true) ∧
    (∃ (f : List PixFlags) (m : Mode) (s : State) (p : _), flagsOk f = true ∧ awake s = true ∧ s.ft.running = true ∧ s.pwr.mode = .kindle ∧ s.pwr.workDone = true ∧ s.scl.comp.flushed = true ∧ s.pwr.next = some (m, 5) ∧ ((m = .beam ∨ m = .pilot)) ∧ s.pwr.pend = some p ∧ m = .pilot ∧ p.target = .beam ∧ s.pwr.ownPilot = true ∧ s.cmd.outstanding.contains p.handle = true) ∧
    (∃ (f : List PixFlags) (m : Mode) (s : State) (p : _), flagsOk f = true ∧ awake s = true ∧ s.ft.running = true ∧ s.pwr.mode = .kindle ∧ s.pwr.workDone = true ∧ s.scl.comp.flushed = true ∧ s.pwr.next = some (m, 5) ∧ ((m = .beam ∨ m = .pilot)) ∧ s.pwr.pend = some p ∧ m = .pilot ∧ p.target = .beam ∧ s.pwr.ownPilot = false) :=
  ⟨⟨[], .beam, (let s := kin 5; { s with pwr := { s.pwr with workDone := true, next := some (.beam, 5), ownPilot := true, exitThermal := true, pend := some { target := .beam, handle := 9, src := .spi, committed := false } }, scl := { s.scl with comp := { s.scl.comp with flushed := true, ok := true } }, cmd := { s.cmd with outstanding := [9] } }), by decide +kernel⟩,
    ⟨[], .beam, (let s := kin 5; { s with pwr := { s.pwr with workDone := true, next := some (.beam, 5), ownPilot := true, exitThermal := true, pend := some { target := .beam, handle := 9, src := .spi, committed := false } }, scl := { s.scl with comp := { s.scl.comp with flushed := true, ok := true } }, cmd := { s.cmd with outstanding := [9] } }), (((let s := kin 5; { s with pwr := { s.pwr with workDone := true, next := some (.beam, 5), ownPilot := true, exitThermal := true, pend := some { target := .beam, handle := 9, src := .spi, committed := false } }, scl := { s.scl with comp := { s.scl.comp with flushed := true, ok := true } }, cmd := { s.cmd with outstanding := [9] } }).pwr.pend).getD {}), by decide +kernel⟩,
    ⟨[], .pilot, (let s := kin 5; { s with pwr := { s.pwr with workDone := true, next := some (.pilot, 5), ownPilot := true, exitThermal := true, pend := some { target := .beam, handle := 9, src := .spi, committed := false } }, scl := { s.scl with comp := { s.scl.comp with flushed := true, ok := true } }, cmd := { s.cmd with outstanding := [9] } }), (((let s := kin 5; { s with pwr := { s.pwr with workDone := true, next := some (.pilot, 5), ownPilot := true, exitThermal := true, pend := some { target := .beam, handle := 9, src := .spi, committed := false } }, scl := { s.scl with comp := { s.scl.comp with flushed := true, ok := true } }, cmd := { s.cmd with outstanding := [9] } }).pwr.pend).getD {}), by decide +kernel⟩,
    ⟨[], .pilot, (let s := kin 5; { s with pwr := { s.pwr with workDone := true, next := some (.pilot, 5), ownPilot := false, exitThermal := true, pend := some { target := .beam, handle := 9, src := .spi, committed := false } }, scl := { s.scl with comp := { s.scl.comp with flushed := true, ok := true } }, cmd := { s.cmd with outstanding := [9] } }), (((let s := kin 5; { s with pwr := { s.pwr with workDone := true, next := some (.pilot, 5), ownPilot := false, exitThermal := true, pend := some { target := .beam, handle := 9, src := .spi, committed := false } }, scl := { s.scl with comp := { s.scl.comp with flushed := true, ok := true } }, cmd := { s.cmd with outstanding := [9] } }).pwr.pend).getD {}), by decide +kernel⟩⟩

/-- The hypotheses of clause 7 of KindleFinishes can be met. -/
theorem wit_KindleFinishes_6 :
    (∃ (f : List PixFlags) (s : State), flagsOk f = true ∧ awake s = true ∧ s.ft.running = true ∧ s.pwr.mode = .kindle ∧ ((s.pwr.workDone = false ∨ s.scl.comp.flushed = false))) :=
  ⟨[], (kin 4), by decide +kernel⟩

/-- The hypotheses of clause 1 of ComposeLatchStarts can be met. -/
theorem wit_ComposeLatchStarts_0 :
    (∃ (s : State) (e : _), latches s ∧ e < 24) :=
  ⟨(lit up), 7, by unfold latches; decide +kernel⟩

/-- The hypotheses of clause 2 of ComposeLatchStarts can be met. -/
theorem wit_ComposeLatchStarts_1 :
    (∃ (s : State), (¬latches s)) :=
  ⟨(kin 3), by unfold latches; decide +kernel⟩

/-- The hypotheses of clause 3 of ComposeLatchStarts can be met. -/
theorem wit_ComposeLatchStarts_2 :
    (∃ (n : Nat) (s : State) (t : State), exec .composeLatch s = .next t ∧ latches s ∧ n < 6 ∧ s.cmp.layers.length = 6 ∧ (layerOf (decided s) n).enLatched = true ∧ (layerOf (decided s) n).back = .ready ∧ ungrouped (decided s) n = true) ∧
    (∃ (n : Nat) (s : State) (t : State), exec .composeLatch s = .next t ∧ latches s ∧ n < 6 ∧ s.cmp.layers.length = 6 ∧ (layerOf (decided s) n).enLatched = true ∧ (layerOf (decided s) n).back ≠ .ready) ∧
    (∃ (n : Nat) (s : State) (t : State) (g : _), exec .composeLatch s = .next t ∧ latches s ∧ n < 6 ∧ s.cmp.layers.length = 6 ∧ (layerOf (decided s) n).enLatched = true ∧ g < 3 ∧ (groupOf (decided s) g).armed = false ∧ (groupOf (decided s) g).members.testBit n = true ∧ ((fun (m : Nat) => (∀ i ∈ List.range 70, i < 6 → m.testBit i = true → (layerOf (decided s) i).enLatched = true → (layerOf (decided s) i).back = .ready)) (groupOf (decided s) g).members)) ∧
    (∃ (n : Nat) (s : State) (t : State) (g : _), exec .composeLatch s = .next t ∧ latches s ∧ n < 6 ∧ s.cmp.layers.length = 6 ∧ (layerOf (decided s) n).enLatched = true ∧ g < 3 ∧ (groupOf (decided s) g).armed = false ∧ (groupOf (decided s) g).members.testBit n = true ∧ (¬(fun (m : Nat) => (∀ i ∈ List.range 70, i < 6 → m.testBit i = true → (layerOf (decided s) i).enLatched = true → (layerOf (decided s) i).back = .ready)) (groupOf (decided s) g).members) ∧ ((∀ h ∈ List.range 70, h < 3 → h ≠ g → (groupOf (decided s) h).members.testBit n = false)) ∧ ((∀ h ∈ List.range 3, ((groupOf (decided s) h).arm.all fun a => !a.mask.testBit n) = true))) ∧
    (∃ (n : Nat) (s : State) (t : State) (g : _) (a : Arm), exec .composeLatch s = .next t ∧ latches s ∧ n < 6 ∧ s.cmp.layers.length = 6 ∧ (layerOf (decided s) n).enLatched = true ∧ g < 3 ∧ s.cmp.groups.length = 3 ∧ (groupOf (decided s) g).armed = true ∧ (groupOf (decided s) g).arm = some a ∧ a.mask.testBit n = true ∧ ((fun (m : Nat) => (∀ i ∈ List.range 70, i < 6 → m.testBit i = true → (layerOf (decided s) i).enLatched = true → (layerOf (decided s) i).back = .ready)) a.mask) ∧ s.cmd.outstanding.contains a.handle = true) ∧
    (∃ (n : Nat) (s : State) (t : State) (g : _) (a : Arm), exec .composeLatch s = .next t ∧ latches s ∧ n < 6 ∧ s.cmp.layers.length = 6 ∧ (layerOf (decided s) n).enLatched = true ∧ g < 3 ∧ s.cmp.groups.length = 3 ∧ (groupOf (decided s) g).armed = true ∧ (groupOf (decided s) g).arm = some a ∧ a.mask.testBit n = true ∧ (¬(fun (m : Nat) => (∀ i ∈ List.range 70, i < 6 → m.testBit i = true → (layerOf (decided s) i).enLatched = true → (layerOf (decided s) i).back = .ready)) a.mask)) :=
  ⟨⟨2, (inMode .beam (lay 2 { frm with back := .ready, enLatched := true, hasFront := true, stale := 1, cfg := { frm.cfg with policy := 0 }, pend := some { frm.cfg with policy := 1 } } up)), (tOf (exec .composeLatch ((inMode .beam (lay 2 { frm with back := .ready, enLatched := true, hasFront := true, stale := 1, cfg := { frm.cfg with policy := 0 }, pend := some { frm.cfg with policy := 1 } } up))))), rfl, by unfold latches; decide +kernel⟩,
    ⟨2, (inMode .beam (lay 2 { frm with back := .fenced, enLatched := true, hasFront := true, stale := 1, cfg := { frm.cfg with policy := 0 }, pend := some { frm.cfg with policy := 1 } } up)), (tOf (exec .composeLatch ((inMode .beam (lay 2 { frm with back := .fenced, enLatched := true, hasFront := true, stale := 1, cfg := { frm.cfg with policy := 0 }, pend := some { frm.cfg with policy := 1 } } up))))), rfl, by unfold latches; decide +kernel⟩,
    ⟨2, (let s := (lay 3 { frm with back := .ready, enLatched := true } (inMode .beam (lay 2 { frm with back := .ready, enLatched := true, hasFront := true, stale := 1, cfg := { frm.cfg with policy := 0 }, pend := some { frm.cfg with policy := 1 } } up))); { s with cmp := { s.cmp with groups := s.cmp.groups.set 1 { members := 12 } } }), (tOf (exec .composeLatch ((let s := (lay 3 { frm with back := .ready, enLatched := true } (inMode .beam (lay 2 { frm with back := .ready, enLatched := true, hasFront := true, stale := 1, cfg := { frm.cfg with policy := 0 }, pend := some { frm.cfg with policy := 1 } } up))); { s with cmp := { s.cmp with groups := s.cmp.groups.set 1 { members := 12 } } })))), 1, rfl, by unfold latches; decide +kernel⟩,
    ⟨2, (let s := (lay 3 { frm with back := .empty, enLatched := true } (inMode .beam (lay 2 { frm with back := .ready, enLatched := true, hasFront := true, stale := 1, cfg := { frm.cfg with policy := 0 }, pend := some { frm.cfg with policy := 1 } } up))); { s with cmp := { s.cmp with groups := s.cmp.groups.set 1 { members := 12 } } }), (tOf (exec .composeLatch ((let s := (lay 3 { frm with back := .empty, enLatched := true } (inMode .beam (lay 2 { frm with back := .ready, enLatched := true, hasFront := true, stale := 1, cfg := { frm.cfg with policy := 0 }, pend := some { frm.cfg with policy := 1 } } up))); { s with cmp := { s.cmp with groups := s.cmp.groups.set 1 { members := 12 } } })))), 1, rfl, by unfold latches; decide +kernel⟩,
    ⟨2, (let s := (let s := (lay 3 { frm with back := .ready, enLatched := true } (inMode .beam (lay 2 { frm with back := .ready, enLatched := true, hasFront := true, stale := 1, cfg := { frm.cfg with policy := 0 }, pend := some { frm.cfg with policy := 1 } } up))); { s with cmp := { s.cmp with groups := s.cmp.groups.set 1 { members := 12, armed := true, arm := some { mask := 12, handle := 9, src := .spi } } } }); { s with cmd := { s.cmd with outstanding := [9] } }), (tOf (exec .composeLatch ((let s := (let s := (lay 3 { frm with back := .ready, enLatched := true } (inMode .beam (lay 2 { frm with back := .ready, enLatched := true, hasFront := true, stale := 1, cfg := { frm.cfg with policy := 0 }, pend := some { frm.cfg with policy := 1 } } up))); { s with cmp := { s.cmp with groups := s.cmp.groups.set 1 { members := 12, armed := true, arm := some { mask := 12, handle := 9, src := .spi } } } }); { s with cmd := { s.cmd with outstanding := [9] } })))), 1, ((groupOf ((let s := (let s := (lay 3 { frm with back := .ready, enLatched := true } (inMode .beam (lay 2 { frm with back := .ready, enLatched := true, hasFront := true, stale := 1, cfg := { frm.cfg with policy := 0 }, pend := some { frm.cfg with policy := 1 } } up))); { s with cmp := { s.cmp with groups := s.cmp.groups.set 1 { members := 12, armed := true, arm := some { mask := 12, handle := 9, src := .spi } } } }); { s with cmd := { s.cmd with outstanding := [9] } })) 1).arm.getD arm0), rfl, by unfold latches; decide +kernel⟩,
    ⟨2, (let s := (lay 3 { frm with back := .empty, enLatched := true } (inMode .beam (lay 2 { frm with back := .ready, enLatched := true, hasFront := true, stale := 1, cfg := { frm.cfg with policy := 0 }, pend := some { frm.cfg with policy := 1 } } up))); { s with cmp := { s.cmp with groups := s.cmp.groups.set 1 { members := 12, armed := true, arm := some { mask := 12, handle := 9, src := .spi } } } }), (tOf (exec .composeLatch ((let s := (lay 3 { frm with back := .empty, enLatched := true } (inMode .beam (lay 2 { frm with back := .ready, enLatched := true, hasFront := true, stale := 1, cfg := { frm.cfg with policy := 0 }, pend := some { frm.cfg with policy := 1 } } up))); { s with cmp := { s.cmp with groups := s.cmp.groups.set 1 { members := 12, armed := true, arm := some { mask := 12, handle := 9, src := .spi } } } })))), 1, ((groupOf ((let s := (lay 3 { frm with back := .empty, enLatched := true } (inMode .beam (lay 2 { frm with back := .ready, enLatched := true, hasFront := true, stale := 1, cfg := { frm.cfg with policy := 0 }, pend := some { frm.cfg with policy := 1 } } up))); { s with cmp := { s.cmp with groups := s.cmp.groups.set 1 { members := 12, armed := true, arm := some { mask := 12, handle := 9, src := .spi } } } })) 1).arm.getD arm0), rfl, by unfold latches; decide +kernel⟩⟩

/-- The hypotheses of clause 1 of EnginesWork can be met. -/
theorem wit_EnginesWork_0 :
    (∃ (e : Nat) (s : State) (t : _) (q : _), e < 24 ∧ s.scl.engines.length = 24 ∧ composing s = true ∧ (engOf s e).idle = false ∧ (engOf s e).tile = none ∧ (engOf s e).queue = t :: q) ∧
    (∃ (e : Nat) (near : Option Nat) (s : State) (v : _), e < 24 ∧ s.scl.engines.length = 24 ∧ composing s = true ∧ (engOf s e).idle = false ∧ (engOf s e).tile = none ∧ (engOf s e).queue = [] ∧ s.scl.comp.stealEn = true ∧ ((fun (l : List Nat) (o : Option Nat) (v : Nat) => ((o = some v ∧ v ∈ l ∧ (engOf s v).queue ≠ []) ∨ ((fun (l : List Nat) (o : Option Nat) => (((o).all fun w => decide (w ∉ l)) = true)) l o ∧ fullest s l = some v))) ((List.range 24).filter (fun i => i / 6 = e / 6 && i ≠ e)) near v)) ∧
    (∃ (e : Nat) (near : Option Nat) (far : Option Nat) (s : State) (v : _), e < 24 ∧ s.scl.engines.length = 24 ∧ composing s = true ∧ (engOf s e).idle = false ∧ (engOf s e).tile = none ∧ (engOf s e).queue = [] ∧ s.scl.comp.stealEn = true ∧ s.scl.comp.xstealEn = true ∧ ((fun (l : List Nat) (o : Option Nat) => ((∃ v ∈ l, o = some v ∧ (engOf s v).queue = []) ∨ ((fun (l : List Nat) (o : Option Nat) => (((o).all fun w => decide (w ∉ l)) = true)) l o ∧ fullest s l = none))) ((List.range 24).filter (fun i => i / 6 = e / 6 && i ≠ e)) near) ∧ ((fun (l : List Nat) (o : Option Nat) (v : Nat) => ((o = some v ∧ v ∈ l ∧ (engOf s v).queue ≠ []) ∨ ((fun (l : List Nat) (o : Option Nat) => (((o).all fun w => decide (w ∉ l)) = true)) l o ∧ fullest s l = some v))) ((List.range 24).filter (fun i => i / 6 ≠ e / 6)) far v)) ∧
    (∃ (e : Nat) (near : Option Nat) (far : Option Nat) (s : State), e < 24 ∧ s.scl.engines.length = 24 ∧ composing s = true ∧ (engOf s e).idle = false ∧ (engOf s e).tile = none ∧ (engOf s e).queue = [] ∧ ((s.scl.comp.stealEn = false ∨ ((fun (l : List Nat) (o : Option Nat) => ((∃ v ∈ l, o = some v ∧ (engOf s v).queue = []) ∨ ((fun (l : List Nat) (o : Option Nat) => (((o).all fun w => decide (w ∉ l)) = true)) l o ∧ fullest s l = none))) ((List.range 24).filter (fun i => i / 6 = e / 6 && i ≠ e)) near ∧ (s.scl.comp.xstealEn = false ∨ (fun (l : List Nat) (o : Option Nat) => ((∃ v ∈ l, o = some v ∧ (engOf s v).queue = []) ∨ ((fun (l : List Nat) (o : Option Nat) => (((o).all fun w => decide (w ∉ l)) = true)) l o ∧ fullest s l = none))) ((List.range 24).filter (fun i => i / 6 ≠ e / 6)) far))))) :=
  ⟨⟨7, (let s := cmpg (lit up); { s with scl := { s.scl with comp := { s.scl.comp with stealEn := true, xstealEn := true }, engines := (List.range 24).map fun i0 => { (engOf s i0) with idle := false, tile := none, queue := if i0 ∈ [7] then [i0, i0 + 24, i0 + 48] else [] } } }), 7, ([31, 55]), by decide +kernel⟩,
    ⟨7, none, (let s := cmpg (lit up); { s with scl := { s.scl with comp := { s.scl.comp with stealEn := true, xstealEn := true }, engines := (List.range 24).map fun i0 => { (engOf s i0) with idle := false, tile := none, queue := if i0 ∈ [8, 9] then [i0, i0 + 24, i0 + 48] else [] } } }), 8, by decide +kernel⟩,
    ⟨7, none, none, (let s := cmpg (lit up); { s with scl := { s.scl with comp := { s.scl.comp with stealEn := true, xstealEn := true }, engines := (List.range 24).map fun i0 => { (engOf s i0) with idle := false, tile := none, queue := if i0 ∈ [2, 3] then [i0, i0 + 24, i0 + 48] else [] } } }), 2, by decide +kernel⟩,
    ⟨7, none, none, (let s := cmpg (lit up); { s with scl := { s.scl with comp := { s.scl.comp with stealEn := false, xstealEn := true }, engines := (List.range 24).map fun i0 => { (engOf s i0) with idle := false, tile := none, queue := if i0 ∈ [8, 9] then [i0, i0 + 24, i0 + 48] else [] } } }), by decide +kernel⟩⟩

/-- The hypotheses of clause 2 of EnginesWork can be met. -/
theorem wit_EnginesWork_1 :
    (∃ (s : State) (a : Nat) (v : Nat) (l : List Nat), fullest s (a :: l) = some v) :=
  ⟨(let s := cmpg (lit up); { s with scl := { s.scl with comp := { s.scl.comp with stealEn := true, xstealEn := true }, engines := (List.range 24).map fun i0 => { (engOf s i0) with idle := false, tile := none, queue := if i0 ∈ [2, 8] then [i0, i0 + 24, i0 + 48] else [] } } }), 3, 2, ([2, 8, 9]), by decide +kernel⟩

/-- The hypotheses of clause 3 of EnginesWork can be met. -/
theorem wit_EnginesWork_2 :
    (∃ (e : Nat) (t : Nat) (s : State), e < 24 ∧ s.scl.engines.length = 24 ∧ composing s = true ∧ (engOf s e).tile = some t) :=
  ⟨0, 0, (let s := cmpg (lit up); { s with diag := { s.diag with probed := [1] }, arr := { s.arr with dis := [2], trim := { dflt := 16, cells := [(0, 20)] } }, scl := { s.scl with comp := { s.scl.comp with content := .pilot, defects := [3], liftEn := true }, engines := s.scl.engines.set 0 { (engOf s 0) with tile := some 0, idle := false, queue := [24] } } }), by decide +kernel⟩

/-- The hypotheses of clause 4 of EnginesWork can be met. -/
theorem wit_EnginesWork_3 :
    (∃ (t : Nat) (d : List (Nat × Nat)) (s : State), t < 450 ∧ (d.all (fun c => decide (c.1 < 1036800) && decide (c.2 < 2 ^ 20)) = true) ∧ awake s = true ∧ s.scl.comp.retired.contains t = true ∧ s.scl.comp.readDone.contains t = false ∧ s.scl.comp.gus = true) :=
  ⟨0, [(0,5),(5,9)], (let s := cmpg (lit up); { s with scl := { s.scl with comp := { s.scl.comp with gus := true, retired := [0] } } }), by decide +kernel⟩

/-- The hypotheses of clause 5 of EnginesWork can be met. -/
theorem wit_EnginesWork_4 :
    (∃ (o : List Nat) (part : List PartTile) (s : State) (e : _), o.length = 4 ∧ (part.all (fun x => decide (x.engine < 24)) = true) ∧ composing s = true ∧ e < 24) ∧
    (∃ (o : List Nat) (part : List PartTile) (s : State), o.length = 4 ∧ (part.all (fun x => decide (x.engine < 24)) = true) ∧ composing s = true ∧ s.scl.comp.retired.length = 450) ∧
    (∃ (o : List Nat) (part : List PartTile) (s : State), o.length = 4 ∧ (part.all (fun x => decide (x.engine < 24)) = true) ∧ composing s = true ∧ s.scl.comp.retired.length ≠ 450 ∧ 2 ≤ s.scl.missRun) :=
  ⟨⟨[0,0,0,0], ([{engine := 3, passes := 4, busy := 5, stall := 6}]), (let s := cmpg (lit up); { s with scl := { s.scl with misses := 4294967295, missRun := 2, comp := { s.scl.comp with retired := [0] } } }), 5, by decide +kernel⟩,
    ⟨[1,2,3,4], [], (let s := cmpg (lit up); { s with scl := { s.scl with misses := 4294967295, missRun := 0, comp := { s.scl.comp with retired := List.range 450 } } }), by decide +kernel⟩,
    ⟨[0,0,0,0], ([{engine := 3, passes := 4, busy := 5, stall := 6}]), (let s := cmpg (lit up); { s with scl := { s.scl with misses := 4294967295, missRun := 2, comp := { s.scl.comp with retired := [0] } } }), by decide +kernel⟩⟩

/-- The hypotheses of clause 6 of EnginesWork can be met. -/
theorem wit_EnginesWork_5 :
    (∃ (p : Nat) (y : LayerSnap), inDst y.cfg p = false) :=
  ⟨0, ({ cfg := { (frm.cfg) with dstX := 100, dstW := 16, dstH := 2 } } : LayerSnap), by decide +kernel⟩

/-- The hypotheses of clause 7 of EnginesWork can be met. -/
theorem wit_EnginesWork_6 :
    (∃ (s : State) (x : Nat) (row : Nat) (y : LayerSnap), y.cfg.srcW = y.cfg.dstW ∧ y.cfg.srcH = y.cfg.dstH ∧ x < y.cfg.dstW ∧ row < y.cfg.dstH ∧ (s.scl.tables.getD (2 * y.cfg.coeffSet) {}).front = [] ∧ (s.scl.tables.getD (2 * y.cfg.coeffSet + 1) {}).front = []) :=
  ⟨up, 3, 1, ({ cfg := { (frm.cfg) with dstW := 16, dstH := 2 } } : LayerSnap), by decide +kernel⟩

/-- The hypotheses of clause 8 of EnginesWork can be met. -/
theorem wit_EnginesWork_7 :
    (∃ (s : State) (t : Nat) (x : Nat), x < 65536 ∧ (s.cmp.tables.getD t {}).front = [] ∧ t < 6) ∧
    (∃ (s : State) (t : Nat) (x : Nat), x < 65536 ∧ (s.cmp.tables.getD t {}).front = [] ∧ t = 6) :=
  ⟨⟨up, 0, 0, by decide +kernel⟩,
    ⟨up, 6, 0, by decide +kernel⟩⟩

/-- The hypotheses of clause 10 of EnginesWork can be met. -/
theorem wit_EnginesWork_9 :
    (∃ (d : Nat → Bool) (n : Nat) (p : Nat), 8 ≤ n ∧ n ≤ 32 ∧ d p = true) ∧
    (∃ (y : Nat → Nat) (d : Nat → Bool) (lift : Bool) (gain : Nat) (gw : Nat) (n : Nat) (p : Nat), 8 ≤ n ∧ n ≤ 32 ∧ d p = false ∧ (min ((2 * ((y p + if lift then liftOf y d p else 0) * gain * gw * 131040) + 32768 * 32768 * 65535) / (2 * (32768 * 32768 * 65535))) 131040) ≤ 4095) ∧
    (∃ (y : Nat → Nat) (d : Nat → Bool) (lift : Bool) (gain : Nat) (gw : Nat) (n : Nat) (p : Nat), 8 ≤ n ∧ n ≤ 32 ∧ d p = false ∧ 4095 < (min ((2 * ((y p + if lift then liftOf y d p else 0) * gain * gw * 131040) + 32768 * 32768 * 65535) / (2 * (32768 * 32768 * 65535))) 131040) ∧ (min ((2 * ((y p + if lift then liftOf y d p else 0) * gain * gw * 131040) + 32768 * 32768 * 65535) / (2 * (32768 * 32768 * 65535))) 131040) ≤ 16380) ∧
    (∃ (y : Nat → Nat) (d : Nat → Bool) (lift : Bool) (gain : Nat) (gw : Nat) (n : Nat) (p : Nat), 8 ≤ n ∧ n ≤ 32 ∧ d p = false ∧ 16380 < (min ((2 * ((y p + if lift then liftOf y d p else 0) * gain * gw * 131040) + 32768 * 32768 * 65535) / (2 * (32768 * 32768 * 65535))) 131040) ∧ (min ((2 * ((y p + if lift then liftOf y d p else 0) * gain * gw * 131040) + 32768 * 32768 * 65535) / (2 * (32768 * 32768 * 65535))) 131040) ≤ 65520) ∧
    (∃ (y : Nat → Nat) (d : Nat → Bool) (lift : Bool) (gain : Nat) (gw : Nat) (n : Nat) (p : Nat), 8 ≤ n ∧ n ≤ 32 ∧ d p = false ∧ 65520 < (min ((2 * ((y p + if lift then liftOf y d p else 0) * gain * gw * 131040) + 32768 * 32768 * 65535) / (2 * (32768 * 32768 * 65535))) 131040)) ∧
    (∃ (y : Nat → Nat) (d : Nat → Bool) (lift : Bool) (gain : Nat) (gw : Nat) (n : Nat) (p : Nat), 8 ≤ n ∧ n ≤ 32 ∧ d p = false ∧ ((wWidth (mapPixel y d lift gain gw n p).word) = 0 ∨ minOn (wSpan (mapPixel y d lift gain gw n p).word) ≤ (wWidth (mapPixel y d lift gain gw n p).word))) ∧
    (∃ (y : Nat → Nat) (d : Nat → Bool) (lift : Bool) (gain : Nat) (gw : Nat) (n : Nat) (p : Nat), 8 ≤ n ∧ n ≤ 32 ∧ d p = false ∧ (wWidth (mapPixel y d lift gain gw n p).word) ≠ 0 ∧ (wWidth (mapPixel y d lift gain gw n p).word) < minOn (wSpan (mapPixel y d lift gain gw n p).word)) :=
  ⟨⟨(fun i => i == 7), 8, 7, by decide +kernel⟩,
    ⟨(fun _ => 0), (fun i => i == 7), true, 0x8000, 0x8000, 8, 6, by decide +kernel⟩,
    ⟨(fun _ => 4000), (fun i => i == 7), true, 0x8000, 0x8000, 8, 6, by decide +kernel⟩,
    ⟨(fun _ => 65535), (fun i => i == 7), false, 0x4000, 0x8000, 8, 6, by decide +kernel⟩,
    ⟨(fun _ => 65535), (fun i => i == 7), true, 0x8000, 0x8000, 8, 6, by decide +kernel⟩,
    ⟨(fun _ => 0), (fun i => i == 7), true, 0x8000, 0x8000, 8, 6, by decide +kernel⟩,
    ⟨(fun _ => 1), (fun i => i == 7), true, 0x8000, 0x8000, 8, 6, by decide +kernel⟩⟩

/-- The hypotheses of clause 11 of EnginesWork can be met. -/
theorem wit_EnginesWork_10 :
    (∃ (d : Nat → Bool) (p : Nat), ((∀ i ∈ edgeNeighbours p, d i = false))) :=
  ⟨(fun i => i == 7), 60, by decide +kernel⟩

/-- The hypotheses of clause 1 of GovernorKeepsBudget can be met. -/
theorem wit_GovernorKeepsBudget_0 :
    (∃ (s : State), awake s = true ∧ s.ft.running = true ∧ darkNext s = true) ∧
    (∃ (s : State), awake s = true ∧ s.ft.running = true ∧ darkNext s = false ∧ s.pwr.mode ≠ .kindle) :=
  ⟨⟨(kin 4), by decide +kernel⟩,
    ⟨up, by decide +kernel⟩⟩

/-- The hypotheses of clause 2 of GovernorKeepsBudget can be met. -/
theorem wit_GovernorKeepsBudget_1 :
    (∃ (s : State), (¬(awake s = true ∧ s.ft.running = true))) :=
  ⟨boot, by decide +kernel⟩

/-- The hypotheses of clause 4 of GovernorKeepsBudget can be met. -/
theorem wit_GovernorKeepsBudget_3 :
    (∃ (t : State) (s : State), t.arr.gref < 256 ∧ 256 ≤ s.arr.gref) ∧
    (∃ (t : State) (s : State), (256 ≤ t.arr.gref ∨ s.arr.gref < 256)) :=
  ⟨⟨({ up with arr := { up.arr with gref := 255 } } : State), ({ up with arr := { up.arr with gref := 256 } } : State), by decide +kernel⟩,
    ⟨({ up with arr := { up.arr with gref := 256 } } : State), ({ up with arr := { up.arr with gref := 255 } } : State), by decide +kernel⟩⟩

/-- The hypotheses of clause 5 of GovernorKeepsBudget can be met. -/
theorem wit_GovernorKeepsBudget_4 :
    (∃ (p : Nat) (budget : Nat) (f : Nat), 16 * p ≤ budget * f * 1000000) :=
  ⟨0, 0, 0, by decide +kernel⟩

/-- The hypotheses of clause 6 of GovernorKeepsBudget can be met. -/
theorem wit_GovernorKeepsBudget_5 :
    (∃ (p : Nat) (budget : Nat) (f : Nat), budget * f * 1000000 < 16 * p ∧ 1 < grefOf p budget f) :=
  ⟨12000000001, 12000, 16, by decide +kernel⟩

/-- The hypotheses of clause 1 of BudgetRange can be met. -/
theorem wit_BudgetRange_0 :
    (∃ (h : Hdr) (w : Word) (s : State), admitsWrite h 0x5000C w.toNat s = true ∧ (1000 ≤ (w.toNat % 65536) ∧ (w.toNat % 65536) ≤ 20000)) ∧
    (∃ (h : Hdr) (w : Word) (s : State), admitsWrite h 0x5000C w.toNat s = true ∧ ((w.toNat % 65536) < 1000 ∨ 20000 < (w.toNat % 65536))) :=
  ⟨⟨hd, 1000, up, by decide +kernel⟩,
    ⟨hd, 999, up, by decide +kernel⟩⟩

/-- The hypotheses of clause 2 of BudgetRange can be met. -/
theorem wit_BudgetRange_1 :
    (∃ (s : State), awake s = true ∧ s.ft.running = true) :=
  ⟨({ up with arr := { up.arr with sumActive := (20000000000,1,2,3), sumShadow := (30000000000,1,2,3) } } : State), by decide +kernel⟩

/-- The hypotheses of clause 1 of FrameLatchSwaps can be met. -/
theorem wit_FrameLatchSwaps_0 :
    (∃ (f : List PixFlags) (s : State), flagsOk f = true ∧ awake s = true ∧ s.ft.running = true ∧ s.rope.statusEn = true) :=
  ⟨[], (lit up), by decide +kernel⟩

/-- The hypotheses of clause 2 of FrameLatchSwaps can be met. -/
theorem wit_FrameLatchSwaps_1 :
    (∃ (f : List PixFlags) (s : State), flagsOk f = true ∧ awake s = true ∧ s.ft.running = true ∧ staysLit s ∧ s.pwr.next = none ∧ s.scl.comp.ok = true) ∧
    (∃ (f : List PixFlags) (s : State), flagsOk f = true ∧ awake s = true ∧ s.ft.running = true ∧ staysLit s ∧ s.pwr.next = none ∧ s.scl.comp.ok = false) :=
  ⟨⟨[], (let s := lit up; { s with scl := { s.scl with missRun := 2, comp := { s.scl.comp with ok := true } }, ft := { s.ft with frameCount := 4294967295 }, arr := { s.arr with grefNext := 99 } }), by unfold staysLit; decide +kernel⟩,
    ⟨[], (let s := lit up; { s with scl := { s.scl with missRun := 2, comp := { s.scl.comp with ok := false } }, ft := { s.ft with frameCount := 4294967295 }, arr := { s.arr with grefNext := 99 } }), by unfold staysLit; decide +kernel⟩⟩

/-- The hypotheses of clause 3 of FrameLatchSwaps can be met. -/
theorem wit_FrameLatchSwaps_2 :
    (∃ (s : State), arrayDark s = true) :=
  ⟨(lit (inMode .snuffed up)), by decide +kernel⟩

/-- The hypotheses of clause 4 of FrameLatchSwaps can be met. -/
theorem wit_FrameLatchSwaps_3 :
    (∃ (s : State), arrayDark s = false ∧ s.scl.comp.ok = false) :=
  ⟨(lit up), by decide +kernel⟩

/-- The hypotheses of clause 1 of HeadroomLoop can be met. -/
theorem wit_HeadroomLoop_0 :
    (∃ (s : State), litMode s.pwr.mode = true ∧ s.pwr.dark = false ∧ s.arr.auto = true ∧ s.arr.acc.lit ≠ [] ∧ s.arr.lowLimit < s.arr.lowCount) ∧
    (∃ (s : State), litMode s.pwr.mode = true ∧ s.pwr.dark = false ∧ s.arr.auto = true ∧ s.arr.acc.lit ≠ [] ∧ s.arr.lowCount = 0 ∧ 3 ≤ s.arr.lowFrames) ∧
    (∃ (s : State), litMode s.pwr.mode = true ∧ s.pwr.dark = false ∧ s.arr.auto = true ∧ s.arr.acc.lit ≠ [] ∧ s.arr.lowCount = 0 ∧ s.arr.lowFrames < 3) ∧
    (∃ (s : State), litMode s.pwr.mode = true ∧ s.pwr.dark = false ∧ s.arr.auto = true ∧ s.arr.acc.lit ≠ [] ∧ 0 < s.arr.lowCount ∧ s.arr.lowCount ≤ s.arr.lowLimit) :=
  ⟨⟨({ up with arr := { up.arr with auto := true, lowCount := 17, lowFrames := 2, duty := 1184, lowLimit := 16, upStep := 5, acc := { up.arr.acc with lit := [{}] } } } : State), by decide +kernel⟩,
    ⟨({ up with arr := { up.arr with auto := true, lowCount := 0, lowFrames := 3, duty := 63, lowLimit := 16, upStep := 5, acc := { up.arr.acc with lit := [{}] } } } : State), by decide +kernel⟩,
    ⟨({ up with arr := { up.arr with auto := true, lowCount := 0, lowFrames := 2, duty := 300, lowLimit := 16, upStep := 5, acc := { up.arr.acc with lit := [{}] } } } : State), by decide +kernel⟩,
    ⟨({ up with arr := { up.arr with auto := true, lowCount := 16, lowFrames := 2, duty := 300, lowLimit := 16, upStep := 5, acc := { up.arr.acc with lit := [{}] } } } : State), by decide +kernel⟩⟩

/-- The hypotheses of clause 2 of HeadroomLoop can be met. -/
theorem wit_HeadroomLoop_1 :
    (∃ (s : State), (litMode s.pwr.mode = false ∨ s.pwr.dark = true ∨ s.arr.auto = false ∨ s.arr.acc.lit = [])) :=
  ⟨(inMode .snuffed up), by decide +kernel⟩

/-- The hypotheses of clause 1 of SlotsVerdictsSignatures can be met. -/
theorem wit_SlotsVerdictsSignatures_0 :
    (∃ (f : List PixFlags) (x : Option PixScan) (s : State) (q : SlotPos) (n : SlotPos) (y : PixTest) (r : PixScan), flagsOk f = true ∧ awake s = true ∧ s.ft.running = true ∧ s.arr.slot = some q ∧ nextSlot (repeatOf s.ft.rateInForce) q = some n ∧ s.diag.test = some y ∧ x = some r ∧ y.testing = true ∧ q.cycle = 0 ∧ phaseOf y.pix = q.phase ∧ y.result = none ∧ s.arr.sinkEn = true) :=
  ⟨([({ pix := 0, noi := true, hvd := false, hdl := true } : PixFlags), ({ pix := 5, noi := true, hvd := true, hdl := true } : PixFlags)]), (some sc0), (let s := lit up; { s with arr := { s.arr with slot := some { cycle := 0, phase := 0 }, acc := { s.arr.acc with lit := [{ pix := 0, word := 0x4FF, judged := 0, opens := 0, shorts := 0 }] } }, diag := { s.diag with test := some { pix := 0, testing := true } } }), ({ cycle := 0 } : SlotPos), ((nextSlot (repeatOf ((let s := lit up; { s with arr := { s.arr with slot := some { cycle := 0, phase := 0 }, acc := { s.arr.acc with lit := [{ pix := 0, word := 0x4FF, judged := 0, opens := 0, shorts := 0 }] } }, diag := { s.diag with test := some { pix := 0, testing := true } } })).ft.rateInForce) (({ cycle := 0 } : SlotPos))).getD slot0), (((let s := lit up; { s with arr := { s.arr with slot := some { cycle := 0, phase := 0 }, acc := { s.arr.acc with lit := [{ pix := 0, word := 0x4FF, judged := 0, opens := 0, shorts := 0 }] } }, diag := { s.diag with test := some { pix := 0, testing := true } } })).diag.test.getD test0), sc0, by decide +kernel⟩

/-- The hypotheses of clause 2 of SlotsVerdictsSignatures can be met. -/
theorem wit_SlotsVerdictsSignatures_1 :
    (∃ (s : State) (q : SlotPos) (k : PixAcc), pulseJudged s.arr.staggerEn k.pix k.word (slotPulse s q k) = false) ∧
    (∃ (s : State) (q : SlotPos) (f : List PixFlags) (k : PixAcc) (g : PixFlags), pulseJudged s.arr.staggerEn k.pix k.word (slotPulse s q k) = true ∧ (f.find? (fun f => f.pix = k.pix) = some g)) ∧
    (∃ (s : State) (q : SlotPos) (f : List PixFlags) (k : PixAcc), pulseJudged s.arr.staggerEn k.pix k.word (slotPulse s q k) = true ∧ (f.find? (fun f => f.pix = k.pix) = none)) :=
  ⟨⟨up, ({} : SlotPos), ({ pix := 0, word := 3 } : PixAcc), by decide +kernel⟩,
    ⟨(let s := lit up; { s with arr := { s.arr with slot := some { cycle := 0, phase := 0 }, acc := { s.arr.acc with lit := [{ pix := 0, word := 0x4FF, judged := 1, opens := 0, shorts := 0 }] } }, diag := { s.diag with fails := s.diag.fails } }), ({ cycle := 0 } : SlotPos), ([({ pix := 0, noi := true, hvd := false, hdl := true } : PixFlags), ({ pix := 5, noi := true, hvd := true, hdl := true } : PixFlags)]), ({ pix := 0, word := 0x4FF, judged := 1, opens := 0, shorts := 0 } : PixAcc), ((([({ pix := 0, noi := true, hvd := false, hdl := true } : PixFlags), ({ pix := 5, noi := true, hvd := true, hdl := true } : PixFlags)]).find? (fun z0 => z0.pix = (({ pix := 0, word := 0x4FF, judged := 1, opens := 0, shorts := 0 } : PixAcc)).pix)).getD flags0), by decide +kernel⟩,
    ⟨(let s := lit up; { s with arr := { s.arr with slot := some { cycle := 0, phase := 0 }, acc := { s.arr.acc with lit := [{ pix := 0, word := 0x4FF, judged := 1, opens := 0, shorts := 0 }] } }, diag := { s.diag with fails := s.diag.fails } }), ({ cycle := 0 } : SlotPos), [], ({ pix := 0, word := 0x4FF, judged := 1, opens := 0, shorts := 0 } : PixAcc), by decide +kernel⟩⟩

/-- The hypotheses of clause 3 of SlotsVerdictsSignatures can be met. -/
theorem wit_SlotsVerdictsSignatures_2 :
    (∃ (p : List Nat) (k : PixAcc) (s : State), (p.all (fun i => decide (i < 1036800)) = true) ∧ awake s = true ∧ s.ft.running = true ∧ (s.arr.accPrev.lit.map (·.pix)).Nodup ∧ k ∈ s.arr.accPrev.lit ∧ k.pix ∉ p ∧ ((((s.diag.test).all fun x => decide (x.pix ≠ k.pix)) = true)) ∧ ((10368 < (s.arr.accPrev).low.length ∨ (s.arr.accPrev).sinkCleared = true))) ∧
    (∃ (p : List Nat) (k : PixAcc) (s : State), (p.all (fun i => decide (i < 1036800)) = true) ∧ awake s = true ∧ s.ft.running = true ∧ (s.arr.accPrev.lit.map (·.pix)).Nodup ∧ k ∈ s.arr.accPrev.lit ∧ k.pix ∉ p ∧ ((((s.diag.test).all fun x => decide (x.pix ≠ k.pix)) = true)) ∧ (¬(10368 < (s.arr.accPrev).low.length ∨ (s.arr.accPrev).sinkCleared = true)) ∧ k.judged = 0) ∧
    (∃ (p : List Nat) (k : PixAcc) (s : State), (p.all (fun i => decide (i < 1036800)) = true) ∧ awake s = true ∧ s.ft.running = true ∧ (s.arr.accPrev.lit.map (·.pix)).Nodup ∧ k ∈ s.arr.accPrev.lit ∧ k.pix ∉ p ∧ ((((s.diag.test).all fun x => decide (x.pix ≠ k.pix)) = true)) ∧ (¬(10368 < (s.arr.accPrev).low.length ∨ (s.arr.accPrev).sinkCleared = true)) ∧ ((k.judged ≠ 0 ∧ (k.judged ≤ 2 * k.shorts ∨ k.judged ≤ 2 * k.opens))) ∧ (sget s.diag.fails k.pix) = 2 ∧ isDefect s k.pix = false) ∧
    (∃ (p : List Nat) (k : PixAcc) (s : State), (p.all (fun i => decide (i < 1036800)) = true) ∧ awake s = true ∧ s.ft.running = true ∧ (s.arr.accPrev.lit.map (·.pix)).Nodup ∧ k ∈ s.arr.accPrev.lit ∧ k.pix ∉ p ∧ ((((s.diag.test).all fun x => decide (x.pix ≠ k.pix)) = true)) ∧ (¬(10368 < (s.arr.accPrev).low.length ∨ (s.arr.accPrev).sinkCleared = true)) ∧ k.judged ≠ 0 ∧ (¬(k.judged ≠ 0 ∧ (k.judged ≤ 2 * k.shorts ∨ k.judged ≤ 2 * k.opens)))) :=
  ⟨⟨[7], ({ pix := 4, word := 0x4FF, judged := 0, opens := 0, shorts := 0 } : PixAcc), (let s := lit up; { s with arr := { s.arr with accPrev := { s.arr.acc with lit := [{ pix := 4, word := 0x4FF, judged := 0, opens := 0, shorts := 0 }, { pix := 900, word := 5 }], low := List.range 10369, sinkCleared := false } }, diag := { s.diag with fails := { dflt := 0, cells := [(4, 2)] }, unver := { dflt := 0, cells := [(4, 3)] }, probedPrev := [], defects := [] } }), by decide +kernel⟩,
    ⟨[7], ({ pix := 4, word := 0x4FF, judged := 0, opens := 0, shorts := 0 } : PixAcc), (let s := lit up; { s with arr := { s.arr with accPrev := { s.arr.acc with lit := [{ pix := 4, word := 0x4FF, judged := 0, opens := 0, shorts := 0 }, { pix := 900, word := 5 }], low := List.range 0, sinkCleared := false } }, diag := { s.diag with fails := { dflt := 0, cells := [(4, 2)] }, unver := { dflt := 0, cells := [(4, 3)] }, probedPrev := [], defects := [] } }), by decide +kernel⟩,
    ⟨[7], ({ pix := 4, word := 0x4FF, judged := 4, opens := 2, shorts := 0 } : PixAcc), (let s := lit up; { s with arr := { s.arr with accPrev := { s.arr.acc with lit := [{ pix := 4, word := 0x4FF, judged := 4, opens := 2, shorts := 0 }, { pix := 900, word := 5 }], low := List.range 0, sinkCleared := false } }, diag := { s.diag with fails := { dflt := 0, cells := [(4, 2)] }, unver := { dflt := 0, cells := [(4, 3)] }, probedPrev := [], defects := [] } }), by decide +kernel⟩,
    ⟨[7], ({ pix := 4, word := 0x4FF, judged := 4, opens := 0, shorts := 0 } : PixAcc), (let s := lit up; { s with arr := { s.arr with accPrev := { s.arr.acc with lit := [{ pix := 4, word := 0x4FF, judged := 4, opens := 0, shorts := 0 }, { pix := 900, word := 5 }], low := List.range 0, sinkCleared := false } }, diag := { s.diag with fails := { dflt := 0, cells := [(4, 2)] }, unver := { dflt := 0, cells := [(4, 3)] }, probedPrev := [], defects := [] } }), by decide +kernel⟩⟩

/-- The hypotheses of clause 4 of SlotsVerdictsSignatures can be met. -/
theorem wit_SlotsVerdictsSignatures_3 :
    (∃ (p : List Nat) (i : Nat) (s : State), (p.all (fun i => decide (i < 1036800)) = true) ∧ awake s = true ∧ s.ft.running = true ∧ i ∈ p) :=
  ⟨[0,1036799], 0, up, by decide +kernel⟩

/-- The hypotheses of clause 5 of SlotsVerdictsSignatures can be met. -/
theorem wit_SlotsVerdictsSignatures_4 :
    (∃ (p : List Nat) (k : PixAcc) (x : PixTest) (r : PixScan) (s : State), (p.all (fun i => decide (i < 1036800)) = true) ∧ awake s = true ∧ s.ft.running = true ∧ (s.arr.accPrev.lit.map (·.pix)).Nodup ∧ k ∈ s.arr.accPrev.lit ∧ k.pix ∉ p ∧ s.diag.test = some x ∧ x.pix = k.pix ∧ x.testing = true ∧ x.frame ≠ s.ft.frameCount ∧ x.result = some r ∧ k.judged = 0) :=
  ⟨[7], ({ pix := 4, word := 0x4FF, judged := 0, opens := 0, shorts := 0 } : PixAcc), ({ pix := 4, testing := true, frame := 3, result := some sc0 } : PixTest), sc0, (let s := lit up; { s with arr := { s.arr with accPrev := { s.arr.acc with lit := [{ pix := 4, word := 0x4FF, judged := 0, opens := 0, shorts := 0 }, { pix := 900, word := 5 }], low := List.range 0, sinkCleared := false } }, diag := { s.diag with fails := { dflt := 0, cells := [(4, 2)] }, unver := { dflt := 0, cells := [(4, 4)] }, probedPrev := [], defects := [], test := some { pix := 4, testing := true, frame := 3, result := some sc0 } } }), by decide +kernel⟩

/-- The hypotheses of clause 6 of SlotsVerdictsSignatures can be met. -/
theorem wit_SlotsVerdictsSignatures_5 :
    (∃ (s : State) (r : _), awake s = true ∧ s.scl.comp.gus = true ∧ s.scl.comp.flushed = true ∧ (litMode s.pwr.mode = true ∨ s.pwr.mode = .kindle) ∧ s.chk.sigs.length = 16 ∧ r < 16 ∧ (sigOf s r).cfg.mode = 0) ∧
    (∃ (s : State) (r : _), awake s = true ∧ s.scl.comp.gus = true ∧ s.scl.comp.flushed = true ∧ (litMode s.pwr.mode = true ∨ s.pwr.mode = .kindle) ∧ s.chk.sigs.length = 16 ∧ r < 16 ∧ (sigOf s r).cfg.mode ≠ 0 ∧ (s.scl.comp).ok = false) ∧
    (∃ (s : State) (r : _), awake s = true ∧ s.scl.comp.gus = true ∧ s.scl.comp.flushed = true ∧ (litMode s.pwr.mode = true ∨ s.pwr.mode = .kindle) ∧ s.chk.sigs.length = 16 ∧ r < 16 ∧ (sigOf s r).cfg.mode ≠ 0 ∧ (s.scl.comp).ok = true ∧ readbackDone (s.scl.comp) (sigOf s r).cfg.rect = true) ∧
    (∃ (s : State) (r : _), awake s = true ∧ s.scl.comp.gus = true ∧ s.scl.comp.flushed = true ∧ (litMode s.pwr.mode = true ∨ s.pwr.mode = .kindle) ∧ s.chk.sigs.length = 16 ∧ r < 16 ∧ (sigOf s r).cfg.mode ≠ 0 ∧ (s.scl.comp).ok = true ∧ readbackDone (s.scl.comp) (sigOf s r).cfg.rect = false) :=
  ⟨⟨(let s := cmpg up; { s with chk := { s.chk with sigs := s.chk.sigs.set 3 { cfg := { mode := 0, rect := { c0 := 0, r0 := 0, c1 := 3, r1 := 1 }, thresh := 3, expect := 0 }, run := 2, fails := 4095 } }, scl := { s.scl with comp := { s.scl.comp with gus := true, flushed := true, ok := true, readDone := [], content := .layers } } }), 3, by decide +kernel⟩,
    ⟨(let s := cmpg up; { s with chk := { s.chk with sigs := s.chk.sigs.set 3 { cfg := { mode := 1, rect := { c0 := 0, r0 := 0, c1 := 3, r1 := 1 }, thresh := 3, expect := 0 }, run := 2, fails := 4095 } }, scl := { s.scl with comp := { s.scl.comp with gus := true, flushed := true, ok := false, readDone := [], content := .layers } } }), 3, by decide +kernel⟩,
    ⟨(let s := cmpg up; { s with chk := { s.chk with sigs := s.chk.sigs.set 3 { cfg := { mode := 1, rect := { c0 := 0, r0 := 0, c1 := 3, r1 := 1 }, thresh := 3, expect := 0 }, run := 2, fails := 4095 } }, scl := { s.scl with comp := { s.scl.comp with gus := true, flushed := true, ok := true, readDone := [0], content := .layers } } }), 3, by decide +kernel⟩,
    ⟨(let s := cmpg up; { s with chk := { s.chk with sigs := s.chk.sigs.set 3 { cfg := { mode := 1, rect := { c0 := 0, r0 := 0, c1 := 3, r1 := 1 }, thresh := 3, expect := 0 }, run := 2, fails := 4095 } }, scl := { s.scl with comp := { s.scl.comp with gus := true, flushed := true, ok := true, readDone := [], content := .layers } } }), 3, by decide +kernel⟩⟩

/-- The hypotheses of clause 1 of FrameTimerFollows can be met. -/
theorem wit_FrameTimerFollows_0 :
    (∃ (s : State), lanesUp s = true ∧ s.ft.activeSrc = 1 ∧ startsHard s = true) ∧
    (∃ (n : Nat) (s : State), lanesUp s = true ∧ s.ft.activeSrc = 1 ∧ startsHard s = false ∧ s.ft.running = true ∧ (phaseError s.ft.rateInForce ((n : Int) - 2 + sext 16 s.ft.ofsInForce)).natAbs ≤ 32) ∧
    (∃ (n : Nat) (s : State), lanesUp s = true ∧ s.ft.activeSrc = 1 ∧ startsHard s = false ∧ s.ft.running = true ∧ 32 < (phaseError s.ft.rateInForce ((n : Int) - 2 + sext 16 s.ft.ofsInForce)).natAbs ∧ (phaseError s.ft.rateInForce ((n : Int) - 2 + sext 16 s.ft.ofsInForce)).natAbs ≤ 160) ∧
    (∃ (n : Nat) (s : State), lanesUp s = true ∧ s.ft.activeSrc = 1 ∧ startsHard s = false ∧ s.ft.running = true ∧ 160 < (phaseError s.ft.rateInForce ((n : Int) - 2 + sext 16 s.ft.ofsInForce)).natAbs ∧ s.ft.locked = true ∧ 3 ≤ s.ft.badRun) ∧
    (∃ (n : Nat) (s : State), lanesUp s = true ∧ s.ft.activeSrc = 1 ∧ startsHard s = false ∧ s.ft.running = true ∧ ((phaseError s.ft.rateInForce ((n : Int) - 2 + sext 16 s.ft.ofsInForce)).natAbs ≤ 160 ∨ s.ft.locked = false ∨ s.ft.badRun < 3)) :=
  ⟨⟨(let s := kin 3; { s with ft := { s.ft with activeSrc := 1, running := false, hadRef := false, offset := 0x7FFF } }), by decide +kernel⟩,
    ⟨2, (let s := up; { s with ft := { s.ft with activeSrc := 1, goodRun := 7, badRun := 2 } }), by decide +kernel⟩,
    ⟨100, (let s := up; { s with ft := { s.ft with activeSrc := 1, goodRun := 7, badRun := 2 } }), by decide +kernel⟩,
    ⟨180, (let s := up; { s with ft := { s.ft with activeSrc := 1, goodRun := 3, badRun := 3, locked := true, ofsInForce := 0xFFFF } }), by decide +kernel⟩,
    ⟨2, (let s := up; { s with ft := { s.ft with activeSrc := 1, goodRun := 7, badRun := 2 } }), by decide +kernel⟩⟩

/-- The hypotheses of clause 2 of FrameTimerFollows can be met. -/
theorem wit_FrameTimerFollows_1 :
    (∃ (s : State), s.ft.activeSrc ≠ 1) :=
  ⟨up, by decide +kernel⟩

/-- The hypotheses of clause 4 of FrameTimerFollows can be met. -/
theorem wit_FrameTimerFollows_3 :
    (∃ (s : State), awake s = true ∧ s.ft.running = true ∧ s.ft.activeSrc ≠ 0 ∧ s.ft.holdover = false) :=
  ⟨(let s := up; { s with ft := { s.ft with activeSrc := 1, trim := -5, locked := true } }), by decide +kernel⟩

/-- The hypotheses of clause 5 of FrameTimerFollows can be met. -/
theorem wit_FrameTimerFollows_4 :
    (∃ (s : State), awake s = true ∧ s.ft.running = true ∧ -20000 ≤ s.ft.trim ∧ s.ft.trim ≤ 20000 ∧ s.ft.activeSrc = 0) ∧
    (∃ (s : State), awake s = true ∧ s.ft.running = true ∧ -20000 ≤ s.ft.trim ∧ s.ft.trim ≤ 20000 ∧ s.ft.activeSrc ≠ 0 ∧ s.ft.holdover = true) :=
  ⟨⟨({ up with ft := { up.ft with trim := 20000 } } : State), by decide +kernel⟩,
    ⟨(let s := up; { s with ft := { s.ft with activeSrc := 1, trim := -50, holdover := true } }), by decide +kernel⟩⟩

/-- The hypotheses of clause 1 of LaneClimbsToBond can be met. -/
theorem wit_LaneClimbsToBond_0 :
    (∃ (b : List Byte), b.length = 13) :=
  ⟨(anch 2 1 4 5), by decide +kernel⟩

/-- The hypotheses of clause 2 of LaneClimbsToBond can be met. -/
theorem wit_LaneClimbsToBond_1 :
    (∃ (l : Nat) (x : Lane) (s : State), lanesUp s = true ∧ l < 5 ∧ s.lnk.lanes[l]? = some x ∧ x.state = .detect ∧ x.attempting = false ∧ laneEnabled s l = true ∧ ((x.ladderShared = false ∨ s.lnk.lref = true)) ∧ l < 4) ∧
    (∃ (l : Nat) (x : Lane) (s : State), lanesUp s = true ∧ l < 5 ∧ s.lnk.lanes[l]? = some x ∧ x.state = .detect ∧ x.attempting = false ∧ laneEnabled s l = true ∧ ((x.ladderShared = false ∨ s.lnk.lref = true)) ∧ l = 4) :=
  ⟨⟨3, (((onLane 3 { attempting := false } up).lnk.lanes[(3)]?).getD {}), (onLane 3 { attempting := false } up), by decide +kernel⟩,
    ⟨4, (((onLane 4 { attempting := false } (let s := prd up; { s with lnk := { s.lnk with twEn := true } })).lnk.lanes[(4)]?).getD {}), (onLane 4 { attempting := false } (let s := prd up; { s with lnk := { s.lnk with twEn := true } })), by decide +kernel⟩⟩

/-- The hypotheses of clause 3 of LaneClimbsToBond can be met. -/
theorem wit_LaneClimbsToBond_2 :
    (∃ (l : Nat) (set : List LaneWord) (x : Lane) (s : State), lanesUp s = true ∧ l < 5 ∧ set.length = 4 ∧ s.lnk.lanes[l]? = some x ∧ (x.state ≠ .detect ∨ x.attempting = false)) ∧
    (∃ (l : Nat) (set : List LaneWord) (x : Lane) (s : State), lanesUp s = true ∧ l < 5 ∧ set.length = 4 ∧ s.lnk.lanes[l]? = some x ∧ x.state = .detect ∧ x.attempting = true ∧ setBytes 0xA7 (laneSymbols s l set) = none) ∧
    (∃ (l : Nat) (set : List LaneWord) (x : Lane) (s : State) (b : _), lanesUp s = true ∧ l < 5 ∧ set.length = 4 ∧ s.lnk.lanes[l]? = some x ∧ x.state = .detect ∧ x.attempting = true ∧ setBytes 0xA7 (laneSymbols s l set) = some b ∧ l < 4 ∧ (min 4 (x.anchors + 1)) = 4 ∧ ((fun (r : Nat) => (if (fun (r : Nat) => ((field b 3 1).testBit 0 && field b 4 1 = r && r ≠ 7 : Bool )) r then min 2 (x.acks + 1) else x.acks)) x.ladderRate = 2)) ∧
    (∃ (l : Nat) (set : List LaneWord) (x : Lane) (s : State) (b : _), lanesUp s = true ∧ l < 5 ∧ set.length = 4 ∧ s.lnk.lanes[l]? = some x ∧ x.state = .detect ∧ x.attempting = true ∧ setBytes 0xA7 (laneSymbols s l set) = some b ∧ l < 4 ∧ (¬((min 4 (x.anchors + 1)) = 4 ∧ (fun (r : Nat) => (if (fun (r : Nat) => ((field b 3 1).testBit 0 && field b 4 1 = r && r ≠ 7 : Bool )) r then min 2 (x.acks + 1) else x.acks)) x.ladderRate = 2))) ∧
    (∃ (l : Nat) (set : List LaneWord) (x : Lane) (s : State) (b : _), lanesUp s = true ∧ l < 5 ∧ set.length = 4 ∧ s.lnk.lanes[l]? = some x ∧ x.state = .detect ∧ x.attempting = true ∧ setBytes 0xA7 (laneSymbols s l set) = some b ∧ l = 4) :=
  ⟨⟨0, (wset false (anch 4 1 4 9)), (((onLane 0 { state := .lock, attempting := true, anchors := 3, acks := 1, ladderRate := 4 } up).lnk.lanes[(0)]?).getD {}), (onLane 0 { state := .lock, attempting := true, anchors := 3, acks := 1, ladderRate := 4 } up), by decide +kernel⟩,
    ⟨0, (wset true (anch 4 1 4 9)), (((onLane 0 { state := .detect, attempting := true, anchors := 3, acks := 1, ladderRate := 4 } up).lnk.lanes[(0)]?).getD {}), (onLane 0 { state := .detect, attempting := true, anchors := 3, acks := 1, ladderRate := 4 } up), by decide +kernel⟩,
    ⟨0, (wset false (anch 4 1 4 9)), (((onLane 0 { state := .detect, attempting := true, anchors := 3, acks := 1, ladderRate := 4 } up).lnk.lanes[(0)]?).getD {}), (onLane 0 { state := .detect, attempting := true, anchors := 3, acks := 1, ladderRate := 4 } up), ((setBytes 0xA7 (laneSymbols (onLane 0 { state := .detect, attempting := true, anchors := 3, acks := 1, ladderRate := 4 } up) (0) (wset false (anch 4 1 4 9)))).getD {}), by decide +kernel⟩,
    ⟨0, (wset false (anch 4 0 4 9)), (((onLane 0 { state := .detect, attempting := true, anchors := 3, acks := 1, ladderRate := 4 } up).lnk.lanes[(0)]?).getD {}), (onLane 0 { state := .detect, attempting := true, anchors := 3, acks := 1, ladderRate := 4 } up), ((setBytes 0xA7 (laneSymbols (onLane 0 { state := .detect, attempting := true, anchors := 3, acks := 1, ladderRate := 4 } up) (0) (wset false (anch 4 0 4 9)))).getD {}), by decide +kernel⟩,
    ⟨4, (wset false (anch 4 1 4 9)), (((let s := onLane 4 { state := .detect, attempting := true, anchors := 3, acks := 0, ladderRate := 4 } (prd up); { s with lnk := { s.lnk with twinAgreed := 4, twinAcks := 4 } }).lnk.lanes[(4)]?).getD {}), (let s := onLane 4 { state := .detect, attempting := true, anchors := 3, acks := 0, ladderRate := 4 } (prd up); { s with lnk := { s.lnk with twinAgreed := 4, twinAcks := 4 } }), ((setBytes 0xA7 (laneSymbols (let s := onLane 4 { state := .detect, attempting := true, anchors := 3, acks := 0, ladderRate := 4 } (prd up); { s with lnk := { s.lnk with twinAgreed := 4, twinAcks := 4 } }) (4) (wset false (anch 4 1 4 9)))).getD {}), by decide +kernel⟩⟩

/-- The hypotheses of clause 4 of LaneClimbsToBond can be met. -/
theorem wit_LaneClimbsToBond_3 :
    (∃ (x : Lane) (s : State), twtxSets s = true ∧ ackDue s = true ∧ s.lnk.lanes[4]? = some x ∧ s.lnk.twinAcks < 4 ∧ x.anchors = 4 ∧ s.lnk.twinAckSeen = true) ∧
    (∃ (x : Lane) (s : State), twtxSets s = true ∧ ackDue s = true ∧ s.lnk.lanes[4]? = some x ∧ s.lnk.twinAcks < 4 ∧ (x.anchors ≠ 4 ∨ s.lnk.twinAckSeen = false)) :=
  ⟨⟨(((let s := onLane 4 { state := .detect, attempting := true, anchors := 4, acks := 0, ladderRate := 4 } (prd up); { s with lnk := { s.lnk with twEn := true, twinAgreed := 3, twinAckSeen := true, twinAcks := 0, twtxLine := { s.lnk.twtxLine with seq := 253 } } }).lnk.lanes[4]?).getD {}), (let s := onLane 4 { state := .detect, attempting := true, anchors := 4, acks := 0, ladderRate := 4 } (prd up); { s with lnk := { s.lnk with twEn := true, twinAgreed := 3, twinAckSeen := true, twinAcks := 0, twtxLine := { s.lnk.twtxLine with seq := 253 } } }), by decide +kernel⟩,
    ⟨(((let s := onLane 4 { state := .detect, attempting := true, anchors := 4, acks := 0, ladderRate := 4 } (prd up); { s with lnk := { s.lnk with twEn := true, twinAgreed := 3, twinAckSeen := false, twinAcks := 0, twtxLine := { s.lnk.twtxLine with seq := 253 } } }).lnk.lanes[4]?).getD {}), (let s := onLane 4 { state := .detect, attempting := true, anchors := 4, acks := 0, ladderRate := 4 } (prd up); { s with lnk := { s.lnk with twEn := true, twinAgreed := 3, twinAckSeen := false, twinAcks := 0, twtxLine := { s.lnk.twtxLine with seq := 253 } } }), by decide +kernel⟩⟩

/-- The hypotheses of clause 5 of LaneClimbsToBond can be met. -/
theorem wit_LaneClimbsToBond_4 :
    (∃ (s : State), (twtxSets s = false ∨ ackDue s = false)) :=
  ⟨up, by decide +kernel⟩

/-- The hypotheses of clause 6 of LaneClimbsToBond can be met. -/
theorem wit_LaneClimbsToBond_5 :
    (∃ (l : Nat) (x : Lane) (s : State), lanesUp s = true ∧ l < 5 ∧ s.lnk.lanes[l]? = some x ∧ x.state = .lock ∧ ((x.shared = false ∨ s.lnk.lref = true))) ∧
    (∃ (l : Nat) (x : Lane) (s : State), lanesUp s = true ∧ l < 5 ∧ s.lnk.lanes[l]? = some x ∧ x.state ≠ .lock) :=
  ⟨⟨4, (((onLane 4 { state := .lock } up).lnk.lanes[(4)]?).getD {}), (onLane 4 { state := .lock } up), by decide +kernel⟩,
    ⟨4, (((onLane 4 { state := .detect } up).lnk.lanes[(4)]?).getD {}), (onLane 4 { state := .detect } up), by decide +kernel⟩⟩

/-- The hypotheses of clause 7 of LaneClimbsToBond can be met. -/
theorem wit_LaneClimbsToBond_6 :
    (∃ (l : Nat) (slip : Nat) (x : Lane) (s : State), lanesUp s = true ∧ l < 5 ∧ slip < 40 ∧ s.lnk.lanes[l]? = some x ∧ x.state = .align) ∧
    (∃ (l : Nat) (slip : Nat) (x : Lane) (s : State), lanesUp s = true ∧ l < 5 ∧ slip < 40 ∧ s.lnk.lanes[l]? = some x ∧ x.state = .detect ∧ x.attempting = true) ∧
    (∃ (l : Nat) (slip : Nat) (x : Lane) (s : State), lanesUp s = true ∧ l < 5 ∧ slip < 40 ∧ s.lnk.lanes[l]? = some x ∧ x.state = .relock ∧ slip = x.slip) ∧
    (∃ (l : Nat) (slip : Nat) (x : Lane) (s : State), lanesUp s = true ∧ l < 5 ∧ slip < 40 ∧ s.lnk.lanes[l]? = some x ∧ x.state = .trained) :=
  ⟨⟨4, 39, (((onLane 4 { state := .align } up).lnk.lanes[(4)]?).getD {}), (onLane 4 { state := .align } up), by decide +kernel⟩,
    ⟨0, 7, (((onLane 0 { attempting := true } up).lnk.lanes[(0)]?).getD {}), (onLane 0 { attempting := true } up), by decide +kernel⟩,
    ⟨0, 39, (((onLane 0 { state := .relock, slip := 39 } up).lnk.lanes[(0)]?).getD {}), (onLane 0 { state := .relock, slip := 39 } up), by decide +kernel⟩,
    ⟨0, 0, (((onLane 0 { state := .trained } up).lnk.lanes[(0)]?).getD {}), (onLane 0 { state := .trained } up), by decide +kernel⟩⟩

/-- The hypotheses of clause 8 of LaneClimbsToBond can be met. -/
theorem wit_LaneClimbsToBond_7 :
    (∃ (l : Nat) (e : EqResult) (x : Lane) (s : State), lanesUp s = true ∧ l < 5 ∧ e.taps.length = 5 ∧ s.lnk.lanes[l]? = some x ∧ x.state = .adapt ∧ 10 ≤ e.eyeH ∧ 20 ≤ e.eyeW ∧ ((l < 4 ∧ s.lnk.bondMask = 0) ∨ (l = 4 ∧ s.lnk.peerBond = false))) ∧
    (∃ (l : Nat) (e : EqResult) (x : Lane) (s : State), lanesUp s = true ∧ l < 5 ∧ e.taps.length = 5 ∧ s.lnk.lanes[l]? = some x ∧ x.state = .adapt ∧ 10 ≤ e.eyeH ∧ 20 ≤ e.eyeW ∧ l = 4 ∧ s.lnk.peerBond = true) ∧
    (∃ (l : Nat) (e : EqResult) (x : Lane) (s : State), lanesUp s = true ∧ l < 5 ∧ e.taps.length = 5 ∧ s.lnk.lanes[l]? = some x ∧ x.state = .adapt ∧ ((e.eyeH < 10 ∨ e.eyeW < 20))) ∧
    (∃ (l : Nat) (e : EqResult) (x : Lane) (s : State), lanesUp s = true ∧ l < 5 ∧ e.taps.length = 5 ∧ s.lnk.lanes[l]? = some x ∧ x.state = .trained) :=
  ⟨⟨3, ({ heights := [50,60,70,60,70], taps := [1,2,-300,4,500], eyeH := 10, eyeW := 20 } : EqResult), (((onLane 3 { state := .adapt, rate := 3 } up).lnk.lanes[(3)]?).getD {}), (onLane 3 { state := .adapt, rate := 3 } up), by decide +kernel⟩,
    ⟨4, ({ heights := [50,60,70,60,70], taps := [1,2,-300,4,500], eyeH := 10, eyeW := 20 } : EqResult), (((let s := onLane 4 { state := .adapt, rate := 3 } (prd up); { s with lnk := { s.lnk with twEn := true, peerBond := true } }).lnk.lanes[(4)]?).getD {}), (let s := onLane 4 { state := .adapt, rate := 3 } (prd up); { s with lnk := { s.lnk with twEn := true, peerBond := true } }), by decide +kernel⟩,
    ⟨3, ({ heights := [50,60,70,60,70], taps := [1,2,-300,4,500], eyeH := 9, eyeW := 20 } : EqResult), (((onLane 3 { state := .adapt, rate := 3 } up).lnk.lanes[(3)]?).getD {}), (onLane 3 { state := .adapt, rate := 3 } up), by decide +kernel⟩,
    ⟨3, ({ heights := [50,60,70,60,70], taps := [1,2,-300,4,500], eyeH := 10, eyeW := 20 } : EqResult), (((onLane 3 { state := .trained, rate := 2 } up).lnk.lanes[(3)]?).getD {}), (onLane 3 { state := .trained, rate := 2 } up), by decide +kernel⟩⟩

/-- The hypotheses of clause 10 of LaneClimbsToBond can be met. -/
theorem wit_LaneClimbsToBond_9 :
    (∃ (codes : List Nat) (heights : List Nat), codes.zip heights ≠ []) :=
  ⟨[3,4,5], [9,9], by decide +kernel⟩

/-- The hypotheses of clause 1 of LaneFailsAndRetrains can be met. -/
theorem wit_LaneFailsAndRetrains_0 :
    (∃ (l : Nat) (x : Lane) (s : State), lanesUp s = true ∧ l < 5 ∧ s.lnk.lanes[l]? = some x ∧ x.attempting = true ∧ ((x.state = .detect ∨ x.state = .lock ∨ x.state = .align ∨ x.state = .adapt)) ∧ ((l = 4 ∨ (s.lnk.bondMask.testBit l = false ∧ s.lnk.forming = false))) ∧ x.failR < 7) ∧
    (∃ (l : Nat) (x : Lane) (s : State), lanesUp s = true ∧ l < 5 ∧ s.lnk.lanes[l]? = some x ∧ x.attempting = true ∧ ((x.state = .detect ∨ x.state = .lock ∨ x.state = .align ∨ x.state = .adapt)) ∧ ((l = 4 ∨ (s.lnk.bondMask.testBit l = false ∧ s.lnk.forming = false))) ∧ 7 ≤ x.failR ∧ 0 < x.ladderRate) ∧
    (∃ (l : Nat) (x : Lane) (s : State), lanesUp s = true ∧ l < 5 ∧ s.lnk.lanes[l]? = some x ∧ x.attempting = true ∧ ((x.state = .detect ∨ x.state = .lock ∨ x.state = .align ∨ x.state = .adapt)) ∧ ((l = 4 ∨ (s.lnk.bondMask.testBit l = false ∧ s.lnk.forming = false))) ∧ 7 ≤ x.failR ∧ x.ladderRate = 0 ∧ ((x.refMode ≠ 0 ∨ x.ladderShared = true))) :=
  ⟨⟨0, (((onLane 0 { state := .detect, attempting := true, failR := 0, failN := 0, ladderRate := 4, los := true, refMode := 1 } up).lnk.lanes[(0)]?).getD {}), (onLane 0 { state := .detect, attempting := true, failR := 0, failN := 0, ladderRate := 4, los := true, refMode := 1 } up), by decide +kernel⟩,
    ⟨0, (((onLane 0 { state := .detect, attempting := true, failR := 7, failN := 7, ladderRate := 1, los := true, refMode := 1 } up).lnk.lanes[(0)]?).getD {}), (onLane 0 { state := .detect, attempting := true, failR := 7, failN := 7, ladderRate := 1, los := true, refMode := 1 } up), by decide +kernel⟩,
    ⟨0, (((onLane 0 { state := .detect, attempting := true, failR := 7, failN := 7, ladderRate := 0, los := true, refMode := 1 } up).lnk.lanes[(0)]?).getD {}), (onLane 0 { state := .detect, attempting := true, failR := 7, failN := 7, ladderRate := 0, los := true, refMode := 1 } up), by decide +kernel⟩⟩

/-- The hypotheses of clause 2 of LaneFailsAndRetrains can be met. -/
theorem wit_LaneFailsAndRetrains_1 :
    (∃ (l : Nat) (x : Lane) (s : State), lanesUp s = true ∧ l < 5 ∧ s.lnk.lanes[l]? = some x ∧ x.state = .trained ∧ l = 4) ∧
    (∃ (l : Nat) (x : Lane) (s : State), lanesUp s = true ∧ l < 5 ∧ s.lnk.lanes[l]? = some x ∧ x.state = .trained ∧ l < 4) :=
  ⟨⟨4, (((onLane 4 { state := .trained, relockTimes := [], relocks := 65535 } (prd up)).lnk.lanes[(4)]?).getD {}), (onLane 4 { state := .trained, relockTimes := [], relocks := 65535 } (prd up)), by decide +kernel⟩,
    ⟨0, (((onLane 0 { state := .trained, relockTimes := [], relocks := 65535 } (prd up)).lnk.lanes[(0)]?).getD {}), (onLane 0 { state := .trained, relockTimes := [], relocks := 65535 } (prd up)), by decide +kernel⟩⟩

/-- The hypotheses of clause 3 of LaneFailsAndRetrains can be met. -/
theorem wit_LaneFailsAndRetrains_2 :
    (∃ (l : Nat) (x : Lane) (s : State), lanesUp s = true ∧ l < 5 ∧ s.lnk.lanes[l]? = some x ∧ x.state = .relock ∧ l < 4 ∧ (s.lnk.bondMask.testBit l = true ∨ (s.lnk.forming = true ∧ s.lnk.formMask.testBit l = true))) ∧
    (∃ (l : Nat) (x : Lane) (s : State), lanesUp s = true ∧ l < 5 ∧ s.lnk.lanes[l]? = some x ∧ x.state = .relock ∧ l = 4) ∧
    (∃ (l : Nat) (x : Lane) (s : State), lanesUp s = true ∧ l < 5 ∧ s.lnk.lanes[l]? = some x ∧ x.state = .relock ∧ l < 4 ∧ s.lnk.bondMask.testBit l = false ∧ ((s.lnk.forming = false ∨ s.lnk.formMask.testBit l = false)) ∧ ((s.lnk.bondMask = 0 ∨ s.lnk.autoRejoin = false))) ∧
    (∃ (l : Nat) (x : Lane) (s : State), lanesUp s = true ∧ l < 5 ∧ s.lnk.lanes[l]? = some x ∧ x.state = .relock ∧ ((x.ladderShared = false ∨ s.lnk.lref = true))) :=
  ⟨⟨0, (((let s := onLane 0 { state := .relock, retrains := 65535 } up; { s with lnk := { s.lnk with bondMask := 1, autoRejoin := true } }).lnk.lanes[(0)]?).getD {}), (let s := onLane 0 { state := .relock, retrains := 65535 } up; { s with lnk := { s.lnk with bondMask := 1, autoRejoin := true } }), by decide +kernel⟩,
    ⟨4, (((onLane 4 { state := .relock } (prd up)).lnk.lanes[(4)]?).getD {}), (onLane 4 { state := .relock } (prd up)), by decide +kernel⟩,
    ⟨0, (((let s := onLane 0 { state := .relock, retrains := 65535 } up; { s with lnk := { s.lnk with bondMask := 0, autoRejoin := true } }).lnk.lanes[(0)]?).getD {}), (let s := onLane 0 { state := .relock, retrains := 65535 } up; { s with lnk := { s.lnk with bondMask := 0, autoRejoin := true } }), by decide +kernel⟩,
    ⟨0, (((let s := onLane 0 { state := .relock, retrains := 65535 } up; { s with lnk := { s.lnk with bondMask := 0, autoRejoin := true } }).lnk.lanes[(0)]?).getD {}), (let s := onLane 0 { state := .relock, retrains := 65535 } up; { s with lnk := { s.lnk with bondMask := 0, autoRejoin := true } }), by decide +kernel⟩⟩

/-- The hypotheses of clause 4 of LaneFailsAndRetrains can be met. -/
theorem wit_LaneFailsAndRetrains_3 :
    (∃ (l : Nat) (x : Lane) (s : State), lanesUp s = true ∧ l < 5 ∧ s.lnk.lanes[l]? = some x ∧ x.state = .adapt) ∧
    (∃ (l : Nat) (x : Lane) (s : State), lanesUp s = true ∧ l < 5 ∧ s.lnk.lanes[l]? = some x ∧ x.state = .detect) ∧
    (∃ (l : Nat) (x : Lane) (s : State), lanesUp s = true ∧ l < 5 ∧ s.lnk.lanes[l]? = some x ∧ x.state = .trained ∧ ((x.ladderShared = false ∨ s.lnk.lref = true))) :=
  ⟨⟨4, (((onLane 4 { state := .adapt, anchors := 2 } (prd up)).lnk.lanes[(4)]?).getD {}), (onLane 4 { state := .adapt, anchors := 2 } (prd up)), by decide +kernel⟩,
    ⟨4, (((onLane 4 { state := .detect, anchors := 2 } (prd up)).lnk.lanes[(4)]?).getD {}), (onLane 4 { state := .detect, anchors := 2 } (prd up)), by decide +kernel⟩,
    ⟨4, (((onLane 4 { state := .trained, anchors := 2 } (prd up)).lnk.lanes[(4)]?).getD {}), (onLane 4 { state := .trained, anchors := 2 } (prd up)), by decide +kernel⟩⟩

/-- The hypotheses of clause 5 of LaneFailsAndRetrains can be met. -/
theorem wit_LaneFailsAndRetrains_4 :
    (∃ (l : Nat) (x : Lane) (s : State), lanesUp s = true ∧ l < 5 ∧ s.lnk.lanes[l]? = some x ∧ x.state = .lock ∧ x.shared = true ∧ s.lnk.lref = false) :=
  ⟨0, (((onLane 0 { state := .lock, shared := true, attempting := true, failR := 0 } (prd up)).lnk.lanes[(0)]?).getD {}), (onLane 0 { state := .lock, shared := true, attempting := true, failR := 0 } (prd up)), by decide +kernel⟩

/-- The hypotheses of clause 6 of LaneFailsAndRetrains can be met. -/
theorem wit_LaneFailsAndRetrains_5 :
    (∃ (s : State) (l : _) (x : _), lanesUp s = true ∧ s.lnk.lanes.length = 5 ∧ l < 5 ∧ s.lnk.lanes[l]? = some x ∧ ((x.attempting = true ∧ x.shared = true))) ∧
    (∃ (s : State) (l : _) (x : _), lanesUp s = true ∧ s.lnk.lanes.length = 5 ∧ l < 5 ∧ s.lnk.lanes[l]? = some x ∧ (¬(x.attempting = true ∧ x.shared = true))) :=
  ⟨⟨(onLane 0 { state := .detect, shared := true, attempting := true, failR := 0 } (prd up)), 0, (laneOf (onLane 0 { state := .detect, shared := true, attempting := true, failR := 0 } (prd up)) (0)), by decide +kernel⟩,
    ⟨(onLane 0 { state := .detect, shared := true, attempting := false, failR := 0 } (prd up)), 0, (laneOf (onLane 0 { state := .detect, shared := true, attempting := false, failR := 0 } (prd up)) (0)), by decide +kernel⟩⟩

/-- The hypotheses of clause 1 of LinkCommandsAnswer can be met. -/
theorem wit_LinkCommandsAnswer_0 :
    (∃ (m : Byte) (r : Byte) (z : Byte) (rq : Rq) (s : State) (l : _), admits 0x30 rq s = true ∧ shaped s = true ∧ rq.payload = [m, 1, r, z] ∧ m.toNat % 32 ≠ 0 ∧ ((m.toNat.testBit 4 = true → paired s = true)) ∧ l < 5 ∧ m.toNat.testBit l = true) :=
  ⟨15, 0, 0, (mk ([15, 1, 0, 0])), up, 3, by decide +kernel⟩

/-- The hypotheses of clause 2 of LinkCommandsAnswer can be met. -/
theorem wit_LinkCommandsAnswer_1 :
    (∃ (m : Byte) (r : Byte) (z : Byte) (rq : Rq) (s : State) (l : _), admits 0x30 rq s = true ∧ shaped s = true ∧ rq.payload = [m, 0, r, z] ∧ m.toNat % 32 ≠ 0 ∧ ((r.toNat < 5 ∨ r.toNat = 255)) ∧ ((m.toNat.testBit 4 = true → paired s = true)) ∧ handleFree s = true ∧ l < 5 ∧ m.toNat.testBit l = true ∧ (s.lnk.refMode ≠ 2 ∨ s.lnk.lref = true)) ∧
    (∃ (m : Byte) (r : Byte) (z : Byte) (rq : Rq) (s : State) (l : _), admits 0x30 rq s = true ∧ shaped s = true ∧ rq.payload = [m, 0, r, z] ∧ m.toNat % 32 ≠ 0 ∧ ((r.toNat < 5 ∨ r.toNat = 255)) ∧ ((m.toNat.testBit 4 = true → paired s = true)) ∧ handleFree s = true ∧ l < 5 ∧ m.toNat.testBit l = true ∧ s.lnk.refMode = 2 ∧ s.lnk.lref = false) :=
  ⟨⟨1, 255, 0, (mk ([1, 0, 255, 0])), up, 0, by decide +kernel⟩,
    ⟨1, 2, 0, (mk ([1, 0, 2, 0])), ({ up with lnk := { up.lnk with refMode := 2, lref := false, restart := [{ mask := 3, handle := 4, src := .spi }] }, cmd := { up.cmd with outstanding := [4] } } : State), 0, by decide +kernel⟩⟩

/-- The hypotheses of clause 3 of LinkCommandsAnswer can be met. -/
theorem wit_LinkCommandsAnswer_2 :
    (∃ (m : Nat) (r : Restart) (rs : List Restart) (s : State), lanesUp s = true ∧ s.lnk.restart = r :: rs ∧ m = r.mask ∧ ((∀ l ∈ List.range 70, l < 5 → m.testBit l = true → laneSettled (laneOf s l) = true))) :=
  ⟨1, ({ mask := 1, handle := 4, src := .spi } : Restart), [], (let s := onLane 0 { state := .trained } up; { s with lnk := { s.lnk with restart := [{ mask := 1, handle := 4, src := .spi }] }, cmd := { s.cmd with outstanding := [4] } }), by decide +kernel⟩

/-- The hypotheses of clause 4 of LinkCommandsAnswer can be met. -/
theorem wit_LinkCommandsAnswer_3 :
    (∃ (l : Byte) (a : Byte) (b : Byte) (c : Byte) (x : Lane) (rq : Rq) (s : State), admits 0x31 rq s = true ∧ rq.payload = [l, a, b, c] ∧ l.toNat < 5 ∧ s.lnk.lanes[l.toNat]? = some x ∧ x.state = .test) ∧
    (∃ (l : Byte) (a : Byte) (b : Byte) (c : Byte) (x : Lane) (rq : Rq) (s : State), admits 0x31 rq s = true ∧ rq.payload = [l, a, b, c] ∧ l.toNat < 5 ∧ s.lnk.lanes[l.toNat]? = some x ∧ x.state ≠ .test) :=
  ⟨⟨4, 0, 0, 0, (((onLane 4 { state := .test, slip := 39 } up).lnk.lanes[((4 : Byte)).toNat]?).getD {}), (mk ([4, 0, 0, 0])), (onLane 4 { state := .test, slip := 39 } up), by decide +kernel⟩,
    ⟨0, 0, 0, 0, (((up).lnk.lanes[((0 : Byte)).toNat]?).getD {}), (mk ([0, 0, 0, 0])), up, by decide +kernel⟩⟩

/-- The hypotheses of clause 5 of LinkCommandsAnswer can be met. -/
theorem wit_LinkCommandsAnswer_4 :
    (∃ (l : Byte) (h : Byte) (v : Byte) (d : Byte) (rest : List Byte) (rq : Rq) (s : State), admits 0x32 rq s = true ∧ rq.payload = [l, h, v, d] ++ rest ∧ rest.length = 4 ∧ l.toNat < 5 ∧ 1 ≤ h.toNat ∧ h.toNat ≤ 16 ∧ 1 ≤ v.toNat ∧ v.toNat ≤ 16 ∧ 10 ≤ d.toNat ∧ d.toNat ≤ 30 ∧ (((laneOf s l.toNat).state = .trained ∨ (laneOf s l.toNat).state = .test)) ∧ s.lnk.eye = none ∧ handleFree s = true) :=
  ⟨0, 16, 1, 30, [0,0,0,0], (mk ([0, 16, 1, 30] ++ ([0,0,0,0]))), (onLane 0 { state := .test } up), by decide +kernel⟩

/-- The hypotheses of clause 6 of LinkCommandsAnswer can be met. -/
theorem wit_LinkCommandsAnswer_5 :
    (∃ (errors : List Nat) (e : EyeRun) (s : State), lanesUp s = true ∧ s.lnk.eye = some e ∧ e.left = false ∧ ((s.lnk.eyeEntries ++ (((eyeGrid e.hStep e.vStep).drop s.lnk.eyeEntries.length).zip errors).map (fun p => (p.1.1, p.1.2, min p.2 65535))).length < (eyeGrid e.hStep e.vStep).length)) ∧
    (∃ (errors : List Nat) (e : EyeRun) (s : State), lanesUp s = true ∧ s.lnk.eye = some e ∧ e.left = false ∧ ((eyeGrid e.hStep e.vStep).length ≤ (s.lnk.eyeEntries ++ (((eyeGrid e.hStep e.vStep).drop s.lnk.eyeEntries.length).zip errors).map (fun p => (p.1.1, p.1.2, min p.2 65535))).length) ∧ 32 % e.hStep = 0) ∧
    (∃ (e : EyeRun) (s : State), lanesUp s = true ∧ s.lnk.eye = some e ∧ e.left = true) :=
  ⟨⟨(List.range 3).map (· / 2), ({ lane := 0, hStep := 16, vStep := 16, handle := 4, src := .spi, left := false } : EyeRun), (let s := onLane 0 { state := .trained } up; { s with lnk := { s.lnk with eye := some { lane := 0, hStep := 16, vStep := 16, handle := 4, src := .spi, left := false }, eyeEntries := [] } }), by decide +kernel⟩,
    ⟨(List.range 40).map (· / 2), ({ lane := 0, hStep := 16, vStep := 16, handle := 4, src := .spi, left := false } : EyeRun), (let s := onLane 0 { state := .trained } up; { s with lnk := { s.lnk with eye := some { lane := 0, hStep := 16, vStep := 16, handle := 4, src := .spi, left := false }, eyeEntries := [] } }), by decide +kernel⟩,
    ⟨({ lane := 0, hStep := 16, vStep := 16, handle := 4, src := .spi, left := true } : EyeRun), (let s := onLane 0 { state := .trained } up; { s with lnk := { s.lnk with eye := some { lane := 0, hStep := 16, vStep := 16, handle := 4, src := .spi, left := true }, eyeEntries := [] } }), by decide +kernel⟩⟩

/-- The hypotheses of clause 1 of BondForms can be met. -/
theorem wit_BondForms_0 :
    (∃ (s : State) (l : _), lanesUp s = true ∧ formationDue s = true ∧ l < 4 ∧ (((laneOf s l).state = .bond ∨ (laneOf s l).state = .trained))) :=
  ⟨(let s := onLane 0 { state := .bond, waitBond := true, rate := 4, attempting := true } (onLane 1 { state := .bond, rate := 3 } (onLane 2 { state := .trained, rate := 2 } (onLane 3 { state := .bond, rate := 4 } up))); { s with lnk := { s.lnk with hrxEn := 11 } }), 1, by decide +kernel⟩

/-- The hypotheses of clause 2 of BondForms can be met. -/
theorem wit_BondForms_1 :
    (∃ (l : Nat) (s : State), lanesUp s = true ∧ s.lnk.bondMask = 0 ∧ s.lnk.forming = false ∧ l < 4 ∧ (laneOf s l).state = .bond ∧ (laneOf s l).waitBond = true) :=
  ⟨0, (let s := onLane 0 { state := .bond, waitBond := true, rate := 4, attempting := true } (onLane 1 { state := .bond, rate := 3 } (onLane 2 { state := .trained, rate := 2 } (onLane 3 { state := .bond, rate := 4 } up))); s), by decide +kernel⟩

/-- The hypotheses of clause 3 of BondForms can be met. -/
theorem wit_BondForms_2 :
    (∃ (marks : List BondMark) (s : State), lanesUp s = true ∧ shaped s = true ∧ s.lnk.forming = true ∧ s.lnk.formMask ≠ 0 ∧ s.lnk.bondMask = 0 ∧ marks.map (·.lane) = bitsOf s.lnk.formMask 4 ∧ ((∀ m ∈ marks, m.set.length = 4 ∧ ((setBytes 0xA7 (laneSymbols s m.lane m.set)).any fun b => decide ((field b 3 1).testBit 1 = true)) = true)) ∧ htxOpen s = true ∧ ((∃ m ∈ marks, m.delay ≤ 40)) ∧ ((∀ m ∈ marks, (laneOf s m.lane).state = .bond ∨ (laneOf s m.lane).state = .trained))) :=
  ⟨([{ lane := 0, delay := 0, ms := 70000, set := wset false (anch 4 2 0 9) }, { lane := 3, delay := 40, ms := 3, set := wset false (anch 4 2 0 9) }]), (let s := onLane 0 { state := .bond, waitBond := true, rate := 4, attempting := true } (onLane 1 { state := .bond, rate := 3 } (onLane 2 { state := .trained, rate := 2 } (onLane 3 { state := .bond, rate := 4 } up))); { s with lnk := { s.lnk with forming := true, formMask := 9, formRate := 4, htx := { s.lnk.htx with pattern := 0 } } }), by decide +kernel⟩

/-- The hypotheses of clause 4 of BondForms can be met. -/
theorem wit_BondForms_3 :
    (∃ (s : State) (l : _), lanesUp s = true ∧ s.lnk.forming = true ∧ s.lnk.lanes.length = 5 ∧ l < 4 ∧ s.lnk.formMask.testBit l = true) :=
  ⟨(let s := onLane 0 { state := .bond, waitBond := true, rate := 4, attempting := true } (onLane 1 { state := .bond, rate := 3 } (onLane 2 { state := .trained, rate := 2 } (onLane 3 { state := .bond, rate := 4 } up))); { s with lnk := { s.lnk with forming := true, formMask := 9, formRate := 4 } }), 3, by decide +kernel⟩

/-- The hypotheses of clause 5 of BondForms can be met. -/
theorem wit_BondForms_4 :
    (∃ (p : Path) (s : State), p = .host ∧ htxOpen s = true ∧ s.lnk.forming = false ∧ s.lnk.bondMask ≠ 0 ∧ ((∀ l ∈ List.range 70, l < 4 → s.lnk.bondMask.testBit l = true → (laneOf s l).state = .trained))) ∧
    (∃ (p : Path) (s : State), p = .twin ∧ twtxSets s = true ∧ ackDue s = false) ∧
    (∃ (p : Path) (s : State), p = .host ∧ htxOpen s = false) ∧
    (∃ (p : Path) (s : State), p = .twin ∧ twtxSets s = false) :=
  ⟨⟨.host, (let s := onLane 0 { state := .trained } up; { s with lnk := { s.lnk with bondMask := 1, bondRate := 2, htxLine := { s.lnk.htxLine with seq := 255 } } }), by decide +kernel⟩,
    ⟨.twin, (let s := onLane 4 { state := .trained } (prd up); { s with lnk := { s.lnk with twEn := true } }), by decide +kernel⟩,
    ⟨.host, (let s := prd up; { s with lnk := { s.lnk with twEn := true, htx := { s.lnk.htx with pattern := 3 } } }), by decide +kernel⟩,
    ⟨.twin, (let s := onLane 0 { state := .trained } up; { s with lnk := { s.lnk with bondMask := 1, bondRate := 2, htxLine := { s.lnk.htxLine with seq := 255 } } }), by decide +kernel⟩⟩

/-- The hypotheses of clause 6 of BondForms can be met. -/
theorem wit_BondForms_5 :
    (∃ (set : List LaneWord) (x : Lane) (s : State), lanesUp s = true ∧ set.length = 4 ∧ s.lnk.lanes[4]? = some x ∧ setBytes 0xC3 (laneSymbols s 4 set) = none) ∧
    (∃ (set : List LaneWord) (x : Lane) (s : State) (b : _), lanesUp s = true ∧ set.length = 4 ∧ s.lnk.lanes[4]? = some x ∧ setBytes 0xC3 (laneSymbols s 4 set) = some b ∧ x.state = .detect ∧ x.attempting = true ∧ (field b 3 2 % 8) < 5) ∧
    (∃ (set : List LaneWord) (x : Lane) (s : State) (b : _), lanesUp s = true ∧ set.length = 4 ∧ s.lnk.lanes[4]? = some x ∧ setBytes 0xC3 (laneSymbols s 4 set) = some b ∧ x.state = .bond ∧ ((field b 1 2 % 16) = 5 ∨ (field b 1 2 % 16) = 6)) :=
  ⟨⟨(List.replicate 4 word0), (((prd up).lnk.lanes[4]?).getD {}), (prd up), by decide +kernel⟩,
    ⟨(wset false (climb 0x10000 0 0x35 3)), (((onLane 4 { state := .detect, attempting := true } (prd up)).lnk.lanes[4]?).getD {}), (onLane 4 { state := .detect, attempting := true } (prd up)), ((setBytes 0xC3 (laneSymbols (onLane 4 { state := .detect, attempting := true } (prd up)) 4 (wset false (climb 0x10000 0 0x35 3)))).getD {}), by decide +kernel⟩,
    ⟨(wset false (climb 0x45 4 0 0)), (((onLane 4 { state := .bond, waitBond := true } (prd up)).lnk.lanes[4]?).getD {}), (onLane 4 { state := .bond, waitBond := true } (prd up)), ((setBytes 0xC3 (laneSymbols (onLane 4 { state := .bond, waitBond := true } (prd up)) 4 (wset false (climb 0x45 4 0 0)))).getD {}), by decide +kernel⟩⟩

/-- The hypotheses of clause 7 of BondForms can be met. -/
theorem wit_BondForms_6 :
    (∃ (l : Nat) (x : Lane) (s : State), lanesUp s = true ∧ l < 5 ∧ s.lnk.lanes[l]? = some x ∧ ((x.state ≠ .laneDown ∨ s.lnk.autoRetry = false))) ∧
    (∃ (l : Nat) (x : Lane) (s : State), lanesUp s = true ∧ l < 5 ∧ s.lnk.lanes[l]? = some x ∧ x.state = .laneDown ∧ s.lnk.autoRetry = true ∧ ((s.lnk.refMode ≠ 2 ∨ s.lnk.lref = true)) ∧ ((l = 4 ∨ (s.lnk.bondMask.testBit l = false ∧ s.lnk.forming = false)))) :=
  ⟨⟨4, (((let s := onLane 4 { state := .laneDown, los := true, failN := 7 } (prd up); { s with lnk := { s.lnk with autoRetry := false } }).lnk.lanes[(4)]?).getD {}), (let s := onLane 4 { state := .laneDown, los := true, failN := 7 } (prd up); { s with lnk := { s.lnk with autoRetry := false } }), by decide +kernel⟩,
    ⟨4, (((let s := onLane 4 { state := .laneDown, los := true, failN := 7 } (prd up); { s with lnk := { s.lnk with autoRetry := true } }).lnk.lanes[(4)]?).getD {}), (let s := onLane 4 { state := .laneDown, los := true, failN := 7 } (prd up); { s with lnk := { s.lnk with autoRetry := true } }), by decide +kernel⟩⟩

/-- The hypotheses of clause 8 of BondForms can be met. -/
theorem wit_BondForms_7 :
    (∃ (s : State), lanesUp s = true) :=
  ⟨up, by decide +kernel⟩

/-- The hypotheses of clause 9 of BondForms can be met. -/
theorem wit_BondForms_8 :
    (∃ (s : State), lanesUp s = false) :=
  ⟨State.reset, by decide +kernel⟩

/-- The hypotheses of clause 1 of DriveRegisterWrites can be met. -/
theorem wit_DriveRegisterWrites_0 :
    (∃ (h : Hdr) (w : Word) (s : State), admitsWrite h 0x50108 w.toNat s = true) :=
  ⟨hd, 0xFFFF0BB8, up, by decide +kernel⟩

/-- The hypotheses of clause 2 of DriveRegisterWrites can be met. -/
theorem wit_DriveRegisterWrites_1 :
    (∃ (h : Hdr) (w : Word) (s : State), admitsWrite h 0x50100 w.toNat s = true ∧ ((s.pwr.mode = .pilot ∨ s.pwr.mode = .snuffed ∨ (¬((bits w.toNat 0 3) < 6 ∧ (bits w.toNat 0 3) ≠ s.ft.rateInForce) ∧ ¬((bits w.toNat 4 2) < 3 ∧ (bits w.toNat 4 2) ≠ s.ft.activeSrc)))) ∧ ((((bits w.toNat 4 2) < 3 ∧ (bits w.toNat 4 2) ≠ s.ft.activeSrc) → ((bits w.toNat 4 2) = 2 ↔ s.twn.cfg.role = 2)))) ∧
    (∃ (h : Hdr) (w : Word) (s : State), admitsWrite h 0x50100 w.toNat s = true ∧ (¬(s.pwr.mode = .pilot ∨ s.pwr.mode = .snuffed ∨ (¬((bits w.toNat 0 3) < 6 ∧ (bits w.toNat 0 3) ≠ s.ft.rateInForce) ∧ ¬((bits w.toNat 4 2) < 3 ∧ (bits w.toNat 4 2) ≠ s.ft.activeSrc))))) ∧
    (∃ (h : Hdr) (w : Word) (s : State), admitsWrite h 0x50100 w.toNat s = true ∧ ((s.pwr.mode = .pilot ∨ s.pwr.mode = .snuffed ∨ (¬((bits w.toNat 0 3) < 6 ∧ (bits w.toNat 0 3) ≠ s.ft.rateInForce) ∧ ¬((bits w.toNat 4 2) < 3 ∧ (bits w.toNat 4 2) ≠ s.ft.activeSrc)))) ∧ (¬(((bits w.toNat 4 2) < 3 ∧ (bits w.toNat 4 2) ≠ s.ft.activeSrc) → ((bits w.toNat 4 2) = 2 ↔ s.twn.cfg.role = 2)))) :=
  ⟨⟨hd, 0x113, (inMode .pilot up), by decide +kernel⟩,
    ⟨hd, 0x113, up, by decide +kernel⟩,
    ⟨hd, 0x113, (inMode .pilot (let s := up; { s with twn := { s.twn with cfg := { s.twn.cfg with role := 2 } } })), by decide +kernel⟩⟩

/-- The hypotheses of clause 3 of DriveRegisterWrites can be met. -/
theorem wit_DriveRegisterWrites_2 :
    (∃ (h : Hdr) (w : Word) (s : State), admitsWrite h 0x50000 w.toNat s = true ∧ s.pwr.mode = .snuffed) ∧
    (∃ (h : Hdr) (w : Word) (s : State), admitsWrite h 0x50000 w.toNat s = true ∧ s.pwr.mode ≠ .snuffed ∧ ((w.toNat.testBit 0 = s.arr.pcEn ∧ w.toNat.testBit 1 = s.arr.staggerEn))) ∧
    (∃ (h : Hdr) (w : Word) (s : State), admitsWrite h 0x50000 w.toNat s = true ∧ s.pwr.mode ≠ .snuffed ∧ (¬(w.toNat.testBit 0 = s.arr.pcEn ∧ w.toNat.testBit 1 = s.arr.staggerEn))) :=
  ⟨⟨hd, 3, (inMode .snuffed up), by decide +kernel⟩,
    ⟨hd, 3, up, by decide +kernel⟩,
    ⟨hd, 0, up, by decide +kernel⟩⟩

/-- The hypotheses of clause 4 of DriveRegisterWrites can be met. -/
theorem wit_DriveRegisterWrites_3 :
    (∃ (h : Hdr) (w : Word) (s : State), admitsWrite h 0x50024 w.toNat s = true ∧ s.arr.auto = true) ∧
    (∃ (h : Hdr) (w : Word) (s : State), admitsWrite h 0x50024 w.toNat s = true ∧ s.arr.auto = false ∧ (((bits w.toNat 0 11) = 0 ∨ (63 ≤ (bits w.toNat 0 11) ∧ (bits w.toNat 0 11) ≤ 1187)))) ∧
    (∃ (h : Hdr) (w : Word) (s : State), admitsWrite h 0x50024 w.toNat s = true ∧ s.arr.auto = false ∧ (¬((bits w.toNat 0 11) = 0 ∨ (63 ≤ (bits w.toNat 0 11) ∧ (bits w.toNat 0 11) ≤ 1187)))) :=
  ⟨⟨hd, 63, ({ up with arr := { up.arr with auto := true } } : State), by decide +kernel⟩,
    ⟨hd, 0, ({ up with arr := { up.arr with auto := false } } : State), by decide +kernel⟩,
    ⟨hd, 62, ({ up with arr := { up.arr with auto := false } } : State), by decide +kernel⟩⟩

/-- The hypotheses of clause 5 of DriveRegisterWrites can be met. -/
theorem wit_DriveRegisterWrites_4 :
    (∃ (h : Hdr) (w : Word) (s : State), admitsWrite h 0x50034 w.toNat s = true ∧ s.pwr.mode = .snuffed ∧ 8 ≤ (s.arr.wickSel) ∧ (s.arr.wickSel) ≤ 11) ∧
    (∃ (h : Hdr) (w : Word) (s : State), admitsWrite h 0x50034 w.toNat s = true ∧ s.pwr.mode = .snuffed ∧ (s.arr.wickSel) = 12) ∧
    (∃ (h : Hdr) (w : Word) (s : State), admitsWrite h 0x50034 w.toNat s = true ∧ s.pwr.mode = .snuffed ∧ (s.arr.wickSel) = 13) ∧
    (∃ (h : Hdr) (w : Word) (s : State), admitsWrite h 0x50034 w.toNat s = true ∧ (((s.arr.wickSel) < 8 ∨ 13 < (s.arr.wickSel)))) ∧
    (∃ (h : Hdr) (w : Word) (s : State), admitsWrite h 0x50034 w.toNat s = true ∧ s.pwr.mode ≠ .snuffed ∧ 8 ≤ (s.arr.wickSel) ∧ (s.arr.wickSel) ≤ 11 ∧ bits w.toNat 0 8 = wickItem s) ∧
    (∃ (h : Hdr) (w : Word) (s : State), admitsWrite h 0x50034 w.toNat s = true ∧ s.pwr.mode ≠ .snuffed ∧ 8 ≤ (s.arr.wickSel) ∧ (s.arr.wickSel) ≤ 13 ∧ (if (s.arr.wickSel) ≤ 11 then bits w.toNat 0 8 else bits w.toNat 0 6) ≠ wickItem s) :=
  ⟨⟨hd, 0x1FF, (inMode .snuffed { up with arr := { up.arr with wickSel := 8, wickBand := 3, wickCol := 1439 } }), by decide +kernel⟩,
    ⟨hd, 0x1FF, (inMode .snuffed { up with arr := { up.arr with wickSel := 12, wickBand := 3, wickCol := 1439 } }), by decide +kernel⟩,
    ⟨hd, 0x1FF, (inMode .snuffed { up with arr := { up.arr with wickSel := 13, wickBand := 3, wickCol := 1439 } }), by decide +kernel⟩,
    ⟨hd, 0x1FF, (inMode .snuffed { up with arr := { up.arr with wickSel := 7, wickBand := 3, wickCol := 1439 } }), by decide +kernel⟩,
    ⟨hd, 0, ({ up with arr := { up.arr with wickSel := 8 } } : State), by decide +kernel⟩,
    ⟨hd, 0x1FF, ({ up with arr := { up.arr with wickSel := 8 } } : State), by decide +kernel⟩⟩

/-- The hypotheses of clause 6 of DriveRegisterWrites can be met. -/
theorem wit_DriveRegisterWrites_5 :
    (∃ (h : Hdr) (a : Nat) (v : Nat) (s : State), admitsWrite h a v s = true ∧ a % 4 = 0 ∧ a < 0xF0000 ∧ v < 2 ^ 32 ∧ a / 65536 = 0) ∧
    (∃ (h : Hdr) (a : Nat) (v : Nat) (s : State), admitsWrite h a v s = true ∧ a % 4 = 0 ∧ a < 0xF0000 ∧ v < 2 ^ 32 ∧ a = 0x10004) ∧
    (∃ (h : Hdr) (a : Nat) (v : Nat) (s : State) (t : State), admitsWrite h a v s = true ∧ a % 4 = 0 ∧ a < 0xF0000 ∧ v < 2 ^ 32 ∧ regWrite a v (beforeWrite h a v s) = taken t) ∧
    (∃ (h : Hdr) (a : Nat) (v : Nat) (s : State) (st : _), admitsWrite h a v s = true ∧ a % 4 = 0 ∧ a < 0xF0000 ∧ v < 2 ^ 32 ∧ st ≠ stOk ∧ regWrite a v (beforeWrite h a v s) = refused st (beforeWrite h a v s)) :=
  ⟨⟨hd, 0x00000, 5, up, by decide +kernel⟩,
    ⟨hd, 0x10004, 4294967295, up, by decide +kernel⟩,
    ⟨hd, 0x5000C, 4000, up, (regWrite (0x5000C) (4000) (beforeWrite (hd) (0x5000C) (4000) (up))).state, by decide +kernel⟩,
    ⟨hd, 0x5000C, 40, up, stBadParam, by decide +kernel⟩⟩

/-- The hypotheses of clause 1 of LinkRegisterWrites can be met. -/
theorem wit_LinkRegisterWrites_0 :
    (∃ (h : Hdr) (tw : Bool) (w : Word) (s : State), admitsWrite h (if tw then 0x2000C else 0x20008) (w.toNat) s = true) :=
  ⟨hd, false, 0x52C, up, by decide +kernel⟩

/-- The hypotheses of clause 2 of LinkRegisterWrites can be met. -/
theorem wit_LinkRegisterWrites_1 :
    (∃ (h : Hdr) (w : Word) (s : State) (n : _), admitsWrite h 0x20040 w.toNat s = true ∧ n < 6 ∧ ((w.toNat.testBit n = s.rope.layerSrc.testBit n ∨ (layerOf s n).receiving = false))) ∧
    (∃ (h : Hdr) (w : Word) (s : State) (n : _), admitsWrite h 0x20040 w.toNat s = true ∧ n < 6 ∧ w.toNat.testBit n ≠ s.rope.layerSrc.testBit n ∧ (layerOf s n).receiving = true) :=
  ⟨⟨hd, 0x33F, up, 2, by decide +kernel⟩,
    ⟨hd, 0x301, ({ up with cmp := { up.cmp with layers := up.cmp.layers.set 2 { receiving := true, back := .filling, en := true } }, rope := { up.rope with layerSrc := 4 } } : State), 2, by decide +kernel⟩⟩

/-- The hypotheses of clause 3 of LinkRegisterWrites can be met. -/
theorem wit_LinkRegisterWrites_2 :
    (∃ (h : Hdr) (w : Word) (s : State), admitsWrite h 0x20000 w.toNat s = true ∧ shaped s = true) :=
  ⟨hd, 0xC20F, up, by decide +kernel⟩

/-- The hypotheses of clause 4 of LinkRegisterWrites can be met. -/
theorem wit_LinkRegisterWrites_3 :
    (∃ (h : Hdr) (l : Nat) (w : Word) (x : Lane) (s : State), l < 5 ∧ admitsWrite h (0x20100 + 0x40 * l) w.toNat s = true ∧ s.lnk.lanes[l]? = some x ∧ 1 ≤ bits w.toNat 0 3 ∧ bits w.toNat 0 3 ≤ 4 ∧ laneEnabled s l = true) ∧
    (∃ (h : Hdr) (l : Nat) (w : Word) (x : Lane) (s : State), l < 5 ∧ admitsWrite h (0x20100 + 0x40 * l) w.toNat s = true ∧ s.lnk.lanes[l]? = some x ∧ 1 ≤ bits w.toNat 0 3 ∧ bits w.toNat 0 3 ≤ 4 ∧ laneEnabled s l = false) :=
  ⟨⟨hd, 0, 4, (((up).lnk.lanes[(0)]?).getD {}), up, by decide +kernel⟩,
    ⟨hd, 0, 0x11, (((({ up with lnk := { up.lnk with hrxEn := 0 } } : State)).lnk.lanes[(0)]?).getD {}), ({ up with lnk := { up.lnk with hrxEn := 0 } } : State), by decide +kernel⟩⟩

/-- The hypotheses of clause 5 of LinkRegisterWrites can be met. -/
theorem wit_LinkRegisterWrites_4 :
    (∃ (h : Hdr) (l : Nat) (w : Word) (x : Lane) (s : State), l < 5 ∧ admitsWrite h (0x20100 + 0x40 * l) w.toNat s = true ∧ s.lnk.lanes[l]? = some x ∧ bits w.toNat 0 3 = 0 ∧ laneEnabled s l = true ∧ x.mode ≠ 0) ∧
    (∃ (h : Hdr) (l : Nat) (w : Word) (x : Lane) (s : State), l < 5 ∧ admitsWrite h (0x20100 + 0x40 * l) w.toNat s = true ∧ s.lnk.lanes[l]? = some x ∧ bits w.toNat 0 3 = 0 ∧ laneEnabled s l = true ∧ x.mode = 0) ∧
    (∃ (h : Hdr) (l : Nat) (w : Word) (x : Lane) (s : State), l < 5 ∧ admitsWrite h (0x20100 + 0x40 * l) w.toNat s = true ∧ s.lnk.lanes[l]? = some x ∧ bits w.toNat 0 3 = 0 ∧ laneEnabled s l = false) :=
  ⟨⟨hd, 0, 0x18, (((onLane 0 { mode := 3 } up).lnk.lanes[(0)]?).getD {}), (onLane 0 { mode := 3 } up), by decide +kernel⟩,
    ⟨hd, 0, 0x18, (((up).lnk.lanes[(0)]?).getD {}), up, by decide +kernel⟩,
    ⟨hd, 0, 0x8, (((({ up with lnk := { up.lnk with hrxEn := 0 } } : State)).lnk.lanes[(0)]?).getD {}), ({ up with lnk := { up.lnk with hrxEn := 0 } } : State), by decide +kernel⟩⟩

/-- The hypotheses of clause 6 of LinkRegisterWrites can be met. -/
theorem wit_LinkRegisterWrites_5 :
    (∃ (h : Hdr) (l : Nat) (x : Lane) (s : State), l < 5 ∧ s.lnk.lanes[l]? = some x ∧ (admits 0x03 (({ src := h.src, tag := h.tag, payload := le 4 (0x20124 + 0x40 * l) ++ le 2 1 ++ le 2 0 } : Rq )) s = true) ∧ x.mode = 4) ∧
    (∃ (h : Hdr) (l : Nat) (x : Lane) (s : State), l < 5 ∧ s.lnk.lanes[l]? = some x ∧ (admits 0x03 (({ src := h.src, tag := h.tag, payload := le 4 (0x20124 + 0x40 * l) ++ le 2 1 ++ le 2 0 } : Rq )) s = true) ∧ x.mode ≠ 4 ∧ ((x.state ≠ .test ∨ x.mode = 0))) ∧
    (∃ (h : Hdr) (l : Nat) (x : Lane) (s : State), l < 5 ∧ s.lnk.lanes[l]? = some x ∧ (admits 0x03 (({ src := h.src, tag := h.tag, payload := le 4 (0x20124 + 0x40 * l) ++ le 2 1 ++ le 2 0 } : Rq )) s = true) ∧ x.state = .test ∧ 1 ≤ x.mode ∧ x.mode ≤ 3) :=
  ⟨⟨hd, 4, (((onLane 4 { mode := 4 } up).lnk.lanes[(4)]?).getD {}), (onLane 4 { mode := 4 } up), by decide +kernel⟩,
    ⟨hd, 0, (((onLane 0 { mode := 3, raw := 4294967299 } up).lnk.lanes[(0)]?).getD {}), (onLane 0 { mode := 3, raw := 4294967299 } up), by decide +kernel⟩,
    ⟨hd, 0, (((onLane 0 { state := .test, mode := 1, raw := 4294967299 } up).lnk.lanes[(0)]?).getD {}), (onLane 0 { state := .test, mode := 1, raw := 4294967299 } up), by decide +kernel⟩⟩

/-- The hypotheses of clause 7 of LinkRegisterWrites can be met. -/
theorem wit_LinkRegisterWrites_6 :
    (∃ (x : Lane) (line : List Bool), x.prbsLock = false ∧ x.prbsRun = 0 ∧ ((((List.range line.length).all fun i => let p := line.take i; let c := line.getD i false; decide ((fun (p : List Bool) (c : Bool) => (c = (fun (z : Lane) => (z.prbsReg.testBit ((prbsTaps z.mode).1 - 1) != z.prbsReg.testBit ((prbsTaps z.mode).2 - 1) : Bool )) (p.foldl prbsBit x) ∧ (p.foldl prbsBit x).prbsReg ≠ 0 : Prop )) p c)) = true)) ∧ line.length < 64) ∧
    (∃ (x : Lane) (line : List Bool), x.prbsLock = false ∧ x.prbsRun = 0 ∧ ((((List.range line.length).all fun i => let p := line.take i; let c := line.getD i false; decide ((fun (p : List Bool) (c : Bool) => (c = (fun (z : Lane) => (z.prbsReg.testBit ((prbsTaps z.mode).1 - 1) != z.prbsReg.testBit ((prbsTaps z.mode).2 - 1) : Bool )) (p.foldl prbsBit x) ∧ (p.foldl prbsBit x).prbsReg ≠ 0 : Prop )) p c)) = true)) ∧ line.length = 64) :=
  ⟨⟨({ mode := 1, prbsReg := 5, prbsErrors := 4294967294 } : Lane), (prbsLine ({ mode := 1, prbsReg := 5, prbsErrors := 4294967294 } : Lane) 0), by decide +kernel⟩,
    ⟨({ mode := 1, prbsReg := 5, prbsErrors := 4294967294 } : Lane), (prbsLine ({ mode := 1, prbsReg := 5, prbsErrors := 4294967294 } : Lane) 64), by decide +kernel⟩⟩

/-- The hypotheses of clause 1 of CheckAndFaultWrites can be met. -/
theorem wit_CheckAndFaultWrites_0 :
    (∃ (h : Hdr) (n : Nat) (w : Word) (g : Gu) (s : State), n < 8 ∧ admitsWrite h (0x7011C + 0x40 * n) w.toNat s = true ∧ s.chk.gus[n]? = some g ∧ g.en = true ∧ g.src = 0) ∧
    (∃ (h : Hdr) (n : Nat) (w : Word) (g : Gu) (s : State), n < 8 ∧ admitsWrite h (0x7011C + 0x40 * n) w.toNat s = true ∧ s.chk.gus[n]? = some g ∧ ((g.en = false ∨ g.src ≠ 0))) :=
  ⟨⟨hd, 7, 0x1FF, (((let s := up; { s with chk := { s.chk with gus := s.chk.gus.set 7 { en := true, src := 0 } } }).chk.gus[(7)]?).getD {}), (let s := up; { s with chk := { s.chk with gus := s.chk.gus.set 7 { en := true, src := 0 } } }), by decide +kernel⟩,
    ⟨hd, 0, 3, (((let s := up; { s with chk := { s.chk with gus := s.chk.gus.set 0 { en := true, src := 17 } } }).chk.gus[(0)]?).getD {}), (let s := up; { s with chk := { s.chk with gus := s.chk.gus.set 0 { en := true, src := 17 } } }), by decide +kernel⟩⟩

/-- The hypotheses of clause 2 of CheckAndFaultWrites can be met. -/
theorem wit_CheckAndFaultWrites_1 :
    (∃ (h : Hdr) (n : Nat) (w : Word) (g : Gu) (s : State), n < 8 ∧ admitsWrite h (0x70100 + 0x40 * n) w.toNat s = true ∧ s.chk.gus[n]? = some g ∧ ((8 ≤ bits (w.toNat) 16 6 ∧ bits (w.toNat) 16 6 ≤ 32 ∧ guSrcOk (bits (w.toNat) 24 6) = true)) ∧ ((g.en = false ∨ (bits (w.toNat) 16 6 = g.width ∧ (w.toNat).testBit 1 = g.refin ∧ (w.toNat).testBit 2 = g.refout ∧ bits (w.toNat) 24 6 = g.src))) ∧ (w.toNat).testBit 8 = true ∧ (w.toNat).testBit 9 = false) ∧
    (∃ (h : Hdr) (n : Nat) (w : Word) (g : Gu) (s : State), n < 8 ∧ admitsWrite h (0x70100 + 0x40 * n) w.toNat s = true ∧ s.chk.gus[n]? = some g ∧ ((8 ≤ bits (w.toNat) 16 6 ∧ bits (w.toNat) 16 6 ≤ 32 ∧ guSrcOk (bits (w.toNat) 24 6) = true)) ∧ ((g.en = false ∨ (bits (w.toNat) 16 6 = g.width ∧ (w.toNat).testBit 1 = g.refin ∧ (w.toNat).testBit 2 = g.refout ∧ bits (w.toNat) 24 6 = g.src))) ∧ (w.toNat).testBit 8 = false ∧ (w.toNat).testBit 9 = true ∧ ((({ g with en := (w.toNat).testBit 0, refin := (w.toNat).testBit 1, refout := (w.toNat).testBit 2, cmpEn := (w.toNat).testBit 3, level := if bits (w.toNat) 4 3 < 5 then bits (w.toNat) 4 3 else g.level, width := bits (w.toNat) 16 6, src := bits (w.toNat) 24 6, compared := g.compared && (g.cmpEn || !(w.toNat).testBit 3) } : Gu )).cmpEn = false)) ∧
    (∃ (h : Hdr) (n : Nat) (w : Word) (g : Gu) (s : State), n < 8 ∧ admitsWrite h (0x70100 + 0x40 * n) w.toNat s = true ∧ s.chk.gus[n]? = some g ∧ ((8 ≤ bits (w.toNat) 16 6 ∧ bits (w.toNat) 16 6 ≤ 32 ∧ guSrcOk (bits (w.toNat) 24 6) = true)) ∧ ((g.en = false ∨ (bits (w.toNat) 16 6 = g.width ∧ (w.toNat).testBit 1 = g.refin ∧ (w.toNat).testBit 2 = g.refout ∧ bits (w.toNat) 24 6 = g.src))) ∧ (w.toNat).testBit 8 = false ∧ (w.toNat).testBit 9 = true ∧ ((({ g with en := (w.toNat).testBit 0, refin := (w.toNat).testBit 1, refout := (w.toNat).testBit 2, cmpEn := (w.toNat).testBit 3, level := if bits (w.toNat) 4 3 < 5 then bits (w.toNat) 4 3 else g.level, width := bits (w.toNat) 16 6, src := bits (w.toNat) 24 6, compared := g.compared && (g.cmpEn || !(w.toNat).testBit 3) } : Gu )).cmpEn = true)) ∧
    (∃ (h : Hdr) (n : Nat) (w : Word) (g : Gu) (s : State), n < 8 ∧ admitsWrite h (0x70100 + 0x40 * n) w.toNat s = true ∧ s.chk.gus[n]? = some g ∧ (¬(8 ≤ bits (w.toNat) 16 6 ∧ bits (w.toNat) 16 6 ≤ 32 ∧ guSrcOk (bits (w.toNat) 24 6) = true))) ∧
    (∃ (h : Hdr) (n : Nat) (w : Word) (g : Gu) (s : State), n < 8 ∧ admitsWrite h (0x70100 + 0x40 * n) w.toNat s = true ∧ s.chk.gus[n]? = some g ∧ ((8 ≤ bits (w.toNat) 16 6 ∧ bits (w.toNat) 16 6 ≤ 32 ∧ guSrcOk (bits (w.toNat) 24 6) = true)) ∧ g.en = true ∧ (¬(bits (w.toNat) 16 6 = g.width ∧ (w.toNat).testBit 1 = g.refin ∧ (w.toNat).testBit 2 = g.refout ∧ bits (w.toNat) 24 6 = g.src))) :=
  ⟨⟨hd, 7, 2097456, (((up).chk.gus[(7)]?).getD {}), up, by decide +kernel⟩,
    ⟨hd, 7, 2097712, (((up).chk.gus[(7)]?).getD {}), up, by decide +kernel⟩,
    ⟨hd, 7, 2097720, (((up).chk.gus[(7)]?).getD {}), up, by decide +kernel⟩,
    ⟨hd, 0, 459056, (((up).chk.gus[(0)]?).getD {}), up, by decide +kernel⟩,
    ⟨hd, 7, 2097456, (((let s := up; { s with chk := { s.chk with gus := s.chk.gus.set 7 { en := true } } }).chk.gus[(7)]?).getD {}), (let s := up; { s with chk := { s.chk with gus := s.chk.gus.set 7 { en := true } } }), by decide +kernel⟩⟩

/-- The hypotheses of clause 3 of CheckAndFaultWrites can be met. -/
theorem wit_CheckAndFaultWrites_2 :
    (∃ (h : Hdr) (w : Word) (s : State), admitsWrite h 0x80010 w.toNat s = true ∧ w.toNat % 2 ^ 18 < 2) ∧
    (∃ (h : Hdr) (w : Word) (during : List RawEvent) (s : State), admitsWrite h 0x80010 w.toNat s = true ∧ 2 ≤ w.toNat % 2 ^ 18 ∧ (((sameClock (beforeWrite h 0x80010 w.toNat s).flt during (clearClasses (bits w.toNat 1 17 * 2) (beforeWrite h 0x80010 w.toNat s))).pwr.mode ≠ .snuffed ∨ anyHold (sameClock (beforeWrite h 0x80010 w.toNat s).flt during (clearClasses (bits w.toNat 1 17 * 2) (beforeWrite h 0x80010 w.toNat s))).flt = true))) ∧
    (∃ (h : Hdr) (w : Word) (during : List RawEvent) (s : State), admitsWrite h 0x80010 w.toNat s = true ∧ 2 ≤ w.toNat % 2 ^ 18 ∧ (sameClock (beforeWrite h 0x80010 w.toNat s).flt during (clearClasses (bits w.toNat 1 17 * 2) (beforeWrite h 0x80010 w.toNat s))).pwr.mode = .snuffed ∧ anyHold (sameClock (beforeWrite h 0x80010 w.toNat s).flt during (clearClasses (bits w.toNat 1 17 * 2) (beforeWrite h 0x80010 w.toNat s))).flt = false) :=
  ⟨⟨hd, 1, ({ up with flt := { up.flt with classes := up.flt.classes.set 17 { level := 2 } } } : State), by decide +kernel⟩,
    ⟨hd, 0x3FFFF, [], ({ up with flt := { up.flt with classes := up.flt.classes.set 17 { level := 2 } } } : State), by decide +kernel⟩,
    ⟨hd, 0x3FFFF, [], (inMode .snuffed { up with flt := { up.flt with classes := up.flt.classes.set 17 { level := 2 } } }), by decide +kernel⟩⟩

/-- The hypotheses of clause 4 of CheckAndFaultWrites can be met. -/
theorem wit_CheckAndFaultWrites_3 :
    (∃ (h : Hdr) (w : Word) (s : State), admitsWrite h 0x80014 w.toNat s = true) :=
  ⟨hd, 0x3FFFF, ({ up with flt := { up.flt with classes := up.flt.classes.set 17 { level := 2 } } } : State), by decide +kernel⟩

/-- The hypotheses of clause 5 of CheckAndFaultWrites can be met. -/
theorem wit_CheckAndFaultWrites_4 :
    (∃ (h : Hdr) (w : Word) (s : State) (c : _), admitsWrite h 0x80014 w.toNat s = true ∧ shaped s = true ∧ 1 ≤ c ∧ c < 18) :=
  ⟨hd, 0x20020, ({ up with flt := { up.flt with classes := up.flt.classes.set 17 { level := 2 } } } : State), 17, by decide +kernel⟩

/-- The hypotheses of clause 6 of CheckAndFaultWrites can be met. -/
theorem wit_CheckAndFaultWrites_5 :
    (∃ (h : Hdr) (w : Word) (s : State), admitsWrite h 0x80000 w.toNat s = true ∧ w.toNat.testBit 8 = true ∧ s.pwr.mode ≠ .snuffed) ∧
    (∃ (h : Hdr) (w : Word) (s : State), admitsWrite h 0x80000 w.toNat s = true ∧ w.toNat.testBit 8 = true ∧ s.pwr.mode = .snuffed) :=
  ⟨⟨hd, 0x100, up, by decide +kernel⟩,
    ⟨hd, 0x100, (inMode .snuffed up), by decide +kernel⟩⟩

/-- The hypotheses of clause 1 of FrontEndTakesFrames can be met. -/
theorem wit_FrontEndTakesFrames_0 :
    (∃ (rest : List Byte) (s : State), portsOpen s = true ∧ s.mem.assigning = none ∧ s.cmd.queue = [] ∧ ((0xA5 : Byte) :: rest).length < 8) ∧
    (∃ (rest : List Byte) (s : State), portsOpen s = true ∧ s.mem.assigning = none ∧ s.cmd.queue = [] ∧ 8 ≤ ((0xA5 : Byte) :: rest).length ∧ packetGood ((0xA5 : Byte) :: rest) = true ∧ isRepeat ((0xA5 : Byte) :: rest) s.cmd.spi = false ∧ knownOpcodes.contains (field ((0xA5 : Byte) :: rest) 1 1) = true) ∧
    (∃ (rest : List Byte) (s : State), portsOpen s = true ∧ s.mem.assigning = none ∧ s.cmd.queue = [] ∧ 8 ≤ ((0xA5 : Byte) :: rest).length ∧ packetGood ((0xA5 : Byte) :: rest) = true ∧ isRepeat ((0xA5 : Byte) :: rest) s.cmd.spi = false ∧ knownOpcodes.contains (field ((0xA5 : Byte) :: rest) 1 1) = false) ∧
    (∃ (rest : List Byte) (s : State), portsOpen s = true ∧ s.mem.assigning = none ∧ s.cmd.queue = [] ∧ 8 ≤ ((0xA5 : Byte) :: rest).length ∧ packetGood ((0xA5 : Byte) :: rest) = false) ∧
    (∃ (rest : List Byte) (s : State), portsOpen s = true ∧ s.mem.assigning = none ∧ s.cmd.queue = [] ∧ 8 ≤ ((0xA5 : Byte) :: rest).length ∧ packetGood ((0xA5 : Byte) :: rest) = true ∧ isRepeat ((0xA5 : Byte) :: rest) s.cmd.spi = true) :=
  ⟨⟨([0xA5,0]).drop 1, up, by decide +kernel⟩,
    ⟨(rqB 0 3 [1,2]).drop 1, up, by decide +kernel⟩,
    ⟨(rqB 0xEE 3 [1,2]).drop 1, up, by decide +kernel⟩,
    ⟨([0xA5,2,3,4,5,6,7,8]).drop 1, up, by decide +kernel⟩,
    ⟨(rqB 0 3 [1,2]).drop 1, ({ up with cmd := { up.cmd with spi := { up.cmd.spi with valid := true, ref := 3, stored := [9] } } } : State), by decide +kernel⟩⟩

/-- The hypotheses of clause 2 of FrontEndTakesFrames can be met. -/
theorem wit_FrontEndTakesFrames_1 :
    (∃ (s : State), portsOpen s = true ∧ executing s = true) :=
  ⟨({ up with cmd := { up.cmd with queue := [{ src := .spi, bytes := rqB 0 2 [] }] } } : State), by decide +kernel⟩

/-- The hypotheses of clause 3 of FrontEndTakesFrames can be met. -/
theorem wit_FrontEndTakesFrames_2 :
    (∃ (r : List Byte) (s : State), spiDrives s = true ∧ s.cmd.spiReply = some r) :=
  ⟨(List.replicate 14 7), ({ up with cmd := { up.cmd with spiReply := some (List.replicate 14 7) } } : State), by decide +kernel⟩

/-- The hypotheses of clause 4 of FrontEndTakesFrames can be met. -/
theorem wit_FrontEndTakesFrames_3 :
    (∃ (c : Byte) (s : State), spiDrives s = true ∧ c ≠ 0xA5 ∧ c ≠ 0x96) :=
  ⟨7, up, by decide +kernel⟩

/-- The hypotheses of clause 5 of FrontEndTakesFrames can be met. -/
theorem wit_FrontEndTakesFrames_4 :
    (∃ (s : State), spiDrives s = true ∧ portsOpen s = false) :=
  ⟨(inMode .dormant up), by decide +kernel⟩

/-- The hypotheses of clause 6 of FrontEndTakesFrames can be met. -/
theorem wit_FrontEndTakesFrames_5 :
    (∃ (s : State), spiDrives s = false) :=
  ⟨boot, by decide +kernel⟩

/-- The hypotheses of clause 7 of FrontEndTakesFrames can be met. -/
theorem wit_FrontEndTakesFrames_6 :
    (∃ (p : Path) (cols : List (List LaneWord)) (r : Rx) (s : State), brings p cols r s ∧ r.out = .whole ∧ hdrType r.hdr = 0x10 ∧ validPacket s p r.hdr = false) ∧
    (∃ (p : Path) (cols : List (List LaneWord)) (r : Rx) (s : State), brings p cols r s ∧ r.out = .whole ∧ hdrType r.hdr = 0x10 ∧ validPacket s p r.hdr = true ∧ r.body.head? = some 0xA5 ∧ portsOpen s = false) ∧
    (∃ (p : Path) (cols : List (List LaneWord)) (r : Rx) (s : State), brings p cols r s ∧ r.out = .whole ∧ hdrType r.hdr = 0x10 ∧ validPacket s p r.hdr = true ∧ r.body.head? ≠ some 0xA5 ∧ ((p = .host ∨ r.body.head? ≠ some 0x5A)) ∧ portsOpen s = true ∧ s.cmd.queue = []) ∧
    (∃ (p : Path) (cols : List (List LaneWord)) (r : Rx) (s : State), brings p cols r s ∧ r.out = .whole ∧ hdrType r.hdr = 0x10 ∧ validPacket s p r.hdr = true ∧ 12 ≤ r.body.length ∧ r.body.head? = some 0xA5 ∧ portsOpen s = true ∧ s.mem.assigning = none ∧ s.cmd.queue = [] ∧ packetGood r.body = true ∧ isRepeat r.body (srcOf s ((if p = .host then .inband else .twin : Src ))) = false ∧ knownOpcodes.contains (field r.body 1 1) = true) ∧
    (∃ (p : Path) (cols : List (List LaneWord)) (r : Rx) (s : State), brings p cols r s ∧ r.out = .whole ∧ hdrType r.hdr = 0x10 ∧ validPacket s p r.hdr = true ∧ r.body.head? = some 0xA5 ∧ portsOpen s = true ∧ ((if p = .host then 8 else 4) ≤ (s.cmd.queue.filter (fun w => w.src = ((if p = .host then .inband else .twin : Src )))).length)) :=
  ⟨⟨.host, (pk 1 0x10 5 [] (rqB 0 3 [])), (rxOf (.host) (pk 1 0x10 5 [] (rqB 0 3 [])) (hp 1 up)), (hp 1 up), by unfold brings; decide +kernel⟩,
    ⟨.host, (pk 1 0x10 0 [] (rqB 0 3 [])), (rxOf (.host) (pk 1 0x10 0 [] (rqB 0 3 [])) (hp 4 (boot2))), (hp 4 (boot2)), by unfold brings; decide +kernel⟩,
    ⟨.host, (pk 1 0x10 0 [] ([0x5A,1,2,3,4,5,6,7,8,9,10,11])), (rxOf (.host) (pk 1 0x10 0 [] ([0x5A,1,2,3,4,5,6,7,8,9,10,11])) (hp 4 (up))), (hp 4 (up)), by unfold brings; decide +kernel⟩,
    ⟨.host, (pk 1 0x10 0 [] (rqB 0 3 [])), (rxOf (.host) (pk 1 0x10 0 [] (rqB 0 3 [])) (hp 4 (up))), (hp 4 (up)), by unfold brings; decide +kernel⟩,
    ⟨.host, (pk 1 0x10 0 [] (rqB 0 3 [])), (rxOf (.host) (pk 1 0x10 0 [] (rqB 0 3 [])) (hp 4 (cmdQ (List.replicate 8 { src := .inband, bytes := [] }) up))), (hp 4 (cmdQ (List.replicate 8 { src := .inband, bytes := [] }) up)), by unfold brings; decide +kernel⟩⟩

/-- The hypotheses of clause 8 of FrontEndTakesFrames can be met. -/
theorem wit_FrontEndTakesFrames_7 :
    (∃ (p : Path) (cols : List (List LaneWord)) (s : State), ((lanesUp s = false ∨ wholeOf 0x10 (rxOf p cols s) = false))) ∧
    (∃ (p : Path) (cols : List (List LaneWord)) (s : State), lanesUp s = true ∧ wholeOf 0x10 (rxOf p cols s) = true ∧ (pathOf s p).up = false) :=
  ⟨⟨.host, (pk 1 0x10 0 [] (rqB 0 3 [])), boot, by decide +kernel⟩,
    ⟨.host, (pk 2 0x10 0 [] (rqB 0 3 [])), (let s := up; { s with lnk := { s.lnk with bondMask := 3 } }), by decide +kernel⟩⟩

set_option maxRecDepth 20000 in
/-- The hypotheses of clause 9 of FrontEndTakesFrames can be met. -/
theorem wit_FrontEndTakesFrames_8 :
    (∃ (cols : List (List LaneWord)) (r : Rx) (s : State), brings .twin cols r s ∧ r.out = .whole ∧ hdrType r.hdr = 0x10 ∧ validPacket s .twin r.hdr = true ∧ r.body.head? = some 0x5A ∧ ((s.twn.infoWait = true ∧ field r.body 1 1 = 1 ∧ field r.body 3 1 = 0 ∧ field r.body 4 2 = 64 ∧ r.body.length = 76 ∧ crc32c (r.body.take 72) = field r.body 72 4))) ∧
    (∃ (cols : List (List LaneWord)) (r : Rx) (s : State), brings .twin cols r s ∧ r.out = .whole ∧ hdrType r.hdr = 0x10 ∧ validPacket s .twin r.hdr = true ∧ r.body.head? = some 0x5A ∧ (¬(s.twn.infoWait = true ∧ field r.body 1 1 = 1 ∧ field r.body 3 1 = 0 ∧ field r.body 4 2 = 64 ∧ r.body.length = 76 ∧ crc32c (r.body.take 72) = field r.body 72 4))) :=
  ⟨⟨(pk 1 0x10 0 [] (rawB ([0x5A,1,7,0] ++ le 2 64 ++ le 2 0 ++ (List.replicate 64 9)))), (rxOf .twin (pk 1 0x10 0 [] (rawB ([0x5A,1,7,0] ++ le 2 64 ++ le 2 0 ++ (List.replicate 64 9)))) (let s := hp 1 (prd up); { s with twn := { s.twn with infoWait := true } })), (let s := hp 1 (prd up); { s with twn := { s.twn with infoWait := true } }), by unfold brings; decide +kernel⟩,
    ⟨(pk 1 0x10 0 [] (rawB ([0x5A,1,7,0] ++ le 2 64 ++ le 2 0 ++ (List.replicate 64 9)))), (rxOf .twin (pk 1 0x10 0 [] (rawB ([0x5A,1,7,0] ++ le 2 64 ++ le 2 0 ++ (List.replicate 64 9)))) (let s := hp 1 (prd up); { s with twn := { s.twn with infoWait := false } })), (let s := hp 1 (prd up); { s with twn := { s.twn with infoWait := false } }), by unfold brings; decide +kernel⟩⟩

/-- The hypotheses of clause 10 of FrontEndTakesFrames can be met. -/
theorem wit_FrontEndTakesFrames_9 :
    (∃ (b : List Byte) (r : List (List Byte)) (s : State), htxOpen s = true ∧ s.rope.statusDue = [] ∧ s.rope.htxReplies = b :: r) ∧
    (∃ (b : List Byte) (r : List (List Byte)) (s : State), twtxOpen s = true ∧ s.rope.twtxReplies = b :: r) ∧
    (∃ (s : State), ((htxOpen s = false ∨ s.rope.statusDue ≠ [] ∨ s.rope.htxReplies = []))) :=
  ⟨⟨[1,2], [[3]], (let s := onLane 4 { state := .trained } (hp 1 (prd up)); { s with lnk := { s.lnk with twEn := true }, rope := { s.rope with statusDue := [], htxReplies := [[1,2],[3]], twtxReplies := [[1,2],[3]] } }), by decide +kernel⟩,
    ⟨[1,2], [[3]], (let s := onLane 4 { state := .trained } (hp 1 (prd up)); { s with lnk := { s.lnk with twEn := true }, rope := { s.rope with statusDue := [], htxReplies := [[1,2],[3]], twtxReplies := [[1,2],[3]] } }), by decide +kernel⟩,
    ⟨(let s := onLane 4 { state := .trained } (hp 1 (prd up)); { s with lnk := { s.lnk with twEn := true }, rope := { s.rope with statusDue := [(1,2,3)], htxReplies := [[1,2],[3]], twtxReplies := [[1,2],[3]] } }), by decide +kernel⟩⟩

/-- The hypotheses of clause 2 of AliveRule can be met. -/
theorem wit_AliveRule_1 :
    (∃ (x : Src) (b : List Byte) (s : State), (((srcOf s x).valid = false ∨ (field b 3 1).testBit 0 = true ∨ aliveOf b = ((srcOf s x).ref + 1) % 16)) ∧ (srcOf s x).ref < 16) ∧
    (∃ (x : Src) (b : List Byte) (s : State), (srcOf s x).valid = true ∧ (field b 3 1).testBit 0 = false ∧ (srcOf s x).ref < 16 ∧ aliveOf b ≠ ((srcOf s x).ref + 1) % 16) ∧
    (∃ (x : Src) (y : _), y ≠ x) :=
  ⟨⟨.spi, (rqB 0 4 []), (modSrc .spi (fun _ => { ref := 3, valid := true, gaps := 65535 }) up), by decide +kernel⟩,
    ⟨.spi, (rqB 0 3 []), (modSrc .spi (fun _ => { ref := 3, valid := true, gaps := 65535 }) up), by decide +kernel⟩,
    ⟨.spi, .inband, by decide +kernel⟩⟩

/-- The hypotheses of clause 1 of WindowOperates can be met. -/
theorem wit_WindowOperates_0 :
    (∃ (h : Hdr) (s : State), (admitsWrite h 0xC004C 1 s = true ∧ admitsWrite h 0xC004C 2 s = true ∧ admitsWrite h 0xC004C 3 s = true ∧ admitsWrite h 0xC004C 4 s = true ∧ admitsWrite h 0xC004C 5 s = true ∧ admitsWrite h 0xC004C 6 s = true) ∧ s.mem.winOp = none) ∧
    (∃ (h : Hdr) (s : State), (admitsWrite h 0xC004C 1 s = true ∧ admitsWrite h 0xC004C 2 s = true ∧ admitsWrite h 0xC004C 3 s = true ∧ admitsWrite h 0xC004C 4 s = true ∧ admitsWrite h 0xC004C 5 s = true ∧ admitsWrite h 0xC004C 6 s = true) ∧ s.mem.winOp ≠ none) :=
  ⟨⟨hd, up, by decide +kernel⟩,
    ⟨hd, ({ up with mem := { up.mem with winOp := some (1,0,0,0) } } : State), by decide +kernel⟩⟩

/-- The hypotheses of clause 2 of WindowOperates can be met. -/
theorem wit_WindowOperates_1 :
    (∃ (op : Nat) (addr : Nat) (d0 : Nat) (d1 : Nat) (wait : Nat) (ecc : Ecc) (s : State), storeUp s = true ∧ canonical s = true ∧ shaped s = true ∧ s.mem.winOp = some (op, addr, d0, d1) ∧ 1 ≤ op ∧ op ≤ 6 ∧ addr < 2 ^ 24 ∧ bankAt s addr < 64 ∧ d0 < 2 ^ 32 ∧ d1 < 2 ^ 32 ∧ (addr % (if op = 3 ∨ op = 5 then 4 else 8) = 0) ∧ (bankOf s (bankAt s addr)).handover = none ∧ (bankOf s (bankAt s addr)).use = 3 ∧ (((bankOf s (bankAt s addr)).waits = [] ∨ ((∀ x ∈ (bankOf s (bankAt s addr)).waits, x.m ≠ 26) ∧ arbitrate { (bankOf s (bankAt s addr)) with waits := (bankOf s (bankAt s addr)).waits ++ [{ m := 26, addr := addr, op := .window, age := wait }] } = some { m := 26, addr := addr, op := .window, age := wait }))) ∧ ((op = 2 ∨ ¬(ecc = .uncorrectable ∨ s.mem.errWords.contains (physOf s addr / 8) = true))) ∧ op = 1) ∧
    (∃ (op : Nat) (addr : Nat) (d0 : Nat) (d1 : Nat) (wait : Nat) (ecc : Ecc) (s : State), storeUp s = true ∧ canonical s = true ∧ shaped s = true ∧ s.mem.winOp = some (op, addr, d0, d1) ∧ 1 ≤ op ∧ op ≤ 6 ∧ addr < 2 ^ 24 ∧ bankAt s addr < 64 ∧ d0 < 2 ^ 32 ∧ d1 < 2 ^ 32 ∧ (addr % (if op = 3 ∨ op = 5 then 4 else 8) = 0) ∧ (bankOf s (bankAt s addr)).handover = none ∧ (bankOf s (bankAt s addr)).use = 3 ∧ (((bankOf s (bankAt s addr)).waits = [] ∨ ((∀ x ∈ (bankOf s (bankAt s addr)).waits, x.m ≠ 26) ∧ arbitrate { (bankOf s (bankAt s addr)) with waits := (bankOf s (bankAt s addr)).waits ++ [{ m := 26, addr := addr, op := .window, age := wait }] } = some { m := 26, addr := addr, op := .window, age := wait }))) ∧ ((op = 2 ∨ ¬(ecc = .uncorrectable ∨ s.mem.errWords.contains (physOf s addr / 8) = true))) ∧ op = 2) ∧
    (∃ (op : Nat) (addr : Nat) (d0 : Nat) (d1 : Nat) (wait : Nat) (ecc : Ecc) (s : State), storeUp s = true ∧ canonical s = true ∧ shaped s = true ∧ s.mem.winOp = some (op, addr, d0, d1) ∧ 1 ≤ op ∧ op ≤ 6 ∧ addr < 2 ^ 24 ∧ bankAt s addr < 64 ∧ d0 < 2 ^ 32 ∧ d1 < 2 ^ 32 ∧ (addr % (if op = 3 ∨ op = 5 then 4 else 8) = 0) ∧ (bankOf s (bankAt s addr)).handover = none ∧ (bankOf s (bankAt s addr)).use = 3 ∧ (((bankOf s (bankAt s addr)).waits = [] ∨ ((∀ x ∈ (bankOf s (bankAt s addr)).waits, x.m ≠ 26) ∧ arbitrate { (bankOf s (bankAt s addr)) with waits := (bankOf s (bankAt s addr)).waits ++ [{ m := 26, addr := addr, op := .window, age := wait }] } = some { m := 26, addr := addr, op := .window, age := wait }))) ∧ ((op = 2 ∨ ¬(ecc = .uncorrectable ∨ s.mem.errWords.contains (physOf s addr / 8) = true))) ∧ op = 3) ∧
    (∃ (op : Nat) (addr : Nat) (d0 : Nat) (d1 : Nat) (wait : Nat) (ecc : Ecc) (s : State), storeUp s = true ∧ canonical s = true ∧ shaped s = true ∧ s.mem.winOp = some (op, addr, d0, d1) ∧ 1 ≤ op ∧ op ≤ 6 ∧ addr < 2 ^ 24 ∧ bankAt s addr < 64 ∧ d0 < 2 ^ 32 ∧ d1 < 2 ^ 32 ∧ (addr % (if op = 3 ∨ op = 5 then 4 else 8) = 0) ∧ (bankOf s (bankAt s addr)).handover = none ∧ (bankOf s (bankAt s addr)).use = 3 ∧ (((bankOf s (bankAt s addr)).waits = [] ∨ ((∀ x ∈ (bankOf s (bankAt s addr)).waits, x.m ≠ 26) ∧ arbitrate { (bankOf s (bankAt s addr)) with waits := (bankOf s (bankAt s addr)).waits ++ [{ m := 26, addr := addr, op := .window, age := wait }] } = some { m := 26, addr := addr, op := .window, age := wait }))) ∧ ((op = 2 ∨ ¬(ecc = .uncorrectable ∨ s.mem.errWords.contains (physOf s addr / 8) = true))) ∧ op = 4) ∧
    (∃ (op : Nat) (addr : Nat) (d0 : Nat) (d1 : Nat) (wait : Nat) (ecc : Ecc) (s : State), storeUp s = true ∧ canonical s = true ∧ shaped s = true ∧ s.mem.winOp = some (op, addr, d0, d1) ∧ 1 ≤ op ∧ op ≤ 6 ∧ addr < 2 ^ 24 ∧ bankAt s addr < 64 ∧ d0 < 2 ^ 32 ∧ d1 < 2 ^ 32 ∧ (addr % (if op = 3 ∨ op = 5 then 4 else 8) = 0) ∧ (bankOf s (bankAt s addr)).handover = none ∧ (bankOf s (bankAt s addr)).use = 3 ∧ (((bankOf s (bankAt s addr)).waits = [] ∨ ((∀ x ∈ (bankOf s (bankAt s addr)).waits, x.m ≠ 26) ∧ arbitrate { (bankOf s (bankAt s addr)) with waits := (bankOf s (bankAt s addr)).waits ++ [{ m := 26, addr := addr, op := .window, age := wait }] } = some { m := 26, addr := addr, op := .window, age := wait }))) ∧ ((op = 2 ∨ ¬(ecc = .uncorrectable ∨ s.mem.errWords.contains (physOf s addr / 8) = true))) ∧ op = 5) ∧
    (∃ (op : Nat) (addr : Nat) (d0 : Nat) (d1 : Nat) (wait : Nat) (ecc : Ecc) (s : State), storeUp s = true ∧ canonical s = true ∧ shaped s = true ∧ s.mem.winOp = some (op, addr, d0, d1) ∧ 1 ≤ op ∧ op ≤ 6 ∧ addr < 2 ^ 24 ∧ bankAt s addr < 64 ∧ d0 < 2 ^ 32 ∧ d1 < 2 ^ 32 ∧ (addr % (if op = 3 ∨ op = 5 then 4 else 8) = 0) ∧ (bankOf s (bankAt s addr)).handover = none ∧ (bankOf s (bankAt s addr)).use = 3 ∧ (((bankOf s (bankAt s addr)).waits = [] ∨ ((∀ x ∈ (bankOf s (bankAt s addr)).waits, x.m ≠ 26) ∧ arbitrate { (bankOf s (bankAt s addr)) with waits := (bankOf s (bankAt s addr)).waits ++ [{ m := 26, addr := addr, op := .window, age := wait }] } = some { m := 26, addr := addr, op := .window, age := wait }))) ∧ ((op = 2 ∨ ¬(ecc = .uncorrectable ∨ s.mem.errWords.contains (physOf s addr / 8) = true))) ∧ op = 6) ∧
    (∃ (op : Nat) (addr : Nat) (d0 : Nat) (d1 : Nat) (wait : Nat) (ecc : Ecc) (s : State), storeUp s = true ∧ canonical s = true ∧ shaped s = true ∧ s.mem.winOp = some (op, addr, d0, d1) ∧ 1 ≤ op ∧ op ≤ 6 ∧ addr < 2 ^ 24 ∧ bankAt s addr < 64 ∧ d0 < 2 ^ 32 ∧ d1 < 2 ^ 32 ∧ (addr % (if op = 3 ∨ op = 5 then 4 else 8) = 0) ∧ (bankOf s (bankAt s addr)).handover = none ∧ (bankOf s (bankAt s addr)).use = 3 ∧ (((bankOf s (bankAt s addr)).waits = [] ∨ ((∀ x ∈ (bankOf s (bankAt s addr)).waits, x.m ≠ 26) ∧ arbitrate { (bankOf s (bankAt s addr)) with waits := (bankOf s (bankAt s addr)).waits ++ [{ m := 26, addr := addr, op := .window, age := wait }] } = some { m := 26, addr := addr, op := .window, age := wait }))) ∧ op ≠ 2 ∧ ((ecc = .uncorrectable ∨ s.mem.errWords.contains (physOf s addr / 8) = true)) ∧ ((op = 3 ∨ op = 5))) :=
  ⟨⟨1, 48, 0xFFFFFFFF, 0x12345678, 0, .clean, (let s := bnk 0 { use := 3 } up; { s with mem := { s.mem with winOp := some (1,48,0xFFFFFFFF,0x12345678), cells := memWrite [] 0x30 [1,2,3,4,5,6,7,255] } }), by decide +kernel⟩,
    ⟨2, 48, 0xFFFFFFFF, 0x12345678, 0, .clean, (let s := bnk 0 { use := 3 } up; { s with mem := { s.mem with winOp := some (2,48,0xFFFFFFFF,0x12345678), cells := memWrite [] 0x30 [1,2,3,4,5,6,7,255] } }), by decide +kernel⟩,
    ⟨3, 48, 0xFFFFFFFF, 0x12345678, 0, .clean, (let s := bnk 0 { use := 3 } up; { s with mem := { s.mem with winOp := some (3,48,0xFFFFFFFF,0x12345678), cells := memWrite [] 0x30 [1,2,3,4,5,6,7,255] } }), by decide +kernel⟩,
    ⟨4, 48, 0xFFFFFFFF, 0x12345678, 0, .clean, (let s := bnk 0 { use := 3 } up; { s with mem := { s.mem with winOp := some (4,48,0xFFFFFFFF,0x12345678), cells := memWrite [] 0x30 [1,2,3,4,5,6,7,255] } }), by decide +kernel⟩,
    ⟨5, 48, 0xFFFFFFFF, 0x12345678, 0, .clean, (let s := bnk 0 { use := 3 } up; { s with mem := { s.mem with winOp := some (5,48,0xFFFFFFFF,0x12345678), cells := memWrite [] 0x30 [1,2,3,4,5,6,7,255] } }), by decide +kernel⟩,
    ⟨6, 48, 0xFFFFFFFF, 0x12345678, 0, .clean, (let s := bnk 0 { use := 3 } up; { s with mem := { s.mem with winOp := some (6,48,0xFFFFFFFF,0x12345678), cells := memWrite [] 0x30 [1,2,3,4,5,6,7,255] } }), by decide +kernel⟩,
    ⟨3, 0x30, 7, 9, 0, .uncorrectable, (let s := bnk 0 { use := 3 } up; { s with mem := { s.mem with winOp := some (3,0x30,7,9), errWords := [], cells := memWrite [] 0x30 [1,2,3,4,5,6,7,255] } }), by decide +kernel⟩⟩

/-- The hypotheses of clause 3 of WindowOperates can be met. -/
theorem wit_WindowOperates_2 :
    (∃ (op : Nat) (addr : Nat) (d0 : Nat) (d1 : Nat) (s : State), storeUp s = true ∧ s.mem.winOp = some (op, addr, d0, d1) ∧ (addr % (if op = 3 ∨ op = 5 then 4 else 8) ≠ 0)) ∧
    (∃ (op : Nat) (addr : Nat) (d0 : Nat) (d1 : Nat) (s : State), storeUp s = true ∧ s.mem.winOp = some (op, addr, d0, d1) ∧ (addr % (if op = 3 ∨ op = 5 then 4 else 8) = 0) ∧ ((∃ x ∈ (bankOf s (bankAt s addr)).waits, x.m = 26))) ∧
    (∃ (op : Nat) (addr : Nat) (d0 : Nat) (d1 : Nat) (wait : Nat) (s : State), storeUp s = true ∧ s.mem.winOp = some (op, addr, d0, d1) ∧ (addr % (if op = 3 ∨ op = 5 then 4 else 8) = 0) ∧ ((∀ x ∈ (bankOf s (bankAt s addr)).waits, x.m ≠ 26)) ∧ (((bankOf s (bankAt s addr)).handover ≠ none ∨ arbitrate { (bankOf s (bankAt s addr)) with waits := (bankOf s (bankAt s addr)).waits ++ [(({ m := 26, addr := addr, op := .window, age := wait } : Claim ))] } ≠ some (({ m := 26, addr := addr, op := .window, age := wait } : Claim ))))) :=
  ⟨⟨3, 6, 0, 0, ({ up with mem := { up.mem with winOp := some (3,6,0,0) } } : State), by decide +kernel⟩,
    ⟨3, 8, 7, 9, (let s := bnk 0 { use := 3, waits := [{ m := 26, addr := 8, op := .window, age := 3 }] } up; { s with mem := { s.mem with winOp := some (3,8,7,9) } }), by decide +kernel⟩,
    ⟨3, 8, 7, 9, 0, (let s := bnk 0 { use := 3, handover := some 1 } up; { s with mem := { s.mem with winOp := some (3,8,7,9) } }), by decide +kernel⟩⟩

/-- The hypotheses of clause 4 of WindowOperates can be met. -/
theorem wit_WindowOperates_3 :
    (∃ (op : Nat) (addr : Nat) (d0 : Nat) (d1 : Nat) (s : State), storeUp s = true ∧ shaped s = true ∧ s.mem.winOp = some (op, addr, d0, d1) ∧ 1 ≤ op ∧ op ≤ 6 ∧ bankAt s addr < 64 ∧ (addr % (if op = 3 ∨ op = 5 then 4 else 8) = 0) ∧ (bankOf s (bankAt s addr)).handover = none ∧ (bankOf s (bankAt s addr)).waits = [] ∧ (if op = 1 then mayRead (bankOf s (bankAt s addr)).use 6 = false else (bankOf s (bankAt s addr)).use ≠ 3) ∧ op = 2) :=
  ⟨2, 8, 0, 0, (let s := bnk 0 { use := 0 } up; { s with mem := { s.mem with winOp := some (2,8,0,0) } }), by decide +kernel⟩

/-- The hypotheses of clause 1 of BankHandovers can be met. -/
theorem wit_BankHandovers_0 :
    (∃ (h : Hdr) (n : Nat) (w : Word) (k : Bank) (s : State), n < 64 ∧ admitsWrite h (0xC0100 + 4 * n) w.toNat s = true ∧ s.mem.banks[n]? = some k ∧ (w.toNat % 4) = k.use ∧ (w.toNat % 4) ≠ 2 ∧ n < 60) ∧
    (∃ (h : Hdr) (n : Nat) (w : Word) (k : Bank) (s : State), n < 64 ∧ admitsWrite h (0xC0100 + 4 * n) w.toNat s = true ∧ s.mem.banks[n]? = some k ∧ (((w.toNat % 4) ≠ k.use ∨ (w.toNat % 4) = 2 ∨ 60 ≤ n)) ∧ s.pwr.mode = .kindle) ∧
    (∃ (h : Hdr) (n : Nat) (w : Word) (k : Bank) (s : State), n < 64 ∧ admitsWrite h (0xC0100 + 4 * n) w.toNat s = true ∧ s.mem.banks[n]? = some k ∧ s.pwr.mode ≠ .kindle ∧ (((w.toNat % 4) = 2 ∨ 60 ≤ n))) ∧
    (∃ (h : Hdr) (n : Nat) (w : Word) (k : Bank) (s : State), n < 64 ∧ admitsWrite h (0xC0100 + 4 * n) w.toNat s = true ∧ s.mem.banks[n]? = some k ∧ (w.toNat % 4) ≠ k.use ∧ s.pwr.mode ≠ .kindle ∧ (w.toNat % 4) ≠ 2 ∧ (w.toNat % 4) ≠ 1 ∧ n < 60 ∧ ((k.pooled = true ∨ (usedBanks s).contains n = true))) ∧
    (∃ (h : Hdr) (n : Nat) (w : Word) (k : Bank) (s : State), n < 64 ∧ admitsWrite h (0xC0100 + 4 * n) w.toNat s = true ∧ s.mem.banks[n]? = some k ∧ (w.toNat % 4) ≠ k.use ∧ s.pwr.mode ≠ .kindle ∧ (w.toNat % 4) ≠ 2 ∧ n < 60 ∧ (((w.toNat % 4) = 1 ∨ (k.pooled = false ∧ (usedBanks s).contains n = false)))) :=
  ⟨⟨hd, 3, 1, (((up).mem.banks[(3)]?).getD {}), up, by decide +kernel⟩,
    ⟨hd, 3, 3, (((inMode .kindle up).mem.banks[(3)]?).getD {}), (inMode .kindle up), by decide +kernel⟩,
    ⟨hd, 3, 2, (((up).mem.banks[(3)]?).getD {}), up, by decide +kernel⟩,
    ⟨hd, 3, 3, (((bnk 3 { use := 1, pooled := true } up).mem.banks[(3)]?).getD {}), (bnk 3 { use := 1, pooled := true } up), by decide +kernel⟩,
    ⟨hd, 3, 7, (((up).mem.banks[(3)]?).getD {}), up, by decide +kernel⟩⟩

/-- The hypotheses of clause 2 of BankHandovers can be met. -/
theorem wit_BankHandovers_1 :
    (∃ (f : Byte) (c : Byte) (u : Byte) (x0 : Byte) (x1 : Byte) (x2 : Byte) (x3 : Byte) (rq : Rq) (s : State) (n : _), admits 0xA0 rq s = true ∧ s.pwr.mode ≠ .kindle ∧ shaped s = true ∧ rq.payload = [0, f, c, u, x0, x1, x2, x3] ∧ 1 ≤ c.toNat ∧ f.toNat + c.toNat ≤ 60 ∧ u.toNat ≤ 3 ∧ u.toNat ≠ 2 ∧ ((∀ n ∈ List.range 70, f.toNat ≤ n → n < f.toNat + c.toNat → ¬(fun n => u.toNat ≠ 1 ∧ ((bankOf s n).pooled = true ∨ (usedBanks s).contains n = true)) n)) ∧ n < 64) ∧
    (∃ (f : Byte) (c : Byte) (u : Byte) (x0 : Byte) (x1 : Byte) (x2 : Byte) (x3 : Byte) (rq : Rq) (s : State) (n : _), admits 0xA0 rq s = true ∧ s.pwr.mode ≠ .kindle ∧ shaped s = true ∧ rq.payload = [0, f, c, u, x0, x1, x2, x3] ∧ 1 ≤ c.toNat ∧ f.toNat + c.toNat ≤ 60 ∧ u.toNat ≤ 3 ∧ u.toNat ≠ 2 ∧ f.toNat ≤ n ∧ n < f.toNat + c.toNat ∧ ((fun n => u.toNat ≠ 1 ∧ ((bankOf s n).pooled = true ∨ (usedBanks s).contains n = true)) n) ∧ ((∀ m ∈ List.range 70, f.toNat ≤ m → m < n → ¬(fun n => u.toNat ≠ 1 ∧ ((bankOf s n).pooled = true ∨ (usedBanks s).contains n = true)) m))) :=
  ⟨⟨2, 4, 0, 0, 0, 0, 0, (mk ([0, 2, 4, 0, 0, 0, 0, 0])), up, 3, by decide +kernel⟩,
    ⟨2, 4, 0, 0, 0, 0, 0, (mk ([0, 2, 4, 0, 0, 0, 0, 0])), (bnk 3 { use := 1, pooled := true } up), 3, by decide +kernel⟩⟩

/-- The hypotheses of clause 3 of BankHandovers can be met. -/
theorem wit_BankHandovers_2 :
    (∃ (b : Byte) (p : Byte) (x0 : Byte) (x1 : Byte) (x2 : Byte) (x3 : Byte) (x4 : Byte) (rq : Rq) (s : State) (n : _), admits 0xA0 rq s = true ∧ s.pwr.mode ≠ .kindle ∧ shaped s = true ∧ rq.payload = [1, b, p, x0, x1, x2, x3, x4] ∧ ((p.toNat = 0 ∨ ((p.toNat = 8 ∨ p.toNat = 16 ∨ p.toNat = 32) ∧ b.toNat % p.toNat = 0 ∧ b.toNat + p.toNat ≤ 60))) ∧ ((fun n => n < 60 ∧ ((fun n => s.mem.poolBase ≤ n ∧ n < s.mem.poolBase + poolBanks s.mem.poolSize) n ∨ (fun n => b.toNat ≤ n ∧ n < b.toNat + p.toNat) n)) n) ∧ (usedBanks s).contains n = true ∧ ((∀ m ∈ List.range 70, m < n → (fun n => n < 60 ∧ ((fun n => s.mem.poolBase ≤ n ∧ n < s.mem.poolBase + poolBanks s.mem.poolSize) n ∨ (fun n => b.toNat ≤ n ∧ n < b.toNat + p.toNat) n)) m → (usedBanks s).contains m = false))) ∧
    (∃ (b : Byte) (p : Byte) (x0 : Byte) (x1 : Byte) (x2 : Byte) (x3 : Byte) (x4 : Byte) (rq : Rq) (s : State), admits 0xA0 rq s = true ∧ s.pwr.mode ≠ .kindle ∧ shaped s = true ∧ rq.payload = [1, b, p, x0, x1, x2, x3, x4] ∧ ((p.toNat = 0 ∨ ((p.toNat = 8 ∨ p.toNat = 16 ∨ p.toNat = 32) ∧ b.toNat % p.toNat = 0 ∧ b.toNat + p.toNat ≤ 60))) ∧ ((∀ n ∈ List.range 70, (fun n => n < 60 ∧ ((fun n => s.mem.poolBase ≤ n ∧ n < s.mem.poolBase + poolBanks s.mem.poolSize) n ∨ (fun n => b.toNat ≤ n ∧ n < b.toNat + p.toNat) n)) n → (usedBanks s).contains n = false)) ∧ (((p.toNat ≠ 0 ∧ poolBanks s.mem.poolSize = p.toNat ∧ b.toNat = s.mem.poolBase) ∨ ∀ n ∈ List.range 70, ¬(fun n => n < 60 ∧ ((fun n => s.mem.poolBase ≤ n ∧ n < s.mem.poolBase + poolBanks s.mem.poolSize) n ∨ (fun n => b.toNat ≤ n ∧ n < b.toNat + p.toNat) n)) n))) ∧
    (∃ (b : Byte) (p : Byte) (x0 : Byte) (x1 : Byte) (x2 : Byte) (x3 : Byte) (x4 : Byte) (rq : Rq) (s : State) (n : _), admits 0xA0 rq s = true ∧ s.pwr.mode ≠ .kindle ∧ shaped s = true ∧ rq.payload = [1, b, p, x0, x1, x2, x3, x4] ∧ ((p.toNat = 0 ∨ ((p.toNat = 8 ∨ p.toNat = 16 ∨ p.toNat = 32) ∧ b.toNat % p.toNat = 0 ∧ b.toNat + p.toNat ≤ 60))) ∧ ((∀ n ∈ List.range 70, (fun n => n < 60 ∧ ((fun n => s.mem.poolBase ≤ n ∧ n < s.mem.poolBase + poolBanks s.mem.poolSize) n ∨ (fun n => b.toNat ≤ n ∧ n < b.toNat + p.toNat) n)) n → (usedBanks s).contains n = false)) ∧ (¬((p.toNat ≠ 0 ∧ poolBanks s.mem.poolSize = p.toNat ∧ b.toNat = s.mem.poolBase) ∨ ∀ n ∈ List.range 70, ¬(fun n => n < 60 ∧ ((fun n => s.mem.poolBase ≤ n ∧ n < s.mem.poolBase + poolBanks s.mem.poolSize) n ∨ (fun n => b.toNat ≤ n ∧ n < b.toNat + p.toNat) n)) n)) ∧ n < 64 ∧ ((fun n => n < 60 ∧ ((fun n => s.mem.poolBase ≤ n ∧ n < s.mem.poolBase + poolBanks s.mem.poolSize) n ∨ (fun n => b.toNat ≤ n ∧ n < b.toNat + p.toNat) n)) n)) ∧
    (∃ (b : Byte) (p : Byte) (x0 : Byte) (x1 : Byte) (x2 : Byte) (x3 : Byte) (x4 : Byte) (rq : Rq) (s : State) (n : _), admits 0xA0 rq s = true ∧ s.pwr.mode ≠ .kindle ∧ shaped s = true ∧ rq.payload = [1, b, p, x0, x1, x2, x3, x4] ∧ ((p.toNat = 0 ∨ ((p.toNat = 8 ∨ p.toNat = 16 ∨ p.toNat = 32) ∧ b.toNat % p.toNat = 0 ∧ b.toNat + p.toNat ≤ 60))) ∧ ((∀ n ∈ List.range 70, (fun n => n < 60 ∧ ((fun n => s.mem.poolBase ≤ n ∧ n < s.mem.poolBase + poolBanks s.mem.poolSize) n ∨ (fun n => b.toNat ≤ n ∧ n < b.toNat + p.toNat) n)) n → (usedBanks s).contains n = false)) ∧ (¬((p.toNat ≠ 0 ∧ poolBanks s.mem.poolSize = p.toNat ∧ b.toNat = s.mem.poolBase) ∨ ∀ n ∈ List.range 70, ¬(fun n => n < 60 ∧ ((fun n => s.mem.poolBase ≤ n ∧ n < s.mem.poolBase + poolBanks s.mem.poolSize) n ∨ (fun n => b.toNat ≤ n ∧ n < b.toNat + p.toNat) n)) n)) ∧ n < 64 ∧ (¬(fun n => n < 60 ∧ ((fun n => s.mem.poolBase ≤ n ∧ n < s.mem.poolBase + poolBanks s.mem.poolSize) n ∨ (fun n => b.toNat ≤ n ∧ n < b.toNat + p.toNat) n)) n)) :=
  ⟨⟨0, 8, 0, 0, 0, 0, 0, (mk ([1, 0, 8, 0, 0, 0, 0, 0])), (lay 2 { frm with cfg := { frm.cfg with buf0 := 0xC0000, buf1 := 0xC0100 } } up), 3, by decide +kernel⟩,
    ⟨0, 0, 0, 0, 0, 0, 0, (mk ([1, 0, 0, 0, 0, 0, 0, 0])), up, by decide +kernel⟩,
    ⟨0, 0, 0, 0, 0, 0, 0, (mk ([1, 0, 0, 0, 0, 0, 0, 0])), ({ up with mem := { up.mem with poolBase := 8, poolSize := 1 } } : State), 9, by decide +kernel⟩,
    ⟨5, 0, 0, 0, 0, 0, 0, (mk ([1, 5, 0, 0, 0, 0, 0, 0])), ({ up with mem := { up.mem with poolBase := 8, poolSize := 1 } } : State), 7, by decide +kernel⟩⟩

/-- The hypotheses of clause 4 of BankHandovers can be met. -/
theorem wit_BankHandovers_3 :
    (∃ (n : Nat) (u : Nat) (k : Bank) (s : State), storeUp s = true ∧ n < 64 ∧ s.mem.banks[n]? = some k ∧ k.handover = some u ∧ ((∃ m ∈ List.range 64, m ≠ n ∧ (bankOf s m).handover ≠ none))) ∧
    (∃ (n : Nat) (u : Nat) (k : Bank) (s : State), storeUp s = true ∧ n < 64 ∧ s.mem.banks[n]? = some k ∧ k.handover = some u ∧ ((∀ m ∈ List.range 64, m ≠ n → (bankOf s m).handover = none)) ∧ s.mem.poolNext = none ∧ s.cmd.queue = [] ∧ s.mem.assigning = none) ∧
    (∃ (n : Nat) (u : Nat) (k : Bank) (s : State) (base : _) (code : _), storeUp s = true ∧ n < 64 ∧ s.mem.banks[n]? = some k ∧ k.handover = some u ∧ ((∀ m ∈ List.range 64, m ≠ n → (bankOf s m).handover = none)) ∧ s.mem.poolNext = some (base, code) ∧ s.cmd.queue = [] ∧ shaped s = true) :=
  ⟨⟨3, 3, (((bnk 3 { handover := some 3 } (bnk 4 { handover := some 0 } up)).mem.banks[(3)]?).getD {}), (bnk 3 { handover := some 3 } (bnk 4 { handover := some 0 } up)), by decide +kernel⟩,
    ⟨3, 3, (((bnk 3 { handover := some 3 } up).mem.banks[(3)]?).getD {}), (bnk 3 { handover := some 3 } up), by decide +kernel⟩,
    ⟨3, 3, (((let s := bnk 3 { handover := some 3 } up; { s with mem := { s.mem with assigning := some (.spi, [1,2]), poolNext := some (8,1) } }).mem.banks[(3)]?).getD {}), (let s := bnk 3 { handover := some 3 } up; { s with mem := { s.mem with assigning := some (.spi, [1,2]), poolNext := some (8,1) } }), 8, 1, by decide +kernel⟩⟩

/-- The hypotheses of clause 1 of StoreAccesses can be met. -/
theorem wit_StoreAccesses_0 :
    (∃ (bank : Nat) (c : Claim) (s : State), storeUp s = true ∧ canonical s = true ∧ shaped s = true ∧ bank < 64 ∧ (bankOf s bank).handover = none ∧ (bankOf s bank).waits = [] ∧ s.mem.behind = [] ∧ claimOk s bank c = true ∧ (match c.op with | .read _ => mayRead (bankOf s bank).use (portOf c.m) | _ => mayWrite (bankOf s bank).use (portOf c.m)) = false) ∧
    (∃ (bank : Nat) (c : Claim) (ecc : List Ecc) (s : State) (n : _), storeUp s = true ∧ canonical s = true ∧ shaped s = true ∧ bank < 64 ∧ (bankOf s bank).handover = none ∧ (bankOf s bank).waits = [] ∧ s.mem.behind = [] ∧ claimOk s bank c = true ∧ (match c.op with | .read _ => mayRead (bankOf s bank).use (portOf c.m) | _ => mayWrite (bankOf s bank).use (portOf c.m)) = true ∧ c.op = .read n ∧ ecc = [] ∧ ((∀ k ∈ List.range 70, k < n → s.mem.errWords.contains (physOf s (c.addr + 8 * k) / 8) = false))) ∧
    (∃ (bank : Nat) (c : Claim) (ecc : List Ecc) (s : State) (n : _), storeUp s = true ∧ canonical s = true ∧ shaped s = true ∧ bank < 64 ∧ (bankOf s bank).handover = none ∧ (bankOf s bank).waits = [] ∧ s.mem.behind = [] ∧ claimOk s bank c = true ∧ (match c.op with | .read _ => mayRead (bankOf s bank).use (portOf c.m) | _ => mayWrite (bankOf s bank).use (portOf c.m)) = true ∧ c.op = .read n ∧ n = 1 ∧ ecc = [.uncorrectable]) ∧
    (∃ (bank : Nat) (c : Claim) (s : State) (l : _), storeUp s = true ∧ canonical s = true ∧ shaped s = true ∧ bank < 64 ∧ (bankOf s bank).handover = none ∧ (bankOf s bank).waits = [] ∧ s.mem.behind = [] ∧ claimOk s bank c = true ∧ (match c.op with | .read _ => mayRead (bankOf s bank).use (portOf c.m) | _ => mayWrite (bankOf s bank).use (portOf c.m)) = true ∧ c.op = .write l ∧ 512 < c.age ∧ s.flt.windows = []) ∧
    (∃ (bank : Nat) (c : Claim) (s : State) (l : _), storeUp s = true ∧ canonical s = true ∧ shaped s = true ∧ bank < 64 ∧ (bankOf s bank).handover = none ∧ (bankOf s bank).waits = [] ∧ s.mem.behind = [] ∧ claimOk s bank c = true ∧ (match c.op with | .read _ => mayRead (bankOf s bank).use (portOf c.m) | _ => mayWrite (bankOf s bank).use (portOf c.m)) = true ∧ c.op = .write l ∧ c.age ≤ 512) ∧
    (∃ (bank : Nat) (c : Claim) (ecc : List Ecc) (s : State) (d : _), storeUp s = true ∧ canonical s = true ∧ shaped s = true ∧ bank < 64 ∧ (bankOf s bank).handover = none ∧ (bankOf s bank).waits = [] ∧ s.mem.behind = [] ∧ claimOk s bank c = true ∧ (match c.op with | .read _ => mayRead (bankOf s bank).use (portOf c.m) | _ => mayWrite (bankOf s bank).use (portOf c.m)) = true ∧ c.op = .atomic 4 d ∧ ecc = [] ∧ s.mem.errWords.contains (physOf s c.addr / 8) = false) ∧
    (∃ (bank : Nat) (c : Claim) (ecc : List Ecc) (s : State) (d : _), storeUp s = true ∧ canonical s = true ∧ shaped s = true ∧ bank < 64 ∧ (bankOf s bank).handover = none ∧ (bankOf s bank).waits = [] ∧ s.mem.behind = [] ∧ claimOk s bank c = true ∧ (match c.op with | .read _ => mayRead (bankOf s bank).use (portOf c.m) | _ => mayWrite (bankOf s bank).use (portOf c.m)) = true ∧ c.op = .atomic 6 d ∧ ecc = [] ∧ s.mem.errWords.contains (physOf s c.addr / 8) = false) :=
  ⟨⟨0, ({ m := 0, addr := 0x30, op := .read 3, age := 0 } : Claim), (bnk 0 { use := 0 } (let s := up; { s with mem := { s.mem with cells := memWrite [] 0x30 [1,2,3,4,5,6,7,255] } })), by decide +kernel⟩,
    ⟨0, ({ m := 0, addr := 0x30, op := .read 3, age := 0 } : Claim), [], (bnk 0 { use := 1 } (let s := up; { s with mem := { s.mem with cells := memWrite [] 0x30 [1,2,3,4,5,6,7,255] } })), 3, by decide +kernel⟩,
    ⟨0, ({ m := 0, addr := 0x30, op := .read 1, age := 513 } : Claim), [.uncorrectable], (bnk 0 { use := 1 } (let s := up; { s with mem := { s.mem with cells := memWrite [] 0x30 [1,2,3,4,5,6,7,255] } })), 1, by decide +kernel⟩,
    ⟨0, ({ m := 24, addr := 0x30, op := .write [5, 6, 7], age := 513 } : Claim), (bnk 0 { use := 1 } (let s := up; { s with mem := { s.mem with cells := memWrite [] 0x30 [1,2,3,4,5,6,7,255] } })), ([5, 6, 7]), by decide +kernel⟩,
    ⟨0, ({ m := 24, addr := 0x30, op := .write [5, 6, 7], age := 0 } : Claim), (bnk 0 { use := 1 } (let s := up; { s with mem := { s.mem with cells := memWrite [] 0x30 [1,2,3,4,5,6,7,255] } })), ([5, 6, 7]), by decide +kernel⟩,
    ⟨0, ({ m := 26, addr := 0x30, op := .atomic 4 0xFFFFFFFFFFFFFFF0, age := 0 } : Claim), [], (bnk 0 { use := 3 } (let s := up; { s with mem := { s.mem with cells := memWrite [] 0x30 [1,2,3,4,5,6,7,255] } })), 0xFFFFFFFFFFFFFFF0, by decide +kernel⟩,
    ⟨0, ({ m := 26, addr := 0x30, op := .atomic 6 9, age := 0 } : Claim), [], (bnk 0 { use := 3 } (let s := up; { s with mem := { s.mem with cells := memWrite [] 0x30 [1,2,3,4,5,6,7,255] } })), 9, by decide +kernel⟩⟩

/-- The hypotheses of clause 2 of StoreAccesses can be met. -/
theorem wit_StoreAccesses_1 :
    (∃ (bank : Nat) (s : State), storeUp s = true ∧ shaped s = true ∧ bank < 64 ∧ (bankOf s bank).handover = none ∧ s.mem.behind = [] ∧ (bankOf s bank).waits = []) ∧
    (∃ (bank : Nat) (s : State), storeUp s = true ∧ shaped s = true ∧ bank < 64 ∧ (bankOf s bank).handover = none ∧ s.mem.behind = [] ∧ (bankOf s bank).waits ≠ [] ∧ ((∀ x ∈ (bankOf s bank).waits, x.m < 28)) ∧ ((bankOf s bank).waits.Pairwise (fun x y => x.m ≠ y.m)) ∧ (bankOf s bank).lastPort < 8 ∧ ((∀ x ∈ (bankOf s bank).turns, x < 6)) ∧ (bankOf s bank).turns.length = 4 ∧ ((∃ x ∈ (bankOf s bank).waits, 32 ≤ x.age))) ∧
    (∃ (bank : Nat) (s : State), storeUp s = true ∧ shaped s = true ∧ bank < 64 ∧ (bankOf s bank).handover = none ∧ s.mem.behind = [] ∧ (bankOf s bank).waits ≠ [] ∧ ((∀ x ∈ (bankOf s bank).waits, x.m < 28)) ∧ ((bankOf s bank).waits.Pairwise (fun x y => x.m ≠ y.m)) ∧ (bankOf s bank).lastPort < 8 ∧ ((∀ x ∈ (bankOf s bank).turns, x < 6)) ∧ (bankOf s bank).turns.length = 4 ∧ ((∀ x ∈ (bankOf s bank).waits, x.age < 32))) :=
  ⟨⟨0, up, by decide +kernel⟩,
    ⟨5, (bnk 5 { waits := [{ m := 24, addr := 5*262144+8, op := .read 1, age := 40 }, { m := 3, addr := 5*262144+8, op := .read 1, age := 40 }, { m := 9, addr := 5*262144+8, op := .read 1, age := 33 }], lastPort := 0, turns := [5,5,5,5] } up), by decide +kernel⟩,
    ⟨5, (bnk 5 { waits := [{ m := 3, addr := 5*262144+8, op := .read 2, age := 0 }, { m := 9, addr := 5*262144+8, op := .read 1, age := 0 }], lastPort := 0, turns := [5,5,5,5] } up), by decide +kernel⟩⟩

/-- The hypotheses of clause 3 of StoreAccesses can be met. -/
theorem wit_StoreAccesses_2 :
    (∃ (bank : Nat) (s : State), bank < 64 ∧ storeUp s = false) ∧
    (∃ (bank : Nat) (s : State), bank < 64 ∧ storeUp s = true ∧ shaped s = true ∧ (bankOf s bank).handover ≠ none) :=
  ⟨⟨63, State.reset, by decide +kernel⟩,
    ⟨5, (bnk 5 { handover := some 1, waits := [{ m := 3, addr := 8, op := .read 1, age := 700 }] } up), by decide +kernel⟩⟩

/-- The hypotheses of clause 4 of StoreAccesses can be met. -/
theorem wit_StoreAccesses_3 :
    (∃ (bank : Nat) (c : Claim) (s : State), storeUp s = true ∧ shaped s = true ∧ bank < 64 ∧ c.m < 28 ∧ c.age < 32 ∧ (bankOf s bank).waits = [c]) :=
  ⟨5, (bankOf (let s := bnk 5 { waits := [{ m := 0, addr := 5*262144+8, op := .read 1, age := 31 }] } up; { s with mem := { s.mem with masters := s.mem.masters.set 0 { esc := 4294967295 } } }) 5).waits.headD claim0, (let s := bnk 5 { waits := [{ m := 0, addr := 5*262144+8, op := .read 1, age := 31 }] } up; { s with mem := { s.mem with masters := s.mem.masters.set 0 { esc := 4294967295 } } }), by decide +kernel⟩

/-- The hypotheses of clause 5 of StoreAccesses can be met. -/
theorem wit_StoreAccesses_4 :
    (∃ (bank : Nat) (k : Bank) (s : State), storeUp s = true ∧ s.mem.scrubEn = true ∧ bank < 64 ∧ s.mem.banks[bank]? = some k ∧ k.handover = none ∧ k.waits = [] ∧ k.scrubRow < 32768 ∧ s.mem.errWords.contains (physWord bank k.scrubRow) = false ∧ (¬(k.scrubRow = 32767 ∧ ∀ n ∈ List.range 64, n ≠ bank → 32768 ≤ (bankOf s n).scrubRow))) ∧
    (∃ (bank : Nat) (k : Bank) (s : State), storeUp s = true ∧ s.mem.scrubEn = true ∧ bank < 64 ∧ s.mem.banks[bank]? = some k ∧ k.handover = none ∧ k.waits = [] ∧ k.scrubRow < 32768 ∧ s.mem.errWords.contains (physWord bank k.scrubRow) = false ∧ ((k.scrubRow = 32767 ∧ ∀ n ∈ List.range 64, n ≠ bank → 32768 ≤ (bankOf s n).scrubRow))) ∧
    (∃ (bank : Nat) (ecc : Ecc) (k : Bank) (s : State), storeUp s = true ∧ s.mem.scrubEn = true ∧ bank < 64 ∧ s.mem.banks[bank]? = some k ∧ k.handover = none ∧ k.waits = [] ∧ k.scrubRow < 32768 ∧ s.mem.errWords.contains (physWord bank k.scrubRow) = false ∧ ecc ≠ .clean ∧ ecc = .corrected) ∧
    (∃ (bank : Nat) (ecc : Ecc) (k : Bank) (s : State), storeUp s = true ∧ s.mem.scrubEn = true ∧ bank < 64 ∧ s.mem.banks[bank]? = some k ∧ k.handover = none ∧ k.waits = [] ∧ k.scrubRow < 32768 ∧ s.mem.errWords.contains (physWord bank k.scrubRow) = false ∧ ecc ≠ .clean ∧ ecc = .uncorrectable) :=
  ⟨⟨63, (bankOf (let s := { up with mem := { up.mem with scrubEn := true, banks := up.mem.banks.map fun k0 => { k0 with scrubRow := 0 } } }; bnk 63 { scrubRow := 0, corr := 65535 } s) 63), (let s := { up with mem := { up.mem with scrubEn := true, banks := up.mem.banks.map fun k0 => { k0 with scrubRow := 0 } } }; bnk 63 { scrubRow := 0, corr := 65535 } s), by decide +kernel⟩,
    ⟨63, (bankOf (let s := { up with mem := { up.mem with scrubEn := true, banks := up.mem.banks.map fun k0 => { k0 with scrubRow := 32768 } } }; bnk 63 { scrubRow := 32767, corr := 65535 } s) 63), (let s := { up with mem := { up.mem with scrubEn := true, banks := up.mem.banks.map fun k0 => { k0 with scrubRow := 32768 } } }; bnk 63 { scrubRow := 32767, corr := 65535 } s), by decide +kernel⟩,
    ⟨63, .corrected, (bankOf (let s := { up with mem := { up.mem with scrubEn := true, banks := up.mem.banks.map fun k0 => { k0 with scrubRow := 0 } } }; bnk 63 { scrubRow := 0, corr := 65535 } s) 63), (let s := { up with mem := { up.mem with scrubEn := true, banks := up.mem.banks.map fun k0 => { k0 with scrubRow := 0 } } }; bnk 63 { scrubRow := 0, corr := 65535 } s), by decide +kernel⟩,
    ⟨63, .uncorrectable, (bankOf (let s := { up with mem := { up.mem with scrubEn := true, banks := up.mem.banks.map fun k0 => { k0 with scrubRow := 0 } } }; bnk 63 { scrubRow := 0, corr := 65535 } s) 63), (let s := { up with mem := { up.mem with scrubEn := true, banks := up.mem.banks.map fun k0 => { k0 with scrubRow := 0 } } }; bnk 63 { scrubRow := 0, corr := 65535 } s), by decide +kernel⟩⟩

/-- The hypotheses of clause 6 of StoreAccesses can be met. -/
theorem wit_StoreAccesses_5 :
    (∃ (belay : Bool) (s : State), storeUp s = true ∧ s.nvm.reloads.contains (if belay then 8 else 7) = true ∧ areaLoading s (if belay then 8 else 7) = false ∧ canonical s = true) :=
  ⟨true, (let s := up; { s with nvm := { s.nvm with reloads := [7,8] } }), by decide +kernel⟩

/-- The hypotheses of clause 1 of FramesArrive can be met. -/
theorem wit_FramesArrive_0 :
    (∃ (p : Path) (cols : List (List LaneWord)) (r : Rx) (n : Nat) (l : Layer) (s : State), brings p cols r s ∧ r.out = .whole ∧ hdrType r.hdr = 1 ∧ validPacket s p r.hdr = true ∧ n = hdrChan r.hdr ∧ s.cmp.layers[n]? = some l ∧ l.en = true ∧ ((hdrField r.hdr 7 1 = l.cfg.format ∧ hdrField r.hdr 8 2 = l.cfg.srcW ∧ hdrField r.hdr 10 2 = l.cfg.srcH))) ∧
    (∃ (p : Path) (cols : List (List LaneWord)) (r : Rx) (n : Nat) (l : Layer) (s : State), brings p cols r s ∧ r.out = .whole ∧ hdrType r.hdr = 1 ∧ validPacket s p r.hdr = true ∧ n = hdrChan r.hdr ∧ s.cmp.layers[n]? = some l ∧ l.en = false) ∧
    (∃ (p : Path) (cols : List (List LaneWord)) (r : Rx) (n : Nat) (l : Layer) (s : State), brings p cols r s ∧ r.out = .whole ∧ hdrType r.hdr = 1 ∧ validPacket s p r.hdr = true ∧ n = hdrChan r.hdr ∧ s.cmp.layers[n]? = some l ∧ l.en = true ∧ (¬(hdrField r.hdr 7 1 = l.cfg.format ∧ hdrField r.hdr 8 2 = l.cfg.srcW ∧ hdrField r.hdr 10 2 = l.cfg.srcH)) ∧ l.receiving = false) ∧
    (∃ (p : Path) (cols : List (List LaneWord)) (r : Rx) (n : Nat) (l : Layer) (s : State), brings p cols r s ∧ r.out = .whole ∧ hdrType r.hdr = 1 ∧ validPacket s p r.hdr = true ∧ n = hdrChan r.hdr ∧ s.cmp.layers[n]? = some l ∧ l.en = true ∧ (¬(hdrField r.hdr 7 1 = l.cfg.format ∧ hdrField r.hdr 8 2 = l.cfg.srcW ∧ hdrField r.hdr 10 2 = l.cfg.srcH)) ∧ l.receiving = true) :=
  ⟨⟨.host, (pk 2 1 2 ([255, 1] ++ le 2 16 ++ le 2 2) []), (rxOf (.host) (pk 2 1 2 ([255, 1] ++ le 2 16 ++ le 2 2) []) (let s := hp 5 (prd (lay 2 { frm with back := .ready, overwritten := 65535 } up)); { s with rope := { s.rope with layerSrc := 0, statusEn := true, outcomeEn := true } })), 2, (layerOf (let s := hp 5 (prd (lay 2 { frm with back := .ready, overwritten := 65535 } up)); { s with rope := { s.rope with layerSrc := 0, statusEn := true, outcomeEn := true } }) (2)), (let s := hp 5 (prd (lay 2 { frm with back := .ready, overwritten := 65535 } up)); { s with rope := { s.rope with layerSrc := 0, statusEn := true, outcomeEn := true } }), by unfold brings; decide +kernel⟩,
    ⟨.host, (pk 2 1 2 ([255, 1] ++ le 2 16 ++ le 2 2) []), (rxOf (.host) (pk 2 1 2 ([255, 1] ++ le 2 16 ++ le 2 2) []) (let s := hp 5 (prd (lay 2 { frm with en := false, discards := 65535 } up)); { s with rope := { s.rope with layerSrc := 0, statusEn := true, outcomeEn := true } })), 2, (layerOf (let s := hp 5 (prd (lay 2 { frm with en := false, discards := 65535 } up)); { s with rope := { s.rope with layerSrc := 0, statusEn := true, outcomeEn := true } }) (2)), (let s := hp 5 (prd (lay 2 { frm with en := false, discards := 65535 } up)); { s with rope := { s.rope with layerSrc := 0, statusEn := true, outcomeEn := true } }), by unfold brings; decide +kernel⟩,
    ⟨.host, (pk 2 1 2 ([0, 1] ++ le 2 16 ++ le 2 3) []), (rxOf (.host) (pk 2 1 2 ([0, 1] ++ le 2 16 ++ le 2 3) []) (let s := hp 5 (prd (lay 2 { frm with back := .ready, overwritten := 65535 } up)); { s with rope := { s.rope with layerSrc := 0, statusEn := true, outcomeEn := true } })), 2, (layerOf (let s := hp 5 (prd (lay 2 { frm with back := .ready, overwritten := 65535 } up)); { s with rope := { s.rope with layerSrc := 0, statusEn := true, outcomeEn := true } }) (2)), (let s := hp 5 (prd (lay 2 { frm with back := .ready, overwritten := 65535 } up)); { s with rope := { s.rope with layerSrc := 0, statusEn := true, outcomeEn := true } }), by unfold brings; decide +kernel⟩,
    ⟨.host, (pk 2 1 2 ([0, 1] ++ le 2 16 ++ le 2 3) []), (rxOf (.host) (pk 2 1 2 ([0, 1] ++ le 2 16 ++ le 2 3) []) (let s := hp 5 (prd (lay 2 { frm with back := .filling, receiving := true } up)); { s with rope := { s.rope with layerSrc := 0, statusEn := true, outcomeEn := true } })), 2, (layerOf (let s := hp 5 (prd (lay 2 { frm with back := .filling, receiving := true } up)); { s with rope := { s.rope with layerSrc := 0, statusEn := true, outcomeEn := true } }) (2)), (let s := hp 5 (prd (lay 2 { frm with back := .filling, receiving := true } up)); { s with rope := { s.rope with layerSrc := 0, statusEn := true, outcomeEn := true } }), by unfold brings; decide +kernel⟩⟩

/-- The hypotheses of clause 2 of FramesArrive can be met. -/
theorem wit_FramesArrive_1 :
    (∃ (p : Path) (cols : List (List LaneWord)) (r : Rx) (fill : Nat) (n : Nat) (l : Layer) (s : State), brings p cols r s ∧ r.out = .whole ∧ hdrType r.hdr = 2 ∧ validPacket s p r.hdr = true ∧ n = hdrChan r.hdr ∧ s.cmp.layers[n]? = some l ∧ l.receiving = true ∧ fill ≤ bufferBytes p ∧ (((hdrField r.hdr 6 2) = l.line ∧ (hdrField r.hdr 8 2) = l.off ∧ (hdrField r.hdr 6 2) < l.cfg.srcH ∧ (hdrField r.hdr 8 2) + (r.body).length ≤ lineBytes l.cfg)) ∧ (hdrField r.hdr 8 2) + (r.body).length = lineBytes l.cfg) ∧
    (∃ (p : Path) (cols : List (List LaneWord)) (r : Rx) (fill : Nat) (n : Nat) (l : Layer) (s : State), brings p cols r s ∧ r.out = .whole ∧ hdrType r.hdr = 2 ∧ validPacket s p r.hdr = true ∧ n = hdrChan r.hdr ∧ s.cmp.layers[n]? = some l ∧ l.receiving = true ∧ fill ≤ bufferBytes p ∧ (((hdrField r.hdr 6 2) = l.line ∧ (hdrField r.hdr 8 2) = l.off ∧ (hdrField r.hdr 6 2) < l.cfg.srcH ∧ (hdrField r.hdr 8 2) + (r.body).length ≤ lineBytes l.cfg)) ∧ (hdrField r.hdr 8 2) + (r.body).length ≠ lineBytes l.cfg) ∧
    (∃ (p : Path) (cols : List (List LaneWord)) (r : Rx) (fill : Nat) (n : Nat) (l : Layer) (s : State), brings p cols r s ∧ r.out = .whole ∧ hdrType r.hdr = 2 ∧ validPacket s p r.hdr = true ∧ n = hdrChan r.hdr ∧ s.cmp.layers[n]? = some l ∧ l.receiving = true ∧ fill ≤ bufferBytes p ∧ (((hdrField r.hdr 6 2) = l.line ∧ (hdrField r.hdr 8 2) = l.off ∧ (hdrField r.hdr 6 2) < l.cfg.srcH ∧ (hdrField r.hdr 8 2) + (r.body).length ≤ lineBytes l.cfg)) ∧ storeUp s = true ∧ canonical s = true ∧ shaped s = true ∧ (backAddr l + (hdrField r.hdr 6 2) * l.cfg.stride + (hdrField r.hdr 8 2)) + (r.body).length ≤ 2 ^ 24 ∧ (backAddr l + (hdrField r.hdr 6 2) * l.cfg.stride + (hdrField r.hdr 8 2)) % 8 = 0) ∧
    (∃ (p : Path) (cols : List (List LaneWord)) (r : Rx) (fill : Nat) (n : Nat) (l : Layer) (s : State), brings p cols r s ∧ r.out = .whole ∧ hdrType r.hdr = 2 ∧ validPacket s p r.hdr = true ∧ n = hdrChan r.hdr ∧ s.cmp.layers[n]? = some l ∧ l.receiving = true ∧ fill ≤ bufferBytes p ∧ (¬((hdrField r.hdr 6 2) = l.line ∧ (hdrField r.hdr 8 2) = l.off ∧ (hdrField r.hdr 6 2) < l.cfg.srcH ∧ (hdrField r.hdr 8 2) + (r.body).length ≤ lineBytes l.cfg))) ∧
    (∃ (p : Path) (cols : List (List LaneWord)) (r : Rx) (fill : Nat) (n : Nat) (l : Layer) (s : State), brings p cols r s ∧ r.out = .whole ∧ hdrType r.hdr = 2 ∧ validPacket s p r.hdr = true ∧ n = hdrChan r.hdr ∧ s.cmp.layers[n]? = some l ∧ l.receiving = false ∧ fill ≤ bufferBytes p) ∧
    (∃ (p : Path) (cols : List (List LaneWord)) (r : Rx) (fill : Nat) (n : Nat) (l : Layer) (s : State), brings p cols r s ∧ r.out = .whole ∧ hdrType r.hdr = 2 ∧ validPacket s p r.hdr = true ∧ n = hdrChan r.hdr ∧ s.cmp.layers[n]? = some l ∧ bufferBytes p < fill ∧ l.receiving = true) :=
  ⟨⟨.host, (hurt 5 (pk 2 2 2 (le 2 0 ++ le 2 0) ((List.range 16).map (BitVec.ofNat 8)))), (rxOf (.host) (hurt 5 (pk 2 2 2 (le 2 0 ++ le 2 0) ((List.range 16).map (BitVec.ofNat 8)))) (let s := hp 5 (prd (lay 2 { frm with back := .filling, receiving := true, line := 0, off := 0, crc := 0xFFFFFFFF } up)); { s with rope := { s.rope with layerSrc := 0, statusEn := true, outcomeEn := true } })), 8192, 2, (layerOf (let s := hp 5 (prd (lay 2 { frm with back := .filling, receiving := true, line := 0, off := 0, crc := 0xFFFFFFFF } up)); { s with rope := { s.rope with layerSrc := 0, statusEn := true, outcomeEn := true } }) (2)), (let s := hp 5 (prd (lay 2 { frm with back := .filling, receiving := true, line := 0, off := 0, crc := 0xFFFFFFFF } up)); { s with rope := { s.rope with layerSrc := 0, statusEn := true, outcomeEn := true } }), by unfold brings; decide +kernel⟩,
    ⟨.host, (hurt 5 (pk 2 2 2 (le 2 0 ++ le 2 0) ((List.range 8).map (BitVec.ofNat 8)))), (rxOf (.host) (hurt 5 (pk 2 2 2 (le 2 0 ++ le 2 0) ((List.range 8).map (BitVec.ofNat 8)))) (let s := hp 5 (prd (lay 2 { frm with back := .filling, receiving := true, line := 0, off := 0, crc := 0xFFFFFFFF } up)); { s with rope := { s.rope with layerSrc := 0, statusEn := true, outcomeEn := true } })), 8192, 2, (layerOf (let s := hp 5 (prd (lay 2 { frm with back := .filling, receiving := true, line := 0, off := 0, crc := 0xFFFFFFFF } up)); { s with rope := { s.rope with layerSrc := 0, statusEn := true, outcomeEn := true } }) (2)), (let s := hp 5 (prd (lay 2 { frm with back := .filling, receiving := true, line := 0, off := 0, crc := 0xFFFFFFFF } up)); { s with rope := { s.rope with layerSrc := 0, statusEn := true, outcomeEn := true } }), by unfold brings; decide +kernel⟩,
    ⟨.host, (hurt 5 (pk 2 2 2 (le 2 0 ++ le 2 0) ((List.range 16).map (BitVec.ofNat 8)))), (rxOf (.host) (hurt 5 (pk 2 2 2 (le 2 0 ++ le 2 0) ((List.range 16).map (BitVec.ofNat 8)))) (let s := hp 5 (prd (lay 2 { frm with back := .filling, receiving := true, line := 0, off := 0, crc := 0xFFFFFFFF } up)); { s with rope := { s.rope with layerSrc := 0, statusEn := true, outcomeEn := true } })), 8192, 2, (layerOf (let s := hp 5 (prd (lay 2 { frm with back := .filling, receiving := true, line := 0, off := 0, crc := 0xFFFFFFFF } up)); { s with rope := { s.rope with layerSrc := 0, statusEn := true, outcomeEn := true } }) (2)), (let s := hp 5 (prd (lay 2 { frm with back := .filling, receiving := true, line := 0, off := 0, crc := 0xFFFFFFFF } up)); { s with rope := { s.rope with layerSrc := 0, statusEn := true, outcomeEn := true } }), by unfold brings; decide +kernel⟩,
    ⟨.host, (pk 2 2 2 (le 2 0 ++ le 2 0) ((List.range 16).map (BitVec.ofNat 8))), (rxOf (.host) (pk 2 2 2 (le 2 0 ++ le 2 0) ((List.range 16).map (BitVec.ofNat 8))) (let s := hp 5 (prd (lay 2 { frm with back := .filling, receiving := true, line := 1, off := 0, crc := 0xFFFFFFFF } up)); { s with rope := { s.rope with layerSrc := 0, statusEn := true, outcomeEn := true } })), 8192, 2, (layerOf (let s := hp 5 (prd (lay 2 { frm with back := .filling, receiving := true, line := 1, off := 0, crc := 0xFFFFFFFF } up)); { s with rope := { s.rope with layerSrc := 0, statusEn := true, outcomeEn := true } }) (2)), (let s := hp 5 (prd (lay 2 { frm with back := .filling, receiving := true, line := 1, off := 0, crc := 0xFFFFFFFF } up)); { s with rope := { s.rope with layerSrc := 0, statusEn := true, outcomeEn := true } }), by unfold brings; decide +kernel⟩,
    ⟨.host, (pk 2 2 2 (le 2 0 ++ le 2 0) (List.replicate 16 3)), (rxOf (.host) (pk 2 2 2 (le 2 0 ++ le 2 0) (List.replicate 16 3)) (let s := hp 5 (prd (lay 2 { frm with back := .ready } up)); { s with rope := { s.rope with layerSrc := 0, statusEn := true, outcomeEn := true } })), 9, 2, (layerOf (let s := hp 5 (prd (lay 2 { frm with back := .ready } up)); { s with rope := { s.rope with layerSrc := 0, statusEn := true, outcomeEn := true } }) (2)), (let s := hp 5 (prd (lay 2 { frm with back := .ready } up)); { s with rope := { s.rope with layerSrc := 0, statusEn := true, outcomeEn := true } }), by unfold brings; decide +kernel⟩,
    ⟨.host, (hurt 5 (pk 2 2 2 (le 2 0 ++ le 2 0) ((List.range 16).map (BitVec.ofNat 8)))), (rxOf (.host) (hurt 5 (pk 2 2 2 (le 2 0 ++ le 2 0) ((List.range 16).map (BitVec.ofNat 8)))) (let s := hp 5 (prd (lay 2 { frm with back := .filling, receiving := true, line := 0, off := 0, crc := 0xFFFFFFFF } up)); { s with rope := { s.rope with layerSrc := 0, statusEn := true, outcomeEn := true } })), 99999, 2, (layerOf (let s := hp 5 (prd (lay 2 { frm with back := .filling, receiving := true, line := 0, off := 0, crc := 0xFFFFFFFF } up)); { s with rope := { s.rope with layerSrc := 0, statusEn := true, outcomeEn := true } }) (2)), (let s := hp 5 (prd (lay 2 { frm with back := .filling, receiving := true, line := 0, off := 0, crc := 0xFFFFFFFF } up)); { s with rope := { s.rope with layerSrc := 0, statusEn := true, outcomeEn := true } }), by unfold brings; decide +kernel⟩⟩

/-- The hypotheses of clause 3 of FramesArrive can be met. -/
theorem wit_FramesArrive_2 :
    (∃ (p : Path) (cols : List (List LaneWord)) (r : Rx) (n : Nat) (l : Layer) (s : State), brings p cols r s ∧ r.out = .whole ∧ hdrType r.hdr = 3 ∧ validPacket s p r.hdr = true ∧ n = hdrChan r.hdr ∧ s.cmp.layers[n]? = some l ∧ l.alive < 65536 ∧ l.receiving = false) ∧
    (∃ (p : Path) (cols : List (List LaneWord)) (r : Rx) (n : Nat) (l : Layer) (s : State), brings p cols r s ∧ r.out = .whole ∧ hdrType r.hdr = 3 ∧ validPacket s p r.hdr = true ∧ n = hdrChan r.hdr ∧ s.cmp.layers[n]? = some l ∧ l.alive < 65536 ∧ l.receiving = true ∧ (¬(l.line = l.cfg.srcH ∧ l.off = 0))) ∧
    (∃ (p : Path) (cols : List (List LaneWord)) (r : Rx) (n : Nat) (l : Layer) (s : State), brings p cols r s ∧ r.out = .whole ∧ hdrType r.hdr = 3 ∧ validPacket s p r.hdr = true ∧ n = hdrChan r.hdr ∧ s.cmp.layers[n]? = some l ∧ l.alive < 65536 ∧ l.receiving = true ∧ ((l.line = l.cfg.srcH ∧ l.off = 0)) ∧ r.errs = 0 ∧ (field r.body 0 4) = (crcOut 32 true 0xFFFFFFFF l.crc) ∧ ((l.aliveValid = false ∨ (field r.body 4 2) ≠ l.alive)) ∧ l.aliveValid = true ∧ (field r.body 4 2) ≠ (l.alive + 1) % 65536) ∧
    (∃ (p : Path) (cols : List (List LaneWord)) (r : Rx) (n : Nat) (l : Layer) (s : State), brings p cols r s ∧ r.out = .whole ∧ hdrType r.hdr = 3 ∧ validPacket s p r.hdr = true ∧ n = hdrChan r.hdr ∧ s.cmp.layers[n]? = some l ∧ l.alive < 65536 ∧ l.receiving = true ∧ ((l.line = l.cfg.srcH ∧ l.off = 0)) ∧ r.errs = 0 ∧ (field r.body 0 4) = (crcOut 32 true 0xFFFFFFFF l.crc) ∧ ((l.aliveValid = false ∨ (field r.body 4 2) ≠ l.alive)) ∧ ((l.aliveValid = false ∨ (field r.body 4 2) = (l.alive + 1) % 65536))) ∧
    (∃ (p : Path) (cols : List (List LaneWord)) (r : Rx) (n : Nat) (l : Layer) (s : State), brings p cols r s ∧ r.out = .whole ∧ hdrType r.hdr = 3 ∧ validPacket s p r.hdr = true ∧ n = hdrChan r.hdr ∧ s.cmp.layers[n]? = some l ∧ l.alive < 65536 ∧ l.receiving = true ∧ ((l.line = l.cfg.srcH ∧ l.off = 0)) ∧ r.errs = 0 ∧ (field r.body 0 4) = (crcOut 32 true 0xFFFFFFFF l.crc) ∧ l.aliveValid = true ∧ (field r.body 4 2) = l.alive) ∧
    (∃ (p : Path) (cols : List (List LaneWord)) (r : Rx) (n : Nat) (l : Layer) (s : State), brings p cols r s ∧ r.out = .whole ∧ hdrType r.hdr = 3 ∧ validPacket s p r.hdr = true ∧ n = hdrChan r.hdr ∧ s.cmp.layers[n]? = some l ∧ l.alive < 65536 ∧ l.receiving = true ∧ ((l.line = l.cfg.srcH ∧ l.off = 0)) ∧ r.errs = 0 ∧ (field r.body 0 4) ≠ (crcOut 32 true 0xFFFFFFFF l.crc)) ∧
    (∃ (p : Path) (cols : List (List LaneWord)) (r : Rx) (n : Nat) (l : Layer) (s : State), brings p cols r s ∧ r.out = .whole ∧ hdrType r.hdr = 3 ∧ validPacket s p r.hdr = true ∧ n = hdrChan r.hdr ∧ s.cmp.layers[n]? = some l ∧ l.alive < 65536 ∧ l.receiving = true ∧ ((l.line = l.cfg.srcH ∧ l.off = 0)) ∧ r.errs ≠ 0) :=
  ⟨⟨.host, (pk 2 3 2 [] (le 4 5 ++ le 2 5 ++ le 2 0)), (rxOf (.host) (pk 2 3 2 [] (le 4 5 ++ le 2 5 ++ le 2 0)) (let s := hp 5 (prd (lay 2 { frm with back := .ready } up)); { s with rope := { s.rope with layerSrc := 0, statusEn := true, outcomeEn := true } })), 2, (layerOf (let s := hp 5 (prd (lay 2 { frm with back := .ready } up)); { s with rope := { s.rope with layerSrc := 0, statusEn := true, outcomeEn := true } }) (2)), (let s := hp 5 (prd (lay 2 { frm with back := .ready } up)); { s with rope := { s.rope with layerSrc := 0, statusEn := true, outcomeEn := true } }), by unfold brings; decide +kernel⟩,
    ⟨.host, (pk 2 3 2 [] (le 4 (crcOut 32 true 0xFFFFFFFF 0xFFFFFFFF) ++ le 2 65535 ++ le 2 0)), (rxOf (.host) (pk 2 3 2 [] (le 4 (crcOut 32 true 0xFFFFFFFF 0xFFFFFFFF) ++ le 2 65535 ++ le 2 0)) (let s := hp 5 (prd (lay 2 { frm with back := .filling, receiving := true, line := 1, off := 0, crc := 0xFFFFFFFF, alive := 65535, aliveValid := true } up)); { s with rope := { s.rope with layerSrc := 0, statusEn := true, outcomeEn := true } })), 2, (layerOf (let s := hp 5 (prd (lay 2 { frm with back := .filling, receiving := true, line := 1, off := 0, crc := 0xFFFFFFFF, alive := 65535, aliveValid := true } up)); { s with rope := { s.rope with layerSrc := 0, statusEn := true, outcomeEn := true } }) (2)), (let s := hp 5 (prd (lay 2 { frm with back := .filling, receiving := true, line := 1, off := 0, crc := 0xFFFFFFFF, alive := 65535, aliveValid := true } up)); { s with rope := { s.rope with layerSrc := 0, statusEn := true, outcomeEn := true } }), by unfold brings; decide +kernel⟩,
    ⟨.host, (pk 2 3 2 [] (le 4 (crcOut 32 true 0xFFFFFFFF 0xFFFFFFFF) ++ le 2 7 ++ le 2 0)), (rxOf (.host) (pk 2 3 2 [] (le 4 (crcOut 32 true 0xFFFFFFFF 0xFFFFFFFF) ++ le 2 7 ++ le 2 0)) (let s := hp 5 (prd (lay 2 { frm with back := .filling, receiving := true, line := 2, off := 0, crc := 0xFFFFFFFF, alive := 65535, aliveValid := true } up)); { s with rope := { s.rope with layerSrc := 0, statusEn := true, outcomeEn := true } })), 2, (layerOf (let s := hp 5 (prd (lay 2 { frm with back := .filling, receiving := true, line := 2, off := 0, crc := 0xFFFFFFFF, alive := 65535, aliveValid := true } up)); { s with rope := { s.rope with layerSrc := 0, statusEn := true, outcomeEn := true } }) (2)), (let s := hp 5 (prd (lay 2 { frm with back := .filling, receiving := true, line := 2, off := 0, crc := 0xFFFFFFFF, alive := 65535, aliveValid := true } up)); { s with rope := { s.rope with layerSrc := 0, statusEn := true, outcomeEn := true } }), by unfold brings; decide +kernel⟩,
    ⟨.host, (pk 2 3 2 [] (le 4 (crcOut 32 true 0xFFFFFFFF 0xFFFFFFFF) ++ le 2 0 ++ le 2 0)), (rxOf (.host) (pk 2 3 2 [] (le 4 (crcOut 32 true 0xFFFFFFFF 0xFFFFFFFF) ++ le 2 0 ++ le 2 0)) (let s := hp 5 (prd (lay 2 { frm with back := .filling, receiving := true, line := 2, off := 0, crc := 0xFFFFFFFF, alive := 65535, aliveValid := true } up)); { s with rope := { s.rope with layerSrc := 0, statusEn := true, outcomeEn := true } })), 2, (layerOf (let s := hp 5 (prd (lay 2 { frm with back := .filling, receiving := true, line := 2, off := 0, crc := 0xFFFFFFFF, alive := 65535, aliveValid := true } up)); { s with rope := { s.rope with layerSrc := 0, statusEn := true, outcomeEn := true } }) (2)), (let s := hp 5 (prd (lay 2 { frm with back := .filling, receiving := true, line := 2, off := 0, crc := 0xFFFFFFFF, alive := 65535, aliveValid := true } up)); { s with rope := { s.rope with layerSrc := 0, statusEn := true, outcomeEn := true } }), by unfold brings; decide +kernel⟩,
    ⟨.host, (pk 2 3 2 [] (le 4 (crcOut 32 true 0xFFFFFFFF 0xFFFFFFFF) ++ le 2 65535 ++ le 2 0)), (rxOf (.host) (pk 2 3 2 [] (le 4 (crcOut 32 true 0xFFFFFFFF 0xFFFFFFFF) ++ le 2 65535 ++ le 2 0)) (let s := hp 5 (prd (lay 2 { frm with back := .filling, receiving := true, line := 2, off := 0, crc := 0xFFFFFFFF, alive := 65535, aliveValid := true } up)); { s with rope := { s.rope with layerSrc := 0, statusEn := true, outcomeEn := true } })), 2, (layerOf (let s := hp 5 (prd (lay 2 { frm with back := .filling, receiving := true, line := 2, off := 0, crc := 0xFFFFFFFF, alive := 65535, aliveValid := true } up)); { s with rope := { s.rope with layerSrc := 0, statusEn := true, outcomeEn := true } }) (2)), (let s := hp 5 (prd (lay 2 { frm with back := .filling, receiving := true, line := 2, off := 0, crc := 0xFFFFFFFF, alive := 65535, aliveValid := true } up)); { s with rope := { s.rope with layerSrc := 0, statusEn := true, outcomeEn := true } }), by unfold brings; decide +kernel⟩,
    ⟨.host, (pk 2 3 2 [] (le 4 5 ++ le 2 65535 ++ le 2 0)), (rxOf (.host) (pk 2 3 2 [] (le 4 5 ++ le 2 65535 ++ le 2 0)) (let s := hp 5 (prd (lay 2 { frm with back := .filling, receiving := true, line := 2, off := 0, crc := 0xFFFFFFFF, alive := 65535, aliveValid := true } up)); { s with rope := { s.rope with layerSrc := 0, statusEn := true, outcomeEn := true } })), 2, (layerOf (let s := hp 5 (prd (lay 2 { frm with back := .filling, receiving := true, line := 2, off := 0, crc := 0xFFFFFFFF, alive := 65535, aliveValid := true } up)); { s with rope := { s.rope with layerSrc := 0, statusEn := true, outcomeEn := true } }) (2)), (let s := hp 5 (prd (lay 2 { frm with back := .filling, receiving := true, line := 2, off := 0, crc := 0xFFFFFFFF, alive := 65535, aliveValid := true } up)); { s with rope := { s.rope with layerSrc := 0, statusEn := true, outcomeEn := true } }), by unfold brings; decide +kernel⟩,
    ⟨.host, (hurt 2 (pk 2 3 2 [] (le 4 (crcOut 32 true 0xFFFFFFFF 0xFFFFFFFF) ++ le 2 65535 ++ le 2 0))), (rxOf (.host) (hurt 2 (pk 2 3 2 [] (le 4 (crcOut 32 true 0xFFFFFFFF 0xFFFFFFFF) ++ le 2 65535 ++ le 2 0))) (let s := hp 5 (prd (lay 2 { frm with back := .filling, receiving := true, line := 2, off := 0, crc := 0xFFFFFFFF, alive := 65535, aliveValid := true } up)); { s with rope := { s.rope with layerSrc := 0, statusEn := true, outcomeEn := true } })), 2, (layerOf (let s := hp 5 (prd (lay 2 { frm with back := .filling, receiving := true, line := 2, off := 0, crc := 0xFFFFFFFF, alive := 65535, aliveValid := true } up)); { s with rope := { s.rope with layerSrc := 0, statusEn := true, outcomeEn := true } }) (2)), (let s := hp 5 (prd (lay 2 { frm with back := .filling, receiving := true, line := 2, off := 0, crc := 0xFFFFFFFF, alive := 65535, aliveValid := true } up)); { s with rope := { s.rope with layerSrc := 0, statusEn := true, outcomeEn := true } }), by unfold brings; decide +kernel⟩⟩

/-- The hypotheses of clause 1 of BackBuffersAndPackets can be met. -/
theorem wit_BackBuffersAndPackets_0 :
    (∃ (p : Path) (pos : List Bool) (type : Nat) (chan : Nat) (body : List Byte) (s : State), pos.length = (pathLanes s p).length ∧ pos ≠ [] ∧ ((∀ (q : Nat), q < pos.length → (laneOf s ((pathLanes s p).getD q 0)).rdPos = pos.getD q false)) ∧ (pathOf s p).held = [] ∧ type < 256 ∧ chan < 256 ∧ body.length < 65536) :=
  ⟨.host, [false], 0x10, 7, [], (hp 4 up), by decide +kernel⟩

/-- The hypotheses of clause 2 of BackBuffersAndPackets can be met. -/
theorem wit_BackBuffersAndPackets_1 :
    (∃ (m : Nat) (h : List Byte) (xs : List RxSym) (e : RxSym) (pad : List RxSym), 1 ≤ m ∧ h.length = 13 ∧ ((∀ x ∈ xs, x.sym = .bad ∨ (match x.sym with | .data _ => true | _ => false) = true)) ∧ (17 + xs.length + pad.length) % (4 * m) = 0 ∧ pad.length < 4 * m ∧ xs.length = hdrLen (h ++ le 2 (crc16 h)) ∧ e.sym = .ctl 0xFD) ∧
    (∃ (m : Nat) (h : List Byte) (xs : List RxSym) (e : RxSym) (pad : List RxSym) (c : _), 1 ≤ m ∧ h.length = 13 ∧ ((∀ x ∈ xs, x.sym = .bad ∨ (match x.sym with | .data _ => true | _ => false) = true)) ∧ (17 + xs.length + pad.length) % (4 * m) = 0 ∧ pad.length < 4 * m ∧ xs.length ≤ hdrLen (h ++ le 2 (crc16 h)) ∧ e.sym = .ctl c ∧ c ≠ 0xFB ∧ ((c ≠ 0xFD ∨ xs.length < hdrLen (h ++ le 2 (crc16 h)))) ∧ ((∀ x ∈ pad, x.sym ≠ .ctl 0xFB))) ∧
    (∃ (m : Nat) (h : List Byte) (xs : List RxSym) (e : RxSym) (pad : List RxSym) (b : _), 1 ≤ m ∧ h.length = 13 ∧ ((∀ x ∈ xs, x.sym = .bad ∨ (match x.sym with | .data _ => true | _ => false) = true)) ∧ (17 + xs.length + pad.length) % (4 * m) = 0 ∧ pad.length < 4 * m ∧ xs.length = hdrLen (h ++ le 2 (crc16 h)) ∧ e.sym = .data b ∧ ((∀ x ∈ pad, x.sym ≠ .ctl 0xFB))) ∧
    (∃ (m : Nat) (h : List Byte) (xs : List RxSym) (e : RxSym) (pad : List RxSym) (k : _), 1 ≤ m ∧ h.length = 13 ∧ ((∀ x ∈ xs, x.sym = .bad ∨ (match x.sym with | .data _ => true | _ => false) = true)) ∧ (17 + xs.length + pad.length) % (4 * m) = 0 ∧ pad.length < 4 * m ∧ crc16 h ≠ k ∧ k < 65536 ∧ ((∀ x ∈ e :: pad, x.sym ≠ .ctl 0xFB))) :=
  ⟨⟨1, (hdr13 2 3 [1,2,3,4] 3), (List.range 3).map (fun i0 => okSym (BitVec.ofNat 8 i0)), ({ sym := .ctl 0xFD, err := false } : RxSym), (List.replicate 0 (okSym 9)), by decide +kernel⟩,
    ⟨1, (hdr13 2 3 [1,2,3,4] 3), (List.range 3).map (fun i0 => okSym (BitVec.ofNat 8 i0)), ({ sym := .ctl 0xFE, err := false } : RxSym), (List.replicate 0 (okSym 9)), 0xFE, by decide +kernel⟩,
    ⟨1, (hdr13 2 3 [1,2,3,4] 3), (List.range 3).map (fun i0 => okSym (BitVec.ofNat 8 i0)), ({ sym := .data 7, err := false } : RxSym), (List.replicate 0 (okSym 9)), 7, by decide +kernel⟩,
    ⟨1, (hdr13 2 3 [1,2,3,4] 3), (List.range 3).map (fun i0 => okSym (BitVec.ofNat 8 i0)), ({ sym := .ctl 0xFD, err := false } : RxSym), (List.replicate 0 (okSym 9)), 77, by decide +kernel⟩⟩

/-- The hypotheses of clause 3 of BackBuffersAndPackets can be met. -/
theorem wit_BackBuffersAndPackets_2 :
    (∃ (n : Nat) (l : Layer) (s : State), n < 6 ∧ s.cmp.layers[n]? = some l ∧ l.crossing = true) ∧
    (∃ (n : Nat) (l : Layer) (s : State), n < 6 ∧ s.cmp.layers[n]? = some l ∧ l.crossing = false) :=
  ⟨⟨5, (((lay 5 { frm with crossing := true, backFence := 5, back := .filling } up).cmp.layers[(5)]?).getD {}), (lay 5 { frm with crossing := true, backFence := 5, back := .filling } up), by decide +kernel⟩,
    ⟨5, (((lay 5 { frm with crossing := false } up).cmp.layers[(5)]?).getD {}), (lay 5 { frm with crossing := false } up), by decide +kernel⟩⟩

/-- The hypotheses of clause 4 of BackBuffersAndPackets can be met. -/
theorem wit_BackBuffersAndPackets_3 :
    (∃ (n : Nat) (l : Layer) (s : State), n < 6 ∧ s.cmp.layers[n]? = some l ∧ awake s = true ∧ l.back = .fenced ∧ s.cmp.fenceMs ≠ 0) :=
  ⟨5, (((lay 5 { frm with back := .fenced, backFence := 5, fenceTimeouts := 65535 } up).cmp.layers[(5)]?).getD {}), (lay 5 { frm with back := .fenced, backFence := 5, fenceTimeouts := 65535 } up), by decide +kernel⟩

/-- The hypotheses of clause 5 of BackBuffersAndPackets can be met. -/
theorem wit_BackBuffersAndPackets_4 :
    (∃ (n : Nat) (s : State), n < 6 ∧ s.cmp.fenceMs = 0) :=
  ⟨5, (let s := lay 5 { frm with back := .fenced, backFence := 5 } up; { s with cmp := { s.cmp with fenceMs := 0 } }), by decide +kernel⟩

/-- The hypotheses of clause 6 of BackBuffersAndPackets can be met. -/
theorem wit_BackBuffersAndPackets_5 :
    (∃ (p : Path) (cols : List (List LaneWord)) (fill : Nat) (r : Rx) (s : State), brings p cols r s ∧ ((fill ≤ bufferBytes p ∨ r.hdr = [])) ∧ r.out = .badHeader) ∧
    (∃ (p : Path) (cols : List (List LaneWord)) (r : Rx) (s : State), brings p cols r s ∧ r.out = .none ∧ r.misplaced ≠ 0) ∧
    (∃ (p : Path) (cols : List (List LaneWord)) (fill : Nat) (r : Rx) (s : State), brings p cols r s ∧ fill ≤ bufferBytes p ∧ r.out = .unfinished) ∧
    (∃ (p : Path) (cols : List (List LaneWord)) (fill : Nat) (r : Rx) (s : State) (a : _), brings p cols r s ∧ fill ≤ bufferBytes p ∧ r.out = .cut a ∧ validPacket s p r.hdr = true ∧ hdrType r.hdr = 2 ∧ receivingOn s p (hdrChan r.hdr) = true) ∧
    (∃ (p : Path) (cols : List (List LaneWord)) (fill : Nat) (r : Rx) (s : State) (a : _), brings p cols r s ∧ fill ≤ bufferBytes p ∧ r.out = .cut a ∧ validPacket s p r.hdr = true ∧ hdrType r.hdr ≠ 2 ∧ hdrType r.hdr ≠ 3) ∧
    (∃ (p : Path) (cols : List (List LaneWord)) (fill : Nat) (r : Rx) (s : State), brings p cols r s ∧ fill ≤ bufferBytes p ∧ r.out = .whole ∧ validPacket s p r.hdr = false ∧ hdrType r.hdr = 2 ∧ receivingOn s p (hdrChan r.hdr) = true) ∧
    (∃ (p : Path) (cols : List (List LaneWord)) (fill : Nat) (r : Rx) (s : State), brings p cols r s ∧ fill ≤ bufferBytes p ∧ r.out = .whole ∧ validPacket s p r.hdr = false ∧ ((hdrType r.hdr ≠ 2 ∨ receivingOn s p (hdrChan r.hdr) = false))) ∧
    (∃ (p : Path) (cols : List (List LaneWord)) (fill : Nat) (r : Rx) (s : State), brings p cols r s ∧ fill ≤ bufferBytes p ∧ r.out = .whole ∧ hdrType r.hdr = 0x20 ∧ validPacket s p r.hdr = true ∧ twinMessageOk r.body = false) ∧
    (∃ (p : Path) (cols : List (List LaneWord)) (fill : Nat) (r : Rx) (s : State), brings p cols r s ∧ bufferBytes p < fill ∧ r.hdr ≠ [] ∧ r.out ≠ .none ∧ r.out ≠ .badHeader ∧ ((hdrType r.hdr = 2 ∨ hdrType r.hdr = 3)) ∧ receivingOn s p (hdrChan r.hdr) = true) :=
  ⟨⟨.host, (badCols 2 2 2), 9, (rxOf (.host) (badCols 2 2 2) (let s := hp 3 (prd (lay 2 { frm with back := .filling, receiving := true } up)); { s with rope := { s.rope with layerSrc := 0 } })), (let s := hp 3 (prd (lay 2 { frm with back := .filling, receiving := true } up)); { s with rope := { s.rope with layerSrc := 0 } }), by unfold brings; decide +kernel⟩,
    ⟨.host, (rawCols 2 [.data 1, .data 2, .data 3, .data 4, .ctl 0xFB, .data 5]), (rxOf (.host) (rawCols 2 [.data 1, .data 2, .data 3, .data 4, .ctl 0xFB, .data 5]) (let s := hp 3 (prd (lay 2 { frm with back := .filling, receiving := true } up)); { s with rope := { s.rope with layerSrc := 0 } })), (let s := hp 3 (prd (lay 2 { frm with back := .filling, receiving := true } up)); { s with rope := { s.rope with layerSrc := 0 } }), by unfold brings; decide +kernel⟩,
    ⟨.host, (rawCols 2 (.ctl 0xFB :: dataSyms (headerBytes 2 2 [0,0,0,0] 24 ++ [1,2,3,4,5,6,7,8]))), 9, (rxOf (.host) (rawCols 2 (.ctl 0xFB :: dataSyms (headerBytes 2 2 [0,0,0,0] 24 ++ [1,2,3,4,5,6,7,8]))) (hp 3 (prd up))), (hp 3 (prd up)), by unfold brings; decide +kernel⟩,
    ⟨.host, (cutCols 2 2 2 [0,0,0,0] [1,2,3] 8 (.ctl 0xFE)), 9, (rxOf (.host) (cutCols 2 2 2 [0,0,0,0] [1,2,3] 8 (.ctl 0xFE)) (let s := hp 3 (prd (lay 2 { frm with back := .filling, receiving := true } up)); { s with rope := { s.rope with layerSrc := 0 } })), (let s := hp 3 (prd (lay 2 { frm with back := .filling, receiving := true } up)); { s with rope := { s.rope with layerSrc := 0 } }), true, by unfold brings; decide +kernel⟩,
    ⟨.host, (cutCols 2 1 2 [0,0,0,0] [] 0 (.ctl 0xFE)), 9, (rxOf (.host) (cutCols 2 1 2 [0,0,0,0] [] 0 (.ctl 0xFE)) (let s := hp 3 (prd (lay 2 { frm with back := .filling, receiving := true } up)); { s with rope := { s.rope with layerSrc := 0 } })), (let s := hp 3 (prd (lay 2 { frm with back := .filling, receiving := true } up)); { s with rope := { s.rope with layerSrc := 0 } }), true, by unfold brings; decide +kernel⟩,
    ⟨.host, (pk 2 2 2 [0,0,0,0] [1,2,3]), 9, (rxOf (.host) (pk 2 2 2 [0,0,0,0] [1,2,3]) (let s := hp 3 (prd (lay 2 { frm with back := .filling, receiving := true } up)); { s with rope := { s.rope with layerSrc := 0 } })), (let s := hp 3 (prd (lay 2 { frm with back := .filling, receiving := true } up)); { s with rope := { s.rope with layerSrc := 0 } }), by unfold brings; decide +kernel⟩,
    ⟨.host, (pk 2 0x33 2 [0,0,0,0] [1,2,3]), 9, (rxOf (.host) (pk 2 0x33 2 [0,0,0,0] [1,2,3]) (let s := hp 3 (prd (lay 2 { frm with back := .filling, receiving := true } up)); { s with rope := { s.rope with layerSrc := 0 } })), (let s := hp 3 (prd (lay 2 { frm with back := .filling, receiving := true } up)); { s with rope := { s.rope with layerSrc := 0 } }), by unfold brings; decide +kernel⟩,
    ⟨.twin, (pk 1 0x20 0 [] (List.replicate 20 3)), 9, (rxOf (.twin) (pk 1 0x20 0 [] (List.replicate 20 3)) (let s := hp 3 (prd (lay 2 { frm with back := .filling, receiving := true } up)); { s with rope := { s.rope with layerSrc := 4 } })), (let s := hp 3 (prd (lay 2 { frm with back := .filling, receiving := true } up)); { s with rope := { s.rope with layerSrc := 4 } }), by unfold brings; decide +kernel⟩,
    ⟨.host, (cutCols 2 2 2 [0,0,0,0] [1,2,3] 8 (.ctl 0xFE)), 99999, (rxOf (.host) (cutCols 2 2 2 [0,0,0,0] [1,2,3] 8 (.ctl 0xFE)) (let s := hp 3 (prd (lay 2 { frm with back := .filling, receiving := true } up)); { s with rope := { s.rope with layerSrc := 0 } })), (let s := hp 3 (prd (lay 2 { frm with back := .filling, receiving := true } up)); { s with rope := { s.rope with layerSrc := 0 } }), by unfold brings; decide +kernel⟩⟩

/-- The hypotheses of clause 7 of BackBuffersAndPackets can be met. -/
theorem wit_BackBuffersAndPackets_6 :
    (∃ (cols : List (List LaneWord)) (r : Rx) (s : State), rxOf .host cols s = r ∧ r.misplaced = 0 ∧ r.hdr ≠ [] ∧ (¬((hdrType r.hdr = 1 ∨ hdrType r.hdr = 2 ∨ hdrType r.hdr = 3) ∧ hdrChan r.hdr < 6 ∧ s.twn.cfg.fwdMask.testBit (hdrChan r.hdr) = true ∧ paired s = true ∧ twinTrained (takeColumns .host cols s) = true))) ∧
    (∃ (cols : List (List LaneWord)) (r : Rx) (s : State), rxOf .host cols s = r ∧ r.misplaced = 0 ∧ r.hdr ≠ [] ∧ (((hdrType r.hdr = 1 ∨ hdrType r.hdr = 2 ∨ hdrType r.hdr = 3) ∧ hdrChan r.hdr < 6 ∧ s.twn.cfg.fwdMask.testBit (hdrChan r.hdr) = true ∧ paired s = true ∧ twinTrained (takeColumns .host cols s) = true)) ∧ forwardUsed s + ((r.hdr ++ r.body, decide (r.out ≠ .whole))).1.length < 16384) ∧
    (∃ (cols : List (List LaneWord)) (r : Rx) (s : State), rxOf .host cols s = r ∧ r.misplaced = 0 ∧ r.hdr ≠ [] ∧ (((hdrType r.hdr = 1 ∨ hdrType r.hdr = 2 ∨ hdrType r.hdr = 3) ∧ hdrChan r.hdr < 6 ∧ s.twn.cfg.fwdMask.testBit (hdrChan r.hdr) = true ∧ paired s = true ∧ twinTrained (takeColumns .host cols s) = true)) ∧ forwardUsed s + 16 ≤ 16384 ∧ 16384 ≤ forwardUsed s + ((r.hdr ++ r.body, decide (r.out ≠ .whole))).1.length) :=
  ⟨⟨(pk 1 2 2 [0,0,0,0] (List.replicate 24 3)), (rxOf .host (pk 1 2 2 [0,0,0,0] (List.replicate 24 3)) (hp 1 up)), (hp 1 up), by decide +kernel⟩,
    ⟨(pk 1 2 2 [0,0,0,0] (List.replicate 24 3)), (rxOf .host (pk 1 2 2 [0,0,0,0] (List.replicate 24 3)) (fwd1 4 up)), (fwd1 4 up), by decide +kernel⟩,
    ⟨(pk 1 2 2 [0,0,0,0] (List.replicate 24 3)), (rxOf .host (pk 1 2 2 [0,0,0,0] (List.replicate 24 3)) (let s := fwd1 4 up; { s with rope := { s.rope with fwdQueue := [(List.replicate 16350 1, false)] }, twn := { s.twn with fwdDrops := 65535 } })), (let s := fwd1 4 up; { s with rope := { s.rope with fwdQueue := [(List.replicate 16350 1, false)] }, twn := { s.twn with fwdDrops := 65535 } }), by decide +kernel⟩⟩

/-- The hypotheses of clause 8 of BackBuffersAndPackets can be met. -/
theorem wit_BackBuffersAndPackets_7 :
    (∃ (f : List Byte × Bool) (q : List (List Byte × Bool)) (s : State), twtxOpen s = true ∧ s.rope.fwdQueue = f :: q) :=
  ⟨([1,2,3], true), ([([4], false)]), (let s := fwd1 4 up; { s with rope := { s.rope with fwdQueue := [([1,2,3], true), ([4], false)] } }), by decide +kernel⟩

/-- The hypotheses of clause 9 of BackBuffersAndPackets can be met. -/
theorem wit_BackBuffersAndPackets_8 :
    (∃ (s : State), ((twtxOpen s = false ∨ s.rope.fwdQueue = []))) :=
  ⟨up, by decide +kernel⟩

/-- The hypotheses of clause 10 of BackBuffersAndPackets can be met. -/
theorem wit_BackBuffersAndPackets_9 :
    (∃ (r : Nat) (l : Nat) (o : Nat) (q : List (Nat × Nat × Nat)) (s : State), htxOpen s = true ∧ s.rope.statusDue = (r, l, o) :: q) :=
  ⟨1, 3, 2, [(0,0,0)], (let s := hp 1 up; { s with rope := { s.rope with statusDue := [(1,3,2),(0,0,0)], statusSent := 65535 } }), by decide +kernel⟩

/-- The hypotheses of clause 11 of BackBuffersAndPackets can be met. -/
theorem wit_BackBuffersAndPackets_10 :
    (∃ (s : State), ((htxOpen s = false ∨ s.rope.statusDue = []))) :=
  ⟨up, by decide +kernel⟩

/-- The hypotheses of clause 1 of TwinPresence can be met. -/
theorem wit_TwinPresence_0 :
    (∃ (cols : List (List LaneWord)) (r : Rx) (s : State), brings .twin cols r s ∧ paired s = true ∧ messageOf 1 r = true ∧ validPacket s .twin r.hdr = true ∧ ((field (r.body) 3 1).testBit 2) = true ∧ (((s.twn.state) = 2 ∨ (s.twn.state) = 4))) ∧
    (∃ (cols : List (List LaneWord)) (r : Rx) (s : State), brings .twin cols r s ∧ paired s = true ∧ messageOf 1 r = true ∧ validPacket s .twin r.hdr = true ∧ (((s.twn.state) = 1 ∨ (s.twn.state) = 3)) ∧ ((s.twn.pinActive = true ∧ 2 ≤ s.twn.litRun ∧ litCode (field (r.body) 2 1) = true ∧ (s.twn.lastSeq = some ((field (r.body) 1 1 + 255) % 256))))) ∧
    (∃ (cols : List (List LaneWord)) (r : Rx) (s : State), brings .twin cols r s ∧ paired s = true ∧ messageOf 1 r = true ∧ validPacket s .twin r.hdr = true ∧ (((s.twn.state) = 1 ∨ (s.twn.state) = 3)) ∧ (¬(s.twn.pinActive = true ∧ 2 ≤ s.twn.litRun ∧ litCode (field (r.body) 2 1) = true ∧ (s.twn.lastSeq = some ((field (r.body) 1 1 + 255) % 256))))) ∧
    (∃ (cols : List (List LaneWord)) (r : Rx) (s : State), brings .twin cols r s ∧ paired s = true ∧ messageOf 1 r = true ∧ validPacket s .twin r.hdr = true ∧ ((field (r.body) 3 1).testBit 2) = false ∧ ((((s.twn.state) = 2 ∧ ((field (r.body) 2 1) = 5 ∨ (field (r.body) 2 1) = 1)) ∨ ((s.twn.state) = 4 ∧ (field (r.body) 2 1) = 5)))) ∧
    (∃ (cols : List (List LaneWord)) (r : Rx) (s : State), brings .twin cols r s ∧ paired s = true ∧ messageOf 1 r = true ∧ validPacket s .twin r.hdr = true ∧ ((field (r.body) 3 1).testBit 2) = false ∧ (s.twn.state) = 2 ∧ (field (r.body) 2 1) ≠ 5 ∧ (field (r.body) 2 1) ≠ 1) ∧
    (∃ (cols : List (List LaneWord)) (r : Rx) (s : State), brings .twin cols r s ∧ paired s = true ∧ messageOf 1 r = true ∧ validPacket s .twin r.hdr = true ∧ ((field (r.body) 3 1).testBit 2) = false ∧ (s.twn.state) = 4 ∧ (field (r.body) 2 1) ≠ 5) :=
  ⟨⟨(tmsg ([1] ++ le 1 5 ++ le 1 3 ++ le 1 6 ++ le 1 2 ++ (List.range 15).map (BitVec.ofNat 8))), (rxOf .twin (tmsg ([1] ++ le 1 5 ++ le 1 3 ++ le 1 6 ++ le 1 2 ++ (List.range 15).map (BitVec.ofNat 8))) (let s := tw 2 up; { s with twn := { s.twn with lastSeq := some 4, litRun := 1, pinActive := true, linkDown := true, returns := 65535 } })), (let s := tw 2 up; { s with twn := { s.twn with lastSeq := some 4, litRun := 1, pinActive := true, linkDown := true, returns := 65535 } }), by unfold brings; decide +kernel⟩,
    ⟨(tmsg ([1] ++ le 1 5 ++ le 1 3 ++ le 1 1 ++ le 1 2 ++ (List.range 15).map (BitVec.ofNat 8))), (rxOf .twin (tmsg ([1] ++ le 1 5 ++ le 1 3 ++ le 1 1 ++ le 1 2 ++ (List.range 15).map (BitVec.ofNat 8))) (let s := tw 1 up; { s with twn := { s.twn with lastSeq := some 4, litRun := 2, pinActive := true, linkDown := true, returns := 65535 } })), (let s := tw 1 up; { s with twn := { s.twn with lastSeq := some 4, litRun := 2, pinActive := true, linkDown := true, returns := 65535 } }), by unfold brings; decide +kernel⟩,
    ⟨(tmsg ([1] ++ le 1 5 ++ le 1 3 ++ le 1 1 ++ le 1 2 ++ (List.range 15).map (BitVec.ofNat 8))), (rxOf .twin (tmsg ([1] ++ le 1 5 ++ le 1 3 ++ le 1 1 ++ le 1 2 ++ (List.range 15).map (BitVec.ofNat 8))) (let s := tw 1 up; { s with twn := { s.twn with lastSeq := some 4, litRun := 1, pinActive := true, linkDown := true, returns := 65535 } })), (let s := tw 1 up; { s with twn := { s.twn with lastSeq := some 4, litRun := 1, pinActive := true, linkDown := true, returns := 65535 } }), by unfold brings; decide +kernel⟩,
    ⟨(tmsg ([1] ++ le 1 5 ++ le 1 5 ++ le 1 1 ++ le 1 2 ++ (List.range 15).map (BitVec.ofNat 8))), (rxOf .twin (tmsg ([1] ++ le 1 5 ++ le 1 5 ++ le 1 1 ++ le 1 2 ++ (List.range 15).map (BitVec.ofNat 8))) (let s := tw 2 up; { s with twn := { s.twn with lastSeq := some 4, litRun := 1, pinActive := true, linkDown := true, returns := 65535 } })), (let s := tw 2 up; { s with twn := { s.twn with lastSeq := some 4, litRun := 1, pinActive := true, linkDown := true, returns := 65535 } }), by unfold brings; decide +kernel⟩,
    ⟨(tmsg ([1] ++ le 1 5 ++ le 1 3 ++ le 1 1 ++ le 1 2 ++ (List.range 15).map (BitVec.ofNat 8))), (rxOf .twin (tmsg ([1] ++ le 1 5 ++ le 1 3 ++ le 1 1 ++ le 1 2 ++ (List.range 15).map (BitVec.ofNat 8))) (let s := tw 2 up; { s with twn := { s.twn with lastSeq := some 4, litRun := 1, pinActive := true, linkDown := true, returns := 65535 } })), (let s := tw 2 up; { s with twn := { s.twn with lastSeq := some 4, litRun := 1, pinActive := true, linkDown := true, returns := 65535 } }), by unfold brings; decide +kernel⟩,
    ⟨(tmsg ([1] ++ le 1 5 ++ le 1 3 ++ le 1 1 ++ le 1 2 ++ (List.range 15).map (BitVec.ofNat 8))), (rxOf .twin (tmsg ([1] ++ le 1 5 ++ le 1 3 ++ le 1 1 ++ le 1 2 ++ (List.range 15).map (BitVec.ofNat 8))) (let s := tw 4 up; { s with twn := { s.twn with lastSeq := some 4, litRun := 1, pinActive := true, linkDown := true, returns := 65535 } })), (let s := tw 4 up; { s with twn := { s.twn with lastSeq := some 4, litRun := 1, pinActive := true, linkDown := true, returns := 65535 } }), by unfold brings; decide +kernel⟩⟩

/-- The hypotheses of clause 2 of TwinPresence can be met. -/
theorem wit_TwinPresence_1 :
    (∃ (cols : List (List LaneWord)) (r : Rx) (s : State), brings .twin cols r s ∧ paired s = true ∧ messageOf 2 r = true ∧ validPacket s .twin r.hdr = true ∧ ((s.twn.state = 2 ∨ s.twn.state = 4))) ∧
    (∃ (cols : List (List LaneWord)) (r : Rx) (s : State), brings .twin cols r s ∧ paired s = true ∧ messageOf 2 r = true ∧ validPacket s .twin r.hdr = true ∧ ((s.twn.state ≠ 2 ∧ s.twn.state ≠ 4))) :=
  ⟨⟨(tmsg ([2, 9] ++ (List.range 10).map (BitVec.ofNat 8))), (rxOf .twin (tmsg ([2, 9] ++ (List.range 10).map (BitVec.ofNat 8))) (tw 2 up)), (tw 2 up), by unfold brings; decide +kernel⟩,
    ⟨(tmsg ([2, 9] ++ (List.range 10).map (BitVec.ofNat 8))), (rxOf .twin (tmsg ([2, 9] ++ (List.range 10).map (BitVec.ofNat 8))) (tw 1 up)), (tw 1 up), by unfold brings; decide +kernel⟩⟩

/-- The hypotheses of clause 3 of TwinPresence can be met. -/
theorem wit_TwinPresence_2 :
    (∃ (s : State), paired s = false) :=
  ⟨up, by decide +kernel⟩

/-- The hypotheses of clause 4 of TwinPresence can be met. -/
theorem wit_TwinPresence_3 :
    (∃ (us : Nat) (s : State), awake s = true ∧ paired s = true ∧ us < 300) ∧
    (∃ (us : Nat) (s : State), awake s = true ∧ paired s = true ∧ 300 ≤ us ∧ s.twn.pinActive = false ∧ s.twn.state = 2) ∧
    (∃ (us : Nat) (s : State), awake s = true ∧ paired s = true ∧ 300 ≤ us ∧ s.twn.pinActive = false ∧ s.twn.state ≠ 2) ∧
    (∃ (us : Nat) (s : State), awake s = true ∧ paired s = true ∧ 300 ≤ us ∧ s.twn.pinActive = true) :=
  ⟨⟨299, (let s := tw 1 up; { s with twn := { s.twn with hbOk := true, pinActive := true } }), by decide +kernel⟩,
    ⟨300, (let s := tw 2 up; { s with twn := { s.twn with hbOk := true, pinActive := false } }), by decide +kernel⟩,
    ⟨300, (let s := tw 1 up; { s with twn := { s.twn with hbOk := true, pinActive := false } }), by decide +kernel⟩,
    ⟨300, (let s := tw 1 up; { s with twn := { s.twn with hbOk := true, pinActive := true } }), by decide +kernel⟩⟩

/-- The hypotheses of clause 5 of TwinPresence can be met. -/
theorem wit_TwinPresence_4 :
    (∃ (s : State), awake s = true ∧ paired s = true ∧ s.twn.state = 2 ∧ s.twn.hbOk = false) ∧
    (∃ (s : State), awake s = true ∧ paired s = true ∧ ((s.twn.hbOk = true ∨ s.twn.state ≠ 2))) ∧
    (∃ (s : State), awake s = true ∧ paired s = true ∧ s.twn.pinActive = false ∧ s.twn.hbOk = true ∧ litCode s.twn.peerMode = true) ∧
    (∃ (s : State), awake s = true ∧ paired s = true ∧ ((s.twn.pinActive = true ∨ s.twn.hbOk = false ∨ litCode s.twn.peerMode = false))) ∧
    (∃ (s : State), awake s = true ∧ paired s = true ∧ s.twn.state = 1 ∧ s.pwr.mode ≠ .kindle) ∧
    (∃ (s : State), awake s = true ∧ paired s = true ∧ s.twn.state ≠ 1) :=
  ⟨⟨(let s := tw 2 up; { s with twn := { s.twn with hbOk := false, pinActive := true, peerMode := 3 } }), by decide +kernel⟩,
    ⟨(let s := tw 1 up; { s with twn := { s.twn with hbOk := true, pinActive := true, peerMode := 3 } }), by decide +kernel⟩,
    ⟨(let s := tw 1 up; { s with twn := { s.twn with hbOk := true, pinActive := false, peerMode := 3 } }), by decide +kernel⟩,
    ⟨(let s := tw 1 up; { s with twn := { s.twn with hbOk := true, pinActive := true, peerMode := 3 } }), by decide +kernel⟩,
    ⟨(let s := tw 1 up; { s with twn := { s.twn with hbOk := true, pinActive := true, peerMode := 3 } }), by decide +kernel⟩,
    ⟨(let s := tw 2 up; { s with twn := { s.twn with hbOk := true, pinActive := true, peerMode := 3 } }), by decide +kernel⟩⟩

/-- The hypotheses of clause 6 of TwinPresence can be met. -/
theorem wit_TwinPresence_5 :
    (∃ (s : State), paired s = true ∧ portsOpen s = true ∧ s.pwr.mode ≠ .snuffed) :=
  ⟨(tw 2 up), by decide +kernel⟩

/-- The hypotheses of clause 7 of TwinPresence can be met. -/
theorem wit_TwinPresence_6 :
    (∃ (s : State), portsOpen s = true ∧ twtxOpen s = true) ∧
    (∃ (s : State), portsOpen s = true ∧ twtxOpen s = false) :=
  ⟨⟨(let s := onLane 4 { state := .trained } (tw 2 up); { s with twn := { s.twn with txSeq := 255 } }), by decide +kernel⟩,
    ⟨up, by decide +kernel⟩⟩

/-- The hypotheses of clause 8 of TwinPresence can be met. -/
theorem wit_TwinPresence_7 :
    (∃ (n : Nat) (s : State), lanesUp s = true ∧ twinHears s = true ∧ -((clockParts * frameClocks s.ft.rateInForce : Int )) < 2 * (twinInstant n s) ∧ 2 * (twinInstant n s) ≤ ((clockParts * frameClocks s.ft.rateInForce : Int ))) ∧
    (∃ (word : LaneWord) (inPacket : Option Bool) (s : State), lanesUp s = true ∧ twinHears s = true ∧ syncOk word inPacket s = false) ∧
    (∃ (word : LaneWord) (inPacket : Option Bool) (n : Nat) (s : State), lanesUp s = true ∧ twinHears s = true ∧ syncOk word inPacket s = true ∧ (skewOf n s).natAbs ≤ 500) ∧
    (∃ (word : LaneWord) (inPacket : Option Bool) (n : Nat) (s : State), lanesUp s = true ∧ twinHears s = true ∧ syncOk word inPacket s = true ∧ 500 < (skewOf n s).natAbs) ∧
    (∃ (word : LaneWord) (inPacket : Option Bool) (s : State), lanesUp s = true ∧ twinHears s = true ∧ syncOk word inPacket s = true ∧ (¬(s.twn.cfg.role = 2 ∧ s.ft.activeSrc = 2 ∧ s.twn.peerRole = 1))) ∧
    (∃ (word : LaneWord) (inPacket : Option Bool) (s : State), lanesUp s = true ∧ twinHears s = true ∧ syncOk word inPacket s = true ∧ ((s.twn.cfg.role = 2 ∧ s.ft.activeSrc = 2 ∧ s.twn.peerRole = 1))) :=
  ⟨⟨0, (let s := onLane 4 { state := .trained, rate := 4 } (tw 2 up); { s with ft := { s.ft with activeSrc := 2 }, twn := { s.twn with peerRole := 1, skewRun := 5, cfg := { s.twn.cfg with role := 2 } } }), by decide +kernel⟩,
    ⟨((columnsOf [false] [.ctl 0x7C, .data 9, .data 0, .data 0]).flatten.headD word0), true, (let s := onLane 4 { state := .trained, rate := 4 } (tw 2 up); { s with ft := { s.ft with activeSrc := 2 }, twn := { s.twn with peerRole := 1, skewRun := 5, cfg := { s.twn.cfg with role := 2 } } }), by decide +kernel⟩,
    ⟨((columnsOf [false] [.ctl 0x7C, .data 9, .data 0, .data 0]).flatten.headD word0), false, 0, (let s := onLane 4 { state := .trained, rate := 4 } (tw 2 up); { s with ft := { s.ft with activeSrc := 2 }, twn := { s.twn with peerRole := 1, skewRun := 5, cfg := { s.twn.cfg with role := 2 } } }), by decide +kernel⟩,
    ⟨((columnsOf [false] [.ctl 0x7C, .data 9, .data 0, .data 0]).flatten.headD word0), false, 0, (let s := onLane 4 { state := .trained, rate := 4 } (tw 2 up); { s with ft := { s.ft with activeSrc := 2 }, twn := { s.twn with peerRole := 1, skewRun := 5, cfg := { s.twn.cfg with role := 2, cableNs := 200 } } }), by decide +kernel⟩,
    ⟨((columnsOf [false] [.ctl 0x7C, .data 9, .data 0, .data 0]).flatten.headD word0), false, (let s := onLane 4 { state := .trained, rate := 4 } (tw 2 up); { s with ft := { s.ft with activeSrc := 2 }, twn := { s.twn with peerRole := 1, skewRun := 5, cfg := { s.twn.cfg with role := 1 } } }), by decide +kernel⟩,
    ⟨((columnsOf [false] [.ctl 0x7C, .data 9, .data 0, .data 0]).flatten.headD word0), false, (let s := onLane 4 { state := .trained, rate := 4 } (tw 2 up); { s with ft := { s.ft with activeSrc := 2 }, twn := { s.twn with peerRole := 1, skewRun := 5, cfg := { s.twn.cfg with role := 2 } } }), by decide +kernel⟩⟩

/-- The hypotheses of clause 1 of TwinRecordsAndRoles can be met. -/
theorem wit_TwinRecordsAndRoles_0 :
    (∃ (cols : List (List LaneWord)) (r : Rx) (s : State), brings .twin cols r s ∧ paired s = true ∧ messageOf 3 r = true ∧ validPacket s .twin r.hdr = true ∧ r.misplaced = 0 ∧ ((s.twn.recSeen = false ∨ (field r.body 2 1) = (s.twn.ackRseq + 1) % 256)) ∧ s.evr.queue.length < 64) ∧
    (∃ (cols : List (List LaneWord)) (r : Rx) (s : State), brings .twin cols r s ∧ paired s = true ∧ messageOf 3 r = true ∧ validPacket s .twin r.hdr = true ∧ r.misplaced = 0 ∧ s.twn.recSeen = true ∧ (field r.body 2 1) ≠ (s.twn.ackRseq + 1) % 256) :=
  ⟨⟨(tmsg ([3, 9] ++ le 1 0 ++ [1] ++ recBytes { code := 0x701, level := 4, p0 := 9 })), (rxOf .twin (tmsg ([3, 9] ++ le 1 0 ++ [1] ++ recBytes { code := 0x701, level := 4, p0 := 9 })) (let s := tw 2 up; { s with twn := { s.twn with recSeen := true, ackRseq := 255 } })), (let s := tw 2 up; { s with twn := { s.twn with recSeen := true, ackRseq := 255 } }), by unfold brings; decide +kernel⟩,
    ⟨(tmsg ([3, 9] ++ le 1 9 ++ [1] ++ recBytes { code := 0x701, level := 4, p0 := 9 })), (rxOf .twin (tmsg ([3, 9] ++ le 1 9 ++ [1] ++ recBytes { code := 0x701, level := 4, p0 := 9 })) (let s := tw 2 up; { s with twn := { s.twn with recSeen := true, ackRseq := 9 } })), (let s := tw 2 up; { s with twn := { s.twn with recSeen := true, ackRseq := 9 } }), by unfold brings; decide +kernel⟩⟩

/-- The hypotheses of clause 2 of TwinRecordsAndRoles can be met. -/
theorem wit_TwinRecordsAndRoles_1 :
    (∃ (x : TwinRec) (q : List TwinRec) (s : State), awake s = true ∧ twtxOpen s = true ∧ s.twn.inFlight.length < 16 ∧ s.twn.sendQueue = x :: q) :=
  ⟨({ kind := 1 } : TwinRec), [{}], (let s := onLane 4 { state := .trained } (tw 2 up); { s with twn := { s.twn with sendQueue := [{ kind := 1 }, {}], inFlight := List.replicate 15 {}, rseqNext := 255 } }), by decide +kernel⟩

/-- The hypotheses of clause 3 of TwinRecordsAndRoles can be met. -/
theorem wit_TwinRecordsAndRoles_2 :
    (∃ (s : State), ((16 ≤ s.twn.inFlight.length ∨ s.twn.sendQueue = [] ∨ twtxOpen s = false))) :=
  ⟨(let s := onLane 4 { state := .trained } (tw 2 up); { s with twn := { s.twn with inFlight := List.replicate 16 {} } }), by decide +kernel⟩

/-- The hypotheses of clause 4 of TwinRecordsAndRoles can be met. -/
theorem wit_TwinRecordsAndRoles_3 :
    (∃ (s : State), twtxOpen s = true ∧ ((∀ r ∈ s.twn.inFlight, r.sends < 8))) :=
  ⟨(let s := onLane 4 { state := .trained } (tw 2 up); { s with twn := { s.twn with inFlight := List.replicate 16 { sends := 7 } } }), by decide +kernel⟩

/-- The hypotheses of clause 5 of TwinRecordsAndRoles can be met. -/
theorem wit_TwinRecordsAndRoles_4 :
    (∃ (r : TwinRec) (s : State), twtxOpen s = true ∧ s.twn.inFlight = [r] ∧ 8 ≤ r.sends) :=
  ⟨({ sends := 8 } : TwinRec), (let s := onLane 4 { state := .trained } (tw 2 up); { s with twn := { s.twn with inFlight := [{ sends := 8 }] } }), by decide +kernel⟩

/-- The hypotheses of clause 6 of TwinRecordsAndRoles can be met. -/
theorem wit_TwinRecordsAndRoles_5 :
    (∃ (rq : Rq) (s : State), admits 0x80 rq s = true ∧ ((s.pwr.mode = .pilot ∨ s.pwr.mode = .snuffed)) ∧ rq.payload.length = 8 ∧ twinFieldsOk (rq.payload) = false) ∧
    (∃ (rq : Rq) (s : State), admits 0x80 rq s = true ∧ ((s.pwr.mode = .pilot ∨ s.pwr.mode = .snuffed)) ∧ rq.payload.length = 8 ∧ twinFieldsOk (rq.payload) = true ∧ (field (rq.payload) 1 1).testBit 0 = false) :=
  ⟨⟨(mk [3,0,4,63,9,0,10,0]), (inMode .pilot (prd up)), by decide +kernel⟩,
    ⟨(mk [2,0,4,63,9,0,0xE8,3]), (inMode .pilot (prd up)), by decide +kernel⟩⟩

/-- The hypotheses of clause 7 of TwinRecordsAndRoles can be met. -/
theorem wit_TwinRecordsAndRoles_6 :
    (∃ (rq : Rq) (s : State), admits 0x80 rq s = true ∧ s.pwr.mode ≠ .pilot ∧ s.pwr.mode ≠ .snuffed) :=
  ⟨(mk []), up, by decide +kernel⟩

/-- The hypotheses of clause 1 of LayerCommandsAnswer can be met. -/
theorem wit_LayerCommandsAnswer_0 :
    (∃ (rq : Rq) (s : State), admits 0x20 rq s = true ∧ rq.payload.length = 40 ∧ 5 < (field rq.payload 0 1)) ∧
    (∃ (rq : Rq) (s : State) (k : Nat) (f : (Bool × Bool)), admits 0x20 rq s = true ∧ rq.payload.length = 40 ∧ (field rq.payload 0 1) ≤ 5 ∧ (layerFields (layerCfgOf rq.payload) (layerOf s (field rq.payload 0 1)).cfg)[k]? = some f ∧ ((∀ j ∈ List.range 70, j < k → (fun k => (((layerFields (layerCfgOf rq.payload) (layerOf s (field rq.payload 0 1)).cfg)[k]?).any fun f => decide (f.1 = true ∧ ((layerOf s (field rq.payload 0 1)).en = false ∨ f.2 = false))) = true) j)) ∧ f.1 = false) ∧
    (∃ (rq : Rq) (s : State) (k : Nat) (f : (Bool × Bool)), admits 0x20 rq s = true ∧ rq.payload.length = 40 ∧ (field rq.payload 0 1) ≤ 5 ∧ (layerFields (layerCfgOf rq.payload) (layerOf s (field rq.payload 0 1)).cfg)[k]? = some f ∧ ((∀ j ∈ List.range 70, j < k → (fun k => (((layerFields (layerCfgOf rq.payload) (layerOf s (field rq.payload 0 1)).cfg)[k]?).any fun f => decide (f.1 = true ∧ ((layerOf s (field rq.payload 0 1)).en = false ∨ f.2 = false))) = true) j)) ∧ f.1 = true ∧ (layerOf s (field rq.payload 0 1)).en = true ∧ f.2 = true) ∧
    (∃ (rq : Rq) (s : State), admits 0x20 rq s = true ∧ rq.payload.length = 40 ∧ (field rq.payload 0 1) ≤ 5 ∧ ((∀ k ∈ List.range 70, k < 14 → (fun k => (((layerFields (layerCfgOf rq.payload) (layerOf s (field rq.payload 0 1)).cfg)[k]?).any fun f => decide (f.1 = true ∧ ((layerOf s (field rq.payload 0 1)).en = false ∨ f.2 = false))) = true) k)) ∧ layerReason (field rq.payload 0 1) (layerCfgOf rq.payload) s ≠ 0 ∧ layerReason (field rq.payload 0 1) (layerCfgOf rq.payload) s ≠ 1) ∧
    (∃ (rq : Rq) (s : State), admits 0x20 rq s = true ∧ rq.payload.length = 40 ∧ (field rq.payload 0 1) ≤ 5 ∧ ((∀ k ∈ List.range 70, k < 14 → (fun k => (((layerFields (layerCfgOf rq.payload) (layerOf s (field rq.payload 0 1)).cfg)[k]?).any fun f => decide (f.1 = true ∧ ((layerOf s (field rq.payload 0 1)).en = false ∨ f.2 = false))) = true) k)) ∧ (layerOf s (field rq.payload 0 1)).en = false ∧ layerReason (field rq.payload 0 1) (layerCfgOf rq.payload) s = 0 ∧ s.cmp.layers[(field rq.payload 0 1)]? = some (layerOf s (field rq.payload 0 1))) ∧
    (∃ (rq : Rq) (s : State), admits 0x20 rq s = true ∧ rq.payload.length = 40 ∧ (field rq.payload 0 1) ≤ 5 ∧ ((∀ k ∈ List.range 70, k < 14 → (fun k => (((layerFields (layerCfgOf rq.payload) (layerOf s (field rq.payload 0 1)).cfg)[k]?).any fun f => decide (f.1 = true ∧ ((layerOf s (field rq.payload 0 1)).en = false ∨ f.2 = false))) = true) k)) ∧ (layerOf s (field rq.payload 0 1)).en = true ∧ layerReason (field rq.payload 0 1) (layerCfgOf rq.payload) s = 0 ∧ s.cmp.layers[(field rq.payload 0 1)]? = some (layerOf s (field rq.payload 0 1))) :=
  ⟨⟨(mk (lcfg.set 0 6)), up, by decide +kernel⟩,
    ⟨(mk (lcfg.set 2 5)), up, 0, (((layerFields (layerCfgOf (mk (lcfg.set 2 5)).payload) (layerOf (up) (field (mk (lcfg.set 2 5)).payload 0 1)).cfg)[(0)]?).getD (false, false)), by decide +kernel⟩,
    ⟨(mk (lcfg.set 12 255)), (lay 5 { en := true, cfg := layerCfgOf lcfg } up), 7, (((layerFields (layerCfgOf (mk (lcfg.set 12 255)).payload) (layerOf (lay 5 { en := true, cfg := layerCfgOf lcfg } up) (field (mk (lcfg.set 12 255)).payload 0 1)).cfg)[(7)]?).getD (false, false)), by decide +kernel⟩,
    ⟨(mk (lcfg.set 26 255)), up, by decide +kernel⟩,
    ⟨(mk lcfg), up, by decide +kernel⟩,
    ⟨(mk lcfg), (lay 5 { en := true, cfg := layerCfgOf lcfg } up), by decide +kernel⟩⟩

/-- The hypotheses of clause 2 of LayerCommandsAnswer can be met. -/
theorem wit_LayerCommandsAnswer_1 :
    (∃ (m : Byte) (on : Byte) (x : Byte) (y : Byte) (rq : Rq) (s : State), admits 0x21 rq s = true ∧ shaped s = true ∧ rq.payload = [m, on, x, y] ∧ ((∃ n ∈ List.range 70, n < 6 ∧ (fun n => m.toNat.testBit n = true ∧ on.toNat.testBit n = true ∧ (layerOf s n).cfg.srcW = 0) n))) ∧
    (∃ (m : Byte) (on : Byte) (x : Byte) (y : Byte) (rq : Rq) (s : State) (n : _), admits 0x21 rq s = true ∧ shaped s = true ∧ rq.payload = [m, on, x, y] ∧ ((∀ n ∈ List.range 70, n < 6 → ¬(fun n => m.toNat.testBit n = true ∧ on.toNat.testBit n = true ∧ (layerOf s n).cfg.srcW = 0) n)) ∧ n < 6 ∧ ((m.toNat.testBit n = false ∨ on.toNat.testBit n = (layerOf s n).en))) ∧
    (∃ (m : Byte) (on : Byte) (x : Byte) (y : Byte) (rq : Rq) (s : State) (n : _), admits 0x21 rq s = true ∧ shaped s = true ∧ rq.payload = [m, on, x, y] ∧ ((∀ n ∈ List.range 70, n < 6 → ¬(fun n => m.toNat.testBit n = true ∧ on.toNat.testBit n = true ∧ (layerOf s n).cfg.srcW = 0) n)) ∧ n < 6 ∧ m.toNat.testBit n = true ∧ on.toNat.testBit n = true ∧ (layerOf s n).en = false) ∧
    (∃ (m : Byte) (on : Byte) (x : Byte) (y : Byte) (rq : Rq) (s : State) (n : _), admits 0x21 rq s = true ∧ shaped s = true ∧ rq.payload = [m, on, x, y] ∧ ((∀ n ∈ List.range 70, n < 6 → ¬(fun n => m.toNat.testBit n = true ∧ on.toNat.testBit n = true ∧ (layerOf s n).cfg.srcW = 0) n)) ∧ n < 6 ∧ m.toNat.testBit n = true ∧ on.toNat.testBit n = false ∧ (layerOf s n).en = true) :=
  ⟨⟨63, 63, 0, 0, (mk ([63, 63, 0, 0])), up, by decide +kernel⟩,
    ⟨63, 0, 0, 0, (mk ([63, 0, 0, 0])), up, 0, by decide +kernel⟩,
    ⟨32, 32, 0, 0, (mk ([32, 32, 0, 0])), (lay 5 { cfg := layerCfgOf lcfg, back := .ready, aliveValid := true } up), 5, by decide +kernel⟩,
    ⟨63, 0, 0, 0, (mk ([63, 0, 0, 0])), (lay 5 { en := true, cfg := layerCfgOf lcfg } up), 5, by decide +kernel⟩⟩

/-- The hypotheses of clause 1 of GroupsAndFences can be met. -/
theorem wit_GroupsAndFences_0 :
    (∃ (g : Byte) (m : Byte) (a : Byte) (z0 : Byte) (z1 : Byte) (z2 : Byte) (z3 : Byte) (rq : Rq) (s : State), admits 0x22 rq s = true ∧ shaped s = true ∧ rq.payload = [g, 0, m, a, z0, z1, z2, z3] ∧ 2 < g.toNat) ∧
    (∃ (g : Byte) (m : Byte) (a : Byte) (z0 : Byte) (z1 : Byte) (z2 : Byte) (z3 : Byte) (rq : Rq) (s : State), admits 0x22 rq s = true ∧ shaped s = true ∧ rq.payload = [g, 0, m, a, z0, z1, z2, z3] ∧ g.toNat ≤ 2 ∧ 1 < a.toNat) ∧
    (∃ (g : Byte) (m : Byte) (a : Byte) (z0 : Byte) (z1 : Byte) (z2 : Byte) (z3 : Byte) (rq : Rq) (s : State), admits 0x22 rq s = true ∧ shaped s = true ∧ rq.payload = [g, 0, m, a, z0, z1, z2, z3] ∧ g.toNat ≤ 2 ∧ a.toNat ≤ 1 ∧ ((∃ h ∈ List.range 70, h < 3 ∧ h ≠ g.toNat ∧ (lastGroup (groupOf s h)).1 &&& (m.toNat % 64) ≠ 0))) ∧
    (∃ (g : Byte) (m : Byte) (a : Byte) (z0 : Byte) (z1 : Byte) (z2 : Byte) (z3 : Byte) (k : Group) (rq : Rq) (s : State), admits 0x22 rq s = true ∧ shaped s = true ∧ rq.payload = [g, 0, m, a, z0, z1, z2, z3] ∧ g.toNat ≤ 2 ∧ a.toNat ≤ 1 ∧ (¬(∃ h ∈ List.range 70, h < 3 ∧ h ≠ g.toNat ∧ (lastGroup (groupOf s h)).1 &&& (m.toNat % 64) ≠ 0)) ∧ s.cmp.groups[g.toNat]? = some k ∧ k.arm = none) :=
  ⟨⟨3, 3, 0, 0, 0, 0, 0, (mk ([3, 0, 3, 0, 0, 0, 0, 0])), up, by decide +kernel⟩,
    ⟨0, 3, 2, 0, 0, 0, 0, (mk ([0, 0, 3, 2, 0, 0, 0, 0])), up, by decide +kernel⟩,
    ⟨0, 3, 0, 0, 0, 0, 0, (mk ([0, 0, 3, 0, 0, 0, 0, 0])), ({ up with cmp := { up.cmp with groups := up.cmp.groups.set 2 { pend := some (3,true), arm := some { mask := 1, handle := 4, src := .spi } } } } : State), by decide +kernel⟩,
    ⟨0, 3, 0, 0, 0, 0, 0, (groupOf (up) 0), (mk ([0, 0, 3, 0, 0, 0, 0, 0])), up, by decide +kernel⟩⟩

/-- The hypotheses of clause 2 of GroupsAndFences can be met. -/
theorem wit_GroupsAndFences_1 :
    (∃ (g : Byte) (m : Byte) (a : Byte) (z0 : Byte) (z1 : Byte) (z2 : Byte) (z3 : Byte) (k : Group) (rq : Rq) (s : State), admits 0x22 rq s = true ∧ rq.payload = [g, 1, m, a, z0, z1, z2, z3] ∧ g.toNat ≤ 2 ∧ s.cmp.groups[g.toNat]? = some k ∧ (lastGroup k).2 = false) ∧
    (∃ (g : Byte) (m : Byte) (a : Byte) (z0 : Byte) (z1 : Byte) (z2 : Byte) (z3 : Byte) (k : Group) (rq : Rq) (s : State), admits 0x22 rq s = true ∧ rq.payload = [g, 1, m, a, z0, z1, z2, z3] ∧ g.toNat ≤ 2 ∧ s.cmp.groups[g.toNat]? = some k ∧ (lastGroup k).2 = true ∧ (((m.toNat % 64) = 0 ∨ (m.toNat % 64) &&& (lastGroup k).1 ≠ (m.toNat % 64)))) ∧
    (∃ (g : Byte) (m : Byte) (a : Byte) (z0 : Byte) (z1 : Byte) (z2 : Byte) (z3 : Byte) (k : Group) (rq : Rq) (s : State), admits 0x22 rq s = true ∧ rq.payload = [g, 1, m, a, z0, z1, z2, z3] ∧ g.toNat ≤ 2 ∧ s.cmp.groups[g.toNat]? = some k ∧ (lastGroup k).2 = true ∧ (m.toNat % 64) ≠ 0 ∧ (m.toNat % 64) &&& (lastGroup k).1 = (m.toNat % 64) ∧ handleFree s = true ∧ k.arm = none) :=
  ⟨⟨0, 3, 0, 0, 0, 0, 0, (((up).cmp.groups[((0 : Byte)).toNat]?).getD {}), (mk ([0, 1, 3, 0, 0, 0, 0, 0])), up, by decide +kernel⟩,
    ⟨2, 0, 0, 0, 0, 0, 0, (((({ up with cmp := { up.cmp with groups := up.cmp.groups.set 2 { pend := some (3,true), arm := some { mask := 1, handle := 4, src := .spi } } } } : State)).cmp.groups[((2 : Byte)).toNat]?).getD {}), (mk ([2, 1, 0, 0, 0, 0, 0, 0])), ({ up with cmp := { up.cmp with groups := up.cmp.groups.set 2 { pend := some (3,true), arm := some { mask := 1, handle := 4, src := .spi } } } } : State), by decide +kernel⟩,
    ⟨1, 1, 0, 0, 0, 0, 0, (((({ up with cmp := { up.cmp with groups := up.cmp.groups.set 1 { members := 5, armed := true } } } : State)).cmp.groups[((1 : Byte)).toNat]?).getD {}), (mk ([1, 1, 1, 0, 0, 0, 0, 0])), ({ up with cmp := { up.cmp with groups := up.cmp.groups.set 1 { members := 5, armed := true } } } : State), by decide +kernel⟩⟩

/-- The hypotheses of clause 3 of GroupsAndFences can be met. -/
theorem wit_GroupsAndFences_2 :
    (∃ (x : Byte) (y : Byte) (z : Byte) (ids : List Byte) (rq : Rq) (s : State), admits 0x23 rq s = true ∧ shaped s = true ∧ 1 ≤ ids.length ∧ ids.length ≤ 16 ∧ rq.payload = BitVec.ofNat 8 ids.length :: x :: y :: z :: ids ∧ (0 : Byte) ∈ ids) ∧
    (∃ (x : Byte) (y : Byte) (z : Byte) (ids : List Byte) (rq : Rq) (s : State), admits 0x23 rq s = true ∧ shaped s = true ∧ 1 ≤ ids.length ∧ ids.length ≤ 16 ∧ rq.payload = BitVec.ofNat 8 ids.length :: x :: y :: z :: ids ∧ (0 : Byte) ∉ ids) :=
  ⟨⟨0, 0, 0, [0], (mk (BitVec.ofNat 8 ([0]).length :: ((0 : Byte)) :: ((0 : Byte)) :: ((0 : Byte)) :: ([0]))), (lay 1 { backFence := 9, back := .filling } (lay 4 { backFence := 9, back := .filling } (lay 5 { backFence := 255, back := .ready } up))), by decide +kernel⟩,
    ⟨0, 0, 0, [9], (mk (BitVec.ofNat 8 ([9]).length :: ((0 : Byte)) :: ((0 : Byte)) :: ((0 : Byte)) :: ([9]))), (lay 1 { backFence := 9, back := .filling } (lay 4 { backFence := 9, back := .filling } (lay 5 { backFence := 255, back := .ready } up))), by decide +kernel⟩⟩

/-- The hypotheses of clause 4 of GroupsAndFences can be met. -/
theorem wit_GroupsAndFences_3 :
    (∃ (c : Byte) (rest : List Byte) (rq : Rq) (s : State), admits 0x23 rq s = true ∧ rq.payload = c :: rest ∧ ((c.toNat < 1 ∨ 16 < c.toNat ∨ rq.payload.length ≠ 4 + c.toNat))) :=
  ⟨0, [0,0,0], (mk (((0 : Byte)) :: ([0,0,0]))), up, by decide +kernel⟩

/-- The hypotheses of clause 1 of TablesAndRegionsLoad can be met. -/
theorem wit_TablesAndRegionsLoad_0 :
    (∃ (rq : Rq) (tab : Table) (s : State), admits 0x24 rq s = true ∧ (field (rq.payload) 0 1) ≤ 12 ∧ (field (rq.payload) 4 2) ≤ 504 ∧ (rq.payload).length = 12 + lutEntry (field (rq.payload) 0 1) * (field (rq.payload) 4 2) ∧ s.cmp.tables[(field (rq.payload) 0 1)]? = some tab ∧ lutSize (field (rq.payload) 0 1) < (field (rq.payload) 2 2) + (field (rq.payload) 4 2)) ∧
    (∃ (rq : Rq) (tab : Table) (s : State), admits 0x24 rq s = true ∧ (field (rq.payload) 0 1) ≤ 12 ∧ (field (rq.payload) 4 2) ≤ 504 ∧ (rq.payload).length = 12 + lutEntry (field (rq.payload) 0 1) * (field (rq.payload) 4 2) ∧ s.cmp.tables[(field (rq.payload) 0 1)]? = some tab ∧ (field (rq.payload) 4 2) = 0 ∧ (field (rq.payload) 1 1).testBit 0 = false) ∧
    (∃ (rq : Rq) (tab : Table) (s : State), admits 0x24 rq s = true ∧ (field (rq.payload) 0 1) ≤ 12 ∧ (field (rq.payload) 4 2) ≤ 504 ∧ (rq.payload).length = 12 + lutEntry (field (rq.payload) 0 1) * (field (rq.payload) 4 2) ∧ s.cmp.tables[(field (rq.payload) 0 1)]? = some tab ∧ (field (rq.payload) 2 2) + (field (rq.payload) 4 2) ≤ lutSize (field (rq.payload) 0 1) ∧ ((1 ≤ (field (rq.payload) 4 2) ∨ (field (rq.payload) 1 1).testBit 0 = true)) ∧ tab.pending = true) ∧
    (∃ (rq : Rq) (tab : Table) (s : State) (i : Nat), admits 0x24 rq s = true ∧ (field (rq.payload) 0 1) ≤ 12 ∧ (field (rq.payload) 4 2) ≤ 504 ∧ (rq.payload).length = 12 + lutEntry (field (rq.payload) 0 1) * (field (rq.payload) 4 2) ∧ s.cmp.tables[(field (rq.payload) 0 1)]? = some tab ∧ (field (rq.payload) 2 2) + (field (rq.payload) 4 2) ≤ lutSize (field (rq.payload) 0 1) ∧ 1 ≤ (field (rq.payload) 4 2) ∧ tab.pending = false ∧ (field (rq.payload) 1 1).testBit 0 = false ∧ ((i < (field (rq.payload) 2 2) ∨ (field (rq.payload) 2 2) + (field (rq.payload) 4 2) ≤ i))) ∧
    (∃ (rq : Rq) (tab : Table) (s : State) (i : Nat) (v : Int), admits 0x24 rq s = true ∧ (field (rq.payload) 0 1) ≤ 12 ∧ (field (rq.payload) 4 2) ≤ 504 ∧ (rq.payload).length = 12 + lutEntry (field (rq.payload) 0 1) * (field (rq.payload) 4 2) ∧ s.cmp.tables[(field (rq.payload) 0 1)]? = some tab ∧ (field (rq.payload) 2 2) + (field (rq.payload) 4 2) ≤ lutSize (field (rq.payload) 0 1) ∧ 1 ≤ (field (rq.payload) 4 2) ∧ tab.pending = false ∧ (field (rq.payload) 1 1).testBit 0 = false ∧ (((List.range (field (rq.payload) 4 2)).map (fun i => ((field (rq.payload) (12 + lutEntry (field (rq.payload) 0 1) * i) (lutEntry (field (rq.payload) 0 1)) % 2 ^ (if lutEntry (field (rq.payload) 0 1) = 2 then 16 else 24) : Nat) : Int)))[i]? = some v) ∧ (tab.back.Pairwise (fun c d => c.1 < d.1))) ∧
    (∃ (rq : Rq) (tab : Table) (s : State) (i : Nat), admits 0x24 rq s = true ∧ (field (rq.payload) 0 1) ≤ 12 ∧ (field (rq.payload) 4 2) ≤ 504 ∧ (rq.payload).length = 12 + lutEntry (field (rq.payload) 0 1) * (field (rq.payload) 4 2) ∧ s.cmp.tables[(field (rq.payload) 0 1)]? = some tab ∧ (field (rq.payload) 2 2) + (field (rq.payload) 4 2) ≤ lutSize (field (rq.payload) 0 1) ∧ tab.pending = false ∧ (field (rq.payload) 1 1).testBit 0 = true ∧ ((i < (field (rq.payload) 2 2) ∨ (field (rq.payload) 2 2) + (field (rq.payload) 4 2) ≤ i))) ∧
    (∃ (rq : Rq) (tab : Table) (s : State) (i : Nat) (v : Int), admits 0x24 rq s = true ∧ (field (rq.payload) 0 1) ≤ 12 ∧ (field (rq.payload) 4 2) ≤ 504 ∧ (rq.payload).length = 12 + lutEntry (field (rq.payload) 0 1) * (field (rq.payload) 4 2) ∧ s.cmp.tables[(field (rq.payload) 0 1)]? = some tab ∧ (field (rq.payload) 2 2) + (field (rq.payload) 4 2) ≤ lutSize (field (rq.payload) 0 1) ∧ tab.pending = false ∧ (field (rq.payload) 1 1).testBit 0 = true ∧ (((List.range (field (rq.payload) 4 2)).map (fun i => ((field (rq.payload) (12 + lutEntry (field (rq.payload) 0 1) * i) (lutEntry (field (rq.payload) 0 1)) % 2 ^ (if lutEntry (field (rq.payload) 0 1) = 2 then 16 else 24) : Nat) : Int)))[i]? = some v) ∧ (tab.back.Pairwise (fun c d => c.1 < d.1))) :=
  ⟨⟨(mk ([12,0] ++ le 2 15 ++ le 2 2 ++ le 2 0 ++ le 4 0 ++ List.replicate (2*lutEntry 12) 0xAB)), (up).cmp.tables.getD 12 {}, up, by decide +kernel⟩,
    ⟨(mk ([12,0] ++ le 2 14 ++ le 2 0 ++ le 2 0 ++ le 4 (lutCrc 12 ([])))), (up).cmp.tables.getD 12 {}, up, by decide +kernel⟩,
    ⟨(mk ([12,0] ++ le 2 14 ++ le 2 2 ++ le 2 0 ++ le 4 0 ++ List.replicate (2*lutEntry 12) 0xAB)), (({ up with cmp := { up.cmp with tables := up.cmp.tables.set 12 { pending := true } } } : State)).cmp.tables.getD 12 {}, ({ up with cmp := { up.cmp with tables := up.cmp.tables.set 12 { pending := true } } } : State), by decide +kernel⟩,
    ⟨(mk ([12,0] ++ le 2 14 ++ le 2 2 ++ le 2 0 ++ le 4 0 ++ List.replicate (2*lutEntry 12) 0xAB)), (up).cmp.tables.getD 12 {}, up, 0, by decide +kernel⟩,
    ⟨(mk ([12,0] ++ le 2 14 ++ le 2 2 ++ le 2 0 ++ le 4 0 ++ List.replicate (2*lutEntry 12) 0xAB)), (up).cmp.tables.getD 12 {}, up, 0, (((((List.range (field ((mk ([12,0] ++ le 2 14 ++ le 2 2 ++ le 2 0 ++ le 4 0 ++ List.replicate (2*lutEntry 12) 0xAB)).payload) 4 2)).map (fun i0 => ((field ((mk ([12,0] ++ le 2 14 ++ le 2 2 ++ le 2 0 ++ le 4 0 ++ List.replicate (2*lutEntry 12) 0xAB)).payload) (12 + lutEntry (field ((mk ([12,0] ++ le 2 14 ++ le 2 2 ++ le 2 0 ++ le 4 0 ++ List.replicate (2*lutEntry 12) 0xAB)).payload) 0 1) * i0) (lutEntry (field ((mk ([12,0] ++ le 2 14 ++ le 2 2 ++ le 2 0 ++ le 4 0 ++ List.replicate (2*lutEntry 12) 0xAB)).payload) 0 1)) % 2 ^ (if lutEntry (field ((mk ([12,0] ++ le 2 14 ++ le 2 2 ++ le 2 0 ++ le 4 0 ++ List.replicate (2*lutEntry 12) 0xAB)).payload) 0 1) = 2 then 16 else 24) : Nat) : Int)))[(0)]?).getD 0) : Int), by decide +kernel⟩,
    ⟨(mk ([12,1] ++ le 2 14 ++ le 2 2 ++ le 2 0 ++ le 4 0 ++ List.replicate (2*lutEntry 12) 0xAB)), (up).cmp.tables.getD 12 {}, up, 0, by decide +kernel⟩,
    ⟨(mk ([12,1] ++ le 2 14 ++ le 2 2 ++ le 2 0 ++ le 4 0 ++ List.replicate (2*lutEntry 12) 0xAB)), (up).cmp.tables.getD 12 {}, up, 0, (((((List.range (field ((mk ([12,1] ++ le 2 14 ++ le 2 2 ++ le 2 0 ++ le 4 0 ++ List.replicate (2*lutEntry 12) 0xAB)).payload) 4 2)).map (fun i0 => ((field ((mk ([12,1] ++ le 2 14 ++ le 2 2 ++ le 2 0 ++ le 4 0 ++ List.replicate (2*lutEntry 12) 0xAB)).payload) (12 + lutEntry (field ((mk ([12,1] ++ le 2 14 ++ le 2 2 ++ le 2 0 ++ le 4 0 ++ List.replicate (2*lutEntry 12) 0xAB)).payload) 0 1) * i0) (lutEntry (field ((mk ([12,1] ++ le 2 14 ++ le 2 2 ++ le 2 0 ++ le 4 0 ++ List.replicate (2*lutEntry 12) 0xAB)).payload) 0 1)) % 2 ^ (if lutEntry (field ((mk ([12,1] ++ le 2 14 ++ le 2 2 ++ le 2 0 ++ le 4 0 ++ List.replicate (2*lutEntry 12) 0xAB)).payload) 0 1) = 2 then 16 else 24) : Nat) : Int)))[(0)]?).getD 0) : Int), by decide +kernel⟩⟩

/-- The hypotheses of clause 2 of TablesAndRegionsLoad can be met. -/
theorem wit_TablesAndRegionsLoad_1 :
    (∃ (rq : Rq) (tab : Table) (s : State), admits 0x25 rq s = true ∧ (field (rq.payload) 0 1) ≤ 7 ∧ (field (rq.payload) 3 1) ≤ 32 ∧ (rq.payload).length = 8 + 2 * tapCount (field (rq.payload) 0 1) * (field (rq.payload) 3 1) ∧ s.scl.tables[(field (rq.payload) 0 1)]? = some tab ∧ 64 < (field (rq.payload) 2 1) + (field (rq.payload) 3 1)) ∧
    (∃ (rq : Rq) (tab : Table) (s : State), admits 0x25 rq s = true ∧ (field (rq.payload) 0 1) ≤ 7 ∧ (field (rq.payload) 3 1) ≤ 32 ∧ (rq.payload).length = 8 + 2 * tapCount (field (rq.payload) 0 1) * (field (rq.payload) 3 1) ∧ s.scl.tables[(field (rq.payload) 0 1)]? = some tab ∧ (field (rq.payload) 3 1) = 0 ∧ (field (rq.payload) 1 1).testBit 0 = false) ∧
    (∃ (rq : Rq) (tab : Table) (s : State) (i : Nat) (j : _), admits 0x25 rq s = true ∧ (field (rq.payload) 0 1) ≤ 7 ∧ (field (rq.payload) 3 1) ≤ 32 ∧ (rq.payload).length = 8 + 2 * tapCount (field (rq.payload) 0 1) * (field (rq.payload) 3 1) ∧ s.scl.tables[(field (rq.payload) 0 1)]? = some tab ∧ (field (rq.payload) 2 1) + (field (rq.payload) 3 1) ≤ 64 ∧ (phaseFault (tapCount (field (rq.payload) 0 1)) (field (rq.payload) 3 1) 0 ((List.range ((field (rq.payload) 3 1) * tapCount (field (rq.payload) 0 1))).map (fun i => fieldI (rq.payload) (8 + 2 * i) 2)) = some (i, j))) ∧
    (∃ (rq : Rq) (tab : Table) (s : State), admits 0x25 rq s = true ∧ (field (rq.payload) 0 1) ≤ 7 ∧ (field (rq.payload) 3 1) ≤ 32 ∧ (rq.payload).length = 8 + 2 * tapCount (field (rq.payload) 0 1) * (field (rq.payload) 3 1) ∧ s.scl.tables[(field (rq.payload) 0 1)]? = some tab ∧ (field (rq.payload) 2 1) + (field (rq.payload) 3 1) ≤ 64 ∧ ((1 ≤ (field (rq.payload) 3 1) ∨ (field (rq.payload) 1 1).testBit 0 = true)) ∧ (phaseFault (tapCount (field (rq.payload) 0 1)) (field (rq.payload) 3 1) 0 ((List.range ((field (rq.payload) 3 1) * tapCount (field (rq.payload) 0 1))).map (fun i => fieldI (rq.payload) (8 + 2 * i) 2)) = none) ∧ tab.pending = true) ∧
    (∃ (rq : Rq) (tab : Table) (s : State) (i : Nat), admits 0x25 rq s = true ∧ (field (rq.payload) 0 1) ≤ 7 ∧ (field (rq.payload) 3 1) ≤ 32 ∧ (rq.payload).length = 8 + 2 * tapCount (field (rq.payload) 0 1) * (field (rq.payload) 3 1) ∧ s.scl.tables[(field (rq.payload) 0 1)]? = some tab ∧ (field (rq.payload) 2 1) + (field (rq.payload) 3 1) ≤ 64 ∧ 1 ≤ (field (rq.payload) 3 1) ∧ (phaseFault (tapCount (field (rq.payload) 0 1)) (field (rq.payload) 3 1) 0 ((List.range ((field (rq.payload) 3 1) * tapCount (field (rq.payload) 0 1))).map (fun i => fieldI (rq.payload) (8 + 2 * i) 2)) = none) ∧ tab.pending = false ∧ (field (rq.payload) 1 1).testBit 0 = false ∧ ((i < (field (rq.payload) 2 1) * tapCount (field (rq.payload) 0 1) ∨ ((field (rq.payload) 2 1) + (field (rq.payload) 3 1)) * tapCount (field (rq.payload) 0 1) ≤ i))) ∧
    (∃ (rq : Rq) (tab : Table) (s : State) (i : Nat) (v : Int), admits 0x25 rq s = true ∧ (field (rq.payload) 0 1) ≤ 7 ∧ (field (rq.payload) 3 1) ≤ 32 ∧ (rq.payload).length = 8 + 2 * tapCount (field (rq.payload) 0 1) * (field (rq.payload) 3 1) ∧ s.scl.tables[(field (rq.payload) 0 1)]? = some tab ∧ (field (rq.payload) 2 1) + (field (rq.payload) 3 1) ≤ 64 ∧ 1 ≤ (field (rq.payload) 3 1) ∧ (phaseFault (tapCount (field (rq.payload) 0 1)) (field (rq.payload) 3 1) 0 ((List.range ((field (rq.payload) 3 1) * tapCount (field (rq.payload) 0 1))).map (fun i => fieldI (rq.payload) (8 + 2 * i) 2)) = none) ∧ tab.pending = false ∧ (field (rq.payload) 1 1).testBit 0 = false ∧ (((List.range ((field (rq.payload) 3 1) * tapCount (field (rq.payload) 0 1))).map (fun i => fieldI (rq.payload) (8 + 2 * i) 2))[i]? = some v) ∧ (tab.back.Pairwise (fun c d => c.1 < d.1))) ∧
    (∃ (rq : Rq) (tab : Table) (s : State) (i : Nat), admits 0x25 rq s = true ∧ (field (rq.payload) 0 1) ≤ 7 ∧ (field (rq.payload) 3 1) ≤ 32 ∧ (rq.payload).length = 8 + 2 * tapCount (field (rq.payload) 0 1) * (field (rq.payload) 3 1) ∧ s.scl.tables[(field (rq.payload) 0 1)]? = some tab ∧ (field (rq.payload) 2 1) + (field (rq.payload) 3 1) ≤ 64 ∧ (phaseFault (tapCount (field (rq.payload) 0 1)) (field (rq.payload) 3 1) 0 ((List.range ((field (rq.payload) 3 1) * tapCount (field (rq.payload) 0 1))).map (fun i => fieldI (rq.payload) (8 + 2 * i) 2)) = none) ∧ tab.pending = false ∧ (field (rq.payload) 1 1).testBit 0 = true ∧ ((i < (field (rq.payload) 2 1) * tapCount (field (rq.payload) 0 1) ∨ ((field (rq.payload) 2 1) + (field (rq.payload) 3 1)) * tapCount (field (rq.payload) 0 1) ≤ i))) ∧
    (∃ (rq : Rq) (tab : Table) (s : State) (i : Nat) (v : Int), admits 0x25 rq s = true ∧ (field (rq.payload) 0 1) ≤ 7 ∧ (field (rq.payload) 3 1) ≤ 32 ∧ (rq.payload).length = 8 + 2 * tapCount (field (rq.payload) 0 1) * (field (rq.payload) 3 1) ∧ s.scl.tables[(field (rq.payload) 0 1)]? = some tab ∧ (field (rq.payload) 2 1) + (field (rq.payload) 3 1) ≤ 64 ∧ (phaseFault (tapCount (field (rq.payload) 0 1)) (field (rq.payload) 3 1) 0 ((List.range ((field (rq.payload) 3 1) * tapCount (field (rq.payload) 0 1))).map (fun i => fieldI (rq.payload) (8 + 2 * i) 2)) = none) ∧ tab.pending = false ∧ (field (rq.payload) 1 1).testBit 0 = true ∧ (((List.range ((field (rq.payload) 3 1) * tapCount (field (rq.payload) 0 1))).map (fun i => fieldI (rq.payload) (8 + 2 * i) 2))[i]? = some v) ∧ (tab.back.Pairwise (fun c d => c.1 < d.1))) :=
  ⟨⟨(mk ([0,0,63,2] ++ le 4 0 ++ le 2 256 ++ le 2 0 ++ List.replicate 12 0 ++ le 2 256 ++ le 2 0 ++ List.replicate 12 0)), (up).scl.tables.getD 0 {}, up, by decide +kernel⟩,
    ⟨(mk ([0,0,0,0] ++ le 4 (coefCrc 0 ([])))), (up).scl.tables.getD 0 {}, up, by decide +kernel⟩,
    ⟨(mk ([0,0,62,2] ++ le 4 0 ++ le 2 512 ++ le 2 65280 ++ List.replicate 12 0 ++ le 2 512 ++ le 2 65280 ++ List.replicate 12 0)), (up).scl.tables.getD 0 {}, up, 0, (((phaseFault (tapCount 0) 2 0 ((List.range (2 * tapCount 0)).map (fun q0 => fieldI (mk ([0,0,62,2] ++ le 4 0 ++ le 2 512 ++ le 2 65280 ++ List.replicate 12 0 ++ le 2 512 ++ le 2 65280 ++ List.replicate 12 0)).payload (8 + 2 * q0) 2))).getD (0,0)).2), by decide +kernel⟩,
    ⟨(mk ([0,0,62,2] ++ le 4 0 ++ le 2 256 ++ le 2 0 ++ List.replicate 12 0 ++ le 2 256 ++ le 2 0 ++ List.replicate 12 0)), (({ up with scl := { up.scl with tables := up.scl.tables.set 0 { pending := true } } } : State)).scl.tables.getD 0 {}, ({ up with scl := { up.scl with tables := up.scl.tables.set 0 { pending := true } } } : State), by decide +kernel⟩,
    ⟨(mk ([0,0,62,2] ++ le 4 0 ++ le 2 256 ++ le 2 0 ++ List.replicate 12 0 ++ le 2 256 ++ le 2 0 ++ List.replicate 12 0)), (up).scl.tables.getD 0 {}, up, 0, by decide +kernel⟩,
    ⟨(mk ([0,0,62,2] ++ le 4 0 ++ le 2 256 ++ le 2 0 ++ List.replicate 12 0 ++ le 2 256 ++ le 2 0 ++ List.replicate 12 0)), (up).scl.tables.getD 0 {}, up, 0, (((((List.range ((field ((mk ([0,0,62,2] ++ le 4 0 ++ le 2 256 ++ le 2 0 ++ List.replicate 12 0 ++ le 2 256 ++ le 2 0 ++ List.replicate 12 0)).payload) 3 1) * tapCount (field ((mk ([0,0,62,2] ++ le 4 0 ++ le 2 256 ++ le 2 0 ++ List.replicate 12 0 ++ le 2 256 ++ le 2 0 ++ List.replicate 12 0)).payload) 0 1))).map (fun i0 => fieldI ((mk ([0,0,62,2] ++ le 4 0 ++ le 2 256 ++ le 2 0 ++ List.replicate 12 0 ++ le 2 256 ++ le 2 0 ++ List.replicate 12 0)).payload) (8 + 2 * i0) 2))[(0)]?).getD 0) : Int), by decide +kernel⟩,
    ⟨(mk ([0,1,2,1] ++ le 4 7 ++ le 2 256 ++ List.replicate 14 0)), (up).scl.tables.getD 0 {}, up, 0, by decide +kernel⟩,
    ⟨(mk ([0,1,2,1] ++ le 4 7 ++ le 2 256 ++ List.replicate 14 0)), (up).scl.tables.getD 0 {}, up, 0, (((((List.range ((field ((mk ([0,1,2,1] ++ le 4 7 ++ le 2 256 ++ List.replicate 14 0)).payload) 3 1) * tapCount (field ((mk ([0,1,2,1] ++ le 4 7 ++ le 2 256 ++ List.replicate 14 0)).payload) 0 1))).map (fun i0 => fieldI ((mk ([0,1,2,1] ++ le 4 7 ++ le 2 256 ++ List.replicate 14 0)).payload) (8 + 2 * i0) 2))[(0)]?).getD 0) : Int), by decide +kernel⟩⟩

/-- The hypotheses of clause 3 of TablesAndRegionsLoad can be met. -/
theorem wit_TablesAndRegionsLoad_2 :
    (∃ (rq : Rq) (s : State), admits 0x26 rq s = true ∧ rq.payload.length = 24 ∧ sigFieldsOk (rq.payload) = false) ∧
    (∃ (rq : Rq) (g : Sig) (s : State), admits 0x26 rq s = true ∧ rq.payload.length = 24 ∧ sigFieldsOk (rq.payload) = true ∧ field (rq.payload) 1 1 = 0 ∧ s.chk.sigs[(field (rq.payload) 0 1)]? = some g) ∧
    (∃ (rq : Rq) (g : Sig) (s : State), admits 0x26 rq s = true ∧ rq.payload.length = 24 ∧ (field (rq.payload) 0 1) ≤ 15 ∧ field (rq.payload) 1 1 = 1 ∧ s.chk.sigs[(field (rq.payload) 0 1)]? = some g) :=
  ⟨⟨(mk (sigp.set 0 16)), up, by decide +kernel⟩,
    ⟨(mk sigp), (up).chk.sigs.getD (field (mk sigp).payload 0 1) {}, up, by decide +kernel⟩,
    ⟨(mk (sigp.set 1 1)), (up).chk.sigs.getD (field (mk (sigp.set 1 1)).payload 0 1) {}, up, by decide +kernel⟩⟩

/-- The hypotheses of clause 1 of RaiseLatches can be met. -/
theorem wit_RaiseLatches_0 :
    (∃ (e : RawEvent) (s : State), e.level = 0 ∧ windowOpenFor e.code s = false) :=
  ⟨({ ev0 with code := 0x0501, level := 0 } : RawEvent), up, by decide +kernel⟩

/-- The hypotheses of clause 2 of RaiseLatches can be met. -/
theorem wit_RaiseLatches_1 :
    (∃ (e : RawEvent) (s : State), awake s = true ∧ shaped s = true ∧ evClass e.code < 18 ∧ 1 ≤ e.level ∧ e.level ≤ 4 ∧ ((e.level = 4 ∨ windowOpenFor e.code s = false)) ∧ s.flt.first = none) ∧
    (∃ (e : RawEvent) (s : State), awake s = true ∧ shaped s = true ∧ evClass e.code < 18 ∧ 1 ≤ e.level ∧ e.level ≤ 4 ∧ ((e.level = 4 ∨ windowOpenFor e.code s = false)) ∧ s.flt.first.isSome = true) ∧
    (∃ (e : RawEvent) (s : State), awake s = true ∧ shaped s = true ∧ evClass e.code < 18 ∧ 1 ≤ e.level ∧ e.level ≤ 4 ∧ ((e.level = 4 ∨ windowOpenFor e.code s = false)) ∧ litMode s.pwr.mode = true) ∧
    (∃ (e : RawEvent) (s : State), awake s = true ∧ shaped s = true ∧ evClass e.code < 18 ∧ 1 ≤ e.level ∧ e.level ≤ 4 ∧ ((e.level = 4 ∨ windowOpenFor e.code s = false)) ∧ ((if (s.flt.escCompat = true ∧ (classOf s.flt (evClass e.code)).level ≠ 0 ∧ (classOf s.flt (evClass e.code)).acked = false) then min (e.level + 1) 4 else e.level) < 4)) ∧
    (∃ (e : RawEvent) (s : State), awake s = true ∧ shaped s = true ∧ evClass e.code < 18 ∧ 1 ≤ e.level ∧ e.level ≤ 4 ∧ ((e.level = 4 ∨ windowOpenFor e.code s = false)) ∧ ((if (s.flt.escCompat = true ∧ (classOf s.flt (evClass e.code)).level ≠ 0 ∧ (classOf s.flt (evClass e.code)).acked = false) then min (e.level + 1) 4 else e.level) = 4) ∧ s.pwr.mode ≠ .snuffed) :=
  ⟨⟨({ ev0 with code := 0x0501, level := 1 } : RawEvent), up, by decide +kernel⟩,
    ⟨({ ev0 with code := 0x0501, level := 1 } : RawEvent), (cls 5 { level := 3, hold := true, acked := true } { up with flt := { up.flt with windows := [0,1,2,3,4,5], first := some {} } }), by decide +kernel⟩,
    ⟨({ ev0 with code := 0x0501, level := 1 } : RawEvent), up, by decide +kernel⟩,
    ⟨({ ev0 with code := 0x0501, level := 1 } : RawEvent), up, by decide +kernel⟩,
    ⟨({ ev0 with code := 0x0501, level := 3 } : RawEvent), (let s := cls 5 { level := 2 } (cls 7 { level := 1, acked := true } up); { s with flt := { s.flt with escCompat := true } }), by decide +kernel⟩⟩

/-- The hypotheses of clause 3 of RaiseLatches can be met. -/
theorem wit_RaiseLatches_2 :
    (∃ (e : RawEvent) (s : State), awake s = true ∧ shaped s = true ∧ evClass e.code < 18 ∧ 1 ≤ e.level ∧ e.level < 4 ∧ windowOpenFor e.code s = true) :=
  ⟨({ ev0 with code := 0x0204, level := 1 } : RawEvent), (cls 5 { level := 3, hold := true, acked := true } { up with flt := { up.flt with windows := [0,1,2,3,4,5], first := some {} } }), by decide +kernel⟩

/-- The hypotheses of clause 4 of RaiseLatches can be met. -/
theorem wit_RaiseLatches_3 :
    (∃ (e : RawEvent) (s : State), awake s = false ∧ ((pastReturn s = false ∨ e.level < 4))) ∧
    (∃ (e : RawEvent) (s : State), awake s = false ∧ pastReturn s = true ∧ 4 ≤ e.level) :=
  ⟨⟨({ ev0 with code := 0x0501, level := 0 } : RawEvent), (inMode .dormant up), by decide +kernel⟩,
    ⟨({ ev0 with code := 0x0501, level := 4 } : RawEvent), (inMode .dormant up), by decide +kernel⟩⟩

/-- The hypotheses of clause 1 of DetectorsRaise can be met. -/
theorem wit_DetectorsRaise_0 :
    (∃ (e : RawEvent) (s : State), knownEvent e.code = true ∧ awake s = true ∧ 2 ≤ trueLevel e) ∧
    (∃ (e : RawEvent) (s : State), knownEvent e.code = true ∧ awake s = true ∧ trueLevel e < 2) ∧
    (∃ (e : RawEvent) (s : State), knownEvent e.code = true ∧ awake s = false) :=
  ⟨⟨({ ev0 with code := 0x0701 } : RawEvent), up, by decide +kernel⟩,
    ⟨({ ev0 with code := 0x0501 } : RawEvent), up, by decide +kernel⟩,
    ⟨({ ev0 with code := 0x0501 } : RawEvent), pastR, by decide +kernel⟩⟩

/-- The hypotheses of clause 2 of DetectorsRaise can be met. -/
theorem wit_DetectorsRaise_1 :
    (∃ (e : RawEvent), knownEvent e.code = false) :=
  ⟨({ ev0 with code := 0x0999 } : RawEvent), by decide +kernel⟩

/-- The hypotheses of clause 3 of DetectorsRaise can be met. -/
theorem wit_DetectorsRaise_2 :
    (∃ (u : Nat) (s : State), awake s = true ∧ s.pwr.limral = true ∧ u < 4) ∧
    (∃ (u : Nat) (s : State), awake s = true ∧ s.pwr.limral = true ∧ u < 3 ∧ s.pwr.pllOk = true ∧ s.pwr.changing = false) :=
  ⟨⟨2, up, by decide +kernel⟩,
    ⟨2, up, by decide +kernel⟩⟩

/-- The hypotheses of clause 4 of DetectorsRaise can be met. -/
theorem wit_DetectorsRaise_3 :
    (∃ (u : Nat) (s : State), u < 3 ∧ ((s.pwr.pllOk = false ∨ s.pwr.changing = true))) ∧
    (∃ (u : Nat) (s : State), awake s = false ∧ u < 4) ∧
    (∃ (u : Nat) (s : State), awake s = false ∧ u < 24) :=
  ⟨⟨2, ({ up with pwr := { up.pwr with changing := true } } : State), by decide +kernel⟩,
    ⟨2, pastR, by decide +kernel⟩,
    ⟨2, pastR, by decide +kernel⟩⟩

/-- The hypotheses of clause 5 of DetectorsRaise can be met. -/
theorem wit_DetectorsRaise_4 :
    (∃ (u : Nat) (s : State), awake s = true ∧ s.pwr.limral = false ∧ u < 3 ∧ s.pwr.pllOk = true ∧ s.pwr.changing = false) :=
  ⟨2, ({ boot with pwr := { boot.pwr with pllOk := true } } : State), by decide +kernel⟩

/-- The hypotheses of clause 6 of DetectorsRaise can be met. -/
theorem wit_DetectorsRaise_5 :
    (∃ (e : Nat) (s : State) (t : _), awake s = true ∧ e < 24 ∧ (engOf s e).tile = some t) ∧
    (∃ (e : Nat) (s : State), awake s = true ∧ e < 24 ∧ (engOf s e).tile = none) :=
  ⟨⟨23, ({ up with scl := { up.scl with engines := up.scl.engines.set 23 { tile := some 449 } } } : State), 449, by decide +kernel⟩,
    ⟨3, up, by decide +kernel⟩⟩

/-- The hypotheses of clause 7 of DetectorsRaise can be met. -/
theorem wit_DetectorsRaise_6 :
    (∃ (s : State), awake s = true ∧ shaped s = true) :=
  ⟨up, by decide +kernel⟩

/-- The hypotheses of clause 8 of DetectorsRaise can be met. -/
theorem wit_DetectorsRaise_7 :
    (∃ (r : Nat) (s : State), awake s = true ∧ r < 6 ∧ r ≠ 4 ∧ s.flt.windows.contains r = false) ∧
    (∃ (r : Nat) (s : State), awake s = true ∧ r < 6 ∧ r ≠ 4 ∧ s.flt.windows.contains r = true ∧ ((∀ c ∈ s.flt.conds, c.collateral = false))) ∧
    (∃ (r : Nat) (s : State) (c : Cond) (l1 : List Cond) (l2 : List Cond), awake s = true ∧ r < 6 ∧ r ≠ 4 ∧ s.flt.windows = [r] ∧ s.flt.conds = l1 ++ c :: l2 ∧ c.collateral = true ∧ ((∀ x ∈ l1 ++ l2, x.collateral = false ∧ (x.code ≠ c.code ∨ x.unit ≠ c.unit))) ∧ (dependents r).contains c.code = true ∧ c.unit ≠ injectUnit) :=
  ⟨⟨0, up, by decide +kernel⟩,
    ⟨5, ({ up with flt := { up.flt with windows := [0,5] } } : State), by decide +kernel⟩,
    ⟨5, ({ up with flt := { up.flt with windows := [5], conds := [{ code := 0x0701, level := 4 }, { code := 0x0401, level := 2, unit := 3, collateral := true }] } } : State), ({ code := 0x0401, level := 2, unit := 3, collateral := true } : Cond), ([{ code := 0x0701, level := 4 }]), [], by decide +kernel⟩⟩

/-- The hypotheses of clause 1 of FaultCommandsAct can be met. -/
theorem wit_FaultCommandsAct_0 :
    (∃ (mask : Nat) (s : State), shaped s = true ∧ ((∀ c ∈ List.range 70, c < 18 → (classOf (clearClasses mask s).flt c).level = 0))) :=
  ⟨0x3FFFF, (cls 17 { level := 2, acked := true } up), by decide +kernel⟩

/-- The hypotheses of clause 2 of FaultCommandsAct can be met. -/
theorem wit_FaultCommandsAct_1 :
    (∃ (m : Nat) (x0 : Byte) (x1 : Byte) (x2 : Byte) (during : List RawEvent) (rq : Rq) (s : State), admits 0x51 rq s = true ∧ rq.payload = le 4 m ++ [0, x0, x1, x2] ∧ m < 2 ^ 32 ∧ bits m 1 17 ≠ 0 ∧ (((sameClock (after 0x51 rq s).flt during (clearClasses m (after 0x51 rq s))).pwr.mode ≠ .snuffed ∨ anyHold (sameClock (after 0x51 rq s).flt during (clearClasses m (after 0x51 rq s))).flt = true))) ∧
    (∃ (m : Nat) (x0 : Byte) (x1 : Byte) (x2 : Byte) (during : List RawEvent) (rq : Rq) (s : State), admits 0x51 rq s = true ∧ rq.payload = le 4 m ++ [0, x0, x1, x2] ∧ m < 2 ^ 32 ∧ bits m 1 17 ≠ 0 ∧ (sameClock (after 0x51 rq s).flt during (clearClasses m (after 0x51 rq s))).pwr.mode = .snuffed ∧ anyHold (sameClock (after 0x51 rq s).flt during (clearClasses m (after 0x51 rq s))).flt = false) :=
  ⟨⟨0x3FFFE, 0, 0, 0, [], (mk (le 4 (0x3FFFE) ++ [0, 0, 0, 0])), up, by decide +kernel⟩,
    ⟨0x3FFFE, 0, 0, 0, [], (mk (le 4 (0x3FFFE) ++ [0, 0, 0, 0])), (inMode .snuffed up), by decide +kernel⟩⟩

/-- The hypotheses of clause 4 of FaultCommandsAct can be met. -/
theorem wit_FaultCommandsAct_3 :
    (∃ (m : Nat) (x0 : Byte) (x1 : Byte) (x2 : Byte) (e : RawEvent) (rq : Rq) (s : State), admits 0x51 rq s = true ∧ shaped s = true ∧ rq.payload = le 4 m ++ [0, x0, x1, x2] ∧ m < 2 ^ 32 ∧ knownEvent e.code = true ∧ evIsCondition e.code = false ∧ 1 ≤ trueLevel e ∧ trueLevel e < 4 ∧ windowOpenFor e.code s = false ∧ s.flt.escCompat = false ∧ s.pwr.mode ≠ .snuffed ∧ m.testBit (evClass e.code) = true ∧ 1 ≤ (evClass e.code) ∧ (evClass e.code) < 18) :=
  ⟨0x3FFFE, 0, 0, 0, ({ ev0 with code := 0x0303, level := 2 } : RawEvent), (mk (le 4 (0x3FFFE) ++ [0, 0, 0, 0])), up, by decide +kernel⟩

/-- The hypotheses of clause 5 of FaultCommandsAct can be met. -/
theorem wit_FaultCommandsAct_4 :
    (∃ (m : Nat) (x0 : Byte) (x1 : Byte) (x2 : Byte) (rq : Rq) (s : State), admits 0x51 rq s = true ∧ shaped s = true ∧ rq.payload = le 4 m ++ [1, x0, x1, x2] ∧ m < 2 ^ 32 ∧ bits m 1 17 ≠ 0) :=
  ⟨0x3FFFE, 0, 0, 0, (mk (le 4 (0x3FFFE) ++ [1, 0, 0, 0])), up, by decide +kernel⟩

/-- The hypotheses of clause 6 of FaultCommandsAct can be met. -/
theorem wit_FaultCommandsAct_5 :
    (∃ (m : Nat) (x0 : Byte) (x1 : Byte) (x2 : Byte) (e : RawEvent) (rq : Rq) (s : State), admits 0x51 rq s = true ∧ shaped s = true ∧ rq.payload = le 4 m ++ [1, x0, x1, x2] ∧ m < 2 ^ 32 ∧ knownEvent e.code = true ∧ evIsCondition e.code = false ∧ 1 ≤ trueLevel e ∧ trueLevel e < 4 ∧ windowOpenFor e.code s = false ∧ s.flt.escCompat = true ∧ m.testBit (evClass e.code) = true ∧ 1 ≤ (evClass e.code) ∧ (evClass e.code) < 18 ∧ (classOf (after 0x51 rq s).flt (evClass e.code)).level ≠ 0 ∧ (classOf (after 0x51 rq s).flt (evClass e.code)).acked = false) :=
  ⟨0x3FFFE, 0, 0, 0, ({ ev0 with code := 0x0303, level := 2 } : RawEvent), (mk (le 4 (0x3FFFE) ++ [1, 0, 0, 0])), (let s := cls 5 { level := 1 } (cls 14 { level := 1 } (cls 3 { level := 2 } up)); { s with flt := { s.flt with escCompat := true } }), by decide +kernel⟩

/-- The hypotheses of clause 7 of FaultCommandsAct can be met. -/
theorem wit_FaultCommandsAct_6 :
    (∃ (rq : Rq) (s : State), admits 0x52 rq s = true ∧ rq.payload.length = 8 ∧ shaped s = true ∧ s.pwr.mode ≠ .kindle ∧ injectable (field rq.payload 0 2) s = true ∧ s.flt.inj = none ∧ ((evIsCondition (field rq.payload 0 2) = true → 1 ≤ (field rq.payload 4 2) ∧ (field rq.payload 4 2) ≤ 1000)) ∧ ((evIsCondition (field rq.payload 0 2) = false ∨ realCond (field rq.payload 0 2) s = none)) ∧ (field rq.payload 2 1) = 0) ∧
    (∃ (rq : Rq) (s : State), admits 0x52 rq s = true ∧ rq.payload.length = 8 ∧ shaped s = true ∧ s.pwr.mode ≠ .kindle ∧ injectable (field rq.payload 0 2) s = true ∧ s.flt.inj = none ∧ ((evIsCondition (field rq.payload 0 2) = true → 1 ≤ (field rq.payload 4 2) ∧ (field rq.payload 4 2) ≤ 1000)) ∧ ((evIsCondition (field rq.payload 0 2) = false ∨ realCond (field rq.payload 0 2) s = none)) ∧ (field rq.payload 2 1) = 1 ∧ ((s.pwr.mode = .pilot ∨ s.pwr.mode = .snuffed)) ∧ ((windowOpenFor (field rq.payload 0 2) s = false ∨ injectLevel (field rq.payload 0 2) s = 4)) ∧ injectLevel (field rq.payload 0 2) s ≤ 4 ∧ injectLevel (field rq.payload 0 2) s = 4) ∧
    (∃ (rq : Rq) (s : State), admits 0x52 rq s = true ∧ rq.payload.length = 8 ∧ shaped s = true ∧ s.pwr.mode ≠ .kindle ∧ injectable (field rq.payload 0 2) s = true ∧ s.flt.inj = none ∧ ((evIsCondition (field rq.payload 0 2) = true → 1 ≤ (field rq.payload 4 2) ∧ (field rq.payload 4 2) ≤ 1000)) ∧ ((evIsCondition (field rq.payload 0 2) = false ∨ realCond (field rq.payload 0 2) s = none)) ∧ (field rq.payload 2 1) = 1 ∧ ((s.pwr.mode = .pilot ∨ s.pwr.mode = .snuffed)) ∧ ((windowOpenFor (field rq.payload 0 2) s = false ∨ injectLevel (field rq.payload 0 2) s = 4)) ∧ injectLevel (field rq.payload 0 2) s ≤ 4 ∧ evIsCondition (field rq.payload 0 2) = true) ∧
    (∃ (rq : Rq) (s : State), admits 0x52 rq s = true ∧ rq.payload.length = 8 ∧ shaped s = true ∧ s.pwr.mode ≠ .kindle ∧ injectable (field rq.payload 0 2) s = true ∧ s.flt.inj = none ∧ ((evIsCondition (field rq.payload 0 2) = true → 1 ≤ (field rq.payload 4 2) ∧ (field rq.payload 4 2) ≤ 1000)) ∧ evIsCondition (field rq.payload 0 2) = true ∧ (realCond (field rq.payload 0 2) s).isSome = true ∧ (((field rq.payload 2 1) = 0 ∨ ((field rq.payload 2 1) = 1 ∧ (s.pwr.mode = .pilot ∨ s.pwr.mode = .snuffed))))) :=
  ⟨⟨(mk (le 2 0x0E02 ++ [0,0] ++ le 4 100)), up, by decide +kernel⟩,
    ⟨(mk (le 2 0x0E02 ++ [1,0] ++ le 4 100)), (inMode .pilot up), by decide +kernel⟩,
    ⟨(mk (le 2 0x0701 ++ [1,0] ++ le 4 100)), (inMode .pilot up), by decide +kernel⟩,
    ⟨(mk (le 2 0x0701 ++ [0,0] ++ le 4 100)), (hot 100 (inMode .pilot up)), by decide +kernel⟩⟩

/-- The hypotheses of clause 8 of FaultCommandsAct can be met. -/
theorem wit_FaultCommandsAct_7 :
    (∃ (rq : Rq) (s : State), admits 0x52 rq s = true ∧ rq.payload.length = 8 ∧ s.pwr.mode ≠ .kindle ∧ field rq.payload 2 1 = 1 ∧ s.pwr.mode ≠ .pilot ∧ s.pwr.mode ≠ .snuffed) :=
  ⟨(mk (le 2 0x0501 ++ [1,0] ++ le 4 100)), up, by decide +kernel⟩

/-- The hypotheses of clause 9 of FaultCommandsAct can be met. -/
theorem wit_FaultCommandsAct_8 :
    (∃ (s : State), s.flt.inj = none) :=
  ⟨up, by decide +kernel⟩

/-- The hypotheses of clause 10 of FaultCommandsAct can be met. -/
theorem wit_FaultCommandsAct_9 :
    (∃ (i : Inject) (p0 : Nat) (p1 : Nat) (p2 : Nat) (p3 : Nat) (s : State), awake s = true ∧ s.flt.inj = some i ∧ evIsCondition i.code = true ∧ (condUnit (({ code := i.code, level := ownLevel i.code p0 s, p0 := p0, p1 := p1, p2 := p2, p3 := p3 } : RawEvent )) ≠ injectUnit)) ∧
    (∃ (i : Inject) (at_ : Bool) (p0 : Nat) (p1 : Nat) (p2 : Nat) (p3 : Nat) (s : State), awake s = true ∧ s.flt.inj = some i ∧ at_ = true ∧ (trueLevel (({ code := i.code, level := ownLevel i.code p0 s, p0 := p0, p1 := p1, p2 := p2, p3 := p3 } : RawEvent )) = 4)) ∧
    (∃ (i : Inject) (at_ : Bool) (p0 : Nat) (p1 : Nat) (p2 : Nat) (p3 : Nat) (s : State), awake s = true ∧ s.flt.inj = some i ∧ at_ = false ∧ (trueLevel (({ code := i.code, level := ownLevel i.code p0 s, p0 := p0, p1 := p1, p2 := p2, p3 := p3 } : RawEvent )) = 4) ∧ ((evIsCondition i.code = false ∨ condIs i.code (condUnit (({ code := i.code, level := ownLevel i.code p0 s, p0 := p0, p1 := p1, p2 := p2, p3 := p3 } : RawEvent ))) s = false))) :=
  ⟨⟨({ code := 0x0701, live := true, mark := { code := 0x0701, level := 4 } } : Inject), 1, 2, 3, 4, (let s := up; { s with flt := { s.flt with inj := some { code := 0x0701, live := true, mark := { code := 0x0701, level := 4 } } } }), by decide +kernel⟩,
    ⟨({ code := 0x0701, live := true, mark := { code := 0x0701, level := 4 } } : Inject), true, 1, 2, 3, 4, (let s := up; { s with flt := { s.flt with inj := some { code := 0x0701, live := true, mark := { code := 0x0701, level := 4 } } } }), by decide +kernel⟩,
    ⟨({ code := 0x0701, live := true, mark := { code := 0x0701, level := 4 } } : Inject), false, 1, 2, 3, 4, (let s := up; { s with flt := { s.flt with inj := some { code := 0x0701, live := true, mark := { code := 0x0701, level := 4 } } } }), by decide +kernel⟩⟩

/-- The hypotheses of clause 1 of NvmCommandsAnswer can be met. -/
theorem wit_NvmCommandsAnswer_0 :
    (∃ (f : Byte) (x : Byte) (y : Byte) (rq : Rq) (s : State), admits 0x40 rq s = true ∧ s.pwr.mode = .pilot ∧ rq.payload = [0, f, x, y] ∧ s.nvm.calRun ≠ none) ∧
    (∃ (f : Byte) (x : Byte) (y : Byte) (rq : Rq) (s : State), admits 0x40 rq s = true ∧ s.pwr.mode = .pilot ∧ rq.payload = [0, f, x, y] ∧ s.nvm.calRun = none ∧ (f.toNat.testBit 0) = true ∧ s.thm.nvmOpen = false) ∧
    (∃ (f : Byte) (x : Byte) (y : Byte) (rq : Rq) (s : State), admits 0x40 rq s = true ∧ s.pwr.mode = .pilot ∧ rq.payload = [0, f, x, y] ∧ s.nvm.calRun = none ∧ (((f.toNat.testBit 0) = false ∨ s.thm.nvmOpen = true)) ∧ handleFree s = true) :=
  ⟨⟨0, 0, 0, (mk ([0, 0, 0, 0])), (inMode .pilot { up with nvm := { up.nvm with calRun := some { handle := 3 } } }), by decide +kernel⟩,
    ⟨1, 0, 0, (mk ([0, 1, 0, 0])), (inMode .pilot { up with thm := { up.thm with nvmOpen := false, deferReplies := 65535 } }), by decide +kernel⟩,
    ⟨0, 0, 0, (mk ([0, 0, 0, 0])), (opn (inMode .pilot up)), by decide +kernel⟩⟩

/-- The hypotheses of clause 2 of NvmCommandsAnswer can be met. -/
theorem wit_NvmCommandsAnswer_1 :
    (∃ (m : CalMeas) (r : CalRun) (s : State), measOk m = true ∧ awake s = true ∧ s.nvm.calRun = some r ∧ ((r.full = false ∨ r.stage ≠ 1 ∨ litMode s.pwr.mode = false))) ∧
    (∃ (m : CalMeas) (r : CalRun) (s : State), measOk m = true ∧ awake s = true ∧ s.nvm.calRun = some r ∧ litMode s.pwr.mode = true ∧ r.full = true ∧ r.stage = 1) :=
  ⟨⟨meas0, ({ handle := 3, stage := 2 } : CalRun), (inMode .pilot { up with nvm := { up.nvm with calRun := some { handle := 3, stage := 2 } } }), by decide +kernel⟩,
    ⟨meas0, ({ handle := 3, stage := 1 } : CalRun), (inMode .pilot { up with nvm := { up.nvm with calRun := some { handle := 3, stage := 1 } } }), by decide +kernel⟩⟩

/-- The hypotheses of clause 3 of NvmCommandsAnswer can be met. -/
theorem wit_NvmCommandsAnswer_2 :
    (∃ (f : Byte) (x : Byte) (y : Byte) (rd : List Int) (rq : Rq) (s : State), admits 0x40 rq s = true ∧ ((litMode s.pwr.mode = true ∨ s.pwr.mode = .snuffed)) ∧ rq.payload = [1, f, x, y] ∧ rd.length = 36 ∧ s.nvm.calRun = none ∧ ((f.toNat.testBit 0 = false ∨ s.thm.nvmOpen = true)) ∧ handleFree s = true) :=
  ⟨0, 0, 0, (List.replicate 36 200), (mk ([1, 0, 0, 0])), up, by decide +kernel⟩

/-- The hypotheses of clause 4 of NvmCommandsAnswer can be met. -/
theorem wit_NvmCommandsAnswer_3 :
    (∃ (m : Byte) (x : Byte) (y : Byte) (z : Byte) (rq : Rq) (s : State), admits 0x41 rq s = true ∧ rq.payload = [m, x, y, z] ∧ m.toNat % 16 = 0) ∧
    (∃ (m : Byte) (x : Byte) (y : Byte) (z : Byte) (rq : Rq) (s : State), admits 0x41 rq s = true ∧ rq.payload = [m, x, y, z] ∧ m.toNat % 16 ≠ 0 ∧ s.thm.nvmOpen = true ∧ handleFree s = true) :=
  ⟨⟨0, 0, 0, 0, (mk ([0, 0, 0, 0])), up, by decide +kernel⟩,
    ⟨15, 0, 0, 0, (mk ([15, 0, 0, 0])), up, by decide +kernel⟩⟩

/-- The hypotheses of clause 5 of NvmCommandsAnswer can be met. -/
theorem wit_NvmCommandsAnswer_4 :
    (∃ (sp : Byte) (z : Byte) (count : Nat) (addr : Nat) (rq : Rq) (s : State), admits 0x42 rq s = true ∧ count < 65536 ∧ addr < 2 ^ 32 ∧ rq.payload = [sp, z] ++ le 2 count ++ le 4 addr ∧ ((sp.toNat ≤ 1 ∧ 1 ≤ count ∧ count ≤ 1016 ∧ addr + count ≤ (if sp = 1 then 1024 else 0x800000))) ∧ (((if sp = 1 then s.nvm.scarBad else s.nvm.badWords).filter (fun w => decide (addr < 8 * w + 8 ∧ 8 * w < addr + count))) = [])) ∧
    (∃ (sp : Byte) (z : Byte) (count : Nat) (addr : Nat) (rq : Rq) (s : State) (w : _), admits 0x42 rq s = true ∧ count < 65536 ∧ addr < 2 ^ 32 ∧ rq.payload = [sp, z] ++ le 2 count ++ le 4 addr ∧ ((sp.toNat ≤ 1 ∧ 1 ≤ count ∧ count ≤ 1016 ∧ addr + count ≤ (if sp = 1 then 1024 else 0x800000))) ∧ (w ∈ ((if sp = 1 then s.nvm.scarBad else s.nvm.badWords).filter (fun w => decide (addr < 8 * w + 8 ∧ 8 * w < addr + count)))) ∧ ((∀ v ∈ ((if sp = 1 then s.nvm.scarBad else s.nvm.badWords).filter (fun w => decide (addr < 8 * w + 8 ∧ 8 * w < addr + count))), w ≤ v))) ∧
    (∃ (sp : Byte) (z : Byte) (count : Nat) (addr : Nat) (rq : Rq) (s : State), admits 0x42 rq s = true ∧ count < 65536 ∧ addr < 2 ^ 32 ∧ rq.payload = [sp, z] ++ le 2 count ++ le 4 addr ∧ ((count = 0 ∨ 1016 < count ∨ (sp = 0 ∧ 0x800000 < addr + count) ∨ (sp = 1 ∧ 1024 < addr + count) ∨ 1 < sp.toNat))) :=
  ⟨⟨0, 0, 1, 8388607, (mk ([0, 0] ++ le 2 (1) ++ le 4 (8388607))), up, by decide +kernel⟩,
    ⟨0, 0, 8, 23, (mk ([0, 0] ++ le 2 (8) ++ le 4 (23))), ({ up with nvm := { up.nvm with badWords := [3, 2] } } : State), 2, by decide +kernel⟩,
    ⟨0, 0, 1017, 0, (mk ([0, 0] ++ le 2 (1017) ++ le 4 (0))), up, by decide +kernel⟩⟩

/-- The hypotheses of clause 6 of NvmCommandsAnswer can be met. -/
theorem wit_NvmCommandsAnswer_5 :
    (∃ (s : State), awake s = true ∧ s.diag.storePending = true ∧ ((∀ q ∈ s.nvm.queue, q.content ≠ 4))) :=
  ⟨({ up with diag := { up.diag with storePending := true }, nvm := { up.nvm with retry := [{ content := 9, patch := [(1,[2])] }, { content := 4 }] } } : State), by decide +kernel⟩

/-- The hypotheses of clause 7 of NvmCommandsAnswer can be met. -/
theorem wit_NvmCommandsAnswer_6 :
    (∃ (s : State), ((s.diag.storePending = false ∨ (∃ q ∈ s.nvm.queue, q.content = 4)))) :=
  ⟨up, by decide +kernel⟩

/-- The hypotheses of clause 1 of PatternAndPatchLoads can be met. -/
theorem wit_PatternAndPatchLoads_0 :
    (∃ (rq : Rq) (s : State), admits 0x43 rq s = true ∧ canonical s = true ∧ s.thm.nvmOpen = true ∧ rq.payload.length = 8 ∧ field rq.payload 0 1 = 0 ∧ ((((s.nvm.pw).all fun l => decide (l.commits = [])) = true)) ∧ (field rq.payload 1 1) = 1 ∧ slotCommitted s 1 2 = true ∧ field rq.payload 4 4 = bodyLen 1) ∧
    (∃ (rq : Rq) (s : State), admits 0x43 rq s = true ∧ canonical s = true ∧ s.thm.nvmOpen = true ∧ rq.payload.length = 8 ∧ field rq.payload 0 1 = 0 ∧ ((((s.nvm.pw).all fun l => decide (l.commits = [])) = true)) ∧ (field rq.payload 1 1) ∈ [0, 1, 6, 7, 8] ∧ (((field rq.payload 1 1) = 1 → slotCommitted s 1 2 = false)) ∧ field rq.payload 4 4 = bodyLen (field rq.payload 1 1)) ∧
    (∃ (rq : Rq) (s : State), admits 0x43 rq s = true ∧ canonical s = true ∧ s.thm.nvmOpen = true ∧ rq.payload.length = 8 ∧ field rq.payload 0 1 = 0 ∧ ((((s.nvm.pw).all fun l => decide (l.commits = [])) = true)) ∧ (((field rq.payload 1 1) ∉ [0, 1, 6, 7, 8] ∨ field rq.payload 4 4 ≠ bodyLen (field rq.payload 1 1)))) :=
  ⟨⟨(mk ([0,1,0,0] ++ le 4 (bodyLen 1))), ({ up with nvm := { up.nvm with mram := memWrite up.nvm.mram (slotBase 1 2 + 56) (le 8 commitWord) } } : State), by decide +kernel⟩,
    ⟨(mk ([0,0,0,0] ++ le 4 (bodyLen 0))), up, by decide +kernel⟩,
    ⟨(mk ([0,0,0,0] ++ le 4 (5))), up, by decide +kernel⟩⟩

/-- The hypotheses of clause 2 of PatternAndPatchLoads can be met. -/
theorem wit_PatternAndPatchLoads_1 :
    (∃ (data : List Byte) (x : List Byte) (off : Nat) (l : PwLoad) (rq : Rq) (s : State), admits 0x43 rq s = true ∧ canonical s = true ∧ s.thm.nvmOpen = true ∧ x.length = 3 ∧ rq.payload = [1] ++ x ++ le 4 off ++ data ∧ off < 2 ^ 32 ∧ 8 ≤ data.length ∧ data.length ≤ 1016 ∧ data.length % 8 = 0 ∧ s.nvm.pw = some l ∧ off + data.length ≤ bodyLen l.target ∧ off = l.bytes) ∧
    (∃ (data : List Byte) (x : List Byte) (off : Nat) (l : PwLoad) (rq : Rq) (s : State), admits 0x43 rq s = true ∧ canonical s = true ∧ s.thm.nvmOpen = true ∧ x.length = 3 ∧ rq.payload = [1] ++ x ++ le 4 off ++ data ∧ off < 2 ^ 32 ∧ 8 ≤ data.length ∧ data.length ≤ 1016 ∧ data.length % 8 = 0 ∧ s.nvm.pw = some l ∧ off + data.length ≤ bodyLen l.target ∧ off ≠ l.bytes) :=
  ⟨⟨[1,2,3,4,5,6,7,8], [6,0,0], 16, ({ target := 6, slot := 1, bytes := 16 } : PwLoad), (mk ([1] ++ ([6,0,0]) ++ le 4 (16) ++ ([1,2,3,4,5,6,7,8]))), (let s := up; { s with nvm := { s.nvm with pw := some { target := 6, slot := 1, bytes := 16 } } }), by decide +kernel⟩,
    ⟨[1,2,3,4,5,6,7,8], [6,0,0], 16, ({ target := 6, slot := 1, bytes := 8 } : PwLoad), (mk ([1] ++ ([6,0,0]) ++ le 4 (16) ++ ([1,2,3,4,5,6,7,8]))), (let s := up; { s with nvm := { s.nvm with pw := some { target := 6, slot := 1, bytes := 8 } } }), by decide +kernel⟩⟩

/-- The hypotheses of clause 3 of PatternAndPatchLoads can be met. -/
theorem wit_PatternAndPatchLoads_2 :
    (∃ (l : PwLoad) (x : List Byte) (rq : Rq) (s : State), admits 0x43 rq s = true ∧ s.thm.nvmOpen = true ∧ x.length = 7 ∧ s.nvm.pw = some l ∧ rq.payload = 2 :: x ∧ l.bytes = bodyLen l.target ∧ handleFree s = true) ∧
    (∃ (l : PwLoad) (x : List Byte) (rq : Rq) (s : State), admits 0x43 rq s = true ∧ s.thm.nvmOpen = true ∧ x.length = 7 ∧ s.nvm.pw = some l ∧ rq.payload = 2 :: x ∧ l.bytes ≠ bodyLen l.target) ∧
    (∃ (l : PwLoad) (x : List Byte) (rq : Rq) (s : State), admits 0x43 rq s = true ∧ s.thm.nvmOpen = true ∧ x.length = 7 ∧ s.nvm.pw = some l ∧ rq.payload = 3 :: x ∧ l.commits = []) ∧
    (∃ (l : PwLoad) (x : List Byte) (rq : Rq) (s : State) (h : _) (w : _), admits 0x43 rq s = true ∧ s.thm.nvmOpen = true ∧ x.length = 7 ∧ s.nvm.pw = some l ∧ rq.payload = 3 :: x ∧ l.commits = [(h, w)] ∧ h ∈ s.cmd.outstanding) :=
  ⟨⟨({ target := 6, slot := 1, bytes := bodyLen 6, commits := [] } : PwLoad), [6,0,0,0,0,0,0], (mk [2,6,0,0,0,0,0,0]), (let s := (let s := up; { s with nvm := { s.nvm with pw := some { target := 6, slot := 1, bytes := bodyLen 6, commits := [] } } }); { s with cmd := { s.cmd with outstanding := [] } }), by decide +kernel⟩,
    ⟨({ target := 6, slot := 1, bytes := 8, commits := [] } : PwLoad), [6,0,0,0,0,0,0], (mk [2,6,0,0,0,0,0,0]), (let s := (let s := up; { s with nvm := { s.nvm with pw := some { target := 6, slot := 1, bytes := 8, commits := [] } } }); { s with cmd := { s.cmd with outstanding := [] } }), by decide +kernel⟩,
    ⟨({ target := 6, slot := 1, bytes := bodyLen 6, commits := [] } : PwLoad), [6,0,0,0,0,0,0], (mk [3,6,0,0,0,0,0,0]), (let s := (let s := up; { s with nvm := { s.nvm with pw := some { target := 6, slot := 1, bytes := bodyLen 6, commits := [] } } }); { s with cmd := { s.cmd with outstanding := [] } }), by decide +kernel⟩,
    ⟨({ target := 6, slot := 1, bytes := bodyLen 6, commits := [(9,.spi)] } : PwLoad), [6,0,0,0,0,0,0], (mk [3,6,0,0,0,0,0,0]), (let s := (let s := up; { s with nvm := { s.nvm with pw := some { target := 6, slot := 1, bytes := bodyLen 6, commits := [(9,.spi)] } } }); { s with cmd := { s.cmd with outstanding := [9] } }), 9, .spi, by decide +kernel⟩⟩

/-- The hypotheses of clause 4 of PatternAndPatchLoads can be met. -/
theorem wit_PatternAndPatchLoads_3 :
    (∃ (l : PwLoad) (h : Nat) (x : Src) (s : State), awake s = true ∧ canonical s = true ∧ s.nvm.pw = some l ∧ l.commits = [(h, x)] ∧ h ∈ s.cmd.outstanding ∧ pwContentOk l.target (slotBody s l.target l.slot) = false) ∧
    (∃ (l : PwLoad) (h : Nat) (x : Src) (s : State), awake s = true ∧ canonical s = true ∧ s.nvm.pw = some l ∧ l.commits = [(h, x)] ∧ h ∈ s.cmd.outstanding ∧ pwContentOk l.target (slotBody s l.target l.slot) = true ∧ l.target ∈ [0, 6, 7, 8] ∧ l.slot < 3) ∧
    (∃ (l : PwLoad) (h : Nat) (x : Src) (s : State), awake s = true ∧ canonical s = true ∧ s.nvm.pw = some l ∧ l.commits = [(h, x)] ∧ h ∈ s.cmd.outstanding ∧ l.target = 1 ∧ l.slot = 2) :=
  ⟨⟨({ target := 6, slot := 1, bytes := 8, gen := 5, commits := [(9,.spi)] } : PwLoad), 9, .spi, (let s := (let s := up; { s with nvm := { s.nvm with pw := some { target := 6, slot := 1, bytes := 8, gen := 5, commits := [(9,.spi)] } } }); { s with cmd := { s.cmd with outstanding := [9] } }), by decide +kernel⟩,
    ⟨({ target := 6, slot := 1, bytes := 8, gen := 5, commits := [(9,.spi)] } : PwLoad), 9, .spi, (let s := (let s := { up with nvm := { up.nvm with mram := memWrite up.nvm.mram (slotBase 6 1 + 64) (le 4 1 ++ (List.replicate 65 (le 2 0x4000)).flatten) } }; { s with nvm := { s.nvm with pw := some { target := 6, slot := 1, bytes := 8, gen := 5, commits := [(9,.spi)] } } }); { s with cmd := { s.cmd with outstanding := [9] } }), by decide +kernel⟩,
    ⟨({ target := 1, slot := 2, bytes := 8, gen := 5, commits := [(9,.spi)] } : PwLoad), 9, .spi, (let s := (let s := up; { s with nvm := { s.nvm with pw := some { target := 1, slot := 2, bytes := 8, gen := 5, commits := [(9,.spi)] } } }); { s with cmd := { s.cmd with outstanding := [9] } }), by decide +kernel⟩⟩

/-- The hypotheses of clause 5 of PatternAndPatchLoads can be met. -/
theorem wit_PatternAndPatchLoads_4 :
    (∃ (x : List Byte) (n : Nat) (rq : Rq) (s : State), admits 0xF0 rq s = true ∧ canonical s = true ∧ s.thm.nvmOpen = true ∧ ((s.pwr.mode = .pilot ∨ s.pwr.mode = .snuffed)) ∧ x.length = 3 ∧ rq.payload = [0] ++ x ++ le 4 n ∧ n < 2 ^ 32 ∧ patchLenOk n = true) ∧
    (∃ (x : List Byte) (n : Nat) (rq : Rq) (s : State), admits 0xF0 rq s = true ∧ canonical s = true ∧ s.thm.nvmOpen = true ∧ ((s.pwr.mode = .pilot ∨ s.pwr.mode = .snuffed)) ∧ x.length = 3 ∧ rq.payload = [0] ++ x ++ le 4 n ∧ n < 2 ^ 32 ∧ patchLenOk n = false) :=
  ⟨⟨[0,0,0], 64, (mk ([0] ++ ([0,0,0]) ++ le 4 (64))), (inMode .pilot up), by decide +kernel⟩,
    ⟨[0,0,0], 4, (mk ([0] ++ ([0,0,0]) ++ le 4 (4))), (inMode .pilot up), by decide +kernel⟩⟩

/-- The hypotheses of clause 6 of PatternAndPatchLoads can be met. -/
theorem wit_PatternAndPatchLoads_5 :
    (∃ (x : List Byte) (data : List Byte) (off : Nat) (l : PatchLoad) (rq : Rq) (s : State), admits 0xF0 rq s = true ∧ canonical s = true ∧ s.thm.nvmOpen = true ∧ ((s.pwr.mode = .pilot ∨ s.pwr.mode = .snuffed)) ∧ x.length = 3 ∧ rq.payload = [1] ++ x ++ le 4 off ++ data ∧ off < 2 ^ 32 ∧ 4 ≤ data.length ∧ data.length ≤ 1016 ∧ data.length % 4 = 0 ∧ s.cmd.patch = some l ∧ off = s.cmd.patchBytes ∧ off + data.length ≤ l.length) :=
  ⟨[0,0,0], [1,2,3,4], 8, ({ length := 12 } : PatchLoad), (mk ([1] ++ ([0,0,0]) ++ le 4 (8) ++ ([1,2,3,4]))), (inMode .pilot { up with cmd := { up.cmd with patch := some { length := 12 }, patchBytes := 8 } }), by decide +kernel⟩

/-- The hypotheses of clause 7 of PatternAndPatchLoads can be met. -/
theorem wit_PatternAndPatchLoads_6 :
    (∃ (sg : List Byte) (x : List Byte) (l : PatchLoad) (rq : Rq) (s : State), admits 0xF0 rq s = true ∧ s.thm.nvmOpen = true ∧ ((s.pwr.mode = .pilot ∨ s.pwr.mode = .snuffed)) ∧ s.cmd.patch = some l ∧ l.commits = [] ∧ x.length = 7 ∧ sg.length = 64 ∧ rq.payload = 2 :: x ++ sg ∧ l.length ≤ s.cmd.patchBytes ∧ handleFree s = true) ∧
    (∃ (sg : List Byte) (x : List Byte) (l : PatchLoad) (rq : Rq) (s : State), admits 0xF0 rq s = true ∧ s.thm.nvmOpen = true ∧ ((s.pwr.mode = .pilot ∨ s.pwr.mode = .snuffed)) ∧ s.cmd.patch = some l ∧ l.commits = [] ∧ x.length = 7 ∧ sg.length = 64 ∧ rq.payload = 2 :: x ++ sg ∧ s.cmd.patchBytes < l.length) ∧
    (∃ (sg : List Byte) (x : List Byte) (l : PatchLoad) (rq : Rq) (s : State), admits 0xF0 rq s = true ∧ s.thm.nvmOpen = true ∧ ((s.pwr.mode = .pilot ∨ s.pwr.mode = .snuffed)) ∧ s.cmd.patch = some l ∧ l.commits = [] ∧ x.length = 7 ∧ sg.length = 64 ∧ rq.payload = 3 :: x) :=
  ⟨⟨(List.replicate 64 5), [0,0,0,0,0,0,0], ({ length := 12 } : PatchLoad), (mk (2 :: [0,0,0,0,0,0,0] ++ List.replicate 64 5)), (inMode .pilot { up with cmd := { up.cmd with patch := some { length := 12 }, patchBytes := 12 } }), by decide +kernel⟩,
    ⟨(List.replicate 64 5), [0,0,0,0,0,0,0], ({ length := 12 } : PatchLoad), (mk (2 :: [0,0,0,0,0,0,0] ++ List.replicate 64 5)), (inMode .pilot { up with cmd := { up.cmd with patch := some { length := 12 }, patchBytes := 8 } }), by decide +kernel⟩,
    ⟨(List.replicate 64 5), [0,0,0,0,0,0,0], ({ length := 12 } : PatchLoad), (mk (3 :: [0,0,0,0,0,0,0])), (inMode .pilot { up with cmd := { up.cmd with patch := some { length := 12 }, patchBytes := 12 } }), by decide +kernel⟩⟩

/-- The hypotheses of clause 8 of PatternAndPatchLoads can be met. -/
theorem wit_PatternAndPatchLoads_7 :
    (∃ (l : PatchLoad) (h : Nat) (x : Src) (s : State), awake s = true ∧ canonical s = true ∧ s.cmd.patch = some l ∧ l.commits = [(h, x)] ∧ h ∈ s.cmd.outstanding ∧ (patchFault s (some l.length) l.sig) ≠ 0) ∧
    (∃ (l : PatchLoad) (h : Nat) (x : Src) (s : State), awake s = true ∧ canonical s = true ∧ s.cmd.patch = some l ∧ l.commits = [(h, x)] ∧ h ∈ s.cmd.outstanding ∧ l.sig.length = 64) :=
  ⟨⟨({ length := 12, sig := List.replicate 64 5, commits := [(9,.spi)] } : PatchLoad), 9, .spi, (let s := (inMode .pilot { up with cmd := { up.cmd with patch := some { length := 12, sig := List.replicate 64 5, commits := [(9,.spi)] }, patchBytes := 12 } }); { s with cmd := { s.cmd with outstanding := [9] } }), by decide +kernel⟩,
    ⟨({ length := 12, sig := List.replicate 64 5, commits := [(9,.spi)] } : PatchLoad), 9, .spi, (let s := (inMode .pilot { up with cmd := { up.cmd with patch := some { length := 12, sig := List.replicate 64 5, commits := [(9,.spi)] }, patchBytes := 12 } }); { s with cmd := { s.cmd with outstanding := [9] } }), by decide +kernel⟩⟩

/-- The hypotheses of clause 1 of StoresAndTests can be met. -/
theorem wit_StoresAndTests_0 :
    (∃ (r : StoreReq) (q : List StoreReq) (s : State), awake s = true ∧ canonical s = true ∧ s.nvm.queue = r :: q ∧ s.nvm.run = none ∧ s.nvm.loading = false ∧ s.thm.nvmOpen = true ∧ r.content < 10 ∧ r.content ≠ 9) ∧
    (∃ (r : StoreReq) (q : List StoreReq) (s : State), awake s = true ∧ canonical s = true ∧ s.nvm.queue = r :: q ∧ s.nvm.run = none ∧ s.nvm.loading = false ∧ s.thm.nvmOpen = false) :=
  ⟨⟨({ content := 4, who := [4], deferred := false } : StoreReq), ([{ content := 3 }]), ({ up with nvm := { up.nvm with queue := [{ content := 4, who := [4], deferred := false }, { content := 3 }] }, thm := { up.thm with nvmOpen := true } } : State), by decide +kernel⟩,
    ⟨({ content := 9, who := [4], deferred := false } : StoreReq), ([{ content := 3 }]), ({ up with nvm := { up.nvm with queue := [{ content := 9, who := [4], deferred := false }, { content := 3 }] }, thm := { up.thm with nvmOpen := false } } : State), by decide +kernel⟩⟩

/-- The hypotheses of clause 2 of StoresAndTests can be met. -/
theorem wit_StoresAndTests_1 :
    (∃ (s : State), ((s.nvm.queue = [] ∨ s.nvm.run ≠ none ∨ s.nvm.loading = true ∨ awake s = false))) :=
  ⟨up, by decide +kernel⟩

/-- The hypotheses of clause 3 of StoresAndTests can be met. -/
theorem wit_StoresAndTests_2 :
    (∃ (r : StoreRun) (s : State) (a : _), awake s = true ∧ canonical s = true ∧ s.nvm.run = some r ∧ r.content < 10 ∧ r.slot < 3 ∧ s.nvm.inForce.length = 10 ∧ ((a < (slotBase r.content r.slot) ∨ (slotBase r.content r.slot) + 64 + r.body.length ≤ a))) ∧
    (∃ (r : StoreRun) (s : State) (a : _), awake s = true ∧ canonical s = true ∧ s.nvm.run = some r ∧ r.content < 10 ∧ r.slot < 3 ∧ s.nvm.inForce.length = 10 ∧ (slotBase r.content r.slot) ≤ a ∧ a < (slotBase r.content r.slot) + 64 + r.body.length) :=
  ⟨⟨({ content := 9, slot := 0, gen := 3, body := [1,2,3,0,5] } : StoreRun), ({ up with nvm := { up.nvm with run := some { content := 9, slot := 0, gen := 3, body := [1,2,3,0,5] } } } : State), (slotBase 9 0 - 1), by decide +kernel⟩,
    ⟨({ content := 9, slot := 0, gen := 3, body := [1,2,3,0,5] } : StoreRun), ({ up with nvm := { up.nvm with run := some { content := 9, slot := 0, gen := 3, body := [1,2,3,0,5] } } } : State), (slotBase 9 0), by decide +kernel⟩⟩

/-- The hypotheses of clause 4 of StoresAndTests can be met. -/
theorem wit_StoresAndTests_3 :
    (∃ (mp : Byte) (z : Byte) (count : Nat) (start : Nat) (rq : Rq) (s : State), admits 0x70 rq s = true ∧ count < 65536 ∧ start < 2 ^ 32 ∧ rq.payload = [mp, z] ++ le 2 count ++ le 4 start ∧ mp = 0 ∧ 1 ≤ count ∧ count ≤ 254) ∧
    (∃ (mp : Byte) (z : Byte) (count : Nat) (start : Nat) (rq : Rq) (s : State), admits 0x70 rq s = true ∧ count < 65536 ∧ start < 2 ^ 32 ∧ rq.payload = [mp, z] ++ le 2 count ++ le 4 start ∧ mp = 1 ∧ 1 ≤ count ∧ count ≤ 1016) ∧
    (∃ (mp : Byte) (z : Byte) (count : Nat) (start : Nat) (rq : Rq) (s : State), admits 0x70 rq s = true ∧ count < 65536 ∧ start < 2 ^ 32 ∧ rq.payload = [mp, z] ++ le 2 count ++ le 4 start ∧ ((count = 0 ∨ 1 < mp.toNat ∨ (mp = 0 ∧ 254 < count) ∨ (mp = 1 ∧ 1016 < count)))) :=
  ⟨⟨0, 0, 254, 0, (mk ([0, 0] ++ le 2 (254) ++ le 4 (0))), ({ up with diag := { up.diag with defects := [{ pix := 4 }, { pix := 9, type := 3 }] } } : State), by decide +kernel⟩,
    ⟨1, 0, 1016, 129599, (mk ([1, 0] ++ le 2 (1016) ++ le 4 (129599))), ({ up with diag := { up.diag with defects := [{ pix := 4 }, { pix := 9, type := 3 }] } } : State), by decide +kernel⟩,
    ⟨0, 0, 255, 0, (mk ([0, 0] ++ le 2 (255) ++ le 4 (0))), ({ up with diag := { up.diag with defects := [{ pix := 4 }, { pix := 9, type := 3 }] } } : State), by decide +kernel⟩⟩

/-- The hypotheses of clause 5 of StoresAndTests can be met. -/
theorem wit_StoresAndTests_4 :
    (∃ (w : Nat) (i : Nat) (act : Byte) (f : Byte) (y : Byte) (z : Byte) (rq : Rq) (s : State), admits 0x71 rq s = true ∧ s.pwr.mode ≠ .snuffed ∧ w < 2 ^ 32 ∧ pixOfWord w = some i ∧ rq.payload = le 4 w ++ [act, f, y, z] ∧ act = 0 ∧ s.diag.test = none ∧ (¬(inDpr s i = true ∧ f.toNat.testBit 0 = false)) ∧ handleFree s = true) ∧
    (∃ (w : Nat) (i : Nat) (act : Byte) (f : Byte) (y : Byte) (z : Byte) (rq : Rq) (s : State), admits 0x71 rq s = true ∧ s.pwr.mode ≠ .snuffed ∧ w < 2 ^ 32 ∧ pixOfWord w = some i ∧ rq.payload = le 4 w ++ [act, f, y, z] ∧ act = 1 ∧ s.diag.test = none ∧ (¬(inDpr s i = true ∧ f.toNat.testBit 0 = false)) ∧ (¬(∃ d ∈ s.diag.defects, d.pix = i ∧ (d.type = 3 ∨ d.type = 5))) ∧ handleFree s = true) ∧
    (∃ (w : Nat) (i : Nat) (act : Byte) (f : Byte) (y : Byte) (z : Byte) (rq : Rq) (s : State), admits 0x71 rq s = true ∧ s.pwr.mode ≠ .snuffed ∧ w < 2 ^ 32 ∧ pixOfWord w = some i ∧ rq.payload = le 4 w ++ [act, f, y, z] ∧ act = 0 ∧ s.diag.test = none ∧ ((inDpr s i = true ∧ f.toNat.testBit 0 = false))) ∧
    (∃ (w : Nat) (i : Nat) (act : Byte) (f : Byte) (y : Byte) (z : Byte) (rq : Rq) (s : State), admits 0x71 rq s = true ∧ s.pwr.mode ≠ .snuffed ∧ w < 2 ^ 32 ∧ pixOfWord w = some i ∧ rq.payload = le 4 w ++ [act, f, y, z] ∧ act = 1 ∧ s.diag.test = none ∧ ((∃ d ∈ s.diag.defects, d.pix = i ∧ (d.type = 3 ∨ d.type = 5)))) ∧
    (∃ (w : Nat) (i : Nat) (act : Byte) (f : Byte) (y : Byte) (z : Byte) (rq : Rq) (s : State), admits 0x71 rq s = true ∧ s.pwr.mode ≠ .snuffed ∧ w < 2 ^ 32 ∧ pixOfWord w = some i ∧ rq.payload = le 4 w ++ [act, f, y, z] ∧ act = 2 ∧ s.diag.test = none ∧ isDefect s i = true) ∧
    (∃ (w : Nat) (i : Nat) (act : Byte) (f : Byte) (y : Byte) (z : Byte) (rq : Rq) (s : State), admits 0x71 rq s = true ∧ s.pwr.mode ≠ .snuffed ∧ w < 2 ^ 32 ∧ pixOfWord w = some i ∧ rq.payload = le 4 w ++ [act, f, y, z] ∧ act = 2 ∧ s.diag.test = none ∧ isDefect s i = false) ∧
    (∃ (w : Nat) (i : Nat) (act : Byte) (f : Byte) (y : Byte) (z : Byte) (rq : Rq) (s : State), admits 0x71 rq s = true ∧ s.pwr.mode ≠ .snuffed ∧ w < 2 ^ 32 ∧ pixOfWord w = some i ∧ rq.payload = le 4 w ++ [act, f, y, z] ∧ s.diag.test ≠ none ∧ act.toNat ≤ 2) :=
  ⟨⟨(pixWord 4), 4, 0, 0, 0, 0, (mk (le 4 (pixWord 4) ++ [0, 0, 0, 0])), ({ up with diag := { up.diag with defects := [{ pix := 4 }, { pix := 9, type := 3 }] } } : State), by decide +kernel⟩,
    ⟨(pixWord 4), 4, 1, 0, 0, 0, (mk (le 4 (pixWord 4) ++ [1, 0, 0, 0])), ({ up with diag := { up.diag with defects := [{ pix := 4 }, { pix := 9, type := 3 }] } } : State), by decide +kernel⟩,
    ⟨(pixWord 4), 4, 0, 0, 0, 0, (mk (le 4 (pixWord 4) ++ [0, 0, 0, 0])), ({ up with diag := { up.diag with dprEn := 1, dpr := up.diag.dpr.set 0 { c0 := 0, r0 := 0, c1 := 1439, r1 := 719 } } } : State), by decide +kernel⟩,
    ⟨(pixWord 9), 9, 1, 0, 0, 0, (mk (le 4 (pixWord 9) ++ [1, 0, 0, 0])), ({ up with diag := { up.diag with defects := [{ pix := 4 }, { pix := 9, type := 3 }] } } : State), by decide +kernel⟩,
    ⟨(pixWord 4), 4, 2, 0, 0, 0, (mk (le 4 (pixWord 4) ++ [2, 0, 0, 0])), ({ up with diag := { up.diag with defects := [{ pix := 4 }, { pix := 9, type := 3 }] } } : State), by decide +kernel⟩,
    ⟨(pixWord 4), 4, 2, 0, 0, 0, (mk (le 4 (pixWord 4) ++ [2, 0, 0, 0])), ({ up with diag := { up.diag with dprEn := 1, dpr := up.diag.dpr.set 0 { c0 := 0, r0 := 0, c1 := 1439, r1 := 719 } } } : State), by decide +kernel⟩,
    ⟨(pixWord 4), 4, 0, 0, 0, 0, (mk (le 4 (pixWord 4) ++ [0, 0, 0, 0])), ({ up with diag := { up.diag with test := some { pix := 3 } } } : State), by decide +kernel⟩⟩

/-- The hypotheses of clause 1 of ThermalRules can be met. -/
theorem wit_ThermalRules_0 :
    (∃ (rq : Rq) (s : State), admits 0x90 rq s = true ∧ rq.payload.length = 8 ∧ thermFieldsOk (rq.payload) = false) ∧
    (∃ (rq : Rq) (s : State), admits 0x90 rq s = true ∧ rq.payload.length = 8 ∧ thermFieldsOk (rq.payload) = true ∧ (field (rq.payload) 1 1).testBit 2 = true ∧ s.thm.nvmOpen = false) ∧
    (∃ (rq : Rq) (s : State), admits 0x90 rq s = true ∧ rq.payload.length = 8 ∧ thermFieldsOk (rq.payload) = true ∧ (field (rq.payload) 1 1).testBit 2 = false) ∧
    (∃ (rq : Rq) (s : State), admits 0x90 rq s = true ∧ rq.payload.length = 8 ∧ thermFieldsOk (rq.payload) = true ∧ (field (rq.payload) 1 1).testBit 2 = true ∧ s.thm.nvmOpen = true) :=
  ⟨⟨(mk ([84,0] ++ le 2 2000 ++ le 4 1000)), up, by decide +kernel⟩,
    ⟨(mk ([85,4] ++ le 2 2000 ++ le 4 1000)), ({ up with thm := { up.thm with nvmOpen := false, deferReplies := 65535 } } : State), by decide +kernel⟩,
    ⟨(mk ([85,0] ++ le 2 2000 ++ le 4 1000)), up, by decide +kernel⟩,
    ⟨(mk ([85,4] ++ le 2 2000 ++ le 4 1000)), up, by decide +kernel⟩⟩

/-- The hypotheses of clause 2 of ThermalRules can be met. -/
theorem wit_ThermalRules_1 :
    (∃ (v : List Int) (s : State) (n : Nat) (x : Sensor) (a : Int), v.length = 36 ∧ awake s = true ∧ s.pwr.ldoOk = true ∧ s.thm.sensors[n]? = some x ∧ v[n]? = some a ∧ x.excluded = true) ∧
    (∃ (v : List Int) (s : State) (n : Nat) (x : Sensor) (a : Int), v.length = 36 ∧ awake s = true ∧ s.pwr.ldoOk = true ∧ s.thm.sensors[n]? = some x ∧ v[n]? = some a ∧ x.excluded = false ∧ -440 ≤ a ∧ a ≤ 1600 ∧ ((x.seen = false ∨ (a - x.temp).natAbs ≤ 80))) ∧
    (∃ (v : List Int) (s : State) (n : Nat) (x : Sensor) (a : Int), v.length = 36 ∧ awake s = true ∧ s.pwr.ldoOk = true ∧ s.thm.sensors[n]? = some x ∧ v[n]? = some a ∧ x.excluded = false ∧ ((a < -440 ∨ 1600 < a ∨ (x.seen = true ∧ 80 < (a - x.temp).natAbs)))) ∧
    (∃ (v : List Int) (s : State), v.length = 36 ∧ awake s = true ∧ s.pwr.ldoOk = true ∧ condIs 0x0701 0 s = false) :=
  ⟨⟨(List.replicate 36 200).set 35 (-440), ({ up with thm := { up.thm with sensors := List.replicate 36 { temp := 200, seen := true, excluded := true }, pendCfg := some { autoRekindle := true } } } : State), 35, ((({ up with thm := { up.thm with sensors := List.replicate 36 { temp := 200, seen := true, excluded := true }, pendCfg := some { autoRekindle := true } } } : State)).thm.sensors.getD 35 {}), ((-440) : Int), by decide +kernel⟩,
    ⟨(List.replicate 36 200).set 35 (-440), up, 35, ((up).thm.sensors.getD 35 {}), ((-440) : Int), by decide +kernel⟩,
    ⟨(List.replicate 36 200).set 35 (-440), ({ up with thm := { up.thm with sensors := List.replicate 36 { temp := 200, seen := true, bad := 2 } } } : State), 35, ((({ up with thm := { up.thm with sensors := List.replicate 36 { temp := 200, seen := true, bad := 2 } } } : State)).thm.sensors.getD 35 {}), ((-440) : Int), by decide +kernel⟩,
    ⟨(List.replicate 36 200).set 35 (1600), up, by decide +kernel⟩⟩

/-- The hypotheses of clause 3 of ThermalRules can be met. -/
theorem wit_ThermalRules_2 :
    (∃ (s : State), awake s = true ∧ s.pwr.mode ≠ .kindle ∧ -216 ≤ s.thm.tS ∧ s.thm.tS ≤ 976) :=
  ⟨({ up with thm := { up.thm with tS := -216 } } : State), by decide +kernel⟩

/-- The hypotheses of clause 4 of ThermalRules can be met. -/
theorem wit_ThermalRules_3 :
    (∃ (s : State), ((awake s = false ∨ s.pwr.mode = .kindle ∨ s.thm.tS < -216 ∨ 976 < s.thm.tS))) :=
  ⟨({ up with thm := { up.thm with tS := 977 } } : State), by decide +kernel⟩

/-- The hypotheses of clause 5 of ThermalRules can be met. -/
theorem wit_ThermalRules_4 :
    (∃ (s : State), awake s = true ∧ s.thm.derateCond = 1 ∧ 4 < s.thm.f) ∧
    (∃ (s : State), awake s = true ∧ s.thm.derateCond = 2 ∧ s.thm.f < topF s) ∧
    (∃ (s : State), awake s = true ∧ ((s.thm.derateCond = 0 ∨ (s.thm.derateCond = 1 ∧ s.thm.f ≤ 4) ∨ (s.thm.derateCond = 2 ∧ topF s ≤ s.thm.f)))) :=
  ⟨⟨({ up with thm := { up.thm with derateCond := 1, f := 5 } } : State), by decide +kernel⟩,
    ⟨({ up with thm := { up.thm with derateCond := 2, f := 4 } } : State), by decide +kernel⟩,
    ⟨({ up with thm := { up.thm with derateCond := 0, f := 4 } } : State), by decide +kernel⟩⟩

/-- The hypotheses of clause 6 of ThermalRules can be met. -/
theorem wit_ThermalRules_5 :
    (∃ (rq : Rq) (s : State), admits 0x91 rq s = true ∧ rq.payload = [] ∧ shaped s = true ∧ ((condPresent s.flt 0x0701 = false ∨ 1040 ≤ s.thm.tS))) ∧
    (∃ (rq : Rq) (s : State), admits 0x91 rq s = true ∧ rq.payload = [] ∧ shaped s = true ∧ condPresent s.flt 0x0701 = true ∧ s.thm.tS < 1040) :=
  ⟨⟨(mk []), up, by decide +kernel⟩,
    ⟨(mk []), (hot 1039 up), by decide +kernel⟩⟩

/-- The hypotheses of clause 7 of ThermalRules can be met. -/
theorem wit_ThermalRules_6 :
    (∃ (s : State), awake s = true ∧ shaped s = true ∧ s.thm.cfg.autoRekindle = true ∧ condPresent s.flt 0x0701 = true ∧ s.thm.tS < 1040) :=
  ⟨(let s := hot 1039 up; { s with thm := { s.thm with cfg := { s.thm.cfg with autoRekindle := true } } }), by decide +kernel⟩

/-- The hypotheses of clause 8 of ThermalRules can be met. -/
theorem wit_ThermalRules_7 :
    (∃ (s : State), ((awake s = false ∨ s.thm.cfg.autoRekindle = false ∨ condPresent s.flt 0x0701 = false ∨ 1040 ≤ s.thm.tS))) :=
  ⟨(let s := up; { s with thm := { s.thm with cfg := { s.thm.cfg with autoRekindle := false } } }), by decide +kernel⟩

/-- The hypotheses of clause 9 of ThermalRules can be met. -/
theorem wit_ThermalRules_8 :
    (∃ (code : Nat) (s : State), code < 4096 ∧ awake s = true ∧ s.thm.cfg.ntcEn = true ∧ 16 < code ∧ code < 4080 ∧ 1 ≤ s.thm.cfg.beta ∧ 10000 * code = (4096 - code) * s.thm.cfg.res) ∧
    (∃ (code : Nat) (s : State), code < 4096 ∧ awake s = true ∧ s.thm.cfg.ntcEn = true ∧ ((code ≤ 16 ∨ 4080 ≤ code)) ∧ s.thm.ntcBad = true) :=
  ⟨⟨2048, ({ up with thm := { up.thm with ntcBad := true, cfg := { up.thm.cfg with ntcEn := true, beta := 3435, res := 10000 } } } : State), by decide +kernel⟩,
    ⟨16, ({ up with thm := { up.thm with ntcBad := true, cfg := { up.thm.cfg with ntcEn := true, beta := 3435, res := 10000 } } } : State), by decide +kernel⟩⟩

/-- The hypotheses of clause 1 of ScarAreaKeepsShutdowns can be met. -/
theorem wit_ScarAreaKeepsShutdowns_0 :
    (∃ (r : Rec) (s : State) (n : _), awake s = true ∧ canonical s = true ∧ s.thm.tripRec = some r ∧ scarNewest s 1 0 = some n) :=
  ⟨({ code := 0x701, level := 4, p0 := 9 } : Rec), ({ trip2 with thm := { trip2.thm with tripRec := some { code := 0x701, level := 4, p0 := 9 } } } : State), ((scarNewest (({ trip2 with thm := { trip2.thm with tripRec := some { code := 0x701, level := 4, p0 := 9 } } } : State)) 1 0).getD 0), by decide +kernel⟩

/-- The hypotheses of clause 2 of ScarAreaKeepsShutdowns can be met. -/
theorem wit_ScarAreaKeepsShutdowns_1 :
    (∃ (i : Nat) (b : List Byte) (q : List (Nat × List Byte)) (s : State), awake s = true ∧ canonical s = true ∧ s.thm.scarWriting = (i, b) :: q ∧ b.length = 64 ∧ i < 8) ∧
    (∃ (i : Nat) (b : List Byte) (q : List (Nat × List Byte)) (s : State), awake s = true ∧ canonical s = true ∧ s.thm.scarWriting = (i, b) :: q ∧ b.length = 64 ∧ 8 ≤ i) :=
  ⟨⟨0, (trip1.thm.scarWriting.getLast!).2, [], trip1, by decide +kernel⟩,
    ⟨15, (List.replicate 64 7), [(0,[])], ({ up with thm := { up.thm with scarWriting := [(15,List.replicate 64 7),(0,[])] } } : State), by decide +kernel⟩⟩

/-- The hypotheses of clause 3 of ScarAreaKeepsShutdowns can be met. -/
theorem wit_ScarAreaKeepsShutdowns_2 :
    (∃ (s : State), ((awake s = false ∨ ramOnly s = true))) :=
  ⟨({ trip2 with evr := { trip2.evr with state := 2 } } : State), by decide +kernel⟩

/-- The hypotheses of clause 4 of ScarAreaKeepsShutdowns can be met. -/
theorem wit_ScarAreaKeepsShutdowns_3 :
    (∃ (s : State), awake s = true ∧ ramOnly s = false ∧ s.thm.nvmOpen = false) :=
  ⟨({ trip2 with thm := { trip2.thm with nvmOpen := false, deferStores := 65535 } } : State), by decide +kernel⟩

/-- The hypotheses of clause 5 of ScarAreaKeepsShutdowns can be met. -/
theorem wit_ScarAreaKeepsShutdowns_4 :
    (∃ (i : Nat) (s : State), awake s = true ∧ ramOnly s = false ∧ s.thm.nvmOpen = true ∧ copyOrder s 1 0 = [i] ∧ copyOrder s 2 8 = [] ∧ s.evr.queue.length < 64) :=
  ⟨0, trip2, by decide +kernel⟩

/-- The hypotheses of clause 6 of ScarAreaKeepsShutdowns can be met. -/
theorem wit_ScarAreaKeepsShutdowns_5 :
    (∃ (r : Rec) (q : List Rec) (i : Nat) (s : State), canonical s = true ∧ s.evr.queue = r :: q ∧ ringsOpen s = true ∧ s.nvm.badWords = [] ∧ r.cell = some i ∧ s.evr.headMain = false ∧ ((cairnEligible r = false ∨ s.evr.headCairn = true)) ∧ s.evr.mainNext < 31744) :=
  ⟨({ code := 0x701, level := 2, p0 := 9, cell := some 3 } : Rec), [{}], 3, ({ up with evr := { up.evr with headCairn := true, queue := [{ code := 0x701, level := 2, p0 := 9, cell := some 3 },{}] } } : State), by decide +kernel⟩

/-- The hypotheses of clause 1 of RecorderWritesRings can be met. -/
theorem wit_RecorderWritesRings_0 :
    (∃ (s : State), s.evr.queue.length < 64) ∧
    (∃ (s : State), s.evr.queue.length ≤ 64) ∧
    (∃ (r : Rec) (s : State), s.evr.queue.length = 64 ∧ ramOnly s = false ∧ cairnEligible r = false) :=
  ⟨⟨({ up with evr := { up.evr with queue := List.replicate 0 { code := 0x702, level := 2 } } } : State), by decide +kernel⟩,
    ⟨({ up with evr := { up.evr with queue := List.replicate 0 { code := 0x702, level := 2 } } } : State), by decide +kernel⟩,
    ⟨({ code := 0x701, level := 2, p0 := 9 } : Rec), ({ up with evr := { up.evr with queue := List.replicate 64 { code := 0x702, level := 2 } } } : State), by decide +kernel⟩⟩

/-- The hypotheses of clause 2 of RecorderWritesRings can be met. -/
theorem wit_RecorderWritesRings_1 :
    (∃ (r : Rec) (q : List Rec) (s : State), canonical s = true ∧ s.evr.queue = r :: q ∧ ringsOpen s = true ∧ s.nvm.badWords = [] ∧ s.evr.headMain = false ∧ s.evr.mainNext < 31744 ∧ ((cairnEligible r = false ∨ s.evr.headCairn = true))) ∧
    (∃ (r : Rec) (q : List Rec) (s : State), canonical s = true ∧ s.evr.queue = r :: q ∧ ringsOpen s = true ∧ s.nvm.badWords = [] ∧ s.evr.headMain = false ∧ s.evr.mainNext < 31744 ∧ cairnEligible r = true ∧ s.evr.headCairn = false) ∧
    (∃ (r : Rec) (q : List Rec) (s : State), canonical s = true ∧ s.evr.queue = r :: q ∧ ringsOpen s = true ∧ s.nvm.badWords = [] ∧ s.evr.headCairn = false ∧ cairnEligible r = true ∧ s.evr.cairnNext < 1024 ∧ s.evr.headMain = true) ∧
    (∃ (r : Rec) (q : List Rec) (s : State), canonical s = true ∧ s.evr.queue = r :: q ∧ ringsOpen s = true ∧ s.nvm.badWords = [] ∧ (s.evr.headMain = true)) ∧
    (∃ (r : Rec) (q : List Rec) (s : State), canonical s = true ∧ s.evr.queue = r :: q ∧ ringsOpen s = true ∧ s.nvm.badWords = [] ∧ ((s.evr.headCairn = true ∨ cairnEligible r = false))) :=
  ⟨⟨({ code := 0x701, level := 2, p0 := 9 } : Rec), [{}], ({ up with evr := { up.evr with queue := [{ code := 0x701, level := 2, p0 := 9 },{}], headMain := false, headCairn := true, mainNext := 31743, cairnNext := 1023 } } : State), by decide +kernel⟩,
    ⟨({ code := 0x701, level := 4, p0 := 9 } : Rec), [{}], ({ up with evr := { up.evr with queue := [{ code := 0x701, level := 4, p0 := 9 },{}], headMain := false, headCairn := false, mainNext := 31743, cairnNext := 1023 } } : State), by decide +kernel⟩,
    ⟨({ code := 0x701, level := 4, p0 := 9 } : Rec), [{}], ({ up with evr := { up.evr with queue := [{ code := 0x701, level := 4, p0 := 9 },{}], headMain := true, headCairn := false, mainNext := 31743, cairnNext := 1023 } } : State), by decide +kernel⟩,
    ⟨({ code := 0x701, level := 2, p0 := 9 } : Rec), [{}], ({ up with evr := { up.evr with queue := [{ code := 0x701, level := 2, p0 := 9 },{}], headMain := true, headCairn := true, mainNext := 31743, cairnNext := 1023 } } : State), by decide +kernel⟩,
    ⟨({ code := 0x701, level := 2, p0 := 9 } : Rec), [{}], ({ up with evr := { up.evr with queue := [{ code := 0x701, level := 2, p0 := 9 },{}], headMain := true, headCairn := true, mainNext := 31743, cairnNext := 1023 } } : State), by decide +kernel⟩⟩

/-- The hypotheses of clause 3 of RecorderWritesRings can be met. -/
theorem wit_RecorderWritesRings_2 :
    (∃ (r : Rec) (q : List Rec) (s : State), s.evr.queue = r :: q ∧ awake s = true ∧ s.evr.state = 0 ∧ s.evr.scanDone = true ∧ s.thm.nvmOpen = false) :=
  ⟨({ code := 0x701, level := 3, p0 := 9 } : Rec), [{}], ({ up with thm := { up.thm with nvmOpen := false, deferStores := 65535 }, evr := { up.evr with headDeferred := true, queue := [{ code := 0x701, level := 3, p0 := 9 },{}] } } : State), by decide +kernel⟩

/-- The hypotheses of clause 4 of RecorderWritesRings can be met. -/
theorem wit_RecorderWritesRings_3 :
    (∃ (s : State), awake s = true ∧ s.evr.dropsSum ≠ 0 ∧ ramOnly s = false ∧ s.evr.queue.length < 64 ∧ ((s.evr.queue.length ≤ 56 ∨ ((s.evr.firstDrop).any fun x => decide (x + 1 ≤ s.ao.seconds)) = true))) :=
  ⟨({ up with evr := { up.evr with drops := up.evr.drops.set 3 { count := 4, pending := 2 }, dropsSum := 4294967298, dropsPilot := 1 } } : State), by decide +kernel⟩

/-- The hypotheses of clause 5 of RecorderWritesRings can be met. -/
theorem wit_RecorderWritesRings_4 :
    (∃ (s : State), ((awake s = false ∨ s.evr.dropsSum = 0 ∨ ramOnly s = true ∨ 64 ≤ s.evr.queue.length))) :=
  ⟨up, by decide +kernel⟩

/-- The hypotheses of clause 6 of RecorderWritesRings can be met. -/
theorem wit_RecorderWritesRings_5 :
    (∃ (a : Byte) (c : Byte) (x : Byte) (y : Byte) (start : Nat) (rq : Rq) (s : State), admits 0x60 rq s = true ∧ rq.payload = [a, c, x, y] ++ le 4 start ∧ start < 2 ^ 32 ∧ a = 2 ∧ 1 ≤ c.toNat ∧ c.toNat ≤ 31 ∧ start < 64) ∧
    (∃ (a : Byte) (c : Byte) (x : Byte) (y : Byte) (start : Nat) (rq : Rq) (s : State), admits 0x60 rq s = true ∧ rq.payload = [a, c, x, y] ++ le 4 start ∧ start < 2 ^ 32 ∧ a.toNat < 2 ∧ 1 ≤ c.toNat ∧ c.toNat ≤ 31 ∧ start < 1024 ∧ ((s.evr.scanDone = false ∨ ramOnly s = true))) ∧
    (∃ (a : Byte) (c : Byte) (x : Byte) (y : Byte) (start : Nat) (rq : Rq) (s : State), admits 0x60 rq s = true ∧ rq.payload = [a, c, x, y] ++ le 4 start ∧ start < 2 ^ 32 ∧ a.toNat < 2 ∧ 1 ≤ c.toNat ∧ c.toNat ≤ 31 ∧ start < (if a = 0 then 31744 else 1024) ∧ s.evr.scanDone = true ∧ ramOnly s = false) ∧
    (∃ (a : Byte) (c : Byte) (x : Byte) (y : Byte) (start : Nat) (rq : Rq) (s : State), admits 0x60 rq s = true ∧ rq.payload = [a, c, x, y] ++ le 4 start ∧ start < 2 ^ 32 ∧ ((a = 2 ∧ 64 ≤ start) ∨ (a = 1 ∧ 1024 ≤ start) ∨ (a = 0 ∧ 31744 ≤ start))) ∧
    (∃ (a : Byte) (c : Byte) (x : Byte) (y : Byte) (start : Nat) (rq : Rq) (s : State), admits 0x60 rq s = true ∧ rq.payload = [a, c, x, y] ++ le 4 start ∧ start < 2 ^ 32 ∧ ((2 < a.toNat ∨ c = 0 ∨ 31 < c.toNat))) :=
  ⟨⟨2, 31, 0, 0, 0, (mk ([2, 31, 0, 0] ++ le 4 (0))), ({ up with evr := { up.evr with queue := [{ code := 0x701, level := 3, p0 := 9 },{}] } } : State), by decide +kernel⟩,
    ⟨0, 1, 0, 0, 1023, (mk ([0, 1, 0, 0] ++ le 4 (1023))), ({ up with evr := { up.evr with scanDone := false } } : State), by decide +kernel⟩,
    ⟨0, 2, 0, 0, 5, (mk ([0, 2, 0, 0] ++ le 4 (5))), ({ up with evr := { up.evr with queue := [{ code := 0x701, level := 3, p0 := 9 },{}] } } : State), by decide +kernel⟩,
    ⟨2, 1, 0, 0, 64, (mk ([2, 1, 0, 0] ++ le 4 (64))), ({ up with evr := { up.evr with queue := [{ code := 0x701, level := 3, p0 := 9 },{}] } } : State), by decide +kernel⟩,
    ⟨3, 1, 0, 0, 0, (mk ([3, 1, 0, 0] ++ le 4 (0))), ({ up with evr := { up.evr with queue := [{ code := 0x701, level := 3, p0 := 9 },{}] } } : State), by decide +kernel⟩⟩

/-- The hypotheses of clause 7 of RecorderWritesRings can be met. -/
theorem wit_RecorderWritesRings_6 :
    (∃ (f : Byte) (x : Byte) (count : Nat) (off : Nat) (rq : Rq) (s : State), admits 0x61 rq s = true ∧ rq.payload = [f, x] ++ le 2 count ++ le 4 off ∧ count < 65536 ∧ off < 2 ^ 32 ∧ 4 ≤ count ∧ count ≤ 1016 ∧ count % 4 = 0 ∧ off % 4 = 0 ∧ off + count ≤ 4096 ∧ f = 0) ∧
    (∃ (f : Byte) (x : Byte) (count : Nat) (off : Nat) (rq : Rq) (s : State), admits 0x61 rq s = true ∧ rq.payload = [f, x] ++ le 2 count ++ le 4 off ∧ count < 65536 ∧ off < 2 ^ 32 ∧ 4 ≤ count ∧ count ≤ 1016 ∧ count % 4 = 0 ∧ off % 4 = 0 ∧ off + count ≤ 4096 ∧ f = 1 ∧ s.nvm.inForce.getD 9 3 ≠ 3) ∧
    (∃ (f : Byte) (x : Byte) (count : Nat) (off : Nat) (rq : Rq) (s : State), admits 0x61 rq s = true ∧ rq.payload = [f, x] ++ le 2 count ++ le 4 off ∧ count < 65536 ∧ off < 2 ^ 32 ∧ 4 ≤ count ∧ count ≤ 1016 ∧ count % 4 = 0 ∧ off % 4 = 0 ∧ off + count ≤ 4096 ∧ f = 1 ∧ s.nvm.inForce.getD 9 3 = 3) :=
  ⟨⟨0, 0, 4, 0, (mk ([0, 0] ++ le 2 (4) ++ le 4 (0))), up, by decide +kernel⟩,
    ⟨1, 0, 4, 4092, (mk ([1, 0] ++ le 2 (4) ++ le 4 (4092))), ({ up with nvm := { up.nvm with inForce := up.nvm.inForce.set 9 1 } } : State), by decide +kernel⟩,
    ⟨1, 0, 4, 4092, (mk ([1, 0] ++ le 2 (4) ++ le 4 (4092))), up, by decide +kernel⟩⟩

/-- The hypotheses of clause 1 of LifetimeCounts can be met. -/
theorem wit_LifetimeCounts_0 :
    (∃ (s : State), ((s.nvm.retry = [] ∨ awake s = false))) :=
  ⟨({ up with ao := { up.ao with seconds := 4294967295 } } : State), by decide +kernel⟩

/-- The hypotheses of clause 2 of LifetimeCounts can be met. -/
theorem wit_LifetimeCounts_1 :
    (∃ (r : StoreReq) (s : State), awake s = true ∧ s.nvm.retry = [r] ∧ ((∀ q ∈ s.nvm.queue, q.content ≠ r.content))) :=
  ⟨({ content := 9, patch := [(1,[2])] } : StoreReq), ({ up with nvm := { up.nvm with retry := [{ content := 9, patch := [(1,[2])] }], queue := [{ content := 3 }] } } : State), by decide +kernel⟩

/-- The hypotheses of clause 3 of LifetimeCounts can be met. -/
theorem wit_LifetimeCounts_2 :
    (∃ (n : Nat) (s : State), awake s = true ∧ s.evr.life.modeS[modeCode s.pwr.mode]? = some n ∧ s.pwr.dark = true) :=
  ⟨(((({ up with pwr := { up.pwr with dark := true }, evr := { up.evr with sinceS := 65535 } } : State)).evr.life.modeS[modeCode (({ up with pwr := { up.pwr with dark := true }, evr := { up.evr with sinceS := 65535 } } : State)).pwr.mode]?).getD 0), ({ up with pwr := { up.pwr with dark := true }, evr := { up.evr with sinceS := 65535 } } : State), by decide +kernel⟩

/-- The hypotheses of clause 4 of LifetimeCounts can be met. -/
theorem wit_LifetimeCounts_3 :
    (∃ (s : State), awake s = true ∧ s.evr.state ≠ 3 ∧ s.evr.sinceS < 60) ∧
    (∃ (s : State), awake s = true ∧ s.evr.state ≠ 3 ∧ 60 ≤ s.evr.sinceS ∧ ((∀ q ∈ s.nvm.queue, q.content ≠ 9))) :=
  ⟨⟨({ up with evr := { up.evr with sinceS := 59 } } : State), by decide +kernel⟩,
    ⟨({ up with evr := { up.evr with sinceS := 60 } } : State), by decide +kernel⟩⟩

/-- The hypotheses of clause 5 of LifetimeCounts can be met. -/
theorem wit_LifetimeCounts_4 :
    (∃ (s : State), litTime s = true) :=
  ⟨up, by decide +kernel⟩

/-- The hypotheses of clause 6 of LifetimeCounts can be met. -/
theorem wit_LifetimeCounts_5 :
    (∃ (s : State), litTime s = false) :=
  ⟨(kin 2), by decide +kernel⟩

/-- The hypotheses of clause 7 of LifetimeCounts can be met. -/
theorem wit_LifetimeCounts_6 :
    (∃ (s : State), awake s = true ∧ s.nvm.run = none ∧ ((∀ q ∈ s.nvm.queue, q.content ≠ 3)) ∧ 600 ≤ s.map.sinceCommitS) ∧
    (∃ (s : State), awake s = true ∧ s.nvm.run = none ∧ ((∀ q ∈ s.nvm.queue, q.content ≠ 3)) ∧ s.map.sinceCommitS < 600) :=
  ⟨⟨({ up with map := { up.map with sinceCommitS := 600 } } : State), by decide +kernel⟩,
    ⟨({ up with map := { up.map with sinceCommitS := 599 } } : State), by decide +kernel⟩⟩

/-- The hypotheses of QueueRunsOn can be met. -/
theorem wit_QueueRunsOn : ∃ s : State, s.pending ≠ [] ∧ queueWellFormed s = true :=
  ⟨{ up with pending := [.composeLatch, .wakePin true] }, by decide +kernel⟩

/-- The hypotheses of BankHandovers about HANDOVER_COMPLETE can be met: with another bank still handed over, and as the last one. -/
theorem wit_BankHandovers_complete :
    (∃ (n u : Nat) (k : Bank) (s : State), n < 64 ∧ s.mem.banks[n]? = some k ∧ k.handover = some u ∧
      ∃ m k', m ≠ n ∧ s.mem.banks[m]? = some k' ∧ k'.handover ≠ none) ∧
    (∃ (n u : Nat) (k : Bank) (s : State), n < 64 ∧ s.mem.banks[n]? = some k ∧ k.handover = some u ∧
      (∀ m k', m ≠ n → s.mem.banks[m]? = some k' → k'.handover = none) ∧ s.mem.poolNext = none ∧ s.cmd.queue = []) := by
  refine ⟨⟨3, 3, { handover := some 3 }, bnk 3 { handover := some 3 } (bnk 4 { handover := some 0 } up), by decide +kernel, by decide +kernel,
    by decide +kernel, 4, { handover := some 0 }, by decide +kernel⟩,
    ⟨3, 3, { handover := some 3 }, bnk 3 { handover := some 3 } up, by decide +kernel, by decide +kernel, by decide +kernel, ?_,
      by decide +kernel, by decide +kernel⟩⟩
  intro m k' hm hk
  have all : ∀ i, i < 64 → i ≠ 3 → ((bnk 3 { handover := some 3 } up).mem.banks[i]?).all (fun k => k.handover = none) = true := by decide +kernel
  by_cases h : m < 64
  · have := all m h hm
    rw [hk] at this
    simpa using this
  · have : (bnk 3 { handover := some 3 } up).mem.banks.length = 64 := by decide +kernel
    rw [List.getElem?_eq_none (by omega)] at hk
    exact absurd hk (by simp)

/-- MRAM with the head of a body of area c alone. -/
def area0 (c : Nat) : List Host.Cell :=
  memWrite [] (slotBase c 2 + 64) (le 4 0x31505A55 ++ le 2 1440 ++ le 2 720 ++ le 1 4 ++ le 1 (c - 7))
/-- The first 12 bytes of that area's header. -/
def areaHead (c : Nat) : List Byte := le 4 1 ++ le 4 (bodyLen c) ++ le 1 c ++ le 1 1 ++ le 2 0
/-- The check value of that area, over a body of half a million bytes. -/
def areaCrc (c : Nat) : Nat := crc32 (areaHead c ++ memRead (area0 c) (slotBase c 2 + 64) (bodyLen c))
/-- MRAM with a valid pattern in area c. -/
def areaMram (c : Nat) : List Host.Cell :=
  memWrite (memWrite (area0 c) (slotBase c 2) (areaHead c ++ le 4 (areaCrc c))) (slotBase c 2 + 56) (le 8 commitWord)
/-- A device whose pattern area c is to be loaded anew. -/
def reloadAt (c : Nat) : State := { up with nvm := { up.nvm with reloads := [7, 8], mram := areaMram c } }

/-- That memory is canonical. -/
theorem areaMram_wf (c : Nat) : memWf (areaMram c) = true :=
  memWf_memWrite (memWf_memWrite (memWf_memWrite rfl))

/-- A check value has 32 bits. -/
theorem crc32_lt (l : List Byte) : crc32 l < 2 ^ 32 := by
  unfold crc32 crcOut
  exact Nat.mod_lt _ (by decide)

/-- The header and the commit word leave the body. -/
theorem area_body (c : Nat) (k : Nat) :
    memRead (areaMram c) (slotBase c 2 + 64) k = memRead (area0 c) (slotBase c 2 + 64) k := by
  unfold areaMram
  rw [memRead_memWrite_other (by rw [le_length]; omega), memRead_memWrite_other (by simp [areaHead, le_length])]

/-- The header reads back. -/
theorem area_head (c : Nat) :
    memRead (areaMram c) (slotBase c 2) 16 = areaHead c ++ le 4 (areaCrc c) := by
  unfold areaMram
  rw [memRead_memWrite_other (by omega)]
  have := memRead_memWrite_same (m := area0 c) (a := slotBase c 2) (bs := areaHead c ++ le 4 (areaCrc c)) (memWf_memWrite rfl)
  simpa [areaHead, le_length] using this

/-- The area is valid. -/
theorem area_valid (c : Nat) (h : c = 7 ∨ c = 8) : patternFault (reloadAt c) c = none := by
  have e := area_head c
  have a1 : memRead (areaMram c) (slotBase c 2) 12 = areaHead c := by
    rw [show (16 : Nat) = 12 + 4 from rfl, memRead_append] at e
    exact (List.append_inj e (by simp [areaHead, le_length])).1
  have a2 : memRead (areaMram c) (slotBase c 2 + 12) 4 = le 4 (areaCrc c) := by
    rw [show (16 : Nat) = 12 + 4 from rfl, memRead_append] at e
    exact (List.append_inj e (by simp [areaHead, le_length])).2
  have a4 : memRead (areaMram c) (slotBase c 2 + 4) 4 = le 4 (bodyLen c) := by
    rw [show (12 : Nat) = 4 + (4 + 4) from rfl, memRead_append, memRead_append] at a1
    have := (List.append_inj a1 (s₁ := memRead (areaMram c) (slotBase c 2) 4) (s₂ := le 4 1) (t₂ := le 4 (bodyLen c) ++ (le 1 c ++ le 1 1 ++ le 2 0)) (by simp [le_length])).2
    exact (List.append_inj this (by simp [le_length])).1
  have a8 : memRead (areaMram c) (slotBase c 2 + 8) 1 = le 1 c := by
    rw [show (12 : Nat) = 8 + (1 + 3) from rfl, memRead_append, memRead_append] at a1
    have := (List.append_inj a1 (s₁ := memRead (areaMram c) (slotBase c 2) 8) (s₂ := le 4 1 ++ le 4 (bodyLen c)) (t₂ := le 1 c ++ (le 1 1 ++ le 2 0)) (by simp [le_length])).2
    exact (List.append_inj this (by simp [le_length])).1
  have k : memRead (areaMram c) (slotBase c 2 + 56) 8 = le 8 commitWord :=
    memRead_memWrite_same (memWf_memWrite (memWf_memWrite rfl))
  have hm : (reloadAt c).nvm.mram = areaMram c := by simp only [reloadAt]
  have hw : (reloadAt c).nvm.badWords = [] := by simp only [reloadAt]; rfl
  have hc : slotCommitted (reloadAt c) c 2 = true := by
    simp only [slotCommitted, mramRead, hm, k, leVal_le]; rfl
  have hv : slotValid (reloadAt c) c 2 = true := by
    simp only [slotValid, hc, slotBody, mramRead, mramBad, hm, hw, a8, a4, a1, a2, leVal_le, area_body]
    have := crc32_lt (areaHead c ++ memRead (area0 c) (slotBase c 2 + 64) (bodyLen c))
    have h1 : c % 256 ^ 1 = c := by rcases h with rfl | rfl <;> rfl
    have h2 : bodyLen c % 256 ^ 4 = bodyLen c := by rcases h with rfl | rfl <;> rfl
    have h3 : areaCrc c % 256 ^ 4 = crc32 (areaHead c ++ memRead (area0 c) (slotBase c 2 + 64) (bodyLen c)) := Nat.mod_eq_of_lt this
    rw [h1, h2, h3]
    simp
  have hb : mramRead (reloadAt c) (slotBase c 2 + 64) 48 = memRead (area0 c) (slotBase c 2 + 64) 48 := by
    simp only [mramRead, hm]; exact area_body c 48
  unfold patternFault
  rw [hc, hv, hb]
  rcases h with rfl | rfl <;> decide +kernel

/-- The hypotheses of StoreAccesses about PATTERN_RELOAD can be met; the body is too long to be run through the check value here. -/
theorem wit_StoreAccesses_reload : ∀ belay : Bool, ∃ s : State,
    let c := if belay then 8 else 7
    awake s = true ∧ s.nvm.reloads.contains c = true ∧ areaLoading s c = false ∧ patternFault s c = none ∧ canonical s = true := by
  intro belay
  refine ⟨reloadAt (if belay then 8 else 7), by simp only [reloadAt]; rfl, by cases belay <;> simp [reloadAt],
    by simp only [areaLoading, reloadAt]; rfl,
    area_valid _ (by cases belay <;> simp), ?_⟩
  have := areaMram_wf (if belay then 8 else 7)
  simp only [canonical, reloadAt, this]
  rfl

end Sys2Proof.Tests
end

section
/-! The state after power-on reset (R415). -/

namespace Sys2Proof.Machine

/-- Settles O2: State.reset is a closed term, and each part of the statement is read off it by evaluation. -/
theorem resetState : Obligations.ResetState :=
  ⟨rfl, rfl, rfl, rfl, rfl, fun _ => rfl, rfl, rfl, rfl, rfl, rfl, rfl, rfl, rfl, rfl, rfl, rfl, rfl, rfl, rfl, rfl, rfl⟩

end Sys2Proof.Machine
end

section
/-! Events that record and nothing else; the frame timer: reference instants, holdover, the trim (R14 to R21). -/

namespace Sys2Proof.Machine

/-! ### Events that latch and do nothing else -/

/-- A code that brings no reaction of its own (R332) and no effect beside its record (R314, R438). -/
def quietCode (c : Nat) : Bool := 
  !([0x0111, 0x0303, 0x0902, 0x0701, 0x0E02, 0x0801, 0x0802, 0x0F04, 0x0F05] : List Nat).contains c

/-- Beside what recording touches the collector may change again. -/
theorem recordsOnly.withFlt {s t : State} (h : recordsOnly s t) (f : Flt) : recordsOnly s { t with flt := f } := by
  unfold recordsOnly at *
  rw [h]

@[simp] theorem actual_code (f : Flt) (e : RawEvent) : (actual f e).code = e.code := by unfold actual; split <;> rfl

/-- Escalation raises an event by at most one level (R334). -/
theorem actual_level_le (f : Flt) (e : RawEvent) : (actual f e).level ≤ e.level + 1 := by
  unfold actual
  split
  · exact Nat.min_le_left _ _
  · exact Nat.le_succ _

theorem countEscalation_only (f : Flt) (e : RawEvent) (s : State) : recordsOnly s (countEscalation f e s) := by
  unfold countEscalation
  split <;> rfl

/-- Below SNUFF a quiet code starts no reaction. -/
theorem startReactions_quiet {e : RawEvent} {s : State} (l : e.level < 4) (h : quietCode e.code = true) : startReactions e s = s := by
  simp [quietCode] at h
  simp [startReactions, Nat.not_le.mpr l, h]

theorem realEffects_quiet {e : RawEvent} {r : Rec} {s : State} (h : quietCode e.code = true) : realEffects e r s = s := by
  simp [quietCode] at h
  simp [realEffects, h]

/-- An event of a quiet code below PILOT, even where it is escalated, touches the collector, the recorder and the records held for the
twin, nothing else. -/
theorem raise_quiet_only {e : RawEvent} (l : e.level < 3) (h : quietCode e.code = true) (s : State) : recordsOnly s (raise e s) := by
  have la : (actual s.flt e).level < 4 := Nat.lt_of_le_of_lt (actual_level_le _ _) (by omega)
  have ha : quietCode (actual s.flt e).code = true := by rwa [actual_code]
  have l4 : ¬4 ≤ e.level := by omega
  have k := recordsOnly_trans (countEscalation_only s.flt e s) (record_only (actual s.flt e) 0 (countEscalation s.flt e s))
  unfold raise raiseAs raiseWith raiseOver
  simp only [lateSinks, l4, decide_false, Bool.and_false, Bool.false_eq_true, if_false, realEffects_quiet ha, ite_self, latch, latchFlag,
    startReactions_quiet la ha]
  generalize record (actual s.flt e) 0 (countEscalation s.flt e s) = w at k ⊢
  split
  · rfl
  · split
    · exact raiseCollateral_only e s
    · split
      · exact k.withFlt _
      · exact k

/-! ### The phase error (R14, R20) -/

theorem repeatOf_pos (r : Nat) : 0 < repeatOf r := by unfold repeatOf; split <;> decide

theorem frameClocks_pos (r : Nat) : 0 < frameClocks r := Nat.mul_pos (by decide) (repeatOf_pos r)

/-- The phase error is at most half a frame: the boundary is the nearest one. -/
theorem phaseError_nearest (r : Nat) (x : Int) : 2 * (phaseError r x).natAbs ≤ frameClocks r := by
  have n0 := frameClocks_pos r
  have lo := Int.emod_nonneg x (b := (frameClocks r : Int)) (by omega)
  have hi := Int.emod_lt_of_pos x (b := (frameClocks r : Int)) (by omega)
  unfold phaseError
  dsimp only
  split <;> omega

/-- The instant with its phase error added is a boundary. -/
theorem phaseError_boundary (r : Nat) (x : Int) : (phaseError r x + x) % (frameClocks r : Int) = 0 := by
  unfold phaseError
  dsimp only
  have e : x = (frameClocks r : Int) * (x / frameClocks r) + x % frameClocks r := (Int.mul_ediv_add_emod x _).symm
  split
  · rw [show -(x % (frameClocks r : Int)) + x = frameClocks r * (x / frameClocks r) by omega]
    exact Int.mul_emod_right _ _
  · rw [show (frameClocks r : Int) - x % frameClocks r + x = frameClocks r + frameClocks r * (x / frameClocks r) by omega]
    simp

/-! ### Reference instants (R16 to R20) -/

/-- The timer as a reference instant with phase error `err` finds it before it judges lock (R19, R20). -/
def heardReference (err : Int) (f : Ftimer) : Ftimer :=
  { f with hadRef := true, holdover := false, growing := f.hadRef && decide (f.phaseErr.natAbs < (clampI (-32767) 32767 err).natAbs)
           phaseErr := clampI (-32767) 32767 err }

/-- The first reference instant of a KINDLE starts the timer (R18, R45). -/
theorem reference_hard {err : Int} {s : State} (h : startsHard s = true) :
    reference err s = { s with ft := { s.ft with
      running := true, trim := 0, phaseErr := 0, growing := false, ofsInForce := s.ft.offset, hadRef := true } } := by
  simp [reference, h, hardStart, modFt]

/-- Any later one is judged for lock. -/
theorem reference_soft {err : Int} {s : State} (h : startsHard s = false) (r : s.ft.running = true) :
    reference err s =
      if (lockStep err (heardReference err s.ft)).2 = true then
        raiseF 0x0F01 (twos 32 (clampI (-32767) 32767 err)) (lockStep err (heardReference err s.ft)).1.activeSrc
          (twos 32 (lockStep err (heardReference err s.ft)).1.trim) { s with ft := (lockStep err (heardReference err s.ft)).1 }
      else { s with ft := (lockStep err (heardReference err s.ft)).1 } := by
  simp [reference, h, r, heardReference]

/-- What judging lock leaves alone. -/
theorem lockStep_frame (err : Int) (f : Ftimer) :
    lockStep err f = ({ f with goodRun := (lockStep err f).1.goodRun, badRun := (lockStep err f).1.badRun
                               locked := (lockStep err f).1.locked }, (lockStep err f).2) := by
  unfold lockStep
  split
  · rfl
  · split <;> rfl

/-- A good instant (R19). -/
theorem lockStep_good {err : Int} (f : Ftimer) (h : err.natAbs ≤ 32) :
    lockStep err f = ({ f with goodRun := min (f.goodRun + 1) 8, badRun := 0, locked := f.locked || decide (7 ≤ f.goodRun) }, false) := by
  simp [lockStep, h]

/-- A bad instant (R19): lock is lost with the fourth in a row. -/
theorem lockStep_bad {err : Int} (f : Ftimer) (h : 160 < err.natAbs) :
    lockStep err f = ({ f with goodRun := 0, badRun := min (f.badRun + 1) 4, locked := f.locked && decide (f.badRun < 3) },
      f.locked && decide (3 ≤ f.badRun)) := by
  have a : ¬err.natAbs ≤ 32 := by omega
  by_cases b : 3 ≤ f.badRun
  · simp [lockStep, h, a, b, Nat.not_lt.mpr b]
  · simp [lockStep, h, a, b, Nat.lt_of_not_le b]

/-- An instant that is neither ends both runs (R19). -/
theorem lockStep_between {err : Int} (f : Ftimer) (h : 32 < err.natAbs) (k : err.natAbs ≤ 160) :
    lockStep err f = ({ f with goodRun := 0, badRun := 0 }, false) := by
  simp [lockStep, Nat.not_le.mpr h, Nat.not_lt.mpr k]

/-- FSYNC_IN_EDGE while FSYNC_IN is in force is a reference instant. -/
theorem exec_fsyncInEdge {n : Nat} {s : State} (up : lanesUp s = true) (src : s.ft.activeSrc = 1) :
    exec (.fsyncInEdge n) s = .next (reference (phaseError s.ft.rateInForce ((n : Int) - 2 + sext 16 s.ft.ofsInForce)) s) := by
  change execFsyncInEdge n s = _
  simp [execFsyncInEdge, up, src, fsyncInstant]

/-- With another source in force nothing happens. -/
theorem exec_fsyncInEdge_other {n : Nat} {s : State} (src : s.ft.activeSrc ≠ 1) : exec (.fsyncInEdge n) s = .next s := by
  change execFsyncInEdge n s = _
  simp [execFsyncInEdge, src]

/-- FRAME_LOCK_LOST leaves the timer as lock's judgement made it. -/
theorem raise_frameLockLost_ft (a b c d : Nat) (s : State) : (raise (ev 0x0F01 a b c d) s).ft = s.ft :=
  (raise_quiet_only (by decide : evLevel 0x0F01 < 3) rfl s).fields.2.2.1

/-- A reference instant after the first: what it says of the phase error and of lock, and the one event that it may raise (R19, R20). -/
theorem reference_soft_spec {err : Int} {s : State} (h : startsHard s = false) (r : s.ft.running = true) (src : s.ft.activeSrc = 1) :
    let t := reference err s
    t.ft.phaseErr = max (-32767) (min 32767 err) ∧ t.ft.holdover = false ∧ t.ft.trim = s.ft.trim ∧
      (err.natAbs ≤ 32 → t.ft.badRun = 0 ∧ t.ft.goodRun = min (s.ft.goodRun + 1) 8 ∧ t.ft.locked = (s.ft.locked || decide (7 ≤ s.ft.goodRun))) ∧
      (160 < err.natAbs → t.ft.goodRun = 0 ∧ t.ft.badRun = min (s.ft.badRun + 1) 4 ∧ t.ft.locked = (s.ft.locked && decide (s.ft.badRun < 3))) ∧
      (32 < err.natAbs → err.natAbs ≤ 160 → t.ft.goodRun = 0 ∧ t.ft.badRun = 0 ∧ t.ft.locked = s.ft.locked) ∧
      (160 < err.natAbs → s.ft.locked = true → 3 ≤ s.ft.badRun →
        t = raise (ev 0x0F01 (twos 32 t.ft.phaseErr) 1 (twos 32 s.ft.trim) s.ft.frameCount) { s with ft := t.ft }) ∧
      (err.natAbs ≤ 160 ∨ s.ft.locked = false ∨ s.ft.badRun < 3 → t = { s with ft := t.ft }) := by
  intro t
  have ht : t = _ := reference_soft h r
  have hft : t.ft = (lockStep err (heardReference err s.ft)).1 := by
    rw [ht]
    split
    · exact raise_frameLockLost_ft ..
    · rfl
  have fr := congrArg Prod.fst (lockStep_frame err (heardReference err s.ft))
  rw [← hft] at fr ht
  refine ⟨by rw [fr]; rfl, by rw [fr]; rfl, by rw [fr]; rfl, ?_, ?_, ?_, ?_, ?_⟩
  · intro g
    rw [hft, lockStep_good _ g]
    exact ⟨rfl, rfl, rfl⟩
  · intro b
    rw [hft, lockStep_bad _ b]
    exact ⟨rfl, rfl, rfl⟩
  · intro lo hi
    rw [hft, lockStep_between _ lo hi]
    exact ⟨rfl, rfl, rfl⟩
  · intro b l k
    rw [lockStep_bad _ b] at ht
    rw [if_pos (by simp [heardReference, l, k])] at ht
    have : t.ft.activeSrc = 1 ∧ t.ft.trim = s.ft.trim ∧ t.ft.phaseErr = clampI (-32767) 32767 err ∧ t.ft.frameCount = s.ft.frameCount := by
      rw [fr]
      exact ⟨src, rfl, rfl, rfl⟩
    obtain ⟨h1, h2, h3, h4⟩ := this
    rw [h1, h2, ← h3] at ht
    simpa only [raiseF, h4] using ht
  · intro q
    have : (lockStep err (heardReference err s.ft)).2 = false := by
      rcases Nat.lt_or_ge 160 err.natAbs with b | b
      · rw [lockStep_bad _ b]
        rcases q with q | q | q
        · omega
        · simp [heardReference, q]
        · simp [heardReference, Nat.not_le.mpr q]
      · rcases Nat.lt_or_ge 32 err.natAbs with c | c
        · rw [lockStep_between _ c b]
        · rw [lockStep_good _ c]
    rw [this] at ht
    simpa using ht

/-! ### Holdover and trim (R18, R20, R21) -/

/-- HOLDOVER_ENTRY where a reference is missing (R20). -/
theorem exec_holdoverEntry {s : State} (aw : awake s = true) (r : s.ft.running = true) (src : s.ft.activeSrc ≠ 0)
    (h : s.ft.holdover = false) : exec .holdoverEntry s = .next (enterHoldover s) := by
  change execHoldoverEntry s = _
  simp [execHoldoverEntry, aw, r, src, h]

/-- The trim stays within its limits. -/
theorem nextTrim_range (f : Ftimer) (free : Nat) : (nextTrim f free).natAbs ≤ 20000 := by
  unfold nextTrim clampI
  dsimp only
  generalize (if f.activeSrc = 0 then _ else _ : Int) = step
  omega

/-- One step moves the trim by at most 100 ppm. -/
theorem nextTrim_step {f : Ftimer} (free : Nat) (lo : -20000 ≤ f.trim) (hi : f.trim ≤ 20000) :
    (nextTrim f free - f.trim).natAbs ≤ 100 := by
  unfold nextTrim clampI
  dsimp only
  generalize (if f.activeSrc = 0 then _ else _ : Int) = step
  omega

/-- With OWN in force the trim moves toward 0. -/
theorem nextTrim_own {f : Ftimer} (free : Nat) (lo : -20000 ≤ f.trim) (hi : f.trim ≤ 20000) (h : f.activeSrc = 0) :
    (nextTrim f free).natAbs = f.trim.natAbs - 100 := by
  simp only [nextTrim, clampI, h, if_true]
  omega

/-- In holdover the trim stays. -/
theorem nextTrim_holdover {f : Ftimer} (free : Nat) (lo : -20000 ≤ f.trim) (hi : f.trim ≤ 20000) (src : f.activeSrc ≠ 0)
    (h : f.holdover = true) : nextTrim f free = f.trim := by
  simp only [nextTrim, clampI, src, h, Bool.true_or, if_true, if_false]
  omega

/-- TRIM_LIMIT is due (R21). -/
def trimLimitDue (s : State) : Bool :=
  decide ((nextTrim s.ft s.free).natAbs = 20000) && s.ft.growing && !s.ft.trimLimit

/-- The state after a scan-cycle boundary, but for the record of TRIM_LIMIT (R18, R21). -/
def trimmed (s : State) : State :=
  { s with
    ft := { s.ft with
      trim := nextTrim s.ft s.free
      trimLimit := decide ((nextTrim s.ft s.free).natAbs = 20000) && (s.ft.trimLimit || trimLimitDue s) }
    free := s.free + 1 }

/-- SCAN_CYCLE_START with the timer running (R18, R21). -/
theorem exec_scanCycleStart {s : State} (aw : awake s = true) (r : s.ft.running = true) :
    exec .scanCycleStart s = .next (
      if trimLimitDue s = true then
        note (ev 0x0F03 (twos 32 (nextTrim s.ft s.free)) (twos 32 s.ft.phaseErr) s.ft.activeSrc s.ft.frameCount) (trimmed s)
      else trimmed s) := by
  change execScanCycleStart s = _
  simp [execScanCycleStart, aw, r, modFt, noteF, trimmed, trimLimitDue]

theorem trimLimitDue_iff (s : State) :
    trimLimitDue s = true ↔ (trimmed s).ft.trim.natAbs = 20000 ∧ s.ft.growing = true ∧ s.ft.trimLimit = false := by
  simp [trimLimitDue, trimmed, and_assoc]

/-- TRIM_LIMIT_ACTIVE stands while the trim is at its limit, from the boundary at which the event is due. -/
theorem trimmed_limit_iff (s : State) :
    (trimmed s).ft.trimLimit = true ↔ (trimmed s).ft.trim.natAbs = 20000 ∧ (s.ft.trimLimit = true ∨ s.ft.growing = true) := by
  have d := trimLimitDue_iff s
  simp only [trimmed, Bool.and_eq_true, Bool.or_eq_true, decide_eq_true_eq] at d ⊢
  rw [d]
  cases s.ft.trimLimit <;> simp +contextual

/-- Recording TRIM_LIMIT leaves the timer alone. -/
theorem trimmed_ft (s : State) (b : Bool) (e : RawEvent) :
    (if b = true then note e (trimmed s) else trimmed s).ft = (trimmed s).ft := by
  split <;> simp

/-- Settles O31: each instant through the lemma that says what it does to the timer, and TRIM_LIMIT through `exec_scanCycleStart`. -/
theorem frameTimerFollows : Obligations.FrameTimerFollows := by
  refine ⟨fun n s up src => ⟨fun h => ?_, fun h r => ?_⟩, fun n s src => exec_fsyncInEdge_other src,
    fun r x => ⟨phaseError_nearest r x, phaseError_boundary r x⟩, fun s aw r src h => exec_holdoverEntry aw r src h,
    fun s aw r lo hi => ?_⟩
  · rw [exec_fsyncInEdge up src, reference_hard h]
  · exact ⟨_, exec_fsyncInEdge up src, reference_soft_spec h r src⟩
  · refine ⟨_, exec_scanCycleStart aw r, ?_⟩
    rw [trimmed_ft]
    refine ⟨nextTrim_step _ lo hi, nextTrim_range _ _, nextTrim_own _ lo hi, nextTrim_holdover _ lo hi, rfl, ?_, ?_, ?_⟩
    · exact trimmed_limit_iff s
    · intro due
      rw [if_pos ((trimLimitDue_iff s).2 due)]
      rfl
    · intro due
      rw [if_neg (fun h => due ((trimLimitDue_iff s).1 h))]
      rfl

end Sys2Proof.Machine
end

section
/-! Writes of one word to a register (R260), and what the drive's registers take (R23, R30, R75, R79, R80). -/

namespace Sys2Proof.Machine

/-! ### Recording leaves the twin's configuration alone -/

theorem share_twn_cfg (r : Rec) (s : State) : (share r s).twn.cfg = s.twn.cfg := by
  unfold share
  extract_lets
  repeat' split
  all_goals rfl

theorem enqueue_twn (r : Rec) (s : State) : (enqueue r s).twn = s.twn := by
  unfold enqueue
  generalize s.evr.queue = q
  dsimp only
  cases q
  all_goals dsimp only
  all_goals repeat' split
  all_goals rfl

theorem record_twn_cfg (e : RawEvent) (fl : Nat) (s : State) : (record e fl s).twn.cfg = s.twn.cfg := by
  unfold record
  split
  · rfl
  · rw [share_twn_cfg, enqueue_twn]
    split <;> rfl

theorem note_twn_cfg (e : RawEvent) (s : State) : (note e s).twn.cfg = s.twn.cfg := by
  unfold note
  split
  · rfl
  · split
    · unfold raiseCollateral
      split
      all_goals exact record_twn_cfg e flagCollateral s
    · exact record_twn_cfg e 0 s

theorem takeAlive_twn_cfg (x : Src) (b : List Byte) (s : State) : (takeAlive x b s).twn.cfg = s.twn.cfg := by
  unfold takeAlive
  extract_lets q gap t p u
  have hu : u.twn = s.twn := by cases x <;> rfl
  split
  · rw [note_twn_cfg, hu]
  · rw [hu]

theorem after_twn_cfg (op : Nat) (rq : Rq) (s : State) : (after op rq s).twn.cfg = s.twn.cfg := by
  unfold after takeRequest
  split <;> rw [takeAlive_twn_cfg]

/-! ### The write of one word -/

theorem wordRq_length (h : Hdr) (a v : Nat) : (wordRq h a v).payload.length = 12 := by simp [wordRq]

theorem wordRq_addr (h : Hdr) {a : Nat} (v : Nat) (top : a < 0xF0000) : field (wordRq h a v).payload 0 4 = a := by
  have := field_mid [] (le 2 1 ++ (le 2 0 ++ le 4 v)) 4 a 0 rfl
  simp only [wordRq, List.append_assoc, List.nil_append] at this ⊢
  omega

theorem wordRq_count (h : Hdr) (a v : Nat) : field (wordRq h a v).payload 4 2 = 1 := by
  have : field _ 4 2 = 1 := field_mid (le 4 a) (le 2 0 ++ le 4 v) 2 1 4 (by simp)
  simpa only [wordRq, List.append_assoc] using this

theorem wordRq_flags (h : Hdr) (a v : Nat) : field (wordRq h a v).payload 6 1 = 0 := by
  have : field _ 6 1 = 0 := field_mid (le 4 a ++ le 2 1) (le 1 0 ++ le 4 v) 1 0 6 (by simp)
  rw [wordRq, show le 2 0 = le 1 0 ++ le 1 0 from rfl]
  simpa only [List.append_assoc] using this

theorem wordRq_value (h : Hdr) (a : Nat) {v : Nat} (vv : v < 2 ^ 32) : field (wordRq h a v).payload 8 4 = v := by
  have := field_mid (le 4 a ++ le 2 1 ++ le 2 0) [] 4 v 8 (by simp)
  simp only [wordRq, List.append_nil] at this ⊢
  omega

/-- The checks of R260 pass for one aligned word below the end of the register space. -/
theorem wordRq_fieldsOk (h : Hdr) {a : Nat} (v : Nat) (al : a % 4 = 0) (top : a < 0xF0000) :
    writeFieldsOk (wordRq h a v).payload = true := by
  simp [writeFieldsOk, rangeOk, wordRq_length, wordRq_addr h v top, wordRq_count, wordRq_flags, al, top]

/-- The lock judges the one word that is written. -/
theorem wordRq_locked (h : Hdr) {a : Nat} (v : Nat) (al : a % 4 = 0) (top : a < 0xF0000) :
    writeLocked (wordRq h a v).payload = lockedWord a := by
  have : a / 4 * 4 = a := by omega
  simp [writeLocked, wordRq_addr h v top, wordRq_count, wordRq_flags, this, List.range_succ]

/-- A word refused by its register: the status, and index 0 in the payload (R260). -/
theorem writeOneBy_refused {wr : Nat → Nat → State → WriteRes} {h : Hdr} {a v st : Nat} {s t : State} (adm : admitsWrite h a v s = true)
    (al : a % 4 = 0) (top : a < 0xF0000) (vv : v < 2 ^ 32) (bad : st ≠ stOk)
    (r : wr a v (beforeWrite h a v s) = Machine.refused st t) : writeOneBy wr h a v s = writeRefused h a v st t := by
  simp only [admitsWrite, Bool.and_eq_true, Bool.not_eq_true'] at adm
  obtain ⟨adm, lk⟩ := adm
  have body : writeRegBody wr (wordRq h a v).payload (after 0x04 (wordRq h a v) s) = ({ status := st, payload := le 2 0 }, t) := by
    simp only [beforeWrite] at r
    simp [writeRegBody, wordRq_fieldsOk h v al top, wordRq_addr h v top, wordRq_count, wordRq_flags, regWritesBy, maskedValue,
      wordRq_value h a vv, r, Machine.refused, bad]
  unfold writeOneBy writeRegs
  rw [show ({ src := h.src, tag := h.tag, payload := le 4 a ++ le 2 1 ++ le 2 0 ++ le 4 v } : Rq) = wordRq h a v from rfl,
    request_run adm rfl rfl (by rw [wordRq_locked h v al top]; exact lk), body]
  rfl

/-! ### What a register finds before it takes its word -/

section
variable (h : Hdr) (a v : Nat) (s : State)

@[simp] theorem beforeWrite_ft : (beforeWrite h a v s).ft = s.ft := by unfold beforeWrite; rw [(after_only _ _ s).1]

@[simp] theorem beforeWrite_arr : (beforeWrite h a v s).arr = s.arr := by unfold beforeWrite; rw [(after_only _ _ s).1]

@[simp] theorem beforeWrite_mode : (beforeWrite h a v s).pwr.mode = s.pwr.mode := after_mode ..

@[simp] theorem beforeWrite_twn_cfg : (beforeWrite h a v s).twn.cfg = s.twn.cfg := after_twn_cfg ..

end

/-- The item that DRV_WICK_DATA shows is the array's. -/
theorem wickItem_congr {s t : State} (h : s.arr = t.arr) : wickItem s = wickItem t := by
  unfold wickItem
  rw [h]

/-- A word of the drive that is taken. -/
theorem writeDrv_taken {h : Hdr} {o : Nat} {w : Word} {s t : State} (adm : admitsWrite h (0x50000 + o) w.toNat s = true)
    (lo : o < 0x1000) (al : o % 4 = 0) (r : writeDrv o w.toNat (beforeWrite h (0x50000 + o) w.toNat s) = Machine.taken t) :
    writeOne h (0x50000 + o) w.toNat s = wrote h (0x50000 + o) w.toNat t := by
  refine writeOne_run adm (by omega) (by omega) w.isLt ?_
  unfold regWrite
  rw [show (0x50000 + o) / 65536 = 5 by omega, show (0x50000 + o) % 65536 = o by omega]
  exact r

/-- A word of the drive that is refused. -/
theorem writeDrv_refused {h : Hdr} {o st : Nat} {w : Word} {s t : State} (adm : admitsWrite h (0x50000 + o) w.toNat s = true)
    (lo : o < 0x1000) (al : o % 4 = 0) (bad : st ≠ stOk)
    (r : writeDrv o w.toNat (beforeWrite h (0x50000 + o) w.toNat s) = Machine.refused st t) :
    writeOne h (0x50000 + o) w.toNat s = writeRefused h (0x50000 + o) w.toNat st t := by
  refine writeOneBy_refused adm (by omega) (by omega) w.isLt bad ?_
  unfold regWrite
  rw [show (0x50000 + o) / 65536 = 5 by omega, show (0x50000 + o) % 65536 = o by omega]
  exact r

/-! ### DRV_FTIMER_CTL (R30) -/

/-- A write of DRV_FTIMER_CTL brings a rate other than the one in force. -/
def newRate (v : Nat) (s : State) : Prop := bits v 0 3 < 6 ∧ bits v 0 3 ≠ s.ft.rateInForce

/-- A write of DRV_FTIMER_CTL brings a lock source other than the one in force. -/
def newSrc (v : Nat) (s : State) : Prop := bits v 4 2 < 3 ∧ bits v 4 2 ≠ s.ft.activeSrc

/-- The mode lets the write of DRV_FTIMER_CTL through: PILOT, SNUFFED, or nothing changes. -/
def ftimerFree (v : Nat) (s : State) : Prop :=
  s.pwr.mode = .pilot ∨ s.pwr.mode = .snuffed ∨ (¬newRate v s ∧ ¬newSrc v s)

/-- A new lock source suits the role: TWIN exactly for a FOLLOWER. -/
def srcSuits (v : Nat) (s : State) : Prop := newSrc v s → (bits v 4 2 = 2 ↔ s.twn.cfg.role = 2)

/-- DRV_FTIMER_CTL by its two conditions. -/
theorem writeFtimerCtl_eq (v : Nat) (s : State) [Decidable (ftimerFree v s)] [Decidable (srcSuits v s)] :
    writeFtimerCtl v s =
      if ¬ftimerFree v s then refused stWrongMode s
      else if ¬srcSuits v s then refused stBadParam s
      else Machine.taken { s with ft := { s.ft with
        rate := if bits v 0 3 < 6 then bits v 0 3 else s.ft.rate, lockSrc := if bits v 4 2 < 3 then bits v 4 2 else s.ft.lockSrc
        fsyncOutEn := v.testBit 8 } } := by
  have c1 : (((decide (bits v 0 3 < 6) && decide (bits v 0 3 ≠ s.ft.rateInForce)) ||
      (decide (bits v 4 2 < 3) && decide (bits v 4 2 ≠ s.ft.activeSrc))) && decide (s.pwr.mode ≠ .pilot) &&
      decide (s.pwr.mode ≠ .snuffed)) = true ↔ ¬ftimerFree v s := by
    simp only [ftimerFree, newRate, newSrc, Bool.and_eq_true, Bool.or_eq_true, decide_eq_true_eq]
    tauto
  have c2 : (decide (bits v 4 2 < 3) && decide (bits v 4 2 ≠ s.ft.activeSrc) &&
      decide (((if bits v 4 2 < 3 then bits v 4 2 else s.ft.lockSrc) = 2) ≠ (s.twn.cfg.role = 2))) = true ↔ ¬srcSuits v s := by
    simp only [srcSuits, newSrc, Bool.and_eq_true, decide_eq_true_eq, ne_eq, eq_iff_iff]
    by_cases l : bits v 4 2 < 3
    · simp only [l, if_true]
      tauto
    · simp only [l]
      tauto
  unfold writeFtimerCtl keepUnless
  dsimp only
  simp only [c1, c2, decide_eq_true_eq]

theorem exec_ftimerCtlWrite {h : Hdr} {w : Word} {s : State} (adm : admitsWrite h 0x50100 w.toNat s = true) :
    let b := beforeWrite h 0x50100 w.toNat s
    (ftimerFree w.toNat s → srcSuits w.toNat s → exec (.ftimerCtlWrite h w) s = wrote h 0x50100 w.toNat { b with ft := { b.ft with
      rate := if bits w.toNat 0 3 < 6 then bits w.toNat 0 3 else s.ft.rate
      lockSrc := if bits w.toNat 4 2 < 3 then bits w.toNat 4 2 else s.ft.lockSrc, fsyncOutEn := w.toNat.testBit 8 } }) ∧
    (¬ftimerFree w.toNat s → exec (.ftimerCtlWrite h w) s = writeRefused h 0x50100 w.toNat stWrongMode b) ∧
    (ftimerFree w.toNat s → ¬srcSuits w.toNat s → exec (.ftimerCtlWrite h w) s = writeRefused h 0x50100 w.toNat stBadParam b) := by
  classical
  intro b
  have hf : ftimerFree w.toNat b ↔ ftimerFree w.toNat s := by simp [b, ftimerFree, newRate, newSrc]
  have hs : srcSuits w.toNat b ↔ srcSuits w.toNat s := by simp [b, srcSuits, newSrc]
  have hb : b.ft = s.ft := beforeWrite_ft ..
  have e : writeDrv 0x100 w.toNat b = _ := writeFtimerCtl_eq w.toNat b
  simp only [hf, hs] at e
  refine ⟨fun f u => ?_, fun f => ?_, fun f u => ?_⟩
  · rw [if_neg (not_not.2 f), if_neg (not_not.2 u)] at e
    rw [← hb]
    exact writeDrv_taken (o := 0x100) adm (by decide) rfl e
  · rw [if_pos f] at e
    exact writeDrv_refused (o := 0x100) adm (by decide) rfl (by decide) e
  · rw [if_neg (not_not.2 f), if_pos u] at e
    exact writeDrv_refused (o := 0x100) adm (by decide) rfl (by decide) e

/-! ### DRV_ARRAY_CTL (R79) -/

/-- In SNUFFED the bits are taken. -/
theorem writeArrayCtl_snuffed {v : Nat} {s : State} (m : s.pwr.mode = .snuffed) :
    writeArrayCtl v s = Machine.taken { s with arr := { s.arr with pcEn := v.testBit 0, staggerEn := v.testBit 1 } } := by
  simp [writeArrayCtl, m]

/-- Elsewhere a write that changes nothing is taken. -/
theorem writeArrayCtl_same {v : Nat} {s : State} (h : v.testBit 0 = s.arr.pcEn ∧ v.testBit 1 = s.arr.staggerEn) :
    writeArrayCtl v s = Machine.taken s := by
  simp [writeArrayCtl, h]

/-- Elsewhere a change is refused. -/
theorem writeArrayCtl_refused {v : Nat} {s : State} (m : s.pwr.mode ≠ .snuffed)
    (h : ¬(v.testBit 0 = s.arr.pcEn ∧ v.testBit 1 = s.arr.staggerEn)) : writeArrayCtl v s = refused stWrongMode s := by
  have c : (s.pwr.mode ≠ .snuffed && (v.testBit 0 ≠ s.arr.pcEn || v.testBit 1 ≠ s.arr.staggerEn)) = true := by
    simp only [Bool.and_eq_true, Bool.or_eq_true, decide_eq_true_eq]
    tauto
  exact if_pos c

/-! ### DRV_HDRM_DUTY (R75) -/

theorem writeDuty_auto {v : Nat} {s : State} (a : s.arr.auto = true) : writeDuty v s = Machine.taken s := by simp [writeDuty, a]

theorem writeDuty_taken {v : Nat} {s : State} (a : s.arr.auto = false) (d : bits v 0 11 = 0 ∨ (63 ≤ bits v 0 11 ∧ bits v 0 11 ≤ 1187)) :
    writeDuty v s = Machine.taken { s with arr := { s.arr with duty := bits v 0 11 } } := by
  have c : ¬(bits v 0 11 ≠ 0 ∧ (bits v 0 11 < 63 ∨ 1187 < bits v 0 11)) := by omega
  simp only [writeDuty, a, Bool.false_eq_true, if_false, Bool.and_eq_true, Bool.or_eq_true, decide_eq_true_eq, c]

theorem writeDuty_refused {v : Nat} {s : State} (a : s.arr.auto = false)
    (d : ¬(bits v 0 11 = 0 ∨ (63 ≤ bits v 0 11 ∧ bits v 0 11 ≤ 1187))) : writeDuty v s = refused stBadParam s := by
  have c : bits v 0 11 ≠ 0 ∧ (bits v 0 11 < 63 ∨ 1187 < bits v 0 11) := by omega
  simp only [writeDuty, a, Bool.false_eq_true, if_false, Bool.and_eq_true, Bool.or_eq_true, decide_eq_true_eq]
  exact if_pos c

/-! ### DRV_WICK_DATA (R80) -/

/-- The value that a write of DRV_WICK_DATA brings for the item selected. -/
def wickNew (k v : Nat) : Nat := if k ≤ 11 then bits v 0 8 else bits v 0 6

theorem writeWickData_selector {v : Nat} {s : State} (k : s.arr.wickSel < 8 ∨ 13 < s.arr.wickSel) :
    writeWickData v s = refused stBadParam s := by
  simp [writeWickData, k]

theorem writeWickData_mode {v : Nat} {s : State} (m : s.pwr.mode ≠ .snuffed) (lo : 8 ≤ s.arr.wickSel) (hi : s.arr.wickSel ≤ 13)
    (d : wickNew s.arr.wickSel v ≠ wickItem s) : writeWickData v s = refused stWrongMode s := by
  have c : ¬(s.arr.wickSel < 8 ∨ 13 < s.arr.wickSel) := by omega
  simp only [writeWickData, Bool.and_eq_true, Bool.or_eq_true, decide_eq_true_eq, c, if_false]
  exact if_pos ⟨m, d⟩

/-- A write that is let through changes the item selected: a trim code, a pre-charge level or a sink offset. -/
theorem writeWickData_taken {v : Nat} {s : State} (lo : 8 ≤ s.arr.wickSel) (hi : s.arr.wickSel ≤ 13)
    (d : s.pwr.mode = .snuffed ∨ wickNew s.arr.wickSel v = wickItem s) :
    writeWickData v s = Machine.taken { s with arr :=
      if s.arr.wickSel ≤ 11 then { s.arr with
        trim := sset s.arr.trim (1440 * (4 * s.arr.wickBand + (s.arr.wickSel - 8)) + s.arr.wickCol) (bits v 0 8) }
      else if s.arr.wickSel = 12 then { s.arr with preLevel := sset s.arr.preLevel (1440 * s.arr.wickBand + s.arr.wickCol) (bits v 0 6) }
      else { s.arr with sinkOfs := sset s.arr.sinkOfs (1440 * s.arr.wickBand + s.arr.wickCol) (sext 6 (bits v 0 6)) } } := by
  have c : ¬(s.arr.wickSel < 8 ∨ 13 < s.arr.wickSel) := by omega
  have q : ¬(s.pwr.mode ≠ .snuffed ∧ (if s.arr.wickSel ≤ 11 then bits v 0 8 else bits v 0 6) ≠ wickItem s) := by
    unfold wickNew at d
    tauto
  simp only [writeWickData, Bool.and_eq_true, Bool.or_eq_true, decide_eq_true_eq, c, q, if_false, pixIndex]
  split <;> rfl

/-! ### The obligation -/

/-- PWR_MODE_CTL takes its two fields (R49). -/
theorem regWrite_modeCtl {v : Nat} (vv : v < 2 ^ 32) (s : State) :
    regWrite 0x10004 v s = Machine.taken { s with pwr := { s.pwr with beamWaitMs := v % 65536, hostTimeoutMs := v / 65536 } } := by
  have hi : bits v 16 16 = v / 65536 := by
    rw [bits, Nat.shiftRight_eq_div_pow]
    exact Nat.mod_eq_of_lt (by omega)
  rw [← hi]
  rfl

/-- Settles O36: what each register takes or refuses, through the rule for the write of one word. -/
theorem driveRegisterWrites : Obligations.DriveRegisterWrites := by
  refine ⟨fun h w s adm => ?_, fun h w s adm => exec_ftimerCtlWrite adm, fun h w s adm => ?_, fun h w s adm => ?_, fun h w s adm => ?_,
    fun h a v s t adm al top vv => ?_⟩
  · exact writeDrv_taken (o := 0x108) adm (by decide) rfl rfl
  · intro b same
    have hb : b.arr = s.arr := beforeWrite_arr ..
    have hm : b.pwr.mode = s.pwr.mode := beforeWrite_mode ..
    refine ⟨fun m => ?_, fun _ q => ?_, fun m q => ?_⟩
    · exact writeDrv_taken (o := 0) adm (by decide) rfl (writeArrayCtl_snuffed (hm.trans m))
    · exact writeDrv_taken (o := 0) adm (by decide) rfl (writeArrayCtl_same (by rw [hb]; exact q))
    · exact writeDrv_refused (o := 0) adm (by decide) rfl (by decide)
        (writeArrayCtl_refused (fun x => m (hm ▸ x)) (by rw [hb]; exact q))
  · intro b d
    have hb : b.arr = s.arr := beforeWrite_arr ..
    refine ⟨fun a => ?_, fun a q => ?_, fun a q => ?_⟩
    · exact writeDrv_taken (o := 0x24) adm (by decide) rfl (writeDuty_auto (hb ▸ a))
    · exact writeDrv_taken (o := 0x24) adm (by decide) rfl (writeDuty_taken (hb ▸ a) q)
    · exact writeDrv_refused (o := 0x24) adm (by decide) rfl (by decide) (writeDuty_refused (hb ▸ a) q)
  · intro b k cell
    have hb : b.arr = s.arr := beforeWrite_arr ..
    have hm : b.pwr.mode = s.pwr.mode := beforeWrite_mode ..
    have hi : wickItem b = wickItem s := wickItem_congr hb
    have hk : b.arr.wickSel = k := by rw [hb]
    have taken : ∀ {t : State}, 8 ≤ k → k ≤ 13 → (s.pwr.mode = .snuffed ∨ wickNew k w.toNat = wickItem s) → { b with arr :=
        if k ≤ 11 then { b.arr with trim := sset b.arr.trim (1440 * (4 * s.arr.wickBand + (k - 8)) + s.arr.wickCol) (bits w.toNat 0 8) }
        else if k = 12 then { b.arr with preLevel := sset b.arr.preLevel cell (bits w.toNat 0 6) }
        else { b.arr with sinkOfs := sset b.arr.sinkOfs cell (sext 6 (bits w.toNat 0 6)) } } = t →
        exec (.wickDataWrite h w) s = wrote h 0x50034 w.toNat t := by
      rintro t lo hi' d rfl
      have r := writeWickData_taken (v := w.toNat) (s := b) (by omega) (by omega) (by rw [hm, hi, hk]; exact d)
      refine writeDrv_taken (o := 0x34) adm (by decide) rfl (r.trans ?_)
      simp only [hb, k, cell]
    refine ⟨fun m lo up => ?_, fun m e => ?_, fun m e => ?_, fun e => ?_, fun m lo up e => ?_, fun m lo up e => ?_⟩
    · exact taken lo (by omega) (.inl m) (by rw [if_pos up])
    · exact taken (by omega) (by omega) (.inl m) (by rw [if_neg (by omega), if_pos e])
    · exact taken (by omega) (by omega) (.inl m) (by rw [if_neg (by omega), if_neg (by omega)])
    · exact writeDrv_refused (o := 0x34) adm (by decide) rfl (by decide) (writeWickData_selector (by rw [hk]; exact e))
    · exact taken lo (by omega) (.inr (by rw [wickNew, if_pos up, e])) (by rw [if_pos up])
    · exact writeDrv_refused (o := 0x34) adm (by decide) rfl (by decide)
        (writeWickData_mode (s := b) (fun x => m (hm ▸ x)) (by omega) (by omega) (by rw [hk, hi]; exact e))
  · intro b
    have run : ∀ {u}, regWrite a v b = Machine.taken u → exec (.writeReg (wordRq h a v)) s = wrote h a v u := fun r =>
      writeOne_run adm al top vv r
    refine ⟨fun z => run ?_, fun z => run ?_, run, fun st bad r => ?_⟩
    · unfold regWrite
      rw [z]
      rfl
    · subst z
      exact regWrite_modeCtl vv b
    · exact writeOneBy_refused adm al top vv bad r

end Sys2Proof.Machine
end

section
/-! What the reaction to an event may touch (R326 to R334, R401 to R404): one lemma for each function that a reaction calls, so that a proof
about a frame instant that raises an event unfolds none of them. Reactions that interrupt a path, redo a tile or reload a pattern
(R332) are left out: no event of a frame instant brings them. -/

namespace Sys2Proof.Machine

/-- From one state to another only the fault collector's flags, the power state, the sinks, the completions, the twin line and what records
and stores need have changed; completions are only added. -/
structure Reacts (s t : State) : Prop where
  /-- the parts that stay -/
  only : t = { s with
    ao := t.ao, pwr := t.pwr, arr := { s.arr with sinkEn := t.arr.sinkEn, acc := t.arr.acc, staged := t.arr.staged }
    cmd := { s.cmd with cq := t.cmd.cq }, lnk := t.lnk, twn := t.twn, thm := t.thm, flt := { t.flt with conds := s.flt.conds }
    nvm := t.nvm, evr := t.evr, free := t.free }
  /-- the completions grow -/
  cq : s.cmd.cq <+: t.cmd.cq

theorem Reacts.refl (s : State) : Reacts s s := ⟨rfl, List.prefix_rfl⟩

/-- Two changes, the later one named first. -/
theorem Reacts.after {s t u : State} (b : Reacts t u) (a : Reacts s t) : Reacts s u := by
  refine ⟨?_, a.cq.trans b.cq⟩
  have ho := b.only
  rw [a.only] at ho
  exact ho

theorem Reacts.trans {s t u : State} (a : Reacts s t) (b : Reacts t u) : Reacts s u := b.after a

section
variable {s t : State} (h : Reacts s t)
include h

theorem Reacts.ft : t.ft = s.ft := by rw [h.only]
theorem Reacts.map : t.map = s.map := by rw [h.only]
theorem Reacts.diag : t.diag = s.diag := by rw [h.only]
theorem Reacts.cmp : t.cmp = s.cmp := by rw [h.only]
theorem Reacts.scl : t.scl = s.scl := by rw [h.only]
theorem Reacts.chk : t.chk = s.chk := by rw [h.only]
theorem Reacts.rope : t.rope = s.rope := by rw [h.only]
theorem Reacts.mem : t.mem = s.mem := by rw [h.only]
theorem Reacts.conds : t.flt.conds = s.flt.conds := by rw [h.only]
theorem Reacts.outstanding : t.cmd.outstanding = s.cmd.outstanding := by rw [h.only]
theorem Reacts.arr : t.arr = { s.arr with sinkEn := t.arr.sinkEn, acc := t.arr.acc, staged := t.arr.staged } := by
  conv_lhs => rw [h.only]

end

/-- A fold of steps each of which reacts. -/
theorem Reacts.foldl {α : Type} {g : State → α → State} (l : List α) (h : ∀ x a, Reacts x (g x a)) (s : State) : Reacts s (l.foldl g s) := by
  induction l generalizing s with
  | nil => exact .refl s
  | cons a l ih => exact (h s a).trans (ih _)

/-! ### Records -/

/-- Recording that leaves the conditions alone is within a reaction. -/
theorem recordsOnly.reacts {s t : State} (h : recordsOnly s t) (c : t.flt.conds = s.flt.conds) : Reacts s t := by
  unfold recordsOnly at h
  refine ⟨?_, by rw [h]⟩
  conv_lhs => rw [h]
  rw [h] at c ⊢
  rw [← c]

theorem enqueue_flt (r : Rec) (s : State) : (enqueue r s).flt = s.flt := by
  unfold enqueue
  generalize s.evr.queue = q
  dsimp only
  cases q
  all_goals dsimp only
  all_goals repeat' split
  all_goals rfl

@[simp] theorem record_conds (e : RawEvent) (fl : Nat) (s : State) : (record e fl s).flt.conds = s.flt.conds := by
  unfold record
  split
  · rfl
  · rw [share_flt, enqueue_flt]
    split <;> rfl

theorem record_reacts (e : RawEvent) (fl : Nat) (s : State) : Reacts s (record e fl s) :=
  (record_only e fl s).reacts (record_conds e fl s)

theorem raiseCollateral_reacts (e : RawEvent) (s : State) : Reacts s (raiseCollateral e s) := by
  refine (raiseCollateral_only e s).reacts ?_
  unfold raiseCollateral
  split
  all_goals exact record_conds e flagCollateral s

theorem note_reacts (e : RawEvent) (s : State) : Reacts s (note e s) := by
  unfold note
  split
  · exact .refl s
  · split
    · exact raiseCollateral_reacts e s
    · exact record_reacts e 0 s

theorem noteF_reacts (c p0 p1 p2 : Nat) (s : State) : Reacts s (noteF c p0 p1 p2 s) := note_reacts _ s

/-! ### Completions -/

theorem complete_reacts (h op : Nat) (x : Src) (st r0 r1 : Nat) (s : State) : Reacts s (complete h op x st r0 r1 s) := by
  unfold complete
  split
  · exact ⟨rfl, List.prefix_append _ _⟩
  · exact .refl s

theorem completeOpen_reacts (h op : Nat) (x : Src) (st : Nat) (s : State) : Reacts s (completeOpen h op x st s) :=
  Reacts.trans (t := (takeFree (takeFree s).2).2) ⟨rfl, List.prefix_rfl⟩ (complete_reacts ..)

theorem endPending_reacts (st : Nat) (s : State) : Reacts s (endPending st s) := by
  unfold endPending
  split
  · rename_i p _
    exact Reacts.trans (t := { s with pwr := { s.pwr with pend := none } }) ⟨rfl, List.prefix_rfl⟩ (completeOpen_reacts ..)
  · exact .refl s

/-! ### Power-state requests (R398 to R404) -/

theorem completePower_reacts (r : PowerReq) (st r0 r1 : Nat) (s : State) : Reacts s (completePower r st r0 r1 s) := complete_reacts ..

theorem completeSuperseded_reacts (r : PowerReq) (s : State) : Reacts s (completeSuperseded r s) :=
  Reacts.trans (t := { s with pwr := { s.pwr with superseded := satInc 16 s.pwr.superseded } }) ⟨rfl, List.prefix_rfl⟩ (completeOpen_reacts ..)

theorem beginSleep_reacts (r : PowerReq) (s : State) : Reacts s (beginSleep r s) := by
  unfold beginSleep
  dsimp only
  split
  · exact (completeSuperseded_reacts ..).after ⟨rfl, List.prefix_rfl⟩
  · split
    · split
      · exact (completePower_reacts ..).after ⟨rfl, List.prefix_rfl⟩
      · split
        · exact (completePower_reacts ..).after ⟨rfl, List.prefix_rfl⟩
        · exact ⟨rfl, List.prefix_rfl⟩
    · exact (noteF_reacts ..).after ⟨rfl, List.prefix_rfl⟩

theorem beginPower_reacts (r : PowerReq) (s : State) : Reacts s (beginPower r s) := by
  unfold beginPower
  split
  · exact beginSleep_reacts r s
  · split
    · exact completePower_reacts ..
    · exact ⟨rfl, List.prefix_rfl⟩

theorem nextPower_reacts (s : State) : Reacts s (nextPower s) := by
  unfold nextPower
  dsimp only
  split
  · exact ⟨rfl, List.prefix_rfl⟩
  · exact (beginPower_reacts ..).after ⟨rfl, List.prefix_rfl⟩

theorem finishPower_reacts (st r0 r1 : Nat) (s : State) : Reacts s (finishPower st r0 r1 s) := by
  unfold finishPower
  split
  · exact .refl s
  · exact (nextPower_reacts _).after (completePower_reacts ..)

theorem supersedePower_reacts (s : State) : Reacts s (supersedePower s) := by
  unfold supersedePower
  split
  · exact .refl s
  · exact (nextPower_reacts _).after (completeSuperseded_reacts ..)

theorem settleLevel_reacts (s : State) : Reacts s (settleLevel s) := by
  unfold settleLevel
  split
  · split
    · exact finishPower_reacts ..
    · exact .refl s
  · exact .refl s

theorem endBlanking_reacts (s : State) : Reacts s (endBlanking s) := by
  unfold endBlanking
  split
  · exact (settleLevel_reacts _).after ⟨rfl, List.prefix_rfl⟩
  · exact .refl s

theorem abandonPower_reacts (s : State) : Reacts s (abandonPower s) := by
  unfold abandonPower
  split
  · dsimp only
    split
    · exact ⟨rfl, List.prefix_rfl⟩
    · exact (supersedePower_reacts _).after ⟨rfl, List.prefix_rfl⟩
  · split
    · exact (supersedePower_reacts _).after ⟨rfl, List.prefix_rfl⟩
    · exact .refl s

theorem abortCal_reacts (s : State) : Reacts s (abortCal s) := by
  unfold abortCal
  split
  · rename_i r _
    split
    · have c : Reacts s _ := (complete_reacts r.handle 0x40 r.src stFailed 0xFFFFFFFF (Config.freeValue s.free).toNat
        { s with free := s.free + 1 }).after ⟨rfl, List.prefix_rfl⟩
      exact c.trans ⟨rfl, List.prefix_rfl⟩
    · exact .refl s
  · exact .refl s

/-! ### Entering a mode (R49, R312, R317, R363) -/

theorem queueStore_reacts (n : StoreReq) (s : State) : Reacts s (queueStore n s) := by
  unfold queueStore
  dsimp only
  split <;> exact ⟨rfl, List.prefix_rfl⟩

theorem kindleF_reacts (s : State) : Reacts s (kindleF s) := ⟨rfl, List.prefix_rfl⟩

theorem openNvm_reacts (s : State) : Reacts s (openNvm s) := ⟨rfl, List.prefix_rfl⟩

/-- The write window as the end of a KINDLE judges it. -/
theorem windowJudged_reacts (s : State) :
    Reacts s (if windowRange s = true then openNvm s else { s with thm := { s.thm with nvmOpen := false } }) := by
  split
  · exact openNvm_reacts s
  · exact ⟨rfl, List.prefix_rfl⟩

/-- The store of the wick set after a measured KINDLE. -/
theorem wickStored_reacts (s : State) :
    Reacts s (if (s.nvm.calResult = 1 || s.nvm.calResult = 3) && !s.nvm.calQuick then requestStore 2 [] s else s) := by
  split
  · exact queueStore_reacts ..
  · exact .refl s

theorem afterKindle_reacts (s : State) : Reacts s (afterKindle s) :=
  (wickStored_reacts _).after ((windowJudged_reacts _).after (kindleF_reacts s))

theorem enterMode_reacts (m : Mode) (cause : Nat) (s : State) : Reacts s (enterMode m cause s) := by
  have h : Reacts s (if s.pwr.mode = .kindle && m ≠ .kindle then afterKindle s else s) := by
    split
    · exact afterKindle_reacts s
    · exact .refl s
  have k := (noteF_reacts 0x0E01 (modeCode m) (modeCode s.pwr.mode) cause _).after h
  exact k.trans ⟨rfl, List.prefix_rfl⟩

/-! ### The entry into SNUFFED (R329) -/

theorem sinksOff_reacts (s : State) : Reacts s (sinksOff s) := ⟨rfl, List.prefix_rfl⟩

theorem lateSinks_reacts (l : Nat) (s : State) : Reacts s (lateSinks l s) := by
  unfold lateSinks
  split
  · exact sinksOff_reacts s
  · exact .refl s

theorem sendTwin_reacts (m : Nat) (f : List Byte) (s : State) : Reacts s (sendTwin m f s) := by
  unfold sendTwin
  split
  · exact .refl s
  · exact ⟨rfl, List.prefix_rfl⟩

theorem snuff_reacts (cause code : Nat) (s : State) : Reacts s (snuff cause code s) := by
  have h := sinksOff_reacts s
  unfold snuff
  dsimp only
  split
  · exact h
  · have k : Reacts s _ := (abandonPower_reacts _).after ((endBlanking_reacts _).after ((enterMode_reacts .snuffed cause _).after
      ((abortCal_reacts _).after ((endPending_reacts stSuperseded _).after h))))
    exact (sendTwin_reacts ..).after (k.trans ⟨rfl, List.prefix_rfl⟩)

/-! ### Raising -/

/-- A quiet code starts no reaction but, at SNUFF level, the entry into SNUFFED. -/
theorem startReactions_reacts {e : RawEvent} (h : quietCode e.code = true) (s : State) : Reacts s (startReactions e s) := by
  simp [quietCode] at h
  simp only [startReactions, h]
  simp only [Bool.false_eq_true, decide_false, Bool.false_and, if_false]
  split
  · have k := snuff_reacts (snuffCause e.code) e.code s
    generalize snuff (snuffCause e.code) e.code s = w at k ⊢
    exact k.trans ⟨rfl, List.prefix_rfl⟩
  · exact .refl s

/-- An event of a quiet code, of whatever level. -/
theorem raise_reacts {e : RawEvent} (h : quietCode e.code = true) (s : State) : Reacts s (raise e s) := by
  have ha : quietCode (actual s.flt e).code = true := by rwa [actual_code]
  have k : Reacts s (record (actual s.flt e) 0 (countEscalation s.flt e s)) := by
    refine Reacts.trans ?_ (record_reacts ..)
    unfold countEscalation
    split
    · exact ⟨rfl, List.prefix_rfl⟩
    · exact .refl s
  unfold raise raiseAs raiseWith raiseOver
  simp only [realEffects_quiet ha, ite_self, Bool.false_eq_true, if_false]
  generalize record (actual s.flt e) 0 (countEscalation s.flt e s) = w at k ⊢
  split
  · exact lateSinks_reacts ..
  · split
    · exact raiseCollateral_reacts e s
    · split
      · refine k.trans (Reacts.trans ?_ (startReactions_reacts ha _))
        exact ⟨rfl, List.prefix_rfl⟩
      · exact k

/-! ### The order of one clock (R328) -/

theorem rankInsert_perm {α : Type} (rank : α → Nat × Nat) (a : α) (l : List α) : (rankInsert rank a l).Perm (a :: l) := by
  induction l with
  | nil => exact .refl _
  | cons b t ih =>
    unfold rankInsert
    split
    · exact .refl _
    · exact (ih.cons b).trans (.swap a b t)

/-- Ranking orders a list, and neither loses nor adds to it. -/
theorem ranked_perm {α : Type} (rank : α → Nat × Nat) (l : List α) : (ranked rank l).Perm l := by
  induction l with
  | nil => exact .refl _
  | cons a l ih => exact (rankInsert_perm rank a _).trans (ih.cons a)

end Sys2Proof.Machine
end

section
/-! The frame latch (R22, R28, R66 to R71, R170): what closes the frame that ends leaves alone, what takes effect, and the swap. -/

namespace Sys2Proof.Machine

/-- Steps of whatever state that each leave a part of it alone leave it alone together. -/
theorem foldl_view {σ α β : Type} {v : σ → β} {g : σ → α → σ} (l : List α) (h : ∀ x a, v (g x a) = v x) (s : σ) :
    v (l.foldl g s) = v s := by
  induction l generalizing s with
  | nil => rfl
  | cons a l ih => exact (ih _).trans (h s a)

/-! ### What a boundary's bookkeeping leaves alone -/

/-- The words and sums of the array as the swap sees them. -/
def arrView (a : Arr) : List (Nat × List Nat) × List (Nat × List Nat) × (Nat × Nat × Nat × Nat) × (Nat × Nat × Nat × Nat) × Nat × Nat :=
  (a.active, a.shadow, a.sumShadow, a.sumActive, a.grefNext, a.vledMv)

/-- The part of the state that the frame that ends, the timer settings and a change of role leave alone. -/
def calmView (s : State) := (s.pwr, s.scl, s.nvm, s.ft.frameCount, s.rope.statusEn, arrView s.arr)

/-- Recording is calm. -/
theorem recordsOnly.calm {s t : State} (h : recordsOnly s t) : calmView t = calmView s := by
  unfold recordsOnly at h
  rw [h]
  rfl

@[simp] theorem calmView_note (e : RawEvent) (s : State) : calmView (note e s) = calmView s := (note_only e s).calm

@[simp] theorem calmView_noteF (c a b d : Nat) (s : State) : calmView (noteF c a b d s) = calmView s := (noteF_only c a b d s).calm

theorem calmView_raise {e : RawEvent} (l : e.level < 3) (h : quietCode e.code = true) (s : State) : calmView (raise e s) = calmView s :=
  (raise_quiet_only l h s).calm

@[simp] theorem calmView_condOff (c u : Nat) (s : State) : calmView (condOff c u s) = calmView s := rfl

@[simp] theorem calmView_collectSlot (f : List PixFlags) (s : State) : calmView (collectSlot f s) = calmView s := by
  unfold collectSlot
  split <;> rfl

@[simp] theorem calmView_latchWear (s : State) : calmView (latchWear s) = calmView s := by
  unfold latchWear
  split
  · exact foldl_view (v := calmView) (g := addCharge) _ (fun _ _ => rfl) s
  · rfl

@[simp] theorem calmView_latchLowCount (s : State) : calmView (latchLowCount s) = calmView s := rfl

@[simp] theorem calmView_latchLost (v : Nat) (s : State) : calmView (latchLost v s) = calmView s := by
  unfold latchLost raiseF
  split
  · exact calmView_raise (by decide : evLevel 0x0603 < 3) rfl s
  · rfl

@[simp] theorem calmView_latchLimit (v : Nat) (s : State) : calmView (latchLimit v s) = calmView s := by
  unfold latchLimit raiseF
  split
  · exact calmView_raise (by decide : evLevel 0x0602 < 3) rfl s
  · rfl

theorem calmView_vReq (s : State) : calmView (vReq s).2 = calmView s := by
  unfold vReq
  dsimp only
  split <;> rfl

theorem calmView_condOn {e : RawEvent} (l : e.level < 3) (h : quietCode e.code = true) (u : Nat) (s : State) :
    calmView (condOn u e s) = calmView s := by
  unfold condOn
  split
  · rfl
  · exact (calmView_raise l h _).trans rfl

/-- The event of a judged latch of VLED_OVER (R347). -/
theorem calmView_vledEvent (v : Nat) (s : State) :
    calmView (if s.arr.vledOver = 16 && !condIs 0x0803 0 s then
        let r := vReq s
        condOn 0 (ev 0x0803 v r.1 r.2.arr.duty r.2.ft.frameCount) r.2
      else if s.arr.vledUnder = 16 then condOff 0x0803 0 s else s) = calmView s := by
  split
  · exact (calmView_condOn (e := ev 0x0803 v _ _ _) (by decide : evLevel 0x0803 < 3) rfl _ _).trans (calmView_vReq s)
  · split <;> rfl

@[simp] theorem calmView_latchVled (v : Nat) (s : State) : calmView (latchVled v s) = calmView s := by
  unfold latchVled
  split
  · rfl
  · exact (calmView_vledEvent v _).trans rfl

@[simp] theorem calmView_latchHeadroom (s : State) : calmView (latchHeadroom s) = calmView s := by
  unfold latchHeadroom
  dsimp only
  split
  · rfl
  · split
    · rfl
    · split
      · split <;> rfl
      · rfl

/-- The frame that ends, after its boundary is counted. -/
def closedCounts (v : Nat) (s : State) : State := latchHeadroom (latchLimit v (latchVled v (latchLost v (latchLowCount s))))

theorem calmView_closedCounts (v : Nat) (s : State) : calmView (closedCounts v s) = calmView s := by simp [closedCounts]

/-- What the frame that ends leaves for the verdicts, and VLED of its boundary. -/
def handedOn (v : Nat) (s : State) : State :=
  { s with
    arr := { s.arr with
      vledMv := v, accPrev := { s.arr.acc with lit := s.arr.acc.lit.filter (fun k => !s.arr.dis.contains k.pix) } }
    diag := { s.diag with probedPrev := s.diag.probedActive, dprPrev := s.diag.dprForce } }

theorem closeFrame_eq (f : List PixFlags) (v : Nat) (s : State) :
    closeFrame f v s = handedOn v (closedCounts v (latchCount (latchWear (collectSlot f s)))) := by
  unfold closeFrame closedCounts
  dsimp only
  generalize latchHeadroom _ = w
  rfl

/-- The frame that ends brings VLED of this boundary and, but in KINDLE, counts it; the words of the array stay. -/
theorem calmView_closeFrame (f : List PixFlags) (v : Nat) (s : State) :
    calmView (closeFrame f v s) = (s.pwr, s.scl, s.nvm, if s.pwr.mode = .kindle then s.ft.frameCount else (s.ft.frameCount + 1) % 2 ^ 32,
      s.rope.statusEn, s.arr.active, s.arr.shadow, s.arr.sumShadow, s.arr.sumActive, s.arr.grefNext, v) := by
  have h : calmView (closedCounts v (latchCount (latchWear (collectSlot f s)))) = _ := calmView_closedCounts _ _
  have k : calmView (latchWear (collectSlot f s)) = calmView s := by simp
  have c : ∀ u : State, calmView u = calmView s → calmView (latchCount u) = (s.pwr, s.scl, s.nvm,
      if s.pwr.mode = .kindle then s.ft.frameCount else (s.ft.frameCount + 1) % 2 ^ 32, s.rope.statusEn, arrView s.arr) := by
    intro u hu
    simp only [calmView, Prod.mk.injEq] at hu
    obtain ⟨hp, hs, hn, hf, hr, ha⟩ := hu
    unfold latchCount
    rw [hp]
    split
    · simp only [calmView, hp, hs, hn, hf, hr, ha]
    · simp only [calmView, modFt, wrapInc, hp, hs, hn, hf, hr, ha]
  rw [c _ k] at h
  rw [closeFrame_eq]
  generalize closedCounts v (latchCount (latchWear (collectSlot f s))) = w at h ⊢
  simp only [calmView, arrView, handedOn, Prod.mk.injEq] at h ⊢
  tauto

@[simp] theorem calmView_latchTimer (s : State) : calmView (latchTimer s) = calmView s := by
  unfold latchTimer
  dsimp only
  split <;> rfl

/-! ### A change of role (R286) -/

theorem calmView_modPath (p : Path) (f : RPath → RPath) (s : State) : calmView (modPath p f s) = calmView s := by cases p <;> rfl

theorem calmView_statusDue (r l o : Nat) (s : State) : calmView (Machine.statusDue r l o s) = calmView s := by
  unfold Machine.statusDue
  split <;> rfl

@[simp] theorem calmView_breakFrame (n c : Nat) (p : Path) (s : State) : calmView (breakFrame n c p s) = calmView s := by
  unfold breakFrame
  dsimp only
  rw [calmView_noteF]
  split
  · rw [calmView_statusDue, calmView_modPath]
    rfl
  · rw [calmView_modPath]
    rfl

@[simp] theorem calmView_interrupt (p : Path) (s : State) : calmView (interrupt p s) = calmView s := by
  unfold interrupt breakAll
  rw [calmView_modPath]
  exact foldl_view _ (fun x n => by split <;> simp) s

@[simp] theorem calmView_setLaneState (l : Nat) (st : LaneState) (s : State) : calmView (setLaneState l st s) = calmView s := by
  unfold setLaneState
  dsimp only
  split
  · split <;> rfl
  · rfl

@[simp] theorem calmView_leaveTraffic_twin (s : State) : calmView (leaveTraffic 4 s) = calmView s := by
  unfold leaveTraffic
  rw [if_pos rfl]
  have h := calmView_interrupt .twin s
  generalize interrupt .twin s = w at h ⊢
  exact h

theorem calmView_countRetrain (l : Nat) (s : State) : calmView (countRetrain l s) = calmView s := by
  unfold countRetrain
  split <;> rfl

/-- A failed attempt's way back to DETECT. -/
theorem calmView_backToDetect (l b : Nat) (s : State) :
    calmView (setLaneState l .detect (modLane l (fun x => { x with backoffMs := b }) (countRetrain l s))) = calmView s := by
  rw [calmView_setLaneState]
  exact calmView_countRetrain l s

theorem calmView_lowerLane (l c : Nat) (s : State) : calmView (lowerLane l c s) = calmView s := by
  unfold lowerLane
  dsimp only
  split
  · exact (calmView_backToDetect ..).trans rfl
  · split
    · exact (calmView_backToDetect ..).trans rfl
    · exact (calmView_setLaneState ..).trans rfl

/-- What reaches the collector on one clock is calm where each event is. -/
theorem calmView_raiseAll {l : List RawEvent} (h : ∀ e ∈ l, e.level < 3 ∧ quietCode e.code = true) (s : State) :
    calmView (raiseAll l s) = calmView s := by
  have step : ∀ (m : List RawEvent), (∀ e ∈ m, e.level < 3 ∧ quietCode e.code = true) → ∀ t,
      calmView (m.foldl (fun s e => if e.level = 0 then note e s else raise e s) t) = calmView t := by
    intro m hm
    induction m with
    | nil => exact fun _ => rfl
    | cons e m ih =>
      intro t
      obtain ⟨l, q⟩ := hm e (by simp)
      refine (ih (fun e he => hm e (by simp [he])) _).trans ?_
      dsimp only
      split
      · exact calmView_note e t
      · exact calmView_raise l q t
  exact step _ (fun e he => h e ((ranked_perm _ l).mem_iff.1 he)) s

/-- The events of a failed attempt of the twin lane: notes and warnings (R216). -/
theorem failEvents_twin_mild (c : Nat) (s : State) : ∀ e ∈ failEvents 4 c s, e.level < 3 ∧ quietCode e.code = true := by
  have note : evLevel 0x0104 < 3 ∧ quietCode 0x0104 = true := by decide
  have step : evLevel 0x0102 < 3 ∧ quietCode 0x0102 = true := by decide
  have shared : evLevel 0x0103 < 3 ∧ quietCode 0x0103 = true := by decide
  unfold failEvents
  dsimp only
  refine List.forall_mem_cons.2 ⟨note, ?_⟩
  split
  · simp
  · split
    · refine List.forall_mem_cons.2 ⟨step, ?_⟩
      split
      · exact List.forall_mem_cons.2 ⟨shared, by simp⟩
      · simp
    · simp

theorem calmView_failLane_twin (c : Nat) (s : State) : calmView (failLane 4 c s) = calmView s := by
  unfold failLane failLaneWith
  rw [calmView_leaveTraffic_twin, List.nil_append, calmView_raiseAll (failEvents_twin_mild c s), calmView_lowerLane]

theorem calmView_startAttempt_twin (s : State) : calmView (startAttempt 4 s) = calmView s := by
  unfold startAttempt
  have h : calmView (beginAttempt 4 (setLaneState 4 .detect s)) = calmView s := calmView_setLaneState 4 .detect s
  dsimp only
  split
  · rw [calmView_failLane_twin, h]
  · exact h

theorem calmView_restartLane_twin (r : Nat) (s : State) : calmView (restartLane 4 r s) = calmView s := by
  unfold restartLane
  rw [calmView_startAttempt_twin, calmView_leaveTraffic_twin, calmView_setLaneState]
  exact calmView_countRetrain 4 s

theorem calmView_enableLane_twin (s : State) : calmView (enableLane 4 s) = calmView s := by
  unfold enableLane
  split
  · exact calmView_restartLane_twin _ s
  · exact (calmView_setLaneState ..).trans rfl

theorem calmView_disableLane_twin (s : State) : calmView (disableLane 4 s) = calmView s := by
  unfold disableLane
  rw [calmView_leaveTraffic_twin, calmView_setLaneState]
  rfl

/-- A change of role, with its lock source and its twin lane (R286). -/
theorem calmView_takeRole (r : Nat) (s : State) : calmView (takeRole r s) = calmView s := by
  have src : ∀ n, calmView (if n ≠ s.ft.activeSrc then switchSrc n s else s) = calmView s := by
    intro n
    split <;> rfl
  have tw : ∀ n k, calmView (twinState n k) = calmView k := fun _ _ => rfl
  unfold takeRole
  dsimp only
  split
  · rw [calmView_disableLane_twin]
    exact src _
  · rw [calmView_enableLane_twin, tw]
    exact src _

@[simp] theorem calmView_latchRole (s : State) : calmView (latchRole s) = calmView s := by
  unfold latchRole
  split
  · rename_i r _
    exact calmView_takeRole r s
  · rfl

/-! ### What takes effect leaves the shadow words alone -/

/-- The shadow words, VLED and the STATUS enable. -/
def shadowView (s : State) := (s.arr.shadow, s.arr.vledMv, s.rope.statusEn)

theorem Reacts.shadow {s t : State} (h : Reacts s t) : shadowView t = shadowView s := by
  unfold shadowView
  rw [h.arr, h.rope]

theorem settlePending_reacts (m : Mode) (own : Bool) (s : State) : Reacts s (settlePending m own s) := by
  unfold settlePending
  split
  · exact .refl s
  · split
    · exact endPending_reacts ..
    · split
      · exact (complete_reacts ..).after ⟨rfl, List.prefix_rfl⟩
      · exact .refl s

theorem enterLit_reacts (m : Mode) (c : Nat) (own : Bool) (s : State) : Reacts s (enterLit m c own s) := by
  have h := (settlePending_reacts m own _).after (enterMode_reacts m c s)
  have k : Reacts s (if m = .belay then abandonPower (abortCal (endBlanking (settlePending m own (enterMode m c s))))
      else settlePending m own (enterMode m c s)) := by
    split
    · exact (abandonPower_reacts _).after ((abortCal_reacts _).after ((endBlanking_reacts _).after h))
    · exact h
  unfold enterLit
  dsimp only
  generalize (if m = .belay then _ else _ : State) = w at k ⊢
  split
  · exact k.trans ⟨rfl, List.prefix_rfl⟩
  · exact k

theorem latchMode_reacts (s : State) : Reacts s (latchMode s) := by
  unfold latchMode
  split
  · split
    · exact enterLit_reacts ..
    · exact .refl s
  · exact .refl s

theorem shadow_endKindle (u : Nat) (s : State) : shadowView (endKindle u s) = shadowView s := by
  unfold endKindle
  dsimp only
  rw [(enterLit_reacts ..).shadow]
  split <;> rfl

theorem latchBlanking_reacts (s : State) : Reacts s (latchBlanking s) := by
  unfold latchBlanking
  split
  · exact (finishPower_reacts ..).after ⟨rfl, List.prefix_rfl⟩
  · exact .refl s

theorem latchSleep_reacts (s : State) : Reacts s (latchSleep s) := by
  unfold latchSleep
  split
  · exact ⟨rfl, List.prefix_rfl⟩
  · exact .refl s

theorem latchCalibrate_reacts (s : State) : Reacts s (latchCalibrate s) := by
  unfold latchCalibrate
  split
  · split
    · exact ⟨rfl, List.prefix_rfl⟩
    · exact .refl s
  · exact .refl s

theorem finishCal_reacts (r : CalRun) (s : State) : Reacts s (finishCal r s) := by
  unfold finishCal
  dsimp only
  split <;> exact complete_reacts ..

theorem requireStores_reacts (m h : Nat) (s : State) : Reacts s (requireStores m h s) :=
  Reacts.foldl _ (fun x _ => queueStore_reacts _ x) s

theorem resolveStore_reacts (c st : Nat) (s : State) (h : Nat) : Reacts s (resolveStore c st s h) := by
  unfold resolveStore
  dsimp only
  refine (Reacts.foldl _ (fun x r => finishCal_reacts r x) _).after ?_
  split
  · split
    · exact ⟨rfl, List.prefix_rfl⟩
    · split
      · rename_i r _ _ _
        have k : Reacts s _ := (finishCal_reacts (storeEnded c st r) { s with nvm := { s.nvm with calRun := none } }).after
          ⟨rfl, List.prefix_rfl⟩
        exact k.trans ⟨rfl, List.prefix_rfl⟩
      · exact ⟨rfl, List.prefix_rfl⟩
  · exact ⟨rfl, List.prefix_rfl⟩

theorem resolveClosed_reacts (s : State) : Reacts s (resolveClosed s) :=
  (Reacts.foldl _ (fun x (w : Nat × Nat) => resolveStore_reacts w.1 stTempWindow x w.2) _).after ⟨rfl, List.prefix_rfl⟩

/-- The stores that end a CALIBRATE FULL, or its end where none are due (R370). -/
theorem fullStores_reacts (r : CalRun) (s : State) :
    Reacts s (if r.store && r.bad = 0 then
        let s := requireStores 3 r.handle { s with nvm := { s.nvm with calRun := some { r with stage := 3, todo := 3 } } }
        if s.thm.nvmOpen then s else resolveClosed s
      else finishCal r s) := by
  split
  · have h : Reacts s (requireStores 3 r.handle { s with nvm := { s.nvm with calRun := some { r with stage := 3, todo := 3 } } }) :=
      (requireStores_reacts ..).after ⟨rfl, List.prefix_rfl⟩
    dsimp only
    split
    · exact h
    · exact (resolveClosed_reacts _).after h
  · exact finishCal_reacts r s

theorem endFull_reacts (s : State) : Reacts s (endFull s) := by
  unfold endFull
  split
  · split
    · exact .refl s
    · exact (fullStores_reacts ..).after ⟨rfl, List.prefix_rfl⟩
  · exact .refl s

theorem shadow_latchStaged (s : State) : shadowView (latchStaged s) = shadowView s := by
  unfold latchStaged
  split
  · split
    · exact (endFull_reacts _).shadow.trans rfl
    · rfl
  · rfl

theorem relightNow_reacts (s : State) : Reacts s (relightNow s) := by
  unfold relightNow
  split
  · dsimp only
    split
    · split
      · exact (supersedePower_reacts _).after ⟨rfl, List.prefix_rfl⟩
      · exact (finishPower_reacts ..).after ⟨rfl, List.prefix_rfl⟩
    · exact ⟨rfl, List.prefix_rfl⟩
  · exact .refl s

theorem shadow_swapWords (s : State) : shadowView (swapWords s) = shadowView s := by
  unfold swapWords
  dsimp only
  split
  · rfl
  · split <;> rfl

/-- What takes effect at a boundary, before the swap. -/
def settled (u : Nat) (s : State) : State :=
  relightNow (latchStaged (latchCalibrate (latchSleep (latchBlanking (if kindleEnds s then endKindle u s else latchMode s)))))

theorem takeEffect_eq (u : Nat) (s : State) : takeEffect u s = swapWords (settled u s) := rfl

theorem shadow_settled (u : Nat) (s : State) : shadowView (settled u s) = shadowView s := by
  unfold settled
  rw [(relightNow_reacts _).shadow, shadow_latchStaged, (latchCalibrate_reacts _).shadow, (latchSleep_reacts _).shadow,
    (latchBlanking_reacts _).shadow]
  split
  · exact shadow_endKindle u s
  · exact (latchMode_reacts s).shadow

/-! ### The swap (R28, R66, R68, R70, R71) -/

/-- While the array is dark zeros are loaded. -/
theorem swapWords_dark {s : State} (h : arrayDark s = true) :
    (swapWords s).arr.active = [] ∧ (swapWords s).arr.gref = 256 ∧ (swapWords s).arr.shadow = s.arr.shadow := by
  unfold swapWords
  rw [show loadsZero s = true from h]
  exact ⟨rfl, rfl, rfl⟩

/-- A lit array at a boundary that flips. -/
theorem swapWords_flips {s : State} (h : arrayDark s = false) (ok : s.scl.comp.ok = true) :
    (swapWords s).arr.active = s.arr.shadow ∧ (swapWords s).arr.sumActive = s.arr.sumShadow ∧ (swapWords s).arr.gref = s.arr.grefNext := by
  unfold swapWords
  rw [show loadsZero s = false from h, ok]
  exact ⟨rfl, rfl, rfl⟩

/-- A lit array at a boundary that does not flip. -/
theorem swapWords_misses {s : State} (h : arrayDark s = false) (ok : s.scl.comp.ok = false) :
    (swapWords s).arr.active = s.arr.active ∧ (swapWords s).arr.sumActive = s.arr.sumActive ∧
      (swapWords s).arr.shadow = s.arr.shadow ∧ (swapWords s).arr.gref = s.arr.grefNext := by
  unfold swapWords
  rw [show loadsZero s = false from h, ok]
  exact ⟨rfl, rfl, rfl, rfl⟩

/-- What the swap leaves alone. -/
theorem swapWords_frame (s : State) :
    (swapWords s).pwr = s.pwr ∧ (swapWords s).scl = s.scl ∧ (swapWords s).ft = s.ft ∧ (swapWords s).arr.lastFlipped = s.scl.comp.ok := by
  unfold swapWords
  dsimp only
  split
  · exact ⟨rfl, rfl, rfl, rfl⟩
  · split <;> exact ⟨rfl, rfl, rfl, rfl⟩

/-! ### The frame that begins -/

theorem sendSync_only (s : State) :
    sendSync s = { s with lnk := (sendSync s).lnk, rope := { s.rope with syncSeq := (sendSync s).rope.syncSeq } } := by
  unfold sendSync
  split <;> rfl

theorem latchTest_only (d : Bool) (s : State) : latchTest d s = { s with diag := (latchTest d s).diag } := by
  unfold latchTest
  split <;> rfl

theorem statusDue_status (s : State) :
    Machine.statusDue 0 0xFF 0xFF s = if s.rope.statusEn then { s with rope := { s.rope with statusDue := s.rope.statusDue ++ [(0, 0xFF, 0xFF)] } }
      else s := by
  simp [Machine.statusDue]

/-- The frame that begins: slot A of cycle 0, its lit pixels, a STATUS due where STATUS is enabled (R14, R233). -/
theorem openFrame_spec (d : Bool) (s : State) :
    let t := openFrame d s
    t.pwr = s.pwr ∧ t.scl = s.scl ∧ t.ft.frameCount = s.ft.frameCount ∧
      t.arr = { s.arr with slot := some {}, acc := { lit := litPixels s, counted := litMode s.pwr.mode && !s.pwr.dark && s.arr.sinkEn } } ∧
      (s.rope.statusEn = true → t.rope.statusDue = s.rope.statusDue ++ [(0, 255, 255)]) := by
  unfold openFrame
  dsimp only
  rw [sendSync_only, statusDue_status, latchTest_only]
  refine ⟨?_, ?_, ?_, ?_, fun en => ?_⟩
  · dsimp only
    split <;> rfl
  · dsimp only
    split <;> rfl
  · dsimp only
    split <;> rfl
  · dsimp only
    split <;> rfl
  · simp [modFt, en]

/-- A boundary that flips uses up its compose and ends a run of misses (R170). -/
theorem clearMisses_scl (s : State) :
    (clearMisses s).scl = if s.scl.comp.ok then { s.scl with missRun := 0, comp := { s.scl.comp with ok := false } } else s.scl := by
  unfold clearMisses
  split <;> rfl

theorem clearMisses_frame (s : State) :
    (clearMisses s).pwr = s.pwr ∧ (clearMisses s).arr = s.arr ∧ (clearMisses s).rope = s.rope ∧ (clearMisses s).ft = s.ft := by
  unfold clearMisses
  split <;> exact ⟨rfl, rfl, rfl, rfl⟩

/-- The end of a boundary: misses, READY, and the frame that begins. -/
def begun (d : Bool) (s : State) : State := openFrame d (latchReady s.scl.comp.ok (clearMisses s))

/-- The frame latch in three steps: what ends, what takes effect, what begins. -/
theorem frameLatch_eq (f : List PixFlags) (v u : Nat) (d : Bool) (s : State) :
    let x := latchRole (latchTimer (closeFrame f v s))
    frameLatch f v u d s = begun d (takeEffect u (latchLimited (takeEffect u x) x)) := rfl

/-- Nothing is lit in a plane of zeros. -/
theorem litPixels_nil {s : State} (h : s.arr.active = []) : litPixels s = [] := by
  unfold litPixels
  rw [h]
  rfl

theorem begun_spec (d : Bool) (s : State) :
    let t := begun d s
    t.pwr = { s.pwr with readyPin := if arrayDark s then false else s.pwr.readyPin || (s.scl.comp.ok && litMode s.pwr.mode) } ∧
      t.scl = (if s.scl.comp.ok then { s.scl with missRun := 0, comp := { s.scl.comp with ok := false } } else s.scl) ∧
      t.ft.frameCount = s.ft.frameCount ∧ t.arr = { s.arr with slot := some {}, acc := t.arr.acc } ∧
      (s.arr.active = [] → t.arr.acc.lit = []) ∧
      (s.rope.statusEn = true → t.rope.statusDue = s.rope.statusDue ++ [(0, 255, 255)]) := by
  obtain ⟨cp, ca, cr, cf⟩ := clearMisses_frame s
  have cs := clearMisses_scl s
  unfold begun
  generalize clearMisses s = w at cp ca cr cf cs ⊢
  obtain ⟨op, os, of, oa, on⟩ := openFrame_spec d (latchReady s.scl.comp.ok w)
  generalize openFrame d (latchReady s.scl.comp.ok w) = t at op os of oa on ⊢
  have dk : loadsZero w = arrayDark s := by simp only [loadsZero, arrayDark, cp]
  refine ⟨?_, os.trans cs, of.trans (congrArg _ cf), ?_, ?_, ?_⟩
  · rw [op, latchReady, dk, cp]
  · rw [oa, latchReady, ca]
  · intro z
    rw [oa]
    exact litPixels_nil (by rw [latchReady, ca]; exact z)
  · rw [← cr]
    exact on

theorem exec_frameLatch {f : List PixFlags} {s : State} (v u : Nat) (d : Bool) (ok : flagsOk f = true) (aw : awake s = true)
    (r : s.ft.running = true) : exec (.frameLatch f v u d) s = .next (frameLatch f v u d s) := by
  change execFrameLatch f v u d s = _
  simp [execFrameLatch, guarded, ok, aw, r]

theorem calmView_latchLimited (t s : State) : calmView (latchLimited t s) = calmView s := by
  unfold latchLimited
  split
  · exact calmView_note _ s
  · rfl

/-- The state that the mode change, blanking and the swap of a boundary find. -/
def boundary (f : List PixFlags) (v u : Nat) (s : State) : State :=
  let x := latchRole (latchTimer (closeFrame f v s))
  latchLimited (takeEffect u x) x

theorem calmView_boundary (f : List PixFlags) (v u : Nat) (s : State) : calmView (boundary f v u s) = calmView (closeFrame f v s) := by
  unfold boundary
  dsimp only
  rw [calmView_latchLimited, calmView_latchRole, calmView_latchTimer]

/-- Where the array stays lit and no mode change waits, a boundary takes a staged set at most before the swap. -/
theorem settled_lit {s : State} (u : Nat) (h : staysLit s) (n : s.pwr.next = none) : settled u s = latchStaged s := by
  obtain ⟨lit, dark, blank, act, cal, rel, due⟩ := h
  have k : kindleEnds s = false := by
    unfold kindleEnds
    cases hm : s.pwr.mode <;> simp_all [litMode]
  have m : latchMode s = s := by simp [latchMode, n]
  have b : latchBlanking s = s := by simp [latchBlanking, blank]
  have e : latchSleep s = s := by simp [latchSleep, entryInProgress, act]
  have c : latchCalibrate s = s := by simp [latchCalibrate, cal]
  have p : (latchStaged s).pwr = s.pwr := by
    unfold latchStaged endFull
    split
    · split
      · dsimp only
        rw [cal]
      · rfl
    · rfl
  unfold settled
  rw [k, m]
  simp only [Bool.false_eq_true, if_false, b, e, c]
  simp [relightNow, relightDue, p, rel, due]

/-- A staged set taken at a boundary without a calibration changes what the sinks are set to, nothing else of what the swap uses. -/
theorem calmView_latchStaged {s : State} (h : s.nvm.calRun = none) : calmView (latchStaged s) = calmView s := by
  unfold latchStaged endFull
  split
  · split
    · dsimp only
      rw [h]
      rfl
    · rfl
  · rfl

/-- What takes effect at a boundary of a dark array, and what it does to the pins (R47, R68). -/
theorem takeEffect_dark (u : Nat) {s : State} (h : arrayDark (takeEffect u s) = true) :
    (takeEffect u s).arr.active = [] ∧ (takeEffect u s).arr.gref = 256 := by
  rw [takeEffect_eq] at h ⊢
  have d : arrayDark (settled u s) = true := by
    simpa only [arrayDark, (swapWords_frame (settled u s)).1] using h
  obtain ⟨a, g, -⟩ := swapWords_dark d
  exact ⟨a, g⟩

/-- Every frame latch: the slot it begins, VLED, the shadow words, the STATUS due, and what a dark array shows. -/
theorem frameLatch_begins (f : List PixFlags) (v u : Nat) (d : Bool) (s : State) :
    let t := frameLatch f v u d s
    t.arr.slot = some {} ∧ t.arr.vledMv = v ∧ t.arr.shadow = s.arr.shadow ∧
      (s.rope.statusEn = true → ∃ l, t.rope.statusDue = l ++ [(0, 255, 255)]) ∧
      (arrayDark t = true → t.arr.active = [] ∧ t.arr.gref = 256 ∧ t.pwr.readyPin = false ∧ t.arr.acc.lit = []) := by
  have e : frameLatch f v u d s = begun d (takeEffect u (boundary f v u s)) := frameLatch_eq f v u d s
  have c := (calmView_boundary f v u s).trans (calmView_closeFrame f v s)
  rw [e]
  generalize boundary f v u s = x at c ⊢
  have k : shadowView (takeEffect u x) = shadowView x := by rw [takeEffect_eq, shadow_swapWords, shadow_settled]
  have dk := takeEffect_dark u (s := x)
  generalize takeEffect u x = y at k dk ⊢
  obtain ⟨bp, -, -, ba, bl, bs⟩ := begun_spec d y
  generalize begun d y = t at bp ba bl bs ⊢
  simp only [calmView, arrView, shadowView, Prod.mk.injEq] at c k
  obtain ⟨-, -, -, -, cs, -, csh, -, -, -, cv⟩ := c
  obtain ⟨ksh, kv, ks⟩ := k
  refine ⟨by rw [ba], by rw [ba]; exact kv.trans cv, by rw [ba]; exact ksh.trans csh, fun en => ⟨_, bs (by rw [ks, cs, en])⟩, fun h => ?_⟩
  have dy : arrayDark y = true := by simpa only [arrayDark, bp] using h
  obtain ⟨a, g⟩ := dk dy
  exact ⟨by rw [ba]; exact a, by rw [ba]; exact g, by rw [bp, dy]; rfl, bl a⟩

/-- A frame latch in a lit mode that stays lit: the count, GREF, and the words as the boundary flips or misses (R28, R66, R71, R170). -/
theorem frameLatch_lit (f : List PixFlags) (v u : Nat) (d : Bool) {s : State} (lit : staysLit s) (n : s.pwr.next = none) :
    let t := frameLatch f v u d s
    t.pwr.mode = s.pwr.mode ∧ t.ft.frameCount = (s.ft.frameCount + 1) % 2 ^ 32 ∧ t.arr.gref = s.arr.grefNext ∧
      t.arr.lastFlipped = s.scl.comp.ok ∧
      (s.scl.comp.ok = true → t.arr.active = s.arr.shadow ∧ t.arr.sumActive = s.arr.sumShadow ∧ t.scl.missRun = 0 ∧
        t.scl.comp.ok = false ∧ t.pwr.readyPin = true) ∧
      (s.scl.comp.ok = false → t.arr.active = s.arr.active ∧ t.arr.sumActive = s.arr.sumActive ∧ t.scl.missRun = s.scl.missRun ∧
        t.pwr.readyPin = s.pwr.readyPin) := by
  have e : frameLatch f v u d s = begun d (takeEffect u (boundary f v u s)) := frameLatch_eq f v u d s
  have c := (calmView_boundary f v u s).trans (calmView_closeFrame f v s)
  rw [e]
  generalize boundary f v u s = x at c ⊢
  simp only [calmView, Prod.mk.injEq] at c
  obtain ⟨cp, cs, cn, cf, -, ca⟩ := c
  have litx : staysLit x := by simpa only [staysLit, cp, cn] using lit
  obtain ⟨lm, ld, -, -, lc, -, -⟩ := id litx
  have w := calmView_latchStaged lc
  rw [takeEffect_eq, settled_lit u litx (by rw [cp, n])]
  generalize latchStaged x = y at w ⊢
  simp only [calmView, arrView, Prod.mk.injEq] at ca w
  obtain ⟨wp, ws, -, wf, -, wact, wsh, wss, wsa, wg, -⟩ := w
  obtain ⟨cact, csh, css, csa, cg, -⟩ := ca
  have count : y.ft.frameCount = (s.ft.frameCount + 1) % 2 ^ 32 := by
    have : s.pwr.mode ≠ .kindle := by
      intro k
      rw [cp, k] at lm
      cases lm
    rw [wf, cf, if_neg this]
  have lity : arrayDark y = false := by
    unfold arrayDark
    rw [wp, ld]
    cases hm : x.pwr.mode <;> simp_all [litMode]
  have scl : y.scl = s.scl := ws.trans cs
  have pwr : y.pwr = s.pwr := wp.trans cp
  have flips := swapWords_flips lity
  have misses := swapWords_misses lity
  obtain ⟨fp, fs, ff, fl⟩ := swapWords_frame y
  generalize swapWords y = z at flips misses fp fs ff fl ⊢
  obtain ⟨bp, bs, bf, ba, -, -⟩ := begun_spec d z
  generalize begun d z = t at bp bs bf ba ⊢
  have litz : arrayDark z = false := by simpa only [arrayDark, fp] using lity
  rw [litz, fp, fs, pwr, scl] at bp
  rw [fs, scl] at bs
  rw [scl] at flips misses fl
  have mode : litMode s.pwr.mode = true := cp ▸ lm
  have arr : t.arr.gref = z.arr.gref ∧ t.arr.active = z.arr.active ∧ t.arr.sumActive = z.arr.sumActive ∧ t.arr.lastFlipped = z.arr.lastFlipped := by
    rw [ba]
    exact ⟨rfl, rfl, rfl, rfl⟩
  obtain ⟨ag, aa, as, al⟩ := arr
  refine ⟨by rw [bp], by rw [bf, ff, count], ?_, al.trans fl, fun ok => ?_, fun ok => ?_⟩
  · cases ok : s.scl.comp.ok with
    | true =>
      obtain ⟨-, -, g⟩ := flips ok
      rw [ag, g, wg, cg]
    | false =>
      obtain ⟨-, -, -, g⟩ := misses ok
      rw [ag, g, wg, cg]
  · obtain ⟨a, sm, -⟩ := flips ok
    rw [ok] at bs
    refine ⟨?_, ?_, by rw [bs]; rfl, by rw [bs]; rfl, ?_⟩
    · rw [aa, a, wsh, csh]
    · rw [as, sm, wss, css]
    · rw [bp, ok, mode]
      simp
  · obtain ⟨a, sm, -, -⟩ := misses ok
    rw [ok] at bs
    refine ⟨?_, ?_, by rw [bs]; rfl, ?_⟩
    · rw [aa, a, wact, cact]
    · rw [as, sm, wsa, csa]
    · rw [bp, ok]
      simp

/-- Settles O28: the frame latch in three steps (`frameLatch_eq`), of which only the second touches the words. -/
theorem frameLatchSwaps : Obligations.FrameLatchSwaps := by
  refine ⟨fun f v u d s ok aw r => ⟨_, exec_frameLatch v u d ok aw r, frameLatch_begins f v u d s⟩, fun f v u d s ok aw r lit n => ?_,
    fun s h => swapWords_dark h, fun s h ok => ?_⟩
  · obtain ⟨m, c, g, l, flips, misses⟩ := frameLatch_lit f v u d lit n
    refine ⟨_, exec_frameLatch v u d ok aw r, m, c, g, l, fun ok => ?_, misses⟩
    obtain ⟨a, rest⟩ := flips ok
    exact ⟨fun p => by rw [a], rest⟩
  · obtain ⟨a, -, sh, g⟩ := swapWords_misses h ok
    exact ⟨a, sh, g⟩

end Sys2Proof.Machine
end

section
/-! The compose latch (R81, R137 to R141, R150, R165): the decision which layers flip, the flips, the stale policies, and the compose that
starts. -/

namespace Sys2Proof.Machine

/-! ### Masks -/

theorem testBit_two_pow_or (m i j : Nat) : (m ||| 2 ^ i).testBit j = (m.testBit j || decide (i = j)) := by
  rw [Nat.testBit_or, Nat.testBit_two_pow]

/-- A mask holds the listed bits. -/
theorem testBit_maskOf (l : List Nat) (j : Nat) : (maskOf l).testBit j = true ↔ j ∈ l := by
  have step : ∀ (l : List Nat) (m : Nat), (l.foldl (fun m i => m ||| 2 ^ i) m).testBit j = true ↔ m.testBit j = true ∨ j ∈ l := by
    intro l
    induction l with
    | nil => simp
    | cons i l ih =>
      intro m
      rw [List.foldl_cons, ih, testBit_two_pow_or, Bool.or_eq_true, decide_eq_true_eq, List.mem_cons, or_assoc, eq_comm (a := i)]
  exact (step l 0).trans (by simp)

theorem testBit_layerMask (s : State) (p : Layer → Bool) (n : Nat) :
    (layerMask s p).testBit n = true ↔ n < 6 ∧ p (layerOf s n) = true := by
  simp [layerMask, testBit_maskOf]

/-! ### A fold in which each step touches its own unit -/

/-- Where each step of a fold leaves `w` alone but the one at `n`, `w` at the end is what that one step makes of it. -/
theorem foldl_focus {σ α β γ : Type} {g : σ → α → σ} {v : σ → β} {w : σ → γ} {n : α} {l : List α} (nd : l.Nodup) (mem : n ∈ l)
    (hv : ∀ s i, v (g s i) = v s) (other : ∀ s i, i ≠ n → w (g s i) = w s) (s : σ) :
    ∃ r, v r = v s ∧ w r = w s ∧ w (l.foldl g s) = w (g r n) := by
  have rest : ∀ (l : List α) (s : σ), n ∉ l → w (l.foldl g s) = w s := by
    intro l
    induction l with
    | nil => exact fun _ _ => rfl
    | cons i l ih =>
      intro s h
      rw [List.mem_cons, not_or] at h
      exact (ih _ h.2).trans (other s i (Ne.symm h.1))
  induction l generalizing s with
  | nil => cases mem
  | cons i l ih =>
    rw [List.nodup_cons] at nd
    by_cases e : n = i
    · subst e
      exact ⟨s, rfl, rfl, rest l _ nd.1⟩
    · obtain ⟨r, hr, hw, he⟩ := ih nd.2 (List.mem_of_ne_of_mem e mem) (g s i)
      exact ⟨r, hr.trans (hv s i), hw.trans (other s i (Ne.symm e)), he⟩

/-- What the step at `n` brings, and no step takes away, stands at the end. -/
theorem foldl_achieves {σ α β γ : Type} {g : σ → α → σ} {v : σ → β} {w : σ → γ} {P : σ → Prop} {n : α} {l : List α} {s : σ} (mem : n ∈ l)
    (hv : ∀ s i, v (g s i) = v s) (other : ∀ s i, i ≠ n → w (g s i) = w s) (brings : ∀ r, v r = v s → w r = w s → P (g r n))
    (keeps : ∀ r i, P r → P (g r i)) : P (l.foldl g s) := by
  have rest : ∀ (l : List α) (r : σ), P r → P (l.foldl g r) := by
    intro l
    induction l with
    | nil => exact fun _ h => h
    | cons i l ih => exact fun r h => ih _ (keeps r i h)
  induction l generalizing s with
  | nil => cases mem
  | cons i l ih =>
    by_cases e : n = i
    · subst e
      exact rest l _ (brings s rfl rfl)
    · exact ih (List.mem_of_ne_of_mem e mem)
        (fun r hr hw => brings r (hr.trans (hv s i)) (hw.trans (other s i (Ne.symm e))))

/-! ### Layers and groups -/

theorem layerOf_modLayer (n m : Nat) (f : Layer → Layer) (s : State) :
    layerOf (modLayer n f s) m = if m = n ∧ n < s.cmp.layers.length then f (layerOf s n) else layerOf s m := modNth_getD ..

theorem layerOf_modLayer_other {n m : Nat} (h : m ≠ n) (f : Layer → Layer) (s : State) : layerOf (modLayer n f s) m = layerOf s m := by
  rw [layerOf_modLayer, if_neg (fun c => h c.1)]

theorem layerOf_modLayer_same {n : Nat} {s : State} (h : n < s.cmp.layers.length) (f : Layer → Layer) :
    layerOf (modLayer n f s) n = f (layerOf s n) := by
  rw [layerOf_modLayer, if_pos ⟨rfl, h⟩]

theorem groupOf_modGroup (g h : Nat) (f : Group → Group) (s : State) :
    groupOf (modGroup g f s) h = if h = g ∧ g < s.cmp.groups.length then f (groupOf s g) else groupOf s h := modNth_getD ..

theorem layerOf_congr {s t : State} (h : s.cmp.layers = t.cmp.layers) (n : Nat) : layerOf s n = layerOf t n := by
  unfold layerOf
  rw [h]

theorem groupOf_congr {s t : State} (h : s.cmp.groups = t.cmp.groups) (g : Nat) : groupOf s g = groupOf t g := by
  unfold groupOf
  rw [h]

/-! ### Which layers flip (R137, R141) -/

/-- The layers that a group would flip: the enabled members of an unarmed group, the enabled layers of a pending ARM. -/
def groupWant (enabled : Nat) (k : Group) : Nat :=
  if !k.armed then k.members &&& enabled else match k.arm with
    | some a => a.mask &&& enabled
    | none => 0

/-- A group flips its layers: there are some, and all are READY. -/
def groupFires (enabled ready : Nat) (k : Group) : Prop :=
  groupWant enabled k ≠ 0 ∧ groupWant enabled k &&& ready = groupWant enabled k

/-- All that a decision about one group can come to: nothing, an ARM that fails because none of its layers is enabled, the flip of the
enabled members, or the flip of the layers of an ARM, which completes. -/
theorem decideGroup_cases (en rd : Nat) (c : Nat × State) (g : Nat) :
    let k := groupOf c.2 g
    let w := groupWant en k
    (¬groupFires en rd k ∧ (decideGroup en rd c g = c ∨ (w = 0 ∧ decideGroup en rd c g = (c.1, dropArm g stFailed c.2)))) ∨
    (groupFires en rd k ∧ ((k.armed = false ∧ decideGroup en rd c g = (c.1 ||| w, c.2)) ∨
      ∃ a, k.armed = true ∧ k.arm = some a ∧ decideGroup en rd c g =
        (c.1 ||| w, complete a.handle 0x22 a.src stOk w c.2.ft.frameCount (modGroup g (fun k => { k with arm := none }) c.2)))) := by
  obtain ⟨flip, s⟩ := c
  dsimp only
  unfold decideGroup groupFires groupWant
  dsimp only
  generalize groupOf s g = k
  cases ha : k.armed with
  | false =>
    by_cases f : k.members &&& en ≠ 0 ∧ k.members &&& en &&& rd = k.members &&& en
    · exact .inr ⟨by simpa using f, .inl ⟨rfl, by simp [f]⟩⟩
    · exact .inl ⟨by simpa using f, .inl (by simp only [Bool.false_and]; simp; tauto)⟩
  | true =>
    cases hk : k.arm with
    | none => exact .inl ⟨by simp, .inl (by simp)⟩
    | some a =>
      by_cases z : a.mask &&& en = 0
      · exact .inl ⟨by simp [z], .inr ⟨by simp [z], by simp [z]⟩⟩
      · by_cases f : a.mask &&& en &&& rd = a.mask &&& en
        · exact .inr ⟨by simp [z, f], .inr ⟨a, rfl, rfl, by simp [z, f]⟩⟩
        · exact .inl ⟨by simp [f], .inl (by simp [z, f])⟩

theorem decideGroup_mask (en rd : Nat) (c : Nat × State) (g n : Nat) :
    (decideGroup en rd c g).1.testBit n = true ↔
      c.1.testBit n = true ∨ (groupFires en rd (groupOf c.2 g) ∧ (groupWant en (groupOf c.2 g)).testBit n = true) := by
  rcases decideGroup_cases en rd c g with ⟨f, e | ⟨-, e⟩⟩ | ⟨f, ⟨-, e⟩ | ⟨a, -, -, e⟩⟩ <;> simp [e, f]

theorem complete_cmd (h op : Nat) (x : Src) (st a b : Nat) (s : State) :
    complete h op x st a b s = { s with cmd := { s.cmd with cq := (complete h op x st a b s).cmd.cq } } := by
  unfold complete
  split <;> rfl

/-- What the decisions leave alone: all but the groups, the completions and the counter of free values. -/
def decideView (s : State) :=
  { s with cmp := { s.cmp with groups := [] }, cmd := { s.cmd with cq := [] }, free := 0 }

theorem decideView_complete (h op : Nat) (x : Src) (st a b : Nat) (s : State) : decideView (complete h op x st a b s) = decideView s := by
  rw [complete_cmd]
  rfl

theorem decideView_dropArm (g st : Nat) (s : State) : decideView (dropArm g st s) = decideView s := by
  unfold dropArm
  split
  · unfold completeOpen takeFree
    dsimp only
    rw [decideView_complete]
    rfl
  · rfl

theorem decideView_decideGroup (en rd : Nat) (c : Nat × State) (g : Nat) : decideView (decideGroup en rd c g).2 = decideView c.2 := by
  rcases decideGroup_cases en rd c g with ⟨-, e | ⟨-, e⟩⟩ | ⟨-, ⟨-, e⟩ | ⟨a, -, -, e⟩⟩ <;> rw [e]
  · exact decideView_dropArm ..
  · rw [decideView_complete]
    rfl

theorem groupOf_complete (h op : Nat) (x : Src) (st a b : Nat) (s : State) (g : Nat) : groupOf (complete h op x st a b s) g = groupOf s g :=
  groupOf_congr (by simp) g

theorem decideGroup_other (en rd : Nat) (c : Nat × State) {g h : Nat} (ne : h ≠ g) :
    groupOf (decideGroup en rd c g).2 h = groupOf c.2 h := by
  have m : groupOf (modGroup g (fun k => { k with arm := none }) c.2) h = groupOf c.2 h := by
    rw [groupOf_modGroup, if_neg (fun q => ne q.1)]
  rcases decideGroup_cases en rd c g with ⟨-, e | ⟨-, e⟩⟩ | ⟨-, ⟨-, e⟩ | ⟨a, -, -, e⟩⟩ <;> rw [e]
  · dsimp only
    unfold dropArm
    split
    · exact (groupOf_complete ..).trans m
    · rfl
  · exact (groupOf_complete ..).trans m

/-- Completions are only added by the decisions. -/
theorem decideGroup_cq (en rd : Nat) (c : Nat × State) (g : Nat) : c.2.cmd.cq <+: (decideGroup en rd c g).2.cmd.cq := by
  rcases decideGroup_cases en rd c g with ⟨-, e | ⟨-, e⟩⟩ | ⟨-, ⟨-, e⟩ | ⟨a, -, -, e⟩⟩ <;> rw [e]
  · dsimp only
    unfold dropArm
    split
    · exact (completeOpen_reacts _ _ _ _ (modGroup g (fun k => { k with arm := none }) c.2)).cq
    · exact List.prefix_rfl
  · exact (complete_reacts _ _ _ _ _ _ (modGroup g (fun k => { k with arm := none }) c.2)).cq

/-- The decisions about the groups, each judged as it stood before them. -/
theorem decideGroups_mask {en rd n : Nat} {l : List Nat} (nd : l.Nodup) (c : Nat × State) :
    (l.foldl (decideGroup en rd) c).1.testBit n = true ↔ c.1.testBit n = true ∨
      ∃ g ∈ l, groupFires en rd (groupOf c.2 g) ∧ (groupWant en (groupOf c.2 g)).testBit n = true := by
  induction l generalizing c with
  | nil => simp
  | cons g l ih =>
    rw [List.nodup_cons] at nd
    have same : ∀ h ∈ l, groupOf (decideGroup en rd c g).2 h = groupOf c.2 h := fun h m =>
      decideGroup_other en rd c (fun e => nd.1 (e ▸ m))
    rw [List.foldl_cons, ih nd.2, decideGroup_mask, List.exists_mem_cons_iff, or_assoc]
    refine or_congr_right (or_congr_right (exists_congr fun h => and_congr_right fun m => ?_))
    rw [same h m]

/-- The layers that flip at a compose latch (R137, R141). -/
theorem decideFlips_mask (u : State) (n : Nat) :
    (decideFlips u).1.testBit n = true ↔
      (n < 6 ∧ (layerOf u n).enLatched = true ∧ (layerOf u n).back = .ready ∧ ungrouped u n = true) ∨
      ∃ g < 3, groupFires (layerMask u (·.enLatched)) (layerMask u (fun l => l.back = .ready)) (groupOf u g) ∧
        (groupWant (layerMask u (·.enLatched)) (groupOf u g)).testBit n = true := by
  unfold decideFlips
  rw [decideGroups_mask List.nodup_range, testBit_maskOf]
  refine or_congr ?_ (by simp)
  simp only [List.mem_filter, List.mem_range, Bool.and_eq_true, Nat.testBit_and, testBit_layerMask, decide_eq_true_eq]
  tauto

theorem decideView_decideFlips (u : State) : decideView (decideFlips u).2 = decideView u := by
  have fold (en rd : Nat) (l : List Nat) (c : Nat × State) : decideView (l.foldl (decideGroup en rd) c).2 = decideView c.2 :=
    foldl_view (v := fun c : Nat × State => decideView c.2) l (decideView_decideGroup en rd) c
  unfold decideFlips
  exact fold ..

/-- An enabled layer of a group that wants to flip it is READY where the group fires. -/
theorem groupFires_ready {u : State} {k : Group} {n : Nat}
    (f : groupFires (layerMask u (·.enLatched)) (layerMask u (fun l => l.back = .ready)) k)
    (w : (groupWant (layerMask u (·.enLatched)) k).testBit n = true) : (layerOf u n).back = .ready := by
  have h := congrArg (Nat.testBit · n) f.2
  simp only [Nat.testBit_and, w, Bool.true_and] at h
  simpa using ((testBit_layerMask ..).1 h).2

/-- A set of layers with an enabled one flips exactly when all its enabled layers are READY. -/
theorem wantReady_iff {u : State} {m : Nat} :
    m &&& layerMask u (·.enLatched) &&& layerMask u (fun l => l.back = .ready) = m &&& layerMask u (·.enLatched) ↔
      ∀ i, i < 6 → m.testBit i = true → (layerOf u i).enLatched = true → (layerOf u i).back = .ready := by
  constructor
  · intro h i hi hm he
    have hb := congrArg (Nat.testBit · i) h
    have en : (layerMask u (·.enLatched)).testBit i = true := (testBit_layerMask ..).2 ⟨hi, he⟩
    simp only [Nat.testBit_and, hm, en, Bool.and_self, Bool.true_and] at hb
    simpa using ((testBit_layerMask ..).1 hb).2
  · intro h
    refine Nat.eq_of_testBit_eq fun i => ?_
    simp only [Nat.testBit_and]
    cases hm : m.testBit i with
    | false => simp
    | true =>
      cases he : (layerMask u (·.enLatched)).testBit i with
      | false => simp
      | true =>
        obtain ⟨hi, e⟩ := (testBit_layerMask ..).1 he
        have : (layerMask u (fun l => l.back = .ready)).testBit i = true :=
          (testBit_layerMask ..).2 ⟨hi, by simpa using h i hi hm e⟩
        simp [this]

/-- An enabled layer of a set is in the set's enabled part. -/
theorem want_testBit {u : State} {m n : Nat} (hn : n < 6) (en : (layerOf u n).enLatched = true) (hm : m.testBit n = true) :
    (m &&& layerMask u (·.enLatched)).testBit n = true := by
  rw [Nat.testBit_and, hm, (testBit_layerMask ..).2 ⟨hn, en⟩]
  rfl

theorem ne_zero_of_testBit {m n : Nat} (h : m.testBit n = true) : m ≠ 0 := by
  rintro rfl
  simp at h

/-! ### The flips (R137, R138, R146) -/

/-- A layer after its flip at a compose latch of a frame. -/
def flipped (frame : Nat) (l : Layer) : Layer :=
  { l with
    frontBuf := backBuf l, hasFront := true, back := .empty, backFence := 0, released := false, crossing := false
    cfg := (match l.pend with | some c => present c l.cfg | none => l.cfg), pend := none
    stale := 0, transparent := false, staleCause := false, latchCount := frame, flips := satInc 32 l.flips }

/-- A layer that repeats in a mode. -/
def repeated (m : Mode) (l : Layer) : Layer :=
  if m = .beam then { l with stale := satInc 16 l.stale, repeats := satInc 32 l.repeats } else l

/-- What a layer's turn at the latch comes to. -/
def turned (m : Mode) (frame : Nat) (flips : Bool) (l : Layer) : Layer := if flips then flipped frame l else repeated m l

/-- What the signature configurations leave alone. -/
def sigView (s : State) := { s with chk := {}, flt := {} }

theorem sigView_applySigs (b : Nat) (s : State) : sigView (applySigs b s) = sigView s := by
  refine foldl_view (v := sigView) _ (fun x r => ?_) s
  split
  · unfold applySig
    split
    · rfl
    · rfl
  · rfl

theorem layerOf_sigView {s t : State} (h : sigView s = sigView t) (n : Nat) : layerOf s n = layerOf t n :=
  layerOf_congr (congrArg (fun x => x.cmp.layers) h) n

/-- One layer's turn: it flips or it repeats. -/
def turn (mask : Nat) (s : State) (n : Nat) : State := if mask.testBit n then flipLayer n s else repeatLayer n s

theorem flipLayer_eq (n : Nat) (s : State) :
    flipLayer n s = applySigs n (modLayer n (flipped s.ft.frameCount) (condOff 0x0210 n s)) := rfl

/-- What no layer's turn changes. -/
def turnView (s : State) := { s with cmp := { s.cmp with layers := [] }, chk := {}, flt := {} }

theorem turnView_of_sigView {s t : State} (h : sigView s = sigView t) :
    turnView s = turnView t ∧ s.cmp.layers.length = t.cmp.layers.length :=
  ⟨(congrArg turnView h : turnView (sigView s) = turnView (sigView t)), congrArg (fun x => x.cmp.layers.length) h⟩

theorem turnView_modLayer (n : Nat) (f : Layer → Layer) (s : State) :
    turnView (modLayer n f s) = turnView s ∧ (modLayer n f s).cmp.layers.length = s.cmp.layers.length := ⟨rfl, modNth_length ..⟩

theorem turnView_turn (mask : Nat) (s : State) (n : Nat) :
    turnView (turn mask s n) = turnView s ∧ (turn mask s n).cmp.layers.length = s.cmp.layers.length := by
  unfold turn
  split
  · rw [flipLayer_eq]
    obtain ⟨hs, hl⟩ := turnView_of_sigView (sigView_applySigs n (modLayer n (flipped s.ft.frameCount) (condOff 0x0210 n s)))
    obtain ⟨ms, ml⟩ := turnView_modLayer n (flipped s.ft.frameCount) (condOff 0x0210 n s)
    exact ⟨hs.trans ms, hl.trans ml⟩
  · unfold repeatLayer
    split
    · exact turnView_modLayer ..
    · exact ⟨rfl, rfl⟩

theorem layerOf_turn_other (mask : Nat) (s : State) {n m : Nat} (h : m ≠ n) : layerOf (turn mask s n) m = layerOf s m := by
  unfold turn
  split
  · exact (layerOf_sigView (sigView_applySigs ..) m).trans (layerOf_modLayer_other h ..)
  · unfold repeatLayer
    split
    · exact layerOf_modLayer_other h ..
    · rfl

theorem layerOf_turn_same (mask : Nat) (s : State) {n : Nat} (h : n < s.cmp.layers.length) :
    layerOf (turn mask s n) n = turned s.pwr.mode s.ft.frameCount (mask.testBit n) (layerOf s n) := by
  unfold turn turned
  split
  · exact (layerOf_sigView (sigView_applySigs ..) n).trans (layerOf_modLayer_same (s := condOff 0x0210 n s) h _)
  · unfold repeatLayer repeated
    split
    · exact layerOf_modLayer_same h _
    · rfl

/-- The turns of layers leave alone all but the layers, the signature regions and their causes. -/
theorem turnView_turns (mask : Nat) (l : List Nat) (s : State) :
    turnView (l.foldl (turn mask) s) = turnView s ∧ (l.foldl (turn mask) s).cmp.layers.length = s.cmp.layers.length := by
  induction l generalizing s with
  | nil => exact ⟨rfl, rfl⟩
  | cons n l ih => exact ⟨(ih _).1.trans (turnView_turn mask s n).1, (ih _).2.trans (turnView_turn mask s n).2⟩

theorem layerOf_turns {mask n : Nat} {l : List Nat} {s : State} (nd : l.Nodup) (mem : n ∈ l) (h : n < s.cmp.layers.length) :
    layerOf (l.foldl (turn mask) s) n = turned s.pwr.mode s.ft.frameCount (mask.testBit n) (layerOf s n) := by
  obtain ⟨r, hv, hw, e⟩ := foldl_focus (g := turn mask) (v := fun s => (turnView s, s.cmp.layers.length)) (w := fun s => layerOf s n) nd mem
    (fun s i => Prod.ext (turnView_turn mask s i).1 (turnView_turn mask s i).2) (fun s i ne => layerOf_turn_other mask s (Ne.symm ne)) s
  obtain ⟨hv, hl⟩ := Prod.mk.inj hv
  have hm : r.pwr.mode = s.pwr.mode := congrArg (fun x => x.pwr.mode) hv
  have hf : r.ft.frameCount = s.ft.frameCount := congrArg (fun x => x.ft.frameCount) hv
  rw [e, layerOf_turn_same mask r (hl ▸ h), hw, hm, hf]

/-! ### The stale policies (R139) -/

/-- A layer as its stale policy judges it. -/
def judged (l : Layer) : Layer :=
  { l with transparent := l.cfg.policy = 1 && decide (l.cfg.staleN ≤ l.stale), staleCause := l.cfg.policy = 2 && decide (l.cfg.staleN ≤ l.stale) }

theorem condIs_congr {s t : State} (h : s.flt.conds = t.flt.conds) (c u : Nat) : condIs c u s = condIs c u t := by
  unfold condIs
  rw [h]

theorem condIs_condOff_same (c u : Nat) (s : State) : condIs c u (condOff c u s) = false := by
  unfold condIs condOff
  rw [List.any_eq_false]
  intro k hk
  have h := (List.mem_filter.1 hk).2
  simp only [Bool.not_eq_true', Bool.not_eq_true] at h ⊢
  exact h

theorem condIs_condOff_other (c : Nat) {u m : Nat} (s : State) (h : m ≠ u) : condIs c m (condOff c u s) = condIs c m s := by
  unfold condIs condOff
  rw [Bool.eq_iff_iff]
  simp only [List.any_eq_true, List.mem_filter, Bool.and_eq_true, decide_eq_true_eq, Bool.not_eq_true', Bool.and_eq_false_iff,
    decide_eq_false_iff_not]
  constructor
  · rintro ⟨k, ⟨hk, -⟩, e⟩
    exact ⟨k, hk, e⟩
  · rintro ⟨k, hk, e⟩
    exact ⟨k, ⟨hk, .inr (fun q => h (e.2.symm.trans q))⟩, e⟩

/-- The states between which a stale policy moves: a layer's verdict, its cause, and what its events bring. -/
structure Judges (s t : State) : Prop where
  ft : t.ft = s.ft
  map : t.map = s.map
  diag : t.diag = s.diag
  scl : t.scl = s.scl
  cmp : t.cmp = s.cmp
  cq : s.cmd.cq <+: t.cmd.cq

theorem Reacts.judges {s t : State} (h : Reacts s t) : Judges s t := ⟨h.ft, h.map, h.diag, h.scl, h.cmp, h.cq⟩

theorem Judges.after {s t u : State} (b : Judges t u) (a : Judges s t) : Judges s u :=
  ⟨b.ft.trans a.ft, b.map.trans a.map, b.diag.trans a.diag, b.scl.trans a.scl, b.cmp.trans a.cmp, a.cq.trans b.cq⟩

theorem condOff_judges (c u : Nat) (s : State) : Judges s (condOff c u s) := ⟨rfl, rfl, rfl, rfl, rfl, List.prefix_rfl⟩

theorem condOn_judges {e : RawEvent} (q : quietCode e.code = true) (u : Nat) (s : State) : Judges s (condOn u e s) := by
  unfold condOn
  split
  · exact (Reacts.refl s).judges
  · exact (raise_reacts q _).judges.after ⟨rfl, rfl, rfl, rfl, rfl, List.prefix_rfl⟩

theorem condIs_condOn_same {e : RawEvent} (q : quietCode e.code = true) (u : Nat) (s : State) : condIs e.code u (condOn u e s) = true := by
  unfold condOn
  split
  · assumption
  · rw [condIs_congr (raise_reacts q _).conds]
    simp [condIs, addCond]

theorem condIs_condOn_other {e : RawEvent} (q : quietCode e.code = true) {u m : Nat} (s : State) (h : m ≠ u) :
    condIs e.code m (condOn u e s) = condIs e.code m s := by
  unfold condOn
  split
  · rfl
  · rw [condIs_congr (raise_reacts q _).conds]
    simp [condIs, addCond, Ne.symm h]

/-- The cause of a stale layer after its verdict. -/
def causeSet (cause : Bool) (n : Nat) (l : Layer) (s : State) : State :=
  if cause then
    let s := if s.flt.conds.any (fun k => k.code = 0x0210 && k.unit = n && k.level ≠ l.cfg.faultLevel) then condOff 0x0210 n s else s
    condOn n { code := 0x0210, level := l.cfg.faultLevel, p0 := n, p1 := l.stale, p2 := l.cfg.staleN, p3 := s.ft.frameCount } s
  else condOff 0x0210 n s

theorem causeSet_judges (cause : Bool) (n : Nat) (l : Layer) (s : State) : Judges s (causeSet cause n l s) := by
  unfold causeSet
  split
  · refine (condOn_judges rfl n _).after ?_
    split
    · exact condOff_judges ..
    · exact (Reacts.refl s).judges
  · exact condOff_judges ..

theorem condIs_causeSet_same (cause : Bool) (n : Nat) (l : Layer) (s : State) : condIs 0x0210 n (causeSet cause n l s) = cause := by
  cases cause
  · exact condIs_condOff_same ..
  · exact condIs_condOn_same (e := { code := 0x0210, .. }) rfl n _

theorem condIs_causeSet_other (cause : Bool) {n m : Nat} (l : Layer) (s : State) (h : m ≠ n) :
    condIs 0x0210 m (causeSet cause n l s) = condIs 0x0210 m s := by
  cases cause
  · exact condIs_condOff_other _ _ h
  · refine (condIs_condOn_other (e := { code := 0x0210, .. }) rfl _ h).trans ?_
    split
    · exact condIs_condOff_other _ _ h
    · rfl

/-- The verdict of a layer's stale policy and its NOTE. -/
def verdict (n : Nat) (s : State) : State :=
  let l := layerOf s n
  let s := modLayer n (fun x => { x with transparent := (judged l).transparent, staleCause := (judged l).staleCause }) s
  if (judged l).transparent && !l.transparent then noteF 0x0211 n l.stale l.cfg.staleN s else s

theorem judgeStale_eq (n : Nat) (s : State) :
    judgeStale n s = causeSet (judged (layerOf s n)).staleCause n (layerOf s n) (verdict n s) := rfl

theorem verdict_judges (n : Nat) (s : State) :
    let l := judged (layerOf s n)
    Judges (modLayer n (fun x => { x with transparent := l.transparent, staleCause := l.staleCause }) s) (verdict n s) ∧
      (verdict n s).flt.conds = s.flt.conds := by
  dsimp only
  unfold verdict
  dsimp only
  split
  · have h := noteF_reacts 0x0211 n (layerOf s n).stale (layerOf s n).cfg.staleN
      (modLayer n (fun x => { x with transparent := (judged (layerOf s n)).transparent, staleCause := (judged (layerOf s n)).staleCause }) s)
    exact ⟨h.judges, h.conds⟩
  · exact ⟨(Reacts.refl _).judges, rfl⟩

/-- A layer's policy judged: its verdict stands in the layer, and its cause follows it. -/
theorem judgeStale_judges (n : Nat) (s : State) :
    let l := judged (layerOf s n)
    Judges (modLayer n (fun x => { x with transparent := l.transparent, staleCause := l.staleCause }) s) (judgeStale n s) := by
  rw [judgeStale_eq]
  exact (causeSet_judges ..).after (verdict_judges n s).1

theorem layerOf_judgeStale_same {n : Nat} {s : State} (h : n < s.cmp.layers.length) :
    layerOf (judgeStale n s) n = judged (layerOf s n) :=
  (layerOf_congr (congrArg Cmp.layers (judgeStale_judges n s).cmp) n).trans (layerOf_modLayer_same h _)

theorem layerOf_judgeStale_other {n m : Nat} (s : State) (h : m ≠ n) : layerOf (judgeStale n s) m = layerOf s m :=
  (layerOf_congr (congrArg Cmp.layers (judgeStale_judges n s).cmp) m).trans (layerOf_modLayer_other h ..)

theorem condIs_judgeStale_same (n : Nat) (s : State) : condIs 0x0210 n (judgeStale n s) = (judged (layerOf s n)).staleCause :=
  condIs_causeSet_same ..

theorem condIs_judgeStale_other {n m : Nat} (s : State) (h : m ≠ n) : condIs 0x0210 m (judgeStale n s) = condIs 0x0210 m s :=
  (condIs_causeSet_other _ _ _ h).trans (condIs_congr (verdict_judges n s).2 ..)

/-- What no stale policy changes. -/
def staleView (s : State) := (s.ft, s.map, s.diag, s.scl, s.cmp.groups, s.cmp.postBypassLatched, s.cmp.layers.length)

theorem staleView_modLayer (n : Nat) (f : Layer → Layer) (s : State) : staleView (modLayer n f s) = staleView s :=
  congrArg (fun k => (s.ft, s.map, s.diag, s.scl, s.cmp.groups, s.cmp.postBypassLatched, k)) (modNth_length ..)

theorem Judges.staleView {s t : State} (h : Judges s t) : staleView t = staleView s := by
  unfold Machine.staleView
  rw [h.ft, h.map, h.diag, h.scl, h.cmp]

theorem staleView_judgeStale (n : Nat) (s : State) : staleView (judgeStale n s) = staleView s :=
  (judgeStale_judges n s).staleView.trans (staleView_modLayer ..)

theorem judgeStale_cq (n : Nat) (s : State) : s.cmd.cq <+: (judgeStale n s).cmd.cq := (judgeStale_judges n s).cq

/-- The stale policies of layers, in any order: each layer listed is judged on what it was, and its cause follows. -/
theorem judgeStales {n : Nat} {l : List Nat} {s : State} (nd : l.Nodup) (mem : n ∈ l) (h : n < s.cmp.layers.length) :
    layerOf (l.foldl (fun s n => judgeStale n s) s) n = judged (layerOf s n) ∧
      condIs 0x0210 n (l.foldl (fun s n => judgeStale n s) s) = (judged (layerOf s n)).staleCause := by
  obtain ⟨r, hv, hw, e⟩ := foldl_focus (g := fun s n => judgeStale n s) (v := staleView) (w := fun s => (layerOf s n, condIs 0x0210 n s)) nd mem
    (fun s i => staleView_judgeStale i s)
    (fun s i ne => Prod.ext (layerOf_judgeStale_other s (Ne.symm ne)) (condIs_judgeStale_other s (Ne.symm ne))) s
  have hl : r.cmp.layers.length = s.cmp.layers.length := congrArg (fun x => x.2.2.2.2.2.2) hv
  obtain ⟨hlay, -⟩ := Prod.mk.inj hw
  obtain ⟨elay, econd⟩ := Prod.mk.inj e
  rw [elay, econd, layerOf_judgeStale_same (hl ▸ h), condIs_judgeStale_same, hlay]
  exact ⟨rfl, rfl⟩

theorem staleView_judgeStales (l : List Nat) (s : State) : staleView (l.foldl (fun s n => judgeStale n s) s) = staleView s :=
  foldl_view l (fun s n => staleView_judgeStale n s) s

theorem judgeStales_cq (l : List Nat) (s : State) : s.cmd.cq <+: (l.foldl (fun s n => judgeStale n s) s).cmd.cq := by
  induction l generalizing s with
  | nil => exact List.prefix_rfl
  | cons n l ih => exact (judgeStale_cq n s).trans (ih _)

/-! ### The flips and the policies of one latch (R141) -/

/-- The layers whose enable is in force. -/
def onLayers (u : State) : List Nat := (List.range 6).filter (fun n => (layerOf u n).enLatched)

/-- The state between the turns of the layers and their stale policies. -/
def turnedAll (u : State) : State := (onLayers (decideFlips u).2).foldl (turn (decideFlips u).1) (decideFlips u).2

theorem latchFlips_eq (u : State) :
    latchFlips u = (ranked (staleRank (turnedAll u)) (onLayers (decideFlips u).2)).foldl (fun s n => judgeStale n s) (turnedAll u) := rfl

theorem layerOf_decideView {s t : State} (h : decideView s = decideView t) (n : Nat) : layerOf s n = layerOf t n :=
  layerOf_congr (congrArg (fun x => x.cmp.layers) h) n

/-- An enabled layer flips or repeats as decided, and its stale policy is judged after that. -/
theorem latchFlips_layer {u : State} {n : Nat} (hn : n < 6) (len : u.cmp.layers.length = 6) (en : (layerOf u n).enLatched = true) :
    let y := judged (turned u.pwr.mode u.ft.frameCount ((decideFlips u).1.testBit n) (layerOf u n))
    layerOf (latchFlips u) n = y ∧ condIs 0x0210 n (latchFlips u) = y.staleCause := by
  have hd := decideView_decideFlips u
  have hl : (decideFlips u).2.cmp.layers.length = 6 := (congrArg (fun x => x.cmp.layers.length) hd).trans len
  have hm : (decideFlips u).2.pwr.mode = u.pwr.mode := congrArg (fun x => x.pwr.mode) hd
  have hf : (decideFlips u).2.ft.frameCount = u.ft.frameCount := congrArg (fun x => x.ft.frameCount) hd
  have mem : n ∈ onLayers (decideFlips u).2 :=
    List.mem_filter.2 ⟨List.mem_range.2 hn, (congrArg Layer.enLatched (layerOf_decideView hd n)).trans en⟩
  have nd : (onLayers (decideFlips u).2).Nodup := List.nodup_range.filter _
  have turned := layerOf_turns (mask := (decideFlips u).1) nd mem (hl ▸ hn)
  rw [hm, hf, layerOf_decideView hd] at turned
  have perm := ranked_perm (staleRank (turnedAll u)) (onLayers (decideFlips u).2)
  have hl' : (turnedAll u).cmp.layers.length = 6 := (turnView_turns ..).2.trans hl
  obtain ⟨hlay, hcond⟩ := judgeStales (perm.nodup_iff.2 nd) (perm.mem_iff.2 mem) (hl' ▸ hn : n < (turnedAll u).cmp.layers.length)
  rw [← latchFlips_eq] at hlay hcond
  rw [hlay, hcond]
  unfold turnedAll
  rw [turned]
  exact ⟨rfl, rfl⟩

theorem turnedAll_view (u : State) : staleView (turnedAll u) = staleView (decideFlips u).2 ∧ (turnedAll u).cmd = (decideFlips u).2.cmd := by
  obtain ⟨hv, hl⟩ := turnView_turns (decideFlips u).1 (onLayers (decideFlips u).2) (decideFlips u).2
  unfold turnedAll
  generalize (onLayers (decideFlips u).2).foldl (turn (decideFlips u).1) (decideFlips u).2 = t at hv hl ⊢
  generalize (decideFlips u).2 = d at hv hl ⊢
  refine ⟨?_, congrArg (fun x => x.cmd) hv⟩
  unfold staleView
  rw [hl]
  exact congrArg (fun x => (x.ft, x.map, x.diag, x.scl, x.cmp.groups, x.cmp.postBypassLatched, d.cmp.layers.length)) hv

/-- The turns and the policies leave the groups as the decisions left them, and completions are only added. -/
theorem latchFlips_frame (u : State) :
    staleView (latchFlips u) = staleView (decideFlips u).2 ∧ (decideFlips u).2.cmd.cq <+: (latchFlips u).cmd.cq := by
  obtain ⟨hv, hc⟩ := turnedAll_view u
  rw [latchFlips_eq, ← hv, ← hc]
  exact ⟨staleView_judgeStales .., judgeStales_cq ..⟩

/-- What a latch's flips leave alone. -/
theorem latchFlips_spares (u : State) :
    (latchFlips u).ft = u.ft ∧ (latchFlips u).map = u.map ∧ (latchFlips u).diag = u.diag ∧ (latchFlips u).scl = u.scl ∧
      (latchFlips u).cmp.postBypassLatched = u.cmp.postBypassLatched := by
  have hv := (latchFlips_frame u).1
  have hd := decideView_decideFlips u
  generalize (decideFlips u).2 = d at hv hd
  generalize latchFlips u = t at hv
  simp only [staleView, Prod.mk.injEq] at hv
  obtain ⟨ft, map, diag, scl, -, byp, -⟩ := hv
  exact ⟨ft.trans (congrArg (fun x => x.ft) hd), map.trans (congrArg (fun x => x.map) hd), diag.trans (congrArg (fun x => x.diag) hd),
    scl.trans (congrArg (fun x => x.scl) hd), byp.trans (congrArg (fun x => x.cmp.postBypassLatched) hd)⟩

/-! ### ARMs at a latch (R137, R141, R150) -/

/-- A completion of an ARM that a latch of a frame completes. -/
def ArmDone (handle want frame : Nat) (s : State) : Prop :=
  ∃ e ∈ s.cmd.cq, e.handle = handle ∧ e.opcode = 0x22 ∧ e.status = stOk ∧ e.r0 = want % 2 ^ 32 ∧ e.r1 = frame % 2 ^ 32

theorem complete_done {h : Nat} (x : Src) (a b : Nat) {s : State} (o : s.cmd.outstanding.contains h = true) :
    ArmDone h a b (complete h 0x22 x stOk a b s) := by
  unfold complete
  rw [if_pos o]
  exact ⟨_, List.mem_append_right _ (List.mem_singleton_self _), rfl, rfl, rfl, rfl, rfl⟩

/-- At a group whose layers all are READY the decision completes its ARM. -/
theorem decideGroup_arm {en rd : Nat} {c : Nat × State} {g : Nat} {a : Arm} (hg : g < c.2.cmp.groups.length)
    (ha : (groupOf c.2 g).armed = true) (hk : (groupOf c.2 g).arm = some a) (f : groupFires en rd (groupOf c.2 g)) :
    (groupOf (decideGroup en rd c g).2 g).arm = none ∧ (c.2.cmd.outstanding.contains a.handle = true →
      ArmDone a.handle (a.mask &&& en) c.2.ft.frameCount (decideGroup en rd c g).2) := by
  have hw : groupWant en (groupOf c.2 g) = a.mask &&& en := by simp [groupWant, ha, hk]
  rcases decideGroup_cases en rd c g with ⟨nf, -⟩ | ⟨-, ⟨na, -⟩ | ⟨b, -, hb, e⟩⟩
  · exact absurd f nf
  · exact absurd (ha.symm.trans na) (by decide)
  · obtain rfl : a = b := Option.some.inj (hk.symm.trans hb)
    rw [e, hw]
    refine ⟨?_, fun o => complete_done _ _ _ o⟩
    rw [groupOf_complete, groupOf_modGroup, if_pos ⟨rfl, hg⟩]

/-- At a group with an ARM that has an enabled layer not READY, the decision lets it wait. -/
theorem decideGroup_waits {en rd : Nat} {c : Nat × State} {g : Nat} (w : groupWant en (groupOf c.2 g) ≠ 0)
    (f : ¬groupFires en rd (groupOf c.2 g)) : (decideGroup en rd c g).2 = c.2 := by
  rcases decideGroup_cases en rd c g with ⟨-, e | ⟨z, -⟩⟩ | ⟨k, -⟩
  · rw [e]
  · exact absurd z w
  · exact absurd k f

/-- What the decisions about groups do not change, beside the group that each is about. -/
def armView (c : Nat × State) := (decideView c.2, c.2.cmp.groups.length)

theorem modGroup_length (g : Nat) (f : Group → Group) (s : State) : (modGroup g f s).cmp.groups.length = s.cmp.groups.length := modNth_length ..

theorem armView_decideGroup (en rd : Nat) (c : Nat × State) (g : Nat) : armView (decideGroup en rd c g) = armView c := by
  refine Prod.ext (decideView_decideGroup en rd c g) ?_
  rcases decideGroup_cases en rd c g with ⟨-, e | ⟨-, e⟩⟩ | ⟨-, ⟨-, e⟩ | ⟨a, -, -, e⟩⟩
  all_goals rw [e]
  · dsimp only [armView]
    unfold dropArm
    split
    · exact (congrArg (fun x => x.groups.length) (completeOpen_reacts _ _ _ _ (modGroup g (fun k => { k with arm := none }) c.2)).cmp).trans
        (modGroup_length ..)
    · rfl
  · rfl
  · exact (congrArg (fun x => x.groups.length) (complete_reacts _ _ _ _ _ _ (modGroup g (fun k => { k with arm := none }) c.2)).cmp).trans
      (modGroup_length ..)

section
variable {en rd g : Nat} {a : Arm} {c : Nat × State} (hg : g < 3)
include hg

/-- The decisions about the groups come, for one group, to the decision about it alone. -/
theorem decideGroups_focus (c : Nat × State) : ∃ r, armView r = armView c ∧ groupOf r.2 g = groupOf c.2 g ∧
    groupOf ((List.range 3).foldl (decideGroup en rd) c).2 g = groupOf (decideGroup en rd r g).2 g :=
  foldl_focus (g := decideGroup en rd) (v := armView) (w := fun c => groupOf c.2 g) List.nodup_range (List.mem_range.2 hg)
    (fun c i => armView_decideGroup en rd c i) (fun c _ ne => decideGroup_other en rd c (Ne.symm ne)) c

/-- A group whose ARM waits for a layer stays as it is. -/
theorem decideGroups_waits (w : groupWant en (groupOf c.2 g) ≠ 0) (f : ¬groupFires en rd (groupOf c.2 g)) :
    groupOf ((List.range 3).foldl (decideGroup en rd) c).2 g = groupOf c.2 g := by
  obtain ⟨r, -, hw, e⟩ := decideGroups_focus (en := en) (rd := rd) hg c
  rw [e, decideGroup_waits (hw ▸ w) (hw ▸ f), hw]

/-- A group whose ARM finds all its layers READY has it completed. -/
theorem decideGroups_arm (len : c.2.cmp.groups.length = 3) (ha : (groupOf c.2 g).armed = true) (hk : (groupOf c.2 g).arm = some a)
    (f : groupFires en rd (groupOf c.2 g)) :
    (groupOf ((List.range 3).foldl (decideGroup en rd) c).2 g).arm = none ∧ (c.2.cmd.outstanding.contains a.handle = true →
      ArmDone a.handle (a.mask &&& en) c.2.ft.frameCount ((List.range 3).foldl (decideGroup en rd) c).2) := by
  have start (r : Nat × State) (hr : armView r = armView c) : r.2.cmp.groups.length = 3 ∧
      r.2.cmd.outstanding = c.2.cmd.outstanding ∧ r.2.ft.frameCount = c.2.ft.frameCount := by
    obtain ⟨hv, hl⟩ := Prod.mk.inj hr
    exact ⟨hl.trans len, congrArg (fun x => x.cmd.outstanding) hv, congrArg (fun x => x.ft.frameCount) hv⟩
  constructor
  · obtain ⟨r, hv, hw, e⟩ := decideGroups_focus (en := en) (rd := rd) hg c
    obtain ⟨hl, -⟩ := start r hv
    exact (congrArg Group.arm e).trans (decideGroup_arm (hl ▸ hg) (hw ▸ ha) (hw ▸ hk) (hw ▸ f)).1
  · intro o
    refine foldl_achieves (g := decideGroup en rd) (P := fun d => ArmDone a.handle (a.mask &&& en) c.2.ft.frameCount d.2)
      (v := armView) (w := fun c => groupOf c.2 g) (List.mem_range.2 hg) (fun c i => armView_decideGroup en rd c i)
      (fun c _ ne => decideGroup_other en rd c (Ne.symm ne)) (fun r hv hw => ?_) (fun r i h => ?_)
    · obtain ⟨hl, ho, hf⟩ := start r hv
      exact hf ▸ (decideGroup_arm (hl ▸ hg) (hw ▸ ha) (hw ▸ hk) (hw ▸ f)).2 (ho ▸ o)
    · obtain ⟨e, m, h⟩ := h
      exact ⟨e, (decideGroup_cq en rd r i).subset m, h⟩

end

/-! ### What is decided before the flips (R23, R35, R89, R140) -/

/-- What the configurations of a latch leave alone (R140). -/
def configView (s : State) := { s with cmp := { s.cmp with layers := [], groups := [], postBypassLatched := false }, chk := {}, flt := {} }

theorem configView_latchLayer (n : Nat) (s : State) :
    configView (latchLayer n s) = configView s ∧ (latchLayer n s).cmp.layers.length = s.cmp.layers.length := by
  unfold latchLayer
  dsimp only
  split
  · exact ⟨rfl, modNth_length ..⟩
  · exact ⟨rfl, (modNth_length ..).trans (modNth_length ..)⟩

theorem configView_latchLayers (l : List Nat) (s : State) :
    configView (l.foldl (fun s n => latchLayer n s) s) = configView s ∧
      (l.foldl (fun s n => latchLayer n s) s).cmp.layers.length = s.cmp.layers.length := by
  induction l generalizing s with
  | nil => exact ⟨rfl, rfl⟩
  | cons n l ih => exact ⟨(ih _).1.trans (configView_latchLayer n s).1, (ih _).2.trans (configView_latchLayer n s).2⟩

theorem groups_latchLayers (l : List Nat) (s : State) : (l.foldl (fun s n => latchLayer n s) s).cmp.groups = s.cmp.groups := by
  refine foldl_view (v := fun s => s.cmp.groups) l (fun s n => ?_) s
  unfold latchLayer
  dsimp only
  split <;> rfl

theorem latchConfigs_spec (s : State) :
    configView (latchConfigs s) = configView s ∧ (latchConfigs s).cmp.layers.length = s.cmp.layers.length ∧
      (latchConfigs s).cmp.groups.length = s.cmp.groups.length ∧ (latchConfigs s).cmp.postBypassLatched = s.cmp.postBypass := by
  obtain ⟨hv, hl⟩ := configView_latchLayers (List.range 6) s
  have hg := groups_latchLayers (List.range 6) s
  unfold latchConfigs
  dsimp only
  generalize (List.range 6).foldl (fun s n => latchLayer n s) s = c at hv hl hg ⊢
  have hb : c.cmp.postBypass = s.cmp.postBypass := congrArg (fun x => x.cmp.postBypass) hv
  have ha := sigView_applySigs 15 { c with cmp := { c.cmp with groups := c.cmp.groups.map latchGroup, postBypassLatched := c.cmp.postBypass } }
  generalize applySigs 15 _ = d at ha ⊢
  refine ⟨(congrArg configView ha : configView (sigView d) = configView (sigView _)).trans hv, ?_, ?_, ?_⟩
  · exact (congrArg (fun x => x.cmp.layers.length) ha).trans hl
  · exact (congrArg (fun x => x.cmp.groups.length) ha).trans ((List.length_map _).trans (congrArg List.length hg))
  · exact (congrArg (fun x => x.cmp.postBypassLatched) ha).trans hb

theorem swapGains_only (s : State) :
    swapGains s = { s with map := { s.map with gainFront := s.map.gainBack.getD s.map.gainFront, gainBack := none } } := by
  unfold swapGains
  cases h : s.map.gainBack with
  | none =>
    dsimp only [Option.getD_none]
    rw [← h]
  | some g => rfl

theorem decided_keeps (s : State) :
    (decided s).ft.frameCount = s.ft.frameCount ∧ (decided s).ft.rateInForce = s.ft.rateInForce ∧
      (decided s).ft.effLead = min (max s.ft.leadArmed 500) (maxLead s.ft.rateInForce) ∧ (decided s).pwr.mode = s.pwr.mode ∧
      (decided s).cmd = s.cmd ∧ (decided s).diag = s.diag ∧ (decided s).scl = s.scl ∧
      (decided s).map.gainFront = s.map.gainBack.getD s.map.gainFront ∧ (decided s).map.liftEn = s.map.liftEn ∧
      (decided s).map.wearEn = s.map.wearEn ∧ (decided s).cmp.postBypassLatched = s.cmp.postBypass ∧
      (decided s).cmp.layers.length = s.cmp.layers.length ∧ (decided s).cmp.groups.length = s.cmp.groups.length := by
  obtain ⟨hv, hl, hg, hp⟩ := latchConfigs_spec (swapGains (latchLead s))
  unfold decided
  rw [swapGains_only] at hv hl hg hp ⊢
  generalize latchConfigs _ = c at hv hl hg hp ⊢
  have ft : (decideMode c).ft = (latchLead s).ft := congrArg (fun x => x.ft) hv
  have map := congrArg (fun x => x.map) hv
  refine ⟨(congrArg Ftimer.frameCount ft :), (congrArg Ftimer.rateInForce ft :), (congrArg Ftimer.effLead ft :), congrArg (fun x => x.pwr.mode) hv,
    congrArg (fun x => x.cmd) hv, congrArg (fun x => x.diag) hv, congrArg (fun x => x.scl) hv, congrArg Map.gainFront map,
    (congrArg Map.liftEn map :), (congrArg Map.wearEn map :), hp, hl, hg⟩

/-! ### The compose that starts (R81, R109, R165) -/

/-- The latch after its tables and the start of its compose. -/
def started (frame : Nat) (s : State) : State :=
  startCompose (match (latchTables s).pwr.next with | some n => n.1 | none => (latchTables s).pwr.mode) frame (latchTables s)

theorem guStartSources_only (l : List Nat) (s : State) :
    l.foldl (fun s r => guStartSource (16 + r) s) s = { s with chk := (l.foldl (fun s r => guStartSource (16 + r) s) s).chk } := by
  induction l generalizing s with
  | nil => rfl
  | cons r l ih =>
    rw [List.foldl_cons, ih]
    rfl

/-- What a compose latch fixes for its compose, before the units, the probes and the engines start. -/
def inputsHeld (m : Mode) (frame : Nat) (s : State) : State :=
  { s with
    scl := { s.scl with comp := snapshot m frame s }
    map := { s.map with cur := {} }
    diag := { s.diag with
      releaseArmed := s.diag.releaseDis.foldl (fun l p => insertNat p l) s.diag.releaseArmed, releaseDis := [] }
    arr := { s.arr with sumShadow := (0, 0, 0, 0) }
    flt := { s.flt with window4 := if s.flt.windows.contains 4 then s.flt.window4 + 1 else s.flt.window4 } }

theorem startCompose_eq (m : Mode) (frame : Nat) (s : State) :
    ∃ k, startCompose m frame s = dealTiles (chooseProbes { inputsHeld m frame s with chk := k }) :=
  ⟨_, congrArg (fun x => dealTiles (chooseProbes x)) (guStartSources_only (List.range 16) (inputsHeld m frame s))⟩

/-- What the start of a compose leaves alone of what the latch has decided. -/
theorem startCompose_spec (m : Mode) (frame : Nat) (s : State) :
    (startCompose m frame s).cmp = s.cmp ∧ (startCompose m frame s).cmd = s.cmd ∧ (startCompose m frame s).ft = s.ft ∧
      (startCompose m frame s).flt.conds = s.flt.conds ∧ (startCompose m frame s).map = { s.map with cur := {} } ∧
      (startCompose m frame s).scl.comp = snapshot m frame s ∧ (startCompose m frame s).arr.sumShadow = (0, 0, 0, 0) ∧
      (startCompose m frame s).scl.engines.length = 24 ∧ ∀ e, e < 24 →
        (engOf (startCompose m frame s) e).queue = dealt e ∧ (engOf (startCompose m frame s) e).tile = none ∧
        (engOf (startCompose m frame s) e).idle = false := by
  obtain ⟨k, h⟩ := startCompose_eq m frame s
  rw [h]
  refine ⟨rfl, rfl, rfl, rfl, rfl, rfl, rfl, ?_, fun e he => ?_⟩
  · exact (List.length_map _).trans List.length_range
  · unfold dealTiles engOf
    simp [he]

theorem layerSnaps_congr {s t : State} (h : s.cmp.layers = t.cmp.layers) : layerSnaps s = layerSnaps t := by
  have e : layerOf s = layerOf t := funext fun n => layerOf_congr h n
  unfold layerSnaps
  rw [e]

theorem latches_iff (s : State) :
    latches s ↔ (awake s && s.ft.running && litMode s.pwr.mode && !s.pwr.composeStop && !s.scl.comp.running) = true := by
  simp only [latches, Bool.and_eq_true, Bool.not_eq_true', and_assoc]

theorem exec_composeLatch {s : State} (h : latches s) :
    exec .composeLatch s = .next (started (wrapInc 32 s.ft.frameCount) (latchFlips (decided s))) := by
  change execComposeLatch s = _
  unfold execComposeLatch
  rw [if_pos ((latches_iff s).1 h)]
  unfold composeLatch started decided
  dsimp only <;> generalize latchFlips _ = w <;> rfl

theorem exec_composeLatch_idle {s : State} (h : ¬latches s) : exec .composeLatch s = .next s := by
  change execComposeLatch s = _
  unfold execComposeLatch
  rw [if_neg (fun c => h ((latches_iff s).2 c))]

/-- The start of the compose leaves the layers, the groups, the conditions and the completions as the flips left them. -/
theorem started_keeps (frame : Nat) (s : State) :
    (started frame s).cmp.layers = s.cmp.layers ∧ (started frame s).cmp.groups = s.cmp.groups ∧
      (started frame s).flt.conds = s.flt.conds ∧ (started frame s).cmd = s.cmd := by
  obtain ⟨cmp, cmd, -, conds, -⟩ := startCompose_spec
    (match (latchTables s).pwr.next with | some n => n.1 | none => (latchTables s).pwr.mode) frame (latchTables s)
  exact ⟨(congrArg Cmp.layers cmp :), (congrArg Cmp.groups cmp :), conds, cmd⟩

/-- A compose latch fixes the inputs of the compose and starts its engines. -/
theorem composeLatch_starts (s : State) :
    let t := started (wrapInc 32 s.ft.frameCount) (latchFlips (decided s))
    t.scl.comp.running = true ∧ t.scl.comp.frame = (s.ft.frameCount + 1) % 2 ^ 32 ∧
      t.scl.comp.retired = [] ∧ t.scl.comp.readDone = [] ∧ t.scl.comp.gus = true ∧ t.scl.comp.flushed = false ∧
      t.scl.comp.defects = s.diag.defects.map (·.pix) ∧ t.scl.comp.postBypass = s.cmp.postBypass ∧
      t.scl.comp.dpr = (bitsOf s.diag.dprEn 8).map (fun n => s.diag.dpr.getD n {}) ∧
      t.scl.comp.liftEn = s.map.liftEn ∧ t.scl.comp.wearEn = s.map.wearEn ∧ t.scl.comp.rep = repeatOf s.ft.rateInForce ∧
      t.scl.comp.stealEn = s.scl.stealEn ∧ t.scl.comp.xstealEn = s.scl.xstealEn ∧ t.scl.comp.layers = layerSnaps t ∧
      t.map.gainFront = s.map.gainBack.getD s.map.gainFront ∧ t.ft.effLead = min (max s.ft.leadArmed 500) (maxLead s.ft.rateInForce) ∧
      t.scl.engines.length = 24 ∧
      (∀ e, e < 24 → (engOf t e).queue = dealt e ∧ (engOf t e).tile = none ∧ (engOf t e).idle = false) ∧ t.arr.sumShadow = (0, 0, 0, 0) := by
  obtain ⟨-, rate, lead, -, -, diag, scl, gain, lift, wear, byp, -, -⟩ := decided_keeps s
  obtain ⟨ft', map', diag', scl', byp'⟩ := latchFlips_spares (decided s)
  unfold started
  generalize latchFlips (decided s) = w at ft' map' diag' scl' byp' ⊢
  obtain ⟨cmp, -, ft, -, map, comp, sums, len, eng⟩ := startCompose_spec
    (match (latchTables w).pwr.next with | some n => n.1 | none => (latchTables w).pwr.mode) (wrapInc 32 s.ft.frameCount) (latchTables w)
  generalize startCompose _ _ _ = t at cmp ft map comp sums len eng ⊢
  dsimp only
  rw [comp, map, ft]
  refine ⟨rfl, rfl, rfl, rfl, rfl, rfl, ?_, ?_, ?_, ?_, ?_, ?_, ?_, ?_, ?_, ?_, ?_, len, eng, sums⟩
  · exact congrArg (fun d => d.defects.map (·.pix)) (diag'.trans diag)
  · exact byp'.trans byp
  · exact congrArg (fun d : Diag => (bitsOf d.dprEn 8).map (fun n => d.dpr.getD n {})) (diag'.trans diag)
  · exact (congrArg Map.liftEn map').trans lift
  · exact (congrArg Map.wearEn map').trans wear
  · exact congrArg repeatOf ((congrArg Ftimer.rateInForce ft').trans rate)
  · exact (congrArg Scl.stealEn (scl'.trans scl) :)
  · exact (congrArg Scl.xstealEn (scl'.trans scl) :)
  · exact layerSnaps_congr (congrArg Cmp.layers cmp).symm
  · exact (congrArg Map.gainFront map').trans gain
  · exact (congrArg Ftimer.effLead ft').trans lead

/-- An enabled layer, its cause, the groups and the completions after a compose latch. -/
theorem composeLatch_layer {s : State} {n : Nat} (h : latches s) (hn : n < 6) (len : s.cmp.layers.length = 6) (en : (layerOf (decided s) n).enLatched = true) :
    ∃ t y, exec .composeLatch s = .next t ∧ layerOf t n = judged y ∧ condIs 0x0210 n t = (judged y).staleCause ∧
      y = turned s.pwr.mode s.ft.frameCount ((decideFlips (decided s)).1.testBit n) (layerOf (decided s) n) ∧
      t.cmp.groups = (decideFlips (decided s)).2.cmp.groups ∧ (decideFlips (decided s)).2.cmd.cq <+: t.cmd.cq := by
  obtain ⟨frame, -, -, mode, -, -, -, -, -, -, -, lens, -⟩ := decided_keeps s
  obtain ⟨lay, cond⟩ := latchFlips_layer hn (lens.trans len) en
  obtain ⟨view, cq⟩ := latchFlips_frame (decided s)
  rw [frame, mode] at lay cond
  have run := exec_composeLatch h
  generalize (decideFlips (decided s)).2 = d at view cq ⊢
  generalize latchFlips (decided s) = w at lay cond view cq run
  obtain ⟨layers, groups, conds, cmd⟩ := started_keeps (wrapInc 32 s.ft.frameCount) w
  generalize started _ w = t at run layers groups conds cmd
  rw [← cmd] at cq
  refine ⟨t, _, run, (layerOf_congr layers n).trans lay, (condIs_congr conds ..).trans cond, rfl, groups.trans ?_, cq⟩
  exact congrArg (fun x => x.2.2.2.2.1) view

/-- A layer `y` is the layer `x` after a flip at a latch of a frame, judged. -/
def HasFlipped (frame : Nat) (x y : Layer) : Prop :=
  y.frontBuf = backBuf x ∧ y.hasFront = true ∧ y.back = .empty ∧ y.stale = 0 ∧ y.flips = min (x.flips + 1) (2 ^ 32 - 1) ∧
    y.latchCount = frame ∧ y.pend = none ∧ ∀ c, x.pend = some c → y.cfg = present c x.cfg

/-- A layer `y` is the layer `x` after a latch at which it did not flip, judged. -/
def HasStayed (m : Mode) (x y : Layer) : Prop :=
  y.frontBuf = x.frontBuf ∧ y.hasFront = x.hasFront ∧ y.back = x.back ∧ y.cfg = x.cfg ∧ y.flips = x.flips ∧
    y.stale = if m = .beam then min (x.stale + 1) 65535 else x.stale

theorem judged_flips (m : Mode) (frame : Nat) (x : Layer) : HasFlipped frame x (judged (turned m frame true x)) := by
  refine ⟨rfl, rfl, rfl, rfl, rfl, rfl, rfl, fun c h => ?_⟩
  simp [judged, turned, flipped, h]

theorem judged_stays (m : Mode) (frame : Nat) (x : Layer) : HasStayed m x (judged (turned m frame false x)) := by
  unfold turned repeated
  by_cases b : m = .beam
  · simp [HasStayed, judged, b, satInc, satAdd]
  · simp [HasStayed, judged, b]

theorem judged_policy (l : Layer) :
    ((judged l).transparent = true ↔ (judged l).cfg.policy = 1 ∧ (judged l).cfg.staleN ≤ (judged l).stale) ∧
      ((judged l).staleCause = true ↔ (judged l).cfg.policy = 2 ∧ (judged l).cfg.staleN ≤ (judged l).stale) := by
  simp [judged]

/-- All enabled layers of a set are READY. -/
def AllReady (u : State) (m : Nat) : Prop :=
  ∀ i, i < 6 → m.testBit i = true → (layerOf u i).enLatched = true → (layerOf u i).back = .ready

section
variable {u : State} {n g : Nat} (hn : n < 6) (en : (layerOf u n).enLatched = true)
include hn en

theorem flips_of_ungrouped (r : (layerOf u n).back = .ready) (f : ungrouped u n = true) : (decideFlips u).1.testBit n = true :=
  (decideFlips_mask u n).2 (.inl ⟨hn, en, r, f⟩)

omit hn en in
theorem stays_of_not_ready (r : (layerOf u n).back ≠ .ready) : (decideFlips u).1.testBit n = false := by
  refine Bool.eq_false_iff.2 fun h => ?_
  rcases (decideFlips_mask u n).1 h with ⟨-, -, k, -⟩ | ⟨g, -, f, w⟩
  · exact r k
  · exact r (groupFires_ready f w)

theorem fires_of_allReady {m : Nat} (hw : groupWant (layerMask u (·.enLatched)) (groupOf u g) = m &&& layerMask u (·.enLatched))
    (hm : m.testBit n = true) (r : AllReady u m) :
    groupFires (layerMask u (·.enLatched)) (layerMask u (fun l => l.back = .ready)) (groupOf u g) := by
  unfold groupFires
  rw [hw]
  exact ⟨ne_zero_of_testBit (want_testBit hn en hm), wantReady_iff.2 r⟩

theorem flips_of_fires {m : Nat} (hg : g < 3) (hw : groupWant (layerMask u (·.enLatched)) (groupOf u g) = m &&& layerMask u (·.enLatched))
    (hm : m.testBit n = true) (r : AllReady u m) : (decideFlips u).1.testBit n = true :=
  (decideFlips_mask u n).2 (.inr ⟨g, hg, fires_of_allReady hn en hw hm r, by rw [hw]; exact want_testBit hn en hm⟩)

omit hn en in
theorem not_fires {m : Nat} (hw : groupWant (layerMask u (·.enLatched)) (groupOf u g) = m &&& layerMask u (·.enLatched))
    (r : ¬AllReady u m) : ¬groupFires (layerMask u (·.enLatched)) (layerMask u (fun l => l.back = .ready)) (groupOf u g) := by
  intro f
  have e := f.2
  rw [hw] at e
  exact r (wantReady_iff.1 e)

omit hn en in
/-- A layer of one unarmed group that waits, and of no other set that could flip it, does not flip. -/
theorem stays_of_group (hg : g < 3) (ha : (groupOf u g).armed = false) (hm : (groupOf u g).members.testBit n = true)
    (r : ¬AllReady u (groupOf u g).members) (only : ∀ h, h < 3 → h ≠ g → (groupOf u h).members.testBit n = false)
    (arms : ∀ h a, h < 3 → (groupOf u h).arm = some a → a.mask.testBit n = false) : (decideFlips u).1.testBit n = false := by
  refine Bool.eq_false_iff.2 fun k => ?_
  rcases (decideFlips_mask u n).1 k with ⟨-, -, -, f⟩ | ⟨h, hh, f, w⟩
  · have := List.all_eq_true.1 f g (List.mem_range.2 hg)
    simp [hm] at this
  · by_cases e : h = g
    · subst e
      exact not_fires (by simp [groupWant, ha]) r f
    · unfold groupWant at w
      split at w
      · simp [only h hh e] at w
      · split at w
        case h_1 a q => simp [arms h a hh q] at w
        case h_2 => simp at w

omit hn en in
theorem decideFlips_waits (hg : g < 3) (w : groupWant (layerMask u (·.enLatched)) (groupOf u g) ≠ 0)
    (f : ¬groupFires (layerMask u (·.enLatched)) (layerMask u (fun l => l.back = .ready)) (groupOf u g)) :
    groupOf (decideFlips u).2 g = groupOf u g := by
  unfold decideFlips
  exact decideGroups_waits hg w f

omit hn en in
theorem decideFlips_arm {a : Arm} (hg : g < 3) (len : u.cmp.groups.length = 3) (ha : (groupOf u g).armed = true)
    (hk : (groupOf u g).arm = some a) (f : groupFires (layerMask u (·.enLatched)) (layerMask u (fun l => l.back = .ready)) (groupOf u g)) :
    (groupOf (decideFlips u).2 g).arm = none ∧ (u.cmd.outstanding.contains a.handle = true →
      ArmDone a.handle (a.mask &&& layerMask u (·.enLatched)) u.ft.frameCount (decideFlips u).2) := by
  unfold decideFlips
  exact decideGroups_arm hg len ha hk f

end

/-- Settles O24. -/
theorem composeLatchStarts : Obligations.ComposeLatchStarts := by
  unfold Obligations.ComposeLatchStarts
  refine ⟨fun s h => ⟨_, exec_composeLatch h, composeLatch_starts s⟩, fun s h => exec_composeLatch_idle h, fun n s t h he hn len en => ?_⟩
  obtain ⟨t', z, run, lay, cond, turn, groups, cq⟩ := composeLatch_layer h hn len en
  obtain rfl : t' = t := Host.Outcome.next.inj (run.symm.trans he)
  obtain ⟨frame, -, -, -, cmd, -, -, -, -, -, -, -, glen⟩ := decided_keeps s
  dsimp only
  rw [lay]
  generalize decided s = u at en turn groups cq frame cmd glen ⊢
  have flips (k : (decideFlips u).1.testBit n = true) : HasFlipped s.ft.frameCount (layerOf u n) (judged z) := by
    rw [turn, k]
    exact judged_flips ..
  have stays (k : (decideFlips u).1.testBit n = false) : HasStayed s.pwr.mode (layerOf u n) (judged z) := by
    rw [turn, k]
    exact judged_stays ..
  refine ⟨fun r f => flips (flips_of_ungrouped hn en r f), fun r => stays (stays_of_not_ready r), fun g hg ha hm => ?_,
    fun g a hg gl ha hk hm => ?_, (judged_policy z).1, (judged_policy z).2, cond⟩
  · exact ⟨fun r => flips (flips_of_fires hn en hg (by simp [groupWant, ha]) hm r),
      fun r only arms => stays (stays_of_group hg ha hm r only arms)⟩
  · have hw : groupWant (layerMask u (·.enLatched)) (groupOf u g) = a.mask &&& layerMask u (·.enLatched) := by simp [groupWant, ha, hk]
    refine ⟨fun r => ⟨flips (flips_of_fires hn en hg hw hm r), ?_⟩, fun r => ?_⟩
    · obtain ⟨arm, done⟩ := decideFlips_arm hg (glen.trans gl) ha hk (fires_of_allReady hn en hw hm r)
      refine ⟨(congrArg Group.arm (groupOf_congr groups g)).trans arm, fun o => ?_⟩
      obtain ⟨e, mem, he⟩ := done (by rw [cmd]; exact o)
      rw [frame] at he
      exact ⟨e, cq.subset mem, he⟩
    · rw [groupOf_congr groups g, decideFlips_waits hg (by rw [hw]; exact ne_zero_of_testBit (want_testBit hn en hm)) (not_fires hw r), hk]

end Sys2Proof.Machine
end

section
/-! Discarded packets (R222, R224): the counter of header errors is left alone by a packet that counts nowhere, so it reads at most 16 bits
only where it did so before. -/

namespace Sys2Proof.Machine

/-! ### A packet in progress -/

/-- The columns of one lane that break off after the header of a CMD packet with a body of 12 bytes. -/
def brokenOff : List (List LaneWord) := columnsOf [false] (.ctl 0xFB :: dataSyms (headerBytes 0x10 0 [] 12))

/-- A state with a host path of one lane that is up, and a value in its counter of header errors. -/
def countedErrors (n : Nat) : State :=
  { State.reset with
    pwr := { State.reset.pwr with inReset := false, mode := .beam, limral := true }
    lnk := { State.reset.lnk with bondMask := 1 }
    rope := { State.reset.rope with host := { State.reset.rope.host with up := true, hdrErr := n } } }

theorem rxOf_brokenOff (n : Nat) :
    (rxOf .host brokenOff (countedErrors n)).out = .unfinished ∧ (rxOf .host brokenOff (countedErrors n)).misplaced = 0 := by
  have same : rxOf .host brokenOff (countedErrors n) = rxOf .host brokenOff (countedErrors 0) := rfl
  rw [same]
  decide +kernel

theorem brings_brokenOff (n : Nat) : brings .host brokenOff (rxOf .host brokenOff (countedErrors n)) (countedErrors n) := by
  refine ⟨?_, rfl, rfl⟩
  change lanesUp (countedErrors 0) = true
  decide +kernel

/-! ### The counter of header errors -/

theorem rope_takeColumns (p : Path) (cols : List (List LaneWord)) (s : State) : (takeColumns p cols s).rope = s.rope := by
  unfold takeColumns
  exact foldl_view (v := State.rope) (g := fun s q => takeWords ((pathLanes _ p).getD q 0) (wordsAt cols q) s) _ (fun _ _ => rfl) s

theorem hdrErr_forwardPacket (p : Path) (r : Rx) (s : State) : (pathOf (forwardPacket p r s) .host).hdrErr = (pathOf s .host).hdrErr := by
  unfold forwardPacket
  dsimp only
  repeat' split
  all_goals rfl

/-- A packet that is still in progress when its columns break off, with no misplaced start, leaves the counter as it is. -/
theorem hdrErr_unfinished {fill : Nat} {cols : List (List LaneWord)} {r : Rx} {s : State} (h : brings .host cols r s)
    (f : fill ≤ bufferBytes .host) (o : r.out = .unfinished) (m : r.misplaced = 0) :
    ∃ t, exec (.packetDiscard .host cols fill) s = .next t ∧ (pathOf t .host).hdrErr = (pathOf s .host).hdrErr := by
  obtain ⟨lanes, up, rfl⟩ := h
  have kind : discards .host fill s (rxOf .host cols s) = true := by simp [discards, o]
  have rope := rope_takeColumns .host cols s
  have stays : (pathOf (takeColumns .host cols s) .host).up = true := (congrArg (fun x => x.host.up) rope).trans up
  refine ⟨_, rfl, ?_⟩
  rw [onPacket_run lanes kind, if_pos stays]
  have room : overflows .host fill (rxOf .host cols s) = false := by simp [overflows, f]
  simp only [discard, room, o, Bool.false_eq_true, if_false]
  have mark (t : State) : (pathOf (markBuffer .host fill t) .host).hdrErr = (pathOf t .host).hdrErr := rfl
  rw [mark, hdrErr_forwardPacket]
  simp only [keepRest, m, if_true]
  exact congrArg (fun x => x.host.hdrErr) rope

/-- Refutes O45: the clause about a packet that is still in progress when its columns break off says that the counter of header errors then
reads `min 65535` of what it read, also where no start of packet was misplaced. The model then leaves the counter alone, and the state
bounds it by nothing: it reads 70,000 before and after. (R235 gives the counter 16 bits, so no run from reset reaches such a state;
the clause wants `hdrErr ≤ 65535` as a hypothesis.) -/
theorem not_backBuffersAndPackets : ¬ Obligations.BackBuffersAndPackets := by
  unfold Obligations.BackBuffersAndPackets
  intro h
  obtain ⟨-, -, -, -, -, packets, -⟩ := h
  have b := brings_brokenOff 70000
  obtain ⟨o, m⟩ := rxOf_brokenOff 70000
  obtain ⟨-, -, unfinished, -⟩ := packets .host brokenOff 0 _ _ b
  obtain ⟨t, run, capped, -⟩ := unfinished (Nat.zero_le _) o
  obtain ⟨u, run', kept⟩ := hdrErr_unfinished b (Nat.zero_le (bufferBytes .host)) o m
  obtain rfl : t = u := Host.Outcome.next.inj (run.symm.trans run')
  have impossible : (70000 : Nat) = min 65535 (70000 + 0) := by
    rw [m] at capped
    exact kept.symm.trans capped
  exact absurd impossible (by decide)

end Sys2Proof.Machine
end

section
/-! Requests that the mode turns away: the groups that KINDLE bars, and SET_MODE (R41 to R43). -/

namespace Sys2Proof.Machine

/-! ### WRONG_MODE -/

/-- A request of a path that may send its opcode, in a mode that bars it (R241). -/
theorem request_wrongMode {op : Nat} {rq : Rq} {s : State} {modeOk : State → Bool} {lenOk : Nat → Bool} {extra : Bool} {body : Body}
    (h : canRun op rq s = true) (tw : (decide (rq.src = .twin) && !twinOpcodes.contains op) = false)
    (m : (decide (s.pwr.mode = .kindle) && barredInKindle op || !modeOk (after op rq s)) = true) :
    request rq op modeOk lenOk extra body s = answered op rq { status := stWrongMode } (after op rq s) := by
  have j : judge rq.src op rq.payload (modeOk (after op rq s)) (lenOk rq.payload.length) extra body (after op rq s) =
      rep stWrongMode (after op rq s) := by
    unfold judge
    rw [after_mode, tw, m]
    rfl
  unfold request
  rw [h]
  simp only [Bool.not_true, Bool.false_eq_true, if_false]
  change answered op rq
    (judge rq.src op rq.payload (modeOk (after op rq s)) (lenOk rq.payload.length) extra body (after op rq s)).1
    (judge rq.src op rq.payload (modeOk (after op rq s)) (lenOk rq.payload.length) extra body (after op rq s)).2 = _
  rw [j]
  rfl

/-- In KINDLE a barred opcode is answered WRONG_MODE whatever its own rules say (R43). -/
theorem request_barred {op : Nat} {rq : Rq} {s : State} {modeOk : State → Bool} {lenOk : Nat → Bool} {extra : Bool} {body : Body}
    (h : canRun op rq s = true) (tw : rq.src ≠ .twin) (k : s.pwr.mode = .kindle) (b : barredInKindle op = true) :
    request rq op modeOk lenOk extra body s = answered op rq { status := stWrongMode } (after op rq s) :=
  request_wrongMode h (by simp [tw]) (by simp [k, b])

/-- An opcode that KINDLE does not bar reaches its own rules. -/
theorem reaches_of_unbarred {op : Nat} {rq : Rq} {s : State} (h : canRun op rq s = true) (tw : rq.src ≠ .twin)
    (b : barredInKindle op = false) : reaches op rq s = true := by
  simp [reaches, h, tw, b]

/-- Settles O13: each opcode is barred, and its command is the request of that opcode. -/
theorem kindleBarsGroups : Obligations.KindleBarsGroups := by
  unfold Obligations.KindleBarsGroups
  refine ⟨fun c op rq r v s h tw k n mem => ?_, fun op rq s b h tw => reaches_of_unbarred h tw ?_⟩
  · have barred {o : Nat} {modeOk : State → Bool} {lenOk : Nat → Bool} {extra : Bool} {body : Body} (ho : canRun o rq s = true)
        (b : barredInKindle o = true) := request_barred (modeOk := modeOk) (lenOk := lenOk) (extra := extra) (body := body) ho tw k b
    simp only [List.mem_cons, List.not_mem_nil, or_false, Prod.mk.injEq] at mem
    rcases mem with ⟨rfl, rfl⟩ | ⟨rfl, rfl⟩ | ⟨rfl, rfl⟩ | ⟨rfl, rfl⟩ | ⟨rfl, rfl⟩ | ⟨rfl, rfl⟩ | ⟨rfl, rfl⟩ | ⟨rfl, rfl⟩ | ⟨rfl, rfl⟩ |
      ⟨rfl, rfl⟩ | ⟨rfl, rfl⟩ | ⟨rfl, rfl⟩ | ⟨rfl, rfl⟩ | ⟨rfl, rfl⟩ | ⟨rfl, rfl⟩ | ⟨rfl, rfl⟩ | ⟨rfl, rfl⟩ | ⟨rfl, rfl⟩ | ⟨rfl, rfl⟩
    all_goals simp only [exec, execCalibrateFull, execCalibrateSensors, n, if_true, calibrate, execCalCommit, execPatternWriteBegin,
      execPatternWriteData, execPatternWriteCommit, execPatternWriteAbort, patternWrite, execDiagMapRead, execPixelTestMeasure,
      execPixelTestRelease, execPixelTestDisable, pixelTest, execThermConfig, execThermClear, execStoreAssign, execStorePool, storeAssign,
      execFwPatchBegin, execFwPatchData, execFwPatchCommit, execFwPatchAbort, fwPatch]
    all_goals exact barred h rfl
  · rcases b with b | rfl
    · simp only [barredInKindle, Bool.and_eq_false_iff]
      exact .inl (by simpa using b)
    · rfl

/-! ### SET_MODE (R39, R41, R42) -/

/-- The TARGET byte of a SET_MODE payload. -/
theorem target_of_payload {rq : Rq} {k : Nat} (p : rq.payload = le 1 k ++ le 3 0) : field rq.payload 0 1 = k % 256 := by
  rw [p]
  exact field_mid [] (le 3 0) 1 k 0 rfl

/-- SET_MODE with a TARGET that names a mode, where the mode in force lets that target be judged. -/
theorem exec_setMode {rq : Rq} {s : State} {k : Nat} {m : Mode} (h : admits 0x10 rq s = true) (p : rq.payload = le 1 k ++ le 3 0)
    (t : targetOf (k % 256) = some m) (ok : s.pwr.mode = .snuffed → m = .snuffed) :
    exec (.setMode rq) s = answered 0x10 rq (setModeTo m rq.src (after 0x10 rq s)).1 (setModeTo m rq.src (after 0x10 rq s)).2 := by
  change execSetMode rq s = _
  unfold execSetMode
  rw [target_of_payload p, t]
  refine request_plain h ?_ (by simp [p, lenIs])
  rw [after_mode]
  by_cases e : s.pwr.mode = .snuffed
  · simp [ok e]
  · simp [e]

/-- In SNUFFED a SET_MODE to another mode is answered WRONG_MODE. -/
theorem exec_setMode_snuffed {rq : Rq} {s : State} {k : Nat} {m : Mode} (h : admits 0x10 rq s = true) (p : rq.payload = le 1 k ++ le 3 0)
    (t : targetOf (k % 256) = some m) (ne : m = .beam ∨ m = .pilot) (e : s.pwr.mode = .snuffed) :
    exec (.setMode rq) s = answered 0x10 rq { status := stWrongMode } (after 0x10 rq s) := by
  simp only [admits, Bool.and_eq_true, Bool.not_eq_true'] at h
  obtain ⟨⟨⟨c, tw⟩, -⟩, -⟩ := h
  change execSetMode rq s = _
  unfold execSetMode
  rw [target_of_payload p, t]
  refine request_wrongMode c tw ?_
  rw [after_mode]
  rcases ne with rfl | rfl <;> simp [e]

section
variable {m : Mode} {x : Src} {b : State} (entry : entryInProgress b = false)
include entry

theorem setModeTo_same (e : m = b.pwr.mode) : setModeTo m x b = rep stOk (endPending stSuperseded (modeTaken b)) := by
  simp [setModeTo, entry, e]

theorem setModeTo_snuffed (ne : b.pwr.mode ≠ .snuffed) : setModeTo .snuffed x b = rep stOk (hostSnuff x (modeTaken b)) := by
  simp [setModeTo, entry, ne.symm]

theorem setModeTo_refused (ne : m ≠ b.pwr.mode) (ns : m ≠ .snuffed) (r : modeRefused m b = true) : setModeTo m x b = rep stRefused b := by
  simp [setModeTo, entry, ne, ns, r]

theorem setModeTo_accepted (ne : m ≠ b.pwr.mode) (ns : m ≠ .snuffed) (r : modeRefused m b = false) (free : b.cmd.outstanding.length < 64) :
    let u := endPending stSuperseded (modeTaken (takeHandle b))
    setModeTo m x b = ({ status := stAccepted, handle := newHandle b },
      { u with pwr := { u.pwr with pend := some { target := m, handle := newHandle b, src := x } } }) := by
  simp [setModeTo, entry, ne, ns, r, accept, handleFree, free]

end

/-- Settles O15: one equation of `setModeTo` for each row of R41's table. -/
theorem setModeReplies : Obligations.SetModeReplies := by
  unfold Obligations.SetModeReplies
  intro rq s k m h p mem b entry
  have mode : b.pwr.mode = s.pwr.mode := after_mode ..
  have named : targetOf (k % 256) = some m ∧ (m ≠ .snuffed → m = .beam ∨ m = .pilot) := by
    simp only [List.mem_cons, List.not_mem_nil, or_false, Prod.mk.injEq] at mem
    rcases mem with ⟨rfl, rfl⟩ | ⟨rfl, rfl⟩ | ⟨rfl, rfl⟩ <;> decide
  obtain ⟨t, lit⟩ := named
  refine ⟨fun e => ?_, fun e ne => ?_, fun ns e => exec_setMode_snuffed h p t (lit ns) e, fun ne ns sn r => ?_, fun ne ns sn st lv free => ?_⟩
  · rw [exec_setMode h p t (fun k => e.trans k), setModeTo_same entry (e.trans mode.symm)]
    rfl
  · subst e
    rw [exec_setMode h p t (fun _ => rfl), setModeTo_snuffed entry (by rwa [mode])]
    rfl
  · have refused : modeRefused m b = true := by
      rcases r with ⟨e, st⟩ | ⟨e, md, lv⟩
      · simp [modeRefused, mode, e, st]
      · simp [modeRefused, pilotTrigger, mode, e, md, lv]
    rw [exec_setMode h p t (fun k => absurd k sn), setModeTo_refused entry (by rwa [mode]) ns refused]
    rfl
  · have allowed : modeRefused m b = false := by
      simp only [modeRefused, pilotTrigger, mode, Bool.or_eq_false_iff, Bool.and_eq_false_iff]
      constructor
      · by_cases e : s.pwr.mode = .belay
        · simp [st e]
        · simp [e]
      · by_cases e : m = .beam
        · by_cases q : s.pwr.mode = .pilot ∨ s.pwr.mode = .belay
          · exact .inr (by simpa using lv e q)
          · simp only [not_or] at q
            simp [q]
        · simp [e]
    rw [exec_setMode h p t (fun k => absurd k sn), setModeTo_accepted entry (by rwa [mode]) ns allowed free]

end Sys2Proof.Machine
end

section
/-! Resets (R356, R357, R377, R409, R412, R418, R422): what breaking off a store, a load or a patch leaves alone, and what a hard reset
leaves of the state. -/

namespace Sys2Proof.Machine

/-! ### What a store that is broken off leaves alone -/

/-- The parts of the state that a reset reads after it has broken off what ran: the scar area, TEST_EN, the self-fault registers. -/
def resetView (s : State) := (s.nvm.scar, s.nvm.scarBad, s.pwr, s.flt)

@[simp] theorem mramWrite_scar (a : Nat) (b : List Byte) (s : State) : (mramWrite a b s).nvm.scar = s.nvm.scar := rfl

@[simp] theorem mramWrite_scarBad (a : Nat) (b : List Byte) (s : State) : (mramWrite a b s).nvm.scarBad = s.nvm.scarBad := rfl

@[simp] theorem resetView_mramWrite (a : Nat) (b : List Byte) (s : State) : resetView (mramWrite a b s) = resetView s := by simp [resetView]

theorem resetView_takeFree (s : State) : resetView (takeFree s).2 = resetView s := rfl

@[simp] theorem resetView_setInForce (c k g : Nat) (s : State) : resetView (setInForce c k g s) = resetView s := rfl

@[simp] theorem resetView_countUnits (n : Nat) (s : State) : resetView (countUnits n s) = resetView s := rfl

@[simp] theorem resetView_clearCommit (c k : Nat) (s : State) : resetView (clearCommit c k s) = resetView s := resetView_mramWrite ..

@[simp] theorem resetView_writePart (c k g : Nat) (b : List Byte) (n : Nat) (s : State) : resetView (writePart c k g b n s) = resetView s := by
  unfold writePart
  dsimp only
  split <;> simp

@[simp] theorem resetView_tearSlot (c k g : Nat) (b : List Byte) (s : State) : resetView (tearSlot c k g b s) = resetView s := by
  unfold tearSlot
  exact (resetView_writePart ..).trans (resetView_takeFree s)

@[simp] theorem resetView_tearStore (s : State) : resetView (tearStore s) = resetView s := by
  unfold tearStore
  split
  · rfl
  · exact (resetView_tearSlot ..).trans rfl

@[simp] theorem resetView_pwCommitSlot (l : PwLoad) (b : List Byte) (s : State) : resetView (pwCommitSlot l b s) = resetView s := by
  unfold pwCommitSlot
  rw [resetView_setInForce, resetView_countUnits, resetView_mramWrite, resetView_mramWrite]

@[simp] theorem resetView_tearLoad (s : State) : resetView (tearLoad s) = resetView s := by
  unfold tearLoad
  split
  · rfl
  · rename_i l _
    have h : resetView { s with nvm := { s.nvm with pw := none } } = resetView s := rfl
    dsimp only
    generalize ({ s with nvm := { s.nvm with pw := none } } : State) = w at h ⊢
    split
    · exact h
    · rw [← h, ← resetView_takeFree w]
      split
      · rfl
      · split <;> simp

@[simp] theorem resetView_tearPatch (s : State) : resetView (tearPatch s) = resetView s := by
  unfold tearPatch
  split
  · rfl
  · have h : resetView { s with cmd := { s.cmd with patch := none } } = resetView s := rfl
    dsimp only
    generalize ({ s with cmd := { s.cmd with patch := none } } : State) = w at h ⊢
    split
    · exact h
    · rw [← h, ← resetView_takeFree w]
      split
      · rfl
      · simp

/-- What runs when a reset comes is broken off (R359, R367). -/
def torn (s : State) : State := tearPatch (tearLoad (tearStore s))

theorem resetView_torn (s : State) : resetView (torn s) = resetView s := by simp [torn]

/-- Where nothing runs, nothing is broken off. -/
theorem torn_quiet {s : State} (h : nvmQuiet s) : torn s = s := by
  obtain ⟨run, load, patch⟩ := h
  simp [torn, tearStore, run, tearLoad, load, tearPatch, patch]

/-! ### The hard reset (R412, R415) -/

/-- Every block but the always-on island, the collector, MRAM and the scar area is at its reset values. -/
theorem hardReset_blocks (a : Ao) (s : State) : blocksReset (hardReset a .full s) := by
  unfold blocksReset hardReset
  exact ⟨rfl, rfl, rfl, rfl, rfl, rfl, rfl, rfl, rfl, rfl, rfl, rfl, rfl, rfl, rfl, rfl⟩

/-- What a hard reset keeps. -/
theorem hardReset_leaves (a : Ao) (f : Flavor) (s : State) :
    (hardReset a f s).ao = a ∧ (hardReset a f s).pwr = { testEn := s.pwr.testEn, flavor := f } ∧
      (hardReset a f s).nvm.scar = s.nvm.scar ∧ (hardReset a f s).nvm.scarBad = s.nvm.scarBad ∧
      (hardReset a f s).flt = (if a.resetCause = 0 then {} else
        { selfCount := s.flt.selfCount, selfParity := s.flt.selfParity, selfCompare := s.flt.selfCompare, selfWord := s.flt.selfWord }) ∧
      (nvmQuiet s → (hardReset a f s).nvm.mram = s.nvm.mram ∧ (hardReset a f s).nvm.badWords = s.nvm.badWords) := by
  have v := resetView_torn s
  simp only [resetView, Prod.mk.injEq] at v
  obtain ⟨scar, bad, pwr, flt⟩ := v
  refine ⟨rfl, congrArg (fun p : Pwr => ({ testEn := p.testEn, flavor := f } : Pwr)) pwr, scar, bad, ?_, fun q => ?_⟩
  · rw [← flt]
    rfl
  · have t := torn_quiet q
    exact ⟨congrArg (fun x => x.nvm.mram) t, congrArg (fun x => x.nvm.badWords) t⟩

/-! ### Words that become uncorrectable at a power-on (R357) -/

theorem mem_insertNat (i j : Nat) (l : List Nat) : i ∈ insertNat j l ↔ i = j ∨ i ∈ l := by
  induction l with
  | nil => simp [insertNat]
  | cons k l ih =>
    unfold insertNat
    split
    · simp
    · split
      · rename_i e
        simp [e]
      · simp only [List.mem_cons, ih]
        tauto

theorem mem_insertNats (i : Nat) (w l : List Nat) : i ∈ w.foldl (fun l w => insertNat w l) l ↔ i ∈ l ∨ i ∈ w := by
  induction w generalizing l with
  | nil => simp
  | cons a w ih =>
    rw [List.foldl_cons, ih, mem_insertNat, List.mem_cons]
    tauto

/-! ### The resets -/

/-- The address of the wake port as R409 gives it. -/
theorem wakeAddr_eq (a0 a1 : Bool) : wakeAddr a0 a1 = 0x58 + (if a1 then 2 else 0) + (if a0 then 1 else 0) := by
  cases a0 <;> cases a1 <;> rfl

/-- The always-on island that a power-on leaves (R377, R409, R412). -/
def poweredIsland (rise a0 a1 : Bool) (a : Ao) : Ao :=
  { cycles := if rise then satInc 32 a.cycles else a.cycles, wakeLevel := a.wakeLevel, i2cAddr := if rise then wakeAddr a0 a1 else a.i2cAddr }

/-- POWER_ON: a hard reset that ends TEST_EN, after which the words named hold an uncorrectable error. -/
theorem exec_powerOn {rise a0 a1 : Bool} {w v : List Nat} {s : State} (hw : w.all (fun i => decide (i < 0x100000)) = true)
    (hv : v.all (fun i => decide (i < 128)) = true) :
    let t := hardReset (poweredIsland rise a0 a1 s.ao) .full { s with pwr := { s.pwr with testEn := false } }
    exec (.powerOn rise a0 a1 w v) s = .next { t with nvm := { t.nvm with
      badWords := w.foldl (fun l w => insertNat w l) t.nvm.badWords, scarBad := v.foldl (fun l w => insertNat w l) t.nvm.scarBad } } := by
  change execPowerOn rise a0 a1 w v s = _
  unfold execPowerOn
  rw [hw, hv]
  rfl

theorem powerOn_spec {rise a0 a1 : Bool} {w v : List Nat} {s : State} (hw : w.all (fun i => decide (i < 0x100000)) = true)
    (hv : v.all (fun i => decide (i < 128)) = true) :
    ∃ t, exec (.powerOn rise a0 a1 w v) s = .next t ∧ blocksReset t ∧ t.flt = {} ∧ t.pwr = {} ∧ t.nvm.scar = s.nvm.scar ∧
      t.ao = poweredIsland rise a0 a1 s.ao ∧ (∀ i, i ∈ t.nvm.scarBad ↔ i ∈ s.nvm.scarBad ∨ i ∈ v) ∧
      (nvmQuiet s → t.nvm.mram = s.nvm.mram ∧ ∀ i, i ∈ t.nvm.badWords ↔ i ∈ s.nvm.badWords ∨ i ∈ w) := by
  refine ⟨_, exec_powerOn hw hv, ?_⟩
  have blocks := hardReset_blocks (poweredIsland rise a0 a1 s.ao) { s with pwr := { s.pwr with testEn := false } }
  obtain ⟨ao, pwr, scar, bad, flt, mram⟩ := hardReset_leaves (poweredIsland rise a0 a1 s.ao) .full { s with pwr := { s.pwr with testEn := false } }
  generalize hardReset _ _ _ = t at blocks ao pwr scar bad flt mram ⊢
  refine ⟨?_, flt, pwr, scar, ao, fun i => ?_, fun q => ?_⟩
  · obtain ⟨ft, arr, map, diag, cmp, scl, chk, lnk, rope, cmd, twn, mem, thm, evr, pwr, nvm⟩ := blocks
    exact ⟨ft, arr, map, diag, cmp, scl, chk, lnk, rope, cmd, twn, mem, thm, evr, pwr, by rw [nvm]⟩
  · rw [mem_insertNats, bad]
  · obtain ⟨m, b⟩ := mram q
    exact ⟨m, fun i => by rw [mem_insertNats, b]⟩

theorem resetN_spec (a0 a1 : Bool) (s : State) :
    ∃ t, exec (.resetNAssert a0 a1) s = .next t ∧ blocksReset t ∧ t.nvm.scar = s.nvm.scar ∧ (nvmQuiet s → t.nvm.mram = s.nvm.mram) ∧
      t.ao = { aoReset 1 s.ao with i2cAddr := wakeAddr a0 a1 } ∧
      t.flt = { selfCount := s.flt.selfCount, selfParity := s.flt.selfParity, selfCompare := s.flt.selfCompare, selfWord := s.flt.selfWord } := by
  obtain ⟨ao, -, scar, -, flt, mram⟩ := hardReset_leaves { aoReset 1 s.ao with i2cAddr := wakeAddr a0 a1 } .full s
  exact ⟨_, rfl, hardReset_blocks _ s, scar, fun q => (mram q).1, ao, flt⟩

theorem supplyDip_spec (rail : Rail) {s : State} (out : s.pwr.inReset = false) (up : s.pwr.mode ≠ .dormant) :
    ∃ t, exec (.supplyDip rail) s = .next t ∧ blocksReset t ∧ t.nvm.scar = s.nvm.scar ∧ (nvmQuiet s → t.nvm.mram = s.nvm.mram) ∧
      t.ao = aoReset 3 s.ao ∧ t.flt.selfCount = s.flt.selfCount := by
  have run : exec (.supplyDip rail) s = .next (hardReset (aoReset 3 s.ao) .full s) := by
    change execSupplyDip rail s = _
    simp [execSupplyDip, out, up]
  obtain ⟨ao, -, scar, -, flt, mram⟩ := hardReset_leaves (aoReset 3 s.ao) .full s
  exact ⟨_, run, hardReset_blocks _ s, scar, fun q => (mram q).1, ao, by rw [flt]; rfl⟩

/-- A supply that dips in reset or in DORMANT has no effect (log entry 14). -/
theorem supplyDip_idle (rail : Rail) {s : State} (h : s.pwr.inReset = true ∨ s.pwr.mode = .dormant) : exec (.supplyDip rail) s = .next s := by
  change execSupplyDip rail s = _
  simp [execSupplyDip, h]

theorem supplyLoss_s1 (rail : Rail) {s : State} (out : s.pwr.inReset = false) (h : s.ao.sleepState = 1) :
    exec (.supplyLossInS1 rail) s = .next { s with ao := { s.ao with sleepState := 2, timerArmed := false, timerExpired := false } } := by
  change execSupplyLossInS1 rail s = _
  simp [execSupplyLossInS1, out, h]

theorem supplyLoss_idle (rail : Rail) {s : State} (h : s.ao.sleepState ≠ 1) : exec (.supplyLossInS1 rail) s = .next s := by
  change execSupplyLossInS1 rail s = _
  simp [execSupplyLossInS1, h]

/-- While TEST_EN is high no release ends the reset (R418). -/
theorem resetRelease_idle {s : State} (h : s.pwr.testEn = true) : exec .resetRelease s = .next s := by
  change execResetRelease s = _
  simp [execResetRelease, h]

theorem sleepWindowEnd_idle {s : State} (h : s.ao.inWindow = false) : exec .sleepWindowEnd s = .next s := by
  change execSleepWindowEnd s = _
  simp [execSleepWindowEnd, h]

theorem wakeTimerExpiry_idle {s : State} (h : s.ao.timerArmed = false) : exec .wakeTimerExpiry s = .next s := by
  change execWakeTimerExpiry s = _
  simp [execWakeTimerExpiry, h]

/-- The always-on island that TEST_EN leaves: no sleep state, no window, no wake timer (R418; log entry 16). -/
def testIsland (a : Ao) : Ao :=
  { a with sleepState := 0, timerArmed := false, timerExpired := false, i2cMatched := false, inWindow := false }

theorem testEn_spec (s : State) :
    ∃ t, exec .testEnAssert s = .next t ∧ blocksReset t ∧ t.pwr.testEn = true ∧ t.arr.sinkEn = false ∧ t.ao = testIsland s.ao ∧
      exec .resetRelease t = .next t ∧ exec .sleepWindowEnd t = .next t ∧ exec .wakeTimerExpiry t = .next t := by
  have run : exec .testEnAssert s = .next (hardReset (testIsland s.ao) .full { s with pwr := { s.pwr with testEn := true } }) := rfl
  have blocks := hardReset_blocks (testIsland s.ao) { s with pwr := { s.pwr with testEn := true } }
  obtain ⟨ao, pwr, -⟩ := hardReset_leaves (testIsland s.ao) .full { s with pwr := { s.pwr with testEn := true } }
  generalize hardReset _ _ _ = t at run blocks ao pwr
  obtain ⟨-, arr, -⟩ := id blocks
  exact ⟨t, run, blocks, by rw [pwr], by rw [arr], ao, resetRelease_idle (by rw [pwr]), sleepWindowEnd_idle (by rw [ao]; rfl),
    wakeTimerExpiry_idle (by rw [ao]; rfl)⟩

/-- Settles O21: each reset is a hard reset with its own island (`hardReset_blocks`, `hardReset_leaves`). -/
theorem resetsLeaveTheIsland : Obligations.ResetsLeaveTheIsland := by
  unfold Obligations.ResetsLeaveTheIsland
  refine ⟨fun rise a0 a1 w v s hw hv => ?_, fun a0 a1 rail s => ⟨?_, fun out up => supplyDip_spec rail out up, supplyDip_idle rail,
    supplyLoss_s1 rail, supplyLoss_idle rail, testEn_spec s⟩⟩
  · obtain ⟨t, run, blocks, flt, pwr, scar, ao, rest⟩ := powerOn_spec (rise := rise) (a0 := a0) (a1 := a1) (s := s) hw hv
    refine ⟨t, run, blocks, flt, pwr, scar, ?_, rest⟩
    rw [ao, poweredIsland, wakeAddr_eq]
    rfl
  · obtain ⟨t, run, blocks, scar, mram, ao, flt⟩ := resetN_spec a0 a1 s
    refine ⟨t, run, blocks, scar, mram, ?_⟩
    rw [ao, wakeAddr_eq]
    exact ⟨rfl, rfl, rfl, rfl, rfl, rfl, rfl, rfl, rfl, rfl, flt⟩

end Sys2Proof.Machine
end

section
/-! The boundary that ends KINDLE (R45, R47), and a blanking that it finds. -/

namespace Sys2Proof.Machine

/-- A device at the end of a KINDLE, its first compose flushed, in which a blanking stands and the array waits to be lit once its bias has
settled, though DARK reads 0. -/
def blankedKindle : State where
  pwr := { inReset := false, workDone := true, next := some (.pilot, 5), blanking := true, litDue := true, biasSettled := true }
  ft := { running := true }
  scl := { comp := { flushed := true, ok := true } }

/-- The boundary that ends this KINDLE puts DARK back to what the blanking asks for (R400, R403), and READY stays low (R48). -/
theorem frameLatch_blankedKindle :
    (frameLatch [] 0 0 false blankedKindle).pwr.dark = true ∧ (frameLatch [] 0 0 false blankedKindle).pwr.readyPin = false := ⟨rfl, rfl⟩

/-- Refutes O23: the clause about the boundary that ends KINDLE wants READY high where DARK is 0, no blanking is asked for, no power-state
request is active and no calibration runs. Those hypotheses leave out a relighting that is due under a blanking that stands: the boundary
relights, which makes DARK what `blanking` says, and a dark array keeps READY low. (A KINDLE starts with both flags clear, by `hardReset` or
`rekindlePwr`, but the clause speaks of every state: it wants `blanking = false`, or no relighting due, as a hypothesis.) -/
theorem not_kindleFinishes : ¬ Obligations.KindleFinishes := by
  unfold Obligations.KindleFinishes
  intro h
  obtain ⟨-, -, -, -, -, ends, -⟩ := h
  obtain ⟨t, run, -, -, -, -, -, -, -, -, ready, -⟩ :=
    ends [] 0 0 false .pilot blankedKindle rfl rfl rfl rfl rfl rfl rfl (.inr rfl)
  obtain rfl : frameLatch [] 0 0 false blankedKindle = t := Host.Outcome.next.inj ((exec_frameLatch 0 0 false rfl rfl rfl).symm.trans run)
  exact absurd (ready rfl rfl rfl rfl) (by rw [frameLatch_blankedKindle.2]; decide)

end Sys2Proof.Machine
end

section
/-! Bring-up (R44, R45, R410): what the lanes' operations and the boot leave alone, and the scan of a quick KINDLE. -/

namespace Sys2Proof.Machine

/-! ### What the lanes' operations leave alone -/

/-- The part of the state that no operation on a lane, a bond or a path's frames touches. -/
def linkView (s : State) := (s.pwr, s.cmd, s.ft)

theorem recordsOnly.linkView_eq {s t : State} (h : recordsOnly s t) : linkView t = linkView s := by
  unfold recordsOnly at h
  rw [h]
  rfl

@[simp] theorem linkView_modLane (l : Nat) (f : Lane → Lane) (s : State) : linkView (modLane l f s) = linkView s := rfl

@[simp] theorem linkView_setLaneState (l : Nat) (x : LaneState) (s : State) : linkView (setLaneState l x s) = linkView s := by
  unfold setLaneState
  dsimp only
  split
  · split <;> rfl
  · rfl

@[simp] theorem linkView_countRetrain (l : Nat) (s : State) : linkView (countRetrain l s) = linkView s := by
  unfold countRetrain
  split <;> rfl

@[simp] theorem linkView_modPath (p : Path) (f : RPath → RPath) (s : State) : linkView (modPath p f s) = linkView s := by simp [linkView]

@[simp] theorem linkView_statusDue (r l o : Nat) (s : State) : linkView (Machine.statusDue r l o s) = linkView s := by
  unfold Machine.statusDue
  split <;> rfl

@[simp] theorem linkView_breakFrame (n c : Nat) (p : Path) (s : State) : linkView (breakFrame n c p s) = linkView s := by
  unfold breakFrame
  dsimp only
  rw [(noteF_only ..).linkView_eq]
  split
  · rw [linkView_statusDue, linkView_modPath]
    rfl
  · rw [linkView_modPath]
    rfl

@[simp] theorem linkView_interrupt (p : Path) (s : State) : linkView (interrupt p s) = linkView s := by
  unfold interrupt breakAll
  rw [linkView_modPath]
  exact foldl_view _ (fun x n => by split <;> simp) s

@[simp] theorem linkView_sendSets_host (s : State) : linkView (sendSets .host s) = linkView s := by
  simp [sendSets, climbShown, linkView]

@[simp] theorem linkView_climbOut (s : State) : linkView (climbOut s) = linkView s := by
  unfold climbOut
  split
  · exact linkView_sendSets_host s
  · rfl

@[simp] theorem linkView_formBond (s : State) : linkView (formBond s) = linkView s := by
  unfold formBond
  extract_lets cands r mask i upd o
  have step (x : State) (l : Nat) : linkView (upd x l) = linkView x := by
    dsimp only [upd]
    split <;> simp
  have h : linkView o = linkView s := (foldl_view _ step i).trans (linkView_interrupt .host s)
  clear_value o
  rw [linkView_climbOut]
  exact h

@[simp] theorem linkView_leaveTraffic (l : Nat) (s : State) : linkView (leaveTraffic l s) = linkView s := by
  unfold leaveTraffic
  split
  · have h := linkView_interrupt .twin s
    generalize interrupt .twin s = w at h ⊢
    exact h
  · split
    · exact linkView_formBond s
    · rfl

@[simp] theorem linkView_lowerLane (l c : Nat) (s : State) : linkView (lowerLane l c s) = linkView s := by
  unfold lowerLane
  dsimp only
  split
  · simp
  · split <;> simp

/-- The events of a failed attempt: a note and warnings (R216). -/
theorem failEvents_mild (l c : Nat) (s : State) : ∀ e ∈ failEvents l c s, e.level < 3 ∧ quietCode e.code = true := by
  have fails : evLevel 0x0104 < 3 ∧ quietCode 0x0104 = true := by decide
  have step : evLevel 0x0102 < 3 ∧ quietCode 0x0102 = true := by decide
  have shared : evLevel 0x0103 < 3 ∧ quietCode 0x0103 = true := by decide
  have down : evLevel 0x0105 < 3 ∧ quietCode 0x0105 = true := by decide
  unfold failEvents
  dsimp only
  refine List.forall_mem_cons.2 ⟨fails, ?_⟩
  split
  · simp
  · split
    · refine List.forall_mem_cons.2 ⟨step, ?_⟩
      split
      · exact List.forall_mem_cons.2 ⟨shared, by simp⟩
      · simp
    · split
      · exact List.forall_mem_cons.2 ⟨down, by simp⟩
      · simp

/-- What reaches the collector on one clock is a record where each event is mild. -/
theorem raiseAll_only {l : List RawEvent} (h : ∀ e ∈ l, e.level < 3 ∧ quietCode e.code = true) (s : State) : recordsOnly s (raiseAll l s) := by
  have run : ∀ (m : List RawEvent), (∀ e ∈ m, e.level < 3 ∧ quietCode e.code = true) → ∀ t,
      recordsOnly t (m.foldl (fun s e => if e.level = 0 then note e s else raise e s) t) := by
    intro m hm
    induction m with
    | nil => exact recordsOnly_refl
    | cons e m ih =>
      intro t
      obtain ⟨lv, q⟩ := hm e (by simp)
      refine recordsOnly_trans ?_ (ih (fun e he => hm e (by simp [he])) _)
      dsimp only
      split
      · exact note_only e t
      · exact raise_quiet_only lv q t
  exact run _ (fun e he => h e ((ranked_perm _ l).mem_iff.1 he)) s

@[simp] theorem linkView_failLane (l c : Nat) (s : State) : linkView (failLane l c s) = linkView s := by
  unfold failLane failLaneWith
  rw [linkView_leaveTraffic, List.nil_append, (raiseAll_only (failEvents_mild l c s) _).linkView_eq, linkView_lowerLane]

@[simp] theorem linkView_beginAttempt (l : Nat) (s : State) : linkView (beginAttempt l s) = linkView s := by
  unfold beginAttempt
  dsimp only
  split <;> rfl

@[simp] theorem linkView_startAttempt (l : Nat) (s : State) : linkView (startAttempt l s) = linkView s := by
  unfold startAttempt
  dsimp only
  split <;> simp

@[simp] theorem linkView_restartLane (l r : Nat) (s : State) : linkView (restartLane l r s) = linkView s := by simp [restartLane]

@[simp] theorem linkView_startLanes (s : State) : linkView (startLanes s) = linkView s := by
  unfold startLanes
  split
  · rfl
  · exact foldl_view _ (fun x l => by split <;> simp) s

/-! ### The release of the reset, the LDO, the PLLs, the BIST -/

/-- KINDLE after a reset starts with MODE_CHANGE (R44). -/
theorem startKindle_reset {s : State} (h : s.ao.resetCause ≠ 2) :
    startKindle s = noteF 0x0E01 1 7 0 { s with pwr := { s.pwr with
      inReset := false, mode := .kindle, quick := s.pwr.flavor = .quick, kindleStep := 0, entryCause := 0, entrySeconds := s.ao.seconds } } := by
  simp [startKindle, h]

/-- KINDLE after a wake records the loss or the forced entry of its sleep, MODE_CHANGE, and the wake (R51, R403). -/
theorem startKindle_wake {s : State} (h : s.ao.resetCause = 2) :
    let k := { s with pwr := { s.pwr with
      inReset := false, mode := .kindle, quick := s.pwr.flavor = .quick, kindleStep := 0, entryCause := 1, entrySeconds := s.ao.seconds } }
    startKindle s = note (ev 0x0E06 s.ao.wakeSource s.ao.slept s.ao.dormantS 0) (noteF 0x0E01 1 0 1
      (if s.ao.lossRecords ≠ 0 ∨ s.ao.forced = true then raise (ev 0x0E07 s.ao.lossRecords s.ao.lossCountS 0 0) k else k)) := by
  intro k
  have loss := (raise_quiet_only (e := ev 0x0E07 s.ao.lossRecords s.ao.lossCountS 0 0) (by decide : evLevel 0x0E07 < 3) rfl k).fields.1
  unfold startKindle
  simp only [h, decide_true, if_true, Bool.true_and, Bool.or_eq_true, decide_eq_true_eq, ne_eq, noteF_ao]
  by_cases c : ¬s.ao.lossRecords = 0 ∨ s.ao.forced = true
  · simp only [c, if_true]
    rw [loss]
  · simp only [c, if_false]
    rfl

theorem exec_resetRelease {s : State} (r : s.pwr.inReset = true) (e : s.pwr.testEn = false) :
    exec .resetRelease s = .next (startKindle s) := by
  change execResetRelease s = _
  simp [execResetRelease, r, e]

theorem exec_ldoRegulation {s : State} (b : bringing s = true) (k : s.pwr.mode = .kindle) (l : s.pwr.ldoOk = false) :
    exec .ldoRegulation s = .next { s with pwr := { s.pwr with ldoOk := true }, arr := { s.arr with duty := 313 } } := by
  change execLdoRegulation s = _
  simp [execLdoRegulation, b, k, l]

theorem exec_pllLock {s : State} (b : bringing s = true) (k : s.pwr.mode = .kindle) (l : s.pwr.ldoOk = true) (p : s.pwr.pllOk = false) :
    exec .pllLock s = .next { s with pwr := { s.pwr with pllOk := true, kindleStep := 1 } } := by
  change execPllLock s = _
  simp [execPllLock, kindleStep, b, k, l, p]

section
variable {s : State} (up : awake s = true) (k : s.pwr.mode = .kindle) (step : s.pwr.kindleStep = 2)
include up k step

theorem exec_bistComplete_ok : exec (.bistComplete none) s = .next (beginLoad s) := by
  change execBistComplete none s = _
  simp [execBistComplete, guarded, up, k, step]

theorem exec_bistComplete_fail {f : BistFail} (h : f.block < 7) :
    exec (.bistComplete (some f)) s = .next
      (raise (ev (bistCode f.block) f.unit f.addr f.step f.units) { s with pwr := { s.pwr with bistFail := true } }) := by
  change execBistComplete (some f) s = _
  simp [execBistComplete, guarded, up, k, step, h]

end

end Sys2Proof.Machine
end

section
/-! LIMRAL_READY (R43 to R45, R265): the check of the stored patch, and what the boot sets. -/

namespace Sys2Proof.Machine

/-- The reads of the port touch general units and the free values only. -/
def readsOnly (s t : State) : Prop := t = { s with chk := t.chk, free := t.free }

theorem readsOnly_refl (s : State) : readsOnly s s := rfl

theorem readsOnly_trans {s t u : State} (a : readsOnly s t) (b : readsOnly t u) : readsOnly s u := by
  unfold readsOnly at *
  rw [b, a]

theorem openReads_only (s : State) : readsOnly s (openReads s) := by
  have run : ∀ (l : List Nat) (g : State → Nat → State), (∀ x n, readsOnly x (g x n)) → ∀ x, readsOnly x (l.foldl g x) := by
    intro l g h
    induction l with
    | nil => exact readsOnly_refl
    | cons n l ih => exact fun x => readsOnly_trans (h x n) (ih _)
  unfold openReads
  refine run _ _ (fun x n => ?_) s
  split <;> rfl

/-! ### The check of the patch -/

section
variable {s t : State} (h : t.nvm = s.nvm)
include h

theorem patchField_congr (o : Nat) : patchField t o = patchField s o := by simp [patchField, mramRead, h]

theorem patchFault_congr (l : Option Nat) (sig : List Byte) : patchFault t l sig = patchFault s l sig := by
  simp only [patchFault, patchField_congr h, mramBad, mramRead, h]
  rfl

end

/-- The fault that the check at a boot finds; 0 for none. -/
def bootFault (s : State) : Nat := patchFault s none (mramRead s (patchBase + 524160) 64)

theorem bootFault_congr {s t : State} (h : t.nvm = s.nvm) : bootFault t = bootFault s := by
  unfold bootFault
  rw [patchFault_congr h]
  simp only [mramRead, h]

/-- What a boot puts in force: the stored patch where its check finds no fault (R265). -/
theorem bootPatch_spec (s : State) :
    (bootPatch s).pwr = s.pwr ∧ (bootPatch s).ft = s.ft ∧
      (patchCommitted s = false → (bootPatch s).cmd.patchActive = false ∧ (bootPatch s).cmd.patchVer = 0) ∧
      (patchCommitted s = true → ((bootPatch s).cmd.patchActive = true ↔ bootFault s = 0) ∧
        (bootPatch s).cmd.patchVer = if bootFault s = 0 then patchField s 8 else 0) := by
  unfold bootPatch
  dsimp only
  cases c : patchCommitted s
  · exact ⟨rfl, rfl, fun _ => ⟨rfl, rfl⟩, fun x => nomatch x⟩
  · have r : readsOnly s (openReads s) := openReads_only s
    generalize openReads s = w at r ⊢
    unfold readsOnly at r
    have nvm : w.nvm = s.nvm := by rw [r]
    have pwr : w.pwr = s.pwr := by rw [r]
    have ft : w.ft = s.ft := by rw [r]
    have fault : patchFault w none (mramRead w (patchBase + 524160) 64) = bootFault s := bootFault_congr nvm
    simp only [Bool.not_true, Bool.false_eq_true, if_false, fault, patchField_congr nvm]
    by_cases z : bootFault s = 0
    · simp [z, pwr, ft]
    · have k := (raise_quiet_only (e := ev 0x0D06 (bootFault s) (patchField s 8) Config.romVersion.toNat 0) (by decide : evLevel 0x0D06 < 3) rfl
        { w with cmd := { w.cmd with patchFail := bootFault s, patchActive := false, patchVer := 0 } }).fields
      obtain ⟨-, kp, kf, -, -, -, -, -, -, -, -, kc, -⟩ := k
      simp only [z, if_false]
      generalize raise _ _ = v at kp kf kc ⊢
      simp [kp, kf, kc, pwr, ft]

/-! ### Limral is ready -/

@[simp] theorem linkView_loadHeader (s : State) : linkView (loadHeader s) = linkView s := by
  unfold loadHeader
  split <;> rfl

theorem startTimer_spec (s : State) :
    (startTimer s).pwr = s.pwr ∧ (startTimer s).cmd = s.cmd ∧
      (s.pwr.flavor ≠ .rekindle → s.ft.activeSrc = 0 → (startTimer s).ft.running = true) := by
  unfold startTimer
  split
  · rename_i c
    refine ⟨rfl, rfl, fun f a => ?_⟩
    simp [f, a] at c
  · exact ⟨rfl, rfl, fun _ _ => rfl⟩

/-- The boot's part of LIMRAL_READY: all but the step that comes next. -/
def booted (s : State) : State :=
  startLanes (startTimer (loadHeader (bootPatch { s with pwr := { s.pwr with limral := true, biasOn := true } })))

theorem booted_spec (s : State) :
    (booted s).pwr = { s.pwr with limral := true, biasOn := true } ∧
      (s.pwr.flavor ≠ .rekindle → s.ft.activeSrc = 0 → (booted s).ft.running = true) ∧
      (patchCommitted s = false → (booted s).cmd.patchActive = false ∧ (booted s).cmd.patchVer = 0) ∧
      (patchCommitted s = true → ((booted s).cmd.patchActive = true ↔ bootFault s = 0) ∧
        (booted s).cmd.patchVer = if bootFault s = 0 then patchField s 8 else 0) := by
  let s' : State := { s with pwr := { s.pwr with limral := true, biasOn := true } }
  have header := linkView_loadHeader (bootPatch s')
  have lanes := linkView_startLanes (startTimer (loadHeader (bootPatch s')))
  obtain ⟨tp, tc, tf⟩ := startTimer_spec (loadHeader (bootPatch s'))
  obtain ⟨bp, bf, rom, patch⟩ := bootPatch_spec s'
  change linkView (booted s) = _ at lanes
  simp only [linkView, Prod.mk.injEq] at header lanes
  obtain ⟨hp, hc, hf⟩ := header
  obtain ⟨lp, lc, lf⟩ := lanes
  have cmd : (booted s).cmd = (bootPatch s').cmd := lc.trans (tc.trans hc)
  refine ⟨lp.trans (tp.trans (hp.trans bp)), fun fl src => ?_, fun c => ?_, fun c => ?_⟩
  · rw [lf]
    refine tf ?_ ?_
    · rwa [hp, bp]
    · rwa [hf, bf]
  · rw [cmd]
    exact rom c
  · rw [cmd, ← bootFault_congr (s := s) (t := s') rfl, ← patchField_congr (s := s) (t := s') rfl]
    exact patch c

theorem limralReady_eq (s : State) :
    limralReady s = if s.pwr.mode ≠ .kindle then booted s else if s.pwr.flavor = .quick then beginLoad (booted s) else kindleStep 2 (booted s) := by
  have p := (booted_spec s).1
  have e : booted s = startLanes (startTimer (loadHeader (bootPatch { s with pwr := { s.pwr with limral := true, biasOn := true } }))) := rfl
  unfold limralReady
  dsimp only
  rw [← e, p]

/-- LIMRAL_READY: the boot, then the NVM load of a quick KINDLE, or the BIST. -/
theorem exec_limralReady {s : State} (b : bringing s = true) (p : s.pwr.pllOk = true) : exec .limralReady s = .next (limralReady s) := by
  change execLimralReady s = _
  simp [execLimralReady, b, p]

/-- What is in force after LIMRAL_READY, whatever step comes next. -/
theorem limralReady_spec (s : State) :
    (limralReady s).cmd = (booted s).cmd ∧ (limralReady s).ft = (booted s).ft ∧
      (limralReady s).pwr = { (booted s).pwr with bistDone := (limralReady s).pwr.bistDone, kindleStep := (limralReady s).pwr.kindleStep } ∧
      (s.pwr.mode = .kindle → s.pwr.flavor = .full → (limralReady s).pwr.kindleStep = 2) ∧
      (s.pwr.mode = .kindle → s.pwr.flavor = .quick → limralReady s = beginLoad (booted s)) := by
  have p := (booted_spec s).1
  rw [limralReady_eq]
  generalize booted s = w at p ⊢
  split
  · rename_i m
    exact ⟨rfl, rfl, rfl, fun k => absurd k m, fun k => absurd k m⟩
  · rename_i m
    split
    · rename_i q
      exact ⟨rfl, rfl, rfl, fun _ f => by simp [q] at f, fun _ _ => rfl⟩
    · rename_i q
      have e : kindleStep 2 w = { w with pwr := { w.pwr with kindleStep := 2 } } := by
        unfold kindleStep
        rw [p, if_pos (by simpa using m)]
      rw [e]
      exact ⟨rfl, rfl, rfl, fun _ _ => rfl, fun _ x => absurd x q⟩

end Sys2Proof.Machine
end

section
/-! The scan of a quick KINDLE (R44, R110 to R116): with escalation off its events below SNUFF turn nothing off. -/

namespace Sys2Proof.Machine

/-! ### Events below SNUFF, with escalation off (R334) -/

@[simp] theorem record_escCompat (e : RawEvent) (fl : Nat) (s : State) : (record e fl s).flt.escCompat = s.flt.escCompat := by
  unfold record
  split
  · rfl
  · rw [share_flt, enqueue_flt]
    split <;> rfl

@[simp] theorem raiseCollateral_escCompat (e : RawEvent) (s : State) : (raiseCollateral e s).flt.escCompat = s.flt.escCompat := by
  unfold raiseCollateral
  split
  all_goals exact record_escCompat e flagCollateral s

@[simp] theorem note_escCompat (e : RawEvent) (s : State) : (note e s).flt.escCompat = s.flt.escCompat := by
  unfold note
  split
  · rfl
  · split <;> simp

/-- With escalation off an event acts as it is (R334). -/
theorem escalates_off {f : Flt} (h : f.escCompat = false) (e : RawEvent) : escalates f e = false := by simp [escalates, h]

/-- With escalation off an event of a quiet code below SNUFF touches what recording touches, and escalation stays off. -/
theorem raise_below_only {e : RawEvent} {s : State} (l : e.level < 4) (q : quietCode e.code = true) (c : s.flt.escCompat = false) :
    recordsOnly s (raise e s) ∧ (raise e s).flt.escCompat = false := by
  have l4 : ¬4 ≤ e.level := by omega
  have k := record_only e 0 s
  have x := record_escCompat e 0 s
  unfold raise raiseAs raiseWith raiseOver
  simp only [lateSinks, l4, decide_false, Bool.and_false, Bool.false_eq_true, if_false, countEscalation, actual, escalates_off c,
    realEffects_quiet q, ite_self, latch, latchFlag, startReactions_quiet l q]
  rw [c] at x
  generalize record e 0 s = w at k x ⊢
  split
  · exact ⟨recordsOnly_refl s, c⟩
  · split
    · exact ⟨raiseCollateral_only e s, (raiseCollateral_escCompat e s).trans c⟩
    · split
      · exact ⟨k.withFlt _, x⟩
      · exact ⟨k, x⟩

/-! ### What the scan leaves alone -/

/-- What no step of a scan or of the load before it touches, while escalation is off: the power state, sink-enable, the measurements. -/
def scanView (s : State) := (s.pwr, s.arr.sinkEn, s.nvm.meas, s.flt.escCompat)

/-- A step that leaves the view of the scan alone where escalation is off. -/
def ScanCalm (s t : State) : Prop := s.flt.escCompat = false → scanView t = scanView s

theorem ScanCalm.of_eq {s t : State} (h : scanView t = scanView s) : ScanCalm s t := fun _ => h

theorem ScanCalm.refl (s : State) : ScanCalm s s := .of_eq rfl

theorem ScanCalm.trans {s t u : State} (a : ScanCalm s t) (b : ScanCalm t u) : ScanCalm s u := by
  intro c
  have h := a c
  have e : t.flt.escCompat = s.flt.escCompat := congrArg (fun v => v.2.2.2) h
  exact (b (e.trans c)).trans h

/-- The same, the later step first. -/
theorem ScanCalm.after {s t u : State} (b : ScanCalm t u) (a : ScanCalm s t) : ScanCalm s u := a.trans b

/-- A fold of steps each of which is calm, over the members of a list. -/
theorem ScanCalm.foldl_mem {α : Type} {g : State → α → State} (l : List α) (h : ∀ x, ∀ a ∈ l, ScanCalm x (g x a)) (s : State) :
    ScanCalm s (l.foldl g s) := by
  induction l generalizing s with
  | nil => exact .refl s
  | cons a l ih => exact (h s a (by simp)).trans (ih (fun x b m => h x b (by simp [m])) _)

theorem ScanCalm.foldl {α : Type} {g : State → α → State} (l : List α) (h : ∀ x a, ScanCalm x (g x a)) (s : State) :
    ScanCalm s (l.foldl g s) := foldl_mem l (fun x a _ => h x a) s

theorem raise_scanCalm {e : RawEvent} (l : e.level < 4) (q : quietCode e.code = true) (s : State) : ScanCalm s (raise e s) := by
  intro c
  obtain ⟨only, esc⟩ := raise_below_only l q c
  obtain ⟨-, pwr, -, arr, -, -, -, -, -, -, -, -, -, -, nvm, -⟩ := only.fields
  simp only [scanView, pwr, arr, nvm, esc, c]

theorem note_scanCalm (e : RawEvent) (s : State) : ScanCalm s (note e s) := .of_eq (by simp [scanView])

theorem noteF_scanCalm (c a b d : Nat) (s : State) : ScanCalm s (noteF c a b d s) :=
  note_scanCalm _ s

theorem condOn_scanCalm {e : RawEvent} (l : e.level < 4) (q : quietCode e.code = true) (u : Nat) (s : State) : ScanCalm s (condOn u e s) := by
  unfold condOn
  split
  · exact .refl s
  · exact (raise_scanCalm l q _).after (.of_eq rfl)

theorem condSet_scanCalm {e : RawEvent} (l : e.level < 4) (q : quietCode e.code = true) (on : Bool) (u : Nat) (s : State) :
    ScanCalm s (condSet on u e s) := by
  unfold condSet
  split
  · exact condOn_scanCalm l q u s
  · exact .of_eq rfl

/-! ### The defect map (R113 to R116) -/

theorem evalCluster_scanCalm (s : State) : ScanCalm s (evalCluster s) := by
  unfold evalCluster
  dsimp only
  split
  · exact .of_eq rfl
  · split
    · exact .refl s
    · exact (condOn_scanCalm (e := ev 0x0503 _ _ _ _) (by decide : evLevel 0x0503 < 4) rfl _ _).after (.of_eq rfl)

theorem evalDefects_scanCalm (s : State) : ScanCalm s (evalDefects s) := by
  unfold evalDefects
  dsimp only
  refine (condSet_scanCalm (e := ev 0x0502 _ _ _ _) (by decide : evLevel 0x0502 < 4) rfl _ _ _).after ?_
  exact (evalCluster_scanCalm _).after (condSet_scanCalm (e := ev 0x0504 _ _ _ _) (by decide : evLevel 0x0504 < 4) rfl _ _ s)

theorem mapChanged_scanCalm (s : State) : ScanCalm s (mapChanged s) := by
  unfold mapChanged
  dsimp only
  split
  · exact (raise_scanCalm (e := ev 0x0506 _ _ _ _) (by decide : evLevel 0x0506 < 4) rfl _).after (.of_eq rfl)
  · exact .of_eq rfl

theorem enterDefect_scanCalm (type source pix : Nat) (s : State) : ScanCalm s (enterDefect type source pix s) := by
  unfold enterDefect
  split
  · exact .refl s
  · exact (mapChanged_scanCalm _).after ((noteF_scanCalm _ _ _ _ _).after (.of_eq rfl))

theorem removeDefect_scanCalm (pix : Nat) (s : State) : ScanCalm s (removeDefect pix s) := by
  unfold removeDefect
  split
  · exact (mapChanged_scanCalm _).after (.of_eq rfl)
  · exact .refl s

/-! ### The load of a quick KINDLE before its scan (R44) -/

theorem readsOnly.scanView_eq {s t : State} (h : readsOnly s t) : scanView t = scanView s := by
  unfold readsOnly at h
  rw [h]
  rfl

theorem checkSlot_scanCalm (c k : Nat) (s : State) : ScanCalm s (checkSlot c s k) := by
  unfold checkSlot
  split
  · exact (note_scanCalm _ _).after (.of_eq rfl)
  · exact .refl s

theorem setInForce_scanCalm (c k g : Nat) (s : State) : ScanCalm s (setInForce c k g s) := .of_eq rfl

theorem loadContent_scanCalm (s : State) (c : Nat) : ScanCalm s (loadContent s c) := by
  unfold loadContent
  have h : ScanCalm s ((slotsOf c).foldl (checkSlot c) s) := ScanCalm.foldl _ (fun x k => checkSlot_scanCalm c k x) s
  dsimp only
  generalize (slotsOf c).foldl (checkSlot c) s = w at h ⊢
  split <;> exact (setInForce_scanCalm _ _ _ w).after h

theorem listLoaded_scanCalm (s : State) : ScanCalm s (listLoaded s) := by
  unfold listLoaded
  dsimp only
  split
  · exact (raise_scanCalm (e := ev 0x0506 _ _ _ _) (by decide : evLevel 0x0506 < 4) rfl _).after (.of_eq rfl)
  · exact .of_eq rfl

theorem loadDefects_scanCalm (s : State) : ScanCalm s (loadDefects s) := by
  unfold loadDefects
  generalize (storedDefects s).foldl (fun t d => insertDefect d t) s.diag.defects = all
  have joined (d : Diag) (l : List Nat) : ScanCalm s { s with diag := d, arr := { s.arr with dis := l } } := .of_eq rfl
  exact (evalDefects_scanCalm _).after ((listLoaded_scanCalm _).after (joined _ _))

theorem loadWicks_scanCalm (s : State) : ScanCalm s (loadWicks s) := by
  unfold loadWicks
  split
  · exact .refl s
  · exact .of_eq rfl

theorem loadFirst_scanCalm (s : State) : ScanCalm s (loadFirst s) := by
  have content (x : State) (c : Nat) (h : c ∈ firstContents) : ScanCalm x (takeContent c (loadContent x c)) := by
    simp only [firstContents, List.mem_cons, List.not_mem_nil, or_false] at h
    rcases h with rfl | rfl
    · have h := loadContent_scanCalm x 4
      generalize loadContent x 4 = w at h ⊢
      exact (loadDefects_scanCalm w).after h
    · have h := loadContent_scanCalm x 2
      generalize loadContent x 2 = w at h ⊢
      exact (loadWicks_scanCalm w).after h
  have opened (x : State) : ScanCalm x (openReads x) := .of_eq (openReads_only x).scanView_eq
  unfold loadFirst
  split
  · have begun : ScanCalm s { s with nvm := { s.nvm with firstLoaded := true } } := .of_eq rfl
    generalize ({ s with nvm := { s.nvm with firstLoaded := true } } : State) = x at begun ⊢
    exact (begun.trans (opened x)).trans (ScanCalm.foldl_mem firstContents content (openReads x))
  · exact .refl s

/-! ### The scan (R110 to R112) -/

/-- No event of a quiet code touches the defect map or the scan's results. -/
theorem condSet_diag {e : RawEvent} (q : quietCode e.code = true) (on : Bool) (u : Nat) (s : State) : (condSet on u e s).diag = s.diag := by
  unfold condSet condOn
  split
  · split
    · rfl
    · exact (raise_reacts q _).diag
  · rfl

theorem evalCluster_diag (s : State) : (evalCluster s).diag = s.diag := by
  unfold evalCluster condOn
  dsimp only
  split
  · rfl
  · split
    · rfl
    · split
      · rfl
      · exact (raise_reacts (e := ev 0x0503 _ _ _ _) rfl _).diag

theorem evalDefects_diag (s : State) : (evalDefects s).diag = s.diag := by
  unfold evalDefects
  dsimp only
  rw [condSet_diag (e := ev 0x0502 _ _ _ _) rfl, evalCluster_diag, condSet_diag (e := ev 0x0504 _ _ _ _) rfl]

/-- The end of a scan: its results, and the wicks that failed it (R110, R112). -/
theorem runScan_calm (kindle : Bool) (m : CalMeas) (s : State) : ScanCalm s (runScan kindle m s) ∧ (runScan kindle m s).diag.scanDone = true := by
  unfold runScan
  extract_lets fails sound gone a arr b c trusted hits d count von vf diag r w diag' t
  have removed : ScanCalm s a := ScanCalm.foldl _ (fun x i => removeDefect_scanCalm i x) s
  have released : ScanCalm a b := .of_eq rfl
  have wicks : ScanCalm b c := ScanCalm.foldl _ (fun x i => enterDefect_scanCalm 5 5 i x) b
  have found : ScanCalm c d := ScanCalm.foldl _ (fun x i => enterDefect_scanCalm _ 1 i x) c
  have entered : ScanCalm d r := .of_eq rfl
  have results := removed.trans (released.trans (wicks.trans (found.trans entered)))
  have done : r.diag.scanDone = true := rfl
  have recorded : ScanCalm r t ∧ t.diag.scanDone = true := by
    dsimp only [t]
    clear_value r
    split
    · exact ⟨.refl r, done⟩
    · exact ⟨(raise_scanCalm (e := ev 0x0606 _ _ _ _) (by decide : evLevel 0x0606 < 4) rfl _).after (.of_eq rfl),
        (congrArg Diag.scanDone (raise_reacts (e := ev 0x0606 _ _ _ _) rfl _).diag).trans done⟩
  obtain ⟨calm, kept⟩ := recorded
  clear_value t
  exact ⟨results.trans (calm.trans (evalDefects_scanCalm t)), by rw [evalDefects_diag, kept]⟩

/-- A KINDLE scans once the measurements are there; the scan's results stand after it, whether it ran now or before (R44). -/
theorem scanNow_calm {m : CalMeas} {s : State} (h : s.nvm.meas = some m) (k : s.pwr.mode = .kindle) :
    ScanCalm s (scanNow s) ∧ (scanNow s).diag.scanDone = true := by
  unfold scanNow
  rw [h]
  dsimp only
  split
  · rename_i c
    exact ⟨.refl s, by simpa [k] using c⟩
  · obtain ⟨calm, done⟩ := runScan_calm true m s
    generalize runScan true m s = w at calm done ⊢
    exact ⟨calm.trans (.of_eq rfl), done⟩

end Sys2Proof.Machine
end

section
/-! ARRAY_BIAS_SETTLED, and O22 (R44, R45, R69, R265, R410). -/

namespace Sys2Proof.Machine

section
variable {m : CalMeas} {s : State} (ok : measOk m = true) (up : awake s = true) (on : s.pwr.biasOn = true) (un : s.pwr.biasSettled = false)
include ok up on un

/-- What the settled bias sets off (R44, R69, R403). -/
theorem exec_arrayBiasSettled :
    exec (.arrayBiasSettled m) s = .next (
      let b := { s with pwr := { s.pwr with biasSettled := true } }
      if s.pwr.mode ≠ .kindle then b
      else
        let l := { b with arr := { b.arr with sinkEn := true } }
        if s.pwr.flavor = .quick then scanNow (loadFirst { l with nvm := { l.nvm with meas := some m } }) else l) := by
  change execArrayBiasSettled m s = _
  simp [execArrayBiasSettled, guarded, ok, up, on, un]

/-- A quick KINDLE scans at once (R44). -/
theorem biasSettled_quick (k : s.pwr.mode = .kindle) (q : s.pwr.flavor = .quick) (c : s.flt.escCompat = false) :
    ∃ t, exec (.arrayBiasSettled m) s = .next t ∧ t.pwr.biasSettled = true ∧ t.arr.sinkEn = true ∧ t.nvm.meas = some m ∧
      t.diag.scanDone = true := by
  let b : State := { s with
    pwr := { s.pwr with biasSettled := true }, arr := { s.arr with sinkEn := true }, nvm := { s.nvm with meas := some m } }
  have run : exec (.arrayBiasSettled m) s = .next (scanNow (loadFirst b)) := by
    rw [exec_arrayBiasSettled ok up on un]
    dsimp only
    rw [if_neg (by simp [k]), if_pos q]
  have load : scanView (loadFirst b) = scanView b := loadFirst_scanCalm b c
  have lv := load
  simp only [scanView, Prod.mk.injEq] at lv
  obtain ⟨pwr, -, meas, esc⟩ := lv
  obtain ⟨scan, done⟩ := scanNow_calm (m := m) (s := loadFirst b) meas (by rw [pwr]; exact k)
  have v := (scan (esc.trans c)).trans load
  simp only [scanView, Prod.mk.injEq] at v
  obtain ⟨tp, ta, tm, -⟩ := v
  exact ⟨_, run, by rw [tp], by rw [ta], by rw [tm], done⟩

end

/-- Settles O22: one lemma for each instant of start-up; `booted_spec` for the boot, `biasSettled_quick` for the scan of a quick KINDLE. -/
theorem kindleStarts : Obligations.KindleStarts := by
  unfold Obligations.KindleStarts
  refine ⟨fun s r e => ?_, fun s b k l => exec_ldoRegulation b k l, fun s b k l p => exec_pllLock b k l p, fun s b p => ?_,
    fun m s ok up on un => ⟨fun k q => ?_, biasSettled_quick ok up on un, fun k => ?_⟩, fun s up k step => ?_,
    fun f s up k step h => exec_bistComplete_fail up k step h⟩
  · rw [exec_resetRelease r e]
    refine ⟨fun h => ?_, fun h => ?_⟩
    · rw [startKindle_reset h]
      simp only [h, if_false]
    · rw [startKindle_wake h]
      simp only [h, if_true]
  · have up : awake s = true ∧ s.pwr.dead = false ∧ s.pwr.limral = false := by simpa [bringing, and_assoc] using b
    obtain ⟨aw, alive, -⟩ := up
    obtain ⟨cmd, ft, pwr, full, quick⟩ := limralReady_spec s
    obtain ⟨bp, timer, rom, patch⟩ := booted_spec s
    rw [bp] at pwr
    refine ⟨_, exec_limralReady b p, by rw [pwr], by rw [pwr], ?_, full, fun k q => ?_, fun f src => ?_, fun c => ?_, fun c => ?_⟩
    · simp only [awake, Bool.and_eq_true, Bool.not_eq_true', decide_eq_true_eq] at aw
      obtain ⟨reset, mode⟩ := aw
      unfold portsOpen
      rw [pwr]
      simp [alive, reset, mode]
    · rw [quick k q]
      exact ⟨rfl, rfl, rfl, rfl⟩
    · rw [ft]
      exact timer f src
    · rw [cmd]
      exact rom c
    · rw [cmd]
      exact patch c
  · rw [exec_arrayBiasSettled ok up on un]
    simp [k, q]
  · rw [exec_arrayBiasSettled ok up on un]
    simp [k]
  · intro t
    refine ⟨exec_bistComplete_ok up k step, fun d => ?_, ?_⟩
    · simp [faultNLow, k, d]
    · have mode : t.pwr.mode = .kindle := k
      have done : t.pwr.bistDone = true := rfl
      have flt : t.flt = s.flt := rfl
      clear_value t
      simp [faultNLow, mode, done, flt]

end Sys2Proof.Machine
end

section
/-! The choice of a mode at a compose latch (R34 to R37, R141). -/

namespace Sys2Proof.Machine

/-! ### The mode that a compose latch aims at (R35 to R37) -/

section
variable {s : State} (n : s.pwr.next = none)
include n

/-- BEAM is left for BELAY first, then for PILOT: all lanes down, a PILOT trigger, a SET_MODE (R34 to R36). -/
theorem aim_beam (m : s.pwr.mode = .beam) :
    aim s = if belayTrigger s then (.belay, 10) else if allLanesDown s then (.pilot, 6)
      else if pilotTrigger s then (.pilot, pilotCause s) else if pendFor .pilot s then (.pilot, 4) else (.beam, 4) := by
  simp [aim, n, m]

theorem aim_pilot (m : s.pwr.mode = .pilot) :
    aim s = if belayTrigger s then (.belay, 10) else if mayBeam s then (.beam, 4) else (.pilot, 4) := by
  simp [aim, n, m]

/-- BELAY is left by SET_MODE only, and not while a trigger stands (R36, R39). -/
theorem aim_belay (m : s.pwr.mode = .belay) :
    aim s = if belayTrigger s then (.belay, 4) else if pendFor .pilot s then (.pilot, 4)
      else if mayBeam s then (.beam, 4) else (.belay, 4) := by
  simp [aim, n, m]

end

/-- A BEAM that a latch has decided in BELAY gives way to BELAY where a trigger stands (R36, R39). -/
theorem aim_beamGivesWay {s : State} {c : Nat} (m : s.pwr.mode = .belay) (n : s.pwr.next = some (.beam, c))
    (t : belayTrigger s = true ∨ allLanesDown s = true ∨ pilotTrigger s = true) : (aim s).1 = .belay := by
  rcases b : belayTrigger s
  · have h : allLanesDown s = true ∨ pilotTrigger s = true := by simpa [b] using t
    simp [aim, n, m, b, h]
  · simp [aim, n, b]

theorem pilotTrigger_iff (s : State) : pilotTrigger s = true ↔ 3 ≤ levelMax s.flt := by simp [pilotTrigger]

theorem mayBeam_iff (s : State) :
    mayBeam s = true ↔ pendFor .beam s = true ∧ levelMax s.flt < 3 ∧ hrxTrained s ≠ 0 ∧ anyPicture s = true := by
  simp [mayBeam, beamReady, pilotTrigger, and_assoc]

theorem pilotCause_mem (s : State) : pilotCause s ∈ [7, 8, 9] := by
  unfold pilotCause
  split
  · simp
  · split <;> simp

/-! ### The decision (R35, R37) -/

/-- A latch decides a mode other than the one in force, or none. -/
theorem decideMode_next (s : State) : (decideMode s).pwr.next = if (aim s).1 = s.pwr.mode then none else some (aim s) := rfl

/-- The mode in force after a decision is the one aimed at, whether it is new or not. -/
theorem decideMode_shows (s : State) (c : Nat) : ((decideMode s).pwr.next.getD (s.pwr.mode, c)).1 = (aim s).1 := by
  rw [decideMode_next]
  split
  · rename_i h
    exact h.symm
  · rfl

/-- A request for BEAM that is not committed is committed where the latch aims at BEAM (R37). -/
theorem beamCommitted_decideMode {s : State} {p : PendMode} (h : s.pwr.pend = some p) (t : p.target = .beam) (c : p.committed = false) :
    beamCommitted (decideMode s) = true ↔ (aim s).1 = .beam := by
  simp [beamCommitted, decideMode, h, commitBeam, t, c]

/-- A decision changes what is decided and the waiting request, nothing else. -/
theorem decideMode_only (s : State) :
    decideMode s = { s with pwr := { s.pwr with next := (decideMode s).pwr.next, pend := (decideMode s).pwr.pend } } := rfl

end Sys2Proof.Machine
end

section
/-! What a compose latch leaves of the power state (R81, R139 to R141): with escalation off and no layer's policy at SNUFF, all of it. -/

namespace Sys2Proof.Machine

/-! ### Mild layers -/

/-- A configuration whose stale policy stays below SNUFF, and so does the one that waits (R139). -/
def mildLayer (l : Layer) : Prop := l.cfg.faultLevel < 4 ∧ ∀ c, l.pend = some c → c.faultLevel < 4

theorem mildLayers_iff (s : State) : mildLayers s ↔ ∀ l ∈ s.cmp.layers, mildLayer l := Iff.rfl

theorem modNth_forall {α : Type} {p : α → Prop} {l : List α} (i : Nat) {f : α → α} (h : ∀ a ∈ l, p a) (k : ∀ a, p a → p (f a)) :
    ∀ a ∈ modNth l i f, p a := by
  induction l generalizing i with
  | nil => exact h
  | cons x l ih =>
    obtain ⟨hx, hl⟩ := List.forall_mem_cons.1 h
    cases i with
    | zero => exact List.forall_mem_cons.2 ⟨k x hx, hl⟩
    | succ i => exact List.forall_mem_cons.2 ⟨hx, ih i hl⟩

theorem layerOf_mild {s : State} (h : mildLayers s) (n : Nat) : mildLayer (layerOf s n) := by
  unfold layerOf
  rw [List.getD_eq_getElem?_getD]
  cases e : s.cmp.layers[n]? with
  | none => exact ⟨by decide, fun c k => nomatch k⟩
  | some l => exact h l (List.mem_of_getElem? e)

/-- No event of a layer can turn the lamp off: no policy at SNUFF, escalation off (R139, R334). -/
def mild (s : State) : Prop := mildLayers s ∧ s.flt.escCompat = false

/-- A step that keeps a mild device mild, and its power state. -/
structure MildStep (s t : State) : Prop where
  keeps : mild s → mild t ∧ t.pwr = s.pwr

/-- What decides whether a step is mild. -/
def mildView (s : State) := (s.pwr, s.cmp.layers, s.flt.escCompat)

theorem MildStep.of_view {s t : State} (h : mildView t = mildView s) : MildStep s t := by
  simp only [mildView, Prod.mk.injEq] at h
  obtain ⟨pwr, layers, esc⟩ := h
  exact ⟨fun ⟨l, e⟩ => ⟨⟨by rwa [mildLayers_iff, layers], by rwa [esc]⟩, pwr⟩⟩

theorem MildStep.refl (s : State) : MildStep s s := .of_view rfl

theorem MildStep.trans {s t u : State} (a : MildStep s t) (b : MildStep t u) : MildStep s u := by
  refine ⟨fun h => ?_⟩
  obtain ⟨ht, pt⟩ := a.keeps h
  obtain ⟨hu, pu⟩ := b.keeps ht
  exact ⟨hu, pu.trans pt⟩

theorem MildStep.after {s t u : State} (b : MildStep t u) (a : MildStep s t) : MildStep s u := a.trans b

theorem MildStep.foldl {α : Type} {g : State → α → State} (l : List α) (h : ∀ x a, MildStep x (g x a)) (s : State) :
    MildStep s (l.foldl g s) := by
  induction l generalizing s with
  | nil => exact .refl s
  | cons a l ih => exact (h s a).trans (ih _)

/-! ### The steps of a latch -/

theorem modLayer_mild (n : Nat) {f : Layer → Layer} (k : ∀ l, mildLayer l → mildLayer (f l)) (s : State) : MildStep s (modLayer n f s) :=
  ⟨fun ⟨l, e⟩ => ⟨⟨modNth_forall n l k, e⟩, rfl⟩⟩

theorem condOff_mild (c u : Nat) (s : State) : MildStep s (condOff c u s) := .of_view rfl

theorem noteF_mild (c a b d : Nat) (s : State) : MildStep s (noteF c a b d s) := .of_view (by simp [mildView, noteF])

theorem condOn_mild {e : RawEvent} (l : e.level < 4) (q : quietCode e.code = true) (u : Nat) (s : State) : MildStep s (condOn u e s) := by
  refine ⟨fun h => ?_⟩
  unfold condOn
  split
  · exact ⟨h, rfl⟩
  · obtain ⟨only, esc⟩ := raise_below_only (s := addCond u e s) l q h.2
    obtain ⟨-, pwr, -, -, -, -, cmp, -⟩ := only.fields
    exact ⟨⟨by rw [mildLayers_iff, cmp]; exact h.1, esc⟩, pwr⟩

theorem applySigs_mild (b : Nat) (s : State) : MildStep s (applySigs b s) := by
  refine .of_view (foldl_view (v := mildView) _ (fun x r => ?_) s)
  split
  · unfold applySig
    split <;> rfl
  · rfl

/-- A configuration that comes into force keeps its level (R146). -/
theorem mildLayer_present {l : Layer} (h : mildLayer l) {c : LayerCfg} (e : l.pend = some c) : (present c l.cfg).faultLevel < 4 := h.2 c e

theorem latchLayer_mild (n : Nat) (s : State) : MildStep s (latchLayer n s) := by
  unfold latchLayer
  dsimp only
  refine (modLayer_mild n (fun l h => ?_) _).after ?_
  · cases e : l.pend with
    | none => exact ⟨h.1, fun c k => by simp at k⟩
    | some c =>
      dsimp only
      split
      · exact ⟨h.1, fun d k => h.2 d (e.trans k)⟩
      · exact ⟨mildLayer_present h e, fun d k => by simp at k⟩
  · split
    · exact .refl s
    · exact (modLayer_mild n (fun _ h => by exact h) _).after (condOff_mild ..)

theorem latchConfigs_mild (s : State) : MildStep s (latchConfigs s) := by
  unfold latchConfigs
  have h : MildStep s ((List.range 6).foldl (fun s n => latchLayer n s) s) := .foldl _ (fun x n => latchLayer_mild n x) s
  dsimp only
  generalize (List.range 6).foldl (fun s n => latchLayer n s) s = w at h ⊢
  have groups (g : List Group) (b : Bool) : MildStep w { w with cmp := { w.cmp with groups := g, postBypassLatched := b } } := .of_view rfl
  exact h.trans ((groups _ _).trans (applySigs_mild 15 _))

theorem flipLayer_mild (n : Nat) (s : State) : MildStep s (flipLayer n s) := by
  rw [flipLayer_eq]
  refine (applySigs_mild n _).after ((modLayer_mild n (fun l h => ?_) _).after (condOff_mild ..))
  cases e : l.pend with
  | none => exact ⟨by simpa [flipped, e] using h.1, fun c k => nomatch k⟩
  | some c => exact ⟨by simpa [flipped, e] using mildLayer_present h e, fun c k => nomatch k⟩

theorem turn_mild (mask : Nat) (s : State) (n : Nat) : MildStep s (turn mask s n) := by
  unfold turn
  split
  · exact flipLayer_mild n s
  · unfold repeatLayer
    split
    · exact modLayer_mild n (fun _ h => by exact h) s
    · exact .refl s

theorem verdict_mild (n : Nat) (s : State) : MildStep s (verdict n s) := by
  have judge : MildStep s (modLayer n (fun x => { x with
      transparent := (judged (layerOf s n)).transparent, staleCause := (judged (layerOf s n)).staleCause }) s) :=
    modLayer_mild n (fun _ h => by exact h) s
  unfold verdict
  dsimp only
  split
  · exact (noteF_mild ..).after judge
  · exact judge

theorem causeSet_mild (cause : Bool) (n : Nat) {l : Layer} (h : l.cfg.faultLevel < 4) (s : State) : MildStep s (causeSet cause n l s) := by
  unfold causeSet
  split
  · dsimp only
    split
    · exact (condOff_mild 0x0210 n s).trans (condOn_mild h rfl n _)
    · exact condOn_mild h rfl n s
  · exact condOff_mild ..

theorem judgeStale_mild (n : Nat) (s : State) : MildStep s (judgeStale n s) := by
  rw [judgeStale_eq]
  refine ⟨fun h => ?_⟩
  have level : (layerOf s n).cfg.faultLevel < 4 := (layerOf_mild h.1 n).1
  exact ((verdict_mild n s).trans (causeSet_mild _ n level _)).keeps h

/-- The flips and the stale policies of a latch (R139, R141). -/
theorem latchFlips_mild (s : State) : MildStep s (latchFlips s) := by
  have v := decideView_decideFlips s
  have decide_ : MildStep s (decideFlips s).2 := .of_view (congrArg (fun x => (x.pwr, x.cmp.layers, x.flt.escCompat)) v)
  have turns : MildStep (decideFlips s).2 (turnedAll s) := .foldl _ (turn_mild (decideFlips s).1) _
  rw [latchFlips_eq]
  exact decide_.trans (turns.trans (.foldl _ (fun x n => judgeStale_mild n x) _))

/-! ### The whole latch -/

theorem decided_mild {s : State} (h : mild s) : mild (decided s) := by
  have lead : MildStep s (latchLead s) := .of_view rfl
  have gains (t : State) : MildStep t (swapGains t) := by
    rw [swapGains_only]
    exact .of_view rfl
  obtain ⟨m, -⟩ := (lead.trans ((gains _).trans (latchConfigs_mild _))).keeps h
  unfold decided
  generalize latchConfigs _ = w at m ⊢
  exact m

theorem startCompose_shows (m : Mode) (frame : Nat) (s : State) :
    (startCompose m frame s).pwr = s.pwr ∧ (startCompose m frame s).scl.comp.content = contentOf m := by
  obtain ⟨k, e⟩ := startCompose_eq m frame s
  rw [e]
  exact ⟨rfl, rfl⟩

/-- The compose that starts keeps the power state and shows the mode decided (R35). -/
theorem started_shows (frame : Nat) (s : State) :
    (started frame s).pwr = s.pwr ∧ (started frame s).scl.comp.content = contentOf (s.pwr.next.getD (s.pwr.mode, 0)).1 := by
  have tables : (latchTables s).pwr = s.pwr := rfl
  unfold started
  rw [tables, ← tables]
  generalize latchTables s = w
  cases n : w.pwr.next with
  | none => exact startCompose_shows w.pwr.mode frame w
  | some p => exact startCompose_shows p.1 frame w

/-- COMPOSE_LATCH shows the mode that it has decided, and MODE stays (R35). -/
theorem composeLatch_shows {s : State} (h : latches s) (m : mild s) :
    ∃ t, exec .composeLatch s = .next t ∧ t.pwr = (decided s).pwr ∧ t.pwr.mode = s.pwr.mode ∧
      t.scl.comp.content = contentOf ((decided s).pwr.next.getD (s.pwr.mode, 0)).1 := by
  have mode : (decided s).pwr.mode = s.pwr.mode := (decided_keeps s).2.2.2.1
  have run := exec_composeLatch h
  obtain ⟨-, flips⟩ := (latchFlips_mild (decided s)).keeps (decided_mild m)
  generalize latchFlips (decided s) = w at run flips
  obtain ⟨pwr, content⟩ := started_shows (wrapInc 32 s.ft.frameCount) w
  generalize started _ w = t at run pwr content
  rw [flips] at pwr content
  rw [mode] at content
  exact ⟨t, run, pwr, by rw [pwr, mode], content⟩

end Sys2Proof.Machine
end

section
/-! The mode registers and the waiting request at a boundary (R35, R36): only the entry into a mode touches them. -/

namespace Sys2Proof.Machine

/-- The mode in force, how it was entered, what is decided, and the SET_MODE that waits. -/
def modeView (s : State) := (s.pwr.mode, s.pwr.prevMode, s.pwr.entryCause, s.pwr.next, s.pwr.pend)

theorem modeView_of_pwr {s t : State} (h : t.pwr = s.pwr) : modeView t = modeView s := by
  unfold modeView
  rw [h]

@[simp] theorem modeView_complete (h op : Nat) (x : Src) (st a b : Nat) (s : State) : modeView (complete h op x st a b s) = modeView s :=
  modeView_of_pwr (by simp)

@[simp] theorem modeView_completeOpen (h op : Nat) (x : Src) (st : Nat) (s : State) : modeView (completeOpen h op x st s) = modeView s :=
  modeView_of_pwr (by simp)

@[simp] theorem modeView_noteF (c a b d : Nat) (s : State) : modeView (noteF c a b d s) = modeView s := modeView_of_pwr (by simp)

/-! ### Power-state requests (R398 to R404) -/

@[simp] theorem modeView_completePower (r : PowerReq) (st a b : Nat) (s : State) : modeView (completePower r st a b s) = modeView s :=
  modeView_complete ..

@[simp] theorem modeView_completeSuperseded (r : PowerReq) (s : State) : modeView (completeSuperseded r s) = modeView s :=
  (modeView_completeOpen ..).trans rfl

@[simp] theorem modeView_beginSleep (r : PowerReq) (s : State) : modeView (beginSleep r s) = modeView s := by
  unfold beginSleep
  dsimp only
  split
  · exact (modeView_completeSuperseded ..).trans rfl
  · split
    · split
      · exact (modeView_completePower ..).trans rfl
      · split
        · exact (modeView_completePower ..).trans rfl
        · rfl
    · exact (modeView_noteF ..).trans rfl

@[simp] theorem modeView_beginPower (r : PowerReq) (s : State) : modeView (beginPower r s) = modeView s := by
  unfold beginPower
  split
  · exact modeView_beginSleep r s
  · split
    · exact modeView_completePower ..
    · rfl

@[simp] theorem modeView_nextPower (s : State) : modeView (nextPower s) = modeView s := by
  unfold nextPower
  dsimp only
  split
  · rfl
  · exact (modeView_beginPower ..).trans rfl

@[simp] theorem modeView_finishPower (st a b : Nat) (s : State) : modeView (finishPower st a b s) = modeView s := by
  unfold finishPower
  split
  · rfl
  · simp

@[simp] theorem modeView_supersedePower (s : State) : modeView (supersedePower s) = modeView s := by
  unfold supersedePower
  split
  · rfl
  · simp

@[simp] theorem modeView_settleLevel (s : State) : modeView (settleLevel s) = modeView s := by
  unfold settleLevel
  split
  · split <;> simp
  · rfl

@[simp] theorem modeView_endBlanking (s : State) : modeView (endBlanking s) = modeView s := by
  unfold endBlanking
  split
  · exact (modeView_settleLevel _).trans rfl
  · rfl

@[simp] theorem modeView_abandonPower (s : State) : modeView (abandonPower s) = modeView s := by
  unfold abandonPower
  split
  · dsimp only
    split
    · rfl
    · exact (modeView_supersedePower _).trans rfl
  · split
    · exact (modeView_supersedePower _).trans rfl
    · rfl

/-! ### Calibration (R370, R371) -/

@[simp] theorem modeView_abortCal (s : State) : modeView (abortCal s) = modeView s := by
  unfold abortCal
  split
  · rename_i r _
    split
    · have h : modeView (complete r.handle 0x40 r.src stFailed 0xFFFFFFFF (Config.freeValue s.free).toNat { s with free := s.free + 1 }) =
          modeView s := (modeView_complete ..).trans rfl
      dsimp only
      generalize complete _ _ _ _ _ _ _ = w at h ⊢
      exact Eq.trans rfl h
    · rfl
  · rfl

@[simp] theorem modeView_finishCal (r : CalRun) (s : State) : modeView (finishCal r s) = modeView s := by
  unfold finishCal
  dsimp only
  split <;> exact modeView_complete ..

@[simp] theorem modeView_requireStores (m h : Nat) (s : State) : modeView (requireStores m h s) = modeView s := by
  unfold requireStores
  refine foldl_view _ (fun x c => ?_) s
  unfold queueStore
  dsimp only
  split <;> rfl

@[simp] theorem modeView_resolveStore (c st : Nat) (s : State) (h : Nat) : modeView (resolveStore c st s h) = modeView s := by
  have run : ∀ t : State, modeView t = modeView s → ∀ (runs l : List CalRun),
      modeView (l.foldl (fun s r => finishCal r s) { t with nvm := { t.nvm with commits := runs } }) = modeView s := by
    intro t e runs l
    exact (foldl_view _ (fun x r => modeView_finishCal r x) _).trans e
  unfold resolveStore
  dsimp only
  refine run _ ?_ _ _
  split
  · split
    · rfl
    · split
      · exact (modeView_finishCal ..).trans rfl
      · rfl
  · rfl

@[simp] theorem modeView_resolveClosed (s : State) : modeView (resolveClosed s) = modeView s := by
  unfold resolveClosed
  exact (foldl_view _ (fun x (w : Nat × Nat) => modeView_resolveStore w.1 stTempWindow x w.2) _).trans rfl

/-- The stores that end a CALIBRATE FULL, or its end where none are due (R370). -/
theorem modeView_fullStores (r : CalRun) (s : State) :
    modeView (if r.store && r.bad = 0 then
        let s := requireStores 3 r.handle { s with nvm := { s.nvm with calRun := some { r with stage := 3, todo := 3 } } }
        if s.thm.nvmOpen then s else resolveClosed s
      else finishCal r s) = modeView s := by
  split
  · have h : modeView (requireStores 3 r.handle { s with nvm := { s.nvm with calRun := some { r with stage := 3, todo := 3 } } }) = modeView s :=
      (modeView_requireStores ..).trans rfl
    dsimp only
    generalize requireStores 3 r.handle _ = w at h ⊢
    split
    · exact h
    · exact (modeView_resolveClosed w).trans h
  · exact modeView_finishCal r s

@[simp] theorem modeView_endFull (s : State) : modeView (endFull s) = modeView s := by
  unfold endFull
  split
  · split
    · rfl
    · exact (modeView_fullStores ..).trans rfl
  · rfl

/-! ### What takes effect at a boundary beside the mode -/

@[simp] theorem modeView_latchBlanking (s : State) : modeView (latchBlanking s) = modeView s := by
  unfold latchBlanking
  split
  · exact (modeView_finishPower ..).trans rfl
  · rfl

@[simp] theorem modeView_latchSleep (s : State) : modeView (latchSleep s) = modeView s := by
  unfold latchSleep
  split <;> rfl

@[simp] theorem modeView_latchCalibrate (s : State) : modeView (latchCalibrate s) = modeView s := by
  unfold latchCalibrate
  split
  · split <;> rfl
  · rfl

@[simp] theorem modeView_latchStaged (s : State) : modeView (latchStaged s) = modeView s := by
  unfold latchStaged
  split
  · split
    · exact (modeView_endFull _).trans rfl
    · rfl
  · rfl

@[simp] theorem modeView_relightNow (s : State) : modeView (relightNow s) = modeView s := by
  unfold relightNow
  split
  · dsimp only
    split
    · split
      · exact (modeView_supersedePower _).trans rfl
      · exact (modeView_finishPower ..).trans rfl
    · rfl
  · rfl

/-- All that takes effect after the mode. -/
def latchRest (s : State) : State := relightNow (latchStaged (latchCalibrate (latchSleep (latchBlanking s))))

@[simp] theorem modeView_latchRest (s : State) : modeView (latchRest s) = modeView s := by simp [latchRest]

theorem latchStaged_cq (s : State) : s.cmd.cq <+: (latchStaged s).cmd.cq := by
  unfold latchStaged
  split
  · split
    · refine List.IsPrefix.trans ?_ (endFull_reacts _).cq
      exact List.prefix_rfl
    · exact List.prefix_rfl
  · exact List.prefix_rfl

theorem latchRest_cq (s : State) : s.cmd.cq <+: (latchRest s).cmd.cq :=
  ((latchBlanking_reacts s).cq.trans ((latchSleep_reacts _).cq.trans (latchCalibrate_reacts _).cq)).trans
    ((latchStaged_cq _).trans (relightNow_reacts _).cq)

/-! ### The entry into a lit mode (R35, R36, R49) -/

/-- A completion of a SET_MODE with a status. -/
def ModeDone (handle status : Nat) (s : State) : Prop := ∃ e ∈ s.cmd.cq, e.handle = handle ∧ e.opcode = 0x10 ∧ e.status = status

theorem ModeDone.mono {handle status : Nat} {s t : State} (h : ModeDone handle status s) (c : s.cmd.cq <+: t.cmd.cq) :
    ModeDone handle status t := by
  obtain ⟨e, m, k⟩ := h
  exact ⟨e, c.subset m, k⟩

theorem complete_modeDone {handle status : Nat} {x : Src} {a b : Nat} {s : State} (o : s.cmd.outstanding.contains handle = true) :
    ModeDone handle status (complete handle 0x10 x status a b s) := by
  unfold complete ModeDone
  rw [if_pos o]
  exact ⟨_, List.mem_append_right _ (List.mem_singleton.2 rfl), rfl, rfl, rfl⟩

theorem modeView_enterMode (m : Mode) (c : Nat) (s : State) :
    modeView (enterMode m c s) = (m, modeCode s.pwr.mode, c, none, s.pwr.pend) := rfl

theorem enterMode_outstanding (m : Mode) (c : Nat) (s : State) : (enterMode m c s).cmd.outstanding = s.cmd.outstanding :=
  (enterMode_reacts m c s).outstanding

/-- A waiting SET_MODE ends with a status (R36, R37). -/
theorem endPending_spec {st : Nat} {s : State} {p : PendMode} (h : s.pwr.pend = some p) :
    (endPending st s).pwr = { s.pwr with pend := none } ∧
      (s.cmd.outstanding.contains p.handle = true → ModeDone p.handle st (endPending st s)) := by
  unfold endPending
  rw [h]
  refine ⟨by simp, fun o => ?_⟩
  exact complete_modeDone o

/-- What becomes of the waiting request when a mode is entered: SUPERSEDED where the device decided, else OK where it asked for the
mode (R36, R41). -/
theorem settlePending_spec {m : Mode} {own : Bool} {s : State} {p : PendMode} (h : s.pwr.pend = some p) (e : own = true ∨ p.target = m) :
    (settlePending m own s).pwr = { s.pwr with pend := none } ∧
      (s.cmd.outstanding.contains p.handle = true → ModeDone p.handle (if own = true then stSuperseded else stOk) (settlePending m own s)) := by
  unfold settlePending
  rw [h]
  dsimp only
  cases own
  · have t : p.target = m := by simpa using e
    simp only [Bool.false_eq_true, if_false, t, if_true]
    exact ⟨by simp, fun o => complete_modeDone o⟩
  · simp only [if_true]
    exact endPending_spec h

/-- The mode registers after the waiting request is settled. -/
theorem settlePending_mode (m : Mode) (own : Bool) (s : State) :
    ∃ q, (settlePending m own s).pwr = { s.pwr with pend := q } := by
  cases h : s.pwr.pend with
  | none =>
    have same : settlePending m own s = s := by simp [settlePending, h]
    exact ⟨s.pwr.pend, congrArg State.pwr same⟩
  | some p =>
    by_cases e : own = true ∨ p.target = m
    · exact ⟨none, (settlePending_spec h e).1⟩
    · rw [not_or] at e
      have same : settlePending m own s = s := by simp [settlePending, h, e]
      exact ⟨s.pwr.pend, congrArg State.pwr same⟩

/-- After the mode registers and the waiting request the entry into a lit mode touches neither (R48, R404). -/
theorem modeView_enterLit (m : Mode) (c : Nat) (own : Bool) (s : State) :
    modeView (enterLit m c own s) = modeView (settlePending m own (enterMode m c s)) := by
  unfold enterLit
  generalize settlePending m own (enterMode m c s) = w
  have k : modeView (if m = .belay then abandonPower (abortCal (endBlanking w)) else w) = modeView w := by split <;> simp
  dsimp only
  generalize (if m = .belay then _ else w : State) = u at k ⊢
  split <;> exact k

theorem enterLit_cq (m : Mode) (c : Nat) (own : Bool) (s : State) :
    (settlePending m own (enterMode m c s)).cmd.cq <+: (enterLit m c own s).cmd.cq := by
  unfold enterLit
  generalize settlePending m own (enterMode m c s) = w
  have k : w.cmd.cq <+: (if m = .belay then abandonPower (abortCal (endBlanking w)) else w).cmd.cq := by
    split
    · exact (endBlanking_reacts w).cq.trans ((abortCal_reacts _).cq.trans (abandonPower_reacts _).cq)
    · exact List.prefix_rfl
  dsimp only
  generalize (if m = .belay then _ else w : State) = u at k ⊢
  split <;> exact k

/-- The mode registers that the entry into a lit mode leaves (R49, R50). -/
theorem enterLit_mode (m : Mode) (c : Nat) (own : Bool) (s : State) :
    (enterLit m c own s).pwr.mode = m ∧ (enterLit m c own s).pwr.prevMode = modeCode s.pwr.mode ∧
      (enterLit m c own s).pwr.entryCause = c ∧ (enterLit m c own s).pwr.next = none := by
  have v := modeView_enterLit m c own s
  obtain ⟨q, e⟩ := settlePending_mode m own (enterMode m c s)
  have w := modeView_enterMode m c s
  simp only [modeView, e, Prod.mk.injEq] at v w
  obtain ⟨mode, prev, cause, next, -⟩ := v
  obtain ⟨wm, wp, wc, wn, -⟩ := w
  exact ⟨mode.trans wm, prev.trans wp, cause.trans wc, next.trans wn⟩

/-- The request that the entry into a lit mode ends (R36, R41). -/
theorem enterLit_pend {m : Mode} {own : Bool} {s : State} {p : PendMode} (c : Nat) (h : s.pwr.pend = some p) (e : own = true ∨ p.target = m) :
    (enterLit m c own s).pwr.pend = none ∧ (s.cmd.outstanding.contains p.handle = true →
      ModeDone p.handle (if own = true then stSuperseded else stOk) (enterLit m c own s)) := by
  obtain ⟨pwr, done⟩ := settlePending_spec (m := m) (own := own) (s := enterMode m c s) h e
  have v := congrArg (fun x => x.2.2.2.2) (modeView_enterLit m c own s)
  rw [enterMode_outstanding] at done
  exact ⟨v.trans (congrArg Pwr.pend pwr), fun o => (done o).mono (enterLit_cq m c own s)⟩

end Sys2Proof.Machine
end

section
/-! The boundary that shows a decided mode (R35, R36), and the instants of the mode logic (R37, R38, R48, R394, R396, R400). -/

namespace Sys2Proof.Machine

/-! ### The requests at a boundary: its bookkeeping completes none -/

theorem cmd_raise {e : RawEvent} (l : e.level < 3) (q : quietCode e.code = true) (s : State) : (raise e s).cmd = s.cmd :=
  (raise_quiet_only l q s).fields.2.2.2.2.2.2.2.2.2.2.2.1

theorem cmd_vReq (s : State) : (vReq s).2.cmd = s.cmd := by
  unfold vReq
  dsimp only
  split <;> rfl

/-- The event of a judged latch of VLED_OVER (R347). -/
theorem cmd_vledEvent (v : Nat) (s : State) :
    (if s.arr.vledOver = 16 && !condIs 0x0803 0 s then
        let r := vReq s
        condOn 0 (ev 0x0803 v r.1 r.2.arr.duty r.2.ft.frameCount) r.2
      else if s.arr.vledUnder = 16 then condOff 0x0803 0 s else s).cmd = s.cmd := by
  have raised (r : Nat × State) : (condOn 0 (ev 0x0803 v r.1 r.2.arr.duty r.2.ft.frameCount) r.2).cmd = r.2.cmd := by
    unfold condOn
    split
    · rfl
    · exact cmd_raise (e := ev 0x0803 _ _ _ _) (by decide : evLevel 0x0803 < 3) rfl (addCond 0 _ r.2)
  split
  · exact (raised (vReq s)).trans (cmd_vReq s)
  · split <;> rfl

theorem cmd_latchVled (v : Nat) (s : State) : (latchVled v s).cmd = s.cmd := by
  unfold latchVled
  split
  · rfl
  · exact (cmd_vledEvent v _).trans rfl

theorem cmd_latchHeadroom (s : State) : (latchHeadroom s).cmd = s.cmd := by
  unfold latchHeadroom
  dsimp only
  split
  · rfl
  · split
    · rfl
    · split
      · split <;> rfl
      · rfl

theorem cmd_closedCounts (v : Nat) (s : State) : (closedCounts v s).cmd = s.cmd := by
  have limit (t : State) : (latchLimit v t).cmd = t.cmd := by
    unfold latchLimit raiseF
    split
    · exact cmd_raise (by decide : evLevel 0x0602 < 3) rfl t
    · rfl
  have lost (t : State) : (latchLost v t).cmd = t.cmd := by
    unfold latchLost raiseF
    split
    · exact cmd_raise (by decide : evLevel 0x0603 < 3) rfl t
    · rfl
  unfold closedCounts
  rw [cmd_latchHeadroom, limit, cmd_latchVled, lost]
  rfl

theorem cmd_closeFrame (f : List PixFlags) (v : Nat) (s : State) : (closeFrame f v s).cmd = s.cmd := by
  have slot : (collectSlot f s).cmd = s.cmd := by
    unfold collectSlot
    split <;> rfl
  have wear (t : State) : (latchWear t).cmd = t.cmd := by
    unfold latchWear
    split
    · exact foldl_view (v := State.cmd) (g := addCharge) _ (fun _ _ => rfl) t
    · rfl
  have count (t : State) : (latchCount t).cmd = t.cmd := by
    unfold latchCount
    split <;> rfl
  have handed (t : State) : (handedOn v t).cmd = t.cmd := rfl
  rw [closeFrame_eq, handed, cmd_closedCounts, count, wear, slot]

theorem cmd_latchTimer (s : State) : (latchTimer s).cmd = s.cmd := by
  unfold latchTimer
  dsimp only
  split <;> rfl

theorem cmd_of_linkView {s t : State} (h : linkView t = linkView s) : t.cmd = s.cmd := congrArg (fun x => x.2.1) h

theorem cmd_enableLane (l : Nat) (s : State) : (enableLane l s).cmd = s.cmd := by
  unfold enableLane
  dsimp only
  split
  · exact cmd_of_linkView (linkView_restartLane ..)
  · exact cmd_of_linkView ((linkView_setLaneState ..).trans (linkView_modLane ..))

theorem cmd_disableLane (l : Nat) (s : State) : (disableLane l s).cmd = s.cmd := by
  unfold disableLane
  exact cmd_of_linkView (by simp)

theorem cmd_takeRole (r : Nat) (s : State) : (takeRole r s).cmd = s.cmd := by
  have source (n : Nat) : (if n ≠ s.ft.activeSrc then switchSrc n s else s).cmd = s.cmd := by
    split <;> rfl
  unfold takeRole
  dsimp only
  split
  · rw [cmd_disableLane]
    exact source _
  · rw [cmd_enableLane]
    exact source _

theorem cmd_latchRole (s : State) : (latchRole s).cmd = s.cmd := by
  unfold latchRole
  split
  · exact cmd_takeRole ..
  · rfl

theorem cmd_latchLimited (t s : State) : (latchLimited t s).cmd = s.cmd := by
  unfold latchLimited
  split
  · simp
  · rfl

/-- What a boundary finds of the power state, the compose and the requests is what the frame before it left (R66). -/
theorem boundary_keeps (f : List PixFlags) (v u : Nat) (s : State) :
    (boundary f v u s).pwr = s.pwr ∧ (boundary f v u s).scl = s.scl ∧ (boundary f v u s).cmd = s.cmd := by
  have h := (calmView_boundary f v u s).trans (calmView_closeFrame f v s)
  have cmd : (boundary f v u s).cmd = s.cmd := by
    unfold boundary
    rw [cmd_latchLimited, cmd_latchRole, cmd_latchTimer, cmd_closeFrame]
  generalize boundary f v u s = w at h cmd
  simp only [calmView, Prod.mk.injEq] at h
  obtain ⟨pwr, scl, -⟩ := h
  exact ⟨pwr, scl, cmd⟩

theorem swapWords_cmd (s : State) : (swapWords s).cmd = s.cmd := by
  unfold swapWords
  dsimp only
  split
  · rfl
  · split <;> rfl

theorem begun_cmd (d : Bool) (s : State) : (begun d s).cmd = s.cmd := by
  have misses : (clearMisses s).cmd = s.cmd := by
    unfold clearMisses
    split <;> rfl
  unfold begun
  generalize clearMisses s = w at misses ⊢
  unfold openFrame
  dsimp only
  rw [sendSync_only, statusDue_status, latchTest_only]
  dsimp only
  split <;> exact misses

/-! ### The mode at a boundary (R35, R36) -/

/-- A boundary changes the mode registers and the waiting request by the entry into the decided mode only. -/
theorem frameLatch_mode (f : List PixFlags) (v u : Nat) (d : Bool) {s : State} (lit : litMode s.pwr.mode = true) :
    ∃ x, x.pwr = s.pwr ∧ x.scl = s.scl ∧ x.cmd = s.cmd ∧ modeView (frameLatch f v u d s) = modeView (latchMode x) ∧
      (latchMode x).cmd.cq <+: (frameLatch f v u d s).cmd.cq := by
  obtain ⟨pwr, scl, cmd⟩ := boundary_keeps f v u s
  have run : frameLatch f v u d s = begun d (takeEffect u (boundary f v u s)) := frameLatch_eq f v u d s
  refine ⟨boundary f v u s, pwr, scl, cmd, ?_, ?_⟩
  all_goals
    rw [run]
    generalize boundary f v u s = x at pwr ⊢
    have ends : kindleEnds x = false := by
      unfold kindleEnds
      rw [pwr]
      cases m : s.pwr.mode <;> simp_all [litMode]
    have effect : takeEffect u x = swapWords (latchRest (latchMode x)) := by
      rw [takeEffect_eq, settled, ends]
      rfl
    rw [effect]
  · have keep : ∀ t : State, modeView (begun d t) = modeView t := by
      intro t
      obtain ⟨p, -⟩ := begun_spec d t
      simp only [modeView, p]
    rw [keep, modeView_of_pwr (swapWords_frame _).1, modeView_latchRest]
  · rw [begun_cmd, swapWords_cmd]
    exact latchRest_cq _

section
variable {f : List PixFlags} {v u : Nat} {d : Bool} {m : Mode} {c : Nat} {s : State} (lit : litMode s.pwr.mode = true)
  (n : s.pwr.next = some (m, c))
include lit n

/-- A boundary that misses changes no mode (log entry 28). -/
theorem frameLatch_misses (ok : s.scl.comp.ok = false) : modeView (frameLatch f v u d s) = modeView s := by
  obtain ⟨x, pwr, scl, -, view, -⟩ := frameLatch_mode f v u d lit
  have same : latchMode x = x := by
    unfold latchMode
    rw [pwr, n, scl, ok]
    rfl
  rw [view, same, modeView_of_pwr pwr]

/-- A boundary that flips enters the decided mode, and settles the waiting request (R35, R36). -/
theorem frameLatch_enters (ok : s.scl.comp.ok = true) :
    let t := frameLatch f v u d s
    (t.pwr.mode = m ∧ t.pwr.prevMode = modeCode s.pwr.mode ∧ t.pwr.entryCause = c ∧ t.pwr.next = none) ∧
      ∀ p, s.pwr.pend = some p → c ≠ 4 ∨ p.target = m → t.pwr.pend = none ∧
        (s.cmd.outstanding.contains p.handle = true → ModeDone p.handle (if c ≠ 4 then stSuperseded else stOk) t) := by
  obtain ⟨x, pwr, scl, cmd, view, cq⟩ := frameLatch_mode f v u d lit
  have enter : latchMode x = enterLit m c (c ≠ 4) x := by
    unfold latchMode
    rw [pwr, n, scl, ok, lit]
    rfl
  rw [enter] at view cq
  generalize frameLatch f v u d s = t at view cq
  simp only [modeView, Prod.mk.injEq] at view
  obtain ⟨vm, vp, vc, vn, vq⟩ := view
  obtain ⟨mode, prev, cause, next⟩ := enterLit_mode m c (c ≠ 4) x
  rw [pwr] at prev
  refine ⟨⟨vm.trans mode, vp.trans prev, vc.trans cause, vn.trans next⟩, fun p h e => ?_⟩
  obtain ⟨none_, done⟩ := enterLit_pend (m := m) (own := decide (c ≠ 4)) (s := x) (p := p) c (by rw [pwr]; exact h) (by simpa using e)
  rw [cmd] at done
  simp only [decide_eq_true_eq] at done
  exact ⟨vq.trans none_, fun o => (done o).mono cq⟩

end

end Sys2Proof.Machine
end

section
/-! The instants of the mode logic (R37, R38, R48, R394, R396, R400), and O17. -/

namespace Sys2Proof.Machine

/-- HOST_TIMEOUT in BEAM with the check on (R38). -/
theorem exec_hostTimeout {s : State} (up : awake s = true) (m : s.pwr.mode = .beam) (on : s.pwr.hostTimeoutMs ≠ 0) :
    exec .hostTimeout s = .next (raise (ev 0x0D01 s.pwr.hostTimeoutMs s.pwr.hostSrc (hrxTrained s) s.ft.frameCount) s) := by
  change execHostTimeout s = _
  simp [execHostTimeout, raiseF, up, m, on]

/-- BEAM_WAIT_TIMEOUT ends a request for BEAM that is not committed (R37). -/
theorem exec_beamWaitTimeout {s : State} {p : PendMode} (up : awake s = true) (h : s.pwr.pend = some p) (t : p.target = .beam)
    (c : p.committed = false) : exec .beamWaitTimeout s = .next (endPending stTimeout s) := by
  change execBeamWaitTimeout s = _
  simp [execBeamWaitTimeout, pendFor, beamCommitted, up, h, t, c]

/-- A request that is committed stands (R37). -/
theorem exec_beamWaitTimeout_committed {s : State} {p : PendMode} (h : s.pwr.pend = some p) (c : p.committed = true) :
    exec .beamWaitTimeout s = .next s := by
  change execBeamWaitTimeout s = _
  simp [execBeamWaitTimeout, pendFor, beamCommitted, h, c]

/-- A waiting request that is outstanding ends with one completion, the last. -/
theorem endPending_done {st : Nat} {s : State} {p : PendMode} (h : s.pwr.pend = some p) (o : s.cmd.outstanding.contains p.handle = true) :
    ∃ e, (endPending st s).cmd.cq = s.cmd.cq ++ [e] ∧ e.handle = p.handle ∧ e.opcode = 0x10 ∧ e.status = st := by
  unfold endPending completeOpen takeFree complete
  rw [h]
  dsimp only
  rw [if_pos o]
  exact ⟨_, rfl, rfl, rfl, rfl⟩

/-- BLANKING_END of a blanked array whose bias has settled, no request and no calibration holding it (R48, R400). -/
theorem exec_blankingEnd {s : State} (up : awake s = true) (b : s.pwr.blanking = true) (a : s.pwr.active = none)
    (settled : s.pwr.biasSettled = true) (cal : s.nvm.calRun = none) :
    exec .blankingEnd s = .next { s with pwr := { s.pwr with blanking := false, blankP3 := false, dark := false } } := by
  change execBlankingEnd s = _
  simp [execBlankingEnd, endBlanking, settleLevel, calDark, up, b, a, settled, cal]

/-- In SNUFFED a change of the P level starts at once (R394). -/
theorem exec_plevelChangeStart {s : State} (up : awake s = true) (m : s.pwr.mode = .snuffed) (idle : s.pwr.changing = false)
    (b : s.pwr.blankP3 = false) (want : s.pwr.plevelTarget ≠ s.pwr.plevel) :
    exec .plevelChangeStart s = .next { s with pwr := { s.pwr with changing := true, changeTo := s.pwr.plevelTarget } } := by
  change execPlevelChangeStart s = _
  simp [execPlevelChangeStart, windowOpen, wantedLevel, up, m, idle, b, want]

/-- A change of the P level that completes is in force and counted (R396). -/
theorem plevelChangeComplete_spec {s : State} (up : awake s = true) (run : s.pwr.changing = true) (a : s.pwr.active = none) :
    ∃ t, exec .plevelChangeComplete s = .next t ∧ t.pwr.changing = false ∧ t.pwr.plevel = s.pwr.changeTo ∧
      t.pwr.changes = min (s.pwr.changes + 1) 65535 := by
  let x : State := { s with pwr := { s.pwr with changing := false, plevel := s.pwr.changeTo, changes := satInc 16 s.pwr.changes } }
  let r := noteF 0x0E08 x.pwr.plevel s.pwr.plevel x.pwr.changes x
  have pwr : r.pwr = x.pwr := noteF_pwr ..
  have none_ : settleLevel r = r := by
    unfold settleLevel
    rw [pwr, a]
  have e : exec .plevelChangeComplete s = .next r := by
    change execPlevelChangeComplete s = _
    unfold execPlevelChangeComplete
    rw [up, run, ← none_]
    rfl
  exact ⟨r, e, by rw [pwr], by rw [pwr], by rw [pwr]; rfl⟩

/-- Settles O17: the aim of each mode for the decision, `composeLatch_shows` for the compose, `frameLatch_enters` and `frameLatch_misses` for
the boundary, and an equation for each instant. -/
theorem modeInstantsRun : Obligations.ModeInstantsRun := by
  unfold Obligations.ModeInstantsRun
  refine ⟨fun s n => ?_, fun s c m n t => ?_, fun s up run lit stop idle esc layers => ?_,
    fun f v us b m c s ok up run lit n _ => ⟨fun flip => ?_, fun miss => ?_⟩,
    fun s up m on => exec_hostTimeout up m on, fun s p up h t c => ?_, fun s p h c => exec_beamWaitTimeout_committed h c,
    fun s up b a bias cal => exec_blankingEnd up b a bias cal, fun s up m idle b want => exec_plevelChangeStart up m idle b want,
    fun s up run a => plevelChangeComplete_spec up run a⟩
  · intro u ready
    have next : u.pwr.next = if (aim s).1 = s.pwr.mode then none else some (aim s) := decideMode_next s
    have may : mayBeam s = true ↔ (pendFor .beam s = true ∧ levelMax s.flt < 3 ∧ ready) := mayBeam_iff s
    have noTrigger (l : levelMax s.flt < 3) : ¬pilotTrigger s = true := by rw [pilotTrigger_iff]; omega
    refine ⟨fun m t => ?_, fun m b d => ?_, fun m b d l => ?_, fun m b d l => ?_, fun m b => ?_, fun m b => ?_, fun m b => ?_,
      fun p h t c => ?_, decideMode_only s⟩
    · rcases m with m | m
      · simp [next, aim_beam n m, t, m]
      · simp [next, aim_pilot n m, t, m]
    · simp [next, aim_beam n m, b, d, m]
    · exact ⟨pilotCause s, pilotCause_mem s, by simp [next, aim_beam n m, b, d, (pilotTrigger_iff s).2 l, m]⟩
    · by_cases k : pendFor .pilot s = true <;> simp [next, aim_beam n m, b, d, noTrigger l, m, k]
    · by_cases k : mayBeam s = true <;> simp [next, aim_pilot n m, b, m, k, ← may]
    · simp [next, aim_belay n m, b, m]
    · by_cases k : pendFor .pilot s = true
      · simp [next, aim_belay n m, b, m, k]
      · by_cases j : mayBeam s = true <;> simp [next, aim_belay n m, b, m, k, j, ← may]
    · rw [beamCommitted_decideMode h t c, decideMode_shows]
  · have gives : (aim s).1 = .belay := aim_beamGivesWay m n (by rwa [pilotTrigger_iff])
    rw [decideMode_next, gives, m, if_pos rfl]
  · exact composeLatch_shows ⟨up, run, lit, stop, idle⟩ ⟨layers, esc⟩
  · obtain ⟨⟨mode, prev, cause, next⟩, pend⟩ := frameLatch_enters (f := f) (v := v) (u := us) (d := b) lit n flip
    refine ⟨_, exec_frameLatch v us b ok up run, mode, prev, cause, next, fun p h t c4 => ?_, fun p h c4 => ?_⟩
    · have done := pend p h (.inr t)
      rwa [if_neg (not_not.2 c4)] at done
    · have done := pend p h (.inl c4)
      rwa [if_pos c4] at done
  · have view := frameLatch_misses (f := f) (v := v) (u := us) (d := b) lit n miss
    simp only [modeView, Prod.mk.injEq] at view
    obtain ⟨mode, -, -, next, pend⟩ := view
    exact ⟨_, exec_frameLatch v us b ok up run, mode, next.trans n, pend⟩
  · obtain ⟨pwr, -⟩ := endPending_spec (st := stTimeout) h
    exact ⟨_, exec_beamWaitTimeout up h t c, by rw [pwr], by rw [pwr], endPending_done h⟩

end Sys2Proof.Machine
end
section
/-! What every step keeps: the units of the device, the canonical form of its memories (R79, R291, R356). -/

namespace Sys2Proof.Machine

/-- A row that brings no reset keeps the queue, the memories' form, the units, a lock in force and the device out of reset: row by row. -/
theorem exec_keeps : ∀ (i : Instr) (s : State), resetRow i = false → KeepsRes s (exec i s)
  | .powerOn _ _ _ _ _, _, h => nomatch h
  | .resetNAssert _ _, _, h => nomatch h
  | .supplyDip _, _, h => nomatch h
  | .supplyLossInS1 rail, s, _ => execSupplyLossInS1_keeps rail s (.refl s)
  | .testEnAssert, _, h => nomatch h
  | .resetRelease, s, _ => execResetRelease_keeps s (.refl s)
  | .ldoRegulation, s, _ => execLdoRegulation_keeps s (.refl s)
  | .pllLock, s, _ => execPllLock_keeps s (.refl s)
  | .limralReady, s, _ => execLimralReady_keeps s (.refl s)
  | .arrayBiasSettled m, s, _ => execArrayBiasSettled_keeps m s (.refl s)
  | .bistComplete fail, s, _ => execBistComplete_keeps fail s (.refl s)
  | .nvmLoadComplete m, s, _ => execNvmLoadComplete_keeps m s (.refl s)
  | .calibrationComplete us, s, _ => execCalibrationComplete_keeps us s (.refl s)
  | .kindleWorkComplete workUs, s, _ => execKindleWorkComplete_keeps workUs s (.refl s)
  | .kindleTimeout, s, _ => execKindleTimeout_keeps s (.refl s)
  | .logScanComplete, s, _ => execLogScanComplete_keeps s (.refl s)
  | .composeLatch, s, _ => execComposeLatch_keeps s (.refl s)
  | .engineNextTile e near far, s, _ => execEngineNextTile_keeps e near far s (.refl s)
  | .tileRetired e clocks stall, s, _ => execTileRetired_keeps e clocks stall s (.refl s)
  | .sigReadbackTile tile diff, s, _ => execSigReadbackTile_keeps tile diff s (.refl s)
  | .mapperFlushPoint clocks outMax part, s, _ => execMapperFlushPoint_keeps clocks outMax part s (.refl s)
  | .grefFinal, s, _ => execGrefFinal_keeps s (.refl s)
  | .signaturesFinal, s, _ => execSignaturesFinal_keeps s (.refl s)
  | .frameLatch flags vledMv totalUs testDue, s, _ => execFrameLatch_keeps flags vledMv totalUs testDue s (.refl s)
  | .diagVerdictsFinal parity, s, _ => execDiagVerdictsFinal_keeps parity s (.refl s)
  | .slotStart flags test, s, _ => execSlotStart_keeps flags test s (.refl s)
  | .scanCycleStart, s, _ => execScanCycleStart_keeps s (.refl s)
  | .fsyncInEdge count, s, _ => execFsyncInEdge_keeps count s (.refl s)
  | .holdoverEntry, s, _ => execHoldoverEntry_keeps s (.refl s)
  | .hostTimeout, s, _ => execHostTimeout_keeps s (.refl s)
  | .beamWaitTimeout, s, _ => execBeamWaitTimeout_keeps s (.refl s)
  | .blankingEnd, s, _ => execBlankingEnd_keeps s (.refl s)
  | .plevelChangeStart, s, _ => execPlevelChangeStart_keeps s (.refl s)
  | .plevelChangeComplete, s, _ => execPlevelChangeComplete_keeps s (.refl s)
  | .spiRequestTransaction bytes, s, _ => execSpiRequestTransaction_keeps bytes s (.refl s)
  | .spiReadTransaction n, s, _ => execSpiReadTransaction_keeps n s (.refl s)
  | .spiVoidTransaction n, s, _ => execSpiVoidTransaction_keeps n s (.refl s)
  | .commandPacket path cols, s, _ => execCommandPacket_keeps path cols s (.refl s)
  | .twinInfoReply cols, s, _ => execTwinInfoReply_keeps cols s (.refl s)
  | .replySend path, s, _ => execReplySend_keeps path s (.refl s)
  | .ping rq, s, _ => execPing_keeps rq s (.refl s)
  | .getInfo rq, s, _ => execGetInfo_keeps rq s (.refl s)
  | .getStatus rq, s, _ => execGetStatus_keeps rq s (.refl s)
  | .readReg rq, s, _ => execReadReg_keeps rq s (.refl s)
  | .writeReg rq, s, _ => execWriteReg_keeps rq s (.refl s)
  | .getCompletions rq, s, _ => execGetCompletions_keeps rq s (.refl s)
  | .lockConfig rq, s, _ => execLockConfig_keeps rq s (.refl s)
  | .setMode rq, s, _ => execSetMode_keeps rq s (.refl s)
  | .setPlevel rq, s, _ => execSetPlevel_keeps rq s (.refl s)
  | .sleepUntil rq waitMs, s, _ => execSleepUntil_keeps rq waitMs s (.refl s)
  | .layerConfig rq, s, _ => execLayerConfig_keeps rq s (.refl s)
  | .layerEnable rq, s, _ => execLayerEnable_keeps rq s (.refl s)
  | .flipGroupConfigure rq, s, _ => execFlipGroupConfigure_keeps rq s (.refl s)
  | .flipGroupArm rq, s, _ => execFlipGroupArm_keeps rq s (.refl s)
  | .fenceSignal rq, s, _ => execFenceSignal_keeps rq s (.refl s)
  | .loadLut rq, s, _ => execLoadLut_keeps rq s (.refl s)
  | .loadCoeffs rq, s, _ => execLoadCoeffs_keeps rq s (.refl s)
  | .signatureRegionConfigure rq, s, _ => execSignatureRegionConfigure_keeps rq s (.refl s)
  | .signatureRegionDisable rq, s, _ => execSignatureRegionDisable_keeps rq s (.refl s)
  | .linkTrainRestart rq, s, _ => execLinkTrainRestart_keeps rq s (.refl s)
  | .linkTrainDisable rq, s, _ => execLinkTrainDisable_keeps rq s (.refl s)
  | .linkTrainComplete ms, s, _ => execLinkTrainComplete_keeps ms s (.refl s)
  | .laneBitslip rq, s, _ => execLaneBitslip_keeps rq s (.refl s)
  | .eyeScan rq, s, _ => execEyeScan_keeps rq s (.refl s)
  | .eyeScanComplete errors, s, _ => execEyeScanComplete_keeps errors s (.refl s)
  | .calibrateFull rq, s, _ => execCalibrateFull_keeps rq s (.refl s)
  | .calibrateFullMeasure m us, s, _ => execCalibrateFullMeasure_keeps m us s (.refl s)
  | .calibrateSensors rq readings, s, _ => execCalibrateSensors_keeps rq readings s (.refl s)
  | .calCommit rq, s, _ => execCalCommit_keeps rq s (.refl s)
  | .nvmRead rq, s, _ => execNvmRead_keeps rq s (.refl s)
  | .patternWriteBegin rq, s, _ => execPatternWriteBegin_keeps rq s (.refl s)
  | .patternWriteData rq verifyFail, s, _ => execPatternWriteData_keeps rq verifyFail s (.refl s)
  | .patternWriteCommit rq, s, _ => execPatternWriteCommit_keeps rq s (.refl s)
  | .patternWriteCommitDone writeFail copyFail, s, _ => execPatternWriteCommitDone_keeps writeFail copyFail s (.refl s)
  | .patternWriteAbort rq, s, _ => execPatternWriteAbort_keeps rq s (.refl s)
  | .faultRead rq, s, _ => execFaultRead_keeps rq s (.refl s)
  | .faultClearClear rq during, s, _ => execFaultClearClear_keeps rq during s (.refl s)
  | .faultClearAck rq during, s, _ => execFaultClearAck_keeps rq during s (.refl s)
  | .faultInjectDry rq, s, _ => execFaultInjectDry_keeps rq s (.refl s)
  | .faultInjectLive rq, s, _ => execFaultInjectLive_keeps rq s (.refl s)
  | .injectionEnd, s, _ => execInjectionEnd_keeps s (.refl s)
  | .injectCoincident atInjection p0 p1 p2 p3, s, _ => execInjectCoincident_keeps atInjection p0 p1 p2 p3 s (.refl s)
  | .logRead rq, s, _ => execLogRead_keeps rq s (.refl s)
  | .histoRead rq, s, _ => execHistoRead_keeps rq s (.refl s)
  | .diagMapRead rq, s, _ => execDiagMapRead_keeps rq s (.refl s)
  | .pixelTestMeasure rq, s, _ => execPixelTestMeasure_keeps rq s (.refl s)
  | .pixelTestRelease rq, s, _ => execPixelTestRelease_keeps rq s (.refl s)
  | .pixelTestDisable rq, s, _ => execPixelTestDisable_keeps rq s (.refl s)
  | .twinConfig rq, s, _ => execTwinConfig_keeps rq s (.refl s)
  | .thermConfig rq, s, _ => execThermConfig_keeps rq s (.refl s)
  | .thermClear rq, s, _ => execThermClear_keeps rq s (.refl s)
  | .storeAssign rq, s, _ => execStoreAssign_keeps rq s (.refl s)
  | .storePool rq, s, _ => execStorePool_keeps rq s (.refl s)
  | .handoverComplete bank, s, _ => execHandoverComplete_keeps bank s (.refl s)
  | .fwPatchBegin rq, s, _ => execFwPatchBegin_keeps rq s (.refl s)
  | .fwPatchData rq verifyFail, s, _ => execFwPatchData_keeps rq verifyFail s (.refl s)
  | .fwPatchCommit rq, s, _ => execFwPatchCommit_keeps rq s (.refl s)
  | .fwPatchCommitDone writeFail, s, _ => execFwPatchCommitDone_keeps writeFail s (.refl s)
  | .fwPatchAbort rq, s, _ => execFwPatchAbort_keeps rq s (.refl s)
  | .ftimerCtlWrite h w, s, _ => execFtimerCtlWrite_keeps h w s (.refl s)
  | .composeLeadWrite h w, s, _ => execComposeLeadWrite_keeps h w s (.refl s)
  | .arrayCtlWrite h w, s, _ => execArrayCtlWrite_keeps h w s (.refl s)
  | .budgetWrite h w, s, _ => execBudgetWrite_keeps h w s (.refl s)
  | .hdrmDutyWrite h w, s, _ => execHdrmDutyWrite_keeps h w s (.refl s)
  | .wickDataWrite h w, s, _ => execWickDataWrite_keeps h w s (.refl s)
  | .fltLatchedWrite h w during, s, _ => execFltLatchedWrite_keeps h w during s (.refl s)
  | .fltAckedWrite h w during, s, _ => execFltAckedWrite_keeps h w during s (.refl s)
  | .selftest h w, s, _ => execSelftest_keeps h w s (.refl s)
  | .guFeed h n w, s, _ => execGuFeed_keeps h n w s (.refl s)
  | .guRestart h n w, s, _ => execGuRestart_keeps h n w s (.refl s)
  | .guCapture h n w, s, _ => execGuCapture_keeps h n w s (.refl s)
  | .read64 h, s, _ => execRead64_keeps h s (.refl s)
  | .write64 h, s, _ => execWrite64_keeps h s (.refl s)
  | .fadd32 h, s, _ => execFadd32_keeps h s (.refl s)
  | .fadd64 h, s, _ => execFadd64_keeps h s (.refl s)
  | .swap32 h, s, _ => execSwap32_keeps h s (.refl s)
  | .swap64 h, s, _ => execSwap64_keeps h s (.refl s)
  | .windowOpComplete wait ecc, s, _ => execWindowOpComplete_keeps wait ecc s (.refl s)
  | .bankUseWrite h bank w, s, _ => execBankUseWrite_keeps h bank w s (.refl s)
  | .laneTestMode h l w, s, _ => execLaneTestMode_keeps h l w s (.refl s)
  | .laneMissionMode h l w, s, _ => execLaneMissionMode_keeps h l w s (.refl s)
  | .rawCapture h l raw line, s, _ => execRawCapture_keeps h l raw line s (.refl s)
  | .txPatternWrite h twin w, s, _ => execTxPatternWrite_keeps h twin w s (.refl s)
  | .hrxEnWrite h w, s, _ => execHrxEnWrite_keeps h w s (.refl s)
  | .layerSrcWrite h w, s, _ => execLayerSrcWrite_keeps h w s (.refl s)
  | .losAssert l, s, _ => execLosAssert_keeps l s (.refl s)
  | .losDeassert l settled, s, _ => execLosDeassert_keeps l settled s (.refl s)
  | .backoffExpiry l, s, _ => execBackoffExpiry_keeps l s (.refl s)
  | .anchorReceived l set, s, _ => execAnchorReceived_keeps l set s (.refl s)
  | .climbReceived set ms, s, _ => execClimbReceived_keeps set ms s (.refl s)
  | .cdrLock l, s, _ => execCdrLock_keeps l s (.refl s)
  | .laneAligned l slip, s, _ => execLaneAligned_keeps l slip s (.refl s)
  | .alignmentLost l, s, _ => execAlignmentLost_keeps l s (.refl s)
  | .adaptComplete l eq ms, s, _ => execAdaptComplete_keeps l eq ms s (.refl s)
  | .attemptTimeout l, s, _ => execAttemptTimeout_keeps l s (.refl s)
  | .bondFormation, s, _ => execBondFormation_keeps s (.refl s)
  | .bondWaitExpiry, s, _ => execBondWaitExpiry_keeps s (.refl s)
  | .bondMarker marks, s, _ => execBondMarker_keeps marks s (.refl s)
  | .bondTimeout, s, _ => execBondTimeout_keeps s (.refl s)
  | .relockEntry l gapUs atMs, s, _ => execRelockEntry_keeps l gapUs atMs s (.refl s)
  | .relockComplete l inPlace, s, _ => execRelockComplete_keeps l inPlace s (.refl s)
  | .relockTimeout l, s, _ => execRelockTimeout_keeps l s (.refl s)
  | .frameStart path cols, s, _ => execFrameStart_keeps path cols s (.refl s)
  | .lineData path cols bufBytes waits, s, _ => execLineData_keeps path cols bufBytes waits s (.refl s)
  | .frameEnd path cols, s, _ => execFrameEnd_keeps path cols s (.refl s)
  | .backBufferReady n, s, _ => execBackBufferReady_keeps n s (.refl s)
  | .fenceTimeout n, s, _ => execFenceTimeout_keeps n s (.refl s)
  | .packetDiscard path cols bufBytes, s, _ => execPacketDiscard_keeps path cols bufBytes s (.refl s)
  | .packetForward, s, _ => execPacketForward_keeps s (.refl s)
  | .syncWordReceived word inPacket count, s, _ => execSyncWordReceived_keeps word inPacket count s (.refl s)
  | .statusSend, s, _ => execStatusSend_keeps s (.refl s)
  | .climbSend path, s, _ => execClimbSend_keeps path s (.refl s)
  | .heartbeatSend, s, _ => execHeartbeatSend_keeps s (.refl s)
  | .twinAliveToggle, s, _ => execTwinAliveToggle_keeps s (.refl s)
  | .twinAliveEdge silenceUs, s, _ => execTwinAliveEdge_keeps silenceUs s (.refl s)
  | .twinAliveInactive, s, _ => execTwinAliveInactive_keeps s (.refl s)
  | .heartbeatReceived cols silenceUs, s, _ => execHeartbeatReceived_keeps cols silenceUs s (.refl s)
  | .snuffMessageReceived cols, s, _ => execSnuffMessageReceived_keeps cols s (.refl s)
  | .recordReceived cols, s, _ => execRecordReceived_keeps cols s (.refl s)
  | .recordSend, s, _ => execRecordSend_keeps s (.refl s)
  | .recordRetransmit, s, _ => execRecordRetransmit_keeps s (.refl s)
  | .heartbeatSilence us, s, _ => execHeartbeatSilence_keeps us s (.refl s)
  | .twinPinFault, s, _ => execTwinPinFault_keeps s (.refl s)
  | .joinTimeout, s, _ => execJoinTimeout_keeps s (.refl s)
  | .storeAccessGrant bank clocks claims ecc, s, _ => execStoreAccessGrant_keeps bank clocks claims ecc s (.refl s)
  | .requestEscalation bank m claims, s, _ => execRequestEscalation_keeps bank m claims s (.refl s)
  | .scrubRead bank ecc, s, _ => execScrubRead_keeps bank ecc s (.refl s)
  | .patternReload belay, s, _ => execPatternReload_keeps belay s (.refl s)
  | .thermalSample samples, s, _ => execThermalSample_keeps samples s (.refl s)
  | .nvmWindowOpen, s, _ => execNvmWindowOpen_keeps s (.refl s)
  | .derateStep, s, _ => execDerateStep_keeps s (.refl s)
  | .scarRecordWrite, s, _ => execScarRecordWrite_keeps s (.refl s)
  | .scarCopy, s, _ => execScarCopy_keeps s (.refl s)
  | .autoRekindle, s, _ => execAutoRekindle_keeps s (.refl s)
  | .ntcConversion code, s, _ => execNtcConversion_keeps code s (.refl s)
  | .eventRaise ev, s, _ => execEventRaise_keeps ev s (.refl s)
  | .collateralWindowClose r, s, _ => execCollateralWindowClose_keeps r s (.refl s)
  | .witnessDisagree ev, s, _ => execWitnessDisagree_keeps ev s (.refl s)
  | .collectorSelf parity word persists, s, _ => execCollectorSelf_keeps parity word persists s (.refl s)
  | .linkIslandError unit word, s, _ => execLinkIslandError_keeps unit word s (.refl s)
  | .engineParity e pass, s, _ => execEngineParity_keeps e pass s (.refl s)
  | .coreUv ldo mv, s, _ => execCoreUv_keeps ldo mv s (.refl s)
  | .hvUv mv, s, _ => execHvUv_keeps mv s (.refl s)
  | .pllUnlock pll, s, _ => execPllUnlock_keeps pll s (.refl s)
  | .xtalFail khz, s, _ => execXtalFail_keeps khz s (.refl s)
  | .nvmStoreStart, s, _ => execNvmStoreStart_keeps s (.refl s)
  | .nvmStoreComplete failAt, s, _ => execNvmStoreComplete_keeps failAt s (.refl s)
  | .defectListStore, s, _ => execDefectListStore_keeps s (.refl s)
  | .wearGainRecompute, s, _ => execWearGainRecompute_keeps s (.refl s)
  | .wearMapStore, s, _ => execWearMapStore_keeps s (.refl s)
  | .lifetimeStore, s, _ => execLifetimeStore_keeps s (.refl s)
  | .lifetimeSample, s, _ => execLifetimeSample_keeps s (.refl s)
  | .operatingSecondTick, s, _ => execOperatingSecondTick_keeps s (.refl s)
  | .mainRingWrite fail, s, _ => execMainRingWrite_keeps fail s (.refl s)
  | .cairnWrite fail, s, _ => execCairnWrite_keeps fail s (.refl s)
  | .recordsDropped, s, _ => execRecordsDropped_keeps s (.refl s)
  | .sleepEntryStep, s, _ => execSleepEntryStep_keeps s (.refl s)
  | .sleepRelight, s, _ => execSleepRelight_keeps s (.refl s)
  | .sleepWindowEnd, _, h => nomatch h
  | .wakePin _, _, h => nomatch h
  | .i2cAddressMatch _, _, h => nomatch h
  | .i2cRead, s, _ => execI2cRead_keeps s (.refl s)
  | .wakeTimerExpiry, _, h => nomatch h
  | .sleepNvmTimeout, s, _ => execSleepNvmTimeout_keeps s (.refl s)
  | .scarWriteComplete, s, _ => execScarWriteComplete_keeps s (.refl s)
  | .lrefClockChange present, s, _ => execLrefClockChange_keeps present s (.refl s)
  | .twinAckSetsSent, s, _ => execTwinAckSetsSent_keeps s (.refl s)

/-- A reset, too, keeps the queue, the memories' form and the units. -/
theorem exec_holds_of_reset {i : Instr} (s : State) (h : resetRow i = true) : HoldsRes s (exec i s) := by
  unfold resetRow at h
  split at h
  · exact execPowerOn_keeps _ _ _ _ _ s (.refl s)
  · exact execResetNAssert_keeps _ _ s (.refl s)
  · rename_i rail
    exact execSupplyDip_keeps rail s (.refl s)
  · exact execTestEnAssert_keeps s (.refl s)
  · exact execSleepWindowEnd_keeps s (.refl s)
  · exact execWakePin_keeps _ s (.refl s)
  · exact execI2cAddressMatch_keeps _ s (.refl s)
  · exact execWakeTimerExpiry_keeps s (.refl s)
  · cases h

/-- Every command keeps the queue, the memories' form and the units. -/
theorem exec_holds (i : Instr) (s : State) : HoldsRes s (exec i s) := by
  cases h : resetRow i with
  | false => exact (exec_keeps i s h).holds
  | true => exact exec_holds_of_reset s h

/-- A step keeps the memories' form and the units: it runs the front command, and to take that from the queue touches neither. -/
theorem step_keeps {s t : State} (h : step s = .next t) :
    (canonical s = true → canonical t = true) ∧ (shaped s = true → shaped t = true) := by
  unfold step at h
  split at h
  · cases h
    exact ⟨id, id⟩
  · have k := exec_holds _ _ t h
    exact ⟨k.canonical, k.shaped⟩

/-- Settles O3: both invariants, step by step. -/
theorem shapesAndMemoriesStay : Obligations.ShapesAndMemoriesStay :=
  ⟨fun _ _ w h => (step_keeps h).2 w, fun _ _ w h => (step_keeps h).1 w⟩

end Sys2Proof.Machine
end

section
/-! The governor of the array's current (R70 to R73, R79), and O26. -/

namespace Sys2Proof.Machine

/-! ### The GREF of a sum and a budget (R71) -/

theorem grefOf_within {p budget f : Nat} (h : 16 * p ≤ budget * f * 1000000) : grefOf p budget f = 256 := if_pos h

/-- Above the budget GREF is the floored quotient, at least 1. -/
theorem grefOf_above {p budget f : Nat} (h : budget * f * 1000000 < 16 * p) :
    grefOf p budget f = max 1 (256 * (budget * f * 1000000) / (16 * p)) := if_neg (Nat.not_le.2 h)

/-- The floored quotient stays below 256, and leaves a current within the budget. -/
theorem grefOf_above_bounds {p budget f : Nat} (h : budget * f * 1000000 < 16 * p) :
    1 ≤ grefOf p budget f ∧ grefOf p budget f < 256 ∧
      (grefOf p budget f = 256 * (budget * f * 1000000) / (16 * p) ∨ grefOf p budget f = 1) ∧
      (1 < grefOf p budget f → grefOf p budget f * (16 * p) ≤ 256 * (budget * f * 1000000)) := by
  rw [grefOf_above h]
  generalize budget * f * 1000000 = b at h ⊢
  have below : 256 * b / (16 * p) < 256 := Nat.div_lt_of_lt_mul (by omega)
  have within : 256 * b / (16 * p) * (16 * p) ≤ 256 * b := Nat.div_mul_le_self ..
  generalize 256 * b / (16 * p) = q at below within ⊢
  refine ⟨le_max_left 1 q, by omega, by omega, fun g => ?_⟩
  rwa [max_eq_right (by omega)]

/-! ### GREF_FINAL (R71, R73) -/

theorem exec_grefFinal {s : State} (up : awake s = true) (run : s.ft.running = true) :
    exec .grefFinal s = .next { s with arr := { s.arr with
      grefNext := grefOf (predicted s) s.arr.budgetMa s.thm.f, grefP := predicted s, grefB := s.arr.budgetMa * s.thm.f / 16 } } := by
  change execGrefFinal s = _
  simp [execGrefFinal, up, run]

theorem exec_grefFinal_idle {s : State} (h : ¬(awake s = true ∧ s.ft.running = true)) : exec .grefFinal s = .next s := by
  have idle : (!awake s || !s.ft.running) = true := by simpa [imp_iff_not_or] using h
  change execGrefFinal s = _
  simp [execGrefFinal, idle]

/-- A dark frame to come has no load, and so the full reference. -/
theorem grefOf_predicted_dark {s : State} (h : darkNext s = true) (budget f : Nat) : grefOf (predicted s) budget f = 256 :=
  grefOf_within (by simp [predicted, h])

theorem predicted_lit {s : State} (h : darkNext s = false) (m : s.pwr.mode ≠ .kindle) :
    predicted s = maxSum (if s.scl.comp.ok then s.arr.sumShadow else s.arr.sumActive) := by
  simp [predicted, h, m, apply_ite maxSum]

/-! ### What shows the governor's work (R73, R79) -/

theorem regRead_govStat (s : State) : regRead 0x5001C s = readArr 0x1C s % 2 ^ 32 := rfl

/-- DRV_GOV_STAT: LIMITED in bit 0, the count of limited frames from bit 8. -/
theorem readArr_govStat (s : State) : readArr 0x1C s = flag (decide (s.arr.gref < 256)) 0 + fw s.arr.limitFrames 8 24 := rfl

theorem regRead_govStat_limited (s : State) : (regRead 0x5001C s).testBit 0 = true ↔ s.arr.gref < 256 := by
  rw [regRead_govStat, readArr_govStat, Nat.testBit_zero, decide_eq_true_eq]
  unfold flag fw
  split <;> simp_all <;> omega

theorem latchLimited_falls {t s : State} (g : t.arr.gref < 256) (h : 256 ≤ s.arr.gref) :
    latchLimited t s = note (ev 0x0601 ((s.arr.grefP + 999999) / 1000000) s.arr.grefB t.arr.gref t.ft.frameCount) s := by
  have up : cdiv s.arr.grefP 1000000 = (s.arr.grefP + 999999) / 1000000 := by
    unfold cdiv
    omega
  simp [latchLimited, g, h, up]

theorem latchLimited_else {t s : State} (h : 256 ≤ t.arr.gref ∨ s.arr.gref < 256) : latchLimited t s = s := by
  have idle : ¬(t.arr.gref < 256 ∧ 256 ≤ s.arr.gref) := by omega
  simp [latchLimited, idle]

/-- Settles O26. -/
theorem governorKeepsBudget : Obligations.GovernorKeepsBudget := by
  refine ⟨fun s up run => ⟨exec_grefFinal up run, fun d => grefOf_predicted_dark d _ _, predicted_lit⟩, fun _ => exec_grefFinal_idle,
    regRead_govStat_limited, fun _ _ => ⟨latchLimited_falls, latchLimited_else⟩, fun _ _ _ => grefOf_within, fun _ _ _ => grefOf_above_bounds⟩

/-! ### DRV_BUDGET (R72), and O27 -/

theorem writeBudget_eq (v : Nat) (s : State) : writeBudget v s =
    if decide (v % 65536 < 1000) || decide (20000 < v % 65536) then refused stBadParam s
    else Machine.taken { s with arr := { s.arr with budgetMa := v % 65536 } } := by
  have field : bits v 0 16 = v % 65536 := by simp [bits]
  unfold writeBudget
  dsimp only
  rw [field]

theorem writeBudget_inRange {v : Nat} {s : State} (h : 1000 ≤ v % 65536 ∧ v % 65536 ≤ 20000) :
    writeBudget v s = Machine.taken { s with arr := { s.arr with budgetMa := v % 65536 } } := by
  have inside : (decide (v % 65536 < 1000) || decide (20000 < v % 65536)) = false := by simpa using h
  rw [writeBudget_eq, inside]
  rfl

theorem writeBudget_outOfRange {v : Nat} {s : State} (h : v % 65536 < 1000 ∨ 20000 < v % 65536) :
    writeBudget v s = refused stBadParam s := by
  have outside : (decide (v % 65536 < 1000) || decide (20000 < v % 65536)) = true := by simpa using h
  rw [writeBudget_eq, outside]
  rfl

/-- Settles O27. -/
theorem budgetRange : Obligations.BudgetRange := by
  refine ⟨fun h w s adm => ⟨fun n => ?_, fun n => ?_⟩, fun s up run => ⟨_, exec_grefFinal up run, rfl⟩⟩
  · exact writeDrv_taken (o := 0x00C) adm (by decide) rfl (writeBudget_inRange n)
  · exact writeDrv_refused (o := 0x00C) adm (by decide) rfl (by decide) (writeBudget_outOfRange n)

end Sys2Proof.Machine
end

section
/-! The automatic headroom loop (R74 to R76), and O29. -/

namespace Sys2Proof.Machine

/-- The loop steps D at this latch: a lit mode, an array that is not dark, AUTO on, and a frame in which some pixel was lit (R75). -/
def loopRuns (s : State) : Prop := litMode s.pwr.mode = true ∧ s.pwr.dark = false ∧ s.arr.auto = true ∧ s.arr.acc.lit ≠ []

theorem latchHeadroom_idle {s : State} (h : ¬loopRuns s) : latchHeadroom s = s := by
  have idle : (!litMode s.pwr.mode || s.pwr.dark || !s.arr.auto || s.arr.acc.lit.isEmpty) = true := by
    by_contra c
    simp only [Bool.or_eq_true, Bool.not_eq_true', List.isEmpty_iff, not_or, Bool.not_eq_false, Bool.not_eq_true] at c
    obtain ⟨⟨⟨lit, light⟩, auto⟩, shown⟩ := c
    exact h ⟨lit, light, auto, shown⟩
  unfold latchHeadroom
  dsimp only
  rw [if_pos idle]

section
variable {s : State} (h : loopRuns s)
include h

/-- Where the loop runs, D follows the count of low pixels. -/
theorem latchHeadroom_runs : latchHeadroom s =
    if s.arr.lowLimit < s.arr.lowCount then
      { s with arr := { s.arr with duty := max 63 (min (s.arr.duty + max s.arr.upStep 1) 1187), lowFrames := 0 } }
    else if s.arr.lowCount = 0 then
      if 3 ≤ s.arr.lowFrames then { s with arr := { s.arr with duty := max (s.arr.duty - 1) 63, lowFrames := 0 } }
      else { s with arr := { s.arr with lowFrames := s.arr.lowFrames + 1 } }
    else s := by
  obtain ⟨lit, light, auto, shown⟩ := h
  simp [latchHeadroom, lit, light, auto, shown]

theorem latchHeadroom_rises (c : s.arr.lowLimit < s.arr.lowCount) :
    latchHeadroom s = { s with arr := { s.arr with duty := max 63 (min (s.arr.duty + max s.arr.upStep 1) 1187), lowFrames := 0 } } := by
  rw [latchHeadroom_runs h, if_pos c]

theorem latchHeadroom_falls (c : s.arr.lowCount = 0) (r : 3 ≤ s.arr.lowFrames) :
    latchHeadroom s = { s with arr := { s.arr with duty := max (s.arr.duty - 1) 63, lowFrames := 0 } } := by
  rw [latchHeadroom_runs h, if_neg (by omega), if_pos c, if_pos r]

theorem latchHeadroom_counts (c : s.arr.lowCount = 0) (r : s.arr.lowFrames < 3) :
    latchHeadroom s = { s with arr := { s.arr with lowFrames := s.arr.lowFrames + 1 } } := by
  rw [latchHeadroom_runs h, if_neg (by omega), if_pos c, if_neg (by omega)]

theorem latchHeadroom_holds (c : 0 < s.arr.lowCount) (l : s.arr.lowCount ≤ s.arr.lowLimit) : latchHeadroom s = s := by
  rw [latchHeadroom_runs h, if_neg (by omega), if_neg (by omega)]

/-- Nothing but D and the run changes. -/
theorem latchHeadroom_only : latchHeadroom s =
    { s with arr := { s.arr with duty := (latchHeadroom s).arr.duty, lowFrames := (latchHeadroom s).arr.lowFrames } } := by
  rcases Nat.lt_or_ge s.arr.lowLimit s.arr.lowCount with c | c
  · rw [latchHeadroom_rises h c]
  · rcases Nat.eq_zero_or_pos s.arr.lowCount with z | z
    · rcases Nat.lt_or_ge s.arr.lowFrames 3 with r | r
      · rw [latchHeadroom_counts h z r]
      · rw [latchHeadroom_falls h z r]
    · rw [latchHeadroom_holds h z c]

end

/-- Settles O29: one lemma for each branch of the loop. -/
theorem headroomLoop : Obligations.HeadroomLoop := by
  refine ⟨fun s lit light auto shown => ?_, fun s h => latchHeadroom_idle ?_⟩
  · have h : loopRuns s := ⟨lit, light, auto, shown⟩
    refine ⟨latchHeadroom_only h, fun c => ?_, fun c r => ?_, fun c r => ?_, latchHeadroom_holds h⟩
    · rw [latchHeadroom_rises h c]
      exact ⟨rfl, rfl⟩
    · rw [latchHeadroom_falls h c r]
      exact ⟨rfl, rfl⟩
    · rw [latchHeadroom_counts h c r]
      exact ⟨rfl, rfl⟩
  · rintro ⟨lit, light, auto, shown⟩
    simp [lit, light, auto, shown] at h

end Sys2Proof.Machine
end

section
/-! The entry into SNUFFED that an event of level SNUFF brings (R50, R51, R69, R271, R329), and O18. -/

namespace Sys2Proof.Machine

/-! ### Recording keeps the collector's classes -/

theorem record_classes (e : RawEvent) (fl : Nat) (s : State) : (record e fl s).flt.classes = s.flt.classes := by
  unfold record
  split
  · rfl
  · rw [share_flt, enqueue_flt]
    split <;> rfl

theorem raiseCollateral_classes_length (e : RawEvent) (s : State) : (raiseCollateral e s).flt.classes.length = s.flt.classes.length := by
  have k := (modClass_classes_length (evClass e.code) (fun k => { k with collateral := satInc 16 k.collateral }) (record e flagCollateral s)).trans
    (congrArg List.length (record_classes ..))
  unfold raiseCollateral
  dsimp only
  split <;> exact k

theorem noteF_classes_length (c p q r : Nat) (s : State) : (noteF c p q r s).flt.classes.length = s.flt.classes.length := by
  unfold noteF note
  split
  · rfl
  · split
    · exact raiseCollateral_classes_length ..
    · exact congrArg List.length (record_classes ..)

/-! ### What the ends of requests leave alone -/

/-- The array, the count of entries into SNUFFED, and how many classes the collector holds. -/
def entryView (s : State) := (s.arr, s.pwr.snuffEntries, s.flt.classes.length)

theorem entryView_of_eq {s t : State} (a : t.arr = s.arr) (p : t.pwr = s.pwr) (n : t.flt.classes.length = s.flt.classes.length) :
    entryView t = entryView s := by
  unfold entryView
  rw [a, p, n]

@[simp] theorem entryView_complete (h op : Nat) (x : Src) (st a b : Nat) (s : State) : entryView (complete h op x st a b s) = entryView s :=
  entryView_of_eq (by simp) (by simp) (by simp)

@[simp] theorem entryView_completeOpen (h op : Nat) (x : Src) (st : Nat) (s : State) : entryView (completeOpen h op x st s) = entryView s :=
  entryView_of_eq (by simp) (by simp) (by simp)

@[simp] theorem entryView_completePower (r : PowerReq) (st a b : Nat) (s : State) : entryView (completePower r st a b s) = entryView s :=
  entryView_complete ..

@[simp] theorem entryView_completeSuperseded (r : PowerReq) (s : State) : entryView (completeSuperseded r s) = entryView s :=
  (entryView_completeOpen ..).trans rfl

@[simp] theorem entryView_beginSleep (r : PowerReq) (s : State) : entryView (beginSleep r s) = entryView s := by
  unfold beginSleep
  dsimp only
  split
  · exact (entryView_completeSuperseded ..).trans rfl
  · split
    · split
      · exact (entryView_completePower ..).trans rfl
      · split
        · exact (entryView_completePower ..).trans rfl
        · rfl
    · exact (entryView_of_eq (noteF_arr ..) (noteF_pwr ..) (noteF_classes_length ..)).trans rfl

@[simp] theorem entryView_beginPower (r : PowerReq) (s : State) : entryView (beginPower r s) = entryView s := by
  unfold beginPower
  split
  · exact entryView_beginSleep r s
  · split
    · exact entryView_completePower ..
    · rfl

@[simp] theorem entryView_nextPower (s : State) : entryView (nextPower s) = entryView s := by
  unfold nextPower
  dsimp only
  split
  · rfl
  · exact (entryView_beginPower ..).trans rfl

@[simp] theorem entryView_finishPower (st a b : Nat) (s : State) : entryView (finishPower st a b s) = entryView s := by
  unfold finishPower
  split
  · rfl
  · simp

@[simp] theorem entryView_supersedePower (s : State) : entryView (supersedePower s) = entryView s := by
  unfold supersedePower
  split
  · rfl
  · simp

@[simp] theorem entryView_settleLevel (s : State) : entryView (settleLevel s) = entryView s := by
  unfold settleLevel
  split
  · split <;> simp
  · rfl

@[simp] theorem entryView_endBlanking (s : State) : entryView (endBlanking s) = entryView s := by
  unfold endBlanking
  split
  · exact (entryView_settleLevel _).trans rfl
  · rfl

@[simp] theorem entryView_abandonPower (s : State) : entryView (abandonPower s) = entryView s := by
  unfold abandonPower
  split
  · dsimp only
    split
    · rfl
    · exact (entryView_supersedePower _).trans rfl
  · split
    · exact (entryView_supersedePower _).trans rfl
    · rfl

theorem entryView_endPending (st : Nat) (s : State) : entryView (endPending st s) = entryView s := by
  unfold endPending
  split
  · exact (entryView_completeOpen ..).trans rfl
  · rfl

/-- Of the array an aborted calibration touches the staged values only (R370). -/
theorem abortCal_view (s : State) : ∃ c, entryView (abortCal s) = ({ s.arr with staged := c }, s.pwr.snuffEntries, s.flt.classes.length) := by
  unfold abortCal
  split
  · split
    · dsimp only
      rw [entryView, complete_arr, complete_pwr, complete_flt]
      exact ⟨_, rfl⟩
    · exact ⟨_, rfl⟩
  · exact ⟨_, rfl⟩

/-- The end of a KINDLE touches neither the array nor the collector (R312, R317, R363). -/
theorem afterKindle_view (s : State) : (afterKindle s).arr = s.arr ∧ (afterKindle s).flt = s.flt := by
  have judged (u : State) :
      (if windowRange u = true then openNvm u else { u with thm := { u.thm with nvmOpen := false } }).arr = u.arr ∧
        (if windowRange u = true then openNvm u else { u with thm := { u.thm with nvmOpen := false } }).flt = u.flt := by
    split <;> exact ⟨rfl, rfl⟩
  have stored (u : State) :
      (if (u.nvm.calResult = 1 || u.nvm.calResult = 3) && !u.nvm.calQuick then requestStore 2 [] u else u).arr = u.arr ∧
        (if (u.nvm.calResult = 1 || u.nvm.calResult = 3) && !u.nvm.calQuick then requestStore 2 [] u else u).flt = u.flt := by
    split
    · exact ⟨queueStore_arr .., queueStore_flt ..⟩
    · exact ⟨rfl, rfl⟩
  exact ⟨(stored _).1.trans (judged _).1, (stored _).2.trans (judged _).2⟩

/-- The entry into SNUFFED is counted; the array stays. -/
theorem enterMode_view (c : Nat) (s : State) :
    entryView (enterMode .snuffed c s) = (s.arr, satInc 16 s.pwr.snuffEntries, s.flt.classes.length) := by
  have k : ∀ u : State, u.arr = s.arr → u.flt = s.flt → (noteF 0x0E01 (modeCode .snuffed) (modeCode s.pwr.mode) c u).arr = s.arr ∧
      (noteF 0x0E01 (modeCode .snuffed) (modeCode s.pwr.mode) c u).flt.classes.length = s.flt.classes.length := fun u a f =>
    ⟨(noteF_arr ..).trans a, (noteF_classes_length ..).trans (by rw [f])⟩
  have entered := afterKindle_view s
  unfold enterMode
  dsimp only [entryView]
  split
  · obtain ⟨arr, classes⟩ := k _ entered.1 entered.2
    rw [arr, classes]
    rfl
  · obtain ⟨arr, classes⟩ := k s rfl rfl
    rw [arr, classes]
    rfl

theorem sendTwin_aliveOut (m : Nat) (b : List Byte) (s : State) : (sendTwin m b s).twn.aliveOut = s.twn.aliveOut := by
  unfold sendTwin
  split
  · rfl
  · dsimp only
    rw [sendPacket_twn]

/-! ### The entry (R329) -/

/-- In SNUFFED already, only the sinks go off. -/
theorem snuff_again {cause code : Nat} {s : State} (m : s.pwr.mode = .snuffed) : snuff cause code s = sinksOff s := by
  have same : (sinksOff s).pwr.mode = .snuffed := m
  simp [snuff, same]

/-- What has ended when the mode is entered: the SET_MODE that waits and a CALIBRATE FULL. -/
def requestsEnded (s : State) : State := abortCal (endPending stSuperseded (sinksOff s))

theorem requestsEnded_mode (s : State) : (requestsEnded s).pwr.mode = s.pwr.mode := by
  have pend : (endPending stSuperseded (sinksOff s)).pwr.mode = s.pwr.mode := by
    cases h : s.pwr.pend with
    | none => simp [endPending, sinksOff, h]
    | some p => rw [(endPending_spec (s := sinksOff s) h).1]; rfl
  exact (congrArg (fun v => v.1) (modeView_abortCal _)).trans pend

theorem requestsEnded_view (s : State) :
    ∃ c, entryView (requestsEnded s) = ({ (sinksOff s).arr with staged := c }, s.pwr.snuffEntries, s.flt.classes.length) := by
  obtain ⟨c, cal⟩ := abortCal_view (endPending stSuperseded (sinksOff s))
  have pend := entryView_endPending stSuperseded (sinksOff s)
  simp only [entryView, Prod.mk.injEq] at pend
  obtain ⟨arr, count, classes⟩ := pend
  rw [arr, count, classes] at cal
  exact ⟨c, cal⟩

/-- The state in which the mode, its cause and the ends of the power-state requests stand. -/
def snuffedMode (cause : Nat) (s : State) : State := abandonPower (endBlanking (enterMode .snuffed cause (requestsEnded s)))

theorem snuffedMode_spec (cause : Nat) (s : State) :
    let t := snuffedMode cause s
    t.arr.sinkEn = false ∧ t.arr.active = s.arr.active ∧ t.flt.classes.length = s.flt.classes.length ∧ t.pwr.mode = .snuffed ∧
      t.pwr.prevMode = modeCode s.pwr.mode ∧ t.pwr.snuffEntries = satInc 16 s.pwr.snuffEntries := by
  have mode : modeView (snuffedMode cause s) = _ := (modeView_abandonPower _).trans ((modeView_endBlanking _).trans (modeView_enterMode ..))
  have entry : entryView (snuffedMode cause s) = _ :=
    (entryView_abandonPower _).trans ((entryView_endBlanking _).trans (enterMode_view ..))
  obtain ⟨c, was⟩ := requestsEnded_view s
  simp only [modeView, entryView, Prod.mk.injEq, requestsEnded_mode] at mode entry was
  obtain ⟨now, prev, -⟩ := mode
  obtain ⟨arr, count, classes⟩ := entry
  obtain ⟨arr', count', classes'⟩ := was
  rw [arr'] at arr
  rw [count'] at count
  exact ⟨congrArg Arr.sinkEn arr, (congrArg Arr.active arr).trans rfl, classes.trans classes', now, prev, count⟩

/-- From a mode other than SNUFFED the device enters SNUFFED, and the twin is told (R271, R329). -/
theorem snuff_enters {cause code : Nat} {s : State} (m : s.pwr.mode ≠ .snuffed) (d : s.pwr.mode ≠ .dormant) :
    ∃ b, snuff cause code s = sendTwin 2 b { snuffedMode cause s with
      pwr := { (snuffedMode cause s).pwr with dark := false, litDue := false, readyPin := false }
      flt := { (snuffedMode cause s).flt with snuffCode := code }, twn := { (snuffedMode cause s).twn with aliveOut := false } } := by
  have other : ((sinksOff s).pwr.mode = .snuffed || (sinksOff s).pwr.mode = .dormant) = false := by simp [sinksOff, m, d]
  unfold snuff
  dsimp only
  rw [other]
  exact ⟨_, rfl⟩

/-- What an entry into SNUFFED leaves: sinks off, SNUFFED, READY low, the drive words as they are; where the mode was another one, the entry
is recorded. -/
def SnuffedFrom (s t : State) (code : Nat) : Prop :=
  t.arr.sinkEn = false ∧ t.pwr.mode = .snuffed ∧ t.pwr.readyPin = false ∧ t.arr.active = s.arr.active ∧
    (s.pwr.mode ≠ .snuffed → t.pwr.prevMode = modeCode s.pwr.mode ∧ t.pwr.snuffEntries = min (s.pwr.snuffEntries + 1) 65535 ∧
      t.flt.snuffCode = code ∧ t.twn.aliveOut = false)

theorem snuff_snuffedFrom (cause code : Nat) {s : State} (d : s.pwr.mode ≠ .dormant) (ready : s.pwr.readyPin = false ∨ s.pwr.mode ≠ .snuffed) :
    SnuffedFrom s (snuff cause code s) code ∧ (snuff cause code s).flt.classes.length = s.flt.classes.length := by
  by_cases m : s.pwr.mode = .snuffed
  · rw [snuff_again m]
    exact ⟨⟨rfl, m, ready.resolve_right (not_not.2 m), rfl, fun n => absurd m n⟩, rfl⟩
  · obtain ⟨sinks, active, classes, mode, prev, count⟩ := snuffedMode_spec cause s
    obtain ⟨b, e⟩ := snuff_enters (cause := cause) (code := code) m d
    rw [e, SnuffedFrom, sendTwin_arr, sendTwin_pwr, sendTwin_flt, sendTwin_aliveOut]
    exact ⟨⟨sinks, mode, rfl, active, fun _ => ⟨prev, count, rfl, rfl⟩⟩, classes⟩

/-! ### What the other reactions leave alone (R228, R229, R332) -/

/-- What the entry into SNUFFED has set, with the hold of one class. -/
def heldView (c : Nat) (s : State) := (s.pwr, s.arr, (classOf s.flt c).hold, s.flt.snuffCode, s.twn.aliveOut)

theorem heldView_of_eq {c : Nat} {s t : State} (p : t.pwr = s.pwr) (a : t.arr = s.arr) (f : t.flt = s.flt)
    (w : t.twn.aliveOut = s.twn.aliveOut) : heldView c t = heldView c s := by
  unfold heldView
  rw [p, a, f, w]

theorem share_aliveOut (r : Rec) (s : State) : (share r s).twn.aliveOut = s.twn.aliveOut := by
  unfold share
  extract_lets
  repeat' split
  all_goals rfl

theorem record_heldView (c : Nat) (e : RawEvent) (fl : Nat) (s : State) : heldView c (record e fl s) = heldView c s := by
  unfold record
  split
  · rfl
  · refine (heldView_of_eq (share_pwr ..) (share_arr ..) (share_flt ..) (share_aliveOut ..)).trans
      ((heldView_of_eq (enqueue_pwr ..) (enqueue_arr ..) (enqueue_flt ..) (congrArg Twn.aliveOut (enqueue_twn ..))).trans ?_)
    split <;> rfl

/-- A class's counters and flags change, its hold does not. -/
theorem modClass_heldView (c n : Nat) {f : ClassState → ClassState} (h : ∀ k, (f k).hold = k.hold) (s : State) :
    heldView c (modClass n f s) = heldView c s := by
  unfold heldView
  have hold : (classOf (modClass n f s).flt c).hold = (classOf s.flt c).hold := by
    unfold classOf modClass
    rw [modNth_getD]
    split
    · rename_i j
      rw [h, j.1]
    · rfl
  rw [hold]
  rfl

theorem raiseCollateral_heldView (c : Nat) (e : RawEvent) (s : State) : heldView c (raiseCollateral e s) = heldView c s := by
  have k := (modClass_heldView c (evClass e.code) (f := fun k => { k with collateral := satInc 16 k.collateral }) (fun _ => rfl)
    (record e flagCollateral s)).trans (record_heldView ..)
  unfold raiseCollateral
  dsimp only
  split
  · exact k
  · exact k

theorem noteF_heldView (c a p q r : Nat) (s : State) : heldView c (noteF a p q r s) = heldView c s := by
  unfold noteF note
  split
  · rfl
  · split
    · exact raiseCollateral_heldView ..
    · exact record_heldView ..

theorem modPath_heldView (c : Nat) (p : Path) (f : RPath → RPath) (s : State) : heldView c (modPath p f s) = heldView c s := by
  cases p <;> rfl

theorem breakFrame_heldView (c n cause : Nat) (p : Path) (s : State) : heldView c (breakFrame n cause p s) = heldView c s := by
  unfold breakFrame
  refine (noteF_heldView ..).trans ?_
  have k := fun f : RPath → RPath => modPath_heldView c p f
  split
  · exact (heldView_of_eq (statusDue_pwr ..) (statusDue_arr ..) (statusDue_flt ..) (congrArg Twn.aliveOut (statusDue_twn ..))).trans ((k _ _).trans rfl)
  · exact (k _ _).trans rfl

theorem breakAll_heldView (c : Nat) (p : Path) (s : State) : heldView c (breakAll p s) = heldView c s := by
  refine foldl_view (v := heldView c) _ (fun x n => ?_) s
  split
  · exact breakFrame_heldView ..
  · rfl

theorem interrupt_heldView (c : Nat) (p : Path) (s : State) : heldView c (interrupt p s) = heldView c s :=
  (modPath_heldView ..).trans (breakAll_heldView ..)

/-- Beside the entry into SNUFFED no reaction touches what that entry has set. -/
theorem startReactions_heldView (c : Nat) {e : RawEvent} (l : 4 ≤ e.level) (s : State) :
    heldView c (startReactions e s) =
      heldView c (modClass (evClass e.code) (fun k => { k with hold := true }) (snuff (snuffCause e.code) e.code s)) := by
  unfold startReactions
  dsimp only
  rw [if_pos l]
  generalize modClass (evClass e.code) (fun k => { k with hold := true }) (snuff (snuffCause e.code) e.code s) = w
  split
  · exact (interrupt_heldView ..).trans ((interrupt_heldView ..).trans rfl)
  · split
    · rfl
    · split <;> rfl

/-! ### Raising (R328) -/

/-- What an event finds before its reactions start. -/
def foundView (s : State) := (s.arr, s.pwr.mode, s.pwr.readyPin, s.pwr.snuffEntries, s.flt.classes.length)

theorem countEscalation_foundView (f : Flt) (e : RawEvent) (s : State) : foundView (countEscalation f e s) = foundView s := by
  unfold countEscalation
  split
  · simp [foundView]
  · rfl

theorem stopBoot_foundView (s : State) : foundView (stopBoot s) = foundView s := by
  unfold stopBoot
  split <;> rfl

theorem realEffects_foundView (e : RawEvent) (r : Rec) (s : State) : foundView (realEffects e r s) = foundView s := by
  unfold realEffects
  split
  · rfl
  · split
    · exact (stopBoot_foundView _).trans rfl
    · split
      · exact stopBoot_foundView s
      · rfl

theorem record_foundView (e : RawEvent) (fl : Nat) (s : State) : foundView (record e fl s) = foundView s := by
  unfold foundView
  rw [record_arr, record_pwr, record_classes]

/-- An event of level SNUFF acts at that level, escalated or not (R334). -/
theorem actual_level_ge (f : Flt) {e : RawEvent} (l : 4 ≤ e.level) : 4 ≤ (actual f e).level := by
  unfold actual
  split
  · exact le_min (by omega) le_rfl
  · exact l

/-- An event of level SNUFF in a device that is awake starts its reactions in a state that differs from the one it found in records and
latches only. -/
theorem raise_snuffLevel {e : RawEvent} {s : State} (l : 4 ≤ e.level) (up : awake s = true) :
    ∃ a u, raise e s = startReactions a u ∧ a.code = e.code ∧ 4 ≤ a.level ∧ foundView u = foundView s := by
  have real : isCollateral e s = false := by simp [isCollateral, Nat.not_lt.2 l]
  have la := actual_level_ge s.flt l
  have one : 1 ≤ (actual s.flt e).level := by omega
  unfold raise raiseAs raiseWith raiseOver
  dsimp only
  rw [up, real]
  simp only [Bool.not_true, Bool.false_eq_true, if_false, one, decide_true, Bool.and_true, if_true]
  refine ⟨_, _, rfl, actual_code .., la, ?_⟩
  have latched (r : Rec) (k : ClassState → ClassState) (w : State) :
      foundView { modClass (evClass (actual s.flt e).code) k (histPush r w) with
        flt := { (modClass (evClass (actual s.flt e).code) k (histPush r w)).flt with
          first := (modClass (evClass (actual s.flt e).code) k (histPush r w)).flt.first.or (some r) } } = foundView w := by
    simp only [foundView, modClass_arr, modClass_pwr, modClass_classes_length, histPush_arr, histPush_pwr]
    rfl
  exact (latched ..).trans ((record_foundView ..).trans ((realEffects_foundView ..).trans (countEscalation_foundView ..)))

/-- An event of level SNUFF in a device that is awake: SNUFFED is entered, and the event's class is held (R329). -/
theorem raise_snuffs {e : RawEvent} {s : State} (l : 4 ≤ e.level) (c : evClass e.code < s.flt.classes.length) (up : awake s = true)
    (ready : s.pwr.readyPin = false ∨ s.pwr.mode ≠ .snuffed) :
    SnuffedFrom s (raise e s) e.code ∧ (classOf (raise e s).flt (evClass e.code)).hold = true := by
  obtain ⟨a, u, acts, code, level, found⟩ := raise_snuffLevel l up
  simp only [foundView, Prod.mk.injEq] at found
  obtain ⟨arr, mode, pin, count, classes⟩ := found
  have d : s.pwr.mode ≠ .dormant := by simp [awake] at up; exact up.2
  obtain ⟨entered, classes'⟩ := snuff_snuffedFrom (snuffCause a.code) a.code (s := u) (by rwa [mode]) (by rwa [pin, mode])
  have kept := startReactions_heldView (evClass e.code) level u
  rw [← acts, code] at kept
  rw [code] at entered classes'
  generalize raise e s = t at kept ⊢
  generalize snuff (snuffCause e.code) e.code u = w at kept entered classes'
  have held : (classOf (modClass (evClass e.code) (fun k => { k with hold := true }) w).flt (evClass e.code)).hold = true := by
    unfold classOf modClass
    rw [modNth_getD, if_pos ⟨rfl, by omega⟩]
  simp only [heldView, Prod.mk.injEq, modClass_pwr, modClass_arr, modClass_twn, held] at kept
  obtain ⟨kp, ka, kh, kc, kt⟩ := kept
  simp only [SnuffedFrom, arr, mode, count] at entered
  refine ⟨?_, kh⟩
  rw [SnuffedFrom, ka, kp, kc, kt]
  exact entered

theorem raise_asleep {e : RawEvent} {s : State} (h : awake s = false) :
    raise e s = if pastReturn s = true ∧ 4 ≤ e.level then sinksOff s else s := by
  unfold raise raiseAs raiseWith raiseOver lateSinks
  simp [h]

/-- Settles O18. -/
theorem snuffTurnsLampOff : Obligations.SnuffTurnsLampOff := by
  refine ⟨fun e s l c up ready => ?_, fun e s => raise_asleep⟩
  obtain ⟨⟨sinks, mode, pin, active, entry⟩, hold⟩ := raise_snuffs l c up ready
  exact ⟨sinks, mode, pin, hold, active, entry⟩

end Sys2Proof.Machine
end

section
/-! The slots of a frame (R59, R65, R75, R100, R103, R120): what the slot that ends leaves in the counts, and where the frame goes on. -/

namespace Sys2Proof.Machine

/-- Steps over the members of a list that each leave a part of a state alone leave it alone together. -/
theorem foldl_view_mem {σ α β : Type} {v : σ → β} {g : σ → α → σ} (l : List α) (h : ∀ x, ∀ a ∈ l, v (g x a) = v x) (s : σ) :
    v (l.foldl g s) = v s := by
  induction l generalizing s with
  | nil => rfl
  | cons a l ih => exact (ih (fun x b m => h x b (List.mem_cons_of_mem a m)) _).trans (h s a List.mem_cons_self)

/-! ### The pulses of the slot that ends (R103) -/

theorem judgePixel_skips {s : State} {q : SlotPos} (f : List PixFlags) {k : PixAcc}
    (h : pulseJudged s.arr.staggerEn k.pix k.word (slotPulse s q k) = false) : judgePixel s q f k = k := by
  simp [judgePixel, h]

section
variable {s : State} {q : SlotPos} {f : List PixFlags} {k : PixAcc}
  (h : pulseJudged s.arr.staggerEn k.pix k.word (slotPulse s q k) = true)
include h

/-- A judged pulse counts with the flags that its pixel set. -/
theorem judgePixel_counts {g : PixFlags} (e : f.find? (fun f => f.pix = k.pix) = some g) :
    judgePixel s q f k =
      { k with judged := k.judged + 1, opens := k.opens + (if g.noi then 1 else 0), shorts := k.shorts + (if g.hvd then 1 else 0) } := by
  have flags : flagsOf f k.pix = g := by rw [flagsOf, e, Option.getD_some]
  have count (b : Bool) (n : Nat) : (if b then n + 1 else n) = n + (if b then 1 else 0) := by cases b <;> rfl
  unfold judgePixel
  rw [h, flags, ← count, ← count]
  rfl

/-- A pixel without flags is sound: its judged pulse counts as such. -/
theorem judgePixel_sound (e : f.find? (fun f => f.pix = k.pix) = none) : judgePixel s q f k = { k with judged := k.judged + 1 } := by
  have flags : flagsOf f k.pix = { pix := k.pix, noi := false, hvd := false, hdl := false } := by rw [flagsOf, e, Option.getD_none]
  unfold judgePixel
  rw [h, flags]
  rfl

end

/-! ### The slot that ends (R59, R75) -/

section
variable {s : State} {q : SlotPos} (h : s.arr.slot = some q) (f : List PixFlags)
include h

theorem collectSlot_lit : (collectSlot f s).arr.acc.lit = s.arr.acc.lit.map (judgePixel s q f) := by
  unfold collectSlot
  rw [h]

theorem collectSlot_active : (collectSlot f s).arr.active = s.arr.active := by
  unfold collectSlot
  rw [h]

theorem collectSlot_sinkEn : (collectSlot f s).arr.sinkEn = s.arr.sinkEn := by
  unfold collectSlot
  rw [h]

theorem collectSlot_test : (collectSlot f s).diag.test = s.diag.test := by
  unfold collectSlot
  rw [h]

/-- A pixel joins the low ones by HDL in a pulse of at least 32 clocks. -/
theorem mem_collectSlot_low (i : Nat) : i ∈ (collectSlot f s).arr.acc.low ↔
    i ∈ s.arr.acc.low ∨ ∃ k ∈ f, k.pix = i ∧ k.hdl = true ∧ 32 ≤ pulseOf s q s.arr.acc.lit i := by
  have low : (collectSlot f s).arr.acc.low =
      (((f.filter (fun k => pulseOf s q s.arr.acc.lit k.pix ≠ 0)).filter
        (fun k => k.hdl && decide (32 ≤ pulseOf s q s.arr.acc.lit k.pix))).map (·.pix)).foldl (fun l i => insertNat i l) s.arr.acc.low := by
    unfold collectSlot
    rw [h]
  rw [low, mem_insertNats, List.mem_map]
  refine or_congr_right ⟨?_, ?_⟩
  · rintro ⟨k, m, rfl⟩
    simp only [List.mem_filter, Bool.and_eq_true, decide_eq_true_eq] at m
    obtain ⟨⟨listed, -⟩, hdl, wide⟩ := m
    exact ⟨k, listed, rfl, hdl, wide⟩
  · rintro ⟨k, listed, rfl, hdl, wide⟩
    have lit : pulseOf s q s.arr.acc.lit k.pix ≠ 0 := by omega
    exact ⟨k, by simp [List.mem_filter, listed, hdl, wide, lit], rfl⟩

end

/-! ### A PIXEL_TEST in its slot (R120) -/

@[simp] theorem takeTest_arr (q : SlotPos) (x : Option PixScan) (s : State) : (takeTest q x s).arr = s.arr := by
  unfold takeTest
  split
  · split <;> rfl
  · rfl

theorem takeTest_takes {q : SlotPos} {y : PixTest} {r : PixScan} {s : State} (t : s.diag.test = some y) (run : y.testing = true)
    (c : q.cycle = 0) (p : phaseOf y.pix = q.phase) (n : y.result = none) (on : s.arr.sinkEn = true) :
    (takeTest q (some r) s).diag.test = some { y with result := some r } := by
  unfold takeTest
  rw [t]
  simp [run, c, p, n, on]

/-! ### SLOT_START (R59) -/

theorem exec_slotStart {f : List PixFlags} (x : Option PixScan) {s : State} {q n : SlotPos} (ok : flagsOk f = true) (up : awake s = true)
    (run : s.ft.running = true) (h : s.arr.slot = some q) (next : nextSlot (repeatOf s.ft.rateInForce) q = some n) :
    exec (.slotStart f x) s = .next { takeTest q x (collectSlot f s) with
      arr := { (takeTest q x (collectSlot f s)).arr with slot := some n } } := by
  change execSlotStart f x s = _
  simp only [execSlotStart, guarded, ok, up, run, h, next]
  rfl

/-- A slot start judges the slot that ends and begins the next one. -/
theorem slotStart_spec {f : List PixFlags} (x : Option PixScan) {s : State} {q n : SlotPos} (ok : flagsOk f = true) (up : awake s = true)
    (run : s.ft.running = true) (h : s.arr.slot = some q) (next : nextSlot (repeatOf s.ft.rateInForce) q = some n) :
    ∃ t, exec (.slotStart f x) s = .next t ∧ t.arr.slot = some n ∧ t.arr.active = s.arr.active ∧
      t.arr.acc.lit = s.arr.acc.lit.map (judgePixel s q f) ∧
      (∀ i, i ∈ t.arr.acc.low ↔ i ∈ s.arr.acc.low ∨ ∃ k ∈ f, k.pix = i ∧ k.hdl = true ∧ 32 ≤ pulseOf s q s.arr.acc.lit i) ∧
      (∀ y r, s.diag.test = some y → x = some r → y.testing = true → q.cycle = 0 → phaseOf y.pix = q.phase → y.result = none →
        s.arr.sinkEn = true → t.diag.test = some { y with result := some r }) := by
  refine ⟨_, exec_slotStart x ok up run h next, rfl, ?_, ?_, ?_, ?_⟩
  · dsimp only
    rw [takeTest_arr, collectSlot_active h]
  · dsimp only
    rw [takeTest_arr, collectSlot_lit h]
  · intro i
    dsimp only
    rw [takeTest_arr, mem_collectSlot_low h]
  · rintro y r t rfl testing c p none on
    exact takeTest_takes ((collectSlot_test h f).trans t) testing c p none ((collectSlot_sinkEn h f).trans on)

end Sys2Proof.Machine
end

section
/-! Signatures final (R175, R176, R182 to R186): what each judgement leaves alone, a region's evaluation, and all of them in their order. -/

namespace Sys2Proof.Machine

/-! ### What a judgement finds, and what it brings for one region -/

/-- What no judgement touches: the compose, the shadow words, the number of regions, the frame that is judged. -/
def composeView (s : State) := (s.scl, s.arr.shadow, s.chk.sigs.length, s.chk.sigFrame)

/-- A region and its cause among the conditions. -/
def regionView (r : Nat) (s : State) := (sigOf s r, condIs 0x0401 r s)

/-- A reaction touches neither. -/
theorem Reacts.composeView {s t : State} (h : Reacts s t) : composeView t = composeView s := by
  unfold Machine.composeView
  rw [h.scl, h.chk, h.arr]

theorem Reacts.regionView {s t : State} (h : Reacts s t) (r : Nat) : regionView r t = regionView r s := by
  unfold Machine.regionView sigOf
  rw [h.chk, condIs_congr h.conds]

theorem condOn_composeView {e : RawEvent} (q : quietCode e.code = true) (u : Nat) (s : State) :
    composeView (condOn u e s) = composeView s := by
  unfold condOn
  split
  · rfl
  · exact (raise_reacts q _).composeView.trans rfl

theorem condOn_sigOf {e : RawEvent} (q : quietCode e.code = true) (u r : Nat) (s : State) : sigOf (condOn u e s) r = sigOf s r := by
  unfold condOn
  split
  · rfl
  · unfold sigOf
    rw [(raise_reacts q _).chk]
    rfl

/-! ### General units (R175, R176) -/

/-- The units change, and nothing else. -/
theorem gus_composeView (s : State) (g : List Gu) : composeView { s with chk := { s.chk with gus := g } } = composeView s := rfl

theorem guRegion_composeView (s : State) (r : Nat) : composeView (guRegion s r) = composeView s := by
  unfold guRegion
  dsimp only
  split
  · rfl
  · exact gus_composeView ..

theorem guRegion_regionView (n : Nat) (s : State) (r : Nat) : regionView n (guRegion s r) = regionView n s := by
  unfold guRegion
  dsimp only
  split <;> rfl

/-- A unit's comparison after its capture counts, and may raise its event. -/
theorem guCaptureNow_views (n r : Nat) (s : State) :
    composeView (guCaptureNow n s) = composeView s ∧ regionView r (guCaptureNow n s) = regionView r s := by
  unfold guCaptureNow
  dsimp only
  split
  · exact ⟨rfl, rfl⟩
  · split
    · exact ⟨rfl, rfl⟩
    · split
      · have k := fun (p0 p1 p2 p3 : Nat) (l : Nat) => raise_reacts (e := { code := 0x0402, level := l, p0, p1, p2, p3 }) rfl
        exact ⟨(k _ _ _ _ _ _).composeView.trans rfl, ((k _ _ _ _ _ _).regionView r).trans rfl⟩
      · exact ⟨rfl, rfl⟩

theorem guRegionCapture_views (n r : Nat) (s : State) :
    composeView (guRegionCapture s n) = composeView s ∧ regionView r (guRegionCapture s n) = regionView r s := by
  unfold guRegionCapture
  dsimp only
  split
  · exact guCaptureNow_views ..
  · exact ⟨rfl, rfl⟩

/-! ### A region (R184, R185) -/

theorem sigOf_modSig_same {r : Nat} (f : Sig → Sig) {s : State} (h : r < s.chk.sigs.length) : sigOf (modSig r f s) r = f (sigOf s r) := by
  rw [sigOf, modSig_sigs, modNth_getD, if_pos ⟨rfl, h⟩]
  rfl

theorem sigOf_modSig_other {r n : Nat} (f : Sig → Sig) (s : State) (h : n ≠ r) : sigOf (modSig r f s) n = sigOf s n := by
  rw [sigOf, modSig_sigs, modNth_getD, if_neg fun e => h e.1]
  rfl

theorem modSig_composeView (r : Nat) (f : Sig → Sig) (s : State) : composeView (modSig r f s) = composeView s := by
  unfold composeView
  rw [modSig_sigs, modNth_length]
  rfl

theorem modSig_regionView {r n : Nat} (f : Sig → Sig) (s : State) (h : n ≠ r) : regionView n (modSig r f s) = regionView n s := by
  unfold regionView
  rw [sigOf_modSig_other f s h]
  rfl

/-- The event of a region's cause. -/
def sigEvent (r : Nat) (g : Sig) (frame : Nat) : RawEvent :=
  { code := 0x0401, level := g.cfg.level, p0 := r, p1 := g.result, p2 := if [2, 4, 5].contains g.result then g.readback else g.composed
    p3 := frame }

/-- The condition of a region follows its evaluation: present with the cause, gone with a run of 0, else as it was (R185). -/
def sigCause (r : Nat) (g : Sig) (s : State) : State :=
  if g.cause then condOn r (sigEvent r g s.chk.sigFrame) s else if g.run = 0 then condOff 0x0401 r s else s

theorem sigCause_composeView (r : Nat) (g : Sig) (s : State) : composeView (sigCause r g s) = composeView s := by
  unfold sigCause
  split
  · exact condOn_composeView rfl r s
  · split <;> rfl

theorem sigCause_sigOf (r n : Nat) (g : Sig) (s : State) : sigOf (sigCause r g s) n = sigOf s n := by
  unfold sigCause
  split
  · exact condOn_sigOf rfl r n s
  · split <;> rfl

theorem sigCause_condIs_same (r : Nat) (g : Sig) (s : State) :
    condIs 0x0401 r (sigCause r g s) = (g.cause || (condIs 0x0401 r s && decide (g.run ≠ 0))) := by
  unfold sigCause
  by_cases c : g.cause = true
  · rw [if_pos c, c, Bool.true_or]
    exact condIs_condOn_same (e := sigEvent r g s.chk.sigFrame) rfl r s
  · rw [if_neg c, Bool.eq_false_of_not_eq_true c, Bool.false_or]
    by_cases z : g.run = 0
    · rw [if_pos z, condIs_condOff_same]
      simp [z]
    · rw [if_neg z]
      simp [z]

theorem sigCause_condIs_other {r n : Nat} (g : Sig) (s : State) (h : n ≠ r) : condIs 0x0401 n (sigCause r g s) = condIs 0x0401 n s := by
  unfold sigCause
  split
  · exact condIs_condOn_other (e := sigEvent r g s.chk.sigFrame) rfl s h
  · split
    · exact condIs_condOff_other _ s h
    · rfl

/-- A region evaluated against the compose, with what the readback gave (R183 to R185). -/
def judgedSig (s : State) (r readback : Nat) : Sig :=
  let g := sigOf s r
  let k := s.scl.comp
  let composed := crc32 (regionBytes 2 k.codes g.cfg.rect (fun _ => true))
  let written := crc32 (regionBytes 4 s.arr.shadow g.cfg.rect (fun _ => true))
  let res := sigResult (readbackDone k g.cfg.rect) (readback ≠ written) (g.cfg.mode = 2 && k.content = .layers && composed ≠ g.cfg.expect)
    (g.cfg.mode = 2) (k.content = .pilot || k.content = .belay)
  let run := if sigFails res then min (g.run + 1) 31 else 0
  { g with
    composed, written, readback, result := res, run, cause := decide (g.cfg.thresh ≤ run)
    fails := if sigFails res then satInc 12 g.fails else g.fails }

theorem evalSig_off {s : State} {r : Nat} (m : (sigOf s r).cfg.mode = 0) : evalSig s r = s := by
  simp [evalSig, m]

/-- A compose that missed leaves MISSED and the earlier verdict. -/
theorem evalSig_missed {s : State} {r : Nat} (m : (sigOf s r).cfg.mode ≠ 0) (ok : s.scl.comp.ok = false) :
    evalSig s r = modSig r (fun g => { g with result := 6 }) s := by
  simp [evalSig, m, ok]

/-- The readback where every tile's is complete; else a free value is taken. -/
def readbackOf (s : State) (r : Nat) : Nat × State :=
  knownOrFree (readbackDone s.scl.comp (sigOf s r).cfg.rect)
    (crc32 (regionBytes 4 s.scl.comp.readback (sigOf s r).cfg.rect (fun _ => true))) s

theorem readbackOf_known {s : State} {r : Nat} (d : readbackDone s.scl.comp (sigOf s r).cfg.rect = true) :
    (readbackOf s r).1 = crc32 (regionBytes 4 s.scl.comp.readback (sigOf s r).cfg.rect (fun _ => true)) := by
  simp [readbackOf, knownOrFree, d]

/-- Of the state no more than the counter of free values changes. -/
theorem readbackOf_state (s : State) (r : Nat) : ∃ n, (readbackOf s r).2 = { s with free := n } := by
  unfold readbackOf knownOrFree
  split
  · exact ⟨s.free, rfl⟩
  · exact ⟨s.free + 1, rfl⟩

/-- Otherwise the region takes its evaluation, and its cause follows. -/
theorem evalSig_ok {s : State} {r : Nat} (m : (sigOf s r).cfg.mode ≠ 0) (ok : s.scl.comp.ok = true) :
    ∃ f : Sig → Sig, f (sigOf s r) = judgedSig s r (readbackOf s r).1 ∧
      evalSig s r = sigCause r (judgedSig s r (readbackOf s r).1) (modSig r f (readbackOf s r).2) := by
  unfold evalSig
  simp only [m, ok, if_false, Bool.not_true, Bool.false_eq_true]
  exact ⟨_, rfl, rfl⟩

/-- An evaluation leaves the compose and the other regions alone. -/
theorem evalSig_composeView (s : State) (r : Nat) : composeView (evalSig s r) = composeView s := by
  by_cases m : (sigOf s r).cfg.mode = 0
  · rw [evalSig_off m]
  · cases ok : s.scl.comp.ok
    · rw [evalSig_missed m ok, modSig_composeView]
    · obtain ⟨f, -, e⟩ := evalSig_ok m ok
      obtain ⟨n, y⟩ := readbackOf_state s r
      rw [e, sigCause_composeView, modSig_composeView, y]
      rfl

theorem evalSig_regionView {r n : Nat} (s : State) (h : n ≠ r) : regionView n (evalSig s r) = regionView n s := by
  by_cases m : (sigOf s r).cfg.mode = 0
  · rw [evalSig_off m]
  · cases ok : s.scl.comp.ok
    · rw [evalSig_missed m ok, modSig_regionView _ s h]
    · obtain ⟨f, -, e⟩ := evalSig_ok m ok
      obtain ⟨k, y⟩ := readbackOf_state s r
      have same : regionView n (modSig r f (readbackOf s r).2) = regionView n s := by
        rw [modSig_regionView _ _ h, y]
        rfl
      rw [e, regionView, sigCause_sigOf, sigCause_condIs_other _ _ h]
      exact same

/-- The region after its evaluation, and its cause. -/
theorem evalSig_judges {s : State} {r : Nat} (h : r < s.chk.sigs.length) (m : (sigOf s r).cfg.mode ≠ 0) (ok : s.scl.comp.ok = true) :
    let g := judgedSig s r (readbackOf s r).1
    regionView r (evalSig s r) = (g, g.cause || (condIs 0x0401 r s && decide (g.run ≠ 0))) := by
  obtain ⟨f, is, e⟩ := evalSig_ok m ok
  obtain ⟨n, y⟩ := readbackOf_state s r
  have len : r < (readbackOf s r).2.chk.sigs.length := by rwa [y]
  have was : sigOf (readbackOf s r).2 r = sigOf s r := by rw [y]; rfl
  have cond : condIs 0x0401 r (modSig r f (readbackOf s r).2) = condIs 0x0401 r s := by rw [y]; rfl
  rw [e, regionView, sigCause_sigOf, sigOf_modSig_same f len, was, is, sigCause_condIs_same, cond]

/-! ### SIGNATURES_FINAL (R184 to R186, R328) -/

/-- What is judged, once each: every region and every unit. -/
def allJudged : List Judged := (List.range 16).map .inl ++ (List.range 8).map .inr

theorem mem_allJudged {r : Nat} (h : r < 16) : (.inl r : Judged) ∈ allJudged := by simp [allJudged, h]

theorem allJudged_nodup : allJudged.Nodup := by decide

theorem judgeOne_composeView (s : State) (j : Judged) : composeView (judgeOne s j) = composeView s := by
  cases j with
  | inl r => exact evalSig_composeView s r
  | inr n => exact (guRegionCapture_views n 0 s).1

theorem judgeOne_regionView {r : Nat} (s : State) (j : Judged) (h : j ≠ .inl r) : regionView r (judgeOne s j) = regionView r s := by
  cases j with
  | inl n => exact evalSig_regionView s fun e => h (e ▸ rfl)
  | inr n => exact (guRegionCapture_views n r s).2

/-- A state that the judgements of other regions and of units leave is, for a region, as good as the one before them; its own judgement
settles it. -/
theorem judged_region (s : State) {r : Nat} (h : r < 16) (rank : Judged → Nat × Nat) :
    ∃ x, composeView x = composeView s ∧ regionView r x = regionView r s ∧
      regionView r ((ranked rank allJudged).foldl judgeOne s) = regionView r (evalSig x r) := by
  have perm := ranked_perm rank allJudged
  exact foldl_focus (v := composeView) (w := regionView r) (n := .inl r) (perm.nodup_iff.2 allJudged_nodup) (perm.mem_iff.2 (mem_allJudged h))
    judgeOne_composeView (fun x j => judgeOne_regionView x j) s

/-- An event of a quiet code, injected or real, of whatever level. -/
theorem raiseAs_reacts (live : Bool) {e : RawEvent} (h : quietCode e.code = true) (s : State) : Reacts s (raiseAs live e s) := by
  cases live
  · exact raise_reacts h s
  · have ha : quietCode (actual s.flt e).code = true := by rwa [actual_code]
    have k : Reacts s (record (actual s.flt e) flagInjected (countEscalation s.flt e s)) := by
      refine Reacts.trans ?_ (record_reacts ..)
      unfold countEscalation
      split
      · exact ⟨rfl, List.prefix_rfl⟩
      · exact .refl s
    unfold raiseAs raiseWith raiseOver
    simp only [realEffects_quiet ha, ite_self, if_true]
    generalize record (actual s.flt e) flagInjected (countEscalation s.flt e s) = w at k ⊢
    split
    · exact lateSinks_reacts ..
    · split
      · exact raiseCollateral_reacts e s
      · split
        · refine k.trans (Reacts.trans ?_ (startReactions_reacts ha _))
          exact ⟨rfl, List.prefix_rfl⟩
        · exact k

/-- A condition that a window held back is raised as real, and is collateral no longer (R333). -/
def raiseHeld (s : State) (c : Cond) : State :=
  raiseAs (c.unit = injectUnit) { code := c.code, level := c.level, p0 := c.p0, p1 := c.p1, p2 := c.p2, p3 := c.p3 }
    { s with flt := { s.flt with
      conds := s.flt.conds.map (fun x => if x.code = c.code && x.unit = c.unit then { x with collateral := false } else x) } }

theorem raiseHeld_views {c : Cond} (q : quietCode c.code = true) (s : State) (r : Nat) :
    composeView (raiseHeld s c) = composeView s ∧ regionView r (raiseHeld s c) = regionView r s := by
  have react := raiseAs_reacts (c.unit = injectUnit)
    (e := { code := c.code, level := c.level, p0 := c.p0, p1 := c.p1, p2 := c.p2, p3 := c.p3 }) q
  have present (x : Cond) (u : Bool) : (if u then { x with collateral := false } else x).code = x.code ∧
      (if u then { x with collateral := false } else x).unit = x.unit := by cases u <;> exact ⟨rfl, rfl⟩
  refine ⟨(react _).composeView.trans rfl, ((react _).regionView r).trans ?_⟩
  refine Prod.ext rfl ?_
  simp only [regionView, condIs, List.any_map, Function.comp_def, present]

/-- A window that closes raises what it held back; no condition goes (R333). -/
theorem closeWindow_views (s : State) (r : Nat) :
    composeView (closeWindow 4 s) = composeView s ∧ regionView r (closeWindow 4 s) = regionView r s := by
  have quiet {c : Cond} (h : (dependents 4).contains c.code = true) : quietCode c.code = true := by
    have codes : c.code = 0x0301 ∨ c.code = 0x0302 ∨ c.code = 0x0401 := by simpa [dependents] using h
    rcases codes with e | e | e <;> (rw [e]; rfl)
  have held (l : List Cond) (q : ∀ c ∈ l, quietCode c.code = true) (x : State) :
      composeView (l.foldl raiseHeld x) = composeView x ∧ regionView r (l.foldl raiseHeld x) = regionView r x :=
    ⟨foldl_view_mem l (fun x c m => (raiseHeld_views (q c m) x r).1) x, foldl_view_mem l (fun x c m => (raiseHeld_views (q c m) x r).2) x⟩
  unfold closeWindow
  split
  · exact ⟨rfl, rfl⟩
  · refine held _ (fun c m => ?_) _
    have m := (List.mem_filter.1 ((ranked_perm _ _).mem_iff.1 m)).2
    simp only [Bool.and_eq_true] at m
    exact quiet m.1.2

/-- The state in which signatures are judged: the units that snoop a region have had its bytes. -/
def sigsFed (s : State) : State := (List.range 16).foldl guRegion { s with chk := { s.chk with sigFrame := s.scl.comp.frame } }

theorem sigsFed_views (s : State) (r : Nat) :
    composeView (sigsFed s) = (s.scl, s.arr.shadow, s.chk.sigs.length, s.scl.comp.frame) ∧ regionView r (sigsFed s) = regionView r s :=
  ⟨(foldl_view (v := composeView) _ guRegion_composeView _).trans rfl, (foldl_view (v := regionView r) _ (guRegion_regionView r) _).trans rfl⟩

/-- The end of signatures final: the inputs are released, and the window of an engine reset closes at the second one (R332). -/
def sigsReleased (s : State) : State :=
  let t := modComp (fun k => { k with gus := false }) s
  if t.flt.windows.contains 4 && decide (2 ≤ t.flt.window4) then closeWindow 4 t else t

theorem sigsReleased_views (s : State) (r : Nat) :
    (sigsReleased s).scl.comp.gus = false ∧ (sigsReleased s).chk.sigFrame = s.chk.sigFrame ∧ regionView r (sigsReleased s) = regionView r s := by
  unfold sigsReleased
  dsimp only
  split
  · obtain ⟨compose, region⟩ := closeWindow_views (modComp (fun k => { k with gus := false }) s) r
    simp only [composeView, Prod.mk.injEq] at compose
    obtain ⟨scl, -, -, frame⟩ := compose
    exact ⟨by rw [scl]; rfl, frame, region⟩
  · exact ⟨rfl, rfl, rfl⟩

theorem exec_signaturesFinal {s : State} (up : awake s = true) (due : s.scl.comp.gus = true) (flushed : s.scl.comp.flushed = true)
    (m : litMode s.pwr.mode = true ∨ s.pwr.mode = .kindle) :
    exec .signaturesFinal s = .next (sigsReleased ((ranked (judgedRank (sigsFed s)) allJudged).foldl judgeOne (sigsFed s))) := by
  have mode : (litMode s.pwr.mode || decide (s.pwr.mode = .kindle)) = true := by simpa using m
  change execSignaturesFinal s = _
  unfold execSignaturesFinal
  dsimp only
  rw [up, due, flushed, mode]
  simp only [Bool.not_true, Bool.or_self, Bool.false_eq_true, if_false]
  unfold sigsFed allJudged
  generalize List.foldl judgeOne _ _ = w
  rfl

/-- What a region holds after signatures final, `g` before and `h` after it, the cause among the conditions having been `c`. -/
def SigSettled (k : Compose) (shadow : List (Nat × List Nat)) (g : Sig) (c : Bool) (v : Sig × Bool) : Prop :=
  let h := v.1
  (g.cfg.mode = 0 → h = g) ∧ (g.cfg.mode ≠ 0 → k.ok = false → h = { g with result := 6 }) ∧
  (g.cfg.mode ≠ 0 → k.ok = true → readbackDone k g.cfg.rect = true →
    h.composed = crc32 (regionBytes 2 k.codes g.cfg.rect (fun _ => true)) ∧ h.written = crc32 (regionBytes 4 shadow g.cfg.rect (fun _ => true)) ∧
    h.readback = crc32 (regionBytes 4 k.readback g.cfg.rect (fun _ => true)) ∧
    h.result = sigResult true (h.readback ≠ h.written) (g.cfg.mode = 2 && k.content = .layers && h.composed ≠ g.cfg.expect) (g.cfg.mode = 2)
      (k.content = .pilot || k.content = .belay)) ∧
  (g.cfg.mode ≠ 0 → k.ok = true → readbackDone k g.cfg.rect = false → h.result = 5) ∧
  (g.cfg.mode ≠ 0 → k.ok = true → h.run = (if h.result ∈ [2, 3, 4, 5] then min (g.run + 1) 31 else 0) ∧
    h.fails = (if h.result ∈ [2, 3, 4, 5] then min (g.fails + 1) 4095 else g.fails) ∧ (h.cause = true ↔ g.cfg.thresh ≤ h.run) ∧
    v.2 = (h.cause || (c && decide (h.run ≠ 0))))

theorem evalSig_settles {s : State} {r : Nat} (len : r < s.chk.sigs.length) :
    SigSettled s.scl.comp s.arr.shadow (sigOf s r) (condIs 0x0401 r s) (regionView r (evalSig s r)) := by
  by_cases m : (sigOf s r).cfg.mode = 0
  · rw [evalSig_off m]
    exact ⟨fun _ => rfl, fun n => absurd m n, fun n => absurd m n, fun n => absurd m n, fun n => absurd m n⟩
  · cases ok : s.scl.comp.ok
    · rw [evalSig_missed m ok]
      refine ⟨fun n => absurd n m, fun _ _ => sigOf_modSig_same _ len, ?_, ?_, ?_⟩
      all_goals
        intro _ n
        cases n.symm.trans ok
    · rw [evalSig_judges len m ok]
      have fails (n : Nat) : sigFails n = true ↔ n ∈ [2, 3, 4, 5] := by simp [sigFails]
      refine ⟨fun n => absurd n m, fun _ n => absurd (ok.symm.trans n) (by decide), fun _ _ done => ?_, fun _ _ open_ => ?_, fun _ _ => ?_⟩
      · refine ⟨rfl, rfl, readbackOf_known done, ?_⟩
        simp only [judgedSig, done]
      · simp only [judgedSig, open_]
        rfl
      · refine ⟨?_, ?_, ?_, rfl⟩
        · simp only [judgedSig, fails]
        · simp only [judgedSig, fails]
          rfl
        · simp only [judgedSig, decide_eq_true_eq]

/-- Signatures final settle every region, and release the signature inputs. -/
theorem signaturesFinal_spec {s : State} (up : awake s = true) (due : s.scl.comp.gus = true) (flushed : s.scl.comp.flushed = true)
    (m : litMode s.pwr.mode = true ∨ s.pwr.mode = .kindle) (len : s.chk.sigs.length = 16) :
    ∃ t, exec .signaturesFinal s = .next t ∧ t.chk.sigFrame = s.scl.comp.frame ∧ t.scl.comp.gus = false ∧
      ∀ r, r < 16 → SigSettled s.scl.comp s.arr.shadow (sigOf s r) (condIs 0x0401 r s) (regionView r t) := by
  have views := sigsFed_views s
  refine ⟨_, exec_signaturesFinal up due flushed m, ?_, (sigsReleased_views _ 0).1, fun r lt => ?_⟩
  · have all := (foldl_view (v := composeView) (ranked (judgedRank (sigsFed s)) allJudged) judgeOne_composeView (sigsFed s)).trans (views 0).1
    simp only [composeView, Prod.mk.injEq] at all
    obtain ⟨-, -, -, frame⟩ := all
    rw [(sigsReleased_views _ 0).2.1, frame]
  · obtain ⟨x, compose, region, settled⟩ := judged_region (sigsFed s) lt (judgedRank (sigsFed s))
    have cx := compose.trans (views r).1
    have rx := region.trans (views r).2
    simp only [composeView, regionView, Prod.mk.injEq] at cx rx
    obtain ⟨scl, shadow, sigs, -⟩ := cx
    have is := evalSig_settles (s := x) (r := r) (by omega)
    rw [scl, shadow, rx.1, rx.2] at is
    rwa [(sigsReleased_views _ r).2.2, settled]

end Sys2Proof.Machine
end

section
/-! The verdicts of a frame (R103 to R107, R120): what a verdict leaves alone, what it makes of its own pixel, and the end of a PIXEL_TEST. -/

namespace Sys2Proof.Machine

/-! ### What diagnosis works on -/

/-- The frame timer, the state of diagnosis, and the array's words, counts and latches. -/
def diagView (s : State) := (s.ft, s.diag, s.arr.active, s.arr.accPrev, s.arr.dis)

/-- What the verdicts of a frame rest on and leave as it is. -/
def frameView (s : State) := (s.ft, s.diag.test, s.diag.probedPrev, s.arr.active, s.arr.accPrev)

/-- A pixel's counters F and U, its DIS latch, and its entries in the map. -/
def pixelView (i : Nat) (s : State) :=
  (sget s.diag.fails i, sget s.diag.unver i, s.arr.dis.contains i, s.diag.defects.filter (fun d => d.pix = i))

theorem frameView_congr {s t : State} (h : diagView t = diagView s) : frameView t = frameView s := by
  simp only [diagView, Prod.mk.injEq] at h
  obtain ⟨ft, diag, active, prev, -⟩ := h
  unfold frameView
  rw [ft, diag, active, prev]

theorem pixelView_congr {s t : State} (h : diagView t = diagView s) (i : Nat) : pixelView i t = pixelView i s := by
  simp only [diagView, Prod.mk.injEq] at h
  obtain ⟨-, diag, -, -, dis⟩ := h
  unfold pixelView
  rw [diag, dis]

theorem Reacts.diagView {s t : State} (h : Reacts s t) : diagView t = diagView s := by
  unfold Machine.diagView
  rw [h.ft, h.diag, h.arr]

/-! ### The defect map (R113 to R116) -/

theorem condSet_diagView {e : RawEvent} (q : quietCode e.code = true) (on : Bool) (u : Nat) (s : State) :
    diagView (condSet on u e s) = diagView s := by
  unfold condSet condOn
  split
  · split
    · rfl
    · exact (raise_reacts q _).diagView.trans rfl
  · rfl

theorem evalCluster_diagView (s : State) : diagView (evalCluster s) = diagView s := by
  unfold evalCluster
  dsimp only
  split
  · rfl
  · split
    · rfl
    · exact (condSet_diagView (e := ev 0x0503 _ _ _ _) rfl true 0 _).trans rfl

theorem evalDefects_diagView (s : State) : diagView (evalDefects s) = diagView s := by
  unfold evalDefects
  dsimp only
  rw [condSet_diagView (e := ev 0x0502 _ _ _ _) rfl, evalCluster_diagView, condSet_diagView (e := ev 0x0504 _ _ _ _) rfl]

/-- A changed map has a new generation and awaits its store (R113, R114). -/
def marked (d : Diag) : Diag := { d with mapGen := wrapInc 16 d.mapGen, storePending := true, listFull := decide (2048 < d.defects.length) }

theorem mapChanged_diagView (s : State) : diagView (mapChanged s) = diagView { s with diag := marked s.diag } := by
  unfold mapChanged
  dsimp only
  split
  · exact (raise_reacts (e := ev 0x0506 _ _ _ _) rfl _).diagView
  · rfl

/-- A pixel has entered the map, and its DIS latch is set. -/
def entered (type source pix : Nat) (s : State) : State :=
  { s with
    diag := marked { s.diag with
      defects := insertDefect { pix, type, source } s.diag.defects
      releaseDis := s.diag.releaseDis.filter (· ≠ pix), releaseArmed := s.diag.releaseArmed.filter (· ≠ pix) }
    arr := { s.arr with dis := insertNat pix s.arr.dis } }

theorem enterDefect_known {type source pix : Nat} {s : State} (h : isDefect s pix = true) : enterDefect type source pix s = s := by
  rw [enterDefect, if_pos h]

theorem enterDefect_diagView {type source pix : Nat} {s : State} (h : isDefect s pix = false) :
    diagView (enterDefect type source pix s) = diagView (entered type source pix s) := by
  have new : ¬isDefect s pix = true := by rw [h]; decide
  unfold enterDefect
  rw [if_neg new, mapChanged_diagView]
  simp only [diagView, noteF_ft, noteF_diag, noteF_arr]
  rfl

theorem insertDefect_filter_other {d : Defect} {i : Nat} (h : d.pix ≠ i) (l : List Defect) :
    (insertDefect d l).filter (fun d => d.pix = i) = l.filter (fun d => d.pix = i) := by
  induction l with
  | nil => simp [insertDefect, h]
  | cons e t ih =>
    unfold insertDefect
    split
    · simp [List.filter_cons, h]
    · split
      · rfl
      · simp only [List.filter_cons, ih]

theorem insertDefect_filter_new {d : Defect} {l : List Defect} (h : ∀ e ∈ l, e.pix ≠ d.pix) :
    (insertDefect d l).filter (fun e => e.pix = d.pix) = [d] := by
  have none : l.filter (fun e => e.pix = d.pix) = [] := by simpa using h
  induction l with
  | nil => simp [insertDefect]
  | cons e t ih =>
    have other := h e List.mem_cons_self
    simp only [List.filter_cons, other, decide_false, Bool.false_eq_true, if_false] at none
    unfold insertDefect
    rw [if_neg (Ne.symm other)]
    split
    · simp [other, none]
    · simp only [List.filter_cons, other, decide_false, Bool.false_eq_true, if_false]
      exact ih (fun e m => h e (List.mem_cons_of_mem _ m)) none

theorem isDefect_eq (s : State) (i : Nat) : isDefect s i = !(s.diag.defects.filter (fun d => d.pix = i)).isEmpty := by
  rw [Bool.eq_iff_iff]
  simp [isDefect, List.filter_eq_nil_iff]

theorem isDefect_congr {s t : State} {i : Nat} (h : pixelView i t = pixelView i s) : isDefect t i = isDefect s i := by
  rw [isDefect_eq, isDefect_eq]
  exact congrArg (fun v => !v.2.2.2.isEmpty) h

theorem entered_other {type source pix i : Nat} (h : pix ≠ i) (s : State) : pixelView i (entered type source pix s) = pixelView i s := by
  have latch : (insertNat pix s.arr.dis).contains i = s.arr.dis.contains i := by
    rw [Bool.eq_iff_iff, List.contains_iff_mem, List.contains_iff_mem, mem_insertNat]
    exact or_iff_right (Ne.symm h)
  have map := insertDefect_filter_other (d := { pix, type, source }) h s.diag.defects
  unfold pixelView entered marked
  rw [latch, map]

theorem enterDefect_views {type source pix i : Nat} (s : State) :
    frameView (enterDefect type source pix s) = frameView s ∧ (enterDefect type source pix s).diag.voidFrames = s.diag.voidFrames ∧
      (pix ≠ i → pixelView i (enterDefect type source pix s) = pixelView i s) := by
  cases h : isDefect s pix
  · have e := enterDefect_diagView (type := type) (source := source) h
    exact ⟨(frameView_congr e).trans rfl, congrArg (fun v => v.2.1.voidFrames) e, fun n => (pixelView_congr e i).trans (entered_other n s)⟩
  · rw [enterDefect_known h]
    exact ⟨rfl, rfl, fun _ => rfl⟩

/-- A pixel that was not in the map: its latch is set, and its entry is the new one. -/
theorem enterDefect_new {type source pix : Nat} {s : State} (h : isDefect s pix = false) :
    pixelView pix (enterDefect type source pix s) = (sget s.diag.fails pix, sget s.diag.unver pix, true, [{ pix, type, source }]) := by
  have absent : ∀ e ∈ s.diag.defects, e.pix ≠ pix := by simpa [isDefect] using h
  have latch : (insertNat pix s.arr.dis).contains pix = true := by simp [mem_insertNat]
  have map := insertDefect_filter_new (d := { pix, type, source }) absent
  rw [pixelView_congr (enterDefect_diagView h)]
  unfold pixelView entered marked
  rw [latch, map]

/-! ### F and U of a pixel (R103, R106, R107, R120) -/

theorem verdictOf_unjudged {k : PixAcc} (tested : Bool) (h : k.judged = 0) :
    verdictOf tested k = if tested then .tested else .unverifiable := by simp [verdictOf, h]

/-- At least half of the judged pulses with HVD, else with NOI. -/
def failing (k : PixAcc) : Prop := k.judged ≠ 0 ∧ (k.judged ≤ 2 * k.shorts ∨ k.judged ≤ 2 * k.opens)

theorem verdictOf_fails {k : PixAcc} (tested : Bool) (h : failing k) :
    verdictOf tested k = if k.judged ≤ 2 * k.shorts then .short else .open_ := by
  obtain ⟨n, f⟩ := h
  unfold verdictOf
  rw [if_neg n]
  by_cases c : k.judged ≤ 2 * k.shorts
  · rw [if_pos c, if_pos c]
  · rw [if_neg c, if_neg c, if_pos (f.resolve_left c)]

theorem verdictOf_passes {k : PixAcc} (tested : Bool) (n : k.judged ≠ 0) (h : ¬failing k) : verdictOf tested k = .pass := by
  have f : ¬(k.judged ≤ 2 * k.shorts ∨ k.judged ≤ 2 * k.opens) := fun f => h ⟨n, f⟩
  rw [not_or] at f
  unfold verdictOf
  rw [if_neg n, if_neg f.1, if_neg f.2]

/-- F and U of a pixel take new values. -/
def setCounters (p f u : Nat) (s : State) : State :=
  { s with diag := { s.diag with fails := sset s.diag.fails p f, unver := sset s.diag.unver p u } }

theorem setCounters_same (p f u : Nat) (s : State) :
    pixelView p (setCounters p f u s) = (f, u, s.arr.dis.contains p, s.diag.defects.filter (fun d => d.pix = p)) := by
  simp [pixelView, setCounters]

theorem setCounters_other {p i : Nat} (h : p ≠ i) (f u : Nat) (s : State) : pixelView i (setCounters p f u s) = pixelView i s := by
  simp [pixelView, setCounters, sget_sset_other _ _ (Ne.symm h)]

/-- A failing verdict: F counts; the third in a row clears it and enters the pixel in the map. -/
theorem failPixel_eq (p type : Nat) (s : State) : failPixel p type s =
    if sget s.diag.fails p = 2 then
      enterDefect type (if s.diag.probedPrev.contains p then 3 else 2) p (setCounters p 0 0 s)
    else setCounters p (sget s.diag.fails p + 1) 0 s := by
  unfold failPixel
  dsimp only
  split <;> rfl

theorem failPixel_views (p type : Nat) {i : Nat} (s : State) :
    frameView (failPixel p type s) = frameView s ∧ (failPixel p type s).diag.voidFrames = s.diag.voidFrames ∧
      (p ≠ i → pixelView i (failPixel p type s) = pixelView i s) := by
  rw [failPixel_eq]
  split
  · obtain ⟨frame, voids, other⟩ := enterDefect_views (i := i) (type := type)
      (source := if s.diag.probedPrev.contains p then 3 else 2) (pix := p) (setCounters p 0 0 s)
    exact ⟨frame.trans rfl, voids, fun n => (other n).trans (setCounters_other n ..)⟩
  · exact ⟨rfl, rfl, fun n => setCounters_other n ..⟩

/-- The third failing verdict in a row. -/
theorem failPixel_third {p : Nat} (type : Nat) {s : State} (h : sget s.diag.fails p = 2) :
    pixelView p (failPixel p type s) = (0, 0, if isDefect s p
      then (s.arr.dis.contains p, s.diag.defects.filter (fun d => d.pix = p))
      else (true, [{ pix := p, type, source := if s.diag.probedPrev.contains p then 3 else 2 }])) := by
  have same : isDefect (setCounters p 0 0 s) p = isDefect s p := rfl
  rw [failPixel_eq, if_pos h]
  cases c : isDefect s p
  · rw [enterDefect_new (same.trans c)]
    simp [setCounters]
  · rw [enterDefect_known (same.trans c), setCounters_same]
    rfl

/-- A failing verdict before the third. -/
theorem failPixel_counts {p : Nat} (type : Nat) {s : State} (h : sget s.diag.fails p ≠ 2) :
    failPixel p type s = setCounters p (sget s.diag.fails p + 1) 0 s := by
  rw [failPixel_eq, if_neg h]

/-- A verdict touches its own pixel only. -/
theorem judgeCounters_views (k : PixAcc) {i : Nat} (s : State) :
    frameView (judgeCounters s k) = frameView s ∧ (judgeCounters s k).diag.voidFrames = s.diag.voidFrames ∧
      (k.pix ≠ i → pixelView i (judgeCounters s k) = pixelView i s) := by
  unfold judgeCounters
  dsimp only
  split
  · exact ⟨rfl, rfl, fun _ => rfl⟩
  · exact ⟨rfl, rfl, fun n => by simp [pixelView, sget_sset_other _ _ (Ne.symm n)]⟩
  · exact ⟨rfl, rfl, fun n => setCounters_other n 0 0 s⟩
  · exact failPixel_views k.pix 2 s
  · exact failPixel_views k.pix 1 s

theorem judgeCounters_tested {k : PixAcc} {s : State} (h : k.judged = 0) (t : testedIn s k.pix = true) : judgeCounters s k = s := by
  simp [judgeCounters, verdictOf_unjudged _ h, t]

/-- What a verdict makes of its pixel, from its counters, latch and entries `v`; `probed`: Vigil probed it in the frame that ended. -/
def verdictLeaves (probed : Bool) (k : PixAcc) (v w : Nat × Nat × Bool × List Defect) : Prop :=
  (k.judged = 0 → w.1 = v.1 ∧ w.2.1 = min 64 (v.2.1 + 1)) ∧
  (failing k → w.1 = (if v.1 = 2 then 0 else v.1 + 1) ∧ w.2.1 = 0 ∧ (v.1 = 2 → w.2.2.1 = true ∨ v.2.2.2 ≠ []) ∧
    (v.1 = 2 → v.2.2.2 = [] →
      w.2.2.2 = [{ pix := k.pix, type := if k.judged ≤ 2 * k.shorts then 2 else 1, source := if probed then 3 else 2 }])) ∧
  (k.judged ≠ 0 → ¬failing k → w.1 = 0 ∧ w.2.1 = 0)

theorem judgeCounters_fails {k : PixAcc} {s : State} (h : failing k) :
    judgeCounters s k = failPixel k.pix (if k.judged ≤ 2 * k.shorts then 2 else 1) s := by
  unfold judgeCounters
  dsimp only
  rw [verdictOf_fails _ h]
  by_cases c : k.judged ≤ 2 * k.shorts
  · rw [if_pos c, if_pos c]
  · rw [if_neg c, if_neg c]

theorem judgeCounters_leaves {k : PixAcc} {s : State} (t : testedIn s k.pix = false) :
    verdictLeaves (s.diag.probedPrev.contains k.pix) k (pixelView k.pix s) (pixelView k.pix (judgeCounters s k)) := by
  refine ⟨fun z => ?_, fun f => ?_, fun n p => ?_⟩
  · simp [judgeCounters, verdictOf_unjudged _ z, t, pixelView]
  · rw [judgeCounters_fails f]
    by_cases c : sget s.diag.fails k.pix = 2
    · rw [failPixel_third _ c, isDefect_eq]
      refine ⟨by simp [pixelView, c], rfl, fun _ => ?_, fun _ new => ?_⟩
      · by_cases e : s.diag.defects.filter (fun d => d.pix = k.pix) = []
        · exact .inl (by rw [e]; rfl)
        · exact .inr e
      · simp only [pixelView] at new
        rw [new]
        rfl
    · rw [failPixel_counts _ c, setCounters_same]
      simp [pixelView, c]
  · simp [judgeCounters, verdictOf_passes _ n p, pixelView]

end Sys2Proof.Machine
end

section
/-! The verdicts of a frame as a whole (R104, R105, R120): parity errors, a void frame, all lit pixels, the end of a PIXEL_TEST, and O30. -/

namespace Sys2Proof.Machine

/-! ### Parity errors -/

theorem parityReset_diagView (s : State) (p : Nat) : diagView (parityReset s p) = diagView (setCounters p 0 0 s) :=
  (raise_reacts (e := ev 0x0507 _ _ _ _) rfl _).diagView

theorem parityReset_views (s : State) (p : Nat) :
    frameView (parityReset s p) = frameView s ∧ (parityReset s p).diag.voidFrames = s.diag.voidFrames :=
  ⟨(frameView_congr (parityReset_diagView s p)).trans rfl, congrArg (fun v => v.2.1.voidFrames) (parityReset_diagView s p)⟩

theorem parityReset_other {p i : Nat} (h : p ≠ i) (s : State) : pixelView i (parityReset s p) = pixelView i s :=
  (pixelView_congr (parityReset_diagView s p) i).trans (setCounters_other h 0 0 s)

/-- F and U of a pixel are 0. -/
def cleared (i : Nat) (s : State) : Prop := sget s.diag.fails i = 0 ∧ sget s.diag.unver i = 0

theorem cleared_congr {s t : State} {i : Nat} (h : pixelView i t = pixelView i s) (c : cleared i s) : cleared i t := by
  simp only [pixelView, Prod.mk.injEq] at h
  exact ⟨h.1.trans c.1, h.2.1.trans c.2⟩

theorem parityReset_cleared {i : Nat} (s : State) (p : Nat) (c : p = i ∨ cleared i s) : cleared i (parityReset s p) := by
  by_cases h : p = i
  · subst h
    have e := (pixelView_congr (parityReset_diagView s p) p).trans (setCounters_same p 0 0 s)
    simp only [pixelView, Prod.mk.injEq] at e
    exact ⟨e.1, e.2.1⟩
  · exact cleared_congr (parityReset_other h s) (c.resolve_left h)

/-- Every pixel with a parity error is cleared. -/
theorem parityResets_cleared {i : Nat} (l : List Nat) (s : State) (c : i ∈ l ∨ cleared i s) : cleared i (l.foldl parityReset s) := by
  induction l generalizing s with
  | nil => exact c.resolve_left List.not_mem_nil
  | cons p l ih =>
    refine ih _ ?_
    rcases c with m | c
    · rcases List.mem_cons.1 m with e | m
      · exact .inr (parityReset_cleared s p (.inl e.symm))
      · exact .inl m
    · exact .inr (parityReset_cleared s p (.inr c))

theorem parityResets_views (l : List Nat) (s : State) :
    frameView (l.foldl parityReset s) = frameView s ∧ (l.foldl parityReset s).diag.voidFrames = s.diag.voidFrames :=
  ⟨foldl_view (v := frameView) l (fun x p => (parityReset_views x p).1) s,
    foldl_view (v := fun s => s.diag.voidFrames) l (fun x p => (parityReset_views x p).2) s⟩

theorem parityResets_other {l : List Nat} {i : Nat} (h : i ∉ l) (s : State) : pixelView i (l.foldl parityReset s) = pixelView i s :=
  foldl_view_mem (v := pixelView i) l (fun x p m => parityReset_other (fun e : p = i => h (e ▸ m)) x) s

/-! ### The frame (R104, R105) -/

/-- The verdicts of a frame that `a` describes; `l`: its lit pixels without those whose verdict is discarded. -/
def frameVerdicts (a : FrameAcc) (cause : Nat) (l : List PixAcc) (s : State) : State :=
  if !frameJudged s then s
  else if cause ≠ 0 then showStale (coverage true a.lit.length [] (voidFrame cause s))
  else showStale (l.foldl judgeCounters (coverage false a.lit.length l s))

theorem coverage_views (i : Nat) (v : Bool) (n : Nat) (l : List PixAcc) (s : State) :
    frameView (coverage v n l s) = frameView s ∧ pixelView i (coverage v n l s) = pixelView i s ∧
      (coverage v n l s).diag.voidFrames = s.diag.voidFrames := ⟨rfl, rfl, rfl⟩

theorem showStale_views (s : State) (i : Nat) : frameView (showStale s) = frameView s ∧ pixelView i (showStale s) = pixelView i s :=
  ⟨rfl, rfl⟩

/-- A void frame is counted, and changes no pixel (R104). -/
theorem voidFrame_views (cause : Nat) (s : State) (i : Nat) :
    frameView (voidFrame cause s) = frameView s ∧ pixelView i (voidFrame cause s) = pixelView i s ∧
      (voidFrame cause s).diag.voidFrames = satInc 16 s.diag.voidFrames := by
  have e : diagView (voidFrame cause s) = _ := (noteF_reacts ..).diagView
  exact ⟨(frameView_congr e).trans rfl, (pixelView_congr e i).trans rfl, congrArg (fun v => v.2.1.voidFrames) e⟩

theorem judged_views (l : List PixAcc) (s : State) : frameView (l.foldl judgeCounters s) = frameView s :=
  foldl_view (v := frameView) l (fun x k => (judgeCounters_views (i := 0) k x).1) s

theorem judged_other {l : List PixAcc} {i : Nat} (h : i ∉ l.map (·.pix)) (s : State) :
    pixelView i (l.foldl judgeCounters s) = pixelView i s :=
  foldl_view_mem (v := pixelView i) l (fun x k m => (judgeCounters_views k x).2.2 (fun e => h (e ▸ List.mem_map_of_mem m))) s

/-- A lit pixel's verdict is taken once. -/
theorem judged_once {l : List PixAcc} {k : PixAcc} (nd : (l.map (·.pix)).Nodup) (m : k ∈ l) (s : State) :
    ∃ x, frameView x = frameView s ∧ pixelView k.pix x = pixelView k.pix s ∧
      pixelView k.pix (l.foldl judgeCounters s) = pixelView k.pix (judgeCounters x k) := by
  obtain ⟨before, behind, rfl⟩ := List.append_of_mem m
  simp only [List.map_append, List.map_cons] at nd
  have apart := List.nodup_middle.1 nd
  rw [List.nodup_cons, List.mem_append, not_or] at apart
  refine ⟨before.foldl judgeCounters s, judged_views .., judged_other apart.1.1 s, ?_⟩
  rw [List.foldl_append, List.foldl_cons]
  exact judged_other apart.1.2 _

theorem frameVerdicts_frame (a : FrameAcc) (cause : Nat) (l : List PixAcc) (s : State) :
    frameView (frameVerdicts a cause l s) = frameView s := by
  unfold frameVerdicts
  split
  · rfl
  · split
    · exact (showStale_views _ 0).1.trans ((coverage_views 0 ..).1.trans (voidFrame_views cause s 0).1)
    · exact (showStale_views _ 0).1.trans ((judged_views ..).trans (coverage_views 0 ..).1)

theorem frameVerdicts_other (a : FrameAcc) (cause : Nat) {l : List PixAcc} {i : Nat} (h : i ∉ l.map (·.pix)) (s : State) :
    pixelView i (frameVerdicts a cause l s) = pixelView i s := by
  unfold frameVerdicts
  split
  · rfl
  · split
    · exact (showStale_views _ i).2.trans ((coverage_views i ..).2.1.trans (voidFrame_views cause s i).2.1)
    · exact (showStale_views _ i).2.trans ((judged_other h _).trans (coverage_views i ..).2.1)

/-- A void frame changes no pixel, and is counted. -/
theorem frameVerdicts_void {a : FrameAcc} {cause : Nat} {s : State} (l : List PixAcc) (j : frameJudged s = true) (h : cause ≠ 0) (i : Nat) :
    pixelView i (frameVerdicts a cause l s) = pixelView i s ∧
      (frameVerdicts a cause l s).diag.voidFrames = min (s.diag.voidFrames + 1) 65535 := by
  obtain ⟨-, pixel, voids⟩ := voidFrame_views cause s i
  unfold frameVerdicts
  rw [if_neg (by simp [j]), if_pos h]
  exact ⟨(showStale_views _ i).2.trans ((coverage_views i ..).2.1.trans pixel), voids⟩

/-- Where the frame is not void a lit pixel's verdict is taken once. -/
theorem frameVerdicts_lit {a : FrameAcc} {l : List PixAcc} {k : PixAcc} {s : State} (j : frameJudged s = true)
    (nd : (l.map (·.pix)).Nodup) (m : k ∈ l) :
    ∃ x, frameView x = frameView s ∧ pixelView k.pix x = pixelView k.pix s ∧
      pixelView k.pix (frameVerdicts a 0 l s) = pixelView k.pix (judgeCounters x k) := by
  obtain ⟨x, frame, pixel, e⟩ := judged_once nd m (coverage false a.lit.length l s)
  unfold frameVerdicts
  rw [if_neg (by simp [j]), if_neg (by decide)]
  exact ⟨x, frame, pixel, (showStale_views _ k.pix).2.trans e⟩

/-! ### The end of a PIXEL_TEST (R120) -/

/-- Diagnosis after the release of a pixel: the test is over, the pixel has left the map, and its latch is to go. -/
def released (pix : Nat) (d : Diag) : Diag :=
  { marked { d with test := none, defects := d.defects.filter (fun e => e.pix ≠ pix) } with releaseDis := insertNat pix d.releaseDis }

/-- What a step makes of diagnosis, seen in a state with the same view. -/
theorem diagView_withDiag {s t : State} (h : diagView t = diagView s) (f : Diag → Diag) :
    diagView { t with diag := f t.diag } = diagView { s with diag := f s.diag } := by
  simp only [diagView, Prod.mk.injEq] at h ⊢
  obtain ⟨ft, diag, active, prev, dis⟩ := h
  exact ⟨ft, congrArg f diag, active, prev, dis⟩

theorem removeDefect_diagView {pix : Nat} {s : State} (h : isDefect s pix = true) :
    diagView (removeDefect pix s) =
      diagView { s with diag := marked { s.diag with defects := s.diag.defects.filter (fun e => e.pix ≠ pix) } } := by
  rw [removeDefect, if_pos h, mapChanged_diagView]

theorem complete_diagView (h op : Nat) (x : Src) (st a b : Nat) (s : State) : diagView (complete h op x st a b s) = diagView s :=
  (complete_reacts ..).diagView

theorem finishTest_idle {void : Bool} {s : State} (h : ∀ t, s.diag.test = some t → t.testing = false ∨ t.frame = s.ft.frameCount) :
    finishTest void s = s := by
  unfold finishTest
  cases c : s.diag.test with
  | none => rfl
  | some t =>
    have idle : (!t.testing || decide (t.frame = s.ft.frameCount)) = true := by simpa using h t c
    simp [idle]

/-- A test that ran in the frame is over; beside that, the pixel it released has left the map. -/
theorem finishTest_ends (void : Bool) {s : State} {t : PixTest} (h : s.diag.test = some t) (run : t.testing = true)
    (f : t.frame ≠ s.ft.frameCount) : ∃ d, (d = { s.diag with test := none } ∨ d = released t.pix s.diag) ∧
      diagView (finishTest void s) = diagView { s with diag := d } := by
  have ran : (!t.testing || decide (t.frame = s.ft.frameCount)) = false := by simp [run, f]
  unfold finishTest
  rw [h]
  dsimp only
  rw [ran]
  simp only [Bool.false_eq_true, if_false]
  split
  · split
    · rename_i rel
      simp only [Bool.and_eq_true] at rel
      refine ⟨_, .inr rfl, (complete_diagView ..).trans ((evalDefects_diagView _).trans ?_)⟩
      exact diagView_withDiag (removeDefect_diagView rel.2) (fun d => { d with releaseDis := insertNat t.pix d.releaseDis })
    · exact ⟨_, .inl rfl, complete_diagView ..⟩
  · exact ⟨_, .inl rfl, (complete_diagView ..).trans rfl⟩

/-- What the end of a test leaves: all counters and latches, and the map's entries of any other pixel. -/
theorem finishTest_views (void : Bool) (s : State) :
    (finishTest void s).arr.accPrev = s.arr.accPrev ∧ (finishTest void s).diag.probedPrev = s.diag.probedPrev ∧
      (finishTest void s).arr.active = s.arr.active ∧ (finishTest void s).diag.voidFrames = s.diag.voidFrames ∧
      (finishTest void s).diag.fails = s.diag.fails ∧ (finishTest void s).diag.unver = s.diag.unver ∧
      ∀ i, (∀ t, s.diag.test = some t → t.pix ≠ i) → pixelView i (finishTest void s) = pixelView i s := by
  by_cases idle : ∀ t, s.diag.test = some t → t.testing = false ∨ t.frame = s.ft.frameCount
  · rw [finishTest_idle idle]
    exact ⟨rfl, rfl, rfl, rfl, rfl, rfl, fun _ _ => rfl⟩
  · push Not at idle
    obtain ⟨t, h, run, f⟩ := idle
    obtain ⟨d, is, e⟩ := finishTest_ends void h (by simpa using run) f
    have pixel (i : Nat) := pixelView_congr e i
    simp only [diagView, Prod.mk.injEq] at e
    obtain ⟨-, diag, active, prev, -⟩ := e
    rw [diag, active, prev]
    rcases is with rfl | rfl
    · exact ⟨rfl, rfl, rfl, rfl, rfl, rfl, fun i _ => (pixel i).trans rfl⟩
    · refine ⟨rfl, rfl, rfl, rfl, rfl, rfl, fun i other => (pixel i).trans ?_⟩
      have kept : (s.diag.defects.filter (fun e => e.pix ≠ t.pix)).filter (fun e => e.pix = i) = s.diag.defects.filter (fun e => e.pix = i) := by
        rw [List.filter_filter]
        refine List.filter_congr fun e _ => ?_
        by_cases c : e.pix = i
        · simp [c, Ne.symm (other t h)]
        · simp [c]
      unfold pixelView released marked
      rw [kept]

/-! ### DIAG_VERDICTS_FINAL (R105) -/

/-- What follows the verdicts of a frame: its counts are gone, the causes follow the map, and a test that ran in it ends. -/
def verdictsEnd (void : Bool) (s : State) : State :=
  finishTest void (evalDefects { s with arr := { s.arr with accPrev := {} }, diag := { s.diag with safeDirty := false, probedPrev := [] } })

theorem verdictsEnd_views (void : Bool) (s : State) :
    (verdictsEnd void s).arr.accPrev = {} ∧ (verdictsEnd void s).diag.probedPrev = [] ∧ (verdictsEnd void s).arr.active = s.arr.active ∧
      (verdictsEnd void s).diag.voidFrames = s.diag.voidFrames ∧ (verdictsEnd void s).diag.fails = s.diag.fails ∧
      (verdictsEnd void s).diag.unver = s.diag.unver ∧
      ∀ i, (∀ t, s.diag.test = some t → t.pix ≠ i) → pixelView i (verdictsEnd void s) = pixelView i s := by
  have e := evalDefects_diagView { s with arr := { s.arr with accPrev := {} }, diag := { s.diag with safeDirty := false, probedPrev := [] } }
  have pixel (i : Nat) := pixelView_congr e i
  have k := finishTest_views void
    (evalDefects { s with arr := { s.arr with accPrev := {} }, diag := { s.diag with safeDirty := false, probedPrev := [] } })
  unfold verdictsEnd
  generalize evalDefects _ = w at e k pixel ⊢
  simp only [diagView, Prod.mk.injEq] at e
  obtain ⟨-, diag, active, prev, -⟩ := e
  rw [diag, active, prev] at k
  obtain ⟨prev', probed, active', voids, fails, unver, others⟩ := k
  exact ⟨prev', probed, active', voids, fails, unver, fun i h => (others i h).trans ((pixel i).trans rfl)⟩

theorem verdictsEnd_test {void : Bool} {s : State} {t : PixTest} (h : s.diag.test = some t) (run : t.testing = true)
    (f : t.frame ≠ s.ft.frameCount) : (verdictsEnd void s).diag.test = none := by
  have e := evalDefects_diagView { s with arr := { s.arr with accPrev := {} }, diag := { s.diag with safeDirty := false, probedPrev := [] } }
  unfold verdictsEnd
  generalize evalDefects _ = w at e ⊢
  simp only [diagView, Prod.mk.injEq] at e
  obtain ⟨ft, diag, -⟩ := e
  obtain ⟨d, is, e⟩ := finishTest_ends void (s := w) (by rw [diag]; exact h) run (by rw [ft]; exact f)
  have gone : (finishTest void w).diag.test = d.test := congrArg (fun v => v.2.1.test) e
  rw [gone]
  rcases is with rfl | rfl <;> rfl

/-- The pixels whose verdicts are taken: the lit ones without a parity error. -/
def litWithout (p : List Nat) (s : State) : List PixAcc := s.arr.accPrev.lit.filter (fun k => !p.contains k.pix)

/-- Why the frame that ended is void; 0 where it is not, or was not lit (R104). -/
def causeOf (s : State) : Nat := if frameJudged s then voidCause s.arr.accPrev else 0

/-- The state after the verdicts of the frame that ended. -/
def verdictsTaken (p : List Nat) (s : State) : State := frameVerdicts s.arr.accPrev (causeOf s) (litWithout p s) (p.foldl parityReset s)

theorem exec_diagVerdictsFinal {p : List Nat} {s : State} (ok : p.all (fun i => decide (i < 1036800)) = true) (up : awake s = true)
    (run : s.ft.running = true) : exec (.diagVerdictsFinal p) s = .next (verdictsEnd (causeOf s ≠ 0) (verdictsTaken p s)) := by
  change execDiagVerdictsFinal p s = _
  unfold execDiagVerdictsFinal guarded
  rw [show p.all (fun i => decide (i < pixelBound)) = true from ok, up, run]
  rfl

theorem verdictsTaken_frame (p : List Nat) (s : State) : frameView (verdictsTaken p s) = frameView s :=
  (frameVerdicts_frame ..).trans (parityResets_views p s).1

theorem frameJudged_congr {s t : State} (h : frameView t = frameView s) : frameJudged t = frameJudged s := by
  have prev : t.arr.accPrev = s.arr.accPrev := congrArg (fun v => v.2.2.2.2) h
  unfold frameJudged
  rw [prev]

theorem voidCause_iff (a : FrameAcc) : voidCause a ≠ 0 ↔ 10368 < a.low.length ∨ a.sinkCleared = true := by
  unfold voidCause
  split
  · simp [*]
  · cases a.sinkCleared <;> simp [*]

/-- A pixel with a parity error is cleared, whatever the frame brings. -/
theorem verdictsTaken_parity {p : List Nat} {i : Nat} (s : State) (h : i ∈ p) : cleared i (verdictsTaken p s) := by
  have out : i ∉ (litWithout p s).map (·.pix) := by
    simp only [litWithout, List.mem_map, List.mem_filter, not_exists, not_and]
    rintro k ⟨-, sound⟩ rfl
    simp [h] at sound
  exact cleared_congr (frameVerdicts_other _ _ out _) (parityResets_cleared p s (.inl h))

section
variable {p : List Nat} {k : PixAcc} {s : State} (nd : (s.arr.accPrev.lit.map (·.pix)).Nodup) (m : k ∈ s.arr.accPrev.lit) (sound : k.pix ∉ p)
include m

/-- A frame with a lit pixel is judged. -/
theorem causeOf_lit : frameJudged s = true ∧ causeOf s = voidCause s.arr.accPrev := by
  have shown : s.arr.accPrev.lit ≠ [] := List.ne_nil_of_mem m
  have judged : frameJudged s = true := by simp [frameJudged, shown]
  exact ⟨judged, by rw [causeOf, if_pos judged]⟩

include sound

/-- A void frame leaves a lit pixel as it is, and is counted. -/
theorem verdictsTaken_void (v : voidCause s.arr.accPrev ≠ 0) :
    pixelView k.pix (verdictsTaken p s) = pixelView k.pix s ∧ (verdictsTaken p s).diag.voidFrames = min (s.diag.voidFrames + 1) 65535 := by
  obtain ⟨judged, cause⟩ := causeOf_lit m
  obtain ⟨frame, voids⟩ := parityResets_views p s
  obtain ⟨pixel, counted⟩ := frameVerdicts_void (a := s.arr.accPrev) (cause := causeOf s) (litWithout p s)
    ((frameJudged_congr frame).trans judged) (by rwa [cause]) k.pix
  exact ⟨pixel.trans (parityResets_other sound s), counted.trans (by rw [voids])⟩

include nd

/-- In a frame that is not void a lit pixel has its verdict in a state that differs, for it, in nothing from the one before. -/
theorem verdictsTaken_lit (v : voidCause s.arr.accPrev = 0) :
    ∃ x, frameView x = frameView s ∧ pixelView k.pix x = pixelView k.pix s ∧
      pixelView k.pix (verdictsTaken p s) = pixelView k.pix (judgeCounters x k) := by
  obtain ⟨judged, cause⟩ := causeOf_lit m
  have frame := (parityResets_views p s).1
  have lit : k ∈ litWithout p s := by simp [litWithout, m, sound]
  obtain ⟨x, fx, px, e⟩ := frameVerdicts_lit (a := s.arr.accPrev) ((frameJudged_congr frame).trans judged)
    (nd.sublist (List.filter_sublist.map _)) lit
  rw [verdictsTaken, cause, v]
  exact ⟨x, fx.trans frame, px.trans (parityResets_other sound s), e⟩

/-- A lit pixel that no test measured has its verdict by its pulses (R103, R106, R107). -/
theorem verdictsTaken_leaves (v : voidCause s.arr.accPrev = 0) (other : ∀ x, s.diag.test = some x → x.pix ≠ k.pix) :
    verdictLeaves (s.diag.probedPrev.contains k.pix) k (pixelView k.pix s) (pixelView k.pix (verdictsTaken p s)) := by
  obtain ⟨x, frame, pixel, e⟩ := verdictsTaken_lit nd m sound v
  simp only [frameView, Prod.mk.injEq] at frame
  obtain ⟨-, test, probed, -⟩ := frame
  have untested : testedIn x k.pix = false := by
    unfold testedIn
    rw [test]
    cases c : s.diag.test with
    | none => rfl
    | some t => simp [other t c]
  have leaves := judgeCounters_leaves untested
  rwa [probed, pixel, ← e] at leaves

/-- A lit pixel that a test alone measured keeps F and U (R120). -/
theorem verdictsTaken_tested {t : PixTest} (h : s.diag.test = some t) (at_ : t.pix = k.pix) (run : t.testing = true)
    (f : t.frame ≠ s.ft.frameCount) (r : t.result.isSome = true) (z : k.judged = 0) :
    pixelView k.pix (verdictsTaken p s) = pixelView k.pix s := by
  by_cases v : voidCause s.arr.accPrev = 0
  · obtain ⟨x, frame, pixel, e⟩ := verdictsTaken_lit nd m sound v
    simp only [frameView, Prod.mk.injEq] at frame
    obtain ⟨ft, test, -⟩ := frame
    have tested : testedIn x k.pix = true := by
      unfold testedIn
      rw [test, h, ft]
      simp [at_, run, f, r]
    rw [e, judgeCounters_tested z tested, pixel]
  · exact (verdictsTaken_void m sound v).1

end

/-- What a verdict leaves, in the words of the map: the latch of a pixel declared, and its entry. -/
theorem verdictLeaves_declared {probed : Bool} {k : PixAcc} {s t : State}
    (h : verdictLeaves probed k (pixelView k.pix s) (pixelView k.pix t)) (f : failing k) (third : sget s.diag.fails k.pix = 2) :
    (k.pix ∈ t.arr.dis ∨ isDefect s k.pix = true) ∧ (isDefect s k.pix = false → ∃ d ∈ t.diag.defects, d.pix = k.pix ∧
      d.type = (if k.judged ≤ 2 * k.shorts then 2 else 1) ∧ d.source = (if probed then 3 else 2)) := by
  obtain ⟨-, fails, -⟩ := h
  obtain ⟨-, -, latch, entry⟩ := fails f
  refine ⟨(latch third).imp (fun c => List.contains_iff_mem.1 c) (fun c => ?_), fun new => ?_⟩
  · rw [isDefect_eq]
    simpa [pixelView] using c
  · rw [isDefect_eq] at new
    have only := entry third (by simpa [pixelView] using new)
    have listed := List.mem_filter.1 ((congrArg (_ ∈ ·) only).mpr List.mem_cons_self)
    exact ⟨_, listed.1, rfl, rfl, rfl⟩

/-- Settles O30: a slot start, the pulses of a slot, the verdicts of a frame with its parity errors and its PIXEL_TEST, signatures final. -/
theorem slotsVerdictsSignatures : Obligations.SlotsVerdictsSignatures := by
  refine ⟨fun f x s q n ok up run => slotStart_spec x ok up run,
    fun s q f k => ⟨judgePixel_skips f, fun g h => judgePixel_counts h, judgePixel_sound⟩, fun p k s ok up run nd m sound other => ?_,
    fun p i s ok up run m => ?_, fun p k x r s ok up run nd m sound h at_ testing frame result z => ?_,
    fun s up due flushed m len => ?_⟩
  · obtain ⟨prev, probed, active, voids, fails, unver, kept⟩ := verdictsEnd_views (causeOf s ≠ 0) (verdictsTaken p s)
    have frame := verdictsTaken_frame p s
    simp only [frameView, Prod.mk.injEq] at frame
    obtain ⟨-, test, -, active', -⟩ := frame
    have pixel := kept k.pix (by rw [test]; exact other)
    refine ⟨_, exec_diagVerdictsFinal ok up run, prev, probed, active.trans active', ?_, ?_, ?_, ?_⟩
    all_goals rw [← voidCause_iff]
    · intro v
      obtain ⟨same, counted⟩ := verdictsTaken_void m sound v
      simp only [pixelView, Prod.mk.injEq] at same
      exact ⟨by rw [fails, same.1], by rw [unver, same.2.1], voids.trans counted⟩
    all_goals
      intro v
      have leaves := verdictsTaken_leaves nd m sound (not_not.1 v) other
      rw [← pixel] at leaves
    · exact leaves.1
    · intro f
      obtain ⟨count, zero, -⟩ := leaves.2.1 f
      exact ⟨count, zero, fun third => (verdictLeaves_declared leaves f third).1, fun third => (verdictLeaves_declared leaves f third).2⟩
    · exact leaves.2.2
  · obtain ⟨-, -, -, -, fails, unver, -⟩ := verdictsEnd_views (causeOf s ≠ 0) (verdictsTaken p s)
    obtain ⟨f, u⟩ := verdictsTaken_parity s m
    exact ⟨_, exec_diagVerdictsFinal ok up run, by rw [fails, f], by rw [unver, u]⟩
  · obtain ⟨-, -, -, -, fails, unver, -⟩ := verdictsEnd_views (causeOf s ≠ 0) (verdictsTaken p s)
    have taken := verdictsTaken_frame p s
    simp only [frameView, Prod.mk.injEq] at taken
    obtain ⟨ft, test, -⟩ := taken
    have same := verdictsTaken_tested nd m sound h at_ testing frame (by rw [result]; rfl) z
    simp only [pixelView, Prod.mk.injEq] at same
    exact ⟨_, exec_diagVerdictsFinal ok up run, verdictsEnd_test (test.trans h) testing (by rwa [ft]), by rw [fails, same.1],
      by rw [unver, same.2.1]⟩
  · obtain ⟨t, e, frame, gus, settled⟩ := signaturesFinal_spec up due flushed m len
    exact ⟨t, e, frame, gus, settled⟩

end Sys2Proof.Machine
end

section
/-! The operating second, the lifetime counts and the wear map's second (R87 to R90, R362, R377, R387, R388), and O60. -/

namespace Sys2Proof.Machine

/-! ### The operating second (R362, R377) -/

theorem exec_operatingSecondTick (s : State) : exec .operatingSecondTick s = .next (
    let t := { s with ao := { s.ao with seconds := min (2 ^ 32 - 1) (s.ao.seconds + 1) } }
    if awake s = true then s.nvm.retry.foldl (fun u r => requeueStore r u) { t with nvm := { s.nvm with retry := [] } } else t) := by
  change execOperatingSecondTick s = _
  have count : satInc 32 s.ao.seconds = min (2 ^ 32 - 1) (s.ao.seconds + 1) := Nat.min_comm ..
  cases up : awake s <;> simp [execOperatingSecondTick, count, show ∀ a, awake { s with ao := a } = awake s from fun _ => rfl, up]

/-- A store of whose content none waits comes ahead of the queue. -/
theorem requeueStore_ahead {r : StoreReq} {s : State} (h : ∀ q ∈ s.nvm.queue, q.content ≠ r.content) :
    requeueStore r s = { s with nvm := { s.nvm with queue := r :: s.nvm.queue } } := by
  have none : s.nvm.queue.any (·.content = r.content) = false := by simpa using h
  simp [requeueStore, none]

/-! ### Automatic stores -/

/-- A store of a content alone, of which none waits, is queued; of the stores due again those without header fields are dropped. -/
theorem requestStore_queued {c : Nat} {s : State} (h : ∀ q ∈ s.nvm.queue, q.content ≠ c) :
    requestStore c [] s = { s with nvm := { s.nvm with
      queue := s.nvm.queue ++ [{ content := c }], retry := s.nvm.retry.filter (fun r => !r.patch.isEmpty) } } := by
  have none : s.nvm.queue.any (·.content = c) = false := by simpa using h
  simp [requestStore, queueStore, none]

/-! ### The lifetime block (R387, R388) -/

/-- A change at a place that is there sets that place. -/
theorem modNth_eq_set {α : Type} {l : List α} {i : Nat} {a : α} (f : α → α) (h : l[i]? = some a) : modNth l i f = l.set i (f a) := by
  induction l generalizing i with
  | nil => simp at h
  | cons b l ih =>
    cases i with
    | zero => simp_all [modNth]
    | succ i => simp [modNth, ih (by simpa using h)]

/-- A second of an awake device joins its mode's count and the seconds since the last commit, and where the array is dark no current's. -/
theorem lifetimeSample_spec {n : Nat} {s : State} (up : awake s = true) (h : s.evr.life.modeS[modeCode s.pwr.mode]? = some n) :
    ∃ t, exec .lifetimeSample s = .next t ∧ t = { s with evr := t.evr } ∧ t.evr.sinceS = min 65535 (s.evr.sinceS + 1) ∧
      t.evr.life.modeS = s.evr.life.modeS.set (modeCode s.pwr.mode) (min (2 ^ 32 - 1) (n + 1)) ∧ t.evr.queue = s.evr.queue ∧
      (s.pwr.dark = true → t.evr.life.currentS = s.evr.life.currentS) := by
  change ∃ t, execLifetimeSample s = .next t ∧ _
  unfold execLifetimeSample
  rw [if_neg (by simp [up])]
  refine ⟨_, rfl, rfl, Nat.min_comm .., ?_, rfl, fun d => by simp [d]⟩
  rw [Nat.min_comm]
  exact modNth_eq_set _ h

theorem exec_lifetimeStore {s : State} (up : awake s = true) (on : s.evr.state ≠ 3) :
    exec .lifetimeStore s = .next (if s.evr.sinceS < 60 then s else requestStore 9 [] s) := by
  change execLifetimeStore s = _
  simp [execLifetimeStore, up, on]

/-! ### The wear map (R89, R90) -/

/-- A second of lit time as it joins the wear map's commit. -/
def litSecond (s : State) : State := { s with map := { s.map with sinceCommitS := min 65535 (s.map.sinceCommitS + 1) } }

/-- Blocks whose accumulator has reached the end of the table (R89). -/
def blocksAtEnd (s : State) : Nat := (s.map.droop.map (fun d => scount 64800 (fun c => decide (64 * d.step ≤ c)) s.map.wear)).getD 0

/-- The gains in the back copy and the blocks at the end of the table. -/
def regained (s : State) : State :=
  { s with map := { s.map with gainBack := some (smap (blockGain s.map.droop) s.map.wear), endBlocks := blocksAtEnd s } }

theorem recomputeGains_eq (s : State) : recomputeGains s =
    if s.map.endBlocks = 0 && blocksAtEnd s ≠ 0 then
      raise (ev 0x0605 (blocksAtEnd s) (smax 64800 s.map.wear) ((s.map.droop.map (·.step)).getD 0) 0) (regained s)
    else regained s := by
  unfold recomputeGains regained blocksAtEnd
  dsimp only
  cases s.map.droop <;> rfl

/-- The wear map's part is the same with and without WEAR_END. -/
theorem recomputeGains_map (s : State) : (recomputeGains s).map = (regained s).map := by
  rw [recomputeGains_eq]
  split
  · exact (raise_reacts rfl _).map
  · rfl

/-- Without WEAR_END no other part changes. -/
theorem recomputeGains_quiet {s : State} (h : s.map.endBlocks ≠ 0 ∨ blocksAtEnd s = 0) : recomputeGains s = regained s := by
  rw [recomputeGains_eq, if_neg]
  rcases h with h | h <;> simp [h]

theorem exec_wearGainRecompute (s : State) :
    exec .wearGainRecompute s = .next (if litTime s = true then recomputeGains (litSecond s) else s) := by
  change execWearGainRecompute s = _
  have count : satInc 16 s.map.sinceCommitS = min 65535 (s.map.sinceCommitS + 1) := Nat.min_comm ..
  cases lit : litTime s <;> simp [execWearGainRecompute, litSecond, count, lit]

theorem exec_wearMapStore {s : State} (up : awake s = true) (run : s.nvm.run = none) (h : ∀ q ∈ s.nvm.queue, q.content ≠ 3) :
    exec .wearMapStore s = .next (if 600 ≤ s.map.sinceCommitS then requestStore 3 [] s else s) := by
  change execWearMapStore s = _
  have none : s.nvm.queue.any (·.content = 3) = false := by simpa using h
  simp [execWearMapStore, up, run, none]

/-! ### The obligation -/

/-- Settles O60: one equation for each instant, with a store that is requested (`requestStore_queued`) or due again
(`requeueStore_ahead`), and the gains with and without WEAR_END. -/
theorem lifetimeCounts : Obligations.LifetimeCounts := by
  refine ⟨fun s h => ?_, fun r s up due h => ?_, fun n s => lifetimeSample_spec, fun s up on => ⟨fun c => ?_, fun c h => ?_⟩,
    fun s lit => ?_, fun s dark => ?_, fun s up run h => ⟨fun c => ?_, fun c => ?_⟩⟩
  · rw [exec_operatingSecondTick]
    rcases h with h | h
    · have same : { s.nvm with retry := [] } = s.nvm := by rw [← h]
      cases awake s <;> simp [h, same]
    · simp [h]
  · rw [exec_operatingSecondTick, if_pos up, due, List.foldl_cons, List.foldl_nil]
    exact congrArg Host.Outcome.next (requeueStore_ahead h)
  · rw [exec_lifetimeStore up on, if_pos c]
  · rw [exec_lifetimeStore up on, if_neg (by omega), requestStore_queued h]
  · refine ⟨_, by rw [exec_wearGainRecompute, if_pos lit], ?_⟩
    have ends : blocksAtEnd (litSecond s) =
        (match s.map.droop with | some d => scount 64800 (fun c => decide (64 * d.step ≤ c)) s.map.wear | none => 0) := by
      unfold blocksAtEnd litSecond
      cases s.map.droop <;> rfl
    rw [recomputeGains_map]
    refine ⟨ends, fun h => ?_, rfl, rfl, rfl, rfl⟩
    exact recomputeGains_quiet (s := litSecond s) h
  · rw [exec_wearGainRecompute, if_neg (by simp [dark])]
  · rw [exec_wearMapStore up run h, if_pos c, requestStore_queued h]
  · rw [exec_wearMapStore up run h, if_neg (by omega)]

end Sys2Proof.Machine
end

section
/-! The mapper's word for one pixel (R56 to R61, R84, R91 to R93, R99, R101): its fields read back from a drive word, and the width, span
and gathering factor that a charge target gets. -/

namespace Sys2Proof.Machine

/-! ### The fields of a drive word (R56) -/

theorem wWidth_driveWord {w : Nat} (sp k : Nat) (hw : w < 4096) : wWidth (driveWord w sp k) = w := by
  simp only [wWidth, bits, driveWord, Nat.shiftRight_eq_div_pow]
  omega

theorem wSpan_driveWord {w sp : Nat} (k : Nat) (hw : w < 4096) (hs : sp < 4) : wSpan (driveWord w sp k) = sp := by
  simp only [wSpan, bits, driveWord, Nat.shiftRight_eq_div_pow]
  omega

theorem wGather_driveWord {w sp k : Nat} (hw : w < 4096) (hs : sp < 4) (lo : 1 ≤ k) (hi : k ≤ 32) : wGather (driveWord w sp k) = k := by
  simp only [wGather, bits, driveWord, Nat.shiftRight_eq_div_pow]
  omega

theorem wSingle_driveWord {w sp k : Nat} (hw : w < 4096) (hs : sp < 4) (hi : k ≤ 32) : wSingle (driveWord w sp k) = false := by
  refine Nat.testBit_lt_two_pow ?_
  simp only [driveWord]
  omega

/-! ### Span and width (R92, R93) -/

/-- A clamped charge target's width fits its field, and its span too (R92). -/
theorem spanWidth_fits {q : Nat} (h : q ≤ 131040) : (spanWidth q).1 < 4 ∧ (spanWidth q).2 < 4096 := by
  unfold spanWidth
  repeat' split
  all_goals
    simp only [rdiv]
    omega

/-- Width after the raise from 1 to 2 at 12 cycles in span 0 (R93). -/
def flooredWidth (q n : Nat) : Nat := if (spanWidth q).1 = 0 && (spanWidth q).2 = 1 && n = 12 then 2 else (spanWidth q).2

theorem flooredWidth_fits {q : Nat} (n : Nat) (h : q ≤ 131040) : flooredWidth q n < 4096 := by
  unfold flooredWidth
  split
  · decide
  · exact (spanWidth_fits h).2

/-- Above span 0 no width is raised. -/
theorem flooredWidth_above {q : Nat} (n : Nat) (h : 4095 < q) : flooredWidth q n = (spanWidth q).2 := by
  unfold flooredWidth
  rw [if_neg]
  have : (spanWidth q).1 ≠ 0 := by
    unfold spanWidth
    rw [if_neg (by omega)]
    repeat' split
    all_goals exact Nat.succ_ne_zero _
  simp [this]

theorem spanWidth_span0 {q : Nat} (h : q ≤ 4095) : spanWidth q = (0, q) := if_pos h

theorem spanWidth_span1 {q : Nat} (lo : 4095 < q) (hi : q ≤ 16380) : spanWidth q = (1, (2 * q + 4) / 8) := by
  rw [spanWidth, if_neg (by omega), if_pos hi]
  rfl

theorem spanWidth_span2 {q : Nat} (lo : 16380 < q) (hi : q ≤ 65520) : spanWidth q = (2, (2 * q + 16) / 32) := by
  rw [spanWidth, if_neg (by omega), if_neg (by omega), if_pos hi]
  rfl

theorem spanWidth_span3 {q : Nat} (h : 65520 < q) : spanWidth q = (3, (2 * q + 32) / 64) := by
  rw [spanWidth, if_neg (by omega), if_neg (by omega), if_neg (by omega)]
  rfl

/-! ### Gathering (R99, R101) -/

theorem gatherFactor_long {sp w : Nat} (n : Nat) (h : w = 0 ∨ minOn sp ≤ w) : gatherFactor sp w n = 1 := by
  rcases h with rfl | h
  · simp [gatherFactor]
  · simp [gatherFactor, h]

theorem gatherFactor_short {sp w : Nat} (n : Nat) (pos : w ≠ 0) (h : w < minOn sp) :
    gatherFactor sp w n = min n ((minOn sp + w - 1) / w) := by
  rw [gatherFactor, if_neg (by omega), if_neg pos]
  rfl

/-- From 1 to the repeat count. -/
theorem gatherFactor_range (sp w : Nat) {n : Nat} (h : 1 ≤ n) : 1 ≤ gatherFactor sp w n ∧ gatherFactor sp w n ≤ n := by
  rcases Classical.em (w = 0 ∨ minOn sp ≤ w) with c | c
  · rw [gatherFactor_long n c]
    exact ⟨le_rfl, h⟩
  · have up : 1 ≤ (minOn sp + w - 1) / w := (Nat.one_le_div_iff (by omega)).2 (by omega)
    rw [gatherFactor_short n (by omega) (by omega)]
    exact ⟨le_min h up, min_le_left _ _⟩

/-! ### One pixel (R82, R84, R91) -/

section
variable {y : Nat → Nat} {d : Nat → Bool} {p : Nat}

/-- Charge target after its clamp (R91). -/
def clampedTarget (y : Nat → Nat) (d : Nat → Bool) (lift : Bool) (gain gw p : Nat) : Nat :=
  min (quantaOf (y p + if lift then liftOf y d p else 0) gain gw) 131040

theorem mapPixel_disabled (lift : Bool) (gain gw n : Nat) (h : d p = true) : (mapPixel y d lift gain gw n p).word = 0 := by
  unfold mapPixel
  rw [if_pos h]

/-- The word of a clamped charge target. -/
def targetWord (q n : Nat) : Nat := driveWord (flooredWidth q n) (spanWidth q).1 (gatherFactor (spanWidth q).1 (flooredWidth q n) n)

/-- The word of a pixel that is not disabled comes from its charge target alone. The target is a variable here: the kernel would
otherwise try to evaluate the quotient of R91. -/
theorem mapPixel_enabled {lift : Bool} {gain gw t : Nat} (n : Nat) (h : d p = false)
    (ht : quantaOf (y p + if lift then liftOf y d p else 0) gain gw = t) :
    ∃ c f l, mapPixel y d lift gain gw n p = ⟨targetWord (min t 131040) n, c, f, l⟩ := by
  unfold mapPixel
  rewrite [h, if_neg Bool.false_ne_true]
  extract_lets l q
  have same : q = t := ht
  clear_value q l
  subst same
  unfold targetWord flooredWidth
  generalize spanWidth (min q 131040) = c
  obtain ⟨sp, w⟩ := c
  exact ⟨_, _, _, rfl⟩

theorem mapPixel_word (lift : Bool) (gain gw n : Nat) (h : d p = false) :
    (mapPixel y d lift gain gw n p).word = targetWord (clampedTarget y d lift gain gw p) n := by
  obtain ⟨c, f, l, e⟩ := mapPixel_enabled (lift := lift) (gain := gain) (gw := gw) n h rfl
  rw [e]
  rfl

/-- The fields of a clamped target's word. -/
theorem targetWord_fields {q n : Nat} (fits : q ≤ 131040) (lo : 8 ≤ n) (hi : n ≤ 32) :
    let w := targetWord q n
    wSpan w = (spanWidth q).1 ∧ wWidth w = flooredWidth q n ∧ wSingle w = false ∧ wGather w = gatherFactor (wSpan w) (wWidth w) n := by
  have span := (spanWidth_fits fits).1
  have width := flooredWidth_fits n fits
  have gather := gatherFactor_range (spanWidth q).1 (flooredWidth q n) (n := n) (by omega)
  have hs : wSpan (targetWord q n) = (spanWidth q).1 := wSpan_driveWord _ width span
  have hw : wWidth (targetWord q n) = flooredWidth q n := wWidth_driveWord _ _ width
  refine ⟨hs, hw, wSingle_driveWord width span (gather.2.trans hi), ?_⟩
  rw [hs, hw]
  exact wGather_driveWord width span gather.1 (gather.2.trans hi)

/-- Span, width and gathering factor of a clamped charge target's word (R92, R93, R101). -/
theorem targetWord_spec {q n : Nat} (fits : q ≤ 131040) (lo : 8 ≤ n) (hi : n ≤ 32) :
    let w := wWidth (targetWord q n)
    let sp := wSpan (targetWord q n)
    (q ≤ 4095 → sp = 0 ∧ w = (if q = 1 ∧ n = 12 then 2 else q)) ∧
    (4095 < q → q ≤ 16380 → sp = 1 ∧ w = (2 * q + 4) / 8) ∧
    (16380 < q → q ≤ 65520 → sp = 2 ∧ w = (2 * q + 16) / 32) ∧
    (65520 < q → sp = 3 ∧ w = (2 * q + 32) / 64) ∧
    wSingle (targetWord q n) = false ∧
    (w = 0 ∨ minOn sp ≤ w → wGather (targetWord q n) = 1) ∧
    (w ≠ 0 → w < minOn sp → wGather (targetWord q n) = min n ((minOn sp + w - 1) / w)) := by
  obtain ⟨span, width, single, gather⟩ := targetWord_fields fits lo hi
  refine ⟨fun h => ?_, fun l h => ?_, fun l h => ?_, fun l => ?_, single, fun h => ?_, fun z h => ?_⟩
  · rw [span, width, flooredWidth, spanWidth_span0 h]
    exact ⟨rfl, if_congr (by simp) rfl rfl⟩
  · rw [span, width, flooredWidth_above n l, spanWidth_span1 l h]
    exact ⟨rfl, rfl⟩
  · rw [span, width, flooredWidth_above n (by omega), spanWidth_span2 l h]
    exact ⟨rfl, rfl⟩
  · rw [span, width, flooredWidth_above n (by omega), spanWidth_span3 l]
    exact ⟨rfl, rfl⟩
  · rw [gather, gatherFactor_long n h]
  · rw [gather, gatherFactor_short n z h]

/-- A lift is at most a quarter of the pixel's own code (R84). -/
theorem liftOf_le (y : Nat → Nat) (d : Nat → Bool) (p : Nat) : liftOf y d p ≤ y p / 4 := min_le_right _ _

/-- Without a disabled neighbour there is no lift (R84). -/
theorem liftOf_sound (y : Nat → Nat) (h : ∀ i ∈ edgeNeighbours p, d i = false) : liftOf y d p = 0 := by
  have none : ∀ l : List Nat, (∀ i ∈ l, d i = false) → l.foldl (fun a i => if d i then a + y i / 4 else a) 0 = 0 := by
    intro l
    induction l with
    | nil => exact fun _ => rfl
    | cons i l ih => exact fun h => by simp [h i, ih (fun j m => h j (List.mem_cons_of_mem _ m))]
  rw [liftOf, none _ h, Nat.zero_min]

end

end Sys2Proof.Machine
end

section
/-! From layer pixel to composed code (R123, R127 to R129, R159, R160): an unscaled layer with the coefficients of reset shows its source
pixels, and a look-up table of reset changes no code. -/

namespace Sys2Proof.Machine

/-! ### Source pixels (R123) -/

theorem leVal_lt (l : List Byte) : leVal l < 256 ^ l.length := by
  induction l with
  | nil => decide
  | cons b l ih =>
    have := b.isLt
    simp only [leVal, List.length_cons, Nat.pow_succ]
    omega

theorem storeBytes_lt (s : State) (a k : Nat) : leVal (storeBytes s a k) < 256 ^ k := by
  simpa [storeBytes] using leVal_lt (storeBytes s a k)

/-- Luminance has 16 bits, alpha 8 (R123). -/
theorem srcPixel_fits (s : State) (port : Nat) (y : LayerSnap) (x row : Nat) :
    (srcPixel s port y x row).1 ≤ 65535 ∧ (srcPixel s port y x row).2 ≤ 255 := by
  unfold srcPixel
  extract_lets c a
  split
  · exact ⟨Nat.zero_le _, Nat.zero_le _⟩
  · rename_i b _ _ _ _
    have one : b 1 < 256 := storeBytes_lt s a 1
    have two : b 2 < 65536 := storeBytes_lt s a 2
    split
    all_goals
      dsimp only
      omega

/-! ### Scaling (R159, R160) -/

/-- Unscaled, a destination coordinate is its source coordinate, at phase 0. -/
theorem srcPos_same {x w : Nat} (h : x < w) : srcPos x w w = ((x : Int), 0) := by
  have pos : (2 * w : Int) ≠ 0 := by omega
  have whole : (((2 * x + 1) * w - w : Int) / (2 * w)) = x := by
    rw [show ((2 * x + 1) * w - w : Int) = x * (2 * w) by ring, Int.mul_ediv_cancel _ pos]
  have phase : (128 * (((2 * x + 1) * w - w : Int) - x * (2 * w)) + 2 * w) / (2 * (2 * w)) = 0 := by
    rw [show (128 * (((2 * x + 1) * w - w : Int) - x * (2 * w)) + 2 * w) = 2 * w by ring]
    exact Int.ediv_eq_zero_of_lt (by omega) (by omega)
  simp only [srcPos, whole, phase]
  rfl

/-- An entry of a copy as at reset. -/
@[simp] theorem entryOf_reset (reset : Nat → Int) (i : Nat) : entryOf reset [] i = reset i := rfl

/-- At phase 0 the coefficients of reset take the middle tap alone (R162). -/
theorem tapsOf_horizontal {s : State} {c : Nat} (h : (s.scl.tables.getD (2 * c) {}).front = []) :
    tapsOf s (2 * c) 0 = [0, 0, 0, 256, 0, 0, 0, 0] := by
  have even : 2 * c % 2 = 0 := by omega
  simp only [tapsOf, h, entryOf_reset]
  simp [tapCount, coefReset, even, List.range_succ]

theorem tapsOf_vertical {s : State} {c : Nat} (h : (s.scl.tables.getD (2 * c + 1) {}).front = []) :
    tapsOf s (2 * c + 1) 0 = [0, 0, 256, 0, 0, 0] := by
  have odd : (2 * c + 1) % 2 = 1 := by omega
  simp only [tapsOf, h, entryOf_reset]
  simp [tapCount, coefReset, odd, List.range_succ]

/-- The middle of the eight columns that an inner coordinate's taps read is that coordinate. -/
theorem tapCoords_horizontal {x w : Nat} (h : x < w) :
    ∃ a b c e f g k, tapCoords x 3 8 w = [a, b, c, x, e, f, g, k] := by
  have mid : (clampI 0 ((w : Int) - 1) ((x : Int) - 3 + 3)).toNat = x := by
    unfold clampI
    omega
  simp [tapCoords, List.range_succ, clampI] at mid ⊢
  omega

theorem tapCoords_vertical {x w : Nat} (h : x < w) :
    ∃ a b c e f, tapCoords x 2 6 w = [a, b, x, c, e, f] := by
  simp [tapCoords, List.range_succ, clampI]
  omega

theorem filterSum_horizontal (a b c v e f g k : Int) : filterSum [0, 0, 0, 256, 0, 0, 0, 0] [a, b, c, v, e, f, g, k] = v := by
  simp [filterSum]
  omega

theorem filterSum_vertical (a b v c e f : Int) : filterSum [0, 0, 256, 0, 0, 0] [a, b, v, c, e, f] = v := by
  simp [filterSum]
  omega

/-- A channel through the coefficients of reset, at phase 0 both ways: the value in the middle. -/
theorem filterChannel_middle (f : Nat → Nat → Int) {x row w h : Nat} {lo hi top : Int} (hx : x < w) (hr : row < h) (floor : 0 ≤ f x row)
    (ceil : f x row ≤ top) (wide : lo ≤ 0) (high : top ≤ hi) :
    filterChannel [0, 0, 0, 256, 0, 0, 0, 0] [0, 0, 256, 0, 0, 0]
      ((tapCoords row 2 6 h).map (fun r => (tapCoords x 3 8 w).map (fun q => f q r))) lo hi top = (f x row).toNat := by
  obtain ⟨a, b, c, e, g, i, j, cols⟩ := tapCoords_horizontal hx
  obtain ⟨a', b', c', e', g', rows⟩ := tapCoords_vertical hr
  have inner : clampI lo hi (f x row) = f x row := by
    unfold clampI
    omega
  have outer : clampI 0 top (f x row) = f x row := by
    unfold clampI
    omega
  simp only [cols, rows, List.map_cons, List.map_nil, filterChannel, filterSum_horizontal, filterSum_vertical, inner, outer]

/-- Unscaled, with the coefficients of reset, a sample is the source pixel. -/
theorem scaledPixel_unscaled {s : State} {x row : Nat} {y : LayerSnap} (port : Nat) (hw : y.cfg.srcW = y.cfg.dstW)
    (hh : y.cfg.srcH = y.cfg.dstH) (hx : x < y.cfg.dstW) (hr : row < y.cfg.dstH)
    (th : (s.scl.tables.getD (2 * y.cfg.coeffSet) {}).front = []) (tv : (s.scl.tables.getD (2 * y.cfg.coeffSet + 1) {}).front = []) :
    scaledPixel s port y x row = srcPixel s port y x row := by
  have fits := srcPixel_fits s port y x row
  have code := filterChannel_middle (fun q r => ((srcPixel s port y q r).1 : Int)) (lo := -65536) (hi := 131071) (top := 65535) hx hr
    (by omega) (by omega) (by omega) (by omega)
  have alpha := filterChannel_middle (fun q r => ((srcPixel s port y q r).2 : Int)) (lo := -256) (hi := 511) (top := 255) hx hr
    (by omega) (by omega) (by omega) (by omega)
  simp only [Int.toNat_natCast] at code alpha
  simp only [scaledPixel, hw, hh, srcPos_same hx, srcPos_same hr, tapsOf_horizontal th, tapsOf_vertical tv, List.map_map,
    Function.comp_def, code, alpha]

/-! ### Look-up tables (R128) -/

/-- A table whose knots lie on the diagonal changes no code. -/
theorem lutCode_diagonal {e : Nat → Int} {size step x : Nat} (pos : 0 < step) (knots : ∀ i, i < size → e i = step * i)
    (full : step * size = 65536) (h : x < 65536) : lutCode e size step x = x := by
  have inside : x / step < size := (Nat.div_lt_iff_lt_mul pos).2 (by rw [Nat.mul_comm]; omega)
  have low : (if size ≤ x / step then (65536 : Int) else e (x / step)) = step * (x / step : Nat) := by
    rw [if_neg (by omega), knots _ inside]
  have high : (if size ≤ x / step + 1 then (65536 : Int) else e (x / step + 1)) = step * ((x / step : Nat) + 1) := by
    split
    · rw [show size = x / step + 1 by omega] at full
      exact_mod_cast full.symm
    · exact knots _ (by omega)
  have half : (step / 2 : Int) / step = 0 := Int.ediv_eq_zero_of_lt (by omega) (by omega)
  have slope : ((step * ((x / step : Nat) + 1) - step * (x / step : Nat) : Int) * (x % step : Nat) + step / 2) / step = (x % step : Nat) := by
    rw [show ((step * ((x / step : Nat) + 1) - step * (x / step : Nat) : Int) * (x % step : Nat) + step / 2)
        = step / 2 + step * (x % step : Nat) by ring, Int.add_mul_ediv_left _ _ (by omega), half, Int.zero_add]
  have whole : (step * (x / step : Nat) + (x % step : Nat) : Int) = x := by exact_mod_cast Nat.div_add_mod x step
  simp only [lutCode, low, high, slope, whole, clampI]
  omega

/-- A layer's table as at reset changes no code, nor does the one after blending. -/
theorem tableCode_reset {s : State} {t x : Nat} (h : x < 65536) (front : (s.cmp.tables.getD t {}).front = []) :
    (t < 6 → tableCode s t 64 x = x) ∧ (t = 6 → tableCode s t 16 x = x) := by
  unfold tableCode
  rw [front]
  refine ⟨fun lt => ?_, fun eq => ?_⟩
  · exact lutCode_diagonal (by decide) (fun i _ => by simp [lutReset, lt]) (by simp [lutSize, lt]) h
  · exact lutCode_diagonal (by decide) (fun i _ => by simp [lutReset, eq]) (by simp [lutSize, eq]) h

/-! ### Blending (R127, R129) -/

/-- A layer contributes inside its rectangle alone. -/
theorem blendLayer_outside {s : State} {p b : Nat} {y : LayerSnap} (port : Nat) (h : inDst y.cfg p = false) : blendLayer s port p b y = b := by
  simp [blendLayer, h]

end Sys2Proof.Machine
end

section
/-! An engine's next tile (R166): its own queue, a steal within its cluster, a steal across clusters, or none. -/

namespace Sys2Proof.Machine

/-! ### The fullest queue -/

/-- A fold that keeps the greater of two ends at an element, or at its start, that no other exceeds. -/
theorem foldl_greatest (f : Nat → Nat) (l : List Nat) (b : Nat) :
    let r := l.foldl (fun b e => if f b < f e then e else b) b
    (r = b ∨ r ∈ l) ∧ f b ≤ f r ∧ ∀ w ∈ l, f w ≤ f r := by
  induction l generalizing b with
  | nil => simp
  | cons e l ih =>
    obtain ⟨place, least, most⟩ := ih (if f b < f e then e else b)
    have both : f b ≤ f (if f b < f e then e else b) ∧ f e ≤ f (if f b < f e then e else b) := by
      split <;> omega
    refine ⟨?_, both.1.trans least, List.forall_mem_cons.2 ⟨both.2.trans least, most⟩⟩
    rcases place with place | place
    · simp only [List.foldl_cons, place, List.mem_cons]
      split <;> simp
    · exact .inr (List.mem_cons_of_mem _ place)

/-- The fullest queue of a range is in it, holds a tile, and no other of the range holds more. -/
theorem fullest_spec {s : State} {a v : Nat} {l : List Nat} (h : fullest s (a :: l) = some v) :
    v ∈ a :: l ∧ (engOf s v).queue ≠ [] ∧ ∀ w, w ∈ a :: l → (engOf s w).queue.length ≤ (engOf s v).queue.length := by
  obtain ⟨place, -, most⟩ := foldl_greatest (fun e => (engOf s e).queue.length) (a :: l) a
  unfold fullest at h
  dsimp only [List.headD_cons] at h
  split at h
  · cases h
  · rename_i holds
    cases h
    exact ⟨place.elim (fun first => List.mem_cons.2 (.inl first)) id, by simpa using holds, most⟩

/-! ### What a steal request gets -/

/-- The queue that a steal request in a range takes from: the one it was put to, or the fullest. -/
def stealGives (s : State) (l : List Nat) (o : Option Nat) (v : Nat) : Prop :=
  (o = some v ∧ v ∈ l ∧ (engOf s v).queue ≠ []) ∨ ((∀ w, o = some w → w ∉ l) ∧ fullest s l = some v)

/-- A steal request in a range gets nothing. -/
def stealFails (s : State) (l : List Nat) (o : Option Nat) : Prop :=
  (∃ v ∈ l, o = some v ∧ (engOf s v).queue = []) ∨ ((∀ w, o = some w → w ∉ l) ∧ fullest s l = none)

/-- A request that names a queue of the range keeps to it. -/
theorem stealFrom_asked {s : State} {l : List Nat} {v : Nat} (h : v ∈ l) :
    stealFrom s l (some v) = if (engOf s v).queue.isEmpty then none else some v := by
  simp [stealFrom, Option.filter, h]

/-- Any other is put to the fullest queue. -/
theorem stealFrom_free {s : State} {l : List Nat} {o : Option Nat} (h : ∀ w, o = some w → w ∉ l) : stealFrom s l o = fullest s l := by
  cases o with
  | none => rfl
  | some w => simp [stealFrom, Option.filter, h w rfl]

theorem stealGives.eq {s : State} {l : List Nat} {o : Option Nat} {v : Nat} (h : stealGives s l o v) : stealFrom s l o = some v := by
  rcases h with ⟨rfl, m, holds⟩ | ⟨free, full⟩
  · rw [stealFrom_asked m, if_neg (by simpa using holds)]
  · rw [stealFrom_free free, full]

theorem stealGives.mem {s : State} {l : List Nat} {o : Option Nat} {v : Nat} (h : stealGives s l o v) (some' : l ≠ []) : v ∈ l := by
  rcases h with ⟨-, m, -⟩ | ⟨-, full⟩
  · exact m
  · obtain ⟨a, t, rfl⟩ := List.exists_cons_of_ne_nil some'
    exact (fullest_spec full).1

theorem stealFails.eq {s : State} {l : List Nat} {o : Option Nat} (h : stealFails s l o) : stealFrom s l o = none := by
  rcases h with ⟨v, m, rfl, empty⟩ | ⟨free, full⟩
  · rw [stealFrom_asked m, if_pos (by simp [empty])]
  · rw [stealFrom_free free, full]

/-! ### The queues of a cluster and of the others (R165) -/

/-- The other engines of an engine's cluster. -/
def clusterMates (e : Nat) : List Nat := (List.range 24).filter (fun i => i / 6 = e / 6 && i ≠ e)

/-- The engines of the other clusters. -/
def strangers (e : Nat) : List Nat := (List.range 24).filter (fun i => i / 6 ≠ e / 6)

theorem clusterMates_ne_nil {e : Nat} (h : e < 24) : clusterMates e ≠ [] := by
  have all : ∀ e < 24, clusterMates e ≠ [] := by decide
  exact all e h

theorem strangers_ne_nil {e : Nat} (h : e < 24) : strangers e ≠ [] := by
  have all : ∀ e < 24, strangers e ≠ [] := by decide
  exact all e h

theorem mem_clusterMates {e v : Nat} (h : v ∈ clusterMates e) : v < 24 ∧ v ≠ e := by
  simp only [clusterMates, List.mem_filter, List.mem_range, Bool.and_eq_true, decide_eq_true_eq] at h
  exact ⟨h.1, h.2.2⟩

theorem mem_strangers {e v : Nat} (h : v ∈ strangers e) : v < 24 ∧ v ≠ e := by
  simp only [strangers, List.mem_filter, List.mem_range, decide_eq_true_eq] at h
  exact ⟨h.1, fun same => h.2 (same ▸ rfl)⟩

/-! ### The steps of R166 -/

section
variable {e : Nat} {near far : Option Nat} {s : State}

theorem exec_engineNextTile (h : e < 24) (run : composing s = true) (busy : (engOf s e).idle = false) (free : (engOf s e).tile = none) :
    exec (.engineNextTile e near far) s = .next (nextTile e near far s) := by
  change execEngineNextTile e near far s = _
  simp [execEngineNextTile, guarded, h, run, busy, free]

theorem nextTile_own {t : Nat} {q : List Nat} (own : (engOf s e).queue = t :: q) :
    nextTile e near far s = modEng e (fun k => { k with queue := q, tile := some t, stolen := false }) s := by
  simp [nextTile, own]

/-- What a steal request within the cluster gets, and one across clusters. -/
theorem nextTile_asks (empty : (engOf s e).queue = []) : nextTile e near far s =
    match (if s.scl.comp.stealEn then stealFrom s (clusterMates e) near else none),
      (if s.scl.comp.stealEn && s.scl.comp.xstealEn then stealFrom s (strangers e) far else none) with
    | some v, _ => steal e v (modComp (fun k => { k with stealL := k.stealL + 1 }) s)
    | none, some v => steal e v (modComp (fun k => { k with stealR := k.stealR + 1 }) s)
    | none, none => modEng e (fun k => { k with idle := true }) s := by
  unfold nextTile
  rw [empty]
  rfl

theorem nextTile_near {v : Nat} (empty : (engOf s e).queue = []) (on : s.scl.comp.stealEn = true)
    (h : stealGives s (clusterMates e) near v) :
    nextTile e near far s = steal e v (modComp (fun k => { k with stealL := k.stealL + 1 }) s) := by
  rw [nextTile_asks empty, if_pos on, h.eq]

theorem nextTile_far {v : Nat} (empty : (engOf s e).queue = []) (on : s.scl.comp.stealEn = true) (across : s.scl.comp.xstealEn = true)
    (none : stealFails s (clusterMates e) near) (h : stealGives s (strangers e) far v) :
    nextTile e near far s = steal e v (modComp (fun k => { k with stealR := k.stealR + 1 }) s) := by
  simp [nextTile_asks empty, on, across, none.eq, h.eq]

theorem nextTile_idle (empty : (engOf s e).queue = [])
    (none : s.scl.comp.stealEn = false ∨ (stealFails s (clusterMates e) near ∧ (s.scl.comp.xstealEn = false ∨ stealFails s (strangers e) far))) :
    nextTile e near far s = modEng e (fun k => { k with idle := true }) s := by
  rw [nextTile_asks empty]
  rcases none with off | ⟨first, off | second⟩
  · simp [off]
  · simp [off, first.eq]
  · simp [first.eq, second.eq]

/-! ### What a steal leaves -/

theorem engOf_modEng_same (f : Engine → Engine) (h : e < s.scl.engines.length) : engOf (modEng e f s) e = f (engOf s e) := by
  rw [engOf_modEng, if_pos ⟨rfl, h⟩]

theorem engOf_modEng_other {j : Nat} (f : Engine → Engine) (h : j ≠ e) : engOf (modEng e f s) j = engOf s j := by
  rw [engOf_modEng, if_neg (fun c => h c.1)]

/-- The thief has the last tile of the victim's queue, the victim the others; no other engine changes, and the compose does not. -/
theorem steal_spec {v : Nat} (he : e < s.scl.engines.length) (hv : v < s.scl.engines.length) (two : v ≠ e) :
    let u := steal e v s
    (engOf u e).tile = (engOf s v).queue.getLast? ∧ (engOf u e).stolen = true ∧ (engOf u v).queue = (engOf s v).queue.dropLast ∧
      u.scl.comp = s.scl.comp ∧ ∀ j, j ≠ e → j ≠ v → engOf u j = engOf s j := by
  have le : e < (modEng v (fun k => { k with queue := k.queue.dropLast }) s).scl.engines.length := by simpa [modEng] using he
  have thief := engOf_modEng_same (fun k => { k with tile := (engOf s v).queue.getLast?, stolen := true }) le
  refine ⟨congrArg (·.tile) thief, congrArg (·.stolen) thief, ?_, rfl, fun j hj hjv => ?_⟩
  · unfold steal
    rw [engOf_modEng_other _ two, engOf_modEng_same _ hv]
  · unfold steal
    rw [engOf_modEng_other _ hj, engOf_modEng_other _ hjv]

end

end Sys2Proof.Machine
end

section
/-! Planes held by tiles (R157), and a tile that retires or is read back (R82, R108, R167, R183). -/

namespace Sys2Proof.Machine

/-! ### Pixels of a tile (R157) -/

theorem pixCol_tilePixel (t k : Nat) : pixCol (tilePixel t k) = 48 * (t % 30) + k % 48 := by
  simp only [pixCol, tilePixel, pixIndex]
  omega

theorem pixRow_tilePixel (t k : Nat) : pixRow (tilePixel t k) = 48 * (t / 30) + k / 48 := by
  simp only [pixRow, tilePixel, pixIndex]
  omega

theorem tileOf_tilePixel {k : Nat} (t : Nat) (h : k < 2304) : tileOf (tilePixel t k) = t := by
  simp only [tileOf, pixCol_tilePixel, pixRow_tilePixel]
  omega

theorem posInTile_lt (p : Nat) : posInTile p < 2304 := by
  simp only [posInTile]
  omega

/-- Every pixel is the one at its place of its tile. -/
theorem tilePixel_posInTile (p : Nat) : tilePixel (tileOf p) (posInTile p) = p := by
  simp only [tilePixel, pixIndex, tileOf, posInTile, pixRow, pixCol]
  omega

/-! ### Planes -/

/-- The words that a function gives the pixels of a tile, row by row. -/
def tileOfFun (f : Nat → Nat) (t : Nat) : List Nat := (List.range 2304).map (fun k => f (tilePixel t k))

theorem planeGet_planePut_same (l : List (Nat × List Nat)) (f : Nat → Nat) {t p : Nat} (h : tileOf p = t) :
    planeGet (planePut l t (tileOfFun f t)) p = f p := by
  have some' : tileOfFun f t ≠ [] := by simp [tileOfFun]
  subst h
  rw [planeGet, planePut, assocGet_assocSet_same some']
  simp [tileOfFun, List.getD_eq_getElem?_getD, posInTile_lt, tilePixel_posInTile]

theorem planeGet_planePut_other (l : List (Nat × List Nat)) (w : List Nat) {t p : Nat} (h : tileOf p ≠ t) :
    planeGet (planePut l t w) p = planeGet l p := by
  rw [planeGet, planePut, assocGet_assocSet_other h, planeGet]

/-- A tile's words read back in order. -/
theorem planeGet_tile (l : List (Nat × List Nat)) (f : Nat → Nat) (t : Nat) :
    (List.range 2304).map (fun k => planeGet (planePut l t (tileOfFun f t)) (tilePixel t k)) = tileOfFun f t :=
  List.map_congr_left (fun _ h => planeGet_planePut_same l f (tileOf_tilePixel t (List.mem_range.1 h)))

/-! ### The words of a retired tile (R82, R108) -/

/-- The word that a tile's mapping writes for a pixel: the probe word, or the mapper's. -/
def writtenWord (s : State) (port p : Nat) : Nat :=
  if s.diag.probed.contains p then probeWord else
    (mapPixel (composedCode s port) s.scl.comp.defects.contains s.scl.comp.liftEn s.scl.comp.gain (gainAt s p) s.scl.comp.rep p).word

/-- While a tile is mapped every pixel's code is its composed code. -/
theorem codeAt_tileCodes (s : State) (port t : Nat) : codeAt s port t (tileCodes s port t) = composedCode s port := by
  funext p
  unfold codeAt
  split
  · rename_i h
    subst h
    simp [tileCodes, List.getD_eq_getElem?_getD, posInTile_lt, tilePixel_posInTile]
  · rfl

section
variable (e t clocks stall : Nat) (s : State)

theorem zip_tileMapped : ((List.range 2304).zip (tileMapped s (e / 6) t (tileCodes s (e / 6) t))).map
    (fun c => if s.diag.probed.contains (tilePixel t c.1) then probeWord else c.2.word) = tileOfFun (writtenWord s (e / 6)) t := by
  rw [tileMapped, codeAt_tileCodes]
  dsimp only
  rw [← List.map_prod_left_eq_zip, List.map_map]
  rfl

/-- The words of a retired tile in the shadow registers, and their terms in the sums. -/
theorem retireTile_arr :
    (retireTile e t clocks stall s).arr.shadow = planePut s.arr.shadow t (tileOfFun (writtenWord s (e / 6)) t) ∧
    (retireTile e t clocks stall s).arr.sumShadow =
      addTile t (tileOfFun (writtenWord s (e / 6)) t) s.arr.trim s.arr.dis s.arr.sumShadow ∧
    (retireTile e t clocks stall s).arr.active = s.arr.active := by
  rw [← zip_tileMapped]
  unfold retireTile modComp modEng
  exact ⟨rfl, by dsimp only, rfl⟩

theorem retireTile_comp : (retireTile e t clocks stall s).scl.comp.retired = insertNat t s.scl.comp.retired ∧
    (retireTile e t clocks stall s).scl.comp.codes = planePut s.scl.comp.codes t (tileOfFun (composedCode s (e / 6)) t) ∧
    (retireTile e t clocks stall s).scl.comp.running = s.scl.comp.running := ⟨rfl, rfl, rfl⟩

/-- An engine whose tile has retired (R172). -/
def freedEngine (busy stall : Nat) (g : Engine) : Engine :=
  { g with
    tile := none, stolen := false
    cur := { g.cur with
      tiles := g.cur.tiles + 1, stolen := g.cur.stolen + (if g.stolen then 1 else 0), busy := satAdd 24 g.cur.busy busy
      stall := satAdd 24 g.cur.stall stall } }

theorem retireTile_eng (h : e < s.scl.engines.length) :
    engOf (retireTile e t clocks stall s) e = freedEngine (tileWork s.scl.comp t).2 stall (engOf s e) := by
  have engines : (retireTile e t clocks stall s).scl.engines = modNth s.scl.engines e (freedEngine (tileWork s.scl.comp t).2 stall) := rfl
  unfold engOf
  rw [engines, modNth_getD, if_pos ⟨rfl, h⟩]

end

/-! ### TILE_RETIRED -/

/-- What counting abandoned passes leaves: the words that the tile's mapping writes, and its composed codes. -/
theorem composedCode_countAbandoned (e t port : Nat) (s : State) : composedCode (countAbandoned e t s) port = composedCode s port := by
  obtain ⟨n, f, b, l, h⟩ := countAbandoned_effect e t s
  rw [h]
  rfl

theorem writtenWord_countAbandoned (e t port : Nat) (s : State) : writtenWord (countAbandoned e t s) port = writtenWord s port := by
  funext p
  unfold writtenWord
  rw [composedCode_countAbandoned]
  obtain ⟨n, f, b, l, h⟩ := countAbandoned_effect e t s
  rw [h]
  rfl

theorem exec_tileRetired {e t : Nat} (clocks stall : Nat) {s : State} (h : e < 24) (run : composing s = true) (tile : (engOf s e).tile = some t) :
    exec (.tileRetired e clocks stall) s = .next (retireTile e t clocks stall (countAbandoned e t s)) := by
  change execTileRetired e clocks stall s = _
  simp [execTileRetired, guarded, h, run, tile]

/-- What a tile that retires leaves. -/
theorem tileRetired_spec {e t : Nat} (clocks stall : Nat) {s : State} (h : e < 24) (len : s.scl.engines.length = 24) (run : composing s = true)
    (tile : (engOf s e).tile = some t) :
    ∃ u, exec (.tileRetired e clocks stall) s = .next u ∧ (∀ i, i ∈ u.scl.comp.retired ↔ i = t ∨ i ∈ s.scl.comp.retired) ∧
      (engOf u e).tile = none ∧ (engOf u e).cur.tiles = (engOf s e).cur.tiles + 1 ∧
      (∀ p, tileOf p = t → planeGet u.scl.comp.codes p = composedCode s (e / 6) p ∧ planeGet u.arr.shadow p = writtenWord s (e / 6) p) ∧
      (∀ p, tileOf p ≠ t → planeGet u.arr.shadow p = planeGet s.arr.shadow p) ∧
      u.arr.sumShadow = addTile t ((List.range 2304).map (fun k => planeGet u.arr.shadow (tilePixel t k))) s.arr.trim s.arr.dis s.arr.sumShadow ∧
      u.arr.active = s.arr.active ∧ u.scl.comp.running = true := by
  refine ⟨_, exec_tileRetired clocks stall h run tile, ?_⟩
  have code := composedCode_countAbandoned e t (e / 6) s
  have word := writtenWord_countAbandoned e t (e / 6) s
  have tiles := (engOf_countAbandoned e t e s).2.2.2.2.1
  obtain ⟨n, f, b, l, worked⟩ := countAbandoned_effect e t s
  generalize countAbandoned e t s = w at code word tiles worked ⊢
  have place : e < w.scl.engines.length := by
    rw [worked]
    simpa [len] using h
  have running : w.scl.comp.running = true := by
    rw [worked]
    simp only [composing, Bool.and_eq_true] at run
    exact run.1.2
  have same : w.arr = s.arr ∧ w.scl.comp.retired = s.scl.comp.retired := by
    rw [worked]
    exact ⟨rfl, rfl⟩
  obtain ⟨shadow, sums, active⟩ := retireTile_arr e t clocks stall w
  obtain ⟨retired, codes, runs⟩ := retireTile_comp e t clocks stall w
  rw [retireTile_eng e t clocks stall w place, shadow, sums, active, retired, codes, runs, word, code, same.1, same.2]
  refine ⟨fun i => mem_insertNat i t _, rfl, congrArg (· + 1) tiles,
    fun p hp => ⟨planeGet_planePut_same _ _ hp, planeGet_planePut_same _ _ hp⟩, fun p hp => planeGet_planePut_other _ _ hp, ?_, rfl,
    running⟩
  rw [planeGet_tile]

/-! ### SIG_READBACK_TILE (R183) -/

/-- The word that a pixel reads back: the one that a defect of the path puts in its place, or the shadow word. -/
def readWord (d : List (Nat × Nat)) (s : State) (p : Nat) : Nat :=
  match d.find? (fun c => c.1 = p) with
  | some c => c.2
  | none => planeGet s.arr.shadow p

/-- A retired tile that is read back for the first time, while its regions are still to be judged. -/
theorem exec_sigReadbackTile {t : Nat} {d : List (Nat × Nat)} {s : State} (ht : t < 450)
    (hd : d.all (fun c => decide (c.1 < 1036800) && decide (c.2 < 2 ^ 20)) = true) (up : awake s = true)
    (retired : s.scl.comp.retired.contains t = true) (new : s.scl.comp.readDone.contains t = false) (due : s.scl.comp.gus = true) :
    exec (.sigReadbackTile t d) s = .next (modComp (fun k => { k with
      readDone := insertNat t k.readDone, readback := planePut k.readback t (tileOfFun (readWord d s) t) }) s) := by
  change execSigReadbackTile t d s = _
  have ok : (decide (t < 450) && d.all (fun c => decide (c.1 < pixelBound) && decide (c.2 < 2 ^ 20))) = true := by
    rw [decide_eq_true ht, Bool.true_and]
    exact hd
  unfold execSigReadbackTile guarded
  rw [if_pos ok]
  dsimp only
  rw [if_neg (by simp only [up, retired, new, due]; decide)]
  rfl

end Sys2Proof.Machine
end

section
/-! The mapper-flush point (R96, R169, R170, R172). -/

namespace Sys2Proof.Machine

/-! ### The work of unfinished tiles (R172) -/

/-- From one state to another only the engines, the number of passes and the counter of free values have changed. -/
def worksOnly (s t : State) : Prop :=
  t = { s with scl := { s.scl with engines := t.scl.engines, comp := { s.scl.comp with passes := t.scl.comp.passes } }, free := t.free }

theorem worksOnly.refl (s : State) : worksOnly s s := rfl

theorem worksOnly.trans {s t u : State} (a : worksOnly s t) (b : worksOnly t u) : worksOnly s u := by
  unfold worksOnly at *
  rw [a] at b
  exact b

theorem countAbandoned_works (e t : Nat) (s : State) : worksOnly s (countAbandoned e t s) := by
  obtain ⟨n, f, b, l, h⟩ := countAbandoned_effect e t s
  rw [h]
  rfl

theorem countPartial_works (s : State) (x : PartTile) : worksOnly s (countPartial s x) := by
  unfold countPartial
  split
  · exact .refl s
  · exact (countAbandoned_works ..).trans rfl

theorem countPartials_works (l : List PartTile) (s : State) : worksOnly s (l.foldl countPartial s) := by
  induction l generalizing s with
  | nil => exact .refl s
  | cons x l ih => exact (countPartial_works s x).trans (ih _)

/-! ### The engines stop -/

/-- The state at the flush point, before its verdict. -/
def flushing (clocks : Nat) (o : List Nat) (part : List PartTile) (s : State) : State :=
  stopEngines (flushStats (decide (s.scl.comp.retired.length = 450)) clocks o (part.foldl countPartial s))

theorem exec_mapperFlushPoint {o : List Nat} {part : List PartTile} {s : State} (clocks : Nat) (four : o.length = 4)
    (h : part.all (fun x => decide (x.engine < 24)) = true) (run : composing s = true) :
    exec (.mapperFlushPoint clocks o part) s = .next (if s.scl.comp.retired.length = 450 then flushOk (flushing clocks o part s)
      else flushMiss (flushing clocks o part s)) := by
  change execMapperFlushPoint clocks o part s = _
  unfold execMapperFlushPoint guarded
  rw [if_pos (by simp [four, h]), if_neg (by simp [run])]
  dsimp only [flushing]

/-- No engine has a tile or a queue any longer. -/
theorem engOf_stopEngines (e : Nat) (s : State) : (engOf (stopEngines s) e).queue = [] ∧ (engOf (stopEngines s) e).tile = none := by
  simp only [engOf, stopEngines, List.getD_eq_getElem?_getD, List.getElem?_map]
  cases s.scl.engines[e]? <;> exact ⟨rfl, rfl⟩

section
variable (clocks : Nat) (o : List Nat) (part : List PartTile) (s : State)

/-- What the compose shows when it has ended. -/
theorem flushing_comp : (flushing clocks o part s).scl.comp.running = false ∧ (flushing clocks o part s).scl.comp.flushed = true ∧
    ((flushing clocks o part s).scl.comp.ok = true ↔ s.scl.comp.retired.length = 450) ∧
    (flushing clocks o part s).scl.tilesRetired = s.scl.comp.retired.length := by
  have work : worksOnly s (part.foldl countPartial s) := countPartials_works part s
  refine ⟨rfl, rfl, decide_eq_true_iff, ?_⟩
  unfold flushing stopEngines flushStats
  rw [work]

/-- What stays as it was before the verdict. -/
theorem flushing_keeps : (flushing clocks o part s).arr = s.arr ∧ (flushing clocks o part s).map = s.map ∧
    (flushing clocks o part s).scl.misses = s.scl.misses ∧ (flushing clocks o part s).scl.missRun = s.scl.missRun := by
  have work : worksOnly s (part.foldl countPartial s) := countPartials_works part s
  unfold flushing stopEngines flushStats
  rw [work]
  exact ⟨rfl, rfl, rfl, rfl⟩

end

/-! ### The verdict (R96, R169, R170) -/

/-- A complete compose shows the mapper's statistics. -/
theorem flushOk_spec (s : State) : (flushOk s).scl = s.scl ∧ (flushOk s).arr = s.arr ∧ (flushOk s).map.shown = s.map.cur := by
  unfold flushOk
  dsimp only
  split
  · simp only [noteF_scl, noteF_arr, noteF_map]
    exact ⟨trivial, trivial, trivial⟩
  · exact ⟨rfl, rfl, rfl⟩

/-- A miss as it is counted. -/
def missCounted (s : State) : State :=
  { s with scl := { s.scl with misses := min (s.scl.misses + 1) (2 ^ 32 - 1), missRun := min (s.scl.missRun + 1) 3 } }

/-- A condition that becomes present leaves the words and their sums. -/
theorem condOn_arr {e : RawEvent} (q : quietCode e.code = true) (u : Nat) (s : State) :
    (condOn u e s).arr.shadow = s.arr.shadow ∧ (condOn u e s).arr.sumShadow = s.arr.sumShadow := by
  unfold condOn
  split
  · exact ⟨rfl, rfl⟩
  · rw [(raise_reacts q _).arr]
    exact ⟨rfl, rfl⟩

/-- COMPOSE_OVERRUN at the third miss in a row, from a state that has counted it. -/
def overrun (s : State) : State :=
  if s.scl.missRun = 3 then condOn 0 (ev 0x0302 s.scl.comp.retired.length s.pwr.plevel s.ft.effLead s.ft.frameCount) s else s

theorem overrun_spec (s : State) : (overrun s).scl = s.scl ∧ (overrun s).map = s.map ∧ (overrun s).arr.shadow = s.arr.shadow ∧
    (overrun s).arr.sumShadow = s.arr.sumShadow ∧ (s.scl.missRun = 3 → condIs 0x0302 0 (overrun s) = true) := by
  unfold overrun
  split
  · generalize he : ev 0x0302 s.scl.comp.retired.length s.pwr.plevel s.ft.effLead s.ft.frameCount = e
    have code : e.code = 0x0302 := by rw [← he]; rfl
    have quiet : quietCode e.code = true := by rw [code]; rfl
    have judges := condOn_judges quiet 0 s
    have arr := condOn_arr quiet 0 s
    exact ⟨judges.scl, judges.map, arr.1, arr.2, fun _ => code ▸ condIs_condOn_same quiet 0 s⟩
  · rename_i other
    exact ⟨rfl, rfl, rfl, rfl, fun third => absurd third other⟩

theorem flushMiss_eq (s : State) : flushMiss s =
    noteF 0x0301 s.scl.comp.retired.length (missCounted s).scl.missRun (overrun (missCounted s)).scl.misses (overrun (missCounted s)) := by
  unfold flushMiss missCounted satInc satAdd
  rfl

/-- A miss counts, and as the third in a row it brings COMPOSE_OVERRUN; what is shown and the words stay. -/
theorem flushMiss_spec (s : State) :
    (flushMiss s).scl = (missCounted s).scl ∧ (flushMiss s).map = s.map ∧ (flushMiss s).arr.shadow = s.arr.shadow ∧
      (flushMiss s).arr.sumShadow = s.arr.sumShadow ∧ (2 ≤ s.scl.missRun → condIs 0x0302 0 (flushMiss s) = true) := by
  obtain ⟨scl, map, shadow, sums, third⟩ := overrun_spec (missCounted s)
  rw [flushMiss_eq, noteF_scl, noteF_map, noteF_arr]
  refine ⟨scl, map, shadow, sums, fun h => ?_⟩
  rw [condIs_congr (noteF_reacts ..).conds]
  exact third (Nat.min_eq_right (Nat.succ_le_succ h))

/-- What the flush point leaves. -/
theorem mapperFlushPoint_spec {o : List Nat} {part : List PartTile} {s : State} (clocks : Nat) (four : o.length = 4)
    (h : part.all (fun x => decide (x.engine < 24)) = true) (run : composing s = true) :
    ∃ u, exec (.mapperFlushPoint clocks o part) s = .next u ∧ u.scl.comp.running = false ∧ u.scl.comp.flushed = true ∧
      (u.scl.comp.ok = true ↔ s.scl.comp.retired.length = 450) ∧ u.scl.tilesRetired = s.scl.comp.retired.length ∧
      u.arr.sumShadow = s.arr.sumShadow ∧ u.arr.shadow = s.arr.shadow ∧
      (∀ e, e < 24 → (engOf u e).queue = [] ∧ (engOf u e).tile = none) ∧
      (s.scl.comp.retired.length = 450 → u.scl.misses = s.scl.misses ∧ u.scl.missRun = s.scl.missRun ∧ u.map.shown = s.map.cur) ∧
      (s.scl.comp.retired.length ≠ 450 → u.scl.missRun = min (s.scl.missRun + 1) 3 ∧ u.scl.misses = min (s.scl.misses + 1) (2 ^ 32 - 1) ∧
        u.map.shown = s.map.shown ∧ (2 ≤ s.scl.missRun → condIs 0x0302 0 u = true)) := by
  refine ⟨_, exec_mapperFlushPoint clocks four h run, ?_⟩
  obtain ⟨ended, flushed, ok, tiles⟩ := flushing_comp clocks o part s
  obtain ⟨arr, map, misses, missRun⟩ := flushing_keeps clocks o part s
  have stopped : ∀ e, (engOf (flushing clocks o part s) e).queue = [] ∧ (engOf (flushing clocks o part s) e).tile = none :=
    fun e => engOf_stopEngines e _
  generalize flushing clocks o part s = v at *
  split
  · rename_i all
    obtain ⟨scl, words, shown⟩ := flushOk_spec v
    have engines : ∀ e, engOf (flushOk v) e = engOf v e := fun e => by rw [engOf, engOf, scl]
    refine ⟨by rw [scl, ended], by rw [scl, flushed], by rw [scl, ok], by rw [scl, tiles], by rw [words, arr], by rw [words, arr],
      fun e _ => engines e ▸ stopped e, fun _ => ⟨by rw [scl, misses], by rw [scl, missRun], by rw [shown, map]⟩, fun n => absurd all n⟩
  · rename_i few
    obtain ⟨scl, still, shadow, sums, third⟩ := flushMiss_spec v
    have engines : ∀ e, engOf (flushMiss v) e = engOf v e := fun e => by rw [engOf, engOf, scl]; rfl
    refine ⟨by rw [scl]; exact ended, by rw [scl]; exact flushed, by rw [scl]; exact ok, by rw [scl]; exact tiles, by rw [sums, arr],
      by rw [shadow, arr], fun e _ => engines e ▸ stopped e, fun all => absurd all few,
      fun _ => ⟨by rw [scl]; exact congrArg (fun n => min (n + 1) 3) missRun, ?_, by rw [still, map], missRun ▸ third⟩⟩
    rw [scl]
    exact congrArg (fun n => min (n + 1) (2 ^ 32 - 1)) misses

end Sys2Proof.Machine
end

section
/-! O25, assembled from the engines, the layer pixel and the mapper (R82 to R108, R127 to R129, R160, R166, R169, R183). -/

namespace Sys2Proof.Machine

/-- Settles O25: the steps of R166 for an engine's next tile, one lemma for each instant of a compose, and the arithmetic of the layer
pixel and of the mapper. -/
theorem enginesWork : Obligations.EnginesWork := by
  refine ⟨fun e near far s he len run busy free => ⟨_, exec_engineNextTile he run busy free, fun t q own => ?_, fun v empty on gives => ?_,
      fun v empty on across fails gives => ?_, fun empty none' => ?_⟩,
    fun s a v l => fullest_spec, fun e t clocks stall s => tileRetired_spec clocks stall, fun t d s ht hd up retired new due => ?_,
    fun clocks o part s => mapperFlushPoint_spec clocks, fun s port p b y => blendLayer_outside port,
    fun s port x row y => scaledPixel_unscaled port, fun s t x => tableCode_reset, fun b l a => ⟨rfl, rfl, rfl, rfl, rfl, rfl⟩,
    fun y d lift gain gw n p lo hi => ⟨mapPixel_disabled lift gain gw n, fun sound => ?_⟩,
    fun y d p => ⟨liftOf_le y d p, liftOf_sound y⟩⟩
  · rw [nextTile_own own, engOf_modEng_same _ (len ▸ he)]
    exact ⟨rfl, rfl, rfl, fun j => engOf_modEng_other _⟩
  · have gives : stealGives s (clusterMates e) near v := gives
    obtain ⟨small, two⟩ := mem_clusterMates (gives.mem (clusterMates_ne_nil he))
    rw [nextTile_near empty on gives]
    exact steal_spec (len ▸ he) (len ▸ small) two
  · have gives : stealGives s (strangers e) far v := gives
    obtain ⟨small, two⟩ := mem_strangers (gives.mem (strangers_ne_nil he))
    rw [nextTile_far empty on across fails gives]
    obtain ⟨tile, -, rest⟩ := steal_spec (s := modComp (fun k => { k with stealR := k.stealR + 1 }) s) (len ▸ he) (len ▸ small) two
    exact ⟨tile, rest⟩
  · rw [nextTile_idle empty none', engOf_modEng_same _ (len ▸ he)]
    exact ⟨rfl, free, rfl, fun j => engOf_modEng_other _⟩
  · exact ⟨_, exec_sigReadbackTile ht hd up retired new due, fun i => mem_insertNat i t _, rfl,
      fun p hp => planeGet_planePut_same _ _ hp, fun p hp => planeGet_planePut_other _ _ hp⟩
  · rw [mapPixel_word lift gain gw n sound]
    exact targetWord_spec (q := clampedTarget y d lift gain gw p) (min_le_right _ _) lo hi

end Sys2Proof.Machine
end

section
/-! What an event leaves of the NVM port and of a calibration that runs (R318, R328, R329, R370). -/

namespace Sys2Proof.Machine

/-! ### Power-state requests touch nothing of the port (R398 to R404) -/

@[simp] theorem completePower_nvm (r : PowerReq) (st a b : Nat) (s : State) : (completePower r st a b s).nvm = s.nvm := complete_nvm ..

@[simp] theorem completeSuperseded_nvm (r : PowerReq) (s : State) : (completeSuperseded r s).nvm = s.nvm := completeOpen_nvm ..

@[simp] theorem beginSleep_nvm (r : PowerReq) (s : State) : (beginSleep r s).nvm = s.nvm := by
  unfold beginSleep
  dsimp only
  split
  · exact completeSuperseded_nvm ..
  · split
    · split
      · exact completePower_nvm ..
      · split
        · exact completePower_nvm ..
        · rfl
    · exact noteF_nvm ..

@[simp] theorem beginPower_nvm (r : PowerReq) (s : State) : (beginPower r s).nvm = s.nvm := by
  unfold beginPower
  split
  · exact beginSleep_nvm r s
  · split
    · exact completePower_nvm ..
    · rfl

@[simp] theorem nextPower_nvm (s : State) : (nextPower s).nvm = s.nvm := by
  unfold nextPower
  dsimp only
  split
  · rfl
  · exact beginPower_nvm ..

@[simp] theorem finishPower_nvm (st a b : Nat) (s : State) : (finishPower st a b s).nvm = s.nvm := by
  unfold finishPower
  split
  · rfl
  · simp

@[simp] theorem supersedePower_nvm (s : State) : (supersedePower s).nvm = s.nvm := by
  unfold supersedePower
  split
  · rfl
  · simp

@[simp] theorem settleLevel_nvm (s : State) : (settleLevel s).nvm = s.nvm := by
  unfold settleLevel
  split
  · split <;> simp
  · rfl

@[simp] theorem endBlanking_nvm (s : State) : (endBlanking s).nvm = s.nvm := by
  unfold endBlanking
  split
  · exact settleLevel_nvm _
  · rfl

@[simp] theorem abandonPower_nvm (s : State) : (abandonPower s).nvm = s.nvm := by
  unfold abandonPower
  split
  · dsimp only
    split
    · rfl
    · exact supersedePower_nvm _
  · split
    · exact supersedePower_nvm _
    · rfl

/-! ### What an event of a quiet code comes down to (R328, R329) -/

/-- At SNUFF level a quiet code brings the entry into SNUFFED and the hold of its class, nothing else. -/
theorem startReactions_snuffs {e : RawEvent} {s : State} (l : 4 ≤ e.level) (h : quietCode e.code = true) :
    startReactions e s = modClass (evClass e.code) (fun k => { k with hold := true }) (snuff (snuffCause e.code) e.code s) := by
  simp [quietCode] at h
  simp [startReactions, l, h]

/-- An event that latches starts its reactions in a state that differs in records and latches only. -/
theorem latch_reacts (e : RawEvent) (r : Rec) (s : State) : ∃ u, recordsOnly s u ∧ latch e r s = startReactions e u := by
  refine ⟨_, ?_, rfl⟩
  rfl

/-- An event of a quiet code leaves records behind; beyond them, at SNUFF level, the sinks go off or SNUFFED is entered and a class held. -/
theorem raise_quiet_cases {e : RawEvent} (q : quietCode e.code = true) (s : State) :
    ∃ u, recordsOnly s u ∧ (raise e s = u ∨ raise e s = sinksOff u ∨ ∃ cause code c f, raise e s = modClass c f (snuff cause code u)) := by
  have qa : quietCode (actual s.flt e).code = true := by rwa [actual_code]
  have k := recordsOnly_trans (countEscalation_only s.flt e s) (record_only (actual s.flt e) 0 (countEscalation s.flt e s))
  unfold raise raiseAs raiseWith raiseOver
  simp only [realEffects_quiet qa, ite_self, Bool.false_eq_true, if_false]
  generalize record (actual s.flt e) 0 (countEscalation s.flt e s) = w at k ⊢
  split
  · unfold lateSinks
    split
    · exact ⟨s, recordsOnly_refl s, .inr (.inl rfl)⟩
    · exact ⟨s, recordsOnly_refl s, .inl rfl⟩
  · split
    · exact ⟨_, raiseCollateral_only e s, .inl rfl⟩
    · split
      · obtain ⟨u, only, eq⟩ := latch_reacts (actual s.flt e) (formRec (actual s.flt e) 0 (countEscalation s.flt e s)) w
        refine ⟨u, recordsOnly_trans k only, ?_⟩
        rw [eq]
        by_cases l : 4 ≤ (actual s.flt e).level
        · exact .inr (.inr ⟨_, _, _, _, startReactions_snuffs l qa⟩)
        · exact .inl (startReactions_quiet (Nat.lt_of_not_le l) qa)
      · exact ⟨w, k, .inl rfl⟩

/-- What records, the loss of the sinks and the entry into SNUFFED leave alone, an event of a quiet code leaves alone. -/
theorem raise_quiet_view {β : Type} {v : State → β} (records : ∀ {s t}, recordsOnly s t → v t = v s) (sinks : ∀ s, v (sinksOff s) = v s)
    (snuffed : ∀ cause code s, v (snuff cause code s) = v s) {e : RawEvent} (q : quietCode e.code = true) (s : State) :
    v (raise e s) = v s := by
  obtain ⟨u, only, eq | eq | ⟨cause, code, c, f, eq⟩⟩ := raise_quiet_cases q s
  · rw [eq, records only]
  · rw [eq, sinks, records only]
  · have latched : recordsOnly (snuff cause code u) (modClass c f (snuff cause code u)) := rfl
    rw [eq, records latched, snuffed, records only]

/-! ### The port's state under an event -/

/-- MRAM, the store that runs, the slots in force and the count of failed verifies: what no event touches. -/
def portView (s : State) := (s.nvm.mram, s.nvm.run, s.nvm.inForce, s.nvm.verifyFails)

theorem portView_of_nvm {s t : State} (h : t.nvm = s.nvm) : portView t = portView s := by
  unfold portView
  rw [h]

@[simp] theorem portView_queueStore (n : StoreReq) (s : State) : portView (queueStore n s) = portView s := by
  unfold queueStore
  dsimp only
  split <;> rfl

theorem portView_abortCal (s : State) : portView (abortCal s) = portView s := by
  unfold abortCal
  split
  · split
    · dsimp only [portView]
      simp only [complete_nvm]
    · rfl
  · rfl

theorem portView_afterKindle (s : State) : portView (afterKindle s) = portView s := by
  have judged (u : State) :
      portView (if windowRange u = true then openNvm u else { u with thm := { u.thm with nvmOpen := false } }) = portView u := by
    split <;> rfl
  have stored (u : State) :
      portView (if (u.nvm.calResult = 1 || u.nvm.calResult = 3) && !u.nvm.calQuick then requestStore 2 [] u else u) = portView u := by
    split
    · exact portView_queueStore ..
    · rfl
  exact (stored _).trans ((judged _).trans rfl)

theorem portView_enterMode (m : Mode) (cause : Nat) (s : State) : portView (enterMode m cause s) = portView s := by
  have noted (u : State) : portView (noteF 0x0E01 (modeCode m) (modeCode s.pwr.mode) cause u) = portView u := portView_of_nvm (noteF_nvm ..)
  unfold enterMode
  dsimp only
  split
  · exact (noted _).trans (portView_afterKindle s)
  · exact noted s

theorem portView_snuff (cause code : Nat) (s : State) : portView (snuff cause code s) = portView s := by
  unfold snuff
  dsimp only
  split
  · rfl
  · have power (u : State) : portView (abandonPower (endBlanking u)) = portView u := portView_of_nvm (by simp)
    have pend : portView (endPending stSuperseded (sinksOff s)) = portView s := portView_of_nvm (endPending_nvm ..)
    refine (portView_of_nvm (sendTwin_nvm ..)).trans ?_
    exact (power _).trans ((portView_enterMode ..).trans ((portView_abortCal _).trans pend))

theorem portView_raise {e : RawEvent} (q : quietCode e.code = true) (s : State) : portView (raise e s) = portView s :=
  raise_quiet_view (fun h => portView_of_nvm h.fields.2.2.2.2.2.2.2.2.2.2.2.2.2.2.1) (fun _ => rfl) portView_snuff q s

end Sys2Proof.Machine
end

section
/-! The measurement of a CALIBRATE FULL (R370): what its scan, its judgement and their events leave of the values in use and of the
calibration itself. -/

namespace Sys2Proof.Machine

/-! ### A calibration is held while the array stays lit -/

/-- The values in use that a calibration may not touch before its frame latch. -/
def driveView (s : State) := (s.arr.sinkOfs, s.arr.preLevel)

/-- The mode, the staged values and the CALIBRATE FULL that runs. -/
def calView (s : State) := (s.pwr.mode, s.arr.staged, s.nvm.calRun)

/-- From one state to another the values in use stay; mode, staged values and the calibration stay too, unless the lamp went off, which
ends a CALIBRATE FULL (R329, R370). -/
def CalHeld (s t : State) : Prop := driveView t = driveView s ∧ (litMode t.pwr.mode = true → calView t = calView s)

theorem CalHeld.of_eq {s t : State} (d : driveView t = driveView s) (c : calView t = calView s) : CalHeld s t := ⟨d, fun _ => c⟩

theorem CalHeld.refl (s : State) : CalHeld s s := .of_eq rfl rfl

theorem CalHeld.trans {s t u : State} (a : CalHeld s t) (b : CalHeld t u) : CalHeld s u := by
  refine ⟨b.1.trans a.1, fun lit => ?_⟩
  have later := b.2 lit
  have mode : u.pwr.mode = t.pwr.mode := congrArg (fun v => v.1) later
  exact later.trans (a.2 (mode ▸ lit))

/-- The same, the later step first. -/
theorem CalHeld.after {s t u : State} (b : CalHeld t u) (a : CalHeld s t) : CalHeld s u := a.trans b

theorem CalHeld.foldl {α : Type} {g : State → α → State} (l : List α) (h : ∀ x a, CalHeld x (g x a)) (s : State) :
    CalHeld s (l.foldl g s) := by
  induction l generalizing s with
  | nil => exact .refl s
  | cons a l ih => exact (h s a).trans (ih _)

theorem recordsOnly.calHeld {s t : State} (h : recordsOnly s t) : CalHeld s t := by
  obtain ⟨-, pwr, -, arr, -, -, -, -, -, -, -, -, -, -, nvm, -⟩ := h.fields
  exact .of_eq (by rw [driveView, driveView, arr]) (by rw [calView, calView, pwr, arr, nvm])

/-! ### Events (R328, R329) -/

/-- An entry into SNUFFED either finds the array off already and touches the sinks alone, or leaves SNUFFED in force. -/
theorem snuff_cases (cause code : Nat) (s : State) : snuff cause code s = sinksOff s ∨ (snuff cause code s).pwr.mode = .snuffed := by
  by_cases m : s.pwr.mode = .snuffed
  · exact .inl (snuff_again m)
  · by_cases d : s.pwr.mode = .dormant
    · have asleep : (sinksOff s).pwr.mode = .dormant := d
      exact .inl (by simp [snuff, asleep])
    · obtain ⟨b, e⟩ := snuff_enters (cause := cause) (code := code) m d
      obtain ⟨-, -, -, mode, -⟩ := snuffedMode_spec cause s
      exact .inr (by rw [e, sendTwin_pwr]; exact mode)

theorem sinksOff_calHeld (s : State) : CalHeld s (sinksOff s) := .of_eq rfl rfl

theorem snuff_calHeld (cause code : Nat) (s : State) : CalHeld s (snuff cause code s) := by
  rcases snuff_cases cause code s with eq | mode
  · rw [eq]
    exact sinksOff_calHeld s
  · refine ⟨?_, fun lit => ?_⟩
    · rw [driveView, driveView, (snuff_reacts cause code s).arr]
    · rw [mode] at lit
      exact absurd lit (by decide)

theorem raise_calHeld {e : RawEvent} (q : quietCode e.code = true) (s : State) : CalHeld s (raise e s) := by
  obtain ⟨u, only, eq | eq | ⟨cause, code, c, f, eq⟩⟩ := raise_quiet_cases q s
  · rw [eq]
    exact only.calHeld
  · rw [eq]
    exact (sinksOff_calHeld u).after only.calHeld
  · rw [eq]
    have latched : CalHeld (snuff cause code u) (modClass c f (snuff cause code u)) := .of_eq rfl rfl
    exact latched.after ((snuff_calHeld cause code u).after only.calHeld)

theorem condSet_calHeld {e : RawEvent} (q : quietCode e.code = true) (on : Bool) (u : Nat) (s : State) : CalHeld s (condSet on u e s) := by
  unfold condSet condOn
  split
  · split
    · exact .refl s
    · exact (raise_calHeld q _).after (.of_eq rfl rfl)
  · exact .of_eq rfl rfl

/-! ### The defect map and the scan (R110 to R116) -/

theorem evalCluster_calHeld (s : State) : CalHeld s (evalCluster s) := by
  unfold evalCluster
  dsimp only
  split
  · exact .of_eq rfl rfl
  · split
    · exact .refl s
    · exact (condSet_calHeld (e := ev 0x0503 _ _ _ _) rfl true 0 _).after (.of_eq rfl rfl)

theorem evalDefects_calHeld (s : State) : CalHeld s (evalDefects s) := by
  unfold evalDefects
  dsimp only
  refine (condSet_calHeld (e := ev 0x0502 _ _ _ _) rfl _ _ _).after ?_
  exact (evalCluster_calHeld _).after (condSet_calHeld (e := ev 0x0504 _ _ _ _) rfl _ _ s)

theorem mapChanged_calHeld (s : State) : CalHeld s (mapChanged s) := by
  unfold mapChanged
  dsimp only
  split
  · exact (raise_calHeld (e := ev 0x0506 _ _ _ _) rfl _).after (.of_eq rfl rfl)
  · exact .of_eq rfl rfl

theorem enterDefect_calHeld (type source pix : Nat) (s : State) : CalHeld s (enterDefect type source pix s) := by
  unfold enterDefect
  split
  · exact .refl s
  · exact (mapChanged_calHeld _).after ((noteF_only ..).calHeld.after (.of_eq rfl rfl))

theorem removeDefect_calHeld (pix : Nat) (s : State) : CalHeld s (removeDefect pix s) := by
  unfold removeDefect
  split
  · exact (mapChanged_calHeld _).after (.of_eq rfl rfl)
  · exact .refl s

theorem runScan_calHeld (kindle : Bool) (m : CalMeas) (s : State) : CalHeld s (runScan kindle m s) := by
  unfold runScan
  extract_lets fails sound gone a arr b c trusted hits d count von vf diag r w diag' t
  have removed : CalHeld s a := CalHeld.foldl _ (fun x i => removeDefect_calHeld i x) s
  have released : CalHeld a b := .of_eq rfl rfl
  have wicks : CalHeld b c := CalHeld.foldl _ (fun x i => enterDefect_calHeld 5 5 i x) b
  have found : CalHeld c d := CalHeld.foldl _ (fun x i => enterDefect_calHeld _ 1 i x) c
  have results : CalHeld d r := .of_eq rfl rfl
  have recorded : CalHeld r t := by
    dsimp only [t]
    clear_value r
    split
    · exact .refl r
    · exact (raise_calHeld (e := ev 0x0606 _ _ _ _) rfl _).after (.of_eq rfl rfl)
  exact removed.trans (released.trans (wicks.trans (found.trans (results.trans (recorded.trans (evalDefects_calHeld t))))))

/-! ### The judgement (R352 to R354) -/

/-- The judgement of the sensors takes at most a free value. -/
theorem judgeSensors_only (l : List Int) (c : Bool) (s : State) :
    (judgeSensors l c s).2.2 = { s with free := (judgeSensors l c s).2.2.free } := by
  unfold judgeSensors
  split
  · rfl
  · unfold medianOf
    dsimp only
    split <;> rfl

theorem recordCal_calHeld (o : Nat) (q : Bool) (b : List Nat) (k : Bool) (sb : List Nat) (us : Nat) (s : State) :
    CalHeld s (recordCal o q b k sb us s) := by
  have raised (x y z : Nat) (u : State) : CalHeld u (raiseF 0x0B01 x y z u) := raise_calHeld rfl u
  unfold recordCal
  extract_lets w first registers t rejected
  have shown : CalHeld s t := .of_eq rfl rfl
  refine shown.trans ?_
  clear_value t
  split
  · exact (raised ..).trans (.of_eq rfl rfl)
  · split
    · exact raised ..
    · split
      · exact .refl t
      · exact (note_only _ t).calHeld

/-- Values staged with a run that awaits its frame latch: recording the judgement leaves both in place while the array stays lit. -/
theorem recordCal_staged (o : Nat) (k : Bool) (b sb : List Nat) (us : Nat) (set : CalSet) (q : CalRun) (s : State) :
    let t := recordCal o false b k sb us (stageCal set { s with nvm := { s.nvm with calRun := some q } })
    driveView t = driveView s ∧
      (litMode t.pwr.mode = true → t.pwr.mode = s.pwr.mode ∧ t.arr.staged.isSome = true ∧ t.nvm.calRun = some q) := by
  obtain ⟨drive, lit⟩ := recordCal_calHeld o false b k sb us (stageCal set { s with nvm := { s.nvm with calRun := some q } })
  refine ⟨drive, fun l => ?_⟩
  have kept := lit l
  simp only [calView, Prod.mk.injEq] at kept
  obtain ⟨mode, staged, cal⟩ := kept
  exact ⟨mode, by rw [staged]; rfl, cal⟩

/-- Of a measured CALIBRATE FULL, in an array that stays lit, the values are staged and the run waits for its frame latch (R370). -/
theorem judgeFull_held (r : CalRun) (m : CalMeas) (us : Nat) {s : State} (run : s.nvm.calRun = some r) :
    let t := judgeFull r m us s
    driveView t = driveView s ∧ (litMode t.pwr.mode = true →
      t.pwr.mode = s.pwr.mode ∧ t.arr.staged.isSome = true ∧ ∃ r', t.nvm.calRun = some r' ∧ r'.stage = 2 ∧ r'.handle = r.handle) := by
  dsimp only
  unfold judgeFull
  extract_lets a j outcome skipped
  have scanned : CalHeld s a := runScan_calHeld false m s
  have judged := judgeSensors_only m.sens true a
  generalize judgeSensors m.sens true a = p at judged ⊢
  obtain ⟨offs, sensBad, b⟩ := p
  have held : CalHeld s b := by
    rw [show b = { a with free := b.free } from judged]
    exact scanned.trans (.of_eq rfl rfl)
  clear_value a
  dsimp only
  split
  · rename_i gone
    refine ⟨held.1, fun lit => ?_⟩
    have same : b.nvm.calRun = s.nvm.calRun := congrArg (fun v => v.2.2) (held.2 lit)
    simp [same, run] at gone
  · have staged := recordCal_staged outcome skipped j.bad sensBad us
    refine ⟨(staged _ _ b).1.trans held.1, fun lit => ?_⟩
    obtain ⟨mode, some_, cal⟩ := (staged _ _ b).2 lit
    have before : b.pwr.mode = s.pwr.mode := congrArg (fun v => v.1) (held.2 (mode ▸ lit))
    exact ⟨mode.trans before, some_, _, cal, rfl, rfl⟩

/-- The measurement counts where a CALIBRATE FULL waits for it in a lit mode. -/
theorem exec_calibrateFullMeasure {m : CalMeas} {us : Nat} {r : CalRun} {s : State} (ok : measOk m = true) (up : awake s = true)
    (run : s.nvm.calRun = some r) : exec (.calibrateFullMeasure m us) s =
      .next (if r.full = true ∧ r.stage = 1 ∧ litMode s.pwr.mode = true then judgeFull r m us s else s) := by
  change execCalibrateFullMeasure m us s = _
  simp [execCalibrateFullMeasure, guarded, ok, run, up, and_assoc]

end Sys2Proof.Machine
end

section
/-! Requests to the NVM port and to diagnosis (R117, R250, R369 to R372): what taking one leaves alone, and the fields of its payload. -/

namespace Sys2Proof.Machine

/-! ### What taking a request leaves alone -/

@[simp] theorem after_nvm (op : Nat) (rq : Rq) (s : State) : (after op rq s).nvm = s.nvm := by rw [(after_only op rq s).1]

@[simp] theorem after_thm (op : Nat) (rq : Rq) (s : State) : (after op rq s).thm = s.thm := by rw [(after_only op rq s).1]

@[simp] theorem after_chk (op : Nat) (rq : Rq) (s : State) : (after op rq s).chk = s.chk := by rw [(after_only op rq s).1]

@[simp] theorem after_diag (op : Nat) (rq : Rq) (s : State) : (after op rq s).diag = s.diag := by rw [(after_only op rq s).1]

theorem modSrc_outstanding (x : Src) (f : SrcState → SrcState) (s : State) : (modSrc x f s).cmd.outstanding = s.cmd.outstanding := by
  cases x <;> rfl

theorem takeAlive_outstanding (x : Src) (b : List Byte) (s : State) : (takeAlive x b s).cmd.outstanding = s.cmd.outstanding := by
  unfold takeAlive
  dsimp only
  split
  · rw [note_cmd]
    exact modSrc_outstanding ..
  · exact modSrc_outstanding ..

@[simp] theorem after_handleFree (op : Nat) (rq : Rq) (s : State) : handleFree (after op rq s) = handleFree s := by
  have same : (after op rq s).cmd.outstanding = s.cmd.outstanding := by
    unfold after takeRequest
    split
    · exact takeAlive_outstanding ..
    · exact takeAlive_outstanding ..
  simp [handleFree, same]

/-- The handle taken is outstanding. -/
theorem takeHandle_outstanding (s : State) : newHandle s ∈ (takeHandle s).cmd.outstanding := List.mem_cons_self

/-- Where a handle is free, a long command takes it and starts with it. -/
theorem accept_free {start : Nat → State → State} {s : State} (h : handleFree s = true) :
    accept start s = ({ status := stAccepted, handle := newHandle s }, start (newHandle s) (takeHandle s)) := by
  simp [accept, h]

/-! ### Fields of a payload -/

/-- One byte between others. -/
theorem field_byte (a c : List Byte) (x : Byte) {i : Nat} (h : a.length = i) : field (a ++ x :: c) i 1 = x.toNat := by
  have mid := slice_mid a [x] c
  simp only [List.length_singleton, List.singleton_append, h] at mid
  rw [field, mid]
  simp [leVal]

@[simp] theorem field_head (x : Byte) (c : List Byte) : field (x :: c) 0 1 = x.toNat := field_byte [] c x rfl

@[simp] theorem field_second (x y : Byte) (c : List Byte) : field (x :: y :: c) 1 1 = y.toNat := field_byte [x] c y rfl

/-- The payload that asks for COUNT units from a start: DIAG_MAP_READ and NVM_READ (R117, R372). -/
def rangePayload (x z : Byte) (count start : Nat) : List Byte := [x, z] ++ le 2 count ++ le 4 start

theorem rangePayload_length (x z : Byte) (count start : Nat) : (rangePayload x z count start).length = 8 := by simp [rangePayload]

theorem rangePayload_kind (x z : Byte) (count start : Nat) : field (rangePayload x z count start) 0 1 = x.toNat := by simp [rangePayload]

theorem rangePayload_count (x z : Byte) {count : Nat} (start : Nat) (h : count < 65536) : field (rangePayload x z count start) 2 2 = count := by
  have mid := field_mid [x, z] (le 4 start) 2 count 2 rfl
  rw [← List.append_assoc] at mid
  rw [rangePayload, mid]
  omega

theorem rangePayload_start (x z : Byte) (count : Nat) {start : Nat} (h : start < 2 ^ 32) :
    field (rangePayload x z count start) 4 4 = start := by
  have mid := field_mid ([x, z] ++ le 2 count) [] 4 start 4 (by simp)
  rw [List.append_nil] at mid
  rw [rangePayload, mid]
  omega

end Sys2Proof.Machine
end

section
/-! CALIBRATE, CAL_COMMIT, NVM_READ and the defect list's store, and O54 (R114, R318, R369 to R372). -/

namespace Sys2Proof.Machine

/-! ### CALIBRATE (R369, R370) -/

/-- The ACTION of a CALIBRATE and the mode that it needs (R369). -/
def calibrates (a : Byte) (s : State) : Prop :=
  a = 0 ∧ s.pwr.mode = .pilot ∨ a = 1 ∧ (litMode s.pwr.mode = true ∨ s.pwr.mode = .snuffed)

section
variable {a f x y : Byte} {rd : State → List Int} {rq : Rq} {s : State}

/-- A CALIBRATE in a mode that allows its ACTION: BUSY, TEMP_WINDOW, or accepted with what the ACTION starts. -/
theorem calibrate_run (h : admits 0x40 rq s = true) (p : rq.payload = [a, f, x, y]) (m : calibrates a s) :
    let b := after 0x40 rq s
    let r := if s.nvm.calRun.isSome then rep stBusy b
      else if f.toNat.testBit 0 && !s.thm.nvmOpen then tempWindow b
      else accept (fun h u => if a = 0 then
          { u with nvm := { u.nvm with calRun := some { store := f.toNat.testBit 0, handle := h, src := rq.src } } }
        else calibrateSensors (rd u) (f.toNat.testBit 0) h rq.src u) b
    calibrate rq rd s = answered 0x40 rq r.1 r.2 := by
  unfold calibrate
  refine (request_plain h ?_ (by simp [p, lenIs])).trans ?_
  · rcases m with ⟨rfl, m⟩ | ⟨rfl, m⟩ <;> simpa [p, after_mode] using m
  · rcases m with ⟨rfl, -⟩ | ⟨rfl, -⟩ <;> simp [p]

/-- With no calibration running, and the write window open if it would store, a CALIBRATE takes a handle and starts. -/
theorem calibrate_accepted (h : admits 0x40 rq s = true) (p : rq.payload = [a, f, x, y]) (m : calibrates a s) (run : s.nvm.calRun = none)
    (window : f.toNat.testBit 0 = false ∨ s.thm.nvmOpen = true) (free : handleFree s = true) :
    let b := after 0x40 rq s
    let u := takeHandle b
    calibrate rq rd s = answered 0x40 rq { status := stAccepted, handle := newHandle b } (if a = 0 then
        { u with nvm := { u.nvm with calRun := some { store := f.toNat.testBit 0, handle := newHandle b, src := rq.src } } }
      else calibrateSensors (rd u) (f.toNat.testBit 0) (newHandle b) rq.src u) := by
  have idle : ¬s.nvm.calRun.isSome = true := by simp [run]
  have opened : ¬(f.toNat.testBit 0 && !s.thm.nvmOpen) = true := by rcases window with w | w <;> simp [w]
  rw [calibrate_run h p m, if_neg idle, if_neg opened, accept_free ((after_handleFree ..).trans free)]

/-- CALIBRATE FULL in PILOT (R369, R370). -/
theorem exec_calibrateFull (h : admits 0x40 rq s = true) (mode : s.pwr.mode = .pilot) (p : rq.payload = [0, f, x, y]) :
    let b := after 0x40 rq s
    let u := takeHandle b
    let st := f.toNat.testBit 0
    (s.nvm.calRun ≠ none → exec (.calibrateFull rq) s = answered 0x40 rq { status := stBusy } b) ∧
    (s.nvm.calRun = none → st = true → s.thm.nvmOpen = false → exec (.calibrateFull rq) s = answered 0x40 rq { status := stTempWindow }
      { b with thm := { b.thm with deferReplies := min 65535 (b.thm.deferReplies + 1) } }) ∧
    (s.nvm.calRun = none → (st = false ∨ s.thm.nvmOpen = true) → handleFree s = true →
      exec (.calibrateFull rq) s = answered 0x40 rq { status := stAccepted, handle := newHandle b }
        { u with nvm := { u.nvm with calRun := some { store := st, handle := newHandle b, src := rq.src } } }) := by
  have full : calibrates 0 s := .inl ⟨rfl, mode⟩
  have eq : exec (.calibrateFull rq) s = _ := calibrate_run h p full
  refine ⟨fun run => ?_, fun run st closed => ?_, fun run window free => calibrate_accepted h p full run window free⟩
  · rw [eq, if_pos (Option.isSome_iff_ne_none.2 run)]
    rfl
  · have count : ∀ n, satInc 16 n = min 65535 (n + 1) := fun n => Nat.min_comm ..
    simp [eq, run, st, closed, tempWindow, rep, count]

/-- The measurement of the sensors completes its request, if the handle is still outstanding (R251, R352, R369). -/
theorem calibrateSensors_completes (l : List Int) (store : Bool) {h : Nat} (x : Src) {s : State} (o : h ∈ s.cmd.outstanding) :
    ∃ e, e ∈ (calibrateSensors l store h x s).cmd.cq ∧ e.handle = h ∧ e.opcode = 0x40 := by
  have completes (st : Nat) {u : State} (k : u.cmd = s.cmd) : ∃ e, e ∈ (completeOpen h 0x40 x st u).cmd.cq ∧ e.handle = h ∧ e.opcode = 0x40 := by
    have waits : h ∈ u.cmd.outstanding := k ▸ o
    simp [completeOpen, takeFree, complete, waits]
  unfold calibrateSensors
  have judged := judgeSensors_only l s.nvm.header.loaded s
  generalize judgeSensors l s.nvm.header.loaded s = p at judged ⊢
  obtain ⟨offs, bad, u⟩ := p
  have same : u.cmd = s.cmd := by rw [show u = { s with free := u.free } from judged]
  dsimp only
  refine completes _ ?_
  split
  · exact (queueStore_cmd ..).trans same
  · exact same

/-- CALIBRATE SENSORS in a lit mode or SNUFFED (R369). -/
theorem exec_calibrateSensors {r : List Int} (h : admits 0x40 rq s = true) (mode : litMode s.pwr.mode = true ∨ s.pwr.mode = .snuffed)
    (p : rq.payload = [1, f, x, y]) (n : r.length = 36) (run : s.nvm.calRun = none)
    (window : f.toNat.testBit 0 = false ∨ s.thm.nvmOpen = true) (free : handleFree s = true) :
    let b := after 0x40 rq s
    exec (.calibrateSensors rq r) s = answered 0x40 rq { status := stAccepted, handle := newHandle b }
      (calibrateSensors r (f.toNat.testBit 0) (newHandle b) rq.src (takeHandle b)) := by
  change execCalibrateSensors rq r s = _
  rw [execCalibrateSensors, if_pos n, calibrate_accepted h p (.inr ⟨rfl, mode⟩) run window free]
  rfl

end

/-! ### CAL_COMMIT (R371) -/

/-- A store of this content is queued that the command of this handle requires. -/
def storeDueFor (c h : Nat) (s : State) : Prop := ∃ q ∈ s.nvm.queue, q.content = c ∧ h ∈ q.who

theorem queueStore_due {n : StoreReq} {h : Nat} (m : h ∈ n.who) (s : State) : storeDueFor n.content h (queueStore n s) := by
  unfold queueStore storeDueFor
  dsimp only
  split
  · rename_i waits
    obtain ⟨q, mem, same⟩ := List.any_eq_true.1 waits
    exact ⟨_, List.mem_map.2 ⟨q, mem, rfl⟩, by simp [of_decide_eq_true same, m]⟩
  · exact ⟨n, by simp, rfl, m⟩

theorem queueStore_keepsDue {c h : Nat} {s : State} (d : storeDueFor c h s) (n : StoreReq) : storeDueFor c h (queueStore n s) := by
  obtain ⟨q, mem, content, who⟩ := d
  unfold queueStore storeDueFor
  dsimp only
  split
  · refine ⟨_, List.mem_map.2 ⟨q, mem, rfl⟩, ?_⟩
    split
    · exact ⟨content, by simp [who]⟩
    · exact ⟨content, who⟩
  · exact ⟨q, by simp [mem], content, who⟩

@[simp] theorem queueStore_commits (n : StoreReq) (s : State) : (queueStore n s).nvm.commits = s.nvm.commits := by
  unfold queueStore
  dsimp only
  split <;> rfl

theorem requireStores_commits (mask h : Nat) (s : State) : (requireStores mask h s).nvm.commits = s.nvm.commits :=
  foldl_view (v := fun s => s.nvm.commits) _ (fun x _ => queueStore_commits _ x) s

/-- Every content of the mask gets its store. -/
theorem requireStores_due {mask h c : Nat} (m : c ∈ calContents mask) (s : State) : storeDueFor c h (requireStores mask h s) := by
  have kept (l : List Nat) (u : State) (d : storeDueFor c h u) :
      storeDueFor c h (l.foldl (fun s c => queueStore { content := c, auto := false, who := [h] } s) u) := by
    induction l generalizing u with
    | nil => exact d
    | cons k l ih => exact ih _ (queueStore_keepsDue d _)
  unfold requireStores
  obtain ⟨l, r, e⟩ := List.append_of_mem m
  rw [e, List.foldl_append, List.foldl_cons]
  exact kept r _ (queueStore_due (n := { content := c, auto := false, who := [h] }) (List.mem_singleton_self h) _)

/-- CAL_COMMIT by its mask (R371). -/
theorem exec_calCommit {m x y z : Byte} {rq : Rq} {s : State} (h : admits 0x41 rq s = true) (p : rq.payload = [m, x, y, z]) :
    let b := after 0x41 rq s
    let u := takeHandle b
    let run : CalRun := { full := false, stage := 3, handle := newHandle b, src := rq.src, todo := m.toNat % 16 }
    (m.toNat % 16 = 0 → exec (.calCommit rq) s = answered 0x41 rq { status := stBadParam } b) ∧
    (m.toNat % 16 ≠ 0 → s.thm.nvmOpen = true → handleFree s = true →
      exec (.calCommit rq) s = answered 0x41 rq { status := stAccepted, handle := newHandle b }
        (requireStores (m.toNat % 16) (newHandle b) { u with nvm := { u.nvm with commits := s.nvm.commits ++ [run] } })) := by
  have mask : field rq.payload 0 1 % 16 = m.toNat % 16 := by rw [p, field_head]
  refine ⟨fun none => ?_, fun some_ window free => ?_⟩
  · change execCalCommit rq s = _
    rw [execCalCommit, request_plain h rfl (by simp [p, lenIs]), mask, if_pos none]
    rfl
  · change execCalCommit rq s = _
    have opened : ¬(!(after 0x41 rq s).thm.nvmOpen) = true := by simp [window]
    rw [execCalCommit, request_plain h rfl (by simp [p, lenIs]), mask, if_neg some_, if_neg opened, accept_free ((after_handleFree ..).trans free)]
    simp only [takeHandle_nvm, after_nvm]

/-! ### NVM_READ (R372) -/

/-- The lower of two, taken along a list, is a member that no member lies below. -/
theorem foldl_min_eq {w a : Nat} {l : List Nat} (m : w ∈ a :: l) (low : ∀ v ∈ a :: l, w ≤ v) : l.foldl min a = w := by
  induction l generalizing a with
  | nil => exact (List.mem_singleton.1 m).symm
  | cons c l ih =>
    refine ih ?_ ?_
    · have wa := low a (by simp)
      have wc := low c (by simp)
      simp only [List.mem_cons] at m ⊢
      rcases m with rfl | rfl | m
      · exact .inl (min_eq_left wc).symm
      · exact .inl (min_eq_right wa).symm
      · exact .inr m
    · intro v mv
      rcases List.mem_cons.1 mv with rfl | mv
      · exact le_min (low a (by simp)) (low c (by simp))
      · exact low v (by simp [mv])

/-- A unit that does not snoop the source is not fed. -/
theorem guSource_quiet {src : Nat} {s : State} (f : Gu → Gu) (h : ∀ g ∈ s.chk.gus, g.en = false ∨ g.src ≠ src) : guSource src f s = s := by
  have same : s.chk.gus.map (fun g => if g.en && g.src = src then f g else g) = s.chk.gus.map id := by
    refine List.map_congr_left fun g m => ?_
    rcases h g m with k | k <;> simp [k]
  rw [guSource, same, List.map_id]

/-- Where no unit snoops the port's reads, they leave the state as it is. -/
theorem openReads_quiet {s : State} (h : ∀ g ∈ s.chk.gus, g.en = false ∨ g.src ≠ 49) : openReads s = s := by
  have unit (n : Nat) : ((guOf s n).en && (guOf s n).src = 49) = false := by
    by_cases l : n < s.chk.gus.length
    · have m : guOf s n ∈ s.chk.gus := by
        simp [guOf, List.getD_eq_getElem?_getD, l]
      rcases h _ m with k | k <;> simp [k]
    · simp [guOf, List.getD_eq_getElem?_getD, Nat.le_of_not_lt l]
  have still (l : List Nat) (g : State → Nat → State) (k : ∀ n, g s n = s) : l.foldl g s = s := by
    induction l with
    | nil => rfl
    | cons n l ih => rw [List.foldl_cons, k, ih]
  unfold openReads
  exact still _ _ fun n => by simp [unit]

/-- The words with an uncorrectable error in a range of a space (R357, R372). -/
def badIn (words : List Nat) (addr count : Nat) : List Nat := words.filter (fun w => decide (addr < 8 * w + 8 ∧ 8 * w < addr + count))

/-- What an access of NVM_READ leaves: a unit that snoops the port's reads, with the free values that it may take, and nothing else. -/
def readLeaves (b u : State) : Prop := readsOnly b u ∧ ((∀ g ∈ b.chk.gus, g.en = false ∨ g.src ≠ 49) → u = b)

/-- The range of an NVM_READ lies in its space, and COUNT in its bounds (R372). -/
def readFits (sp : Byte) (count addr : Nat) : Prop :=
  sp.toNat ≤ 1 ∧ 1 ≤ count ∧ count ≤ 1016 ∧ addr + count ≤ (if sp = 1 then 1024 else 0x800000)

/-- NVM_READ: BAD_PARAM outside the space, the bytes of a range without an error, or FAILED with the lowest word in error. -/
theorem exec_nvmRead {sp z : Byte} {count addr : Nat} {rq : Rq} {s : State} (h : admits 0x42 rq s = true) (hc : count < 65536)
    (ha : addr < 2 ^ 32) (p : rq.payload = rangePayload sp z count addr) :
    let b := after 0x42 rq s
    let bad := badIn (if sp = 1 then s.nvm.scarBad else s.nvm.badWords) addr count
    let bytes := memRead (if sp = 1 then s.nvm.scar else s.nvm.mram) addr count
    (¬readFits sp count addr → exec (.nvmRead rq) s = answered 0x42 rq { status := stBadParam } b) ∧
    (readFits sp count addr → bad = [] →
      exec (.nvmRead rq) s = answered 0x42 rq { status := stOk, payload := bytes } (guFeedSource 49 bytes b)) ∧
    (∀ w l, readFits sp count addr → bad = w :: l →
      exec (.nvmRead rq) s = answered 0x42 rq { status := stFailed, payload := le 4 (8 * l.foldl min w) } (openReads b)) := by
  have zero : sp.toNat = 0 ↔ sp = 0 := BitVec.toNat_inj (y := 0)
  have one : sp.toNat = 1 ↔ sp = 1 := BitVec.toNat_inj (y := 1)
  have fits : (decide (1 < sp.toNat) || decide (count = 0) || decide (1016 < count) ||
      decide ((if sp.toNat = 0 then 0x800000 else 1024) < addr + count)) = true ↔ ¬readFits sp count addr := by
    simp only [readFits, ← one, Bool.or_eq_true, decide_eq_true_eq]
    split <;> split <;> omega
  have words : (if sp.toNat = 1 then scarBadIn (after 0x42 rq s) addr count
      else (after 0x42 rq s).nvm.badWords.filter (fun w => decide (addr < 8 * w + 8) && decide (8 * w < addr + count))) =
      badIn (if sp = 1 then s.nvm.scarBad else s.nvm.badWords) addr count := by
    simp only [one, badIn, scarBadIn, after_nvm, Bool.decide_and]
    split <;> rfl
  have bytes : (if sp.toNat = 1 then memRead (after 0x42 rq s).nvm.scar addr count else mramRead (after 0x42 rq s) addr count) =
      memRead (if sp = 1 then s.nvm.scar else s.nvm.mram) addr count := by
    simp only [one, mramRead, after_nvm]
    split <;> rfl
  dsimp only
  change (_ → execNvmRead rq s = _) ∧ (_ → _ → execNvmRead rq s = _) ∧ ∀ w l, _ → _ → execNvmRead rq s = _
  rw [execNvmRead, request_plain h rfl (by simp [p, rangePayload_length, lenIs])]
  simp only [p, rangePayload_kind, rangePayload_count _ _ _ hc, rangePayload_start _ _ _ ha, words, bytes]
  refine ⟨fun out => ?_, fun ok none => ?_, fun w l ok some_ => ?_⟩
  · rw [if_pos (fits.2 out)]
    rfl
  · rw [if_neg (fun k => fits.1 k ok), none]
    rfl
  · rw [if_neg (fun k => fits.1 k ok), some_]

theorem openReads_leaves (b : State) : readLeaves b (openReads b) := ⟨openReads_only b, openReads_quiet⟩

theorem feed_leaves (l : List Byte) (b : State) : readLeaves b (guFeedSource 49 l b) := ⟨rfl, guSource_quiet _⟩

/-! ### The defect list (R114) -/

/-- A changed defect list, of which no store waits, is queued. -/
theorem exec_defectListStore {s : State} (up : awake s = true) (due : s.diag.storePending = true) (h : ∀ q ∈ s.nvm.queue, q.content ≠ 4) :
    exec .defectListStore s = .next { s with nvm := { s.nvm with
      queue := s.nvm.queue ++ [{ content := 4 }], retry := s.nvm.retry.filter (fun r => !r.patch.isEmpty) } } := by
  change execDefectListStore s = _
  have none : s.nvm.queue.any (·.content = 4) = false := by simpa using h
  rw [execDefectListStore, up, due, none, ← requestStore_queued h]
  rfl

/-- An unchanged list, or one whose store waits, is left. -/
theorem exec_defectListStore_idle {s : State} (h : s.diag.storePending = false ∨ ∃ q ∈ s.nvm.queue, q.content = 4) :
    exec .defectListStore s = .next s := by
  change execDefectListStore s = _
  have idle : (awake s && s.diag.storePending && !s.nvm.queue.any (·.content = 4)) = false := by
    rcases h with k | ⟨q, m, c⟩
    · simp [k]
    · have waits : s.nvm.queue.any (·.content = 4) = true := List.any_eq_true.2 ⟨q, m, by simp [c]⟩
      simp [waits]
  rw [execDefectListStore, idle]
  rfl

/-! ### The obligation -/

/-- Settles O54: each command by its equation; the measurement by what its events leave of the calibration. -/
theorem nvmCommandsAnswer : Obligations.NvmCommandsAnswer := by
  refine ⟨fun f x y rq s h mode p => exec_calibrateFull h mode p, fun m us r s ok up run => ⟨fun no => ?_, fun lit full stage => ?_⟩,
    fun f x y rd rq s h mode p n run window free => ?_, fun m x y z rq s h p => ?_, fun sp z count addr rq s h hc ha p => ?_,
    fun s up due none => exec_defectListStore up due none, fun s idle => exec_defectListStore_idle idle⟩
  · have waits : ¬(r.full = true ∧ r.stage = 1 ∧ litMode s.pwr.mode = true) := by
      rintro ⟨full, stage, lit⟩
      simp [full, stage, lit] at no
    rw [exec_calibrateFullMeasure ok up run, if_neg waits]
  · obtain ⟨drive, held⟩ := judgeFull_held r m us run
    rw [driveView, driveView, Prod.mk.injEq] at drive
    rw [exec_calibrateFullMeasure ok up run, if_pos ⟨full, stage, lit⟩]
    exact ⟨_, rfl, drive.1, drive.2, held⟩
  · obtain ⟨e, mem, handle, opcode⟩ := calibrateSensors_completes rd (f.toNat.testBit 0) rq.src
      (takeHandle_outstanding (after 0x40 rq s))
    exact ⟨_, e, exec_calibrateSensors h mode p n run window free, mem, handle, opcode⟩
  · obtain ⟨none, some_⟩ := exec_calCommit h p
    exact ⟨none, fun mask window free => ⟨_, some_ mask window free, requireStores_commits .., fun c mem => requireStores_due mem _⟩⟩
  · obtain ⟨outside, clean, failed⟩ := exec_nvmRead h hc ha p
    have leaves {u : State} (l : readLeaves (after 0x42 rq s) u) : u = { after 0x42 rq s with chk := u.chk, free := u.free } ∧
        ((∀ g ∈ s.chk.gus, g.en = false ∨ g.src ≠ 49) → u = after 0x42 rq s) := by rwa [readLeaves, after_chk] at l
    refine ⟨fun fits none => ⟨_, clean fits none, leaves (feed_leaves ..)⟩, fun w fits mem low => ?_, fun out => outside fun fits => ?_⟩
    · obtain ⟨v, l, e⟩ := List.exists_cons_of_ne_nil (List.ne_nil_of_mem mem)
      have lowest : l.foldl min v = w := foldl_min_eq (e ▸ mem) (e ▸ low)
      exact ⟨_, lowest ▸ failed v l fits e, leaves (openReads_leaves _)⟩
    · obtain ⟨space, one, top, room⟩ := fits
      rcases out with none | many | ⟨rfl, past⟩ | ⟨rfl, past⟩ | other
      · omega
      · omega
      · exact absurd room (Nat.not_le.2 past)
      · exact absurd room (Nat.not_le.2 past)
      · omega

end Sys2Proof.Machine
end

section
/-! Stores of the NVM port (R318, R359, R360, R362): what each write of a store leaves of MRAM, and what its end leaves of the port. -/

namespace Sys2Proof.Machine

/-! ### What the writes of a slot leave -/

@[simp] theorem mramWrite_run (a : Nat) (b : List Byte) (s : State) : (mramWrite a b s).nvm.run = s.nvm.run := rfl

@[simp] theorem mramWrite_inForce (a : Nat) (b : List Byte) (s : State) : (mramWrite a b s).nvm.inForce = s.nvm.inForce := rfl

@[simp] theorem mramWrite_verifyFails (a : Nat) (b : List Byte) (s : State) : (mramWrite a b s).nvm.verifyFails = s.nvm.verifyFails := rfl

theorem slotHeader_length (c gen : Nat) (body : List Byte) : (slotHeader c gen body).length = 56 := by simp [slotHeader]

/-- A committed slot: body, header, commit word, in this order (R359). -/
def slotWritten (m : List Host.Cell) (c k gen : Nat) (body : List Byte) : List Host.Cell :=
  memWrite (memWrite (memWrite m (slotBase c k + 64) body) (slotBase c k) (slotHeader c gen body)) (slotBase c k + 56) (le 8 commitWord)

section
variable {m : List Host.Cell} (w : memWf m = true) (c k gen : Nat) (body : List Byte)

include w in
/-- The commit word of a written slot reads as such, and its body reads back. -/
theorem slotWritten_reads :
    leVal (memRead (slotWritten m c k gen body) (slotBase c k + 56) 8) = commitWord ∧
      memRead (slotWritten m c k gen body) (slotBase c k + 64) body.length = body := by
  have header := slotHeader_length c gen body
  have written := memWf_memWrite (a := slotBase c k) (bs := slotHeader c gen body) (memWf_memWrite (a := slotBase c k + 64) (bs := body) w)
  constructor
  · have word := memRead_memWrite_same (a := slotBase c k + 56) (bs := le 8 commitWord) written
    rw [le_length] at word
    rw [slotWritten, word, leVal_le]
    rfl
  · rw [slotWritten, memRead_memWrite_other (by simp), memRead_memWrite_other (by omega), memRead_memWrite_same w]

/-- Outside the slot no byte changes. -/
theorem slotWritten_other {a : Nat} (h : a < slotBase c k ∨ slotBase c k + 64 + body.length ≤ a) :
    memGet (slotWritten m c k gen body) a = memGet m a := by
  have header := slotHeader_length c gen body
  have word := le_length 8 commitWord
  rw [slotWritten, memGet_memWrite_other (by omega), memGet_memWrite_other (by omega), memGet_memWrite_other (by omega)]

end

/-! ### The commit (R359, R360) -/

@[simp] theorem portView_complete (h op : Nat) (x : Src) (st a b : Nat) (s : State) : portView (complete h op x st a b s) = portView s :=
  portView_of_nvm (complete_nvm ..)

theorem portView_finishCal (r : CalRun) (s : State) : portView (finishCal r s) = portView s := by
  unfold finishCal
  dsimp only
  split <;> exact portView_complete ..

theorem portView_resolveStore (c st : Nat) (s : State) (h : Nat) : portView (resolveStore c st s h) = portView s := by
  have ended : ∀ t : State, portView t = portView s → ∀ (runs l : List CalRun),
      portView (l.foldl (fun s r => finishCal r s) { t with nvm := { t.nvm with commits := runs } }) = portView s := by
    intro t e runs l
    exact (foldl_view _ (fun x r => portView_finishCal r x) _).trans e
  unfold resolveStore
  dsimp only
  refine ended _ ?_ _ _
  split
  · split
    · rfl
    · split
      · exact (portView_finishCal ..).trans rfl
      · rfl
  · rfl

theorem portView_storeCommitted (r : StoreRun) (s : State) : portView (storeCommitted r s) = portView s := by
  unfold storeCommitted
  split <;> rfl

theorem portView_writeSlot (c k gen : Nat) (body : List Byte) (s : State) : portView (writeSlot c k gen body s) =
    (slotWritten s.nvm.mram c k gen body, s.nvm.run, s.nvm.inForce, s.nvm.verifyFails) := by
  simp only [writeSlot, countUnits, portView, mramWrite_mram, mramWrite_run, mramWrite_inForce, mramWrite_verifyFails, slotWritten]

/-- The slot in force, as the port's state shows it. -/
theorem portView_setInForce (c k gen : Nat) (s : State) :
    portView (setInForce c k gen s) = (s.nvm.mram, s.nvm.run, modNth s.nvm.inForce c (fun _ => k), s.nvm.verifyFails) := rfl

/-- A store that commits leaves its slot written and in force, and no store running. -/
theorem commitStore_port (r : StoreRun) (s : State) : portView (commitStore r s) =
    (slotWritten s.nvm.mram r.content r.slot r.gen r.body, none, modNth s.nvm.inForce r.content (fun _ => r.slot), s.nvm.verifyFails) := by
  have written := portView_writeSlot r.content r.slot r.gen r.body { s with nvm := { s.nvm with run := none } }
  unfold commitStore
  dsimp only
  rw [foldl_view _ (fun x h => portView_resolveStore r.content stOk x h), portView_storeCommitted, portView_setInForce]
  generalize writeSlot r.content r.slot r.gen r.body { s with nvm := { s.nvm with run := none } } = u at written ⊢
  simp only [portView, Prod.mk.injEq] at written ⊢
  obtain ⟨mram, run, slots, fails⟩ := written
  exact ⟨mram, run, by rw [slots], fails⟩

/-! ### A unit that fails its verify (R359, R362) -/

/-- The COMMIT of a slot, the store that runs, and the count of failed verifies. -/
def commitView (c k : Nat) (s : State) := (memRead s.nvm.mram (slotBase c k + 56) 8, s.nvm.run, s.nvm.verifyFails)

theorem commitView_of_port {c k : Nat} {s t : State} (h : portView t = portView s) : commitView c k t = commitView c k s :=
  congrArg (fun v => (memRead v.1 (slotBase c k + 56) 8, v.2.1, v.2.2.2)) h

/-- A write beside the COMMIT of a slot leaves it. -/
theorem commitView_mramWrite {c k a : Nat} {b : List Byte} (h : a + b.length ≤ slotBase c k + 56 ∨ slotBase c k + 64 ≤ a) (s : State) :
    commitView c k (mramWrite a b s) = commitView c k s := by
  unfold commitView
  rw [mramWrite_mram, mramWrite_run, mramWrite_verifyFails, memRead_memWrite_other (by omega)]

/-- Free bytes take free values and touch nothing else. -/
theorem freeBytes_only (n : Nat) (s : State) : ∃ f, (freeBytes n s).2 = { s with free := f } := by
  induction n generalizing s with
  | zero => exact ⟨s.free, rfl⟩
  | succ n ih =>
    obtain ⟨f, e⟩ := ih (takeFree s).2
    exact ⟨f, e.trans rfl⟩

theorem commitView_mramWriteBad {c k a : Nat} {b : List Byte} (h : a + b.length ≤ slotBase c k + 56 ∨ slotBase c k + 64 ≤ a) (s : State) :
    commitView c k (mramWriteBad a b s) = commitView c k s := by
  obtain ⟨f, e⟩ := freeBytes_only (cdiv b.length 4) s
  have taken := List.length_take_le b.length (freeBytes (cdiv b.length 4) s).1
  have beside := commitView_mramWrite (c := c) (k := k) (a := a) (b := (freeBytes (cdiv b.length 4) s).1.take b.length) (by omega)
    (freeBytes (cdiv b.length 4) s).2
  refine Eq.trans beside ?_
  rw [e]
  rfl

theorem commitView_writePart (c k gen : Nat) (body : List Byte) (n : Nat) (s : State) :
    commitView c k (writePart c k gen body n s) = commitView c k s := by
  have counted (u : State) : commitView c k (countUnits n u) = commitView c k u := rfl
  have header := slotHeader_length c gen body
  unfold writePart
  dsimp only
  rw [counted]
  split
  · rw [commitView_mramWrite (by omega), commitView_mramWrite (by omega)]
  · rw [commitView_mramWrite (by omega)]

/-- A store that stops at a failed unit has not reached the COMMIT of its slot. -/
theorem commitView_failSlot (c k gen : Nat) (body : List Byte) (addr : Nat) (s : State) :
    commitView c k (failSlot c k gen body addr s) = commitView c k s := by
  have counted (u : State) : commitView c k (countUnits 1 u) = commitView c k u := rfl
  have header := slotHeader_length c gen body
  unfold failSlot
  dsimp only
  rw [counted]
  split
  · rw [commitView_mramWriteBad (by omega), commitView_writePart]
  · rw [commitView_mramWriteBad (by omega), commitView_writePart]

/-- A failed verify is counted. -/
theorem commitView_writeFailed (c k addr : Nat) (s : State) : commitView c k (writeFailed c k addr s) =
    (memRead s.nvm.mram (slotBase c k + 56) 8, s.nvm.run, min 65535 (s.nvm.verifyFails + 1)) := by
  have count : satInc 16 s.nvm.verifyFails = min 65535 (s.nvm.verifyFails + 1) := Nat.min_comm ..
  unfold writeFailed
  dsimp only
  rw [commitView_of_port (portView_raise (e := ev 0x0A02 _ _ _ _) rfl _), count]
  rfl

/-- A store that fails ends; its slot's COMMIT stays, and the failure is counted. -/
theorem commitView_failStore (r : StoreRun) (addr : Nat) (s : State) : commitView r.content r.slot (failStore r addr s) =
    (memRead s.nvm.mram (slotBase r.content r.slot + 56) 8, none, min 65535 (s.nvm.verifyFails + 1)) := by
  have slot := commitView_failSlot r.content r.slot r.gen r.body addr { s with nvm := { s.nvm with run := none } }
  have again (b : Bool) (l : List StoreReq) (u : State) :
      portView (if b then { u with nvm := { u.nvm with retry := l } } else u) = portView u := by
    split <;> rfl
  unfold failStore
  dsimp only
  rw [commitView_of_port (foldl_view _ (fun x h => portView_resolveStore r.content stFailed x h) _), commitView_of_port (again ..),
    commitView_writeFailed]
  generalize failSlot r.content r.slot r.gen r.body addr { s with nvm := { s.nvm with run := none } } = u at slot ⊢
  simp only [commitView, Prod.mk.injEq] at slot
  obtain ⟨word, run, fails⟩ := slot
  rw [word, run, fails]

/-- NVM_STORE_COMPLETE of the store that runs, with every unit verified. -/
theorem exec_nvmStoreComplete {r : StoreRun} {s : State} (up : awake s = true) (run : s.nvm.run = some r) :
    exec (.nvmStoreComplete none) s = .next (commitStore r s) := by
  change execNvmStoreComplete none s = _
  simp [execNvmStoreComplete, run, up]

/-- NVM_STORE_COMPLETE of the store that runs, with a unit of it that failed its verify. -/
theorem exec_nvmStoreComplete_fails {r : StoreRun} {a : Nat} {s : State} (up : awake s = true) (run : s.nvm.run = some r)
    (lo : slotBase r.content r.slot ≤ a) (hi : a < slotBase r.content r.slot + 64 + r.body.length) :
    exec (.nvmStoreComplete (some a)) s = .next (failStore r a s) := by
  change execNvmStoreComplete (some a) s = _
  simp [execNvmStoreComplete, run, up, lo, hi]

/-- What a completed store leaves: its slot committed, with its body, and in force. -/
theorem commitStore_spec {r : StoreRun} {s : State} (w : memWf s.nvm.mram = true) (c : r.content < s.nvm.inForce.length) :
    let t := commitStore r s
    t.nvm.run = none ∧ slotCommitted t r.content r.slot = true ∧
      memRead t.nvm.mram (slotBase r.content r.slot + 64) r.body.length = r.body ∧ t.nvm.inForce.getD r.content 3 = r.slot ∧
      ∀ a, (a < slotBase r.content r.slot ∨ slotBase r.content r.slot + 64 + r.body.length ≤ a) →
        memGet t.nvm.mram a = memGet s.nvm.mram a := by
  have port := commitStore_port r s
  simp only [portView, Prod.mk.injEq] at port
  obtain ⟨mram, run, slots, -⟩ := port
  obtain ⟨word, body⟩ := slotWritten_reads w r.content r.slot r.gen r.body
  dsimp only
  rw [slotCommitted, mramRead, mram, slots, modNth_getD]
  exact ⟨run, by simp [word], body, by simp [c], fun a h => slotWritten_other _ _ _ _ h⟩

/-! ### A store begins (R318, R359, R360, R362) -/

/-- Where MRAM and the slots in force are the same, the next store of a content has the same target and GEN. -/
theorem nextStore_congr {s t : State} (h : portView t = portView s) (c : Nat) : storeTarget t c = storeTarget s c ∧ newGen t c = newGen s c := by
  simp only [portView, Prod.mk.injEq] at h
  obtain ⟨mram, -, slots, -⟩ := h
  have committed : slotCommitted t c = slotCommitted s c := funext fun k => by rw [slotCommitted, slotCommitted, mramRead, mramRead, mram]
  have gen (k : Nat) : slotGen t c k = slotGen s c k := by rw [slotGen, slotGen, mramRead, mramRead, mram]
  constructor
  · simp only [storeTarget, slots, committed, gen]
  · simp only [newGen, highestSlot, committed, gen]

/-- A request for a store changes the port's queues and nothing else. -/
theorem queueStore_only (n : StoreReq) (s : State) : ∃ q l, queueStore n s = { s with nvm := { s.nvm with queue := q, retry := l } } := by
  unfold queueStore
  dsimp only
  split
  · exact ⟨_, _, rfl⟩
  · exact ⟨_, _, rfl⟩

/-- The bodies that the device makes do not rest on the port's queues. -/
theorem storeBody_queues (s : State) (q l : List StoreReq) (c : Nat) :
    storeBody { s with nvm := { s.nvm with queue := q, retry := l } } c = storeBody s c := by
  unfold storeBody
  split <;> rfl

/-- What a store that begins leaves: it runs with its target, GEN and body, and of MRAM only its target's COMMIT is written. -/
theorem beginStore_spec (r : StoreReq) (s : State) :
    let t := beginStore r s
    let k := storeTarget s r.content
    (∃ u, t.nvm.run = some u ∧ u.content = r.content ∧ u.who = r.who ∧ u.slot = k ∧ u.gen = newGen s r.content ∧
      (r.content ≠ 9 → u.body = r.patch.foldl (fun x y => splice x y.1 y.2) (storeBody s r.content))) ∧
    ∀ a, (a < slotBase r.content k + 56 ∨ slotBase r.content k + 64 ≤ a) → memGet t.nvm.mram a = memGet s.nvm.mram a := by
  dsimp only
  unfold beginStore
  extract_lets c lived ready k gen body run
  have entered : portView lived = portView s ∧ (c ≠ 9 → lived = s) := by
    dsimp only [lived]
    split
    · rename_i nine
      refine ⟨?_, fun other => absurd nine other⟩
      unfold lifeEntry
      dsimp only
      split <;> rfl
    · exact ⟨rfl, fun _ => rfl⟩
  obtain ⟨port, same⟩ := entered
  clear_value lived
  have prepared : portView ready = portView s ∧ (c ≠ 9 → storeBody ready c = storeBody s c) := by
    dsimp only [ready]
    split
    · obtain ⟨q, l, e⟩ := queueStore_only { content := 5, patch := [] } lived
      rw [requestStore, e]
      exact ⟨port, fun other => by rw [storeBody_queues, same other]⟩
    · exact ⟨port, fun other => by rw [same other]⟩
  obtain ⟨port, bodies⟩ := prepared
  clear_value ready
  obtain ⟨target, next⟩ := nextStore_congr port c
  have mram : ready.nvm.mram = s.nvm.mram := congrArg (fun v => v.1) port
  refine ⟨⟨run, rfl, rfl, rfl, target, next, fun other => ?_⟩, fun a h => ?_⟩
  · dsimp only [run, body]
    rw [bodies other]
  · rw [← target] at h
    rw [clearCommit, mramWrite_mram, memGet_memWrite_other (by simpa using h), mram]

/-- NVM_STORE_START with a store that waits and a free port: the oldest store begins, or all that wait are deferred. -/
theorem exec_nvmStoreStart {r : StoreReq} {q : List StoreReq} {s : State} (up : awake s = true) (h : s.nvm.queue = r :: q)
    (run : s.nvm.run = none) (idle : s.nvm.loading = false) :
    (s.thm.nvmOpen = true → exec .nvmStoreStart s = .next (beginStore r { s with nvm := { s.nvm with queue := q } })) ∧
    (s.thm.nvmOpen = false → exec .nvmStoreStart s = .next { s with
      nvm := { s.nvm with queue := (r :: q).map (fun x => { x with deferred := true }) }
      thm := { s.thm with deferStores := min 65535 (s.thm.deferStores + ((r :: q).filter (fun x => !x.deferred)).length) } }) := by
  change (_ → execNvmStoreStart s = _) ∧ (_ → execNvmStoreStart s = _)
  have count (n : Nat) : satAdd 16 s.thm.deferStores n = min 65535 (s.thm.deferStores + n) := Nat.min_comm ..
  constructor
  · intro window
    simp [execNvmStoreStart, h, up, run, idle, window]
  · intro window
    simp only [execNvmStoreStart, h, up, run, idle, window, countDefers, count]
    rfl

/-- NVM_STORE_START does nothing where no store waits, the port is busy, or the device is not awake. -/
theorem exec_nvmStoreStart_idle {s : State} (h : s.nvm.queue = [] ∨ s.nvm.run ≠ none ∨ s.nvm.loading = true ∨ awake s = false) :
    exec .nvmStoreStart s = .next s := by
  change execNvmStoreStart s = _
  unfold execNvmStoreStart
  split
  · rfl
  · rename_i waits
    have busy : (!awake s || s.nvm.run.isSome || s.nvm.loading) = true := by
      rcases h with k | k | k | k
      · exact absurd (k.symm.trans waits) (by simp)
      · simp [Option.isSome_iff_ne_none.2 k]
      · simp [k]
      · simp [k]
    rw [if_pos busy]

end Sys2Proof.Machine
end

section
/-! DIAG_MAP_READ and PIXEL_TEST (R117 to R120), and O56 with the stores of the port. -/

namespace Sys2Proof.Machine

/-! ### DIAG_MAP_READ (R117) -/

/-- DIAG_MAP_READ of the map, of the bitmap, or with fields out of range. -/
theorem exec_diagMapRead {mp z : Byte} {count start : Nat} {rq : Rq} {s : State} (h : admits 0x70 rq s = true) (hc : count < 65536)
    (hs : start < 2 ^ 32) (p : rq.payload = rangePayload mp z count start) :
    let b := after 0x70 rq s
    let n := min count (defectCount s - start)
    let k := min count (129600 - start)
    let m := le 4 (defectCount s) ++ le 2 n ++ le 2 s.diag.mapGen ++ ((s.diag.defects.drop start).take n).flatMap (fun d => le 4 (defectWord d))
    let u := le 4 129600 ++ le 2 k ++ le 2 s.diag.mapGen ++ (List.range k).map (fun i => bitmapByte s.diag.bitmap (start + i))
    (mp = 0 → 1 ≤ count → count ≤ 254 → exec (.diagMapRead rq) s = answered 0x70 rq { status := stOk, payload := m } b) ∧
    (mp = 1 → 1 ≤ count → count ≤ 1016 → exec (.diagMapRead rq) s = answered 0x70 rq { status := stOk, payload := u } b) ∧
    ((count = 0 ∨ 1 < mp.toNat ∨ (mp = 0 ∧ 254 < count) ∨ (mp = 1 ∧ 1016 < count)) →
      exec (.diagMapRead rq) s = answered 0x70 rq { status := stBadParam } b) := by
  have total : defectCount (after 0x70 rq s) = defectCount s := by rw [defectCount, defectCount, after_diag]
  dsimp only
  change (_ → _ → _ → execDiagMapRead rq s = _) ∧ (_ → _ → _ → execDiagMapRead rq s = _) ∧ (_ → execDiagMapRead rq s = _)
  rw [execDiagMapRead, request_plain h rfl (by simp [p, rangePayload_length, lenIs])]
  simp only [p, rangePayload_kind, rangePayload_count _ _ _ hc, rangePayload_start _ _ _ hs, after_diag, total]
  refine ⟨?_, ?_, fun out => ?_⟩
  · rintro rfl one top
    have fits : ¬(count = 0 ∨ 254 < count) := by omega
    simp [fits, repOk]
  · rintro rfl one top
    have fits : ¬(count = 0 ∨ 1016 < count) := by omega
    simp [fits, repOk]
  · have bad : (decide (1 < mp.toNat) || decide (count = 0) || decide ((if mp.toNat = 0 then 254 else 1016) < count)) = true := by
      rcases out with none | other | ⟨rfl, past⟩ | ⟨rfl, past⟩
      · simp [none]
      · simp [other]
      · simp [past]
      · simp [past]
    rw [if_pos bad]
    rfl

/-! ### PIXEL_TEST (R118 to R120) -/

/-- The payload of a PIXEL_TEST: the pixel's address word, ACTION and the flags. -/
theorem pixelTest_fields {w : Nat} (act f y z : Byte) (hw : w < 2 ^ 32) :
    field (le 4 w ++ [act, f, y, z]) 0 4 = w ∧ field (le 4 w ++ [act, f, y, z]) 4 1 = act.toNat ∧
      field (le 4 w ++ [act, f, y, z]) 5 1 = f.toNat := by
  have word := field_mid [] [act, f, y, z] 4 w 0 rfl
  have flags := field_byte (le 4 w ++ [act]) [y, z] f (i := 5) (by simp)
  refine ⟨?_, field_byte _ _ _ (le_length 4 w), by simpa using flags⟩
  rw [List.nil_append] at word
  rw [word]
  omega

/-- The pixel lies in a dark-protected region, and FORCE is not given (R119). -/
def barred (s : State) (i : Nat) (f : Byte) : Bool := inDpr s i && !f.toNat.testBit 0

/-- The pixel is in the map as LEAK or WICK: no measurement releases it (R119). -/
def leakOrWick (s : State) (i : Nat) : Bool := s.diag.defects.any (fun d => d.pix = i && (d.type = 3 || d.type = 5))

theorem barred_iff {s : State} {i : Nat} {f : Byte} : barred s i f = true ↔ inDpr s i = true ∧ f.toNat.testBit 0 = false := by simp [barred]

theorem leakOrWick_iff {s : State} {i : Nat} :
    leakOrWick s i = true ↔ ∃ d ∈ s.diag.defects, d.pix = i ∧ (d.type = 3 ∨ d.type = 5) := by simp [leakOrWick]

/-- A test of a pixel that has been accepted. -/
def testStarted (i : Nat) (release : Bool) (rq : Rq) (b : State) : State :=
  { takeHandle b with diag := { (takeHandle b).diag with test := some { pix := i, release, handle := newHandle b, src := rq.src } } }

section
variable {w i : Nat} {act f y z : Byte} {rq : Rq} {s : State}

/-- PIXEL_TEST of a pixel, outside SNUFFED, with an ACTION that there is. -/
theorem pixelTest_run (h : admits 0x71 rq s = true) (lit : s.pwr.mode ≠ .snuffed) (hw : w < 2 ^ 32) (pix : pixOfWord w = some i)
    (p : rq.payload = le 4 w ++ [act, f, y, z]) (known : act.toNat ≤ 2) :
    let b := after 0x71 rq s
    let r := if s.diag.test.isSome then rep stBusy b
      else if act = 2 then if isDefect s i then rep stOk b else rep stOk (evalDefects (enterDefect 4 4 i b))
      else if barred s i f then rep stRefused b
      else if act = 1 && leakOrWick s i then rep stRefused b
      else accept (fun h u => { u with diag := { u.diag with test := some { pix := i, release := act = 1, handle := h, src := rq.src } } }) b
    pixelTest rq s = answered 0x71 rq r.1 r.2 := by
  obtain ⟨word, action, flags⟩ := pixelTest_fields act f y z hw
  have one : act.toNat = 1 ↔ act = 1 := BitVec.toNat_inj (y := 1)
  have two : act.toNat = 2 ↔ act = 2 := BitVec.toNat_inj (y := 2)
  have map : isDefect (after 0x71 rq s) i = isDefect s i := by rw [isDefect, isDefect, after_diag]
  have region : inDpr (after 0x71 rq s) i = inDpr s i := by rw [inDpr, inDpr, after_diag]
  unfold pixelTest
  rw [request_plain h (by simp [after_mode, lit]) (by simp [p, lenIs])]
  simp only [p, word, action, flags, pix, map, region, after_diag, one, two]
  rw [if_neg (Nat.not_lt.2 known)]
  rfl

variable (h : admits 0x71 rq s = true) (lit : s.pwr.mode ≠ .snuffed) (hw : w < 2 ^ 32) (pix : pixOfWord w = some i)
  (p : rq.payload = le 4 w ++ [act, f, y, z])
include h lit hw pix p

/-- While a test runs every ACTION is BUSY. -/
theorem pixelTest_busy (known : act.toNat ≤ 2) (test : s.diag.test ≠ none) :
    pixelTest rq s = answered 0x71 rq { status := stBusy } (after 0x71 rq s) := by
  rw [pixelTest_run h lit hw pix p known, if_pos (Option.isSome_iff_ne_none.2 test)]
  rfl

/-- MEASURE and RELEASE are REFUSED in a dark-protected region without FORCE, and RELEASE of a LEAK or WICK pixel. -/
theorem pixelTest_refused (measure : act = 0 ∨ act = 1) (test : s.diag.test = none)
    (why : barred s i f = true ∨ act = 1 ∧ leakOrWick s i = true) :
    pixelTest rq s = answered 0x71 rq { status := stRefused } (after 0x71 rq s) := by
  have idle : ¬s.diag.test.isSome = true := by simp [test]
  have known : act.toNat ≤ 2 ∧ act ≠ 2 := by rcases measure with rfl | rfl <;> decide
  rw [pixelTest_run h lit hw pix p known.1, if_neg idle, if_neg known.2]
  by_cases region : barred s i f = true
  · rw [if_pos region]
    rfl
  · obtain ⟨release, held⟩ := why.resolve_left region
    have refused : (decide (act = 1) && leakOrWick s i) = true := by simp [release, held]
    rw [if_neg region, if_pos refused]
    rfl

/-- MEASURE, and RELEASE of a pixel that is neither LEAK nor WICK, take a handle and start the test. -/
theorem pixelTest_accepted {release : Bool} (r : decide (act = 1) = release) (measure : act = 0 ∨ act = 1) (test : s.diag.test = none)
    (region : barred s i f = false) (loose : act = 1 → leakOrWick s i = false) (free : handleFree s = true) :
    pixelTest rq s = answered 0x71 rq { status := stAccepted, handle := newHandle (after 0x71 rq s) }
      (testStarted i release rq (after 0x71 rq s)) := by
  subst r
  have idle : ¬s.diag.test.isSome = true := by simp [test]
  have known : act.toNat ≤ 2 ∧ act ≠ 2 := by rcases measure with rfl | rfl <;> decide
  have apart : ¬barred s i f = true := by simp [region]
  have releases : ¬(decide (act = 1) && leakOrWick s i) = true := by simpa using loose
  rw [pixelTest_run h lit hw pix p known.1, if_neg idle, if_neg known.2, if_neg apart, if_neg releases,
    accept_free ((after_handleFree ..).trans free)]
  rfl

omit p in
/-- DISABLE of a pixel: one that is in the map stays as it is, another enters as FORCED by a COMMAND. -/
theorem pixelTest_disabled (p : rq.payload = le 4 w ++ [2, f, y, z]) (test : s.diag.test = none) : pixelTest rq s =
    answered 0x71 rq { status := stOk }
      (if isDefect s i then after 0x71 rq s else evalDefects (enterDefect 4 4 i (after 0x71 rq s))) := by
  have idle : ¬s.diag.test.isSome = true := by simp [test]
  rw [pixelTest_run h lit hw pix p (by decide), if_neg idle, if_pos rfl]
  split <;> rfl

end

/-- A pixel that was not in the map is there after it has entered, its DIS latch set, and the judgement of the map leaves both (R106, R115). -/
theorem enterDefect_judged {type source i : Nat} {s : State} (h : isDefect s i = false) :
    let t := evalDefects (enterDefect type source i s)
    isDefect t i = true ∧ i ∈ t.arr.dis := by
  have view := (pixelView_congr (evalDefects_diagView (enterDefect type source i s)) i).trans (enterDefect_new h)
  simp only [pixelView, Prod.mk.injEq] at view
  obtain ⟨-, -, latch, map⟩ := view
  exact ⟨by rw [isDefect_eq, map]; rfl, List.contains_iff_mem.1 latch⟩

/-! ### The obligation -/

/-- Settles O56: the port's steps by what each leaves of its state, the two requests by their equations. -/
theorem storesAndTests : Obligations.StoresAndTests := by
  refine ⟨fun r q s up _ h run idle => ⟨fun window _ => ?_, (exec_nvmStoreStart up h run idle).2⟩, fun s => exec_nvmStoreStart_idle,
    fun r s up canon run content _ slots => ⟨⟨_, exec_nvmStoreComplete up run, ?_⟩, fun a lo hi =>
      ⟨_, exec_nvmStoreComplete_fails up run lo hi, ?_⟩⟩,
    fun mp z count start rq s h hc hs p => exec_diagMapRead h hc hs p, fun w i act f y z rq s h lit hw pix p => ?_⟩
  · obtain ⟨⟨u, started⟩, frame⟩ := beginStore_spec r { s with nvm := { s.nvm with queue := q } }
    obtain ⟨target, gen⟩ := nextStore_congr (s := s) (t := { s with nvm := { s.nvm with queue := q } }) rfl r.content
    rw [target] at frame
    rw [target, gen, storeBody_queues s q s.nvm.retry] at started
    obtain ⟨runs, content, who, slot, rest⟩ := started
    exact ⟨_, u, (exec_nvmStoreStart up h run idle).1 window, runs, content, who, slot, rest.1, rest.2, by rwa [slot]⟩
  · exact commitStore_spec (canonical_iff.1 canon).2.1 (by omega)
  · have view := commitView_failStore r a s
    simp only [commitView, Prod.mk.injEq] at view
    obtain ⟨word, ended, fails⟩ := view
    exact ⟨ended, fails, by rw [slotCommitted, slotCommitted, mramRead, mramRead, word]⟩
  · have apart (k : ¬(inDpr s i = true ∧ f.toNat.testBit 0 = false)) : barred s i f = false := Bool.eq_false_iff.2 (k ∘ barred_iff.1)
    have loose (k : ¬∃ d ∈ s.diag.defects, d.pix = i ∧ (d.type = 3 ∨ d.type = 5)) : leakOrWick s i = false :=
      Bool.eq_false_iff.2 (k ∘ leakOrWick_iff.1)
    refine ⟨?_, ?_, ?_, ?_, ?_, ?_, ?_⟩
    · rintro rfl test region free
      exact pixelTest_accepted h lit hw pix p (by decide) (.inl rfl) test (apart region) (fun k => absurd k (by decide)) free
    · rintro rfl test region free_ free
      exact pixelTest_accepted h lit hw pix p (by decide) (.inr rfl) test (apart region) (fun _ => loose free_) free
    · rintro rfl test region
      exact pixelTest_refused h lit hw pix p (.inl rfl) test (.inl (barred_iff.2 region))
    · rintro rfl test held
      exact pixelTest_refused h lit hw pix p (.inr rfl) test (.inr ⟨rfl, leakOrWick_iff.2 held⟩)
    · rintro rfl test known
      exact (pixelTest_disabled h lit hw pix p test).trans (by rw [if_pos known])
    · rintro rfl test new
      have absent : isDefect (after 0x71 rq s) i = false := by rwa [isDefect, after_diag]
      refine ⟨_, (pixelTest_disabled h lit hw pix p test).trans (by rw [new]; rfl), enterDefect_judged absent⟩
    · intro test known
      have busy := pixelTest_busy h lit hw pix p known test
      exact ⟨busy, busy, busy⟩

end Sys2Proof.Machine
end

section
/-! A LINE_DATA whose words lie in two banks of a pool that no bank is marked for (R226, R294, R297), and O44. -/

namespace Sys2Proof.Machine

/-- The columns of one lane with a LINE_DATA for layer 0, line 0, offset 0: two words of ones. -/
def twoWordLine : List (List LaneWord) := columnsOf [false] (packetSyms 1 2 0 [] (List.replicate 16 1))

/-- A layer that receives a frame of one line of 16 bytes into its buffer at address 0. -/
def oneLineLayer : Layer :=
  { en := true, back := .filling, receiving := true, cfg := { format := 1, srcW := 16, srcH := 1, stride := 16 } }

/-- A state with a host path of one lane that is up and a frame open for layer 0. MEM_POOL maps words over 8 banks from bank 0, and no bank
is marked POOLED; the host link may write bank 0, and nobody bank 1. -/
def unmarkedPool : State :=
  { State.reset with
    pwr := { State.reset.pwr with inReset := false, mode := .beam, limral := true }
    lnk := { State.reset.lnk with bondMask := 1 }
    rope := { State.reset.rope with host := { State.reset.rope.host with up := true } }
    cmp := { State.reset.cmp with layers := State.reset.cmp.layers.set 0 oneLineLayer }
    mem := { State.reset.mem with poolSize := 1, banks := State.reset.mem.banks.set 1 { use := 0 } } }

theorem brings_twoWordLine : brings .host twoWordLine (rxOf .host twoWordLine unmarkedPool) unmarkedPool := by
  refine ⟨?_, rfl, rfl⟩
  decide +kernel

/-- The columns bring a valid LINE_DATA at the position that the layer expects. -/
theorem rxOf_twoWordLine :
    let r := rxOf .host twoWordLine unmarkedPool
    r.out = .whole ∧ hdrType r.hdr = 2 ∧ validPacket unmarkedPool .host r.hdr = true ∧ hdrChan r.hdr = 0 ∧ hdrField r.hdr 6 2 = 0 ∧
      hdrField r.hdr 8 2 = 0 ∧ r.body.length = 16 := by
  decide +kernel

/-- The store serves, in canonical form and with all its units; its second word holds zeros, and lies in a bank that the link may not
write. -/
theorem unmarkedPool_store :
    storeUp unmarkedPool = true ∧ canonical unmarkedPool = true ∧ shaped unmarkedPool = true ∧
      mayWrite (bankOf unmarkedPool (bankAt unmarkedPool 8)).use 4 = false ∧ wordAt unmarkedPool 8 = List.replicate 8 0 := by
  decide +kernel

/-- The word at an address in the state that a step answers. -/
def wordAfter (r : Res) (a : Nat) : List Byte :=
  match r with
  | .next t => wordAt t a
  | _ => []

/-- Both words go out in one request, which is judged by the bank of the first: the second is written too. -/
theorem exec_twoWordLine : wordAfter (exec (.lineData .host twoWordLine 0 []) unmarkedPool) 8 = List.replicate 8 1 := by
  decide +kernel

/-- Refutes O44: the clause about the words of a LINE_DATA judges each word by its own bank, and asks nothing about how the mapping of the
pool (MEM_POOL) and the banks' POOLED marks fit together. The model cuts a request to one word where its bank is marked, and takes it for
a burst within one bank where it is not; with a pool mapped and no bank marked, a burst runs on into a bank that the link may not write.
(After reset there is no pool and no mark, and `handoversDone`, the one place that sets either, marks exactly the banks that it maps
(R297); the clause wants that agreement as a hypothesis.) -/
theorem not_framesArrive : ¬ Obligations.FramesArrive := by
  unfold Obligations.FramesArrive
  rintro ⟨-, lineData, -⟩
  obtain ⟨whole, type, valid, chan, line, off, len⟩ := rxOf_twoWordLine
  obtain ⟨serves, canon, shape, foreign, before⟩ := unmarkedPool_store
  obtain ⟨arrives, -⟩ := lineData .host twoWordLine _ 0 [] 0 oneLineLayer unmarkedPool brings_twoWordLine whole type valid chan.symm rfl
  simp only [line, off, len] at arrives
  obtain ⟨t, y, run, -, -, -, -, -, -, -, -, -, words⟩ := arrives rfl (by decide) (by decide)
  obtain ⟨-, stays⟩ := words serves canon shape (by decide) (by decide) 1 (by decide)
  have kept : wordAt t 8 = List.replicate 8 0 := (stays (.inr (Bool.eq_false_iff.1 foreign))).trans before
  have written : wordAt t 8 = List.replicate 8 1 := by
    have after := exec_twoWordLine
    rwa [run] at after
  exact absurd (kept.symm.trans written) (by decide)

end Sys2Proof.Machine
end

section
/-! Requests to the layers, the tables and the signature regions (R144 to R153, R162 to R164, R187): what taking one leaves alone, a payload
of the wrong length, and changes at a place of a list. -/

namespace Sys2Proof.Machine

@[simp] theorem after_cmp (op : Nat) (rq : Rq) (s : State) : (after op rq s).cmp = s.cmp := by rw [(after_only op rq s).1]

@[simp] theorem after_scl (op : Nat) (rq : Rq) (s : State) : (after op rq s).scl = s.scl := by rw [(after_only op rq s).1]

@[simp] theorem after_mem (op : Nat) (rq : Rq) (s : State) : (after op rq s).mem = s.mem := by rw [(after_only op rq s).1]

@[simp] theorem layerOf_after (op : Nat) (rq : Rq) (s : State) (n : Nat) : layerOf (after op rq s) n = layerOf s n :=
  layerOf_congr (congrArg Cmp.layers (after_cmp ..)) n

@[simp] theorem groupOf_after (op : Nat) (rq : Rq) (s : State) (g : Nat) : groupOf (after op rq s) g = groupOf s g :=
  groupOf_congr (congrArg Cmp.groups (after_cmp ..)) g

theorem getD_at {α : Type} {l : List α} {i : Nat} {a : α} (d : α) (h : l[i]? = some a) : l.getD i d = a := by
  simp [List.getD_eq_getElem?_getD, h]

/-- A change of a layer that is there. -/
theorem modLayer_at {n : Nat} {l : Layer} {s : State} (h : s.cmp.layers[n]? = some l) (f : Layer → Layer) :
    modLayer n f s = { s with cmp := { s.cmp with layers := s.cmp.layers.set n (f l) } } := by
  rw [modLayer, modNth_eq_set f h]

theorem layers_length {s : State} (h : shaped s = true) : s.cmp.layers.length = 6 := by
  simp only [shaped, decide_eq_true_eq, List.cons.injEq] at h
  tauto

theorem groups_length {s : State} (h : shaped s = true) : s.cmp.groups.length = 3 := by
  simp only [shaped, decide_eq_true_eq, List.cons.injEq] at h
  tauto

/-- A request whose payload has a length that its opcode does not take is answered BAD_PARAM (step 8 of R241). -/
theorem request_badLength {op : Nat} {rq : Rq} {s : State} {modeOk : State → Bool} {lenOk : Nat → Bool} {body : Body}
    (h : admits op rq s = true) (m : modeOk (after op rq s) = true) (l : lenOk rq.payload.length = false) :
    request rq op modeOk lenOk false body s = answered op rq { status := stBadParam } (after op rq s) := by
  have checked : request rq op modeOk lenOk false body s = request rq op modeOk (fun _ => true) false (rep stBadParam) s := by
    unfold request judge
    simp [l]
  rw [checked, request_plain h m rfl]
  rfl

end Sys2Proof.Machine
end

section
/-! LAYER_CONFIG and LAYER_ENABLE (R124 to R126, R144 to R148, R161), and O48. -/

namespace Sys2Proof.Machine

/-! ### The fields of a LAYER_CONFIG (R145) -/

/-- A field of a LAYER_CONFIG passes: it is good, and no changed storage field of an enabled layer. -/
def fieldPasses (en : Bool) (l : List (Bool × Bool)) (k : Nat) : Prop := ∃ f, l[k]? = some f ∧ f.1 = true ∧ (en = false ∨ f.2 = false)

/-- Fields that pass do not decide. -/
theorem firstFailure_drop {en : Bool} {l : List (Bool × Bool)} {k : Nat} (h : ∀ j, j < k → fieldPasses en l j) :
    firstFailure en l = firstFailure en (l.drop k) := by
  induction k generalizing l with
  | zero => rfl
  | succ k ih =>
    obtain ⟨f, hf, good, kept⟩ := h 0 (Nat.succ_pos k)
    cases l with
    | nil => cases hf
    | cons g l =>
      obtain rfl : g = f := by simpa using hf
      have step : firstFailure en (g :: l) = firstFailure en l := by
        rcases kept with e | e <;> simp [firstFailure, good, e]
      rw [step, List.drop_succ_cons]
      exact ih (fun j hj => by simpa [fieldPasses] using h (j + 1) (Nat.succ_lt_succ hj))

/-- The first field that does not pass decides. -/
theorem firstFailure_at {en : Bool} {l : List (Bool × Bool)} {k : Nat} {f : Bool × Bool} (hf : l[k]? = some f)
    (h : ∀ j, j < k → fieldPasses en l j) : firstFailure en l = firstFailure en (f :: l.drop (k + 1)) := by
  obtain ⟨hk, rfl⟩ := List.getElem?_eq_some_iff.1 hf
  rw [firstFailure_drop h, List.drop_eq_getElem_cons hk]

/-- Where all fields pass, none decides. -/
theorem firstFailure_none {en : Bool} {l : List (Bool × Bool)} (h : ∀ k, k < l.length → fieldPasses en l k) : firstFailure en l = none := by
  rw [firstFailure_drop h, List.drop_length]
  rfl

/-! ### LAYER_CONFIG (R144 to R146) -/

/-- The resource checks look at the layers and the store. -/
theorem layerReason_congr {s t : State} (c : t.cmp = s.cmp) (m : t.mem = s.mem) (n : Nat) (l : LayerCfg) :
    layerReason n l t = layerReason n l s := by
  have e : t = { t with cmp := s.cmp, mem := s.mem } := by rw [← c, ← m]
  rw [e]
  rfl

section
variable {rq : Rq} {s : State} (h : admits 0x20 rq s = true) (len : rq.payload.length = 40)
include h len

/-- LAYER_CONFIG with a field that fails. -/
theorem layerConfig_fails {st : Nat}
    (v : layerVerdict (field rq.payload 0 1) (layerCfgOf rq.payload) (layerOf s (field rq.payload 0 1)) = some st) :
    exec (.layerConfig rq) s = answered 0x20 rq { status := st } (after 0x20 rq s) := by
  change execLayerConfig rq s = _
  unfold execLayerConfig
  dsimp only
  refine Eq.trans (request_plain h rfl (by simp [len, lenIs])) ?_
  simp only [layerOf_after, v]
  rfl

variable (v : layerVerdict (field rq.payload 0 1) (layerCfgOf rq.payload) (layerOf s (field rq.payload 0 1)) = none)
include v

/-- LAYER_CONFIG whose fields pass, with a resource that is lacking. -/
theorem layerConfig_lacks (lacking : layerReason (field rq.payload 0 1) (layerCfgOf rq.payload) s ≠ 0) :
    let r := layerReason (field rq.payload 0 1) (layerCfgOf rq.payload) s
    ∃ x y, exec (.layerConfig rq) s = answered 0x20 rq
        { status := stNoResource, payload := le 1 r ++ le 1 0 ++ le 2 x ++ le 2 y ++ le 2 0 } (after 0x20 rq s) ∧
      (r ≠ 1 → x = 0 ∧ y = 0) := by
  intro r
  refine ⟨if r = 1 then axisLimit (layerCfgOf rq.payload).srcW (layerCfgOf rq.payload).dstW else 0,
    if r = 1 then axisLimit (layerCfgOf rq.payload).srcH (layerCfgOf rq.payload).dstH else 0, ?_, fun ne => ⟨if_neg ne, if_neg ne⟩⟩
  change execLayerConfig rq s = _
  unfold execLayerConfig
  dsimp only
  refine Eq.trans (request_plain h rfl (by simp [len, lenIs])) ?_
  simp only [layerOf_after, v, layerReason_congr (after_cmp ..) (after_mem ..), if_pos lacking]
  rfl

variable (free : layerReason (field rq.payload 0 1) (layerCfgOf rq.payload) s = 0)
include free

/-- LAYER_CONFIG whose fields and resources pass: an enabled layer keeps the configuration for its latch. -/
theorem layerConfig_taken :
    let n := field rq.payload 0 1
    let c := layerCfgOf rq.payload
    exec (.layerConfig rq) s = answered 0x20 rq { status := stOk }
      (modLayer n (if (layerOf s n).en then fun l => { l with pend := some c } else fun l => { l with cfg := c, pend := none })
        (after 0x20 rq s)) := by
  change execLayerConfig rq s = _
  unfold execLayerConfig
  dsimp only
  refine Eq.trans (request_plain h rfl (by simp [len, lenIs])) ?_
  simp only [layerOf_after, v, layerReason_congr (after_cmp ..) (after_mem ..), free]
  cases (layerOf s (field rq.payload 0 1)).en <;> rfl

end

/-! ### LAYER_ENABLE (R147, R148) -/

/-- One layer of a LAYER_ENABLE follows its bit. -/
def followBit (on : Nat) (s : State) (n : Nat) : State :=
  if on.testBit n = (layerOf s n).en then s else if on.testBit n then startLayer n s else stopLayer n s

theorem followBit_other {on n m : Nat} (s : State) (h : m ≠ n) : layerOf (followBit on s n) m = layerOf s m := by
  unfold followBit
  split
  · rfl
  · split
    · exact layerOf_modLayer_other h ..
    · exact layerOf_modLayer_other h ..

theorem followBit_length (on : Nat) (s : State) (n : Nat) : (followBit on s n).cmp.layers.length = s.cmp.layers.length := by
  unfold followBit
  split
  · rfl
  · split
    · exact modNth_length ..
    · exact modNth_length ..

theorem followBit_same {on n : Nat} {s : State} (h : on.testBit n = (layerOf s n).en) : followBit on s n = s := if_pos h

/-- A layer that is newly enabled (R148, R180). -/
theorem followBit_starts {on n : Nat} {s : State} (len : n < s.cmp.layers.length) (hon : on.testBit n = true) (off : (layerOf s n).en = false) :
    let l := layerOf (followBit on s n) n
    l.en = true ∧ l.hasFront = false ∧ l.back = .empty ∧ l.aliveValid = false ∧ l.stale = 0 ∧ l.cfg = (layerOf s n).cfg := by
  have start : followBit on s n = startLayer n s := by simp [followBit, hon, off]
  simp only [start, startLayer, layerOf_modLayer_same (s := condOff 0x0210 n s) len, true_and]
  rfl

/-- A layer that is newly disabled (R148). -/
theorem followBit_stops {on n : Nat} {s : State} (len : n < s.cmp.layers.length) (off : on.testBit n = false) (hon : (layerOf s n).en = true) :
    let l := layerOf (followBit on s n) n
    l.en = false ∧ l.receiving = false ∧ l.back ≠ .filling ∧ l.cfg = (layerOf s n).cfg := by
  have stop : followBit on s n = stopLayer n s := by simp [followBit, hon, off]
  simp only [stop, stopLayer, layerOf_modLayer_same len]
  split
  · simp
  · rename_i filling
    exact ⟨rfl, rfl, filling, rfl⟩

/-- LAYER_ENABLE: refused whole, or every layer of the mask follows its bit. -/
theorem exec_layerEnable {m on x y : Byte} {rq : Rq} {s : State} (h : admits 0x21 rq s = true) (p : rq.payload = [m, on, x, y]) :
    exec (.layerEnable rq) s =
      if (bitsOf m.toNat 6).any (fun n => on.toNat.testBit n && (layerOf s n).cfg.srcW = 0) then
        answered 0x21 rq { status := stRefused } (after 0x21 rq s)
      else answered 0x21 rq { status := stOk } ((bitsOf m.toNat 6).foldl (followBit on.toNat) (after 0x21 rq s)) := by
  change execLayerEnable rq s = _
  unfold execLayerEnable
  dsimp only
  refine Eq.trans (request_plain h rfl (by simp [p, lenIs])) ?_
  simp only [p, field_head, field_second, layerOf_after]
  split <;> rfl

theorem mem_bitsOf {m k n : Nat} : n ∈ bitsOf m k ↔ n < k ∧ m.testBit n = true := by simp [bitsOf]

theorem bitsOf_nodup (m k : Nat) : (bitsOf m k).Nodup := List.nodup_range.filter _

/-- A layer outside the mask stays. -/
theorem followBits_other {on n : Nat} {l : List Nat} (s : State) (h : n ∉ l) : layerOf (l.foldl (followBit on) s) n = layerOf s n :=
  foldl_view_mem (v := fun s => layerOf s n) l (fun x _ mem => followBit_other x (fun e => h (e ▸ mem))) s

/-- A layer of the mask ends as its own bit leaves it, in a state that had it as it was. -/
theorem followBits_same {on n : Nat} {l : List Nat} (s : State) (nd : l.Nodup) (h : n ∈ l) :
    ∃ r, r.cmp.layers.length = s.cmp.layers.length ∧ layerOf r n = layerOf s n ∧
      layerOf (l.foldl (followBit on) s) n = layerOf (followBit on r n) n :=
  foldl_focus (v := fun s => s.cmp.layers.length) (w := fun s => layerOf s n) nd h (followBit_length on)
    (fun x _ ne => followBit_other x (Ne.symm ne)) s

/-! ### The obligation -/

/-- Settles O48: the field that decides by `firstFailure_at`; of LAYER_ENABLE's fold over the mask, the one step that touches a layer. -/
theorem layerCommandsAnswer : Obligations.LayerCommandsAnswer := by
  unfold Obligations.LayerCommandsAnswer
  refine ⟨fun rq s h len => ?_, fun m on x y rq s h shape p => ?_⟩
  · intro n c b l fields passes
    have verdict (hn : n ≤ 5) : layerVerdict n c l = firstFailure l.en fields := if_neg (by omega)
    have allPass (hn : n ≤ 5) (all : ∀ k, k < 14 → passes k) : layerVerdict n c l = none := (verdict hn).trans (firstFailure_none all)
    refine ⟨fun hn => layerConfig_fails h len (if_pos hn), fun k f hn hf before bad => layerConfig_fails h len ?_,
      fun k f hn hf before good en changed => layerConfig_fails h len ?_, fun hn all => layerConfig_lacks h len (allPass hn all),
      fun hn all en free hl => ?_, fun hn all en free hl => ?_⟩
    · exact (verdict hn).trans ((firstFailure_at hf before).trans (by simp [firstFailure, bad]))
    · exact (verdict hn).trans ((firstFailure_at hf before).trans (by simp [firstFailure, good, en, changed]))
    · rw [layerConfig_taken h len (allPass hn all) free, modLayer_at (by rwa [after_cmp]), if_neg (Bool.eq_false_iff.1 en)]
    · rw [layerConfig_taken h len (allPass hn all) free, modLayer_at (by rwa [after_cmp]), if_pos en]
  · intro lacks
    rw [exec_layerEnable h p]
    have refused : (bitsOf m.toNat 6).any (fun n => on.toNat.testBit n && (layerOf s n).cfg.srcW = 0) = true ↔ ∃ n, n < 6 ∧ lacks n := by
      simp [lacks, mem_bitsOf, and_assoc]
    refine ⟨fun lacking => if_pos (refused.2 lacking), fun ready => ⟨_, if_neg (mt refused.1 (by simpa using ready)), fun n hn => ?_⟩⟩
    have other (hm : m.toNat.testBit n = false) : n ∉ bitsOf m.toNat 6 := fun mem => by simp [mem_bitsOf, hm] at mem
    have same (hm : m.toNat.testBit n = true) : ∃ r, n < r.cmp.layers.length ∧ layerOf r n = layerOf s n ∧
        layerOf ((bitsOf m.toNat 6).foldl (followBit on.toNat) (after 0x21 rq s)) n = layerOf (followBit on.toNat r n) n := by
      obtain ⟨r, len, was, ends⟩ := followBits_same (on := on.toNat) (after 0x21 rq s) (bitsOf_nodup ..) (mem_bitsOf.2 ⟨hn, hm⟩)
      exact ⟨r, by rw [len, after_cmp, layers_length shape]; exact hn, was.trans (layerOf_after ..), ends⟩
    refine ⟨fun stays => ?_, fun hm hon off => ?_, fun hm off hon => ?_⟩
    · by_cases hm : m.toNat.testBit n = true
      · obtain ⟨r, -, was, ends⟩ := same hm
        have bit : on.toNat.testBit n = (layerOf s n).en := stays.resolve_left (by simp [hm])
        rw [ends, followBit_same (by rw [was, bit]), was]
      · rw [followBits_other _ (other (Bool.eq_false_iff.2 hm)), layerOf_after]
    · obtain ⟨r, there, was, ends⟩ := same hm
      rw [ends, ← was]
      exact followBit_starts there hon (was ▸ off)
    · obtain ⟨r, there, was, ends⟩ := same hm
      rw [ends, ← was]
      exact followBit_stops there off (was ▸ hon)

end Sys2Proof.Machine
end

section
/-! FLIP_GROUP and FENCE_SIGNAL (R134, R135, R137, R149 to R151), and O49. -/

namespace Sys2Proof.Machine

/-! ### Groups and their ARMs (R137, R150) -/

theorem groupOf_at {g : Nat} {k : Group} {s : State} (h : s.cmp.groups[g]? = some k) : groupOf s g = k := getD_at _ h

/-- A change of a group that is there. -/
theorem modGroup_at {g : Nat} {k : Group} {s : State} (h : s.cmp.groups[g]? = some k) (f : Group → Group) :
    modGroup g f s = { s with cmp := { s.cmp with groups := s.cmp.groups.set g (f k) } } := by
  rw [modGroup, modNth_eq_set f h]

/-- Without a pending ARM nothing ends. -/
theorem dropArm_none {g st : Nat} {s : State} (h : (groupOf s g).arm = none) : dropArm g st s = s := by simp [dropArm, h]

/-- The end of a group's ARM leaves the groups all but that. -/
theorem dropArm_groups (g st : Nat) (s : State) :
    (dropArm g st s).cmp.groups = modNth s.cmp.groups g (fun k => { k with arm := none }) := by
  unfold dropArm
  split
  · rw [completeOpen_cmp]
    rfl
  · rename_i idle
    have kept : { groupOf s g with arm := none } = groupOf s g := by rw [← idle]
    exact (modNth_self _ _ _ {} kept).symm

/-- A group whose ARM has ended, after a change. -/
theorem groupOf_dropArm {g st : Nat} {s : State} (h : g < s.cmp.groups.length) (f : Group → Group) :
    groupOf (modGroup g f (dropArm g st s)) g = f { groupOf s g with arm := none } := by
  have len : g < (dropArm g st s).cmp.groups.length := by rwa [dropArm_groups, modNth_length]
  have dropped : groupOf (dropArm g st s) g = { groupOf s g with arm := none } := by
    rw [groupOf, dropArm_groups, modNth_getD, if_pos ⟨rfl, h⟩]
    rfl
  rw [groupOf_modGroup, if_pos ⟨rfl, len⟩, dropped]

/-! ### FLIP_GROUP (R149, R150) -/

/-- Another group has a layer of the mask among its members, as last configured. -/
def memberClash (g mask : Nat) (s : State) : Bool := (List.range 3).any (fun h => h ≠ g && (lastGroup (groupOf s h)).1 &&& mask ≠ 0)

theorem memberClash_iff {g mask : Nat} {s : State} :
    memberClash g mask s = true ↔ ∃ h, h < 3 ∧ h ≠ g ∧ (lastGroup (groupOf s h)).1 &&& mask ≠ 0 := by
  simp [memberClash]

section
variable {g m a z0 z1 z2 z3 : Byte} {rq : Rq} {s : State} (h : admits 0x22 rq s = true)
include h

theorem exec_flipGroupConfigure (p : rq.payload = [g, 0, m, a, z0, z1, z2, z3]) :
    let b := after 0x22 rq s
    let mask := m.toNat % 64
    exec (.flipGroupConfigure rq) s =
      if 2 < g.toNat ∨ 1 < a.toNat then answered 0x22 rq { status := stBadParam } b
      else if memberClash g.toNat mask s then answered 0x22 rq { status := stRefused } b
      else answered 0x22 rq { status := stOk }
        (modGroup g.toNat (fun k => { k with pend := some (mask, a.toNat == 1) }) (dropArm g.toNat stSuperseded b)) := by
  change flipGroup rq s = _
  unfold flipGroup
  dsimp only
  refine Eq.trans (request_plain h rfl (by simp [p, lenIs])) ?_
  have fields : field rq.payload 0 1 = g.toNat ∧ field rq.payload 1 1 = 0 ∧ field rq.payload 2 1 = m.toNat ∧
      field rq.payload 3 1 = a.toNat := by
    simp [p, field, slice, leVal]
  obtain ⟨f0, f1, f2, f3⟩ := fields
  simp only [f0, f1, f2, f3, groupOf_after, if_true]
  by_cases bad : 2 < g.toNat ∨ 1 < a.toNat
  · rw [if_pos bad]
    by_cases hg : 2 < g.toNat
    · rw [if_pos (by simp [hg])]
      rfl
    · rw [if_neg (by simp [hg]), if_pos (bad.resolve_left hg)]
      rfl
  · rw [if_neg bad]
    rw [not_or] at bad
    rw [if_neg (by simp [bad.1]), if_neg bad.2]
    unfold memberClash
    split <;> rfl

theorem exec_flipGroupArm (p : rq.payload = [g, 1, m, a, z0, z1, z2, z3]) (hg : g.toNat ≤ 2) :
    let b := after 0x22 rq s
    let mask := m.toNat % 64
    let k := lastGroup (groupOf s g.toNat)
    exec (.flipGroupArm rq) s =
      if k.2 = false then answered 0x22 rq { status := stRefused } b
      else if mask = 0 ∨ mask &&& k.1 ≠ mask then answered 0x22 rq { status := stBadParam } b
      else if handleFree s then answered 0x22 rq { status := stAccepted, handle := newHandle b }
        (modGroup g.toNat (fun k => { k with arm := some { mask, handle := newHandle b, src := rq.src } })
          (dropArm g.toNat stSuperseded (takeHandle b)))
      else answered 0x22 rq { status := stBusy } b := by
  change flipGroup rq s = _
  unfold flipGroup
  dsimp only
  refine Eq.trans (request_plain h rfl (by simp [p, lenIs])) ?_
  have fields : field rq.payload 0 1 = g.toNat ∧ field rq.payload 1 1 = 1 ∧ field rq.payload 2 1 = m.toNat := by
    simp [p, field, slice, leVal]
  obtain ⟨f0, f1, f2⟩ := fields
  simp only [f0, f1, f2, groupOf_after]
  rw [if_neg (by simp [hg]), if_neg (by decide)]
  by_cases policy : (lastGroup (groupOf s g.toNat)).2 = false
  · rw [if_pos policy, if_pos (by simp [policy])]
    rfl
  · rw [if_neg policy, if_neg (by simpa using policy)]
    by_cases mask : m.toNat % 64 = 0 ∨ m.toNat % 64 &&& (lastGroup (groupOf s g.toNat)).1 ≠ m.toNat % 64
    · rw [if_pos mask, if_pos (by simpa using mask)]
      rfl
    · rw [if_neg mask, if_neg (by simpa using mask), accept, after_handleFree]
      split <;> rfl

end

/-! ### FENCE_SIGNAL (R134, R135, R151) -/

/-- One of some fence IDs is carried by a layer's back buffer. -/
def carriesOne (ids : List Byte) (l : Layer) : Prop := ∃ f ∈ ids, carriesFence f.toNat l = true

/-- The IDs of a list that no back buffer carries, each as often as it stands there. -/
def orphanIds (ids : List Byte) (s : State) : List Byte :=
  ids.filter (fun f => (List.range 6).all (fun n => !carriesFence f.toNat (layerOf s n)))

/-- A layer whose back buffer is released (R134). -/
def releasedLayer (l : Layer) : Layer := { l with released := true, back := if l.back = .fenced then .ready else l.back }

/-- The layers whose back buffers carry one of some fence IDs. -/
def hitLayers (ids : List Byte) (s : State) : List Nat :=
  (List.range 6).filter (fun n => (ids.map (·.toNat)).any (fun f => carriesFence f (layerOf s n)))

theorem mem_hitLayers {ids : List Byte} {s : State} {n : Nat} : n ∈ hitLayers ids s ↔ n < 6 ∧ carriesOne ids (layerOf s n) := by
  simp [hitLayers, carriesOne]

theorem hitLayers_nodup (ids : List Byte) (s : State) : (hitLayers ids s).Nodup := List.nodup_range.filter _

/-- Fence IDs are applied to the buffers as they stand (R151). -/
theorem signalFences_eq (ids : List Byte) (s : State) :
    signalFences (ids.map (·.toNat)) s =
      (((hitLayers ids s).filter (fun n => !(layerOf s n).released)).length, (orphanIds ids s).length,
        (hitLayers ids s).foldl releaseBack { s with cmp := { s.cmp with orphans := satAdd 16 s.cmp.orphans (orphanIds ids s).length } }) := by
  have orphans : ((ids.map (·.toNat)).filter (fun f => (fenceHits s f).isEmpty)).length = (orphanIds ids s).length := by
    have carried (f : Byte) : (fenceHits s f.toNat).isEmpty = (List.range 6).all (fun n => !carriesFence f.toNat (layerOf s n)) := by
      rw [Bool.eq_iff_iff]
      simp [fenceHits]
    rw [List.filter_map, List.length_map, orphanIds]
    simp only [Function.comp_def, carried]
  simp only [signalFences, orphans]
  rfl

/-- The release of back buffers touches the layers alone. -/
theorem releaseBacks_only (l : List Nat) (s : State) :
    l.foldl releaseBack s = { s with cmp := { s.cmp with layers := (l.foldl releaseBack s).cmp.layers } } := by
  induction l generalizing s with
  | nil => rfl
  | cons n l ih => exact (ih (releaseBack s n)).trans rfl

theorem releaseBacks_other {l : List Nat} {n : Nat} (s : State) (h : n ∉ l) : layerOf (l.foldl releaseBack s) n = layerOf s n :=
  foldl_view_mem (v := fun s => layerOf s n) l (fun _ _ mem => layerOf_modLayer_other (ne_of_mem_of_not_mem mem h).symm ..) s

theorem releaseBacks_same {l : List Nat} {n : Nat} {s : State} (nd : l.Nodup) (h : n ∈ l) (len : n < s.cmp.layers.length) :
    layerOf (l.foldl releaseBack s) n = releasedLayer (layerOf s n) := by
  obtain ⟨r, hr, was, ends⟩ := foldl_focus (g := releaseBack) (v := fun s => s.cmp.layers.length) (w := fun s => layerOf s n) nd h
    (fun x i => modNth_length ..) (fun x i ne => layerOf_modLayer_other (Ne.symm ne) ..) s
  have hr : r.cmp.layers.length = s.cmp.layers.length := hr
  have was : layerOf r n = layerOf s n := was
  refine ends.trans ((layerOf_modLayer_same (hr ▸ len) _).trans ?_)
  rw [was]
  rfl

/-- How many buffers fence IDs release. -/
theorem released_count (ids : List Byte) (s : State) :
    let r := ((hitLayers ids s).filter (fun n => !(layerOf s n).released)).length
    r ≤ 6 ∧ (r = 0 ↔ ∀ n, n < 6 → ¬(carriesOne ids (layerOf s n) ∧ (layerOf s n).released = false)) := by
  refine ⟨(List.length_filter_le ..).trans (List.length_filter_le ..), ?_⟩
  rw [List.length_eq_zero_iff, List.filter_eq_nil_iff]
  simp only [mem_hitLayers, Bool.not_eq_true', and_imp, not_and]

/-- A layer after fence IDs have been applied. -/
theorem layerOf_signalFences {ids : List Byte} {s : State} (len : s.cmp.layers.length = 6) {n : Nat} (hn : n < 6) :
    let t := (signalFences (ids.map (·.toNat)) s).2.2
    (carriesOne ids (layerOf s n) → layerOf t n = releasedLayer (layerOf s n)) ∧
      (¬carriesOne ids (layerOf s n) → layerOf t n = layerOf s n) := by
  simp only [signalFences_eq]
  refine ⟨fun yes => ?_, fun no => ?_⟩
  · exact releaseBacks_same (hitLayers_nodup ids s) (mem_hitLayers.2 ⟨hn, yes⟩) (len.symm ▸ hn)
  · exact releaseBacks_other _ (fun mem => no (mem_hitLayers.1 mem).2)

/-- Applying fence IDs touches the layers and the count of orphans. -/
theorem signalFences_only (ids : List Byte) (s : State) :
    let t := (signalFences (ids.map (·.toNat)) s).2.2
    t = { s with cmp := { s.cmp with layers := t.cmp.layers, orphans := min 65535 (s.cmp.orphans + (orphanIds ids s).length) } } := by
  have count (n d : Nat) : satAdd 16 n d = min 65535 (n + d) := Nat.min_comm ..
  simp only [signalFences_eq, count]
  exact releaseBacks_only ..

section
variable {rq : Rq} {s : State} (h : admits 0x23 rq s = true)
include h

theorem fenceSignal_badLength {c : Byte} {rest : List Byte} (p : rq.payload = c :: rest)
    (bad : c.toNat < 1 ∨ 16 < c.toNat ∨ rq.payload.length ≠ 4 + c.toNat) :
    exec (.fenceSignal rq) s = answered 0x23 rq { status := stBadParam } (after 0x23 rq s) := by
  have count : field rq.payload 0 1 = c.toNat := by rw [p, field_head]
  change execFenceSignal rq s = _
  unfold execFenceSignal
  dsimp only
  refine request_badLength h rfl ?_
  simp only [count, Bool.and_eq_false_iff, decide_eq_false_iff_not]
  omega

theorem exec_fenceSignal {x y z : Byte} {ids : List Byte} (lo : 1 ≤ ids.length) (hi : ids.length ≤ 16)
    (p : rq.payload = BitVec.ofNat 8 ids.length :: x :: y :: z :: ids) :
    let b := after 0x23 rq s
    let r := signalFences (ids.map (·.toNat)) b
    exec (.fenceSignal rq) s = if (0 : Byte) ∈ ids then answered 0x23 rq { status := stBadParam } b
      else answered 0x23 rq { status := stOk, payload := le 2 r.1 ++ le 1 r.2.1 ++ le 1 0 } r.2.2 := by
  have count : field rq.payload 0 1 = ids.length := by
    rw [p, field_head, BitVec.toNat_ofNat]
    omega
  have taken : (rq.payload.drop 4).take ids.length = ids := by simp [p]
  have zero : (ids.map (·.toNat)).contains 0 = true ↔ (0 : Byte) ∈ ids := by
    have value (f : Byte) : f.toNat = 0 ↔ f = 0 := BitVec.toNat_inj (y := 0)
    simp [value]
  have len : rq.payload.length = 4 + ids.length := by
    simp only [p, List.length_cons]
    omega
  change execFenceSignal rq s = _
  unfold execFenceSignal
  dsimp only
  refine Eq.trans (request_plain h rfl ?_) ?_
  · simp [count, len, lo, hi]
  · simp only [count, taken]
    by_cases bad : (0 : Byte) ∈ ids
    · rw [if_pos bad, if_pos (zero.2 bad)]
      rfl
    · rw [if_neg bad, if_neg (mt zero.1 bad)]
      rfl

end

/-! ### The obligation -/

/-- Settles O49: FLIP_GROUP by its two equations, FENCE_SIGNAL by what it makes of each layer. -/
theorem groupsAndFences : Obligations.GroupsAndFences := by
  unfold Obligations.GroupsAndFences
  refine ⟨fun g m a z0 z1 z2 z3 k rq s h shape p => ?_, fun g m a z0 z1 z2 z3 k rq s h p hg hk => ?_, fun x y z ids rq s h shape lo hi p => ?_,
    fun c rest rq s h p bad => fenceSignal_badLength h p bad⟩
  · intro b clash
    have run := exec_flipGroupConfigure h p
    have taken (hg : g.toNat ≤ 2) (ha : a.toNat ≤ 1) (free : ¬clash) := run.trans
      ((if_neg (by omega)).trans (if_neg (mt memberClash_iff.1 free)))
    refine ⟨fun hg => run.trans (if_pos (.inl hg)), fun _ ha => run.trans (if_pos (.inr ha)),
      fun hg ha other => run.trans ((if_neg (by omega)).trans (if_pos (memberClash_iff.2 other))), fun hg ha free hk arm => ?_,
      fun hg ha free => ⟨_, taken hg ha free, ?_⟩⟩
    · have idle : (groupOf b g.toNat).arm = none := by rw [groupOf_after, groupOf_at hk, arm]
      rw [taken hg ha free, dropArm_none idle, modGroup_at (by rwa [after_cmp])]
    · have there : g.toNat < b.cmp.groups.length := by rw [after_cmp, groups_length shape]; omega
      rw [groupOf_dropArm there, groupOf_after]
      exact ⟨rfl, rfl, rfl⟩
  · intro b u mask
    have run := exec_flipGroupArm h p hg
    rw [groupOf_at hk] at run
    have groups : u.cmp.groups = s.cmp.groups := congrArg Cmp.groups (after_cmp ..)
    have taken (policy : (lastGroup k).2 = true) (nonzero : mask ≠ 0) (within : mask &&& (lastGroup k).1 = mask)
        (free : handleFree s = true) :=
      run.trans ((if_neg (by simp [policy])).trans ((if_neg (by simp [mask] at nonzero within; simp [nonzero, within])).trans (if_pos free)))
    refine ⟨fun policy => run.trans (if_pos policy), fun policy bad => run.trans ((if_neg (by simp [policy])).trans (if_pos bad)),
      fun policy nonzero within free arm => ?_, fun policy nonzero within free => ⟨_, taken policy nonzero within free, ?_⟩⟩
    · have idle : (groupOf u g.toNat).arm = none := by rw [groupOf_congr groups, groupOf_at hk, arm]
      rw [taken policy nonzero within free, dropArm_none idle, modGroup_at (by rwa [groups])]
    · rw [groupOf_dropArm (by rw [groups]; exact (List.getElem?_eq_some_iff.1 hk).1)]
  · intro b hit orphans
    have run := exec_fenceSignal h lo hi p
    have same : (orphanIds ids b).length = orphans := by simp only [orphanIds, orphans, b, layerOf_after]
    refine ⟨fun zero => run.trans (if_pos zero), fun nonzero => ?_⟩
    have counts : (signalFences (ids.map (·.toNat)) b).2.1 = orphans := by rw [signalFences_eq, same]
    have only := signalFences_only ids b
    have layer (n : Nat) (hn : n < 6) := layerOf_signalFences (ids := ids) (s := b) (by rw [after_cmp, layers_length shape]) hn
    obtain ⟨most, zero⟩ := released_count ids b
    rw [same] at only
    simp only [b, layerOf_after] at layer
    refine ⟨_, _, (run.trans (if_neg nonzero)).trans (by rw [counts, signalFences_eq]), most, only, zero.trans ?_, layer⟩
    simp only [b, layerOf_after]
    rfl

end Sys2Proof.Machine
end

section
/-! LOAD_LUT, LOAD_COEFFS and SIGNATURE_REGION (R152, R153, R162 to R164, R187, R188), and O50. -/

namespace Sys2Proof.Machine

/-! ### Entries of a copy -/

/-- Each place is listed once, in rising order. -/
def entriesRise (l : List (Nat × Int)) : Prop := l.Pairwise (fun c d => c.1 < d.1)

theorem assocGet_unlisted {d : Int} {k : Nat} {l : List (Nat × Int)} (h : ∀ c ∈ l, c.1 ≠ k) : assocGet d k l = d := by
  induction l with
  | nil => rfl
  | cons c t ih =>
    rw [assocGet, if_neg (h c List.mem_cons_self).symm]
    exact ih (fun e he => h e (List.mem_cons_of_mem _ he))

/-- A place that is set is listed, or as before. -/
theorem mem_assocSet {d v : Int} {k : Nat} {l : List (Nat × Int)} {c : Nat × Int} (h : c ∈ assocSet d k v l) : c.1 = k ∨ c ∈ l := by
  induction l with
  | nil => grind [assocSet]
  | cons e t ih => grind [assocSet]

/-- Setting a place keeps the order. -/
theorem entriesRise_set {d v : Int} {k : Nat} {l : List (Nat × Int)} (w : entriesRise l) : entriesRise (assocSet d k v l) := by
  unfold entriesRise at w ⊢
  induction l with
  | nil =>
    simp only [assocSet]
    split <;> simp
  | cons e t ih =>
    obtain ⟨above, rises⟩ := List.pairwise_cons.1 w
    simp only [assocSet]
    split_ifs with lt _ eq
    · exact w
    · refine List.pairwise_cons.2 ⟨fun c hc => ?_, w⟩
      rcases List.mem_cons.1 hc with rfl | hc
      · exact lt
      · exact lt.trans (above c hc)
    · exact rises
    · exact List.pairwise_cons.2 ⟨fun c hc => eq ▸ above c hc, rises⟩
    · refine List.pairwise_cons.2 ⟨fun c hc => ?_, ih rises⟩
      rcases mem_assocSet hc with rfl | hc
      · omega
      · exact above c hc

/-- A place that is set reads the value, whether it is listed or has the value of reset. -/
theorem assocGet_assocSet_rising {d v : Int} {k : Nat} {l : List (Nat × Int)} (w : entriesRise l) :
    assocGet d k (assocSet d k v l) = v := by
  by_cases e : v = d
  · subst e
    unfold entriesRise at w
    induction l with
    | nil => simp [assocSet, assocGet]
    | cons e t ih =>
      obtain ⟨above, rises⟩ := List.pairwise_cons.1 w
      simp only [assocSet, if_true]
      split_ifs with lt eq
      · refine assocGet_unlisted (fun c hc => ?_)
        rcases List.mem_cons.1 hc with rfl | hc
        · exact lt.ne'
        · exact (lt.trans (above c hc)).ne'
      · exact assocGet_unlisted (fun c hc => eq ▸ (above c hc).ne')
      · rw [assocGet, if_neg eq]
        exact ih rises
  · exact assocGet_assocSet_same e

/-- Setting a place leaves every other place alone, also one whose value of reset is another. -/
theorem assocGet_assocSet_apart {d e v : Int} {k i : Nat} {l : List (Nat × Int)} (h : i ≠ k) :
    assocGet d i (assocSet e k v l) = assocGet d i l := by
  induction l with
  | nil =>
    simp only [assocSet]
    split <;> simp [assocGet, h]
  | cons c t ih =>
    simp only [assocSet]
    split_ifs with _ _ eq
    · rfl
    · simp [assocGet, h]
    · simp [assocGet, ← eq, h]
    · simp [assocGet, ← eq, h]
    · simp only [assocGet, ih]

/-! ### Entries written in a row (R152) -/

/-- The back copy after values have been written from a place; the first of them stands at `k` places after it. -/
def writtenFrom (reset : Nat → Int) (first k : Nat) (vals : List Int) (l : List (Nat × Int)) : List (Nat × Int) :=
  (vals.zipIdx k).foldl (fun l c => setEntry reset l (first + c.2) c.1) l

theorem writtenFrom_cons (reset : Nat → Int) (first k : Nat) (v : Int) (vals : List Int) (l : List (Nat × Int)) :
    writtenFrom reset first k (v :: vals) l = writtenFrom reset first (k + 1) vals (setEntry reset l (first + k) v) := rfl

/-- Places outside the values keep their entries. -/
theorem entryOf_writtenFrom_other {reset : Nat → Int} {first k i : Nat} {vals : List Int} {l : List (Nat × Int)}
    (h : i < first + k ∨ first + k + vals.length ≤ i) : entryOf reset (writtenFrom reset first k vals l) i = entryOf reset l i := by
  induction vals generalizing k l with
  | nil => rfl
  | cons v vals ih =>
    rw [List.length_cons] at h
    rw [writtenFrom_cons, ih (by omega)]
    exact assocGet_assocSet_apart (by omega)

/-- The places of the values read them. -/
theorem entryOf_writtenFrom_same {reset : Nat → Int} {first k i : Nat} {v : Int} {vals : List Int} {l : List (Nat × Int)}
    (h : vals[i]? = some v) (w : entriesRise l) : entryOf reset (writtenFrom reset first k vals l) (first + k + i) = v := by
  induction vals generalizing k l i with
  | nil => simp at h
  | cons x vals ih =>
    rw [writtenFrom_cons]
    cases i with
    | zero =>
      obtain rfl : x = v := by simpa using h
      rw [entryOf_writtenFrom_other (.inl (by omega))]
      exact assocGet_assocSet_rising w
    | succ i =>
      have := ih (k := k + 1) (by simpa using h) (entriesRise_set (d := reset (first + k)) (k := first + k) (v := x) w)
      rwa [show first + (k + 1) + i = first + k + (i + 1) by omega] at this

/-! ### Tables written and committed (R152, R163) -/

section
variable {reset : Nat → Int} {check : List (Nat × Int) → Nat} {first crc : Nat} {vals : List Int} {commit : Option Nat} {tab : Table}

theorem writeTable_back : (writeTable reset check first vals commit tab).2.back = writtenFrom reset first 0 vals tab.back := by
  unfold writeTable
  cases commit with
  | none => rfl
  | some crc =>
    dsimp only
    split <;> rfl

/-- From one copy of a table to another the values have been written from a place up to `last`, and all other entries stay. -/
def entriesWritten (reset : Nat → Int) (first last : Nat) (vals : List Int) (old new : List (Nat × Int)) : Prop :=
  (∀ i, (i < first ∨ last ≤ i) → entryOf reset new i = entryOf reset old i) ∧
    ∀ i v, vals[i]? = some v → entriesRise old → entryOf reset new (first + i) = v

/-- Whatever becomes of the commit, the back copy takes the values. -/
theorem writeTable_entries {last : Nat} (count : first + vals.length = last) :
    entriesWritten reset first last vals tab.back (writeTable reset check first vals commit tab).2.back := by
  rw [writeTable_back]
  exact ⟨fun i h => entryOf_writtenFrom_other (count ▸ h), fun i v h w => entryOf_writtenFrom_same h w⟩

/-- Without COMMIT the values are written, and nothing else of the table changes. -/
theorem writeTable_plain {last : Nat} (count : first + vals.length = last) (idle : tab.pending = false) :
    ∃ y, writeTable reset check first vals none tab = (false, y) ∧ y.front = tab.front ∧ y.pending = false ∧
      entriesWritten reset first last vals tab.back y.back :=
  ⟨_, rfl, rfl, idle, writeTable_entries (check := check) (commit := none) count⟩

/-- With COMMIT the values are written too, and the check value of the back copy as written decides. -/
theorem writeTable_commit {last : Nat} (count : first + vals.length = last) (idle : tab.pending = false) :
    ∃ y bad, writeTable reset check first vals (some crc) tab = (bad, y) ∧ y.front = tab.front ∧
      (check y.back = crc → bad = false ∧ y.pending = true) ∧ (check y.back ≠ crc → bad = true ∧ y.pending = false) ∧
      entriesWritten reset first last vals tab.back y.back := by
  have entries := writeTable_entries (reset := reset) (check := check) (commit := some crc) (tab := tab) count
  by_cases agrees : check (writtenFrom reset first 0 vals tab.back) = crc
  · have run : writeTable reset check first vals (some crc) tab = (false, _) := if_pos agrees
    rw [run] at entries
    exact ⟨_, _, run, rfl, fun _ => ⟨rfl, rfl⟩, fun differs => absurd agrees differs, entries⟩
  · have run : writeTable reset check first vals (some crc) tab = (true, _) := if_neg agrees
    rw [run] at entries
    exact ⟨_, _, run, rfl, fun same => absurd same agrees, fun _ => ⟨rfl, idle⟩, entries⟩

end

/-- A request has COMMIT if and only if it brings a check value. -/
theorem commitCrc_isNone (p : List Byte) (off : Nat) : (commitCrc p off).isNone = !(field p 1 1).testBit 0 := by
  unfold commitCrc
  cases (field p 1 1).testBit 0 <;> rfl

theorem commitCrc_plain {p : List Byte} (off : Nat) (h : (field p 1 1).testBit 0 = false) : commitCrc p off = none :=
  if_neg (Bool.eq_false_iff.1 h)

theorem commitCrc_commit {p : List Byte} (off : Nat) (h : (field p 1 1).testBit 0 = true) : commitCrc p off = some (field p off 4) :=
  if_pos h

/-- Entries within the table, of which there are some or a COMMIT: what the check of a load's range lets pass. -/
theorem inRange_iff {size first n : Nat} {commit : Bool} :
    first + n ≤ size ∧ (1 ≤ n ∨ commit = true) ↔ ¬(size < first + n ∨ n = 0 ∧ commit = false) := by
  cases commit
  · simp
    omega
  · simp

theorem commitStatus_ok {bad : Bool} (h : bad = false) : (if bad then stFailed else stOk) = stOk := by rw [h]; rfl

theorem commitStatus_failed {bad : Bool} (h : bad = true) : (if bad then stFailed else stOk) = stFailed := by rw [h]; rfl

/-! ### LOAD_LUT (R152, R153) -/

/-- The values of a LOAD_LUT payload. -/
def lutVals (p : List Byte) : List Int :=
  let k := lutEntry (field p 0 1)
  (List.range (field p 4 2)).map (fun i => ((field p (12 + k * i) k % 2 ^ (if k = 2 then 16 else 24) : Nat) : Int))

/-- What a LOAD_LUT makes of its table. -/
def lutWritten (p : List Byte) (tab : Table) : Bool × Table :=
  let t := field p 0 1
  writeTable (lutReset t) (lutCrc t) (field p 2 2) (lutVals p) (commitCrc p 8) tab

theorem exec_loadLut {rq : Rq} {tab : Table} {s : State} (h : admits 0x24 rq s = true) (ht : field rq.payload 0 1 ≤ 12)
    (hn : field rq.payload 4 2 ≤ 504) (len : rq.payload.length = 12 + lutEntry (field rq.payload 0 1) * field rq.payload 4 2)
    (htab : s.cmp.tables[field rq.payload 0 1]? = some tab) :
    let p := rq.payload
    let t := field p 0 1
    let b := after 0x24 rq s
    let w := lutWritten p tab
    exec (.loadLut rq) s =
      if lutSize t < field p 2 2 + field p 4 2 ∨ field p 4 2 = 0 ∧ (field p 1 1).testBit 0 = false then
        answered 0x24 rq { status := stBadParam } b
      else if tab.pending then answered 0x24 rq { status := stBusy } b
      else answered 0x24 rq { status := if w.1 then stFailed else stOk } { b with cmp := { b.cmp with tables := b.cmp.tables.set t w.2 } } := by
  change execLoadLut rq s = _
  unfold execLoadLut
  dsimp only
  refine Eq.trans (request_plain h rfl (by simp [ht, hn, len])) ?_
  have set (y : Table) := modNth_eq_set (fun _ => y) htab
  simp only [after_cmp, getD_at _ htab, set, commitCrc_isNone, Bool.or_eq_true, Bool.and_eq_true, decide_eq_true_eq, Bool.not_eq_true']
  split
  · rfl
  · split <;> rfl

/-! ### LOAD_COEFFS (R163, R164) -/

/-- The values of a LOAD_COEFFS payload. -/
def coefVals (p : List Byte) : List Int :=
  (List.range (field p 3 1 * tapCount (field p 0 1))).map (fun i => fieldI p (8 + 2 * i) 2)

/-- What a LOAD_COEFFS makes of its table. -/
def coefWritten (p : List Byte) (tab : Table) : Bool × Table :=
  let t := field p 0 1
  writeTable (coefReset t) (coefCrc t) (field p 2 1 * tapCount t) (coefVals p) (commitCrc p 4) tab

section
variable {rq : Rq} {tab : Table} {s : State} (h : admits 0x25 rq s = true) (ht : field rq.payload 0 1 ≤ 7)
  (hn : field rq.payload 3 1 ≤ 32) (len : rq.payload.length = 8 + 2 * tapCount (field rq.payload 0 1) * field rq.payload 3 1)
include h ht hn len

theorem loadCoeffs_badRange
    (bad : 64 < field rq.payload 2 1 + field rq.payload 3 1 ∨ field rq.payload 3 1 = 0 ∧ (field rq.payload 1 1).testBit 0 = false) :
    exec (.loadCoeffs rq) s = answered 0x25 rq { status := stBadParam } (after 0x25 rq s) := by
  change execLoadCoeffs rq s = _
  unfold execLoadCoeffs
  dsimp only
  refine Eq.trans (request_plain h rfl (by simp [ht, hn, len])) ?_
  rw [if_pos (by simpa [commitCrc_isNone] using bad)]
  rfl

variable (good : ¬(64 < field rq.payload 2 1 + field rq.payload 3 1 ∨ field rq.payload 3 1 = 0 ∧ (field rq.payload 1 1).testBit 0 = false))
include good

theorem loadCoeffs_badPhase {i j : Nat}
    (fault : phaseFault (tapCount (field rq.payload 0 1)) (field rq.payload 3 1) 0 (coefVals rq.payload) = some (i, j)) :
    exec (.loadCoeffs rq) s = answered 0x25 rq
      { status := stBadParam, payload := le 1 (field rq.payload 2 1 + i) ++ le 1 j ++ le 2 0 } (after 0x25 rq s) := by
  change execLoadCoeffs rq s = _
  unfold execLoadCoeffs
  dsimp only
  refine Eq.trans (request_plain h rfl (by simp [ht, hn, len])) ?_
  rw [coefVals] at fault
  rw [if_neg (by simpa [commitCrc_isNone] using good), fault]

theorem exec_loadCoeffs (sound : phaseFault (tapCount (field rq.payload 0 1)) (field rq.payload 3 1) 0 (coefVals rq.payload) = none)
    (htab : s.scl.tables[field rq.payload 0 1]? = some tab) :
    let b := after 0x25 rq s
    let w := coefWritten rq.payload tab
    exec (.loadCoeffs rq) s =
      if tab.pending then answered 0x25 rq { status := stBusy } b
      else answered 0x25 rq { status := if w.1 then stFailed else stOk }
        { b with scl := { b.scl with tables := b.scl.tables.set (field rq.payload 0 1) w.2 } } := by
  change execLoadCoeffs rq s = _
  unfold execLoadCoeffs
  dsimp only
  refine Eq.trans (request_plain h rfl (by simp [ht, hn, len])) ?_
  rw [coefVals] at sound
  have set (y : Table) := modNth_eq_set (fun _ => y) htab
  rw [if_neg (by simpa [commitCrc_isNone] using good), sound]
  simp only [after_scl, getD_at _ htab, set]
  split <;> rfl

end

/-! ### SIGNATURE_REGION (R187, R188) -/

/-- The configuration and the binding that a SIGNATURE_REGION leaves waiting for a region. -/
def sigWaiting (p : List Byte) (old : SigCfg) : SigCfg × Nat :=
  (sigCfgOf p old, if field p 1 1 = 1 ∨ field p 6 1 = 0xFF then 15 else field p 6 1)

theorem sigWaiting_configure {p : List Byte} {old : SigCfg} (h : field p 1 1 = 0) :
    sigWaiting p old = (sigCfgOf p old, if field p 6 1 = 0xFF then 15 else field p 6 1) := by simp [sigWaiting, h]

theorem sigWaiting_disable {p : List Byte} {old : SigCfg} (h : field p 1 1 = 1) : sigWaiting p old = ({ old with mode := 0 }, 15) := by
  simp [sigWaiting, sigCfgOf, h]

/-- DISABLE asks for a region alone. -/
theorem sigFieldsOk_disable {p : List Byte} (r : field p 0 1 ≤ 15) (h : field p 1 1 = 1) : sigFieldsOk p = true := by
  simp [sigFieldsOk, r, h]

/-- SIGNATURE_REGION, both actions. -/
theorem signatureRegion_run {rq : Rq} {s : State} (h : admits 0x26 rq s = true) (len : rq.payload.length = 24) :
    let p := rq.payload
    let b := after 0x26 rq s
    signatureRegion rq s = if sigFieldsOk p = false then answered 0x26 rq { status := stBadParam } b
      else answered 0x26 rq { status := stOk } (modSig (field p 0 1) (fun g => { g with pend := some (sigWaiting p g.cfg) }) b) := by
  unfold signatureRegion
  dsimp only
  refine Eq.trans (request_plain h rfl (by simp [len, lenIs])) ?_
  simp only [Bool.or_eq_true, decide_eq_true_eq, Bool.not_eq_true']
  split <;> rfl

theorem modSig_at {r : Nat} {g : Sig} {s : State} (h : s.chk.sigs[r]? = some g) (f : Sig → Sig) :
    modSig r f s = { s with chk := { s.chk with sigs := s.chk.sigs.set r (f g) } } := by
  rw [modSig, modNth_eq_set f h]

/-! ### The obligation -/

/-- Settles O50: each command by its equation, and what `writeTable` makes of the copies. -/
theorem tablesAndRegionsLoad : Obligations.TablesAndRegionsLoad := by
  unfold Obligations.TablesAndRegionsLoad
  refine ⟨fun rq tab s h => ?_, fun rq tab s h => ?_, fun rq g s h len => ?_⟩
  · intro p t first n b vals ht hn len htab
    have run := exec_loadLut h ht hn len htab
    have good (fits : first + n ≤ lutSize t) (loads : 1 ≤ n ∨ (field p 1 1).testBit 0 = true) := inRange_iff.1 ⟨fits, loads⟩
    have count : first + (lutVals p).length = first + n := by simp [lutVals, n]
    refine ⟨fun big => run.trans (if_pos (.inl big)), fun empty plain => run.trans (if_pos (.inr ⟨empty, plain⟩)),
      fun fits loads busy => run.trans ((if_neg (good fits loads)).trans (if_pos busy)), fun fits loads idle plain => ?_,
      fun fits idle commit => ?_⟩
    · have taken := run.trans ((if_neg (good fits (.inl loads))).trans (if_neg (Bool.eq_false_iff.1 idle)))
      obtain ⟨y, written, table⟩ := writeTable_plain (reset := lutReset t) (check := lutCrc t) count idle
      rw [lutWritten, commitCrc_plain 8 plain, written] at taken
      exact ⟨_, y, taken, rfl, table⟩
    · have taken := run.trans ((if_neg (good fits (.inr commit))).trans (if_neg (Bool.eq_false_iff.1 idle)))
      obtain ⟨y, bad, written, front, agrees, differs, entries⟩ :=
        writeTable_commit (reset := lutReset t) (check := lutCrc t) (crc := field p 8 4) count idle
      rw [lutWritten, commitCrc_commit 8 commit, written] at taken
      exact ⟨_, y, _, taken, rfl, front, fun e => (agrees e).imp_left commitStatus_ok,
        fun e => (differs e).imp_left commitStatus_failed, entries⟩
  · intro p t first n b vals ht hn len htab
    have good (fits : first + n ≤ 64) (loads : 1 ≤ n ∨ (field p 1 1).testBit 0 = true) := inRange_iff.1 ⟨fits, loads⟩
    have run (fits : first + n ≤ 64) (loads : 1 ≤ n ∨ (field p 1 1).testBit 0 = true) (sound : phaseFault (tapCount t) n 0 vals = none) :=
      exec_loadCoeffs h ht hn len (good fits loads) sound htab
    have count : first * tapCount t + (coefVals p).length = (first + n) * tapCount t := by simp [coefVals, Nat.add_mul, n, t]
    refine ⟨fun big => loadCoeffs_badRange h ht hn len (.inl big),
      fun empty plain => loadCoeffs_badRange h ht hn len (.inr ⟨empty, plain⟩),
      fun i j fits fault => loadCoeffs_badPhase h ht hn len (good fits (.inl ?_)) fault,
      fun fits loads sound busy => (run fits loads sound).trans (if_pos busy), fun fits loads sound idle plain => ?_,
      fun fits sound idle commit => ?_⟩
    · exact Nat.one_le_iff_ne_zero.2 (fun empty => by rw [empty] at fault; cases fault)
    · have taken := (run fits (.inl loads) sound).trans (if_neg (Bool.eq_false_iff.1 idle))
      obtain ⟨y, written, table⟩ := writeTable_plain (reset := coefReset t) (check := coefCrc t) count idle
      rw [coefWritten, commitCrc_plain 4 plain, written] at taken
      exact ⟨_, y, taken, rfl, table⟩
    · have taken := (run fits (.inr commit) sound).trans (if_neg (Bool.eq_false_iff.1 idle))
      obtain ⟨y, bad, written, front, agrees, differs, entries⟩ :=
        writeTable_commit (reset := coefReset t) (check := coefCrc t) (crc := field p 4 4) count idle
      rw [coefWritten, commitCrc_commit 4 commit, written] at taken
      exact ⟨_, y, _, taken, rfl, front, fun e => (agrees e).imp_left commitStatus_ok,
        fun e => (differs e).imp_left commitStatus_failed, entries⟩
  · intro p r b
    have run := signatureRegion_run h len
    have taken (ok : sigFieldsOk p = true) (hg : s.chk.sigs[r]? = some g) :=
      run.trans ((if_neg (by simp [p, ok])).trans (by rw [modSig_at (by rwa [after_chk])]))
    refine ⟨fun bad => run.trans (if_pos bad), fun ok configure hg => ?_, fun named disable hg => ?_⟩
    · rw [← sigWaiting_configure configure]
      exact taken ok hg
    · rw [← sigWaiting_disable disable]
      exact taken (sigFieldsOk_disable named disable) hg

end Sys2Proof.Machine
end

section
/-! What a write to a check-value unit does (R174 to R177, R190): a byte that is fed, a new shape and its refusals, RESTART and CAPTURE. -/

namespace Sys2Proof.Machine

/-! ### A unit and its registers (R190) -/

theorem guOf_at {n : Nat} {g : Gu} {s : State} (h : s.chk.gus[n]? = some g) : guOf s n = g := getD_at ({} : Gu) h

/-- A change of a unit that is there. -/
theorem modGu_at {n : Nat} {g : Gu} {s : State} (h : s.chk.gus[n]? = some g) (f : Gu → Gu) :
    modGu n f s = { s with chk := { s.chk with gus := s.chk.gus.set n (f g) } } := by
  rw [modGu, modNth_eq_set f h]

/-- The unit that a change leaves. -/
theorem modGu_unit {n : Nat} {g : Gu} {s : State} (h : s.chk.gus[n]? = some g) (f : Gu → Gu) :
    (modGu n f s).chk.gus[n]? = some (f g) := by
  rw [modGu_at h]
  exact List.getElem?_set_self (List.getElem?_eq_some_iff.1 h).1

/-- Two changes of a unit, one after the other. -/
theorem modGu_modGu (n : Nat) (f k : Gu → Gu) (s : State) : modGu n k (modGu n f s) = modGu n (fun g => k (f g)) s := by
  simp only [modGu, modNth_modNth]

/-- Register `o` of unit `n`. -/
theorem regWrite_gu {a o n v : Nat} {s : State} (hn : n < 8) (ho : o < 0x40) (ha : a = 0x70100 + o + 0x40 * n) :
    regWrite a v s = writeGu o n v s := by
  have block : a / 65536 = 7 := by omega
  have inBlock : 0x100 ≤ a % 65536 ∧ a % 65536 < 0x300 := by omega
  have unit : (a % 65536 - 0x100) / 0x40 = n := by omega
  have reg : a % 65536 % 0x40 = o := by omega
  simp [regWrite, block, writeChk, inBlock, unit, reg]

/-- A word that a unit takes. -/
theorem writeGu_taken {h : Hdr} {a o n : Nat} {w : Word} {s t : State} (adm : admitsWrite h a w.toNat s = true) (hn : n < 8)
    (ho : o < 0x40) (al : o % 4 = 0) (ha : a = 0x70100 + o + 0x40 * n)
    (r : writeGu o n w.toNat (beforeWrite h a w.toNat s) = Machine.taken t) : writeOne h a w.toNat s = wrote h a w.toNat t :=
  writeOne_run adm (by omega) (by omega) w.isLt ((regWrite_gu hn ho ha).trans r)

/-- A word that a unit refuses. -/
theorem writeGu_refused {h : Hdr} {a o n st : Nat} {w : Word} {s t : State} (adm : admitsWrite h a w.toNat s = true) (hn : n < 8)
    (ho : o < 0x40) (al : o % 4 = 0) (ha : a = 0x70100 + o + 0x40 * n) (bad : st ≠ stOk)
    (r : writeGu o n w.toNat (beforeWrite h a w.toNat s) = Machine.refused st t) :
    writeOne h a w.toNat s = writeRefused h a w.toNat st t :=
  writeOneBy_refused adm (by omega) (by omega) w.isLt bad ((regWrite_gu hn ho ha).trans r)

@[simp] theorem beforeWrite_chk (h : Hdr) (a v : Nat) (s : State) : (beforeWrite h a v s).chk = s.chk := after_chk ..

/-! ### GU_FEED (R174) -/

/-- An enabled unit of source 0 takes the byte. -/
theorem writeGuFeed_fed {n v : Nat} {g : Gu} {s : State} (h : s.chk.gus[n]? = some g) (en : g.en = true) (src : g.src = 0) :
    writeGuFeed n v s =
      Machine.taken { s with chk := { s.chk with gus := s.chk.gus.set n (guFeedBytes [BitVec.ofNat 8 v] g) } } := by
  simp [writeGuFeed, guOf_at h, en, src, modGu_at h]

/-- Any other unit ignores it. -/
theorem writeGuFeed_ignored {n v : Nat} {g : Gu} {s : State} (h : s.chk.gus[n]? = some g) (off : g.en = false ∨ g.src ≠ 0) :
    writeGuFeed n v s = Machine.taken s := by
  rw [writeGuFeed, guOf_at h]
  exact if_neg (by simpa [Decidable.imp_iff_not_or] using off)

theorem execGuFeed_eq {n : Nat} (hn : n < 8) (h : Hdr) (w : Word) (s : State) :
    exec (.guFeed h n w) s = writeOne h (0x7011C + 0x40 * n) w.toNat s := if_pos hn

/-! ### CHK_GUn_CTL: the shape of a unit (R177, R190) -/

/-- The value names a WIDTH and a source that a unit has. -/
def guLegal (v : Nat) : Prop := 8 ≤ bits v 16 6 ∧ bits v 16 6 ≤ 32 ∧ guSrcOk (bits v 24 6) = true

/-- The value leaves width, reflections and source of a unit as they are. -/
def guSame (v : Nat) (g : Gu) : Prop :=
  bits v 16 6 = g.width ∧ v.testBit 1 = g.refin ∧ v.testBit 2 = g.refout ∧ bits v 24 6 = g.src

/-- A unit with the fields that a write of its CTL brings. -/
def guShaped (v : Nat) (g : Gu) : Gu :=
  { g with en := v.testBit 0, refin := v.testBit 1, refout := v.testBit 2, cmpEn := v.testBit 3,
           level := if bits v 4 3 < 5 then bits v 4 3 else g.level, width := bits v 16 6, src := bits v 24 6,
           compared := g.compared && (g.cmpEn || !v.testBit 3) }

/-- CHK_GUn_CTL by its two conditions: BAD_PARAM is judged before BUSY (log entry 65). -/
theorem writeGuCtl_eq {n v : Nat} {g : Gu} {s : State} (h : s.chk.gus[n]? = some g) [Decidable (guLegal v)] [Decidable (guSame v g)] :
    writeGuCtl n v s =
      if ¬guLegal v then Machine.refused stBadParam s
      else if g.en = true ∧ ¬guSame v g then Machine.refused stBusy s
      else Machine.taken (guActions n (v.testBit 8) (v.testBit 9) (modGu n (guShaped v) s)) := by
  have illegal : (decide (bits v 16 6 < 8) || decide (32 < bits v 16 6) || !guSrcOk (bits v 24 6)) = true ↔ ¬guLegal v := by
    simp only [guLegal, Bool.or_eq_true, Bool.not_eq_true', decide_eq_true_eq, not_and_or, Nat.not_le, Bool.not_eq_true, or_assoc]
  have differs : (g.en && (decide (bits v 16 6 ≠ g.width) || decide (v.testBit 1 ≠ g.refin) || decide (v.testBit 2 ≠ g.refout) ||
      decide (bits v 24 6 ≠ g.src))) = true ↔ g.en = true ∧ ¬guSame v g := by
    simp only [guSame, Bool.and_eq_true, Bool.or_eq_true, decide_eq_true_eq, not_and_or, or_assoc]
  unfold writeGuCtl keepUnless
  dsimp only
  simp only [guOf_at h, illegal, differs]
  rw [modGu_at h, modGu_at h]
  simp only [guShaped, decide_eq_true_eq]

theorem execGuRestart_eq {n : Nat} (hn : n < 8) (h : Hdr) (w : Word) (s : State) :
    exec (.guRestart h n w) s = writeOne h (0x70100 + 0x40 * n) w.toNat s := if_pos hn

theorem execGuCapture_eq {n : Nat} (hn : n < 8) (h : Hdr) (w : Word) (s : State) :
    exec (.guCapture h n w) s = writeOne h (0x70100 + 0x40 * n) w.toNat s := if_pos hn

section
variable {h : Hdr} {n : Nat} {w : Word} {g : Gu} {s : State} (hn : n < 8) (adm : admitsWrite h (0x70100 + 0x40 * n) w.toNat s = true)
  (unit : s.chk.gus[n]? = some g)
include hn adm unit

/-- A legal shape that the unit may take: the actions of the same write follow. -/
theorem writeOne_guCtl_taken (legal : guLegal w.toNat) (free : g.en = false ∨ guSame w.toNat g) :
    writeOne h (0x70100 + 0x40 * n) w.toNat s = wrote h (0x70100 + 0x40 * n) w.toNat
      (guActions n (w.toNat.testBit 8) (w.toNat.testBit 9)
        (modGu n (guShaped w.toNat) (beforeWrite h (0x70100 + 0x40 * n) w.toNat s))) := by
  classical
  refine writeGu_taken (o := 0) adm hn (by decide) rfl rfl ((writeGuCtl_eq (by simpa using unit)).trans ?_)
  have stays : ¬(g.en = true ∧ ¬guSame w.toNat g) := fun busy => free.elim (by simp [busy.1]) busy.2
  rw [if_neg (not_not.2 legal), if_neg stays]

theorem writeOne_guCtl_badParam (illegal : ¬guLegal w.toNat) : writeOne h (0x70100 + 0x40 * n) w.toNat s =
    writeRefused h (0x70100 + 0x40 * n) w.toNat stBadParam (beforeWrite h (0x70100 + 0x40 * n) w.toNat s) := by
  classical
  refine writeGu_refused (o := 0) adm hn (by decide) rfl rfl (by decide) ((writeGuCtl_eq (by simpa using unit)).trans ?_)
  rw [if_pos illegal]

theorem writeOne_guCtl_busy (legal : guLegal w.toNat) (en : g.en = true) (differs : ¬guSame w.toNat g) :
    writeOne h (0x70100 + 0x40 * n) w.toNat s =
      writeRefused h (0x70100 + 0x40 * n) w.toNat stBusy (beforeWrite h (0x70100 + 0x40 * n) w.toNat s) := by
  classical
  refine writeGu_refused (o := 0) adm hn (by decide) rfl rfl (by decide) ((writeGuCtl_eq (by simpa using unit)).trans ?_)
  rw [if_neg (not_not.2 legal), if_pos ⟨en, differs⟩]

end

/-! ### RESTART and CAPTURE (R176, R177) -/

/-- A unit after a capture, with its comparison where CMP_EN is set (R176). -/
def guCaptured (g : Gu) : Gu :=
  let y := { g with result := guValue g, captures := satInc 16 g.captures }
  if g.cmpEn = false then y
  else if guValue g = guCut g g.expect then { y with mism := false, compared := true }
  else { y with mism := true, compared := true, mismatches := satInc 16 g.mismatches }

/-- Without CMP_EN a capture changes its unit only. -/
theorem guCaptureNow_plain {n : Nat} {g : Gu} {s : State} (h : s.chk.gus[n]? = some g) (off : g.cmpEn = false) :
    guCaptureNow n s = modGu n guCaptured s := by
  simp [guCaptureNow, guOf_at h, off, modGu_at h, guCaptured]

/-- What a capture makes of its unit; an event that its comparison raises changes no unit (R176). -/
theorem guCaptureNow_unit {n : Nat} {g : Gu} {s : State} (h : s.chk.gus[n]? = some g) :
    (guCaptureNow n s).chk.gus[n]? = some (guCaptured g) := by
  by_cases off : g.cmpEn = false
  · rw [guCaptureNow_plain h off]
    exact modGu_unit h _
  · have raised (l p0 p1 p2 p3 : Nat) (u : State) : (raise { code := 0x0402, level := l, p0, p1, p2, p3 } u).chk = u.chk :=
      (raise_reacts rfl u).chk
    have on : g.cmpEn = true := by simpa using off
    unfold guCaptureNow
    simp only [guOf_at h, on, modGu_modGu]
    by_cases agrees : guValue g = guCut g g.expect
    · rw [if_neg (by decide), if_pos agrees, modGu_unit h]
      simp [guCaptured, on, agrees]
    · rw [if_neg (by decide), if_neg agrees]
      split
      · rw [raised, modGu_unit h]
        simp [guCaptured, on, agrees]
      · rw [modGu_unit h]
        simp [guCaptured, on, agrees]

/-- What a capture fixes and counts, and what it leaves of its unit. -/
theorem guCaptured_fields (g : Gu) : (guCaptured g).result = guValue g ∧ (guCaptured g).captures = min 65535 (g.captures + 1) ∧
    (guCaptured g).value = g.value ∧ (guCaptured g).bytes = g.bytes := by
  unfold guCaptured
  dsimp only
  repeat' split
  all_goals exact ⟨rfl, Nat.min_comm .., rfl, rfl⟩

/-- Without CMP_EN the mismatch stays. -/
theorem guCaptured_uncompared {g : Gu} (off : g.cmpEn = false) : (guCaptured g).mism = g.mism := by simp [guCaptured, off]

/-- With CMP_EN the capture is compared with EXPECT. -/
theorem guCaptured_compared {g : Gu} (on : g.cmpEn = true) :
    (guCaptured g).compared = true ∧ ((guCaptured g).mism = true ↔ guValue g ≠ guCut g g.expect) := by
  by_cases agrees : guValue g = guCut g g.expect
  · simp [guCaptured, on, agrees]
  · simp [guCaptured, on, agrees]

end Sys2Proof.Machine
end

section
/-! What a write to the registers of the fault collector does (R334 to R338, R344), and O38. -/

namespace Sys2Proof.Machine

/-! ### FLT_LATCHED (R335 to R338) -/

/-- A word whose register starts a re-kindle: it starts when the word is written (R338). -/
theorem writeOneBy_rekindle {wr : Nat → Nat → State → WriteRes} {h : Hdr} {a v : Nat} {s t : State} (adm : admitsWrite h a v s = true)
    (al : a % 4 = 0) (top : a < 0xF0000) (vv : v < 2 ^ 32) (r : wr a v (beforeWrite h a v s) = { rekindle := true, state := t }) :
    writeOneBy wr h a v s = wrote h a v (rekindle 2 t) := by
  simp only [admitsWrite, Bool.and_eq_true, Bool.not_eq_true'] at adm
  obtain ⟨adm, unlocked⟩ := adm
  have body : writeRegBody wr (wordRq h a v).payload (after 0x04 (wordRq h a v) s) = ({ status := stOk }, rekindle 2 t) := by
    simp only [beforeWrite] at r
    simp [writeRegBody, wordRq_fieldsOk h v al top, wordRq_addr h v top, wordRq_count, wordRq_flags, regWritesBy, maskedValue,
      wordRq_value h a vv, r, rep]
  change writeRegs wr (wordRq h a v) s = _
  unfold writeRegs
  rw [request_run adm rfl rfl (by rw [wordRq_locked h v al top]; exact unlocked), body]
  rfl

/-- A value names a class, of 1 to 17, or none. -/
theorem bits_classes_eq_zero {v : Nat} : bits v 1 17 = 0 ↔ v % 2 ^ 18 < 2 := by
  rw [bits, Nat.shiftRight_eq_div_pow]
  omega

/-- A value without a class clears nothing (log entry 65). -/
theorem writeLatched_none {during : List RawEvent} {v : Nat} {s : State} (unnamed : v % 2 ^ 18 < 2) :
    writeLatched during v s = Machine.taken (sameClock s.flt during s) :=
  if_pos (by rw [bits_classes_eq_zero.2 unnamed])

/-- A value with classes clears them, then takes the events of its clock; a device in SNUFFED that is left with no hold re-kindles. -/
theorem writeLatched_clears {during : List RawEvent} {v : Nat} {s : State} (named : 2 ≤ v % 2 ^ 18) :
    let t := sameClock s.flt during (clearClasses (bits v 1 17 * 2) s)
    writeLatched during v s = { rekindle := decide (t.pwr.mode = .snuffed) && !anyHold t.flt, state := t } := by
  refine if_neg fun zero => ?_
  have := bits_classes_eq_zero.1 (show bits v 1 17 = 0 by omega)
  omega

/-- A re-kindle leaves the device in KINDLE, with its cause (R49, R338). -/
theorem rekindle_entered (cause : Nat) (s : State) :
    (rekindle cause s).pwr.mode = .kindle ∧ (rekindle cause s).pwr.entryCause = cause := by
  have dropped (u : State) (w : Waiting) : modeView (dropQueued u w) = modeView u := modeView_of_pwr (by simp [dropQueued, dropRequest])
  have given (u : State) : modeView (giveUpSleep u) = modeView u := by
    unfold giveUpSleep
    split
    · exact modeView_supersedePower u
    · rfl
  have view : modeView (rekindle cause s) = _ := (foldl_view _ dropped _).trans ((given _).trans (modeView_enterMode ..))
  simp only [modeView, Prod.mk.injEq] at view
  obtain ⟨mode, -, entry, -⟩ := view
  exact ⟨mode, entry⟩

/-! ### FLT_ACKED (R334) -/

theorem sameClock_nil (f : Flt) (s : State) : sameClock f [] s = s := rfl

theorem classes_length {s : State} (h : shaped s = true) : s.flt.classes.length = 18 := by
  simp only [shaped, decide_eq_true_eq, List.cons.injEq] at h
  tauto

/-- A class after a change of one. -/
theorem classOf_modClass (c d : Nat) (f : ClassState → ClassState) (s : State) :
    classOf (modClass c f s).flt d = if d = c ∧ c < s.flt.classes.length then f (classOf s.flt c) else classOf s.flt d :=
  modNth_getD _ _ _ _ _

/-- An acknowledgement of one class of a mask. -/
def ackClass (mask : Nat) (s : State) (c : Nat) : State :=
  if 1 ≤ c && mask.testBit c then modClass c (fun k => { k with acked := k.acked || k.level ≠ 0 }) s else s

/-- What an acknowledgement makes of a class (R334). -/
theorem ackClasses_classOf {mask c : Nat} {s : State} (len : s.flt.classes.length = 18) (lo : 1 ≤ c) (hi : c < 18) :
    classOf (ackClasses mask s).flt c =
      if mask.testBit c = true then { classOf s.flt c with acked := (classOf s.flt c).acked || (classOf s.flt c).level ≠ 0 }
      else classOf s.flt c := by
  have length (u : State) (i : Nat) : (ackClass mask u i).flt.classes.length = u.flt.classes.length := by
    unfold ackClass
    split
    · exact modClass_classes_length ..
    · rfl
  have other (u : State) (i : Nat) (ne : i ≠ c) : classOf (ackClass mask u i).flt c = classOf u.flt c := by
    unfold ackClass
    split
    · rw [classOf_modClass, if_neg (fun e => ne e.1.symm)]
    · rfl
  obtain ⟨r, same, was, now⟩ := foldl_focus (v := fun u : State => u.flt.classes.length) (w := fun u => classOf u.flt c)
    List.nodup_range (List.mem_range.2 hi) length other s
  rw [show ackClasses mask s = (List.range 18).foldl (ackClass mask) s from rfl, now, ← was, ackClass]
  have there : c < r.flt.classes.length := by rw [same, len]; exact hi
  by_cases named : mask.testBit c = true
  · simp [lo, named, classOf_modClass, there]
  · simp [named]

/-- Bit `c` of the mask that a value of FLT_LATCHED or FLT_ACKED names. -/
theorem testBit_classes {v c : Nat} (lo : 1 ≤ c) (hi : c < 18) : (bits v 1 17 * 2).testBit c = v.testBit c := by
  obtain ⟨d, rfl⟩ : ∃ d, c = d + 1 := ⟨c - 1, by omega⟩
  have inside : d < 17 := by omega
  rw [Nat.testBit_succ, Nat.mul_div_cancel _ (by decide), bits, Nat.testBit_mod_two_pow, Nat.testBit_shiftRight, Nat.add_comm]
  simp [inside]

theorem beforeWrite_shaped {h : Hdr} {a v : Nat} {s : State} (wf : shaped s = true) : shaped (beforeWrite h a v s) = true :=
  (takeRequest_keeps 0x04 (wordRq h a v) s (.refl s)).shaped wf

/-! ### The self-test (R343, R344) -/

/-- Of the collector a record touches the marks of limited events only (R435). -/
theorem record_flt (e : RawEvent) (fl : Nat) (s : State) : ∃ m, (record e fl s).flt = { s.flt with marks := m } := by
  unfold record
  split
  · exact ⟨s.flt.marks, rfl⟩
  · rw [share_flt, enqueue_flt]
    split <;> exact ⟨_, rfl⟩

theorem record_selfCount (e : RawEvent) (fl : Nat) (s : State) : (record e fl s).flt.selfCount = s.flt.selfCount := by
  obtain ⟨m, marked⟩ := record_flt e fl s
  rw [marked]

theorem note_selfCount (e : RawEvent) (s : State) : (note e s).flt.selfCount = s.flt.selfCount := by
  unfold note
  split
  · rfl
  · split
    · unfold raiseCollateral
      split
      all_goals exact record_selfCount e flagCollateral s
    · exact record_selfCount e 0 s

theorem takeAlive_selfCount (x : Src) (b : List Byte) (s : State) : (takeAlive x b s).flt.selfCount = s.flt.selfCount := by
  unfold takeAlive
  extract_lets q gap t p u
  have before : u.flt = s.flt := by cases x <;> rfl
  split
  · rw [note_selfCount, before]
  · rw [before]

theorem beforeWrite_selfCount (h : Hdr) (a v : Nat) (s : State) : (beforeWrite h a v s).flt.selfCount = s.flt.selfCount := by
  unfold beforeWrite after takeRequest
  split <;> exact takeAlive_selfCount ..

/-- A self-fault of the comparison in SNUFFED: counted, the history holds COLLECTOR_SELF alone, and the mode stays. -/
theorem selfFault_snuffed {word fl : Nat} {s : State} (m : s.pwr.mode = .snuffed) :
    let t := selfFault false word false fl s
    t.flt.selfFault = true ∧ t.flt.selfCompare = true ∧ t.flt.selfCount = min 255 (s.flt.selfCount + 1) ∧ t.pwr.mode = .snuffed ∧
      t.flt.hist.length = 1 := by
  unfold selfFault
  extract_lets +onlyGivenNames src u v e r w
  have again : v = sinksOff u := snuff_again m
  obtain ⟨k, marked⟩ := record_flt e fl v
  have flt : w.flt = { u.flt with marks := k } := marked.trans (by rw [again]; rfl)
  have mode : w.pwr.mode = .snuffed := (congrArg Pwr.mode (record_pwr e fl v)).trans (by rw [again]; exact m)
  simp only [Bool.false_eq_true, if_false, flt]
  exact ⟨rfl, rfl, Nat.min_comm .., mode, rfl⟩

/-- SELFTEST outside SNUFFED. -/
theorem writeFltCtl_wrongMode {v : Nat} {s : State} (test : v.testBit 8 = true) (m : s.pwr.mode ≠ .snuffed) :
    writeFltCtl v s = Machine.refused stWrongMode s := if_pos (by simp [test, m])

/-- SELFTEST in SNUFFED raises a self-fault that carries INJECTED. -/
theorem writeFltCtl_selftest {v : Nat} {s : State} (test : v.testBit 8 = true) (m : s.pwr.mode = .snuffed) :
    ∃ word u, writeFltCtl v s = Machine.taken (selfFault false word false flagInjected u) ∧ u.pwr.mode = .snuffed ∧
      u.flt.selfCount = s.flt.selfCount := by
  unfold writeFltCtl
  rw [if_neg (by simp [m]), if_pos test]
  exact ⟨_, _, rfl, m, rfl⟩

/-! ### The obligation -/

/-- Settles O38: the units through the cases of their CTL and FEED, the collector's registers through the rules for the write of a word. -/
theorem checkAndFaultWrites : Obligations.CheckAndFaultWrites := by
  refine ⟨fun h n w g s hn adm unit => ?_, fun h n w g s hn adm unit => ?_, fun h w during s adm => ?_, fun h w during s adm => ?_,
    fun h w s adm wf => ?_, fun h w s adm test => ?_⟩
  · intro b
    have there : b.chk.gus[n]? = some g := by simpa [b] using unit
    rw [execGuFeed_eq hn]
    exact ⟨fun en src => writeGu_taken (o := 0x1C) adm hn (by decide) rfl rfl (writeGuFeed_fed there en src),
      fun off => writeGu_taken (o := 0x1C) adm hn (by decide) rfl rfl (writeGuFeed_ignored there off)⟩
  · intro v b legal same f
    have there : b.chk.gus[n]? = some g := by simpa [b] using unit
    rw [execGuRestart_eq hn, execGuCapture_eq hn]
    refine ⟨fun ok free restart plain => ?_, fun ok free plain capture => ?_, fun bad => ?_, fun ok en differs => ?_⟩
    · rw [writeOne_guCtl_taken hn adm unit ok free, restart, plain]
      change wrote h _ v (modGu n guStart (modGu n (guShaped v) b)) = _
      rw [modGu_modGu, modGu_at there]
      rfl
    · have shaped : (modGu n (guShaped v) b).chk.gus[n]? = some f := modGu_unit there _
      obtain ⟨result, captures, value, bytes⟩ := guCaptured_fields f
      rw [writeOne_guCtl_taken hn adm unit ok free, plain, capture]
      refine ⟨guCaptureNow n (modGu n (guShaped v) b), guCaptured f, rfl, guCaptureNow_unit shaped, result, captures, value, bytes,
        fun off => ⟨guCaptured_uncompared off, ?_⟩, guCaptured_compared⟩
      rw [guCaptureNow_plain shaped off]
      rfl
    · exact ⟨writeOne_guCtl_badParam hn adm unit bad, writeOne_guCtl_badParam hn adm unit bad⟩
    · exact ⟨writeOne_guCtl_busy hn adm unit ok en differs, writeOne_guCtl_busy hn adm unit ok en differs⟩
  · intro b mask t
    have clears (named : 2 ≤ w.toNat % 2 ^ 18) : writeLatched during w.toNat b = _ := writeLatched_clears named
    refine ⟨fun unnamed => writeOneBy_run adm rfl (by decide) w.isLt (writeLatched_none unnamed), fun named stays => ?_,
      fun named snuffed free => ⟨?_, rekindle_entered 2 t⟩⟩
    · have no : (decide (t.pwr.mode = .snuffed) && !anyHold t.flt) = false := by
        rcases stays with other | held
        · simp [other]
        · simp [held]
      exact writeOneBy_run adm rfl (by decide) w.isLt ((clears named).trans (congrArg (fun r => ({ rekindle := r, state := t } : WriteRes)) no))
    · have yes : (decide (t.pwr.mode = .snuffed) && !anyHold t.flt) = true := by simp [snuffed, free]
      exact writeOneBy_rekindle adm rfl (by decide) w.isLt ((clears named).trans (congrArg (fun r => ({ rekindle := r, state := t } : WriteRes)) yes))
  · exact writeOneBy_run adm rfl (by decide) w.isLt rfl
  · refine ⟨_, writeOneBy_run adm rfl (by decide) w.isLt rfl, fun c lo hi => ?_⟩
    rw [sameClock_nil, ackClasses_classOf (classes_length (beforeWrite_shaped wf)) lo hi, testBit_classes lo hi]
    by_cases named : w.toNat.testBit c = true
    · simp [named]
    · simp [named]
  · refine ⟨fun m => ?_, fun m => ?_⟩
    · exact writeOneBy_refused adm rfl (by decide) w.isLt (by decide) (writeFltCtl_wrongMode test (by simpa using m))
    · obtain ⟨word, u, run, mode, count⟩ := writeFltCtl_selftest (s := beforeWrite h 0x80000 w.toNat s) test (by simpa using m)
      obtain ⟨fault, compare, counted, snuffed, hist⟩ := selfFault_snuffed (word := word) (fl := flagInjected) mode
      rw [count, beforeWrite_selfCount] at counted
      exact ⟨_, writeOne_run adm rfl (by decide) w.isLt run, fault, compare, counted, snuffed, hist⟩

end Sys2Proof.Machine
end

section
/-! The record of one lane: how the operations on a lane change it, and nothing else (R193, R201). -/

namespace Sys2Proof.Machine

/-! ### A lane that is there -/

theorem laneOf_at {l : Nat} {x : Lane} {s : State} (h : s.lnk.lanes[l]? = some x) : laneOf s l = x := getD_at _ h

/-- A change of a lane that is there. -/
theorem modLane_at {l : Nat} {x : Lane} {s : State} (h : s.lnk.lanes[l]? = some x) (f : Lane → Lane) :
    modLane l f s = { s with lnk := { s.lnk with lanes := s.lnk.lanes.set l (f x) } } := by
  rw [modLane, modNth_eq_set f h]

/-- Words that come in on a lane that is there (R193). -/
theorem takeWords_at {l : Nat} {x : Lane} {s : State} (h : s.lnk.lanes[l]? = some x) (ws : List LaneWord) :
    takeWords l ws s = { s with lnk := { s.lnk with lanes := s.lnk.lanes.set l (heardLane x ws) } } := by
  unfold takeWords
  dsimp only
  rw [modNth_eq_set _ h, getD_at _ h]
  rfl

/-! ### One lane becomes another -/

theorem laneBecomes_iff {l : Nat} {x : Lane} {s t : State} :
    laneBecomes l x s t ↔ ∃ e, t = { s with lnk := { s.lnk with lanes := s.lnk.lanes.set l x, eye := e } } := by
  refine ⟨fun h => ⟨_, h⟩, ?_⟩
  rintro ⟨e, rfl⟩
  rfl

theorem laneBecomes.at {l : Nat} {x y : Lane} {s t : State} (b : laneBecomes l y s t) (h : s.lnk.lanes[l]? = some x) :
    t.lnk.lanes[l]? = some y := by
  obtain ⟨e, rfl⟩ := laneBecomes_iff.1 b
  obtain ⟨there, -⟩ := List.getElem?_eq_some_iff.1 h
  simp [there]

/-- What a lane becomes last counts. -/
theorem laneBecomes.trans {l : Nat} {x y : Lane} {s t u : State} (a : laneBecomes l x s t) (b : laneBecomes l y t u) :
    laneBecomes l y s u := by
  obtain ⟨e, rfl⟩ := laneBecomes_iff.1 a
  obtain ⟨f, rfl⟩ := laneBecomes_iff.1 b
  exact laneBecomes_iff.2 ⟨f, by simp⟩

theorem laneBecomes_modLane {l : Nat} {x : Lane} {s : State} (h : s.lnk.lanes[l]? = some x) (f : Lane → Lane) :
    laneBecomes l (f x) s (modLane l f s) := laneBecomes_iff.2 ⟨s.lnk.eye, modLane_at h f⟩

theorem laneBecomes_takeWords {l : Nat} {x : Lane} {s : State} (h : s.lnk.lanes[l]? = some x) (ws : List LaneWord) :
    laneBecomes l (heardLane x ws) s (takeWords l ws s) := laneBecomes_iff.2 ⟨s.lnk.eye, takeWords_at h ws⟩

/-- A new state of a lane; a running eye scan may note that it has lost its lane (R210). -/
theorem laneBecomes_setLaneState {l : Nat} {x : Lane} {s : State} (h : s.lnk.lanes[l]? = some x) (st : LaneState) :
    laneBecomes l { x with state := st } s (setLaneState l st s) := by
  unfold setLaneState
  rw [modLane_at h]
  dsimp only
  repeat' split
  all_goals exact laneBecomes_iff.2 ⟨_, rfl⟩

end Sys2Proof.Machine
end

section
/-! A lane climbs from DETECT to BOND (R193 to R203), and O32. -/

namespace Sys2Proof.Machine

/-! ### Rows of a lane -/

/-- A row of a unit that the device has, with powered lanes. -/
theorem whenLanes_guarded {s t : State} {b : Bool} (up : lanesUp s = true) (ok : b = true) : whenLanes s (guarded b t) = .next t := by
  simp [whenLanes, guarded, up, ok]

section
variable {l : Nat} {x : Lane} {s : State}

/-! ### An attempt starts (R193, R197, R201) -/

/-- A lane at the start of an attempt. -/
def begunLane (x : Lane) : Lane :=
  { x with attempting := true, started := false, backoffMs := 0, anchors := 0, acks := 0, rate := 7, shared := x.ladderShared, parked := false
           waitBond := false, rdPos := false }

/-- The twin lane's transmitter starts an attempt with negative running disparity. -/
def begunLine (l : Nat) (s : State) : State := if l = 4 then modLine .twin (fun x => { x with rdPos := false }) s else s

theorem begunLine_host (hl : l ≠ 4) (s : State) : begunLine l s = s := if_neg hl

theorem begunLine_becomes {y : Lane} {t : State} (b : laneBecomes l y s t) : laneBecomes l y (begunLine l s) (begunLine l t) := by
  obtain ⟨e, rfl⟩ := laneBecomes_iff.1 b
  unfold begunLine
  split <;> exact laneBecomes_iff.2 ⟨e, rfl⟩

theorem begunLine_lanes (l : Nat) (s : State) : (begunLine l s).lnk.lanes = s.lnk.lanes := by
  unfold begunLine
  split <;> rfl

theorem beginAttempt_becomes (h : s.lnk.lanes[l]? = some x) : laneBecomes l (begunLane x) (begunLine l s) (beginAttempt l s) :=
  laneBecomes_modLane (s := begunLine l s) (by rwa [begunLine_lanes]) _

/-- With its reference, or without need of it, the attempt of a lane starts. -/
theorem startAttempt_becomes (h : s.lnk.lanes[l]? = some x) (ref : x.ladderShared = false ∨ s.lnk.lref = true) :
    laneBecomes l (begunLane { x with state := .detect }) (begunLine l s) (startAttempt l s) := by
  have d := laneBecomes_setLaneState h .detect
  have b := (begunLine_becomes d).trans (beginAttempt_becomes (d.at h))
  have there := b.at (by rwa [begunLine_lanes])
  have lref : (beginAttempt l (setLaneState l .detect s)).lnk.lref = s.lnk.lref := by
    obtain ⟨e, he⟩ := laneBecomes_iff.1 b
    rw [he]
    unfold begunLine
    split <;> rfl
  have given : ((laneOf (beginAttempt l (setLaneState l .detect s)) l).ladderShared &&
      !(beginAttempt l (setLaneState l .detect s)).lnk.lref) = false := by
    rw [laneOf_at there, lref]
    rcases ref with own | present
    · simp [begunLane, own]
    · simp [present]
  unfold startAttempt
  dsimp only
  rwa [given, if_neg (by decide)]

theorem exec_backoffExpiry (up : lanesUp s = true) (hl : l < 5) (h : s.lnk.lanes[l]? = some x) (d : x.state = .detect)
    (idle : x.attempting = false) (en : laneEnabled s l = true) : exec (.backoffExpiry l) s = .next (startAttempt l s) := by
  refine (whenLanes_guarded up (by simpa using hl)).trans ?_
  simp [laneOf_at h, d, idle, en]

/-! ### ANCHOR sets (R200 to R202) -/

/-- The lane moves to a rate (R202). -/
theorem toLock_becomes (h : s.lnk.lanes[l]? = some x) (r : Nat) : laneBecomes l { x with rate := r, state := .lock } s (toLock l r s) :=
  (laneBecomes_modLane h _).trans (laneBecomes_setLaneState ((laneBecomes_modLane h _).at h) .lock)

/-- What a row that takes an ANCHOR set does after the set's words have been taken. -/
def anchorTaken (l : Nat) (b : Option (List Byte)) (s : State) : State :=
  if (laneOf s l).state ≠ .detect || !(laneOf s l).attempting then s
  else match b with
    | none => modLane l (fun x => { x with anchors := if x.anchors = 4 then 4 else 0 }) s
    | some b => takeAnchor l b s

theorem exec_anchorReceived {set : List LaneWord} (up : lanesUp s = true) (hl : l < 5) (n : set.length = 4) :
    exec (.anchorReceived l set) s = .next (anchorTaken l (setBytes 0xA7 (laneSymbols s l set)) (takeWords l set s)) :=
  whenLanes_guarded up (by simp [hl, n])

theorem anchorTaken_idle (h : s.lnk.lanes[l]? = some x) (out : x.state ≠ .detect ∨ x.attempting = false) (b : Option (List Byte)) :
    anchorTaken l b s = s := by
  unfold anchorTaken
  rw [laneOf_at h, if_pos (by rcases out with k | k <;> simp [k])]

theorem anchorTaken_invalid (h : s.lnk.lanes[l]? = some x) (d : x.state = .detect) (att : x.attempting = true) :
    anchorTaken l none s = modLane l (fun x => { x with anchors := if x.anchors = 4 then 4 else 0 }) s := by
  unfold anchorTaken
  rw [laneOf_at h, if_neg (by simp [d, att])]

theorem anchorTaken_valid (h : s.lnk.lanes[l]? = some x) (d : x.state = .detect) (att : x.attempting = true) (b : List Byte) :
    anchorTaken l (some b) s = takeAnchor l b s := by
  unfold anchorTaken
  rw [laneOf_at h, if_neg (by simp [d, att])]

/-- The ACK of an ANCHOR set names this rate (R202). -/
def namesRate (b : List Byte) (r : Nat) : Bool := (field b 3 1).testBit 0 && field b 4 1 = r && r ≠ 7

/-- A lane after a valid ANCHOR set whose ACK should name the rate `r`. -/
def anchoredLane (b : List Byte) (r : Nat) (x : Lane) : Lane :=
  { x with started := true, anchors := min 4 (x.anchors + 1), acks := if namesRate b r then min 2 (x.acks + 1) else x.acks }

/-- A host lane takes a valid ANCHOR set: with the fourth set and the second matching ACK it moves to its ladder's rate. -/
theorem takeAnchor_host (hl : l < 4) (h : s.lnk.lanes[l]? = some x) (b : List Byte) :
    let y := anchoredLane b x.ladderRate x
    laneBecomes l (if y.acks = 2 ∧ y.anchors = 4 then { y with rate := x.ladderRate, state := .lock } else y) s (takeAnchor l b s) := by
  intro y
  have four : l ≠ 4 := by omega
  have m : laneBecomes l y s (modLane l (anchoredLane b x.ladderRate) s) := laneBecomes_modLane h _
  have there := m.at h
  unfold takeAnchor
  dsimp only
  rw [if_neg four, if_neg four, laneOf_at h]
  change laneBecomes l _ s (if (decide ((laneOf (modLane l (anchoredLane b x.ladderRate) s) l).acks = 2) &&
    decide ((laneOf (modLane l (anchoredLane b x.ladderRate) s) l).anchors = 4)) = true then
      toLock l x.ladderRate (modLane l (anchoredLane b x.ladderRate) s) else modLane l (anchoredLane b x.ladderRate) s)
  rw [laneOf_at there]
  by_cases c : y.acks = 2 ∧ y.anchors = 4
  · rw [if_pos c, if_pos (by simpa using c)]
    exact m.trans (toLock_becomes there _)
  · rw [if_neg c, if_neg (by simpa using c)]
    exact m

/-- Both sides of the twin link have acknowledged the rate, and the lane has its four sets (R202). -/
def twinReady (x : Lane) (s : State) : Prop := x.anchors = 4 ∧ s.lnk.twinAckSeen = true ∧ s.lnk.twinAcks = 4 ∧ s.lnk.twinAgreed ≠ 7

theorem twinSwitch_moves (h : s.lnk.lanes[4]? = some x) (d : x.state = .detect) (att : x.attempting = true) (ready : twinReady x s) :
    laneBecomes 4 { x with rate := s.lnk.twinAgreed, state := .lock } s (twinSwitch s) := by
  obtain ⟨four, seen, acks, agreed⟩ := ready
  unfold twinSwitch
  rw [laneOf_at h, if_pos (by simp [d, att, four, seen, acks, agreed])]
  exact toLock_becomes h _

theorem twinSwitch_stays (h : s.lnk.lanes[4]? = some x) (no : ¬twinReady x s) : twinSwitch s = s := by
  unfold twinSwitch
  rw [laneOf_at h, if_neg]
  unfold twinReady at no
  simp only [Bool.and_eq_true, decide_eq_true_eq, ne_eq, decide_not, Bool.not_eq_true', decide_eq_false_iff_not]
  tauto

/-- A twin lane whose ANCHOR set has counted, before the rate may change. -/
def anchorCounted (b : List Byte) (s : State) : State :=
  { modLane 4 (anchoredLane b s.lnk.twinAgreed) s with
    lnk := { (modLane 4 (anchoredLane b s.lnk.twinAgreed) s).lnk with twinAckSeen := s.lnk.twinAckSeen || namesRate b s.lnk.twinAgreed } }

/-- The twin lane takes a valid ANCHOR set: the ACK is kept, the set counts, and the lane moves once both sides have acknowledged. -/
theorem takeAnchor_twin (h : s.lnk.lanes[4]? = some x) (d : x.state = .detect) (att : x.attempting = true) (b : List Byte) :
    let n := min 4 (x.anchors + 1)
    let t := takeAnchor 4 b s
    t.lnk.twinAckSeen = (s.lnk.twinAckSeen || namesRate b s.lnk.twinAgreed) ∧ ∃ z, t.lnk.lanes[4]? = some z ∧ z.anchors = n ∧ z.started = true ∧
      (z.state = .lock ↔ n = 4 ∧ t.lnk.twinAckSeen = true ∧ s.lnk.twinAcks = 4 ∧ s.lnk.twinAgreed ≠ 7) := by
  intro n t
  have m : laneBecomes 4 (anchoredLane b s.lnk.twinAgreed x) s (modLane 4 (anchoredLane b s.lnk.twinAgreed) s) := laneBecomes_modLane h _
  have there : (anchorCounted b s).lnk.lanes[4]? = some (anchoredLane b s.lnk.twinAgreed x) := m.at h
  have e : t = twinSwitch (anchorCounted b s) := rfl
  by_cases c : twinReady (anchoredLane b s.lnk.twinAgreed x) (anchorCounted b s)
  · have k := twinSwitch_moves there d att c
    obtain ⟨_, he⟩ := laneBecomes_iff.1 k
    have seen : t.lnk.twinAckSeen = (anchorCounted b s).lnk.twinAckSeen := by rw [e, he]
    refine ⟨seen, _, k.at there, rfl, rfl, fun _ => ?_, fun _ => rfl⟩
    rw [seen]
    exact c
  · rw [e, twinSwitch_stays there c]
    exact ⟨rfl, _, there, rfl, rfl, fun k => absurd (d.symm.trans k) (by decide), fun k => absurd k c⟩

/-! ### ACK sets of the twin link (R202) -/

/-- A CLIMB set and the ANCHOR set that follows it. -/
def setPair (p : Path) (s : State) : List Sym :=
  orderedSet (climbBytes p (lineOf s p).seq s) ++ orderedSet (anchorBytes p (((lineOf s p).seq + 1) % 256) s)

theorem countSets_sendSyms_twin (l : List Sym) (s : State) :
    countSets .twin 2 (sendSyms .twin l s) = { s with lnk := { s.lnk with twtxLine := sentLine s.lnk.twtxLine l 2 } } := rfl

theorem sendSets_twin (s : State) :
    sendSets .twin s = { s with lnk := { s.lnk with twtxLine := sentLine s.lnk.twtxLine (setPair .twin s) 2 } } := by
  rw [← countSets_sendSyms_twin]
  rfl

/-- What a set with ACK leaves before the rate may change. -/
def ackCounted (s : State) : State :=
  { s with lnk := { s.lnk with twtxLine := sentLine s.lnk.twtxLine (setPair .twin s) 2, twinAcks := min 4 (s.lnk.twinAcks + 1) } }

theorem twinSets_due (due : ackDue s = true) : twinSets s = twinSwitch (ackCounted s) := by
  unfold twinSets
  rw [if_pos due, sendSets_twin]
  rfl

theorem ackDue_at (h : s.lnk.lanes[4]? = some x) (due : ackDue s = true) : x.state = .detect ∧ x.attempting = true ∧ s.lnk.twinAgreed ≠ 7 := by
  simpa [ackDue, h, and_assoc] using due

/-- Sets with ACK up to the fourth: they count, and with the fourth the link moves if the partner's part is done. -/
theorem ackSets_fourth {n : Nat} (h : s.lnk.lanes[4]? = some x) (due : ackDue s = true) (left : s.lnk.twinAcks + (n + 1) = 4) :
    let t := ackSets (n + 1) s
    t.lnk.twinAcks = 4 ∧ t.lnk.twtxLine.seq = (s.lnk.twtxLine.seq + 2 * (n + 1)) % 256 ∧
      (x.anchors = 4 → s.lnk.twinAckSeen = true → t.lnk.lanes = s.lnk.lanes.set 4 { x with state := .lock, rate := s.lnk.twinAgreed }) ∧
      (x.anchors ≠ 4 ∨ s.lnk.twinAckSeen = false → t.lnk.lanes = s.lnk.lanes) := by
  obtain ⟨d, att, agreed⟩ := ackDue_at h due
  have there : (ackCounted s).lnk.lanes[4]? = some x := h
  induction n generalizing s with
  | zero =>
    intro t
    have four : (ackCounted s).lnk.twinAcks = 4 := by
      change min 4 (s.lnk.twinAcks + 1) = 4
      omega
    have e : t = twinSwitch (ackCounted s) := twinSets_due due
    by_cases c : twinReady x (ackCounted s)
    · obtain ⟨_, he⟩ := laneBecomes_iff.1 (twinSwitch_moves there d att c)
      obtain ⟨sets, seen, -, -⟩ := c
      rw [e, he]
      exact ⟨four, rfl, fun _ _ => rfl, fun no => no.elim (absurd sets) fun k => absurd (seen.symm.trans k) (by decide)⟩
    · rw [e, twinSwitch_stays there c]
      exact ⟨four, rfl, fun sets seen => absurd ⟨sets, seen, four, agreed⟩ c, fun _ => rfl⟩
  | succ n ih =>
    intro t
    have few : (ackCounted s).lnk.twinAcks = s.lnk.twinAcks + 1 := by
      change min 4 (s.lnk.twinAcks + 1) = _
      omega
    have first : twinSets s = ackCounted s := by
      rw [twinSets_due due, twinSwitch_stays there (by rintro ⟨-, -, k, -⟩; omega)]
    have e : t = ackSets (n + 1) (ackCounted s) := congrArg (ackSets (n + 1)) first
    obtain ⟨acks, seq, moves, stays⟩ := ih there due (by omega) agreed there
    rw [e]
    refine ⟨acks, seq.trans ?_, moves, stays⟩
    change ((s.lnk.twtxLine.seq + 2) % 256 + 2 * (n + 1)) % 256 = _
    omega

/-! ### LOCK, ALIGN and ADAPT (R195 to R199) -/

theorem exec_cdrLock (up : lanesUp s = true) (hl : l < 5) (h : s.lnk.lanes[l]? = some x) :
    exec (.cdrLock l) s = .next (if x.state ≠ .lock then s else if x.shared && !s.lnk.lref then failLane l 6 s else setLaneState l .align s) := by
  refine (whenLanes_guarded up (by simpa using hl)).trans ?_
  rw [laneOf_at h]

theorem exec_laneAligned {slip : Nat} (up : lanesUp s = true) (hl : l < 5) (hs : slip < 40) (h : s.lnk.lanes[l]? = some x) :
    exec (.laneAligned l slip) s = .next (
      if x.state = .detect then if x.attempting then modLane l (fun x => { x with slip }) s else s
      else if x.state = .align then setLaneState l .adapt (modLane l (fun x => { x with slip }) s)
      else if x.state = .relock then if slip = x.slip then s else retrain l (modLane l (fun x => { x with slip }) s)
      else s) := by
  refine (whenLanes_guarded up (by simp [hl, hs])).trans ?_
  rw [laneOf_at h]
  cases x.state <;> simp

theorem exec_adaptComplete {e : EqResult} {ms : Nat} (up : lanesUp s = true) (hl : l < 5) (n : e.taps.length = 5)
    (h : s.lnk.lanes[l]? = some x) (k : x.state = .adapt) : exec (.adaptComplete l e ms) s = .next (endAdapt l e ms s) := by
  refine (whenLanes_guarded up (by simp [hl, n])).trans ?_
  rw [laneOf_at h, if_pos k]

theorem exec_adaptComplete_trained {e : EqResult} {ms : Nat} (up : lanesUp s = true) (hl : l < 5) (n : e.taps.length = 5)
    (h : s.lnk.lanes[l]? = some x) (k : x.state = .trained) : exec (.adaptComplete l e ms) s =
      .next (modLane l (fun x => { x with taps := if x.dfeFreeze then x.taps else tapsIn e.taps }) s) := by
  refine (whenLanes_guarded up (by simp [hl, n])).trans ?_
  rw [laneOf_at h, if_neg (by simp [k]), if_pos k]

/-- A lane whose adaptation has ended well (R198, R199). -/
def adaptedLane (l : Nat) (e : EqResult) (s : State) (x : Lane) : Lane :=
  { x with
    ctleUsed := if x.manualEq then x.ctle else bestCtle (ctleCodes l s) e.heights, taps := if x.dfeFreeze then x.taps else tapsIn e.taps
    eyeH := min e.eyeH 255, eyeW := min e.eyeW 63, attempting := false, state := .bond, waitBond := true }

/-- The lane at the end of ADAPT, before the bond or the partner is looked at. -/
def adapted (l : Nat) (e : EqResult) (s : State) : State :=
  modLane l (fun x => { x with waitBond := true }) (setLaneState l .bond (modLane l (fun x => { x with
    ctleUsed := if x.manualEq then x.ctle else bestCtle (ctleCodes l s) e.heights, taps := if x.dfeFreeze then x.taps else tapsIn e.taps
    eyeH := min e.eyeH 255, eyeW := min e.eyeW 63, attempting := false }) s))

theorem adapted_becomes (h : s.lnk.lanes[l]? = some x) (e : EqResult) : laneBecomes l (adaptedLane l e s x) s (adapted l e s) := by
  have a := laneBecomes_modLane h (fun x => { x with
    ctleUsed := if x.manualEq then x.ctle else bestCtle (ctleCodes l s) e.heights, taps := if x.dfeFreeze then x.taps else tapsIn e.taps
    eyeH := min e.eyeH 255, eyeW := min e.eyeW 63, attempting := false })
  have b := a.trans (laneBecomes_setLaneState (a.at h) .bond)
  exact b.trans (laneBecomes_modLane (b.at h) _)

theorem endAdapt_small {e : EqResult} {ms : Nat} (small : e.eyeH < 10 ∨ e.eyeW < 20) : endAdapt l e ms s = s := by
  unfold endAdapt
  rw [if_pos (by simpa using small)]

theorem endAdapt_wide {e : EqResult} {ms : Nat} (hh : 10 ≤ e.eyeH) (hw : 20 ≤ e.eyeW) :
    endAdapt l e ms s =
      if l = 4 then (if (adapted l e s).lnk.peerBond then laneTrained 4 ms (adapted l e s) else adapted l e s)
      else if (adapted l e s).lnk.bondMask = 0 then adapted l e s
      else if (laneOf (adapted l e s) l).rate = (adapted l e s).lnk.bondRate && (adapted l e s).lnk.autoRejoin then formBond (adapted l e s)
      else modLane l (fun x => { x with parked := true }) (adapted l e s) := by
  unfold endAdapt
  rw [if_neg (by simp [Nat.not_lt.2 hh, Nat.not_lt.2 hw])]
  rfl

/-! ### The twin link becomes TRAINED (R207) -/

/-- TWRX is TRAINED and its path is up. -/
theorem twinUp_spec (h : s.lnk.lanes[4]? = some x) :
    (twinUp s).lnk.lanes[4]? = some { x with state := .trained } ∧ (twinUp s).rope.twin.up = true ∧ (twinUp s).lnk = (setLaneState 4 .trained s).lnk :=
  ⟨(laneBecomes_setLaneState h .trained).at h, rfl, rfl⟩

/-- A lane that enters TRAINED from BOND, before its state changes: its CTLE code is the next starting point (R198). -/
def trainedFrom (l ms : Nat) (s : State) : State :=
  let t := modLane l (fun x => { x with failN := 0, trainMs := min ms 65535, parked := false }) s
  { t with nvm := { t.nvm with header := { t.nvm.header with
      ctle := modNth t.nvm.header.ctle (5 * l + (laneOf s l).rate) (fun _ => (laneOf s l).ctleUsed) } } }

theorem trainLane_eq (l ms : Nat) (s : State) :
    trainLane l ms s = if l = 4 then twinUp (trainedFrom l ms s) else setLaneState l .trained (trainedFrom l ms s) := rfl

theorem trainedFrom_at (h : s.lnk.lanes[l]? = some x) (ms : Nat) :
    (trainedFrom l ms s).lnk = { s.lnk with lanes := s.lnk.lanes.set l { x with failN := 0, trainMs := min ms 65535, parked := false } } := by
  unfold trainedFrom
  rw [modLane_at h]

theorem laneTrained_twin (h : s.lnk.lanes[4]? = some x) (ms : Nat) :
    (laneOf (laneTrained 4 ms s) 4).state = .trained ∧ (laneTrained 4 ms s).rope.twin.up = true ∧
      (laneTrained 4 ms s).lnk.peerBond = s.lnk.peerBond := by
  obtain ⟨len, -⟩ := List.getElem?_eq_some_iff.1 h
  have there : (trainedFrom 4 ms s).lnk.lanes[4]? = some { x with failN := 0, trainMs := min ms 65535, parked := false } := by
    rw [trainedFrom_at h]
    simp [len]
  obtain ⟨at', up, k⟩ := twinUp_spec there
  obtain ⟨_, hb⟩ := laneBecomes_iff.1 (laneBecomes_setLaneState there .trained)
  unfold laneTrained
  rw [trainLane_eq, if_pos rfl, note_rope, note_lnk]
  refine ⟨?_, up, ?_⟩
  · rw [laneOf_at (by rw [note_lnk]; exact at')]
  · rw [k, hb, trainedFrom_at h]

end

/-! ### CTLE codes (R198) -/

theorem ctleCodes_spec (l : Nat) (s : State) :
    let c := s.nvm.header.ctle.getD (5 * l + (laneOf s l).rate) 255
    let c := if c < 15 then c else 6
    (ctleCodes l s).head? = some c ∧ ∀ k, k ∈ ctleCodes l s ↔ k < 15 ∧ k ≤ c + 2 ∧ c ≤ k + 2 := by
  intro d c
  have small : c < 15 := by
    dsimp only [c]
    split <;> omega
  refine ⟨rfl, fun k => ?_⟩
  change k ∈ c :: (List.range 15).filter (fun k => k ≠ c && c ≤ k + 2 && k ≤ c + 2) ↔ _
  simp only [List.mem_cons, List.mem_filter, List.mem_range, Bool.and_eq_true, decide_eq_true_eq]
  omega

/-- The one of two with the higher eye, the first of equal ones. -/
def higher (b c : Nat × Nat) : Nat × Nat := if b.2 < c.2 then c else b

theorem higher_spec (b c : Nat × Nat) : (higher b c = b ∨ higher b c = c) ∧ b.2 ≤ (higher b c).2 ∧ c.2 ≤ (higher b c).2 := by
  unfold higher
  split
  · exact ⟨.inr rfl, by omega, le_refl _⟩
  · exact ⟨.inl rfl, le_refl _, by omega⟩

/-- A fold that keeps the higher ends at a highest one. -/
theorem foldl_higher (l : List (Nat × Nat)) (b : Nat × Nat) : l.foldl higher b ∈ b :: l ∧ ∀ c ∈ b :: l, c.2 ≤ (l.foldl higher b).2 := by
  induction l generalizing b with
  | nil => simp
  | cons a l ih =>
    obtain ⟨mem, top⟩ := ih (higher b a)
    obtain ⟨one, hb, ha⟩ := higher_spec b a
    have first := top _ List.mem_cons_self
    rw [List.foldl_cons]
    refine ⟨?_, List.forall_mem_cons.2 ⟨by omega, List.forall_mem_cons.2 ⟨by omega, fun c hc => top c (List.mem_cons_of_mem _ hc)⟩⟩⟩
    rcases List.mem_cons.1 mem with here | later
    · rw [here]
      rcases one with k | k
      · simp [k]
      · simp [k]
    · simp [later]

theorem bestCtle_eq (codes heights : List Nat) :
    bestCtle codes heights = ((codes.zip heights).foldl higher ((codes.zip heights).headD (6, 0))).1 := rfl

theorem bestCtle_spec {codes heights : List Nat} (some : codes.zip heights ≠ []) :
    ∃ h, (bestCtle codes heights, h) ∈ codes.zip heights ∧ ∀ c ∈ codes.zip heights, c.2 ≤ h := by
  rw [bestCtle_eq]
  generalize codes.zip heights = l at *
  cases l with
  | nil => exact absurd rfl some
  | cons a l =>
    obtain ⟨mem, top⟩ := foldl_higher (a :: l) a
    have self : higher a a = a := ite_self a
    rw [List.foldl_cons, self] at mem top
    exact ⟨(l.foldl higher a).2, by simpa [self] using mem, fun c hc => top c (List.mem_cons_of_mem _ hc)⟩

/-! ### The obligation -/

/-- Settles O32: each row by its equation, and what it makes of the lane by `laneBecomes`. -/
theorem laneClimbsToBond : Obligations.LaneClimbsToBond := by
  unfold Obligations.LaneClimbsToBond
  refine ⟨fun b pos n => ?_, fun l x s up hl h d idle en ref => ?_, fun l set x s up hl n h => ?_, fun x s sets due h few => ?_, fun s no => ?_,
    fun l x s up hl h => ?_, fun l slip x s up hl hs h => ?_, fun l e ms x s up hl n h => ?_, ctleCodes_spec, fun _ _ => bestCtle_spec⟩
  · have ok : (orderedSet b).all sendable = true := by
      rw [orderedSet, List.all_cons, dataSyms_sendable]
      rfl
    rw [receiveGroups_sendGroups pos ok]
    exact ⟨setBytes_orderedSet n, rfl⟩
  · intro y
    have same : begunLane { x with state := .detect } = y := by rw [← d]; rfl
    have starts := startAttempt_becomes h ref
    rw [same] at starts
    refine ⟨_, exec_backoffExpiry up hl h d idle en, fun host => ?_, fun twin => ?_⟩
    · rwa [begunLine_host (by omega)] at starts
    · subst twin
      exact starts
  · intro y
    have words : laneBecomes l y s (takeWords l set s) := laneBecomes_takeWords h set
    have there := words.at h
    refine ⟨fun out => ⟨_, exec_anchorReceived up hl n, ?_⟩, fun d att bad => ⟨_, exec_anchorReceived up hl n, ?_⟩, fun b d att good => ?_⟩
    · rw [anchorTaken_idle there out]
      exact words
    · rw [bad, anchorTaken_invalid there d att]
      exact words.trans (laneBecomes_modLane there _)
    · intro ack m a
      refine ⟨_, exec_anchorReceived up hl n, ?_⟩
      rw [good, anchorTaken_valid there d att]
      refine ⟨fun host four two => ?_, fun host no => ?_, fun twin => ?_⟩
      · have k := words.trans (takeAnchor_host host there b)
        rw [if_pos ⟨two, four⟩] at k
        have counted : anchoredLane b y.ladderRate y = { y with started := true, anchors := 4, acks := 2 } := by
          unfold anchoredLane
          rw [show min 4 (y.anchors + 1) = 4 from four, show (if namesRate b y.ladderRate then min 2 (y.acks + 1) else y.acks) = 2 from two]
        rw [counted] at k
        exact k
      · have k := words.trans (takeAnchor_host host there b)
        rw [if_neg (fun c => no ⟨c.2, c.1⟩)] at k
        exact k
      · subst twin
        exact takeAnchor_twin there d att b
  · have n : 4 - s.lnk.twinAcks = 3 - s.lnk.twinAcks + 1 := by omega
    refine ⟨_, rfl, ?_⟩
    rw [if_pos (by rw [sets, due]; rfl), n]
    exact ackSets_fourth h due (by omega)
  · change Host.Outcome.next _ = _
    rw [if_neg (by rcases no with k | k <;> simp [k])]
  · rw [exec_cdrLock up hl h]
    refine ⟨fun k ref => ⟨_, rfl, ?_⟩, fun k => ?_⟩
    · rw [if_neg (not_not.2 k), if_neg (by rcases ref with r | r <;> simp [r])]
      exact laneBecomes_setLaneState h .align
    · rw [if_pos k]
  · have slipped := laneBecomes_modLane h (fun x => { x with slip })
    rw [exec_laneAligned up hl hs h]
    refine ⟨fun k => ⟨_, rfl, ?_⟩, fun k att => ⟨_, rfl, ?_⟩, fun k same => ?_, fun k => ?_⟩
    · simpa [k] using slipped.trans (laneBecomes_setLaneState (slipped.at h) .adapt)
    · simpa [k, att] using slipped
    · simp [k, same]
    · simp [k]
  · intro y
    have done := adapted_becomes h e
    have there := done.at h
    obtain ⟨_, eq⟩ := laneBecomes_iff.1 done
    have bond : (adapted l e s).lnk.bondMask = s.lnk.bondMask := by rw [eq]
    have peer : (adapted l e s).lnk.peerBond = s.lnk.peerBond := by rw [eq]
    refine ⟨fun k hh hw free => ⟨_, exec_adaptComplete up hl n h k, ?_⟩, fun k hh hw twin with' => ⟨_, exec_adaptComplete up hl n h k, ?_⟩,
      fun k small => ?_, fun k => ⟨_, exec_adaptComplete_trained up hl n h k, laneBecomes_modLane h _⟩⟩
    · rw [endAdapt_wide hh hw, bond, peer]
      rcases free with ⟨host, none⟩ | ⟨twin, alone⟩
      · rw [if_neg (by omega), if_pos none]
        exact done
      · rw [if_pos twin, if_neg (by simp [alone])]
        exact done
    · subst twin
      rw [endAdapt_wide hh hw, if_pos rfl, peer, if_pos with']
      obtain ⟨trained, path, -⟩ := laneTrained_twin there ms
      exact ⟨trained, path⟩
    · rw [exec_adaptComplete up hl n h k, endAdapt_small small]

end Sys2Proof.Machine
end

section
/-! The lanes together: what a formation may change of a lane, and what an operation on one lane leaves alone of the others (R201 to R209, R229). -/

namespace Sys2Proof.Machine

/-! ### Paths and transmitters leave the lanes alone -/

@[simp] theorem breakFrame_lnk (n c : Nat) (p : Path) (s : State) : (breakFrame n c p s).lnk = s.lnk := by
  unfold breakFrame
  dsimp only
  rw [noteF_lnk]
  split
  · unfold Machine.statusDue
    split <;> simp [modLayer]
  · simp [modLayer]

@[simp] theorem interrupt_lnk (p : Path) (s : State) : (interrupt p s).lnk = s.lnk := by
  unfold interrupt breakAll
  rw [modPath_lnk]
  exact foldl_view (v := State.lnk) _ (fun x n => by split <;> simp) s

@[simp] theorem laneOf_interrupt (p : Path) (s : State) (k : Nat) : laneOf (interrupt p s) k = laneOf s k := by simp [laneOf]

/-- An interrupted host path is down; the twin path is as TWRX says (R229). -/
theorem interrupt_up (s : State) :
    (interrupt .host s).rope.host.up = false ∧ (interrupt .twin s).rope.twin.up = twinTrained s := by
  simp [interrupt, modPath]

theorem countSets_sendSyms_host (l : List Sym) (s : State) :
    countSets .host 2 (sendSyms .host l s) = { s with lnk := { s.lnk with htxLine := sentLine s.lnk.htxLine l 2 } } := rfl

theorem sendSets_host (s : State) :
    sendSets .host s = climbShown { s with lnk := { s.lnk with htxLine := sentLine s.lnk.htxLine (setPair .host s) 2 } } := by
  rw [← countSets_sendSyms_host]
  rfl

/-- In the link a CLIMB set changes what HTX has sent. -/
theorem climbOut_lnk (s : State) : ∃ q, (climbOut s).lnk = { s.lnk with htxLine := q } := by
  unfold climbOut
  split
  · rw [sendSets_host]
    exact ⟨_, rfl⟩
  · exact ⟨_, rfl⟩

/-! ### The parts of the link -/

/-- The link without its lanes, the eye scan and what TWTX has sent. -/
def linkRest (k : Lnk) : Lnk := { k with lanes := [], eye := none, twtxLine := {} }

/-- The link's settings: without lanes, bond, twin handshake, the eye scan and what has been sent. -/
def linkSettings (k : Lnk) : Lnk :=
  { k with lanes := [], eye := none, twtxLine := {}, htxLine := {}, bondMask := 0, bondRate := 7, forming := false, formMask := 0, formRate := 7,
           twinAgreed := 7, twinAcks := 0, twinAckSeen := false, peerBond := false }

/-- The bond and the formation that runs. -/
def bondView (k : Lnk) := (k.bondMask, k.bondRate, k.forming, k.formMask, k.formRate)

theorem linkSettings_linkRest (k : Lnk) : linkSettings (linkRest k) = linkSettings k := rfl

theorem bondView_linkRest (k : Lnk) : bondView (linkRest k) = bondView k := rfl

/-! ### What a formation may change of a lane -/

/-- A lane without what a formation may change. -/
def laneCore (x : Lane) : Lane := { x with state := .detect, inBond := false, waitBond := false, parked := false, deskew := 0 }

/-- Lane `y` is lane `x` but for the flags of the bond, the deskew, and TRAINED that a formation parks in BOND (R206). -/
structure Reformed (x y : Lane) : Prop where
  core : laneCore y = laneCore x
  state : y.state = x.state ∨ (x.state = .trained ∧ y.state = .bond)
  out : x.inBond = false → y.inBond = false

theorem Reformed.refl (x : Lane) : Reformed x x := ⟨rfl, .inl rfl, id⟩

theorem Reformed.trans {x y z : Lane} (a : Reformed x y) (b : Reformed y z) : Reformed x z := by
  refine ⟨b.core.trans a.core, ?_, b.out ∘ a.out⟩
  rcases a.state with p | ⟨p, q⟩
  · rw [← p]
    exact b.state
  · rcases b.state with r | ⟨r, -⟩
    · exact .inr ⟨p, r.trans q⟩
    · exact absurd (q.symm.trans r) (by decide)

/-- A lane that is not TRAINED keeps its state. -/
theorem Reformed.state_eq {x y : Lane} (a : Reformed x y) (h : x.state ≠ .trained) : y.state = x.state :=
  a.state.resolve_right fun k => h k.1

/-! ### One lane, seen from all -/

theorem laneOf_modLane (l k : Nat) (f : Lane → Lane) (s : State) :
    laneOf (modLane l f s) k = if k = l ∧ l < s.lnk.lanes.length then f (laneOf s l) else laneOf s k := modNth_getD ..

theorem setLaneState_lnk (l : Nat) (st : LaneState) (s : State) :
    (setLaneState l st s).lnk = { (modLane l (fun x => { x with state := st }) s).lnk with eye := (setLaneState l st s).lnk.eye } := by
  unfold setLaneState
  dsimp only
  repeat' split
  all_goals rfl

theorem laneOf_setLaneState (l k : Nat) (st : LaneState) (s : State) :
    laneOf (setLaneState l st s) k = if k = l ∧ l < s.lnk.lanes.length then { laneOf s l with state := st } else laneOf s k := by
  rw [← laneOf_modLane l k (fun x => { x with state := st })]
  unfold laneOf
  rw [setLaneState_lnk]

/-! ### A formation (R206) -/

/-- A formation of rate `r` parks this lane, which is TRAINED, in BOND. -/
def parks (r : Nat) (x : Lane) : Bool := x.state = .trained && x.rate ≠ r

/-- What a formation of rate `r` does to a host lane beside its state. -/
def unbonded (r : Nat) (x : Lane) : Lane :=
  { x with
    inBond := false, waitBond := false
    parked := (x.state = .bond || x.state = .trained) && x.rate ≠ r
    deskew := if x.state = .relock then 0 else x.deskew }

/-- What a formation of rate `r` makes of a host lane. -/
def formedLane (r : Nat) (x : Lane) : Lane := if parks r x then { unbonded r x with state := .bond } else unbonded r x

theorem formedLane_reformed (r : Nat) (x : Lane) : Reformed x (formedLane r x) := by
  unfold formedLane
  split
  · rename_i c
    simp only [parks, Bool.and_eq_true, decide_eq_true_eq] at c
    exact ⟨rfl, .inr ⟨c.1, rfl⟩, fun _ => rfl⟩
  · exact ⟨rfl, .inl rfl, fun _ => rfl⟩

/-- A formation's step on one lane. -/
def formLane (r : Nat) (s : State) (l : Nat) : State :=
  if parks r (laneOf s l) then setLaneState l .bond (modLane l (unbonded r) s) else modLane l (unbonded r) s

/-- The lanes of a formation, before the formation is noted. -/
def lanesFormed (s : State) : State := (List.range 4).foldl (formLane (bestRate s (bondCandidates s))) (interrupt .host s)

/-- The lanes that a formation takes: those of its rate. -/
def formationMask (s : State) : Nat :=
  maskOf ((bondCandidates s).filter (fun l => (laneOf s l).rate = bestRate s (bondCandidates s)))

/-- The link once a formation of a mask and a rate has been noted. -/
def notedLink (mask rate : Nat) (k : Lnk) : Lnk :=
  { k with bondMask := 0, bondRate := 7, forming := mask ≠ 0, formMask := mask, formRate := rate }

theorem linkSettings_notedLink (m r : Nat) (q : TxLine) (k : Lnk) : linkSettings { notedLink m r k with htxLine := q } = linkSettings k := rfl

theorem bondView_notedLink (m r : Nat) (q : TxLine) (k : Lnk) : bondView { notedLink m r k with htxLine := q } = (0, 7, decide (m ≠ 0), m, r) := rfl

/-- A formation of a mask and a rate is noted. -/
def noteFormation (mask rate : Nat) (s : State) : State := { s with lnk := notedLink mask rate s.lnk }

/-- A formation, before its CLIMB set leaves. -/
def formationNoted (s : State) : State := noteFormation (formationMask s) (bestRate s (bondCandidates s)) (lanesFormed s)

theorem formBond_eq (s : State) : formBond s = climbOut (formationNoted s) := by
  unfold formBond
  extract_lets cands r mask i upd o
  have lanes : lanesFormed s = o := rfl
  have rate : bestRate s (bondCandidates s) = r := rfl
  have taken : formationMask s = mask := rfl
  unfold formationNoted noteFormation notedLink
  rw [lanes, rate, taken]

/-- In the link a formation notes itself, changes the host lanes, and sends. -/
theorem formBond_lnk (s : State) :
    ∃ q, (formBond s).lnk = { notedLink (formationMask s) (bestRate s (bondCandidates s)) (lanesFormed s).lnk with htxLine := q } := by
  rw [formBond_eq]
  exact climbOut_lnk _

theorem modLane_length (l : Nat) (f : Lane → Lane) (s : State) : (modLane l f s).lnk.lanes.length = s.lnk.lanes.length := modNth_length ..

theorem setLaneState_length (l : Nat) (st : LaneState) (s : State) : (setLaneState l st s).lnk.lanes.length = s.lnk.lanes.length := by
  rw [setLaneState_lnk]
  exact modLane_length ..

theorem formLane_length (r l : Nat) (s : State) : (formLane r s l).lnk.lanes.length = s.lnk.lanes.length := by
  unfold formLane
  split
  · rw [setLaneState_length, modLane_length]
  · rw [modLane_length]

theorem laneOf_formLane (r l k : Nat) (s : State) :
    laneOf (formLane r s l) k = if k = l ∧ l < s.lnk.lanes.length then formedLane r (laneOf s l) else laneOf s k := by
  unfold formLane formedLane
  split
  · rw [laneOf_setLaneState, modLane_length, laneOf_modLane, laneOf_modLane]
    grind
  · rw [laneOf_modLane]

theorem foldl_formLane (r : Nat) (ls : List Nat) (s : State) :
    (ls.foldl (formLane r) s).lnk.lanes.length = s.lnk.lanes.length ∧ (ls.Nodup → ∀ k,
      laneOf (ls.foldl (formLane r) s) k = if k ∈ ls ∧ k < s.lnk.lanes.length then formedLane r (laneOf s k) else laneOf s k) := by
  induction ls generalizing s with
  | nil => simp
  | cons l ls ih =>
    obtain ⟨len, lane⟩ := ih (formLane r s l)
    refine ⟨len.trans (formLane_length ..), fun nd k => ?_⟩
    obtain ⟨out, nd⟩ := List.nodup_cons.1 nd
    rw [List.foldl_cons, lane nd, formLane_length, laneOf_formLane]
    by_cases here : k = l
    · subst here
      simp [out]
    · simp [here]

theorem linkSettings_setLaneState (l : Nat) (st : LaneState) (s : State) : linkSettings (setLaneState l st s).lnk = linkSettings s.lnk := by
  rw [setLaneState_lnk]
  rfl

theorem linkSettings_formLane (r : Nat) (s : State) (l : Nat) : linkSettings (formLane r s l).lnk = linkSettings s.lnk := by
  unfold formLane
  split
  · rw [linkSettings_setLaneState]
    rfl
  · rfl

/-- The host lanes of a formation, each by itself. -/
theorem laneOf_lanesFormed (s : State) (k : Nat) :
    laneOf (lanesFormed s) k = if k < 4 ∧ k < s.lnk.lanes.length then formedLane (bestRate s (bondCandidates s)) (laneOf s k) else laneOf s k := by
  unfold lanesFormed
  rw [(foldl_formLane ..).2 List.nodup_range, interrupt_lnk, laneOf_interrupt]
  simp

theorem formBond_lanes (s : State) : (formBond s).lnk.lanes = (lanesFormed s).lnk.lanes := by
  obtain ⟨q, h⟩ := formBond_lnk s
  rw [h, notedLink]

theorem laneOf_formBond (s : State) (k : Nat) :
    laneOf (formBond s) k = if k < 4 ∧ k < s.lnk.lanes.length then formedLane (bestRate s (bondCandidates s)) (laneOf s k) else laneOf s k := by
  rw [← laneOf_lanesFormed, laneOf, formBond_lanes, laneOf]

theorem formBond_length (s : State) : (formBond s).lnk.lanes.length = s.lnk.lanes.length := by
  rw [formBond_lanes, lanesFormed, (foldl_formLane ..).1, interrupt_lnk]

theorem linkSettings_formBond (s : State) : linkSettings (formBond s).lnk = linkSettings s.lnk := by
  have lanes : linkSettings (lanesFormed s).lnk = linkSettings s.lnk := by
    unfold lanesFormed
    rw [foldl_view (v := fun s : State => linkSettings s.lnk) _ (linkSettings_formLane _), interrupt_lnk]
  obtain ⟨q, h⟩ := formBond_lnk s
  exact (congrArg linkSettings h).trans ((linkSettings_notedLink ..).trans lanes)

/-- A formation forgets the old bond and notes its own rate and mask. -/
theorem bondView_formBond (s : State) :
    bondView (formBond s).lnk = (0, 7, decide (formationMask s ≠ 0), formationMask s, bestRate s (bondCandidates s)) := by
  obtain ⟨q, h⟩ := formBond_lnk s
  exact (congrArg bondView h).trans (bondView_notedLink ..)

/-! ### What an operation spares of the lanes -/

/-- There is no bond, and none is being formed. -/
def unbound (s : State) : Prop := s.lnk.bondMask = 0 ∧ s.lnk.forming = false

theorem unbound_bondView {s t : State} (h : unbound s) (same : bondView t.lnk = bondView s.lnk) : unbound t :=
  ⟨(congrArg Prod.fst same).trans h.1, (congrArg (fun b => b.2.2.1) same).trans h.2⟩

/-- The link's settings stay; the lanes of `K` stay but for what a formation changes. While there is no bond, the lanes of `K` and the bond
stay as they are. -/
structure Spares (K : Nat → Prop) (s t : State) : Prop where
  settings : linkSettings t.lnk = linkSettings s.lnk
  length : t.lnk.lanes.length = s.lnk.lanes.length
  lanes : ∀ k, K k → Reformed (laneOf s k) (laneOf t k)
  quiet : unbound s → bondView t.lnk = bondView s.lnk ∧ ∀ k, K k → laneOf t k = laneOf s k

section
variable {K L : Nat → Prop} {l : Nat} {x y : Lane} {s t u : State}

theorem Spares.refl (K : Nat → Prop) (s : State) : Spares K s s := ⟨rfl, rfl, fun _ _ => .refl _, fun _ => ⟨rfl, fun _ _ => rfl⟩⟩

theorem Spares.trans (a : Spares K s t) (b : Spares K t u) : Spares K s u where
  settings := b.settings.trans a.settings
  length := b.length.trans a.length
  lanes k hk := (a.lanes k hk).trans (b.lanes k hk)
  quiet h := by
    obtain ⟨bond, same⟩ := a.quiet h
    obtain ⟨bond', same'⟩ := b.quiet (unbound_bondView h bond)
    exact ⟨bond'.trans bond, fun k hk => (same' k hk).trans (same k hk)⟩

theorem Spares.mono (a : Spares K s t) (h : ∀ k, L k → K k) : Spares L s t :=
  ⟨a.settings, a.length, fun k hk => a.lanes k (h k hk), fun q => ⟨(a.quiet q).1, fun k hk => (a.quiet q).2 k (h k hk)⟩⟩

/-- A fold of steps that spare some lanes spares them. -/
theorem foldl_spares {g : State → Nat → State} {ls : List Nat} (step : ∀ s, ∀ l ∈ ls, l < s.lnk.lanes.length → Spares K s (g s l))
    (here : ∀ l ∈ ls, l < s.lnk.lanes.length) : Spares K s (ls.foldl g s) := by
  induction ls generalizing s with
  | nil => exact .refl _ s
  | cons l ls ih =>
    have first := step s l List.mem_cons_self (here l List.mem_cons_self)
    refine first.trans (ih (fun s k hk => step s k (List.mem_cons_of_mem _ hk)) fun k hk => ?_)
    rw [first.length]
    exact here k (List.mem_cons_of_mem _ hk)

/-- The lane of one step of a fold, whose steps each are about their own lane, is spared before and after it. -/
theorem foldl_own_step {g : State → Nat → State} {ls : List Nat} {n : Nat} (nd : ls.Nodup) (h : n ∈ ls)
    (step : ∀ s, ∀ l ∈ ls, l < s.lnk.lanes.length → Spares (· ≠ l) s (g s l)) (here : ∀ l ∈ ls, l < s.lnk.lanes.length) :
    ∃ r, Spares (· = n) s r ∧ Spares (· = n) (g r n) (ls.foldl g s) := by
  obtain ⟨before, rest, rfl⟩ := List.append_of_mem h
  have out : n ∉ before ∧ n ∉ rest := by
    simp only [List.nodup_append, List.nodup_cons, List.mem_cons] at nd
    exact ⟨fun h => nd.2.2 n h n (.inl rfl) rfl, nd.2.1.1⟩
  have first : Spares (· = n) s (before.foldl g s) :=
    foldl_spares (fun s l hl k => (step s l (by simp [hl]) k).mono (by rintro _ rfl rfl; exact out.1 hl)) fun l hl => here l (by simp [hl])
  have own := step (before.foldl g s) n h (by rw [first.length]; exact here n h)
  refine ⟨before.foldl g s, first, ?_⟩
  rw [List.foldl_append, List.foldl_cons]
  refine foldl_spares (fun s l hl k => (step s l (by simp [hl]) k).mono (by rintro _ rfl rfl; exact out.2 hl)) fun l hl => ?_
  rw [own.length, first.length]
  exact here l (by simp [hl])

/-! ### One lane becomes another, in the link -/

/-- Lane `l` becomes `y`; in the link nothing else changes but the eye scan's loss of its lane and what TWTX has sent. -/
structure LaneSet (l : Nat) (y : Lane) (s t : State) : Prop where
  rest : linkRest t.lnk = linkRest s.lnk
  lanes : t.lnk.lanes = s.lnk.lanes.set l y

theorem laneBecomes.laneSet (b : laneBecomes l y s t) : LaneSet l y s t := by
  obtain ⟨e, rfl⟩ := laneBecomes_iff.1 b
  exact ⟨rfl, rfl⟩

theorem LaneSet.at (a : LaneSet l y s t) (h : s.lnk.lanes[l]? = some x) : t.lnk.lanes[l]? = some y := by
  obtain ⟨there, -⟩ := List.getElem?_eq_some_iff.1 h
  simp [a.lanes, there]

theorem LaneSet.other (a : LaneSet l y s t) {k : Nat} (h : k ≠ l) : t.lnk.lanes[k]? = s.lnk.lanes[k]? := by
  rw [a.lanes, List.getElem?_set_ne h.symm]

theorem LaneSet.trans (a : LaneSet l x s t) (b : LaneSet l y t u) : LaneSet l y s u :=
  ⟨b.rest.trans a.rest, by rw [b.lanes, a.lanes, List.set_set]⟩

theorem LaneSet.lnk_eq (a : LaneSet l y s t) (h : u.lnk = t.lnk) : LaneSet l y s u := ⟨h ▸ a.rest, h ▸ a.lanes⟩

/-- The settings and the bond are parts of the link without its lanes. -/
theorem LaneSet.settings (a : LaneSet l y s t) : linkSettings t.lnk = linkSettings s.lnk := by
  simpa only [linkSettings_linkRest] using congrArg linkSettings a.rest

theorem LaneSet.bond (a : LaneSet l y s t) : bondView t.lnk = bondView s.lnk := by
  simpa only [bondView_linkRest] using congrArg bondView a.rest

theorem LaneSet.spares (a : LaneSet l y s t) : Spares (· ≠ l) s t := by
  have same (k : Nat) (h : k ≠ l) : laneOf t k = laneOf s k := by
    simp only [laneOf, List.getD_eq_getElem?_getD, a.other h]
  exact ⟨a.settings, by rw [a.lanes, List.length_set], fun k h => same k h ▸ .refl _, fun _ => ⟨a.bond, same⟩⟩

/-! ### A lane leaves its traffic state (R207, R229) -/

/-- Lane `l` is in no host bond and in no formation. -/
def outOfBond (l : Nat) (s : State) : Prop := l = 4 ∨ (s.lnk.bondMask.testBit l || (s.lnk.forming && s.lnk.formMask.testBit l)) = false

theorem unbound.out (h : unbound s) (l : Nat) : outOfBond l s := .inr (by rw [h.1, h.2]; simp)

/-- The twin link's rate and handshake are forgotten. -/
def forgetTwin (s : State) : State := { s with lnk := { s.lnk with twinAgreed := 7, twinAcks := 0, twinAckSeen := false, peerBond := false } }

theorem leaveTraffic_twin (s : State) : leaveTraffic 4 s = forgetTwin (interrupt .twin s) := rfl

theorem leaveTraffic_host (h : l ≠ 4) : leaveTraffic l s =
    if s.lnk.bondMask.testBit l || (s.lnk.forming && s.lnk.formMask.testBit l) then formBond s else s := if_neg h

/-- The link of a lane that leaves its traffic state outside a bond: the twin link forgets its handshake. -/
theorem leaveTraffic_lnk (h : outOfBond l s) : (leaveTraffic l s).lnk = if l = 4 then (forgetTwin s).lnk else s.lnk := by
  split
  · rename_i twin
    rw [twin, leaveTraffic_twin]
    unfold forgetTwin
    rw [interrupt_lnk]
  · rename_i host
    rw [leaveTraffic_host host, if_neg (by simpa using h.resolve_left host)]

/-- A lane that leaves its traffic state outside a bond changes no lane and no bond. -/
theorem leaveTraffic_out (h : outOfBond l s) : (leaveTraffic l s).lnk.lanes = s.lnk.lanes ∧ bondView (leaveTraffic l s).lnk = bondView s.lnk ∧
    linkSettings (leaveTraffic l s).lnk = linkSettings s.lnk := by
  rw [leaveTraffic_lnk h]
  split <;> exact ⟨rfl, rfl, rfl⟩

theorem leaveTraffic_in (h : ¬outOfBond l s) : leaveTraffic l s = formBond s := by
  unfold outOfBond at h
  push Not at h
  rw [leaveTraffic_host h.1, if_pos (by simpa [or_iff_not_imp_left] using h.2)]

theorem leaveTraffic_spares (l : Nat) (s : State) : Spares (fun _ => True) s (leaveTraffic l s) := by
  by_cases h : outOfBond l s
  · obtain ⟨lanes, bond, settings⟩ := leaveTraffic_out h
    have same (k : Nat) : laneOf (leaveTraffic l s) k = laneOf s k := by simp only [laneOf, lanes]
    exact ⟨settings, by rw [lanes], fun k _ => same k ▸ .refl _, fun _ => ⟨bond, fun k _ => same k⟩⟩
  · rw [leaveTraffic_in h]
    refine ⟨linkSettings_formBond s, formBond_length s, fun k _ => ?_, fun q => absurd (q.out l) h⟩
    rw [laneOf_formBond]
    split
    · exact formedLane_reformed ..
    · exact .refl _

end

end Sys2Proof.Machine
end

section
/-! Attempts that fail, restarts and retrains (R201 to R209), and O33. -/

namespace Sys2Proof.Machine

/-! ### What a failed attempt makes of its lane (R203) -/

/-- A lane whose attempt has failed, before the ladder's step. -/
def failedLane (cause : Nat) (x : Lane) : Lane :=
  { x with
    fails := satInc 16 x.fails, failN := satInc 8 x.failN, failR := x.failR + 1, cause, attempting := false, rate := 7, parked := false
    waitBond := false, anchors := 0, acks := 0 }

/-- A lane that enters DETECT from this state counts a retrain. -/
def countedLane (x : Lane) : Lane :=
  { x with retrains := if x.state = .trained || x.state = .relock then satInc 16 x.retrains else x.retrains }

/-- A failed lane that waits in DETECT for its next attempt. -/
def waitingLane (x : Lane) : Lane := { countedLane x with backoffMs := min (10 * 2 ^ (min x.failN 8 - 1)) 1000, state := .detect }

/-- A lane after a failed attempt: the same ladder step, the next one, or LANE_DOWN. -/
def loweredLane (cause : Nat) (x : Lane) : Lane :=
  if x.failR + 1 < 8 then waitingLane (failedLane cause x)
  else (nextStep x.refMode x.ladderRate x.ladderShared).elim { failedLane cause x with state := .laneDown } fun p =>
    waitingLane { failedLane cause x with failR := 0, ladderRate := p.1, ladderShared := p.2, shared := p.2 }

theorem countedLane_traffic {x : Lane} (h : x.state = .trained ∨ x.state = .relock) : (countedLane x).retrains = satInc 16 x.retrains :=
  if_pos (by simpa using h)

theorem countedLane_other {x : Lane} (h : x.state ≠ .trained ∧ x.state ≠ .relock) : (countedLane x).retrains = x.retrains :=
  if_neg (by simpa using h)

/-- What a failed attempt leaves of its lane, whatever the ladder's step. -/
theorem loweredLane_common (cause : Nat) (x : Lane) :
    let y := loweredLane cause x
    y.attempting = false ∧ y.rate = 7 ∧ y.failN = satInc 8 x.failN ∧ y.fails = satInc 16 x.fails ∧ y.cause = cause ∧ y.inBond = x.inBond ∧
      y.relocks = x.relocks ∧ y.relockTimes = x.relockTimes ∧ y.mode = x.mode ∧ (y.state = .detect ∨ y.state = .laneDown) ∧ y.skewNs = x.skewNs := by
  intro y
  dsimp only [y]
  unfold loweredLane
  split
  · exact ⟨rfl, rfl, rfl, rfl, rfl, rfl, rfl, rfl, rfl, .inl rfl, rfl⟩
  · rcases nextStep x.refMode x.ladderRate x.ladderShared with _ | p
    · exact ⟨rfl, rfl, rfl, rfl, rfl, rfl, rfl, rfl, rfl, .inr rfl, rfl⟩
    · exact ⟨rfl, rfl, rfl, rfl, rfl, rfl, rfl, rfl, rfl, .inl rfl, rfl⟩

/-- A failed lane has left LOCK, ALIGN, TRAINED and RELOCK. -/
theorem loweredLane_left (cause : Nat) (x : Lane) :
    let st := (loweredLane cause x).state
    st ≠ .trained ∧ st ≠ .relock ∧ st ≠ .lock ∧ st ≠ .align := by
  obtain ⟨-, -, -, -, -, -, -, -, -, state, -⟩ := loweredLane_common cause x
  rcases state with k | k <;> rw [k] <;> decide

/-- Up to the seventh failure at a ladder step the lane waits. -/
theorem loweredLane_same_step {cause : Nat} {x : Lane} (h : x.failR < 7) : loweredLane cause x = waitingLane (failedLane cause x) := if_pos (by omega)

/-- The eighth failure at a step goes to the next one. -/
theorem loweredLane_some {cause r : Nat} {sh : Bool} {x : Lane} (h : 7 ≤ x.failR)
    (next : nextStep x.refMode x.ladderRate x.ladderShared = some (r, sh)) :
    loweredLane cause x = waitingLane { failedLane cause x with failR := 0, ladderRate := r, ladderShared := sh, shared := sh } := by
  rw [loweredLane, if_neg (by omega), next]
  rfl

/-- The eighth failure at the last step brings LANE_DOWN. -/
theorem loweredLane_none {cause : Nat} {x : Lane} (h : 7 ≤ x.failR) (last : nextStep x.refMode x.ladderRate x.ladderShared = none) :
    loweredLane cause x = { failedLane cause x with state := .laneDown } := by
  rw [loweredLane, if_neg (by omega), last]
  rfl

theorem nextStep_rate {m r : Nat} {sh : Bool} (h : 0 < r) : nextStep m r sh = some (r - 1, sh) := if_pos h

theorem nextStep_last {m : Nat} {sh : Bool} (h : m ≠ 0 ∨ sh = true) : nextStep m 0 sh = none := by
  rw [nextStep, if_neg (by omega), if_neg (by rcases h with k | k <;> simp [k])]

section
variable {l : Nat} {x y : Lane} {s t : State}

/-- Outside the traffic states no retrain is counted, whatever the ladder's step. -/
theorem loweredLane_retrains (cause : Nat) (h : x.state ≠ .trained ∧ x.state ≠ .relock) : (loweredLane cause x).retrains = x.retrains := by
  unfold loweredLane
  split
  · exact countedLane_other h
  · rcases nextStep x.refMode x.ladderRate x.ladderShared with _ | p
    · rfl
    · exact countedLane_other h

/-! ### The operations, as changes of one lane -/

theorem LaneSet.same (h : s.lnk.lanes[l]? = some x) : LaneSet l x s s := by
  obtain ⟨there, rfl⟩ := List.getElem?_eq_some_iff.1 h
  exact ⟨rfl, (List.set_getElem_self there).symm⟩

theorem modLane_set (h : s.lnk.lanes[l]? = some x) (f : Lane → Lane) : LaneSet l (f x) s (modLane l f s) := (laneBecomes_modLane h f).laneSet

theorem setLaneState_set (h : s.lnk.lanes[l]? = some x) (st : LaneState) : LaneSet l { x with state := st } s (setLaneState l st s) :=
  (laneBecomes_setLaneState h st).laneSet

theorem countRetrain_set (h : s.lnk.lanes[l]? = some x) : LaneSet l (countedLane x) s (countRetrain l s) := by
  unfold countRetrain
  rw [laneOf_at h]
  split
  · rename_i c
    rw [countedLane, if_pos c]
    exact (modLane_set h (fun x => { x with retrains := satInc 16 x.retrains })).lnk_eq rfl
  · rename_i c
    rw [countedLane, if_neg c]
    exact .same h

theorem recordsOnly.lnk_eq (r : recordsOnly s t) : t.lnk = s.lnk := by rw [r]

theorem recordsOnly.laneSet (r : recordsOnly s t) (h : s.lnk.lanes[l]? = some x) : LaneSet l x s t := by
  exact (LaneSet.same h).lnk_eq r.lnk_eq

theorem waiting_set (h : s.lnk.lanes[l]? = some x) (wait : Nat) :
    LaneSet l { countedLane x with backoffMs := wait, state := .detect } s
      (setLaneState l .detect (modLane l (fun x => { x with backoffMs := wait }) (countRetrain l s))) := by
  have a := countRetrain_set h
  have b := a.trans (modLane_set (a.at h) (fun x => { x with backoffMs := wait }))
  exact b.trans (setLaneState_set (b.at h) .detect)

/-- The lane that `lowerLane` leaves, and nothing else in the link (R203). -/
theorem lowerLane_set (cause : Nat) (h : s.lnk.lanes[l]? = some x) : LaneSet l (loweredLane cause x) s (lowerLane l cause s) := by
  unfold lowerLane
  rw [laneOf_at h]
  extract_lets z n fr u wait detect
  have first : LaneSet l (failedLane cause x) s u := modLane_set h (fun y => { failedLane cause y with failN := n, failR := fr })
  have there := first.at h
  have self : z = x := rfl
  clear_value u z
  subst self
  unfold loweredLane
  split
  · exact first.trans (waiting_set there wait)
  · rcases nextStep z.refMode z.ladderRate z.ladderShared with _ | ⟨r, sh⟩
    · exact first.trans (setLaneState_set there .laneDown)
    · have second := first.trans (modLane_set there (fun x => { x with failR := 0, ladderRate := r, ladderShared := sh, shared := sh }))
      exact second.trans (waiting_set (second.at h) wait)

/-! ### Operations that leave the traffic state -/

/-- Lane `l` ends as `z` but for what a formation changes, and the other lanes and the settings are spared. -/
structure Redone (l : Nat) (z : Lane) (s t : State) : Prop where
  spares : Spares (· ≠ l) s t
  own : ∃ y, t.lnk.lanes[l]? = some y ∧ Reformed z y

theorem laneOf_there (h : l < s.lnk.lanes.length) : s.lnk.lanes[l]? = some (laneOf s l) := by
  simp [laneOf, h]

theorem lane_lt (h : s.lnk.lanes[l]? = some x) : l < s.lnk.lanes.length := (List.getElem?_eq_some_iff.1 h).1

theorem Redone.laneOf (a : Redone l y s t) : Reformed y (laneOf t l) := by
  obtain ⟨z, there, h⟩ := a.own
  rwa [laneOf_at there]

theorem LaneSet.redone (a : LaneSet l y s t) (h : s.lnk.lanes[l]? = some x) : Redone l y s t := ⟨a.spares, y, a.at h, .refl y⟩

theorem Redone.trans {z : Lane} {u : State} (a : Redone l x s t) (b : Redone l y t u) (r : Reformed z y) : Redone l z s u := by
  obtain ⟨w, there, h⟩ := b.own
  exact ⟨a.spares.trans b.spares, w, there, r.trans h⟩

theorem Redone.leaveTraffic (a : Redone l y s t) : Redone l y s (leaveTraffic l t) := by
  obtain ⟨z, there, r⟩ := a.own
  have spares := leaveTraffic_spares l t
  have lane := spares.lanes l trivial
  rw [laneOf_at there] at lane
  exact ⟨a.spares.trans (spares.mono fun _ _ => trivial), _, laneOf_there (by rw [spares.length]; exact lane_lt there), r.trans lane⟩

/-- The state in which a failed lane leaves its traffic state. -/
theorem failed_set {also : List RawEvent} (mild : ∀ e ∈ also, e.level < 3 ∧ quietCode e.code = true) (cause : Nat) (h : s.lnk.lanes[l]? = some x) :
    LaneSet l (loweredLane cause x) s (raiseAll (also ++ failEvents l cause s) (lowerLane l cause s)) := by
  have a := lowerLane_set cause h
  refine a.trans ((raiseAll_only (fun e mem => ?_) _).laneSet (a.at h))
  rcases List.mem_append.1 mem with k | k
  · exact mild e k
  · exact failEvents_mild l cause s e k

theorem failLaneWith_redone {also : List RawEvent} (mild : ∀ e ∈ also, e.level < 3 ∧ quietCode e.code = true) (cause : Nat)
    (h : s.lnk.lanes[l]? = some x) : Redone l (loweredLane cause x) s (failLaneWith also l cause s) :=
  ((failed_set mild cause h).redone h).leaveTraffic

theorem failLane_redone (cause : Nat) (h : s.lnk.lanes[l]? = some x) : Redone l (loweredLane cause x) s (failLane l cause s) :=
  failLaneWith_redone (by simp) cause h

/-- A failed lane outside a bond is the only lane that changes. -/
theorem failLane_out (cause : Nat) (h : s.lnk.lanes[l]? = some x) (out : outOfBond l s) :
    (failLane l cause s).lnk.lanes = s.lnk.lanes.set l (loweredLane cause x) := by
  have a := failed_set (also := []) (by simp) cause h
  have bond := a.bond
  simp only [bondView, Prod.mk.injEq] at bond
  obtain ⟨mask, -, forming, formMask, -⟩ := bond
  have still : outOfBond l (raiseAll ([] ++ failEvents l cause s) (lowerLane l cause s)) := by
    rwa [outOfBond, mask, forming, formMask]
  exact (leaveTraffic_out still).1.trans a.lanes

/-! ### Attempts, restarts, retrains -/

/-- The LREF clock is one of the settings. -/
theorem Spares.lref {K : Nat → Prop} (a : Spares K s t) : t.lnk.lref = s.lnk.lref := by
  have same : (linkSettings t.lnk).lref = (linkSettings s.lnk).lref := by rw [a.settings]
  exact same

/-- What becomes of a lane whose attempt starts: without a reference that it needs the attempt fails with NO_REF (R197). -/
def triedLane (lref : Bool) (x : Lane) : Lane :=
  if x.ladderShared && !lref then loweredLane 6 (begunLane { x with state := .detect }) else begunLane { x with state := .detect }

theorem startAttempt_redone (h : s.lnk.lanes[l]? = some x) : Redone l (triedLane s.lnk.lref x) s (startAttempt l s) := by
  have d := setLaneState_set h .detect
  have b : LaneSet l (begunLane { x with state := .detect }) s (beginAttempt l (setLaneState l .detect s)) := by
    obtain ⟨rest, lanes⟩ := (beginAttempt_becomes (d.at h)).laneSet
    refine d.trans ⟨rest.trans ?_, lanes.trans (by rw [begunLine_lanes])⟩
    unfold begunLine
    split <;> rfl
  have lref := b.spares.lref
  have there := b.at h
  unfold startAttempt triedLane
  dsimp only
  rw [laneOf_at there, lref]
  change Redone l (if x.ladderShared && !s.lnk.lref then _ else _) s (if x.ladderShared && !s.lnk.lref then _ else _)
  split
  · exact (b.redone h).trans (failLane_redone 6 there) (.refl _)
  · exact b.redone h

/-- A lane that differs by what a formation changes. -/
theorem Reformed.eq (a : Reformed x y) :
    y = { x with state := y.state, inBond := y.inBond, waitBond := y.waitBond, parked := y.parked, deskew := y.deskew } := by
  have core : { laneCore y with state := y.state, inBond := y.inBond, waitBond := y.waitBond, parked := y.parked, deskew := y.deskew } =
      { laneCore x with state := y.state, inBond := y.inBond, waitBond := y.waitBond, parked := y.parked, deskew := y.deskew } := by rw [a.core]
  exact core

theorem begunLane_reformed (a : Reformed x y) : Reformed (begunLane { x with state := .detect }) (begunLane { y with state := .detect }) := by
  have out := a.out
  rw [a.eq]
  exact ⟨rfl, .inl rfl, out⟩

/-- A failed attempt does not see what a formation changes beside the state. -/
theorem loweredLane_reformed (cause : Nat) (a : Reformed x y) (same : y.state = x.state) : Reformed (loweredLane cause x) (loweredLane cause y) := by
  have out := a.out
  have eq := a.eq
  rw [same] at eq
  have failR : y.failR = x.failR := by rw [eq]
  have next : nextStep y.refMode y.ladderRate y.ladderShared = nextStep x.refMode x.ladderRate x.ladderShared := by rw [eq]
  by_cases h : x.failR < 7
  · rw [loweredLane_same_step h, loweredLane_same_step (failR ▸ h), eq]
    exact ⟨rfl, .inl rfl, out⟩
  · rcases e : nextStep x.refMode x.ladderRate x.ladderShared with _ | ⟨r, sh⟩
    · rw [loweredLane_none (by omega) e, loweredLane_none (by omega) (next.trans e), eq]
      exact ⟨rfl, .inl rfl, out⟩
    · rw [loweredLane_some (by omega) e, loweredLane_some (by omega) (next.trans e), eq]
      exact ⟨rfl, .inl rfl, out⟩

/-- Attempts do not see what a formation changes. -/
theorem triedLane_reformed (lref : Bool) (a : Reformed x y) : Reformed (triedLane lref x) (triedLane lref y) := by
  have shared : y.ladderShared = x.ladderShared := by rw [a.eq]
  have begun := begunLane_reformed a
  unfold triedLane
  rw [shared] at begun ⊢
  split
  · exact loweredLane_reformed 6 begun rfl
  · exact begun

/-- The lane leaves its traffic state, and an attempt starts. -/
theorem Redone.retry (a : Redone l x s t) : Redone l (triedLane s.lnk.lref x) s (startAttempt l (Machine.leaveTraffic l t)) := by
  have left := a.leaveTraffic
  obtain ⟨y, there, r⟩ := left.own
  have tried := startAttempt_redone there
  rw [left.spares.lref] at tried
  exact left.trans tried (triedLane_reformed _ r)

/-- A retrain counts itself and starts an attempt (R208). -/
theorem retrain_redone (h : s.lnk.lanes[l]? = some x) : Redone l (triedLane s.lnk.lref { countedLane x with state := .detect }) s (retrain l s) := by
  have a := countRetrain_set h
  exact ((a.trans (setLaneState_set (a.at h) .detect)).redone h).retry

/-- A lane that starts the ladder afresh (R203, R205, R214). -/
def freshLane (refMode rate : Nat) (x : Lane) : Lane :=
  { countedLane x with refMode, ladderRate := rate, ladderShared := refMode = 2, failN := 0, failR := 0, cause := 0, inBond := false, state := .detect }

theorem restartLane_redone (h : s.lnk.lanes[l]? = some x) (rate : Nat) :
    Redone l (triedLane s.lnk.lref (freshLane s.lnk.refMode rate x)) s (restartLane l rate s) := by
  have a := countRetrain_set h
  have b := a.trans (modLane_set (a.at h) (fun x => { x with
    refMode := s.lnk.refMode, ladderRate := rate, ladderShared := s.lnk.refMode = 2, failN := 0, failR := 0, cause := 0, inBond := false }))
  exact ((b.trans (setLaneState_set (b.at h) .detect)).redone h).retry

theorem disableLane_redone (h : s.lnk.lanes[l]? = some x) :
    Redone l { x with attempting := false, backoffMs := 0, rate := 7, parked := false, inBond := false, waitBond := false, state := .disabled } s
      (disableLane l s) := by
  have a := modLane_set h (fun x => { x with attempting := false, backoffMs := 0, rate := 7, parked := false, inBond := false, waitBond := false })
  exact ((a.trans (setLaneState_set (a.at h) .disabled)).redone h).leaveTraffic

theorem enableLane_mission (h : s.lnk.lanes[l]? = some x) (m : x.mode = 0) :
    Redone l (triedLane s.lnk.lref (freshLane s.lnk.refMode s.lnk.maxRate x)) s (enableLane l s) := by
  unfold enableLane
  rw [laneOf_at h, if_pos m]
  exact restartLane_redone h _

theorem enableLane_test (h : s.lnk.lanes[l]? = some x) (m : x.mode ≠ 0) :
    Redone l { x with rate := x.testRate, shared := s.lnk.refMode = 2, state := .test } s (enableLane l s) := by
  unfold enableLane
  rw [laneOf_at h, if_neg m]
  have a := modLane_set h (fun x => { x with rate := x.testRate, shared := decide (s.lnk.refMode = 2) })
  exact (a.trans (setLaneState_set (a.at h) .test)).redone h

/-- With its reference, or without need of it, the attempt starts. -/
theorem triedLane_given {lref : Bool} (h : x.ladderShared = false ∨ lref = true) : triedLane lref x = begunLane { x with state := .detect } :=
  if_neg (by rcases h with k | k <;> simp [k])

theorem triedLane_refused (h : x.ladderShared = true) : triedLane false x = loweredLane 6 (begunLane { x with state := .detect }) :=
  if_pos (by simp [h])

end

end Sys2Proof.Machine
end

section
/-! Lanes that fail together, the rows of failure and relock (R197, R201 to R209), and O33. -/

namespace Sys2Proof.Machine

/-! ### Lanes whose attempts fail on one clock (R328) -/

section
variable {l : Nat} {x : Lane} {s : State}

/-- Lanes that are changed one after the other, each alone. -/
theorem foldl_laneSet {α : Type} {g : State → α → State} {idx : α → Nat} {f : α → Lnk → Lane → Lane} {ls : List α}
    (step : ∀ s, ∀ a ∈ ls, idx a < s.lnk.lanes.length → LaneSet (idx a) (f a (linkRest s.lnk) (laneOf s (idx a))) s (g s a))
    (nd : (ls.map idx).Nodup) (here : ∀ a ∈ ls, idx a < s.lnk.lanes.length) :
    let t := ls.foldl g s
    linkRest t.lnk = linkRest s.lnk ∧ t.lnk.lanes.length = s.lnk.lanes.length ∧ (∀ k, k ∉ ls.map idx → laneOf t k = laneOf s k) ∧
      ∀ a ∈ ls, laneOf t (idx a) = f a (linkRest s.lnk) (laneOf s (idx a)) := by
  induction ls generalizing s with
  | nil => simp
  | cons a ls ih =>
    obtain ⟨out, nd⟩ := List.nodup_cons.1 nd
    have there := here a List.mem_cons_self
    have first := step s a List.mem_cons_self there
    have other (k : Nat) (h : k ≠ idx a) : laneOf (g s a) k = laneOf s k := by
      simp only [laneOf, List.getD_eq_getElem?_getD, first.other h]
    obtain ⟨rest, length, away, own⟩ := ih (s := g s a) (fun s b hb => step s b (List.mem_cons_of_mem _ hb)) nd fun b hb => by
      rw [first.spares.length]
      exact here b (List.mem_cons_of_mem _ hb)
    refine ⟨rest.trans first.rest, length.trans first.spares.length, fun k hk => ?_, List.forall_mem_cons.2 ⟨?_, fun b hb => ?_⟩⟩
    · obtain ⟨hk, hk'⟩ := not_or.1 (List.mem_cons.not.1 hk)
      exact (away k hk').trans (other k hk)
    · exact (away _ out).trans (laneOf_at (first.at (laneOf_there there)))
    · rw [List.foldl_cons, own b hb, first.rest, other _ fun e => out (e ▸ List.mem_map_of_mem hb)]

/-- Lanes that are lowered one after the other. -/
theorem foldl_lowerLane (cause : Nat) {ls : List Nat} (nd : ls.Nodup) (here : ∀ l ∈ ls, l < s.lnk.lanes.length) :
    let t := ls.foldl (fun s l => lowerLane l cause s) s
    linkRest t.lnk = linkRest s.lnk ∧ t.lnk.lanes.length = s.lnk.lanes.length ∧
      ∀ k, laneOf t k = if k ∈ ls then loweredLane cause (laneOf s k) else laneOf s k := by
  obtain ⟨rest, length, away, own⟩ := foldl_laneSet (idx := id) (f := fun _ _ => loweredLane cause)
    (fun s l _ h => lowerLane_set cause (laneOf_there h)) (by rwa [List.map_id]) here
  refine ⟨rest, length, fun k => ?_⟩
  split
  · rename_i mem
    exact own k mem
  · rename_i out
    exact away k (by rwa [List.map_id])

theorem foldl_leaveTraffic (ls : List Nat) (s : State) : Spares (fun _ => True) s (ls.foldl (fun s l => leaveTraffic l s) s) := by
  induction ls generalizing s with
  | nil => exact .refl _ s
  | cons l ls ih => exact (leaveTraffic_spares l s).trans (ih _)

/-- What a step of lanes that fail together has left, before they leave their traffic states. -/
theorem failLanes_lowered (cause : Nat) {ls : List Nat} (nd : ls.Nodup) (here : ∀ l ∈ ls, l < s.lnk.lanes.length) :
    ∃ u, linkRest u.lnk = linkRest s.lnk ∧ u.lnk.lanes.length = s.lnk.lanes.length ∧
      (∀ k, laneOf u k = if k ∈ ls then loweredLane cause (laneOf s k) else laneOf s k) ∧ Spares (fun _ => True) u (failLanes ls cause s) := by
  have mild : ∀ e ∈ ls.flatMap (fun l => failEvents l cause s), e.level < 3 ∧ quietCode e.code = true := by
    intro e he
    obtain ⟨l, -, mem⟩ := List.mem_flatMap.1 he
    exact failEvents_mild l cause s e mem
  obtain ⟨rest, length, lane⟩ := foldl_lowerLane cause nd here
  have same := recordsOnly.lnk_eq (raiseAll_only mild (ls.foldl (fun s l => lowerLane l cause s) s))
  refine ⟨_, ?_, ?_, fun k => ?_, foldl_leaveTraffic ls _⟩
  · rw [same, rest]
  · rw [same, length]
  · rw [← lane, laneOf, same, laneOf]

/-! ### Rows of failure and relock -/

theorem exec_attemptTimeout {lost : Bool} (up : lanesUp s = true) (hl : l < 5) (h : s.lnk.lanes[l]? = some x) (att : x.attempting = true) :
    exec (.attemptTimeout { lane := l, lostMs := lost }) s =
      .next (failLane l (if x.los && lost && (x.state ≠ .detect || x.started) then 2 else 1) s) := by
  refine (whenLanes_guarded up (by simpa using hl)).trans ?_
  simp only [laneOf_at h, att, Bool.not_true, Bool.false_eq_true, if_false]

/-- The entries into RELOCK within the last second, with this one (R209). -/
def relockTimes (at_ : Nat) (x : Lane) : List Nat := x.relockTimes.filter (fun t => at_ ≤ t + 1000) ++ [at_]

/-- A lane counts another entry into RELOCK. -/
def relockNoted (l : Nat) (times : List Nat) (s : State) : State :=
  modLane l (fun x => { x with relocks := satInc 16 x.relocks, relockTimes := times }) s

/-- The event of an entry into RELOCK (R216). -/
def relockEvent (l gap n : Nat) : RawEvent := ev 0x0106 l n (min gap 65535) 0

theorem exec_relockEntry {gap at_ : Nat} (up : lanesUp s = true) (hl : l < 5) (h : s.lnk.lanes[l]? = some x) (k : x.state = .trained) :
    let u := relockNoted l (relockTimes at_ x) s
    let n := (laneOf u l).relocks
    exec (.relockEntry l gap at_) s = .next (
      if 8 ≤ (relockTimes at_ x).length then failLaneWith [relockEvent l gap n, ev 0x0108 l n x.rate 0] l 5 u
      else interrupt (if l = 4 then .twin else .host) (setLaneState l .relock (note (relockEvent l gap n) u))) := by
  intro u n
  refine (whenLanes_guarded up (by simpa using hl)).trans ?_
  rw [laneOf_at h, if_neg (not_not.2 k)]
  simp only [decide_eq_true_eq]
  rfl

theorem exec_relockComplete {b : Bool} (up : lanesUp s = true) (hl : l < 5) (h : s.lnk.lanes[l]? = some x) (k : x.state = .relock) :
    exec (.relockComplete l b) s = .next (
      if !b then retrain l s else if l = 4 then twinUp s
      else if s.lnk.bondMask.testBit l || (s.lnk.forming && s.lnk.formMask.testBit l) then setLaneState l .trained s
      else enteredBond l 0 (setLaneState l .bond s)) := by
  refine (whenLanes_guarded up (by simpa using hl)).trans ?_
  rw [laneOf_at h, if_neg (not_not.2 k)]

theorem exec_relockTimeout (up : lanesUp s = true) (hl : l < 5) (h : s.lnk.lanes[l]? = some x) (k : x.state = .relock) :
    exec (.relockTimeout l) s = .next (retrain l s) := by
  refine (whenLanes_guarded up (by simpa using hl)).trans ?_
  rw [laneOf_at h, if_pos k]

theorem exec_alignmentLost (up : lanesUp s = true) (hl : l < 5) (h : s.lnk.lanes[l]? = some x) :
    exec (.alignmentLost l) s = .next (
      if x.state = .trained then retrain l s
      else if x.state = .detect then modLane l (fun x => { x with anchors := 0, acks := 0 }) s
      else if x.state = .adapt then setLaneState l .align s else s) := by
  refine (whenLanes_guarded up (by simpa using hl)).trans ?_
  rw [laneOf_at h]
  cases x.state <;> rfl

/-- Lanes whose attempts need the LREF clock. -/
def needLref (s : State) : List Nat := (List.range 5).filter (fun l => (laneOf s l).attempting && (laneOf s l).shared)

/-- The LREF clock is there, or is gone. -/
def lrefNoted (b : Bool) (s : State) : State := { s with lnk := { s.lnk with lref := b } }

theorem exec_lrefClockChange (up : lanesUp s = true) (b : Bool) :
    exec (.lrefClockChange b) s = .next (if b then lrefNoted b s else failLanes (needLref s) 6 (lrefNoted b s)) := if_pos up

/-! ### What the rows make of a lane -/

theorem satInc_eq (w n : Nat) : satInc w n = min (2 ^ w - 1) (n + 1) := Nat.min_comm ..

/-- A retrain of a lane in TRAINED or RELOCK, with its reference or without need of it (R208). -/
theorem retrain_begins (h : s.lnk.lanes[l]? = some x) (k : x.state = .trained ∨ x.state = .relock)
    (ref : x.ladderShared = false ∨ s.lnk.lref = true) :
    ∃ y, (retrain l s).lnk.lanes[l]? = some y ∧ y.state = .detect ∧ y.attempting = true ∧
      y.retrains = min 65535 (x.retrains + 1) ∧ y.fails = x.fails := by
  obtain ⟨-, y, there, r⟩ := retrain_redone h
  have begins := triedLane_given (x := { countedLane x with state := .detect }) ref
  rw [begins] at r
  refine ⟨y, there, ?_⟩
  rw [r.eq, r.state_eq (by simp [begunLane])]
  exact ⟨rfl, rfl, (countedLane_traffic k).trans (satInc_eq 16 _), rfl⟩

/-- A failed attempt outside a bond (R201, R203). -/
theorem failLane_outside (cause : Nat) (h : s.lnk.lanes[l]? = some x) (d : x.state ≠ .trained ∧ x.state ≠ .relock) (out : outOfBond l s) :
    let n := min 255 (x.failN + 1)
    let t := failLane l cause s
    ∃ y, t.lnk.lanes[l]? = some y ∧ y.attempting = false ∧ y.rate = 7 ∧ y.failN = n ∧ y.fails = min 65535 (x.fails + 1) ∧ y.cause = cause ∧
      y.retrains = x.retrains ∧
      (x.failR < 7 → y.state = .detect ∧ y.failR = x.failR + 1 ∧ y.backoffMs = min (10 * 2 ^ (min n 8 - 1)) 1000 ∧ y.ladderRate = x.ladderRate) ∧
      (7 ≤ x.failR → 0 < x.ladderRate → y.state = .detect ∧ y.failR = 0 ∧ y.ladderRate = x.ladderRate - 1 ∧ y.ladderShared = x.ladderShared) ∧
      (7 ≤ x.failR → x.ladderRate = 0 → (x.refMode ≠ 0 ∨ x.ladderShared = true) → y.state = .laneDown) ∧
      ∀ k, k ≠ l → t.lnk.lanes[k]? = s.lnk.lanes[k]? := by
  intro n t
  have count : satInc 8 x.failN = n := satInc_eq 8 _
  have lanes := failLane_out cause h out
  have there := lane_lt h
  obtain ⟨att, rate, failN, fails, cause, -⟩ := loweredLane_common cause x
  refine ⟨_, by rw [lanes, List.getElem?_set_self there], att, rate, failN.trans count, fails.trans (satInc_eq 16 _), cause,
    loweredLane_retrains _ d, fun few => ?_, fun many r => ?_,
    fun many r last => ?_, fun k hk => by rw [lanes, List.getElem?_set_ne hk.symm]⟩
  · rw [loweredLane_same_step few]
    exact ⟨rfl, rfl, by rw [← count]; rfl, rfl⟩
  · rw [loweredLane_some many (nextStep_rate r)]
    exact ⟨rfl, rfl, rfl, rfl⟩
  · rw [loweredLane_none many (by rw [r]; exact nextStep_last last)]

/-- A lane that enters BOND beside a bond that it does not join, or without a bond, waits (R206). -/
theorem enteredBond_left (host : l < 4) (h : s.lnk.lanes[l]? = some x) (free : s.lnk.bondMask = 0 ∨ s.lnk.autoRejoin = false) (ms : Nat) :
    ∃ y, (enteredBond l ms s).lnk.lanes[l]? = some y ∧ y.state = x.state ∧ y.waitBond = true := by
  have a := modLane_set h (fun x => { x with waitBond := true })
  unfold enteredBond
  dsimp only
  rw [if_neg (by omega : ¬l = 4)]
  split
  · exact ⟨_, a.at h, rfl, rfl⟩
  · rename_i bonded
    have off : (modLane l (fun x => { x with waitBond := true }) s).lnk.autoRejoin = false := free.resolve_left bonded
    rw [off, Bool.and_false, if_neg (by decide)]
    exact ⟨_, (modLane_set (a.at h) (fun x => { x with parked := true })).at (a.at h), rfl, rfl⟩

/-- A lane that enters RELOCK. -/
def relockingLane (at_ : Nat) (x : Lane) : Lane :=
  { x with relocks := satInc 16 x.relocks, relockTimes := relockTimes at_ x, state := .relock }

/-- A lane enters RELOCK: its path is interrupted (R208). -/
theorem relockEntry_path {gap at_ : Nat} (up : lanesUp s = true) (hl : l < 5) (h : s.lnk.lanes[l]? = some x) (k : x.state = .trained)
    (few : (x.relockTimes.filter (fun t => at_ ≤ t + 1000)).length < 7) :
    ∃ t, exec (.relockEntry l gap at_) s = .next t ∧
      t.lnk.lanes = s.lnk.lanes.set l (relockingLane at_ x) ∧
      (l = 4 → t.rope.twin.up = false) ∧ (l < 4 → t.rope.host.up = false) := by
  have a : LaneSet l _ s (relockNoted l (relockTimes at_ x) s) :=
    modLane_set h (fun y => { y with relocks := satInc 16 y.relocks, relockTimes := relockTimes at_ x })
  have b := (a.trans ((note_only (relockEvent l gap (laneOf (relockNoted l (relockTimes at_ x) s) l).relocks) _).laneSet (a.at h)))
  have c := b.trans (setLaneState_set (b.at h) .relock)
  refine ⟨_, (exec_relockEntry up hl h k).trans (by rw [if_neg (by rw [relockTimes, List.length_append, List.length_singleton]; omega)]),
    (congrArg Lnk.lanes (interrupt_lnk ..)).trans c.lanes, fun twin => ?_, fun host => ?_⟩
  · subst twin
    rw [if_pos rfl, (interrupt_up _).2, twinTrained, getD_at _ (c.at h)]
    rfl
  · rw [if_neg (by omega), (interrupt_up _).1]

/-- The eighth entry into RELOCK within a second fails the lane (R209). -/
theorem relockEntry_flap {gap at_ : Nat} (up : lanesUp s = true) (hl : l < 5) (h : s.lnk.lanes[l]? = some x) (k : x.state = .trained)
    (many : 7 ≤ (x.relockTimes.filter (fun t => at_ ≤ t + 1000)).length) :
    ∃ t y, exec (.relockEntry l gap at_) s = .next t ∧ t.lnk.lanes[l]? = some y ∧ y.relocks = satInc 16 x.relocks ∧ y.state ≠ .trained ∧
      y.state ≠ .relock ∧ y.cause = 5 ∧ y.relockTimes = relockTimes at_ x := by
  have a : LaneSet l _ s (relockNoted l (relockTimes at_ x) s) :=
    modLane_set h (fun y => { y with relocks := satInc 16 y.relocks, relockTimes := relockTimes at_ x })
  have mild (n : Nat) : ∀ e ∈ [relockEvent l gap n, ev 0x0108 l n x.rate 0], e.level < 3 ∧ quietCode e.code = true := by
    have entry : evLevel 0x0106 < 3 ∧ quietCode 0x0106 = true := by decide
    have flap : evLevel 0x0108 < 3 ∧ quietCode 0x0108 = true := by decide
    exact List.forall_mem_cons.2 ⟨entry, List.forall_mem_cons.2 ⟨flap, by simp⟩⟩
  obtain ⟨-, y, there, r⟩ := failLaneWith_redone (mild (laneOf (relockNoted l (relockTimes at_ x) s) l).relocks) 5 (a.at h)
  refine ⟨_, y, (exec_relockEntry up hl h k).trans
    (by rw [if_pos (by rw [relockTimes, List.length_append, List.length_singleton]; omega)]), there, ?_⟩
  obtain ⟨-, -, -, -, cause, -, relocks, times, -⟩ := loweredLane_common 5 { x with
    relocks := satInc 16 x.relocks, relockTimes := relockTimes at_ x }
  obtain ⟨trained, relock, -⟩ := loweredLane_left 5 { x with relocks := satInc 16 x.relocks, relockTimes := relockTimes at_ x }
  rw [r.eq, r.state_eq trained]
  exact ⟨relocks, trained, relock, cause, times⟩

end

/-! ### The obligation -/

/-- Settles O33: each row by its equation; what it makes of its own lane by `Redone`, and of the others by `Spares`. -/
theorem laneFailsAndRetrains : Obligations.LaneFailsAndRetrains := by
  unfold Obligations.LaneFailsAndRetrains
  refine ⟨fun l lost x s up hl h att st out => ?_, fun l gap at_ x s up hl h k => ?_, fun l x s up hl h k => ⟨fun host bond => ?_, fun twin => ?_,
    fun host free' unformed still => ?_, fun ref => ⟨?_, ?_⟩⟩, fun l x s up hl h => ⟨fun k => ?_, fun k => ?_, fun k ref => ?_⟩,
    fun l x s up hl h k sh no => ?_, fun s up len => ?_⟩
  · intro n
    have away : x.state ≠ .trained ∧ x.state ≠ .relock := by rcases st with k | k | k | k <;> rw [k] <;> decide
    have free : outOfBond l s := out.imp_right fun ⟨mask, forming⟩ => by rw [mask, forming]; rfl
    obtain ⟨y, there, att', rate, failN, fails, cause, rest⟩ :=
      failLane_outside (if x.los && lost && (x.state ≠ .detect || x.started) then 2 else 1) h away free
    refine ⟨_, y, exec_attemptTimeout up hl h att, there, att', rate, failN, fails, cause.trans ?_, rest⟩
    simp only [Bool.and_eq_true, Bool.or_eq_true, decide_eq_true_eq, and_assoc]
  · intro n
    by_cases few : n < 7
    · obtain ⟨t, row, lanes, twin, host⟩ := relockEntry_path up hl h k few
      refine ⟨t, relockingLane at_ x, row, by rw [lanes, List.getElem?_set_self (lane_lt h)],
        satInc_eq 16 _, fun _ => ⟨rfl, rfl, twin, host, fun k hk => ?_⟩,
        fun many => by omega⟩
      rw [lanes, List.getElem?_set_ne hk.symm]
    · obtain ⟨t, y, row, there, relocks, state⟩ := relockEntry_flap (at_ := at_) up hl h k (Nat.not_lt.1 few)
      exact ⟨t, y, row, there, relocks.trans (satInc_eq 16 _), fun no => absurd no few, fun _ => state⟩
  · refine ⟨_, exec_relockComplete up hl h k, ?_⟩
    rw [if_neg (by decide), if_neg (by omega), if_pos (by simpa using bond)]
    exact laneBecomes_setLaneState h .trained
  · subst twin
    obtain ⟨there, path, -⟩ := twinUp_spec h
    exact ⟨_, _, exec_relockComplete up hl h k, there, rfl, path⟩
  · have a := setLaneState_set h .bond
    have mask : (setLaneState l .bond s).lnk.bondMask = s.lnk.bondMask := congrArg Prod.fst a.bond
    have rejoin : (setLaneState l .bond s).lnk.autoRejoin = s.lnk.autoRejoin := by
      have same : (linkSettings (setLaneState l .bond s).lnk).autoRejoin = (linkSettings s.lnk).autoRejoin := by rw [a.settings]
      exact same
    have free : (setLaneState l .bond s).lnk.bondMask = 0 ∨ (setLaneState l .bond s).lnk.autoRejoin = false := by rwa [mask, rejoin]
    obtain ⟨y, there, state, wait⟩ := enteredBond_left host (a.at h) free 0
    refine ⟨_, y, exec_relockComplete up hl h k, ?_, state, wait⟩
    have away : (s.lnk.bondMask.testBit l || (s.lnk.forming && s.lnk.formMask.testBit l)) = false := by
      rcases unformed with f | f <;> simp [free', f]
    rwa [if_neg (by decide), if_neg (by omega), away, if_neg (by decide)]
  · obtain ⟨y, there, state, att, retrains, fails⟩ := retrain_begins h (.inr k) ref
    exact ⟨_, y, exec_relockComplete up hl h k, there, state, att, retrains, fails⟩
  · obtain ⟨y, there, state, att, retrains, fails⟩ := retrain_begins h (.inr k) ref
    exact ⟨_, y, exec_relockTimeout up hl h k, there, state, att, retrains, fails⟩
  · refine ⟨_, exec_alignmentLost up hl h, ?_⟩
    simpa [k] using laneBecomes_setLaneState h .align
  · rw [exec_alignmentLost up hl h, if_neg (by simp [k]), if_pos k, modLane_at h]
  · obtain ⟨y, there, state, -, retrains, -⟩ := retrain_begins h (.inl k) ref
    refine ⟨_, y, exec_alignmentLost up hl h, by rwa [if_pos k], state, retrains⟩
  · obtain ⟨-, y, there, r⟩ := failLane_redone 6 h
    obtain ⟨att, -, -, -, cause, -⟩ := loweredLane_common 6 x
    obtain ⟨trained, -, lock, align⟩ := loweredLane_left 6 x
    have row : exec (.cdrLock l) s = .next (failLane l 6 s) := by
      rw [exec_cdrLock up hl h, if_neg (not_not.2 k), if_pos (by simp [sh, no])]
    refine ⟨_, y, row, there, ?_⟩
    rw [r.eq, r.state_eq trained]
    exact ⟨cause, att, lock, align⟩
  · have here : ∀ l ∈ needLref s, l < (lrefNoted false s).lnk.lanes.length := by
      intro l hl
      have := List.mem_range.1 (List.mem_filter.1 hl).1
      exact this.trans_eq len.symm
    obtain ⟨u, rest, length, lanes, sp⟩ := failLanes_lowered (ls := needLref s) 6 (List.nodup_range.filter _) here
    refine ⟨failLanes (needLref s) 6 (lrefNoted false s), exec_lrefClockChange up false, ?_, fun l x hl h => ?_⟩
    · exact sp.lref.trans (congrArg Lnk.lref rest)
    · have mem : l ∈ needLref s ↔ x.attempting = true ∧ x.shared = true := by simp [needLref, hl, laneOf_at h]
      have self : laneOf (lrefNoted false s) l = x := laneOf_at h
      have r := sp.lanes l trivial
      rw [lanes, self] at r
      obtain ⟨att, -, -, -, cause, -⟩ := loweredLane_common 6 x
      refine ⟨fun c => ?_, fun c => ?_⟩
      · rw [if_pos (mem.2 c)] at r
        rw [r.eq]
        exact ⟨cause, att⟩
      · rw [if_neg (mt mem.1 c)] at r
        rw [r.eq]
        exact ⟨rfl, rfl⟩

end Sys2Proof.Machine
end

section
/-! LINK_TRAIN, LANE_BITSLIP and EYE_SCAN (R210, R212, R214), and O34. -/

namespace Sys2Proof.Machine

section
variable {l m : Nat} {x : Lane} {s t : State}

/-! ### The parts of a request -/

theorem after_lnk (op : Nat) (rq : Rq) (s : State) : (after op rq s).lnk = s.lnk := by rw [(after_only op rq s).1]

theorem after_paired (op : Nat) (rq : Rq) (s : State) : paired (after op rq s) = paired s := by simp only [paired, after_twn_cfg]

theorem lanes_length (h : shaped s = true) : s.lnk.lanes.length = 5 := by
  unfold shaped shapes at h
  rw [decide_eq_true_eq] at h
  exact (List.cons.inj h).1

theorem testBit_mod_32 (m : Nat) (h : l < 5) : (m % 32).testBit l = m.testBit l := by
  rw [show 32 = 2 ^ 5 from rfl, Nat.testBit_mod_two_pow]
  simp [h]

theorem testBit_mod_16 (m : Nat) (h : l < 4) : (m % 16).testBit l = m.testBit l := by
  rw [show 16 = 2 ^ 4 from rfl, Nat.testBit_mod_two_pow]
  simp [h]

/-! ### ACTION DISABLE -/

/-- The lanes of a mask are no longer enabled. -/
def lanesOff (m : Nat) (s : State) : State :=
  { s with lnk := { s.lnk with hrxEn := s.lnk.hrxEn &&& (15 - m % 16), twEn := s.lnk.twEn && !m.testBit 4 } }

theorem laneEnabled_lanesOff (hl : l < 5) (h : m.testBit l = true) : laneEnabled (lanesOff m s) l = false := by
  unfold laneEnabled lanesOff
  split
  · rename_i twin
    rw [twin] at h
    simp [h]
  · have low : l < 4 := by omega
    have rest : (15 - m % 16).testBit l = false := by
      rw [show 15 - m % 16 = 2 ^ 4 - (m % 16 + 1) by omega, Nat.testBit_two_pow_sub_succ (by omega), testBit_mod_16 m low, h]
      simp
    simp [rest]

/-- Lanes are disabled one after the other. -/
def disableLanes (ls : List Nat) (s : State) : State := ls.foldl (fun s l => disableLane l s) s

theorem exec_linkTrainDisable {b r z : Byte} {rq : Rq} (ad : admits 0x30 rq s = true) (p : rq.payload = [b, 1, r, z]) (some : b.toNat % 32 ≠ 0)
    (pair : b.toNat.testBit 4 = true → paired s = true) :
    exec (.linkTrainDisable rq) s = answered 0x30 rq { status := stOk }
      (disableLanes (bitsOf (b.toNat % 32) 5) (lanesOff (b.toNat % 32) (after 0x30 rq s))) := by
  have mask : bits (field rq.payload 0 1) 0 5 = b.toNat % 32 := by rw [p, field_head]; rfl
  have act : field rq.payload 1 1 = 1 := by rw [p, field_second]; rfl
  have may : ((b.toNat % 32).testBit 4 && !paired (after 0x30 rq s)) = false := by
    rw [testBit_mod_32 _ (by omega), after_paired]
    cases k : b.toNat.testBit 4
    · rfl
    · rw [pair k]; rfl
  change linkTrain rq s = _
  unfold linkTrain
  dsimp only
  rw [mask, act, request_plain ad rfl (by rw [p]; rfl), if_neg (by simpa using some), may, if_neg (by decide), if_pos rfl]
  rfl

/-- What lanes end as that are changed one after the other, each by itself. -/
theorem foldl_redone {g : State → Nat → State} {f : Nat → Lnk → Lane → Lane} {ls : List Nat}
    (step : ∀ s l, l < s.lnk.lanes.length → Redone l (f l (linkSettings s.lnk) (laneOf s l)) s (g s l))
    (nd : ls.Nodup) (here : ∀ l ∈ ls, l < s.lnk.lanes.length) :
    linkSettings (ls.foldl g s).lnk = linkSettings s.lnk ∧
      ∀ l ∈ ls, ∃ x, Reformed (laneOf s l) x ∧ Reformed (f l (linkSettings s.lnk) x) (laneOf (ls.foldl g s) l) := by
  have each (s : State) (l : Nat) (_ : l ∈ ls) (h : l < s.lnk.lanes.length) := (step s l h).spares
  have none : Spares (fun _ => False) s (ls.foldl g s) := foldl_spares (fun s l hl h => (each s l hl h).mono fun _ k => k.elim) here
  refine ⟨none.settings, fun l hl => ?_⟩
  obtain ⟨r, before, after⟩ := foldl_own_step nd hl each here
  have own := (step r l (by rw [before.length]; exact here l hl)).laneOf
  rw [before.settings] at own
  exact ⟨laneOf r l, before.lanes l rfl, own.trans (after.lanes l rfl)⟩

/-- A disabled lane (R214, R217). -/
def disabledLane (x : Lane) : Lane :=
  { x with attempting := false, backoffMs := 0, rate := 7, parked := false, inBond := false, waitBond := false, state := .disabled }

/-- Lanes that have been disabled one after the other. -/
theorem disableLanes_spec {ls : List Nat} (nd : ls.Nodup) (here : ∀ l ∈ ls, l < s.lnk.lanes.length) :
    let t := disableLanes ls s
    linkSettings t.lnk = linkSettings s.lnk ∧ ∀ l ∈ ls, (laneOf t l).state = .disabled ∧ (laneOf t l).attempting = false := by
  obtain ⟨settings, lane⟩ := foldl_redone (f := fun _ _ => disabledLane) (fun s l h => disableLane_redone (laneOf_there h)) nd here
  refine ⟨settings, fun l hl => ?_⟩
  obtain ⟨x, -, r⟩ := lane l hl
  refine ⟨r.state_eq (by simp [disabledLane]), ?_⟩
  rw [disableLanes, r.eq]
  rfl

/-- Whether a lane is enabled is one of the settings. -/
theorem laneEnabled_settings (h : linkSettings t.lnk = linkSettings s.lnk) (l : Nat) : laneEnabled t l = laneEnabled s l := by
  have en : (linkSettings t.lnk).hrxEn = (linkSettings s.lnk).hrxEn := by rw [h]
  have tw : (linkSettings t.lnk).twEn = (linkSettings s.lnk).twEn := by rw [h]
  unfold laneEnabled
  rw [show t.lnk.hrxEn = s.lnk.hrxEn from en, show t.lnk.twEn = s.lnk.twEn from tw]

/-! ### ACTION RESTART -/

/-- The RESTARTs that wait for a lane of the mask end with SUPERSEDED. -/
def supersede (m : Nat) (s : State) : State :=
  (s.lnk.restart.filter (fun r => r.mask &&& m ≠ 0)).foldl (fun s r => completeOpen r.handle 0x30 r.src stSuperseded s) s

/-- A new RESTART waits, and the lanes of its mask are enabled. -/
def restartNoted (m h : Nat) (src : Src) (s : State) : State :=
  { s with lnk := { s.lnk with
    restart := s.lnk.restart.filter (fun r => r.mask &&& m = 0) ++ [{ mask := m, handle := h, src }]
    hrxEn := s.lnk.hrxEn ||| (m % 16), twEn := s.lnk.twEn || m.testBit 4 } }

/-- Lanes start the ladder afresh with MODE 0, one after the other. -/
def restartLanes (ls : List Nat) (top : Nat) (s : State) : State :=
  ls.foldl (fun s l => restartLane l top (modLane l (fun x => { x with mode := 0 }) s)) s

/-- The state in which a RESTART restarts its lanes. -/
def restartBegun (m : Nat) (src : Src) (s : State) : State := restartNoted m (newHandle s) src (supersede m (takeHandle s))

theorem exec_linkTrainRestart {b r z : Byte} {rq : Rq} (ad : admits 0x30 rq s = true) (p : rq.payload = [b, 0, r, z]) (some : b.toNat % 32 ≠ 0)
    (rate : r.toNat < 5 ∨ r.toNat = 255) (pair : b.toNat.testBit 4 = true → paired s = true) (free : handleFree s = true) :
    let u := restartBegun (b.toNat % 32) rq.src (after 0x30 rq s)
    exec (.linkTrainRestart rq) s = answered 0x30 rq { status := stAccepted, handle := newHandle (after 0x30 rq s) }
      (restartLanes (bitsOf (b.toNat % 32) 5) (if r.toNat = 255 then u.lnk.maxRate else r.toNat) u) := by
  intro u
  have mask : bits (field rq.payload 0 1) 0 5 = b.toNat % 32 := by rw [p, field_head]; rfl
  have act : field rq.payload 1 1 = 0 := by rw [p, field_second]; rfl
  have top : field rq.payload 2 1 = r.toNat := by rw [p]; exact field_byte [b, 0] [z] r rfl
  have may : ((b.toNat % 32).testBit 4 && !paired (after 0x30 rq s)) = false := by
    rw [testBit_mod_32 _ (by omega), after_paired]
    cases k : b.toNat.testBit 4
    · rfl
    · rw [pair k]; rfl
  have legal : (decide (b.toNat % 32 = 0) || decide (1 < 0) || (decide (0 = 0) && decide (4 < r.toNat) && decide (r.toNat ≠ 255))) = false := by
    simp only [some]
    simp
    omega
  change linkTrain rq s = _
  unfold linkTrain
  dsimp only
  rw [mask, act, top, request_plain ad rfl (by rw [p]; rfl), legal, if_neg (by decide), may, if_neg (by decide), if_neg (by decide),
    accept_free (by rw [after_handleFree, free])]
  rfl

/-- A lane that has started the ladder afresh at a rate: with its reference in an attempt, without it after a failed one (R197, R214). -/
structure Restarted (mode : Nat) (lref : Bool) (refMode rate : Nat) (y : Lane) : Prop where
  begins : y.mode = mode ∧ y.state = .detect ∧ y.ladderRate = rate
  given : refMode ≠ 2 ∨ lref = true → y.attempting = true ∧ y.failN = 0 ∧ y.failR = 0 ∧ y.backoffMs = 0 ∧ y.cause = 0
  refused : refMode = 2 → lref = false → y.attempting = false ∧ y.failN = 1 ∧ y.failR = 1 ∧ y.cause = 6

theorem restarted_tried (lref : Bool) (refMode rate : Nat) (x : Lane) :
    Restarted x.mode lref refMode rate (triedLane lref (freshLane refMode rate x)) := by
  by_cases ref : refMode ≠ 2 ∨ lref = true
  · rw [triedLane_given (ref.imp_left fun k => decide_eq_false k)]
    refine ⟨⟨rfl, rfl, rfl⟩, fun _ => ⟨rfl, rfl, rfl, rfl, rfl⟩, fun shared gone => ?_⟩
    rcases ref with k | k
    · exact absurd shared k
    · exact absurd (k.symm.trans gone) (by decide)
  · obtain ⟨shared, gone⟩ : refMode = 2 ∧ lref = false := by simpa using ref
    rw [gone, triedLane_refused (by simp [freshLane, shared]), loweredLane_same_step (by simp [begunLane, freshLane])]
    refine ⟨⟨by simp only [waitingLane, countedLane, failedLane, begunLane, freshLane], rfl, rfl⟩,
      fun k => k.elim (absurd shared) fun e => absurd e (by decide), fun _ _ => ⟨rfl, rfl, rfl, rfl⟩⟩

theorem restarted_mission (lref : Bool) (refMode rate : Nat) (x : Lane) :
    Restarted 0 lref refMode rate (triedLane lref (freshLane refMode rate { x with mode := 0 })) :=
    restarted_tried lref refMode rate { x with mode := 0 }

theorem Restarted.reformed {mode refMode rate : Nat} {lref : Bool} {y : Lane} (a : Restarted mode lref refMode rate x) (r : Reformed x y) :
    Restarted mode lref refMode rate y := by
  obtain ⟨begins, given, refused⟩ := a
  have state := r.state_eq (by rw [begins.2.1]; decide)
  rw [r.eq, state]
  exact ⟨begins, given, refused⟩

theorem restartStep_redone (top : Nat) (s : State) (l : Nat) (h : l < s.lnk.lanes.length) :
    Redone l (triedLane s.lnk.lref (freshLane s.lnk.refMode top { laneOf s l with mode := 0 })) s
      (restartLane l top (modLane l (fun x => { x with mode := 0 }) s)) := by
  have a := modLane_set (laneOf_there h) (fun x => { x with mode := 0 })
  exact (a.redone (laneOf_there h)).trans (restartLane_redone (a.at (laneOf_there h)) top) (.refl _)

/-- Lanes that have been restarted one after the other. -/
theorem restartLanes_spec {ls : List Nat} {top : Nat} (nd : ls.Nodup) (here : ∀ l ∈ ls, l < s.lnk.lanes.length) :
    let t := restartLanes ls top s
    linkSettings t.lnk = linkSettings s.lnk ∧ ∀ l ∈ ls, Restarted 0 s.lnk.lref s.lnk.refMode top (laneOf t l) := by
  obtain ⟨settings, lane⟩ := foldl_redone (f := fun _ k x => triedLane k.lref (freshLane k.refMode top { x with mode := 0 }))
    (restartStep_redone top) nd here
  refine ⟨settings, fun l hl => ?_⟩
  obtain ⟨x, -, r⟩ := lane l hl
  exact (restarted_mission _ _ _ x).reformed r

theorem cmd_restartLanes (ls : List Nat) (top : Nat) (s : State) : (restartLanes ls top s).cmd = s.cmd :=
  cmd_of_linkView (foldl_view _ (fun _ _ => by rw [linkView_restartLane, linkView_modLane]) s)

/-! ### Completions -/

/-- A completion of a handle that is outstanding stands in the queue. -/
theorem complete_stands {h : Nat} (op : Nat) (src : Src) (st a b : Nat) (out : s.cmd.outstanding.contains h = true) :
    ∃ e ∈ (complete h op src st a b s).cmd.cq, e.handle = h ∧ e.opcode = op ∧ e.status = st := by
  unfold complete
  rw [if_pos out]
  exact ⟨_, List.mem_append_right _ (List.mem_singleton_self _), rfl, rfl, rfl⟩

/-- A completion leaves those that stand in the queue, and the handles that are outstanding. -/
theorem completeOpen_queue (h op : Nat) (src : Src) (st : Nat) (s : State) :
    (completeOpen h op src st s).cmd.outstanding = s.cmd.outstanding ∧ ∀ e ∈ s.cmd.cq, e ∈ (completeOpen h op src st s).cmd.cq := by
  unfold completeOpen takeFree complete
  dsimp only
  split
  · exact ⟨rfl, fun e he => List.mem_append_left _ he⟩
  · exact ⟨rfl, fun e he => he⟩

/-- Each RESTART that a new one supersedes, and whose handle is outstanding, completes (R214). -/
theorem supersede_completes {r : Restart} (h : r ∈ s.lnk.restart) (shares : r.mask &&& m ≠ 0) (out : s.cmd.outstanding.contains r.handle = true) :
    ∃ e ∈ (supersede m s).cmd.cq, e.handle = r.handle ∧ e.opcode = 0x30 ∧ e.status = stSuperseded := by
  refine foldl_achieves (v := fun s : State => s.cmd.outstanding) (w := fun _ => ())
    (P := fun t => ∃ e ∈ t.cmd.cq, e.handle = r.handle ∧ e.opcode = 0x30 ∧
    e.status = stSuperseded) (n := r) (List.mem_filter.2 ⟨h, by simpa using shares⟩) (fun s r => (completeOpen_queue ..).1) (fun _ _ _ => rfl)
    (fun t same _ => ?_) (fun t r k => ?_)
  · have still : t.cmd.outstanding.contains r.handle = true := by rwa [show t.cmd.outstanding = s.cmd.outstanding from same]
    exact complete_stands (s := (takeFree (takeFree t).2).2) 0x30 r.src stSuperseded _ _ still
  · obtain ⟨e, he, c⟩ := k
    exact ⟨e, (completeOpen_queue ..).2 e he, c⟩

theorem supersede_lnk (m : Nat) (s : State) : (supersede m s).lnk = s.lnk := foldl_view (v := State.lnk) _ (fun _ _ => completeOpen_lnk ..) s

/-- The link once a RESTART has been noted. -/
theorem restartBegun_lnk (m : Nat) (src : Src) (s : State) : (restartBegun m src s).lnk = (restartNoted m (newHandle s) src s).lnk := by
  unfold restartBegun restartNoted
  rw [supersede_lnk, takeHandle_lnk]

theorem laneEnabled_restartNoted {h : Nat} {src : Src} (hl : l < 5) (k : m.testBit l = true) : laneEnabled (restartNoted m h src s) l = true := by
  unfold laneEnabled restartNoted
  split
  · rename_i twin
    rw [twin] at k
    simp [k]
  · rw [Nat.testBit_or, testBit_mod_16 m (by omega), k, Bool.or_true]

theorem after_outstanding (op : Nat) (rq : Rq) (s : State) : (after op rq s).cmd.outstanding = s.cmd.outstanding := by
  unfold after takeRequest
  split <;> rw [takeAlive_outstanding]

/-! ### The RESTART that completes, LANE_BITSLIP, EYE_SCAN -/

theorem exec_linkTrainComplete {ms : Nat} {r : Restart} {rs : List Restart} (up : lanesUp s = true) (h : s.lnk.restart = r :: rs)
    (settled : ∀ l, l < 5 → r.mask.testBit l = true → laneSettled (laneOf s l) = true) :
    let tr := maskOf ((bitsOf r.mask 5).filter (fun l => (laneOf s l).state = .trained))
    let dn := maskOf ((bitsOf r.mask 5).filter (fun l => (laneOf s l).state = .laneDown))
    exec (.linkTrainComplete ms) s = .next (complete r.handle 0x30 r.src (if tr ≠ 0 then stOk else stFailed)
      (tr + dn * 256 + s.lnk.bondRate * 65536) ms
      { s with lnk := { s.lnk with restart := (r :: rs).filter (fun x => x.handle ≠ r.handle) } }) := by
  intro tr dn
  have all : (bitsOf r.mask 5).all (fun l => laneSettled (laneOf s l)) = true := by
    rw [List.all_eq_true]
    intro l hl
    obtain ⟨low, bit⟩ := mem_bitsOf.1 hl
    exact settled l low bit
  have first : s.lnk.restart.find? (fun r => (bitsOf r.mask 5).all (fun l => laneSettled (laneOf s l))) = some r := by
    rw [h]
    exact List.find?_cons_of_pos all
  refine (if_pos up).trans ?_
  rw [first, h]

theorem exec_laneBitslip {b : Byte} {r : List Byte} {rq : Rq} (ad : admits 0x31 rq s = true) (p : rq.payload = b :: r) (len : r.length = 3)
    (low : b.toNat < 5) (h : s.lnk.lanes[b.toNat]? = some x) :
    let u := after 0x31 rq s
    exec (.laneBitslip rq) s = if x.state ≠ .test then answered 0x31 rq { status := stRefused } u
      else answered 0x31 rq { status := stOk }
          { u with lnk := { u.lnk with lanes := u.lnk.lanes.set b.toNat { x with slip := (x.slip + 1) % 40 } } } := by
  intro u
  have lane : field rq.payload 0 1 = b.toNat := by rw [p, field_head]
  have there : u.lnk.lanes[b.toNat]? = some x := by rwa [after_lnk]
  change execLaneBitslip rq s = _
  unfold execLaneBitslip
  dsimp only
  rw [request_plain ad rfl (by rw [p, List.length_cons, len]; rfl), lane, if_neg (by omega), laneOf_at there, modLane_at there]
  split <;> rfl

theorem exec_eyeScan {l h v d : Byte} {rest : List Byte} {rq : Rq} (ad : admits 0x32 rq s = true) (p : rq.payload = [l, h, v, d] ++ rest)
    (len : rest.length = 4) (lane : l.toNat < 5) (hs : 1 ≤ h.toNat ∧ h.toNat ≤ 16) (vs : 1 ≤ v.toNat ∧ v.toNat ≤ 16)
    (ds : 10 ≤ d.toNat ∧ d.toNat ≤ 30)
    (st : (laneOf s l.toNat).state = .trained ∨ (laneOf s l.toNat).state = .test) (idle : s.lnk.eye = none) (free : handleFree s = true) :
    let u := takeHandle (after 0x32 rq s)
    let hd := newHandle (after 0x32 rq s)
    exec (.eyeScan rq) s = answered 0x32 rq { status := stAccepted, handle := hd }
      { u with lnk := { u.lnk with
          eye := some { lane := l.toNat, hStep := h.toNat, vStep := v.toNat, handle := hd, src := rq.src }, eyeEntries := [], eyeLane := l.toNat } } := by
  intro u hd
  have f0 : field rq.payload 0 1 = l.toNat := by rw [p]; exact field_head ..
  have f1 : field rq.payload 1 1 = h.toNat := by rw [p]; exact field_second ..
  have f2 : field rq.payload 2 1 = v.toNat := by rw [p]; exact field_byte [l, h] (d :: rest) v rfl
  have f3 : field rq.payload 3 1 = d.toNat := by rw [p]; exact field_byte [l, h, v] rest d rfl
  have legal : ¬(4 < l.toNat ∨ h.toNat < 1 ∨ 16 < h.toNat ∨ v.toNat < 1 ∨ 16 < v.toNat ∨ d.toNat < 10 ∨ 30 < d.toNat) := by omega
  have same : laneOf (after 0x32 rq s) l.toNat = laneOf s l.toNat := by rw [laneOf, after_lnk, laneOf]
  have may : (decide ((laneOf s l.toNat).state ≠ .trained) && decide ((laneOf s l.toNat).state ≠ .test)) = false := by
    rcases st with k | k <;> rw [k] <;> rfl
  have none : (after 0x32 rq s).lnk.eye.isSome = false := by rw [after_lnk, idle]; rfl
  change execEyeScan rq s = _
  unfold execEyeScan
  dsimp only
  rw [request_plain ad rfl (by rw [p, List.length_append, len]; rfl), f0, f1, f2, f3, if_neg (by simpa [or_assoc] using legal), same,
    may, if_neg (by decide), none, if_neg (by decide),
    accept_free (by rw [after_handleFree, free])]

/-- The points that a sweep has reached, with those of the row (R210). -/
def sweptEye (e : EyeRun) (errors : List Nat) (s : State) : List (Int × Int × Nat) :=
  s.lnk.eyeEntries ++ (((eyeGrid e.hStep e.vStep).drop s.lnk.eyeEntries.length).zip errors).map (fun p => (p.1.1, p.1.2, min p.2 65535))

theorem exec_eyeScanComplete {e : EyeRun} (errors : List Nat) (up : lanesUp s = true) (h : s.lnk.eye = some e) :
    exec (.eyeScanComplete errors) s =
      if e.left then .next (completeOpen e.handle 0x32 e.src stFailed { s with lnk := { s.lnk with eye := none } })
      else if (sweptEye e errors s).length < (eyeGrid e.hStep e.vStep).length then
        .next { s with lnk := { s.lnk with eyeEntries := sweptEye e errors s } }
      else
        let r := eyeResult e { s with lnk := { s.lnk with eye := none, eyeEntries := sweptEye e errors s } }
        .next (complete e.handle 0x32 e.src stOk r.1 r.2.1 r.2.2) := by
  refine (if_pos up).trans ?_
  rw [h]
  rfl

theorem eyeResult_word {e : EyeRun} (h : 32 % e.hStep = 0) (s : State) :
    let clear (t p : Int) : Bool := s.lnk.eyeEntries.any (fun q => q.1 = t && q.2.1 = p && q.2.2 = 0)
    eyeResult e s = (eyeRun (clear 0) e.hStep * e.hStep + eyeRun (fun j => clear j 0) e.vStep * e.vStep * 4 * 65536, s.lnk.eyeEntries.length, s) := by
  intro clear
  unfold eyeResult
  dsimp only
  rw [if_pos h]

theorem eyeGrid_length (h v : Nat) : (eyeGrid h v).length = (2 * (63 / v) + 1) * (63 / h + 1) := by
  simp [eyeGrid, List.length_flatMap, Function.comp_def, List.map_const']

end

/-! ### The obligation -/

/-- Settles O34: each request by its equation; what the folds over the mask leave of each lane by `foldl_redone`. -/
theorem linkCommandsAnswer : Obligations.LinkCommandsAnswer := by
  unfold Obligations.LinkCommandsAnswer
  refine ⟨fun m r z rq s ad sh p some pair => ?_, fun m r z rq s ad sh p some rate pair free => ?_, fun m ms r rs s up h hm settled => ?_,
    fun l a b c x rq s ad p low h => ?_, fun l h v d rest rq s ad p len lane h1 h2 v1 v2 d1 d2 st idle free =>
      exec_eyeScan ad p len lane ⟨h1, h2⟩ ⟨v1, v2⟩ ⟨d1, d2⟩ st idle free, fun errors e s up h => ?_, eyeGrid_length⟩
  · have five : (lanesOff (m.toNat % 32) (after 0x30 rq s)).lnk.lanes.length = 5 :=
      (congrArg (fun k => k.lanes.length) (after_lnk 0x30 rq s)).trans (lanes_length sh)
    obtain ⟨settings, lane⟩ := disableLanes_spec (bitsOf_nodup (m.toNat % 32) 5) fun l hl => (mem_bitsOf.1 hl).1.trans_eq five.symm
    refine ⟨_, exec_linkTrainDisable ad p some pair, fun l hl bit => ?_⟩
    have mbit : (m.toNat % 32).testBit l = true := by rwa [testBit_mod_32 _ hl]
    rw [laneEnabled_settings settings]
    exact ⟨laneEnabled_lanesOff hl mbit, lane l (mem_bitsOf.2 ⟨hl, mbit⟩)⟩
  · intro b
    have lnk : (restartBegun (m.toNat % 32) rq.src b).lnk = (restartNoted (m.toNat % 32) (newHandle b) rq.src s).lnk := by
      rw [restartBegun_lnk, restartNoted, after_lnk, restartNoted]
    have low : ∀ l ∈ bitsOf (m.toNat % 32) 5, l < (restartBegun (m.toNat % 32) rq.src b).lnk.lanes.length := by
      intro l hl
      rw [lnk]
      exact (mem_bitsOf.1 hl).1.trans_eq (lanes_length sh).symm
    have lref : (restartBegun (m.toNat % 32) rq.src b).lnk.lref = s.lnk.lref := by rw [lnk]; rfl
    have refMode : (restartBegun (m.toNat % 32) rq.src b).lnk.refMode = s.lnk.refMode := by rw [lnk]; rfl
    have maxRate : (restartBegun (m.toNat % 32) rq.src b).lnk.maxRate = s.lnk.maxRate := by rw [lnk]; rfl
    have row := exec_linkTrainRestart ad p some rate pair free
    dsimp only at row
    rw [maxRate] at row
    obtain ⟨settings, lane⟩ := restartLanes_spec (top := if r.toNat = 255 then s.lnk.maxRate else r.toNat) (bitsOf_nodup (m.toNat % 32) 5) low
    rw [lref, refMode] at lane
    refine ⟨_, row, ?_, fun x hx shares out => ?_, fun l hl bit => ?_⟩
    · refine (congrArg Lnk.restart settings).trans ?_
      change (restartBegun (m.toNat % 32) rq.src b).lnk.restart = _
      rw [lnk]
      rfl
    · rw [cmd_restartLanes]
      refine supersede_completes (s := takeHandle b) (by rwa [takeHandle_lnk, after_lnk]) shares ?_
      change (newHandle b :: b.cmd.outstanding).contains x.handle = true
      rw [after_outstanding, List.contains_cons, out, Bool.or_true]
    · have mbit : (m.toNat % 32).testBit l = true := by rwa [testBit_mod_32 _ hl]
      have enabled : laneEnabled (restartBegun (m.toNat % 32) rq.src b) l = true := by
        rw [laneEnabled, lnk]
        exact laneEnabled_restartNoted hl mbit
      obtain ⟨⟨mode, state, ladder⟩, given, refused⟩ := lane l (mem_bitsOf.2 ⟨hl, mbit⟩)
      exact ⟨(laneEnabled_settings settings l).trans enabled, mode, state, ladder, given, refused⟩
  · subst hm
    intro tr dn
    rw [exec_linkTrainComplete up h settled, List.filter_cons_of_neg (by simp), Nat.mul_comm 256, Nat.mul_comm 65536]
  · intro u
    refine ⟨fun k => ?_, fun k => ?_⟩
    · rw [exec_laneBitslip ad p rfl low h, if_neg (not_not.2 k)]
    · rw [exec_laneBitslip ad p rfl low h, if_pos k]
  · intro grid all clear
    rw [exec_eyeScanComplete errors up h, show sweptEye e errors s = all from rfl, show eyeGrid e.hStep e.vStep = grid from rfl]
    refine ⟨fun k few => ?_, fun k many whole => ?_, fun k => ?_⟩
    · rw [k, if_neg (by decide), if_pos few]
    · rw [k, if_neg (by decide), if_neg (Nat.not_lt.2 many), eyeResult_word whole]
    · rw [if_pos k]

end Sys2Proof.Machine
end

section
/-! Writes to the link's registers (R211, R213, R217, R228, R235), and O37. -/

namespace Sys2Proof.Machine

section
variable {h : Hdr} {l n v : Nat} {x y : Lane} {s t : State}

/-! ### Which register a word reaches -/

theorem beforeWrite_lnk (h : Hdr) (a v : Nat) (s : State) : (beforeWrite h a v s).lnk = s.lnk := after_lnk ..

theorem laneOf_lnk (h : t.lnk = s.lnk) (l : Nat) : laneOf t l = laneOf s l := by rw [laneOf, h, laneOf]

/-- LNK_LANEl_CTL. -/
theorem regWrite_laneCtl (hl : l < 5) (v : Nat) (s : State) : regWrite (0x20100 + 0x40 * l) v s = writeLaneCtl l v s := by
  have block : (0x20100 + 0x40 * l) / 65536 = 2 := by omega
  have offset : (0x20100 + 0x40 * l) % 65536 = 0x100 + 0x40 * l := by omega
  have range : (decide (0x100 ≤ 0x100 + 0x40 * l) && decide (0x100 + 0x40 * l < 0x240)) = true := by simp; omega
  have ctl : (0x100 + 0x40 * l) % 0x40 = 0 := by omega
  have lane : (0x100 + 0x40 * l - 0x100) / 0x40 = l := by omega
  unfold regWrite
  rw [block, offset]
  change writeLnk (0x100 + 0x40 * l) v s = _
  unfold writeLnk
  rw [range, if_pos rfl, if_pos ctl, lane]

theorem writeLane_run {w : Word} (hl : l < 5) (ad : admitsWrite h (0x20100 + 0x40 * l) w.toNat s = true)
    (r : writeLaneCtl l w.toNat (beforeWrite h (0x20100 + 0x40 * l) w.toNat s) = taken t) :
    writeOne h (0x20100 + 0x40 * l) w.toNat s = wrote h (0x20100 + 0x40 * l) w.toNat t :=
  writeOne_run ad (by omega) (by omega) w.isLt ((regWrite_laneCtl hl ..).trans r)

/-! ### LAYER_SRC (R228) -/

/-- A layer whose frame has broken. -/
def brokenLayer (k : Layer) : Layer := { k with back := .empty, receiving := false, released := false, crossing := false, backFence := 0 }

/-- What a broken frame leaves alone beside its layer, and what it makes of that layer. -/
theorem breakFrame_spec (n c : Nat) (p : Path) (s : State) :
    (breakFrame n c p s).cmp = (modLayer n brokenLayer s).cmp ∧ (breakFrame n c p s).rope.layerSrc = s.rope.layerSrc ∧
      (breakFrame n c p s).arr = s.arr := by
  unfold breakFrame
  dsimp only
  rw [noteF_cmp, noteF_rope, noteF_arr]
  split
  · rw [statusDue_cmp, statusDue_arr, modPath_cmp, modPath_arr]
    refine ⟨rfl, ?_, rfl⟩
    unfold Machine.statusDue
    split <;> cases p <;> rfl
  · rw [modPath_cmp, modPath_arr]
    refine ⟨rfl, ?_, rfl⟩
    cases p <;> rfl

/-- A step of LAYER_SRC on one layer. -/
def sourceStep (new : Nat) (s : State) (n : Nat) : State :=
  if (layerOf s n).receiving && new.testBit n ≠ s.rope.layerSrc.testBit n then breakFrame n 7 (layerPath s n) s else s

/-- What the steps leave alone. -/
def sourceView (s : State) := (s.lnk, s.arr, s.rope.layerSrc)

theorem sourceStep_view (new : Nat) (s : State) (n : Nat) : sourceView (sourceStep new s n) = sourceView s := by
  unfold sourceStep
  split
  · obtain ⟨-, src, arr⟩ := breakFrame_spec n 7 (layerPath s n) s
    rw [sourceView, breakFrame_lnk, src, arr, sourceView]
  · rfl

theorem sourceStep_other (new : Nat) (s : State) {k n : Nat} (h : k ≠ n) : layerOf (sourceStep new s k) n = layerOf s n := by
  unfold sourceStep
  split
  · rw [layerOf_congr (congrArg Cmp.layers (breakFrame_spec ..).1), layerOf_modLayer_other h.symm]
  · rfl

/-- A layer that receives from the path it leaves breaks; any other layer stays. -/
theorem sourceStep_own (new : Nat) (s : State) (n : Nat) :
    let y := layerOf (sourceStep new s n) n
    ((new.testBit n = s.rope.layerSrc.testBit n ∨ (layerOf s n).receiving = false) → y = layerOf s n) ∧
      (new.testBit n ≠ s.rope.layerSrc.testBit n → (layerOf s n).receiving = true → y.receiving = false ∧ y.back = .empty) := by
  intro y
  refine ⟨fun stays => ?_, fun moves rec => ?_⟩
  · have no : ((layerOf s n).receiving && decide (new.testBit n ≠ s.rope.layerSrc.testBit n)) = false := by
      rcases stays with k | k <;> simp [k]
    dsimp only [y]
    rw [sourceStep, no, if_neg (by decide)]
  · have there : n < s.cmp.layers.length := by
      by_contra out
      have none : layerOf s n = {} := by simp [layerOf, List.getElem?_eq_none (Nat.not_lt.1 out)]
      rw [none] at rec
      cases rec
    have broken : y = brokenLayer (layerOf s n) := by
      dsimp only [y]
      rw [sourceStep, if_pos (by simp [rec, moves]), layerOf_congr (congrArg Cmp.layers (breakFrame_spec ..).1), layerOf_modLayer_same there]
    rw [broken]
    exact ⟨rfl, rfl⟩

/-- The state in which LAYER_SRC takes its fields. -/
def sourcesLeft (new : Nat) (s : State) : State := (List.range 6).foldl (sourceStep new) s

/-- LNK_ROPE_CTL takes its fields. -/
def sourcesTaken (v : Nat) (s : State) : State :=
  { s with rope := { s.rope with layerSrc := bits v 0 6, statusEn := v.testBit 8, outcomeEn := v.testBit 9 } }

theorem writeRopeCtl_eq (v : Nat) (s : State) : writeRopeCtl v s = taken (sourcesTaken v (sourcesLeft (bits v 0 6) s)) := by
  unfold writeRopeCtl
  extract_lets new u
  have left : sourcesLeft (bits v 0 6) s = u := rfl
  rw [left]
  clear_value u
  rfl

theorem sourcesLeft_view (new : Nat) (s : State) : sourceView (sourcesLeft new s) = sourceView s := foldl_view _ (sourceStep_view new) s

theorem sourcesLeft_layer (new : Nat) (s : State) (h : n < 6) :
    let y := layerOf (sourcesLeft new s) n
    ((new.testBit n = s.rope.layerSrc.testBit n ∨ (layerOf s n).receiving = false) → y = layerOf s n) ∧
      (new.testBit n ≠ s.rope.layerSrc.testBit n → (layerOf s n).receiving = true → y.receiving = false ∧ y.back = .empty) := by
  obtain ⟨r, view, before, after⟩ := foldl_focus (w := fun s => layerOf s n) List.nodup_range (List.mem_range.2 h) (sourceStep_view new)
    (fun s k hk => sourceStep_other new s hk) s
  have src : r.rope.layerSrc = s.rope.layerSrc := congrArg (fun w => w.2.2) view
  have own := sourceStep_own new r n
  rw [src, before] at own
  intro y
  rw [show y = layerOf (sourceStep new r n) n from after]
  exact own

theorem exec_layerSrcWrite {w : Word} (ad : admitsWrite h 0x20040 w.toNat s = true) :
    exec (.layerSrcWrite h w) s = wrote h 0x20040 w.toNat
      (sourcesTaken w.toNat (sourcesLeft (bits w.toNat 0 6) (beforeWrite h 0x20040 w.toNat s))) :=
  writeOne_run ad (by decide) (by decide) w.isLt (writeRopeCtl_eq ..)

theorem testBit_bits_low (v : Nat) {k : Nat} (h : l < k) : (bits v 0 k).testBit l = v.testBit l := by
  rw [bits, Nat.testBit_mod_two_pow]
  simp [h]

/-! ### Transmitter controls (R213) -/

theorem txOf_eq (v : Nat) (t : TxCtl) : txOf v t = {
    swing := if (4 ≤ bits v 0 4 ∧ bits v 0 4 ≤ 12) then bits v 0 4 else t.swing
    deemph := if bits v 4 2 < 3 then bits v 4 2 else t.deemph
    pattern := if bits v 8 3 < 6 then bits v 8 3 else t.pattern } := by
  simp [txOf, keepUnless]

theorem exec_txPatternWrite {tw : Bool} {w : Word} (ad : admitsWrite h (if tw then 0x2000C else 0x20008) w.toNat s = true) :
    let a := if tw then 0x2000C else 0x20008
    let b := beforeWrite h a w.toNat s
    exec (.txPatternWrite h tw w) s = wrote h a w.toNat (if tw then { b with lnk := { b.lnk with twtx := txOf w.toNat b.lnk.twtx } }
      else { b with lnk := { b.lnk with htx := txOf w.toNat b.lnk.htx } }) := by
  intro a b
  cases tw
  · exact writeOne_run ad (by decide) (by decide) w.isLt rfl
  · exact writeOne_run ad (by decide) (by decide) w.isLt rfl

/-! ### RAW0 and the pattern checker (R211, R259) -/

/-- The READ_REG request of a lane's RAW0. -/
def rawRq (h : Hdr) (l : Nat) : Rq := { src := h.src, tag := h.tag, payload := le 4 (0x20124 + 0x40 * l) ++ le 2 1 ++ le 2 0 }

theorem rawLane_at (hl : l < 5) (there : s.lnk.lanes[l]? = some x) : rawLane (0x20124 + 0x40 * l) s = if x.mode = 4 then some l else none := by
  have range : (decide (0x20100 ≤ 0x20124 + 0x40 * l) && decide (0x20124 + 0x40 * l < 0x20240) && decide ((0x20124 + 0x40 * l) % 0x40 = 0x24)) = true := by
    simp
    omega
  have lane : (0x20124 + 0x40 * l - 0x20100) / 0x40 = l := by omega
  unfold rawLane
  rw [if_pos range, lane]
  dsimp only
  rw [getD_at _ there]

theorem regRead_raw (hl : l < 5) (there : s.lnk.lanes[l]? = some x) : regRead (0x20124 + 0x40 * l) s = x.raw % 2 ^ 32 := by
  have block : (0x20124 + 0x40 * l) / 65536 = 2 := by omega
  have offset : (0x20124 + 0x40 * l) % 65536 = 0x124 + 0x40 * l := by omega
  have range : (decide (0x100 ≤ 0x124 + 0x40 * l) && decide (0x124 + 0x40 * l < 0x240)) = true := by simp; omega
  have reg : (0x124 + 0x40 * l) % 0x40 = 0x24 := by omega
  have lane : (0x124 + 0x40 * l - 0x100) / 0x40 = l := by omega
  have read : readLnk (0x124 + 0x40 * l) s = x.raw := by
    unfold readLnk
    rw [if_neg (by omega), if_neg (by omega), if_neg (by omega), range, if_pos rfl, reg, lane, getD_at _ there]
    rfl
  unfold regRead
  rw [block, offset]
  change readLnk (0x124 + 0x40 * l) s % 2 ^ 32 = _
  rw [read]

/-- What RAW_CAPTURE does beside answering. -/
def captured (l raw : Nat) (line : List Bool) (s : State) : State :=
  checkLine l line (if (rawLane (0x20124 + 0x40 * l) s).isSome then capture l raw s else s)

/-- READ_REG of a range that is there (R259). -/
theorem readRegWith_run {reads : Nat → Nat → State → List Byte × State} {rq : Rq} {a k : Nat} (ad : admits 0x03 rq s = true)
    (len : rq.payload.length = 8) (addr : field rq.payload 0 4 = a) (count : field rq.payload 4 2 = k) (ok : rangeOk a k 256 = true) :
    let r := reads k a (after 0x03 rq s)
    readRegWith reads rq s = answered 0x03 rq { status := stOk, payload := r.1 } r.2 := by
  intro r
  unfold readRegWith
  dsimp only
  rw [addr, count, request_plain ad rfl (by rw [len]; rfl), ok, if_neg (by decide)]
  rfl

theorem exec_rawCapture {raw : Nat} {line : List Bool} (hl : l < 5) (ad : admits 0x03 (rawRq h l) s = true)
    (own : (captured l raw line (after 0x03 (rawRq h l) s)).lnk.lanes[l]? = some y) :
    exec (.rawCapture h l raw line) s = answered 0x03 (rawRq h l) { status := stOk, payload := le 4 (y.raw % 2 ^ 32) }
      (captured l raw line (after 0x03 (rawRq h l) s)) := by
  have addr : field (rawRq h l).payload 0 4 = 0x20124 + 0x40 * l := by
    have f := field_mid [] (le 2 1 ++ le 2 0) 4 (0x20124 + 0x40 * l) 0 rfl
    simp only [rawRq, List.append_assoc, List.nil_append] at f ⊢
    omega
  have count : field (rawRq h l).payload 4 2 = 1 := by
    have f : field _ 4 2 = 1 := field_mid (le 4 (0x20124 + 0x40 * l)) (le 2 0) 2 1 4 (by simp)
    simpa only [rawRq, List.append_assoc] using f
  have ok : rangeOk (0x20124 + 0x40 * l) 1 256 = true := by
    simp [rangeOk]
    omega
  rw [← regRead_raw hl own]
  exact (if_pos hl).trans (readRegWith_run ad (by simp) addr count ok)

theorem checkLine_idle {line : List Bool} (there : s.lnk.lanes[l]? = some x) (no : x.state ≠ .test ∨ x.mode = 0 ∨ 3 < x.mode) :
    checkLine l line s = s := by
  unfold checkLine
  dsimp only
  rw [getD_at _ there, if_neg]
  rcases no with k | k | k <;> simp [k]

/-- A lane in RAW mode captures the word on its line; its checker is idle. -/
theorem captured_raw {raw : Nat} {line : List Bool} (hl : l < 5) (there : s.lnk.lanes[l]? = some x) (m : x.mode = 4) :
    captured l raw line s = { s with lnk := { s.lnk with lanes := s.lnk.lanes.set l { x with raw := raw % 2 ^ 40 } } } := by
  have taken : capture l raw s = { s with lnk := { s.lnk with lanes := s.lnk.lanes.set l { x with raw := raw % 2 ^ 40 } } } := by
    rw [capture, modNth_eq_set _ there]
  have set : (capture l raw s).lnk.lanes[l]? = some { x with raw := raw % 2 ^ 40 } := by
    rw [taken]
    exact List.getElem?_set_self (lane_lt there)
  rw [captured, rawLane_at hl there, if_pos m, if_pos (by rfl), checkLine_idle set (.inr (.inr (by rw [m]; decide))), taken]

/-- A lane in another mode captures nothing. -/
theorem captured_none {raw : Nat} {line : List Bool} (hl : l < 5) (there : s.lnk.lanes[l]? = some x) (m : x.mode ≠ 4) :
    captured l raw line s = checkLine l line s := by
  rw [captured, rawLane_at hl there, if_neg m, if_neg (by decide)]

theorem checkLine_tests {line : List Bool} (there : s.lnk.lanes[l]? = some x) (st : x.state = .test) (low : 1 ≤ x.mode) (top : x.mode ≤ 3) :
    checkLine l line s = { s with lnk := { s.lnk with lanes := s.lnk.lanes.set l (line.foldl prbsBit x) } } := by
  unfold checkLine
  dsimp only
  rw [getD_at _ there, if_pos (by simp [st, low, top]), modNth_eq_set _ there]

/-- The pattern checker leaves the captured word. -/
theorem foldl_prbsBit_raw (line : List Bool) (x : Lane) : (line.foldl prbsBit x).raw = x.raw :=
  foldl_view (v := Lane.raw) line (fun x b => by unfold prbsBit; dsimp only; split <;> rfl) x

section
variable {raw : Nat} {line : List Bool}

theorem after_lane (op : Nat) (rq : Rq) (there : s.lnk.lanes[l]? = some x) : (after op rq s).lnk.lanes[l]? = some x := by rwa [after_lnk]

/-- RAW_CAPTURE of a lane in RAW mode. -/
theorem rawCapture_raw (hl : l < 5) (there : s.lnk.lanes[l]? = some x) (ad : admits 0x03 (rawRq h l) s = true) (m : x.mode = 4) :
    let b := after 0x03 (rawRq h l) s
    exec (.rawCapture h l raw line) s = answered 0x03 (rawRq h l) { status := stOk, payload := le 4 (raw % 2 ^ 32) }
      { b with lnk := { b.lnk with lanes := b.lnk.lanes.set l { x with raw := raw % 2 ^ 40 } } } := by
  intro b
  have there' := after_lane 0x03 (rawRq h l) there
  have word := captured_raw (raw := raw) (line := line) hl there' m
  have own : (captured l raw line (after 0x03 (rawRq h l) s)).lnk.lanes[l]? = some { x with raw := raw % 2 ^ 40 } := by
    rw [word]
    exact List.getElem?_set_self (lane_lt there')
  rw [exec_rawCapture hl ad own, word, show raw % 2 ^ 40 % 2 ^ 32 = raw % 2 ^ 32 by omega]

/-- RAW_CAPTURE of a lane in another mode, whose checker is idle. -/
theorem rawCapture_other (hl : l < 5) (there : s.lnk.lanes[l]? = some x) (ad : admits 0x03 (rawRq h l) s = true) (m : x.mode ≠ 4)
    (idle : x.state ≠ .test ∨ x.mode = 0) : exec (.rawCapture h l raw line) s =
      answered 0x03 (rawRq h l) { status := stOk, payload := le 4 (x.raw % 2 ^ 32) } (after 0x03 (rawRq h l) s) := by
  have there' := after_lane 0x03 (rawRq h l) there
  have still : captured l raw line (after 0x03 (rawRq h l) s) = after 0x03 (rawRq h l) s := by
    rw [captured_none hl there' m, checkLine_idle there' (idle.imp_right .inl)]
  rw [exec_rawCapture hl ad (by rw [still]; exact there'), still]

/-- RAW_CAPTURE of a lane whose checker takes the line bits. -/
theorem rawCapture_tests (hl : l < 5) (there : s.lnk.lanes[l]? = some x) (ad : admits 0x03 (rawRq h l) s = true) (st : x.state = .test)
    (low : 1 ≤ x.mode) (top : x.mode ≤ 3) :
    let b := after 0x03 (rawRq h l) s
    exec (.rawCapture h l raw line) s = answered 0x03 (rawRq h l) { status := stOk, payload := le 4 (x.raw % 2 ^ 32) }
      { b with lnk := { b.lnk with lanes := b.lnk.lanes.set l (line.foldl prbsBit x) } } := by
  intro b
  have there' := after_lane 0x03 (rawRq h l) there
  have checked := (captured_none (raw := raw) (line := line) hl there' (by omega)).trans (checkLine_tests there' st low top)
  have own : (captured l raw line (after 0x03 (rawRq h l) s)).lnk.lanes[l]? = some (line.foldl prbsBit x) := by
    rw [checked]
    exact List.getElem?_set_self (lane_lt there')
  rw [exec_rawCapture hl ad own, checked, foldl_prbsBit_raw]

end

/-- The bit that a pattern checker expects (R211). -/
def wantedBit (z : Lane) : Bool := z.prbsReg.testBit ((prbsTaps z.mode).1 - 1) != z.prbsReg.testBit ((prbsTaps z.mode).2 - 1)

/-- A checker in lock stays in it, and counts each bit that differs. -/
theorem prbsBit_locked (lock : x.prbsLock = true) (c : Bool) :
    (prbsBit x c).prbsLock = true ∧ (prbsBit x c).prbsErrors = if c = wantedBit x then x.prbsErrors else min (x.prbsErrors + 1) (2 ^ 32 - 1) := by
  unfold prbsBit
  dsimp only
  rw [if_pos lock]
  exact ⟨lock, rfl⟩

/-- A checker out of lock counts a bit that follows the pattern, and locks with the 64th in a row. -/
theorem prbsBit_follows {c : Bool} (lock : x.prbsLock = false) (ok : c = wantedBit x ∧ x.prbsReg ≠ 0) :
    (prbsBit x c).prbsRun = x.prbsRun + 1 ∧ (prbsBit x c).prbsLock = decide (64 ≤ x.prbsRun + 1) ∧ (prbsBit x c).prbsErrors = x.prbsErrors := by
  have run : (decide (c = wantedBit x) && decide (x.prbsReg ≠ 0)) = true := by simp [ok.1, ok.2]
  have e : (if decide (c = wantedBit x) && decide (x.prbsReg ≠ 0) then x.prbsRun + 1 else 0) = x.prbsRun + 1 := if_pos run
  unfold prbsBit
  dsimp only
  rw [lock, if_neg (by decide)]
  exact ⟨e, congrArg (fun n => decide (64 ≤ n)) e, rfl⟩

theorem foldl_prbsBit_locked (lock : x.prbsLock = true) (line : List Bool) : (line.foldl prbsBit x).prbsLock = true := by
  induction line generalizing x with
  | nil => exact lock
  | cons c line ih => exact ih (prbsBit_locked lock c).1

/-- Up to 64 bits that follow the pattern are counted, and lock with the 64th. -/
theorem foldl_prbsBit_follows {line : List Bool} (lock : x.prbsLock = false) (run : x.prbsRun = 0) (short : line.length ≤ 64)
    (ok : ∀ p c q, line = p ++ c :: q → c = wantedBit (p.foldl prbsBit x) ∧ (p.foldl prbsBit x).prbsReg ≠ 0) :
    let y := line.foldl prbsBit x
    y.prbsRun = line.length ∧ y.prbsLock = decide (64 ≤ line.length) ∧ y.prbsErrors = x.prbsErrors := by
  induction line using List.reverseRecOn with
  | nil => exact ⟨run, lock, rfl⟩
  | append_singleton line c ih =>
    rw [List.length_append, List.length_singleton] at short
    obtain ⟨count, out, errors⟩ := ih (by omega) fun p d q e => ok p d (q ++ [c]) (by rw [e]; simp)
    rw [decide_eq_false (by omega)] at out
    obtain ⟨r, k, e⟩ := prbsBit_follows out (ok line c [] rfl)
    rw [List.foldl_append, List.length_append, List.length_singleton, ← count]
    exact ⟨r, k, e.trans errors⟩

/-! ### MODE of a lane (R211) -/

/-- Attempts leave the fields of LNK_LANEl_CTL. -/
theorem triedLane_config (lref : Bool) (x : Lane) : (triedLane lref x).manualEq = x.manualEq ∧ (triedLane lref x).dfeFreeze = x.dfeFreeze := by
  unfold triedLane
  split
  · unfold loweredLane
    split
    · exact ⟨rfl, rfl⟩
    · rcases nextStep _ _ _ with _ | p
      · exact ⟨rfl, rfl⟩
      · exact ⟨rfl, rfl⟩
  · exact ⟨rfl, rfl⟩

/-- A lane that starts the ladder afresh keeps the fields of LNK_LANEl_CTL. -/
theorem freshLane_begins {lref : Bool} {refMode rate : Nat} (r : Reformed (triedLane lref (freshLane refMode rate x)) y) :
    y.mode = x.mode ∧ y.manualEq = x.manualEq ∧ y.dfeFreeze = x.dfeFreeze ∧ y.state = .detect ∧ y.ladderRate = rate ∧ y.failN ≤ 1 := by
  obtain ⟨⟨mode, state, ladder⟩, given, refused⟩ := (restarted_tried lref refMode rate x).reformed r
  have config := triedLane_config lref (freshLane refMode rate x)
  have kept : y.manualEq = (triedLane lref (freshLane refMode rate x)).manualEq ∧ y.dfeFreeze = (triedLane lref (freshLane refMode rate x)).dfeFreeze := by
    rw [r.eq]
    exact ⟨rfl, rfl⟩
  refine ⟨mode, kept.1.trans config.1, kept.2.trans config.2, state, ladder, ?_⟩
  · by_cases ref : refMode ≠ 2 ∨ lref = true
    · exact (given ref).2.1.le.trans (by decide)
    · obtain ⟨shared, gone⟩ : refMode = 2 ∧ lref = false := by simpa using ref
      exact (refused shared gone).2.1.le

/-- The fields of LNK_LANEl_CTL, taken. -/
def ctlLane (v : Nat) (x : Lane) : Lane :=
  let m := bits v 0 3
  let c := bits v 8 4
  let t := bits v 12 3
  { x with
    mode := keepUnless (m < 5) m x.mode, manualEq := v.testBit 3, dfeFreeze := v.testBit 4
    ctle := keepUnless (c < 15) c x.ctle, testRate := keepUnless (t < 5) t x.testRate
    prbsErrors := if m < 5 then 0 else x.prbsErrors, prbsLock := if m < 5 then false else x.prbsLock
    prbsRun := if m < 5 then 0 else x.prbsRun, prbsReg := if m < 5 then 0 else x.prbsReg }

/-- A lane that enters TEST by its MODE, before its state. -/
def testLane (shared : Bool) (x : Lane) : Lane :=
  { x with rate := x.testRate, shared, attempting := false, backoffMs := 0, parked := false, inBond := false, waitBond := false }

/-- LNK_LANEl_CTL, taken, and the state before the lane's own changes. -/
def ctlTaken (l v : Nat) (s : State) : State := modLane l (ctlLane v) s

/-- The lane at its TEST_RATE. -/
def testTaken (l v : Nat) (s : State) : State := modLane l (testLane (s.lnk.refMode = 2)) (ctlTaken l v s)

theorem writeLaneCtl_eq (there : s.lnk.lanes[l]? = some x) (v : Nat) : writeLaneCtl l v s = taken (
    if !laneEnabled s l then ctlTaken l v s
    else if (ctlLane v x).mode ≠ 0 then if x.state = .test then testTaken l v s else leaveTraffic l (setLaneState l .test (testTaken l v s))
    else if x.mode ≠ 0 then restartLane l s.lnk.maxRate (ctlTaken l v s)
    else ctlTaken l v s) := by
  have own : laneOf (ctlTaken l v s) l = ctlLane v x := laneOf_at ((modLane_set there _).at there)
  unfold writeLaneCtl
  rw [laneOf_at there]
  change (if !laneEnabled (ctlTaken l v s) l then taken (ctlTaken l v s)
    else if (laneOf (ctlTaken l v s) l).mode ≠ 0 then
      taken (if x.state = .test then testTaken l v s else leaveTraffic l (setLaneState l .test (testTaken l v s)))
    else if x.mode ≠ 0 then taken (restartLane l (ctlTaken l v s).lnk.maxRate (ctlTaken l v s)) else taken (ctlTaken l v s)) = _
  rw [own, show laneEnabled (ctlTaken l v s) l = laneEnabled s l from rfl]
  split_ifs <;> rfl

theorem ctlTaken_set (there : s.lnk.lanes[l]? = some x) (v : Nat) : LaneSet l (ctlLane v x) s (ctlTaken l v s) := modLane_set there _

/-- A MODE of 1 to 4 puts an enabled lane in TEST. -/
theorem writeLaneCtl_test (there : s.lnk.lanes[l]? = some x) (en : laneEnabled s l = true) (m : (ctlLane v x).mode ≠ 0) :
    ∃ t, writeLaneCtl l v s = taken t ∧ Redone l { testLane (s.lnk.refMode = 2) (ctlLane v x) with state := .test } s t := by
  have a := ctlTaken_set there v
  have b : LaneSet l (testLane (s.lnk.refMode = 2) (ctlLane v x)) s (testTaken l v s) := a.trans (modLane_set (a.at there) _)
  rw [writeLaneCtl_eq there, en, if_neg (by decide), if_pos m]
  split
  · rename_i already
    have same : { testLane (s.lnk.refMode = 2) (ctlLane v x) with state := .test } = testLane (s.lnk.refMode = 2) (ctlLane v x) := by
      rw [← already]
      rfl
    exact ⟨_, rfl, same ▸ b.redone there⟩
  · exact ⟨_, rfl, ((b.trans (setLaneState_set (b.at there) .test)).redone there).leaveTraffic⟩

/-- MODE 0 lets a lane that was in a test mode start afresh. -/
theorem writeLaneCtl_fresh (there : s.lnk.lanes[l]? = some x) (en : laneEnabled s l = true) (m : (ctlLane v x).mode = 0) (was : x.mode ≠ 0) :
    ∃ t, writeLaneCtl l v s = taken t ∧ Redone l (triedLane s.lnk.lref (freshLane s.lnk.refMode s.lnk.maxRate (ctlLane v x))) s t := by
  have a := ctlTaken_set there v
  rw [writeLaneCtl_eq there, en, if_neg (by decide), if_neg (not_not.2 m), if_pos was]
  exact ⟨_, rfl, (a.redone there).trans (restartLane_redone (a.at there) _) (.refl _)⟩

/-- Otherwise the lane takes its fields alone. -/
theorem writeLaneCtl_fields (there : s.lnk.lanes[l]? = some x) (alone : laneEnabled s l = false ∨ ((ctlLane v x).mode = 0 ∧ x.mode = 0)) :
    writeLaneCtl l v s = taken (ctlTaken l v s) := by
  rw [writeLaneCtl_eq there]
  rcases alone with off | ⟨m, was⟩
  · rw [off]
    rfl
  · rw [if_neg (c := (ctlLane v x).mode ≠ 0) (not_not.2 m), if_neg (c := x.mode ≠ 0) (not_not.2 was), ite_self]

theorem ctlLane_mode (m : bits v 0 3 < 5) (x : Lane) :
    (ctlLane v x).mode = bits v 0 3 ∧ (ctlLane v x).prbsErrors = 0 ∧ (ctlLane v x).prbsLock = false := by
  refine ⟨?_, if_pos m, if_pos m⟩
  change keepUnless (bits v 0 3 < 5) (bits v 0 3) x.mode = _
  rw [keepUnless, if_pos (decide_eq_true m)]

/-! ### HRX_EN (R217) -/

/-- A step of HRX_EN on one lane. -/
def enableStep (old new : Nat) (s : State) (l : Nat) : State :=
  if old.testBit l && !new.testBit l then disableLane l s
  else if !old.testBit l && new.testBit l then enableLane l s
  else s

/-- A lane that is enabled: in an attempt, or in TEST where its MODE says so. -/
def enabledLane (k : Lnk) (x : Lane) : Lane :=
  if x.mode = 0 then triedLane k.lref (freshLane k.refMode k.maxRate x) else { x with rate := x.testRate, shared := k.refMode = 2, state := .test }

/-- What HRX_EN makes of a lane. -/
def switchedLane (old new l : Nat) (k : Lnk) (x : Lane) : Lane :=
  if old.testBit l && !new.testBit l then disabledLane x else if !old.testBit l && new.testBit l then enabledLane k x else x

theorem enableStep_redone (old new : Nat) (s : State) (l : Nat) (h : l < s.lnk.lanes.length) :
    Redone l (switchedLane old new l (linkSettings s.lnk) (laneOf s l)) s (enableStep old new s l) := by
  have there := laneOf_there h
  unfold enableStep switchedLane enabledLane
  split
  · exact disableLane_redone there
  · split
    · split
      · rename_i mission
        exact enableLane_mission there mission
      · rename_i test
        exact enableLane_test there test
    · exact (LaneSet.same there).redone there

/-- A lane whose bit stays is spared by its own step. -/
theorem enableStep_spares {old new : Nat} (same : old.testBit n = new.testBit n) (s : State) (l : Nat) (h : l < s.lnk.lanes.length) :
    Spares (· = n) s (enableStep old new s l) := by
  by_cases here : l = n
  · have idle : enableStep old new s l = s := by
      unfold enableStep
      rw [here, same]
      cases new.testBit n <;> rfl
    rw [idle]
    exact .refl _ s
  · exact (enableStep_redone old new s l h).spares.mono fun k hk e => here (e.symm.trans hk)

/-- The settings of LNK_CTL, taken. -/
def lnkCtlTaken (v : Nat) (s : State) : State :=
  { s with lnk := { s.lnk with
    hrxEn := bits v 0 4, maxRate := keepUnless (bits v 8 3 < 5) (bits v 8 3) s.lnk.maxRate
    refMode := keepUnless (bits v 12 2 < 3) (bits v 12 2) s.lnk.refMode, autoRetry := v.testBit 14, autoRejoin := v.testBit 15 } }

/-- The lanes that HRX_EN has changed. -/
def hrxSwitched (v : Nat) (s : State) : State := (List.range 4).foldl (enableStep s.lnk.hrxEn (bits v 0 4)) (lnkCtlTaken v s)

theorem exec_hrxEnWrite {w : Word} (ad : admitsWrite h 0x20000 w.toNat s = true) :
    exec (.hrxEnWrite h w) s = wrote h 0x20000 w.toNat (hrxSwitched w.toNat (beforeWrite h 0x20000 w.toNat s)) :=
  writeOne_run ad (by decide) (by decide) w.isLt rfl

/-- A lane that is enabled is in DETECT, or in TEST where its MODE says so. -/
theorem enabledLane_state (k : Lnk) (x : Lane) : (enabledLane k x).state = if x.mode = 0 then .detect else .test := by
  unfold enabledLane
  split
  · exact (restarted_tried k.lref k.refMode k.maxRate x).begins.2.1
  · rfl

/-- The settings after HRX_EN, and each of its lanes (R217). -/
theorem hrxSwitched_spec (here : 4 ≤ s.lnk.lanes.length) :
    let t := hrxSwitched v s
    linkSettings t.lnk = linkSettings (lnkCtlTaken v s).lnk ∧ ∀ l, l < 4 →
      (s.lnk.hrxEn.testBit l = v.testBit l → Reformed (laneOf s l) (laneOf t l) ∧ (unbound s → laneOf t l = laneOf s l)) ∧
      (s.lnk.hrxEn.testBit l = true → v.testBit l = false → (laneOf t l).state = .disabled) ∧
      (s.lnk.hrxEn.testBit l = false → v.testBit l = true → (laneOf t l).state = if (laneOf s l).mode = 0 then .detect else .test) := by
  intro t
  have low : ∀ l ∈ List.range 4, l < (lnkCtlTaken v s).lnk.lanes.length := fun l hl => (List.mem_range.1 hl).trans_le here
  obtain ⟨settings, lane⟩ := foldl_redone (enableStep_redone s.lnk.hrxEn (bits v 0 4)) List.nodup_range low
  refine ⟨settings, fun l hl => ⟨fun same => ?_, fun on off => ?_, fun off on => ?_⟩⟩
  · have sp : Spares (· = l) (lnkCtlTaken v s) t :=
      foldl_spares (fun s k _ hk => enableStep_spares (same.trans (testBit_bits_low v hl).symm) s k hk) low
    exact ⟨sp.lanes l rfl, fun un => (sp.quiet un).2 l rfl⟩
  · obtain ⟨x, -, r⟩ := lane l (List.mem_range.2 hl)
    rw [switchedLane, on, testBit_bits_low v hl, off, if_pos (by decide)] at r
    exact r.state_eq (show LaneState.disabled ≠ .trained by decide)
  · obtain ⟨x, before, r⟩ := lane l (List.mem_range.2 hl)
    have mode : x.mode = (laneOf s l).mode := by
      rw [before.eq]
      rfl
    rw [switchedLane, off, testBit_bits_low v hl, on, if_neg (by decide), if_pos (by decide)] at r
    have state := enabledLane_state (linkSettings (lnkCtlTaken v s).lnk) x
    rw [mode] at state
    exact (r.state_eq (by rw [state]; split <;> decide)).trans state

end

/-! ### The obligation -/

/-- Settles O37: each write by what its register does, `foldl_redone` for the lanes that HRX_EN changes, and an induction over the line bits
for the checker. -/
theorem linkRegisterWrites : Obligations.LinkRegisterWrites := by
  unfold Obligations.LinkRegisterWrites
  refine ⟨fun h tw w s => ?_, fun h w s ad => ?_, fun h w s ad sh => ?_, fun h l w x s hl ad there low top => ?_, fun h l w x s hl ad there none => ?_,
    fun h l raw line x s hl there => ?_, fun x line more lock run => ?_⟩
  · intro a v ad b upd
    rw [exec_txPatternWrite ad, txOf_eq, txOf_eq]
  · intro b
    have rope : b.rope = s.rope := by rw [show b = after 4 (wordRq h 0x20040 w.toNat) s from rfl, (after_only ..).1]
    have view := sourcesLeft_view (bits w.toNat 0 6) b
    simp only [sourceView, Prod.mk.injEq] at view
    obtain ⟨lnk, arr, -⟩ := view
    have layer (n : Nat) (hn : n < 6) := sourcesLeft_layer (bits w.toNat 0 6) b hn
    refine ⟨_, exec_layerSrcWrite ad, ?_⟩
    change _ = b.lnk at lnk
    generalize sourcesLeft (bits w.toNat 0 6) (beforeWrite h 0x20040 w.toNat s) = u at lnk arr layer ⊢
    refine ⟨rfl, rfl, rfl, fun n hn stays => ?_, fun n hn moves rec => ?_, lnk, arr⟩
    · have own := (layer n hn).1
      rw [rope, testBit_bits_low _ hn, show layerOf b n = layerOf s n from layerOf_after ..] at own
      exact own stays
    · have own := (layer n hn).2
      rw [rope, testBit_bits_low _ hn, show layerOf b n = layerOf s n from layerOf_after ..] at own
      exact own moves rec
  · have lnk := beforeWrite_lnk h 0x20000 w.toNat s
    refine ⟨_, exec_hrxEnWrite ad, ?_⟩
    generalize beforeWrite h 0x20000 w.toNat s = b at lnk ⊢
    obtain ⟨settings, lane⟩ := hrxSwitched_spec (v := w.toNat) (s := b) (by rw [lnk, lanes_length sh]; decide)
    refine ⟨congrArg Lnk.hrxEn settings, congrArg Lnk.autoRetry settings, congrArg Lnk.autoRejoin settings, ?_, fun l hl => ?_⟩
    · refine (congrArg Lnk.maxRate settings).trans ?_
      change keepUnless (bits w.toNat 8 3 < 5) (bits w.toNat 8 3) b.lnk.maxRate = _
      rw [keepUnless, lnk]
      simp only [decide_eq_true_eq]
    · have own := lane l hl
      rw [laneOf_lnk lnk, unbound, lnk] at own
      obtain ⟨still, disabled, enabled⟩ := own
      refine ⟨fun same keeps => ?_, fun same tr => ?_, disabled, enabled⟩
      · rcases keeps with st | un
        · exact (still same).1.state_eq st
        · rw [(still same).2 un]
      · exact (still same).1.state.imp (·.trans tr) (·.2)
  · have there' := after_lane 0x04 (wordRq h (0x20100 + 0x40 * l) w.toNat) there
    have en : laneEnabled (beforeWrite h (0x20100 + 0x40 * l) w.toNat s) l = laneEnabled s l := by rw [laneEnabled, beforeWrite_lnk, laneEnabled]
    obtain ⟨mode, errors, lock⟩ := ctlLane_mode (v := w.toNat) (by omega) x
    have nonzero : (ctlLane w.toNat x).mode ≠ 0 := by omega
    cases on : laneEnabled s l
    · have row := writeLaneCtl_fields there' (v := w.toNat) (.inl (en.trans on))
      exact ⟨_, _, (if_pos hl).trans (writeLane_run hl ad row), (ctlTaken_set there' _).at there',
        mode, errors, lock, fun k => absurd k (by decide), fun _ => ⟨rfl, rfl⟩⟩
    · obtain ⟨t, row, -, y, own, r⟩ := writeLaneCtl_test there' (en.trans on) nonzero
      have state := r.state_eq (show LaneState.test ≠ .trained by decide)
      have out := r.out rfl
      refine ⟨t, y, (if_pos hl).trans (writeLane_run hl ad row), own, ?_⟩
      rw [r.eq]
      exact ⟨mode, errors, lock, fun _ => ⟨state, rfl, rfl, out⟩, fun k => absurd k (by decide)⟩
  · have there' := after_lane 0x04 (wordRq h (0x20100 + 0x40 * l) w.toNat) there
    have en : laneEnabled (beforeWrite h (0x20100 + 0x40 * l) w.toNat s) l = laneEnabled s l := by rw [laneEnabled, beforeWrite_lnk, laneEnabled]
    obtain ⟨mode, -⟩ := ctlLane_mode (v := w.toNat) (by omega) x
    rw [none] at mode
    by_cases fresh : laneEnabled s l = true ∧ x.mode ≠ 0
    · obtain ⟨on, was⟩ := fresh
      obtain ⟨t, row, -, y, own, r⟩ := writeLaneCtl_fresh there' (en.trans on) mode was
      obtain ⟨mode', eq, dfe, state, ladder, few⟩ := freshLane_begins r
      exact ⟨t, y, (if_pos hl).trans (writeLane_run hl ad row), own, mode'.trans mode, eq, dfe,
        fun _ _ => ⟨state, ladder.trans (by rw [after_lnk]), few⟩, fun _ k => absurd k was, fun off => absurd (on.symm.trans off) (by decide)⟩
    · have alone : laneEnabled s l = false ∨ ((ctlLane w.toNat x).mode = 0 ∧ x.mode = 0) := by
        by_cases on : laneEnabled s l = true
        · exact .inr ⟨mode, by tauto⟩
        · exact .inl (by simpa using on)
      have row := writeLaneCtl_fields there' (alone.imp_left en.trans)
      exact ⟨_, _, (if_pos hl).trans (writeLane_run hl ad row), (ctlTaken_set there' _).at there',
        mode, rfl, rfl, fun on was => absurd ⟨on, was⟩ fresh,
        fun _ _ => rfl, fun _ => rfl⟩
  · exact fun ad => ⟨rawCapture_raw hl there ad, rawCapture_other hl there ad, rawCapture_tests hl there ad⟩
  · intro want ok follows y
    refine ⟨fun short => ?_, fun full => ?_⟩
    · obtain ⟨-, k, e⟩ := foldl_prbsBit_follows lock run short.le follows
      exact ⟨k.trans (decide_eq_false (Nat.not_le.2 short)), e⟩
    · obtain ⟨-, k, e⟩ := foldl_prbsBit_follows lock run full.le follows
      have locked : y.prbsLock = true := k.trans (decide_eq_true full.ge)
      exact ⟨locked, e, foldl_prbsBit_locked locked more, fun p c q _ => (prbsBit_locked (foldl_prbsBit_locked locked p) c).2⟩

end Sys2Proof.Machine
end

section
/-! The bond: formation, markers, CLIMB sets (R193, R200 to R208, R229, R232), and O35. -/

namespace Sys2Proof.Machine

section
variable {l : Nat} {x : Lane} {s t : State}

/-! ### A formation (R206) -/

theorem setLaneState_rope (l : Nat) (st : LaneState) (s : State) : (setLaneState l st s).rope = s.rope := by
  unfold setLaneState
  dsimp only
  repeat' split
  all_goals rfl

theorem formLane_rope (r : Nat) (s : State) (l : Nat) : (formLane r s l).rope = s.rope := by
  unfold formLane
  split
  · exact setLaneState_rope ..
  · rfl

/-- The CLIMB set of a formation, which has no bond yet, brings no path up. -/
theorem climbOut_forming (mask rate : Nat) (s : State) : (climbOut (noteFormation mask rate s)).rope.host.up = s.rope.host.up := by
  unfold climbOut
  split
  · rw [sendSets_host, climbShown]
    simp [noteFormation, notedLink]
  · rfl

theorem formBond_up (s : State) : (formBond s).rope.host.up = false := by
  have lanes : (lanesFormed s).rope.host.up = false := by
    unfold lanesFormed
    rw [foldl_view (v := State.rope) _ (formLane_rope _), (interrupt_up s).1]
  rw [formBond_eq, formationNoted, climbOut_forming, lanes]

/-- A lane that a formation may take: it is there, and in BOND or TRAINED. -/
theorem lane_lt_of_candidate (h : (laneOf s l).state = .bond ∨ (laneOf s l).state = .trained) : l < s.lnk.lanes.length := by
  by_contra out
  have none : laneOf s l = {} := by simp [laneOf, List.getElem?_eq_none (Nat.not_lt.1 out)]
  rw [none] at h
  rcases h with k | k <;> cases k

theorem formationMask_spec (s : State) (l : Nat) : (formationMask s).testBit l = true ↔
    l < 4 ∧ ((laneOf s l).state = .bond ∨ (laneOf s l).state = .trained) ∧ (laneOf s l).rate = bestRate s (bondCandidates s) := by
  rw [formationMask, testBit_maskOf, List.mem_filter, bondCandidates, List.mem_filter]
  simp [and_assoc]

/-- A lane at another rate is PARKED in BOND. -/
theorem formedLane_parks {r : Nat} (c : x.state = .bond ∨ x.state = .trained) (other : x.rate ≠ r) :
    (formedLane r x).state = .bond ∧ (formedLane r x).parked = true := by
  unfold formedLane parks
  rcases c with k | k
  · rw [k, if_neg (by simp)]
    exact ⟨k, by simp [unbonded, k, other]⟩
  · rw [k, if_pos (by simp [other])]
    exact ⟨rfl, by simp [unbonded, k, other]⟩

theorem bondView_fields {a b c d : Nat} {f : Bool} (h : bondView s.lnk = (a, b, f, c, d)) :
    s.lnk.bondMask = a ∧ s.lnk.bondRate = b ∧ s.lnk.forming = f ∧ s.lnk.formMask = c ∧ s.lnk.formRate = d := by
  simpa [bondView] using h

theorem exec_bondFormation (up : lanesUp s = true) (due : formationDue s = true) : exec .bondFormation s = .next (formBond s) := by
  refine (if_pos up).trans ?_
  rw [if_pos due]

theorem exec_bondWaitExpiry (up : lanesUp s = true) (none : s.lnk.bondMask = 0) (idle : s.lnk.forming = false) (hl : l < 4)
    (b : (laneOf s l).state = .bond) (wait : (laneOf s l).waitBond = true) : exec .bondWaitExpiry s = .next (formBond s) := by
  have some : (List.range 4).any (fun l => (laneOf s l).state = .bond && (laneOf s l).waitBond) = true :=
    List.any_eq_true.2 ⟨l, List.mem_range.2 hl, by simp [b, wait]⟩
  refine (if_pos up).trans ?_
  rw [some, none, idle, if_pos (by decide)]

/-! ### A formation that times out -/

/-- The lanes of a formation are out of the bond, and no formation runs. -/
def formationEnded (s : State) : State := (bitsOf s.lnk.formMask 4).foldl (fun s l => modLane l (fun x => { x with inBond := false }) s)
  { s with lnk := { s.lnk with forming := false, bondMask := 0, bondRate := 7 } }

theorem exec_bondTimeout (up : lanesUp s = true) (f : s.lnk.forming = true) :
    exec .bondTimeout s = .next (failLanes (bitsOf s.lnk.formMask 4) 4 (formationEnded s)) := by
  refine (if_pos up).trans ?_
  rw [f, if_pos rfl]
  rfl

theorem formationEnded_spec (s : State) : bondView (formationEnded s).lnk = (0, 7, false, s.lnk.formMask, s.lnk.formRate) ∧
    (formationEnded s).lnk.lanes.length = s.lnk.lanes.length :=
  ⟨(foldl_view (v := fun s : State => bondView s.lnk) (g := fun s l => modLane l (fun x => { x with inBond := false }) s) _ (fun _ _ => rfl) _).trans rfl,
    foldl_view (v := fun s : State => s.lnk.lanes.length) (g := fun s l => modLane l (fun x => { x with inBond := false }) s) _
      (fun _ _ => modLane_length ..) _⟩

/-! ### Markers (R206) -/

/-- An entry that alone passes a test is the one found. -/
theorem find?_only {α : Type} {l : List α} {p : α → Bool} {a : α} (mem : a ∈ l) (pass : p a = true) (only : ∀ b ∈ l, p b = true → b = a) :
    l.find? p = some a := by
  cases h : l.find? p with
  | none => exact absurd pass (List.find?_eq_none.1 h a mem)
  | some b => rw [only b (List.mem_of_find?_eq_some h) (List.find?_some h)]

/-- Where a valid marker stands on every lane of the mask, and on no other, the markers are those of the row. -/
theorem markers_all {marks : List BondMark} (cover : marks.map (·.lane) = bitsOf s.lnk.formMask 4)
    (good : ∀ m ∈ marks, ∃ b, setBytes 0xA7 (laneSymbols s m.lane m.set) = some b ∧ (field b 3 1).testBit 1 = true) :
    markers marks s = marks := by
  have nd : (marks.map (·.lane)).Nodup := cover ▸ bitsOf_nodup _ _
  unfold markers
  rw [← cover, List.filterMap_map]
  refine Eq.trans (List.filterMap_congr fun m hm => ?_) List.filterMap_some
  rw [Function.comp_apply]
  obtain ⟨b, valid, bond⟩ := good m hm
  refine find?_only hm ?_ fun n hn h => List.inj_on_of_nodup_map nd hn hm ?_
  · rw [valid]
    simpa using bond
  · rw [Bool.and_eq_true, decide_eq_true_eq] at h
    exact h.1

/-- A lane of the bond: deskewed, and TRAINED if it was in BOND (R206). -/
def bondedLane (latest rate : Nat) (m : BondMark) (x : Lane) : Lane :=
  let y := { x with deskew := min 8 (rdiv (10 * (latest - m.delay)) (wordPeriod rate)), skewNs := min m.delay 255, inBond := true, parked := false }
  if x.state = .bond then { y with failN := 0, trainMs := min m.ms 65535, state := .trained } else y

/-- A lane whose marker came too late, before its attempt fails. -/
def lateLane (m : BondMark) (x : Lane) : Lane := { x with excluded := satInc 16 x.excluded, skewNs := min m.delay 255, inBond := false }

theorem trainLane_set (host : l ≠ 4) (h : s.lnk.lanes[l]? = some x) (ms : Nat) :
    LaneSet l { x with failN := 0, trainMs := min ms 65535, parked := false, state := .trained } s (trainLane l ms s) := by
  have lnk := trainedFrom_at h ms
  have a : LaneSet l { x with failN := 0, trainMs := min ms 65535, parked := false } s (trainedFrom l ms s) := ⟨by rw [lnk]; rfl, by rw [lnk]⟩
  rw [trainLane_eq, if_neg host]
  exact a.trans (setLaneState_set (a.at h) .trained)

theorem bondLane_set {m : BondMark} (latest : Nat) (host : m.lane < 4) (h : s.lnk.lanes[m.lane]? = some x) :
    LaneSet m.lane (bondedLane latest s.lnk.formRate m x) s (bondLane latest s m) := by
  have a := modLane_set h (fun x => { x with
    deskew := min 8 (rdiv (10 * (latest - m.delay)) (wordPeriod s.lnk.formRate)), skewNs := min m.delay 255, inBond := true, parked := false })
  unfold bondLane bondedLane
  dsimp only
  rw [laneOf_at h]
  split
  · exact a.trans (trainLane_set (by omega) (a.at h) m.ms)
  · exact a

theorem excludeLane_set {m : BondMark} (h : s.lnk.lanes[m.lane]? = some x) :
    LaneSet m.lane (loweredLane 3 (lateLane m x)) s (excludeLane s m) := by
  have a := modLane_set h (lateLane m)
  exact a.trans (lowerLane_set 3 (a.at h))

/-- The markers that came in time, and those that came too late. -/
def inTime (marks : List BondMark) : List BondMark := marks.filter (fun m => decide (m.delay ≤ 40))

def tooLate (marks : List BondMark) : List BondMark := marks.filter (fun m => decide (40 < m.delay))

/-- The latest delay of those in time. -/
def latestOf (marks : List BondMark) : Nat := (inTime marks).foldl (fun n m => max n m.delay) 0

/-- The lanes once the markers have been judged. -/
def marksJudged (marks : List BondMark) (s : State) : State :=
  (tooLate marks).foldl excludeLane ((inTime marks).foldl (bondLane (latestOf marks)) { s with lnk := { s.lnk with forming := false } })

/-- The events of the markers (R216). -/
def markEvents (marks : List BondMark) (s : State) : List RawEvent :=
  ((inTime marks).filter (fun m => (laneOf s m.lane).state = .bond)).map (fun m => trainedEvent m.lane m.ms s) ++
    (tooLate marks).flatMap (fun m => ev 0x0107 m.lane m.delay s.lnk.formRate s.lnk.formMask :: failEvents m.lane 3 s)

/-- The lanes and the events, before the bond is noted. -/
def marksEnded (marks : List BondMark) (s : State) : State :=
  (tooLate marks).foldl (fun s m => leaveTraffic m.lane s) (raiseAll (markEvents marks s) (marksJudged marks s))

/-- A bond of a mask and a rate is noted. -/
def noteBond (mask rate : Nat) (s : State) : State := { s with lnk := { s.lnk with bondMask := mask, bondRate := rate } }

theorem endFormation_eq (marks : List BondMark) (s : State) : endFormation marks s =
    climbOut (noteBond (maskOf ((inTime marks).map (·.lane))) (if (inTime marks).isEmpty then 7 else s.lnk.formRate) (marksEnded marks s)) := by
  unfold endFormation
  extract_lets late good latest rate evs link judged ended link'
  have e : marksEnded marks s = ended := rfl
  have g : inTime marks = good := rfl
  rw [e, g]
  clear_value ended good
  rfl

section
variable {marks : List BondMark}

theorem inTime_lanes (nd : (marks.map (·.lane)).Nodup) : ((inTime marks).map (·.lane)).Nodup := nd.sublist (List.filter_sublist.map _)

theorem tooLate_lanes (nd : (marks.map (·.lane)).Nodup) : ((tooLate marks).map (·.lane)).Nodup := nd.sublist (List.filter_sublist.map _)

theorem mem_inTime {m : BondMark} : m ∈ inTime marks ↔ m ∈ marks ∧ m.delay ≤ 40 := by simp [inTime]

theorem mem_tooLate {m : BondMark} : m ∈ tooLate marks ↔ m ∈ marks ∧ 40 < m.delay := by simp [tooLate]

/-- A lane whose marker came in time is not one whose marker came too late. -/
theorem lanes_disjoint (nd : (marks.map (·.lane)).Nodup) {m : BondMark} (hm : m ∈ marks) :
    (40 < m.delay → m.lane ∉ (inTime marks).map (·.lane)) ∧ (m.delay ≤ 40 → m.lane ∉ (tooLate marks).map (·.lane)) := by
  refine ⟨fun late mem => ?_, fun good mem => ?_⟩
  · obtain ⟨n, hn, e⟩ := List.mem_map.1 mem
    obtain ⟨hn, good⟩ := mem_inTime.1 hn
    rw [List.inj_on_of_nodup_map nd hn hm e] at good
    omega
  · obtain ⟨n, hn, e⟩ := List.mem_map.1 mem
    obtain ⟨hn, late⟩ := mem_tooLate.1 hn
    rw [List.inj_on_of_nodup_map nd hn hm e] at late
    omega

/-- What the judged markers leave of the link and of each lane of the mask. -/
theorem marksJudged_spec (nd : (marks.map (·.lane)).Nodup) (low : ∀ m ∈ marks, m.lane < 4) (five : s.lnk.lanes.length = 5) :
    let u := marksJudged marks s
    linkRest u.lnk = linkRest { s.lnk with forming := false } ∧ u.lnk.lanes.length = 5 ∧ ∀ m ∈ marks,
      (m.delay ≤ 40 → laneOf u m.lane = bondedLane (latestOf marks) s.lnk.formRate m (laneOf s m.lane)) ∧
      (40 < m.delay → laneOf u m.lane = loweredLane 3 (lateLane m (laneOf s m.lane))) := by
  have here : ∀ m ∈ marks, m.lane < s.lnk.lanes.length := fun m hm => (low m hm).trans (by rw [five]; decide)
  obtain ⟨rest, length, away, own⟩ := foldl_laneSet (s := { s with lnk := { s.lnk with forming := false } }) (idx := BondMark.lane)
    (f := fun m k => bondedLane (latestOf marks) k.formRate m) (g := bondLane (latestOf marks)) (ls := inTime marks)
    (fun s m hm h => bondLane_set _ (low m (mem_inTime.1 hm).1) (laneOf_there h)) (inTime_lanes nd) fun m hm => here m (mem_inTime.1 hm).1
  obtain ⟨rest', length', away', own'⟩ := foldl_laneSet (s := (inTime marks).foldl (bondLane (latestOf marks))
      { s with lnk := { s.lnk with forming := false } })
    (idx := BondMark.lane) (f := fun m _ x => loweredLane 3 (lateLane m x)) (g := excludeLane) (ls := tooLate marks)
    (fun s m _ h => excludeLane_set (laneOf_there h)) (tooLate_lanes nd) fun m hm => by
      rw [length]
      exact here m (mem_tooLate.1 hm).1
  refine ⟨rest'.trans rest, length'.trans (length.trans five), fun m hm => ⟨fun good => ?_, fun late => ?_⟩⟩
  · exact (away' _ ((lanes_disjoint nd hm).2 good)).trans (own m (mem_inTime.2 ⟨hm, good⟩))
  · exact (own' m (mem_tooLate.2 ⟨hm, late⟩)).trans (congrArg (fun x => loweredLane 3 (lateLane m x)) (away _ ((lanes_disjoint nd hm).1 late)))

theorem markEvents_mild (marks : List BondMark) (s : State) : ∀ e ∈ markEvents marks s, e.level < 3 ∧ quietCode e.code = true := by
  have trained : evLevel 0x0101 < 3 ∧ quietCode 0x0101 = true := by decide
  have skew : evLevel 0x0107 < 3 ∧ quietCode 0x0107 = true := by decide
  intro e he
  rcases List.mem_append.1 he with k | k
  · obtain ⟨m, -, rfl⟩ := List.mem_map.1 k
    exact trained
  · obtain ⟨m, -, mem⟩ := List.mem_flatMap.1 k
    rcases List.mem_cons.1 mem with rfl | mem
    · exact skew
    · exact failEvents_mild m.lane 3 s e mem

/-- After the markers there is no bond yet, and the lanes are as they were judged. -/
theorem marksEnded_spec (nd : (marks.map (·.lane)).Nodup) (low : ∀ m ∈ marks, m.lane < 4) (five : s.lnk.lanes.length = 5)
    (none : s.lnk.bondMask = 0) :
    let u := marksEnded marks s
    unbound u ∧ linkSettings u.lnk = linkSettings s.lnk ∧ ∀ k, laneOf u k = laneOf (marksJudged marks s) k := by
  obtain ⟨rest, -⟩ := marksJudged_spec nd low five
  have same := recordsOnly.lnk_eq (raiseAll_only (markEvents_mild marks s) (marksJudged marks s))
  have settings : linkSettings (raiseAll (markEvents marks s) (marksJudged marks s)).lnk = linkSettings s.lnk := by
    rw [same, ← linkSettings_linkRest, rest]
    rfl
  have bond : bondView (raiseAll (markEvents marks s) (marksJudged marks s)).lnk = (0, s.lnk.bondRate, false, s.lnk.formMask, s.lnk.formRate) := by
    rw [same, ← bondView_linkRest, rest, ← none]
    rfl
  obtain ⟨mask, -, forming, -⟩ := bondView_fields bond
  have sp := foldl_leaveTraffic ((tooLate marks).map (·.lane)) (raiseAll (markEvents marks s) (marksJudged marks s))
  rw [List.foldl_map] at sp
  obtain ⟨kept, lanes⟩ := sp.quiet ⟨mask, forming⟩
  refine ⟨unbound_bondView ⟨mask, forming⟩ kept, sp.settings.trans settings, fun k => (lanes k trivial).trans ?_⟩
  rw [laneOf, same, laneOf]

/-- The power state, which the markers leave alone. -/
theorem linkView_marksEnded (marks : List BondMark) (s : State) (low : ∀ m ∈ marks, m.lane < 4) : linkView (marksEnded marks s) = linkView s := by
  have bonds : ∀ x, ∀ m ∈ inTime marks, linkView (bondLane (latestOf marks) x m) = linkView x := by
    intro x m hm
    have host : m.lane ≠ 4 := by have := low m (mem_inTime.1 hm).1; omega
    have trains (t : State) : linkView (trainLane m.lane m.ms t) = linkView t := by
      rw [trainLane_eq, if_neg host, linkView_setLaneState]
      rfl
    unfold bondLane
    dsimp only
    split
    · rw [trains]
      rfl
    · rfl
  have excludes (x : State) (m : BondMark) : linkView (excludeLane x m) = linkView x := by
    rw [excludeLane, linkView_lowerLane]
    rfl
  unfold marksEnded
  rw [foldl_view (v := linkView) _ (fun x m => linkView_leaveTraffic ..), (raiseAll_only (markEvents_mild marks s) _).linkView_eq, marksJudged,
    foldl_view (v := linkView) _ excludes, foldl_view_mem (v := linkView) _ bonds]
  rfl

end

/-! ### CLIMB_SEND (R200, R229, R232) -/

theorem climbOut_open (h : htxOpen s = true) : (climbOut s).lnk = { s.lnk with htxLine := sentLine s.lnk.htxLine (setPair .host s) 2 } ∧
    (s.lnk.forming = false → s.lnk.bondMask ≠ 0 → (∀ l, l < 4 → s.lnk.bondMask.testBit l = true → (laneOf s l).state = .trained) →
      (climbOut s).rope.host.up = true) := by
  unfold climbOut
  rw [if_pos h, sendSets_host]
  refine ⟨rfl, fun idle bond trained => ?_⟩
  have all : (bitsOf s.lnk.bondMask 4).all (fun l => (s.lnk.lanes.getD l {}).state = .trained) = true := by
    rw [List.all_eq_true]
    intro l hl
    obtain ⟨low, bit⟩ := mem_bitsOf.1 hl
    exact decide_eq_true (trained l low bit)
  rw [climbShown]
  dsimp only
  rw [all]
  simp [idle, bond]

theorem climbOut_shut (h : htxOpen s = false) : climbOut s = s := by
  unfold climbOut
  rw [h, if_neg (by decide)]

theorem twinSets_plain (due : ackDue s = false) :
    twinSets s = { s with lnk := { s.lnk with twtxLine := sentLine s.lnk.twtxLine (setPair .twin s) 2 } } := by
  unfold twinSets
  dsimp only
  rw [due, if_neg (by decide), sendSets_twin]

/-! ### The bond that the markers form (R206, R207, R229) -/

theorem bondedLane_common (latest rate : Nat) {m : BondMark} (good : m.delay ≤ 40) (x : Lane) :
    let y := bondedLane latest rate m x
    y.inBond = true ∧ y.skewNs = m.delay ∧ y.deskew ≤ 8 ∧ (x.state = .bond → y.state = .trained ∧ y.trainMs = min m.ms 65535) ∧
      (x.state = .trained → y.state = .trained) := by
  intro y
  have skew : min m.delay 255 = m.delay := by omega
  dsimp only [y]
  unfold bondedLane
  split
  · exact ⟨rfl, skew, min_le_left .., fun _ => ⟨rfl, rfl⟩, fun _ => rfl⟩
  · rename_i other
    exact ⟨rfl, skew, min_le_left .., fun k => absurd k other, id⟩

section
variable {marks : List BondMark}

/-- The CLIMB set after a bond has been noted brings the path up where every lane of it is TRAINED. -/
theorem climbOut_noteBond {mask : Nat} (rate : Nat) (hopen : htxOpen s = true) (idle : s.lnk.forming = false) (bond : mask ≠ 0)
    (trained : ∀ l, l < 4 → mask.testBit l = true → (laneOf s l).state = .trained) : (climbOut (noteBond mask rate s)).rope.host.up = true :=
  (climbOut_open (s := noteBond mask rate s) hopen).2 idle bond trained

/-- The link at the end of a formation. -/
theorem endFormation_spec (nd : (marks.map (·.lane)).Nodup) (low : ∀ m ∈ marks, m.lane < 4) (five : s.lnk.lanes.length = 5)
    (none : s.lnk.bondMask = 0) :
    let t := endFormation marks s
    t.lnk.forming = false ∧ t.lnk.bondMask = maskOf ((inTime marks).map (·.lane)) ∧
      t.lnk.bondRate = (if (inTime marks).isEmpty then 7 else s.lnk.formRate) ∧ ∀ k, laneOf t k = laneOf (marksJudged marks s) k := by
  obtain ⟨⟨-, forming⟩, -, lanes⟩ := marksEnded_spec nd low five none
  intro t
  have e : t = climbOut _ := endFormation_eq marks s
  obtain ⟨q, lnk⟩ := climbOut_lnk (noteBond (maskOf ((inTime marks).map (·.lane))) (if (inTime marks).isEmpty then 7 else s.lnk.formRate)
    (marksEnded marks s))
  rw [e, lnk]
  refine ⟨forming, rfl, rfl, fun k => Eq.trans ?_ (lanes k)⟩
  rw [laneOf, lnk]
  rfl

/-- The lanes of the bond. -/
theorem maskOf_inTime {marks : List BondMark} (l : Nat) : (maskOf ((inTime marks).map (·.lane))).testBit l = true ↔
    ∃ m ∈ marks, m.lane = l ∧ m.delay ≤ 40 := by
  rw [testBit_maskOf, List.mem_map]
  constructor
  · rintro ⟨m, hm, rfl⟩
    exact ⟨m, (mem_inTime.1 hm).1, rfl, (mem_inTime.1 hm).2⟩
  · rintro ⟨m, hm, rfl, good⟩
    exact ⟨m, mem_inTime.2 ⟨hm, good⟩, rfl⟩

/-- The CLIMB set after the markers brings the path up where every lane of the bond is TRAINED (R229). -/
theorem endFormation_up (nd : (marks.map (·.lane)).Nodup) (low : ∀ m ∈ marks, m.lane < 4) (five : s.lnk.lanes.length = 5)
    (none : s.lnk.bondMask = 0) (hopen : htxOpen s = true) (some : ∃ m ∈ marks, m.delay ≤ 40)
    (ready : ∀ m ∈ marks, (laneOf s m.lane).state = .bond ∨ (laneOf s m.lane).state = .trained) : (endFormation marks s).rope.host.up = true := by
  obtain ⟨⟨-, forming⟩, settings, lanes⟩ := marksEnded_spec nd low five none
  obtain ⟨-, -, judged⟩ := marksJudged_spec nd low five
  have pwr : (marksEnded marks s).pwr = s.pwr := congrArg Prod.fst (linkView_marksEnded marks s low)
  have htx : (marksEnded marks s).lnk.htx = s.lnk.htx := by
    have same : (linkSettings (marksEnded marks s).lnk).htx = (linkSettings s.lnk).htx := by rw [settings]
    exact same
  have still : htxOpen (marksEnded marks s) = true := by
    unfold htxOpen portsOpen at hopen ⊢
    rwa [pwr, htx]
  rw [endFormation_eq]
  refine climbOut_noteBond _ still forming (fun empty => ?_) fun l hl bit => ?_
  · obtain ⟨m, hm, good⟩ := some
    have bit := (maskOf_inTime m.lane).2 ⟨m, hm, rfl, good⟩
    rw [empty, Nat.zero_testBit] at bit
    cases bit
  · obtain ⟨m, hm, rfl, good⟩ := (maskOf_inTime l).1 bit
    obtain ⟨-, -, -, bonds, stays⟩ := bondedLane_common (latestOf marks) s.lnk.formRate good (laneOf s m.lane)
    rw [lanes, (judged m hm).1 good]
    rcases ready m hm with k | k
    · exact (bonds k).1
    · exact stays k

/-- The state once the words of the markers have come in. -/
def marksHeard (marks : List BondMark) (s : State) : State := marks.foldl (fun s m => takeWords m.lane m.set s) s

theorem exec_bondMarker (up : lanesUp s = true) (f : s.lnk.forming = true) (cover : marks.map (·.lane) = bitsOf s.lnk.formMask 4)
    (good : ∀ m ∈ marks, m.set.length = 4 ∧ ∃ b, setBytes 0xA7 (laneSymbols s m.lane m.set) = some b ∧ (field b 3 1).testBit 1 = true) :
    exec (.bondMarker marks) s = .next (endFormation marks (marksHeard marks s)) := by
  have ok : marks.all (fun m => decide (m.lane < 4) && m.set.length = 4) = true := by
    rw [List.all_eq_true]
    intro m hm
    have low : m.lane ∈ bitsOf s.lnk.formMask 4 := cover ▸ List.mem_map_of_mem hm
    simp [(mem_bitsOf.1 low).1, (good m hm).1]
  refine (whenLanes_guarded up ok).trans (congrArg Host.Outcome.next ?_)
  rw [f, markers_all cover fun m hm => (good m hm).2, ← cover, List.length_map, if_neg (by decide), if_pos rfl]
  rfl

/-- Words that come in leave the lanes' states, and the rest of the link and of the power state. -/
theorem marksHeard_spec (nd : (marks.map (·.lane)).Nodup) (here : ∀ m ∈ marks, m.lane < s.lnk.lanes.length) :
    let u := marksHeard marks s
    linkRest u.lnk = linkRest s.lnk ∧ u.lnk.lanes.length = s.lnk.lanes.length ∧ u.pwr = s.pwr ∧
      ∀ m ∈ marks, (laneOf u m.lane).state = (laneOf s m.lane).state := by
  obtain ⟨rest, length, -, own⟩ := foldl_laneSet (idx := BondMark.lane) (f := fun m _ x => heardLane x m.set)
    (g := fun s m => takeWords m.lane m.set s) (fun s m _ h => (laneBecomes_takeWords (laneOf_there h) m.set).laneSet) nd here
  refine ⟨rest, length, foldl_view (v := State.pwr) (g := fun s (m : BondMark) => takeWords m.lane m.set s) _ (fun s m => rfl) s, fun m hm => ?_⟩
  rw [marksHeard, own m hm]
  rfl

end

/-! ### CLIMB sets of the twin link (R200, R202, R207) -/

/-- What a valid CLIMB set tells: the partner's state, its proposal, and the rate that is agreed with it. -/
def climbTold (partner agreed : Nat) (s : State) : State :=
  { s with lnk := { s.lnk with
    peerBond := s.lnk.peerBond || partner == 5 || partner == 6, twinAgreed := agreed
    twinAcks := if agreed = s.lnk.twinAgreed then s.lnk.twinAcks else 0
    twinAckSeen := decide (agreed = s.lnk.twinAgreed) && s.lnk.twinAckSeen } }

/-- A partner in BOND or TRAINED trains the lane. -/
theorem climbTold_trains {partner : Nat} (h : s.lnk.lanes[4]? = some x) (told : partner = 5 ∨ partner = 6) (agreed ms : Nat) :
    let t := laneTrained 4 ms (climbTold partner agreed s)
    (laneOf t 4).state = .trained ∧ t.rope.twin.up = true ∧ t.lnk.peerBond = true := by
  obtain ⟨state, path, peer⟩ := laneTrained_twin (s := climbTold partner agreed s) h ms
  refine ⟨state, path, peer.trans ?_⟩
  rcases told with k | k <;> simp [climbTold, k]

theorem exec_climbReceived {set : List LaneWord} {ms : Nat} (up : lanesUp s = true) (n : set.length = 4) (h : s.lnk.lanes[4]? = some x) :
    let u := { s with lnk := { s.lnk with lanes := s.lnk.lanes.set 4 (heardLane x set) } }
    (setBytes 0xC3 (laneSymbols s 4 set) = none → exec (.climbReceived set ms) s = .next u) ∧
      ∀ b, setBytes 0xC3 (laneSymbols s 4 set) = some b → exec (.climbReceived set ms) s = .next (takeClimb b ms u) := by
  intro u
  have heard := takeWords_at h set
  refine ⟨fun bad => ?_, fun b good => ?_⟩
  · refine (whenLanes_guarded up (by simpa using n)).trans ?_
    rw [bad]
    exact congrArg Host.Outcome.next heard
  · refine (whenLanes_guarded up (by simpa using n)).trans ?_
    rw [good]
    exact congrArg (fun u => Host.Outcome.next (takeClimb b ms u)) heard

theorem takeClimb_eq (h : s.lnk.lanes[4]? = some x) (b : List Byte) (ms : Nat) :
    let partner := field b 1 2 % 16
    let rate := field b 3 2 % 8
    let told := climbTold partner (if x.state = .detect && x.attempting && rate < 5 then min x.ladderRate rate else s.lnk.twinAgreed) s
    takeClimb b ms s = if x.state = .disabled || x.state = .laneDown || x.state = .test then s
      else if x.state = .bond && (partner = 5 || partner = 6) then laneTrained 4 ms told else told := by
  intro partner rate told
  unfold takeClimb
  rw [laneOf_at h]
  have same : told = { s with lnk := { s.lnk with
      peerBond := s.lnk.peerBond || (partner = 5 || partner = 6)
      twinAgreed := if x.state = .detect && x.attempting && rate < 5 then min x.ladderRate rate else s.lnk.twinAgreed
      twinAcks := if (if x.state = .detect && x.attempting && rate < 5 then min x.ladderRate rate else s.lnk.twinAgreed) = s.lnk.twinAgreed
        then s.lnk.twinAcks else 0
      twinAckSeen := decide ((if x.state = .detect && x.attempting && rate < 5 then min x.ladderRate rate else s.lnk.twinAgreed) = s.lnk.twinAgreed) &&
        s.lnk.twinAckSeen } } := by
    dsimp only [told, climbTold]
    rw [Bool.or_assoc]
    rfl
  rw [same]
  rfl

/-! ### Loss of signal, the LREF clock (R197, R205, R208) -/

theorem exec_losAssert (up : lanesUp s = true) (hl : l < 5) (h : s.lnk.lanes[l]? = some x) :
    exec (.losAssert l) s = .next { s with lnk := { s.lnk with lanes := s.lnk.lanes.set l { x with los := true } } } := by
  refine (whenLanes_guarded up (by simpa using hl)).trans ?_
  rw [modLane_at h]

theorem exec_losDeassert {b : Bool} (up : lanesUp s = true) (hl : l < 5) (h : s.lnk.lanes[l]? = some x) :
    let u := { s with lnk := { s.lnk with lanes := s.lnk.lanes.set l { x with los := false } } }
    exec (.losDeassert l b) s = .next (if x.state = .laneDown && s.lnk.autoRetry && b then restartLane l s.lnk.maxRate u else u) := by
  intro u
  refine (whenLanes_guarded up (by simpa using hl)).trans ?_
  rw [modLane_at h, laneOf_at h]

end

/-! ### The obligation -/

/-- Settles O35: formations by `formBond_eq`, the end of one lane by lane, and each other row by its equation. -/
theorem bondForms : Obligations.BondForms := by
  unfold Obligations.BondForms
  refine ⟨fun s up due => ?_, fun l s up none idle hl b wait => ?_, fun marks s up sh f some none cover good => ?_, fun s up f five => ?_, fun p s => ?_,
    fun set ms x s up n h => ?_, fun l x s up hl h => ?_, fun s up => exec_lrefClockChange up true, fun l b w s down => ?_⟩
  · obtain ⟨mask, rate, forming, formMask, formRate⟩ := bondView_fields (bondView_formBond s)
    refine ⟨_, exec_bondFormation up due, mask, rate, formRate, fun l => ?_, fun l hl c other => ?_, ?_, formBond_up s⟩
    · rw [formMask, formRate]
      exact formationMask_spec s l
    · rw [formRate] at other
      rw [laneOf_formBond, if_pos ⟨hl, lane_lt_of_candidate c⟩]
      exact formedLane_parks c other
    · rw [forming, formMask, decide_eq_true_eq]
  · obtain ⟨mask, -, -, -, formRate⟩ := bondView_fields (bondView_formBond s)
    exact ⟨_, exec_bondWaitExpiry up none idle hl b wait, formRate, formBond_up s, mask⟩
  · have nd : (marks.map (·.lane)).Nodup := cover ▸ bitsOf_nodup _ _
    have low (m : BondMark) (hm : m ∈ marks) : m.lane < 4 := (mem_bitsOf.1 (cover ▸ List.mem_map_of_mem hm)).1
    have five := lanes_length sh
    obtain ⟨rest, length, pwr, states⟩ := marksHeard_spec nd fun m hm => (low m hm).trans (by rw [five]; decide)
    have bond : bondView (marksHeard marks s).lnk = bondView s.lnk := by rw [← bondView_linkRest, rest, bondView_linkRest]
    have none' : (marksHeard marks s).lnk.bondMask = 0 := (congrArg Prod.fst bond).trans none
    have rate : (marksHeard marks s).lnk.formRate = s.lnk.formRate := congrArg (fun b => b.2.2.2.2) bond
    obtain ⟨forming, mask, bondRate, lanes⟩ := endFormation_spec nd low (length.trans five) none'
    obtain ⟨-, -, judged⟩ := marksJudged_spec nd low (length.trans five)
    refine ⟨_, exec_bondMarker up f cover good, forming, fun l => by rw [mask]; exact maskOf_inTime l,
      fun ⟨m, hm, early⟩ => ?_, fun m hm early => ?_,
      fun m hm late => ?_, fun hopen some ready => ?_⟩
    · have mem : m ∈ inTime marks := mem_inTime.2 ⟨hm, early⟩
      rw [bondRate, if_neg (by rw [List.isEmpty_iff]; exact List.ne_nil_of_mem mem), rate]
    · obtain ⟨inBond, skew, deskew, bonds, -⟩ := bondedLane_common (latestOf marks) (marksHeard marks s).lnk.formRate early
        (laneOf (marksHeard marks s) m.lane)
      rw [lanes, (judged m hm).1 early]
      exact ⟨inBond, skew, deskew, fun k => bonds ((states m hm).trans k)⟩
    · obtain ⟨-, -, -, -, cause, inBond, -⟩ := loweredLane_common 3 (lateLane m (laneOf (marksHeard marks s) m.lane))
      rw [lanes, (judged m hm).2 late]
      exact ⟨cause, inBond⟩
    · refine endFormation_up nd low (length.trans five) none' ?_ some fun m hm => ?_
      · have htx : (marksHeard marks s).lnk.htx = s.lnk.htx := by
          have same : (linkRest (marksHeard marks s).lnk).htx = (linkRest s.lnk).htx := by rw [rest]
          exact same
        unfold htxOpen portsOpen at hopen ⊢
        rwa [pwr, htx]
      · rw [states m hm]
        exact ready m hm
  · obtain ⟨view, length⟩ := formationEnded_spec s
    obtain ⟨mask, rate, forming, formMask, -⟩ := bondView_fields view
    obtain ⟨u, rest, -, lanes, sp⟩ := failLanes_lowered (ls := bitsOf s.lnk.formMask 4) 4 (bitsOf_nodup _ _) fun l hl =>
      (mem_bitsOf.1 hl).1.trans (by rw [length, five]; decide)
    have bond : bondView u.lnk = (0, 7, false, s.lnk.formMask, s.lnk.formRate) := by
      rw [← bondView_linkRest, rest, bondView_linkRest, view]
    obtain ⟨mask', -, forming', -⟩ := bondView_fields bond
    obtain ⟨kept, -⟩ := sp.quiet ⟨mask', forming'⟩
    obtain ⟨mask, rate, forming, -⟩ := bondView_fields (kept.trans bond)
    refine ⟨_, exec_bondTimeout up f, mask, rate, forming, fun l hl bit => ?_⟩
    have r := sp.lanes l trivial
    rw [lanes, if_pos (mem_bitsOf.2 ⟨hl, bit⟩)] at r
    obtain ⟨att, -, -, -, cause, -⟩ := loweredLane_common 4 (laneOf (formationEnded s) l)
    rw [r.eq]
    exact ⟨cause, att⟩
  · intro q sets
    refine ⟨fun host hopen => ?_, fun twin hopen due => ?_, fun host shut => ?_, fun twin shut => ?_⟩
    · subst host
      obtain ⟨lnk, path⟩ := climbOut_open hopen
      exact ⟨_, rfl, lnk, path⟩
    · subst twin
      change Host.Outcome.next (if twtxSets s then twinSets s else s) = _
      rw [if_pos hopen, twinSets_plain due]
      rfl
    · subst host
      exact congrArg Host.Outcome.next (climbOut_shut shut)
    · subst twin
      exact congrArg Host.Outcome.next (if_neg (by simp [shut]))
  · intro u
    obtain ⟨bad, valid⟩ := exec_climbReceived (ms := ms) up n h
    have there : u.lnk.lanes[4]? = some (heardLane x set) := List.getElem?_set_self (lane_lt h)
    refine ⟨bad, fun b ok => ?_⟩
    intro partner rate
    rw [valid b ok, takeClimb_eq there]
    have state : (heardLane x set).state = x.state := rfl
    refine ⟨fun d att low => ?_, fun k told => ?_⟩
    · have attempting : (heardLane x set).attempting = true := att
      rw [state, d, attempting, if_neg (by decide), if_neg (by simp), if_pos (by simpa using low)]
      rfl
    · rw [state, k, if_neg (by decide), if_pos (by simpa using told)]
      exact ⟨_, rfl, climbTold_trains there told _ ms⟩
  · refine ⟨exec_losAssert up hl h, fun no b => ?_, ?_, fun down retry ref out => ?_⟩
    · rw [exec_losDeassert up hl h, if_neg (by rcases no with k | k <;> simp [k])]
    · rw [exec_losDeassert up hl h, if_neg (by simp)]
    · have there : ({ s with lnk := { s.lnk with lanes := s.lnk.lanes.set l { x with los := false } } } : State).lnk.lanes[l]? =
          some { x with los := false } := List.getElem?_set_self (lane_lt h)
      obtain ⟨-, y, own, r⟩ := restartLane_redone there s.lnk.maxRate
      obtain ⟨⟨-, state, ladder⟩, given, -⟩ := (restarted_tried ..).reformed r
      obtain ⟨att, failN, -⟩ := given ref
      exact ⟨_, y, (exec_losDeassert up hl h).trans (by rw [if_pos (by simp [down, retry])]), own, state, att, failN, ladder⟩
  · have no (r : Res) : whenLanes s r = .next s := if_neg (by simp [down])
    exact ⟨no _, no _, no _, no _, no _, no _, no _, no _⟩

end Sys2Proof.Machine
end
